-- ==== Sys2Proof/Word.lean ====
section
/-! DEFINITION. The word and byte of the Askath module and the sparse stores built from them. -/
namespace Sys2Proof

/-- A 32-bit register word (chapter 0, "Notation and conventions"). -/
abbrev Word := BitVec 32

/-- One byte of HBM or of the tile store. -/
abbrev Byte := BitVec 8

/-- A sparse store: key and value pairs. In canonical form the keys rise strictly and no value
equals the default of its key (`Sys2Proof.Machine.storeWf`). -/
abbrev Store (α : Type) := List (Nat × α)

end Sys2Proof
end

