-- ==== Sys2Proof/Syntax.lean ====
section
/-! DEFINITION. The commands of the module, one constructor for each row of the opcode table, with the operand types they
carry. -/
namespace Sys2Proof

/-- What the surroundings do to one command of a context as it runs: nothing, in a fault-free run. -/
structure CmdEnv where
  /-- datums whose read is not clean: physical datum and how the read ends (2 corrected, 3 uncorrectable once,
  4 uncorrectable twice; R205) -/
  ecc : List (Nat × Nat) := []
  /-- datums whose parity fails at a unit input: physical datum, mask of failed 32-bit words, producing unit (R384) -/
  parity : List (Nat × Nat × Nat) := []
  /-- bit errors of an engine: output element and the bits that flip -/
  flips : List (Nat × Nat) := []
  /-- output datums whose parity fails as they leave the engine (R386) -/
  outParity : List Nat := []
  /-- hub table words found uncorrectable as the command looks them up (R393) -/
  tbl : List Nat := []
  deriving DecidableEq, Repr

/-- What was measured over an operating minute (R437). A temperature is in 1/16 °C, two's complement in 16 bits. -/
structure Minute where
  /-- sensor, largest sample, its fabric time, smallest sample, its fabric time -/
  temps : List (Nat × Nat × Nat × Nat × Nat) := []
  /-- rail, mean of the samples in mV, largest, its fabric time, smallest, its fabric time -/
  rails : List (Nat × Nat × Nat × Nat × Nat × Nat) := []
  /-- lane, corrected symbols, symbols received, uncorrectable codewords -/
  lanes : List (Nat × Nat × Nat × Nat) := []
  /-- highest input power in W, lowest and highest input voltage in mV -/
  pin : Nat := 0
  vinLow : Nat := 0
  vinHigh : Nat := 0
  deriving DecidableEq, Repr

/-- What a boot finds damaged in MRAM: nothing, in a fault-free run. -/
structure BootEnv where
  /-- firmware copies that fail verification (R515) -/
  fwBad : List Nat := []
  /-- state copies of unit history that are invalid (R447) -/
  copyBad : List Nat := []
  /-- checkpoint slots that are invalid, newest slot first (R440) -/
  ckptBad : List Nat := []
  /-- lines of the operating-time ring that are invalid (R433) -/
  opBad : List Nat := []
  deriving DecidableEq, Repr

end Sys2Proof

namespace Sys2Proof.Machine

/-- A logical shard as the continuity section gives it (R325, R344). -/
structure ShardInfo where
  lsid : Nat
  path : Nat
  replica : Nat
  home : Nat
  stripe : Nat
  plen : Nat
  tplen : Nat
  /-- tumbler window, in units of 64 tumblers -/
  twin : Nat
  /-- flow contexts assigned to the shard: index and words -/
  flows : List (Nat × List Nat)
  deriving DecidableEq, Repr

/-- A continuity group (R49, R325, R354). -/
structure ContGroup where
  /-- global identifiers by original rank -/
  members : List Nat
  /-- live mask by original rank -/
  live : Nat
  gmin : Nat
  shards : List ShardInfo
  /-- headroom slots in their order of use: original rank, partition, entry -/
  headroom : List (Nat × Nat × Nat)
  /-- those of them that hold a shard -/
  used : List (Nat × Nat × Nat)
  deriving DecidableEq, Repr

/-- What the content of an image section sets. The manual names the fields of each section (Table 17.3) and gives their
content no byte layout. -/
structure SecBody where
  /-- register words it sets: address and value -/
  regs : List (Nat × Nat) := []
  /-- FLOWS: flow contexts, index and words -/
  flows : List (Nat × List Nat) := []
  /-- PROGRAMS: unit of the partition's stack and bytes -/
  mem : List (Nat × List Nat) := []
  /-- GRID: logical shards of the job -/
  grid : List Nat := []
  /-- CONTINUITY: groups, and the index of the module's own -/
  groups : List ContGroup := []
  own : Nat := 0
  /-- FUSION: D -/
  devices : Nat := 0
  /-- HOSTING: h -/
  h : Nat := 0
  /-- JOB: flow quota, Dorounte shape mode, echo of the job identifier and generation -/
  quota : Nat := 0
  dorounte : Bool := false
  jobId : Nat := 0
  gen : Nat := 0
  /-- MEMORY: handoff buffers at each of the five boundaries (R43) -/
  buffers : List Nat := []
  deriving DecidableEq, Repr

/-- A section of an image: its 16-byte header, its content and padding as bytes, whether its CRC fails in the second pass,
and what its content sets. -/
structure ImgSection where
  hdr : List Nat
  bytes : List Nat
  pad : List Nat
  changed : Bool
  body : SecBody
  deriving DecidableEq, Repr

/-- An image as the module fetches it: 128-byte header, 64-byte signature block, sections (R484). -/
structure Image where
  hdr : List Nat
  sig : List Nat
  secs : List ImgSection
  deriving DecidableEq, Repr

end Sys2Proof.Machine

namespace Sys2Proof

/-- A command of the module, one constructor for each row of the opcode table. Operands that recur: `p` a partition, `ctx` a
context of it, `env` what the surroundings do to the command, `f` the sender (0 the physical function, 1 + v virtual
function v, 9 an agent on the module), `j` a job slot, `q` a port, `src` and `m` the global identifier of the sender and
the bytes of a control message, `e` an engine of partition `p`, `n` and `w` the number of a VXE operation in its program
and its operation word, `a` an address, `v` the value written, `d` a power domain, `x` a lane. -/
inductive Instr where
  /-- POWER_ON (R515): When the 48 V input rises through 40 V, the module runs the power-on sequence: boot ROM,
  firmware verification, rebuild of unit history, PLL lock, partition power-up and release of MOD_READY. -/
  | powerOn (env : BootEnv)
  /-- UNDERVOLTAGE (R506): Input below 38 V for 100 µs stops compute clocks, writes OPMIN, flushes staging and turns
  every switched domain off. -/
  | undervoltage (mv : Nat) (us : Nat)
  /-- OVERVOLTAGE (R506): Input above 61 V for 100 µs shuts down as for undervoltage and also asserts MOD_FAULT#. -/
  | overvoltage (mv : Nat) (us : Nat)
  /-- UNDERVOLTAGE_RECOVERY (R506): After the input has been at 40 V or above for 100 ms, the module reboots through
  steps 3 to 7 of the module reset. -/
  | undervoltageRecovery (env : BootEnv)
  /-- OVERVOLTAGE_RECOVERY (R506): After the input has stayed below 59 V for 1 s, the module resumes after an
  overvoltage. -/
  | overvoltageRecovery (env : BootEnv)
  /-- UV_WARNING (R505): Input in the 38 V to 40 V warning band sets UV_SEEN and writes an event. -/
  | uvWarning (mv : Nat)
  /-- RAIL_OUT_OF_REGULATION (R509): A rail outside ±5 % of its set point for 10 µs takes a partition or module reset
  and writes a POWER record. -/
  | railOutOfRegulation (r : Nat) (mv : Nat) (us : Nat)
  /-- PLL_LOCK_LOSS (R517): A partition PLL that loses lock takes a partition reset of its partition, sets PLL_LOSS
  and writes a POWER record. -/
  | pllLockLoss (p : Nat)
  /-- TEMP_SENSOR_SAMPLE (R510): Every 1 ms each temperature sensor is read; an invalid reading marks the sensor not
  VALID. -/
  | tempSensorSample (rs : List (Nat × Nat × Bool))
  /-- THERM_TRIP_NOT_REMOVED (R523): If input is still present 1 s after a trip, the module asserts MOD_FAULT# and
  holds its clocks stopped. -/
  | thermTripNotRemoved
  /-- STACK_TEMP_SAMPLE (R189): Every 1 ms the controller reads the stack temperature. -/
  | stackTempSample (p : Nat) (v : Nat)
  /-- POWER_SAMPLE (R519): Every 10 µs input power is sampled and the 100 µs average PIN is updated. -/
  | powerSample (w : Nat) (vin : Nat) (static : Nat) (rails : List (Nat × Nat))
  /-- THROTTLE_STEP (R520): At each 100 µs boundary the cap throttle lowers or raises each die's issue duty against
  CAP_W and the 1,550 W limit. -/
  | throttleStep
  /-- DOMAIN_PREWAKE (R183): From its lookahead, the Cam requests a wake of a domain in A1 or A2 ahead of the command
  that needs it. -/
  | domainPrewake (d : Nat)
  /-- DOMAIN_A1_ENTRY (R183): A domain idle for A1_IDLE cycles with no scanned need enters A1. -/
  | domainA1Entry (d : Nat)
  /-- DOMAIN_A2_ENTRY (R183): A domain idle for A2_IDLE cycles, and not needed for that long, enters A2. -/
  | domainA2Entry (d : Nat)
  /-- PARTITION_IDLE_A2 (R513): The Keeper puts a partition of no loaded slot into A2 after 10 ms idle. -/
  | partitionIdleA2 (p : Nat)
  /-- DOMAIN_WAKE_TIMEOUT (R513): A domain not in A0 within 1 ms of its wake request causes a partition or module
  reset, sets FAIL_WAKE and writes a POWER record. -/
  | domainWakeTimeout (d : Nat)
  /-- A3_ENTER (R514): ENTER in PWR_A3 takes the module to A3 when no slot is loaded and no operation is open;
  otherwise it sets REFUSED. -/
  | a3Enter (f : Nat)
  /-- A3_EXIT (R514): EXIT in PWR_A3 leaves A3: PLLs lock, memories are zero-filled and ports begin training. -/
  | a3Exit (f : Nat)
  /-- DOMAIN_SLEEP_REQUEST (R526): SLEEP in PWR_DOM_d requests A2 for a domain, or is ignored and counted when a
  loaded slot uses it. -/
  | domainSleepRequest (f : Nat) (d : Nat)
  /-- DOMAIN_HOLD_AWAKE (R526): A write of HOLD_AWAKE wakes the domain at once and keeps it out of A1 and A2. -/
  | domainHoldAwake (f : Nat) (d : Nat) (hold : Bool)
  /-- CAP_WRITE (R520): A write to CAP_W takes effect at once for the throttle, and at the next hinge for the job
  clock. -/
  | capWrite (f : Nat) (w : Nat)
  /-- PWR_CYCLE_REQ_TIMEOUT (R22): Power not removed within 2 s of PWR_CYCLE_REQ#: the Keeper asserts MOD_FAULT#,
  records the miss and holds the module in module reset. -/
  | pwrCycleReqTimeout
  /-- KPR_ESC_CLEAR_WRITE (R22): Writing CLEAR releases PWR_CYCLE_REQ# and MOD_FAULT#, clears the escalation counts
  and HELD, and lets a held module finish its boot. -/
  | kprEscClearWrite (f : Nat) (env : BootEnv)
  /-- CMD_NOP (R150): A NOP completes at issue, serving only to wait and to bump. -/
  | cmdNop (p : Nat) (ctx : Nat)
  /-- MXE_ACCUMULATE (R105): A matrix command in accumulate mode walks rounds, row groups and K chunks, forming FP32
  accumulator tiles with the column-sum check. -/
  | mxeAccumulate (p : Nat) (ctx : Nat) (env : CmdEnv)
  /-- MXE_FP32 (R99): A matrix command in mode FP32 runs the three-pass split product for each chunk. -/
  | mxeFp32 (p : Nat) (ctx : Nat) (env : CmdEnv)
  /-- MXE_PRELOAD (R107): A preload loads the first record at W_ADDR into each named engine's shadow buffer and
  completes without computing. -/
  | mxePreload (p : Nat) (ctx : Nat) (env : CmdEnv)
  /-- CMD_VXE (R122): A vector command reads its program into the named engines and processes its input tiles in
  groups. -/
  | cmdVxe (p : Nat) (ctx : Nat) (env : CmdEnv)
  /-- VXE_GROUP_START (R126): A group of input tiles starts on the first named engine that becomes free, which runs
  the whole program over it. -/
  | vxeGroupStart (p : Nat) (rerun : Bool)
  /-- VXE_OP_MOV (R131): MOV copies operand a to the destination. -/
  | vxeOpMov (p : Nat) (e : Nat) (n : Nat) (w : Nat)
  /-- VXE_OP_ADD (R131): ADD writes a + b, rounded once. -/
  | vxeOpAdd (p : Nat) (e : Nat) (n : Nat) (w : Nat)
  /-- VXE_OP_SUB (R131): SUB writes a − b, rounded once. -/
  | vxeOpSub (p : Nat) (e : Nat) (n : Nat) (w : Nat)
  /-- VXE_OP_MUL (R131): MUL writes a × b, rounded once. -/
  | vxeOpMul (p : Nat) (e : Nat) (n : Nat) (w : Nat)
  /-- VXE_OP_FMA (R131): FMA writes a × b + c with a single rounding. -/
  | vxeOpFma (p : Nat) (e : Nat) (n : Nat) (w : Nat)
  /-- VXE_OP_MAX (R132): MAX writes the larger of a and b under the NaN and signed-zero rules. -/
  | vxeOpMax (p : Nat) (e : Nat) (n : Nat) (w : Nat)
  /-- VXE_OP_MIN (R132): MIN writes the smaller of a and b under the NaN and signed-zero rules. -/
  | vxeOpMin (p : Nat) (e : Nat) (n : Nat) (w : Nat)
  /-- VXE_OP_ABS (R131): ABS clears the sign of a. -/
  | vxeOpAbs (p : Nat) (e : Nat) (n : Nat) (w : Nat)
  /-- VXE_OP_NEG (R131): NEG writes −a. -/
  | vxeOpNeg (p : Nat) (e : Nat) (n : Nat) (w : Nat)
  /-- VXE_OP_SEL (R131): SEL writes b where a > 0, and c otherwise. -/
  | vxeOpSel (p : Nat) (e : Nat) (n : Nat) (w : Nat)
  /-- VXE_OP_CMASK (R133): CMASK writes −∞ at positions beyond the causal boundary set by the offset. -/
  | vxeOpCmask (p : Nat) (e : Nat) (n : Nat) (w : Nat)
  /-- VXE_OP_CVT (R134): CVT rounds each element to the grid of a narrow format and holds it as FP32. -/
  | vxeOpCvt (p : Nat) (e : Nat) (n : Nat) (w : Nat)
  /-- VXE_OP_EXP (R135): EXP writes the correctly rounded e^a. -/
  | vxeOpExp (p : Nat) (e : Nat) (n : Nat) (w : Nat)
  /-- VXE_OP_EXP2 (R135): EXP2 writes the correctly rounded 2^a. -/
  | vxeOpExp2 (p : Nat) (e : Nat) (n : Nat) (w : Nat)
  /-- VXE_OP_RCP (R135): RCP writes the correctly rounded 1 ÷ a. -/
  | vxeOpRcp (p : Nat) (e : Nat) (n : Nat) (w : Nat)
  /-- VXE_OP_RSQRT (R135): RSQRT writes the correctly rounded 1 ÷ √a. -/
  | vxeOpRsqrt (p : Nat) (e : Nat) (n : Nat) (w : Nat)
  /-- VXE_OP_SQRT (R135): SQRT writes the correctly rounded √a. -/
  | vxeOpSqrt (p : Nat) (e : Nat) (n : Nat) (w : Nat)
  /-- VXE_OP_LOG (R135): LOG writes the correctly rounded ln a. -/
  | vxeOpLog (p : Nat) (e : Nat) (n : Nat) (w : Nat)
  /-- VXE_OP_TANH (R135): TANH writes the correctly rounded tanh a. -/
  | vxeOpTanh (p : Nat) (e : Nat) (n : Nat) (w : Nat)
  /-- VXE_OP_SIGMOID (R135): SIGMOID writes the correctly rounded logistic function of a. -/
  | vxeOpSigmoid (p : Nat) (e : Nat) (n : Nat) (w : Nat)
  /-- VXE_OP_SILU (R135): SILU writes the correctly rounded a × sigmoid(a). -/
  | vxeOpSilu (p : Nat) (e : Nat) (n : Nat) (w : Nat)
  /-- VXE_OP_GELU (R135): GELU writes the correctly rounded tanh-form GELU of a. -/
  | vxeOpGelu (p : Nat) (e : Nat) (n : Nat) (w : Nat)
  /-- VXE_OP_ROWSUM (R136): ROWSUM reduces each row by the fixed tree of additions into a vector register. -/
  | vxeOpRowsum (p : Nat) (e : Nat) (n : Nat) (w : Nat)
  /-- VXE_OP_ROWMAX (R136): ROWMAX reduces each row by maximum into a vector register. -/
  | vxeOpRowmax (p : Nat) (e : Nat) (n : Nat) (w : Nat)
  /-- VXE_OP_COLSUM (R136): COLSUM reduces each column by the fixed tree of additions. -/
  | vxeOpColsum (p : Nat) (e : Nat) (n : Nat) (w : Nat)
  /-- VXE_OP_COLMAX (R136): COLMAX reduces each column by maximum. -/
  | vxeOpColmax (p : Nat) (e : Nat) (n : Nat) (w : Nat)
  /-- VXE_OP_VSUM (R136): VSUM reduces one vector by sum into element 0. -/
  | vxeOpVsum (p : Nat) (e : Nat) (n : Nat) (w : Nat)
  /-- VXE_OP_VMAX (R136): VMAX reduces one vector by maximum into element 0. -/
  | vxeOpVmax (p : Nat) (e : Nat) (n : Nat) (w : Nat)
  /-- VXE_OP_LDV (R138): LDV loads a 128-element FP32 vector from VEC_ADDR, indexed by the tile's nt or mt. -/
  | vxeOpLdv (p : Nat) (e : Nat) (n : Nat) (w : Nat)
  /-- VXE_OP_STV (R138): STV stores a vector register to VOUT_ADDR, indexed by the tile's nt or mt. -/
  | vxeOpStv (p : Nat) (e : Nat) (n : Nat) (w : Nat)
  /-- VXE_OP_SPUT (R142): SPUT writes element 0 of a vector into a shard scalar of the current hosting entry. -/
  | vxeOpSput (p : Nat) (e : Nat) (n : Nat) (w : Nat)
  /-- UPD_SGD (R217): An update command in mode SGD applies the momentum recurrence to an extent and writes its
  records. -/
  | updSgd (p : Nat) (ctx : Nat) (env : CmdEnv)
  /-- UPD_FACTORED (R217): An update command in mode FACTORED computes row and column statistics, clips, and applies
  the adaptive recurrence. -/
  | updFactored (p : Nat) (ctx : Nat) (env : CmdEnv)
  /-- UPD_SAMPLE_CROSSCHECK (R395): A sampled record is recomputed on the sibling UPD once that UPD finishes its
  current record, and every output bit is compared. -/
  | updSampleCrosscheck (p : Nat) (flips : List (Nat × Nat))
  /-- CMD_MOVE (R153): MOVE copies COUNT elements from SRC_ADDR to OUT_ADDR, converting format under OCVT. -/
  | cmdMove (p : Nat) (ctx : Nat) (env : CmdEnv)
  /-- CMD_SEND (R154): SEND cuts LEN units into packets to a logical shard, through the rekey table, as internal or
  fabric packets. -/
  | cmdSend (p : Nat) (ctx : Nat) (env : CmdEnv)
  /-- COLL_REDUCE_SCATTER (R300): A reduce-scatter exchanges slices with peers and forms this rank's slice in fixed
  order. -/
  | collReduceScatter (p : Nat) (ctx : Nat) (env : CmdEnv)
  /-- COLL_ALL_GATHER (R300): An all-gather exchanges slices so that every rank holds every slice bit-exactly. -/
  | collAllGather (p : Nat) (ctx : Nat) (env : CmdEnv)
  /-- COLL_ALL_REDUCE (R300): An all-reduce reduce-scatters and then all-gathers the result slices. -/
  | collAllReduce (p : Nat) (ctx : Nat) (env : CmdEnv)
  /-- COLL_STAGE_READY (R300): RTUMB reaches a staging target, and the engine combines or forwards the staged portions
  it covers. -/
  | collStageReady (place : Nat)
  /-- MOE_DISPATCH (R156): A MOE dispatch admits tokens to expert slots in token order up to CAP, drops the rest, and
  writes positions, counts and drops. -/
  | moeDispatch (p : Nat) (ctx : Nat) (env : CmdEnv)
  /-- MOE_COMBINE (R157): A MOE combine gathers slot rows back to tokens and forms gate-weighted sums in ascending
  choice. -/
  | moeCombine (p : Nat) (ctx : Nat) (env : CmdEnv)
  /-- CMD_STEP_END (R171): STEP_END completes the entry's step and takes the snapshot of every tumbler in its window.
  -/
  | cmdStepEnd (p : Nat) (ctx : Nat)
  /-- MALFORMED_DESCRIPTOR_HALT (R160): A malformed descriptor that reaches the head of its queue puts the context in
  FAULT, or halts a ring, and writes a record. -/
  | malformedDescriptorHalt (p : Nat) (ctx : Nat)
  /-- COMMAND_COMPLETE (R169): A command's writes are accepted, and its SIG bumps are applied to its tumblers. -/
  | commandComplete (p : Nat) (ctx : Nat) (idx : Nat)
  /-- WAIT_TIMEOUT (R177): A command held WAIT_TIMEOUT past its due cycle writes one event and keeps waiting. -/
  | waitTimeout (p : Nat) (ctx : Nat)
  /-- TMB_VALUE_WRITE (R188): A host write to TMB_VALUE sets the tumbler as a bump, or is ignored and counted while an
  owning context runs. -/
  | tmbValueWrite (f : Nat) (p : Nat) (n : Nat) (v : Nat)
  /-- RING_DOORBELL (R185): A TAIL write posts ring descriptors for issue; on an off or halted ring it is ignored and
  counted. -/
  | ringDoorbell (f : Nat) (p : Nat) (m : Nat) (v : Nat)
  /-- RING_ENABLE (R185): ENABLE = 1 turns a ring on, or fails with ENABLE_ERR if its window overlaps another. -/
  | ringEnable (f : Nat) (p : Nat) (m : Nat)
  /-- RING_DISABLE (R187): ENABLE = 0 turns a ring off, clearing a halt and setting HEAD to TAIL. -/
  | ringDisable (f : Nat) (p : Nat) (m : Nat)
  /-- JOB_SCALAR_WRITE (R141): A job scalar write goes to the shadow for the next hinge, or takes effect at once when
  no loaded slot owns the partition. -/
  | jobScalarWrite (f : Nat) (p : Nat) (n : Nat) (hi : Bool) (v : Nat)
  /-- UPD_ETA_WRITE (R230): A step-size write pends for the next latch, completes an open latch at once, or is ignored
  if non-finite. -/
  | updEtaWrite (f : Nat) (p : Nat) (v : Nat)
  /-- ETA_TIMEOUT (R232): A latch still open ETA_TIMEOUT after the issue base sets ETA_MISSING and writes one record.
  -/
  | etaTimeout (p : Nat)
  /-- ARRIVAL_INSTANT (R178): When every counted entry has completed STEP_END, the module applies hinge items 1 to 7,
  computes its earliest start and sends its ready notice. -/
  | arrivalInstant (j : Nat) (dynJ : Nat)
  /-- HASP_PHASE1_COMPLETE (R330): Every chunk the module holds has arrived and verified, so the slot enters WRITTEN
  and the ready notice goes with ACK. -/
  | haspPhase1Complete (j : Nat)
  /-- READY_NOTICE (R178): A child's ready notice is merged, forwarded once all children have reported, or at the root
  turned into a release with T. -/
  | readyNotice (src : Nat) (m : List Nat)
  /-- HOLD_NOTICE (R181): A hold notice suspends barrier timeouts up the tree while a replay runs. -/
  | holdNotice (src : Nat) (m : List Nat)
  /-- HINGE_RELEASE (R178): The release sets CAM_ISSUE_BASE to T, resets entries to position 0 with STEP k + 1, and
  carries COMMIT and COMMIT_NEXT. -/
  | hingeRelease (src : Nat) (m : List Nat)
  /-- STEP_START (R178): Fabric time reaches T and the step counter starts, or the module starts at once with BASE
  slips if the release came late. -/
  | stepStart (j : Nat)
  /-- HINGE_TIMEOUT (R179): No release within MARGIN plus TIMEOUT of arrival sets HINGE_TIMEOUT and reports the
  children that have not reported. -/
  | hingeTimeout (j : Nat)
  /-- MTBF_WRITE (R336): A write to HSP_J_j_MTBF sets the root's smoothed M directly and recomputes the interval. -/
  | mtbfWrite (f : Nat) (j : Nat) (v : Nat)
  /-- REGISTER_WRITE (R16): A write to a register with no behaviour of its own follows its access code, goes to its
  shadow where it has one, and is ignored and counted when locked. -/
  | registerWrite (f : Nat) (a : Nat) (v : Nat)
  /-- TABLE_SHADOW_WRITE (R271): A host write to a table shadow bank is stored, or is ignored with WRITE_IGNORED
  during the post-swap copy or a TABLE_LOAD. -/
  | tableShadowWrite (f : Nat) (a : Nat) (v : Nat)
  /-- TABLE_SWAP_ARM (R271): Writing ARM or DEST_ARM in FAB_TBL_CTRL arms the swap of a slot's tables at its next
  hinge. -/
  | tableSwapArm (f : Nat) (v : Nat)
  /-- TABLE_COPY_COMPLETE (R271): The copy of new active tables into the shadow banks finishes, and COPY_BUSY clears.
  -/
  | tableCopyComplete
  /-- CODEWORD_RECEIVE (R246): A received codeword is decoded, its units are taken into the data stream, or it is
  discarded with a NAK when uncorrectable or after a missing SEQ. -/
  | codewordReceive (q : Nat) (lane : Nat) (bad : Bool) (fec : Nat) (seq : Nat) (cmask : Nat) (units : List Nat)
  /-- LINK_ACK (R244): A cumulative ACK frees acknowledged codewords from the replay buffer. -/
  | linkAck (q : Nat) (seq : Nat)
  /-- LINK_NAK (R246): A NAK resends from the named SEQ, and takes the port down after RETRY_LIMIT consecutive sends.
  -/
  | linkNak (q : Nat) (seq : Nat)
  /-- LINK_CREDIT (R247): A CREDIT unit updates the sender's credit counts for the four virtual channels. -/
  | linkCredit (q : Nat) (c : List Nat)
  /-- LINK_TRAIN (R248): A TRAIN unit carries the partner's capability exchange during training. -/
  | linkTrain (q : Nat) (u : Nat)
  /-- LINK_LANE (R252): A LANE unit announces lanes leaving striping or rejoining after a retrain. -/
  | linkLane (q : Nat) (mask : Nat)
  /-- PORT_TRAIN_START (R248): A port that is enabled, not HELD and awake runs the training sequence through
  capability checks to UP. -/
  | portTrainStart (q : Nat) (kept : Nat) (partner : Option Nat)
  /-- PORT_TRAIN_TIMEOUT (R248): An attempt that has not reached UP by 60 ms ends with reason TIMEOUT. -/
  | portTrainTimeout (q : Nat)
  /-- PORT_TRAIN_RETRY (R248): An attempt that ended without UP is repeated every 1 s. -/
  | portTrainRetry (q : Nat) (kept : Nat) (partner : Option Nat)
  /-- PORT_DOWN (R254): A port goes down, its flows move planes and resend, and its drops are counted toward flap
  damping. -/
  | portDown (q : Nat) (reason : Nat)
  /-- DAMP_HOLD_EXPIRY (R254): When the hold time H has passed, the HELD port trains again. -/
  | dampHoldExpiry (q : Nat) (kept : Nat) (partner : Option Nat)
  /-- DAMP_QUIET_EXPIRY (R254): After DAMP_QUIET seconds of continuous UP, the port's damping level returns to 0. -/
  | dampQuietExpiry (q : Nat)
  /-- FLOW_SWITCH_HOLD_EXPIRY (R266): After SWITCH_HOLD on its new plane, a moved flow sends its held new packets. -/
  | flowSwitchHoldExpiry (n : Nat)
  /-- LANE_LOCK_LOSS (R251): A lane that loses lock leaves striping within 2 µs, retrains alone and counts a lane
  fault event. -/
  | laneLockLoss (x : Nat)
  /-- LANE_UE_LIMIT (R251): More than LANE_UE_LIMIT uncorrectable codewords in 1 s on a lane takes it out of striping
  to retrain. -/
  | laneUeLimit (x : Nat)
  /-- LANE_RETRAIN_TIMEOUT (R251): A lane retrain not complete within 60 ms keeps the lane out and tries again after 1
  s. -/
  | laneRetrainTimeout (x : Nat)
  /-- LANE_REJOIN (R252): A lane that retrained successfully rejoins striping at the next codeword boundary. -/
  | laneRejoin (x : Nat)
  /-- LANE_READMIT (R253): Writing 1 to FAB_LANE_k_READMIT gives a retired lane back at its port's next training. -/
  | laneReadmit (f : Nat) (k : Nat) (mask : Nat)
  /-- SLOT_BOUNDARY (R287): At every 256 ns slot boundary, token buckets refill, VC allowances restart and scheduled
  packets become eligible. -/
  | slotBoundary
  /-- PACKET_TRANSMIT (R286): When a port can start a packet, it picks an eligible packet that holds credit and tokens
  by VC rank and sends it. -/
  | packetTransmit (q : Nat) (par : List (Nat × Nat × Nat))
  /-- PACKET_RECEIVE (R272): A received fabric or internal packet passes the twelve receive checks and is delivered
  with its bump, or is dropped and counted. -/
  | packetReceive (q : Nat) (tbl : List Nat) (par : List (Nat × Nat × Nat)) (peers : Bool)
  /-- GAP_TIMEOUT (R273): GAP_AGE reaching GAP_TIMEOUT sets GAP, writes a record and sends a gap-mode LREQ. -/
  | gapTimeout (n : Nat)
  /-- TIME_EXCHANGE_START (R279): Every TIME_PERIOD, each UP port sends a TIME REQ. -/
  | timeExchangeStart (q : Nat)
  /-- TIME_REQ (R279): A received TIME REQ is stamped and answered with a RESP. -/
  | timeReq (q : Nat) (hops : Nat) (xseq : Nat) (t1 : Nat)
  /-- TIME_RESP (R281): A RESP yields offset and delay, which slew the counter, update VALID and LOCKED, and may
  change the source. -/
  | timeResp (q : Nat) (hops : Nat) (t1 : Nat) (t2 : Nat) (t3 : Nat)
  /-- TIME_HOLDOVER_EXPIRY (R281): HOLDOVER without an accepted exchange clears LOCKED, sets UNLOCK_SEEN and writes an
  event. -/
  | timeHoldoverExpiry
  /-- SAT_WINDOW_END (R293): At the end of each SAT_WINDOW, saturated levels set their bits and a newly saturated
  window writes an event. -/
  | satWindowEnd
  /-- BCHUNK (R306): A BCHUNK completes a chunk; a CRC match holds it, and a mismatch sets CRC_FAIL and sends BREQ to
  the parent. -/
  | bchunk (src : Nat) (m : List Nat)
  /-- BHB (R308): A BHB from a relative records that it is armed and its HELD_BELOW, and lets chunks flow to a child.
  -/
  | bhb (src : Nat) (m : List Nat)
  /-- BHB_SEND (R308): Every HB_PERIOD, an armed node sends BHB to its parent and children. -/
  | bhbSend
  /-- ATTACH (R310): An ancestor receiving ATTACH from a descendant accepts it when a context is free, and refuses it
  otherwise. -/
  | attach (src : Nat) (m : List Nat)
  /-- ATTACH_ACK (R310): An accepting ATTACH_ACK makes the ancestor the new parent, and the node asks it for the
  chunks it lacks. -/
  | attachAck (src : Nat) (m : List Nat)
  /-- BREQ (R310): A BREQ makes the parent or adopter resend the named chunks to the requester only. -/
  | breq (src : Nat) (m : List Nat)
  /-- BDONE (R311): A child's BDONE adds its sums, and the node or the root completes once every condition holds. -/
  | bdone (src : Nat) (m : List Nat)
  /-- BCAST_PARENT_LOST (R309): Three HB_PERIODs without BHB from the parent declare the parent lost, and the node
  re-attaches. -/
  | bcastParentLost (j : Nat) (handle : Nat)
  /-- BCAST_CHUNK_TIMEOUT (R309): A missing chunk below HELD_BELOW after CHUNK_TIMEOUT prompts a BREQ, and a second
  timeout declares the parent lost. -/
  | bcastChunkTimeout (j : Nat) (handle : Nat) (c : Nat)
  /-- BCAST_CHILD_LOST (R309): Three HB_PERIODs without BHB from a child declare it lost, and the node expects ATTACH
  from its children. -/
  | bcastChildLost (j : Nat) (handle : Nat) (gid : Nat)
  /-- ATTACH_TIMEOUT (R310): No acceptance within ATTACH_TIMEOUT moves to a3, or makes the node an orphan that
  completes with BROADCAST_ORPHAN. -/
  | attachTimeout (j : Nat) (handle : Nat)
  /-- UNACCOUNTED_TIMEOUT (R311): An expected node that has not attached in time is replaced by its children, or
  counted unaccounted. -/
  | unaccountedTimeout (j : Nat) (handle : Nat) (gid : Nat)
  /-- JOB_TREE_ATTACH_RETRY (R313): A module orphaned in the job tree repeats ATTACH to a2 and a3 every 1 s. -/
  | jobTreeAttachRetry (j : Nat)
  /-- HASP_CHUNK_TIMEOUT (R332): A chunk not complete within HASP_CHUNK_TIMEOUT, or failing a check, makes the holder
  send HREQ. -/
  | haspChunkTimeout (j : Nat) (p : Nat) (stripe : Nat)
  /-- HREQ (R332): An HREQ makes the owner send the whole chunk again. -/
  | hreq (src : Nat) (m : List Nat)
  /-- HSUM (R338): The group leader gathers slot summaries and decides which candidate epochs are usable in its group.
  -/
  | hsum (src : Nat) (m : List Nat)
  /-- HUSE (R338): HUSE messages merge up the job tree, and the root picks the newest usable committed epoch. -/
  | huse (src : Nat) (m : List Nat)
  /-- HPICK (R338): HPICK names the epoch, and each module rebuilds its shards from it, or completes with EPOCH_MIXED
  for none. -/
  | hpick (src : Nat) (m : List Nat)
  /-- HGET (R338): An HGET makes a chunk holder send the requested chunk units as continuity packets. -/
  | hget (src : Nat) (m : List Nat)
  /-- HFAULT (R336): An HFAULT counts a failure for the interval controller, and its ROLLBACK bit feeds RCUT. -/
  | hfault (src : Nat) (m : List Nat)
  /-- HASP_REBUILD_COMPLETE (R338): Every shard placed on the module is rebuilt, so slots are set ACTIVE, STALE or
  EMPTY and the restore completes. -/
  | haspRebuildComplete (j : Nat)
  /-- DRAIN_TIMEOUT (R340): Storage not accepting a chunk within DRAIN_TIMEOUT completes the drain with TIMEOUT and
  ends the pin. -/
  | drainTimeout (j : Nat)
  /-- GHB_SEND (R347): Every GHB_PERIOD, each member sends GHB to every other member of its group. -/
  | ghbSend (j : Nat)
  /-- GHB (R347): A received GHB resets the sender's miss count. -/
  | ghb (src : Nat) (m : List Nat)
  /-- GHB_MISS (R347): GHB_MISS silent periods make the Keeper report the member to management, repeated each second.
  -/
  | ghbMiss (j : Nat) (gid : Nat)
  /-- RCUT (R350): RCUT sets divert bits, parks unfinished entries and begins quiescence toward the recovery hinge. -/
  | rcut (src : Nat) (m : List Nat) (peers : Bool)
  /-- RECOVERY_HINGE_ARRIVAL (R353): After quiescence plus QUIESCE_US, the recovery hinge applies the generation
  change, dead list, spread rekey and entry transitions. -/
  | recoveryHingeArrival (j : Nat) (dynJ : Nat) (peers : Bool)
  /-- CUT_TIMEOUT (R350): No recovery hinge within CUT_TIMEOUT sets CUT_TIMEOUT_SEEN, and every lost shard resolves to
  ROLLBACK. -/
  | cutTimeout (j : Nat)
  /-- REPLAY_REBUILD_COMPLETE (R359): A REPLAY shard's image of epoch e is rebuilt in headroom and the entry enters
  REPLAY, or stays LOADING when e = k. -/
  | replayRebuildComplete (j : Nat) (lsid : Nat)
  /-- LREQ (R362): An LREQ makes the sender's module feed logged records of the step, or of the gap, with RSND = 1, or
  answer LNAK. -/
  | lreq (src : Nat) (m : List Nat)
  /-- LNAK (R367): An LNAK to a step feed triggers rollback, and one to a gap request kills the receiving entry. -/
  | lnak (src : Nat) (m : List Nat)
  /-- RCOPY (R368): An RCOPY makes the replica's host send the replica's persistent state after step k. -/
  | rcopy (src : Nat) (m : List Nat)
  /-- FSYNC (R368): An FSYNC sets a REPLICA shard's send SEQ or receive EXPECT from its peer. -/
  | fsync (src : Nat) (m : List Nat)
  /-- REPLICA_COPY_COMPLETE (R368): The replica copy finishes, with STEP k + 1 and zeroed tumblers, and the entry
  becomes ACTIVE at item 8. -/
  | replicaCopyComplete (j : Nat) (lsid : Nat)
  /-- RABORT (R363): RABORT travels to the root and down the whole tree, completing re-host operations with ABORTED
  and marking rollback. -/
  | rabort (src : Nat) (m : List Nat)
  /-- DEADBOLT (R375): DEADBOLT naming this module with a newer generation enters FENCED: contexts killed, entries
  freed, stores and sends refused. -/
  | deadbolt (src : Nat) (m : List Nat)
  /-- HELLO (R502): A Keeper mailbox HELLO carries the sender's version range and is answered by HELLO at the
  negotiated version. -/
  | hello (n : Nat)
  /-- ERROR_RECORD_WRITE (R380): The Keeper writes a detection's error record into the ring, raises the interrupt, and
  may assert MOD_ALERT#. -/
  | errorRecordWrite
  /-- D2D_RETRY (R385): A die-to-die endpoint that saw a mismatch receives the transfer again and delivers it clean.
  -/
  | d2dRetry (unit : Nat) (addr : Nat) (mask : Nat) (prod : Nat)
  /-- MIGRATION_COMPLETE (R210): The last granule is copied, the unit becomes RETIRED, and an event and a unit history
  entry are written. -/
  | migrationComplete (p : Nat) (hbm : Bool) (ecc : List (Nat × Nat))
  /-- EXPOSURE_SAMPLE (R405): Each second while a domain is on, the Keeper adds to the exposure of the current band on
  each axis. -/
  | exposureSample (activity : List (Nat × Nat))
  /-- TWO_KEY_CHECK (R398): The failing engine recomputes the held tile or record from its operands. -/
  | twoKeyCheck (p : Nat) (eng : Nat) (flips : List (Nat × Nat))
  /-- TWO_KEY_SIBLING_REPEAT (R398): When the sibling's current group ends, the sibling recomputes the held tile. -/
  | twoKeySiblingRepeat (p : Nat) (eng : Nat) (flips : List (Nat × Nat))
  /-- TWO_KEY_OUTCOME (R399): Both repeats are compared, and the outcome releases a result or poison, counts
  detections and writes a TWO_KEY record. -/
  | twoKeyOutcome (p : Nat) (eng : Nat)
  /-- SCRUB_READ (R207): Patrol scrub reads a datum, corrects and writes it back, or poisons it when it is
  uncorrectable twice. -/
  | scrubRead (p : Nat) (hbm : Bool) (how : Nat)
  /-- HANG_DETECT (R424): A unit that holds work and completes nothing for HANG_US causes a context reset of the
  oldest context it holds. -/
  | hangDetect (u : Nat)
  /-- CONTEXT_RESET (R413): A context's work is discarded, its bumps are dropped, and the entry enters KILLED or the
  ring halts. -/
  | contextReset (p : Nat) (ctx : Nat)
  /-- ENGINE_RESET (R414): The unit's contexts are reset, its logic is returned to defaults, and its self-test runs.
  -/
  | engineReset (u : Nat)
  /-- ENGINE_SELF_TEST_DONE (R414): A unit that passes brings itself back online; one that fails is classified
  permanent. -/
  | engineSelfTestDone (u : Nat) (pass : Bool)
  /-- PARTITION_RESET (R415): The partition's contexts are reset, HBM is retained or zero-filled, logic and tile store
  are reset, and the domains return to A0. -/
  | partitionReset (p : Nat)
  /-- MODULE_RESET (R416): Every switched domain and the Keeper cores reset, images unload, the Keeper reboots and
  MOD_READY is released. -/
  | moduleReset (env : BootEnv)
  /-- POWER_CYCLE_REQUEST (R417): The Keeper writes its last-reset record and boot cause, then asserts PWR_CYCLE_REQ#.
  -/
  | powerCycleRequest
  /-- PCIE_CONVENTIONAL_RESET (R418): PERST#, hot reset or link down resets only host-interface state, and completions
  are held. -/
  | pcieConventionalReset (how : Nat)
  /-- FUNCTION_LEVEL_RESET (R473): An FLR of a VF disables its ring and clears its operation area, and its open
  operations continue. -/
  | functionLevelReset (f : Nat)
  /-- RESET_BOUND_EXPIRY (R425): A reset that exceeds its bound, or fails to cure, escalates to the next step of the
  ladder. -/
  | resetBoundExpiry (kind : Nat) (p : Nat) (ctx : Nat) (unit : Nat)
  /-- CC_HEARTBEAT_SAMPLE (R420): Each CC_PERIOD the Keeper samples the control-core heartbeats, and CC_MISS misses
  take an engine reset of the control core. -/
  | ccHeartbeatSample (p : Nat) (beats : Nat)
  /-- KEEPER_WATCHDOG (R421): KPR_MISS periods without a Keeper heartbeat make the always-on sequencer take a module
  reset. -/
  | keeperWatchdog
  /-- WATCHDOG_BOOT_TIMEOUT (R421): No Keeper beat by 2 s after a module reset makes the sequencer assert
  PWR_CYCLE_REQ#. -/
  | watchdogBootTimeout
  /-- LOCKSTEP_MISMATCH (R422): A mismatch between the Keeper cores takes a module reset with trigger 0x06 and queues
  two records. -/
  | lockstepMismatch
  /-- CLOCK_FAULT (R422): The 100 MHz oscillator deviating more than ±1 % over 10 ms takes a module reset with trigger
  0x07. -/
  | clockFault
  /-- I3C_TARGET_FAULT (R422): A fault of the I3C target logic is cleared by resetting that logic alone. -/
  | i3cTargetFault
  /-- RST_REQ_CONTEXT (R412): KPR_RST_REQ GO with scope context takes a context reset of the named context. -/
  | rstReqContext (f : Nat) (p : Nat) (ctx : Nat)
  /-- RST_REQ_ENGINE (R412): KPR_RST_REQ GO with scope engine takes an engine reset of the named unit. -/
  | rstReqEngine (f : Nat) (p : Nat) (eng : Nat) (hub : Bool)
  /-- RST_REQ_PARTITION (R412): KPR_RST_REQ GO with scope partition takes a partition reset. -/
  | rstReqPartition (f : Nat) (p : Nat)
  /-- RST_REQ_MODULE (R412): KPR_RST_REQ GO with scope module takes a module reset. -/
  | rstReqModule (f : Nat)
  /-- RST_REQ_POWER_CYCLE (R412): KPR_RST_REQ GO with scope power cycle requests a power cycle. -/
  | rstReqPowerCycle (f : Nat)
  /-- ERR_RING_HEAD_WRITE (R381): A write of KPR_ERR_HEAD frees the error-ring records that have been read. -/
  | errRingHeadWrite (f : Nat) (v : Nat)
  /-- OPMIN_TICK (R433): Each operating minute OPMIN advances, is written to the ring, and the minute's bins are
  filled. -/
  | opminTick (m : Minute)
  /-- DAY_CLOSE (R438): OPMIN reaching a multiple of 1,440 stages the day's records and writes exposure entries. -/
  | dayClose
  /-- MONTH_CLOSE (R439): OPMIN reaching a multiple of 43,200 writes the monthly records to the lifetime tier, or to
  the recent tier when it is full. -/
  | monthClose
  /-- ACCUMULATOR_CHECKPOINT (R440): Every 60 operating minutes the open accumulators are written to the oldest
  checkpoint slot. -/
  | accumulatorCheckpoint
  /-- RECORDER_FLUSH (R444): Staged records and detection entries are written to MRAM on the timer, at 192 staged, at
  a close, before a power cycle, or on a trip. -/
  | recorderFlush (bad : List Nat)
  /-- STATE_COPY_WRITE (R447): The Keeper writes the older unit-history state copy after a change, or every 10 minutes
  when something has changed. -/
  | stateCopyWrite
  /-- OP_IMAGE_LOAD (R493): IMAGE_LOAD fetches, verifies and checks a job image in two passes, writing shadows and
  programs. -/
  | opImageLoad (f : Nat) (img : Option Machine.Image)
  /-- IMAGE_LOAD_COMMIT (R493): Once pass 2 ends and VALID is set, shadows take effect, RWL fields lock, entries go
  ACTIVE and foreign Hasp slots are zeroed. -/
  | imageLoadCommit
  /-- IMAGE_LOAD_VALID_TIMEOUT (R283): A load that waits 10 s without fabric time VALID fails with TIMEOUT. -/
  | imageLoadValidTimeout
  /-- OP_IMAGE_UNLOAD (R498): IMAGE_UNLOAD aborts the slot's operations, resets its contexts, clears its tables and
  zero-fills every region except the Hasp slots. -/
  | opImageUnload (f : Nat)
  /-- OP_TABLE_LOAD (R499): TABLE_LOAD verifies a table image, writes the shadow banks and arms the swap and
  generation change for the next hinge. -/
  | opTableLoad (f : Nat) (img : Option Machine.Image) (peers : Bool)
  /-- OP_PROGRAM_LOAD (R160): PROGRAM_LOAD checks every descriptor and writes a program for a hosting entry. -/
  | opProgramLoad (f : Nat) (prog : Option (List Nat))
  /-- OP_BROADCAST (R308): BROADCAST arms this node of a tree broadcast and takes flow contexts from the pool. -/
  | opBroadcast (f : Nat)
  /-- OP_HASP_DRAIN (R340): HASP_DRAIN pins a committed slot and writes rebuilt shard images to storage. -/
  | opHaspDrain (f : Nat) (bufs : List Nat)
  /-- OP_HASP_RESTORE (R338): HASP_RESTORE verifies both slots and sends HSUM toward the group leader to select a
  usable epoch. -/
  | opHaspRestore (f : Nat)
  /-- OP_DURABLE_RESTORE (R341): DURABLE_RESTORE reads and checks every durable chunk of each placed shard, retrying
  refused chunks up to three times. -/
  | opDurableRestore (f : Nat) (objs : List (Nat × List (List (List Nat))))
  /-- OP_REHOST (R348): REHOST declares a lost module; the group leader sends HFAULT and the root sends RCUT. -/
  | opRehost (f : Nat) (added : List Nat) (peers : Bool)
  /-- OP_SELF_TEST (R469): SELF_TEST runs the built-in tests of the named units, or completes with BUSY when they host
  a loaded job. -/
  | opSelfTest (f : Nat) (fails : List Nat)
  /-- OP_RECORDER_READ (R451): RECORDER_READ copies a recorder target into a host buffer, counting CRC failures and
  skipped records. -/
  | opRecorderRead (f : Nat) (bad : List (Nat × List Nat)) (aged : List Nat)
  /-- UHS_READMIT (R449): The READMIT edit clears a unit's retired or CONDITIONAL state and removes its detection
  entries. -/
  | uhsReadmit (f : Nat)
  /-- UHS_CLEAR_HEALTH (R449): The CLEAR_HEALTH edit sets a partition or the module HEALTHY. -/
  | uhsClearHealth (f : Nat)
  /-- UHS_CLEAR_COND (R408): The CLEAR_COND edit clears a unit's CONDITIONAL state and removes its guard at the next
  hinge. -/
  | uhsClearCond (f : Nat)
  /-- OP_ABORT (R470): ABORT ends an open target operation with ABORTED, or completes with BUSY past the target's
  point of no return. -/
  | opAbort (f : Nat)
  /-- OP_COMPLETION_POST (R472): An ended operation's completion entry is written at TAIL and MSI-X vector 0 is
  raised, or the completion is held. -/
  | opCompletionPost
  /-- CQ_HEAD_WRITE (R472): A HEAD write frees completion-ring entries. -/
  | cqHeadWrite (f : Nat) (v : Nat)
  /-- CQ_ENABLE (R472): Enabling the completion ring sets HEAD and TAIL to 0 and the lap to 1. -/
  | cqEnable (f : Nat) (v : Nat)
  /-- HOST_HBM_READ (R463): A BAR2 read reaches module HBM through ECC and remap, or is refused with Unsupported
  Request. -/
  | hostHbmRead (f : Nat) (x : Nat) (n : Nat) (env : CmdEnv)
  /-- HOST_HBM_WRITE (R463): A BAR2 write reaches module HBM, poison included, or is refused, dropped and counted. -/
  | hostHbmWrite (f : Nat) (x : Nat) (l : List Nat) (psn : Bool)
  /-- MBX_SEND (R476): A well-formed write of a mailbox DATA delivers a stamped message, advances SEQ, sets FULL and
  notifies the receiver. -/
  | mbxSend (n : Nat) (who : Nat) (off : Nat) (enabled : Bool) (l : List Nat)
  /-- MBX_TAKE (R478): TAKE with GO clears FULL when its SEQ matches the current SEQ. -/
  | mbxTake (n : Nat) (who : Nat) (v : Nat)
  /-- REMOTE_MAILBOX_SEND (R480): MBX_RSEND_CTRL GO forms a management-class packet to a remote mailbox within 2 µs.
  -/
  | remoteMailboxSend (f : Nat) (v : Nat)
  /-- IRQ_RAISE (R482): A pending MSI-X vector is raised once its moderation interval has passed. -/
  | irqRaise (f : Nat) (v : Nat)
  /-- COUNTER_CLEAR (R532): A clear of one counter by INDEX zeroes its value and OVF and re-arms the saturation event.
  -/
  | counterClear (f : Nat) (p : Nat) (n : Nat)
  /-- COUNTER_CLEAR_ALL (R532): A clear with ALL zeroes every counter of the block. -/
  | counterClearAll (f : Nat) (p : Nat)
  /-- TRACE_ARM (R541): ARM puts the trace store in RECORDING, or leaves FROZEN with GAP and TIME records. -/
  | traceArm (f : Nat) (p : Nat)
  /-- TRACE_TRIGGER (R541): A trigger stores a TRIGGER record, marks its position, enters TRIGGERED, and freezes after
  POST records. -/
  | traceTrigger (f : Nat) (p : Nat)
  /-- TAP_EXTEST (R543): EXTEST drives the boundary-scan register on the sideband pins. -/
  | tapExtest (v : Nat)
  /-- TAP_SAMPLE_PRELOAD (R543): SAMPLE/PRELOAD captures or preloads the boundary-scan register. -/
  | tapSamplePreload (v : Nat)
  /-- TAP_IDCODE (R543): IDCODE shifts out the 32-bit identification code. -/
  | tapIdcode
  /-- TAP_HIGHZ (R543): HIGHZ places the outputs in high impedance with the bypass register selected. -/
  | tapHighz
  /-- TAP_CLAMP (R543): CLAMP holds the outputs from the boundary register with bypass selected. -/
  | tapClamp
  /-- TAP_BYPASS (R543): BYPASS, or any instruction whose need is not met, selects the 1-bit bypass register. -/
  | tapBypass
  /-- DBG_REG_READ (R544): A DBG_REG read at Update-DR reads a BAR0 register with PF privilege. -/
  | dbgRegRead (a : Nat)
  /-- DBG_REG_WRITE (R544): A DBG_REG write at Update-DR writes a BAR0 register, and taints the slot when it is job
  state. -/
  | dbgRegWrite (a : Nat) (v : Nat) (env : BootEnv)
  /-- DBG_HBM_READ (R544): A DBG_HBM read reads a 4-byte word of module HBM, with its poison. -/
  | dbgHbmRead (a : Nat) (ecc : List (Nat × Nat))
  /-- DBG_HBM_WRITE (R546): A DBG_HBM write stores into HBM and taints the owning job slot. -/
  | dbgHbmWrite (a : Nat) (v : Nat)
  /-- DBG_HALT (R545): DBG_HALT halts or resumes the issue of the named partitions' Cams. -/
  | dbgHalt (halt : Nat) (resume : Nat)
  /-- SB_IMAGE_REFRESH (R562): Every 1 ms the Keeper refreshes the sideband register image that I3C reads are served
  from. -/
  | sbImageRefresh
  /-- SB_PRIVATE_WRITE (R561): An I3C private write sets the read pointer and writes sideband registers, or sets
  SHAPE_ERR. -/
  | sbPrivateWrite (l : List Nat) (rd : Nat) (env : BootEnv)
  /-- SB_ALERT_CLEAR (R564): A W1C write of KPR_SB_ALERT clears alert bits, and MOD_ALERT# is released when none
  remain. -/
  | sbAlertClear (v : Nat)
  /-- SB_GID_WRITE (R568): A KPR_SB_GID write stores NEXT_GID in MRAM for the next boot, or is refused with VALUE_ERR.
  -/
  | sbGidWrite (v : Nat)
  /-- SB_FW_DATA_WRITE (R567): A KPR_SB_FW_DATA write stores firmware bytes at OFFSET and advances OFFSET. -/
  | sbFwDataWrite (l : List Nat)
  /-- EXIT_A3 (R565): The sideband EXIT_A3 command leaves A3. -/
  | exitA3
  /-- ESC_CLEAR (R565): The sideband ESC_CLEAR command clears the escalation hold and ends the hold of R22. -/
  | escClear (env : BootEnv)
  /-- SB_MODULE_RESET (R565): The sideband MODULE_RESET command takes a module reset, refused with BUSY while
  PWR_CYCLE_REQ# is asserted. -/
  | sbModuleReset
  /-- DEBUG_ENABLE (R565): The sideband DEBUG_ENABLE command sets DEBUG_EN in MRAM. -/
  | debugEnable
  /-- DEBUG_DISABLE (R565): The sideband DEBUG_DISABLE command clears DEBUG_EN in MRAM. -/
  | debugDisable
  /-- KEY_PROVISION (R566): KEY_PROVISION writes a public key into a key slot, sets PRESENT and clears REVOKED. -/
  | keyProvision (k : Nat)
  /-- KEY_REVOKE (R566): KEY_REVOKE sets REVOKED on a key slot. -/
  | keyRevoke (k : Nat)
  /-- FW_BEGIN (R567): FW_BEGIN invalidates the firmware copy to be replaced and sets OFFSET to 0. -/
  | fwBegin
  /-- FW_COMMIT (R567): FW_COMMIT verifies the staged copy under the boot-ROM key and completes with OK or BAD_IMAGE.
  -/
  | fwCommit (env : BootEnv)
  /-- FW_ABORT (R567): FW_ABORT leaves the staged copy invalid. -/
  | fwAbort
  /-- CCC_ENTDAA (R560): ENTDAA assigns a dynamic address by arbitration on the provisioned identifier. -/
  | cccEntdaa (addr : Nat)
  /-- CCC_SETDASA (R560): SETDASA assigns a dynamic address from static address 0x48. -/
  | cccSetdasa (st : Nat) (addr : Nat)
  /-- CCC_SETNEWDA (R560): SETNEWDA changes the dynamic address. -/
  | cccSetnewda (addr : Nat)
  /-- CCC_RSTDAA (R560): RSTDAA clears the dynamic address. -/
  | cccRstdaa
  /-- CCC_ENEC (R560): ENEC enables in-band interrupts. -/
  | cccEnec
  /-- CCC_DISEC (R560): DISEC disables in-band interrupts. -/
  | cccDisec
  /-- CCC_GETPID (R560): GETPID returns the provisioned identifier. -/
  | cccGetpid
  /-- CCC_GETBCR (R560): GETBCR returns BCR 0x06. -/
  | cccGetbcr
  /-- CCC_GETDCR (R560): GETDCR returns DCR 0x00. -/
  | cccGetdcr
  /-- CCC_GETSTATUS (R560): GETSTATUS returns the target status. -/
  | cccGetstatus
  /-- CCC_GETMWL (R560): GETMWL returns the maximum write length of 68 bytes. -/
  | cccGetmwl
  /-- CCC_GETMRL (R560): GETMRL returns the maximum read length of 68 bytes. -/
  | cccGetmrl
  /-- PERST_DEASSERT (R558): PERST# rising high, with MOD_READY released, lets the PCIe endpoint train. -/
  | perstDeassert (rate : Nat) (width : Nat) (flit : Nat)
  /-- LANE_RETRAIN_RETRY (R251): One second after a failed lane retrain, the lane is tried again alone. -/
  | laneRetrainRetry (x : Nat)
  /-- SB_COMMAND_END (R565): A sideband command ends some time after GO, setting CODE and DONE and clearing BUSY in
  KPR_SB_CMD_STATUS. -/
  | sbCommandEnd
  /-- SUBMIT_REFUSED (R466): A SUBMIT read naming an unknown OP or unsupported VER returns VERSION and submits
  nothing, and a 4-byte read of SUBMIT completes with Unsupported Request. -/
  | submitRefused (f : Nat) (wide : Bool)
  /-- REGISTER_READ (R529): A register read with behaviour of its own latches the high word of a counter or of
  FAB_TIME, or, for a powered-down domain, completes with Unsupported Request and sets UR_SENT. -/
  | registerRead (f : Nat) (a : Nat) (wide : Bool)
  /-- SILENCE_REPORT_REPEAT (R347): While a group member stays silent, the Keeper repeats its report of that member to
  management every second. -/
  | silenceReportRepeat (j : Nat) (gid : Nat)
  /-- TAP_TEST_LOGIC_RESET (R543): TRST# asserted, or test-logic reset through TMS, resets the TAP and selects IDCODE.
  -/
  | tapTestLogicReset
  deriving DecidableEq, Repr

end Sys2Proof
end

