-- ==== Sys2Proof/Config.lean ====
section
/-! DEFINITION. Constants of the part, and the free values of what the spec leaves open. -/
namespace Sys2Proof

/-- Partitions of the package, P0 to P7 (R36). A partition that is fused off is a state, not a constant:
PART_MASK of HIF_PART_ID (R2). -/
def Config.parts : Nat := 8

/-- Contexts of a partition: hosting entries 0 to 31 and command rings 32 to 35 (R184). -/
def Config.contexts : Nat := 36

/-- Credit units that the receiver of a port offers on a virtual channel. The manual gives none (R247). -/
opaque Config.rxCredits : Nat → Nat → Nat

/-- Reason byte of a LANE unit, by the lane event that it announces. The manual gives no codes (Table 9.3). -/
opaque Config.laneReason : Nat → Nat

/-- Receive flow context of a child in a broadcast, by job slot, handle and the child's identifier. The manual does not
say how a parent learns it (R308). -/
opaque Config.bcastPeer : Nat → Nat → Nat → Nat

/-- Byte of the module record of a state copy, by the values it holds and its index. The manual names the values and
gives them no places (R447). -/
opaque Config.copyByte : List Nat → Nat → Nat

/-- The controllers' remap blocks in a state copy, by the retired units. The manual gives them no layout (R447). -/
opaque Config.remapBlocks : List Nat → List Nat

/-- Trigger byte of a reset that a rail, a PLL or a domain wake takes, by the KIND of its POWER record. The manual gives
such resets no trigger (Table 14.6, R509, R513, R517). -/
opaque Config.powerTrigger : Nat → BitVec 8

/-- A field of a POWER record for which the manual gives no value, by KIND, byte and item (Table 18.9). -/
opaque Config.powerField : Nat → Nat → Nat → BitVec 16

/-- Whether a staged firmware copy verifies under the key in the boot ROM, by its bytes that are not zero: offset and value
(R515, R567). The manual does not give the key. -/
opaque Config.fwVerify : List (Nat × Nat) → Bool

/-- Status that GETSTATUS returns, by KPR_SB_ALERT. The manual gives it no content (R560). -/
opaque Config.i3cStatus : Nat → BitVec 16

/-- Whether an input of so many mV, above the absolute maximum of 65 V, damages the conversion stage. The manual says that it
can, and gives a damaged module no behaviour (R506). -/
opaque Config.damaged : Nat → Bool

end Sys2Proof
end

