-- ==== Sys2Proof/Machine/Numbers.lean ====
section
/-! DEFINITION. Number formats and arithmetic of chapter 03: exact values, decoding, the roundings of
R75 to R79, the key stream of R81, ES96 (R83 to R88) and the special functions of R135. -/
namespace Sys2Proof.Machine

/-- An exact value met in arithmetic: a NaN, an infinity, or `± m · 2^e` with its sign kept for zero (R65). -/
inductive FVal where
  | nan
  | inf (neg : Bool)
  | fin (neg : Bool) (m : Nat) (e : Int)
  deriving DecidableEq, Repr

/-- Rounding modes of Table 3.7; SR carries the 16 random bits of R79. -/
inductive Rnd where
  | rne
  | rtz
  | sr (r16 : Nat)
  deriving DecidableEq, Repr

/-- A floating-point encoding of Table 3.2. -/
structure FloatFmt where
  eb : Nat
  mb : Nat
  bias : Nat
  maxCode : Nat
  nanCode : Nat
  hasInf : Bool
  hasNan : Bool
  deriving DecidableEq, Repr

/-- The flags an encoding can raise (R69, R76, R77). -/
structure CvtFlags where
  ovf : Bool := false
  blockInvalid : Bool := false
  intInvalid : Bool := false
  es96Range : Bool := false
  deriving DecidableEq, Repr

/-- An ES96 value (Table 3.10). -/
structure Es96 where
  i : Int
  n : Nat
  f : Bool
  deriving DecidableEq, Repr

def fmtFp32 : FloatFmt := ⟨8, 23, 127, 0x7F7FFFFF, 0x7FC00000, true, true⟩
def fmtFp16 : FloatFmt := ⟨5, 10, 15, 0x7BFF, 0x7E00, true, true⟩
def fmtBf16 : FloatFmt := ⟨8, 7, 127, 0x7F7F, 0x7FC0, true, true⟩
def fmtE4M3 : FloatFmt := ⟨4, 3, 7, 0x7E, 0x7F, false, true⟩
def fmtE5M2 : FloatFmt := ⟨5, 2, 15, 0x7B, 0x7E, true, true⟩
def fmtE3M2 : FloatFmt := ⟨3, 2, 3, 0x1F, 0, false, false⟩
def fmtE2M3 : FloatFmt := ⟨2, 3, 1, 0x1F, 0, false, false⟩
def fmtE2M1 : FloatFmt := ⟨2, 1, 1, 0x7, 0, false, false⟩

/-- The floating-point format of a format code of Table 3.1, where it is one. -/
def floatFmt (code : Nat) : Option FloatFmt :=
  match code with
  | 0 => some fmtFp32
  | 1 => some fmtFp16
  | 2 => some fmtBf16
  | 3 => some fmtE4M3
  | 4 => some fmtE5M2
  | 5 => some fmtE3M2
  | 6 => some fmtE2M3
  | 7 => some fmtE2M1
  | _ => none

/-- Bits per stored element of Table 3.1 (ES96 counts its 16 bytes). -/
def elemBits (code : Nat) : Nat :=
  match code with
  | 0 => 32 | 1 => 16 | 2 => 16 | 3 => 8 | 4 => 8 | 5 => 6 | 6 => 6 | 7 => 4
  | 8 => 8 | 9 => 4 | 10 => 4 | 11 => 128 | 12 => 8 | _ => 0

/-- Bits `[lo + w - 1 : lo]` of `v`. -/
def bits (v lo w : Nat) : Nat := (v >>> lo) % 2 ^ w

/-- One bit of `v`. -/
def bitAt (v i : Nat) : Bool := (v >>> i) % 2 == 1

/-- Two's complement reading of the low `w` bits. -/
def signedOf (v w : Nat) : Int := let u := v % 2 ^ w; if u < 2 ^ (w - 1) then u else (u : Int) - (2 ^ w : Nat)

/-- Two's complement code of `i` on `w` bits. -/
def codeOf (i : Int) (w : Nat) : Nat := (i % ((2 ^ w : Nat) : Int)).toNat

/-- Decoding of a floating-point code (R62, R64). -/
def decodeFloat (f : FloatFmt) (code : Nat) : FVal :=
  let mag := code % 2 ^ (f.eb + f.mb)
  let neg := bitAt code (f.eb + f.mb)
  let e := mag / 2 ^ f.mb
  let fr := mag % 2 ^ f.mb
  if f.hasInf && e == 2 ^ f.eb - 1 then (if fr == 0 then .inf neg else .nan)
  else if f.hasNan && mag == f.nanCode && !f.hasInf then .nan
  else if e == 0 then .fin neg fr (1 - (f.bias : Int) - f.mb)
  else .fin neg (2 ^ f.mb + fr) ((e : Int) - f.bias - f.mb)

/-- The value of an FP32 word. -/
def f32 (code : Nat) : FVal := decodeFloat fmtFp32 code

/-- The value `sign · m · 2^e` shifted by `2^k`. -/
def FVal.scale (k : Int) : FVal → FVal
  | .nan => .nan
  | .inf n => .inf n
  | .fin n m e => .fin n m (e + k)

/-- Exact integer value as an `FVal`. -/
def FVal.ofInt (i : Int) : FVal := .fin (decide (i < 0)) i.natAbs 0

/-- `⌊log₂ (m · 2^e)⌋` of a nonzero magnitude. -/
def magLog (m : Nat) (e : Int) : Int := (Nat.log2 m : Int) + e

/-- `m · 2^e` in units of `2^g`: quotient, and the dropped part as numerator over `2^k` (R75, R79). -/
def quantise (m : Nat) (e g : Int) : Nat × Nat × Nat :=
  if g ≤ e then (m * 2 ^ (e - g).toNat, 0, 0)
  else let k := (g - e).toNat; (m >>> k, m % 2 ^ k, k)

/-- Whether the mode moves the quotient up by one grid step (R75, R79). -/
def roundsUp (mode : Rnd) (q rem k : Nat) : Bool :=
  match mode with
  | .rne => decide (2 * rem > 2 ^ k) || (decide (2 * rem = 2 ^ k) && q % 2 == 1)
  | .rtz => false
  | .sr r => decide ((rem * 65536) >>> k + r ≥ 65536)

/-- The magnitude code, not yet limited to the largest finite code. -/
def roundMag (f : FloatFmt) (mode : Rnd) (m : Nat) (e : Int) : Nat :=
  if m = 0 then 0 else
  let emin : Int := 1 - (f.bias : Int)
  let g := max (magLog m e) emin - f.mb
  let (q, rem, k) := quantise m e g
  let q' := if roundsUp mode q rem k then q + 1 else q
  (g + f.mb - emin).toNat * 2 ^ f.mb + q'

/-- The code with its sign bit. -/
def withSign (f : FloatFmt) (neg : Bool) (mag : Nat) : Nat :=
  if neg then 2 ^ (f.eb + f.mb) + mag else mag

/-- Encoding into a floating-point format: code and overflow (R64, R65, R75 to R77, Table 3.8). -/
def encodeFloat (f : FloatFmt) (mode : Rnd) (sat : Bool) : FVal → Nat × Bool
  | .nan => (f.nanCode, false)
  | .inf neg => if f.hasInf then (withSign f neg ((2 ^ f.eb - 1) * 2 ^ f.mb), false)
                else (withSign f neg f.maxCode, true)
  | .fin neg m e =>
    let c := roundMag f mode m e
    if c ≤ f.maxCode then (withSign f neg c, false)
    else if f.hasInf && !sat && mode != .rtz then (withSign f neg ((2 ^ f.eb - 1) * 2 ^ f.mb), true)
    else (withSign f neg f.maxCode, true)

/-- One RNE rounding to FP32. -/
def rne32 (v : FVal) : Nat := (encodeFloat fmtFp32 .rne false v).1

/-- One RNE rounding to BF16. -/
def rneBf16 (v : FVal) : Nat := (encodeFloat fmtBf16 .rne false v).1

/-- The FP32 word of a BF16 code (bits [15:0] zero). -/
def bf16AsF32 (c : Nat) : Nat := c * 65536

/-- Encoding into INT8 or INT4 of `w` bits: code, overflow, invalid (Table 3.8). -/
def encodeInt (w : Nat) (mode : Rnd) : FVal → Nat × Bool × Bool
  | .nan => (0, false, true)
  | .inf neg => (codeOf (if neg then -(2 ^ (w - 1) : Nat) else ((2 ^ (w - 1) - 1 : Nat) : Int)) w, false, true)
  | .fin neg m e =>
    let (q, rem, k) := quantise m e 0
    let q' := if roundsUp mode q rem k then q + 1 else q
    let lim := if neg then 2 ^ (w - 1) else 2 ^ (w - 1) - 1
    let c := min q' lim
    (codeOf (if neg then -(c : Int) else c) w, decide (q' > lim), false)

/-- Exact sum, with the IEEE 754 sign of a zero sum under RNE (R98). -/
def FVal.add : FVal → FVal → FVal
  | .nan, _ => .nan
  | _, .nan => .nan
  | .inf a, .inf b => if a = b then .inf a else .nan
  | .inf a, .fin _ _ _ => .inf a
  | .fin _ _ _, .inf b => .inf b
  | .fin na ma ea, .fin nb mb eb =>
    let e := min ea eb
    let a : Int := ma * 2 ^ (ea - e).toNat
    let b : Int := mb * 2 ^ (eb - e).toNat
    let s := (if na then -a else a) + (if nb then -b else b)
    if s = 0 then .fin (na && nb) 0 0 else .fin (decide (s < 0)) s.natAbs e

/-- Exact product (R96, R98). -/
def FVal.mul : FVal → FVal → FVal
  | .nan, _ => .nan
  | _, .nan => .nan
  | .inf a, .inf b => .inf (a != b)
  | .inf a, .fin n m _ => if m = 0 then .nan else .inf (a != n)
  | .fin n m _, .inf b => if m = 0 then .nan else .inf (n != b)
  | .fin na ma ea, .fin nb mb eb => .fin (na != nb) (ma * mb) (ea + eb)

/-- Sign change. -/
def FVal.neg : FVal → FVal
  | .nan => .nan
  | .inf n => .inf (!n)
  | .fin n m e => .fin (!n) m e

/-- Magnitude. -/
def FVal.abs : FVal → FVal
  | .nan => .nan
  | .inf _ => .inf false
  | .fin _ m e => .fin false m e

/-- Whether the value is neither NaN nor infinite. -/
def FVal.isFin : FVal → Bool
  | .fin _ _ _ => true
  | _ => false

/-- Exact sum of a list, +0 when it is empty (R96, R112). -/
def exactSum : List FVal → FVal
  | [] => .fin false 0 0
  | [x] => x
  | x :: t => FVal.add x (exactSum t)

/-- `a < b` for values neither of which is NaN. -/
def FVal.lt : FVal → FVal → Bool
  | .nan, _ => false
  | _, .nan => false
  | .inf a, .inf b => a && !b
  | .inf a, .fin _ _ _ => a
  | .fin _ _ _, .inf b => !b
  | .fin na ma ea, .fin nb mb eb =>
    let e := min ea eb
    let a : Int := ma * 2 ^ (ea - e).toNat
    let b : Int := mb * 2 ^ (eb - e).toNat
    decide ((if na then -a else a) < (if nb then -b else b))

/-- FP32 addition, one RNE rounding. -/
def f32Add (a b : Nat) : Nat := rne32 ((f32 a).add (f32 b))
/-- FP32 multiplication, one RNE rounding. -/
def f32Mul (a b : Nat) : Nat := rne32 ((f32 a).mul (f32 b))

/-- Whether an FP32 word is a NaN. -/
def isNan32 (a : Nat) : Bool := match f32 a with | .nan => true | _ => false
/-- Whether an FP32 word is finite. -/
def isFin32 (a : Nat) : Bool := (f32 a).isFin
/-- Whether an FP32 word is an infinity. -/
def isInf32 (a : Nat) : Bool := match f32 a with | .inf _ => true | _ => false

/-- Larger of two FP32 words under R132. -/
def f32Max (a b : Nat) : Nat :=
  if isNan32 a || isNan32 b then 0x7FC00000
  else if a % 2 ^ 31 == 0 && b % 2 ^ 31 == 0 then (if a == 0 || b == 0 then 0 else a)
  else if (f32 a).lt (f32 b) then b else a

/-- Smaller of two FP32 words under R132. -/
def f32Min (a b : Nat) : Nat :=
  if isNan32 a || isNan32 b then 0x7FC00000
  else if a % 2 ^ 31 == 0 && b % 2 ^ 31 == 0 then (if a == 2 ^ 31 || b == 2 ^ 31 then 2 ^ 31 else a)
  else if (f32 b).lt (f32 a) then b else a

/-! ## Division and square roots, exact up to a sticky bit -/

/-- Integer square root by bisection on bits, `fuel` bits from the top. -/
def isqrtGo (n : Nat) : Nat → Nat → Nat
  | 0, r => r
  | k + 1, r => let c := r + 2 ^ k; isqrtGo n k (if c * c ≤ n then c else r)

/-- Integer square root. -/
def isqrt (n : Nat) : Nat := isqrtGo n (Nat.log2 n / 2 + 1) 0

/-- `a / b` for positive integers as a value whose last bit is a sticky bit below 80 exact bits. -/
def divSticky (a b : Nat) (ea eb : Int) : Nat × Int :=
  let s := 80 + Nat.log2 b
  let n := a * 2 ^ s
  (2 * (n / b) + (if n % b = 0 then 0 else 1), ea - eb - s - 1)

/-- Exact quotient up to a sticky bit, IEEE special cases. -/
def FVal.div : FVal → FVal → FVal
  | .nan, _ => .nan
  | _, .nan => .nan
  | .inf _, .inf _ => .nan
  | .inf a, .fin n _ _ => .inf (a != n)
  | .fin n _ _, .inf b => .fin (n != b) 0 0
  | .fin na ma ea, .fin nb mb eb =>
    if mb = 0 then (if ma = 0 then .nan else .inf (na != nb))
    else if ma = 0 then .fin (na != nb) 0 0
    else let (m, e) := divSticky ma mb ea eb; .fin (na != nb) m e

/-- Square root up to a sticky bit; a negative nonzero input is NaN (R135). -/
def FVal.sqrt : FVal → FVal
  | .nan => .nan
  | .inf n => if n then .nan else .inf false
  | .fin n m e =>
    if m = 0 then .fin n 0 0
    else if n then .nan
    else
      let odd := e % 2 ≠ 0
      let m2 := (if odd then 2 * m else m) * 2 ^ 160
      let e2 := (if odd then e - 1 else e) - 160
      let q := isqrt m2
      .fin false (2 * q + (if q * q = m2 then 0 else 1)) (e2 / 2 - 1)

/-- Reciprocal square root up to a sticky bit. -/
def FVal.rsqrt : FVal → FVal
  | .nan => .nan
  | .inf n => if n then .nan else .fin false 0 0
  | .fin n m e =>
    if m = 0 then .inf n
    else if n then .nan
    else
      -- 1/√(m·2^e) = √(2^(2s)/m') · 2^(-s - e'/2) with m·2^e = m'·2^e', e' even
      let odd := e % 2 ≠ 0
      let m' := if odd then 2 * m else m
      let e' := if odd then e - 1 else e
      let s := 160 + Nat.log2 m'
      let nn := 2 ^ (2 * s)
      let q := isqrt (nn / m')
      .fin false (2 * q + (if q * q * m' = nn then 0 else 1)) (-(e' / 2) - s - 1)

/-! ## Transcendental functions by enclosing intervals -/

/-- An enclosure `[lo, hi] · 2^-p` of a real value. -/
structure Encl where
  lo : Int
  hi : Int
  p : Nat
  deriving DecidableEq, Repr

/-- Fixed-point `atanh(1/n)·2^p` for `n ≥ 2`, `terms` terms, each truncated. -/
def atanhInv (p n : Nat) : Nat → Nat → Nat → Nat
  | 0, _, _ => 0
  | t + 1, k, pw => pw / k + atanhInv p n t (k + 2) (pw / (n * n))

/-- `ln 2 · 2^p`, error below `p` units. -/
def ln2Fix (p : Nat) : Nat := 2 * atanhInv p 3 (p / 3 + 2) 1 (2 ^ p / 3)

/-- Taylor sum of `e^x` for `0 ≤ x < 1` in fixed point, `x` and the term `t` over `2^p`. -/
def expTaylor (p x : Nat) : Nat → Nat → Nat → Nat
  | 0, _, _ => 0
  | f + 1, k, t => t + expTaylor p x f (k + 1) (t * x / 2 ^ p / (k + 1))

/-- Exact fixed-point reading of `± m·2^e`, truncated toward −∞ at `2^-p`. -/
def toFix (p : Nat) (neg : Bool) (m : Nat) (e : Int) : Int :=
  let k := e + p
  let a : Nat := if 0 ≤ k then m * 2 ^ k.toNat else m / 2 ^ (-k).toNat
  let up : Nat := if 0 ≤ k then a else if m % 2 ^ (-k).toNat = 0 then a else a + 1
  if neg then -(up : Int) else a

/-- `e^x` for a fixed-point `x` over `2^p` of magnitude below 2^9: mantissa over `2^p` in `[1, 2)`
and binary exponent; error below `4096` units of the mantissa's last place for `p ≤ 2000`. -/
def expFix (p : Nat) (x : Int) : Nat × Int :=
  let l := (ln2Fix p : Int)
  let k := x / l
  let r := (x - k * l).toNat
  (expTaylor p r (p / 4 + 20) 0 (2 ^ p), k)

/-- Shift a fixed-point mantissa by a binary exponent, flooring. -/
def shiftI (v k : Int) : Int := if 0 ≤ k then v * 2 ^ k.toNat else v / 2 ^ (-k).toNat

/-- `e^x` enclosed on the grid `2^-p`, from a value `x` computed with error `err` units of `2^-p`. -/
def exp1 (p : Nat) (x : Int) : Int × Int :=
  let (mant, k) := expFix p x
  (shiftI ((mant : Int) - 65536) k, shiftI ((mant : Int) + 65536) k + 1)

/-- `ln(m·2^e)·2^p` for a nonzero magnitude, error below 65536 units. -/
def lnFix (p m : Nat) (e : Int) : Int :=
  let lg := Nat.log2 m
  -- y = m / 2^lg in [1, 2), z = (y - 1)/(y + 1)
  let num := m - 2 ^ lg
  let den := m + 2 ^ lg
  let z := num * 2 ^ p / den
  let z2 := z * z / 2 ^ p
  let rec go : Nat → Nat → Nat → Nat
    | 0, _, _ => 0
    | f + 1, k, t => t / k + go f (k + 2) (t * z2 / 2 ^ p)
  ((lg : Int) + e) * ln2Fix p + 2 * (go (p / 3 + 4) 1 z : Int)

/-- The exact value of an enclosure end, as an `FVal`. -/
def fixVal (p : Nat) (v : Int) : FVal := .fin (decide (v < 0)) v.natAbs (-(p : Int))

/-- The transcendental functions of Table 5.4. -/
inductive SpecialFn where
  | exp | exp2 | log | tanh | sigmoid | silu | gelu
  deriving DecidableEq, Repr

/-- `√(2/π)` needs π: Machin's formula over the alternating arctangent of `1/n`. -/
def atanInv (p n : Nat) : Nat → Nat → Int → Int
  | 0, _, _ => 0
  | t + 1, k, pw => pw / k - atanInv p n t (k + 2) (pw / (n * n))

/-- `π · 2^p`, error below `8 p` units. -/
def piFix (p : Nat) : Int :=
  4 * (4 * atanInv p 5 (p / 4 + 2) 1 (2 ^ p / 5) - atanInv p 239 (p / 15 + 2) 1 (2 ^ p / 239))

/-- `tanh` of a fixed-point argument with error `err`: enclosure from `(e^2x − 1)/(e^2x + 1)`, for |x| < 64. -/
def tanhFix (p : Nat) (x err : Int) : Int × Int :=
  let one : Int := 2 ^ p
  let f (v : Int) : Int := (v - one) * one / (v + one)
  (f (exp1 p (2 * (x - err))).1 - 2, f (exp1 p (2 * (x + err))).2 + 2)

/-- Logistic function of a fixed-point argument with error `err`. -/
def sigmoidFix (p : Nat) (x err : Int) : Int × Int :=
  let one : Int := 2 ^ p
  let f (v : Int) : Int := v * one / (v + one)
  (f (exp1 p (x - err)).1 - 2, f (exp1 p (x + err)).2 + 2)

/-- Enclosure of a special function at `± m·2^e` with working precision `p`; arguments beyond the stated
bounds are met by `specialExact`. -/
def specialEncl (fn : SpecialFn) (p : Nat) (neg : Bool) (m : Nat) (e : Int) : Int × Int :=
  let x := toFix p neg m e
  let one : Int := 2 ^ p
  match fn with
  | .exp => let a := exp1 p (x - 1); let b := exp1 p (x + 1); (a.1, b.2)
  | .exp2 => let y := x * ln2Fix p / one
             let a := exp1 p (y - 4096 * p); let b := exp1 p (y + 4096 * p); (a.1, b.2)
  | .log => let v := lnFix p m e; (v - 65536 * p, v + 65536 * p)
  | .tanh => tanhFix p x 1
  | .sigmoid => sigmoidFix p x 1
  | .silu => let s := sigmoidFix p x 1
             let a := if neg then (s.2 * x) / one else (s.1 * x) / one
             let b := if neg then (s.1 * x) / one else (s.2 * x) / one
             (a - 2, b + 2)
  | .gelu =>
    let x3 := x * x / one * x / one
    let inner := x + x3 * 44715 / 1000000
    -- √(2/π) on the grid: isqrt(2^(2p+1)/π)
    let c : Int := isqrt ((2 ^ (3 * p + 1) : Nat) / (piFix p).toNat)
    let u := c * inner / one
    let t := tanhFix p u (2 ^ 40)
    let lo := (one + t.1) ; let hi := (one + t.2)
    let a := if neg then (hi * x) / (2 * one) else (lo * x) / (2 * one)
    let b := if neg then (lo * x) / (2 * one) else (hi * x) / (2 * one)
    (a - 2, b + 2)

/-- Round an enclosure when both ends agree; otherwise try the next precision. -/
def roundEncl (f : FloatFmt) (fn : SpecialFn) (neg : Bool) (m : Nat) (e : Int) : List Nat → Nat
  | [] => f.nanCode
  | p :: ps =>
    let (lo, hi) := specialEncl fn p neg m e
    let a := (encodeFloat f .rne false (fixVal p lo)).1
    let b := (encodeFloat f .rne false (fixVal p hi)).1
    if a = b || ps.isEmpty then a else roundEncl f fn neg m e ps

/-- The arguments whose value is exact, infinite, or beyond every format's range (R135, IEEE 754-2019). -/
def specialExact (fn : SpecialFn) (v : FVal) : Option FVal :=
  let tiny (n : Bool) : FVal := .fin n 1 (-1000)
  match fn, v with
  | _, .nan => some .nan
  | .exp, .inf n | .exp2, .inf n => some (if n then .fin false 0 0 else .inf false)
  | .log, .inf n => some (if n then .nan else .inf false)
  | .tanh, .inf n => some (.fin n 1 0)
  | .sigmoid, .inf n => some (if n then .fin false 0 0 else .fin false 1 0)
  | .silu, .inf n | .gelu, .inf n => some (if n then .nan else .inf false)
  | .log, .fin n m e =>
    if m = 0 then some (.inf true) else if n then some .nan
    else if m = 2 ^ Nat.log2 m && (Nat.log2 m : Int) + e = 0 then some (.fin false 0 0) else none
  | fn, .fin n m e =>
    if m = 0 then
      some (match fn with
        | .exp | .exp2 => .fin false 1 0
        | .sigmoid => .fin false 1 (-1)
        | _ => .fin n 0 0)
    else
      let lg := magLog m e
      match fn with
      | .exp => if lg ≥ 8 then some (if n then tiny false else .fin false 1 1000)
                else none
      | .exp2 => if lg ≥ 8 then some (if n then tiny false else .fin false 1 1000)
                 else if 0 ≤ e || m % 2 ^ (-e).toNat = 0 then
                   some (.fin false 1 (let k : Int := if 0 ≤ e then m * 2 ^ e.toNat else m / 2 ^ (-e).toNat
                                       if n then -k else k))
                 else none
      | .tanh => if lg ≥ 6 then some (.fin n (2 ^ 100 - 1) (-100)) else none
      | .sigmoid => if lg ≥ 8 then some (if n then tiny false else .fin false (2 ^ 200 - 1) (-200)) else none
      | .silu => if lg ≥ 8 then some (if n then tiny true else .fin false (m * 2 ^ 200 - 1) (e - 200)) else none
      | .gelu => if lg ≥ 5 then some (if n then tiny true else .fin false (m * 2 ^ 200 - 1) (e - 200)) else none
      | .log => none

/-- Correctly rounded special function (R135). -/
def specialRound (f : FloatFmt) (fn : SpecialFn) (v : FVal) : Nat :=
  match specialExact fn v with
  | some w => (encodeFloat f .rne false w).1
  | none =>
    match v with
    | .fin n m e => roundEncl f fn n m e [400, 800, 1600]
    | _ => f.nanCode

/-! ## Three-pass split (R78) -/

/-- `(hi, lo)` of R78 as BF16 codes. -/
def bf16Split (a : Nat) : Nat × Nat :=
  match f32 a with
  | .nan => (0x7FC0, 0)
  | .inf n => (if n then 0xFF80 else 0x7F80, 0)
  | .fin n m e =>
    let h := (encodeFloat fmtBf16 .rne true (.fin n m e)).1
    (h, rneBf16 ((FVal.fin n m e).add (decodeFloat fmtBf16 h).neg))

/-! ## Key-stream generator (R80, R81) -/

/-- Addition modulo 2^32. -/
def add32 (a b : Nat) : Nat := (a + b) % 2 ^ 32
/-- Left rotation of a 32-bit value. -/
def rotl32 (v s : Nat) : Nat := ((v <<< s) ||| (v >>> (32 - s))) % 2 ^ 32

/-- One round of R81 on `(x0, x1, x2, x3)`. -/
def ksRound (k0 k1 : Nat) (x : Nat × Nat × Nat × Nat) : Nat × Nat × Nat × Nat :=
  let (x0, x1, x2, x3) := x
  let x0 := add32 (add32 x0 x1) k0
  let x3 := rotl32 (x3 ^^^ x0) 16
  let x2 := add32 (add32 x2 x3) k1
  let x1 := rotl32 (x1 ^^^ x2) 12
  let x0 := add32 x0 x1
  let x3 := rotl32 (x3 ^^^ x0) 8
  let x2 := add32 x2 x3
  let x1 := rotl32 (x1 ^^^ x2) 7
  (x0, x1, x2, x3)

/-- The rounds of R81. -/
def ksRounds : Nat → Nat → Nat → Nat × Nat × Nat × Nat → Nat × Nat × Nat × Nat
  | 0, _, _, x => x
  | r + 1, k0, k1, x => ksRounds r (add32 k0 0x9e3779b9) (add32 k1 0xbb67ae85) (ksRound k0 k1 x)

/-- The 16 random bits of element `n` (R81). -/
def keyStream (seed step tensor n : Nat) : Nat :=
  let (x0, x1, x2, x3) := ksRounds 4 (seed % 2 ^ 32) (seed / 2 ^ 32 % 2 ^ 32)
    (n / 8 % 2 ^ 32, n / 2 ^ 35 % 2 ^ 29, step % 2 ^ 32, tensor % 2 ^ 32)
  bits (x0 + x1 * 2 ^ 32 + x2 * 2 ^ 64 + x3 * 2 ^ 96) (16 * (n % 8)) 16

/-! ## ES96 (R83 to R89) -/

/-- An FP32 element enters ES96 on its own (R85). -/
def es96In (w : Int) (v : FVal) : Es96 :=
  match v with
  | .nan => ⟨0, 1, true⟩
  | .inf n => ⟨if n then -(2 ^ 71 - 1) else 2 ^ 71 - 1, 1, true⟩
  | .fin n m e =>
    if m ≠ 0 && magLog m e ≥ w + 71 then ⟨if n then -(2 ^ 71 - 1) else 2 ^ 71 - 1, 1, true⟩
    else let q : Int := (quantise m e w).1; ⟨if n then -q else q, 1, false⟩

/-- Addition of ES96 values of one window (R86). -/
def es96Add (a b : Es96) : Es96 :=
  let n := min (a.n + b.n) 0xFFFFFF
  ⟨signedOf (codeOf (a.i + b.i) 96) 96, n, a.f || b.f || n == 0xFFFFFF⟩

/-- Storage of Table 3.10, as a 128-bit value. -/
def es96Code (v : Es96) : Nat := codeOf v.i 96 + v.n * 2 ^ 96 + (if v.f then 2 ^ 127 else 0)

/-- The value stored in 128 bits. -/
def es96Of (c : Nat) : Es96 := ⟨signedOf c 96, bits c 96 24, bitAt c 127⟩

/-- Exact value of an ES96 sum; a set F bit reads as NaN (R88). -/
def es96Val (w : Int) (v : Es96) : FVal :=
  if v.f then .nan else .fin (decide (v.i < 0)) v.i.natAbs w

/-- Least window admitting a magnitude (R89). -/
def wNeed (m : Nat) (e : Int) : Int := magLog m e - 70

end Sys2Proof.Machine
end

