-- ==== Sys2Proof/Machine/State.lean ====
section
/-! DEFINITION. The state of the Askath module: everything the spec gives it, as plain data. -/
namespace Sys2Proof.Machine

/-- A register field: the address of its word, its lowest bit and its width. -/
structure Fld where
  addr : Nat
  lo : Nat
  w : Nat
  deriving DecidableEq, Repr

/-- One row of the register table: place, access masks (Table 0.7), the bits that survive each reset at the
deepest (R17), and the Default. -/
structure RegRow where
  base : Nat
  dims : List (Nat × Nat)
  words : Nat
  rw : Nat
  w1c : Nat
  w1s : Nat
  rwl : Nat
  eng : Nat
  prt : Nat
  mod : Nat
  pwr : Nat
  dflt : Nat
  byIdx : List Nat
  deriving DecidableEq, Repr

/-- A 128 × 128 FP32 tile in a handoff buffer: its elements in row order, and one poison bit per 64-byte datum,
datum `q` of row `i` at `8 i + q` (R120). -/
structure Tile where
  mt : Nat
  nt : Nat
  data : List Nat
  psn : List Bool
  deriving DecidableEq, Repr

/-- A command the Cam has issued and that has not completed (R164, R574). -/
structure Issued where
  part : Nat
  ctx : Nat
  idx : Nat
  desc : Nat
  step : Nat
  /-- engines it runs on, with the codes of Table 19.4 -/
  engines : List Nat
  /-- shard scalars its program writes with SPUT, one bit each (R142) -/
  sput : Nat
  /-- an output was written poisoned -/
  psn : Bool
  /-- its writes have been accepted, so it may complete (R169) -/
  done : Bool
  /-- its context was killed or reset: no bump of it is applied (R388) -/
  killed : Bool
  deriving DecidableEq, Repr

/-- A vector command in stage 4: its program and scalar slots as latched at issue (R124, R140), and the tiles that
wait for it in arrival order (R125). -/
structure VxCmd where
  part : Nat
  ctx : Nat
  idx : Nat
  desc : Nat
  step : Nat
  prog : List Nat
  slots : List (Nat × Bool)
  /-- input tiles in arrival order; `none` stands for a tile held by the two-key check (R116) -/
  tiles : List (Option Tile)
  /-- place in release order of the next tile to leave stage 4 (R125) -/
  next : Nat
  /-- every output tile is written poisoned: a latched scalar was poisoned (R143) -/
  allPoison : Bool
  /-- its first non-finite output has been recorded (NF_RECORD of VXE_CFG) -/
  nf : Bool
  /-- its range fault has been raised (R89) -/
  rf : Bool
  deriving DecidableEq, Repr

/-- What one vector engine runs: the command and the group whose tiles stand in t0 to t3. -/
structure VxEng where
  ctx : Nat
  idx : Nat
  desc : Nat
  step : Nat
  slots : List (Nat × Bool)
  gt : Nat
  /-- `(mt, nt)` of each filled input register, in register order -/
  pos : List (Nat × Nat)
  busy : Bool
  deriving DecidableEq, Repr

/-- A weight record preloaded into an engine's shadow buffer (R107): its content as one little-endian number. -/
structure Preload where
  ctx : Nat
  addr : Nat
  content : Nat
  psn : Bool
  /-- a hinge or an update command has come since -/
  stale : Bool
  deriving DecidableEq, Repr

/-- One run of a tile or record for the two-key check: its output and whether a row of it missed. -/
structure KeyRun where
  out : List Nat
  miss : Bool
  deriving DecidableEq, Repr

/-- A tile or record held for the two-key check with its operands (R116, R225, R397, R398). -/
structure HeldTile where
  part : Nat
  /-- physical MXE, or 6 for the UPD -/
  eng : Nat
  ctx : Nat
  idx : Nat
  desc : Nat
  step : Nat
  mt : Nat
  nt : Nat
  kt : Nat
  /-- place of the tile in the command's release order (R105) -/
  order : Nat
  /-- step cycle at which the miss was found -/
  missAt : Nat
  /-- 0 row miss or write-back check, 1 sampled cross-check, 2 output parity -/
  missKind : Nat
  sibling : Option Nat
  /-- output of the first run -/
  first : List Nat
  /-- initial values of an accumulator tile (none for zero), or the row and column statistics of an update -/
  init : List Nat
  /-- decoded activation rows; for an update its staged gradient, master and moment elements -/
  acts : List (List FVal)
  /-- weight records in ascending chunk, as little-endian numbers -/
  recs : List Nat
  /-- clip factor and mean statistic of an update -/
  extra : List Nat
  psn : Bool
  same : Option KeyRun
  other : Option KeyRun
  deriving DecidableEq, Repr

/-- A slip cause as first seen when a due command could not issue (Table 6.8). -/
structure HoldRec where
  part : Nat
  ctx : Nat
  idx : Nat
  cause : Nat
  tumbler : Nat
  detail : Nat
  source : Nat
  reported : Bool
  deriving DecidableEq, Repr

/-- The largest slip event of the running step (R176). -/
structure SlipRec where
  valid : Bool
  idx : Nat
  ctx : Nat
  cause : Nat
  tumbler : Nat
  detail : Nat
  source : Nat
  slip : Nat
  deriving DecidableEq, Repr

/-- An error record as its detection fixes it; SEQ, OPMIN and CRC are added when the Keeper writes it (Table 13.1). -/
structure ErrRec where
  unit : Nat
  cls : Nat
  flags : Nat
  ftime : Nat
  desc : Nat
  ctx : Nat
  layer : Nat
  operator : Nat
  job : Nat
  sensor : Nat
  temp : Nat
  railMv : Nat
  rail : Nat
  jobId : Nat
  gen : Nat
  /-- bytes 40 to 55, byte 40 lowest; for a detection that writes no record (`cls = 0`) its row of Table 13.7 -/
  syndrome : Nat
  /-- activity band at the detection (Table 13.9) -/
  act : Nat
  deriving DecidableEq, Repr

/-- A recorder record (Table 15.3): bytes 16 to 59 as one little-endian number. -/
structure RecRec where
  type : Nat
  repeats : Nat
  opmin : Nat
  pcyc : Nat
  rseq : Nat
  body : Nat
  deriving DecidableEq, Repr

/-- The trace unit of one partition beside its registers and buffer (R537 to R541). -/
structure TrcState where
  /-- a record has been stored since recording started, so a TIME record stands -/
  timed : Bool
  /-- fabric time bits [63:40] of the last TIME record -/
  hi : Nat
  dropCompute : Bool
  dropSync : Bool
  dropCount : Nat
  dropFirst : Nat
  dropLast : Nat
  postLeft : Nat
  deriving DecidableEq, Repr

/-- A packet: its 256-bit header with HCRC (Table 9.8) and its payload bytes. -/
structure Pkt where
  hdr : Nat
  pay : List Nat
  deriving DecidableEq, Repr

/-- A packet formed and waiting to leave on a port, or for the receiving partition (R38, R266, R285). -/
structure TxPkt where
  pkt : Pkt
  /-- send flow context; none for the control and management classes -/
  flow : Option Nat
  /-- port on which it left, once it has; it stays until the link acknowledges it -/
  port : Option Nat
  /-- fabric time from which it is eligible: the next slot boundary for the scheduled class -/
  since : Nat
  /-- codeword SEQ with which it left, and how often it was sent in a row (R246) -/
  codeword : Nat
  sends : Nat
  /-- command that formed it, as partition, context and index -/
  cmd : Option (Nat × Nat × Nat)
  deriving DecidableEq, Repr

/-- One port's link beside its registers (R240 to R254). -/
structure Link where
  /-- next codeword SEQ to send -/
  txSeq : Nat
  /-- next codeword SEQ to receive -/
  rxSeq : Nat
  /-- a NAK for `rxSeq` has been sent -/
  nakSent : Bool
  /-- received data stream not yet taken as packets -/
  stream : List Nat
  /-- credit counts last advertised by the partner, VC0 to VC3, and units sent on each -/
  limit : List Nat
  sent : List Nat
  /-- units received on each, as this side advertises them -/
  taken : List Nat
  /-- lanes of the port kept by this side in training, by position in the group -/
  kept : Nat
  /-- lanes that left striping and retrain alone, those of them that wait for the next try, and the lanes the partner
  has announced out of striping, by position in the group -/
  out : Nat
  wait : Nat
  peerOut : Nat
  /-- fabric time at which the running attempt started, the last one ended, or the port came up -/
  since : Nat
  /-- times of its drops in the window (R254), and the end of a hold -/
  drops : List Nat
  holdUntil : Nat
  /-- HOPS the partner advertises (R280) -/
  hops : Nat
  /-- the partner's TRAIN unit, once received -/
  partner : Option Nat
  /-- uncorrectable codewords of the last second: lane position and fabric time -/
  ue : List (Nat × Nat)
  /-- number of the next time exchange (R279) -/
  xseq : Nat
  deriving DecidableEq, Repr

/-- A collective in a place of the collective engine (R303). -/
structure Coll where
  place : Nat
  part : Nat
  ctx : Nat
  idx : Nat
  desc : Nat
  step : Nat
  rank : Nat
  members : List Nat
  /-- stages done -/
  stage : Nat
  /-- its range fault has been raised -/
  rf : Bool
  deriving DecidableEq, Repr

/-- An open long operation (Table 16.4). -/
structure OpenOp where
  fn : Nat
  handle : Nat
  op : Nat
  args : List Nat
  /-- progress of the operation: meaning per operation -/
  phase : Nat
  deriving DecidableEq, Repr

/-- A completion not yet in its ring (R472, R473). -/
structure Compl where
  fn : Nat
  handle : Nat
  op : Nat
  status : Nat
  arg : Nat
  results : List Nat
  deriving DecidableEq, Repr

/-- What the module sends to its surroundings, oldest first. -/
inductive OutMsg where
  /-- a packet started on a port -/
  | packet (port : Nat) (p : Pkt)
  /-- a link control unit of 64 bytes (Table 9.3) -/
  | ctlUnit (port : Nat) (u : Nat)
  /-- a port sends its codewords again from a SEQ (R246) -/
  | resend (port seq : Nat)
  /-- a posted write to host memory -/
  | hostWrite (addr : Nat) (bytes : List Nat)
  /-- an MSI-X vector of a function -/
  | msix (fn vec : Nat)
  /-- the answer to a read, with its poison -/
  | answer (val : Nat) (psn : Bool)
  /-- Unsupported Request -/
  | unsupported
  /-- a bus error to an on-module sender, by its identity of Table 16.10 -/
  | busError (who : Nat)
  /-- bytes returned over I3C -/
  | i3c (bytes : List Nat)
  /-- an I3C in-band interrupt -/
  | ibi (byte : Nat)
  /-- what the TAP shifts out at the next Capture-DR and Shift-DR -/
  | tdo (val : Nat)
  /-- what the Keeper reports to management: 1 children missing at a hinge barrier (R179), 2 silent members (R347),
  3 a job tree parent lost (R313) -/
  | report (kind job : Nat) (gids : List Nat)
  deriving DecidableEq, Repr


/-- Unit history of one unit (R447): 0 in service, 1 retired, 2 CONDITIONAL. -/
structure UnitHist where
  state : Nat
  /-- reason code of its RETIRE record -/
  reason : Nat
  axis : Nat
  band : Nat
  guard : Nat
  readmits : Nat
  /-- operating minutes of the last change -/
  opmin : Nat
  deriving DecidableEq, Repr

/-- A counted detection with its row of Table 13.7 and its bands (R401, R405). -/
structure Det where
  unit : Nat
  row : Nat
  temp : Nat
  volt : Nat
  act : Nat
  opmin : Nat
  ftime : Nat
  count : Nat
  /-- it stands in the detection log (R448) -/
  logged : Bool
  deriving DecidableEq, Repr

/-- A guard of a CONDITIONAL unit (R406, R408): kind 1 VOLT, 2 CLOCK. -/
structure Guard where
  unit : Nat
  kind : Nat
  rail : Nat
  mv : Nat
  /-- job slots whose hinge it waits for, one bit each; it is in effect once this is zero -/
  pend : Nat
  /-- it is being taken away -/
  removing : Bool
  deriving DecidableEq, Repr

/-- A reset taken, for the escalation counts (R425): kind 0 context to 4 power cycle. -/
structure RstDone where
  kind : Nat
  target : Nat
  opmin : Nat
  deriving DecidableEq, Repr

/-- A reset that runs (R412). -/
structure RstRun where
  kind : Nat
  unit : Nat
  ctx : Nat
  trigger : Nat
  /-- fabric time at which it was taken -/
  since : Nat
  deriving DecidableEq, Repr

/-- A unit-history state copy (R447). -/
structure HistCopy where
  seq : Nat
  units : Store (Option UnitHist)
  guards : List Guard
  resets : List RstDone
  /-- OPMIN of each self-retirement -/
  retires : List Nat
  /-- health, fence, escalation and last-reset registers, by address -/
  regs : List (Nat × Nat)
  deriving DecidableEq, Repr

/-- An accumulator checkpoint of the recorder (R440). -/
structure Ckpt where
  opmin : Nat
  acc : Store Nat
  ext : Store (List Nat)
  tally : List (List Nat)
  expoDay : Store Nat
  deriving DecidableEq, Repr

/-- The sideband pins the module drives, true while asserted; `ready` while MOD_READY is released (Table 20.5).
MOD_ALERT# is asserted while KPR_SB_ALERT is not zero (R564). -/
structure Pins where
  ready : Bool
  /-- causes of MOD_FAULT#: 0 unanswered request, 1 escalation held, 2 failed boot, 3 overvoltage, 4 trip not
  answered, 5 module RETIRED -/
  fault : Nat
  pwrReq : Bool
  trip : Bool
  /-- PERST# is low -/
  perst : Bool
  deriving DecidableEq, Repr

/-- What the power-on sequence, a reset or a shutdown has left running. -/
inductive Boot where
  /-- no input power -/
  | off
  /-- the boot ROM answers firmware recovery only (R516) -/
  | recovery
  | running
  /-- a module reset runs (R416) -/
  | resetting
  /-- held in module reset (R22, R426) -/
  | held
  /-- shut down by an undervoltage (R506) -/
  | undervolt
  /-- shut down by an overvoltage (R506) -/
  | overvolt
  /-- a sensor tripped (R523) -/
  | tripped
  deriving DecidableEq, Repr

/-- A child's ready notice at a hinge (R178, Table 11.5). -/
structure Notice where
  src : Nat
  earliest : Nat
  ack : Bool
  early : Bool
  pin : Bool
  faults : Nat
  faultAt : Nat
  deriving DecidableEq, Repr

/-- A chunk of the open Hasp set that this module is to hold (R332). -/
structure ChunkRx where
  part : Nat
  stripe : Nat
  /-- fabric time plus 1 of its first packet -/
  since : Nat
  /-- units landed, and whether the header is among them -/
  landed : Nat
  hdr : Bool
  /-- resend requests sent -/
  tries : Nat
  ok : Bool
  gaveUp : Bool
  deriving DecidableEq, Repr

/-- A table image that waits for the next hinge (R499). -/
structure TableImg where
  gen : Nat
  /-- flow contexts it writes: index and words -/
  flows : List (Nat × List Nat)
  /-- it holds GROUPS: a Dorounte cut -/
  groups : Bool
  tree : Bool
  dest : Bool
  shape : Nat
  /-- IMAGE_ID -/
  id : Nat
  deriving DecidableEq, Repr

/-- A cut that a module has taken (R350). -/
structure Cut where
  lost : Nat
  gen : Nat
  /-- step of the recovery hinge -/
  step : Nat
  rollback : Bool
  /-- fabric time of receipt, and fabric time plus 1 at which the send flows were found quiet -/
  since : Nat
  quiet : Nat
  /-- the recovery hinge has been applied -/
  hinged : Bool
  /-- CUT_TIMEOUT has passed -/
  late : Bool
  /-- a new job tree waits in the shadow bank (R348) -/
  tree : Bool
  /-- item 3 has been applied (R356) -/
  genDone : Bool
  deriving DecidableEq, Repr

/-- What the module keeps of a loaded job slot beside its registers. -/
structure JobRun where
  /-- k: the step that runs, or at whose hinge the module is -/
  step : Nat
  /-- the step to come is the first after a load, a restore or a rollback (R235) -/
  first : Bool
  arrived : Bool
  arriveAt : Nat
  earliest : Nat
  /-- the ready notice of this hinge has been sent -/
  sent : Bool
  notices : List Notice
  /-- children below which a hold notice stands, and whether the module's own does (R181) -/
  holds : List Nat
  holdOwn : Bool
  /-- the barrier timeout of this hinge has been reported (R179) -/
  reported : Bool
  /-- T of this hinge's release, plus 1 -/
  relT : Nat
  /-- the module's own acknowledgement of the set of this hinge (R330, R331) -/
  ack : Bool
  /-- a set began at this hinge -/
  setHere : Bool
  /-- chunks of the set that phase 1 waits for -/
  chunks : List ChunkRx
  /-- EARLY goes with the next ready notice (R335) -/
  early : Bool
  /-- failures reported below this node since the last hinge, and the time of the latest (Table 11.5) -/
  faults : Nat
  faultAt : Nat
  /-- epoch plus 1 of the last set begun, and its release time (R335) -/
  lastSet : Nat
  lastSetT : Nat
  /-- root: T plus 1 of the previous release, T - A of the last 8 hinges without a set, counted failures as module and
  generation, and the time from which the next failure is measured (R336) -/
  prevT : Nat
  gaps : List Nat
  failures : List (Nat × Nat)
  failAt : Nat
  /-- shape code, and Dorounte shape mode -/
  shape : Nat
  dorounte : Bool
  groups : List ContGroup
  /-- index of the module's own group -/
  own : Nat
  /-- shards of a partition that Esfin compiled for (h) -/
  h : Nat
  /-- ancestor that adopted the module in the job tree, children lost and adopted (R313) -/
  up : Option Nat
  /-- ATTACH in the job tree: 0 none open, 1 sent to a2, 2 sent to a3, 3 orphaned -/
  upTry : Nat
  kidsLost : List Nat
  kidsAdopted : List Nat
  img : Option TableImg
  /-- FLOW_QUOTA of the image -/
  flowImg : Nat
  /-- STRETCH of each partition for item 8, as it stood at the arrival instant -/
  stretch : List (Nat × Nat)
  cut : Option Cut
  /-- the next starting hinge raises the generation (R369) -/
  genUp : Bool
  /-- continuity packets that came before this module began the set: OFFSET, units -/
  earlyCont : List (Nat × List (Nat × Bool))
  deriving DecidableEq, Repr

/-- A child of an open broadcast. -/
structure BKid where
  gid : Nat
  /-- send flow context toward it -/
  flow : Nat
  /-- a BHB of it has been received, at a fabric time -/
  armed : Bool
  beat : Nat
  /-- the sums of its BDONE -/
  done : Option (Nat × Nat × Nat)
  /-- chunks that go to it alone once held, one bit each -/
  owed : Nat
  deriving DecidableEq, Repr

/-- An open broadcast (R306 to R311). -/
structure Bcast where
  place : Nat
  fn : Nat
  handle : Nat
  job : Nat
  root : Bool
  fan : Nat
  index : Nat
  /-- relatives: entry of the tree table and global identifier -/
  rel : List (Nat × Nat)
  len : Nat
  dest : Nat
  flow : Nat
  /-- current parent as a relative, 0 to 2 for a1 to a3; an ATTACH to a2 (1) or a3 (2) is open -/
  up : Nat
  upTry : Nat
  /-- fabric time of the parent's last BHB, and its HELD_BELOW -/
  beat : Nat
  below : Nat
  kids : List BKid
  /-- nodes from which an ATTACH is expected: entry and global identifier -/
  expects : List (Nat × Nat)
  /-- chunks held, one bit each -/
  held : Nat
  /-- packets of a chunk that have arrived, one bit each -/
  got : Store Nat
  /-- length and CRC of a chunk as its BCHUNK gave them -/
  sums : Store (Option (Nat × Nat))
  /-- missing chunks that a BREQ has asked for (R309) -/
  asked : List Nat
  lost : Nat
  unacc : Nat
  deriving DecidableEq, Repr

/-- A standing step-feed request (R362): job slot, module and receive context it goes to, receiver, step. -/
structure Feed where
  job : Nat
  dst : Nat
  lsid : Nat
  ctx : Nat
  step : Nat
  deriving DecidableEq, Repr

/-- A chunk on its way to a rebuild (R338): its holder, its header once it has come, the units so far. -/
structure Cell where
  rank : Nat
  hdr : Option Nat
  units : List (Nat × Bool)
  bad : Bool
  deriving DecidableEq, Repr

/-- A shard's image that this module rebuilds from a Hasp set (R338, R340, R359). -/
structure Rebuild where
  job : Nat
  lsid : Nat
  part : Nat
  entry : Nat
  /-- 0 restore, 1 replay, 2 drain -/
  use : Nat
  epoch : Nat
  home : Nat
  stripe : Nat
  cells : List Cell
  /-- the image, once whole -/
  img : Option (List (Nat × Bool))
  /-- two chunks of the stripe are missing -/
  failed : Bool
  deriving DecidableEq, Repr

/-- A restore from memory that runs (R338). -/
structure Restore where
  op : OpenOp
  /-- slot summaries that a group leader holds: sender and message -/
  sums : List (Nat × List Nat)
  /-- the leader's group result: epoch, USABLE, COMMITTED_SEEN; none before it is decided or where this is no leader -/
  result : Option (List (Nat × Bool × Bool))
  /-- HUSE of the children: sender and message -/
  uses : List (Nat × List Nat)
  sent : Bool
  epoch : Option Nat
  deriving DecidableEq, Repr

/-- A replica's state on its way (R368): the target, and its units still to come. -/
structure RCopy where
  job : Nat
  lsid : Nat
  part : Nat
  entry : Nat
  left : Nat
  deriving DecidableEq, Repr

/-- A job image that is being loaded (R493, R496): its operation, and the image as fetched, none at a PCIe completion
error. `ready` once pass 2 has ended and only the commit is to come. -/
structure Load where
  op : OpenOp
  img : Option Image
  ready : Bool
  /-- fabric time at which pass 2 ended -/
  since : Nat
  deriving DecidableEq, Repr

/-- What the always-on domain holds beside registers: heartbeats, firmware, the test access port, power and trips. -/
structure AlwaysOn where
  /-- cause that the next boot reads: 1 a power cycle was requested, 4 a thermal trip, 0 neither (R417, R523) -/
  bootCause : Nat
  /-- consecutive missed beats of each control core (R420) -/
  ccMiss : Store Nat
  /-- fabric time plus 1 at which a control core came out of its reset, until its first beat (R425) -/
  ccWait : Store Nat
  /-- bytes of the two firmware copies in MRAM, the second 8 MiB above the first (R515, R567) -/
  fw : Store Nat
  /-- firmware copies that do not verify, the newer copy, and the copy that is being staged -/
  fwBad : Store Bool
  fwNewest : Nat
  fwStage : Option Nat
  /-- status with which the sideband command that runs ends (R565) -/
  sbRun : Option Nat
  /-- instruction of the test access port (R543) -/
  tapIr : Nat
  /-- boundary-scan register: level of each sideband output, in the order of Table 20.5 -/
  tapBsr : Nat
  /-- what the next captures of DBG_REG and DBG_HBM return (R544) -/
  tapReg : Nat
  tapHbm : Nat
  /-- sensors that reached their throttle limit and are not 2 °C below it again (R522) -/
  thHot : Store Bool
  /-- samples of the input power in the last 100 µs, newest first (R519) -/
  pinAvg : List Nat
  /-- fabric time plus 1 of the last PIN above the cap less its margin (R520) -/
  pinOver : Nat
  /-- fabric time of the trip (R523) -/
  tripAt : Nat
  deriving DecidableEq, Repr

/-- The always-on domain before the first power-on: both firmware copies valid, IDCODE selected. -/
def aonInit : AlwaysOn := ⟨0, [], [], [], [], 0, none, none, 2, 0, 0, 0, [], [], 0, 0⟩
/-- The state of the module. Stores list only keys that differ from their default, in rising order. -/
structure State where
  /-- commands that wait, first in first out -/
  pending : List Instr
  /-- register words by address that differ from their Default, both banks -/
  regs : Store Word
  /-- bytes of the stacks and the tile stores (HBM datum and tile store datum addresses, chapter 07) -/
  mem : List Host.Cell
  /-- poison bit of each 64-byte datum (Table 2.9) -/
  poison : Store Bool
  /-- datums whose parity fails at the inputs of the command in progress; empty between commands (R384) -/
  parityBad : List Nat
  /-- pseudo-channels (64 p + x) and banks (0x10000 + 64 p + b) whose retirement the spare could not hold (R211) -/
  deadChan : Store Bool
  /-- counters of Table 19.1 and Table 19.2 -/
  cnt : Store Nat
  /-- high words latched by a low-word read, by address (R277, R529) -/
  latch : Store Nat
  /-- fabric time in 250 ps ticks -/
  ftime : Nat
  /-- commands issued and not completed -/
  inflight : List Issued
  /-- hosting entry of each partition that issued last -/
  issuing : Store Nat
  /-- tile registers of the vector engines (Table 5.1) -/
  vx : Store Nat
  /-- poison of the tile and vector registers -/
  vxPsn : Store Bool
  /-- what each vector engine runs -/
  vxEng : Store (Option VxEng)
  /-- vector commands in stage 4 -/
  vxCmds : List VxCmd
  /-- shard scalars s32 to s63 of each hosting entry (R139) -/
  shardS : Store Nat
  /-- their poison -/
  shardP : Store Bool
  /-- shadow buffers of the matrix engines (R107) -/
  preload : Store (Option Preload)
  /-- tiles and records held for the two-key check -/
  held : List HeldTile
  /-- ETA_MISSING has been reported for the open latch of the running step (R232) -/
  etaMissed : Store Bool
  /-- step size and 16 coefficients of the replay latch of each entry, by 32 p + entry (R234) -/
  replayEta : Store (List Nat)
  /-- first cause that held each due command (Table 6.8) -/
  holds : List HoldRec
  /-- largest slip event of the running step, by partition (R176) -/
  slipMax : Store (Option SlipRec)
  /-- step cycle, plus 1, at which a context last issued, by 64 p + context -/
  lastIssue : Store Nat
  /-- step cycle at which the running step of a partition started; above 0 when its release came late (R180) -/
  startCyc : Store Nat
  /-- units whose engine reset has not ended, by unit identifier (R414) -/
  resetting : Store Bool
  /-- error records detected and not yet written by the Keeper -/
  detections : List ErrRec
  /-- recorder staging buffer (R444) -/
  staged : List RecRec
  /-- last record of the recent tier as written, with the repeats it has taken since (R444) -/
  rewrite : Option RecRec
  /-- records dropped since the last staged one, OPMIN of the first and of the last (R444) -/
  recDrops : Nat × Nat × Nat
  /-- trace buffers, 131,072 records a partition (R539) -/
  trcBuf : Store Nat
  /-- trace units -/
  trc : Store (Option TrcState)
  /-- job slot that owns a partition, plus 1; 0 when none does -/
  owner : Store Nat
  /-- packets formed and waiting for a port, or sent and not link-acknowledged -/
  txq : List TxPkt
  /-- internal packets formed and not yet received (R38) -/
  intq : List TxPkt
  /-- hub table words and flow contexts poisoned by an uncorrectable error (R393) -/
  tblBad : Store Bool
  /-- stretches of steps a send log has lost: partition, first step, last step (R366) -/
  logBroken : List (Nat × Nat × Nat)
  /-- links of ports 0 to 23 -/
  links : Store (Option Link)
  /-- token buckets, by 8 j + plane (R287) -/
  buckets : Store Nat
  /-- bytes started in the running slot, by 4 q + rank, and the deficits of R286 at 256 + 2 q -/
  slotUse : Store Nat
  /-- fabric time until which a moved flow holds its new packets (R266) -/
  flowHold : Store Nat
  /-- flows that wait for OUTSTANDING 0 after a hinge moved them (R292) -/
  flowDrain : Store Bool
  /-- collectives in the engine (R303) -/
  colls : List Coll
  /-- open long operations (R464) -/
  ops : List OpenOp
  /-- completions not yet posted (R472) -/
  ended : List Compl
  /-- what the module has sent -/
  out : List OutMsg
  /-- what the power-on sequence, a reset or a shutdown has left running -/
  boot : Boot
  /-- sideband pins -/
  pins : Pins
  /-- PERST# has been seen high since the endpoint was reset -/
  perst : Bool
  /-- unit history, by unit identifier (R446) -/
  uhs : Store (Option UnitHist)
  /-- detections the Keeper has counted (R401) -/
  dets : List Det
  /-- detection log, 32-byte entries, oldest first (R448) -/
  detLog : List Nat
  /-- exposure in seconds, by scope, axis, band and operating hour (R405) -/
  expo : Store Nat
  /-- exposure of the open day in seconds, by scope, axis and band (R448) -/
  expoDay : Store Nat
  /-- share of busy cycles of the last 1 ms, percent by power domain (Table 13.9) -/
  activity : Store Nat
  /-- guards of CONDITIONAL units (R406) -/
  guards : List Guard
  /-- unit history has changed since its last state copy (R447) -/
  uhsDirty : Bool
  /-- OPMIN plus 1 of the last state copy -/
  copyMin : Nat
  /-- state copies A and B -/
  copies : Store (Option HistCopy)
  /-- OPMIN of each self-retirement (R372) -/
  retires : List Nat
  /-- resets taken (R425) -/
  rstLog : List RstDone
  /-- resets that run -/
  rstRun : List RstRun
  /-- job slots that a partition retirement has taken the module out of (R373) -/
  jobOut : Store Bool
  /-- retirements decided and not finished, by key of `deadChan`, the running ones first per stack (R210) -/
  migr : List Nat
  /-- recent tier of the recorder, by line (R442) -/
  recent : Store (Option RecRec)
  /-- lifetime tier of the recorder, by line (R439) -/
  life : Store (Option RecRec)
  /-- day and month accumulators of the recorder (R437 to R440) -/
  acc : Store Nat
  /-- extremes of the open day and month -/
  accExt : Store (List Nat)
  /-- tallies of the open day: unit, class and five counts (R438) -/
  tally : List (List Nat)
  /-- accumulator checkpoints, newest first (R440) -/
  ckpts : List Ckpt
  /-- operating-time ring by line, OPMIN plus 1; its next line at 1,024 (R433) -/
  opRing : Store Nat
  /-- OPMIN and fabric time of the last flush (R444) -/
  lastFlush : Nat × Nat
  /-- a record has been dropped since the last NVM record of kind 0x06 (R444) -/
  recLost : Bool
  /-- detections lost while the Keeper was down (R423) -/
  kprLost : Nat
  /-- in-band interrupts are enabled (ENEC, R560) -/
  ibiEn : Bool
  /-- dynamic I3C address; 0 while none is assigned -/
  i3cAddr : Nat
  /-- read pointer of the sideband registers (R561) -/
  i3cPtr : Nat
  /-- sideband register image that I3C reads are served from, by index (R562) -/
  sbImage : Store Nat
  /-- MSI-X vectors pending, by 4 f + vector (R482) -/
  irqPend : Store Bool
  /-- fabric time plus 1 of the last raise of each vector -/
  irqLast : Store Nat
  /-- next unit of patrol scrub: stack of partition p at 2 p, tile store at 2 p + 1 (R207, R208) -/
  scrubPos : Store Nat
  /-- what the module keeps of each loaded job slot -/
  jobs : Store (Option JobRun)
  /-- job slots that raised a range fault since their last hinge (R91) -/
  rangeSeen : Store Bool
  /-- tables whose copy into the shadow bank runs: job slots, and 8 for the destination tables (R271) -/
  tblCopy : List Nat
  /-- highest input power sampled at full duty in the running step of each job slot, and of the step before at 8 + j (R520) -/
  pStep : Store Nat
  /-- job slots of which a partition was thermally throttled in the running step (R522) -/
  thermStep : Store Bool
  /-- fabric time plus 1 at which a partition of a job slot was last thermally throttled -/
  thermLast : Store Nat
  /-- issue duty of a compute die under the cap, 16 by default (R520) -/
  capDuty : Store Nat
  /-- issue duty of a partition under its temperature, 16 by default (R522) -/
  thDuty : Store Nat
  /-- ready notices that came before the module reached their hinge: sender and message -/
  earlyMsgs : List (Nat × List Nat)
  /-- correction of the fabric time still to be slewed, in ticks (R281) -/
  slew : Int
  /-- ticks since the last tick that the slewing added or left out -/
  slewPhase : Nat
  /-- consecutive accepted offsets within 2 ns, up to 8 (R281) -/
  timeGood : Nat
  /-- credit-wait ticks by plane and level at the start of the running SAT_WINDOW (R293) -/
  satBase : Store Nat
  /-- open broadcasts -/
  bcasts : List Bcast
  /-- handles that the module has assigned, by function (R465) -/
  opCount : Store Nat
  /-- standing step-feed requests (R362) -/
  feeds : List Feed
  /-- images that this module rebuilds -/
  rebuilds : List Rebuild
  /-- restores from memory that run, by job slot -/
  restores : Store (Option Restore)
  /-- HSUM and HUSE that came before the restore was issued here: sender and message -/
  restoreMsgs : List (Nat × List Nat)
  /-- replica copies that run (R368) -/
  rcopy : List RCopy
  /-- RCOPY requests that wait for the replica to complete the step: sender and message -/
  rcopyAsked : List (Nat × List Nat)
  /-- job slot, group member, and fabric time of its last GHB (R347) -/
  ghbAt : List (Nat × Nat × Nat)
  /-- job slot, member reported as silent, and fabric time of the last report -/
  silent : List (Nat × Nat × Nat)
  /-- fabric time plus 1 of the last DEADBOLT to a source (R374) -/
  deadSent : Store Nat
  /-- job slots that completed an update command in the running step (R378) -/
  updDone : Store Bool
  /-- job images that load, oldest first; the first one runs (R496) -/
  loads : List Load
  /-- public keys of the four key slots (R486) -/
  keys : Store (List Nat)
  /-- module-wide sections in force: content of the sections of a type (R492) -/
  slotKeep : Store (List (List Nat))
  /-- PHASE of the running lap of each completion ring (R472) -/
  cqLap : Store Bool
  /-- how many of the ended completions, oldest first, have been counted as held (R473) -/
  cqHeld : Nat
  /-- firmware copies, test access port, and what the always-on domain tracks -/
  aon : AlwaysOn
  deriving DecidableEq, Repr

/-- The module before its first power-on: every register at its Default, every queue empty, no input power
(R515). Values the spec leaves open are named in the assumption log. -/
def State.reset : State where
  pending := []
  regs := []
  mem := []
  poison := []
  parityBad := []
  deadChan := []
  cnt := []
  latch := []
  ftime := 0
  inflight := []
  issuing := []
  vx := []
  vxPsn := []
  vxEng := []
  vxCmds := []
  shardS := []
  shardP := []
  preload := []
  held := []
  etaMissed := []
  replayEta := []
  holds := []
  slipMax := []
  lastIssue := []
  startCyc := []
  resetting := []
  detections := []
  staged := []
  rewrite := none
  recDrops := (0, 0, 0)
  trcBuf := []
  trc := []
  owner := []
  txq := []
  intq := []
  tblBad := []
  logBroken := []
  links := []
  buckets := []
  slotUse := []
  flowHold := []
  flowDrain := []
  colls := []
  ops := []
  ended := []
  out := []
  boot := .off
  pins := ⟨false, 0, false, false, true⟩
  perst := false
  uhs := []
  dets := []
  detLog := []
  expo := []
  expoDay := []
  activity := []
  guards := []
  uhsDirty := false
  copyMin := 0
  copies := []
  retires := []
  rstLog := []
  rstRun := []
  jobOut := []
  migr := []
  recent := []
  life := []
  acc := []
  accExt := []
  tally := []
  ckpts := []
  opRing := []
  lastFlush := (0, 0)
  recLost := false
  kprLost := 0
  ibiEn := false
  i3cAddr := 0
  i3cPtr := 0
  sbImage := []
  irqPend := []
  irqLast := []
  scrubPos := []
  jobs := []
  rangeSeen := []
  tblCopy := []
  pStep := []
  thermStep := []
  thermLast := []
  capDuty := []
  thDuty := []
  earlyMsgs := []
  slew := 0
  slewPhase := 0
  timeGood := 0
  satBase := []
  bcasts := []
  opCount := []
  feeds := []
  rebuilds := []
  restores := []
  restoreMsgs := []
  rcopy := []
  rcopyAsked := []
  ghbAt := []
  silent := []
  deadSent := []
  updDone := []
  loads := []
  keys := []
  slotKeep := []
  cqLap := []
  cqHeld := 0
  aon := aonInit

/-- Reasons the module stops. -/
inductive Fault where
  /-- Raised by `execOvervoltage` where an input above the absolute maximum of 65 V has damaged the conversion stage
  (`Config.damaged`): the manual gives a damaged module no behaviour (R506). Safe: nothing is claimed of it afterwards. -/
  | inputOverstress
  deriving DecidableEq, Repr

/-- Reasons a command has no meaning. -/
inductive Refusal where
  /-- Raised by the dispatch for a command without a meaning, by its mnemonic. Safe: nothing is claimed of it. -/
  | notModelled (mnemonic : String)
  deriving DecidableEq, Repr

end Sys2Proof.Machine
end

