-- ==== Sys2Proof/Machine/RegMap.lean ====
section
/-! DEFINITION. The register map: the address of every register and the place of every field, from the
register tables of the spec (Table 0.2 to Table 20.6). BAR0 registers stand at their BAR0 offset (Table 16.3),
a partition's registers in its partition window, BAR4 registers at `0x1000_0000` plus their offset, and the
sideband registers of Table 20.6 at `0x2000_0000` plus their I3C index. -/
namespace Sys2Proof.Machine

/-- Base of a partition window in BAR0 (Table 16.3). -/
def partBase (p : Nat) : Nat := 0x2000000 + p * 0x400000


/-! ### Table 0.2 -/

def HIF_PART_ID : Nat := 0x10
def HIF_PART_ID_PART_MASK : Fld := ⟨HIF_PART_ID, 0, 8⟩
def HIF_PART_ID_PART_COUNT : Fld := ⟨HIF_PART_ID, 8, 4⟩
def HIF_PART_ID_DIE_STEP : Fld := ⟨HIF_PART_ID, 12, 4⟩
def HIF_PART_ID_FAMILY : Fld := ⟨HIF_PART_ID, 16, 8⟩

/-! ### Table 3.11 -/

def VXE_KS_SEED_LO (p : Nat) : Nat := partBase p + 0xFF000
def VXE_KS_SEED_LO_SEED_LO (p : Nat) : Fld := ⟨VXE_KS_SEED_LO p, 0, 32⟩
def VXE_KS_SEED_HI (p : Nat) : Nat := partBase p + 0xFF004
def VXE_KS_SEED_HI_SEED_HI (p : Nat) : Fld := ⟨VXE_KS_SEED_HI p, 0, 32⟩
def VXE_KS_STEP (p : Nat) : Nat := partBase p + 0xFF008
def VXE_KS_STEP_STEP (p : Nat) : Fld := ⟨VXE_KS_STEP p, 0, 32⟩
def VXE_CVT_FLAGS (p : Nat) : Nat := partBase p + 0xFF010
def VXE_CVT_FLAGS_OVERFLOW (p : Nat) : Fld := ⟨VXE_CVT_FLAGS p, 0, 1⟩
def VXE_CVT_FLAGS_BLOCK_INVALID (p : Nat) : Fld := ⟨VXE_CVT_FLAGS p, 1, 1⟩
def VXE_CVT_FLAGS_INT_INVALID (p : Nat) : Fld := ⟨VXE_CVT_FLAGS p, 2, 1⟩
def VXE_CVT_FLAGS_ES96_RANGE (p : Nat) : Fld := ⟨VXE_CVT_FLAGS p, 3, 1⟩
def VXE_CVT_FLAGS_CB_NONFINITE (p : Nat) : Fld := ⟨VXE_CVT_FLAGS p, 4, 1⟩
def VXE_ES96_FAULT0 (p : Nat) : Nat := partBase p + 0xFF018
def VXE_ES96_FAULT0_TENSOR (p : Nat) : Fld := ⟨VXE_ES96_FAULT0 p, 0, 32⟩
def VXE_ES96_FAULT1 (p : Nat) : Nat := partBase p + 0xFF01C
def VXE_ES96_FAULT1_W (p : Nat) : Fld := ⟨VXE_ES96_FAULT1 p, 0, 10⟩
def VXE_ES96_FAULT1_W_NEED (p : Nat) : Fld := ⟨VXE_ES96_FAULT1 p, 10, 10⟩
def VXE_ES96_FAULT1_NONFINITE (p : Nat) : Fld := ⟨VXE_ES96_FAULT1 p, 20, 1⟩
def VXE_ES96_FAULT1_COUNT (p : Nat) : Fld := ⟨VXE_ES96_FAULT1 p, 21, 1⟩
def VXE_ES96_FAULT1_VALID (p : Nat) : Fld := ⟨VXE_ES96_FAULT1 p, 31, 1⟩

/-! ### Table 4.9 -/

def MXE_CFG (p : Nat) : Nat := partBase p + 0x80000
def MXE_CFG_CHK_POLICY (p : Nat) : Fld := ⟨MXE_CFG p, 0, 2⟩
def MXE_CFG_TOL_SHIFT (p : Nat) : Fld := ⟨MXE_CFG p, 2, 3⟩
def MXE_CFG_PRELOAD_EN (p : Nat) : Fld := ⟨MXE_CFG p, 5, 1⟩
def MXE_ENG_ONLINE (p : Nat) : Nat := partBase p + 0x80004
def MXE_ENG_ONLINE_ONLINE (p : Nat) : Fld := ⟨MXE_ENG_ONLINE p, 0, 6⟩
def MXE_ENG_MAP (p : Nat) : Nat := partBase p + 0x80008
def MXE_ENG_MAP_SLOT (p : Nat) (x : Nat) : Fld := ⟨MXE_ENG_MAP p, 0 + 3 * x, 3⟩
def MXE_STATUS (p : Nat) : Nat := partBase p + 0x80010
def MXE_STATUS_BUSY (p : Nat) : Fld := ⟨MXE_STATUS p, 0, 6⟩
def MXE_STATUS_HELD (p : Nat) : Fld := ⟨MXE_STATUS p, 8, 6⟩
def MXE_STATUS_ACC_OVERFLOW (p : Nat) : Fld := ⟨MXE_STATUS p, 16, 1⟩
def MXE_STATUS_NONFINITE_OUT (p : Nat) : Fld := ⟨MXE_STATUS p, 17, 1⟩
def MXE_STATUS_TORN (p : Nat) : Fld := ⟨MXE_STATUS p, 18, 1⟩
def MXE_STATUS_CHK_MISS (p : Nat) : Fld := ⟨MXE_STATUS p, 19, 1⟩
def MXE_STATUS_CHK_SKIP (p : Nat) : Fld := ⟨MXE_STATUS p, 20, 1⟩
def MXE_STATUS_PRELOAD_DISCARD (p : Nat) : Fld := ⟨MXE_STATUS p, 21, 1⟩
def MXE_CHK_CAP0 (p : Nat) : Nat := partBase p + 0x80020
def MXE_CHK_CAP0_DESC_INDEX (p : Nat) : Fld := ⟨MXE_CHK_CAP0 p, 0, 24⟩
def MXE_CHK_CAP0_ENGINE (p : Nat) : Fld := ⟨MXE_CHK_CAP0 p, 24, 3⟩
def MXE_CHK_CAP0_VALID (p : Nat) : Fld := ⟨MXE_CHK_CAP0 p, 31, 1⟩
def MXE_CHK_CAP1 (p : Nat) : Nat := partBase p + 0x80024
def MXE_CHK_CAP1_NT (p : Nat) : Fld := ⟨MXE_CHK_CAP1 p, 0, 8⟩
def MXE_CHK_CAP1_MT (p : Nat) : Fld := ⟨MXE_CHK_CAP1 p, 8, 8⟩
def MXE_CHK_CAP1_ROW (p : Nat) : Fld := ⟨MXE_CHK_CAP1 p, 16, 7⟩
def MXE_CHK_CAP2 (p : Nat) : Nat := partBase p + 0x80028
def MXE_CHK_CAP2_R (p : Nat) : Fld := ⟨MXE_CHK_CAP2 p, 0, 32⟩
def MXE_CHK_CAP3 (p : Nat) : Nat := partBase p + 0x8002C
def MXE_CHK_CAP3_S (p : Nat) : Fld := ⟨MXE_CHK_CAP3 p, 0, 32⟩
def MXE_CHK_CAP4 (p : Nat) : Nat := partBase p + 0x80030
def MXE_CHK_CAP4_MG (p : Nat) : Fld := ⟨MXE_CHK_CAP4 p, 0, 32⟩
def MXE_CHK_CAP5 (p : Nat) : Nat := partBase p + 0x80034
def MXE_CHK_CAP5_LAYER (p : Nat) : Fld := ⟨MXE_CHK_CAP5 p, 0, 16⟩
def MXE_CHK_CAP5_OPERATOR (p : Nat) : Fld := ⟨MXE_CHK_CAP5 p, 16, 16⟩
def MXE_STALL (p : Nat) : Nat := partBase p + 0x80040
def MXE_STALL_STALL_CYCLES (p : Nat) : Fld := ⟨MXE_STALL p, 0, 32⟩

/-! ### Table 5.6 -/

def VXE_CFG (p : Nat) : Nat := partBase p + 0xC0000
def VXE_CFG_NF_RECORD (p : Nat) : Fld := ⟨VXE_CFG p, 0, 1⟩
def VXE_ENG_ONLINE (p : Nat) : Nat := partBase p + 0xC0004
def VXE_ENG_ONLINE_ONLINE (p : Nat) : Fld := ⟨VXE_ENG_ONLINE p, 0, 2⟩
def VXE_STATUS (p : Nat) : Nat := partBase p + 0xC0010
def VXE_STATUS_BUSY (p : Nat) : Fld := ⟨VXE_STATUS p, 0, 2⟩
def VXE_STATUS_NONFINITE_OUT (p : Nat) : Fld := ⟨VXE_STATUS p, 16, 1⟩
def VXE_STATUS_FP_OVERFLOW (p : Nat) : Fld := ⟨VXE_STATUS p, 17, 1⟩
def VXE_STATUS_POISON_IN (p : Nat) : Fld := ⟨VXE_STATUS p, 18, 1⟩
def VXE_STATUS_SCALAR_POISON (p : Nat) : Fld := ⟨VXE_STATUS p, 19, 1⟩
def VXE_STATUS_REGROUP (p : Nat) : Fld := ⟨VXE_STATUS p, 20, 1⟩
def VXE_CAP0 (p : Nat) : Nat := partBase p + 0xC0020
def VXE_CAP0_DESC_INDEX (p : Nat) : Fld := ⟨VXE_CAP0 p, 0, 24⟩
def VXE_CAP0_OP_INDEX (p : Nat) : Fld := ⟨VXE_CAP0 p, 24, 5⟩
def VXE_CAP0_ENGINE (p : Nat) : Fld := ⟨VXE_CAP0 p, 29, 1⟩
def VXE_CAP0_VALID (p : Nat) : Fld := ⟨VXE_CAP0 p, 31, 1⟩
def VXE_CAP1 (p : Nat) : Nat := partBase p + 0xC0024
def VXE_CAP1_LAYER (p : Nat) : Fld := ⟨VXE_CAP1 p, 0, 16⟩
def VXE_CAP1_OPERATOR (p : Nat) : Fld := ⟨VXE_CAP1 p, 16, 16⟩
def VXE_BUSY (p : Nat) : Nat := partBase p + 0xC0040
def VXE_BUSY_BUSY_CYCLES (p : Nat) : Fld := ⟨VXE_BUSY p, 0, 32⟩
def VXE_SREG_LO (p : Nat) (n : Nat) : Nat := partBase p + 0xD0000 + 8 * n
def VXE_SREG_LO_VALUE (p : Nat) (n : Nat) : Fld := ⟨VXE_SREG_LO p n, 0, 32⟩
def VXE_SREG_HI (p : Nat) (n : Nat) : Nat := partBase p + 0xD0004 + 8 * n
def VXE_SREG_HI_VALUE (p : Nat) (n : Nat) : Fld := ⟨VXE_SREG_HI p n, 0, 32⟩
def VXE_SREG_PEND (p : Nat) : Nat := partBase p + 0xD0100
def VXE_SREG_PEND_PEND (p : Nat) : Fld := ⟨VXE_SREG_PEND p, 0, 32⟩
def VXE_SHARD_SREG (p : Nat) (n : Nat) : Nat := partBase p + 0xD0200 + 8 * n
def VXE_SHARD_SPOISON (p : Nat) : Nat := partBase p + 0xD0300
def VXE_SHARD_SPOISON_POISON (p : Nat) : Fld := ⟨VXE_SHARD_SPOISON p, 0, 32⟩

/-! ### Table 6.9 -/

def CAM_CFG (p : Nat) : Nat := partBase p + 0x0
def CAM_CFG_SLIP_THRESH (p : Nat) : Fld := ⟨CAM_CFG p, 0, 12⟩
def CAM_CFG_LOOKAHEAD (p : Nat) : Fld := ⟨CAM_CFG p, 16, 7⟩
def CAM_WAKE_CFG0 (p : Nat) : Nat := partBase p + 0x4
def CAM_WAKE_CFG0_A1_LEAD (p : Nat) : Fld := ⟨CAM_WAKE_CFG0 p, 0, 16⟩
def CAM_WAKE_CFG0_A1_IDLE (p : Nat) : Fld := ⟨CAM_WAKE_CFG0 p, 16, 16⟩
def CAM_WAKE_CFG1 (p : Nat) : Nat := partBase p + 0x8
def CAM_WAKE_CFG1_A2_LEAD (p : Nat) : Fld := ⟨CAM_WAKE_CFG1 p, 0, 24⟩
def CAM_WAKE_CFG2 (p : Nat) : Nat := partBase p + 0xC
def CAM_WAKE_CFG2_A2_IDLE (p : Nat) : Fld := ⟨CAM_WAKE_CFG2 p, 0, 32⟩
def CAM_STRETCH (p : Nat) : Nat := partBase p + 0x10
def CAM_STRETCH_STRETCH (p : Nat) : Fld := ⟨CAM_STRETCH p, 0, 16⟩
def CAM_WAIT_TIMEOUT (p : Nat) : Nat := partBase p + 0x14
def CAM_WAIT_TIMEOUT_WAIT_TIMEOUT (p : Nat) : Fld := ⟨CAM_WAIT_TIMEOUT p, 0, 32⟩
def CAM_ISSUE_BASE_LO (p : Nat) : Nat := partBase p + 0x18
def CAM_ISSUE_BASE_LO_BASE_LO (p : Nat) : Fld := ⟨CAM_ISSUE_BASE_LO p, 0, 32⟩
def CAM_ISSUE_BASE_HI (p : Nat) : Nat := partBase p + 0x1C
def CAM_ISSUE_BASE_HI_BASE_HI (p : Nat) : Fld := ⟨CAM_ISSUE_BASE_HI p, 0, 32⟩
def CAM_STEP_CYCLES_LO (p : Nat) : Nat := partBase p + 0x20
def CAM_STEP_CYCLES_LO_CYC_LO (p : Nat) : Fld := ⟨CAM_STEP_CYCLES_LO p, 0, 32⟩
def CAM_STEP_CYCLES_HI (p : Nat) : Nat := partBase p + 0x24
def CAM_STEP_CYCLES_HI_CYC_HI (p : Nat) : Fld := ⟨CAM_STEP_CYCLES_HI p, 0, 16⟩
def CAM_HINGE_CFG (p : Nat) : Nat := partBase p + 0x28
def CAM_HINGE_CFG_MARGIN (p : Nat) : Fld := ⟨CAM_HINGE_CFG p, 0, 16⟩
def CAM_HINGE_CFG_TIMEOUT (p : Nat) : Fld := ⟨CAM_HINGE_CFG p, 16, 16⟩
def CAM_HINGE_STATUS (p : Nat) : Nat := partBase p + 0x2C
def CAM_HINGE_STATUS_PHASE (p : Nat) : Fld := ⟨CAM_HINGE_STATUS p, 0, 2⟩
def CAM_HINGE_STATUS_HINGE_TIMEOUT (p : Nat) : Fld := ⟨CAM_HINGE_STATUS p, 2, 1⟩
def CAM_HINGE_STATUS_HINGE_LATE (p : Nat) : Fld := ⟨CAM_HINGE_STATUS p, 3, 1⟩
def CAM_STATUS (p : Nat) : Nat := partBase p + 0x30
def CAM_STATUS_MALFORMED (p : Nat) : Fld := ⟨CAM_STATUS p, 0, 1⟩
def CAM_STATUS_RCV_VIOLATION (p : Nat) : Fld := ⟨CAM_STATUS p, 1, 1⟩
def CAM_STATUS_WAIT_TIMEOUT_SEEN (p : Nat) : Fld := ⟨CAM_STATUS p, 2, 1⟩
def CAM_FAULT_CAP0 (p : Nat) : Nat := partBase p + 0x40
def CAM_FAULT_CAP0_DESC_INDEX (p : Nat) : Fld := ⟨CAM_FAULT_CAP0 p, 0, 24⟩
def CAM_FAULT_CAP0_CONTEXT (p : Nat) : Fld := ⟨CAM_FAULT_CAP0 p, 24, 6⟩
def CAM_FAULT_CAP0_VALID (p : Nat) : Fld := ⟨CAM_FAULT_CAP0 p, 31, 1⟩
def CAM_FAULT_CAP1 (p : Nat) : Nat := partBase p + 0x44
def CAM_FAULT_CAP1_REASON (p : Nat) : Fld := ⟨CAM_FAULT_CAP1 p, 0, 8⟩
def CAM_SLIP_CAP0 (p : Nat) : Nat := partBase p + 0x60
def CAM_SLIP_CAP0_DESC_INDEX (p : Nat) : Fld := ⟨CAM_SLIP_CAP0 p, 0, 24⟩
def CAM_SLIP_CAP0_CONTEXT (p : Nat) : Fld := ⟨CAM_SLIP_CAP0 p, 24, 6⟩
def CAM_SLIP_CAP0_VALID (p : Nat) : Fld := ⟨CAM_SLIP_CAP0 p, 31, 1⟩
def CAM_SLIP_CAP1 (p : Nat) : Nat := partBase p + 0x64
def CAM_SLIP_CAP1_CAUSE (p : Nat) : Fld := ⟨CAM_SLIP_CAP1 p, 0, 3⟩
def CAM_SLIP_CAP1_TUMBLER (p : Nat) : Fld := ⟨CAM_SLIP_CAP1 p, 3, 12⟩
def CAM_SLIP_CAP2 (p : Nat) : Nat := partBase p + 0x68
def CAM_SLIP_CAP2_DETAIL (p : Nat) : Fld := ⟨CAM_SLIP_CAP2 p, 0, 32⟩
def CAM_SLIP_CAP3 (p : Nat) : Nat := partBase p + 0x6C
def CAM_SLIP_CAP3_SOURCE (p : Nat) : Fld := ⟨CAM_SLIP_CAP3 p, 0, 24⟩
def CAM_SLIP_CAP4 (p : Nat) : Nat := partBase p + 0x70
def CAM_SLIP_CAP4_SLIP (p : Nat) : Fld := ⟨CAM_SLIP_CAP4 p, 0, 32⟩
def CAM_HOST_W0 (p : Nat) (n : Nat) : Nat := partBase p + 0x1000 + 64 * n
def CAM_HOST_W0_STATE (p : Nat) (n : Nat) : Fld := ⟨CAM_HOST_W0 p n, 0, 3⟩
def CAM_HOST_W0_LSID (p : Nat) (n : Nat) : Fld := ⟨CAM_HOST_W0 p n, 8, 24⟩
def CAM_HOST_W1 (p : Nat) (n : Nat) : Nat := partBase p + 0x1004 + 64 * n
def CAM_HOST_W1_PROG_BASE (p : Nat) (n : Nat) : Fld := ⟨CAM_HOST_W1 p n, 0, 32⟩
def CAM_HOST_W2 (p : Nat) (n : Nat) : Nat := partBase p + 0x1008 + 64 * n
def CAM_HOST_W2_PROG_LEN (p : Nat) (n : Nat) : Fld := ⟨CAM_HOST_W2 p n, 0, 24⟩
def CAM_HOST_W3 (p : Nat) (n : Nat) : Nat := partBase p + 0x100C + 64 * n
def CAM_HOST_W3_TTAB_BASE (p : Nat) (n : Nat) : Fld := ⟨CAM_HOST_W3 p n, 0, 32⟩
def CAM_HOST_W4 (p : Nat) (n : Nat) : Nat := partBase p + 0x1010 + 64 * n
def CAM_HOST_W4_TTAB_LEN (p : Nat) (n : Nat) : Fld := ⟨CAM_HOST_W4 p n, 0, 12⟩
def CAM_HOST_W5 (p : Nat) (n : Nat) : Nat := partBase p + 0x1014 + 64 * n
def CAM_HOST_W5_TWIN_BASE (p : Nat) (n : Nat) : Fld := ⟨CAM_HOST_W5 p n, 0, 12⟩
def CAM_HOST_W5_TWIN_SIZE (p : Nat) (n : Nat) : Fld := ⟨CAM_HOST_W5 p n, 12, 7⟩
def CAM_HOST_W6 (p : Nat) (n : Nat) : Nat := partBase p + 0x1018 + 64 * n
def CAM_HOST_W6_STEP (p : Nat) (n : Nat) : Fld := ⟨CAM_HOST_W6 p n, 0, 32⟩
def CAM_HOST_W7 (p : Nat) (n : Nat) : Nat := partBase p + 0x101C + 64 * n
def CAM_HOST_W7_POS (p : Nat) (n : Nat) : Fld := ⟨CAM_HOST_W7 p n, 0, 24⟩
def CAM_HOST_W8 (p : Nat) (n : Nat) : Nat := partBase p + 0x1020 + 64 * n
def CAM_HOST_W8_STATE_BASE (p : Nat) (n : Nat) : Fld := ⟨CAM_HOST_W8 p n, 0, 32⟩
def CAM_HOST_W9 (p : Nat) (n : Nat) : Nat := partBase p + 0x1024 + 64 * n
def CAM_HOST_W9_STATE_LEN (p : Nat) (n : Nat) : Fld := ⟨CAM_HOST_W9 p n, 0, 32⟩
def CAM_HOST_W10 (p : Nat) (n : Nat) : Nat := partBase p + 0x1028 + 64 * n
def CAM_HOST_W10_RCV_BASE (p : Nat) (n : Nat) : Fld := ⟨CAM_HOST_W10 p n, 0, 32⟩
def CAM_HOST_W11 (p : Nat) (n : Nat) : Nat := partBase p + 0x102C + 64 * n
def CAM_HOST_W11_RCV_LEN (p : Nat) (n : Nat) : Fld := ⟨CAM_HOST_W11 p n, 0, 32⟩
def CAM_HOST_W12 (p : Nat) (n : Nat) (x : Nat) : Nat := partBase p + 0x1030 + 64 * n + 4 * x
def CAM_RING_BASE (p : Nat) (m : Nat) : Nat := partBase p + 0x2000 + 32 * m
def CAM_RING_BASE_BASE (p : Nat) (m : Nat) : Fld := ⟨CAM_RING_BASE p m, 0, 32⟩
def CAM_RING_SIZE (p : Nat) (m : Nat) : Nat := partBase p + 0x2004 + 32 * m
def CAM_RING_SIZE_LOG2_SIZE (p : Nat) (m : Nat) : Fld := ⟨CAM_RING_SIZE p m, 0, 5⟩
def CAM_RING_HEAD (p : Nat) (m : Nat) : Nat := partBase p + 0x2008 + 32 * m
def CAM_RING_HEAD_HEAD (p : Nat) (m : Nat) : Fld := ⟨CAM_RING_HEAD p m, 0, 16⟩
def CAM_RING_TAIL (p : Nat) (m : Nat) : Nat := partBase p + 0x200C + 32 * m
def CAM_RING_TAIL_TAIL (p : Nat) (m : Nat) : Fld := ⟨CAM_RING_TAIL p m, 0, 16⟩
def CAM_RING_TWIN (p : Nat) (m : Nat) : Nat := partBase p + 0x2010 + 32 * m
def CAM_RING_TWIN_TWIN_BASE (p : Nat) (m : Nat) : Fld := ⟨CAM_RING_TWIN p m, 0, 12⟩
def CAM_RING_TWIN_TWIN_SIZE (p : Nat) (m : Nat) : Fld := ⟨CAM_RING_TWIN p m, 12, 7⟩
def CAM_RING_CTRL (p : Nat) (m : Nat) : Nat := partBase p + 0x2014 + 32 * m
def CAM_RING_CTRL_ENABLE (p : Nat) (m : Nat) : Fld := ⟨CAM_RING_CTRL p m, 0, 1⟩
def CAM_RING_CTRL_STATE (p : Nat) (m : Nat) : Fld := ⟨CAM_RING_CTRL p m, 1, 2⟩
def CAM_RING_CTRL_ENABLE_ERR (p : Nat) (m : Nat) : Fld := ⟨CAM_RING_CTRL p m, 3, 1⟩

/-! ### Table 6.10 -/

def TMB_VALUE (p : Nat) (n : Nat) : Nat := partBase p + 0x40000 + 4 * n
def TMB_VALUE_VALUE (p : Nat) (n : Nat) : Fld := ⟨TMB_VALUE p n, 0, 32⟩
def TMB_SNAP (p : Nat) (n : Nat) : Nat := partBase p + 0x44000 + 4 * n
def TMB_SNAP_SNAP (p : Nat) (n : Nat) : Fld := ⟨TMB_SNAP p n, 0, 32⟩
def TMB_SRC (p : Nat) (n : Nat) : Nat := partBase p + 0x48000 + 4 * n
def TMB_SRC_MODULE (p : Nat) (n : Nat) : Fld := ⟨TMB_SRC p n, 0, 20⟩
def TMB_SRC_PART (p : Nat) (n : Nat) : Fld := ⟨TMB_SRC p n, 20, 4⟩
def TMB_SRC_LOCAL (p : Nat) (n : Nat) : Fld := ⟨TMB_SRC p n, 24, 1⟩
def TMB_STATUS (p : Nat) : Nat := partBase p + 0x4C000
def TMB_STATUS_TMB_OVF (p : Nat) : Fld := ⟨TMB_STATUS p, 0, 1⟩
def TMB_STATUS_WRITE_REFUSED (p : Nat) : Fld := ⟨TMB_STATUS p, 1, 1⟩
def TMB_OVF_CAP (p : Nat) : Nat := partBase p + 0x4C004
def TMB_OVF_CAP_TUMBLER (p : Nat) : Fld := ⟨TMB_OVF_CAP p, 0, 12⟩
def TMB_OVF_CAP_VALID (p : Nat) : Fld := ⟨TMB_OVF_CAP p, 31, 1⟩

/-! ### Table 7.7 -/

def MEM_CFG (p : Nat) : Nat := partBase p + 0x140000
def MEM_CFG_RETAIN (p : Nat) : Fld := ⟨MEM_CFG p, 0, 1⟩
def MEM_CFG_SCRUB_EN (p : Nat) : Fld := ⟨MEM_CFG p, 1, 1⟩
def MEM_CFG_REMOTE_SHARE (p : Nat) : Fld := ⟨MEM_CFG p, 4, 2⟩
def MEM_CFG_SCRUB_HOURS (p : Nat) : Fld := ⟨MEM_CFG p, 8, 8⟩
def MEM_SPARE (p : Nat) : Nat := partBase p + 0x140004
def MEM_SPARE_SPARE_GIB (p : Nat) : Fld := ⟨MEM_SPARE p, 0, 3⟩
def MEM_RWIN (p : Nat) (w : Nat) : Nat := partBase p + 0x140010 + 4 * w
def MEM_RWIN_STACK (p : Nat) (w : Nat) : Fld := ⟨MEM_RWIN p w, 0, 3⟩
def MEM_RWIN_EN (p : Nat) (w : Nat) : Fld := ⟨MEM_RWIN p w, 3, 1⟩
def MEM_RWIN_BASE_GIB (p : Nat) (w : Nat) : Fld := ⟨MEM_RWIN p w, 4, 6⟩
def MEM_RELOC_BASE (p : Nat) (n : Nat) : Nat := partBase p + 0x140100 + 8 * n
def MEM_RELOC_BASE_TS_BASE (p : Nat) (n : Nat) : Fld := ⟨MEM_RELOC_BASE p n, 0, 20⟩
def MEM_RELOC_LEN (p : Nat) (n : Nat) : Nat := partBase p + 0x140104 + 8 * n
def MEM_RELOC_LEN_TS_LEN (p : Nat) (n : Nat) : Fld := ⟨MEM_RELOC_LEN p n, 0, 20⟩
def MEM_REGION_BASE (p : Nat) (k : Nat) : Nat := partBase p + 0x140200 + 16 * k
def MEM_REGION_BASE_BASE (p : Nat) (k : Nat) : Fld := ⟨MEM_REGION_BASE p k, 0, 32⟩
def MEM_REGION_LEN (p : Nat) (k : Nat) : Nat := partBase p + 0x140204 + 16 * k
def MEM_REGION_LEN_LEN (p : Nat) (k : Nat) : Fld := ⟨MEM_REGION_LEN p k, 0, 32⟩
def MEM_REGION_KIND (p : Nat) (k : Nat) : Nat := partBase p + 0x140208 + 16 * k
def MEM_REGION_KIND_KIND (p : Nat) (k : Nat) : Fld := ⟨MEM_REGION_KIND p k, 0, 4⟩
def MEM_STATUS (p : Nat) : Nat := partBase p + 0x140300
def MEM_STATUS_CE_SEEN (p : Nat) : Fld := ⟨MEM_STATUS p, 0, 1⟩
def MEM_STATUS_UE_SEEN (p : Nat) : Fld := ⟨MEM_STATUS p, 1, 1⟩
def MEM_STATUS_ADDR_FAULT (p : Nat) : Fld := ⟨MEM_STATUS p, 2, 1⟩
def MEM_STATUS_REMOTE_OFF (p : Nat) : Fld := ⟨MEM_STATUS p, 3, 1⟩
def MEM_STATUS_SPARE_EXHAUSTED (p : Nat) : Fld := ⟨MEM_STATUS p, 4, 1⟩
def MEM_STATUS_MIGRATING (p : Nat) : Fld := ⟨MEM_STATUS p, 5, 1⟩
def MEM_STATUS_BAND (p : Nat) : Fld := ⟨MEM_STATUS p, 6, 2⟩
def MEM_STATUS_STACK_TEMP (p : Nat) : Fld := ⟨MEM_STATUS p, 8, 8⟩
def MEM_ERR_CAP0 (p : Nat) : Nat := partBase p + 0x140310
def MEM_ERR_CAP0_UNIT_ADDR (p : Nat) : Fld := ⟨MEM_ERR_CAP0 p, 0, 30⟩
def MEM_ERR_CAP0_VALID (p : Nat) : Fld := ⟨MEM_ERR_CAP0 p, 31, 1⟩
def MEM_ERR_CAP1 (p : Nat) : Nat := partBase p + 0x140314
def MEM_ERR_CAP1_PC (p : Nat) : Fld := ⟨MEM_ERR_CAP1 p, 0, 6⟩
def MEM_ERR_CAP1_KIND (p : Nat) : Fld := ⟨MEM_ERR_CAP1 p, 6, 2⟩
def MEM_ERR_CAP1_REQ_PART (p : Nat) : Fld := ⟨MEM_ERR_CAP1 p, 8, 4⟩
def MEM_ERR_CAP1_CONTEXT (p : Nat) : Fld := ⟨MEM_ERR_CAP1 p, 12, 6⟩
def MEM_ERR_CAP2 (p : Nat) : Nat := partBase p + 0x140318
def MEM_ERR_CAP2_DESC_INDEX (p : Nat) : Fld := ⟨MEM_ERR_CAP2 p, 0, 24⟩
def MEM_PC_RETIRED_LO (p : Nat) : Nat := partBase p + 0x140400
def MEM_PC_RETIRED_LO_RETIRED (p : Nat) : Fld := ⟨MEM_PC_RETIRED_LO p, 0, 32⟩
def MEM_PC_RETIRED_HI (p : Nat) : Nat := partBase p + 0x140404
def MEM_PC_RETIRED_HI_RETIRED (p : Nat) : Fld := ⟨MEM_PC_RETIRED_HI p, 0, 32⟩

/-! ### Table 7.8 -/

def TSR_CFG (p : Nat) : Nat := partBase p + 0x180000
def TSR_CFG_HANDOFF_MIB (p : Nat) : Fld := ⟨TSR_CFG p, 0, 6⟩
def TSR_CFG_TS_SPARE_MIB (p : Nat) : Fld := ⟨TSR_CFG p, 6, 2⟩
def TSR_STATUS (p : Nat) : Nat := partBase p + 0x180004
def TSR_STATUS_CE_SEEN (p : Nat) : Fld := ⟨TSR_STATUS p, 0, 1⟩
def TSR_STATUS_UE_SEEN (p : Nat) : Fld := ⟨TSR_STATUS p, 1, 1⟩
def TSR_STATUS_SPARE_EXHAUSTED (p : Nat) : Fld := ⟨TSR_STATUS p, 2, 1⟩
def TSR_STATUS_MIGRATING (p : Nat) : Fld := ⟨TSR_STATUS p, 3, 1⟩
def TSR_ERR_CAP0 (p : Nat) : Nat := partBase p + 0x180010
def TSR_ERR_CAP0_UNIT_ADDR (p : Nat) : Fld := ⟨TSR_ERR_CAP0 p, 0, 20⟩
def TSR_ERR_CAP0_BANK (p : Nat) : Fld := ⟨TSR_ERR_CAP0 p, 20, 6⟩
def TSR_ERR_CAP0_VALID (p : Nat) : Fld := ⟨TSR_ERR_CAP0 p, 31, 1⟩
def TSR_BANK_RETIRED_LO (p : Nat) : Nat := partBase p + 0x180018
def TSR_BANK_RETIRED_LO_RETIRED (p : Nat) : Fld := ⟨TSR_BANK_RETIRED_LO p, 0, 32⟩
def TSR_BANK_RETIRED_HI (p : Nat) : Nat := partBase p + 0x18001C
def TSR_BANK_RETIRED_HI_RETIRED (p : Nat) : Fld := ⟨TSR_BANK_RETIRED_HI p, 0, 32⟩
def TSR_CONFLICT (p : Nat) : Nat := partBase p + 0x180020
def TSR_CONFLICT_CONFLICT_CYCLES (p : Nat) : Fld := ⟨TSR_CONFLICT p, 0, 32⟩

/-! ### Table 8.6 -/

def UPD_HIST_BASE (p : Nat) : Nat := partBase p + 0x100000
def UPD_HIST_BASE_BASE (p : Nat) : Fld := ⟨UPD_HIST_BASE p, 0, 30⟩
def UPD_ETA_TIMEOUT (p : Nat) : Nat := partBase p + 0x100004
def UPD_ETA_TIMEOUT_TIMEOUT (p : Nat) : Fld := ⟨UPD_ETA_TIMEOUT p, 0, 32⟩
def UPD_ETA (p : Nat) : Nat := partBase p + 0x100010
def UPD_ETA_ETA (p : Nat) : Fld := ⟨UPD_ETA p, 0, 32⟩
def UPD_ETA_STATUS (p : Nat) : Nat := partBase p + 0x100014
def UPD_ETA_STATUS_PENDING (p : Nat) : Fld := ⟨UPD_ETA_STATUS p, 0, 1⟩
def UPD_ETA_STATUS_OPEN (p : Nat) : Fld := ⟨UPD_ETA_STATUS p, 1, 1⟩
def UPD_ETA_STATUS_ETA_LATE (p : Nat) : Fld := ⟨UPD_ETA_STATUS p, 2, 1⟩
def UPD_ETA_STATUS_ETA_MISSING (p : Nat) : Fld := ⟨UPD_ETA_STATUS p, 3, 1⟩
def UPD_ETA_STATUS_ETA_INVALID (p : Nat) : Fld := ⟨UPD_ETA_STATUS p, 4, 1⟩
def UPD_ETA_CUR (p : Nat) : Nat := partBase p + 0x100018
def UPD_ETA_CUR_ETA (p : Nat) : Fld := ⟨UPD_ETA_CUR p, 0, 32⟩
def UPD_ETA_STEP (p : Nat) : Nat := partBase p + 0x10001C
def UPD_ETA_STEP_STEP (p : Nat) : Fld := ⟨UPD_ETA_STEP p, 0, 32⟩
def UPD_COEF (p : Nat) (i : Nat) : Nat := partBase p + 0x100100 + 4 * i
def UPD_COEF_VALUE (p : Nat) (i : Nat) : Fld := ⟨UPD_COEF p i, 0, 32⟩
def UPD_COEF_CUR (p : Nat) (i : Nat) : Nat := partBase p + 0x100140 + 4 * i
def UPD_COEF_CUR_VALUE (p : Nat) (i : Nat) : Fld := ⟨UPD_COEF_CUR p i, 0, 32⟩
def UPD_STATUS (p : Nat) : Nat := partBase p + 0x100200
def UPD_STATUS_BUSY (p : Nat) : Fld := ⟨UPD_STATUS p, 0, 1⟩
def UPD_STATUS_NONFINITE_GRAD (p : Nat) : Fld := ⟨UPD_STATUS p, 16, 1⟩
def UPD_STATUS_NONFINITE_OUT (p : Nat) : Fld := ⟨UPD_STATUS p, 17, 1⟩
def UPD_STATUS_POISON_IN (p : Nat) : Fld := ⟨UPD_STATUS p, 18, 1⟩
def UPD_STATUS_OVERFLOW (p : Nat) : Fld := ⟨UPD_STATUS p, 19, 1⟩
def UPD_STATUS_BLOCK_INVALID (p : Nat) : Fld := ⟨UPD_STATUS p, 20, 1⟩
def UPD_STATUS_CLIPPED (p : Nat) : Fld := ⟨UPD_STATUS p, 21, 1⟩
def UPD_STATUS_HIST_MISS (p : Nat) : Fld := ⟨UPD_STATUS p, 22, 1⟩
def UPD_CAP0 (p : Nat) : Nat := partBase p + 0x100210
def UPD_CAP0_DESC_INDEX (p : Nat) : Fld := ⟨UPD_CAP0 p, 0, 24⟩
def UPD_CAP0_CONTEXT (p : Nat) : Fld := ⟨UPD_CAP0 p, 24, 6⟩
def UPD_CAP0_VALID (p : Nat) : Fld := ⟨UPD_CAP0 p, 31, 1⟩
def UPD_CAP1 (p : Nat) : Nat := partBase p + 0x100214
def UPD_CAP1_LAYER (p : Nat) : Fld := ⟨UPD_CAP1 p, 0, 16⟩
def UPD_CAP1_OPERATOR (p : Nat) : Fld := ⟨UPD_CAP1 p, 16, 16⟩
def UPD_LAST_CF (p : Nat) : Nat := partBase p + 0x100220
def UPD_LAST_CF_CF (p : Nat) : Fld := ⟨UPD_LAST_CF p, 0, 32⟩
def UPD_BUSY (p : Nat) : Nat := partBase p + 0x100240
def UPD_BUSY_BUSY_CYCLES (p : Nat) : Fld := ⟨UPD_BUSY p, 0, 32⟩

/-! ### Table 9.15 -/

def FAB_GID : Nat := 0x400000
def FAB_GID_GID : Fld := ⟨FAB_GID, 0, 20⟩
def FAB_VER : Nat := 0x400004
def FAB_VER_MAX_VER : Fld := ⟨FAB_VER, 0, 4⟩
def FAB_VER_MIN_VER : Fld := ⟨FAB_VER, 4, 4⟩
def FAB_GROUP_CFG (k : Nat) : Nat := 0x400010 + 4 * k
def FAB_GROUP_CFG_MODE (k : Nat) : Fld := ⟨FAB_GROUP_CFG k, 0, 2⟩
def FAB_GROUP_CFG_EN (k : Nat) : Fld := ⟨FAB_GROUP_CFG k, 2, 1⟩
def FAB_GROUP_CFG_PLANE (k : Nat) : Fld := ⟨FAB_GROUP_CFG k, 3, 3⟩
def FAB_PORT_STATUS (q : Nat) : Nat := 0x400040 + 4 * q
def FAB_PORT_STATUS_STATE (q : Nat) : Fld := ⟨FAB_PORT_STATUS q, 0, 3⟩
def FAB_PORT_STATUS_VER (q : Nat) : Fld := ⟨FAB_PORT_STATUS q, 3, 4⟩
def FAB_PORT_STATUS_WIDTH (q : Nat) : Fld := ⟨FAB_PORT_STATUS q, 7, 5⟩
def FAB_PORT_STATUS_REASON (q : Nat) : Fld := ⟨FAB_PORT_STATUS q, 12, 4⟩
def FAB_PORT_STATUS_DAMP_LEVEL (q : Nat) : Fld := ⟨FAB_PORT_STATUS q, 16, 4⟩
def FAB_LANE_ACTIVE (k : Nat) : Nat := 0x4000A0 + 4 * k
def FAB_LANE_ACTIVE_ACTIVE (k : Nat) : Fld := ⟨FAB_LANE_ACTIVE k, 0, 16⟩
def FAB_LANE_RETIRED (k : Nat) : Nat := 0x4000C0 + 4 * k
def FAB_LANE_RETIRED_RETIRED (k : Nat) : Fld := ⟨FAB_LANE_RETIRED k, 0, 16⟩
def FAB_LANE_READMIT (k : Nat) : Nat := 0x4000E0 + 4 * k
def FAB_LANE_READMIT_READMIT (k : Nat) : Fld := ⟨FAB_LANE_READMIT k, 0, 16⟩
def FAB_DAMP_CFG0 : Nat := 0x400100
def FAB_DAMP_CFG0_DAMP_N : Fld := ⟨FAB_DAMP_CFG0, 0, 4⟩
def FAB_DAMP_CFG0_DAMP_WINDOW : Fld := ⟨FAB_DAMP_CFG0, 4, 12⟩
def FAB_DAMP_CFG0_DAMP_HOLD : Fld := ⟨FAB_DAMP_CFG0, 16, 16⟩
def FAB_DAMP_CFG1 : Nat := 0x400104
def FAB_DAMP_CFG1_DAMP_CEIL : Fld := ⟨FAB_DAMP_CFG1, 0, 16⟩
def FAB_DAMP_CFG1_DAMP_QUIET : Fld := ⟨FAB_DAMP_CFG1, 16, 16⟩
def FAB_LINK_CFG : Nat := 0x400108
def FAB_LINK_CFG_RETRY_LIMIT : Fld := ⟨FAB_LINK_CFG, 0, 4⟩
def FAB_LINK_CFG_LANE_UE_LIMIT : Fld := ⟨FAB_LINK_CFG, 8, 8⟩
def FAB_FLOW_CFG : Nat := 0x40010C
def FAB_FLOW_CFG_SWITCH_HOLD : Fld := ⟨FAB_FLOW_CFG, 0, 16⟩
def FAB_FLOW_CFG_GAP_TIMEOUT : Fld := ⟨FAB_FLOW_CFG, 16, 16⟩
def FAB_JOB_ID (j : Nat) : Nat := 0x400200 + 16 * j
def FAB_JOB_ID_JOB_ID (j : Nat) : Fld := ⟨FAB_JOB_ID j, 0, 32⟩
def FAB_JOB_GEN (j : Nat) : Nat := 0x400204 + 16 * j
def FAB_JOB_GEN_GEN (j : Nat) : Fld := ⟨FAB_JOB_GEN j, 0, 16⟩
def FAB_JOB_FLOW (j : Nat) : Nat := 0x400208 + 16 * j
def FAB_JOB_FLOW_FLOW_QUOTA (j : Nat) : Fld := ⟨FAB_JOB_FLOW j, 0, 15⟩
def FAB_JOB_FLOW_FLOW_USED (j : Nat) : Fld := ⟨FAB_JOB_FLOW j, 16, 15⟩
def FAB_TBL_CTRL : Nat := 0x400300
def FAB_TBL_CTRL_ARM : Fld := ⟨FAB_TBL_CTRL, 0, 8⟩
def FAB_TBL_CTRL_DEST_ARM : Fld := ⟨FAB_TBL_CTRL, 8, 1⟩
def FAB_TBL_CTRL_DEST_JOB : Fld := ⟨FAB_TBL_CTRL, 9, 3⟩
def FAB_TBL_CTRL_COPY_BUSY : Fld := ⟨FAB_TBL_CTRL, 16, 1⟩
def FAB_TBL_CTRL_READ_ACTIVE : Fld := ⟨FAB_TBL_CTRL, 17, 1⟩
def FAB_TBL_CTRL_TABLE_REJECT : Fld := ⟨FAB_TBL_CTRL, 18, 1⟩
def FAB_TBL_CTRL_WRITE_IGNORED : Fld := ⟨FAB_TBL_CTRL, 19, 1⟩
def FAB_RX_STATUS : Nat := 0x400310
def FAB_RX_STATUS_HCRC_FAIL : Fld := ⟨FAB_RX_STATUS, 0, 1⟩
def FAB_RX_STATUS_MISROUTE : Fld := ⟨FAB_RX_STATUS, 1, 1⟩
def FAB_RX_STATUS_MALFORMED : Fld := ⟨FAB_RX_STATUS, 2, 1⟩
def FAB_RX_STATUS_CRC_FAIL : Fld := ⟨FAB_RX_STATUS, 3, 1⟩
def FAB_RX_STATUS_FLOW_VIOLATION : Fld := ⟨FAB_RX_STATUS, 4, 1⟩
def FAB_RX_STATUS_FUTURE_GEN : Fld := ⟨FAB_RX_STATUS, 5, 1⟩
def FAB_RX_STATUS_SRC_VIOLATION : Fld := ⟨FAB_RX_STATUS, 6, 1⟩
def FAB_RX_STATUS_SEQ_WINDOW : Fld := ⟨FAB_RX_STATUS, 7, 1⟩
def FAB_RX_STATUS_GAP : Fld := ⟨FAB_RX_STATUS, 8, 1⟩
def FAB_RX_STATUS_NO_ROUTE : Fld := ⟨FAB_RX_STATUS, 9, 1⟩
def FAB_RX_CAP0 : Nat := 0x400320
def FAB_RX_CAP0_SRC : Fld := ⟨FAB_RX_CAP0, 0, 20⟩
def FAB_RX_CAP0_CHECK : Fld := ⟨FAB_RX_CAP0, 20, 4⟩
def FAB_RX_CAP0_PORT : Fld := ⟨FAB_RX_CAP0, 24, 5⟩
def FAB_RX_CAP0_VALID : Fld := ⟨FAB_RX_CAP0, 31, 1⟩
def FAB_RX_CAP1 : Nat := 0x400324
def FAB_RX_CAP1_FLOW : Fld := ⟨FAB_RX_CAP1, 0, 14⟩
def FAB_RX_CAP1_GEN : Fld := ⟨FAB_RX_CAP1, 16, 16⟩
def FAB_RX_CAP2 : Nat := 0x400328
def FAB_RX_CAP2_SEQ : Fld := ⟨FAB_RX_CAP2, 0, 24⟩

/-! ### Table 9.16 -/

def FLW_CTX (n : Nat) : Nat := 0x800000 + 128 * n
def FLW_DEST (p : Nat) (e : Nat) : Nat := 0xA00000 + 262144 * p + 4 * e
def FLW_DEST_ENTRY (p : Nat) (e : Nat) : Fld := ⟨FLW_DEST p e, 0, 32⟩
def FLW_REKEY (j : Nat) (e : Nat) : Nat := 0xC00000 + 524288 * j + 8 * e

/-! ### Table 10.6 -/

def FAB_TIME_LO : Nat := 0x401000
def FAB_TIME_LO_TIME : Fld := ⟨FAB_TIME_LO, 0, 32⟩
def FAB_TIME_HI : Nat := 0x401004
def FAB_TIME_HI_TIME : Fld := ⟨FAB_TIME_HI, 0, 32⟩
def FAB_TIME_CFG : Nat := 0x401008
def FAB_TIME_CFG_TIME_PERIOD : Fld := ⟨FAB_TIME_CFG, 0, 16⟩
def FAB_TIME_CFG_HOLDOVER : Fld := ⟨FAB_TIME_CFG, 16, 16⟩
def FAB_TIME_CFG1 : Nat := 0x40100C
def FAB_TIME_CFG1_STEP_LIMIT : Fld := ⟨FAB_TIME_CFG1, 0, 16⟩
def FAB_TIME_STATUS : Nat := 0x401010
def FAB_TIME_STATUS_VALID : Fld := ⟨FAB_TIME_STATUS, 0, 1⟩
def FAB_TIME_STATUS_LOCKED : Fld := ⟨FAB_TIME_STATUS, 1, 1⟩
def FAB_TIME_STATUS_UNLOCK_SEEN : Fld := ⟨FAB_TIME_STATUS, 2, 1⟩
def FAB_TIME_STATUS_STEP_SEEN : Fld := ⟨FAB_TIME_STATUS, 3, 1⟩
def FAB_TIME_STATUS_SOURCE : Fld := ⟨FAB_TIME_STATUS, 4, 5⟩
def FAB_TIME_STATUS_HOPS : Fld := ⟨FAB_TIME_STATUS, 16, 8⟩
def FAB_TIME_OFFSET : Nat := 0x401014
def FAB_TIME_OFFSET_OFFSET_PS : Fld := ⟨FAB_TIME_OFFSET, 0, 32⟩
def FAB_SLOT_CFG : Nat := 0x401020
def FAB_SLOT_CFG_VC3_MAX : Fld := ⟨FAB_SLOT_CFG, 0, 4⟩
def FAB_SLOT_CFG_SCHED_MAX : Fld := ⟨FAB_SLOT_CFG, 4, 4⟩
def FAB_SLOT_CFG_BCAST_WT : Fld := ⟨FAB_SLOT_CFG, 8, 8⟩
def FAB_SLOT_CFG_BULK_WT : Fld := ⟨FAB_SLOT_CFG, 16, 8⟩
def FAB_SHARE (j : Nat) (p : Nat) : Nat := 0x401100 + 32 * j + 4 * p
def FAB_SHARE_SHARE (j : Nat) (p : Nat) : Fld := ⟨FAB_SHARE j p, 0, 8⟩
def FAB_SHARE_DEPTH (j : Nat) (p : Nat) : Fld := ⟨FAB_SHARE j p, 8, 6⟩
def FAB_PW_LO (j : Nat) : Nat := 0x401200 + 16 * j
def FAB_PW_LO_WEIGHT (j : Nat) : Fld := ⟨FAB_PW_LO j, 0, 32⟩
def FAB_PW_HI (j : Nat) : Nat := 0x401204 + 16 * j
def FAB_PW_HI_WEIGHT (j : Nat) : Fld := ⟨FAB_PW_HI j, 0, 16⟩
def FAB_PW_CUR_LO (j : Nat) : Nat := 0x401208 + 16 * j
def FAB_PW_CUR_LO_WEIGHT (j : Nat) : Fld := ⟨FAB_PW_CUR_LO j, 0, 32⟩
def FAB_PW_CUR_HI (j : Nat) : Nat := 0x40120C + 16 * j
def FAB_PW_CUR_HI_WEIGHT (j : Nat) : Fld := ⟨FAB_PW_CUR_HI j, 0, 16⟩
def FAB_LVL_MAP (p : Nat) : Nat := 0x401300 + 4 * p
def FAB_LVL_MAP_MAP (p : Nat) : Fld := ⟨FAB_LVL_MAP p, 0, 32⟩
def FAB_SAT_CFG : Nat := 0x401320
def FAB_SAT_CFG_SAT_WINDOW : Fld := ⟨FAB_SAT_CFG, 0, 16⟩
def FAB_SAT_CFG_SAT_HI : Fld := ⟨FAB_SAT_CFG, 16, 7⟩
def FAB_SAT_STATUS : Nat := 0x401324
def FAB_SAT_STATUS_SAT : Fld := ⟨FAB_SAT_STATUS, 0, 24⟩
def FAB_SAT_STATUS_SAT_SEEN : Fld := ⟨FAB_SAT_STATUS, 24, 1⟩

/-! ### Table 10.7 -/

def COL_STATUS : Nat := 0x1000010
def COL_STATUS_BUSY : Fld := ⟨COL_STATUS, 0, 8⟩
def COL_STATUS_ES96_RANGE : Fld := ⟨COL_STATUS, 16, 1⟩
def COL_STATUS_POISON_IN : Fld := ⟨COL_STATUS, 17, 1⟩
def COL_STATUS_NONFINITE_OUT : Fld := ⟨COL_STATUS, 18, 1⟩
def COL_STATUS_RANK_MISS : Fld := ⟨COL_STATUS, 19, 1⟩
def COL_STATUS_FLOW_MISMATCH : Fld := ⟨COL_STATUS, 20, 1⟩
def COL_CAP0 : Nat := 0x1000020
def COL_CAP0_DESC_INDEX : Fld := ⟨COL_CAP0, 0, 24⟩
def COL_CAP0_CONTEXT : Fld := ⟨COL_CAP0, 24, 6⟩
def COL_CAP0_VALID : Fld := ⟨COL_CAP0, 31, 1⟩
def COL_CAP1 : Nat := 0x1000024
def COL_CAP1_PART : Fld := ⟨COL_CAP1, 0, 4⟩
def COL_CAP1_JOB : Fld := ⟨COL_CAP1, 4, 3⟩
def COL_CAP1_GROUP : Fld := ⟨COL_CAP1, 8, 12⟩
def COL_CAP2 : Nat := 0x1000028
def COL_CAP2_LAYER : Fld := ⟨COL_CAP2, 0, 16⟩
def COL_CAP2_OPERATOR : Fld := ⟨COL_CAP2, 16, 16⟩
def COL_ES96_FAULT0 : Nat := 0x1000030
def COL_ES96_FAULT0_TENSOR : Fld := ⟨COL_ES96_FAULT0, 0, 32⟩
def COL_ES96_FAULT1 : Nat := 0x1000034
def COL_ES96_FAULT1_W : Fld := ⟨COL_ES96_FAULT1, 0, 10⟩
def COL_ES96_FAULT1_W_NEED : Fld := ⟨COL_ES96_FAULT1, 10, 10⟩
def COL_ES96_FAULT1_NONFINITE : Fld := ⟨COL_ES96_FAULT1, 20, 1⟩
def COL_ES96_FAULT1_COUNT : Fld := ⟨COL_ES96_FAULT1, 21, 1⟩
def COL_ES96_FAULT1_VALID : Fld := ⟨COL_ES96_FAULT1, 31, 1⟩
def COL_GHDR_W0 (j : Nat) (g : Nat) : Nat := 0x1010000 + 32768 * j + 8 * g
def COL_GHDR_W0_MBASE (j : Nat) (g : Nat) : Fld := ⟨COL_GHDR_W0 j g, 0, 17⟩
def COL_GHDR_W1 (j : Nat) (g : Nat) : Nat := 0x1010004 + 32768 * j + 8 * g
def COL_GHDR_W1_SIZE (j : Nat) (g : Nat) : Fld := ⟨COL_GHDR_W1 j g, 0, 13⟩
def COL_GHDR_W1_RING (j : Nat) (g : Nat) : Fld := ⟨COL_GHDR_W1 j g, 13, 1⟩
def COL_GHDR_W1_BLOCK (j : Nat) (g : Nat) : Fld := ⟨COL_GHDR_W1 j g, 14, 6⟩
def COL_MEMBER (e : Nat) : Nat := 0x1080000 + 4 * e
def COL_MEMBER_LSID (e : Nat) : Fld := ⟨COL_MEMBER e, 0, 24⟩

/-! ### Table 10.8 -/

def BCT_CFG : Nat := 0x1100000
def BCT_CFG_HB_PERIOD : Fld := ⟨BCT_CFG, 0, 8⟩
def BCT_CFG_ATTACH_TIMEOUT : Fld := ⟨BCT_CFG, 8, 8⟩
def BCT_CFG_CHUNK_TIMEOUT : Fld := ⟨BCT_CFG, 16, 16⟩
def BCT_STATUS : Nat := 0x1100004
def BCT_STATUS_OPEN : Fld := ⟨BCT_STATUS, 0, 4⟩
def BCT_STATUS_CRC_FAIL : Fld := ⟨BCT_STATUS, 8, 1⟩
def BCT_STATUS_ORPHAN : Fld := ⟨BCT_STATUS, 9, 1⟩
def BCT_STATUS_ADOPTED : Fld := ⟨BCT_STATUS, 10, 1⟩
def BCT_STATUS_REFUSED : Fld := ⟨BCT_STATUS, 11, 1⟩
def BCT_FLOWS (j : Nat) : Nat := 0x1100020 + 4 * j
def BCT_FLOWS_BFLOW_BASE (j : Nat) : Fld := ⟨BCT_FLOWS j, 0, 14⟩
def BCT_FLOWS_BFLOW_COUNT (j : Nat) : Fld := ⟨BCT_FLOWS j, 14, 14⟩
def BCT_OP_HANDLE (n : Nat) : Nat := 0x1100100 + 32 * n
def BCT_OP_HANDLE_HANDLE (n : Nat) : Fld := ⟨BCT_OP_HANDLE n, 0, 32⟩
def BCT_OP_STATE (n : Nat) : Nat := 0x1100104 + 32 * n
def BCT_OP_STATE_STATE (n : Nat) : Fld := ⟨BCT_OP_STATE n, 0, 3⟩
def BCT_OP_STATE_JOB (n : Nat) : Fld := ⟨BCT_OP_STATE n, 3, 3⟩
def BCT_OP_STATE_UP (n : Nat) : Fld := ⟨BCT_OP_STATE n, 6, 2⟩
def BCT_OP_STATE_CHILDREN (n : Nat) : Fld := ⟨BCT_OP_STATE n, 8, 8⟩
def BCT_OP_HELD (n : Nat) : Nat := 0x1100108 + 32 * n
def BCT_OP_HELD_HELD (n : Nat) : Fld := ⟨BCT_OP_HELD n, 0, 21⟩
def BCT_OP_TOTAL (n : Nat) : Nat := 0x110010C + 32 * n
def BCT_OP_TOTAL_TOTAL (n : Nat) : Fld := ⟨BCT_OP_TOTAL n, 0, 21⟩
def BCT_OP_PARENT (n : Nat) : Nat := 0x1100110 + 32 * n
def BCT_OP_PARENT_GID (n : Nat) : Fld := ⟨BCT_OP_PARENT n, 0, 20⟩
def BCT_OP_COMPLETE (n : Nat) : Nat := 0x1100114 + 32 * n
def BCT_OP_COMPLETE_COMPLETE (n : Nat) : Fld := ⟨BCT_OP_COMPLETE n, 0, 17⟩
def BCT_OP_LOST (n : Nat) : Nat := 0x1100118 + 32 * n
def BCT_OP_LOST_LOST (n : Nat) : Fld := ⟨BCT_OP_LOST n, 0, 17⟩
def BCT_OP_UNACC (n : Nat) : Nat := 0x110011C + 32 * n
def BCT_OP_UNACC_UNACCOUNTED (n : Nat) : Fld := ⟨BCT_OP_UNACC n, 0, 17⟩
def BCT_JHDR_W0 (j : Nat) : Nat := 0x1101000 + 8 * j
def BCT_JHDR_W0_INDEX (j : Nat) : Fld := ⟨BCT_JHDR_W0 j, 0, 17⟩
def BCT_JHDR_W1 (j : Nat) : Nat := 0x1101004 + 8 * j
def BCT_JHDR_W1_NODES (j : Nat) : Fld := ⟨BCT_JHDR_W1 j, 0, 17⟩
def BCT_JHDR_W1_FANM1 (j : Nat) : Fld := ⟨BCT_JHDR_W1 j, 17, 3⟩
def BCT_JREL (j : Nat) (e : Nat) : Nat := 0x1110000 + 4096 * j + 4 * e
def BCT_JREL_GID (j : Nat) (e : Nat) : Fld := ⟨BCT_JREL j e, 0, 20⟩
def BCT_JREL_VALID (j : Nat) (e : Nat) : Fld := ⟨BCT_JREL j e, 20, 1⟩

/-! ### Table 11.11 -/

def HSP_J_CFG (j : Nat) : Nat := 0x1200000 + 64 * j
def HSP_J_CFG_MODE (j : Nat) : Fld := ⟨HSP_J_CFG j, 0, 2⟩
def HSP_J_CFG_SMOOTH_SHIFT (j : Nat) : Fld := ⟨HSP_J_CFG j, 2, 4⟩
def HSP_J_CFG_ROOT (j : Nat) : Fld := ⟨HSP_J_CFG j, 6, 1⟩
def HSP_J_CLAMP (j : Nat) : Nat := 0x1200004 + 64 * j
def HSP_J_CLAMP_NMIN (j : Nat) : Fld := ⟨HSP_J_CLAMP j, 0, 16⟩
def HSP_J_CLAMP_NMAX (j : Nat) : Fld := ⟨HSP_J_CLAMP j, 16, 16⟩
def HSP_J_FIXED (j : Nat) : Nat := 0x1200008 + 64 * j
def HSP_J_FIXED_FIXED_STEPS (j : Nat) : Fld := ⟨HSP_J_FIXED j, 0, 16⟩
def HSP_J_FIXED_TIMER (j : Nat) : Fld := ⟨HSP_J_FIXED j, 16, 16⟩
def HSP_J_MTBF (j : Nat) : Nat := 0x120000C + 64 * j
def HSP_J_MTBF_MTBF_S (j : Nat) : Fld := ⟨HSP_J_MTBF j, 0, 32⟩
def HSP_J_MTBF_CUR (j : Nat) : Nat := 0x1200010 + 64 * j
def HSP_J_MTBF_CUR_M (j : Nat) : Fld := ⟨HSP_J_MTBF_CUR j, 0, 32⟩
def HSP_J_COST (j : Nat) : Nat := 0x1200014 + 64 * j
def HSP_J_COST_C (j : Nat) : Fld := ⟨HSP_J_COST j, 0, 32⟩
def HSP_J_STEPT (j : Nat) : Nat := 0x1200018 + 64 * j
def HSP_J_STEPT_TSTEP (j : Nat) : Fld := ⟨HSP_J_STEPT j, 0, 32⟩
def HSP_J_INTERVAL (j : Nat) : Nat := 0x120001C + 64 * j
def HSP_J_INTERVAL_N (j : Nat) : Fld := ⟨HSP_J_INTERVAL j, 0, 16⟩
def HSP_J_INTERVAL_SINCE (j : Nat) : Fld := ⟨HSP_J_INTERVAL j, 16, 16⟩
def HSP_J_EPOCH (j : Nat) : Nat := 0x1200020 + 64 * j
def HSP_J_EPOCH_EPOCH (j : Nat) : Fld := ⟨HSP_J_EPOCH j, 0, 32⟩
def HSP_J_STATUS (j : Nat) : Nat := 0x1200024 + 64 * j
def HSP_J_STATUS_SET_OPEN (j : Nat) : Fld := ⟨HSP_J_STATUS j, 0, 1⟩
def HSP_J_STATUS_COMMIT_NEXT (j : Nat) : Fld := ⟨HSP_J_STATUS j, 1, 1⟩
def HSP_J_STATUS_ABANDONED (j : Nat) : Fld := ⟨HSP_J_STATUS j, 2, 1⟩
def HSP_J_STATUS_WITHHELD (j : Nat) : Fld := ⟨HSP_J_STATUS j, 3, 1⟩
def HSP_J_STATUS_CRC_RETRY (j : Nat) : Fld := ⟨HSP_J_STATUS j, 4, 1⟩
def HSP_J_STATUS_PIN_DEFER (j : Nat) : Fld := ⟨HSP_J_STATUS j, 5, 1⟩
def HSP_J_STATUS_EARLY (j : Nat) : Fld := ⟨HSP_J_STATUS j, 6, 1⟩
def HSP_J_STATUS_GAVE_UP (j : Nat) : Fld := ⟨HSP_J_STATUS j, 7, 1⟩
def HSP_J_GROUP (j : Nat) : Nat := 0x1200028 + 64 * j
def HSP_J_GROUP_RANK (j : Nat) : Fld := ⟨HSP_J_GROUP j, 0, 5⟩
def HSP_J_GROUP_G (j : Nat) : Fld := ⟨HSP_J_GROUP j, 5, 5⟩
def HSP_J_GROUP_GMIN (j : Nat) : Fld := ⟨HSP_J_GROUP j, 10, 5⟩
def HSP_J_LIVE (j : Nat) : Nat := 0x120002C + 64 * j
def HSP_J_LIVE_LIVE (j : Nat) : Fld := ⟨HSP_J_LIVE j, 0, 17⟩
def HSP_J_FLOW (j : Nat) : Nat := 0x1200030 + 64 * j
def HSP_J_FLOW_HFLOW_BASE (j : Nat) : Fld := ⟨HSP_J_FLOW j, 0, 14⟩
def HSP_J_FLOW_HASP_CHUNK_TIMEOUT (j : Nat) : Fld := ⟨HSP_J_FLOW j, 16, 8⟩
def HSP_J_FLOW_DRAIN_TIMEOUT (j : Nat) : Fld := ⟨HSP_J_FLOW j, 24, 8⟩
def HSP_SLOT_STATE (p : Nat) : Nat := 0x1200400 + 512 * p
def HSP_SLOT_STATE_A_STATE (p : Nat) : Fld := ⟨HSP_SLOT_STATE p, 0, 3⟩
def HSP_SLOT_STATE_B_STATE (p : Nat) : Fld := ⟨HSP_SLOT_STATE p, 3, 3⟩
def HSP_SLOT_STATE_A_PIN (p : Nat) : Fld := ⟨HSP_SLOT_STATE p, 6, 1⟩
def HSP_SLOT_STATE_B_PIN (p : Nat) : Fld := ⟨HSP_SLOT_STATE p, 7, 1⟩
def HSP_SLOT_STATE_JOB (p : Nat) : Fld := ⟨HSP_SLOT_STATE p, 8, 3⟩
def HSP_SLOT_EPOCH_A (p : Nat) : Nat := 0x1200404 + 512 * p
def HSP_SLOT_EPOCH_A_EPOCH (p : Nat) : Fld := ⟨HSP_SLOT_EPOCH_A p, 0, 32⟩
def HSP_SLOT_EPOCH_B (p : Nat) : Nat := 0x1200408 + 512 * p
def HSP_SLOT_EPOCH_B_EPOCH (p : Nat) : Fld := ⟨HSP_SLOT_EPOCH_B p, 0, 32⟩
def HSP_CSLOT (p : Nat) : Nat := 0x120040C + 512 * p
def HSP_CSLOT_CSLOT (p : Nat) : Fld := ⟨HSP_CSLOT p, 0, 32⟩
def HSP_PLEN (p : Nat) (n : Nat) : Nat := 0x1200440 + 512 * p + 4 * n
def HSP_PLEN_PLEN (p : Nat) (n : Nat) : Fld := ⟨HSP_PLEN p n, 0, 32⟩
def HSP_STRIPE (p : Nat) (n : Nat) : Nat := 0x1200500 + 512 * p + 4 * n
def HSP_STRIPE_STRIPE (p : Nat) (n : Nat) : Fld := ⟨HSP_STRIPE p n, 0, 9⟩
def HSP_STRIPE_HOME_PART (p : Nat) (n : Nat) : Fld := ⟨HSP_STRIPE p n, 9, 3⟩
def HSP_STRIPE_TPLEN (p : Nat) (n : Nat) : Fld := ⟨HSP_STRIPE p n, 12, 20⟩

/-! ### Table 12.8 -/

def RCV_CFG : Nat := 0x1208000
def RCV_CFG_GHB_PERIOD : Fld := ⟨RCV_CFG, 0, 8⟩
def RCV_CFG_GHB_MISS : Fld := ⟨RCV_CFG, 8, 4⟩
def RCV_CFG_QUIESCE_US : Fld := ⟨RCV_CFG, 16, 12⟩
def RCV_CFG1 : Nat := 0x1208004
def RCV_CFG1_CUT_TIMEOUT : Fld := ⟨RCV_CFG1, 0, 16⟩
def RCV_HEALTH : Nat := 0x1208010
def RCV_HEALTH_MODULE : Fld := ⟨RCV_HEALTH, 0, 3⟩
def RCV_HEALTH_PART (x : Nat) : Fld := ⟨RCV_HEALTH, 3 + 3 * x, 3⟩
def RCV_RETIRE_CFG : Nat := 0x1208014
def RCV_RETIRE_CFG_RETIRE_MAX : Fld := ⟨RCV_RETIRE_CFG, 0, 4⟩
def RCV_RETIRE_CFG_RETIRE_WINDOW : Fld := ⟨RCV_RETIRE_CFG, 4, 12⟩
def RCV_RETIRE_USED : Nat := 0x1208018
def RCV_RETIRE_USED_USED : Fld := ⟨RCV_RETIRE_USED, 0, 4⟩
def RCV_RETIRE_USED_SPENT : Fld := ⟨RCV_RETIRE_USED, 4, 1⟩
def RCV_FENCE : Nat := 0x1208020
def RCV_FENCE_FENCED : Fld := ⟨RCV_FENCE, 0, 1⟩
def RCV_FENCE_JOB_FLD : Fld := ⟨RCV_FENCE, 1, 3⟩
def RCV_FENCE_GEN : Fld := ⟨RCV_FENCE, 16, 16⟩
def RCV_FENCE_JOB : Nat := 0x1208024
def RCV_FENCE_JOB_JOB_ID : Fld := ⟨RCV_FENCE_JOB, 0, 32⟩
def RCV_J_STATUS (j : Nat) : Nat := 0x1208100 + 64 * j
def RCV_J_STATUS_PHASE (j : Nat) : Fld := ⟨RCV_J_STATUS j, 0, 3⟩
def RCV_J_STATUS_LOG_FULL (j : Nat) : Fld := ⟨RCV_J_STATUS j, 4, 1⟩
def RCV_J_STATUS_CUT_TIMEOUT_SEEN (j : Nat) : Fld := ⟨RCV_J_STATUS j, 5, 1⟩
def RCV_J_STATUS_REPLICA_FELL_BACK (j : Nat) : Fld := ⟨RCV_J_STATUS j, 6, 1⟩
def RCV_J_STATUS_CAUSE (j : Nat) : Fld := ⟨RCV_J_STATUS j, 12, 4⟩
def RCV_J_STATUS_LAST_CODE (j : Nat) : Fld := ⟨RCV_J_STATUS j, 16, 16⟩
def RCV_J_LOST (j : Nat) : Nat := 0x1208104 + 64 * j
def RCV_J_LOST_GID (j : Nat) : Fld := ⟨RCV_J_LOST j, 0, 20⟩
def RCV_J_LOSSES (j : Nat) : Nat := 0x1208108 + 64 * j
def RCV_J_LOSSES_GEN (j : Nat) : Fld := ⟨RCV_J_LOSSES j, 0, 16⟩
def RCV_J_LOSSES_COUNT (j : Nat) : Fld := ⟨RCV_J_LOSSES j, 16, 16⟩
def RCV_J_REPLAY (j : Nat) : Nat := 0x120810C + 64 * j
def RCV_J_REPLAY_EPOCH (j : Nat) : Fld := ⟨RCV_J_REPLAY j, 0, 32⟩
def RCV_J_TARGET (j : Nat) : Nat := 0x1208110 + 64 * j
def RCV_J_TARGET_STEP (j : Nat) : Fld := ⟨RCV_J_TARGET j, 0, 32⟩
def RCV_J_DEAD (j : Nat) (n : Nat) : Nat := 0x1208400 + 64 * j + 4 * n
def RCV_J_DEAD_GID (j : Nat) (n : Nat) : Fld := ⟨RCV_J_DEAD j n, 0, 20⟩
def RCV_J_DEAD_VALID (j : Nat) (n : Nat) : Fld := ⟨RCV_J_DEAD j n, 20, 1⟩
def RCV_LOG_HEAD (p : Nat) : Nat := 0x1208800 + 16 * p
def RCV_LOG_HEAD_HEAD (p : Nat) : Fld := ⟨RCV_LOG_HEAD p, 0, 32⟩
def RCV_LOG_TAIL (p : Nat) : Nat := 0x1208804 + 16 * p
def RCV_LOG_TAIL_TAIL (p : Nat) : Fld := ⟨RCV_LOG_TAIL p, 0, 32⟩
def RCV_LOG_OLDEST (p : Nat) : Nat := 0x1208808 + 16 * p
def RCV_LOG_OLDEST_STEP (p : Nat) : Fld := ⟨RCV_LOG_OLDEST p, 0, 32⟩
def RCV_LOG_USE (p : Nat) : Nat := 0x120880C + 16 * p
def RCV_LOG_USE_PERCENT (p : Nat) : Fld := ⟨RCV_LOG_USE p, 0, 7⟩
def RCV_LOG_USE_BROKEN (p : Nat) : Fld := ⟨RCV_LOG_USE p, 7, 1⟩
def RCV_J_DIVERT (j : Nat) (w : Nat) : Nat := 0x1210000 + 8192 * j + 4 * w
def RCV_J_DIVERT_DIVERT (j : Nat) (w : Nat) : Fld := ⟨RCV_J_DIVERT j w, 0, 32⟩

/-! ### Table 13.10 -/

def KPR_ERR_HEAD : Nat := 0x102000
def KPR_ERR_HEAD_HEAD : Fld := ⟨KPR_ERR_HEAD, 0, 10⟩
def KPR_ERR_TAIL : Nat := 0x102004
def KPR_ERR_TAIL_TAIL : Fld := ⟨KPR_ERR_TAIL, 0, 10⟩
def KPR_ERR_STATUS : Nat := 0x102008
def KPR_ERR_STATUS_OVERRUN : Fld := ⟨KPR_ERR_STATUS, 0, 1⟩
def KPR_ERR_SEQ : Nat := 0x10200C
def KPR_ERR_SEQ_SEQ : Fld := ⟨KPR_ERR_SEQ, 0, 32⟩
def KPR_ERR_ALERT_MASK : Nat := 0x102010
def KPR_ERR_ALERT_MASK_MASK : Fld := ⟨KPR_ERR_ALERT_MASK, 0, 32⟩
def KPR_TH (k : Nat) : Nat := 0x102100 + 4 * k
def KPR_TH_COUNT (k : Nat) : Fld := ⟨KPR_TH k, 0, 16⟩
def KPR_TH_WINDOW (k : Nat) : Fld := ⟨KPR_TH k, 16, 12⟩
def KPR_COND_CFG : Nat := 0x102140
def KPR_COND_CFG_COND_FRAC : Fld := ⟨KPR_COND_CFG, 0, 4⟩
def KPR_COND_CFG_COND_EXPOSE : Fld := ⟨KPR_COND_CFG, 4, 4⟩
def KPR_COND_CFG_GUARD : Fld := ⟨KPR_COND_CFG, 8, 2⟩
def KPR_COND_CFG_GUARD_MV : Fld := ⟨KPR_COND_CFG, 16, 8⟩
def KPR_COND_CFG_GUARD_MHZ : Fld := ⟨KPR_COND_CFG, 24, 8⟩
def KPR_COND_STATUS : Nat := 0x102144
def KPR_COND_STATUS_COUNT : Fld := ⟨KPR_COND_STATUS, 0, 5⟩
def KPR_COND_STATUS_CLOCK_GUARD : Fld := ⟨KPR_COND_STATUS, 8, 1⟩
def KPR_COND_STATUS_COND_SEEN : Fld := ⟨KPR_COND_STATUS, 9, 1⟩
def KPR_COND_STATUS_GUARD_FAIL : Fld := ⟨KPR_COND_STATUS, 10, 1⟩
def KPR_COND (n : Nat) : Nat := 0x102180 + 4 * n
def KPR_COND_UNIT (n : Nat) : Fld := ⟨KPR_COND n, 0, 16⟩
def KPR_COND_AXIS (n : Nat) : Fld := ⟨KPR_COND n, 16, 2⟩
def KPR_COND_BAND (n : Nat) : Fld := ⟨KPR_COND n, 18, 3⟩
def KPR_COND_GUARD (n : Nat) : Fld := ⟨KPR_COND n, 21, 2⟩
def KPR_COND_VALID (n : Nat) : Fld := ⟨KPR_COND n, 23, 1⟩
def KPR_ERR_RING (i : Nat) : Nat := 0x110000 + 64 * i

/-! ### Table 13.11 -/

def CAM_KILLED (p : Nat) : Nat := partBase p + 0x80
def CAM_KILLED_ENTRY (p : Nat) : Fld := ⟨CAM_KILLED p, 0, 32⟩
def CAM_KILL_CAP0 (p : Nat) : Nat := partBase p + 0x84
def CAM_KILL_CAP0_DESC_INDEX (p : Nat) : Fld := ⟨CAM_KILL_CAP0 p, 0, 24⟩
def CAM_KILL_CAP0_CONTEXT (p : Nat) : Fld := ⟨CAM_KILL_CAP0 p, 24, 6⟩
def CAM_KILL_CAP0_VALID (p : Nat) : Fld := ⟨CAM_KILL_CAP0 p, 31, 1⟩
def CAM_KILL_CAP1 (p : Nat) : Nat := partBase p + 0x88
def CAM_KILL_CAP1_REASON (p : Nat) : Fld := ⟨CAM_KILL_CAP1 p, 0, 8⟩
def CAM_KILL_CAP1_INPUT (p : Nat) : Fld := ⟨CAM_KILL_CAP1 p, 8, 8⟩

/-! ### Table 13.12 -/

def MXE_TWOKEY_CAP0 (p : Nat) : Nat := partBase p + 0x80050
def MXE_TWOKEY_CAP0_OUTCOME (p : Nat) : Fld := ⟨MXE_TWOKEY_CAP0 p, 0, 3⟩
def MXE_TWOKEY_CAP0_ENGINE (p : Nat) : Fld := ⟨MXE_TWOKEY_CAP0 p, 3, 3⟩
def MXE_TWOKEY_CAP0_SIBLING (p : Nat) : Fld := ⟨MXE_TWOKEY_CAP0 p, 6, 3⟩
def MXE_TWOKEY_CAP0_VALID (p : Nat) : Fld := ⟨MXE_TWOKEY_CAP0 p, 31, 1⟩
def MXE_TWOKEY_LAST (p : Nat) : Nat := partBase p + 0x80054
def MXE_TWOKEY_LAST_CYCLES (p : Nat) : Fld := ⟨MXE_TWOKEY_LAST p, 0, 32⟩

/-! ### Table 13.13 -/

def UPD_CHK_CFG (p : Nat) : Nat := partBase p + 0x100300
def UPD_CHK_CFG_WB_CHECK (p : Nat) : Fld := ⟨UPD_CHK_CFG p, 0, 1⟩
def UPD_CHK_CFG_SAMPLE (p : Nat) : Fld := ⟨UPD_CHK_CFG p, 8, 8⟩
def UPD_CHK_SIBLING (p : Nat) : Nat := partBase p + 0x100304
def UPD_CHK_SIBLING_PART (p : Nat) : Fld := ⟨UPD_CHK_SIBLING p, 0, 4⟩
def UPD_TWOKEY_CAP0 (p : Nat) : Nat := partBase p + 0x100308
def UPD_TWOKEY_CAP0_OUTCOME (p : Nat) : Fld := ⟨UPD_TWOKEY_CAP0 p, 0, 3⟩
def UPD_TWOKEY_CAP0_MISS (p : Nat) : Fld := ⟨UPD_TWOKEY_CAP0 p, 3, 3⟩
def UPD_TWOKEY_CAP0_VALID (p : Nat) : Fld := ⟨UPD_TWOKEY_CAP0 p, 31, 1⟩

/-! ### Table 14.7 -/

def KPR_HB_CFG : Nat := 0x100100
def KPR_HB_CFG_CC_PERIOD : Fld := ⟨KPR_HB_CFG, 0, 10⟩
def KPR_HB_CFG_CC_MISS : Fld := ⟨KPR_HB_CFG, 10, 4⟩
def KPR_HB_CFG_KPR_PERIOD : Fld := ⟨KPR_HB_CFG, 16, 10⟩
def KPR_HB_CFG_KPR_MISS : Fld := ⟨KPR_HB_CFG, 26, 4⟩
def KPR_CC_HB (p : Nat) : Nat := 0x100110 + 4 * p
def KPR_CC_HB_BEAT (p : Nat) : Fld := ⟨KPR_CC_HB p, 0, 32⟩
def KPR_SELF_HB : Nat := 0x100130
def KPR_SELF_HB_BEAT : Fld := ⟨KPR_SELF_HB, 0, 32⟩
def KPR_HB_STATUS : Nat := 0x100134
def KPR_HB_STATUS_CC_MISSING : Fld := ⟨KPR_HB_STATUS, 0, 8⟩
def KPR_HB_STATUS_CC_MISS_SEEN : Fld := ⟨KPR_HB_STATUS, 8, 1⟩
def KPR_HB_STATUS_KPR_MISS_SEEN : Fld := ⟨KPR_HB_STATUS, 9, 1⟩
def KPR_HANG_CFG : Nat := 0x100140
def KPR_HANG_CFG_HANG_US : Fld := ⟨KPR_HANG_CFG, 0, 16⟩
def KPR_ESC_CFG : Nat := 0x100144
def KPR_ESC_CFG_ENG_RST_MAX : Fld := ⟨KPR_ESC_CFG, 0, 4⟩
def KPR_ESC_CFG_PART_RST_MAX : Fld := ⟨KPR_ESC_CFG, 4, 4⟩
def KPR_ESC_CFG_MOD_RST_MAX : Fld := ⟨KPR_ESC_CFG, 8, 4⟩
def KPR_ESC_CFG_PWR_CYCLE_MAX : Fld := ⟨KPR_ESC_CFG, 12, 4⟩
def KPR_ESC_CFG_ESC_WINDOW : Fld := ⟨KPR_ESC_CFG, 16, 12⟩
def KPR_ESC_COUNT : Nat := 0x100148
def KPR_ESC_COUNT_MOD_RESETS : Fld := ⟨KPR_ESC_COUNT, 0, 4⟩
def KPR_ESC_COUNT_PWR_CYCLES : Fld := ⟨KPR_ESC_COUNT, 4, 4⟩
def KPR_ESC_COUNT_HELD : Fld := ⟨KPR_ESC_COUNT, 8, 1⟩
def KPR_ESC_CLEAR : Nat := 0x10014C
def KPR_ESC_CLEAR_CLEAR : Fld := ⟨KPR_ESC_CLEAR, 0, 1⟩
def KPR_RST_REQ : Nat := 0x100150
def KPR_RST_REQ_SCOPE : Fld := ⟨KPR_RST_REQ, 0, 3⟩
def KPR_RST_REQ_PART : Fld := ⟨KPR_RST_REQ, 3, 4⟩
def KPR_RST_REQ_UNIT : Fld := ⟨KPR_RST_REQ, 7, 8⟩
def KPR_RST_REQ_HUB : Fld := ⟨KPR_RST_REQ, 15, 1⟩
def KPR_RST_REQ_CONTEXT : Fld := ⟨KPR_RST_REQ, 16, 6⟩
def KPR_RST_REQ_GO : Fld := ⟨KPR_RST_REQ, 31, 1⟩
def KPR_RST_STATUS : Nat := 0x100154
def KPR_RST_STATUS_BUSY : Fld := ⟨KPR_RST_STATUS, 0, 1⟩
def KPR_RST_STATUS_REQ_REJECT : Fld := ⟨KPR_RST_STATUS, 1, 1⟩
def KPR_RST_STATUS_ACTIVE_SCOPE : Fld := ⟨KPR_RST_STATUS, 2, 3⟩
def KPR_RST_LAST0 : Nat := 0x100160
def KPR_RST_LAST0_SCOPE : Fld := ⟨KPR_RST_LAST0, 0, 3⟩
def KPR_RST_LAST0_TRIGGER : Fld := ⟨KPR_RST_LAST0, 8, 8⟩
def KPR_RST_LAST0_RESULT : Fld := ⟨KPR_RST_LAST0, 16, 8⟩
def KPR_RST_LAST0_RETAIN : Fld := ⟨KPR_RST_LAST0, 24, 1⟩
def KPR_RST_LAST1 : Nat := 0x100164
def KPR_RST_LAST1_UNIT : Fld := ⟨KPR_RST_LAST1, 0, 16⟩
def KPR_RST_LAST1_CONTEXT : Fld := ⟨KPR_RST_LAST1, 16, 6⟩
def KPR_RST_LAST2 : Nat := 0x100168
def KPR_RST_LAST2_DURATION_US : Fld := ⟨KPR_RST_LAST2, 0, 32⟩
def KPR_RST_LAST3 : Nat := 0x10016C
def KPR_RST_LAST3_OPMIN : Fld := ⟨KPR_RST_LAST3, 0, 32⟩
def KPR_BOOT_CAUSE : Nat := 0x100170
def KPR_BOOT_CAUSE_CAUSE : Fld := ⟨KPR_BOOT_CAUSE, 0, 3⟩

/-! ### Table 15.9 -/

def EVR_OPMIN : Nat := 0x200000
def EVR_OPMIN_OPMIN : Fld := ⟨EVR_OPMIN, 0, 32⟩
def EVR_PCYC : Nat := 0x200004
def EVR_PCYC_PCYC : Fld := ⟨EVR_PCYC, 0, 32⟩
def EVR_RSEQ : Nat := 0x200008
def EVR_RSEQ_RSEQ : Fld := ⟨EVR_RSEQ, 0, 32⟩
def EVR_DAY : Nat := 0x20000C
def EVR_DAY_DAY : Fld := ⟨EVR_DAY, 0, 32⟩
def EVR_RECENT_HEAD : Nat := 0x200010
def EVR_RECENT_HEAD_HEAD : Fld := ⟨EVR_RECENT_HEAD, 0, 17⟩
def EVR_RECENT_TAIL : Nat := 0x200014
def EVR_RECENT_TAIL_TAIL : Fld := ⟨EVR_RECENT_TAIL, 0, 17⟩
def EVR_LIFE_COUNT : Nat := 0x200018
def EVR_LIFE_COUNT_COUNT : Fld := ⟨EVR_LIFE_COUNT, 0, 15⟩
def EVR_CFG : Nat := 0x200020
def EVR_CFG_FLUSH_MIN : Fld := ⟨EVR_CFG, 0, 6⟩
def EVR_STATUS : Nat := 0x200024
def EVR_STATUS_STAGED : Fld := ⟨EVR_STATUS, 0, 9⟩
def EVR_STATUS_FLUSH_BUSY : Fld := ⟨EVR_STATUS, 9, 1⟩
def EVR_STATUS_LIFE_FULL : Fld := ⟨EVR_STATUS, 10, 1⟩
def EVR_STATUS_DROP_SEEN : Fld := ⟨EVR_STATUS, 11, 1⟩
def EVR_STATUS_CKPT_LOST : Fld := ⟨EVR_STATUS, 12, 1⟩
def EVR_STATUS_READ_BUSY : Fld := ⟨EVR_STATUS, 13, 1⟩
def UHS_STATUS : Nat := 0x210000
def UHS_STATUS_LOG_USE : Fld := ⟨UHS_STATUS, 0, 7⟩
def UHS_STATUS_COMPACT_SEEN : Fld := ⟨UHS_STATUS, 7, 1⟩
def UHS_STATUS_STATE_BUSY : Fld := ⟨UHS_STATUS, 8, 1⟩
def UHS_STATUS_EDIT_BUSY : Fld := ⟨UHS_STATUS, 9, 1⟩
def UHS_ENTRIES : Nat := 0x210004
def UHS_ENTRIES_ENTRIES : Fld := ⟨UHS_ENTRIES, 0, 12⟩
def UHS_STATE_SEQ : Nat := 0x210008
def UHS_STATE_SEQ_SEQ : Fld := ⟨UHS_STATE_SEQ, 0, 32⟩
def UHS_NVM_SPARE : Nat := 0x21000C
def UHS_NVM_SPARE_USED : Fld := ⟨UHS_NVM_SPARE, 0, 11⟩

/-! ### Table 16.12 -/

def HIF_LINK : Nat := 0x20
def HIF_LINK_RATE : Fld := ⟨HIF_LINK, 0, 3⟩
def HIF_LINK_WIDTH : Fld := ⟨HIF_LINK, 3, 5⟩
def HIF_LINK_FLIT : Fld := ⟨HIF_LINK, 8, 1⟩
def HIF_FN_STATUS (f : Nat) : Nat := 0x100 + 16 * f
def HIF_FN_STATUS_LAST_DROP (f : Nat) : Fld := ⟨HIF_FN_STATUS f, 0, 16⟩
def HIF_FN_STATUS_DROP (f : Nat) : Fld := ⟨HIF_FN_STATUS f, 16, 1⟩
def HIF_FN_STATUS_DENIED (f : Nat) : Fld := ⟨HIF_FN_STATUS f, 17, 1⟩
def HIF_FN_STATUS_UR_SENT (f : Nat) : Fld := ⟨HIF_FN_STATUS f, 18, 1⟩
def HIF_BAR2_BASE (f : Nat) : Nat := 0x200 + 4 * f
def HIF_BAR2_BASE_BASE_GIB (f : Nat) : Fld := ⟨HIF_BAR2_BASE f, 0, 9⟩
def HIF_VF_MAP (v : Nat) : Nat := 0x300 + 4 * v
def HIF_VF_MAP_PARTS (v : Nat) : Fld := ⟨HIF_VF_MAP v, 0, 8⟩
def HIF_VF_MAP_JOB (v : Nat) : Fld := ⟨HIF_VF_MAP v, 8, 3⟩
def HIF_VF_MAP_VALID (v : Nat) : Fld := ⟨HIF_VF_MAP v, 11, 1⟩
def HIF_IRQ_MOD (f : Nat) : Nat := 0x400 + 4 * f
def HIF_IRQ_MOD_CQ_US (f : Nat) : Fld := ⟨HIF_IRQ_MOD f, 0, 10⟩
def HIF_IRQ_MOD_MBX_US (f : Nat) : Fld := ⟨HIF_IRQ_MOD f, 10, 10⟩
def HIF_IRQ_MOD_ERR_US (f : Nat) : Fld := ⟨HIF_IRQ_MOD f, 20, 10⟩

/-! ### Table 16.13 -/

def MBX_DATA (n : Nat) : Nat := 0x10000000 + 256 * n
def MBX_STATUS (n : Nat) : Nat := 0x10000040 + 256 * n
def MBX_STATUS_FULL (n : Nat) : Fld := ⟨MBX_STATUS n, 0, 1⟩
def MBX_STATUS_COLLIDE (n : Nat) : Fld := ⟨MBX_STATUS n, 1, 1⟩
def MBX_STATUS_LEN (n : Nat) : Fld := ⟨MBX_STATUS n, 8, 5⟩
def MBX_STATUS_SEQ (n : Nat) : Fld := ⟨MBX_STATUS n, 16, 8⟩
def MBX_SENDER (n : Nat) : Nat := 0x10000044 + 256 * n
def MBX_SENDER_SENDER (n : Nat) : Fld := ⟨MBX_SENDER n, 0, 16⟩
def MBX_GID (n : Nat) : Nat := 0x10000048 + 256 * n
def MBX_GID_GID (n : Nat) : Fld := ⟨MBX_GID n, 0, 20⟩
def MBX_TAKE (n : Nat) : Nat := 0x1000004C + 256 * n
def MBX_TAKE_SEQ (n : Nat) : Fld := ⟨MBX_TAKE n, 0, 8⟩
def MBX_TAKE_GO (n : Nat) : Fld := ⟨MBX_TAKE n, 8, 1⟩
def HIF_OP_REQ (f : Nat) (w : Nat) : Nat := 0x10040000 + 4096 * f + 4 * w
def HIF_OP_REQ_WORD (f : Nat) (w : Nat) : Fld := ⟨HIF_OP_REQ f w, 0, 32⟩
def HIF_OP_SUBMIT (f : Nat) : Nat := 0x10040040 + 4096 * f
def HIF_CQ_BASE_LO (f : Nat) : Nat := 0x10080000 + 4096 * f
def HIF_CQ_BASE_LO_BASE (f : Nat) : Fld := ⟨HIF_CQ_BASE_LO f, 12, 20⟩
def HIF_CQ_BASE_HI (f : Nat) : Nat := 0x10080004 + 4096 * f
def HIF_CQ_BASE_HI_BASE (f : Nat) : Fld := ⟨HIF_CQ_BASE_HI f, 0, 32⟩
def HIF_CQ_SIZE (f : Nat) : Nat := 0x10080008 + 4096 * f
def HIF_CQ_SIZE_LOG2 (f : Nat) : Fld := ⟨HIF_CQ_SIZE f, 0, 5⟩
def HIF_CQ_SIZE_ENABLE (f : Nat) : Fld := ⟨HIF_CQ_SIZE f, 8, 1⟩
def HIF_CQ_HEAD (f : Nat) : Nat := 0x1008000C + 4096 * f
def HIF_CQ_HEAD_HEAD (f : Nat) : Fld := ⟨HIF_CQ_HEAD f, 0, 16⟩
def HIF_CQ_TAIL (f : Nat) : Nat := 0x10080010 + 4096 * f
def HIF_CQ_TAIL_TAIL (f : Nat) : Fld := ⟨HIF_CQ_TAIL f, 0, 16⟩
def HIF_CQ_STATUS (f : Nat) : Nat := 0x10080014 + 4096 * f
def HIF_CQ_STATUS_HOLD (f : Nat) : Fld := ⟨HIF_CQ_STATUS f, 0, 1⟩
def HIF_CQ_STATUS_LOST (f : Nat) : Fld := ⟨HIF_CQ_STATUS f, 1, 1⟩
def HIF_CQ_STATUS_HELD (f : Nat) : Fld := ⟨HIF_CQ_STATUS f, 16, 9⟩
def MBX_RSEND_DATA : Nat := 0x100C0000
def MBX_RSEND_CTRL : Nat := 0x100C0040
def MBX_RSEND_CTRL_GID : Fld := ⟨MBX_RSEND_CTRL, 0, 20⟩
def MBX_RSEND_CTRL_MBOX : Fld := ⟨MBX_RSEND_CTRL, 20, 6⟩
def MBX_RSEND_CTRL_LEN : Fld := ⟨MBX_RSEND_CTRL, 26, 5⟩
def MBX_RSEND_CTRL_GO : Fld := ⟨MBX_RSEND_CTRL, 31, 1⟩
def MBX_RSEND_STATUS : Nat := 0x100C0044
def MBX_RSEND_STATUS_BUSY : Fld := ⟨MBX_RSEND_STATUS, 0, 1⟩

/-! ### Table 17.7 -/

def BIT_VER : Nat := 0x1000
def BIT_VER_MAJOR : Fld := ⟨BIT_VER, 0, 8⟩
def BIT_VER_MINOR : Fld := ⟨BIT_VER, 8, 8⟩
def BIT_VER_FAMILY : Fld := ⟨BIT_VER, 16, 8⟩
def BIT_VER_MBX_MIN : Fld := ⟨BIT_VER, 24, 4⟩
def BIT_VER_MBX_MAX : Fld := ⟨BIT_VER, 28, 4⟩
def BIT_KEYS : Nat := 0x1004
def BIT_KEYS_PRESENT : Fld := ⟨BIT_KEYS, 0, 4⟩
def BIT_KEYS_REVOKED : Fld := ⟨BIT_KEYS, 4, 4⟩
def BIT_SLOT_ID (j : Nat) : Nat := 0x1010 + 16 * j
def BIT_SLOT_ID_IMAGE_ID (j : Nat) : Fld := ⟨BIT_SLOT_ID j, 0, 32⟩
def BIT_SLOT_STATE (j : Nat) : Nat := 0x1014 + 16 * j
def BIT_SLOT_STATE_STATE (j : Nat) : Fld := ⟨BIT_SLOT_STATE j, 0, 2⟩
def BIT_SLOT_STATE_KEY_SLOT (j : Nat) : Fld := ⟨BIT_SLOT_STATE j, 2, 2⟩
def BIT_SLOT_STATE_NEWER_IGNORED (j : Nat) : Fld := ⟨BIT_SLOT_STATE j, 4, 1⟩
def BIT_SLOT_STATE_TABLE_ARMED (j : Nat) : Fld := ⟨BIT_SLOT_STATE j, 5, 1⟩
def BIT_SLOT_STATE_DOROUNTE (j : Nat) : Fld := ⟨BIT_SLOT_STATE j, 6, 1⟩
def BIT_SLOT_STATE_MINOR_APPLIED (j : Nat) : Fld := ⟨BIT_SLOT_STATE j, 8, 8⟩
def BIT_SLOT_SHAPE (j : Nat) : Nat := 0x1018 + 16 * j
def BIT_SLOT_SHAPE_SHAPE (j : Nat) : Fld := ⟨BIT_SLOT_SHAPE j, 0, 32⟩
def BIT_SLOT_TABLE (j : Nat) : Nat := 0x101C + 16 * j
def BIT_SLOT_TABLE_IMAGE_ID (j : Nat) : Fld := ⟨BIT_SLOT_TABLE j, 0, 32⟩
def BIT_STATUS : Nat := 0x1090
def BIT_STATUS_LOCKED : Fld := ⟨BIT_STATUS, 0, 1⟩
def BIT_STATUS_LOCK_WRITE : Fld := ⟨BIT_STATUS, 1, 1⟩
def BIT_STATUS_LOAD_BUSY : Fld := ⟨BIT_STATUS, 2, 1⟩
def BIT_FAIL0 : Nat := 0x1094
def BIT_FAIL0_REASON : Fld := ⟨BIT_FAIL0, 0, 8⟩
def BIT_FAIL0_JOB : Fld := ⟨BIT_FAIL0, 8, 3⟩
def BIT_FAIL0_TABLE : Fld := ⟨BIT_FAIL0, 11, 1⟩
def BIT_FAIL0_PART : Fld := ⟨BIT_FAIL0, 12, 4⟩
def BIT_FAIL0_TYPE : Fld := ⟨BIT_FAIL0, 16, 16⟩
def BIT_FAIL1 : Nat := 0x1098
def BIT_FAIL1_OFFSET : Fld := ⟨BIT_FAIL1, 0, 32⟩
def BIT_MBX_PEER (n : Nat) : Nat := 0x1100 + 4 * n
def BIT_MBX_PEER_VER (n : Nat) : Fld := ⟨BIT_MBX_PEER n, 0, 4⟩
def BIT_MBX_PEER_PEER_MIN (n : Nat) : Fld := ⟨BIT_MBX_PEER n, 4, 4⟩
def BIT_MBX_PEER_PEER_MAX (n : Nat) : Fld := ⟨BIT_MBX_PEER n, 8, 4⟩

/-! ### Table 18.10 -/

def PWR_VIN : Nat := 0x300000
def PWR_VIN_VIN_MV : Fld := ⟨PWR_VIN, 0, 16⟩
def PWR_VIN_PIN_W : Fld := ⟨PWR_VIN, 16, 16⟩
def PWR_STATIC : Nat := 0x300004
def PWR_STATIC_STATIC_W : Fld := ⟨PWR_STATIC, 0, 16⟩
def PWR_CAP : Nat := 0x300008
def PWR_CAP_CAP_W : Fld := ⟨PWR_CAP, 0, 11⟩
def PWR_CAP_CAP_MARGIN : Fld := ⟨PWR_CAP, 16, 8⟩
def PWR_THROTTLE : Nat := 0x30000C
def PWR_THROTTLE_DUTY_A : Fld := ⟨PWR_THROTTLE, 0, 5⟩
def PWR_THROTTLE_DUTY_B : Fld := ⟨PWR_THROTTLE, 8, 5⟩
def PWR_STATUS : Nat := 0x300010
def PWR_STATUS_UV_SEEN : Fld := ⟨PWR_STATUS, 0, 1⟩
def PWR_STATUS_OV_SEEN : Fld := ⟨PWR_STATUS, 1, 1⟩
def PWR_STATUS_CAP_THROTTLED : Fld := ⟨PWR_STATUS, 2, 1⟩
def PWR_STATUS_THERM_THROTTLED : Fld := ⟨PWR_STATUS, 3, 1⟩
def PWR_STATUS_RAIL_FAULT : Fld := ⟨PWR_STATUS, 4, 1⟩
def PWR_STATUS_FLOOR : Fld := ⟨PWR_STATUS, 5, 1⟩
def PWR_STATUS_A3 : Fld := ⟨PWR_STATUS, 6, 1⟩
def PWR_THERM_CFG : Nat := 0x300014
def PWR_THERM_CFG_THROTTLE_C : Fld := ⟨PWR_THERM_CFG, 0, 8⟩
def PWR_A3 : Nat := 0x300018
def PWR_A3_ENTER : Fld := ⟨PWR_A3, 0, 1⟩
def PWR_A3_EXIT : Fld := ⟨PWR_A3, 1, 1⟩
def PWR_A3_REFUSED : Fld := ⟨PWR_A3, 2, 1⟩
def PWR_DOM (d : Nat) : Nat := 0x300100 + 4 * d
def PWR_DOM_STATE (d : Nat) : Fld := ⟨PWR_DOM d, 0, 2⟩
def PWR_DOM_HOLD_AWAKE (d : Nat) : Fld := ⟨PWR_DOM d, 2, 1⟩
def PWR_DOM_SLEEP (d : Nat) : Fld := ⟨PWR_DOM d, 3, 1⟩
def PWR_DOM_FAIL_WAKE (d : Nat) : Fld := ⟨PWR_DOM d, 4, 1⟩
def PWR_RAIL (r : Nat) : Nat := 0x300200 + 4 * r
def PWR_RAIL_SET_MV (r : Nat) : Fld := ⟨PWR_RAIL r, 0, 16⟩
def PWR_RAIL_MEAS_MV (r : Nat) : Fld := ⟨PWR_RAIL r, 16, 16⟩
def PWR_TEMP (s : Nat) : Nat := 0x300300 + 4 * s
def PWR_TEMP_TEMP (s : Nat) : Fld := ⟨PWR_TEMP s, 0, 16⟩
def PWR_TEMP_VALID (s : Nat) : Fld := ⟨PWR_TEMP s, 16, 1⟩
def PWR_J_LIMIT (j : Nat) : Nat := 0x300400 + 16 * j
def PWR_J_LIMIT_LOG_MIB (j : Nat) : Fld := ⟨PWR_J_LIMIT j, 0, 16⟩
def PWR_J_LIMIT_FLOW_LIMIT (j : Nat) : Fld := ⟨PWR_J_LIMIT j, 16, 15⟩
def PWR_J_QSTAT (j : Nat) : Nat := 0x300404 + 16 * j
def PWR_J_QSTAT_CODE (j : Nat) : Fld := ⟨PWR_J_QSTAT j, 0, 16⟩
def PWR_J_QSTAT_CUT_PENDING (j : Nat) : Fld := ⟨PWR_J_QSTAT j, 16, 1⟩
def PWR_J_QSTAT_CUT_SEEN (j : Nat) : Fld := ⟨PWR_J_QSTAT j, 17, 1⟩

/-! ### Table 18.11 -/

def CLK_J_REQ (j : Nat) : Nat := 0x301000 + 16 * j
def CLK_J_REQ_REQ_MHZ (j : Nat) : Fld := ⟨CLK_J_REQ j, 0, 12⟩
def CLK_J_CUR (j : Nat) : Nat := 0x301004 + 16 * j
def CLK_J_CUR_MHZ (j : Nat) : Fld := ⟨CLK_J_CUR j, 0, 12⟩
def CLK_J_CUR_LIMIT (j : Nat) : Fld := ⟨CLK_J_CUR j, 12, 3⟩
def CLK_J_CEIL (j : Nat) : Nat := 0x301008 + 16 * j
def CLK_J_CEIL_CAP_MHZ (j : Nat) : Fld := ⟨CLK_J_CEIL j, 0, 12⟩
def CLK_J_CEIL_THERM_MHZ (j : Nat) : Fld := ⟨CLK_J_CEIL j, 16, 12⟩
def CLK_GUARD : Nat := 0x301080
def CLK_GUARD_GUARD_MHZ : Fld := ⟨CLK_GUARD, 0, 12⟩
def CLK_STATUS : Nat := 0x301084
def CLK_STATUS_REF_OK : Fld := ⟨CLK_STATUS, 0, 1⟩
def CLK_STATUS_AO_FAST : Fld := ⟨CLK_STATUS, 1, 1⟩
def CLK_STATUS_PLL_LOCK : Fld := ⟨CLK_STATUS, 8, 8⟩
def CLK_STATUS_HUB_LOCK : Fld := ⟨CLK_STATUS, 16, 1⟩
def CLK_STATUS_PLL_LOSS : Fld := ⟨CLK_STATUS, 17, 1⟩

/-! ### Table 19.9 -/

def DBG_CNT_LO (p : Nat) (n : Nat) : Nat := partBase p + 0x1C0000 + 8 * n
def DBG_CNT_LO_VALUE (p : Nat) (n : Nat) : Fld := ⟨DBG_CNT_LO p n, 0, 32⟩
def DBG_CNT_HI (p : Nat) (n : Nat) : Nat := partBase p + 0x1C0004 + 8 * n
def DBG_CNT_HI_VALUE (p : Nat) (n : Nat) : Fld := ⟨DBG_CNT_HI p n, 0, 16⟩
def DBG_CNT_HI_OVF (p : Nat) (n : Nat) : Fld := ⟨DBG_CNT_HI p n, 16, 1⟩
def DBG_CNT_HI_KIND (p : Nat) (n : Nat) : Fld := ⟨DBG_CNT_HI p n, 17, 1⟩
def DBG_CNT_CLEAR (p : Nat) : Nat := partBase p + 0x1C2000
def DBG_CNT_CLEAR_INDEX (p : Nat) : Fld := ⟨DBG_CNT_CLEAR p, 0, 10⟩
def DBG_CNT_CLEAR_ALL (p : Nat) : Fld := ⟨DBG_CNT_CLEAR p, 30, 1⟩
def DBG_CNT_CLEAR_GO (p : Nat) : Fld := ⟨DBG_CNT_CLEAR p, 31, 1⟩
def DBG_STATUS (p : Nat) : Nat := partBase p + 0x1C2004
def DBG_STATUS_SAT_SEEN (p : Nat) : Fld := ⟨DBG_STATUS p, 0, 1⟩
def TRC_CFG (p : Nat) : Nat := partBase p + 0x1C2100
def TRC_CFG_MODE (p : Nat) : Fld := ⟨TRC_CFG p, 0, 2⟩
def TRC_CFG_CLASSES (p : Nat) : Fld := ⟨TRC_CFG p, 2, 2⟩
def TRC_CFG_EN (p : Nat) : Fld := ⟨TRC_CFG p, 4, 1⟩
def TRC_CFG_SPILL_STOP (p : Nat) : Fld := ⟨TRC_CFG p, 5, 1⟩
def TRC_PRE (p : Nat) : Nat := partBase p + 0x1C2104
def TRC_PRE_PRE (p : Nat) : Fld := ⟨TRC_PRE p, 0, 28⟩
def TRC_POST (p : Nat) : Nat := partBase p + 0x1C2108
def TRC_POST_POST (p : Nat) : Fld := ⟨TRC_POST p, 0, 28⟩
def TRC_TRIG_CFG (p : Nat) : Nat := partBase p + 0x1C210C
def TRC_TRIG_CFG_CLASS_MASK (p : Nat) : Fld := ⟨TRC_TRIG_CFG p, 1, 17⟩
def TRC_TRIG_CFG_SLIP_EN (p : Nat) : Fld := ⟨TRC_TRIG_CFG p, 18, 1⟩
def TRC_TRIG_CFG_MATCH_EN (p : Nat) : Fld := ⟨TRC_TRIG_CFG p, 19, 1⟩
def TRC_TRIG_CFG_FAN_IN (p : Nat) : Fld := ⟨TRC_TRIG_CFG p, 20, 1⟩
def TRC_TRIG_SLIP (p : Nat) : Nat := partBase p + 0x1C2110
def TRC_TRIG_SLIP_CYCLES (p : Nat) : Fld := ⟨TRC_TRIG_SLIP p, 0, 32⟩
def TRC_TRIG_MATCH (p : Nat) : Nat := partBase p + 0x1C2114
def TRC_TRIG_MATCH_LAYER (p : Nat) : Fld := ⟨TRC_TRIG_MATCH p, 0, 16⟩
def TRC_TRIG_MATCH_OPERATOR (p : Nat) : Fld := ⟨TRC_TRIG_MATCH p, 16, 16⟩
def TRC_TRIG_MASK (p : Nat) : Nat := partBase p + 0x1C2118
def TRC_TRIG_MASK_MASK (p : Nat) : Fld := ⟨TRC_TRIG_MASK p, 0, 32⟩
def TRC_CTRL (p : Nat) : Nat := partBase p + 0x1C211C
def TRC_CTRL_ARM (p : Nat) : Fld := ⟨TRC_CTRL p, 0, 1⟩
def TRC_CTRL_TRIG (p : Nat) : Fld := ⟨TRC_CTRL p, 1, 1⟩
def TRC_STATUS (p : Nat) : Nat := partBase p + 0x1C2120
def TRC_STATUS_STATE (p : Nat) : Fld := ⟨TRC_STATUS p, 0, 2⟩
def TRC_STATUS_DROP_SEEN (p : Nat) : Fld := ⟨TRC_STATUS p, 2, 1⟩
def TRC_STATUS_TRIG_IGNORED (p : Nat) : Fld := ⟨TRC_STATUS p, 3, 1⟩
def TRC_WPTR (p : Nat) : Nat := partBase p + 0x1C2124
def TRC_WPTR_WPTR (p : Nat) : Fld := ⟨TRC_WPTR p, 0, 17⟩
def TRC_TRIG_POS (p : Nat) : Nat := partBase p + 0x1C2128
def TRC_TRIG_POS_SLOT (p : Nat) : Fld := ⟨TRC_TRIG_POS p, 0, 28⟩
def TRC_TRIG_POS_VALID (p : Nat) : Fld := ⟨TRC_TRIG_POS p, 31, 1⟩
def TRC_SPILL_WPTR (p : Nat) : Nat := partBase p + 0x1C2130
def TRC_SPILL_WPTR_WPTR (p : Nat) : Fld := ⟨TRC_SPILL_WPTR p, 0, 28⟩
def TRC_SPILL_WPTR_WRAPPED (p : Nat) : Fld := ⟨TRC_SPILL_WPTR p, 31, 1⟩
def TRC_WIN_SEL (p : Nat) : Nat := partBase p + 0x1C2140
def TRC_WIN_SEL_PAGE (p : Nat) : Fld := ⟨TRC_WIN_SEL p, 0, 5⟩
def TRC_WIN (p : Nat) : Nat := partBase p + 0x1D0000

/-! ### Table 19.10 -/

def DBG_GCNT_LO (n : Nat) : Nat := 0x1400000 + 8 * n
def DBG_GCNT_LO_VALUE (n : Nat) : Fld := ⟨DBG_GCNT_LO n, 0, 32⟩
def DBG_GCNT_HI (n : Nat) : Nat := 0x1400004 + 8 * n
def DBG_GCNT_HI_VALUE (n : Nat) : Fld := ⟨DBG_GCNT_HI n, 0, 16⟩
def DBG_GCNT_HI_OVF (n : Nat) : Fld := ⟨DBG_GCNT_HI n, 16, 1⟩
def DBG_GCNT_HI_KIND (n : Nat) : Fld := ⟨DBG_GCNT_HI n, 17, 1⟩
def DBG_GCNT_CLEAR : Nat := 0x1408000
def DBG_GCNT_CLEAR_INDEX : Fld := ⟨DBG_GCNT_CLEAR, 0, 10⟩
def DBG_GCNT_CLEAR_ALL : Fld := ⟨DBG_GCNT_CLEAR, 30, 1⟩
def DBG_GCNT_CLEAR_GO : Fld := ⟨DBG_GCNT_CLEAR, 31, 1⟩
def DBG_GSTATUS : Nat := 0x1408004
def DBG_GSTATUS_SAT_SEEN : Fld := ⟨DBG_GSTATUS, 0, 1⟩
def DBG_GSTATUS_TAINT : Fld := ⟨DBG_GSTATUS, 8, 8⟩
def DBG_GSTATUS_DEBUG_EN : Fld := ⟨DBG_GSTATUS, 16, 1⟩
def DBG_GSTATUS_HALTED : Fld := ⟨DBG_GSTATUS, 24, 8⟩
def TRC_FANOUT : Nat := 0x1408100
def TRC_FANOUT_MASK : Fld := ⟨TRC_FANOUT, 0, 8⟩

/-! ### Table 20.6 -/

def KPR_SB_ID : Nat := 0x20000000
def KPR_SB_ID_PART : Fld := ⟨KPR_SB_ID, 0, 16⟩
def KPR_SB_ID_FAMILY : Fld := ⟨KPR_SB_ID, 16, 8⟩
def KPR_SB_ID_SB_VER : Fld := ⟨KPR_SB_ID, 24, 8⟩
def KPR_SB_STATE : Nat := 0x20000004
def KPR_SB_STATE_READY : Fld := ⟨KPR_SB_STATE, 0, 1⟩
def KPR_SB_STATE_FAULT : Fld := ⟨KPR_SB_STATE, 1, 1⟩
def KPR_SB_STATE_A3 : Fld := ⟨KPR_SB_STATE, 2, 1⟩
def KPR_SB_STATE_FENCED : Fld := ⟨KPR_SB_STATE, 3, 1⟩
def KPR_SB_STATE_HEALTH : Fld := ⟨KPR_SB_STATE, 4, 3⟩
def KPR_SB_STATE_BOOT : Fld := ⟨KPR_SB_STATE, 7, 2⟩
def KPR_SB_STATE_ESC_HELD : Fld := ⟨KPR_SB_STATE, 9, 1⟩
def KPR_SB_STATE_DEBUG_EN : Fld := ⟨KPR_SB_STATE, 10, 1⟩
def KPR_SB_ALERT : Nat := 0x20000008
def KPR_SB_ALERT_ERROR : Fld := ⟨KPR_SB_ALERT, 0, 1⟩
def KPR_SB_ALERT_HEALTH : Fld := ⟨KPR_SB_ALERT, 1, 1⟩
def KPR_SB_ALERT_FENCED : Fld := ⟨KPR_SB_ALERT, 2, 1⟩
def KPR_SB_ALERT_MAILBOX : Fld := ⟨KPR_SB_ALERT, 3, 1⟩
def KPR_SB_ALERT_RESET : Fld := ⟨KPR_SB_ALERT, 4, 1⟩
def KPR_SB_ALERT_THERMAL : Fld := ⟨KPR_SB_ALERT, 5, 1⟩
def KPR_SB_ALERT_COOLANT : Fld := ⟨KPR_SB_ALERT, 6, 1⟩
def KPR_SB_ALERT_INPUT : Fld := ⟨KPR_SB_ALERT, 7, 1⟩
def KPR_SB_ALERT_PWR_CYCLE : Fld := ⟨KPR_SB_ALERT, 8, 1⟩
def KPR_SB_LAST_ERR : Nat := 0x2000000C
def KPR_SB_LAST_ERR_UNIT : Fld := ⟨KPR_SB_LAST_ERR, 0, 16⟩
def KPR_SB_LAST_ERR_CLASS : Fld := ⟨KPR_SB_LAST_ERR, 16, 8⟩
def KPR_SB_LAST_ERR_FLAGS : Fld := ⟨KPR_SB_LAST_ERR, 24, 8⟩
def KPR_SB_LAST_SEQ : Nat := 0x20000010
def KPR_SB_LAST_SEQ_SEQ : Fld := ⟨KPR_SB_LAST_SEQ, 0, 32⟩
def KPR_SB_TELEM0 : Nat := 0x20000014
def KPR_SB_TELEM0_VIN_MV : Fld := ⟨KPR_SB_TELEM0, 0, 16⟩
def KPR_SB_TELEM0_PIN_W : Fld := ⟨KPR_SB_TELEM0, 16, 16⟩
def KPR_SB_TELEM1 : Nat := 0x20000018
def KPR_SB_TELEM1_TEMP : Fld := ⟨KPR_SB_TELEM1, 0, 16⟩
def KPR_SB_TELEM1_SENSOR : Fld := ⟨KPR_SB_TELEM1, 16, 6⟩
def KPR_SB_TELEM2 : Nat := 0x2000001C
def KPR_SB_TELEM2_INLET : Fld := ⟨KPR_SB_TELEM2, 0, 16⟩
def KPR_SB_TELEM2_OUTLET : Fld := ⟨KPR_SB_TELEM2, 16, 16⟩
def KPR_SB_GID : Nat := 0x20000020
def KPR_SB_GID_NEXT_GID : Fld := ⟨KPR_SB_GID, 0, 20⟩
def KPR_SB_GID_CUR : Nat := 0x20000024
def KPR_SB_GID_CUR_GID : Fld := ⟨KPR_SB_GID_CUR, 0, 20⟩
def KPR_SB_ERR : Nat := 0x20000028
def KPR_SB_ERR_SHAPE_ERR : Fld := ⟨KPR_SB_ERR, 0, 1⟩
def KPR_SB_ERR_KEEPER_DOWN : Fld := ⟨KPR_SB_ERR, 1, 1⟩
def KPR_SB_ERR_VALUE_ERR : Fld := ⟨KPR_SB_ERR, 2, 1⟩
def KPR_SB_CMD : Nat := 0x20000030
def KPR_SB_CMD_OP : Fld := ⟨KPR_SB_CMD, 0, 4⟩
def KPR_SB_CMD_KEY_SLOT : Fld := ⟨KPR_SB_CMD, 4, 2⟩
def KPR_SB_CMD_GO : Fld := ⟨KPR_SB_CMD, 31, 1⟩
def KPR_SB_CMD_STATUS : Nat := 0x20000034
def KPR_SB_CMD_STATUS_CODE : Fld := ⟨KPR_SB_CMD_STATUS, 0, 16⟩
def KPR_SB_CMD_STATUS_BUSY : Fld := ⟨KPR_SB_CMD_STATUS, 16, 1⟩
def KPR_SB_CMD_STATUS_DONE : Fld := ⟨KPR_SB_CMD_STATUS, 17, 1⟩
def KPR_SB_KEY (w : Nat) : Nat := 0x20000040 + 4 * w
def KPR_SB_KEY_KEY (w : Nat) : Fld := ⟨KPR_SB_KEY w, 0, 32⟩
def KPR_SB_FW_OFF : Nat := 0x20000080
def KPR_SB_FW_OFF_OFFSET : Fld := ⟨KPR_SB_FW_OFF, 0, 24⟩
def KPR_SB_FW_DATA : Nat := 0x200000C0
def KPR_SB_MBX (n : Nat) : Nat := 0x20000400 + 128 * n

end Sys2Proof.Machine
end

