-- ==== Sys2Proof/Machine/RegTable.lean ====
section
/-! DEFINITION. The register table: for every register of the spec's register tables its place, how each bit
may be written (Table 0.7), the deepest reset each bit survives (R17), and its Default. -/
namespace Sys2Proof.Machine

/-- Rows of the CAM block, part 0. -/
def rowsCAM0 : List RegRow := [
  { base := 0x0, dims := [], words := 1, rw := 0x0, w1c := 0x0, w1s := 0x0, rwl := 0x7F0FFF,
    eng := 0x0, prt := 0xFFFFFFFF, mod := 0x0, pwr := 0x0, dflt := 0x400040, byIdx := [] },
  { base := 0x4, dims := [], words := 1, rw := 0x0, w1c := 0x0, w1s := 0x0, rwl := 0xFFFFFFFF,
    eng := 0x0, prt := 0xFFFFFFFF, mod := 0x0, pwr := 0x0, dflt := 0x8000200, byIdx := [] },
  { base := 0x8, dims := [], words := 1, rw := 0x0, w1c := 0x0, w1s := 0x0, rwl := 0xFFFFFF,
    eng := 0x0, prt := 0xFFFFFFFF, mod := 0x0, pwr := 0x0, dflt := 0x13880, byIdx := [] },
  { base := 0xC, dims := [], words := 1, rw := 0x0, w1c := 0x0, w1s := 0x0, rwl := 0xFFFFFFFF,
    eng := 0x0, prt := 0xFFFFFFFF, mod := 0x0, pwr := 0x0, dflt := 0x61A80, byIdx := [] },
  { base := 0x10, dims := [], words := 1, rw := 0xFFFF, w1c := 0x0, w1s := 0x0, rwl := 0x0,
    eng := 0x0, prt := 0xFFFFFFFF, mod := 0x0, pwr := 0x0, dflt := 0x1000, byIdx := [] },
  { base := 0x14, dims := [], words := 1, rw := 0x0, w1c := 0x0, w1s := 0x0, rwl := 0xFFFFFFFF,
    eng := 0x0, prt := 0xFFFFFFFF, mod := 0x0, pwr := 0x0, dflt := 0x9C400, byIdx := [] },
  { base := 0x18, dims := [], words := 1, rw := 0x0, w1c := 0x0, w1s := 0x0, rwl := 0x0,
    eng := 0xFFFFFFFF, prt := 0x0, mod := 0x0, pwr := 0x0, dflt := 0x0, byIdx := [] },
  { base := 0x1C, dims := [], words := 1, rw := 0x0, w1c := 0x0, w1s := 0x0, rwl := 0x0,
    eng := 0xFFFFFFFF, prt := 0x0, mod := 0x0, pwr := 0x0, dflt := 0x0, byIdx := [] },
  { base := 0x20, dims := [], words := 1, rw := 0x0, w1c := 0x0, w1s := 0x0, rwl := 0x0,
    eng := 0xFFFFFFFF, prt := 0x0, mod := 0x0, pwr := 0x0, dflt := 0x0, byIdx := [] },
  { base := 0x24, dims := [], words := 1, rw := 0x0, w1c := 0x0, w1s := 0x0, rwl := 0x0,
    eng := 0xFFFFFFFF, prt := 0x0, mod := 0x0, pwr := 0x0, dflt := 0x0, byIdx := [] },
  { base := 0x28, dims := [], words := 1, rw := 0x0, w1c := 0x0, w1s := 0x0, rwl := 0xFFFFFFFF,
    eng := 0x0, prt := 0xFFFFFFFF, mod := 0x0, pwr := 0x0, dflt := 0x3E80050, byIdx := [] },
  { base := 0x2C, dims := [], words := 1, rw := 0x0, w1c := 0xC, w1s := 0x0, rwl := 0x0,
    eng := 0x3, prt := 0xFFFFFFFC, mod := 0x0, pwr := 0x0, dflt := 0x0, byIdx := [] },
  { base := 0x30, dims := [], words := 1, rw := 0x0, w1c := 0x7, w1s := 0x0, rwl := 0x0,
    eng := 0x0, prt := 0xFFFFFFFF, mod := 0x0, pwr := 0x0, dflt := 0x0, byIdx := [] },
  { base := 0x40, dims := [], words := 1, rw := 0x0, w1c := 0x80000000, w1s := 0x0, rwl := 0x0,
    eng := 0x0, prt := 0xFFFFFFFF, mod := 0x0, pwr := 0x0, dflt := 0x0, byIdx := [] },
  { base := 0x44, dims := [], words := 1, rw := 0x0, w1c := 0x0, w1s := 0x0, rwl := 0x0,
    eng := 0x0, prt := 0xFFFFFFFF, mod := 0x0, pwr := 0x0, dflt := 0x0, byIdx := [] },
  { base := 0x60, dims := [], words := 1, rw := 0x0, w1c := 0x0, w1s := 0x0, rwl := 0x0,
    eng := 0xFFFFFFFF, prt := 0x0, mod := 0x0, pwr := 0x0, dflt := 0x0, byIdx := [] },
  { base := 0x64, dims := [], words := 1, rw := 0x0, w1c := 0x0, w1s := 0x0, rwl := 0x0,
    eng := 0xFFFFFFFF, prt := 0x0, mod := 0x0, pwr := 0x0, dflt := 0x0, byIdx := [] },
  { base := 0x68, dims := [], words := 1, rw := 0x0, w1c := 0x0, w1s := 0x0, rwl := 0x0,
    eng := 0xFFFFFFFF, prt := 0x0, mod := 0x0, pwr := 0x0, dflt := 0x0, byIdx := [] },
  { base := 0x6C, dims := [], words := 1, rw := 0x0, w1c := 0x0, w1s := 0x0, rwl := 0x0,
    eng := 0xFFFFFFFF, prt := 0x0, mod := 0x0, pwr := 0x0, dflt := 0x0, byIdx := [] },
  { base := 0x70, dims := [], words := 1, rw := 0x0, w1c := 0x0, w1s := 0x0, rwl := 0x0,
    eng := 0xFFFFFFFF, prt := 0x0, mod := 0x0, pwr := 0x0, dflt := 0x0, byIdx := [] },
  { base := 0x1000, dims := [(64, 32)], words := 1, rw := 0x0, w1c := 0x0, w1s := 0x0, rwl := 0x0,
    eng := 0x0, prt := 0xFFFFFFFF, mod := 0x0, pwr := 0x0, dflt := 0x0, byIdx := [] },
  { base := 0x1004, dims := [(64, 32)], words := 1, rw := 0x0, w1c := 0x0, w1s := 0x0, rwl := 0x0,
    eng := 0x0, prt := 0xFFFFFFFF, mod := 0x0, pwr := 0x0, dflt := 0x0, byIdx := [] },
  { base := 0x1008, dims := [(64, 32)], words := 1, rw := 0x0, w1c := 0x0, w1s := 0x0, rwl := 0x0,
    eng := 0x0, prt := 0xFFFFFFFF, mod := 0x0, pwr := 0x0, dflt := 0x0, byIdx := [] },
  { base := 0x100C, dims := [(64, 32)], words := 1, rw := 0x0, w1c := 0x0, w1s := 0x0, rwl := 0x0,
    eng := 0x0, prt := 0xFFFFFFFF, mod := 0x0, pwr := 0x0, dflt := 0x0, byIdx := [] }
  ] -- CAM_CFG to CAM_HOST_n_W3

/-- Rows of the CAM block, part 1. -/
def rowsCAM1 : List RegRow := [
  { base := 0x1010, dims := [(64, 32)], words := 1, rw := 0x0, w1c := 0x0, w1s := 0x0, rwl := 0x0,
    eng := 0x0, prt := 0xFFFFFFFF, mod := 0x0, pwr := 0x0, dflt := 0x0, byIdx := [] },
  { base := 0x1014, dims := [(64, 32)], words := 1, rw := 0x0, w1c := 0x0, w1s := 0x0, rwl := 0x0,
    eng := 0x0, prt := 0xFFFFFFFF, mod := 0x0, pwr := 0x0, dflt := 0x0, byIdx := [] },
  { base := 0x1018, dims := [(64, 32)], words := 1, rw := 0x0, w1c := 0x0, w1s := 0x0, rwl := 0x0,
    eng := 0x0, prt := 0xFFFFFFFF, mod := 0x0, pwr := 0x0, dflt := 0x0, byIdx := [] },
  { base := 0x101C, dims := [(64, 32)], words := 1, rw := 0x0, w1c := 0x0, w1s := 0x0, rwl := 0x0,
    eng := 0xFFFFFFFF, prt := 0x0, mod := 0x0, pwr := 0x0, dflt := 0x0, byIdx := [] },
  { base := 0x1020, dims := [(64, 32)], words := 1, rw := 0x0, w1c := 0x0, w1s := 0x0, rwl := 0x0,
    eng := 0x0, prt := 0xFFFFFFFF, mod := 0x0, pwr := 0x0, dflt := 0x0, byIdx := [] },
  { base := 0x1024, dims := [(64, 32)], words := 1, rw := 0x0, w1c := 0x0, w1s := 0x0, rwl := 0x0,
    eng := 0x0, prt := 0xFFFFFFFF, mod := 0x0, pwr := 0x0, dflt := 0x0, byIdx := [] },
  { base := 0x1028, dims := [(64, 32)], words := 1, rw := 0x0, w1c := 0x0, w1s := 0x0, rwl := 0x0,
    eng := 0x0, prt := 0xFFFFFFFF, mod := 0x0, pwr := 0x0, dflt := 0x0, byIdx := [] },
  { base := 0x102C, dims := [(64, 32)], words := 1, rw := 0x0, w1c := 0x0, w1s := 0x0, rwl := 0x0,
    eng := 0x0, prt := 0xFFFFFFFF, mod := 0x0, pwr := 0x0, dflt := 0x0, byIdx := [] },
  { base := 0x1030, dims := [(64, 32), (4, 4)], words := 1, rw := 0x0, w1c := 0x0, w1s := 0x0, rwl := 0x0,
    eng := 0x0, prt := 0xFFFFFFFF, mod := 0x0, pwr := 0x0, dflt := 0x0, byIdx := [] },
  { base := 0x2000, dims := [(32, 4)], words := 1, rw := 0xFFFFFFFF, w1c := 0x0, w1s := 0x0, rwl := 0x0,
    eng := 0x0, prt := 0xFFFFFFFF, mod := 0x0, pwr := 0x0, dflt := 0x0, byIdx := [] },
  { base := 0x2004, dims := [(32, 4)], words := 1, rw := 0x1F, w1c := 0x0, w1s := 0x0, rwl := 0x0,
    eng := 0x0, prt := 0xFFFFFFFF, mod := 0x0, pwr := 0x0, dflt := 0x4, byIdx := [] },
  { base := 0x2008, dims := [(32, 4)], words := 1, rw := 0x0, w1c := 0x0, w1s := 0x0, rwl := 0x0,
    eng := 0xFFFFFFFF, prt := 0x0, mod := 0x0, pwr := 0x0, dflt := 0x0, byIdx := [] },
  { base := 0x200C, dims := [(32, 4)], words := 1, rw := 0xFFFF, w1c := 0x0, w1s := 0x0, rwl := 0x0,
    eng := 0xFFFFFFFF, prt := 0x0, mod := 0x0, pwr := 0x0, dflt := 0x0, byIdx := [] },
  { base := 0x2010, dims := [(32, 4)], words := 1, rw := 0x7FFFF, w1c := 0x0, w1s := 0x0, rwl := 0x0,
    eng := 0x0, prt := 0xFFFFFFFF, mod := 0x0, pwr := 0x0, dflt := 0x1000, byIdx := [] },
  { base := 0x2014, dims := [(32, 4)], words := 1, rw := 0x1, w1c := 0x8, w1s := 0x0, rwl := 0x0,
    eng := 0xFFFFFFFF, prt := 0x0, mod := 0x0, pwr := 0x0, dflt := 0x0, byIdx := [] },
  { base := 0x80, dims := [], words := 1, rw := 0x0, w1c := 0x0, w1s := 0x0, rwl := 0x0,
    eng := 0x0, prt := 0xFFFFFFFF, mod := 0x0, pwr := 0x0, dflt := 0x0, byIdx := [] },
  { base := 0x84, dims := [], words := 1, rw := 0x0, w1c := 0x80000000, w1s := 0x0, rwl := 0x0,
    eng := 0x0, prt := 0xFFFFFFFF, mod := 0x0, pwr := 0x0, dflt := 0x0, byIdx := [] },
  { base := 0x88, dims := [], words := 1, rw := 0x0, w1c := 0x0, w1s := 0x0, rwl := 0x0,
    eng := 0x0, prt := 0xFFFFFFFF, mod := 0x0, pwr := 0x0, dflt := 0x0, byIdx := [] }
  ] -- CAM_HOST_n_W4 to CAM_KILL_CAP1

/-- Rows of the CAM block. -/
def rowsCAM : List RegRow := rowsCAM0 ++ rowsCAM1

/-- Rows of the TMB block. -/
def rowsTMB : List RegRow := [
  { base := 0x40000, dims := [(4, 4096)], words := 1, rw := 0xFFFFFFFF, w1c := 0x0, w1s := 0x0, rwl := 0x0,
    eng := 0xFFFFFFFF, prt := 0x0, mod := 0x0, pwr := 0x0, dflt := 0x0, byIdx := [] },
  { base := 0x44000, dims := [(4, 4096)], words := 1, rw := 0x0, w1c := 0x0, w1s := 0x0, rwl := 0x0,
    eng := 0xFFFFFFFF, prt := 0x0, mod := 0x0, pwr := 0x0, dflt := 0x0, byIdx := [] },
  { base := 0x48000, dims := [(4, 4096)], words := 1, rw := 0x0, w1c := 0x0, w1s := 0x0, rwl := 0x0,
    eng := 0xFFFFFFFF, prt := 0x0, mod := 0x0, pwr := 0x0, dflt := 0x0, byIdx := [] },
  { base := 0x4C000, dims := [], words := 1, rw := 0x0, w1c := 0x3, w1s := 0x0, rwl := 0x0,
    eng := 0x0, prt := 0xFFFFFFFF, mod := 0x0, pwr := 0x0, dflt := 0x0, byIdx := [] },
  { base := 0x4C004, dims := [], words := 1, rw := 0x0, w1c := 0x80000000, w1s := 0x0, rwl := 0x0,
    eng := 0x0, prt := 0xFFFFFFFF, mod := 0x0, pwr := 0x0, dflt := 0x0, byIdx := [] }
  ] -- TMB_VALUE_n to TMB_OVF_CAP

/-- Rows of the MXE block. -/
def rowsMXE : List RegRow := [
  { base := 0x80000, dims := [], words := 1, rw := 0x0, w1c := 0x0, w1s := 0x0, rwl := 0x3F,
    eng := 0x0, prt := 0xFFFFFFFF, mod := 0x0, pwr := 0x0, dflt := 0x22, byIdx := [] },
  { base := 0x80004, dims := [], words := 1, rw := 0x0, w1c := 0x0, w1s := 0x0, rwl := 0x0,
    eng := 0x0, prt := 0x0, mod := 0x0, pwr := 0xFFFFFFFF, dflt := 0x3F, byIdx := [] },
  { base := 0x80008, dims := [], words := 1, rw := 0x0, w1c := 0x0, w1s := 0x0, rwl := 0x0,
    eng := 0x0, prt := 0x0, mod := 0x0, pwr := 0xFFFFFFFF, dflt := 0x2C688, byIdx := [] },
  { base := 0x80010, dims := [], words := 1, rw := 0x0, w1c := 0x3F0000, w1s := 0x0, rwl := 0x0,
    eng := 0x3F3F, prt := 0xFFFF0000, mod := 0x0, pwr := 0x0, dflt := 0x0, byIdx := [] },
  { base := 0x80020, dims := [], words := 1, rw := 0x0, w1c := 0x80000000, w1s := 0x0, rwl := 0x0,
    eng := 0x0, prt := 0xFFFFFFFF, mod := 0x0, pwr := 0x0, dflt := 0x0, byIdx := [] },
  { base := 0x80024, dims := [], words := 1, rw := 0x0, w1c := 0x0, w1s := 0x0, rwl := 0x0,
    eng := 0x0, prt := 0xFFFFFFFF, mod := 0x0, pwr := 0x0, dflt := 0x0, byIdx := [] },
  { base := 0x80028, dims := [], words := 1, rw := 0x0, w1c := 0x0, w1s := 0x0, rwl := 0x0,
    eng := 0x0, prt := 0xFFFFFFFF, mod := 0x0, pwr := 0x0, dflt := 0x0, byIdx := [] },
  { base := 0x8002C, dims := [], words := 1, rw := 0x0, w1c := 0x0, w1s := 0x0, rwl := 0x0,
    eng := 0x0, prt := 0xFFFFFFFF, mod := 0x0, pwr := 0x0, dflt := 0x0, byIdx := [] },
  { base := 0x80030, dims := [], words := 1, rw := 0x0, w1c := 0x0, w1s := 0x0, rwl := 0x0,
    eng := 0x0, prt := 0xFFFFFFFF, mod := 0x0, pwr := 0x0, dflt := 0x0, byIdx := [] },
  { base := 0x80034, dims := [], words := 1, rw := 0x0, w1c := 0x0, w1s := 0x0, rwl := 0x0,
    eng := 0x0, prt := 0xFFFFFFFF, mod := 0x0, pwr := 0x0, dflt := 0x0, byIdx := [] },
  { base := 0x80040, dims := [], words := 1, rw := 0x0, w1c := 0x0, w1s := 0x0, rwl := 0x0,
    eng := 0x0, prt := 0xFFFFFFFF, mod := 0x0, pwr := 0x0, dflt := 0x0, byIdx := [] },
  { base := 0x80050, dims := [], words := 1, rw := 0x0, w1c := 0x80000000, w1s := 0x0, rwl := 0x0,
    eng := 0x0, prt := 0xFFFFFFFF, mod := 0x0, pwr := 0x0, dflt := 0x1C0, byIdx := [] },
  { base := 0x80054, dims := [], words := 1, rw := 0x0, w1c := 0x0, w1s := 0x0, rwl := 0x0,
    eng := 0x0, prt := 0xFFFFFFFF, mod := 0x0, pwr := 0x0, dflt := 0x0, byIdx := [] }
  ] -- MXE_CFG to MXE_TWOKEY_LAST

/-- Rows of the VXE block. -/
def rowsVXE : List RegRow := [
  { base := 0xFF000, dims := [], words := 1, rw := 0x0, w1c := 0x0, w1s := 0x0, rwl := 0xFFFFFFFF,
    eng := 0x0, prt := 0xFFFFFFFF, mod := 0x0, pwr := 0x0, dflt := 0x0, byIdx := [] },
  { base := 0xFF004, dims := [], words := 1, rw := 0x0, w1c := 0x0, w1s := 0x0, rwl := 0xFFFFFFFF,
    eng := 0x0, prt := 0xFFFFFFFF, mod := 0x0, pwr := 0x0, dflt := 0x0, byIdx := [] },
  { base := 0xFF008, dims := [], words := 1, rw := 0x0, w1c := 0x0, w1s := 0x0, rwl := 0x0,
    eng := 0x0, prt := 0xFFFFFFFF, mod := 0x0, pwr := 0x0, dflt := 0x0, byIdx := [] },
  { base := 0xFF010, dims := [], words := 1, rw := 0x0, w1c := 0x1F, w1s := 0x0, rwl := 0x0,
    eng := 0x0, prt := 0xFFFFFFFF, mod := 0x0, pwr := 0x0, dflt := 0x0, byIdx := [] },
  { base := 0xFF018, dims := [], words := 1, rw := 0x0, w1c := 0x0, w1s := 0x0, rwl := 0x0,
    eng := 0x0, prt := 0xFFFFFFFF, mod := 0x0, pwr := 0x0, dflt := 0x0, byIdx := [] },
  { base := 0xFF01C, dims := [], words := 1, rw := 0x0, w1c := 0x80000000, w1s := 0x0, rwl := 0x0,
    eng := 0x0, prt := 0xFFFFFFFF, mod := 0x0, pwr := 0x0, dflt := 0x0, byIdx := [] },
  { base := 0xC0000, dims := [], words := 1, rw := 0x0, w1c := 0x0, w1s := 0x0, rwl := 0x1,
    eng := 0x0, prt := 0xFFFFFFFF, mod := 0x0, pwr := 0x0, dflt := 0x0, byIdx := [] },
  { base := 0xC0004, dims := [], words := 1, rw := 0x0, w1c := 0x0, w1s := 0x0, rwl := 0x0,
    eng := 0x0, prt := 0x0, mod := 0x0, pwr := 0xFFFFFFFF, dflt := 0x3, byIdx := [] },
  { base := 0xC0010, dims := [], words := 1, rw := 0x0, w1c := 0x1F0000, w1s := 0x0, rwl := 0x0,
    eng := 0xFFFF, prt := 0xFFFF0000, mod := 0x0, pwr := 0x0, dflt := 0x0, byIdx := [] },
  { base := 0xC0020, dims := [], words := 1, rw := 0x0, w1c := 0x80000000, w1s := 0x0, rwl := 0x0,
    eng := 0x0, prt := 0xFFFFFFFF, mod := 0x0, pwr := 0x0, dflt := 0x0, byIdx := [] },
  { base := 0xC0024, dims := [], words := 1, rw := 0x0, w1c := 0x0, w1s := 0x0, rwl := 0x0,
    eng := 0x0, prt := 0xFFFFFFFF, mod := 0x0, pwr := 0x0, dflt := 0x0, byIdx := [] },
  { base := 0xC0040, dims := [], words := 1, rw := 0x0, w1c := 0x0, w1s := 0x0, rwl := 0x0,
    eng := 0x0, prt := 0xFFFFFFFF, mod := 0x0, pwr := 0x0, dflt := 0x0, byIdx := [] },
  { base := 0xD0000, dims := [(8, 32)], words := 1, rw := 0xFFFFFFFF, w1c := 0x0, w1s := 0x0, rwl := 0x0,
    eng := 0x0, prt := 0xFFFFFFFF, mod := 0x0, pwr := 0x0, dflt := 0x0, byIdx := [] },
  { base := 0xD0004, dims := [(8, 32)], words := 1, rw := 0xFFFFFFFF, w1c := 0x0, w1s := 0x0, rwl := 0x0,
    eng := 0x0, prt := 0xFFFFFFFF, mod := 0x0, pwr := 0x0, dflt := 0x0, byIdx := [] },
  { base := 0xD0100, dims := [], words := 1, rw := 0x0, w1c := 0x0, w1s := 0x0, rwl := 0x0,
    eng := 0x0, prt := 0xFFFFFFFF, mod := 0x0, pwr := 0x0, dflt := 0x0, byIdx := [] },
  { base := 0xD0200, dims := [(8, 32)], words := 2, rw := 0x0, w1c := 0x0, w1s := 0x0, rwl := 0x0,
    eng := 0xFFFFFFFF, prt := 0x0, mod := 0x0, pwr := 0x0, dflt := 0x0, byIdx := [] },
  { base := 0xD0300, dims := [], words := 1, rw := 0x0, w1c := 0x0, w1s := 0x0, rwl := 0x0,
    eng := 0xFFFFFFFF, prt := 0x0, mod := 0x0, pwr := 0x0, dflt := 0x0, byIdx := [] }
  ] -- VXE_KS_SEED_LO to VXE_SHARD_SPOISON

/-- Rows of the UPD block. -/
def rowsUPD : List RegRow := [
  { base := 0x100000, dims := [], words := 1, rw := 0x0, w1c := 0x0, w1s := 0x0, rwl := 0x3FFFFFFF,
    eng := 0x0, prt := 0xFFFFFFFF, mod := 0x0, pwr := 0x0, dflt := 0x0, byIdx := [] },
  { base := 0x100004, dims := [], words := 1, rw := 0x0, w1c := 0x0, w1s := 0x0, rwl := 0xFFFFFFFF,
    eng := 0x0, prt := 0xFFFFFFFF, mod := 0x0, pwr := 0x0, dflt := 0x186A0, byIdx := [] },
  { base := 0x100010, dims := [], words := 1, rw := 0xFFFFFFFF, w1c := 0x0, w1s := 0x0, rwl := 0x0,
    eng := 0x0, prt := 0xFFFFFFFF, mod := 0x0, pwr := 0x0, dflt := 0x0, byIdx := [] },
  { base := 0x100014, dims := [], words := 1, rw := 0x0, w1c := 0x1C, w1s := 0x0, rwl := 0x0,
    eng := 0x2, prt := 0xFFFFFFFD, mod := 0x0, pwr := 0x0, dflt := 0x0, byIdx := [] },
  { base := 0x100018, dims := [], words := 1, rw := 0x0, w1c := 0x0, w1s := 0x0, rwl := 0x0,
    eng := 0xFFFFFFFF, prt := 0x0, mod := 0x0, pwr := 0x0, dflt := 0x0, byIdx := [] },
  { base := 0x10001C, dims := [], words := 1, rw := 0x0, w1c := 0x0, w1s := 0x0, rwl := 0x0,
    eng := 0xFFFFFFFF, prt := 0x0, mod := 0x0, pwr := 0x0, dflt := 0x0, byIdx := [] },
  { base := 0x100100, dims := [(4, 16)], words := 1, rw := 0xFFFFFFFF, w1c := 0x0, w1s := 0x0, rwl := 0x0,
    eng := 0x0, prt := 0xFFFFFFFF, mod := 0x0, pwr := 0x0, dflt := 0x0, byIdx := [] },
  { base := 0x100140, dims := [(4, 16)], words := 1, rw := 0x0, w1c := 0x0, w1s := 0x0, rwl := 0x0,
    eng := 0xFFFFFFFF, prt := 0x0, mod := 0x0, pwr := 0x0, dflt := 0x0, byIdx := [] },
  { base := 0x100200, dims := [], words := 1, rw := 0x0, w1c := 0x7F0000, w1s := 0x0, rwl := 0x0,
    eng := 0xFFFF, prt := 0xFFFF0000, mod := 0x0, pwr := 0x0, dflt := 0x0, byIdx := [] },
  { base := 0x100210, dims := [], words := 1, rw := 0x0, w1c := 0x80000000, w1s := 0x0, rwl := 0x0,
    eng := 0x0, prt := 0xFFFFFFFF, mod := 0x0, pwr := 0x0, dflt := 0x0, byIdx := [] },
  { base := 0x100214, dims := [], words := 1, rw := 0x0, w1c := 0x0, w1s := 0x0, rwl := 0x0,
    eng := 0x0, prt := 0xFFFFFFFF, mod := 0x0, pwr := 0x0, dflt := 0x0, byIdx := [] },
  { base := 0x100220, dims := [], words := 1, rw := 0x0, w1c := 0x0, w1s := 0x0, rwl := 0x0,
    eng := 0xFFFFFFFF, prt := 0x0, mod := 0x0, pwr := 0x0, dflt := 0x3F800000, byIdx := [] },
  { base := 0x100240, dims := [], words := 1, rw := 0x0, w1c := 0x0, w1s := 0x0, rwl := 0x0,
    eng := 0x0, prt := 0xFFFFFFFF, mod := 0x0, pwr := 0x0, dflt := 0x0, byIdx := [] },
  { base := 0x100300, dims := [], words := 1, rw := 0x0, w1c := 0x0, w1s := 0x0, rwl := 0xFF01,
    eng := 0x0, prt := 0xFFFFFFFF, mod := 0x0, pwr := 0x0, dflt := 0x4001, byIdx := [] },
  { base := 0x100304, dims := [], words := 1, rw := 0x0, w1c := 0x0, w1s := 0x0, rwl := 0x0,
    eng := 0x0, prt := 0xFFFFFFFF, mod := 0x0, pwr := 0x0, dflt := 0x0, byIdx := [1, 0, 3, 2, 5, 4, 7, 6] },
  { base := 0x100308, dims := [], words := 1, rw := 0x0, w1c := 0x80000000, w1s := 0x0, rwl := 0x0,
    eng := 0x0, prt := 0xFFFFFFFF, mod := 0x0, pwr := 0x0, dflt := 0x0, byIdx := [] }
  ] -- UPD_HIST_BASE to UPD_TWOKEY_CAP0

/-- Rows of the MEM block. -/
def rowsMEM : List RegRow := [
  { base := 0x140000, dims := [], words := 1, rw := 0x1, w1c := 0x0, w1s := 0x0, rwl := 0xFF32,
    eng := 0x0, prt := 0xFFFFFF3E, mod := 0x1, pwr := 0x0, dflt := 0x1813, byIdx := [] },
  { base := 0x140004, dims := [], words := 1, rw := 0x0, w1c := 0x0, w1s := 0x0, rwl := 0x7,
    eng := 0x0, prt := 0x0, mod := 0x0, pwr := 0xFFFFFFFF, dflt := 0x2, byIdx := [] },
  { base := 0x140010, dims := [(4, 4)], words := 1, rw := 0x0, w1c := 0x0, w1s := 0x0, rwl := 0x3FF,
    eng := 0x0, prt := 0xFFFFFFFF, mod := 0x0, pwr := 0x0, dflt := 0x0, byIdx := [] },
  { base := 0x140100, dims := [(8, 32)], words := 1, rw := 0x0, w1c := 0x0, w1s := 0x0, rwl := 0x0,
    eng := 0x0, prt := 0xFFFFFFFF, mod := 0x0, pwr := 0x0, dflt := 0x0, byIdx := [] },
  { base := 0x140104, dims := [(8, 32)], words := 1, rw := 0x0, w1c := 0x0, w1s := 0x0, rwl := 0x0,
    eng := 0x0, prt := 0xFFFFFFFF, mod := 0x0, pwr := 0x0, dflt := 0x0, byIdx := [] },
  { base := 0x140200, dims := [(16, 16)], words := 1, rw := 0x0, w1c := 0x0, w1s := 0x0, rwl := 0x0,
    eng := 0x0, prt := 0xFFFFFFFF, mod := 0x0, pwr := 0x0, dflt := 0x0, byIdx := [] },
  { base := 0x140204, dims := [(16, 16)], words := 1, rw := 0x0, w1c := 0x0, w1s := 0x0, rwl := 0x0,
    eng := 0x0, prt := 0xFFFFFFFF, mod := 0x0, pwr := 0x0, dflt := 0x0, byIdx := [] },
  { base := 0x140208, dims := [(16, 16)], words := 1, rw := 0x0, w1c := 0x0, w1s := 0x0, rwl := 0x0,
    eng := 0x0, prt := 0xFFFFFFFF, mod := 0x0, pwr := 0x0, dflt := 0x0, byIdx := [] },
  { base := 0x140300, dims := [], words := 1, rw := 0x0, w1c := 0x1F, w1s := 0x0, rwl := 0x0,
    eng := 0xFFC0, prt := 0xFFFF000F, mod := 0x20, pwr := 0x10, dflt := 0x0, byIdx := [] },
  { base := 0x140310, dims := [], words := 1, rw := 0x0, w1c := 0x80000000, w1s := 0x0, rwl := 0x0,
    eng := 0x0, prt := 0xFFFFFFFF, mod := 0x0, pwr := 0x0, dflt := 0x0, byIdx := [] },
  { base := 0x140314, dims := [], words := 1, rw := 0x0, w1c := 0x0, w1s := 0x0, rwl := 0x0,
    eng := 0x0, prt := 0xFFFFFFFF, mod := 0x0, pwr := 0x0, dflt := 0x0, byIdx := [] },
  { base := 0x140318, dims := [], words := 1, rw := 0x0, w1c := 0x0, w1s := 0x0, rwl := 0x0,
    eng := 0x0, prt := 0xFFFFFFFF, mod := 0x0, pwr := 0x0, dflt := 0x0, byIdx := [] },
  { base := 0x140400, dims := [], words := 1, rw := 0x0, w1c := 0x0, w1s := 0x0, rwl := 0x0,
    eng := 0x0, prt := 0x0, mod := 0x0, pwr := 0xFFFFFFFF, dflt := 0x0, byIdx := [] },
  { base := 0x140404, dims := [], words := 1, rw := 0x0, w1c := 0x0, w1s := 0x0, rwl := 0x0,
    eng := 0x0, prt := 0x0, mod := 0x0, pwr := 0xFFFFFFFF, dflt := 0x0, byIdx := [] }
  ] -- MEM_CFG to MEM_PC_RETIRED_HI

/-- Rows of the TSR block. -/
def rowsTSR : List RegRow := [
  { base := 0x180000, dims := [], words := 1, rw := 0x0, w1c := 0x0, w1s := 0x0, rwl := 0xFF,
    eng := 0x0, prt := 0xFFFFFF3F, mod := 0x0, pwr := 0xC0, dflt := 0x48, byIdx := [] },
  { base := 0x180004, dims := [], words := 1, rw := 0x0, w1c := 0x7, w1s := 0x0, rwl := 0x0,
    eng := 0x0, prt := 0xFFFFFFF3, mod := 0x8, pwr := 0x4, dflt := 0x0, byIdx := [] },
  { base := 0x180010, dims := [], words := 1, rw := 0x0, w1c := 0x80000000, w1s := 0x0, rwl := 0x0,
    eng := 0x0, prt := 0xFFFFFFFF, mod := 0x0, pwr := 0x0, dflt := 0x0, byIdx := [] },
  { base := 0x180018, dims := [], words := 1, rw := 0x0, w1c := 0x0, w1s := 0x0, rwl := 0x0,
    eng := 0x0, prt := 0x0, mod := 0x0, pwr := 0xFFFFFFFF, dflt := 0x0, byIdx := [] },
  { base := 0x18001C, dims := [], words := 1, rw := 0x0, w1c := 0x0, w1s := 0x0, rwl := 0x0,
    eng := 0x0, prt := 0x0, mod := 0x0, pwr := 0xFFFFFFFF, dflt := 0x0, byIdx := [] },
  { base := 0x180020, dims := [], words := 1, rw := 0x0, w1c := 0x0, w1s := 0x0, rwl := 0x0,
    eng := 0x0, prt := 0xFFFFFFFF, mod := 0x0, pwr := 0x0, dflt := 0x0, byIdx := [] }
  ] -- TSR_CFG to TSR_CONFLICT

/-- Rows of the LDBG block. -/
def rowsLDBG : List RegRow := [
  { base := 0x1C0000, dims := [(8, 1024)], words := 1, rw := 0x0, w1c := 0x0, w1s := 0x0, rwl := 0x0,
    eng := 0x0, prt := 0xFFFFFFFF, mod := 0x0, pwr := 0x0, dflt := 0x0, byIdx := [] },
  { base := 0x1C0004, dims := [(8, 1024)], words := 1, rw := 0x0, w1c := 0x0, w1s := 0x0, rwl := 0x0,
    eng := 0x0, prt := 0xFFFFFFFF, mod := 0x0, pwr := 0x0, dflt := 0x0, byIdx := [] },
  { base := 0x1C2000, dims := [], words := 1, rw := 0x400003FF, w1c := 0x0, w1s := 0x80000000, rwl := 0x0,
    eng := 0x0, prt := 0xC00003FF, mod := 0x0, pwr := 0x0, dflt := 0x0, byIdx := [] },
  { base := 0x1C2004, dims := [], words := 1, rw := 0x0, w1c := 0x1, w1s := 0x0, rwl := 0x0,
    eng := 0x0, prt := 0xFFFFFFFF, mod := 0x0, pwr := 0x0, dflt := 0x0, byIdx := [] },
  { base := 0x1C2100, dims := [], words := 1, rw := 0x3F, w1c := 0x0, w1s := 0x0, rwl := 0x0,
    eng := 0x0, prt := 0xFFFFFFFF, mod := 0x0, pwr := 0x0, dflt := 0xC, byIdx := [] },
  { base := 0x1C2104, dims := [], words := 1, rw := 0xFFFFFFF, w1c := 0x0, w1s := 0x0, rwl := 0x0,
    eng := 0x0, prt := 0xFFFFFFF, mod := 0x0, pwr := 0x0, dflt := 0x4000, byIdx := [] },
  { base := 0x1C2108, dims := [], words := 1, rw := 0xFFFFFFF, w1c := 0x0, w1s := 0x0, rwl := 0x0,
    eng := 0x0, prt := 0xFFFFFFF, mod := 0x0, pwr := 0x0, dflt := 0x4000, byIdx := [] },
  { base := 0x1C210C, dims := [], words := 1, rw := 0x1FFFFE, w1c := 0x0, w1s := 0x0, rwl := 0x0,
    eng := 0x0, prt := 0xFFFFFFFE, mod := 0x0, pwr := 0x0, dflt := 0x0, byIdx := [] },
  { base := 0x1C2110, dims := [], words := 1, rw := 0xFFFFFFFF, w1c := 0x0, w1s := 0x0, rwl := 0x0,
    eng := 0x0, prt := 0xFFFFFFFF, mod := 0x0, pwr := 0x0, dflt := 0x10000, byIdx := [] },
  { base := 0x1C2114, dims := [], words := 1, rw := 0xFFFFFFFF, w1c := 0x0, w1s := 0x0, rwl := 0x0,
    eng := 0x0, prt := 0xFFFFFFFF, mod := 0x0, pwr := 0x0, dflt := 0x0, byIdx := [] },
  { base := 0x1C2118, dims := [], words := 1, rw := 0xFFFFFFFF, w1c := 0x0, w1s := 0x0, rwl := 0x0,
    eng := 0x0, prt := 0xFFFFFFFF, mod := 0x0, pwr := 0x0, dflt := 0x0, byIdx := [] },
  { base := 0x1C211C, dims := [], words := 1, rw := 0x0, w1c := 0x0, w1s := 0x3, rwl := 0x0,
    eng := 0x0, prt := 0xFFFFFFFF, mod := 0x0, pwr := 0x0, dflt := 0x0, byIdx := [] },
  { base := 0x1C2120, dims := [], words := 1, rw := 0x0, w1c := 0xC, w1s := 0x0, rwl := 0x0,
    eng := 0x0, prt := 0xFFFFFFFF, mod := 0x0, pwr := 0x0, dflt := 0x0, byIdx := [] },
  { base := 0x1C2124, dims := [], words := 1, rw := 0x0, w1c := 0x0, w1s := 0x0, rwl := 0x0,
    eng := 0x0, prt := 0x1FFFF, mod := 0x0, pwr := 0x0, dflt := 0x0, byIdx := [] },
  { base := 0x1C2128, dims := [], words := 1, rw := 0x0, w1c := 0x0, w1s := 0x0, rwl := 0x0,
    eng := 0x0, prt := 0x8FFFFFFF, mod := 0x0, pwr := 0x0, dflt := 0x0, byIdx := [] },
  { base := 0x1C2130, dims := [], words := 1, rw := 0x0, w1c := 0x0, w1s := 0x0, rwl := 0x0,
    eng := 0x0, prt := 0x8FFFFFFF, mod := 0x0, pwr := 0x0, dflt := 0x0, byIdx := [] },
  { base := 0x1C2140, dims := [], words := 1, rw := 0x1F, w1c := 0x0, w1s := 0x0, rwl := 0x0,
    eng := 0x0, prt := 0x1F, mod := 0x0, pwr := 0x0, dflt := 0x0, byIdx := [] },
  { base := 0x1D0000, dims := [], words := 16384, rw := 0x0, w1c := 0x0, w1s := 0x0, rwl := 0x0,
    eng := 0x0, prt := 0xFFFFFFFF, mod := 0x0, pwr := 0x0, dflt := 0x0, byIdx := [] }
  ] -- DBG_CNT_n_LO to TRC_WIN

/-- Rows of the HIF block. -/
def rowsHIF : List RegRow := [
  { base := 0x10, dims := [], words := 1, rw := 0x0, w1c := 0x0, w1s := 0x0, rwl := 0x0,
    eng := 0x0, prt := 0x0, mod := 0x0, pwr := 0xFFFFFFFF, dflt := 0x4108FF, byIdx := [] },
  { base := 0x20, dims := [], words := 1, rw := 0x0, w1c := 0x0, w1s := 0x0, rwl := 0x0,
    eng := 0x0, prt := 0xFFFFFFFF, mod := 0x0, pwr := 0x0, dflt := 0x0, byIdx := [] },
  { base := 0x100, dims := [(16, 9)], words := 1, rw := 0x0, w1c := 0x70000, w1s := 0x0, rwl := 0x0,
    eng := 0x0, prt := 0xFFFFFFFF, mod := 0x0, pwr := 0x0, dflt := 0x0, byIdx := [] },
  { base := 0x200, dims := [(4, 9)], words := 1, rw := 0x1FF, w1c := 0x0, w1s := 0x0, rwl := 0x0,
    eng := 0x0, prt := 0xFFFFFFFF, mod := 0x0, pwr := 0x0, dflt := 0x0, byIdx := [] },
  { base := 0x300, dims := [(4, 8)], words := 1, rw := 0x0, w1c := 0x0, w1s := 0x0, rwl := 0x0,
    eng := 0x0, prt := 0x0, mod := 0xFFFFFFFF, pwr := 0x0, dflt := 0x0, byIdx := [] },
  { base := 0x400, dims := [(4, 9)], words := 1, rw := 0x3FFFFFFF, w1c := 0x0, w1s := 0x0, rwl := 0x0,
    eng := 0x0, prt := 0xFFFFFFFF, mod := 0x0, pwr := 0x0, dflt := 0x0, byIdx := [] },
  { base := 0x1000, dims := [], words := 1, rw := 0x0, w1c := 0x0, w1s := 0x0, rwl := 0x0,
    eng := 0x0, prt := 0x0, mod := 0x0, pwr := 0xFFFFFFFF, dflt := 0x31410302, byIdx := [] },
  { base := 0x1004, dims := [], words := 1, rw := 0x0, w1c := 0x0, w1s := 0x0, rwl := 0x0,
    eng := 0x0, prt := 0x0, mod := 0x0, pwr := 0xFFFFFFFF, dflt := 0x0, byIdx := [] },
  { base := 0x1010, dims := [(16, 8)], words := 1, rw := 0x0, w1c := 0x0, w1s := 0x0, rwl := 0x0,
    eng := 0x0, prt := 0xFFFFFFFF, mod := 0x0, pwr := 0x0, dflt := 0x0, byIdx := [] },
  { base := 0x1014, dims := [(16, 8)], words := 1, rw := 0x0, w1c := 0x0, w1s := 0x0, rwl := 0x0,
    eng := 0x0, prt := 0xFFFFFFFF, mod := 0x0, pwr := 0x0, dflt := 0x0, byIdx := [] },
  { base := 0x1018, dims := [(16, 8)], words := 1, rw := 0x0, w1c := 0x0, w1s := 0x0, rwl := 0x0,
    eng := 0x0, prt := 0xFFFFFFFF, mod := 0x0, pwr := 0x0, dflt := 0x0, byIdx := [] },
  { base := 0x101C, dims := [(16, 8)], words := 1, rw := 0x0, w1c := 0x0, w1s := 0x0, rwl := 0x0,
    eng := 0x0, prt := 0xFFFFFFFF, mod := 0x0, pwr := 0x0, dflt := 0x0, byIdx := [] },
  { base := 0x1090, dims := [], words := 1, rw := 0x0, w1c := 0x2, w1s := 0x0, rwl := 0x0,
    eng := 0x0, prt := 0xFFFFFFFF, mod := 0x0, pwr := 0x0, dflt := 0x0, byIdx := [] },
  { base := 0x1094, dims := [], words := 1, rw := 0x0, w1c := 0x0, w1s := 0x0, rwl := 0x0,
    eng := 0x0, prt := 0xFFFFFFFF, mod := 0x0, pwr := 0x0, dflt := 0x0, byIdx := [] },
  { base := 0x1098, dims := [], words := 1, rw := 0x0, w1c := 0x0, w1s := 0x0, rwl := 0x0,
    eng := 0x0, prt := 0xFFFFFFFF, mod := 0x0, pwr := 0x0, dflt := 0x0, byIdx := [] },
  { base := 0x1100, dims := [(4, 10)], words := 1, rw := 0x0, w1c := 0x0, w1s := 0x0, rwl := 0x0,
    eng := 0x0, prt := 0xFFFFFFFF, mod := 0x0, pwr := 0x0, dflt := 0x0, byIdx := [] }
  ] -- HIF_PART_ID to BIT_MBX_PEER_n

/-- Rows of the KPR block, part 0. -/
def rowsKPR0 : List RegRow := [
  { base := 0x102000, dims := [], words := 1, rw := 0x3FF, w1c := 0x0, w1s := 0x0, rwl := 0x0,
    eng := 0x0, prt := 0x0, mod := 0xFFFFFFFF, pwr := 0x0, dflt := 0x0, byIdx := [] },
  { base := 0x102004, dims := [], words := 1, rw := 0x0, w1c := 0x0, w1s := 0x0, rwl := 0x0,
    eng := 0x0, prt := 0x0, mod := 0xFFFFFFFF, pwr := 0x0, dflt := 0x0, byIdx := [] },
  { base := 0x102008, dims := [], words := 1, rw := 0x0, w1c := 0x1, w1s := 0x0, rwl := 0x0,
    eng := 0x0, prt := 0x0, mod := 0xFFFFFFFF, pwr := 0x0, dflt := 0x0, byIdx := [] },
  { base := 0x10200C, dims := [], words := 1, rw := 0x0, w1c := 0x0, w1s := 0x0, rwl := 0x0,
    eng := 0x0, prt := 0x0, mod := 0xFFFFFFFF, pwr := 0x0, dflt := 0x0, byIdx := [] },
  { base := 0x102010, dims := [], words := 1, rw := 0x0, w1c := 0x0, w1s := 0x0, rwl := 0xFFFFFFFF,
    eng := 0x0, prt := 0xFFFFFFFF, mod := 0x0, pwr := 0x0, dflt := 0x3F000, byIdx := [] },
  { base := 0x102100, dims := [(4, 12)], words := 1, rw := 0x0, w1c := 0x0, w1s := 0x0, rwl := 0xFFFFFFF,
    eng := 0x0, prt := 0xFFFFFFFF, mod := 0x0, pwr := 0x0, dflt := 0x0, byIdx := [1572868, 47185922, 1572872, 1576960, 47185922, 1572872, 1576960, 11010052, 11010051, 11010052, 11010051, 11010051] },
  { base := 0x102140, dims := [], words := 1, rw := 0x0, w1c := 0x0, w1s := 0x0, rwl := 0xFFFF03FF,
    eng := 0x0, prt := 0xFFFFFFFF, mod := 0x0, pwr := 0x0, dflt := 0x6414014C, byIdx := [] },
  { base := 0x102144, dims := [], words := 1, rw := 0x0, w1c := 0x600, w1s := 0x0, rwl := 0x0,
    eng := 0x0, prt := 0x0, mod := 0xFFFFFE00, pwr := 0x11F, dflt := 0x0, byIdx := [] },
  { base := 0x102180, dims := [(4, 16)], words := 1, rw := 0x0, w1c := 0x0, w1s := 0x0, rwl := 0x0,
    eng := 0x0, prt := 0x0, mod := 0x0, pwr := 0xFFFFFFFF, dflt := 0x0, byIdx := [] },
  { base := 0x110000, dims := [(64, 1024)], words := 16, rw := 0x0, w1c := 0x0, w1s := 0x0, rwl := 0x0,
    eng := 0x0, prt := 0x0, mod := 0xFFFFFFFF, pwr := 0x0, dflt := 0x0, byIdx := [] },
  { base := 0x100100, dims := [], words := 1, rw := 0x0, w1c := 0x0, w1s := 0x0, rwl := 0x3FFF3FFF,
    eng := 0x0, prt := 0xFFFFFFFF, mod := 0x0, pwr := 0x0, dflt := 0xC0A0C0A, byIdx := [] },
  { base := 0x100110, dims := [(4, 8)], words := 1, rw := 0x0, w1c := 0x0, w1s := 0x0, rwl := 0x0,
    eng := 0xFFFFFFFF, prt := 0x0, mod := 0x0, pwr := 0x0, dflt := 0x0, byIdx := [] },
  { base := 0x100130, dims := [], words := 1, rw := 0x0, w1c := 0x0, w1s := 0x0, rwl := 0x0,
    eng := 0x0, prt := 0x0, mod := 0xFFFFFFFF, pwr := 0x0, dflt := 0x0, byIdx := [] },
  { base := 0x100134, dims := [], words := 1, rw := 0x0, w1c := 0x300, w1s := 0x0, rwl := 0x0,
    eng := 0x0, prt := 0x0, mod := 0xFFFFFDFF, pwr := 0x200, dflt := 0x0, byIdx := [] },
  { base := 0x100140, dims := [], words := 1, rw := 0x0, w1c := 0x0, w1s := 0x0, rwl := 0xFFFF,
    eng := 0x0, prt := 0xFFFFFFFF, mod := 0x0, pwr := 0x0, dflt := 0x1388, byIdx := [] },
  { base := 0x100144, dims := [], words := 1, rw := 0x0, w1c := 0x0, w1s := 0x0, rwl := 0xFFFFFFF,
    eng := 0x0, prt := 0xFFFFFFFF, mod := 0x0, pwr := 0x0, dflt := 0x3C2233, byIdx := [] },
  { base := 0x100148, dims := [], words := 1, rw := 0x0, w1c := 0x0, w1s := 0x0, rwl := 0x0,
    eng := 0x0, prt := 0x0, mod := 0x0, pwr := 0xFFFFFFFF, dflt := 0x0, byIdx := [] },
  { base := 0x10014C, dims := [], words := 1, rw := 0x0, w1c := 0x0, w1s := 0x1, rwl := 0x0,
    eng := 0x0, prt := 0x0, mod := 0x0, pwr := 0xFFFFFFFF, dflt := 0x0, byIdx := [] },
  { base := 0x100150, dims := [], words := 1, rw := 0x3FFFFF, w1c := 0x0, w1s := 0x80000000, rwl := 0x0,
    eng := 0x0, prt := 0x0, mod := 0xFFFFFFFF, pwr := 0x0, dflt := 0x0, byIdx := [] },
  { base := 0x100154, dims := [], words := 1, rw := 0x0, w1c := 0x2, w1s := 0x0, rwl := 0x0,
    eng := 0x0, prt := 0x0, mod := 0xFFFFFFFF, pwr := 0x0, dflt := 0x0, byIdx := [] },
  { base := 0x100160, dims := [], words := 1, rw := 0x0, w1c := 0x0, w1s := 0x0, rwl := 0x0,
    eng := 0x0, prt := 0x0, mod := 0x0, pwr := 0xFFFFFFFF, dflt := 0x0, byIdx := [] },
  { base := 0x100164, dims := [], words := 1, rw := 0x0, w1c := 0x0, w1s := 0x0, rwl := 0x0,
    eng := 0x0, prt := 0x0, mod := 0x0, pwr := 0xFFFFFFFF, dflt := 0x3F0000, byIdx := [] },
  { base := 0x100168, dims := [], words := 1, rw := 0x0, w1c := 0x0, w1s := 0x0, rwl := 0x0,
    eng := 0x0, prt := 0x0, mod := 0x0, pwr := 0xFFFFFFFF, dflt := 0x0, byIdx := [] },
  { base := 0x10016C, dims := [], words := 1, rw := 0x0, w1c := 0x0, w1s := 0x0, rwl := 0x0,
    eng := 0x0, prt := 0x0, mod := 0x0, pwr := 0xFFFFFFFF, dflt := 0x0, byIdx := [] }
  ] -- KPR_ERR_HEAD to KPR_RST_LAST3

/-- Rows of the KPR block, part 1. -/
def rowsKPR1 : List RegRow := [
  { base := 0x100170, dims := [], words := 1, rw := 0x0, w1c := 0x0, w1s := 0x0, rwl := 0x0,
    eng := 0x0, prt := 0x0, mod := 0x0, pwr := 0xFFFFFFFF, dflt := 0x0, byIdx := [] }
  ] -- KPR_BOOT_CAUSE to KPR_BOOT_CAUSE

/-- Rows of the KPR block. -/
def rowsKPR : List RegRow := rowsKPR0 ++ rowsKPR1

/-- Rows of the EVR block. -/
def rowsEVR : List RegRow := [
  { base := 0x200000, dims := [], words := 1, rw := 0x0, w1c := 0x0, w1s := 0x0, rwl := 0x0,
    eng := 0x0, prt := 0x0, mod := 0x0, pwr := 0xFFFFFFFF, dflt := 0x0, byIdx := [] },
  { base := 0x200004, dims := [], words := 1, rw := 0x0, w1c := 0x0, w1s := 0x0, rwl := 0x0,
    eng := 0x0, prt := 0x0, mod := 0x0, pwr := 0xFFFFFFFF, dflt := 0x0, byIdx := [] },
  { base := 0x200008, dims := [], words := 1, rw := 0x0, w1c := 0x0, w1s := 0x0, rwl := 0x0,
    eng := 0x0, prt := 0x0, mod := 0x0, pwr := 0xFFFFFFFF, dflt := 0x0, byIdx := [] },
  { base := 0x20000C, dims := [], words := 1, rw := 0x0, w1c := 0x0, w1s := 0x0, rwl := 0x0,
    eng := 0x0, prt := 0x0, mod := 0x0, pwr := 0xFFFFFFFF, dflt := 0x0, byIdx := [] },
  { base := 0x200010, dims := [], words := 1, rw := 0x0, w1c := 0x0, w1s := 0x0, rwl := 0x0,
    eng := 0x0, prt := 0x0, mod := 0x0, pwr := 0xFFFFFFFF, dflt := 0x0, byIdx := [] },
  { base := 0x200014, dims := [], words := 1, rw := 0x0, w1c := 0x0, w1s := 0x0, rwl := 0x0,
    eng := 0x0, prt := 0x0, mod := 0x0, pwr := 0xFFFFFFFF, dflt := 0x0, byIdx := [] },
  { base := 0x200018, dims := [], words := 1, rw := 0x0, w1c := 0x0, w1s := 0x0, rwl := 0x0,
    eng := 0x0, prt := 0x0, mod := 0x0, pwr := 0xFFFFFFFF, dflt := 0x0, byIdx := [] },
  { base := 0x200020, dims := [], words := 1, rw := 0x0, w1c := 0x0, w1s := 0x0, rwl := 0x3F,
    eng := 0x0, prt := 0xFFFFFFFF, mod := 0x0, pwr := 0x0, dflt := 0xA, byIdx := [] },
  { base := 0x200024, dims := [], words := 1, rw := 0x0, w1c := 0x1800, w1s := 0x0, rwl := 0x0,
    eng := 0x0, prt := 0x0, mod := 0xFFFFFBFF, pwr := 0x400, dflt := 0x0, byIdx := [] },
  { base := 0x210000, dims := [], words := 1, rw := 0x0, w1c := 0x80, w1s := 0x0, rwl := 0x0,
    eng := 0x0, prt := 0x0, mod := 0xFFFFFF80, pwr := 0x7F, dflt := 0x0, byIdx := [] },
  { base := 0x210004, dims := [], words := 1, rw := 0x0, w1c := 0x0, w1s := 0x0, rwl := 0x0,
    eng := 0x0, prt := 0x0, mod := 0x0, pwr := 0xFFFFFFFF, dflt := 0x0, byIdx := [] },
  { base := 0x210008, dims := [], words := 1, rw := 0x0, w1c := 0x0, w1s := 0x0, rwl := 0x0,
    eng := 0x0, prt := 0x0, mod := 0x0, pwr := 0xFFFFFFFF, dflt := 0x0, byIdx := [] },
  { base := 0x21000C, dims := [], words := 1, rw := 0x0, w1c := 0x0, w1s := 0x0, rwl := 0x0,
    eng := 0x0, prt := 0x0, mod := 0x0, pwr := 0xFFFFFFFF, dflt := 0x0, byIdx := [] }
  ] -- EVR_OPMIN to UHS_NVM_SPARE

/-- Rows of the PWR block. -/
def rowsPWR : List RegRow := [
  { base := 0x300000, dims := [], words := 1, rw := 0x0, w1c := 0x0, w1s := 0x0, rwl := 0x0,
    eng := 0x0, prt := 0x0, mod := 0xFFFFFFFF, pwr := 0x0, dflt := 0x0, byIdx := [] },
  { base := 0x300004, dims := [], words := 1, rw := 0x0, w1c := 0x0, w1s := 0x0, rwl := 0x0,
    eng := 0x0, prt := 0x0, mod := 0xFFFFFFFF, pwr := 0x0, dflt := 0x0, byIdx := [] },
  { base := 0x300008, dims := [], words := 1, rw := 0xFF07FF, w1c := 0x0, w1s := 0x0, rwl := 0x0,
    eng := 0x0, prt := 0x0, mod := 0xFFFFFFFF, pwr := 0x0, dflt := 0x14060E, byIdx := [] },
  { base := 0x30000C, dims := [], words := 1, rw := 0x0, w1c := 0x0, w1s := 0x0, rwl := 0x0,
    eng := 0x0, prt := 0x0, mod := 0xFFFFFF1F, pwr := 0x0, dflt := 0x1010, byIdx := [] },
  { base := 0x300010, dims := [], words := 1, rw := 0x0, w1c := 0x3F, w1s := 0x0, rwl := 0x0,
    eng := 0x0, prt := 0x0, mod := 0xFFFFFFFF, pwr := 0x0, dflt := 0x0, byIdx := [] },
  { base := 0x300014, dims := [], words := 1, rw := 0x0, w1c := 0x0, w1s := 0x0, rwl := 0xFF,
    eng := 0x0, prt := 0xFFFFFFFF, mod := 0x0, pwr := 0x0, dflt := 0x64, byIdx := [] },
  { base := 0x300018, dims := [], words := 1, rw := 0x0, w1c := 0x4, w1s := 0x3, rwl := 0x0,
    eng := 0x0, prt := 0x0, mod := 0xFFFFFFFF, pwr := 0x0, dflt := 0x0, byIdx := [] },
  { base := 0x300100, dims := [(4, 40)], words := 1, rw := 0x4, w1c := 0x10, w1s := 0x8, rwl := 0x0,
    eng := 0x0, prt := 0x0, mod := 0xFFFFFFFF, pwr := 0x0, dflt := 0x0, byIdx := [] },
  { base := 0x300200, dims := [(4, 32)], words := 1, rw := 0x0, w1c := 0x0, w1s := 0x0, rwl := 0x0,
    eng := 0x0, prt := 0x0, mod := 0xFFFFFFFF, pwr := 0x0, dflt := 0x0, byIdx := [0, 750, 750, 750, 750, 750, 750, 750, 750, 750, 750, 750, 750, 750, 750, 750, 750, 1050, 1050, 1050, 1050, 1050, 1050, 1050, 1050, 800, 800, 750, 900, 900, 800, 1200] },
  { base := 0x300300, dims := [(4, 64)], words := 1, rw := 0x0, w1c := 0x0, w1s := 0x0, rwl := 0x0,
    eng := 0x0, prt := 0x0, mod := 0xFFFFFFFF, pwr := 0x0, dflt := 0x0, byIdx := [] },
  { base := 0x300400, dims := [(16, 8)], words := 1, rw := 0x7FFFFFFF, w1c := 0x0, w1s := 0x0, rwl := 0x0,
    eng := 0x0, prt := 0xFFFFFFFF, mod := 0x0, pwr := 0x0, dflt := 0x0, byIdx := [] },
  { base := 0x300404, dims := [(16, 8)], words := 1, rw := 0x0, w1c := 0x20000, w1s := 0x0, rwl := 0x0,
    eng := 0x0, prt := 0xFFFFFFFF, mod := 0x0, pwr := 0x0, dflt := 0x0, byIdx := [] },
  { base := 0x301000, dims := [(16, 8)], words := 1, rw := 0xFFF, w1c := 0x0, w1s := 0x0, rwl := 0x0,
    eng := 0x0, prt := 0xFFFFFFFF, mod := 0x0, pwr := 0x0, dflt := 0x640, byIdx := [] },
  { base := 0x301004, dims := [(16, 8)], words := 1, rw := 0x0, w1c := 0x0, w1s := 0x0, rwl := 0x0,
    eng := 0xFFFFFFFF, prt := 0x0, mod := 0x0, pwr := 0x0, dflt := 0x640, byIdx := [] },
  { base := 0x301008, dims := [(16, 8)], words := 1, rw := 0x0, w1c := 0x0, w1s := 0x0, rwl := 0x0,
    eng := 0x0, prt := 0xFFFFFFFF, mod := 0x0, pwr := 0x0, dflt := 0x6400640, byIdx := [] },
  { base := 0x301080, dims := [], words := 1, rw := 0x0, w1c := 0x0, w1s := 0x0, rwl := 0x0,
    eng := 0x0, prt := 0x0, mod := 0x0, pwr := 0xFFFFFFFF, dflt := 0x640, byIdx := [] },
  { base := 0x301084, dims := [], words := 1, rw := 0x0, w1c := 0x20000, w1s := 0x0, rwl := 0x0,
    eng := 0x0, prt := 0x0, mod := 0xFFFFFF03, pwr := 0x0, dflt := 0x2, byIdx := [] }
  ] -- PWR_VIN to CLK_STATUS

/-- Rows of the FAB block, part 0. -/
def rowsFAB0 : List RegRow := [
  { base := 0x400000, dims := [], words := 1, rw := 0x0, w1c := 0x0, w1s := 0x0, rwl := 0x0,
    eng := 0x0, prt := 0x0, mod := 0x0, pwr := 0xFFFFFFFF, dflt := 0x0, byIdx := [] },
  { base := 0x400004, dims := [], words := 1, rw := 0x0, w1c := 0x0, w1s := 0x0, rwl := 0x0,
    eng := 0x0, prt := 0x0, mod := 0x0, pwr := 0xFFFFFFFF, dflt := 0x34, byIdx := [] },
  { base := 0x400010, dims := [(4, 6)], words := 1, rw := 0x0, w1c := 0x0, w1s := 0x0, rwl := 0x3F,
    eng := 0x0, prt := 0xFFFFFFFF, mod := 0x0, pwr := 0x0, dflt := 0x4, byIdx := [0, 8, 16, 24, 32, 40] },
  { base := 0x400040, dims := [(4, 24)], words := 1, rw := 0x0, w1c := 0x0, w1s := 0x0, rwl := 0x0,
    eng := 0x0, prt := 0xFFFFFFFF, mod := 0x0, pwr := 0x0, dflt := 0x1, byIdx := [] },
  { base := 0x4000A0, dims := [(4, 6)], words := 1, rw := 0x0, w1c := 0x0, w1s := 0x0, rwl := 0x0,
    eng := 0x0, prt := 0xFFFF, mod := 0x0, pwr := 0x0, dflt := 0x0, byIdx := [] },
  { base := 0x4000C0, dims := [(4, 6)], words := 1, rw := 0x0, w1c := 0x0, w1s := 0x0, rwl := 0x0,
    eng := 0x0, prt := 0x0, mod := 0x0, pwr := 0xFFFF, dflt := 0x0, byIdx := [] },
  { base := 0x4000E0, dims := [(4, 6)], words := 1, rw := 0x0, w1c := 0x0, w1s := 0xFFFF, rwl := 0x0,
    eng := 0x0, prt := 0xFFFF, mod := 0x0, pwr := 0x0, dflt := 0x0, byIdx := [] },
  { base := 0x400100, dims := [], words := 1, rw := 0x0, w1c := 0x0, w1s := 0x0, rwl := 0xFFFFFFFF,
    eng := 0x0, prt := 0xFFFFFFFF, mod := 0x0, pwr := 0x0, dflt := 0x3E803C3, byIdx := [] },
  { base := 0x400104, dims := [], words := 1, rw := 0x0, w1c := 0x0, w1s := 0x0, rwl := 0xFFFFFFFF,
    eng := 0x0, prt := 0xFFFFFFFF, mod := 0x0, pwr := 0x0, dflt := 0x2580100, byIdx := [] },
  { base := 0x400108, dims := [], words := 1, rw := 0x0, w1c := 0x0, w1s := 0x0, rwl := 0xFF0F,
    eng := 0x0, prt := 0xFFFFFF0F, mod := 0x0, pwr := 0x0, dflt := 0x4008, byIdx := [] },
  { base := 0x40010C, dims := [], words := 1, rw := 0x0, w1c := 0x0, w1s := 0x0, rwl := 0xFFFFFFFF,
    eng := 0x0, prt := 0xFFFFFFFF, mod := 0x0, pwr := 0x0, dflt := 0xC80014, byIdx := [] },
  { base := 0x400200, dims := [(16, 8)], words := 1, rw := 0x0, w1c := 0x0, w1s := 0x0, rwl := 0x0,
    eng := 0x0, prt := 0xFFFFFFFF, mod := 0x0, pwr := 0x0, dflt := 0x0, byIdx := [] },
  { base := 0x400204, dims := [(16, 8)], words := 1, rw := 0x0, w1c := 0x0, w1s := 0x0, rwl := 0x0,
    eng := 0x0, prt := 0xFFFFFFFF, mod := 0x0, pwr := 0x0, dflt := 0x0, byIdx := [] },
  { base := 0x400208, dims := [(16, 8)], words := 1, rw := 0x0, w1c := 0x0, w1s := 0x0, rwl := 0x0,
    eng := 0x0, prt := 0xFFFF7FFF, mod := 0x0, pwr := 0x0, dflt := 0x0, byIdx := [] },
  { base := 0x400300, dims := [], words := 1, rw := 0x20E00, w1c := 0xC0000, w1s := 0x1FF, rwl := 0x0,
    eng := 0x0, prt := 0xFFFF0FFF, mod := 0x0, pwr := 0x0, dflt := 0x0, byIdx := [] },
  { base := 0x400310, dims := [], words := 1, rw := 0x0, w1c := 0x3FF, w1s := 0x0, rwl := 0x0,
    eng := 0x0, prt := 0xFFFFFFFF, mod := 0x0, pwr := 0x0, dflt := 0x0, byIdx := [] },
  { base := 0x400320, dims := [], words := 1, rw := 0x0, w1c := 0x80000000, w1s := 0x0, rwl := 0x0,
    eng := 0x0, prt := 0xFFFFFFFF, mod := 0x0, pwr := 0x0, dflt := 0x0, byIdx := [] },
  { base := 0x400324, dims := [], words := 1, rw := 0x0, w1c := 0x0, w1s := 0x0, rwl := 0x0,
    eng := 0x0, prt := 0xFFFFFFFF, mod := 0x0, pwr := 0x0, dflt := 0x0, byIdx := [] },
  { base := 0x400328, dims := [], words := 1, rw := 0x0, w1c := 0x0, w1s := 0x0, rwl := 0x0,
    eng := 0x0, prt := 0xFFFFFFFF, mod := 0x0, pwr := 0x0, dflt := 0x0, byIdx := [] },
  { base := 0x401000, dims := [], words := 1, rw := 0x0, w1c := 0x0, w1s := 0x0, rwl := 0x0,
    eng := 0x0, prt := 0x0, mod := 0xFFFFFFFF, pwr := 0x0, dflt := 0x0, byIdx := [] },
  { base := 0x401004, dims := [], words := 1, rw := 0x0, w1c := 0x0, w1s := 0x0, rwl := 0x0,
    eng := 0x0, prt := 0x0, mod := 0xFFFFFFFF, pwr := 0x0, dflt := 0x0, byIdx := [] },
  { base := 0x401008, dims := [], words := 1, rw := 0x0, w1c := 0x0, w1s := 0x0, rwl := 0xFFFFFFFF,
    eng := 0x0, prt := 0xFFFFFFFF, mod := 0x0, pwr := 0x0, dflt := 0x32007D, byIdx := [] },
  { base := 0x40100C, dims := [], words := 1, rw := 0x0, w1c := 0x0, w1s := 0x0, rwl := 0xFFFF,
    eng := 0x0, prt := 0xFFFFFFFF, mod := 0x0, pwr := 0x0, dflt := 0x3E8, byIdx := [] },
  { base := 0x401010, dims := [], words := 1, rw := 0x0, w1c := 0xC, w1s := 0x0, rwl := 0x0,
    eng := 0x0, prt := 0x0, mod := 0xFFFFFFFF, pwr := 0x0, dflt := 0xFF01F0, byIdx := [] }
  ] -- FAB_GID to FAB_TIME_STATUS

/-- Rows of the FAB block, part 1. -/
def rowsFAB1 : List RegRow := [
  { base := 0x401014, dims := [], words := 1, rw := 0x0, w1c := 0x0, w1s := 0x0, rwl := 0x0,
    eng := 0x0, prt := 0x0, mod := 0xFFFFFFFF, pwr := 0x0, dflt := 0x0, byIdx := [] },
  { base := 0x401020, dims := [], words := 1, rw := 0x0, w1c := 0x0, w1s := 0x0, rwl := 0xFFFFFF,
    eng := 0x0, prt := 0xFFFFFFFF, mod := 0x0, pwr := 0x0, dflt := 0x301F1, byIdx := [] },
  { base := 0x401100, dims := [(32, 8), (4, 6)], words := 1, rw := 0x3FFF, w1c := 0x0, w1s := 0x0, rwl := 0x0,
    eng := 0x0, prt := 0xFFFFFFFF, mod := 0x0, pwr := 0x0, dflt := 0x800, byIdx := [] },
  { base := 0x401200, dims := [(16, 8)], words := 1, rw := 0xFFFFFFFF, w1c := 0x0, w1s := 0x0, rwl := 0x0,
    eng := 0x0, prt := 0xFFFFFFFF, mod := 0x0, pwr := 0x0, dflt := 0x1010101, byIdx := [] },
  { base := 0x401204, dims := [(16, 8)], words := 1, rw := 0xFFFF, w1c := 0x0, w1s := 0x0, rwl := 0x0,
    eng := 0x0, prt := 0xFFFFFFFF, mod := 0x0, pwr := 0x0, dflt := 0x101, byIdx := [] },
  { base := 0x401208, dims := [(16, 8)], words := 1, rw := 0x0, w1c := 0x0, w1s := 0x0, rwl := 0x0,
    eng := 0x0, prt := 0xFFFFFFFF, mod := 0x0, pwr := 0x0, dflt := 0x1010101, byIdx := [] },
  { base := 0x40120C, dims := [(16, 8)], words := 1, rw := 0x0, w1c := 0x0, w1s := 0x0, rwl := 0x0,
    eng := 0x0, prt := 0xFFFFFFFF, mod := 0x0, pwr := 0x0, dflt := 0x101, byIdx := [] },
  { base := 0x401300, dims := [(4, 6)], words := 1, rw := 0x0, w1c := 0x0, w1s := 0x0, rwl := 0xFFFFFFFF,
    eng := 0x0, prt := 0xFFFFFFFF, mod := 0x0, pwr := 0x0, dflt := 0x0, byIdx := [] },
  { base := 0x401320, dims := [], words := 1, rw := 0x0, w1c := 0x0, w1s := 0x0, rwl := 0x7FFFFF,
    eng := 0x0, prt := 0xFFFFFFFF, mod := 0x0, pwr := 0x0, dflt := 0x1903E8, byIdx := [] },
  { base := 0x401324, dims := [], words := 1, rw := 0x0, w1c := 0x1000000, w1s := 0x0, rwl := 0x0,
    eng := 0x0, prt := 0xFFFFFFFF, mod := 0x0, pwr := 0x0, dflt := 0x0, byIdx := [] }
  ] -- FAB_TIME_OFFSET to FAB_SAT_STATUS

/-- Rows of the FAB block. -/
def rowsFAB : List RegRow := rowsFAB0 ++ rowsFAB1

/-- Rows of the FLW block. -/
def rowsFLW : List RegRow := [
  { base := 0x800000, dims := [(128, 16384)], words := 32, rw := 0x0, w1c := 0x0, w1s := 0x0, rwl := 0x0,
    eng := 0x0, prt := 0xFFFFFFFF, mod := 0x0, pwr := 0x0, dflt := 0x0, byIdx := [] },
  { base := 0xA00000, dims := [(262144, 6), (4, 65536)], words := 1, rw := 0xFFFFFFFF, w1c := 0x0, w1s := 0x0, rwl := 0x0,
    eng := 0x0, prt := 0xFFFFFFFF, mod := 0x0, pwr := 0x0, dflt := 0x0, byIdx := [] },
  { base := 0xC00000, dims := [(524288, 8), (8, 65536)], words := 2, rw := 0xFFFFFFFF, w1c := 0x0, w1s := 0x0, rwl := 0x0,
    eng := 0x0, prt := 0xFFFFFFFF, mod := 0x0, pwr := 0x0, dflt := 0x0, byIdx := [] }
  ] -- FLW_CTX_n to FLW_REKEY_j_e

/-- Rows of the COL block. -/
def rowsCOL : List RegRow := [
  { base := 0x1000010, dims := [], words := 1, rw := 0x0, w1c := 0x1F0000, w1s := 0x0, rwl := 0x0,
    eng := 0xFFFF, prt := 0xFFFF0000, mod := 0x0, pwr := 0x0, dflt := 0x0, byIdx := [] },
  { base := 0x1000020, dims := [], words := 1, rw := 0x0, w1c := 0x80000000, w1s := 0x0, rwl := 0x0,
    eng := 0x0, prt := 0xFFFFFFFF, mod := 0x0, pwr := 0x0, dflt := 0x0, byIdx := [] },
  { base := 0x1000024, dims := [], words := 1, rw := 0x0, w1c := 0x0, w1s := 0x0, rwl := 0x0,
    eng := 0x0, prt := 0xFFFFFFFF, mod := 0x0, pwr := 0x0, dflt := 0x0, byIdx := [] },
  { base := 0x1000028, dims := [], words := 1, rw := 0x0, w1c := 0x0, w1s := 0x0, rwl := 0x0,
    eng := 0x0, prt := 0xFFFFFFFF, mod := 0x0, pwr := 0x0, dflt := 0x0, byIdx := [] },
  { base := 0x1000030, dims := [], words := 1, rw := 0x0, w1c := 0x0, w1s := 0x0, rwl := 0x0,
    eng := 0x0, prt := 0xFFFFFFFF, mod := 0x0, pwr := 0x0, dflt := 0x0, byIdx := [] },
  { base := 0x1000034, dims := [], words := 1, rw := 0x0, w1c := 0x80000000, w1s := 0x0, rwl := 0x0,
    eng := 0x0, prt := 0xFFFFFFFF, mod := 0x0, pwr := 0x0, dflt := 0x0, byIdx := [] },
  { base := 0x1010000, dims := [(32768, 8), (8, 4096)], words := 1, rw := 0x1FFFF, w1c := 0x0, w1s := 0x0, rwl := 0x0,
    eng := 0x0, prt := 0xFFFFFFFF, mod := 0x0, pwr := 0x0, dflt := 0x0, byIdx := [] },
  { base := 0x1010004, dims := [(32768, 8), (8, 4096)], words := 1, rw := 0xFFFFF, w1c := 0x0, w1s := 0x0, rwl := 0x0,
    eng := 0x0, prt := 0xFFFFFFFF, mod := 0x0, pwr := 0x0, dflt := 0x0, byIdx := [] },
  { base := 0x1080000, dims := [(4, 131072)], words := 1, rw := 0xFFFFFF, w1c := 0x0, w1s := 0x0, rwl := 0x0,
    eng := 0x0, prt := 0xFFFFFFFF, mod := 0x0, pwr := 0x0, dflt := 0x0, byIdx := [] }
  ] -- COL_STATUS to COL_MEMBER_e

/-- Rows of the BCT block. -/
def rowsBCT : List RegRow := [
  { base := 0x1100000, dims := [], words := 1, rw := 0x0, w1c := 0x0, w1s := 0x0, rwl := 0xFFFFFFFF,
    eng := 0x0, prt := 0xFFFFFFFF, mod := 0x0, pwr := 0x0, dflt := 0x64140A, byIdx := [] },
  { base := 0x1100004, dims := [], words := 1, rw := 0x0, w1c := 0xF00, w1s := 0x0, rwl := 0x0,
    eng := 0xFF, prt := 0xFFFFFF00, mod := 0x0, pwr := 0x0, dflt := 0x0, byIdx := [] },
  { base := 0x1100020, dims := [(4, 8)], words := 1, rw := 0x0, w1c := 0x0, w1s := 0x0, rwl := 0xFFFFFFF,
    eng := 0x0, prt := 0xFFFFFFFF, mod := 0x0, pwr := 0x0, dflt := 0x0, byIdx := [] },
  { base := 0x1100100, dims := [(32, 8)], words := 1, rw := 0x0, w1c := 0x0, w1s := 0x0, rwl := 0x0,
    eng := 0xFFFFFFFF, prt := 0x0, mod := 0x0, pwr := 0x0, dflt := 0x0, byIdx := [] },
  { base := 0x1100104, dims := [(32, 8)], words := 1, rw := 0x0, w1c := 0x0, w1s := 0x0, rwl := 0x0,
    eng := 0xFFFFFFFF, prt := 0x0, mod := 0x0, pwr := 0x0, dflt := 0x0, byIdx := [] },
  { base := 0x1100108, dims := [(32, 8)], words := 1, rw := 0x0, w1c := 0x0, w1s := 0x0, rwl := 0x0,
    eng := 0xFFFFFFFF, prt := 0x0, mod := 0x0, pwr := 0x0, dflt := 0x0, byIdx := [] },
  { base := 0x110010C, dims := [(32, 8)], words := 1, rw := 0x0, w1c := 0x0, w1s := 0x0, rwl := 0x0,
    eng := 0xFFFFFFFF, prt := 0x0, mod := 0x0, pwr := 0x0, dflt := 0x0, byIdx := [] },
  { base := 0x1100110, dims := [(32, 8)], words := 1, rw := 0x0, w1c := 0x0, w1s := 0x0, rwl := 0x0,
    eng := 0xFFFFFFFF, prt := 0x0, mod := 0x0, pwr := 0x0, dflt := 0x0, byIdx := [] },
  { base := 0x1100114, dims := [(32, 8)], words := 1, rw := 0x0, w1c := 0x0, w1s := 0x0, rwl := 0x0,
    eng := 0xFFFFFFFF, prt := 0x0, mod := 0x0, pwr := 0x0, dflt := 0x0, byIdx := [] },
  { base := 0x1100118, dims := [(32, 8)], words := 1, rw := 0x0, w1c := 0x0, w1s := 0x0, rwl := 0x0,
    eng := 0xFFFFFFFF, prt := 0x0, mod := 0x0, pwr := 0x0, dflt := 0x0, byIdx := [] },
  { base := 0x110011C, dims := [(32, 8)], words := 1, rw := 0x0, w1c := 0x0, w1s := 0x0, rwl := 0x0,
    eng := 0xFFFFFFFF, prt := 0x0, mod := 0x0, pwr := 0x0, dflt := 0x0, byIdx := [] },
  { base := 0x1101000, dims := [(8, 8)], words := 1, rw := 0x1FFFF, w1c := 0x0, w1s := 0x0, rwl := 0x0,
    eng := 0x0, prt := 0xFFFFFFFF, mod := 0x0, pwr := 0x0, dflt := 0x0, byIdx := [] },
  { base := 0x1101004, dims := [(8, 8)], words := 1, rw := 0xFFFFF, w1c := 0x0, w1s := 0x0, rwl := 0x0,
    eng := 0x0, prt := 0xFFFFFFFF, mod := 0x0, pwr := 0x0, dflt := 0xE0000, byIdx := [] },
  { base := 0x1110000, dims := [(4096, 8), (4, 587)], words := 1, rw := 0x1FFFFF, w1c := 0x0, w1s := 0x0, rwl := 0x0,
    eng := 0x0, prt := 0xFFFFFFFF, mod := 0x0, pwr := 0x0, dflt := 0x0, byIdx := [] }
  ] -- BCT_CFG to BCT_JREL_j_e

/-- Rows of the HSP block, part 0. -/
def rowsHSP0 : List RegRow := [
  { base := 0x1200000, dims := [(64, 8)], words := 1, rw := 0x0, w1c := 0x0, w1s := 0x0, rwl := 0x3F,
    eng := 0x0, prt := 0xFFFFFFFF, mod := 0x0, pwr := 0x0, dflt := 0xF, byIdx := [] },
  { base := 0x1200004, dims := [(64, 8)], words := 1, rw := 0x0, w1c := 0x0, w1s := 0x0, rwl := 0xFFFFFFFF,
    eng := 0x0, prt := 0xFFFFFFFF, mod := 0x0, pwr := 0x0, dflt := 0x10000004, byIdx := [] },
  { base := 0x1200008, dims := [(64, 8)], words := 1, rw := 0x0, w1c := 0x0, w1s := 0x0, rwl := 0xFFFFFFFF,
    eng := 0x0, prt := 0xFFFFFFFF, mod := 0x0, pwr := 0x0, dflt := 0x780010, byIdx := [] },
  { base := 0x120000C, dims := [(64, 8)], words := 1, rw := 0xFFFFFFFF, w1c := 0x0, w1s := 0x0, rwl := 0x0,
    eng := 0x0, prt := 0xFFFFFFFF, mod := 0x0, pwr := 0x0, dflt := 0xA5F0, byIdx := [] },
  { base := 0x1200010, dims := [(64, 8)], words := 1, rw := 0x0, w1c := 0x0, w1s := 0x0, rwl := 0x0,
    eng := 0x0, prt := 0xFFFFFFFF, mod := 0x0, pwr := 0x0, dflt := 0xA5F0, byIdx := [] },
  { base := 0x1200014, dims := [(64, 8)], words := 1, rw := 0x0, w1c := 0x0, w1s := 0x0, rwl := 0x0,
    eng := 0x0, prt := 0xFFFFFFFF, mod := 0x0, pwr := 0x0, dflt := 0x186A0, byIdx := [] },
  { base := 0x1200018, dims := [(64, 8)], words := 1, rw := 0x0, w1c := 0x0, w1s := 0x0, rwl := 0x0,
    eng := 0x0, prt := 0xFFFFFFFF, mod := 0x0, pwr := 0x0, dflt := 0x0, byIdx := [] },
  { base := 0x120001C, dims := [(64, 8)], words := 1, rw := 0x0, w1c := 0x0, w1s := 0x0, rwl := 0x0,
    eng := 0x0, prt := 0xFFFFFFFF, mod := 0x0, pwr := 0x0, dflt := 0x4, byIdx := [] },
  { base := 0x1200020, dims := [(64, 8)], words := 1, rw := 0x0, w1c := 0x0, w1s := 0x0, rwl := 0x0,
    eng := 0x0, prt := 0x0, mod := 0xFFFFFFFF, pwr := 0x0, dflt := 0xFFFFFFFF, byIdx := [] },
  { base := 0x1200024, dims := [(64, 8)], words := 1, rw := 0x0, w1c := 0xFC, w1s := 0x0, rwl := 0x0,
    eng := 0x3, prt := 0xFFFFFFFC, mod := 0x0, pwr := 0x0, dflt := 0x0, byIdx := [] },
  { base := 0x1200028, dims := [(64, 8)], words := 1, rw := 0x0, w1c := 0x0, w1s := 0x0, rwl := 0x0,
    eng := 0x0, prt := 0xFFFFFFFF, mod := 0x0, pwr := 0x0, dflt := 0x0, byIdx := [] },
  { base := 0x120002C, dims := [(64, 8)], words := 1, rw := 0x0, w1c := 0x0, w1s := 0x0, rwl := 0x0,
    eng := 0x0, prt := 0xFFFFFFFF, mod := 0x0, pwr := 0x0, dflt := 0x0, byIdx := [] },
  { base := 0x1200030, dims := [(64, 8)], words := 1, rw := 0x0, w1c := 0x0, w1s := 0x0, rwl := 0xFFFF3FFF,
    eng := 0x0, prt := 0xFFFF3FFF, mod := 0x0, pwr := 0x0, dflt := 0x3C0A0000, byIdx := [] },
  { base := 0x1200400, dims := [(512, 8)], words := 1, rw := 0x0, w1c := 0x0, w1s := 0x0, rwl := 0x0,
    eng := 0xC0, prt := 0xFFFFFF00, mod := 0x3F, pwr := 0x0, dflt := 0x0, byIdx := [] },
  { base := 0x1200404, dims := [(512, 8)], words := 1, rw := 0x0, w1c := 0x0, w1s := 0x0, rwl := 0x0,
    eng := 0x0, prt := 0x0, mod := 0xFFFFFFFF, pwr := 0x0, dflt := 0xFFFFFFFF, byIdx := [] },
  { base := 0x1200408, dims := [(512, 8)], words := 1, rw := 0x0, w1c := 0x0, w1s := 0x0, rwl := 0x0,
    eng := 0x0, prt := 0x0, mod := 0xFFFFFFFF, pwr := 0x0, dflt := 0xFFFFFFFF, byIdx := [] },
  { base := 0x120040C, dims := [(512, 8)], words := 1, rw := 0x0, w1c := 0x0, w1s := 0x0, rwl := 0x0,
    eng := 0x0, prt := 0xFFFFFFFF, mod := 0x0, pwr := 0x0, dflt := 0x0, byIdx := [] },
  { base := 0x1200440, dims := [(512, 8), (4, 32)], words := 1, rw := 0x0, w1c := 0x0, w1s := 0x0, rwl := 0x0,
    eng := 0x0, prt := 0xFFFFFFFF, mod := 0x0, pwr := 0x0, dflt := 0x0, byIdx := [] },
  { base := 0x1200500, dims := [(512, 8), (4, 32)], words := 1, rw := 0x0, w1c := 0x0, w1s := 0x0, rwl := 0x0,
    eng := 0x0, prt := 0xFFFFFFFF, mod := 0x0, pwr := 0x0, dflt := 0x0, byIdx := [] },
  { base := 0x1208000, dims := [], words := 1, rw := 0x0, w1c := 0x0, w1s := 0x0, rwl := 0xFFF0FFF,
    eng := 0x0, prt := 0xFFFFFFFF, mod := 0x0, pwr := 0x0, dflt := 0xC8050A, byIdx := [] },
  { base := 0x1208004, dims := [], words := 1, rw := 0x0, w1c := 0x0, w1s := 0x0, rwl := 0xFFFF,
    eng := 0x0, prt := 0xFFFFFFFF, mod := 0x0, pwr := 0x0, dflt := 0x3E8, byIdx := [] },
  { base := 0x1208010, dims := [], words := 1, rw := 0x0, w1c := 0x0, w1s := 0x0, rwl := 0x0,
    eng := 0x0, prt := 0x0, mod := 0x0, pwr := 0xFFFFFFFF, dflt := 0x0, byIdx := [] },
  { base := 0x1208014, dims := [], words := 1, rw := 0x0, w1c := 0x0, w1s := 0x0, rwl := 0xFFFF,
    eng := 0x0, prt := 0xFFFFFFFF, mod := 0x0, pwr := 0x0, dflt := 0xA82, byIdx := [] },
  { base := 0x1208018, dims := [], words := 1, rw := 0x0, w1c := 0x0, w1s := 0x0, rwl := 0x0,
    eng := 0x0, prt := 0x0, mod := 0x0, pwr := 0xFFFFFFFF, dflt := 0x0, byIdx := [] }
  ] -- HSP_J_j_CFG to RCV_RETIRE_USED

/-- Rows of the HSP block, part 1. -/
def rowsHSP1 : List RegRow := [
  { base := 0x1208020, dims := [], words := 1, rw := 0x0, w1c := 0x0, w1s := 0x0, rwl := 0x0,
    eng := 0x0, prt := 0x0, mod := 0x0, pwr := 0xFFFFFFFF, dflt := 0x0, byIdx := [] },
  { base := 0x1208024, dims := [], words := 1, rw := 0x0, w1c := 0x0, w1s := 0x0, rwl := 0x0,
    eng := 0x0, prt := 0x0, mod := 0x0, pwr := 0xFFFFFFFF, dflt := 0x0, byIdx := [] },
  { base := 0x1208100, dims := [(64, 8)], words := 1, rw := 0x0, w1c := 0x70, w1s := 0x0, rwl := 0x0,
    eng := 0xF, prt := 0xFFFFFFF0, mod := 0x0, pwr := 0x0, dflt := 0x0, byIdx := [] },
  { base := 0x1208104, dims := [(64, 8)], words := 1, rw := 0x0, w1c := 0x0, w1s := 0x0, rwl := 0x0,
    eng := 0x0, prt := 0xFFFFFFFF, mod := 0x0, pwr := 0x0, dflt := 0x0, byIdx := [] },
  { base := 0x1208108, dims := [(64, 8)], words := 1, rw := 0x0, w1c := 0x0, w1s := 0x0, rwl := 0x0,
    eng := 0x0, prt := 0xFFFFFFFF, mod := 0x0, pwr := 0x0, dflt := 0x0, byIdx := [] },
  { base := 0x120810C, dims := [(64, 8)], words := 1, rw := 0x0, w1c := 0x0, w1s := 0x0, rwl := 0x0,
    eng := 0x0, prt := 0xFFFFFFFF, mod := 0x0, pwr := 0x0, dflt := 0xFFFFFFFF, byIdx := [] },
  { base := 0x1208110, dims := [(64, 8)], words := 1, rw := 0x0, w1c := 0x0, w1s := 0x0, rwl := 0x0,
    eng := 0x0, prt := 0xFFFFFFFF, mod := 0x0, pwr := 0x0, dflt := 0x0, byIdx := [] },
  { base := 0x1208400, dims := [(64, 8), (4, 16)], words := 1, rw := 0x0, w1c := 0x0, w1s := 0x0, rwl := 0x0,
    eng := 0x0, prt := 0xFFFFFFFF, mod := 0x0, pwr := 0x0, dflt := 0x0, byIdx := [] },
  { base := 0x1208800, dims := [(16, 8)], words := 1, rw := 0x0, w1c := 0x0, w1s := 0x0, rwl := 0x0,
    eng := 0x0, prt := 0xFFFFFFFF, mod := 0x0, pwr := 0x0, dflt := 0x0, byIdx := [] },
  { base := 0x1208804, dims := [(16, 8)], words := 1, rw := 0x0, w1c := 0x0, w1s := 0x0, rwl := 0x0,
    eng := 0x0, prt := 0xFFFFFFFF, mod := 0x0, pwr := 0x0, dflt := 0x0, byIdx := [] },
  { base := 0x1208808, dims := [(16, 8)], words := 1, rw := 0x0, w1c := 0x0, w1s := 0x0, rwl := 0x0,
    eng := 0x0, prt := 0xFFFFFFFF, mod := 0x0, pwr := 0x0, dflt := 0x0, byIdx := [] },
  { base := 0x120880C, dims := [(16, 8)], words := 1, rw := 0x0, w1c := 0x0, w1s := 0x0, rwl := 0x0,
    eng := 0x0, prt := 0xFFFFFFFF, mod := 0x0, pwr := 0x0, dflt := 0x0, byIdx := [] },
  { base := 0x1210000, dims := [(8192, 8), (4, 2048)], words := 1, rw := 0x0, w1c := 0x0, w1s := 0x0, rwl := 0x0,
    eng := 0xFFFFFFFF, prt := 0x0, mod := 0x0, pwr := 0x0, dflt := 0x0, byIdx := [] }
  ] -- RCV_FENCE to RCV_J_j_DIVERT_w

/-- Rows of the HSP block. -/
def rowsHSP : List RegRow := rowsHSP0 ++ rowsHSP1

/-- Rows of the GDBG block. -/
def rowsGDBG : List RegRow := [
  { base := 0x1400000, dims := [(8, 768)], words := 1, rw := 0x0, w1c := 0x0, w1s := 0x0, rwl := 0x0,
    eng := 0x0, prt := 0x0, mod := 0xFFFFFFFF, pwr := 0x0, dflt := 0x0, byIdx := [] },
  { base := 0x1400004, dims := [(8, 768)], words := 1, rw := 0x0, w1c := 0x0, w1s := 0x0, rwl := 0x0,
    eng := 0x0, prt := 0x0, mod := 0xFFFFFFFF, pwr := 0x0, dflt := 0x0, byIdx := [] },
  { base := 0x1408000, dims := [], words := 1, rw := 0x400003FF, w1c := 0x0, w1s := 0x80000000, rwl := 0x0,
    eng := 0x0, prt := 0x0, mod := 0xC00003FF, pwr := 0x0, dflt := 0x0, byIdx := [] },
  { base := 0x1408004, dims := [], words := 1, rw := 0x0, w1c := 0x1, w1s := 0x0, rwl := 0x0,
    eng := 0x0, prt := 0xFF00, mod := 0xFFFE0001, pwr := 0x10000, dflt := 0x0, byIdx := [] },
  { base := 0x1408100, dims := [], words := 1, rw := 0xFF, w1c := 0x0, w1s := 0x0, rwl := 0x0,
    eng := 0x0, prt := 0x0, mod := 0xFFFFFFFF, pwr := 0x0, dflt := 0x0, byIdx := [] }
  ] -- DBG_GCNT_n_LO to TRC_FANOUT

/-- Rows of the BAR4 block. -/
def rowsBAR4 : List RegRow := [
  { base := 0x10000000, dims := [(256, 64)], words := 16, rw := 0xFFFFFFFF, w1c := 0x0, w1s := 0x0, rwl := 0x0,
    eng := 0x0, prt := 0xFFFFFFFF, mod := 0x0, pwr := 0x0, dflt := 0x0, byIdx := [] },
  { base := 0x10000040, dims := [(256, 64)], words := 1, rw := 0x0, w1c := 0x2, w1s := 0x0, rwl := 0x0,
    eng := 0x0, prt := 0xFFFFFFFF, mod := 0x0, pwr := 0x0, dflt := 0x0, byIdx := [] },
  { base := 0x10000044, dims := [(256, 64)], words := 1, rw := 0x0, w1c := 0x0, w1s := 0x0, rwl := 0x0,
    eng := 0x0, prt := 0xFFFFFFFF, mod := 0x0, pwr := 0x0, dflt := 0x0, byIdx := [] },
  { base := 0x10000048, dims := [(256, 64)], words := 1, rw := 0x0, w1c := 0x0, w1s := 0x0, rwl := 0x0,
    eng := 0x0, prt := 0xFFFFFFFF, mod := 0x0, pwr := 0x0, dflt := 0x0, byIdx := [] },
  { base := 0x1000004C, dims := [(256, 64)], words := 1, rw := 0xFF, w1c := 0x0, w1s := 0x100, rwl := 0x0,
    eng := 0x0, prt := 0xFFFFFFFF, mod := 0x0, pwr := 0x0, dflt := 0x0, byIdx := [] },
  { base := 0x10040000, dims := [(4096, 9), (4, 16)], words := 1, rw := 0xFFFFFFFF, w1c := 0x0, w1s := 0x0, rwl := 0x0,
    eng := 0x0, prt := 0xFFFFFFFF, mod := 0x0, pwr := 0x0, dflt := 0x0, byIdx := [] },
  { base := 0x10040040, dims := [(4096, 9)], words := 2, rw := 0x0, w1c := 0x0, w1s := 0x0, rwl := 0x0,
    eng := 0x0, prt := 0xFFFFFFFF, mod := 0x0, pwr := 0x0, dflt := 0x0, byIdx := [] },
  { base := 0x10080000, dims := [(4096, 9)], words := 1, rw := 0xFFFFF000, w1c := 0x0, w1s := 0x0, rwl := 0x0,
    eng := 0x0, prt := 0xFFFFFFFF, mod := 0x0, pwr := 0x0, dflt := 0x0, byIdx := [] },
  { base := 0x10080004, dims := [(4096, 9)], words := 1, rw := 0xFFFFFFFF, w1c := 0x0, w1s := 0x0, rwl := 0x0,
    eng := 0x0, prt := 0xFFFFFFFF, mod := 0x0, pwr := 0x0, dflt := 0x0, byIdx := [] },
  { base := 0x10080008, dims := [(4096, 9)], words := 1, rw := 0x11F, w1c := 0x0, w1s := 0x0, rwl := 0x0,
    eng := 0x0, prt := 0xFFFFFF1F, mod := 0x0, pwr := 0x0, dflt := 0x6, byIdx := [] },
  { base := 0x1008000C, dims := [(4096, 9)], words := 1, rw := 0xFFFF, w1c := 0x0, w1s := 0x0, rwl := 0x0,
    eng := 0x0, prt := 0xFFFFFFFF, mod := 0x0, pwr := 0x0, dflt := 0x0, byIdx := [] },
  { base := 0x10080010, dims := [(4096, 9)], words := 1, rw := 0x0, w1c := 0x0, w1s := 0x0, rwl := 0x0,
    eng := 0x0, prt := 0xFFFFFFFF, mod := 0x0, pwr := 0x0, dflt := 0x0, byIdx := [] },
  { base := 0x10080014, dims := [(4096, 9)], words := 1, rw := 0x0, w1c := 0x2, w1s := 0x0, rwl := 0x0,
    eng := 0x0, prt := 0xFFFFFFFF, mod := 0x0, pwr := 0x0, dflt := 0x0, byIdx := [] },
  { base := 0x100C0000, dims := [], words := 16, rw := 0xFFFFFFFF, w1c := 0x0, w1s := 0x0, rwl := 0x0,
    eng := 0x0, prt := 0xFFFFFFFF, mod := 0x0, pwr := 0x0, dflt := 0x0, byIdx := [] },
  { base := 0x100C0040, dims := [], words := 1, rw := 0x7FFFFFFF, w1c := 0x0, w1s := 0x80000000, rwl := 0x0,
    eng := 0x0, prt := 0xFFFFFFFF, mod := 0x0, pwr := 0x0, dflt := 0x0, byIdx := [] },
  { base := 0x100C0044, dims := [], words := 1, rw := 0x0, w1c := 0x0, w1s := 0x0, rwl := 0x0,
    eng := 0x0, prt := 0xFFFFFFFF, mod := 0x0, pwr := 0x0, dflt := 0x0, byIdx := [] }
  ] -- MBX_n_DATA to MBX_RSEND_STATUS

/-- Rows of the SB block. -/
def rowsSB : List RegRow := [
  { base := 0x20000000, dims := [], words := 1, rw := 0x0, w1c := 0x0, w1s := 0x0, rwl := 0x0,
    eng := 0x0, prt := 0x0, mod := 0x0, pwr := 0xFFFFFFFF, dflt := 0x14108FF, byIdx := [] },
  { base := 0x20000004, dims := [], words := 1, rw := 0x0, w1c := 0x0, w1s := 0x0, rwl := 0x0,
    eng := 0x0, prt := 0x0, mod := 0xFFFFF987, pwr := 0x678, dflt := 0x0, byIdx := [] },
  { base := 0x20000008, dims := [], words := 1, rw := 0x0, w1c := 0x1F7, w1s := 0x0, rwl := 0x0,
    eng := 0x0, prt := 0x0, mod := 0xFFFFFFFF, pwr := 0x0, dflt := 0x10, byIdx := [] },
  { base := 0x2000000C, dims := [], words := 1, rw := 0x0, w1c := 0x0, w1s := 0x0, rwl := 0x0,
    eng := 0x0, prt := 0x0, mod := 0xFFFFFFFF, pwr := 0x0, dflt := 0x0, byIdx := [] },
  { base := 0x20000010, dims := [], words := 1, rw := 0x0, w1c := 0x0, w1s := 0x0, rwl := 0x0,
    eng := 0x0, prt := 0x0, mod := 0xFFFFFFFF, pwr := 0x0, dflt := 0x0, byIdx := [] },
  { base := 0x20000014, dims := [], words := 1, rw := 0x0, w1c := 0x0, w1s := 0x0, rwl := 0x0,
    eng := 0x0, prt := 0x0, mod := 0xFFFFFFFF, pwr := 0x0, dflt := 0x0, byIdx := [] },
  { base := 0x20000018, dims := [], words := 1, rw := 0x0, w1c := 0x0, w1s := 0x0, rwl := 0x0,
    eng := 0x0, prt := 0x0, mod := 0xFFFFFFFF, pwr := 0x0, dflt := 0x0, byIdx := [] },
  { base := 0x2000001C, dims := [], words := 1, rw := 0x0, w1c := 0x0, w1s := 0x0, rwl := 0x0,
    eng := 0x0, prt := 0x0, mod := 0xFFFFFFFF, pwr := 0x0, dflt := 0x0, byIdx := [] },
  { base := 0x20000020, dims := [], words := 1, rw := 0xFFFFF, w1c := 0x0, w1s := 0x0, rwl := 0x0,
    eng := 0x0, prt := 0x0, mod := 0x0, pwr := 0xFFFFFFFF, dflt := 0x0, byIdx := [] },
  { base := 0x20000024, dims := [], words := 1, rw := 0x0, w1c := 0x0, w1s := 0x0, rwl := 0x0,
    eng := 0x0, prt := 0x0, mod := 0x0, pwr := 0xFFFFFFFF, dflt := 0x0, byIdx := [] },
  { base := 0x20000028, dims := [], words := 1, rw := 0x0, w1c := 0x7, w1s := 0x0, rwl := 0x0,
    eng := 0x0, prt := 0x0, mod := 0xFFFFFFFF, pwr := 0x0, dflt := 0x0, byIdx := [] },
  { base := 0x20000030, dims := [], words := 1, rw := 0x3F, w1c := 0x0, w1s := 0x80000000, rwl := 0x0,
    eng := 0x0, prt := 0x0, mod := 0xFFFFFFFF, pwr := 0x0, dflt := 0x0, byIdx := [] },
  { base := 0x20000034, dims := [], words := 1, rw := 0x0, w1c := 0x20000, w1s := 0x0, rwl := 0x0,
    eng := 0x0, prt := 0x0, mod := 0xFFFFFFFF, pwr := 0x0, dflt := 0x0, byIdx := [] },
  { base := 0x20000040, dims := [(4, 8)], words := 1, rw := 0xFFFFFFFF, w1c := 0x0, w1s := 0x0, rwl := 0x0,
    eng := 0x0, prt := 0x0, mod := 0xFFFFFFFF, pwr := 0x0, dflt := 0x0, byIdx := [] },
  { base := 0x20000080, dims := [], words := 1, rw := 0xFFFFFF, w1c := 0x0, w1s := 0x0, rwl := 0x0,
    eng := 0x0, prt := 0x0, mod := 0xFFFFFFFF, pwr := 0x0, dflt := 0x0, byIdx := [] },
  { base := 0x200000C0, dims := [], words := 16, rw := 0xFFFFFFFF, w1c := 0x0, w1s := 0x0, rwl := 0x0,
    eng := 0x0, prt := 0x0, mod := 0xFFFFFFFF, pwr := 0x0, dflt := 0x0, byIdx := [] },
  { base := 0x20000400, dims := [(128, 16)], words := 1, rw := 0x0, w1c := 0x0, w1s := 0x0, rwl := 0x0,
    eng := 0x0, prt := 0x0, mod := 0xFFFFFFFF, pwr := 0x0, dflt := 0x0, byIdx := [] }
  ] -- KPR_SB_ID to KPR_SB_MBX_n

/-- Rows that may hold an offset of a partition window. -/
def partRows (off : Nat) : List RegRow :=
  if off < 0x40000 then rowsCAM else
  if off < 0x80000 then rowsTMB else
  if off < 0xC0000 then rowsMXE else
  if off < 0x100000 then rowsVXE else
  if off < 0x140000 then rowsUPD else
  if off < 0x180000 then rowsMEM else
  if off < 0x1C0000 then rowsTSR else
  rowsLDBG

/-- Rows that may hold a hub, BAR4 or sideband address. -/
def hubRows (a : Nat) : List RegRow :=
  if a < 0x100000 then rowsHIF else
  if a < 0x200000 then rowsKPR else
  if a < 0x300000 then rowsEVR else
  if a < 0x400000 then rowsPWR else
  if a < 0x800000 then rowsFAB else
  if a < 0x1000000 then rowsFLW else
  if a < 0x1100000 then rowsCOL else
  if a < 0x1200000 then rowsBCT else
  if a < 0x1400000 then rowsHSP else
  if a < 0x2000000 then rowsGDBG else
  if a < 0x20000000 then rowsBAR4 else
  rowsSB


/-- The flat index and word of an address offset within a row, where the row holds it. -/
def rowIndexGo (words : Nat) : List (Nat × Nat) → Nat → Nat → Option Nat
  | [], rem, acc => if rem < 4 * words && rem % 4 == 0 then some acc else none
  | (st, ct) :: ds, rem, acc =>
    if rem / st < ct then rowIndexGo words ds (rem % st) (acc * ct + rem / st) else none

/-- Index of an offset in a row. -/
def rowIndex (r : RegRow) (off : Nat) : Option Nat :=
  if off < r.base then none else rowIndexGo r.words r.dims (off - r.base) 0

/-- First row of a list that holds the offset. -/
def findRow : List RegRow → Nat → Option (RegRow × Nat)
  | [], _ => none
  | r :: t, off =>
    match rowIndex r off with
    | some i => some (r, i)
    | none => findRow t off

/-- Whether an address lies in a partition window, and its offset there. -/
def partWindow (a : Nat) : Option (Nat × Nat) :=
  if 0x2000000 ≤ a && a < 0x4000000 then some ((a - 0x2000000) / 0x400000, (a - 0x2000000) % 0x400000) else none

/-- The register row of an address; for a partition register the index is the partition number when the row
has per-index defaults and no index of its own. -/
def regRow (a : Nat) : Option (RegRow × Nat) :=
  match partWindow a with
  | some (p, off) =>
    match findRow (partRows off) off with
    | some (r, i) => some (r, if r.dims.isEmpty then p else i)
    | none => none
  | none => findRow (hubRows a) a

/-- Default of a register word: the Default column, zero for a bit with none. -/
def regDefault (a : Nat) : Word :=
  match regRow a with
  | some (r, i) => BitVec.ofNat 32 (r.byIdx.getD i r.dflt)
  | none => 0

end Sys2Proof.Machine
end

