-- ==== Sys2Proof/Machine/Ops.lean ====
section
/-! DEFINITION. Shared operations: sparse stores, registers and fields, counters, detections and events, the
address map of chapter 07, datums with their poison, and the trace and slip records. -/
namespace Sys2Proof.Machine

/-! ## Sparse stores -/

/-- Value of a key: the first listed value, else the default `d`. -/
def storeGet {α : Type} (d : α) : Store α → Nat → α
  | [], _ => d
  | (k', v) :: t, k => if k' = k then v else storeGet d t k

/-- Insertion of a key that is not listed, before the first larger key. -/
def storeInsert {α : Type} (k : Nat) (v : α) : Store α → Store α
  | [] => [(k, v)]
  | (k', v') :: t => if k < k' then (k, v) :: (k', v') :: t else (k', v') :: storeInsert k v t

/-- A store without a key. -/
def storeErase {α : Type} (k : Nat) (l : Store α) : Store α := l.filter (fun c => c.1 != k)

/-- Write of one key; the default of the key is not listed. -/
def storeSet {α : Type} [DecidableEq α] (d : α) (l : Store α) (k : Nat) (v : α) : Store α :=
  if v = d then storeErase k l else storeInsert k v (storeErase k l)

/-- Write of the keys `b` to `b + n - 1`, key `b + i` to `f i`. -/
def storeSetRange {α : Type} [DecidableEq α] (d : α) (l : Store α) (b n : Nat) (f : Nat → α) : Store α :=
  l.filter (fun c => decide (c.1 < b)) ++
    (List.range n).filterMap (fun i => if f i = d then none else some (b + i, f i)) ++
    l.filter (fun c => decide (b + n ≤ c.1))

/-- The keys `b` to `b + n - 1` back to their default. -/
def storeClear {α : Type} (l : Store α) (b n : Nat) : Store α :=
  l.filter (fun c => decide (c.1 < b) || decide (b + n ≤ c.1))

/-- Copy of the `n` keys at `src` to `dst`, the default being one for both ranges. -/
def storeCopy {α : Type} (l : Store α) (src dst n : Nat) : Store α :=
  l.filter (fun c => decide (c.1 < dst)) ++
    (l.filter (fun c => decide (src ≤ c.1) && decide (c.1 < src + n))).map (fun c => (c.1 - src + dst, c.2)) ++
    l.filter (fun c => decide (dst + n ≤ c.1))

/-- Values of `n` keys from `k` on, over a store whose first listed key is not below `k`. -/
def fillRange {α : Type} (d : α) : Nat → Nat → Store α → List α
  | 0, _, _ => []
  | n + 1, k, [] => d :: fillRange d n (k + 1) []
  | n + 1, k, (k', v) :: t => if k' = k then v :: fillRange d n (k + 1) t else d :: fillRange d n (k + 1) ((k', v) :: t)

/-- Values of the keys `b` to `b + n - 1`, the default being `d`. -/
def storeList {α : Type} (d : α) (l : Store α) (b n : Nat) : List α :=
  fillRange d n b (l.filter (fun c => decide (b ≤ c.1) && decide (c.1 < b + n)))

/-- Write of a list of values from key `b` on. -/
def storeSetList {α : Type} [DecidableEq α] (d : α) (l : Store α) (b : Nat) (vs : List α) : Store α :=
  l.filter (fun c => decide (c.1 < b)) ++
    vs.zipIdx.filterMap (fun v => if v.1 = d then none else some (b + v.2, v.1)) ++
    l.filter (fun c => decide (b + vs.length ≤ c.1))

/-- Keys strictly rising. -/
abbrev storeRising {α : Type} (l : Store α) : Prop := l.Pairwise (fun a b => a.1 < b.1)

/-- Canonical form: keys strictly rising, no value equal to the default. -/
abbrev storeWf {α : Type} [DecidableEq α] (d : α) (l : Store α) : Prop := storeRising l ∧ ∀ c ∈ l, c.2 ≠ d

/-- Canonical form of the stacks and tile stores: a byte that is not listed reads as zero (log entry 1). -/
abbrev Memory.wf (m : List Host.Cell) : Prop := storeWf (0 : Byte) m

/-! ## Registers -/

/-- Address of the bank in force of a register whose writes go to a shadow (R50): the register's own address
holds the last value written. -/
def act (a : Nat) : Nat := a + 0x80000000

/-- Default of a register word, in either bank. -/
def wordDefault (a : Nat) : Word := regDefault (a % 0x80000000)

/-- The word of a register. -/
def State.reg (s : State) (a : Nat) : Word := storeGet (wordDefault a) s.regs a

/-- Write of a register word. -/
def State.setReg (s : State) (a : Nat) (w : Word) : State :=
  { s with regs := storeSet (wordDefault a) s.regs a w }

/-- Value of a field. -/
def State.fld (s : State) (f : Fld) : Nat := (s.reg f.addr).toNat / 2 ^ f.lo % 2 ^ f.w

/-- A word with one field replaced. -/
def insertField (o lo w v : Nat) : Nat :=
  o / 2 ^ (lo + w) * 2 ^ (lo + w) + v % 2 ^ w * 2 ^ lo + o % 2 ^ lo

/-- Write of a field, the word's other bits kept. -/
def State.setFld (s : State) (f : Fld) (v : Nat) : State :=
  s.setReg f.addr (BitVec.ofNat 32 (insertField (s.reg f.addr).toNat f.lo f.w v))

/-- A one-bit field. -/
def State.flag (s : State) (f : Fld) : Bool := s.fld f == 1

/-- A field of the bank in force. -/
def actFld (f : Fld) : Fld := ⟨act f.addr, f.lo, f.w⟩

/-- A 64-bit value over two words, low first. -/
def State.reg64 (s : State) (a : Nat) : Nat := (s.reg a).toNat + 2 ^ 32 * (s.reg (a + 4)).toNat

/-- Write of a 64-bit value over two words. -/
def State.setReg64 (s : State) (a v : Nat) : State :=
  (s.setReg a (BitVec.ofNat 32 v)).setReg (a + 4) (BitVec.ofNat 32 (v / 2 ^ 32))

/-- Up to 64 bits at bit `lo` of a multi-word register at `a`. -/
def State.bitsAt (s : State) (a lo w : Nat) : Nat :=
  let b := a + 4 * (lo / 32)
  bits ((s.reg b).toNat + 2 ^ 32 * (s.reg (b + 4)).toNat + 2 ^ 64 * (s.reg (b + 8)).toNat) (lo % 32) w

/-- Write of up to 32 bits that lie within one word of a multi-word register. -/
def State.setBits32 (s : State) (a lo w v : Nat) : State := s.setFld ⟨a + 4 * (lo / 32), lo % 32, w⟩ v

/-- Registers `b` to `b + 4 (n - 1)` back to their default. -/
def State.clearRegs (s : State) (b n : Nat) : State := { s with regs := storeClear s.regs b (4 * n) }

/-- Fold of a state update over `0 … n - 1`. -/
def forRange (n : Nat) (f : Nat → State → State) (s : State) : State :=
  (List.range n).foldl (fun t i => f i t) s

/-! ## Counters (R528 to R535) -/

/-- Key of partition counter `n` of partition `p`. -/
def cntKey (p n : Nat) : Nat := p * 1024 + n
/-- Key of global counter `n`. -/
def gcntKey (n : Nat) : Nat := 0x10000 + n

/-- Whether a partition counter is a time counter (Table 19.1). -/
def cntIsTime (n : Nat) : Bool := n < 0x40 || (0x80 ≤ n && n < 0xC0) || n == 0x238
/-- Whether a global counter is a time counter (Table 19.2). -/
def gcntIsTime (n : Nat) : Bool := n == 0x173 || n == 0x174 || (0x1B0 ≤ n && n < 0x200) || n == 0x288

/-- Largest value of an event counter. -/
def cntMax : Nat := 2 ^ 48 - 1

/-- New value of a counter that takes `n` more (R528, R530). -/
def cntAdd (time : Bool) (v n : Nat) : Nat := if time then (v + n) % 2 ^ 48 else min (v + n) cntMax

/-! ## Unit identifiers (R40, R41) -/

/-- Identifier of a unit of a partition. -/
def unitId (p idx : Nat) : Nat := (if p < 4 then 0x1000 else 0x2000) + p * 0x100 + idx

/-- Identifier of a unit of stack `n`. -/
def stackUnit (n idx : Nat) : Nat := (4 + n) * 0x1000 + n * 0x100 + idx

/-- Die field of a unit identifier. -/
def unitDie (u : Nat) : Nat := u / 0x1000
/-- Partition field of a unit identifier. -/
def unitPart (u : Nat) : Nat := u / 0x100 % 16
/-- Index field of a unit identifier. -/
def unitIdx (u : Nat) : Nat := u % 0x100

/-- Power domain of a unit (Table 2.4, Table 18.5); 0x3F for the always-on domain. -/
def unitDomain (u : Nat) : Nat :=
  let d := unitDie u; let p := unitPart u; let i := unitIdx u
  if d == 1 || d == 2 then
    if p == 15 then 0x3F
    else if i < 6 || i == 0x71 then 4 * p
    else if i == 8 || i == 9 || i == 0xC || i == 0x10 || i == 0x11 || i == 0x12 || i == 0x74 then 4 * p + 1
    else if i == 0x60 || i == 0x61 then 4 * p + 3
    else 4 * p + 2
  else if 4 ≤ d && d < 12 then 4 * p + 3
  else if d == 0 then
    if p == 1 then (if i < 0x60 then 32 + i / 16 else 32 + (i - 0x60))
    else if p == 3 || p == 4 then 38
    else if p == 5 then 39
    else 0x3F
  else 0x3F

/-- Sensor of a power domain (Table 18.4). -/
def domainSensor (d : Nat) : Nat := if d < 40 then d else 40

/-- Rail that feeds a unit's domain (Table 18.3). -/
def domainRail (d : Nat) : Nat :=
  if d < 32 then
    (match d % 4 with
     | 0 => 1 + d / 4
     | 1 => 9 + d / 4
     | 2 => if d / 4 < 4 then 25 else 26
     | _ => 17 + d / 4)
  else if d < 40 then 27 else 30

/-! ## Events (R441 to R444) -/

/-- Whether a record repeats the last one of the recent tier (R443). -/
def recRepeats (last r : RecRec) : Bool :=
  last.type == r.type && last.repeats < 65535 &&
  ((r.type == 0x10 && last.body % 2 ^ 48 == r.body % 2 ^ 48 && bits last.body 192 48 == bits r.body 192 48) ||
   (r.type == 0x11 && last.body % 2 ^ 32 == r.body % 2 ^ 32 && bits last.body 192 32 == bits r.body 192 32))

/-! ## Checksums -/

/-- Little-endian bytes of a number, `n` of them. -/
def leBytes : Nat → Nat → List Nat
  | 0, _ => []
  | n + 1, v => v % 256 :: leBytes n (v / 256)

/-- A little-endian number from its bytes. -/
def leNat : List Nat → Nat
  | [] => 0
  | b :: t => b % 256 + 256 * leNat t

/-- One bit of the reflected CRC-32C register (polynomial 0x1EDC6F41, R258). -/
def crc32cBit (c : Nat) : Nat := if c % 2 = 1 then (c / 2) ^^^ 0x82F63B78 else c / 2

/-- `n` bits. -/
def crc32cBits : Nat → Nat → Nat
  | 0, c => c
  | n + 1, c => crc32cBits n (crc32cBit c)

/-- CRC-32C of a byte string (R258). -/
def crc32c (l : List Nat) : Nat :=
  (l.foldl (fun c b => crc32cBits 8 (c ^^^ (b % 256))) 0xFFFFFFFF) ^^^ 0xFFFFFFFF

/-! ## Events (R441 to R444) -/

/-- Last record of the recent tier: staged, or already written. -/
def State.lastRec (s : State) : Option RecRec :=
  match s.staged.getLast? with
  | some r => some r
  | none => s.rewrite

/-- A record that has taken one more occurrence (R443): the last-occurrence time is bytes 32 to 39. -/
def recRepeat (r : RecRec) (ftime : Nat) : RecRec :=
  { r with repeats := r.repeats + 1,
           body := r.body % 2 ^ 128 + ftime % 2 ^ 64 * 2 ^ 128 + r.body / 2 ^ 192 * 2 ^ 192 }

/-- Global event counter bump without its own saturation event. -/
def State.gcntRaw (s : State) (n k : Nat) : State :=
  { s with cnt := storeSet 0 s.cnt (gcntKey n) (cntAdd (gcntIsTime n) (storeGet 0 s.cnt (gcntKey n)) k) }

/-- A new record with the next RSEQ (R435). -/
def State.formRec (s : State) (type body : Nat) : State × RecRec :=
  let q := s.fld EVR_RSEQ_RSEQ
  (s.setFld EVR_RSEQ_RSEQ (q + 1),
   ⟨type, 0, s.fld EVR_OPMIN_OPMIN, s.fld EVR_PCYC_PCYC, q, body⟩)

/-- Staging of a record that opens a new record (R444). -/
def State.pushRec (s : State) (type body : Nat) : State :=
  let (s, r) := s.formRec type body
  let s := { s with staged := s.staged ++ [r] }
  (s.gcntRaw 0x250 1).setFld EVR_STATUS_STAGED s.staged.length

/-- A GAP record before the first record staged after a drop (R444, Table 15.5). -/
def State.pushGap (s : State) : State :=
  if s.recDrops.1 = 0 then s else
  let s' := s.pushRec 0x12 (s.recDrops.1 % 2 ^ 32 + s.recDrops.2.1 * 2 ^ 32 + s.recDrops.2.2 * 2 ^ 64)
  { s' with recDrops := (0, 0, 0) }

/-- Staging of an EVENT or ERROR record: coalesced into the last one, dropped when the buffer is full, or
formed (R441 to R444). -/
def State.stageRec (s : State) (type body : Nat) : State :=
  let r : RecRec := ⟨type, 0, 0, 0, 0, body⟩
  match s.lastRec with
  | some l =>
    if recRepeats l r then
      let l' := recRepeat l s.ftime
      let s := s.gcntRaw 0x252 1
      if s.staged.isEmpty then { s with rewrite := some l' } else { s with staged := s.staged.dropLast ++ [l'] }
    else if s.staged.length ≥ 255 then
      let om := s.fld EVR_OPMIN_OPMIN
      let d := s.recDrops
      let s := (s.gcntRaw 0x251 1).setFld EVR_STATUS_DROP_SEEN 1
      { s with recDrops := (d.1 + 1, if d.1 = 0 then om else d.2.1, om) }
    else s.pushGap.pushRec type body
  | none => s.pushGap.pushRec type body

/-- An event reported by a register field (R441): offset, place, new value, source unit and job slot (8 = none). -/
def State.event (s : State) (f : Fld) (unit job : Nat) : State :=
  s.stageRec 0x10 (f.addr % 2 ^ 32 + f.lo * 2 ^ 32 + f.w * 2 ^ 40 + s.ftime % 2 ^ 64 * 2 ^ 64 +
    s.ftime % 2 ^ 64 * 2 ^ 128 + s.fld f * 2 ^ 192 + unit % 2 ^ 16 * 2 ^ 224 +
    (if job < 8 then (0x80 + job) * 2 ^ 240 else 0))

/-- An event that no field reports (R441). -/
def State.eventUnit (s : State) (unit job : Nat) : State :=
  s.stageRec 0x10 (0xFFFFFFFF + s.ftime % 2 ^ 64 * 2 ^ 64 + s.ftime % 2 ^ 64 * 2 ^ 128 +
    unit % 2 ^ 16 * 2 ^ 224 + (if job < 8 then (0x80 + job) * 2 ^ 240 else 0))

/-- `k` more on global counter `n`; the first saturation stages one EVENT record and sets SAT_SEEN (R530). -/
def State.gcount (s : State) (n k : Nat) : State :=
  let old := storeGet 0 s.cnt (gcntKey n)
  let s := s.gcntRaw n k
  if !gcntIsTime n && decide (old < cntMax) && decide (storeGet 0 s.cnt (gcntKey n) = cntMax) then
    (s.setFld DBG_GSTATUS_SAT_SEEN 1).event ⟨DBG_GCNT_LO n, 0, 32⟩ 0 8
  else s

/-- `k` more on counter `n` of partition `p` (R528 to R531). -/
def State.count (s : State) (p n k : Nat) : State :=
  let old := storeGet 0 s.cnt (cntKey p n)
  let v := cntAdd (cntIsTime n) old k
  let s := { s with cnt := storeSet 0 s.cnt (cntKey p n) v }
  if !cntIsTime n && decide (old < cntMax) && decide (v = cntMax) then
    (s.setFld (DBG_STATUS_SAT_SEEN p) 1).event ⟨DBG_CNT_LO p n, 0, 32⟩ (unitId p 0x10) 8
  else s

/-! ## Detections (R380, Table 13.1) -/

/-- Job slot that owns a partition; 8 when none does. -/
def State.jobOf (s : State) (p : Nat) : Nat :=
  match storeGet 0 s.owner p with
  | 0 => 8
  | j + 1 => j

/-- The module's detection of an error: the record's content is fixed now, and the Keeper writes it within 100 µs
(`Sys2Proof.Machine.execErrorRecordWrite`). `ctx` 0x3F and `desc` 0xFFFFFF stand for none. -/
def State.detect (s : State) (unit cls flags desc ctx layer operator job syndrome : Nat) : State :=
  let s := if cls = 5 && decide (job < 8) then { s with rangeSeen := storeSet false s.rangeSeen job true } else s
  if s.boot ≠ .running && decide (64 ≤ s.detections.length) then { s with kprLost := s.kprLost + 1 } else
  let d := unitDomain unit
  { s with detections := s.detections ++
      [{ unit := unit, cls := cls, flags := flags + (if job < 8 then 16 else 0), ftime := s.ftime,
         desc := desc, ctx := ctx, layer := layer, operator := operator,
         job := if job < 8 then job else 0,
         sensor := domainSensor d, temp := s.fld (PWR_TEMP_TEMP (domainSensor d)),
         railMv := s.fld (PWR_RAIL_MEAS_MV (domainRail d)), rail := domainRail d,
         jobId := if job < 8 then s.fld (FAB_JOB_ID_JOB_ID job) else 0,
         gen := if job < 8 then s.fld (FAB_JOB_GEN_GEN job) else 0,
         syndrome := syndrome, act := min 3 (storeGet 0 s.activity d / 25) }] }

/-- A detection that the Keeper counts and that writes no record: row `row` of Table 13.7 (R205, R401). -/
def State.detectOnly (s : State) (unit row : Nat) : State := s.detect unit 0 0 0xFFFFFF 0x3F 0 0 8 row

/-- FLAGS of Table 13.1. -/
def flFatal : Nat := 1
def flKilled : Nat := 2
def flPoison : Nat := 4
def flCorrected : Nat := 8

/-! ## Trace (R536 to R542) -/

def trcInit : TrcState := ⟨false, 0, false, false, 0, 0, 0, 0⟩

/-- Records of a partition's trace buffer (R539). -/
def trcSlots : Nat := 131072

/-- Region of a kind in a partition's stack: base and length in units (Table 7.4). -/
def State.regionOf (s : State) (p kind : Nat) : Option (Nat × Nat) :=
  ((List.range 16).find? (fun k => s.fld (MEM_REGION_KIND_KIND p k) == kind)).map
    (fun k => (s.fld (MEM_REGION_BASE_BASE p k), s.fld (MEM_REGION_LEN_LEN p k)))

/-- MODE of the trace unit; spill mode without a spill region reads as ring (R539). -/
def State.trcMode (s : State) (p : Nat) : Nat :=
  if s.fld (TRC_CFG_MODE p) = 3 && (s.regionOf p 8).isNone then 1 else s.fld (TRC_CFG_MODE p)

/-- Records the store of the mode holds. -/
def State.trcCap (s : State) (p : Nat) : Nat :=
  if s.trcMode p = 3 then (match s.regionOf p 8 with | some (_, l) => 4 * l | none => 0) else trcSlots

/-- Datum number of unit `u` of stack `n`. -/
def hbmDatum (n u : Nat) : Nat := n * 0x30000000 + u
/-- Datum number of tile store unit `u` of partition `p`. -/
def tsDatum (p u : Nat) : Nat := 0x4000000000 + p * 0xC0000 + u

/-- Bytes written at a byte address, little-endian. -/
def State.wrBytes (s : State) (a n v : Nat) : State :=
  { s with mem := storeSetRange 0 s.mem a n (fun i => BitVec.ofNat 8 (v / 256 ^ i)) }

/-- One record into the store of the mode, without any check. Answers the record's slot. -/
def State.trcPut (s : State) (p r : Nat) : State × Nat :=
  if s.trcMode p = 3 then
    let (b, l) := (s.regionOf p 8).getD (0, 1)
    let i := s.fld (TRC_SPILL_WPTR_WPTR p)
    let s := s.wrBytes (64 * hbmDatum p b + 16 * i) 16 r
    if i + 1 < 4 * l then (s.setFld (TRC_SPILL_WPTR_WPTR p) (i + 1), i)
    else if s.flag (TRC_CFG_SPILL_STOP p) then ((s.setFld (TRC_STATUS_STATE p) 3), i)
    else ((s.setFld (TRC_SPILL_WPTR_WPTR p) 0).setFld (TRC_SPILL_WPTR_WRAPPED p) 1, i)
  else
    let i := s.fld (TRC_WPTR_WPTR p)
    let s := { s with trcBuf := storeSet 0 s.trcBuf (p * trcSlots + i) r }
    let s := s.setFld (TRC_WPTR_WPTR p) ((i + 1) % trcSlots)
    if s.trcMode p = 2 && decide (i + 3 ≥ trcSlots) then (s.setFld (TRC_STATUS_STATE p) 3, i) else (s, i)

def State.trcGet (s : State) (p : Nat) : TrcState := (storeGet none s.trc p).getD trcInit
def State.setTrc (s : State) (p : Nat) (t : TrcState) : State := { s with trc := storeSet none s.trc p (some t) }

/-- TYPE and STAMP of a record (R537). -/
def trcHead (type ftime : Nat) : Nat := type + ftime % 2 ^ 40 * 2 ^ 8

/-- A TIME record (Table 19.6). -/
def State.trcTime (s : State) (p : Nat) : State :=
  let hi := s.ftime / 2 ^ 40 % 2 ^ 24
  let s := (s.trcPut p (trcHead 5 s.ftime + hi * 2 ^ 48)).1
  s.setTrc p { s.trcGet p with timed := true, hi := hi }

/-- GAP and TIME records for the drops, before the next record stored (R540). -/
def State.trcGap (s : State) (p : Nat) : State :=
  let t := s.trcGet p
  if t.dropCount = 0 then s else
  let g := trcHead 6 t.dropFirst + (if t.dropCompute then 16 else 0) + (if t.dropSync then 32 else 0) +
    min t.dropCount 0xFFFFFFFF * 2 ^ 48 + t.dropLast % 2 ^ 40 * 2 ^ 80
  let s := (s.trcPut p g).1.setFld (TRC_STATUS_DROP_SEEN p) 1
  let s := s.setTrc p { t with dropCompute := false, dropSync := false, dropCount := 0 }
  s.trcTime p

/-- A record that could not be stored (R540). -/
def State.trcDrop (s : State) (p : Nat) (sync : Bool) : State :=
  let t := s.trcGet p
  (s.setTrc p { t with dropCompute := t.dropCompute || !sync, dropSync := t.dropSync || sync,
                       dropCount := t.dropCount + 1,
                       dropFirst := if t.dropCount = 0 then s.ftime else t.dropFirst,
                       dropLast := s.ftime }).count p 0x229 1

/-- After one more record in TRIGGERED: FROZEN once POST records have been stored (R541). -/
def State.trcPost (s : State) (p : Nat) : State :=
  if s.fld (TRC_STATUS_STATE p) ≠ 1 then s else
  let t := s.trcGet p
  let s := s.setTrc p { t with postLeft := t.postLeft - 1 }
  if t.postLeft ≤ 1 then s.setFld (TRC_STATUS_STATE p) 2 else s

/-- A record of the compute (`sync = false`) or synchronisation class (R536, R539, R540). -/
def State.trace (s : State) (p : Nat) (sync : Bool) (r : Nat) : State :=
  if !s.flag (TRC_CFG_EN p) || s.trcMode p = 0 ||
      !bitAt (s.fld (TRC_CFG_CLASSES p)) (if sync then 1 else 0) then s
  else if s.fld (TRC_STATUS_STATE p) ≥ 2 then s.trcDrop p sync
  else
    let s := s.trcGap p
    let t := s.trcGet p
    let s := if t.timed && t.hi = s.ftime / 2 ^ 40 % 2 ^ 24 then s else s.trcTime p
    ((s.trcPut p r).1.count p 0x228 1).trcPost p

/-- A trigger on one partition (R541, Table 19.7). -/
def State.trigger1 (s : State) (p src detail oper : Nat) : State :=
  if !s.flag (TRC_CFG_EN p) || s.trcMode p = 0 then s
  else if s.fld (TRC_STATUS_STATE p) ≠ 0 then (s.setFld (TRC_STATUS_TRIG_IGNORED p) 1).count p 0x22A 1
  else
    let s := s.trcGap p
    let (s, slot) := s.trcPut p (trcHead 7 s.ftime + src * 16 + min detail 0xFFFF * 2 ^ 48 + oper * 2 ^ 64)
    let s := (s.setFld (TRC_TRIG_POS_SLOT p) slot).setFld (TRC_TRIG_POS_VALID p) 1
    let pre := s.fld (TRC_PRE_PRE p)
    let post := min (s.fld (TRC_POST_POST p)) (s.trcCap p - 4 - pre)
    let s := s.setTrc p { s.trcGet p with postLeft := post }
    s.setFld (TRC_STATUS_STATE p) (if post = 0 then 2 else 1)

/-- A trigger with its fan-out under TRC_FANOUT. -/
def State.trigger (s : State) (p src detail oper : Nat) : State :=
  let s := s.trigger1 p src detail oper
  let m := s.fld TRC_FANOUT_MASK
  if bitAt m p then
    forRange 8 (fun q t => if q ≠ p && bitAt m q && t.flag (TRC_TRIG_CFG_FAN_IN q) then t.trigger1 q 5 detail oper else t) s
  else s

/-- BEGIN or END record of a command on an engine (Table 19.4), with the match trigger. -/
def State.traceCmd (s : State) (p : Nat) (isEnd : Bool) (engine ctx idx layer oper step : Nat) (killed poison : Bool) : State :=
  let s := s.trace p false (trcHead (if isEnd then 2 else 1) s.ftime + engine * 16 + ctx * 2 ^ 48 +
    (if killed then 2 ^ 54 else 0) + (if poison then 2 ^ 55 else 0) + idx * 2 ^ 56 + layer * 2 ^ 80 +
    oper * 2 ^ 96 + step % 2 ^ 16 * 2 ^ 112)
  let mask := s.fld (TRC_TRIG_MASK_MASK p)
  if !isEnd && s.flag (TRC_TRIG_CFG_MATCH_EN p) &&
      ((layer + oper * 2 ^ 16) &&& mask) == ((s.reg (TRC_TRIG_MATCH p)).toNat &&& mask) then
    s.trigger p 4 layer oper
  else s

/-! ## Memory (chapter 07) -/

/-- Whether a partition is present: PART_MASK (R2). -/
def State.present (s : State) (p : Nat) : Bool := decide (p < 8) && bitAt (s.fld HIF_PART_ID_PART_MASK) p

/-- State of a power domain: 0 A0, 1 A1, 2 A2, 3 off. -/
def State.domState (s : State) (d : Nat) : Nat := s.fld (PWR_DOM_STATE d)

/-- A power domain enters a state. The PLL of a partition runs unless all four of its domains are in A2 or off (R512). -/
def State.setDom (s : State) (d v : Nat) : State :=
  let s := s.setFld (PWR_DOM_STATE d) v
  if d < 32 then
    s.setFld ⟨CLK_STATUS, 8 + d / 4, 1⟩ (if (List.range 4).all (fun k => decide (2 ≤ s.domState (4 * (d / 4) + k))) then 0 else 1)
  else s

/-- SPARE_GIB in force (R209). -/
def State.spareGib (s : State) (p : Nat) : Nat := min (s.fld (MEM_SPARE_SPARE_GIB p)) 4
/-- Units of a stack below the spare area. -/
def State.stackUnits (s : State) (p : Nat) : Nat := (48 - s.spareGib p) * 2 ^ 24
/-- HANDOFF_MIB in force. -/
def State.handoffMib (s : State) (p : Nat) : Nat := max 1 (min (s.fld (TSR_CFG_HANDOFF_MIB p)) 46)
/-- TS_SPARE_MIB in force. -/
def State.tsSpareMib (s : State) (p : Nat) : Nat := min (s.fld (TSR_CFG_TS_SPARE_MIB p)) 2
/-- Units of the tile store's working area (R199). -/
def State.workUnits (s : State) (p : Nat) : Nat := (48 - s.handoffMib p - s.tsSpareMib p) * 2 ^ 14

/-- Region kind of a stack unit; 0 where no region holds it. -/
def State.regionKind (s : State) (p u : Nat) : Nat :=
  match (List.range 16).find? (fun k => s.fld (MEM_REGION_KIND_KIND p k) != 0 &&
      decide (s.fld (MEM_REGION_BASE_BASE p k) ≤ u) &&
      decide (u < s.fld (MEM_REGION_BASE_BASE p k) + s.fld (MEM_REGION_LEN_LEN p k))) with
  | some k => s.fld (MEM_REGION_KIND_KIND p k)
  | none => 0

/-- What a partition address of a command names (R191, R193, R196, R201). -/
inductive Loc where
  | at (d : Nat)
  | fault (remoteOff : Bool)
  deriving DecidableEq, Repr

/-- A local-space unit with the region kinds the access may reach. -/
def State.localLoc (s : State) (p u : Nat) (kinds : List Nat) : Loc :=
  if u < 0x30000000 then
    if u < s.stackUnits p && kinds.contains (s.regionKind p u) then .at (hbmDatum p u) else .fault false
  else if u < 0x30000000 + s.workUnits p then .at (tsDatum p (u - 0x30000000))
  else .fault false

/-- Decode of a partition address for context `ctx` of partition `p` (Table 7.3). -/
def State.locate (s : State) (p ctx a : Nat) : Loc :=
  let off := a % 2 ^ 28
  match a / 2 ^ 30 % 4 with
  | 0 => s.localLoc p (a % 2 ^ 30) (if ctx < 32 then [1, 9] else [1, 2, 3, 4, 9])
  | 1 =>
    if ctx ≥ 32 then .fault false else
    match a / 2 ^ 28 % 4 with
    | 0 => if off < s.fld (CAM_HOST_W9_STATE_LEN p ctx) then
             s.localLoc p (s.fld (CAM_HOST_W8_STATE_BASE p ctx) + off) [2, 3, 4] else .fault false
    | 1 => if off < s.fld (CAM_HOST_W11_RCV_LEN p ctx) then
             s.localLoc p (s.fld (CAM_HOST_W10_RCV_BASE p ctx) + off) [2, 3, 4] else .fault false
    | 2 => if off < s.fld (MEM_RELOC_LEN_TS_LEN p ctx) && decide (s.fld (MEM_RELOC_BASE_TS_BASE p ctx) + off < s.workUnits p) then
             .at (tsDatum p (s.fld (MEM_RELOC_BASE_TS_BASE p ctx) + off)) else .fault false
    | _ => .fault false
  | 2 =>
    let w := a / 2 ^ 28 % 4
    if !s.flag (MEM_RWIN_EN p w) then .fault false else
    let n := s.fld (MEM_RWIN_STACK p w)
    let u := min (s.fld (MEM_RWIN_BASE_GIB p w)) 32 * 2 ^ 24 + off
    if !s.present n || s.domState (4 * n + 3) = 3 then .fault true
    else if u < s.stackUnits n && [2, 4, 9].contains (s.regionKind n u) then .at (hbmDatum n u)
    else .fault false
  | _ => .fault false

/-- One byte of memory. -/
def State.byte (s : State) (a : Nat) : Byte := storeGet 0 s.mem a
/-- Pseudo-channel of a stack unit (R198); the bank of a tile store unit by the same fold over its line. -/
def foldPc (g : Nat) : Nat := (g ^^^ g >>> 6 ^^^ g >>> 12 ^^^ g >>> 18 ^^^ g >>> 24) % 64
/-- Pseudo-channel of an HBM unit. -/
def unitPc (u : Nat) : Nat := foldPc (u / 16)
/-- Bank of a tile store unit. -/
def unitBank (u : Nat) : Nat := foldPc (u / 2)

/-- Partition, unit and whether in HBM, of a physical datum. -/
def datumPlace (d : Nat) : Nat × Nat × Bool :=
  if d < 0x4000000000 then (d / 0x30000000, d % 0x30000000, true)
  else ((d - 0x4000000000) / 0xC0000, (d - 0x4000000000) % 0xC0000, false)

/-- Whether a datum lies on a pseudo-channel or bank whose retirement the spare could not hold: every access to it
is answered as uncorrectable twice (R211). -/
def State.onDead (s : State) (d : Nat) : Bool :=
  match s.deadChan with
  | [] => false
  | l =>
    let (p, u, hbm) := datumPlace d
    storeGet false l (if hbm then p * 64 + unitPc u else 0x10000 + p * 64 + unitBank u)

/-- Poison of a datum as it is read: stored poison, a parity mismatch at the input of the command in progress
(R384), or a channel beyond the spare (R211). -/
def State.psn (s : State) (d : Nat) : Bool :=
  storeGet false s.poison d || s.parityBad.contains d || s.onDead d

/-- Little-endian number of `n` bytes at a physical byte address. -/
def State.rdBytes (s : State) (a : Nat) : Nat → Nat
  | 0 => 0
  | n + 1 => (s.byte a).toNat + 256 * s.rdBytes (a + 1) n

/-- Write of a whole datum; its poison becomes that of the data written (R206). -/
def State.wrDatum (s : State) (d v : Nat) (psn : Bool) : State :=
  { s with mem := storeSetRange 0 s.mem (64 * d) 64 (fun i => BitVec.ofNat 8 (v / 256 ^ i)),
           poison := storeSet false s.poison d psn }

/-- Write of `n` bytes at offset `o` of a datum: read, merge, write; old poison stays (R206). -/
def State.wrPart (s : State) (d o n v : Nat) (psn : Bool) : State :=
  { s with mem := storeSetRange 0 s.mem (64 * d + o) n (fun i => BitVec.ofNat 8 (v / 256 ^ i)),
           poison := storeSet false s.poison d (psn || s.psn d) }

/-- One byte as a command reads it at byte offset `o` from unit address `a`: zero at an address fault (R193). -/
def State.cmdByte (s : State) (p ctx a o : Nat) : Nat :=
  match s.locate p ctx ((a + o / 64) % 2 ^ 32) with
  | .at d => (s.byte (64 * d + o % 64)).toNat
  | .fault _ => 0

/-- Little-endian number of `n` bytes as a command reads them. -/
def State.cmdNat (s : State) (p ctx a o : Nat) : Nat → Nat
  | 0 => 0
  | n + 1 => s.cmdByte p ctx a o + 256 * s.cmdNat p ctx a (o + 1) n

/-- Poison of the datum at unit address `a` as a command reads it: set at an address fault (R193). -/
def State.cmdPsn (s : State) (p ctx a : Nat) : Bool :=
  match s.locate p ctx (a % 2 ^ 32) with
  | .at d => s.psn d
  | .fault _ => true

/-- Write of `n` bytes of a stream: byte `i` is `f i`, datum `q` is poisoned by `g q`. A faulting datum is
discarded (R193), a partly written one merged (R206). -/
def State.cmdWrite (s : State) (p ctx a n : Nat) (f : Nat → Nat) (g : Nat → Bool) : State :=
  forRange ((n + 63) / 64) (fun q t =>
    match t.locate p ctx ((a + q) % 2 ^ 32) with
    | .at d =>
      let k := min 64 (n - 64 * q)
      let v := leNat ((List.range k).map (fun i => f (64 * q + i)))
      if k = 64 then t.wrDatum d v (g q) else t.wrPart d 0 k v (g q)
    | .fault _ => t) s

end Sys2Proof.Machine
end

