-- ==== Sys2Proof/Machine/Operands.lean ====
section
/-! DEFINITION. Operand forms: command descriptors with the checks that make one malformed, elements in memory
with their block scales, the encodings of stage 5, and vector operation words. -/
namespace Sys2Proof.Machine

/-! ## Descriptors (Table 6.1), as numbers of 512 bits, byte 0 lowest -/

def dClass (d : Nat) : Nat := bits d 0 4
def dVer (d : Nat) : Nat := bits d 4 4
def dOffset (d : Nat) : Nat := bits d 8 36
def dOcvt (d : Nat) : Nat := bits d 44 8
def dTslot (d : Nat) : Nat := bits d 52 12
def dWait (d n : Nat) : Nat := bits d (64 + 32 * n) 32
def dSig (d n : Nat) : Nat := bits d (192 + 32 * n) 32
def dLayer (d : Nat) : Nat := bits d 256 16
def dOper (d : Nat) : Nat := bits d 272 16
def dOut (d : Nat) : Nat := bits d 288 32
/-- A field of the operation area, its bits numbered from bit 0 of byte 40 (R149). -/
def dOp (d lo w : Nat) : Nat := bits d (320 + lo) w

/-- Fields of a WAIT word (Table 6.3). -/
def waitTumbler (w : Nat) : Nat := bits w 0 12
def waitEn (w : Nat) : Bool := bitAt w 12
def waitTarget (w : Nat) : Nat := bits w 13 19
/-- Fields of a SIG word (Table 6.3). -/
def sigTumbler (w : Nat) : Nat := bits w 0 12
def sigEn (w : Nat) : Bool := bitAt w 12
def sigInc (w : Nat) : Nat := bits w 16 16

/-- Conversion control fields (Table 3.7). -/
def ocFmt (o : Nat) : Nat := bits o 0 4
def ocRnd (o : Nat) : Nat := bits o 4 2
def ocSat (o : Nat) : Bool := bitAt o 6
def ocBlk (o : Nat) : Bool := bitAt o 7

/-- Malformed conversion control (R74). -/
def ocvtBad (o : Nat) : Bool :=
  ocRnd o == 3 || (ocBlk o && !(3 ≤ ocFmt o && ocFmt o ≤ 7)) || (!ocBlk o && 5 ≤ ocFmt o && ocFmt o ≤ 7) ||
  ocFmt o == 0xA || ocFmt o ≥ 0xC || (ocFmt o == 0xB && ocRnd o != 1)

/-- Whether a command of a class uses TSLOT (Table 6.2; MOE in combine only). -/
def usesTslot (d : Nat) : Bool :=
  let c := dClass d
  c == 2 || c == 3 || c == 4 || c == 6 || (c == 8 && dOp d 0 1 == 1)

/-! ## Places of a context's program -/

/-- Datum of the partition's own stack or tile store at a local-space unit, outside R201: the places that the
Cam and the hardware's own engines address. -/
def localDatum (p a : Nat) : Nat :=
  let u := a % 2 ^ 30
  if u < 0x30000000 then hbmDatum p u else tsDatum p (u - 0x30000000)

/-- Whether a context is a command ring (R184). -/
def isRing (ctx : Nat) : Bool := decide (32 ≤ ctx)

/-- SIZE of a ring (Table 6.9). -/
def State.ringSize (s : State) (p ctx : Nat) : Nat :=
  let l := s.fld (CAM_RING_SIZE_LOG2_SIZE p (ctx - 32))
  if 4 ≤ l && l ≤ 16 then 2 ^ l else 16

/-- Datum that holds descriptor `i` of a context. -/
def State.descDatum (s : State) (p ctx i : Nat) : Nat :=
  if isRing ctx then localDatum p (s.fld (CAM_RING_BASE_BASE p (ctx - 32)) + i % s.ringSize p ctx)
  else localDatum p (s.fld (CAM_HOST_W1_PROG_BASE p ctx) + i)

/-- Descriptor `i` of a context. -/
def State.descAt (s : State) (p ctx i : Nat) : Nat := s.rdBytes (64 * s.descDatum p ctx i) 64

/-- Length of a context's tensor table; a ring has none. -/
def State.ttabLen (s : State) (p ctx : Nat) : Nat :=
  if isRing ctx then 0 else s.fld (CAM_HOST_W4_TTAB_LEN p ctx)

/-- Datum that holds tensor table entry `t`. -/
def State.ttabDatum (s : State) (p ctx t : Nat) : Nat := localDatum p (s.fld (CAM_HOST_W3_TTAB_BASE p ctx) + t / 2)

/-- Tensor table entry `t` (Table 6.6). -/
def State.ttabAt (s : State) (p ctx t : Nat) : Nat := s.rdBytes (64 * s.ttabDatum p ctx t + 32 * (t % 2)) 32

/-- Tumbler window of a context: base and size in tumblers. -/
def State.tumWin (s : State) (p ctx : Nat) : Nat × Nat :=
  if isRing ctx then (s.fld (CAM_RING_TWIN_TWIN_BASE p (ctx - 32)), 64 * s.fld (CAM_RING_TWIN_TWIN_SIZE p (ctx - 32)))
  else (s.fld (CAM_HOST_W5_TWIN_BASE p ctx), 64 * s.fld (CAM_HOST_W5_TWIN_SIZE p ctx))

/-! ## Weight tile records (Table 4.3, Table 4.4) -/

/-- Rate class of a format as an activation or a weight; 0 where it is neither (Table 4.1). -/
def rateClass (fmt : Nat) : Nat :=
  match fmt with
  | 1 => 1 | 2 => 1 | 3 => 2 | 4 => 2 | 5 => 2 | 6 => 2 | 7 => 4 | 8 => 2 | 9 => 4 | 0 => 3
  | _ => 0

/-- Rate class of an operand pair; 0 when Table 4.2 does not hold it. -/
def pairClass (a w : Nat) : Nat :=
  let f16 (x : Nat) : Bool := x == 1 || x == 2
  let f8 (x : Nat) : Bool := 3 ≤ x && x ≤ 6
  if f16 a && (f16 w || w == 0xA) then 1
  else if f8 a && f8 w then 2
  else if (a == 3 || a == 4) && w == 0xA then 2
  else if a == 7 && (w == 7 || w == 0xA) then 4
  else if a == 8 && (w == 8 || w == 9) then 2
  else if a == 9 && w == 9 then 4
  else if a == 0 && w == 0 then 3
  else 0

/-- Rows of K in a chunk of a rate class (Table 4.1). -/
def kcOf (cls : Nat) : Nat := match cls with | 2 => 256 | 4 => 512 | _ => 128

/-- Whether a format's block-scaled bit is one R68 allows. -/
def blkOk (fmt : Nat) (blk : Bool) : Bool :=
  if fmt == 3 || fmt == 4 then true else if 5 ≤ fmt && fmt ≤ 7 then blk else !blk

/-- Bytes of the UE8M0 scales of a record. -/
def recScaleBytes (fmt : Nat) (blk : Bool) (kc : Nat) : Nat := if blk && fmt != 0xA then 128 * kc / 32 else 0

/-- Bytes of the tile data of a record. -/
def recDataBytes (fmt kc : Nat) : Nat := if fmt == 0xA then kc / 128 * 12288 else 16 * kc * elemBits fmt

/-- Size of a record in bytes (Table 4.4). -/
def recSize (fmt : Nat) (blk : Bool) (kc : Nat) : Nat := 128 + 8 * kc + recScaleBytes fmt blk kc + recDataBytes fmt kc

/-- Chunk length of the records a command names: INT4 weights under INT8 activations take the pair's class. -/
def recKc (a w : Nat) : Nat := kcOf (pairClass a w)

/-! ## Malformed descriptors (R159, and the class chapters) -/

/-- Whether any of some reserved fields of the operation area is nonzero. -/
def areaReserved (d : Nat) (fs : List (Nat × Nat)) : Bool := fs.any (fun f => dOp d f.1 f.2 != 0)

/-- Whether a reserved bit or field is nonzero: reason 0x02. -/
def reservedSet (d : Nat) : Bool :=
  bits (dSig d 0) 13 3 != 0 || bits (dSig d 1) 13 3 != 0 ||
  (match dClass d with
   | 0 => areaReserved d [(0, 192)]
   | 1 => areaReserved d [(13, 1), (22, 10), (56, 8)]
   | 2 => areaReserved d [(5, 3), (13, 3), (28, 4), (167, 1), (175, 1), (183, 1), (191, 1)]
   | 3 => areaReserved d [(9, 7)]
   | 4 => areaReserved d [(79, 17), (160, 32)]
   | 5 => areaReserved d [(40, 8), (62, 2), (160, 32)]
   | 6 => areaReserved d [(7, 1), (22, 10), (56, 8), (78, 18)]
   | 7 => areaReserved d [(0, 192)]
   | 8 => areaReserved d [(4, 4), (88, 8), (112, 16)]
   | _ => false)

/-- A wait or signal that breaks Table 6.3 or leaves its window: reason 0x03. -/
def waitSigBad (ring : Bool) (win d : Nat) : Bool :=
  (List.range 4).any (fun n => let w := dWait d n
    if waitEn w then decide (waitTumbler w ≥ win) else w != 0) ||
  (List.range 2).any (fun n => let g := dSig d n
    sigEn g && (decide (sigTumbler g ≥ win) || (!ring && sigTumbler g == 0) || sigInc g == 0))

/-- A signed window exponent inside R84. -/
def windowOk (w : Nat) : Bool := decide (-160 ≤ signedOf w 10) && decide (signedOf w 10 ≤ 64)

/-- One vector operation word that breaks "Operation encoding" or Table 5.4 (R129 to R134, R138, R142). -/
def vopBad (w : Nat) : Bool :=
  let opc := bits w 0 6; let prec := bitAt w 6; let all := bitAt w 7; let dv := bitAt w 8; let av := bitAt w 9
  let dn := bits w 10 2; let an := bits w 12 2; let bn := bits w 14 2; let bk := bits w 16 2
  let cn := bits w 18 2; let ck := bits w 20 2; let aux := bits w 24 8
  let usesB := opc == 1 || opc == 2 || opc == 3 || opc == 4 || opc == 5 || opc == 6 || opc == 9 || opc == 10
  let usesC := opc == 4 || opc == 9
  let ew := opc ≤ 0xB || (0x10 ≤ opc && opc ≤ 0x19)
  let red := 0x20 ≤ opc && opc ≤ 0x23
  let vred := opc == 0x24 || opc == 0x25
  !(ew || red || vred || (0x30 ≤ opc && opc ≤ 0x32)) || bits w 22 2 != 0 ||
  (prec && !(opc ≤ 9 || (0x10 ≤ opc && opc ≤ 0x19))) ||
  (all && av) || (all && (opc ≥ 0x30 || vred)) ||
  (!usesB && (bk != 0 || bn != 0)) || (!usesC && (ck != 0 || cn != 0)) ||
  (ew && (dv != av)) ||
  (ew && dv && ((usesB && bk == 0) || (usesC && ck == 0))) ||
  (opc == 10 && (bk != 3 || dv)) ||
  (ew && opc != 0xB && aux != 0) ||
  (opc == 0xB && ((let f := ocFmt aux; !(f == 1 || f == 2 || f == 3 || f == 4 || f == 8 || f == 9)) ||
    ocRnd aux ≥ 2 || (ocBlk aux && !(ocFmt aux == 3 || ocFmt aux == 4)))) ||
  (red && (!dv || av || aux ≥ 2)) || (vred && (!dv || !av || aux ≥ 2)) ||
  (opc == 0x30 && (!dv || av || an != 0)) || (opc == 0x31 && (!av || dv || dn != 0)) ||
  (opc == 0x32 && (!av || dv || dn != 0 || aux ≥ 32)) ||
  (all && !dv && dn != 0) || (all && an != 0)

/-- Number of operations of a vector command. -/
def vxNops (d : Nat) : Nat := dOp d 8 5 + 1

/-- Byte offset, from unit 0 of the program's space, of operation `n` (Table 5.2), read as a command reads it. -/
def State.vopAt (s : State) (p ctx d n : Nat) : Nat := s.cmdNat p ctx (dOp d 32 32) (4 * n) 4

/-- The program of a vector command. -/
def State.vxProg (s : State) (p ctx d : Nat) : List Nat := (List.range (vxNops d)).map (s.vopAt p ctx d)

/-- Whether a program holds SPUT. -/
def hasSput (prog : List Nat) : Bool := prog.any (fun w => bits w 0 6 == 0x32)

/-- Whether a descriptor is a matrix command other than a preload. -/
def isMatrix (d : Nat) : Bool := dClass d == 1 && dOp d 6 2 != 2
/-- Whether a descriptor is a stream vector command. -/
def isStream (d : Nat) : Bool := dClass d == 2 && dOp d 2 1 == 1

/-- A matrix command that breaks R109 or R123, apart from reserved fields; `next` is the next descriptor. -/
def mxeBad (d next : Nat) : Bool :=
  let mode := dOp d 6 2
  let pre := mode == 2
  dOp d 0 6 == 0 || mode == 3 || !blkOk (dOp d 16 4) (dOp d 20 1 == 1) || (pre && decide (dOp d 16 4 ≥ 0xD)) ||
  (!pre && (dOp d 32 8 == 0 || dOp d 40 8 == 0 || dOp d 48 8 == 0 || dOp d 14 2 == 3 ||
    pairClass (dOp d 8 4) (dOp d 16 4) == 0 || ((mode == 1) != (pairClass (dOp d 8 4) (dOp d 16 4) == 3)) ||
    !blkOk (dOp d 8 4) (dOp d 12 1 == 1) || !isStream next))

/-- A vector command that breaks R123 or R142; `prev` is the preceding descriptor (0 when there is none), `w` the
window of the tensor table entry that TSLOT names. -/
def vxeBad (d prev w : Nat) (prog : List Nat) : Bool :=
  let stream := dOp d 2 1 == 1
  let f := dOp d 24 4
  dOp d 0 2 == 0 || (stream && !isMatrix prev) || (stream && dOp d 16 8 != 0) || (!stream && dOp d 16 8 == 0) ||
  !(f ≤ 4 || f == 8 || f == 9) ||
  (ocFmt (dOcvt d) == 0xB && (dTslot d == 0xFFF || !windowOk w)) ||
  prog.any vopBad || (hasSput prog && dOp d 0 2 == 3)

/-- An update command that breaks R224. -/
def updBad (d : Nat) : Bool :=
  let wf := dOp d 4 4; let wb := dOp d 8 1 == 1
  dOp d 0 2 ≥ 2 || dOp d 16 8 == 0 || dOp d 24 8 == 0 || !(wf ≤ 4) || (wb && !(wf == 3 || wf == 4)) ||
  (wf == 0 && dOp d 96 32 != 0) ||
  ocFmt (dOcvt d) != wf || ocBlk (dOcvt d) != wb || ocRnd (dOcvt d) == 1 || ocRnd (dOcvt d) == 3 ||
  !((List.range 4).any (fun n => dWait d n == 0x3000))

/-- A MOVE that breaks R153 or Table 6.4. -/
def moveBad (d : Nat) : Bool :=
  let sf := dOp d 64 4; let of_ := ocFmt (dOcvt d)
  dOp d 32 32 == 0 || sf == 0xA || sf ≥ 0xC || !blkOk sf (dOp d 68 1 == 1) ||
  ((sf == 0xB || of_ == 0xB) && !windowOk (dOp d 69 10)) ||
  (sf == 0xB && !(of_ == 0 || of_ == 2 || of_ == 0xB))

/-- A SEND that breaks Table 6.5. -/
def sendBad (d : Nat) : Bool := dOp d 24 12 == 0 || dOp d 36 4 ≥ 2 || dOp d 128 32 == 0

/-- A COLL that breaks R297 or Table 10.2; `np` is the size of its group. -/
def collBad (d np : Nat) : Bool :=
  let op := dOp d 0 2; let red := dOp d 2 2; let algo := dOp d 4 2; let acc := dOp d 6 1
  let f := dOp d 8 4; let w := dOp d 12 10; let of_ := ocFmt (dOcvt d)
  op == 3 || red == 3 || algo ≥ 2 || dOp d 44 12 == 0 || dOp d 128 32 == 0 || (algo == 0 && np > 256) ||
  (if op == 1 then red != 0 || acc != 0 || w != 0 || !(f ≤ 4 || f == 8 || f == 0xB) || of_ != f || ocBlk (dOcvt d)
   else if acc == 0 then red != 0 || !windowOk w || !(f == 0 || f == 2 || f == 0xB) || !(of_ == 0 || of_ == 2 || of_ == 0xB)
   else w != 0 || !(f == 0 || f == 2) || !(of_ == 0 || of_ == 2))

/-- A MOE command that breaks R158. -/
def moeBad (d : Nat) : Bool :=
  let o := dOcvt d
  dOp d 64 24 == 0 || dOp d 48 16 == 0 || dOp d 96 16 == 0 || dOp d 32 16 + dOp d 16 12 + 1 > 65536 ||
  (if dOp d 0 1 == 0 then dOp d 28 4 != 0 || dTslot d != 0xFFF
   else dOp d 28 4 > 2 || ocFmt o > 2 || ocBlk o)

/-- What the checks of one descriptor look at beside it. -/
structure DescEnv where
  ring : Bool
  win : Nat
  ttab : Nat
  prev : Nat
  next : Nat
  /-- window of the tensor table entry TSLOT names -/
  w : Nat
  prog : List Nat
  /-- members of the group a COLL names -/
  np : Nat
  first : Bool
  last : Bool
  deriving DecidableEq, Repr

/-- The lowest REASON code that applies to a descriptor (CAM_FAULT_CAP1); 0 when it is well formed (R159). -/
def descReason (v : DescEnv) (d : Nat) : Nat :=
  let c := dClass d
  let ocvtClass := c == 2 || c == 3 || c == 4 || c == 6 || (c == 8 && dOp d 0 1 == 1)
  if c > 8 || dVer d != 1 then 1
  else if reservedSet d then 2
  else if waitSigBad v.ring v.win d then 3
  else if !v.ring && !v.first && decide (dOffset d < dOffset v.prev) then 4
  else if usesTslot d && ((dTslot d != 0xFFF && decide (dTslot d ≥ v.ttab)) || (dTslot d == 0xFFF && ocRnd (dOcvt d) == 2)) then 5
  else if ocvtClass && ocvtBad (dOcvt d) then 6
  else if !v.ring && ((c == 7) != v.last) then 7
  else if (match c with
    | 1 => mxeBad d v.next
    | 2 => vxeBad d v.prev v.w v.prog
    | 3 => updBad d
    | 4 => moveBad d
    | 5 => sendBad d
    | 6 => collBad d v.np
    | 8 => moeBad d
    | _ => false) then 8
  else if v.ring && (dOffset d != 0 || c == 3 || c ≥ 6) then 9
  else 0

/-! ## Elements in memory -/

/-- Little-endian code of element `i` of a packed stream at unit address `a` (R61). -/
def State.rdElem (s : State) (p ctx a fmt i : Nat) : Nat :=
  let eb := elemBits fmt
  bits (s.cmdNat p ctx a (i * eb / 8) ((i * eb % 8 + eb + 7) / 8)) (i * eb % 8) eb

/-- Poison of the bytes that hold element `i`. -/
def State.elemPsn (s : State) (p ctx a fmt i : Nat) : Bool :=
  let eb := elemBits fmt
  s.cmdPsn p ctx (a + i * eb / 512) || s.cmdPsn p ctx (a + (i * eb + eb - 1) / 512)

/-- Exact value of an element code (R62, R66); ES96, CB4 and UE8M0 are read elsewhere. -/
def decodeElem (fmt code : Nat) : FVal :=
  match floatFmt fmt with
  | some f => decodeFloat f code
  | none => FVal.ofInt (signedOf code (elemBits fmt))

/-- A value under a UE8M0 block scale (R67). -/
def scaleBy (x : Nat) (v : FVal) : FVal := if x = 0xFF then .nan else v.scale ((x : Int) - 127)

/-- A stream of elements: base, format, and the base of its block scales. -/
structure Strm where
  addr : Nat
  fmt : Nat
  scale : Option Nat
  deriving DecidableEq, Repr

/-- Exact value of element `i` of a stream, whose stored rows are whole numbers of blocks (R67, R68). -/
def State.rdVal (s : State) (p ctx : Nat) (x : Strm) (i : Nat) : FVal :=
  let v := decodeElem x.fmt (s.rdElem p ctx x.addr x.fmt i)
  match x.scale with
  | none => v
  | some b => scaleBy (s.cmdByte p ctx b (i / 32)) v

/-- Poison of element `i` of a stream, its scale included. -/
def State.rdValPsn (s : State) (p ctx : Nat) (x : Strm) (i : Nat) : Bool :=
  s.elemPsn p ctx x.addr x.fmt i ||
  (match x.scale with | none => false | some b => s.cmdPsn p ctx (b + i / 2048))

/-- Units that `n` elements of a format fill. -/
def unitsOf (fmt n : Nat) : Nat := (n * elemBits fmt + 511) / 512
/-- Units that the block scales of `n` elements fill. -/
def scaleUnits (n : Nat) : Nat := ((n + 31) / 32 + 63) / 64

/-- ES96 element `i` at unit address `a`. -/
def State.rdEs96 (s : State) (p ctx a i : Nat) : Es96 := es96Of (s.cmdNat p ctx a (16 * i) 16)

/-! ## Encodings of stage 5 (R69, R73 to R79) -/

/-- Events an encoding counts: overflows, invalid blocks, invalid integers. -/
structure CvtN where
  ovf : Nat := 0
  blk : Nat := 0
  int : Nat := 0
  deriving DecidableEq, Repr

/-- Sum of event counts. -/
def CvtN.add (a b : CvtN) : CvtN := ⟨a.ovf + b.ovf, a.blk + b.blk, a.int + b.int⟩

/-- Rounding mode of a conversion control with random bits `r`. -/
def ocMode (o r : Nat) : Rnd := if ocRnd o = 0 then .rne else if ocRnd o = 1 then .rtz else .sr r

/-- Encoding of one value outside any block. -/
def encElem (o r : Nat) (v : FVal) : Nat × CvtN :=
  match floatFmt (ocFmt o) with
  | some f =>
    let c := encodeFloat f (ocMode o r) (ocSat o) v
    (c.1, ⟨if c.2 then 1 else 0, 0, 0⟩)
  | none =>
    let c := encodeInt (elemBits (ocFmt o)) (ocMode o r) v
    (c.1, ⟨if c.2.1 then 1 else 0, 0, if c.2.2 then 1 else 0⟩)

/-- emax of a block-scaled format (R69). -/
def blockEmax (fmt : Nat) : Int := match fmt with | 3 => 8 | 4 => 15 | 5 => 4 | 6 => 2 | _ => 2

/-- Largest of the magnitudes, as ⌊log₂⌋ of it; none when all are zero. -/
def amaxLog : List FVal → Option Int
  | [] => none
  | .fin _ m e :: t =>
    if m = 0 then amaxLog t else
    match amaxLog t with
    | none => some (magLog m e)
    | some l => some (max l (magLog m e))
  | _ :: t => amaxLog t

/-- Encoding of one block of at most 32 values with their random bits: scale code, element codes, events (R69). -/
def encBlock (o : Nat) (vs : List (Nat × FVal)) : Nat × List Nat × CvtN :=
  match floatFmt (ocFmt o) with
  | none => (0x7F, vs.map (fun _ => 0), {})
  | some f =>
    if vs.any (fun v => !v.2.isFin) then (0xFF, vs.map (fun _ => 0), ⟨0, 1, 0⟩) else
    let e : Int := match amaxLog (vs.map (·.2)) with
      | none => 0
      | some l => max (-127) (min 127 (l - blockEmax (ocFmt o)))
    let cs := vs.map (fun v => encodeFloat f (ocMode o v.1) true (v.2.scale (-e)))
    ((e + 127).toNat, cs.map (·.1), ⟨(cs.filter (·.2)).length, 0, 0⟩)

/-- Encoding of a stream of values with their random bits: element codes, block scales, events. -/
def encStream (o : Nat) : Nat → List (Nat × FVal) → List Nat × List Nat × CvtN
  | 0, _ => ([], [], {})
  | _, [] => ([], [], {})
  | n + 1, vs =>
    if ocBlk o then
      let (x, cs, f) := encBlock o (vs.take 32)
      let (cs', xs, f') := encStream o n (vs.drop 32)
      (cs ++ cs', x :: xs, f.add f')
    else
      let cs := vs.map (fun v => encElem o v.1 v.2)
      (cs.map (·.1), [], cs.foldl (fun a c => a.add c.2) {})

/-- Packing of element codes into bytes (R61). -/
def packBytes (eb : Nat) : Nat → List Nat → List Nat
  | 0, _ => []
  | n + 1, l =>
    if eb = 4 then
      match l with
      | [] => []
      | [a] => [a]
      | a :: b :: t => (a + 16 * b) :: packBytes eb n t
    else if eb = 6 then
      match l with
      | [] => []
      | _ => leBytes 3 (((l.take 4).zip [1, 64, 4096, 262144]).foldl (fun a c => a + c.1 * c.2) 0) ++ packBytes eb n (l.drop 4)
    else l.flatMap (fun c => leBytes (eb / 8) c)

/-- Bytes of a list of element codes. -/
def packAll (fmt : Nat) (l : List Nat) : List Nat := packBytes (elemBits fmt) (l.length + 1) l

/-- Write of a list of bytes at unit address `a`, datum `q` poisoned by `g q`. -/
def State.cmdWriteL (s : State) (p ctx a : Nat) (l : List Nat) (g : Nat → Bool) : State :=
  let n := l.length
  let v := l.toArray
  s.cmdWrite p ctx a n (fun i => v.getD i 0) g

/-- Random bits of element `n` of a tensor table entry for a step (R80, R161). -/
def State.ksBits (s : State) (p step entry n : Nat) : Nat :=
  keyStream (s.fld (VXE_KS_SEED_LO_SEED_LO p) + 2 ^ 32 * s.fld (VXE_KS_SEED_HI_SEED_HI p)) step
    (bits entry 0 32) ((bits entry 64 64 + n) % 2 ^ 64)

/-- Row pitch of a tensor table entry. -/
def ttPitch (entry : Nat) : Nat := bits entry 128 64

end Sys2Proof.Machine
end

