-- ==== Sys2Proof/Machine/Packets.lean ====
section
/-! DEFINITION. Packets and messages: the header of Table 9.8, control messages, the queues packets wait in, and the
end of long operations. -/
namespace Sys2Proof.Machine

/-! ## Packet header (Table 9.8) -/

/-- One bit of the CRC-16 of R259 (polynomial 0x1021, not reflected). -/
def crc16Bit (c : Nat) : Nat := if c / 0x8000 % 2 = 1 then (c * 2 ^^^ 0x1021) % 65536 else c * 2 % 65536
/-- `n` bits. -/
def crc16Bits : Nat → Nat → Nat
  | 0, c => c
  | n + 1, c => crc16Bits n (crc16Bit c)
/-- HCRC over a byte string (R259). -/
def crc16 (l : List Nat) : Nat := l.foldl (fun c b => crc16Bits 8 (c ^^^ (b % 256 * 256))) 0xFFFF

/-- Fields of a packet header. -/
structure Hdr where
  ver : Nat
  cls : Nat
  rsnd : Nat
  dst : Nat
  src : Nat
  flow : Nat
  gen : Nat
  seq : Nat
  tumbler : Nat
  inc : Nat
  layer : Nat
  oper : Nat
  psn : Nat
  len : Nat
  path : Nat
  lsid : Nat
  offset : Nat
  part : Nat
  deriving DecidableEq, Repr

/-- Bits [239:0] of a header. -/
def Hdr.body (h : Hdr) : Nat :=
  h.ver % 16 + h.cls % 8 * 2 ^ 4 + h.rsnd % 2 * 2 ^ 7 + h.dst % 2 ^ 20 * 2 ^ 8 + h.src % 2 ^ 20 * 2 ^ 28 +
  h.flow % 2 ^ 14 * 2 ^ 48 + h.gen % 2 ^ 16 * 2 ^ 64 + h.seq % 2 ^ 24 * 2 ^ 80 + h.tumbler % 2 ^ 12 * 2 ^ 104 +
  h.inc % 16 * 2 ^ 116 + h.layer % 2 ^ 16 * 2 ^ 120 + h.oper % 2 ^ 16 * 2 ^ 136 + h.psn % 2 ^ 8 * 2 ^ 152 +
  h.len % 2 ^ 10 * 2 ^ 160 + h.path % 16 * 2 ^ 170 + h.lsid % 2 ^ 24 * 2 ^ 176 + h.offset % 2 ^ 32 * 2 ^ 200 +
  h.part % 16 * 2 ^ 232

/-- The 256-bit header with its HCRC. -/
def Hdr.enc (h : Hdr) : Nat := h.body + crc16 (leBytes 30 h.body) * 2 ^ 240

/-- Fields read from a header. -/
def Hdr.dec (n : Nat) : Hdr where
  ver := bits n 0 4
  cls := bits n 4 3
  rsnd := bits n 7 1
  dst := bits n 8 20
  src := bits n 28 20
  flow := bits n 48 14
  gen := bits n 64 16
  seq := bits n 80 24
  tumbler := bits n 104 12
  inc := bits n 116 4
  layer := bits n 120 16
  oper := bits n 136 16
  psn := bits n 152 8
  len := bits n 160 10
  path := bits n 170 4
  lsid := bits n 176 24
  offset := bits n 200 32
  part := bits n 232 4

/-- Padding bytes that bring a payload to a multiple of 4 (R258). -/
def padBytes (n : Nat) : List Nat := List.replicate ((4 - n % 4) % 4) 0

/-- Bytes of a packet that its CRC-32C covers: header, payload, padding. -/
def Pkt.covered (p : Pkt) : List Nat := leBytes 32 p.hdr ++ p.pay ++ padBytes p.pay.length
/-- A packet on the wire (R258). -/
def Pkt.wire (p : Pkt) : List Nat := p.covered ++ leBytes 4 (crc32c p.covered)

/-- Bytes on the wire rounded up to 64: the credit a packet takes, in units (R247). -/
def Pkt.units (p : Pkt) : Nat := (36 + (p.pay.length + 3) / 4 * 4 + 63) / 64

/-! ## Message bytes -/

/-- Byte `i` of a message. -/
def mByte (m : List Nat) (i : Nat) : Nat := m.getD i 0 % 256
/-- Little-endian field of `n` bytes at byte `i` of a message. -/
def mField (m : List Nat) (i : Nat) : Nat → Nat
  | 0 => 0
  | n + 1 => mByte m i + 256 * mField m (i + 1) n

/-- Own global identifier. -/
def State.gid (s : State) : Nat := s.fld FAB_GID_GID

/-- A packet put on the wire or, to the module itself, among the internal packets. A FENCED module sends only
management packets (R375), and one in module reset forms none (R416). -/
def State.sendPkt (s : State) (p : Pkt) (flow : Option Nat) (since : Nat) (cmd : Option (Nat × Nat × Nat)) : State :=
  if (s.flag RCV_FENCE_FENCED && (Hdr.dec p.hdr).cls != 5) || s.boot == .resetting || s.boot == .held then s
  else if (Hdr.dec p.hdr).dst = s.gid then { s with intq := s.intq ++ [⟨p, flow, none, s.ftime, 0, 0, cmd⟩] }
  else { s with txq := s.txq ++ [⟨p, flow, none, since, 0, 0, cmd⟩] }

/-- A control-class message of a job slot; byte 1 of it holds the job slot (R308, R349). -/
def State.sendCtl (s : State) (dst job : Nat) (m : List Nat) : State :=
  s.sendPkt ⟨Hdr.enc ⟨4, 2, 0, dst, s.gid, 0, s.fld (FAB_JOB_GEN_GEN job), 0, 0, 0, 0, 0, 0, m.length, 0, 0, 0, 15⟩, m⟩
    none s.ftime none

/-- A management-class message: LEN bytes, its target in OFFSET (R480). -/
def State.sendMgmt (s : State) (dst offset : Nat) (m : List Nat) : State :=
  s.sendPkt ⟨Hdr.enc ⟨4, 5, 0, dst, s.gid, 0, 0, 0, 0, 0, 0, 0, 0, m.length, 0, 0, offset, 15⟩, m⟩ none s.ftime none

/-- Something the module sends outside the fabric. -/
def State.emit (s : State) (m : OutMsg) : State := { s with out := s.out ++ [m] }

/-! ## Operations -/

/-- End of an operation: its completion waits for OP_COMPLETION_POST (R472). -/
def State.endOp (s : State) (o : OpenOp) (status arg : Nat) (results : List Nat) : State :=
  { s with ops := s.ops.filter (fun x => x != o),
           ended := s.ended ++ [⟨o.fn, o.handle, o.op, status, arg, results⟩] }

/-- End of every open operation that a test names. -/
def State.endOps (s : State) (f : OpenOp → Bool) (status : Nat) (results : List Nat) : State :=
  (s.ops.filter f).foldl (fun t o => t.endOp o status 0x1F results) s

/-- Shared status codes (Table 16.8). -/
def stOk : Nat := 0
def stBusy : Nat := 1
def stBadImage : Nat := 2
def stVersion : Nat := 3
def stEpochMixed : Nat := 4
def stNoHeadroom : Nat := 5
def stFenced : Nat := 6
def stDomainOff : Nat := 7
def stTimeout : Nat := 8
def stPoisoned : Nat := 9
def stAborted : Nat := 10
def stOrphan : Nat := 11
def stHold : Nat := 12
def stQuota : Nat := 13

/-- ARG `i` of an operation. -/
def OpenOp.arg (o : OpenOp) (i : Nat) : Nat := o.args.getD i 0

/-! ## The job tree (Table 10.7) and failed recovery -/

/-- Relative `e` of the job tree of a slot, in the bank in force. -/
def State.jobRel (s : State) (j e : Nat) : Option Nat :=
  if s.flag (actFld (BCT_JREL_VALID j e)) then some (s.fld (actFld (BCT_JREL_GID j e))) else none

/-- What the module keeps of a loaded job slot. -/
def State.run (s : State) (j : Nat) : Option JobRun := storeGet none s.jobs j

/-- Change of what it keeps. -/
def State.updRun (s : State) (j : Nat) (f : JobRun → JobRun) : State :=
  { s with jobs := storeSet none s.jobs j ((s.run j).map f) }

/-- Parent in the job tree: the ancestor that adopted the module, else a1 (R313). -/
def State.jobUp (s : State) (j : Nat) : Option Nat :=
  match (s.run j).bind (·.up) with
  | some g => some g
  | none => s.jobRel j 0

/-- Whether this module is the root of the job tree. -/
def State.isRoot (s : State) (j : Nat) : Bool := (s.jobRel j 0).isNone

/-- A message toward the root: the parent, or the root itself takes it (R363). -/
def State.sendUp (s : State) (j : Nat) (m : List Nat) : State :=
  match s.jobUp j with
  | some g => s.sendCtl g j m
  | none => s.sendCtl s.gid j m

/-- What a cause of failed recovery leaves on a module: its open re-host aborted, or an event, and PHASE rollback with
CAUSE either way (R363, R369). -/
def State.noteRollback (s : State) (j cause : Nat) : State :=
  let isOp : OpenOp → Bool := fun o => o.op == 9 && o.arg 0 == j
  let was := s.ops.any isOp
  let s := if was then (s.endOps isOp stAborted [1, cause]).setFld (RCV_J_STATUS_LAST_CODE j) stAborted else s
  let new := s.fld (RCV_J_STATUS_PHASE j) != 4
  let s := (s.setFld (RCV_J_STATUS_PHASE j) 4).setFld (RCV_J_STATUS_CAUSE j) cause
  if !was && new then s.event (RCV_J_STATUS_PHASE j) 0 j else s

/-- A module meets a cause of failed recovery: RABORT toward the root (R363). -/
def State.meetRollback (s : State) (j cause : Nat) : State :=
  let s := s.sendUp j ([0x37, j, 0, 0] ++ leBytes 4 (s.fld (RCV_J_TARGET_STEP j)) ++ [cause, 0, 0, 0] ++ leBytes 3 s.gid ++ [0])
  s.noteRollback j cause

end Sys2Proof.Machine
end

