-- ==== Sys2Proof/Machine/Flags.lean ====
section
/-! DEFINITION. Flags and their consequences: status flags with their counters, conversion flags, captures of memory
errors, address faults and consumed poison of a command, and the kill of a context. -/
namespace Sys2Proof.Machine

/-- A flag set by `k` events, each counted on partition counter `n` (R531); nothing when there are none. -/
def State.flagN (s : State) (f : Fld) (p n k : Nat) : State := if k = 0 then s else (s.setFld f 1).count p n k

/-- A flag set by `k` events counted on global counter `n`. -/
def State.gflagN (s : State) (f : Fld) (n k : Nat) : State := if k = 0 then s else (s.setFld f 1).gcount n k

/-- Conversion events in VXE_CVT_FLAGS (R76, R77, Table 3.11). -/
def State.cvtFlags (s : State) (p : Nat) (f : CvtN) : State :=
  ((s.flagN (VXE_CVT_FLAGS_OVERFLOW p) p 0x110 f.ovf).flagN (VXE_CVT_FLAGS_BLOCK_INVALID p) p 0x111 f.blk).flagN
    (VXE_CVT_FLAGS_INT_INVALID p) p 0x112 f.int

/-! ## The command a rule speaks of -/

/-- A command in progress. -/
structure Cmd where
  p : Nat
  ctx : Nat
  idx : Nat
  d : Nat
  deriving DecidableEq, Repr

/-- STEP of the issuing entry; a ring has none. -/
def State.stepOf (s : State) (c : Cmd) : Nat := if isRing c.ctx then 0 else s.fld (CAM_HOST_W6_STEP c.p c.ctx)

/-- An error record about a command (Table 13.1). -/
def State.cmdRecord (s : State) (c : Cmd) (unit cls flags syn : Nat) : State :=
  s.detect unit cls flags c.idx c.ctx (dLayer c.d) (dOper c.d) (s.jobOf c.p) syn

/-- Local unit address under which a stack address of the partition is captured (MEM_ERR_CAP0). -/
def capAddr (a : Nat) : Nat := a % 2 ^ 30

/-- First memory event into MEM_ERR_CAP0 to MEM_ERR_CAP2. -/
def State.memCap (s : State) (p a pc kind req ctx idx : Nat) : State :=
  if s.flag (MEM_ERR_CAP0_VALID p) then s else
  ((((((s.setFld (MEM_ERR_CAP0_UNIT_ADDR p) (capAddr a)).setFld (MEM_ERR_CAP0_VALID p) 1).setFld
    (MEM_ERR_CAP1_PC p) pc).setFld (MEM_ERR_CAP1_KIND p) kind).setFld (MEM_ERR_CAP1_REQ_PART p) req).setFld
    (MEM_ERR_CAP1_CONTEXT p) ctx).setFld (MEM_ERR_CAP2_DESC_INDEX p) idx

/-! ## Kills (R388) -/

/-- Whether a context is stopped already: a KILLED or FAULT entry, a ring that is not running. -/
def State.ctxDead (s : State) (p ctx : Nat) : Bool :=
  if isRing ctx then s.fld (CAM_RING_CTRL_STATE p (ctx - 32)) != 1
  else s.fld (CAM_HOST_W0_STATE p ctx) != 2 && s.fld (CAM_HOST_W0_STATE p ctx) != 3 && s.fld (CAM_HOST_W0_STATE p ctx) != 4

/-- No bump of a context's issued commands is applied from now on (R388, R413). -/
def State.killIssued (s : State) (p ctx : Nat) : State :=
  { s with inflight := s.inflight.map (fun i => if i.part = p ∧ i.ctx = ctx then { i with killed := true } else i) }

/-- A context enters KILLED, or a ring HALTED. -/
def State.enterKilled (s : State) (p ctx : Nat) : State :=
  if isRing ctx then s.setFld (CAM_RING_CTRL_STATE p (ctx - 32)) 2
  else
    let was := s.fld (CAM_HOST_W0_STATE p ctx)
    let s := (s.setFld (CAM_HOST_W0_STATE p ctx) 6).setFld ⟨CAM_KILLED p, ctx, 1⟩ 1
    if was = 3 && decide (s.jobOf p < 8) then s.meetRollback (s.jobOf p) 5 else s

/-- Kill of a context with a reason of Table 13.4: the first capture, the count, no further bump (R388). -/
def State.killCtx (s : State) (p ctx idx reason input : Nat) : State :=
  if s.ctxDead p ctx then s else
  let s := (s.enterKilled p ctx).killIssued p ctx
  let s := if s.flag (CAM_KILL_CAP0_VALID p) then s else
    ((((s.setFld (CAM_KILL_CAP0_DESC_INDEX p) idx).setFld (CAM_KILL_CAP0_CONTEXT p) ctx).setFld
      (CAM_KILL_CAP0_VALID p) 1).setFld (CAM_KILL_CAP1_REASON p) reason).setFld (CAM_KILL_CAP1_INPUT p) input
  s.count p (0x147 + reason) 1

/-- A command of a unit consumes poison (R388): one POISON_CONSUMED record and the kill, unless its context is
stopped already. `input` is byte 40 of the syndrome. -/
def State.consumePoison (s : State) (c : Cmd) (unit input addr : Nat) : State :=
  if s.ctxDead c.p c.ctx then s
  else (s.cmdRecord c unit 0x0B (flKilled + flPoison) (input + addr % 2 ^ 32 * 2 ^ 32)).killCtx c.p c.ctx c.idx 1 input

/-! ## Address faults and poisoned inputs of a command -/

/-- A range of datums a command reads or writes. -/
structure Rng where
  addr : Nat
  n : Nat
  /-- the command consumes what it reads there -/
  use : Bool
  deriving DecidableEq, Repr

/-- Faulting datums of a range, each with whether a stack was off (R193, R196). -/
def State.rngFaults (s : State) (c : Cmd) (r : Rng) : List (Nat × Bool) :=
  (List.range r.n).filterMap (fun i =>
    match s.locate c.p c.ctx ((r.addr + i) % 2 ^ 32) with
    | .fault off => some ((r.addr + i) % 2 ^ 32, off)
    | .at _ => none)

/-- First poisoned datum that a range consumes. -/
def State.rngPoison (s : State) (c : Cmd) (r : Rng) : Option Nat :=
  if r.use then
    ((List.range r.n).find? (fun i => s.cmdPsn c.p c.ctx (r.addr + i))).map (fun i => (r.addr + i) % 2 ^ 32)
  else none

/-- Whether a unit address lies in the receive sub-space: byte 40 of POISON_CONSUMED is 0x02 there, else 0x01. -/
def poisonInput (a : Nat) : Nat := if a / 2 ^ 28 % 16 = 5 then 2 else 1

/-- The faults of a command over its ranges: ADDR_FAULT, the counts, the first capture, one MEMORY record, and the
kill with reason 0x02 (R193, R388). -/
def State.noteFaults (s : State) (c : Cmd) (fs : List (Nat × Bool)) : State :=
  match fs with
  | [] => s
  | (a, off) :: _ =>
    let k := (fs.filter (·.2)).length
    let s := (s.flagN (MEM_STATUS_ADDR_FAULT c.p) c.p 0x220 fs.length).flagN (MEM_STATUS_REMOTE_OFF c.p) c.p 0x221 k
    let kind := if off then 2 else 1
    let s := s.memCap c.p a 0 kind c.p c.ctx c.idx
    let s := s.cmdRecord c (unitId c.p 0x60) 2 (flKilled + flPoison)
      (capAddr a + kind * 2 ^ 40 + c.p * 2 ^ 48)
    s.killCtx c.p c.ctx c.idx 2 0

/-- What the ranges of a command bring about before it runs: its faults, else the poison it consumes (R193, R388).
`unit` is the consuming unit. -/
def State.noteRanges (s : State) (c : Cmd) (unit : Nat) (rs : List Rng) : State :=
  match rs.flatMap (s.rngFaults c) with
  | [] =>
    match rs.findSome? (s.rngPoison c) with
    | some a => s.consumePoison c unit (poisonInput a) a
    | none => s
  | f :: fs => s.noteFaults c (f :: fs)

/-- Whether a range reads any poisoned or faulting datum. -/
def State.rngBad (s : State) (c : Cmd) (r : Rng) : Bool :=
  (List.range r.n).any (fun i => s.cmdPsn c.p c.ctx (r.addr + i))

/-! ## Reads through the memory controllers (R205) and parity (R384) -/

/-- How one read of a datum ends beyond clean (R205): 2 corrected, 3 uncorrectable once, 4 uncorrectable twice.
`req` is the requesting partition (0xF host or scrub), `kind` the capture kind of an uncorrectable event. -/
def State.eccRead (s : State) (d end_ req ctx idx kind : Nat) : State :=
  let (p, u, hbm) := datumPlace d
  if hbm then
    let x := unitPc u
    match end_ with
    | 2 => ((s.setFld (MEM_STATUS_CE_SEEN p) 1).count p (0x160 + x) 1).detectOnly (stackUnit p x) 3
    | 3 => (s.count p (0x1A0 + x) 1).detectOnly (stackUnit p x) 2
    | 4 =>
      if s.psn d then s else
      let s := { s with poison := storeSet false s.poison d true }
      let s := (s.setFld (MEM_STATUS_UE_SEEN p) 1).count p (0x1E0 + x) 1
      let s := s.memCap p u x kind req ctx idx
      s.detect (stackUnit p x) 2 flPoison idx ctx 0 0 (s.jobOf p) (u + x * 2 ^ 32 + kind * 2 ^ 40 + req * 2 ^ 48)
    | _ => s
  else
    let b := unitBank u
    match end_ with
    | 2 => ((s.setFld (TSR_STATUS_CE_SEEN p) 1).count p 0x223 1).detectOnly (unitId p (0x20 + b)) 6
    | 3 => s.detectOnly (unitId p (0x20 + b)) 5
    | 4 =>
      if s.psn d then s else
      let s := { s with poison := storeSet false s.poison d true }
      let s := (s.setFld (TSR_STATUS_UE_SEEN p) 1).count p 0x224 1
      let s := if s.flag (TSR_ERR_CAP0_VALID p) then s else
        ((s.setFld (TSR_ERR_CAP0_UNIT_ADDR p) u).setFld (TSR_ERR_CAP0_BANK p) b).setFld (TSR_ERR_CAP0_VALID p) 1
      s.detect (unitId p (0x20 + b)) 2 flPoison idx ctx 0 0 (s.jobOf p) (u + b * 2 ^ 32 + 4 * 2 ^ 40 + req * 2 ^ 48)
    | _ => s

/-- Local-space unit address of a physical datum, as a PARITY record names it. -/
def datumLocal (d : Nat) : Nat :=
  let (_, u, hbm) := datumPlace d
  if hbm then u else 0x30000000 + u

/-- Whether a command reads a datum through one of its ranges. -/
def State.rngReads (s : State) (c : Cmd) (rs : List Rng) (d : Nat) : Bool :=
  rs.any (fun r => (List.range r.n).any (fun i => s.locate c.p c.ctx ((r.addr + i) % 2 ^ 32) == .at d))

/-- A parity mismatch at the input of a unit (R384): a PARITY record against the producer, and the datum is taken in
poisoned. -/
def State.parityMiss (s : State) (c : Cmd) (unit d mask prod point : Nat) : State :=
  ({ s with parityBad := d :: s.parityBad }).cmdRecord c unit 1 flPoison
    (datumLocal d + mask % 2 ^ 16 * 2 ^ 32 + prod % 2 ^ 16 * 2 ^ 48 + point * 2 ^ 64)

/-- What the surroundings do to the reads of a command: the ends of R205 and the parity mismatches of R384. -/
def State.applyEnv (s : State) (c : Cmd) (unit : Nat) (rs : List Rng) (env : CmdEnv) : State :=
  let s' := (env.ecc.filter (fun x => s.rngReads c rs x.1)).foldl (fun t x => t.eccRead x.1 x.2 c.p c.ctx c.idx 0) s
  (env.parity.filter (fun x => s.rngReads c rs x.1)).foldl (fun t x => t.parityMiss c unit x.1 x.2.1 x.2.2 1) s'

/-- End of a command's reads: what failed parity at its inputs is not stored. -/
def State.endEnv (s : State) : State := { s with parityBad := [] }

/-! ## Writes at a byte offset -/

/-- A byte list written at byte offset `off` from unit address `a`: byte `i` is poisoned by `g i`; a datum written in
part keeps its poison (R206), and a faulting one is discarded (R193). -/
def State.cmdPut (s : State) (c : Cmd) (a off : Nat) (l : List Nat) (g : Nat → Bool) : State :=
  let n := l.length
  let v := l.toArray
  let first := off / 64
  forRange (if n = 0 then 0 else (off + n + 63) / 64 - first) (fun q t =>
    let lo := max off (64 * (first + q))
    let hi := min (off + n) (64 * (first + q + 1))
    match t.locate c.p c.ctx ((a + first + q) % 2 ^ 32) with
    | .at dm =>
      let val := leNat ((List.range (hi - lo)).map (fun i => v.getD (lo - off + i) 0))
      let psn := (List.range (hi - lo)).any (fun i => g (lo - off + i))
      if hi - lo = 64 then t.wrDatum dm val psn else t.wrPart dm (lo % 64) (hi - lo) val psn
    | .fault _ => t) s

end Sys2Proof.Machine
end

