-- ==== Sys2Proof/Machine/Cam.lean ====
section
/-! DEFINITION. The Cam and the tumblers (chapter 06): fetch, waits, issue with its slips, completion, kills on a
poisoned fetch, malformed descriptors, command rings. -/
namespace Sys2Proof.Machine

/-! ## Tumblers (R167 to R173) -/

/-- Step count of tumbler `n` of a partition's bank. -/
def State.stepCount (s : State) (p n : Nat) : Nat :=
  ((s.fld (TMB_VALUE_VALUE p n)) + 2 ^ 32 - s.fld (TMB_SNAP_SNAP p n)) % 2 ^ 32

/-- Whether a context holds a window: an entry that is not FREE, a ring that is enabled. -/
def State.ctxInUse (s : State) (p ctx : Nat) : Bool :=
  if isRing ctx then s.flag (CAM_RING_CTRL_ENABLE p (ctx - 32)) else s.fld (CAM_HOST_W0_STATE p ctx) != 0

/-- The context whose window holds tumbler `n`. -/
def State.tumOwner (s : State) (p n : Nat) : Option Nat :=
  (List.range 36).find? (fun c => s.ctxInUse p c && (let w := s.tumWin p c; decide (w.1 ≤ n) && decide (n < w.1 + w.2)))

/-- A bump of tumbler `n` (bank index) by a source: value, last source, and overflow (R167, R173). -/
def State.bump (s : State) (p n inc gid part : Nat) (loc : Bool) : State :=
  let was := s.stepCount p n
  let s := s.setFld (TMB_VALUE_VALUE p n) (s.fld (TMB_VALUE_VALUE p n) + inc)
  let s := ((s.setFld (TMB_SRC_MODULE p n) gid).setFld (TMB_SRC_PART p n) part).setFld (TMB_SRC_LOCAL p n) (if loc then 1 else 0)
  if was + inc < 2 ^ 31 then s else
    let s := (s.setFld (TMB_STATUS_TMB_OVF p) 1).count p 0x105 1
    let s := if s.flag (TMB_OVF_CAP_VALID p) then s else
      (s.setFld (TMB_OVF_CAP_TUMBLER p) n).setFld (TMB_OVF_CAP_VALID p) 1
    let owner := s.tumOwner p n
    let s := s.detect (unitId p 0x12) 9 flKilled 0xFFFFFF (owner.getD 0x3F) 0 0 (s.jobOf p) (n + (was + inc) * 2 ^ 32)
    match owner with
    | some c => s.killCtx p c 0xFFFFFF 3 0
    | none => s

/-- Snapshot of a window's tumblers from its first `skip` on (R171, R172). -/
def State.snapWin (s : State) (p base size skip : Nat) : State :=
  forRange (size - skip) (fun i t => t.setFld (TMB_SNAP_SNAP p (base + skip + i)) (t.fld (TMB_VALUE_VALUE p (base + skip + i)))) s

/-! ## Step time (R165, R174) -/

/-- Job clock of a partition in MHz. -/
def State.jobMhz (s : State) (p : Nat) : Nat :=
  if s.jobOf p < 8 then s.fld (CLK_J_CUR_MHZ (s.jobOf p)) else 1600

/-- Issue base of the partition's step. -/
def State.issueBase (s : State) (p : Nat) : Nat := s.reg64 (CAM_ISSUE_BASE_LO p)

/-- The step counter (R174). -/
def State.stepCycles (s : State) (p : Nat) : Nat := (s.ftime - s.issueBase p) * s.jobMhz p / 4000 % 2 ^ 48

/-- Effective offset of a descriptor (R165); a ring command is due at once (R185). -/
def State.effOffset (s : State) (p ctx d : Nat) : Nat :=
  if isRing ctx then 0 else dOffset d * s.fld (actFld (CAM_STRETCH_STRETCH p)) / 4096

/-! ## Fetch -/

/-- Index of the next descriptor of a context. -/
def State.ctxPos (s : State) (p ctx : Nat) : Nat :=
  if isRing ctx then s.fld (CAM_RING_HEAD_HEAD p (ctx - 32)) else s.fld (CAM_HOST_W7_POS p ctx)

/-- Whether a partition's Cam runs: the module is up, the partition present, its vector/scalar domain powered, not halted by debug (R545). -/
def State.camRuns (s : State) (p : Nat) : Bool := s.boot == .running && s.present p && decide (s.domState (4 * p + 1) < 2)

/-- Whether a running reset, or the retirement of a partition of its job, keeps a context from issuing (R373, R413,
R415, R416). -/
def State.ctxStopped (s : State) (p ctx : Nat) : Bool :=
  storeGet false s.jobOut (s.jobOf p) ||
  s.rstRun.any (fun r => decide (3 ≤ r.kind) || (r.kind == 2 && unitPart r.unit == p) ||
    (r.kind == 0 && unitPart r.unit == p && r.ctx == ctx))

/-- Whether a context has a next descriptor that it may issue (R163, R185). -/
def State.ctxReady (s : State) (p ctx : Nat) : Bool :=
  s.camRuns p && !s.ctxStopped p ctx &&
  (if isRing ctx then
    decide (ctx < 36) && s.flag (CAM_RING_CTRL_ENABLE p (ctx - 32)) && s.fld (CAM_RING_CTRL_STATE p (ctx - 32)) == 1 &&
      s.fld (CAM_RING_HEAD_HEAD p (ctx - 32)) != s.fld (CAM_RING_TAIL_TAIL p (ctx - 32))
   else
    ((s.fld (CAM_HOST_W0_STATE p ctx) == 2 && s.fld (CAM_HINGE_STATUS_PHASE p) == 0) || s.fld (CAM_HOST_W0_STATE p ctx) == 3) &&
      decide (s.fld (CAM_HOST_W7_POS p ctx) < s.fld (CAM_HOST_W2_PROG_LEN p ctx)))

/-- The group header a COLL names: its size in the bank in force (R295). -/
def State.grpSize (s : State) (j g : Nat) : Nat := s.fld (actFld (COL_GHDR_W1_SIZE j g))

/-- What the checks of descriptor `i` look at. -/
def State.descEnv (s : State) (p ctx i : Nat) : DescEnv :=
  let d := s.descAt p ctx i
  let len := s.fld (CAM_HOST_W2_PROG_LEN p ctx)
  let avail (k : Nat) : Bool :=
    if isRing ctx then k != s.fld (CAM_RING_TAIL_TAIL p (ctx - 32)) else decide (k < len)
  { ring := isRing ctx, win := (s.tumWin p ctx).2, ttab := s.ttabLen p ctx,
    prev := if isRing ctx then s.descAt p ctx ((i + 65535) % 65536) else if i = 0 then 0 else s.descAt p ctx (i - 1),
    next := if avail (i + 1) then s.descAt p ctx (i + 1) else 0,
    w := bits (s.ttabAt p ctx (dTslot d)) 32 10,
    prog := if dClass d = 2 then s.vxProg p ctx d else [],
    np := s.grpSize (s.jobOf p) (dOp d 32 12),
    first := i == 0, last := decide (i + 1 = len) }

/-- REASON of descriptor `i` of a context; 0 when it is well formed. -/
def State.reasonAt (s : State) (p ctx i : Nat) : Nat := descReason (s.descEnv p ctx i) (s.descAt p ctx i)

/-- Poison of the words the Cam and the vector engines fetch for a descriptor: the descriptor, its tensor table
entry, its operation words (R390). -/
def State.fetchPsn (s : State) (p ctx i : Nat) : Bool :=
  let d := s.descAt p ctx i
  s.psn (s.descDatum p ctx i) ||
  (usesTslot d && dTslot d != 0xFFF && s.psn (s.ttabDatum p ctx (dTslot d))) ||
  (dClass d == 2 && (List.range (vxNops d)).any (fun n => s.cmdPsn p ctx (dOp d 32 32 + 4 * n / 64)))

/-- A command of a context. -/
def State.cmdAt (s : State) (p ctx i : Nat) : Cmd := ⟨p, ctx, i, s.descAt p ctx i⟩

/-! ## Conditions of issue (R164) -/

/-- First WAIT of a descriptor that is not met, as its word. -/
def State.unmetWait (s : State) (p ctx d : Nat) : Option Nat :=
  ((List.range 4).map (dWait d)).find? (fun w =>
    waitEn w && decide (s.stepCount p ((s.tumWin p ctx).1 + waitTumbler w) < waitTarget w))

/-- First stage of a class, as a number: 0 none, 1 Load, 2 UPD, 3 collective engine (R574). -/
def firstStage (c : Nat) : Nat :=
  if c = 0 || c = 7 then 0 else if c = 3 then 2 else if c = 6 then 3 else 1

/-- Commands that hold a place in a stage: not yet left it. -/
def State.stageHolders (s : State) (p stage : Nat) : List Issued :=
  s.inflight.filter (fun i => !i.done && (i.part == p || stage == 3) && firstStage (dClass i.desc) == stage)

/-- Whether a stage has room (R303, R574). -/
def State.stageRoom (s : State) (p stage : Nat) : Bool :=
  stage == 0 || decide ((s.stageHolders p stage).length < if stage = 3 then 8 else 4)

/-- Power domains a class needs besides the Cam's own (Table 2.4, Table 2.8). -/
def neededDomains (p d : Nat) : List Nat :=
  match dClass d with
  | 1 => [4 * p, 4 * p + 1, 4 * p + 2, 4 * p + 3]
  | 2 => [4 * p + 1, 4 * p + 2, 4 * p + 3]
  | 3 => [4 * p + 1, 4 * p + 2, 4 * p + 3]
  | 4 => [4 * p, 4 * p + 1, 4 * p + 2, 4 * p + 3]
  | 5 => [4 * p + 2, 4 * p + 3]
  | 6 => [38, 4 * p + 2, 4 * p + 3]
  | 8 => if dOp d 0 1 == 0 then [4 * p + 2, 4 * p + 3] else [4 * p, 4 * p + 1, 4 * p + 2, 4 * p + 3]
  | _ => []

/-- Shard scalars a vector command names in SC0 to SC3, one bit each (R142). -/
def namedShardScalars (d : Nat) : Nat :=
  if dClass d = 2 then
    ([160, 168, 176, 184].map (fun l => dOp d l 6)).foldl (fun m r => if 32 ≤ r then m ||| 2 ^ (r - 32) else m) 0
  else 0

/-- Why a due command is held: cause, tumbler, detail, source (Table 6.8); none when it can issue. -/
def State.holdCause (s : State) (p ctx d : Nat) : Option (Nat × Nat × Nat × Nat) :=
  match s.unmetWait p ctx d with
  | some w =>
    let n := (s.tumWin p ctx).1 + waitTumbler w
    some (0, waitTumbler w, s.stepCount p n, s.fld (TMB_SRC_MODULE p n) + s.fld (TMB_SRC_PART p n) * 2 ^ 20)
  | none =>
    match s.inflight.find? (fun i => i.part == p && i.ctx == ctx && decide (i.sput &&& namedShardScalars d ≠ 0)) with
    | some i => some (6, 0, i.idx, 0)
    | none =>
      match (neededDomains p d).find? (fun x => s.domState x != 0) with
      | some x => some (3, 0, x, 0)
      | none =>
        if bitAt (s.fld DBG_GSTATUS_HALTED) p then some (2, 0, 0x3F, 0)
        else if s.stageRoom p (firstStage (dClass d)) then none
        else some (2, 0, ((s.stageHolders p (firstStage (dClass d))).head?.map (·.ctx)).getD 0x3F, 0)

/-- Whether a command is due: the step has started and its counter has reached the effective offset. A ring command and
one of an entry in REPLAY are due at once (R185, R360). -/
def State.isDue (s : State) (p ctx d : Nat) : Bool :=
  isRing ctx || s.fld (CAM_HOST_W0_STATE p ctx) == 3 || (decide (s.issueBase p ≤ s.ftime) && decide (s.effOffset p ctx d ≤ s.stepCycles p))

/-! ## Slips (R175, R176) -/

/-- A SYNC record (Table 19.5). -/
def syncRec (r : SlipRec) (ftime : Nat) : Nat :=
  let scale := decide (r.slip > 16383)
  let v := if scale then (r.slip + 1023) / 1024 else r.slip
  trcHead 3 ftime + r.cause * 16 + (if scale then 128 else 0) + r.ctx * 2 ^ 48 + r.idx % 2 ^ 24 * 2 ^ 54 +
    r.tumbler % 2 ^ 12 * 2 ^ 78 + (if r.cause = 0 then r.source else if r.cause = 5 then 0 else r.detail) % 2 ^ 24 * 2 ^ 90 +
    min v 0x3FFF * 2 ^ 114

/-- First recorded cause of a command that slipped: its hold record, else its predecessor, a late start of the step,
or contention for the cycle. -/
def State.slipCause (s : State) (p ctx idx eff : Nat) : HoldRec :=
  match s.holds.find? (fun h => h.part == p && h.ctx == ctx && h.idx == idx) with
  | some h => h
  | none =>
    if decide (eff < storeGet 0 s.startCyc p) then ⟨p, ctx, idx, 5, 0, 0, 0, false⟩
    else if decide (eff < storeGet 0 s.lastIssue (64 * p + ctx)) then ⟨p, ctx, idx, 1, 0, idx - 1, 0, false⟩
    else ⟨p, ctx, idx, 4, 0, 0, 0, false⟩

/-- Slip accounting of a command that issues now. -/
def State.noteSlip (s : State) (p ctx idx eff : Nat) : State :=
  if isRing ctx || s.fld (CAM_HOST_W0_STATE p ctx) == 3 then s else
  let cyc := s.stepCycles p
  let slip := cyc - eff
  let h := s.slipCause p ctx idx eff
  let s := { s with holds := s.holds.filter (fun h => !(h.part == p && h.ctx == ctx && h.idx == idx)),
                    lastIssue := storeSet 0 s.lastIssue (64 * p + ctx) (cyc + 1) }
  if slip = 0 then s else
  let s := s.count p ctx slip
  let s := if h.cause = 0 then s.count p (0x80 + ctx) slip else s
  if slip < s.fld (CAM_CFG_SLIP_THRESH p) then s else
  let r : SlipRec := ⟨true, idx, ctx, h.cause, h.tumbler, h.detail, h.source, min slip 0xFFFFFFFF⟩
  let s := s.count p (0x40 + ctx) 1
  let s := match storeGet none s.slipMax p with
    | some m => if m.slip < r.slip then { s with slipMax := storeSet none s.slipMax p (some r) } else s
    | none => { s with slipMax := storeSet none s.slipMax p (some r) }
  let s := s.trace p true (syncRec r s.ftime)
  if s.flag (TRC_TRIG_CFG_SLIP_EN p) && decide (slip ≥ s.fld (TRC_TRIG_SLIP_CYCLES p)) then s.trigger p 3 slip 0 else s

/-! ## Issue -/

/-- Position of a context after `n` commands. -/
def State.advance (s : State) (p ctx n : Nat) : State :=
  if isRing ctx then s.setFld (CAM_RING_HEAD_HEAD p (ctx - 32)) (s.fld (CAM_RING_HEAD_HEAD p (ctx - 32)) + n)
  else s.setFld (CAM_HOST_W7_POS p ctx) (s.fld (CAM_HOST_W7_POS p ctx) + n)

/-- VXE_KS_STEP and the shard scalars shown are those of the shard issuing now (Table 3.11, Table 5.6). -/
def State.showShard (s : State) (p ctx : Nat) : State :=
  if isRing ctx then s else
  let s := s.setFld (VXE_KS_STEP_STEP p) (s.fld (CAM_HOST_W6_STEP p ctx))
  { s with issuing := storeSet 0 s.issuing p ctx }

/-- The record of an issued command. -/
def issuedOf (c : Cmd) (step : Nat) (engines : List Nat) (sput : Nat) (psn done : Bool) : Issued :=
  ⟨c.p, c.ctx, c.idx, c.d, step, engines, sput, psn, done, false⟩

/-- A command enters its first stage: BEGIN on each engine (R536). -/
def State.pushIssued (s : State) (i : Issued) : State :=
  let s := { s with inflight := s.inflight ++ [i] }
  i.engines.foldl (fun t e => t.traceCmd i.part false e i.ctx i.idx (dLayer i.desc) (dOper i.desc) i.step false false) s

/-- A poisoned fetch kills the context (R390). -/
def State.fetchKill (s : State) (p ctx : Nat) : State :=
  let c := s.cmdAt p ctx (s.ctxPos p ctx)
  (s.cmdRecord c (unitId p 0x11) 8 flKilled (0x14 + 0 * 2 ^ 32)).killCtx p ctx c.idx 7 0

/-- First hold of a due command, kept as the cause its slip is attributed to. -/
def State.noteHold (s : State) (c : Cmd) (h : Nat × Nat × Nat × Nat) : State :=
  if s.holds.any (fun x => x.part == c.p && x.ctx == c.ctx && x.idx == c.idx) then s
  else { s with holds := s.holds ++ [⟨c.p, c.ctx, c.idx, h.1, h.2.1, h.2.2.1, h.2.2.2, false⟩] }

/-- The attempt to issue the next command of a context, when it is of the class a test names: a poisoned fetch kills,
a malformed descriptor waits for MALFORMED_DESCRIPTOR_HALT, a held command keeps its first cause, and otherwise `run`
performs it. `n` is how many descriptors issue together. -/
def State.tryIssue (s : State) (p ctx : Nat) (isClass : Nat → Bool) (pair : Bool) (run : Cmd → State → State) : State :=
  if !s.ctxReady p ctx then s else
  let i := s.ctxPos p ctx
  let c := s.cmdAt p ctx i
  if s.fetchPsn p ctx i || (pair && s.fetchPsn p ctx (i + 1)) then s.fetchKill p ctx
  else if !isClass c.d || s.reasonAt p ctx i != 0 then s
  else
    let c2 := s.cmdAt p ctx (i + 1)
    if pair && s.reasonAt p ctx (i + 1) != 0 then s
    else if !s.isDue p ctx c.d || (pair && !s.isDue p ctx c2.d) then s
    else
      let h := match s.holdCause p ctx c.d with
        | some h => some h
        | none => if pair then s.holdCause p ctx c2.d else none
      match h with
      | some h => s.noteHold c h
      | none =>
        let eff := if pair then max (s.effOffset p ctx c.d) (s.effOffset p ctx c2.d) else s.effOffset p ctx c.d
        let s := (s.noteSlip p ctx i eff).advance p ctx (if pair then 2 else 1)
        run c (s.showShard p ctx)

/-! ## Completion (R169) -/

/-- Bumps of a completing command (Table 6.3). -/
def State.applySig (s : State) (p ctx g : Nat) : State :=
  if sigEn g then s.bump p ((s.tumWin p ctx).1 + sigTumbler g) (sigInc g) s.gid p true else s

/-- END records of a command on the engines it ran on. -/
def State.traceEnds (s : State) (i : Issued) (killed : Bool) : State :=
  i.engines.foldl (fun t e => t.traceCmd i.part true e i.ctx i.idx (dLayer i.desc) (dOper i.desc) i.step killed i.psn) s

/-- Completion of an issued command: its END records, and its bumps unless its context was killed. The matrix
command of a stream pair bumps nothing (R152). -/
def State.completeCmd (s : State) (i : Issued) : State :=
  let s := { s with inflight := s.inflight.erase i }
  let s := s.traceEnds i i.killed
  if i.killed || (isMatrix i.desc) then s
  else (s.applySig i.part i.ctx (dSig i.desc 0)).applySig i.part i.ctx (dSig i.desc 1)

/-- COMMAND_COMPLETE. -/
def execCommandComplete (p ctx idx : Nat) (s : State) : Host.Outcome State Fault Refusal :=
  match s.inflight.find? (fun i => i.part == p && i.ctx == ctx && i.idx == idx && i.done) with
  | none => .next s
  | some i =>
    let s := s.completeCmd i
    -- engines without further work
    let busy := (List.range 6).filter (fun e => s.inflight.any (fun (x : Issued) => x.part == p && x.engines.contains e))
    let s := s.setFld (MXE_STATUS_BUSY p) (busy.foldl (fun m e => m + 2 ^ e) 0)
    let s := s.setFld (UPD_STATUS_BUSY p) (if s.inflight.any (fun x => x.part == p && x.engines.contains 6) then 1 else 0)
    -- an update command that has completed makes every preload of the partition stale (R107)
    .next (if dClass i.desc = 3 then
      { s with updDone := storeSet false s.updDone (s.jobOf p) true, preload := s.preload.map (fun c => if c.1 / 8 = p then (c.1, c.2.map (fun (x : Preload) => { x with stale := true })) else c) }
      else s)

/-- CMD_NOP: completes at issue (R150). -/
def execCmdNop (p ctx : Nat) (s : State) : Host.Outcome State Fault Refusal :=
  .next (s.tryIssue p ctx (fun d => dClass d == 0) false (fun c t =>
    (t.applySig p ctx (dSig c.d 0)).applySig p ctx (dSig c.d 1)))

/-- MALFORMED_DESCRIPTOR_HALT (R160): the head of the queue, or the stream command the head pairs with. -/
def execMalformedDescriptorHalt (p ctx : Nat) (s : State) : Host.Outcome State Fault Refusal :=
  if !s.ctxReady p ctx then .next s else
  let i := s.ctxPos p ctx
  let r0 := s.reasonAt p ctx i
  let (k, r) := if r0 = 0 && isMatrix (s.descAt p ctx i) then (i + 1, s.reasonAt p ctx (i + 1)) else (i, r0)
  if r = 0 || s.psn (s.descDatum p ctx k) then .next s else
  let s := if isRing ctx then s.setFld (CAM_RING_CTRL_STATE p (ctx - 32)) 2 else
    let replay := s.fld (CAM_HOST_W0_STATE p ctx) = 3 && decide (s.jobOf p < 8)
    let s := s.setFld (CAM_HOST_W0_STATE p ctx) 5
    if replay then s.meetRollback (s.jobOf p) 5 else s
  let s := if s.flag (CAM_FAULT_CAP0_VALID p) then s else
    (((s.setFld (CAM_FAULT_CAP0_DESC_INDEX p) k).setFld (CAM_FAULT_CAP0_CONTEXT p) ctx).setFld
      (CAM_FAULT_CAP0_VALID p) 1).setFld (CAM_FAULT_CAP1_REASON p) r
  let s := s.flagN (CAM_STATUS_MALFORMED p) p 0x100 1
  .next (s.cmdRecord (s.cmdAt p ctx k) (unitId p 0x11) 8 0 r)

/-- WAIT_TIMEOUT (R177): one event for a command held longer than WAIT_TIMEOUT past its due cycle. -/
def execWaitTimeout (p ctx : Nat) (s : State) : Host.Outcome State Fault Refusal :=
  let i := s.ctxPos p ctx
  let d := s.descAt p ctx i
  let lim := s.fld (CAM_WAIT_TIMEOUT_WAIT_TIMEOUT p)
  if lim = 0 || !s.ctxReady p ctx || s.reasonAt p ctx i != 0 || !s.isDue p ctx d then .next s else
  if (s.stepCycles p - s.effOffset p ctx d) ≤ lim * s.jobMhz p then .next s else
  match s.holdCause p ctx d with
  | none => .next s
  | some h =>
    let s := s.noteHold ⟨p, ctx, i, d⟩ h
    if s.holds.any (fun x => x.part == p && x.ctx == ctx && x.idx == i && x.reported) then .next s else
    let s := { s with holds := s.holds.map (fun (x : HoldRec) =>
      if x.part = p ∧ x.ctx = ctx ∧ x.idx = i then { x with reported := true } else x) }
    .next ((s.flagN (CAM_STATUS_WAIT_TIMEOUT_SEEN p) p 0x102 1).event (CAM_STATUS_WAIT_TIMEOUT_SEEN p) (unitId p 0x11) (s.jobOf p))

/-- TMB_VALUE_WRITE (R167, R188). -/
def State.tmbValueWrite (s : State) (p n v : Nat) : State :=
  let live : Bool := match s.tumOwner p n with
    | some c => if isRing c then s.fld (CAM_RING_CTRL_STATE p (c - 32)) == 1
                else s.fld (CAM_HOST_W0_STATE p c) == 2 || s.fld (CAM_HOST_W0_STATE p c) == 3
    | none => false
  if live then (s.flagN (TMB_STATUS_WRITE_REFUSED p) p 0x104 1)
  else ((((s.setFld (TMB_VALUE_VALUE p n) v).setFld (TMB_SRC_MODULE p n) s.gid).setFld (TMB_SRC_PART p n) 0xF).setFld
    (TMB_SRC_LOCAL p n) 0)

/-! ## Command rings (R185) -/

/-- RING_DOORBELL: a TAIL write. -/
def State.ringDoorbell (s : State) (p m v : Nat) : State :=
  if s.flag (CAM_RING_CTRL_ENABLE p m) && s.fld (CAM_RING_CTRL_STATE p m) == 1 then
    (s.setFld (CAM_RING_TAIL_TAIL p m) v)
  else (s.count p 0x103 1)

/-- Whether a ring's window overlaps that of another context in use, or leaves the bank (R162). -/
def State.ringOverlap (s : State) (p m : Nat) : Bool :=
  let w := s.tumWin p (32 + m)
  decide (w.2 = 0) || decide (w.1 + w.2 > 4096) ||
  (List.range 36).any (fun c => c != 32 + m && s.ctxInUse p c &&
    (let v := s.tumWin p c; decide (w.1 < v.1 + v.2) && decide (v.1 < w.1 + w.2)))

/-- RING_ENABLE: ENABLE = 1. -/
def State.ringEnable (s : State) (p m : Nat) : State :=
  if s.flag (CAM_RING_CTRL_ENABLE p m) then s
  else if s.ringOverlap p m then (s.setFld (CAM_RING_CTRL_ENABLE_ERR p m) 1)
  else ((s.setFld (CAM_RING_CTRL_ENABLE p m) 1).setFld (CAM_RING_CTRL_STATE p m) 1)

/-- RING_DISABLE: ENABLE = 0; a halted ring leaves its halt with HEAD := TAIL (R187). -/
def State.ringDisable (s : State) (p m : Nat) : State :=
  let s := if s.fld (CAM_RING_CTRL_STATE p m) = 2 then
    s.setFld (CAM_RING_HEAD_HEAD p m) (s.fld (CAM_RING_TAIL_TAIL p m)) else s
  ((s.setFld (CAM_RING_CTRL_ENABLE p m) 0).setFld (CAM_RING_CTRL_STATE p m) 0)

end Sys2Proof.Machine
end

