-- ==== Sys2Proof/Machine/Fabric.lean ====
section
/-! DEFINITION. Flow contexts, destination and rekey tables, the send log, the forming of packets, and SEND
(chapter 09, chapter 12 "Send logs"). -/
namespace Sys2Proof.Machine

/-! ## Flow contexts (Table 9.10) -/

def fcKind (n : Nat) : Fld := ⟨FLW_CTX n, 0, 2⟩
def fcClass (n : Nat) : Fld := ⟨FLW_CTX n, 2, 3⟩
def fcV3 (n : Nat) : Fld := ⟨FLW_CTX n, 5, 1⟩
def fcLog (n : Nat) : Fld := ⟨FLW_CTX n, 6, 1⟩
def fcJob (n : Nat) : Fld := ⟨FLW_CTX n, 7, 3⟩
def fcPlane (n : Nat) : Fld := ⟨FLW_CTX n, 10, 3⟩
def fcAuto (n : Nat) : Fld := ⟨FLW_CTX n, 13, 1⟩
def fcMask (n : Nat) : Fld := ⟨FLW_CTX n, 14, 6⟩
def fcSrck (n : Nat) : Fld := ⟨FLW_CTX n, 20, 1⟩
def fcSrc (n : Nat) : Fld := ⟨FLW_CTX n + 4, 0, 24⟩
def fcDst (n : Nat) : Fld := ⟨FLW_CTX n + 8, 0, 24⟩
def fcPeer (n : Nat) : Fld := ⟨FLW_CTX n + 12, 0, 14⟩
def fcSeq (n : Nat) : Fld := ⟨FLW_CTX n + 16, 0, 24⟩
def fcOut (n : Nat) : Fld := ⟨FLW_CTX n + 20, 0, 10⟩
def fcGap (n : Nat) : Fld := ⟨FLW_CTX n + 24, 0, 32⟩

/-- WINDOW of a receive context as a number of 512 bits. -/
def State.fcWindow (s : State) (n : Nat) : Nat :=
  (List.range 16).foldl (fun v i => v + (s.reg (FLW_CTX n + 64 + 4 * i)).toNat * 2 ^ (32 * i)) 0
def State.setFcWindow (s : State) (n v : Nat) : State :=
  forRange 16 (fun i t => t.setReg (FLW_CTX n + 64 + 4 * i) (BitVec.ofNat 32 (v / 2 ^ (32 * i)))) s

/-- Sequence numbers of a flow are taken modulo 2^24, or 2^16 for version 3. -/
def State.fcSeqBits (s : State) (n : Nat) : Nat := if s.flag (fcV3 n) then 16 else 24

/-! ## Hub tables (Table 9.11, Table 9.12, R270, R393) -/

/-- A word of a hub table met uncorrectable (R393): it is rewritten from the shadow when that holds the same entry,
else it is poisoned; a FABRIC record of kind 0x05 either way. `a` is the address of the word in its window. -/
def State.tableError (s : State) (a : Nat) : State :=
  let same := decide (0xA00000 ≤ a) && !s.flag FAB_TBL_CTRL_COPY_BUSY && s.reg a == s.reg (act a)
  let s := s.detect (if 0x1000000 ≤ a then 0x0300 else
      0x0200 + (if a < 0xA00000 then 0 else if a < 0xC00000 then 1 + (a - 0xA00000) / 0x40000 else 7))
    0x0A (if same then flCorrected else 0) 0xFFFFFF 0x3F 0 0 8 (0x1F + 5 * 2 ^ 16)
  if same then s else { s with tblBad := storeSet false s.tblBad a true }

/-- The words the surroundings found uncorrectable. -/
def State.tableErrors (s : State) (l : List Nat) : State := l.foldl State.tableError s

/-- A hub table word of the bank in force; none where it is poisoned. -/
def State.tblWord (s : State) (a : Nat) : Option Nat :=
  if storeGet false s.tblBad a then none else some (s.reg (act a)).toNat

/-- Destination entry of a module on a plane; none at a miss. -/
def State.destEntry (s : State) (plane gid : Nat) : Option Nat :=
  match s.tblWord (FLW_DEST plane (gid % 65536)) with
  | some w => if bitAt w 0 && bits w 8 20 == gid then some w else none
  | none => none

/-- Rekey entry of a logical shard of a job slot; none at a miss. -/
def State.rekey (s : State) (j lsid : Nat) : Option Nat :=
  match s.tblWord (FLW_REKEY j (lsid % 65536)), s.tblWord (FLW_REKEY j (lsid % 65536) + 4) with
  | some lo, some hi =>
    let w := lo + hi * 2 ^ 32
    if bitAt w 53 && bits w 0 24 == lsid then some w else none
  | _, _ => none

def rkGid (w : Nat) : Nat := bits w 24 20
def rkPart (w : Nat) : Nat := bits w 44 4
def rkEntry (w : Nat) : Nat := bits w 48 5

/-! ## Ports and routes (R241, R266) -/

/-- Whether port `q` is UP. -/
def State.portUp (s : State) (q : Nat) : Bool := s.fld (FAB_PORT_STATUS_STATE q) == 3

/-- Port of plane `k` toward a module: the one its destination entry names, else the lowest UP port of the group. -/
def State.planePort (s : State) (k gid : Nat) : Option Nat :=
  match s.destEntry k gid with
  | some w =>
    if !bitAt w 1 then none
    else if s.portUp (4 * k + bits w 2 2) then some (4 * k + bits w 2 2)
    else ((List.range 4).map (fun i => 4 * k + i)).find? s.portUp
  | none => none

/-- Planes of a mask in ascending order from the one after `k`, wrapping, `k` last. -/
def planesAfter (mask k : Nat) : List Nat :=
  ((List.range 6).map (fun i => (k + 1 + i) % 6)).filter (fun p => bitAt mask p)

/-- Port on which a flow can leave as it stands: on its plane, else on the next plane that qualifies (R266). -/
def State.flowRoute (s : State) (n gid : Nat) : Option (Nat × Nat) :=
  let k := s.fld (fcPlane n)
  match (if k < 6 then s.planePort k gid else none) with
  | some q => some (k, q)
  | none =>
    (planesAfter (s.fld (fcMask n)) (k % 6)).findSome? (fun p => (s.planePort p gid).map (fun q => (p, q)))

/-- Port for a message without a flow context: the lowest plane that reaches its destination. -/
def State.msgRoute (s : State) (gid : Nat) : Option (Nat × Nat) :=
  (List.range 6).findSome? (fun p => (s.planePort p gid).map (fun q => (p, q)))

/-- PATH of a destination on a plane. -/
def State.pathOf (s : State) (k gid : Nat) : Nat :=
  match s.destEntry k gid with
  | some w => bits w 4 4
  | none => 0

/-! ## Send logs (R364 to R366) -/

/-- Send log region of a partition: base and length in units (Table 7.4). -/
def State.logRegion (s : State) (p : Nat) : Nat × Nat := (s.regionOf p 7).getD (0, 0)

/-- Units in use of a log. -/
def State.logUsed (s : State) (p : Nat) : Nat :=
  let l := (s.logRegion p).2
  if l = 0 then 0 else (s.fld (RCV_LOG_TAIL_TAIL p) + l - s.fld (RCV_LOG_HEAD_HEAD p)) % l

/-- Units that the log of a partition may hold: its region, or the quota in force (R524). -/
def State.logLimit (s : State) (p : Nat) : Nat :=
  let l := (s.logRegion p).2
  let m := s.fld (actFld (PWR_J_LIMIT_LOG_MIB (s.jobOf p)))
  if s.jobOf p = 8 || m = 0 then l else min l (m * 16384)

/-- Whether logging has stopped for a job slot: a log of it is broken and no trim has freed space yet. -/
def State.logStopped (s : State) (j : Nat) : Bool :=
  (List.range 8).any (fun p => s.jobOf p == j && s.flag (RCV_LOG_USE_BROKEN p))

/-- Datum of log unit `i` of a partition. -/
def State.logDatum (s : State) (p i : Nat) : Nat :=
  let (b, l) := s.logRegion p
  hbmDatum p (b + i % max l 1)

/-- Content of one log record without its payload (Table 12.6). -/
def logHead (hdr step flow units : Nat) (pay : List Nat) : Nat :=
  let b := hdr + step % 2 ^ 32 * 2 ^ 256 + flow * 2 ^ 288 + units * 2 ^ 304
  b + crc32c (leBytes 60 b ++ pay) * 2 ^ 480

/-- PERCENT and OLDEST of a log as they stand. -/
def State.logShow (s : State) (p : Nat) : State :=
  let l := (s.logRegion p).2
  let s := s.setFld (RCV_LOG_USE_PERCENT p) (if l = 0 then 0 else s.logUsed p * 100 / l)
  s.setFld (RCV_LOG_OLDEST_STEP p)
    (if s.logUsed p = 0 then 0 else bits (s.rdBytes (64 * s.logDatum p (s.fld (RCV_LOG_HEAD_HEAD p))) 64) 256 32)

/-- SEND_LOG_WRITE, or SEND_LOG_FULL where the record does not fit. -/
def State.logWrite (s : State) (p j step flow hdr : Nat) (pay : List Nat) (psn : Nat) : State :=
  if s.logStopped j then s else
  let units := (pay.length + 63) / 64
  let l := (s.logRegion p).2
  if l ≤ s.logUsed p + 1 + units || s.logLimit p < s.logUsed p + 1 + units then
    let s := (s.setFld (RCV_LOG_USE_BROKEN p) 1).setFld (RCV_J_STATUS_LOG_FULL j) 1
    { s with logBroken := s.logBroken ++ [(p, step, 0xFFFFFFFF)] }
  else
    let t := s.fld (RCV_LOG_TAIL_TAIL p)
    let v := pay.toArray
    let s := s.wrDatum (s.logDatum p t) (logHead hdr step flow units pay) false
    let s := forRange units (fun i x => x.wrDatum (x.logDatum p (t + 1 + i))
      (leNat ((List.range 64).map (fun k => v.getD (64 * i + k) 0))) (bitAt psn i)) s
    ((s.setFld (RCV_LOG_TAIL_TAIL p) ((t + 1 + units) % l)).logShow p).count p 0x230 1

/-! ## Forming packets (R260, R262, R361, R364) -/

/-- Whether packets toward a logical shard are diverted into the log (R361). -/
def State.diverted (s : State) (j lsid : Nat) : Bool :=
  bitAt (s.fld (RCV_J_DIVERT_DIVERT j (lsid % 65536 / 32))) (lsid % 32)

/-- Whether an entry replays a step before the target (R361). -/
def State.replayingPast (s : State) (p ctx j : Nat) : Bool :=
  !isRing ctx && s.fld (CAM_HOST_W0_STATE p ctx) == 3 &&
    decide (s.fld (CAM_HOST_W6_STEP p ctx) < s.fld (RCV_J_TARGET_STEP j))

/-- A logged packet sent again toward the current host of its receiver: GEN, DST and PATH current, RSND = 1 (R362). -/
def State.feedRecord (s : State) (p j flow hdr : Nat) (pay : List Nat) (psn : Nat) : State :=
  let h := Hdr.dec hdr
  match s.rekey j h.lsid with
  | none => s
  | some w =>
    let dst := rkGid w
    let path := if dst = s.gid then 0 else s.pathOf (s.fld (fcPlane flow)) dst
    let h := { h with rsnd := 1, gen := s.fld (FAB_JOB_GEN_GEN j), dst := dst, path := path, psn := psn }
    (s.count p 0x231 1).sendPkt ⟨h.enc, pay⟩ (some flow) s.ftime none

/-- Whether a standing request asks for a record of a step toward a receive context. -/
def State.feedAsked (s : State) (j lsid ctx step : Nat) : Bool :=
  s.feeds.any (fun f => f.job == j && f.lsid == lsid && f.ctx == ctx && f.step == step)

/-- One packet on a send context: it takes the next SEQ, is logged where LOG is set, and is sent unless Table 12.4
holds it back (R262, R361, R364). -/
def State.formPacket (s : State) (c : Cmd) (flow tumbler offset : Nat) (pay : List Nat) (psn : Nat) : State :=
  let j := s.fld (fcJob flow)
  let lsid := s.fld (fcDst flow)
  match s.rekey j lsid with
  | none => s
  | some w =>
    let dst := rkGid w
    let v3 := s.flag (fcV3 flow)
    let seq := s.fld (fcSeq flow)
    let cls := s.fld (fcClass flow)
    let path := if dst = s.gid || v3 then 0 else s.pathOf (s.fld (fcPlane flow)) dst
    let h := Hdr.enc ⟨if v3 then 3 else 4, cls, 0, dst, s.gid, s.fld (fcPeer flow), s.fld (FAB_JOB_GEN_GEN j), seq,
      tumbler, (pay.length + 63) / 64, dLayer c.d, dOper c.d, psn, pay.length, path, lsid, offset,
      if v3 then 0 else c.p⟩
    let s := s.setFld (fcSeq flow) ((seq + 1) % 2 ^ s.fcSeqBits flow)
    let s := if s.flag (fcLog flow) then s.logWrite c.p j (s.stepOf c) flow h pay psn else s
    let fed := s.flag (fcLog flow) && !s.logStopped j && s.feedAsked j lsid (s.fld (fcPeer flow)) (s.stepOf c)
    let s := if fed then s.feedRecord c.p j flow h pay psn else s
    if s.diverted j lsid || s.replayingPast c.p c.ctx j then s
    else
      let s := if dst ≠ s.gid && (s.flowRoute flow dst).isNone then s.setFld FAB_RX_STATUS_NO_ROUTE 1 else s
      s.sendPkt ⟨h, pay⟩ (some flow) (if cls = 0 then (s.ftime / 1024 + 1) * 1024 else s.ftime) (some (c.p, c.ctx, c.idx))

/-- Bits of a list, first lowest. -/
def maskOf (l : List Bool) : Nat := l.zipIdx.foldl (fun m b => if b.1 then m + 2 ^ b.2 else m) 0

/-- A transfer of whole units cut into packets of eight (R262). Nothing is formed for a context that is stopped
(R388). -/
def State.sendUnits (s : State) (c : Cmd) (flow tumbler off : Nat) (pay : List Nat) (psn : List Bool) : State :=
  if s.ctxDead c.p c.ctx then s else
  let n := pay.length / 64
  forRange ((n + 7) / 8) (fun i t =>
    t.formPacket c flow tumbler (off + 8 * i) ((pay.drop (512 * i)).take 512) (maskOf ((psn.drop (8 * i)).take 8))) s

/-- Whether a command still has packets that have not left a port or been accepted. -/
def State.hasPackets (s : State) (k : Nat × Nat × Nat) : Bool :=
  s.txq.any (fun x => x.cmd == some k && x.port.isNone) || s.intq.any (fun x => x.cmd == some k)

/-- A command whose packets have all left and that the collective engine does not hold is done (R155, R303). -/
def State.settleCmd (s : State) (k : Nat × Nat × Nat) : State :=
  if s.hasPackets k || s.colls.any (fun x => x.part == k.1 && x.ctx == k.2.1 && x.idx == k.2.2) then s
  else { s with inflight := s.inflight.map (fun (i : Issued) =>
    if i.part = k.1 ∧ i.ctx = k.2.1 ∧ i.idx = k.2.2 then { i with done := true } else i) }

/-! ## SEND (R154, R262, R263) -/

def sdLsid (d : Nat) : Nat := dOp d 0 24
def sdTumbler (d : Nat) : Nat := dOp d 24 12
def sdClass (d : Nat) : Nat := dOp d 36 4
def sdFlow (d : Nat) : Nat := dOp d 48 14
def sdSrc (d : Nat) : Nat := dOp d 64 32
def sdOff (d : Nat) : Nat := dOp d 96 32
def sdLen (d : Nat) : Nat := dOp d 128 32

/-- The check of R263 at issue. -/
def State.sendOk (s : State) (c : Cmd) : Bool :=
  let f := sdFlow c.d
  let j := s.jobOf c.p
  !storeGet false s.tblBad (FLW_CTX f) && s.fld (fcKind f) == 1 && s.fld (fcJob f) == j && s.fld (fcDst f) == sdLsid c.d && s.fld (fcClass f) == sdClass c.d &&
    (s.rekey j (sdLsid c.d)).isSome

/-- A SEND that has issued. -/
def State.sendRun (s : State) (c : Cmd) (env : CmdEnv) : State :=
  let s := s.tableErrors env.tbl
  let u := unitId c.p 0x75
  if !s.sendOk c then
    ((s.cmdRecord c u 8 flKilled (0x11 + sdFlow c.d * 2 ^ 32)).killCtx c.p c.ctx c.idx 4 0).pushIssued
      (issuedOf c (s.stepOf c) [0xA] 0 false true)
  else
    let n := sdLen c.d
    let rs : List Rng := [⟨sdSrc c.d, n, false⟩]
    let s := s.applyEnv c u rs env
    let s := s.noteRanges c u rs
    let pay := (List.range (64 * n)).map (s.cmdByte c.p c.ctx (sdSrc c.d))
    let psn := (List.range n).map (fun i => s.cmdPsn c.p c.ctx (sdSrc c.d + i))
    let s := s.pushIssued (issuedOf c (s.stepOf c) [0xA] 0 (psn.any id) false)
    ((s.sendUnits c (sdFlow c.d) (sdTumbler c.d) (sdOff c.d) pay psn).settleCmd (c.p, c.ctx, c.idx)).endEnv

/-- CMD_SEND. -/
def execCmdSend (p ctx : Nat) (env : CmdEnv) (s : State) : Host.Outcome State Fault Refusal :=
  .next (s.tryIssue p ctx (fun d => dClass d == 5) false (fun c t => t.sendRun c env))

end Sys2Proof.Machine
end

