-- ==== Sys2Proof/Machine/Collective.lean ====
section
/-! DEFINITION. The collective engine (chapter 10, R295 to R303). -/
namespace Sys2Proof.Machine

/-! ## Fields of a COLL (Table 10.2) -/

def clOp (d : Nat) : Nat := dOp d 0 2
def clRed (d : Nat) : Nat := dOp d 2 2
def clRing (d : Nat) : Bool := dOp d 4 2 == 1
def clFp32 (d : Nat) : Bool := dOp d 6 1 == 1
def clIfmt (d : Nat) : Nat := dOp d 8 4
def clW (d : Nat) : Int := signedOf (dOp d 12 10) 10
def clGroup (d : Nat) : Nat := dOp d 32 12
def clRtumb (d : Nat) : Nat := dOp d 44 12
def clFlow (d : Nat) : Nat := dOp d 64 14
def clSrc (d : Nat) : Nat := dOp d 96 32
def clCount (d : Nat) : Nat := dOp d 128 32
def clStage (d : Nat) : Nat := dOp d 160 32

/-- Unit identifier of the collective engine (Table 2.7). -/
def colUnit : Nat := 0x0300

/-- Bytes of an element. -/
def fmtBytes (f : Nat) : Nat := elemBits f / 8

/-- First element of slice `s` of `n` elements over `p` ranks. -/
def sliceLo (n p s : Nat) : Nat := n * s / p
/-- Elements of the longest slice; COUNT for an all-gather (R300). -/
def clS (d p : Nat) : Nat := if clOp d = 1 then clCount d else (clCount d + p - 1) / p
/-- Units of a padded portion of elements of `b` bytes. -/
def portionUnits (d p b : Nat) : Nat := (clS d p * b + 63) / 64
def clU1 (d p : Nat) : Nat := portionUnits d p (fmtBytes (clIfmt d))
def clU2 (d p : Nat) : Nat := portionUnits d p (fmtBytes (ocFmt (dOcvt d)))
def clUR (d p : Nat) : Nat := portionUnits d p (if clFp32 d then 4 else 16)

/-- Members of a group by rank, in the bank in force (R295, R393). -/
def State.colMembers (s : State) (j g : Nat) : List Nat :=
  match s.tblWord (COL_GHDR_W0 j g), s.tblWord (COL_GHDR_W1 j g) with
  | some b, some n =>
    (List.range (min (bits n 0 13) 4096)).filterMap (fun i =>
      (s.tblWord (COL_MEMBER ((bits b 0 17 + i) % 131072))).map (fun w => bits w 0 24))
  | _, _ => []

/-- Logical shard identifier of a hosting entry. -/
def State.lsidOf (s : State) (p e : Nat) : Nat := s.fld (CAM_HOST_W0_LSID p e)

/-! ## Elements under combination -/

/-- One element as the engine combines it: an ES96 value or an FP32 word, with its poison. -/
structure ColVal where
  e : Es96
  w : Nat
  psn : Bool
  deriving DecidableEq, Repr

/-- Element `i` of an array of format `fmt` at unit address `a`, as it enters the combination (R301). -/
def State.colIn (s : State) (p ctx d a fmt i : Nat) : ColVal :=
  if fmt = 0xB then
    ⟨s.rdEs96 p ctx a i, 0, s.cmdPsn p ctx (a + i / 4)⟩
  else
    let v := decodeElem fmt (s.rdElem p ctx a fmt i)
    ⟨es96In (clW d) v, rne32 v, s.elemPsn p ctx a fmt i⟩

/-- Combination of two values (R86, R132, R301). -/
def colOp (d : Nat) (a b : ColVal) : ColVal :=
  if clFp32 d then
    ⟨a.e, if clRed d = 0 then f32Add a.w b.w else if clRed d = 1 then f32Max a.w b.w else f32Min a.w b.w, a.psn || b.psn⟩
  else ⟨es96Add a.e b.e, 0, a.psn || b.psn⟩

/-- Neighbours `i` and `i + span` of the fold combined (R301). -/
def foldSpan (d span : Nat) (l : List ColVal) : List ColVal :=
  l.zipIdx.map (fun x => if x.2 % (2 * span) = 0 then
    (match l[x.2 + span]? with | some y => colOp d x.1 y | none => x.1) else x.1)

/-- The fold in rank order: `f` doublings of the span. -/
def foldRanks (d : Nat) : Nat → Nat → List ColVal → List ColVal
  | 0, _, l => l
  | f + 1, span, l => if span < l.length then foldRanks d f (2 * span) (foldSpan d span l) else l

/-- The combination of all ranks' contributions of one element. -/
def colCombine (d : Nat) (l : List ColVal) : ColVal := (foldRanks d 13 1 l).getD 0 ⟨⟨0, 0, false⟩, 0, false⟩

/-- Exact value of a finished element. -/
def colVal (d : Nat) (v : ColVal) : FVal := if clFp32 d then f32 v.w else es96Val (clW d) v.e

/-- Encoding of finished elements, the first with element index `c0`, under OCVT. -/
def State.colEncode (s : State) (c : Cmd) (step c0 : Nat) (vs : List ColVal) : List Nat × CvtN :=
  let o := dOcvt c.d
  if ocFmt o = 0xB then
    (vs.flatMap (fun v => leBytes 16 (es96Code (if clFp32 c.d then es96In (clW c.d) (f32 v.w) else v.e))), {})
  else
    let entry := s.ttabAt c.p c.ctx (dTslot c.d)
    let r := vs.zipIdx.map (fun v =>
      encElem o (if ocRnd o = 2 then s.ksBits c.p step entry (c0 + v.2) else 0) (colVal c.d v.1))
    (r.flatMap (fun x => leBytes (fmtBytes (ocFmt o)) x.1), r.foldl (fun a x => a.add x.2) {})

/-! ## Flags (Table 10.7) -/

/-- First event into COL_CAP0 to COL_CAP2. -/
def State.colCapture (s : State) (c : Cmd) : State :=
  if s.flag COL_CAP0_VALID then s else
  (((((((s.setFld COL_CAP0_DESC_INDEX c.idx).setFld COL_CAP0_CONTEXT c.ctx).setFld COL_CAP0_VALID 1).setFld
    COL_CAP1_PART c.p).setFld COL_CAP1_JOB (s.jobOf c.p)).setFld COL_CAP1_GROUP (clGroup c.d)).setFld
    COL_CAP2_LAYER (dLayer c.d)).setFld COL_CAP2_OPERATOR (dOper c.d)

/-- RANK_MISS or FLOW_MISMATCH (R298). -/
def State.colMiss (s : State) (c : Cmd) (f : Fld) (reason value : Nat) : State :=
  (((s.setFld f 1).colCapture c).cmdRecord c colUnit 8 flKilled (reason + value * 2 ^ 32)).killCtx c.p c.ctx c.idx 5 0

/-- Range fault of a collective (R89, R302). -/
def State.colRange (s : State) (c : Cmd) (high : List FVal) (count : Bool) : State :=
  let nonfin := high.any (fun v => !v.isFin)
  let need := (amaxLog (high.filter (·.isFin))).getD 0 - 70
  let tensor := if dTslot c.d = 0xFFF then 0xFFFFFFFF else bits (s.ttabAt c.p c.ctx (dTslot c.d)) 0 32
  let word := dOp c.d 12 10 + (if nonfin || count then 0 else codeOf need 10) * 2 ^ 10 + (if nonfin then 2 ^ 20 else 0) +
    (if count then 2 ^ 21 else 0) + 2 ^ 31
  let s := (s.cmdRecord c colUnit 5 flPoison (tensor + word * 2 ^ 32 + 1 * 2 ^ 64)).setFld COL_STATUS_ES96_RANGE 1
  let s := s.colCapture c
  if s.flag COL_ES96_FAULT1_VALID then s
  else (s.setFld COL_ES96_FAULT0_TENSOR tensor).setReg COL_ES96_FAULT1 (BitVec.ofNat 32 word)

/-! ## Portions (R300) -/

/-- Unit address of the issuing entry's staging area at offset `o`, in the receive sub-space. -/
def stageAddr (d o : Nat) : Nat := 5 * 2 ^ 28 + (clStage d + o) % 2 ^ 28

/-- Bytes padded with zeros to `u` units. -/
def padTo (u : Nat) (l : List Nat) : List Nat := l ++ List.replicate (64 * u - l.length) 0

/-- Poison by unit of packed elements of `b` bytes. -/
def unitPoison (u b : Nat) (pe : List Bool) : List Bool :=
  let a := pe.toArray
  (List.range u).map (fun i => outPoison a b i)
where
  /-- whether unit `i` holds a byte of a poisoned element -/
  outPoison (a : Array Bool) (b i : Nat) : Bool :=
    (List.range ((64 * i + 63) / b + 1 - 64 * i / b)).any (fun k => a.getD (64 * i / b + k) false)

/-- A portion of own input: elements `lo` to `hi - 1` as they stand. -/
def State.ownPortion (s : State) (c : Cmd) (lo hi u : Nat) : List Nat × List Bool :=
  let f := clIfmt c.d
  let b := fmtBytes f
  (padTo u ((List.range ((hi - lo) * b)).map (fun i => s.cmdByte c.p c.ctx (clSrc c.d) (lo * b + i))),
   unitPoison u b ((List.range (hi - lo)).map (fun i => s.elemPsn c.p c.ctx (clSrc c.d) f (lo + i))))

/-- A partial on its way round a ring. -/
def partialPortion (d u : Nat) (vs : List ColVal) : List Nat × List Bool :=
  let b := if clFp32 d then 4 else 16
  (padTo u (vs.flatMap (fun v => leBytes b (if clFp32 d then v.w else es96Code v.e))), unitPoison u b (vs.map (·.psn)))

/-- A staged portion forwarded as it stands. -/
def State.stagedPortion (s : State) (c : Cmd) (o u : Nat) : List Nat × List Bool :=
  ((List.range (64 * u)).map (s.cmdByte c.p c.ctx (stageAddr c.d o)),
   (List.range u).map (fun i => s.cmdPsn c.p c.ctx (stageAddr c.d o + i)))

/-- A portion sent on a send context to staging offset `o` of its receiver. -/
def State.sendPortion (s : State) (c : Cmd) (flow o : Nat) (x : List Nat × List Bool) : State :=
  s.sendUnits c flow (clRtumb c.d) (clStage c.d + o) x.1 x.2

/-! ## Stages of a collective (Table 10.4) -/

/-- Stages a form goes through: targets of RTUMB that its engine waits for. -/
def colStages (d p : Nat) : Nat :=
  if p ≤ 1 then 0
  else if clRing d then (if clOp d = 2 then 2 * (p - 1) else p - 1)
  else if clOp d = 2 then 2 else 1

/-- Target of RTUMB of stage `t` (from 1). -/
def colTarget (d p t : Nat) : Nat :=
  if clRing d then
    (match clOp d with
     | 0 => t * clUR d p
     | 1 => t * clU1 d p
     | _ => if t ≤ p - 1 then t * clUR d p else (p - 1) * clUR d p + (t - (p - 1)) * clU2 d p)
  else if clOp d = 2 && t == 2 then (p - 1) * (clU1 d p + clU2 d p)
  else (p - 1) * clU1 d p

/-- Own contributions to elements `lo` to `hi - 1`. -/
def State.ownVals (s : State) (c : Cmd) (lo hi : Nat) : List ColVal :=
  (List.range (hi - lo)).map (fun i => s.colIn c.p c.ctx c.d (clSrc c.d) (clIfmt c.d) (lo + i))

/-- Consumption of poison by a combination, POISON_IN, and the range fault that entering or adding raises (R89,
R302, Table 13.3). `ins` are the values combined, `outs` what came of them. -/
def State.colNote (s : State) (c : Cmd) (k : Coll) (own : List FVal) (ins outs : List ColVal) : State × Bool :=
  let s := if ins.any (·.psn) then
    ((s.setFld COL_STATUS_POISON_IN 1).colCapture c).consumePoison c colUnit 2 0xFFFFFFFF else s
  if clFp32 c.d then (s, k.rf) else
  let high := own.filter (fun v => (es96In (clW c.d) v).f)
  let count := outs.any (fun v => v.e.f && v.e.n == 0xFFFFFF) && !ins.any (fun v => v.e.n == 0xFFFFFF)
  if (!high.isEmpty || count) && !k.rf then (s.colRange c high count, true) else (s, k.rf)

/-- Exact own inputs that enter ES96 here; none for ES96 inputs. -/
def State.ownExact (s : State) (c : Cmd) (lo hi : Nat) : List FVal :=
  if clIfmt c.d = 0xB then [] else
  (List.range (hi - lo)).map (fun i => decodeElem (clIfmt c.d) (s.rdElem c.p c.ctx (clSrc c.d) (clIfmt c.d) (lo + i)))

/-- Finished elements written at element `at_` of the output, with their flags (R301, R302). -/
def State.colWrite (s : State) (c : Cmd) (step c0 at_ : Nat) (vs : List ColVal) : State :=
  let b := fmtBytes (ocFmt (dOcvt c.d))
  let (l, f) := s.colEncode c step c0 vs
  let s := s.cvtFlags c.p f
  let s := if clFp32 c.d && vs.any (fun v => !isFin32 v.w) then (s.setFld COL_STATUS_NONFINITE_OUT 1).colCapture c else s
  let q := (vs.map (fun v => v.psn || (!clFp32 c.d && v.e.f))).toArray
  s.cmdPut c (dOut c.d) (at_ * b) l (fun i => q.getD (i / b) false)

/-- A slice of the output copied from a staged or own portion (R301: the other ranks receive a copy of the bits). -/
def State.colCopy (s : State) (c : Cmd) (a lo at_ n f : Nat) : State :=
  let b := fmtBytes f
  let src := s
  s.cmdPut c (dOut c.d) (at_ * b) ((List.range (n * b)).map (s.cmdByte c.p c.ctx a ∘ (· + lo * b)))
    (fun i => src.cmdPsn c.p c.ctx (a + (lo * b + i) / 64))

/-- Finished elements of slice `r` of a reduction, at its rank, where they go (R300). -/
def State.colFinish (s : State) (c : Cmd) (k : Coll) (vs : List ColVal) : State :=
  let p := k.members.length
  let lo := sliceLo (clCount c.d) p k.rank
  s.colWrite c k.step lo (if clOp c.d = 2 then lo else 0) vs

/-- Own result slice of an all-reduce as a portion of phase 2. -/
def State.resultPortion (s : State) (c : Cmd) (k : Coll) (vs : List ColVal) : List Nat × List Bool :=
  let p := k.members.length
  let b := fmtBytes (ocFmt (dOcvt c.d))
  let u := clU2 c.d p
  let (l, _) := s.colEncode c k.step (sliceLo (clCount c.d) p k.rank) vs
  (padTo u l, unitPoison u b (vs.map (fun v => v.psn || (!clFp32 c.d && v.e.f))))

/-- Portions sent when a COLL issues (R300). -/
def State.colStart (s : State) (c : Cmd) (k : Coll) : State :=
  let d := c.d
  let p := k.members.length
  let n := clCount d
  let r := k.rank
  if p ≤ 1 then
    if clOp d = 1 then s.colCopy c (clSrc d) 0 0 n (clIfmt d)
    else
      let vs := s.ownVals c 0 n
      let (s, _) := s.colNote c k (s.ownExact c 0 n) vs vs
      s.colWrite c k.step 0 0 vs
  else if clOp d = 1 then
    let u := clU1 d p
    let x := s.ownPortion c 0 n u
    let s := s.colCopy c (clSrc d) 0 (r * n) n (clIfmt d)
    if clRing d then s.sendPortion c (clFlow d) 0 x
    else forRange p (fun q t => if q = r then t else t.sendPortion c (clFlow d + q) (r * u) x) s
  else if clRing d then
    let sl := (r + p - 1) % p
    let vs := s.ownVals c (sliceLo n p sl) (sliceLo n p (sl + 1))
    let (s, _) := s.colNote c k (s.ownExact c (sliceLo n p sl) (sliceLo n p (sl + 1))) vs vs
    s.sendPortion c (clFlow d) 0 (partialPortion d (clUR d p) vs)
  else
    let u := clU1 d p
    forRange p (fun q t => if q = r then t else
      t.sendPortion c (clFlow d + q) (r * u) (t.ownPortion c (sliceLo n p q) (sliceLo n p (q + 1)) u)) s

/-- Stage `t` (from 1) of a collective once its target is reached (R300, R301). Answers the state and whether the range
fault is raised. -/
def State.colStage (s : State) (c : Cmd) (k : Coll) (t : Nat) : State × Bool :=
  let d := c.d
  let p := k.members.length
  let n := clCount d
  let r := k.rank
  let lo := sliceLo n p r
  let hi := sliceLo n p (r + 1)
  if clOp d = 1 then
    if clRing d then
      let from_ := (r + p - t) % p
      let u := clU1 d p
      let s := s.colCopy c (stageAddr d ((t - 1) * u)) 0 (from_ * n) n (clIfmt d)
      (if t < p - 1 then s.sendPortion c (clFlow d) (t * u) (s.stagedPortion c ((t - 1) * u) u) else s, k.rf)
    else
      (forRange p (fun q x => if q = r then x else
        x.colCopy c (stageAddr d (q * clU1 d p)) 0 (q * n) n (clIfmt d)) s, k.rf)
  else if clRing d then
    if t ≤ p - 1 then
      let sl := (r + 2 * p - 1 - t) % p
      let l := sliceLo n p sl
      let h := sliceLo n p (sl + 1)
      let pf := if clFp32 d then 0 else 0xB
      let ins := (List.range (h - l)).map (fun i => s.colIn c.p c.ctx d (stageAddr d ((t - 1) * clUR d p)) pf i)
      let own := s.ownVals c l h
      let vs := List.zipWith (colOp d) ins own
      let (s, rf) := s.colNote c k (s.ownExact c l h) (ins ++ own) vs
      if t < p - 1 then (s.sendPortion c (clFlow d) (t * clUR d p) (partialPortion d (clUR d p) vs), rf)
      else
        let s := s.colFinish c k vs
        (if clOp d = 2 then s.sendPortion c (clFlow d) ((p - 1) * clUR d p) (s.resultPortion c k vs) else s, rf)
    else
      let h := t - (p - 1)
      let sl := (r + p - h) % p
      let u := clU2 d p
      let at_ := (p - 1) * clUR d p + (h - 1) * u
      let s := s.colCopy c (stageAddr d at_) 0 (sliceLo n p sl) (sliceLo n p (sl + 1) - sliceLo n p sl) (ocFmt (dOcvt d))
      (if h < p - 1 then s.sendPortion c (clFlow d) (at_ + u) (s.stagedPortion c at_ u) else s, k.rf)
  else if t = 1 then
    let own := s.ownVals c lo hi
    let all := (List.range (hi - lo)).map (fun i => (List.range p).map (fun q =>
      if q = r then own.getD i ⟨⟨0, 0, false⟩, 0, false⟩
      else s.colIn c.p c.ctx d (stageAddr d (q * clU1 d p)) (clIfmt d) i))
    let vs := all.map (colCombine d)
    let exact := s.ownExact c lo hi ++ (if clIfmt d = 0xB then [] else
      (List.range p).flatMap (fun q => if q = r then [] else (List.range (hi - lo)).map (fun i =>
        decodeElem (clIfmt d) (s.rdElem c.p c.ctx (stageAddr d (q * clU1 d p)) (clIfmt d) i))))
    let (s, rf) := s.colNote c k exact (all.flatMap id) vs
    let s := s.colFinish c k vs
    if clOp d = 2 then
      let x := s.resultPortion c k vs
      (forRange p (fun q y => if q = r then y else
        y.sendPortion c (clFlow d + q) (p * clU1 d p + r * clU2 d p) x) s, rf)
    else (s, rf)
  else
    (forRange p (fun q x => if q = r then x else
      x.colCopy c (stageAddr d (p * clU1 d p + q * clU2 d p)) 0 (sliceLo n p q)
        (sliceLo n p (q + 1) - sliceLo n p q) (ocFmt (dOcvt d))) s, k.rf)

/-! ## Issue, stages, end -/

/-- Ranges a COLL reads of its own input and writes (R193). -/
def colRanges (d p : Nat) : List Rng :=
  let own := clCount d * fmtBytes (clIfmt d)
  let out := if clOp d = 1 then p * clCount d * fmtBytes (clIfmt d)
    else (if clOp d = 0 then clS d p else clCount d) * fmtBytes (ocFmt (dOcvt d))
  [⟨clSrc d, (own + 63) / 64, false⟩, ⟨dOut d, (out + 63) / 64, false⟩]

/-- Whether every send context that the form uses is right (R298). -/
def State.colFlowsOk (s : State) (d j r : Nat) (ms : List Nat) : Option Nat :=
  let p := ms.length
  let ok (f m : Nat) : Bool :=
    !storeGet false s.tblBad (FLW_CTX f) && s.fld (fcKind f) == 1 && s.fld (fcClass f) == 0 && s.fld (fcJob f) == j &&
      s.fld (fcDst f) == m
  if p ≤ 1 then none
  else if clRing d then (if ok (clFlow d) (ms.getD ((r + 1) % p) 0) then none else some (clFlow d))
  else ((List.range p).find? (fun q => q != r && !ok (clFlow d + q) (ms.getD q 0))).map (· + clFlow d)

/-- BUSY of the engine's places. -/
def State.colBusy (s : State) : State := s.setFld COL_STATUS_BUSY (s.colls.foldl (fun m k => m ||| 2 ^ k.place) 0)

/-- A collective that has gone through its stages leaves its place; it is done once its packets have left (R303). -/
def State.colEnd (s : State) (k : Coll) : State :=
  if k.stage < colStages k.desc k.members.length then { s with colls := s.colls.map (fun x => if x.place = k.place then k else x) }
  else
    (({ s with colls := s.colls.filter (fun x => x.place != k.place) }.colBusy).gcount 0x200 1).settleCmd (k.part, k.ctx, k.idx)

/-- A COLL that has issued. -/
def State.colRun (s : State) (c : Cmd) (env : CmdEnv) : State :=
  let s := s.tableErrors env.tbl
  let j := s.jobOf c.p
  let ms := s.colMembers j (clGroup c.d)
  let me := s.lsidOf c.p c.ctx
  let step := s.stepOf c
  match ms.findIdx? (· == me) with
  | none => (s.colMiss c COL_STATUS_RANK_MISS 0x12 me).pushIssued (issuedOf c step [0xB] 0 false true)
  | some r =>
    match s.colFlowsOk c.d j r ms with
    | some f => (s.colMiss c COL_STATUS_FLOW_MISMATCH 0x13 f).pushIssued (issuedOf c step [0xB] 0 false true)
    | none =>
      let rs := colRanges c.d ms.length
      let s := s.applyEnv c colUnit rs env
      let s := s.noteRanges c colUnit rs
      let place := ((List.range 8).find? (fun n => !s.colls.any (fun k => k.place == n))).getD 0
      let k : Coll := ⟨place, c.p, c.ctx, c.idx, c.d, step, r, ms, 0, false⟩
      let s := s.pushIssued (issuedOf c step [0xB] 0 (rs.any (s.rngBad c)) false)
      let s := ({ s with colls := s.colls ++ [k] }.colBusy).colStart c k
      (s.colEnd k).endEnv

/-- COLL_REDUCE_SCATTER. -/
def execCollReduceScatter (p ctx : Nat) (env : CmdEnv) (s : State) : Host.Outcome State Fault Refusal :=
  .next (s.tryIssue p ctx (fun d => dClass d == 6 && clOp d == 0) false (fun c t => t.colRun c env))
/-- COLL_ALL_GATHER. -/
def execCollAllGather (p ctx : Nat) (env : CmdEnv) (s : State) : Host.Outcome State Fault Refusal :=
  .next (s.tryIssue p ctx (fun d => dClass d == 6 && clOp d == 1) false (fun c t => t.colRun c env))
/-- COLL_ALL_REDUCE. -/
def execCollAllReduce (p ctx : Nat) (env : CmdEnv) (s : State) : Host.Outcome State Fault Refusal :=
  .next (s.tryIssue p ctx (fun d => dClass d == 6 && clOp d == 2) false (fun c t => t.colRun c env))

/-- COLL_STAGE_READY: the next stage of the collective in a place, once RTUMB has reached its target. -/
def execCollStageReady (place : Nat) (s : State) : Host.Outcome State Fault Refusal :=
  match s.colls.find? (fun k => k.place == place) with
  | none => .next s
  | some k =>
    let c : Cmd := ⟨k.part, k.ctx, k.idx, k.desc⟩
    let p := k.members.length
    if s.stepCount k.part ((s.tumWin k.part k.ctx).1 + clRtumb k.desc) < colTarget k.desc p (k.stage + 1) then .next s
    else
      let (t, rf) := s.colStage c k (k.stage + 1)
      .next (t.colEnd { k with stage := k.stage + 1, rf := rf })

end Sys2Proof.Machine
end

