-- ==== Sys2Proof/Machine/Vector.lean ====
section
/-! DEFINITION. The vector engines (chapter 05): tile and vector registers, one operation, a group's program, the
encoding of stage 5, and the commands that reach them. -/
namespace Sys2Proof.Machine

/-! ## Registers of an engine (Table 5.1) -/

/-- Key of element (0, 0) of tile register `t`. -/
def vtKey (p e t : Nat) : Nat := ((p * 2 + e) * 4 + t) * 16384
/-- Key of element 0 of vector register `v`. -/
def vvKey (p e v : Nat) : Nat := 0x100000 + ((p * 2 + e) * 4 + v) * 128
/-- Key of the poison of datum 0 of tile register `t`. -/
def vtpKey (p e t : Nat) : Nat := ((p * 2 + e) * 4 + t) * 1024
/-- Key of the poison of element 0 of vector register `v`. -/
def vvpKey (p e v : Nat) : Nat := 0x10000 + ((p * 2 + e) * 4 + v) * 128

/-- Elements of a tile register in row order. -/
def State.vt (s : State) (p e t : Nat) : List Nat := storeList 0 s.vx (vtKey p e t) 16384
/-- Elements of a vector register. -/
def State.vv (s : State) (p e v : Nat) : List Nat := storeList 0 s.vx (vvKey p e v) 128
/-- Poison of a tile register by datum. -/
def State.vtp (s : State) (p e t : Nat) : List Bool := storeList false s.vxPsn (vtpKey p e t) 1024
/-- Poison of a vector register by element. -/
def State.vvp (s : State) (p e v : Nat) : List Bool := storeList false s.vxPsn (vvpKey p e v) 128

def State.setVt (s : State) (p e t : Nat) (d : List Nat) (q : List Bool) : State :=
  { s with vx := storeSetList 0 s.vx (vtKey p e t) (d.take 16384),
           vxPsn := storeSetList false s.vxPsn (vtpKey p e t) (q.take 1024) }
def State.setVv (s : State) (p e v : Nat) (d : List Nat) (q : List Bool) : State :=
  { s with vx := storeSetList 0 s.vx (vvKey p e v) (d.take 128),
           vxPsn := storeSetList false s.vxPsn (vvpKey p e v) (q.take 128) }

/-- A tile register at +0, clear. -/
def State.zeroVt (s : State) (p e t : Nat) : State :=
  { s with vx := storeClear s.vx (vtKey p e t) 16384, vxPsn := storeClear s.vxPsn (vtpKey p e t) 1024 }
/-- The vector registers of an engine at +0, clear. -/
def State.zeroVvs (s : State) (p e : Nat) : State :=
  { s with vx := storeClear s.vx (vvKey p e 0) 512, vxPsn := storeClear s.vxPsn (vvpKey p e 0) 512 }

/-! ## Scalars (R139 to R143) -/

/-- Key of shard scalar `32 + n` of a context. -/
def shardKey (p ctx n : Nat) : Nat := (p * 64 + ctx) * 32 + n

/-- A scalar slot as latched: the half of register `s0` to `s63` that an SC byte names, with its poison. -/
def State.latchScalar (s : State) (p ctx sc : Nat) : Nat × Bool :=
  let r := sc % 64
  let hi := bitAt sc 6
  if r < 32 then
    (s.fld (actFld (if hi then VXE_SREG_HI_VALUE p r else VXE_SREG_LO_VALUE p r)), false)
  else
    (if hi then 0 else storeGet 0 s.shardS (shardKey p ctx (r - 32)), storeGet false s.shardP (shardKey p ctx (r - 32)))

/-- The four slots of a vector command. -/
def State.latchSlots (s : State) (p ctx d : Nat) : List (Nat × Bool) :=
  [160, 168, 176, 184].map (fun l => s.latchScalar p ctx (dOp d l 8))

/-! ## Element operations (Table 5.4) -/

/-- An operand under PREC. -/
def vxOperand (prec : Bool) (x : Nat) : Nat := if prec then bf16AsF32 (rneBf16 (f32 x)) else x
/-- A result under PREC: one rounding. -/
def vxResult (prec : Bool) (v : FVal) : Nat := if prec then bf16AsF32 (rneBf16 v) else rne32 v

/-- The special function an OPC names, where it is one of the transcendental ones. -/
def vxSpecial (opc : Nat) : Option SpecialFn :=
  match opc with
  | 0x10 => some .exp
  | 0x11 => some .exp2
  | 0x15 => some .log
  | 0x16 => some .tanh
  | 0x17 => some .sigmoid
  | 0x18 => some .silu
  | 0x19 => some .gelu
  | _ => none

/-- One element of an element-wise or special-function operation on operands already under PREC (R131, R132, R135). -/
def vxElem (opc : Nat) (prec : Bool) (a b c : Nat) : Nat :=
  match vxSpecial opc with
  | some fn => if prec then bf16AsF32 (specialRound fmtBf16 fn (f32 a)) else specialRound fmtFp32 fn (f32 a)
  | none =>
    match opc with
    | 0x01 => vxResult prec ((f32 a).add (f32 b))
    | 0x02 => vxResult prec ((f32 a).add (f32 b).neg)
    | 0x03 => vxResult prec ((f32 a).mul (f32 b))
    | 0x04 => vxResult prec (((f32 a).mul (f32 b)).add (f32 c))
    | 0x05 => f32Max a b
    | 0x06 => f32Min a b
    | 0x07 => vxResult prec (f32 a).abs
    | 0x08 => vxResult prec (f32 a).neg
    | 0x09 => if FVal.lt (.fin false 0 0) (f32 a) then vxResult prec (f32 b) else vxResult prec (f32 c)
    | 0x12 => vxResult prec (FVal.div (.fin false 1 0) (f32 a))
    | 0x13 => vxResult prec (f32 a).rsqrt
    | 0x14 => vxResult prec (f32 a).sqrt
    | _ => vxResult prec (f32 a)

/-- Whether an operation reads B or C. -/
def vxUsesB (opc : Nat) : Bool := (1 ≤ opc && opc ≤ 6) || opc == 9 || opc == 10
def vxUsesC (opc : Nat) : Bool := opc == 4 || opc == 9

/-- Whether an element result is an overflow: an infinity from finite operands that no pole gives (R144). -/
def vxOverflows (opc r : Nat) (a b c : Nat) : Bool :=
  isInf32 r && isFin32 a && (!vxUsesB opc || isFin32 b) && (!vxUsesC opc || isFin32 c) &&
  !((opc == 0x12 || opc == 0x13 || opc == 0x15) && a % 2 ^ 31 == 0)

/-- One element of CVT onto the grid of a format outside any block (R134). -/
def vxCvt (aux a : Nat) : Nat × CvtN :=
  let (code, f) := encElem aux 0 (f32 a)
  (rne32 (decodeElem (ocFmt aux) code), f)

/-- CVT of up to 32 elements as one block. -/
def vxCvtBlock (aux : Nat) (l : List Nat) : List Nat × CvtN :=
  let (x, cs, f) := encBlock aux (l.map (fun a => (0, f32 a)))
  (cs.map (fun c => rne32 (scaleBy x (decodeElem (ocFmt aux) c))), f)

/-- CVT of a list of elements, block by block where BLK is set. -/
def vxCvtList (aux : Nat) : Nat → List Nat → List Nat × CvtN
  | 0, _ => ([], {})
  | _, [] => ([], {})
  | n + 1, l =>
    if ocBlk aux then
      let (a, f) := vxCvtBlock aux (l.take 32)
      let (b, g) := vxCvtList aux n (l.drop 32)
      (a ++ b, f.add g)
    else
      let r := l.map (vxCvt aux)
      (r.map (·.1), r.foldl (fun t x => t.add x.2) {})

/-- Reduction tree of R136 over a list whose length is a power of two. -/
def vxTree (op : Nat → Nat → Nat) : Nat → List Nat → Nat
  | 0, l => l.getD 0 0
  | n + 1, l => vxTree op n (List.zipWith op (l.take (2 ^ n)) (l.drop (2 ^ n)))

/-- Row `i` of a tile. -/
def tileRow {α : Type} (w : Nat) (l : List α) (i : Nat) : List α := (l.drop (w * i)).take w

/-- Transposed elements of a tile. -/
def tileCols (l : List Nat) : List (List Nat) :=
  let a := l.toArray
  (List.range 128).map (fun j => (List.range 128).map (fun i => a.getD (128 * i + j) 0))

/-! ## Operands -/

/-- A tile-form operand as 16,384 elements and 1,024 poison bits (R130, R143). -/
def State.vxTileOperand (s : State) (p e : Nat) (slots : List (Nat × Bool)) (filled : Nat → Bool) (kind n : Nat) :
    List Nat × List Bool :=
  match kind with
  | 0 => if filled n then (s.vt p e n, s.vtp p e n) else (List.replicate 16384 0, List.replicate 1024 false)
  | 1 =>
    let v := s.vv p e n; let q := s.vvp p e n
    let row := (List.range 8).map (fun k => (tileRow 16 q k).any id)
    ((List.range 128).flatMap (fun _ => v), (List.range 128).flatMap (fun _ => row))
  | 2 =>
    let v := s.vv p e n; let q := s.vvp p e n
    (v.flatMap (fun x => List.replicate 128 x), q.flatMap (fun x => List.replicate 8 x))
  | _ =>
    let k := slots.getD n (0, false)
    (List.replicate 16384 k.1, List.replicate 1024 k.2)

/-- A vector-form operand as 128 elements. -/
def State.vxVecOperand (s : State) (p e : Nat) (slots : List (Nat × Bool)) (kind n : Nat) : List Nat × List Bool :=
  if kind = 3 then
    let k := slots.getD n (0, false)
    (List.replicate 128 k.1, List.replicate 128 k.2)
  else (s.vv p e n, s.vvp p e n)

/-- Elementwise or of two poison lists. -/
def orList (a b : List Bool) : List Bool := List.zipWith (fun x y => x || y) a b

/-- Poison of CVT in blocks: 32 elements are two datums. -/
def pairPoison : List Bool → List Bool
  | a :: b :: t => (a || b) :: (a || b) :: pairPoison t
  | l => l

/-! ## Flags of an operation (R144) -/

/-- First non-finite or overflow event of a partition into VXE_CAP0 and VXE_CAP1. -/
def State.vxCapture (s : State) (p e idx d n : Nat) : State :=
  if s.flag (VXE_CAP0_VALID p) then s else
  (((((s.setFld (VXE_CAP0_DESC_INDEX p) idx).setFld (VXE_CAP0_OP_INDEX p) n).setFld (VXE_CAP0_ENGINE p) e).setFld
    (VXE_CAP0_VALID p) 1).setFld (VXE_CAP1_LAYER p) (dLayer d)).setFld (VXE_CAP1_OPERATOR p) (dOper d)

/-- FP_OVERFLOW of operation `n`. -/
def State.vxOvf (s : State) (p e : Nat) (g : VxEng) (n : Nat) (any : Bool) : State :=
  if any then (s.flagN (VXE_STATUS_FP_OVERFLOW p) p 0x121 1).vxCapture p e g.idx g.desc n else s

/-! ## One operation -/

/-- Whether tile register `t` holds a tile or is a scratch register of the group (R121, R127). -/
def VxEng.filled (g : VxEng) (t : Nat) : Bool := decide (t < g.pos.length) || decide (g.gt ≤ t)

/-- Whether a result may be written to tile register `t`: it is discarded on an unfilled one (R127). -/
def State.putVt (s : State) (p e : Nat) (g : VxEng) (t : Nat) (d : List Nat) (q : List Bool) : State :=
  if g.filled t then s.setVt p e t d q else s

/-- Elements of an elementwise operation over three operand lists. -/
def vxMap (opc : Nat) (prec : Bool) (a b c : List Nat) : List Nat :=
  (List.zipWith (fun x (y : Nat × Nat) => vxElem opc prec x y.1 y.2) a (b.zip c))

/-- Whether any element of an elementwise operation overflows. -/
def vxAnyOvf (opc : Nat) (r a b c : List Nat) : Bool :=
  (List.zipWith (fun (x : Nat × Nat) (y : Nat × Nat) => vxOverflows opc x.1 x.2 y.1 y.2) (r.zip a) (b.zip c)).any id

/-- Operands of an elementwise tile operation on source register `a`. -/
def State.vxElemTile (s : State) (p e : Nat) (g : VxEng) (w n dst src : Nat) : State :=
  let opc := bits w 0 6; let prec := bitAt w 6; let aux := bits w 24 8
  let A := s.vxTileOperand p e g.slots g.filled 0 src
  if opc = 0x0B then
    let (d, f) := vxCvtList aux 513 A.1
    let q := if ocBlk aux then pairPoison A.2 else A.2
    (s.cvtFlags p f).putVt p e g dst d q
  else if opc = 0x0A then
    let k := g.slots.getD (bits w 14 2) (0, false)
    let off := signedOf k.1 32
    let (mt, nt) := g.pos.getD src (0, 0)
    let d := A.1.zipIdx.map (fun x =>
      if decide (((128 * nt + x.2 % 128 : Nat) : Int) ≤ ((128 * mt + x.2 / 128 : Nat) : Int) + off) then x.1 else 0xFF800000)
    s.putVt p e g dst d (A.2.map (fun x => x || k.2))
  else
    let B := if vxUsesB opc then s.vxTileOperand p e g.slots g.filled (bits w 16 2) (bits w 14 2)
             else (List.replicate 16384 0, List.replicate 1024 false)
    let C := if vxUsesC opc then s.vxTileOperand p e g.slots g.filled (bits w 20 2) (bits w 18 2)
             else (List.replicate 16384 0, List.replicate 1024 false)
    let a := A.1.map (vxOperand prec); let b := B.1.map (vxOperand prec); let c := C.1.map (vxOperand prec)
    let d := vxMap opc prec a b c
    (s.vxOvf p e g n (vxAnyOvf opc d A.1 B.1 C.1)).putVt p e g dst d (orList A.2 (orList B.2 C.2))

/-- An elementwise operation in vector form. -/
def State.vxElemVec (s : State) (p e : Nat) (g : VxEng) (w n : Nat) : State :=
  let opc := bits w 0 6; let prec := bitAt w 6; let aux := bits w 24 8
  let A := (s.vv p e (bits w 12 2), s.vvp p e (bits w 12 2))
  if opc = 0x0B then
    let (d, f) := vxCvtList aux 5 A.1
    let q := if ocBlk aux then (List.range 128).map (fun i => (tileRow 32 A.2 (i / 32)).any id) else A.2
    (s.cvtFlags p f).setVv p e (bits w 10 2) d q
  else
    let z := (List.replicate 128 0, List.replicate 128 false)
    let B := if vxUsesB opc then s.vxVecOperand p e g.slots (bits w 16 2) (bits w 14 2) else z
    let C := if vxUsesC opc then s.vxVecOperand p e g.slots (bits w 20 2) (bits w 18 2) else z
    let a := A.1.map (vxOperand prec); let b := B.1.map (vxOperand prec); let c := C.1.map (vxOperand prec)
    let d := vxMap opc prec a b c
    (s.vxOvf p e g n (vxAnyOvf opc d A.1 B.1 C.1)).setVv p e (bits w 10 2) d (orList A.2 (orList B.2 C.2))

/-- Source registers of an operation: the filled input registers with ALL, else the one named. -/
def vxSources (g : VxEng) (w : Nat) : List Nat := if bitAt w 7 then List.range g.pos.length else [bits w 12 2]

/-- ROWSUM, ROWMAX, COLSUM, COLMAX (R136). -/
def State.vxReduce (s : State) (p e : Nat) (g : VxEng) (w n : Nat) : State :=
  let opc := bits w 0 6; let dn := bits w 10 2
  let op := if opc % 2 = 0 then f32Add else f32Max
  let acc0 : Option (List Nat × List Bool) := if bitAt w 24 then some (s.vv p e dn, s.vvp p e dn) else none
  let r := (vxSources g w).foldl (fun acc t =>
    let A := s.vxTileOperand p e g.slots g.filled 0 t
    let v : List Nat := if opc < 0x22 then (List.range 128).map (fun i => vxTree op 7 (tileRow 128 A.1 i))
                        else (tileCols A.1).map (vxTree op 7)
    let q : List Bool := if opc < 0x22 then (List.range 128).map (fun i => (tileRow 8 A.2 i).any id)
      else (List.range 128).map (fun j => (List.range 128).any (fun i => A.2.getD (8 * i + j / 16) false))
    let ovf := v.any isInf32 && A.1.all isFin32
    match acc with
    | (none, o) => (some (v, q), o || ovf)
    | (some x, o) => (some (List.zipWith op x.1 v, orList x.2 q), o || ovf || (List.zipWith op x.1 v).any isInf32 && x.1.all isFin32 && v.all isFin32))
    (acc0, false)
  match r.1 with
  | some x => (s.vxOvf p e g n r.2).setVv p e dn x.1 x.2
  | none => s

/-- VSUM and VMAX. -/
def State.vxVecReduce (s : State) (p e : Nat) (g : VxEng) (w n : Nat) : State :=
  let dn := bits w 10 2; let an := bits w 12 2
  let op := if bits w 0 6 % 2 = 0 then f32Add else f32Max
  let a := s.vv p e an
  let t := vxTree op 7 a
  let pa := (s.vvp p e an).any id
  let r := if bitAt w 24 then op ((s.vv p e dn).getD 0 0) t else t
  let pr := pa || (bitAt w 24 && (s.vvp p e dn).getD 0 false)
  (s.vxOvf p e g n (isInf32 r && a.all isFin32)).setVv p e dn (r :: List.replicate 127 0) (pr :: List.replicate 127 false)

/-- Unit address of the vector that LDV or STV names for the current group (R138). -/
def vxVecAddr (base w : Nat) (g : VxEng) : Nat :=
  let (mt, nt) := g.pos.getD 0 (0, 0)
  base + 8 * (bits w 24 7 + if bitAt w 31 then mt else nt)

/-- LDV. -/
def State.vxLdv (s : State) (p e : Nat) (g : VxEng) (w : Nat) : State :=
  let a := vxVecAddr (dOp g.desc 96 32) w g
  let c : Cmd := ⟨p, g.ctx, g.idx, g.desc⟩
  let d := (List.range 128).map (fun i => s.cmdNat p g.ctx a (4 * i) 4)
  let q := (List.range 128).map (fun i => s.cmdPsn p g.ctx (a + i / 16))
  (s.noteRanges c (unitId p (8 + e)) [⟨a, 8, true⟩]).setVv p e (bits w 10 2) d q

/-- STV. -/
def State.vxStv (s : State) (p e : Nat) (g : VxEng) (w : Nat) : State :=
  let a := vxVecAddr (dOp g.desc 128 32) w g
  let c : Cmd := ⟨p, g.ctx, g.idx, g.desc⟩
  let v := s.vv p e (bits w 12 2)
  let q := (s.vvp p e (bits w 12 2)).toArray
  (s.noteRanges c (unitId p (8 + e)) [⟨a, 8, false⟩]).cmdWriteL p g.ctx a (v.flatMap (leBytes 4))
    (fun u => (List.range 16).any (fun i => q.getD (16 * u + i) false))

/-- SPUT (R142). -/
def State.vxSput (s : State) (p e : Nat) (g : VxEng) (w : Nat) : State :=
  let k := shardKey p g.ctx (bits w 24 5)
  let an := bits w 12 2
  { s with shardS := storeSet 0 s.shardS k ((s.vv p e an).getD 0 0),
           shardP := storeSet false s.shardP k ((s.vvp p e an).getD 0 false) }

/-- Operation word `w`, number `n` of the program, on an engine (R129 to R143). -/
def State.vxOp (s : State) (p e : Nat) (g : VxEng) (w n : Nat) : State :=
  let opc := bits w 0 6
  if opc ≤ 0x0B || (0x10 ≤ opc && opc ≤ 0x19) then
    if bitAt w 8 then s.vxElemVec p e g w n
    else (vxSources g w).foldl (fun t src => t.vxElemTile p e g w n (if bitAt w 7 then src else bits w 10 2) src) s
  else if 0x20 ≤ opc && opc ≤ 0x23 then s.vxReduce p e g w n
  else if opc = 0x24 || opc = 0x25 then s.vxVecReduce p e g w n
  else if opc = 0x30 then s.vxLdv p e g w
  else if opc = 0x31 then s.vxStv p e g w
  else if opc = 0x32 then s.vxSput p e g w
  else s

/-! ## Stage 5 and stage 6 for a tile -/

/-- Range fault of a command (R89): its record, its flag and its capture. -/
def State.rangeFault (s : State) (c : Cmd) (tensor w : Nat) (vals : List FVal) (count : Bool) : State :=
  let nonfin := vals.any (fun v => !v.isFin)
  let need := (amaxLog (vals.filter (·.isFin))).getD 0 - 70
  let word := w % 1024 + (if nonfin || count then 0 else codeOf need 10) * 2 ^ 10 + (if nonfin then 2 ^ 20 else 0) +
    (if count then 2 ^ 21 else 0) + 2 ^ 31
  let s := s.cmdRecord c (unitId c.p 0x74) 5 flPoison (tensor + word * 2 ^ 32)
  let s := s.flagN (VXE_CVT_FLAGS_ES96_RANGE c.p) c.p 0x113 1
  if s.flag (VXE_ES96_FAULT1_VALID c.p) then s
  else (s.setFld (VXE_ES96_FAULT0_TENSOR c.p) tensor).setReg (VXE_ES96_FAULT1 c.p) (BitVec.ofNat 32 word)

/-- Poison of output datum `q`, element poison being `pe`, for elements of `eb` bits. -/
def outPsn (eb n : Nat) (pe : Nat → Bool) (q : Nat) : Bool :=
  let lo := 512 * q / eb
  let hi := min ((512 * q + 511) / eb) (n - 1)
  (List.range (hi + 1 - lo)).any (fun i => pe (lo + i))

/-- Units of one output tile's elements. -/
def tileUnits (fmt : Nat) : Nat := 16384 * elemBits fmt / 512

/-- Output ranges of a vector command of `n` tiles: its elements, and its block scales after them. -/
def vxOutRanges (d n : Nat) : List Rng :=
  let o := dOcvt d
  ⟨dOut d, n * tileUnits (ocFmt o), false⟩ ::
    (if ocBlk o then [⟨dOut d + n * tileUnits (ocFmt o), 8 * n, false⟩] else [])

/-- Tile number `k` of `n` output tiles through stages 5 and 6. Answers the state and whether it raised the range
fault. -/
def State.vxStore (s : State) (c : Cmd) (step k n : Nat) (t : Tile) (all raised : Bool) : State × Bool :=
  let o := dOcvt c.d
  let fmt := ocFmt o
  let entry := s.ttabAt c.p c.ctx (dTslot c.d)
  let vals := t.data.map f32
  let psn := t.psn.toArray
  if fmt = 0xB then
    let w := signedOf (bits entry 32 10) 10
    let es := vals.map (es96In w)
    let bad := es.any (·.f)
    let high := (vals.zip es).filterMap (fun x => if x.2.f then some x.1 else none)
    let s := if bad && !raised then s.rangeFault c (bits entry 0 32) (bits entry 32 10) high false else s
    let s := s.cmdWriteL c.p c.ctx (dOut c.d + k * 4096) (es.flatMap (fun x => leBytes 16 (es96Code x)))
      (fun q => all || bad || psn.getD (q / 4) false)
    (s, raised || bad)
  else
    let sr := ocRnd o == 2
    let rv := vals.zipIdx.map (fun v =>
      (if sr then s.ksBits c.p step entry ((128 * t.mt + v.2 / 128) * ttPitch entry + 128 * t.nt + v.2 % 128) else 0, v.1))
    let (codes, scales, f) := encStream o 513 rv
    let pe : Nat → Bool := fun i => if ocBlk o then psn.getD (2 * (i / 32)) false || psn.getD (2 * (i / 32) + 1) false
                                    else psn.getD (i / 16) false
    let s := (s.cvtFlags c.p f).cmdWriteL c.p c.ctx (dOut c.d + k * tileUnits fmt) (packAll fmt codes)
      (fun q => all || outPsn (elemBits fmt) 16384 pe q)
    let s := if ocBlk o then
      s.cmdWriteL c.p c.ctx (dOut c.d + n * tileUnits fmt + 8 * k) scales
        (fun q => all || (List.range 64).any (fun b => pe (32 * (64 * q + b))))
      else s
    (s, raised)

/-! ## Groups (R125 to R127) -/

/-- Whether the result of operation `w` is written to tile register `t` of the group. -/
def vxWrites (w t : Nat) : Bool :=
  let opc := bits w 0 6
  (opc ≤ 0x0B || (0x10 ≤ opc && opc ≤ 0x19)) && !bitAt w 8 && (bitAt w 7 || bits w 10 2 == t)

/-- Last operation that wrote tile register `t`. -/
def vxLastOp (prog : List Nat) (t : Nat) : Nat :=
  (prog.zipIdx.filter (fun x => vxWrites x.1 t)).getLast?.elim 0 (·.2)

/-- Non-finite elements of an output tile (R144) with the record of NF_RECORD. -/
def State.vxNonfinite (s : State) (p e : Nat) (v : VxCmd) (t : Tile) (reg : Nat) (done : Bool) : State × Bool :=
  match t.data.zipIdx.find? (fun x => !isFin32 x.1) with
  | none => (s, done)
  | some x =>
    let n := vxLastOp v.prog reg
    let s := (s.flagN (VXE_STATUS_NONFINITE_OUT p) p 0x120 1).vxCapture p e v.idx v.desc n
    if s.flag (VXE_CFG_NF_RECORD p) && !done then
      (s.cmdRecord ⟨p, v.ctx, v.idx, v.desc⟩ (unitId p (8 + e)) 6 0
        (n + e * 2 ^ 8 + x.2 / 128 * 2 ^ 16 + x.2 % 128 * 2 ^ 24 + x.1 * 2 ^ 32), true)
    else (s, done)

/-- The next group of a vector command, when all of its tiles are there. -/
def VxCmd.group (v : VxCmd) : Option (List Tile) :=
  let g := (v.tiles.drop v.next).take (dOp v.desc 3 2 + 1)
  if g.isEmpty || g.any (·.isNone) then none else some (g.filterMap id)

/-- Vector engines that a command may use: the named ones that are not retired, else the other one; none of them in an
engine reset (R126). -/
def State.vxEngines (s : State) (p d : Nat) : List Nat :=
  let online (e : Nat) : Bool := bitAt (s.fld (VXE_ENG_ONLINE_ONLINE p)) e || storeGet false s.resetting (unitId p (8 + e))
  let named := [0, 1].filter (fun e => bitAt (dOp d 0 2) e)
  let usable := if named.all online then named else [0, 1].filter online
  usable.filter (fun e => !storeGet false s.resetting (unitId p (8 + e)))

/-- The group's registers as they are before its program (R121). -/
def State.vxLoadGroup (s : State) (p e : Nat) (v : VxCmd) (g : List Tile) : State × VxEng :=
  let gt := dOp v.desc 3 2 + 1
  let first := v.next == 0
  let both := dOp v.desc 0 2 == 3
  let s := if first || both then s.zeroVvs p e else s
  let s := forRange 4 (fun t x => x.zeroVt p e t) s
  let s := g.zipIdx.foldl (fun x t => x.setVt p e t.2 t.1.data t.1.psn) s
  let en : VxEng := ⟨v.ctx, v.idx, v.desc, v.step, v.slots, gt, g.map (fun t => (t.mt, t.nt)), false⟩
  ({ s with vxEng := storeSet none s.vxEng (2 * p + e) (some en) }, en)

/-- A vector register content of a command with one engine follows the group to the engine that runs it. -/
def State.vxCarry (s : State) (p e : Nat) (v : VxCmd) : State :=
  if v.next == 0 || dOp v.desc 0 2 == 3 then s else
  let o := 1 - e
  match storeGet none s.vxEng (2 * p + o) with
  | some g =>
    let mine := storeGet none s.vxEng (2 * p + e)
    let here : Bool := match mine with | some m => m.ctx == v.ctx && m.idx == v.idx | none => false
    if g.ctx == v.ctx && g.idx == v.idx && !here then
      forRange 4 (fun r t => t.setVv p e r (t.vv p o r) (t.vvp p o r)) s
    else s
  | none => s

/-- The tiles of a group as they stand in the input registers. -/
def State.vxTiles (s : State) (p e : Nat) (g : VxEng) : List Tile :=
  g.pos.zipIdx.map (fun x => ⟨x.1.1, x.1.2, s.vt p e x.2, s.vtp p e x.2⟩)

/-- A whole group on engine `e`: its registers, its program, stages 5 and 6. -/
def State.vxRunGroup (s : State) (p e : Nat) (v : VxCmd) (g : List Tile) : State :=
  let c : Cmd := ⟨p, v.ctx, v.idx, v.desc⟩
  let bad := g.any (fun t => t.psn.any id)
  let s := if bad then
    (s.flagN (VXE_STATUS_POISON_IN p) p 0x122 1).consumePoison c (unitId p (8 + e))
      (if dOp v.desc 2 1 == 1 then 4 else 1) 0xFFFFFFFF else s
  let (s, en) := (s.vxCarry p e v).vxLoadGroup p e v g
  let s := v.prog.zipIdx.foldl (fun t w => t.vxOp p e en w.1 w.2) s
  let n := v.tiles.length
  let r := (s.vxTiles p e en).zipIdx.foldl (fun (a : State × Bool × Bool) t =>
    let (x, nf) := a.1.vxNonfinite p e v t.1 t.2 a.2.1
    let (y, rf) := x.vxStore c v.step (v.next + t.2) n t.1 v.allPoison a.2.2
    (y, nf, rf)) (s, v.nf, v.rf)
  let s := r.1
  let v' : VxCmd := { v with next := v.next + g.length, nf := r.2.1, rf := r.2.2 }
  let out := v.allPoison || bad || r.2.2 || (s.vxTiles p e en).any (fun t => t.psn.any id)
  let mark : Issued → Issued := fun i =>
    if i.part = p ∧ i.ctx = v.ctx ∧ i.idx = v.idx ∧ i.desc = v.desc then
      { i with psn := i.psn || out, done := i.done || decide (v'.next ≥ n) } else i
  { s with vxCmds := if v'.next ≥ n then s.vxCmds.erase v else s.vxCmds.map (fun x => if x = v then v' else x),
           inflight := s.inflight.map mark }

/-- VXE_GROUP_START. `rerun` says that the engine which began the group was retired while it ran it, so that the group
runs again on the other one (R145). -/
def execVxeGroupStart (p : Nat) (rerun : Bool) (s : State) : Host.Outcome State Fault Refusal :=
  match s.vxCmds.find? (fun v => v.part == p) with
  | none => .next s
  | some v =>
    match v.group, s.vxEngines p v.desc with
    | some g, e :: _ =>
      let s := if rerun then s.flagN (VXE_STATUS_REGROUP p) p 0x124 1 else s
      .next (s.vxRunGroup p e v g)
    | _, _ => .next s

/-! ## Issue of a vector command (R124, R140, R143) -/

/-- A vector command with its program and slots latched, its tiles in arrival order. -/
def State.vxLatch (s : State) (c : Cmd) (tiles : List (Option Tile)) : State :=
  let slots := s.latchSlots c.p c.ctx c.d
  let prog := s.vxProg c.p c.ctx c.d
  let bad := slots.any (·.2)
  let s := if bad then
    (s.flagN (VXE_STATUS_SCALAR_POISON c.p) c.p 0x123 1).consumePoison c
      (unitId c.p (if bitAt (dOp c.d 0 2) 0 then 8 else 9)) 3 0xFFFFFFFF else s
  let step := s.stepOf c
  let sput := prog.foldl (fun m w => if bits w 0 6 = 0x32 then m ||| 2 ^ bits w 24 5 else m) 0
  let s := s.noteRanges c (unitId c.p 0x75) (vxOutRanges c.d tiles.length)
  let s := s.pushIssued (issuedOf c step (([0, 1].filter (fun e => bitAt (dOp c.d 0 2) e)).map (· + 8)) sput false false)
  { s with vxCmds := s.vxCmds ++ [⟨c.p, c.ctx, c.idx, c.d, step, prog, slots, tiles, 0, bad, false, false⟩] }

/-- Input tiles of a vector command without STREAM (R125). -/
def State.vxSrcTiles (s : State) (c : Cmd) : List (Option Tile) :=
  let fmt := dOp c.d 24 4
  let src := dOp c.d 64 32
  (List.range (dOp c.d 16 8)).map (fun k =>
    let a := src + k * tileUnits fmt
    some ⟨0, k, (List.range 16384).map (fun i => rne32 (decodeElem fmt (s.rdElem c.p c.ctx a fmt i))),
      (List.range 1024).map (fun q => (List.range 16).any (fun i => s.elemPsn c.p c.ctx a fmt (16 * q + i)))⟩)

/-- CMD_VXE: a vector command without STREAM. -/
def execCmdVxe (p ctx : Nat) (env : CmdEnv) (s : State) : Host.Outcome State Fault Refusal :=
  .next (s.tryIssue p ctx (fun d => dClass d == 2 && !isStream d) false (fun c t =>
    let rs : List Rng := [⟨dOp c.d 64 32, dOp c.d 16 8 * tileUnits (dOp c.d 24 4), false⟩]
    let t := t.applyEnv c (unitId p 0x70) rs env
    let t := t.noteRanges c (unitId p 0x70) rs
    (t.vxLatch c (t.vxSrcTiles c)).endEnv))

/-! ## Single operations on an engine

`w` holds the fields of Table 5.3 above OPC, in their places; its low six bits are ignored. -/

/-- The operation word of a row: OPC `opc`, the other fields from `w`. -/
def vopWord (opc w : Nat) : Nat := w % 2 ^ 32 / 64 * 64 + opc

/-- One operation, number `n` of its program, on an engine that holds a group; a word that breaks Table 5.3 or
Table 5.4 is in no program that issues (R123), and nothing happens for it. -/
def State.vxRow (s : State) (p e n opc w : Nat) : State :=
  match storeGet none s.vxEng (2 * p + e) with
  | none => s
  | some g => if vopBad (vopWord opc w) then s else s.vxOp p e g (vopWord opc w) n

/-- VXE_OP_MOV. -/
def execVxeOpMov (p e n w : Nat) (s : State) : Host.Outcome State Fault Refusal := .next (s.vxRow p e n 0x00 w)
/-- VXE_OP_ADD. -/
def execVxeOpAdd (p e n w : Nat) (s : State) : Host.Outcome State Fault Refusal := .next (s.vxRow p e n 0x01 w)
/-- VXE_OP_SUB. -/
def execVxeOpSub (p e n w : Nat) (s : State) : Host.Outcome State Fault Refusal := .next (s.vxRow p e n 0x02 w)
/-- VXE_OP_MUL. -/
def execVxeOpMul (p e n w : Nat) (s : State) : Host.Outcome State Fault Refusal := .next (s.vxRow p e n 0x03 w)
/-- VXE_OP_FMA. -/
def execVxeOpFma (p e n w : Nat) (s : State) : Host.Outcome State Fault Refusal := .next (s.vxRow p e n 0x04 w)
/-- VXE_OP_MAX. -/
def execVxeOpMax (p e n w : Nat) (s : State) : Host.Outcome State Fault Refusal := .next (s.vxRow p e n 0x05 w)
/-- VXE_OP_MIN. -/
def execVxeOpMin (p e n w : Nat) (s : State) : Host.Outcome State Fault Refusal := .next (s.vxRow p e n 0x06 w)
/-- VXE_OP_ABS. -/
def execVxeOpAbs (p e n w : Nat) (s : State) : Host.Outcome State Fault Refusal := .next (s.vxRow p e n 0x07 w)
/-- VXE_OP_NEG. -/
def execVxeOpNeg (p e n w : Nat) (s : State) : Host.Outcome State Fault Refusal := .next (s.vxRow p e n 0x08 w)
/-- VXE_OP_SEL. -/
def execVxeOpSel (p e n w : Nat) (s : State) : Host.Outcome State Fault Refusal := .next (s.vxRow p e n 0x09 w)
/-- VXE_OP_CMASK. -/
def execVxeOpCmask (p e n w : Nat) (s : State) : Host.Outcome State Fault Refusal := .next (s.vxRow p e n 0x0A w)
/-- VXE_OP_CVT. -/
def execVxeOpCvt (p e n w : Nat) (s : State) : Host.Outcome State Fault Refusal := .next (s.vxRow p e n 0x0B w)
/-- VXE_OP_EXP. -/
def execVxeOpExp (p e n w : Nat) (s : State) : Host.Outcome State Fault Refusal := .next (s.vxRow p e n 0x10 w)
/-- VXE_OP_EXP2. -/
def execVxeOpExp2 (p e n w : Nat) (s : State) : Host.Outcome State Fault Refusal := .next (s.vxRow p e n 0x11 w)
/-- VXE_OP_RCP. -/
def execVxeOpRcp (p e n w : Nat) (s : State) : Host.Outcome State Fault Refusal := .next (s.vxRow p e n 0x12 w)
/-- VXE_OP_RSQRT. -/
def execVxeOpRsqrt (p e n w : Nat) (s : State) : Host.Outcome State Fault Refusal := .next (s.vxRow p e n 0x13 w)
/-- VXE_OP_SQRT. -/
def execVxeOpSqrt (p e n w : Nat) (s : State) : Host.Outcome State Fault Refusal := .next (s.vxRow p e n 0x14 w)
/-- VXE_OP_LOG. -/
def execVxeOpLog (p e n w : Nat) (s : State) : Host.Outcome State Fault Refusal := .next (s.vxRow p e n 0x15 w)
/-- VXE_OP_TANH. -/
def execVxeOpTanh (p e n w : Nat) (s : State) : Host.Outcome State Fault Refusal := .next (s.vxRow p e n 0x16 w)
/-- VXE_OP_SIGMOID. -/
def execVxeOpSigmoid (p e n w : Nat) (s : State) : Host.Outcome State Fault Refusal := .next (s.vxRow p e n 0x17 w)
/-- VXE_OP_SILU. -/
def execVxeOpSilu (p e n w : Nat) (s : State) : Host.Outcome State Fault Refusal := .next (s.vxRow p e n 0x18 w)
/-- VXE_OP_GELU. -/
def execVxeOpGelu (p e n w : Nat) (s : State) : Host.Outcome State Fault Refusal := .next (s.vxRow p e n 0x19 w)
/-- VXE_OP_ROWSUM. -/
def execVxeOpRowsum (p e n w : Nat) (s : State) : Host.Outcome State Fault Refusal := .next (s.vxRow p e n 0x20 w)
/-- VXE_OP_ROWMAX. -/
def execVxeOpRowmax (p e n w : Nat) (s : State) : Host.Outcome State Fault Refusal := .next (s.vxRow p e n 0x21 w)
/-- VXE_OP_COLSUM. -/
def execVxeOpColsum (p e n w : Nat) (s : State) : Host.Outcome State Fault Refusal := .next (s.vxRow p e n 0x22 w)
/-- VXE_OP_COLMAX. -/
def execVxeOpColmax (p e n w : Nat) (s : State) : Host.Outcome State Fault Refusal := .next (s.vxRow p e n 0x23 w)
/-- VXE_OP_VSUM. -/
def execVxeOpVsum (p e n w : Nat) (s : State) : Host.Outcome State Fault Refusal := .next (s.vxRow p e n 0x24 w)
/-- VXE_OP_VMAX. -/
def execVxeOpVmax (p e n w : Nat) (s : State) : Host.Outcome State Fault Refusal := .next (s.vxRow p e n 0x25 w)
/-- VXE_OP_LDV. -/
def execVxeOpLdv (p e n w : Nat) (s : State) : Host.Outcome State Fault Refusal := .next (s.vxRow p e n 0x30 w)
/-- VXE_OP_STV. -/
def execVxeOpStv (p e n w : Nat) (s : State) : Host.Outcome State Fault Refusal := .next (s.vxRow p e n 0x31 w)
/-- VXE_OP_SPUT. -/
def execVxeOpSput (p e n w : Nat) (s : State) : Host.Outcome State Fault Refusal := .next (s.vxRow p e n 0x32 w)

end Sys2Proof.Machine
end

