-- ==== Sys2Proof/Machine/Matrix.lean ====
section
/-! DEFINITION. The matrix engines (chapter 04): weight tile records, product tiles, the column-sum check, preloads,
and the two matrix commands. -/
namespace Sys2Proof.Machine

/-! ## Fields of a matrix command (Table 4.5) -/

def mxMode (d : Nat) : Nat := dOp d 6 2
def mxAfmt (d : Nat) : Nat := dOp d 8 4
def mxAblk (d : Nat) : Bool := dOp d 12 1 == 1
def mxInit (d : Nat) : Nat := dOp d 14 2
def mxWfmt (d : Nat) : Nat := dOp d 16 4
def mxWblk (d : Nat) : Bool := dOp d 20 1 == 1
def mxChk (d : Nat) : Bool := dOp d 21 1 == 1
def mxMt (d : Nat) : Nat := dOp d 32 8
def mxKt (d : Nat) : Nat := dOp d 40 8
def mxNt (d : Nat) : Nat := dOp d 48 8
def mxAaddr (d : Nat) : Nat := dOp d 64 32
def mxWaddr (d : Nat) : Nat := dOp d 96 32
def mxBias (d : Nat) : Nat := dOp d 128 32
def mxAscale (d : Nat) : Nat := dOp d 160 32

/-- Class of the command's pair, 3 for FP32 (Table 4.2). -/
def mxClass (d : Nat) : Nat := pairClass (mxAfmt d) (mxWfmt d)
/-- Kc of the command. -/
def mxKc (d : Nat) : Nat := kcOf (mxClass d)
/-- Bytes of one of its records. -/
def mxRec (d : Nat) : Nat := recSize (mxWfmt d) (mxWblk d) (mxKc d)
/-- Units of one of its records. -/
def mxRecUnits (d : Nat) : Nat := mxRec d / 64
/-- Row tiles of a group (R105). -/
def mxGsize (d : Nat) : Nat := if mxMode d = 1 then 1 else 8
/-- Unit address of record (nt, kt) (R101). -/
def mxRecAddr (d nt kt : Nat) : Nat := mxWaddr d + (nt * mxKt d + kt) * mxRecUnits d

/-! ## Weight tile records (R100), as little-endian numbers -/

def recVersion (r : Nat) : Nat := bits r 32 32
def recFmt (r : Nat) : Nat := bits r 0 4
def recBlk (r : Nat) : Bool := bitAt r 4
def recClass (r : Nat) : Nat := bits r 8 8
/-- VERSION of the trailer of a record of `n` bytes. -/
def recTrailer (r n : Nat) : Nat := bits r (8 * (n - 64)) 32

/-- Byte offset of the tile data. -/
def recDataAt (fmt : Nat) (blk : Bool) (kc : Nat) : Nat := 64 + 8 * kc + recScaleBytes fmt blk kc

/-- Codebook entry that element `k` of stored row `n` of a CB4 record indexes (R70). -/
def recCb4 (kc r n k : Nat) : FVal :=
  let b := recDataAt 0xA false kc + k / 128 * 12288
  let i := bits r (8 * (b + 0x1000 + 64 * n + k % 128 / 2) + 4 * (k % 2)) 4
  decodeFloat fmtBf16 (bits r (8 * (b + 32 * n + 2 * i)) 16)

/-- Decoded weight in stored row `n`, column `k` of a record (R67, R70, R96). -/
def recElem (fmt : Nat) (blk : Bool) (kc r n k : Nat) : FVal :=
  if fmt = 0xA then recCb4 kc r n k
  else
    let v := decodeElem fmt (bits r (8 * recDataAt fmt blk kc + (n * kc + k) * elemBits fmt) (elemBits fmt))
    if blk then scaleBy (bits r (8 * (64 + 8 * kc + n * (kc / 32) + k / 32)) 8) v else v

/-- Stored row `n` of a record. -/
def recRow (fmt : Nat) (blk : Bool) (kc r n : Nat) : List FVal := (List.range kc).map (recElem fmt blk kc r n)

/-- Weight column sums of decoded rows: c[k] and d[k] as exact values of their FP32 words (R112). -/
def colSums (kc : Nat) (rows : List (List FVal)) : List (FVal × FVal) :=
  let a := rows.map List.toArray
  (List.range kc).map (fun k =>
    let col := a.map (fun r => r.getD k (.fin false 0 0))
    (f32 (rne32 (exactSum col)), f32 (rne32 (exactSum (col.map FVal.abs)))))

/-- Column sums an engine uses for a record: computed at load where VERSION is 0 and for every CB4 record, else the
stored ones (R46, R72, R112). -/
def recSums (fmt : Nat) (blk : Bool) (kc r : Nat) : List (FVal × FVal) :=
  if recVersion r = 0 || fmt = 0xA then colSums kc ((List.range 128).map (recRow fmt blk kc r))
  else (List.range kc).map (fun k => (f32 (bits r (8 * (64 + 4 * k)) 32), f32 (bits r (8 * (64 + 4 * kc + 4 * k)) 32)))

/-- Whether a record is torn (R102). -/
def recTorn (d r : Nat) : Bool := recVersion r != recTrailer r (mxRec d)
/-- Whether a record's header disagrees with the descriptor (R109). -/
def recMismatch (d r : Nat) : Bool :=
  recFmt r != mxWfmt d || recBlk r != mxWblk d || recClass r != (if mxMode d = 1 then 3 else mxClass d)

/-- Whether some element of a CB4 record indexes a NaN or infinite codebook entry (R71). -/
def recCbBad (kc r : Nat) : Bool :=
  (List.range 128).any (fun n => (List.range kc).any (fun k => !(recCb4 kc r n k).isFin))

/-! ## Product tiles (R96 to R99) -/

/-- One RNE rounding with whether it overflowed (R98). -/
def rneOvf (v : FVal) : Nat × Nat :=
  let c := encodeFloat fmtFp32 .rne false v
  (c.1, if c.2 then 1 else 0)

/-- Exact sum of the products of a chunk. -/
def chunkSum (a w : List FVal) : FVal := exactSum (List.zipWith FVal.mul a w)

/-- A chunk of operands: the values, and in mode FP32 their halves (R78, R99). -/
def chunkPrep (fp32 : Bool) (l : List FVal) : List FVal × List FVal :=
  if fp32 then
    let h := l.map (fun v => bf16Split (rne32 v))
    (h.map (fun x => decodeFloat fmtBf16 x.1), h.map (fun x => decodeFloat fmtBf16 x.2))
  else (l, [])

/-- The accumulator after one more chunk, with the overflows met. -/
def mxAcc (fp32 : Bool) (acc : Nat × Nat) (a w : List FVal × List FVal) : Nat × Nat :=
  if fp32 then
    let hh := rneOvf (chunkSum a.1 w.1)
    let hl := rneOvf (chunkSum a.1 w.2)
    let lh := rneOvf (chunkSum a.2 w.1)
    let u := rneOvf ((f32 hl.1).add (f32 lh.1))
    let v := rneOvf ((f32 hh.1).add (f32 u.1))
    let r := rneOvf ((f32 acc.1).add (f32 v.1))
    (r.1, acc.2 + hh.2 + hl.2 + lh.2 + u.2 + v.2 + r.2)
  else
    let c := rneOvf (chunkSum a.1 w.1)
    let r := rneOvf ((f32 acc.1).add (f32 c.1))
    (r.1, acc.2 + c.2 + r.2)

/-- A list cut into pieces of `k`. -/
def pieces {α : Type} (k : Nat) : Nat → List α → List (List α)
  | 0, _ => []
  | n + 1, l => l.take k :: pieces k n (l.drop k)

/-- A product tile of command `d` from its operands: initial values (none for zero), 128 activation rows, its
records in ascending chunk. Answers the 16,384 elements in row order and the overflows. -/
def mxTile (d : Nat) (init : List Nat) (acts : List (List FVal)) (recs : List Nat) : List Nat × Nat :=
  let fp32 := mxMode d == 1
  let kc := mxKc d
  let as := acts.map (fun row => (pieces kc recs.length row).map (chunkPrep fp32))
  let ws := (List.range 128).map (fun n => recs.map (fun r => chunkPrep fp32 (recRow (mxWfmt d) (mxWblk d) kc r n)))
  let ini := init.toArray
  let r := as.zipIdx.flatMap (fun a => ws.zipIdx.map (fun w =>
    (a.1.zip w.1).foldl (fun acc x => mxAcc fp32 acc x.1 x.2) (ini.getD (128 * a.2 + w.2) 0, 0)))
  (r.map (·.1), r.foldl (fun n x => n + x.2) 0)

/-! ## The column-sum check (R113 to R115) -/

/-- One row under the check. -/
structure RowChk where
  r : Nat
  s : Nat
  mg : Nat
  skip : Bool
  miss : Bool
  deriving DecidableEq, Repr

/-- Negated exponent of the tolerance of Table 4.8. -/
def tauExp (cls : Nat) : Nat := match cls with | 1 => 15 | 2 => 14 | 4 => 13 | _ => 12

/-- `S` and `Mg` after one more activation element (R113). -/
def chkStep (m : Nat × Nat) (a : FVal) (c : FVal × FVal) : Nat × Nat :=
  (f32Add m.1 (rne32 (a.mul c.1)), f32Add m.2 (rne32 (a.abs.mul c.2)))

/-- The check of one row: `init` its initial values, `a` its activations, `cs` the column sums over all chunks, `out`
its outputs. -/
def rowCheck (cls tol nc : Nat) (init : List Nat) (a : List FVal) (cs : List (FVal × FVal)) (out : List Nat) : RowChk :=
  let iv := init.map f32
  let m := (a.zip cs).foldl (fun m x => chkStep m x.1 x.2)
    (rne32 (exactSum iv), rne32 (exactSum (iv.map FVal.abs)))
  let ov := out.map f32
  let r := rne32 (exactSum ov)
  let skip := !isFin32 r || !isFin32 m.1 || !isFin32 m.2 || ov.any (fun v => !v.isFin)
  let f := FVal.add (.fin false 1 ((min tol 4 : Nat) - (tauExp cls : Int))) (.fin false nc (-23))
  let l := FVal.add (f32 (rne32 (f.mul (f32 m.2)))) (.fin false 1 (-120))
  ⟨r, m.1, m.2, skip, !skip && FVal.lt l (FVal.abs ((f32 r).add (f32 m.1).neg))⟩

/-- The check of a tile, row by row. -/
def tileCheck (d tol : Nat) (init : List Nat) (acts : List (List FVal)) (recs out : List Nat) : List RowChk :=
  let cls := mxClass d
  let kc := mxKc d
  let cs := recs.flatMap (recSums (mxWfmt d) (mxWblk d) kc)
  let nc := mxKt d + (if mxInit d = 0 then 0 else 1)
  acts.zipIdx.map (fun a => rowCheck cls tol nc (tileRow 128 init a.2) a.1 cs (tileRow 128 out a.2))

/-- Bit errors of an engine on a tile whose first element has key `base`. -/
def applyFlips (base : Nat) (flips : List (Nat × Nat)) (l : List Nat) : List Nat :=
  match flips.filter (fun f => decide (base ≤ f.1) && decide (f.1 < base + l.length)) with
  | [] => l
  | fs => l.zipIdx.map (fun x => fs.foldl (fun v f => if f.1 = base + x.2 then v ^^^ (f.2 % 2 ^ 32) else v) x.1)

/-! ## Operands of a command in memory -/

/-- Physical engines of the set logical slots, in slot order (R106); the lowest online engine where none is placed. -/
def State.mxEngines (s : State) (p d : Nat) : List Nat :=
  let l := ((List.range 6).filter (fun j => bitAt (dOp d 0 6) j)).map (fun j => s.fld (MXE_ENG_MAP_SLOT p j))
  match l.filter (fun e => e != 7) with
  | [] => ((List.range 6).filter (fun e => bitAt (s.fld (MXE_ENG_ONLINE_ONLINE p)) e)).take 1
  | l => l

/-- Units of the activations and of their scales. -/
def mxActUnits (d : Nat) : Nat := unitsOf (mxAfmt d) (128 * mxMt d * mxKc d * mxKt d)
def mxActScaleUnits (d : Nat) : Nat := scaleUnits (128 * mxMt d * mxKc d * mxKt d)

/-- Ranges a matrix command reads, apart from its first records that were preloaded. -/
def mxRanges (d : Nat) (pre : List Nat) : List Rng :=
  [⟨mxAaddr d, mxActUnits d, true⟩] ++
  (if mxAblk d then [⟨mxAscale d, mxActScaleUnits d, true⟩] else []) ++
  (List.range (mxNt d)).flatMap (fun nt => (List.range (mxKt d)).filterMap (fun kt =>
    if kt = 0 && pre.contains nt then none else some ⟨mxRecAddr d nt kt, mxRecUnits d, true⟩)) ++
  (match mxInit d with
   | 1 => [⟨mxBias d, 8 * mxNt d, true⟩]
   | 2 => [⟨mxBias d, 1024 * mxNt d * mxMt d, true⟩]
   | _ => [])

/-- Decoded activation row `m` (R93). -/
def State.mxActRow (s : State) (c : Cmd) (m : Nat) : List FVal :=
  let k := mxKc c.d * mxKt c.d
  let x : Strm := ⟨mxAaddr c.d, mxAfmt c.d, if mxAblk c.d then some (mxAscale c.d) else none⟩
  (List.range k).map (fun j => s.rdVal c.p c.ctx x (m * k + j))

/-- Poison of the activation rows of row tile `mt`. -/
def State.mxActPsn (s : State) (c : Cmd) (mt : Nat) : Bool :=
  let n := 128 * mxKc c.d * mxKt c.d
  let u := n * elemBits (mxAfmt c.d) / 512
  s.rngBad c ⟨mxAaddr c.d + mt * u, u, true⟩ ||
  (mxAblk c.d && s.rngBad c ⟨mxAscale c.d + mt * (n / 2048), n / 2048, true⟩)

/-- Initial values of tile (mt, nt), none for zero, with their poison (Table 4.5). -/
def State.mxInitTile (s : State) (c : Cmd) (mt nt : Nat) : List Nat × Bool :=
  match mxInit c.d with
  | 1 =>
    let a := mxBias c.d + 8 * nt
    let row := (List.range 128).map (fun j => s.cmdNat c.p c.ctx a (4 * j) 4)
    ((List.range 128).flatMap (fun _ => row), s.rngBad c ⟨a, 8, true⟩)
  | 2 =>
    let a := mxBias c.d + 1024 * (nt * mxMt c.d + mt)
    ((List.range 16384).map (fun i => s.cmdNat c.p c.ctx a (4 * i) 4), s.rngBad c ⟨a, 1024, true⟩)
  | _ => ([], false)

/-- Content of a record with its poison. -/
def State.mxRecord (s : State) (c : Cmd) (nt kt : Nat) : Nat × Bool :=
  let a := mxRecAddr c.d nt kt
  (s.cmdNat c.p c.ctx a 0 (mxRec c.d), s.rngBad c ⟨a, mxRecUnits c.d, true⟩)

/-! ## Preloads (R107) -/

/-- The preload an engine can use for the record at unit address `a`. -/
def State.preloadFor (s : State) (p e ctx a : Nat) : Option Preload :=
  match storeGet none s.preload (8 * p + e) with
  | some x => if x.addr = a && x.ctx = ctx && !x.stale then some x else none
  | none => none

/-- PRELOAD_DISCARD of every engine whose preload a command cannot use; no engine keeps one past the command. -/
def State.usePreloads (s : State) (c : Cmd) (eng : List Nat) : State :=
  eng.zipIdx.foldl (fun t e =>
    let had := (storeGet none t.preload (8 * c.p + e.1)).isSome
    let ok := decide (e.2 < mxNt c.d) && (t.preloadFor c.p e.1 c.ctx (mxRecAddr c.d e.2 0)).isSome
    let t := if had && !ok then t.flagN (MXE_STATUS_PRELOAD_DISCARD c.p) c.p 0x11D 1 else t
    { t with preload := storeErase (8 * c.p + e.1) t.preload }) s

/-- Units of the record that a header names, where Table 4.4 gives its class for its format. -/
def headerUnits (h : Nat) : Option Nat :=
  let fmt := recFmt h; let cls := recClass h
  let ok := if fmt = 0xA then cls == 1 || cls == 2 || cls == 4 else rateClass fmt != 0 && cls == rateClass fmt
  if ok then some (recSize fmt (recBlk h) (kcOf cls) / 64) else none

/-- MXE_PRELOAD. -/
def execMxePreload (p ctx : Nat) (env : CmdEnv) (s : State) : Host.Outcome State Fault Refusal :=
  .next (s.tryIssue p ctx (fun d => dClass d == 1 && dOp d 6 2 == 2) false (fun c t =>
    let fin : State → State := fun t => (t.applySig p ctx (dSig c.d 0)).applySig p ctx (dSig c.d 1)
    if !t.flag (MXE_CFG_PRELOAD_EN p) then fin t else
    let a := mxWaddr c.d
    let h := t.cmdNat p ctx a 0 64
    let n := if recFmt h = mxWfmt c.d && recBlk h = mxWblk c.d then headerUnits h else none
    let rs : List Rng := [⟨a, 1, true⟩, ⟨a + 1, n.getD 1 - 1, false⟩]
    let t := t.applyEnv c (unitId p 0x70) rs env
    let t := t.noteRanges c (unitId p 0x70) rs
    let t := match n with
      | none => t.flagN (MXE_STATUS_PRELOAD_DISCARD p) p 0x11D 1
      | some u =>
        let x : Preload := ⟨ctx, a, t.cmdNat p ctx a 0 (64 * u), t.rngBad c ⟨a, u, true⟩, false⟩
        (t.mxEngines p c.d).foldl (fun t e => { t with preload := storeSet none t.preload (8 * p + e) (some x) }) t
    let t := t.endEnv
    if t.ctxDead p ctx then t else fin t))

/-! ## The walk of a command (R105) -/

/-- Tiles of a command in release order, as (nt, mt). -/
def mxRelease (e g nt mt : Nat) : List (Nat × Nat) :=
  (List.range ((nt + e - 1) / e)).flatMap (fun r =>
    (List.range ((mt + g - 1) / g)).flatMap (fun gr =>
      ((List.range e).map (fun j => r * e + j)).filter (fun n => decide (n < nt)) |>.flatMap (fun n =>
        ((List.range g).map (fun i => gr * g + i)).filter (fun m => decide (m < mt)) |>.map (fun m => (n, m)))))

/-- Records of a command as loaded: by column tile, the content and poison of each chunk. -/
def State.mxRecords (s : State) (c : Cmd) (eng : List Nat) : List (List (Nat × Bool)) :=
  (List.range (mxNt c.d)).map (fun nt => (List.range (mxKt c.d)).map (fun kt =>
    if kt = 0 && decide (nt < eng.length) then
      match s.preloadFor c.p (eng.getD nt 0) c.ctx (mxRecAddr c.d nt 0) with
      | some x => (x.content % 256 ^ mxRec c.d, x.psn)
      | none => s.mxRecord c nt kt
    else s.mxRecord c nt kt))

/-- Column tiles whose first record was preloaded. -/
def State.mxPreloaded (s : State) (c : Cmd) (eng : List Nat) : List Nat :=
  (List.range (min (mxNt c.d) eng.length)).filter (fun nt =>
    (s.preloadFor c.p (eng.getD nt 0) c.ctx (mxRecAddr c.d nt 0)).isSome)

/-- Torn records and header mismatches as the engines load them, once for each row group (R102, R105, R109). -/
def State.mxTorn (s : State) (c : Cmd) (eng : List Nat) (recs : List (List (Nat × Bool))) : State :=
  let g := mxGsize c.d
  recs.zipIdx.foldl (fun t col => col.1.zipIdx.foldl (fun t r =>
    let torn := recTorn c.d r.1.1
    if torn || recMismatch c.d r.1.1 then
      forRange ((mxMt c.d + g - 1) / g) (fun gr t =>
        (t.cmdRecord c (unitId c.p (eng.getD (col.2 % max 1 eng.length) 0)) 3 flPoison
          ((if torn then 1 else 2) + col.2 * 2 ^ 8 + gr * g * 2 ^ 16 + recVersion r.1.1 * 2 ^ 32 +
            recTrailer r.1.1 (mxRec c.d) * 2 ^ 64 + mxRecAddr c.d col.2 r.2 % 2 ^ 32 * 2 ^ 96)).flagN
          (MXE_STATUS_TORN c.p) c.p 0x11A 1) t
    else t) t) s

/-- Whether the check is on for a command (R115). -/
def State.chkOn (s : State) (p d : Nat) : Bool :=
  let pol := s.fld (MXE_CFG_CHK_POLICY p)
  decide (pol ≥ 2) || (pol == 1 && mxChk d)

/-- First miss of a tile into the capture registers and a MATRIX_CHECK record (R116, R117, R386). -/
def State.mxMiss (s : State) (c : Cmd) (e mt nt row kind : Nat) (k : RowChk) : State :=
  let s := s.flagN (MXE_STATUS_CHK_MISS c.p) c.p 0x11B 1
  let s := s.setFld (MXE_STATUS_HELD c.p) (s.fld (MXE_STATUS_HELD c.p) ||| 2 ^ e)
  let s := if s.flag (MXE_CHK_CAP0_VALID c.p) then s else
    (((((((((((s.setFld (MXE_CHK_CAP0_DESC_INDEX c.p) c.idx).setFld (MXE_CHK_CAP0_ENGINE c.p) e).setFld
      (MXE_CHK_CAP0_VALID c.p) 1).setFld (MXE_CHK_CAP1_NT c.p) nt).setFld (MXE_CHK_CAP1_MT c.p) mt).setFld
      (MXE_CHK_CAP1_ROW c.p) row).setFld (MXE_CHK_CAP2_R c.p) k.r).setFld (MXE_CHK_CAP3_S c.p) k.s).setFld
      (MXE_CHK_CAP4_MG c.p) k.mg).setFld (MXE_CHK_CAP5_LAYER c.p) (dLayer c.d)).setFld
      (MXE_CHK_CAP5_OPERATOR c.p) (dOper c.d))
  s.cmdRecord c (unitId c.p e) 3 0
    (kind + nt * 2 ^ 8 + mt * 2 ^ 16 + row * 2 ^ 24 + k.r * 2 ^ 32 + k.s * 2 ^ 64 + k.mg * 2 ^ 96)

/-- NONFINITE_OUT of a tile that is released. -/
def State.mxReleased (s : State) (p : Nat) (t : Tile) : State :=
  if t.data.any (fun x => !isFin32 x) then s.flagN (MXE_STATUS_NONFINITE_OUT p) p 0x119 1 else s

/-- What every tile of a running matrix command draws on. -/
structure MxRun where
  eng : List Nat
  recs : List (List (Nat × Bool))
  /-- every output tile is poisoned: a torn or mismatched record, or a bad codebook (R71, R102, R109) -/
  all : Bool
  torn : Bool
  chk : Bool
  deriving DecidableEq, Repr

/-- One tile of a command at place `order` of the release: computed, checked, and released or held. Answers the
state and the tile, none where it is held (R105, R113 to R117, R386). -/
def State.mxOne (s : State) (c : Cmd) (m : MxRun) (env : CmdEnv) (order nt mt : Nat) : State × Option Tile :=
  let e := m.eng.getD (nt % max 1 m.eng.length) 0
  let col := m.recs.getD nt []
  let recs := col.map (·.1)
  let (init, ip) := s.mxInitTile c mt nt
  let acts := (List.range 128).map (fun i => s.mxActRow c (128 * mt + i))
  let psn := m.all || ip || s.mxActPsn c mt || col.any (·.2)
  let (v, ovf) := mxTile c.d init acts recs
  let base := (nt * mxMt c.d + mt) * 16384
  let out := applyFlips base env.flips v
  let s := s.flagN (MXE_STATUS_ACC_OVERFLOW c.p) c.p 0x118 ovf
  let rows := if m.chk && !psn then tileCheck c.d (s.fld (MXE_CFG_TOL_SHIFT c.p)) init acts recs out else []
  let s := s.flagN (MXE_STATUS_CHK_SKIP c.p) c.p 0x11C
    (if m.chk && !psn then (rows.filter (·.skip)).length else 128)
  let par := env.outParity.find? (fun q => decide (base / 16 ≤ q) && decide (q < base / 16 + 1024))
  let miss : Option (Nat × Nat × RowChk) :=
    match rows.zipIdx.find? (fun r => r.1.miss) with
    | some r => some (r.2, 0, r.1)
    | none =>
      match par with
      | some q =>
        let i := (q - base / 16) / 8
        some (i, 3, (tileCheck c.d (s.fld (MXE_CFG_TOL_SHIFT c.p)) init acts recs out).getD i ⟨0, 0, 0, false, false⟩)
      | none => none
  match miss with
  | some (row, kind, k) =>
    let s := s.mxMiss c e mt nt row kind k
    ({ s with held := s.held ++ [⟨c.p, e, c.ctx, c.idx, c.d, s.stepOf c, mt, nt, 0, order, s.stepCycles c.p,
        if kind = 3 then 2 else 0, none, out, init, acts, recs, [], psn, none, none⟩] }, none)
  | none =>
    let t : Tile := ⟨mt, nt, out, List.replicate 1024 psn⟩
    (s.mxReleased c.p t, some t)

/-- Input code of a POISON_CONSUMED record for a poisoned record datum: 6 within a codebook, else as memory. -/
def mxPoisonInput (c : Cmd) (a : Nat) : Nat :=
  if mxWfmt c.d = 0xA && mxWaddr c.d ≤ a && decide (a < mxWaddr c.d + mxNt c.d * mxKt c.d * mxRecUnits c.d) then
    let o := (a - mxWaddr c.d) % mxRecUnits c.d
    let b := recDataAt 0xA false (mxKc c.d) / 64
    if b ≤ o && decide ((o - b) % 192 < 64) then 6 else poisonInput a
  else poisonInput a

/-- A stream pair: the matrix command and the vector command after it (R152). -/
def State.mxRun (s : State) (c : Cmd) (env : CmdEnv) : State :=
  let eng := s.mxEngines c.p c.d
  let u := unitId c.p (eng.getD 0 0)
  let pre := s.mxPreloaded c eng
  let rs := mxRanges c.d pre
  let s := s.applyEnv c u rs env
  let s := match rs.flatMap (s.rngFaults c), rs.findSome? (s.rngPoison c) with
    | [], some a => s.consumePoison c u (mxPoisonInput c a) a
    | [], none =>
      if (s.mxRecords c eng).any (fun l => l.any (·.2)) then s.consumePoison c u 1 (mxWaddr c.d) else s
    | f :: fs, _ => s.noteFaults c (f :: fs)
  let recs := s.mxRecords c eng
  let cb := mxWfmt c.d == 0xA && recs.any (fun l => l.any (fun r => recCbBad (mxKc c.d) r.1))
  let torn := recs.any (fun l => l.any (fun r => recTorn c.d r.1 || recMismatch c.d r.1))
  let s := (s.mxTorn c eng recs).flagN (VXE_CVT_FLAGS_CB_NONFINITE c.p) c.p 0x114 (if cb then 1 else 0)
  let m : MxRun := ⟨eng, recs, torn || cb, torn, s.chkOn c.p c.d⟩
  let s := s.setFld (MXE_STATUS_BUSY c.p) (eng.foldl (fun b e => b ||| 2 ^ e) (s.fld (MXE_STATUS_BUSY c.p)))
  let s := s.pushIssued (issuedOf c (s.stepOf c) eng 0 false false)
  let order := mxRelease (max 1 eng.length) (mxGsize c.d) (mxNt c.d) (mxMt c.d)
  let r := order.zipIdx.foldl (fun (a : State × List (Option Tile)) x =>
    let (t, tile) := a.1.mxOne c m env x.2 x.1.1 x.1.2
    (t, a.2 ++ [tile])) (s, [])
  let s := r.1.usePreloads c eng
  let mark : Issued → Issued := fun i =>
    if i.part = c.p ∧ i.ctx = c.ctx ∧ i.idx = c.idx ∧ i.desc = c.d then
      { i with psn := r.2.any (fun t => match t with | some t => t.psn.any id | none => false),
               done := r.2.all (·.isSome) } else i
  let s := { s with inflight := s.inflight.map mark }
  (s.vxLatch (s.cmdAt c.p c.ctx (if isRing c.ctx then (c.idx + 1) % 65536 else c.idx + 1)) r.2).endEnv

/-- MXE_ACCUMULATE. -/
def execMxeAccumulate (p ctx : Nat) (env : CmdEnv) (s : State) : Host.Outcome State Fault Refusal :=
  .next (s.tryIssue p ctx (fun d => dClass d == 1 && mxMode d == 0 && !(s.mxEngines p d).isEmpty) true
    (fun c t => t.mxRun c env))

/-- MXE_FP32. -/
def execMxeFp32 (p ctx : Nat) (env : CmdEnv) (s : State) : Host.Outcome State Fault Refusal :=
  .next (s.tryIssue p ctx (fun d => dClass d == 1 && mxMode d == 1 && !(s.mxEngines p d).isEmpty) true
    (fun c t => t.mxRun c env))

end Sys2Proof.Machine
end

