-- ==== Sys2Proof/Machine/Update.lean ====
section
/-! DEFINITION. The parameter update unit (chapter 08) with its checks (R394 to R396), and the step-size latch. -/
namespace Sys2Proof.Machine

/-! ## FP32 arithmetic of the recurrence -/

def f32Div (a b : Nat) : Nat := rne32 (FVal.div (f32 a) (f32 b))
def f32Sqrt (a : Nat) : Nat := rne32 (f32 a).sqrt
def f32Sub (a b : Nat) : Nat := rne32 ((f32 a).add (f32 b).neg)
/-- Exact sum of FP32 words, rounded once (R217). -/
def xsum (l : List Nat) : Nat := rne32 (exactSum (l.map f32))
/-- A count as FP32. -/
def f32OfNat (n : Nat) : Nat := rne32 (.fin false n 0)

/-! ## Fields of an update command (Table 8.4) -/

def upFactored (d : Nat) : Bool := dOp d 0 2 == 1
def upMbf (d : Nat) : Bool := dOp d 2 1 == 1
def upGfmt (d : Nat) : Nat := if dOp d 3 1 = 1 then 2 else 0
def upWfmt (d : Nat) : Nat := dOp d 4 4
def upWblk (d : Nat) : Bool := dOp d 8 1 == 1
def upNt (d : Nat) : Nat := dOp d 16 8
def upKt (d : Nat) : Nat := dOp d 24 8
def upWaddr (d : Nat) : Nat := dOp d 32 32
def upGaddr (d : Nat) : Nat := dOp d 64 32
def upMaster (d : Nat) : Nat := dOp d 96 32
def upMoment (d : Nat) : Nat := dOp d 128 32
def upStat (d : Nat) : Nat := dOp d 160 32
def upKc (d : Nat) : Nat := kcOf (rateClass (upWfmt d))
def upNN (d : Nat) : Nat := 128 * upNt d
def upKK (d : Nat) : Nat := upKc d * upKt d
/-- Units of one of its records. -/
def upRecUnits (d : Nat) : Nat := recSize (upWfmt d) (upWblk d) (upKc d) / 64
def upRecAddr (d nt kt : Nat) : Nat := upWaddr d + (nt * upKt d + kt) * upRecUnits d
def upMasterAddr (d nt kt : Nat) : Nat := upMaster d + (nt * upKt d + kt) * 8 * upKc d
def upMomentAddr (d nt kt : Nat) : Nat := upMoment d + (nt * upKt d + kt) * (if upMbf d then 4 else 8) * upKc d
/-- Unit address and format of element (n, k) of the master copy of a record: in the record when WFMT is FP32. -/
def upMasterAt (d nt kt : Nat) : Nat :=
  if upWfmt d = 0 then upRecAddr d nt kt + recDataAt 0 false (upKc d) / 64 else upMasterAddr d nt kt

/-! ## Coefficients in effect -/

/-- Step size and coefficients that govern a command: of the replay latch for an entry in REPLAY (R234). -/
def State.upCoefs (s : State) (c : Cmd) : List Nat :=
  if !isRing c.ctx && s.fld (CAM_HOST_W0_STATE c.p c.ctx) == 3 then storeGet [] s.replayEta (32 * c.p + c.ctx)
  else s.fld (UPD_ETA_CUR_ETA c.p) :: (List.range 16).map (fun i => s.fld (UPD_COEF_CUR_VALUE c.p i))

/-- Entry `i` of Table 8.2 of a list headed by the step size. -/
def coef (l : List Nat) (i : Nat) : Nat := l.getD (i + 1) 0

/-! ## The recurrence (R217) -/

/-- The normalised update of one element. -/
def upU (co : List Nat) (fact : Bool) (r c2 rbar g : Nat) : Nat :=
  if g % 2 ^ 31 = 0 then 0
  else if !fact then g
  else f32Div g (f32Add (f32Sqrt (f32Mul (coef co 9) (f32Div (f32Mul r c2) rbar))) (coef co 5))

/-- A statistic after a scan: `old`, the scaled gradients it covers, and their number. -/
def upStatNew (co : List Nat) (old : Nat) (gs : List Nat) (count : Nat) : Nat :=
  f32Add (f32Mul (coef co 2) old)
    (f32Mul (coef co 3) (f32Div (xsum (gs.map (fun g => f32Add (f32Mul g g) (coef co 4)))) (f32OfNat count)))

/-- New moment and master of one element: moment word as stored, moment as used, master word. -/
def upElem (co : List Nat) (mbf : Bool) (u cf m w : Nat) : Nat × Nat × Nat :=
  let m1 := f32Add (f32Mul (coef co 0) m) (f32Mul (coef co 1) (f32Div u cf))
  let b := rneBf16 (f32 m1)
  let m2 := if mbf then bf16AsF32 b else m1
  (if mbf then b else m1, m2,
   f32Sub w (f32Mul (co.getD 0 0) (f32Add (f32Mul (coef co 8) m2) (f32Mul (coef co 6) w))))

/-- Staged inputs of a record (R225): gradients scaled, moments and masters as FP32 words in stored row order, row
statistics, column statistics, and what all records share. -/
structure UpIn where
  g : List Nat
  m : List Nat
  w : List Nat
  r : List Nat
  c2 : List Nat
  rbar : Nat
  cf : Nat
  co : List Nat
  nt : Nat
  kt : Nat
  deriving DecidableEq, Repr

/-- Outputs of a record: moments, masters, weight codes, block scales, column sums, absolute column sums. -/
structure UpOut where
  m : List Nat
  w : List Nat
  q : List Nat
  x : List Nat
  c : List Nat
  d : List Nat
  f : CvtN
  deriving DecidableEq, Repr

/-- Decoded weights of a record, by stored row. -/
def upDecode (d : Nat) (q x : List Nat) : List (List FVal) :=
  let xa := x.toArray
  let v := q.zipIdx.map (fun e =>
    let y := decodeElem (upWfmt d) e.1
    if upWblk d then scaleBy (xa.getD (e.2 / 32) 0) y else y)
  pieces (upKc d) 128 v

/-- Column sums of encoded weights as FP32 words (R226, R394). -/
def upSums (d : Nat) (q x : List Nat) : List Nat × List Nat :=
  let a := (upDecode d q x).map List.toArray
  let cols := (List.range (upKc d)).map (fun k => a.map (fun r => r.getD k (.fin false 0 0)))
  (cols.map (fun l => rne32 (exactSum l)), cols.map (fun l => rne32 (exactSum (l.map FVal.abs))))

/-- A record computed from its staged inputs; `rnd` gives the random bits of element (n, k) of the extent. -/
def upRecord (d : Nat) (i : UpIn) (rnd : Nat → Nat → Nat) : UpOut :=
  let kc := upKc d
  let r := i.r.toArray; let c2 := i.c2.toArray
  let e := (i.g.zip (i.m.zip i.w)).zipIdx.map (fun x =>
    upElem i.co (upMbf d) (upU i.co (upFactored d) (r.getD (x.2 / kc) 0) (c2.getD (x.2 % kc) 0) i.rbar x.1.1)
      i.cf x.1.2.1 x.1.2.2)
  let w := e.map (fun x => x.2.2)
  let sr := ocRnd (dOcvt d) == 2
  let rv := w.zipIdx.map (fun x =>
    (if sr then rnd (128 * i.nt + x.2 / kc) (kc * i.kt + x.2 % kc) else 0, f32 x.1))
  let (q, x, f) := encStream (dOcvt d) (4 * kc + 2) rv
  let (c, dd) := upSums d q x
  ⟨e.map (·.1), w, q, x, c, dd, f⟩

/-- Outputs as one list of words, and back. -/
def UpOut.words (o : UpOut) : List Nat := o.m ++ o.w ++ o.q ++ o.x ++ o.c ++ o.d
def UpOut.ofWords (o : UpOut) (l : List Nat) : UpOut :=
  let n := o.w.length
  { o with m := l.take n, w := (l.drop n).take n, q := (l.drop (2 * n)).take n,
           x := (l.drop (3 * n)).take o.x.length,
           c := (l.drop (3 * n + o.x.length)).take o.c.length,
           d := l.drop (3 * n + o.x.length + o.c.length) }

/-- The write-back check: whether the separate adder tree differs from the main path's column sums (R394). -/
def UpOut.checkMiss (o : UpOut) (d : Nat) : Bool := decide (upSums d o.q o.x ≠ (o.c, o.d))

/-! ## Operands in memory -/

/-- Ranges of pass 1, and of pass 3. -/
def upRanges1 (d : Nat) : List Rng :=
  ⟨upGaddr d, unitsOf (upGfmt d) (upNN d * upKK d), true⟩ ::
    (if upFactored d then [⟨upStat d, 8 * upNt d + (upKK d + 15) / 16, true⟩] else [])
def upRanges3 (d : Nat) : List Rng :=
  [⟨upWaddr d, upNt d * upKt d * upRecUnits d, false⟩,
   ⟨upMoment d, upNt d * upKt d * (if upMbf d then 4 else 8) * upKc d, false⟩] ++
  (if upWfmt d = 0 then [] else [⟨upMaster d, upNt d * upKt d * 8 * upKc d, false⟩])

/-- Scaled gradient of element (n, k) of the extent. -/
def State.upGrad (s : State) (c : Cmd) (co : List Nat) (n k : Nat) : Nat :=
  f32Mul (coef co 10) (rne32 (decodeElem (upGfmt c.d) (s.rdElem c.p c.ctx (upGaddr c.d) (upGfmt c.d) (n * upKK c.d + k))))

/-- Moment of element `i` of the tile of a record. -/
def State.upMom (s : State) (c : Cmd) (nt kt i : Nat) : Nat :=
  let a := upMomentAddr c.d nt kt
  if upMbf c.d then bf16AsF32 (s.cmdNat c.p c.ctx a (2 * i) 2) else s.cmdNat c.p c.ctx a (4 * i) 4

/-- Elements of record (nt, kt) in stored row order, as (n, k) of the extent. -/
def upPlaces (d nt kt : Nat) : List (Nat × Nat) :=
  (List.range (128 * upKc d)).map (fun i => (128 * nt + i / upKc d, upKc d * kt + i % upKc d))

/-- Poison of the moment and of the master of the elements of a record. -/
def State.upPsn (s : State) (c : Cmd) (nt kt : Nat) : List (Bool × Bool) :=
  let fm := if upMbf c.d then 2 else 0
  (List.range (128 * upKc c.d)).map (fun i =>
    (s.elemPsn c.p c.ctx (upMomentAddr c.d nt kt) fm i, s.elemPsn c.p c.ctx (upMasterAt c.d nt kt) 0 i))

/-! ## Flags -/

/-- An event flag of UPD_STATUS with its counter and the first capture (Table 8.6). -/
def State.upFlag (s : State) (c : Cmd) (f : Fld) (n k : Nat) : State :=
  if k = 0 then s else
  let s := s.flagN f c.p n k
  if s.flag (UPD_CAP0_VALID c.p) then s else
  ((((s.setFld (UPD_CAP0_DESC_INDEX c.p) c.idx).setFld (UPD_CAP0_CONTEXT c.p) c.ctx).setFld (UPD_CAP0_VALID c.p) 1).setFld
    (UPD_CAP1_LAYER c.p) (dLayer c.d)).setFld (UPD_CAP1_OPERATOR c.p) (dOper c.d)

/-- An UPDATE record (Table 13.2). -/
def State.upRec (s : State) (c : Cmd) (kind nt kt flags : Nat) : State :=
  s.cmdRecord c (unitId c.p 0xC) 7 flags (kind + nt * 2 ^ 8 + kt * 2 ^ 16 + s.stepOf c % 2 ^ 32 * 2 ^ 32)

/-! ## Write-back (R225, R226) -/

/-- The writes of one record in their order; `ps` is the poison of its moments and masters. -/
def State.upWrite (s : State) (c : Cmd) (nt kt : Nat) (o : UpOut) (ps : List (Bool × Bool)) (all : Bool) : State :=
  let d := c.d
  let kc := upKc d
  let fmt := upWfmt d
  let a := upRecAddr d nt kt
  let step := s.stepOf c
  let v := leBytes 4 (if step = 0 then 0xFFFFFFFF else step)
  let pa := ps.toArray
  let pm : Nat → Bool := fun i => all || (pa.getD i (false, false)).1
  let pw : Nat → Bool := fun i => pm i || (pa.getD i (false, false)).2
  let pq : Nat → Bool := fun i => if upWblk d then (List.range 32).any (fun k => pw (i / 32 * 32 + k)) else pw i
  let pc : Nat → Bool := fun k => (List.range 128).any (fun n => pw (n * kc + k))
  let mb := if upMbf d then 2 else 4
  let s := s.cmdPut c a 4 v (fun _ => false)
  let s := if fmt = 0 then s else s.cmdPut c (upMasterAddr d nt kt) 0 (o.w.flatMap (leBytes 4)) (fun i => pw (i / 4))
  let s := s.cmdPut c (upMomentAddr d nt kt) 0 (o.m.flatMap (leBytes mb)) (fun i => pm (i / mb))
  let s := if upWblk d then s.cmdPut c a (64 + 8 * kc) o.x (fun i => pq (32 * i)) else s
  let s := s.cmdPut c a (recDataAt fmt (upWblk d) kc) (packAll fmt o.q) (fun i => pq (8 * i / elemBits fmt))
  let s := s.cmdPut c a 64 (o.c.flatMap (leBytes 4)) (fun i => pc (i / 4))
  let s := s.cmdPut c a (64 + 4 * kc) (o.d.flatMap (leBytes 4)) (fun i => pc (i / 4))
  s.cmdPut c a (64 * upRecUnits d - 64) v (fun _ => false)

/-- Flags of a record's outputs (R229). -/
def State.upOutFlags (s : State) (c : Cmd) (o : UpOut) : State :=
  let s := if o.w.any (fun x => !isFin32 x) || o.m.any (fun x => if upMbf c.d then !isFin32 (bf16AsF32 x) else !isFin32 x)
    then s.upFlag c (UPD_STATUS_NONFINITE_OUT c.p) 0x129 1 else s
  (s.upFlag c (UPD_STATUS_OVERFLOW c.p) 0x12B o.f.ovf).upFlag c (UPD_STATUS_BLOCK_INVALID c.p) 0x12C o.f.blk

/-- The sibling UPD's partition (R395); none when there is none. -/
def State.upSibling (s : State) (p : Nat) : Option Nat :=
  let ok (q : Nat) : Bool := s.present q && s.fld (RCV_HEALTH_PART q) != 3
  let q := if p % 2 = 0 then p + 1 else p - 1
  if ok q then some q else
  (List.range 8).find? (fun q => q / 4 == p / 4 && q != p && ok q)

/-- Whether a record is sampled for the cross-check (R395). -/
def State.upSampled (s : State) (c : Cmd) (nt kt : Nat) : Bool :=
  let n := s.fld (UPD_CHK_CFG_SAMPLE c.p)
  n != 0 && (s.stepOf c + c.idx + nt * upKt c.d + kt) % n == 0 && (s.upSibling c.p).isSome

/-- Random bits of element (n, k) of an extent. -/
def State.upRnd (s : State) (c : Cmd) (n k : Nat) : Nat :=
  let entry := s.ttabAt c.p c.ctx (dTslot c.d)
  s.ksBits c.p (s.stepOf c) entry (n * ttPitch entry + k)

/-- A record held with its staged inputs (R396). -/
def upHold (c : Cmd) (step cyc kind : Nat) (i : UpIn) (ps : List (Bool × Bool)) (first : UpOut) : HeldTile :=
  ⟨c.p, 6, c.ctx, c.idx, c.d, step, 0, i.nt, i.kt, 0, cyc, kind, none, first.words, i.r ++ i.c2,
   [i.g.map f32, i.m.map f32, i.w.map f32], ps.map (fun x => (if x.1 then 1 else 0) + (if x.2 then 2 else 0)),
   [i.rbar, i.cf] ++ i.co, false, none, none⟩

/-- The staged inputs of a held record. -/
def HeldTile.upIn (h : HeldTile) : UpIn :=
  let w (k : Nat) : List Nat := (h.acts.getD k []).map rne32
  ⟨w 0, w 1, w 2, h.init.take 128, h.init.drop 128, h.extra.getD 0 0, h.extra.getD 1 0, h.extra.drop 2, h.nt, h.kt⟩

/-- Poison of a held record's moments and masters. -/
def HeldTile.upPs (h : HeldTile) : List (Bool × Bool) := h.recs.map (fun x => (x % 2 == 1, x / 2 == 1))

/-- The update command of a held record. -/
def HeldTile.cmd (h : HeldTile) : Cmd := ⟨h.part, h.ctx, h.idx, h.desc⟩

/-- The record of a held one computed once more, with the bit errors of this run. -/
def State.upRerun (s : State) (h : HeldTile) (flips : List (Nat × Nat)) : UpOut :=
  let o := upRecord h.desc h.upIn (s.upRnd h.cmd)
  o.ofWords (applyFlips 0 flips o.words)

/-- One record of pass 3: computed, checked, and written or held (R225, R394 to R396). -/
def State.upOne (s : State) (c : Cmd) (env : CmdEnv) (i : UpIn) (ps : List (Bool × Bool)) : State :=
  let n := i.nt * upKt c.d + i.kt
  let o := upRecord c.d i (s.upRnd c)
  let o := o.ofWords (applyFlips (n * 2 ^ 24) env.flips o.words)
  let s := s.upOutFlags c o
  let miss := s.flag (UPD_CHK_CFG_WB_CHECK c.p) && o.checkMiss c.d
  let par := env.outParity.contains n
  if miss || par then
    let s := s.upRec c (if miss then 5 else 7) i.nt i.kt 0
    { s with held := s.held ++ [upHold c (s.stepOf c) (s.stepCycles c.p) (if miss then 0 else 2) i ps o] }
  else if s.upSampled c i.nt i.kt then
    { s with held := s.held ++ [upHold c (s.stepOf c) (s.stepCycles c.p) 3 i ps o] }
  else s.upWrite c i.nt i.kt o ps false

/-- An update command is done once no record of it is held. -/
def State.upSettle (s : State) (c : Cmd) : State :=
  if s.held.any (fun h => h.eng == 6 && h.part == c.p && h.ctx == c.ctx && h.idx == c.idx) then s
  else { s with inflight := s.inflight.map (fun (i : Issued) =>
    if i.part = c.p ∧ i.ctx = c.ctx ∧ i.idx = c.idx then { i with done := true } else i) }

/-- Passes 2 and 3 once pass 1 has not abandoned the command. -/
def State.upApply (s : State) (c : Cmd) (env : CmdEnv) (co : List Nat) (g : List (List Nat)) (r c2 : List Nat) (rbar : Nat) : State :=
  let d := c.d
  let fact := upFactored d
  let clip := coef co 7
  let rms := if FVal.lt (.fin false 0 0) (f32 clip) then
      f32Sqrt (f32Div (xsum ((g.zip (if fact then r else List.replicate (upNN d) 0)).flatMap (fun row =>
        (row.1.zip (if fact then c2 else List.replicate (upKK d) 0)).map (fun x =>
          let u := upU co fact row.2 x.2 rbar x.1; f32Mul u u)))) (f32OfNat (upNN d * upKK d)))
    else 0
  let clipped := FVal.lt (.fin false 0 0) (f32 clip) && FVal.lt (f32 clip) (f32 rms)
  let cf := if clipped then f32Div rms clip else 0x3F800000
  let s := s.upFlag c (UPD_STATUS_CLIPPED c.p) 0x12D (if clipped then 1 else 0)
  let s := s.setFld (UPD_LAST_CF_CF c.p) cf
  let ga := (g.map List.toArray).toArray
  let ra := r.toArray; let ca := c2.toArray
  let kc := upKc d
  let src := s
  (List.range (upNt d * upKt d)).foldl (fun t n =>
    let nt := n / upKt d; let kt := n % upKt d
    let i : UpIn := ⟨(upPlaces d nt kt).map (fun x => (ga.getD x.1 #[]).getD x.2 0),
      (List.range (128 * kc)).map (src.upMom c nt kt),
      (List.range (128 * kc)).map (fun e => src.cmdNat c.p c.ctx (upMasterAt d nt kt) (4 * e) 4),
      (List.range 128).map (fun e => ra.getD (128 * nt + e) 0),
      (List.range kc).map (fun e => ca.getD (kc * kt + e) 0), rbar, cf, co, nt, kt⟩
    t.upOne c env i (src.upPsn c nt kt)) s

/-- An update command that has issued (R217, R228, R229). -/
def State.upRun (s : State) (c : Cmd) (env : CmdEnv) : State :=
  let d := c.d
  let u := unitId c.p 0xC
  let rs := upRanges1 d ++ upRanges3 d
  let s := s.applyEnv c u rs env
  let bad1 := (upRanges1 d).findSome? (s.rngPoison c)
  let s := match rs.flatMap (s.rngFaults c) with
    | [] => s
    | f :: fs => s.noteFaults c (f :: fs)
  let co := s.upCoefs c
  let s := (s.setFld (UPD_STATUS_BUSY c.p) 1).pushIssued (issuedOf c (s.stepOf c) [6] 0 false false)
  match bad1 with
  | some a =>
    (((s.upFlag c (UPD_STATUS_POISON_IN c.p) 0x12A 1).consumePoison c u (poisonInput a) a).upSettle c).endEnv
  | none =>
    let g := (List.range (upNN d)).map (fun n => (List.range (upKK d)).map (s.upGrad c co n))
    match (g.zipIdx.findSome? (fun row => (row.1.findIdx? (fun x => !isFin32 x)).map (fun k => (row.2, k)))) with
    | some (n, k) =>
      (((s.upFlag c (UPD_STATUS_NONFINITE_GRAD c.p) 0x128 1).upRec c 1 (n / 128) (k / upKc d) 0).upSettle c).endEnv
    | none =>
      let fact := upFactored d
      let rd (o i : Nat) : Nat := s.cmdNat c.p c.ctx (upStat d + o) (4 * i) 4
      let r := if fact then g.zipIdx.map (fun row => upStatNew co (rd 0 row.2) row.1 (upKK d)) else []
      let ga := g.map List.toArray
      let c2 := if fact then (List.range (upKK d)).map (fun k =>
        upStatNew co (rd (8 * upNt d) k) (ga.map (fun row => row.getD k 0)) (upNN d)) else []
      let rbar := if fact then f32Div (xsum r) (f32OfNat (upNN d)) else 0
      let s := if fact then
        (s.cmdPut c (upStat d) 0 (r.flatMap (leBytes 4)) (fun _ => false)).cmdPut c (upStat d + 8 * upNt d) 0
          (c2.flatMap (leBytes 4)) (fun _ => false) else s
      let s := if fact && (r ++ c2).any (fun x => !isFin32 x) then s.upFlag c (UPD_STATUS_NONFINITE_OUT c.p) 0x129 1 else s
      let bad3 := (List.range (upNt d * upKt d)).findSome? (fun n =>
        let nt := n / upKt d; let kt := n % upKt d
        [({ addr := upMomentAddr d nt kt, n := (if upMbf d then 4 else 8) * upKc d, use := true } : Rng),
         { addr := upMasterAt d nt kt, n := 8 * upKc d, use := true }].findSome? (s.rngPoison c))
      let s := s.upApply c env co g r c2 rbar
      let s := match bad3 with
        | some a => (s.upFlag c (UPD_STATUS_POISON_IN c.p) 0x12A 1).consumePoison c u (poisonInput a) a
        | none => s
      let s := { s with inflight := s.inflight.map (fun (i : Issued) =>
        if i.part = c.p ∧ i.ctx = c.ctx ∧ i.idx = c.idx then { i with psn := bad3.isSome } else i) }
      (s.upSettle c).endEnv

/-- UPD_SGD. -/
def execUpdSgd (p ctx : Nat) (env : CmdEnv) (s : State) : Host.Outcome State Fault Refusal :=
  .next (s.tryIssue p ctx (fun d => dClass d == 3 && !upFactored d) false (fun c t => t.upRun c env))
/-- UPD_FACTORED. -/
def execUpdFactored (p ctx : Nat) (env : CmdEnv) (s : State) : Host.Outcome State Fault Refusal :=
  .next (s.tryIssue p ctx (fun d => dClass d == 3 && upFactored d) false (fun c t => t.upRun c env))

/-- UPD_SAMPLE_CROSSCHECK: the first sampled record of a partition that waits for it, recomputed on the sibling with the
bit errors of that run. -/
def execUpdSampleCrosscheck (p : Nat) (flips : List (Nat × Nat)) (s : State) : Host.Outcome State Fault Refusal :=
  match s.held.find? (fun h => h.part == p && h.eng == 6 && h.missKind == 3) with
  | none => .next s
  | some h =>
    let o := s.upRerun h flips
    if o.words = h.first then
      let s := { s with held := s.held.erase h }
      .next ((s.upWrite h.cmd h.nt h.kt o h.upPs false).upSettle h.cmd)
    else
      let h' : HeldTile := { h with missKind := 1, missAt := s.stepCycles p }
      .next ({ s with held := s.held.map (fun x => if x = h then h' else x) }.upRec h.cmd 6 h.nt h.kt 0)

/-! ## The step-size latch (R230 to R235) -/

/-- History record of a step into its slot (R233). -/
def State.histWrite (s : State) (p step : Nat) : State :=
  let a := localDatum p (s.fld (UPD_HIST_BASE_BASE p) + 2 * (step % 4096))
  let v := step + s.fld (UPD_ETA_CUR_ETA p) * 2 ^ 32 +
    (List.range 16).foldl (fun n i => n + s.fld (UPD_COEF_CUR_VALUE p i) * 2 ^ (64 + 32 * i)) 0 + 2 ^ 576
  (s.wrDatum a v false).wrDatum (a + 1) (v / 2 ^ 512) false

/-- History record of a step: step size and coefficients (R233, R234). -/
def State.histRead (s : State) (p step : Nat) : Option (List Nat) :=
  let a := localDatum p (s.fld (UPD_HIST_BASE_BASE p) + 2 * (step % 4096))
  let v := s.rdBytes (64 * a) 128
  if s.psn a || s.psn (a + 1) || !bitAt v 576 || bits v 0 32 != step then none
  else some ((List.range 17).map (fun i => bits v (32 + 32 * i) 32))

/-- Bump of tumbler 0 of an entry by the latch. -/
def State.bumpEta (s : State) (p e : Nat) : State := s.bump p (s.tumWin p e).1 1 s.gid p true

/-- Entries of a partition in a state. -/
def State.entriesIn (s : State) (p st : Nat) : List Nat :=
  (List.range 32).filter (fun e => s.fld (CAM_HOST_W0_STATE p e) == st)

/-- Completion of the latch of the running step with a step size (R230, R231): it takes effect, its history record is
written, tumbler 0 of every ACTIVE entry is bumped, and replay latches of that step complete with it (R234). -/
def State.latchDone (s : State) (p eta : Nat) : State :=
  let step := s.fld (UPD_ETA_STEP_STEP p)
  let s := (s.setFld (UPD_ETA_CUR_ETA p) eta).setFld (UPD_ETA_STATUS_OPEN p) 0
  let s := s.histWrite p step
  let s := (s.entriesIn p 2).foldl (fun t e => t.bumpEta p e) s
  let co := eta :: (List.range 16).map (fun i => s.fld (UPD_COEF_CUR_VALUE p i))
  (s.entriesIn p 3).foldl (fun t e =>
    if t.fld (CAM_HOST_W6_STEP p e) = step && t.stepCount p (t.tumWin p e).1 = 0 then
      { t with replayEta := storeSet [] t.replayEta (32 * p + e) co }.bumpEta p e
    else t) s

/-- Item 7 for one partition: coefficients, then the step size or an open latch, for step `step` (R230). -/
def State.latchItem7 (s : State) (p step : Nat) : State :=
  let s := forRange 16 (fun i t => t.setFld (UPD_COEF_CUR_VALUE p i) (t.fld (UPD_COEF_VALUE p i))) s
  let s := s.setFld (UPD_ETA_STEP_STEP p) step
  -- the snapshot of tumbler 0 just before the latch (R172)
  let s := (s.entriesIn p 2).foldl (fun t e => t.snapWin p (t.tumWin p e).1 1 0) s
  if s.flag (UPD_ETA_STATUS_PENDING p) then
    (s.setFld (UPD_ETA_STATUS_PENDING p) 0).latchDone p (s.fld (UPD_ETA_ETA p))
  else (s.setFld (UPD_ETA_STATUS_OPEN p) 1).setFld (UPD_ETA_CUR_ETA p) 0

/-- UPD_ETA_WRITE (R230, R231). -/
def State.updEtaWrite (s : State) (p v : Nat) : State :=
  if !isFin32 (v % 2 ^ 32) then (s.flagN (UPD_ETA_STATUS_ETA_INVALID p) p 0x131 1)
  else
    let s := s.setFld (UPD_ETA_ETA p) v
    if s.flag (UPD_ETA_STATUS_OPEN p) then
      ((s.latchDone p (v % 2 ^ 32)).flagN (UPD_ETA_STATUS_ETA_LATE p) p 0x12F 1)
    else (s.setFld (UPD_ETA_STATUS_PENDING p) 1)

/-- ETA_TIMEOUT (R232): once per step, when the latch is still open ETA_TIMEOUT after the issue base. -/
def execEtaTimeout (p : Nat) (s : State) : Host.Outcome State Fault Refusal :=
  let t := s.fld (UPD_ETA_TIMEOUT_TIMEOUT p)
  if t = 0 || !s.flag (UPD_ETA_STATUS_OPEN p) || decide (s.ftime < s.issueBase p + 4000 * t) ||
      storeGet false s.etaMissed p then .next s
  else
    let s := { s with etaMissed := storeSet false s.etaMissed p true }
    .next ((s.flagN (UPD_ETA_STATUS_ETA_MISSING p) p 0x130 1).detect (unitId p 0xC) 7 0 0xFFFFFF 0x3F 0 0 (s.jobOf p)
      (3 + s.fld (UPD_ETA_STEP_STEP p) * 2 ^ 32))

/-- JOB_SCALAR_WRITE (R141): to the shadow, or at once while no loaded slot owns the partition. -/
def State.jobScalarWrite (s : State) (p n : Nat) (hi : Bool) (v : Nat) : State :=
  let f := if hi then VXE_SREG_HI_VALUE p n else VXE_SREG_LO_VALUE p n
  let s := s.setFld f v
  if s.jobOf p = 8 then (s.setFld (actFld f) v)
  else (s.setFld ⟨VXE_SREG_PEND p, n, 1⟩ 1)

end Sys2Proof.Machine
end

