-- ==== Sys2Proof/Machine/TwoKey.lean ====
section
/-! DEFINITION. The two-key check of matrix tiles and update records (R397 to R400). `eng` is the physical matrix
engine whose miss is settled, or 6 for the update unit. -/
namespace Sys2Proof.Machine

/-- Tiles and records that wait for a check on an engine, oldest first; sampled records wait for R395 first. -/
def State.heldOn (s : State) (p eng : Nat) : Option HeldTile :=
  s.held.find? (fun h => h.part == p && h.eng == eng && h.missKind != 3)

/-- A held tile replaced by what the check has found. -/
def State.putHeld (s : State) (h h' : HeldTile) : State :=
  { s with held := s.held.map (fun x => if x = h then h' else x) }

/-- Whether an engine runs a repeat for a tile of another engine, or will. -/
def State.runsRepeat (s : State) (p eng : Nat) : Bool :=
  s.held.any (fun h => h.part == p && h.eng < 6 && h.same.isSome && h.other.isNone && h.sibling == some eng)

/-- The sibling of a matrix engine (R397): the next online engine, wrapping, that holds no tile for a check. -/
def State.mxSibling (s : State) (p eng : Nat) : Option Nat :=
  ((List.range 5).map (fun i => (eng + 1 + i) % 6)).find? (fun e =>
    bitAt (s.fld (MXE_ENG_ONLINE_ONLINE p)) e && !storeGet false s.resetting (unitId p e) &&
      (s.heldOn p e).isNone && !s.runsRepeat p e)

/-- A repeat of a held tile with the bit errors of this run: all chunks in order, then the check (R97, R113). -/
def State.mxRerun (s : State) (h : HeldTile) (flips : List (Nat × Nat)) : KeyRun :=
  let out := applyFlips 0 flips (mxTile h.desc h.init h.acts h.recs).1
  ⟨out, (tileCheck h.desc (s.fld (MXE_CFG_TOL_SHIFT h.part)) h.init h.acts h.recs out).any (·.miss)⟩

/-- A repeat of a held record (R399): the write-back check runs whatever WB_CHECK says, and the same unit also misses
when it gives the first run's bits again. -/
def State.upRepeat (s : State) (h : HeldTile) (flips : List (Nat × Nat)) (sameUnit : Bool) : KeyRun :=
  let o := s.upRerun h flips
  ⟨o.words, o.checkMiss h.desc || (sameUnit && o.words == h.first)⟩

/-- TWO_KEY_CHECK. -/
def execTwoKeyCheck (p eng : Nat) (flips : List (Nat × Nat)) (s : State) : Host.Outcome State Fault Refusal :=
  match s.heldOn p eng with
  | none => .next s
  | some h =>
    if h.same.isSome || s.runsRepeat p eng then .next s
    else if eng = 6 then
      .next (s.putHeld h { h with same := some (s.upRepeat h flips true), sibling := s.upSibling p })
    else .next (s.putHeld h { h with same := some (s.mxRerun h flips), sibling := s.mxSibling p eng })

/-- TWO_KEY_SIBLING_REPEAT. -/
def execTwoKeySiblingRepeat (p eng : Nat) (flips : List (Nat × Nat)) (s : State) : Host.Outcome State Fault Refusal :=
  match s.heldOn p eng with
  | none => .next s
  | some h =>
    if h.same.isNone || h.sibling.isNone || h.other.isSome then .next s
    else .next (s.putHeld h { h with other := some (if eng = 6 then s.upRepeat h flips false else s.mxRerun h flips) })

/-- Outcome code of Table 13.6 with the output it releases; none stands for poison. -/
def twoKeyOutcome (first : List Nat) (same : KeyRun) (other : Option KeyRun) : Nat × Option (List Nat) :=
  match other with
  | none =>
    if !same.miss then (0, some same.out) else if same.out = first then (1, none) else (2, none)
  | some o =>
    match same.miss, o.miss with
    | false, false => if same.out = o.out then (0, some same.out) else (4, none)
    | false, true => (3, some same.out)
    | true, false => (if same.out = first then 1 else 2, some o.out)
    | true, true => (4, none)

/-- The outcome's record, registers and counters (R398, Table 13.2, Table 13.12, Table 13.13). -/
def State.twoKeyNote (s : State) (h : HeldTile) (same : KeyRun) (code : Nat) (psn : Bool) : State :=
  let p := h.part
  let cyc := s.stepCycles p - h.missAt
  let sib := h.sibling.getD 0xFF
  let fl := (if same.miss then 0 else 1) + (match h.other with | some o => if o.miss then 0 else 2 | none => 0) +
    (if same.out = h.first then 4 else 0) + (match h.other with | some o => if o.out = same.out then 8 else 0 | none => 0)
  let upd := h.eng == 6
  let s := s.cmdRecord h.cmd (unitId p (if upd then 0xC else h.eng)) 4 (if psn then flPoison else 0)
    (code + (if upd then p else h.eng) * 2 ^ 8 + sib * 2 ^ 16 + fl * 2 ^ 24 + h.nt * 2 ^ 32 +
      (if upd then h.kt else h.mt) * 2 ^ 40 + (if upd then 2 ^ 48 else 0) + min cyc 0xFFFFFFFF * 2 ^ 64)
  if upd then
    let s := s.count p (0x140 + code) 1
    if s.flag (UPD_TWOKEY_CAP0_VALID p) then s else
      ((s.setFld (UPD_TWOKEY_CAP0_OUTCOME p) code).setFld (UPD_TWOKEY_CAP0_MISS p) (h.missKind + 1)).setFld
        (UPD_TWOKEY_CAP0_VALID p) 1
  else
    let s := (s.count p (0x138 + code) 1).setFld (MXE_TWOKEY_LAST_CYCLES p) (min cyc 0xFFFFFFFF)
    if s.flag (MXE_TWOKEY_CAP0_VALID p) then s else
      (((s.setFld (MXE_TWOKEY_CAP0_OUTCOME p) code).setFld (MXE_TWOKEY_CAP0_ENGINE p) h.eng).setFld
        (MXE_TWOKEY_CAP0_SIBLING p) (h.sibling.getD 7)).setFld (MXE_TWOKEY_CAP0_VALID p) 1

/-- Index of the vector command that follows a matrix command of a context. -/
def nextIdx (ctx idx : Nat) : Nat := if isRing ctx then (idx + 1) % 65536 else idx + 1

/-- A held matrix tile takes its place in the release order, with a result or with poison (R116). -/
def State.mxRelease1 (s : State) (h : HeldTile) (out : Option (List Nat)) : State :=
  let data := out.getD h.first
  let t : Tile := ⟨h.mt, h.nt, data, List.replicate 1024 out.isNone⟩
  let s := s.mxReleased h.part t
  let s := if out.isNone then s.consumePoison h.cmd (unitId h.part h.eng) 4 0xFFFFFFFF else s
  let s := { s with vxCmds := s.vxCmds.map (fun (v : VxCmd) =>
    if v.part = h.part ∧ v.ctx = h.ctx ∧ v.idx = nextIdx h.ctx h.idx then { v with tiles := v.tiles.set h.order (some t) } else v) }
  let waits := s.held.any (fun x => x.eng < 6 && x.part == h.part && x.ctx == h.ctx && x.idx == h.idx)
  { s with inflight := s.inflight.map (fun (i : Issued) =>
      if i.part = h.part ∧ i.ctx = h.ctx ∧ i.idx = h.idx then
        { i with done := i.done || !waits, psn := i.psn || out.isNone } else i) }

/-- A held record is written: a result, or its first outputs poisoned, the command then consuming poison (R229, R399). -/
def State.upRelease1 (s : State) (h : HeldTile) (out : Option (List Nat)) : State :=
  let o := s.upRerun h []
  match out with
  | some l => (s.upWrite h.cmd h.nt h.kt (o.ofWords l) h.upPs false).upSettle h.cmd
  | none =>
    let s := s.upWrite h.cmd h.nt h.kt (o.ofWords h.first) h.upPs true
    let s := s.consumePoison h.cmd (unitId h.part 0xC) 4 0xFFFFFFFF
    let s := { s with inflight := s.inflight.map (fun (i : Issued) =>
      if i.part = h.part ∧ i.ctx = h.ctx ∧ i.idx = h.idx then { i with psn := true } else i) }
    s.upSettle h.cmd

/-- TWO_KEY_OUTCOME. Both repeats are compared; a held tile whose context was killed meanwhile is classified and its
result discarded (R399, R400). What the outcome counts against the engines is settled when its record is written. -/
def execTwoKeyOutcome (p eng : Nat) (s : State) : Host.Outcome State Fault Refusal :=
  match s.heldOn p eng with
  | none => .next s
  | some h =>
    match h.same with
    | none => .next s
    | some same =>
      if h.sibling.isSome && h.other.isNone then .next s
      else
        let (code, out) := twoKeyOutcome h.first same h.other
        let s := { s with held := s.held.erase h }
        let s := s.twoKeyNote h same code out.isNone
        let s := if eng < 6 && (s.heldOn p eng).isNone then
          s.setFld (MXE_STATUS_HELD p) (s.fld (MXE_STATUS_HELD p) &&& (0x3F - 2 ^ eng)) else s
        .next (if eng = 6 then (if s.ctxDead p h.ctx then s.upSettle h.cmd else s.upRelease1 h out)
          else s.mxRelease1 h (if s.ctxDead p h.ctx then none else out))

end Sys2Proof.Machine
end

