-- ==== Sys2Proof/Machine/Discard.lean ====
section
/-! DEFINITION. Pins and alerts, the discarding of a context's work (R413), the fence (R375), and what units of the
module a loaded job uses. -/
namespace Sys2Proof.Machine

/-! ## Alerts and pins (R557, R564) -/

/-- A cause sets its bit of KPR_SB_ALERT; a transition from zero raises an IBI where ENEC allows it (R564). -/
def State.sbAlert (s : State) (bit : Nat) : State :=
  let was := s.reg KPR_SB_ALERT
  let s := s.setFld ⟨KPR_SB_ALERT, bit, 1⟩ 1
  if was = 0 && s.ibiEn then s.emit (.ibi (s.fld ⟨KPR_SB_ALERT, 0, 8⟩)) else s

def alError : Nat := 0
def alHealth : Nat := 1
def alFenced : Nat := 2
def alReset : Nat := 4
def alThermal : Nat := 5
def alCoolant : Nat := 6
def alInput : Nat := 7
def alPwrCycle : Nat := 8

/-- MOD_ALERT# is asserted (R564). -/
def State.modAlert (s : State) : Bool := s.reg KPR_SB_ALERT != 0

/-- Causes of MOD_FAULT# (`Pins.fault`). -/
def ftUnanswered : Nat := 1
def ftHeld : Nat := 2
def ftBoot : Nat := 4
def ftOvervolt : Nat := 8
def ftTrip : Nat := 16
def ftRetired : Nat := 32

def State.addFault (s : State) (m : Nat) : State :=
  let s := { s with pins := { s.pins with fault := s.pins.fault ||| m } }
  s.setFld KPR_SB_STATE_FAULT 1
def State.clearFault (s : State) (m : Nat) : State :=
  let f := s.pins.fault &&& (63 - m)
  ({ s with pins := { s.pins with fault := f } }).setFld KPR_SB_STATE_FAULT (if f = 0 then 0 else 1)

/-- MOD_READY as driven. -/
def State.setReady (s : State) (b : Bool) : State :=
  ({ s with pins := { s.pins with ready := b } }).setFld KPR_SB_STATE_READY (if b then 1 else 0)

/-! ## Job slots -/

/-- Whether a job slot is loaded: it owns a partition (R457, R493). -/
def State.slotLoaded (s : State) (j : Nat) : Bool := (List.range 8).any (fun p => storeGet 0 s.owner p == j + 1)
def State.anyLoaded (s : State) : Bool := (List.range 8).any s.slotLoaded
/-- Partitions of a job slot. -/
def State.slotParts (s : State) (j : Nat) : List Nat := (List.range 8).filter (fun p => storeGet 0 s.owner p == j + 1)
/-- Mask of the loaded job slots that use a power domain: the owner of its partition, or every slot for the hub. -/
def State.domJobs (s : State) (d : Nat) : Nat :=
  ((List.range 8).filter (fun j => s.slotLoaded j && (decide (32 ≤ d) || storeGet 0 s.owner (d / 4) == j + 1))).foldl
    (fun m j => m + 2 ^ j) 0

/-! ## Context reset (R413) -/

/-- Work of a context leaves every unit: END records with KILLED set, no bump, no write. -/
def State.discard (s : State) (p ctx : Nat) : State :=
  let mine (i : Issued) : Bool := i.part == p && i.ctx == ctx
  let s := (s.inflight.filter mine).foldl (fun t i => t.traceEnds i true) s
  let places := (s.colls.filter (fun k => k.part == p && k.ctx == ctx)).map (·.place)
  let s := { s with
    inflight := s.inflight.filter (fun i => !mine i),
    vxCmds := s.vxCmds.filter (fun v => !(v.part == p && v.ctx == ctx)),
    held := s.held.filter (fun h => !(h.part == p && h.ctx == ctx)),
    holds := s.holds.filter (fun h => !(h.part == p && h.ctx == ctx)),
    colls := s.colls.filter (fun k => !(k.part == p && k.ctx == ctx)),
    preload := s.preload.filter (fun c => !(c.1 / 8 == p && (match c.2 with | some x => x.ctx == ctx | none => false))),
    txq := s.txq.map (fun (x : TxPkt) => match x.cmd with
      | some (q, c, _) => if q = p && c = ctx then { x with cmd := none } else x
      | none => x) }
  let busy := (List.range 6).filter (fun e => s.inflight.any (fun (x : Issued) => x.part == p && x.engines.contains e))
  let s := s.setFld (MXE_STATUS_BUSY p) (busy.foldl (fun m e => m + 2 ^ e) 0)
  let s := s.setFld (MXE_STATUS_HELD p) ((s.held.filter (fun (h : HeldTile) => h.part == p && decide (h.eng < 6))).foldl (fun m (h : HeldTile) => m ||| 2 ^ h.eng) 0)
  let s := s.setFld (UPD_STATUS_BUSY p) (if s.inflight.any (fun x => x.part == p && x.engines.contains 6) then 1 else 0)
  if places.isEmpty then s else s.colBusy

/-- A context reset: its work is discarded; an entry enters KILLED unless it is FREE or in FAULT, a ring that is on
enters HALTED. -/
def State.ctxReset (s : State) (p ctx : Nat) : State :=
  let s := s.discard p ctx
  if isRing ctx then
    (if s.fld (CAM_RING_CTRL_STATE p (ctx - 32)) = 1 then s.setFld (CAM_RING_CTRL_STATE p (ctx - 32)) 2 else s)
  else
    let st := s.fld (CAM_HOST_W0_STATE p ctx)
    if st = 0 || st = 5 || st = 6 then s else s.enterKilled p ctx

/-- Context resets of every context of a partition. -/
def State.ctxResetAll (s : State) (p : Nat) : State := forRange 36 (fun c t => t.ctxReset p c) s

/-! ## Freeing (R358) -/

/-- A hosting entry becomes FREE. -/
def State.freeEntry (s : State) (p e : Nat) : State :=
  (((s.discard p e).clearRegs (CAM_HOST_W0 p e) 16).setFld ⟨CAM_KILLED p, e, 1⟩ 0)

end Sys2Proof.Machine
end

