-- ==== Sys2Proof/Machine/History.lean ====
section
/-! DEFINITION. Unit history, counted detections, CONDITIONAL units with their guards, retirement and health
(R371 to R373, R401 to R408, R446 to R448). -/
namespace Sys2Proof.Machine

/-! ## Unit history -/

def histInit : UnitHist := ⟨0, 0, 0, 0, 0, 0, 0⟩
def State.hist (s : State) (u : Nat) : UnitHist := (storeGet none s.uhs u).getD histInit
def State.opmin (s : State) : Nat := s.fld EVR_OPMIN_OPMIN

/-- Units that stand in a state copy (R447). -/
def histListed (h : UnitHist) : Bool := h.state != 0 || h.readmits != 0

/-- A change of a unit's history; UHS_ENTRIES follows. -/
def State.setHist (s : State) (u : Nat) (h : UnitHist) : State :=
  let h := { h with opmin := s.opmin }
  let s := { s with uhs := storeSet none s.uhs u (some h), uhsDirty := true }
  s.setFld UHS_ENTRIES_ENTRIES (s.uhs.filter (fun c => match c.2 with | some x => histListed x | none => false)).length

/-! ## Bands and exposure (Table 13.9, R405) -/

/-- Temperature band of a reading in 1/16 °C, two's complement. -/
def tempBand (t : Nat) : Nat :=
  let c := signedOf t 16
  if c < 640 then 0 else if c ≥ 1600 then 7 else ((c - 640) / 160).toNat + 1

/-- Voltage band of a rail against its set point. -/
def voltBand (mv set : Nat) : Nat :=
  if set = 0 then 2
  else if 100 * mv < 98 * set then 0 else if mv < set then 1 else if 100 * mv < 102 * set then 2 else 3

/-- Scope whose exposure a unit is judged by: 0 to 7 partitions, 8 to 15 stacks, 16 to 23 hub groups, 31 none. -/
def scopeOf (u : Nat) : Nat :=
  let d := unitDie u
  if d = 0 then 16 + unitPart u % 8
  else if d = 1 || d = 2 then (if unitPart u < 8 then unitPart u else 31)
  else if 4 ≤ d && d < 12 then 8 + (d - 4) else 31

/-- Exposure slot of a band: temperature 0 to 7, voltage 8 to 11, activity 12 to 15. -/
def expoSlot (axis band : Nat) : Nat := (if axis = 0 then 0 else if axis = 1 then 8 else 12) + band
/-- Key of the exposure of a scope, slot and operating hour. -/
def expoKey (scope slot hour : Nat) : Nat := hour * 512 + scope * 16 + slot

/-- Seconds a scope has spent in a slot over the last `hours` operating hours. -/
def State.expoSum (s : State) (scope slot hours : Nat) : Nat :=
  let now := s.opmin / 60
  (s.expo.filter (fun c => c.1 % 512 == scope * 16 + slot && decide (now < c.1 / 512 + hours))).foldl (fun n c => n + c.2) 0

/-- WINDOW of a threshold row in hours, and its COUNT. -/
def State.thWindow (s : State) (row : Nat) : Nat := max 1 (s.fld (KPR_TH_WINDOW row))
def State.thCount (s : State) (row : Nat) : Nat := max 1 (s.fld (KPR_TH_COUNT row))

/-- Detections of a unit and row within the window. -/
def State.detsIn (s : State) (unit row : Nat) : List Det :=
  s.dets.filter (fun d => d.unit == unit && d.row == row && decide (s.opmin < d.opmin + 60 * s.thWindow row))

def detSum (l : List Det) : Nat := l.foldl (fun n d => n + d.count) 0

/-- Band of a detection on an axis. -/
def Det.band (d : Det) (axis : Nat) : Nat := if axis = 0 then d.temp else if axis = 1 then d.volt else d.act

/-- The axis and band of R406's test, with the detections in it and its exposure in sixteenths. -/
def State.condTest (s : State) (unit row : Nat) : Option (Nat × Nat × Nat × Nat) :=
  let ds := s.detsIn unit row
  let n := detSum ds
  let sc := scopeOf unit
  let w := s.thWindow row
  [0, 1, 2].findSome? (fun axis =>
    let bands := if axis = 0 then 8 else 4
    let total := (List.range bands).foldl (fun t b => t + s.expoSum sc (expoSlot axis b) w) 0
    let q := (List.range bands).filterMap (fun b =>
      let m := detSum (ds.filter (fun d => d.band axis == b))
      let e := s.expoSum sc (expoSlot axis b) w
      if 0 < m && n * s.fld KPR_COND_CFG_COND_FRAC ≤ 16 * m && 16 * e ≤ s.fld KPR_COND_CFG_COND_EXPOSE * total then
        some (b, m, if total = 0 then 0 else 16 * e / total) else none)
    -- the qualifying band with the most detections, a tie to the lower band
    (q.foldl (fun (a : Option (Nat × Nat × Nat)) x => match a with
      | none => some x
      | some y => if y.2.1 < x.2.1 then some x else some y) none).map (fun x => (axis, x.1, x.2.1, x.2.2)))

/-! ## Rails and guards (R406, R508, R509) -/

/-- Set point of a rail without guards. -/
def State.railBase (s : State) (r : Nat) : Nat :=
  if 1 ≤ r && r ≤ 16 then 600 + (s.jobMhz ((r - 1) % 8) - 400) / 8
  else if 17 ≤ r && r ≤ 24 then 1050
  else match r with
    | 25 => 800 | 26 => 800 | 27 => 750 | 28 => 900 | 29 => 900 | 30 => 800 | 31 => 1200 | _ => 0

/-- Guard offsets on a rail: those in effect, and all that stand. -/
def State.guardMv (s : State) (r : Nat) (all : Bool) : Nat :=
  (s.guards.filter (fun g => g.kind == 1 && g.rail == r && (if all then !g.removing else (g.pend == 0) != g.removing))).foldl
    (fun n g => n + g.mv) 0

/-- Set points with guard offsets (PWR_RAIL_r). -/
def State.setRails (s : State) : State :=
  forRange 32 (fun r t => t.setFld (PWR_RAIL_SET_MV r) (t.railBase r + t.guardMv r false)) s

/-- Guard rail of a unit; none where R508 names none. -/
def guardRail (u : Nat) : Option Nat :=
  let d := unitDie u; let p := unitPart u; let i := unitIdx u
  if d = 1 || d = 2 then (if p = 15 then none else some (domainRail (unitDomain u)))
  else if 4 ≤ d && d < 12 then (if i = 0xFF then none else some (17 + p))
  else if d = 0 then
    (match p with
     | 0 => some 30
     | 1 => if i < 0x60 then some 28 else some 27
     | 3 => some 27 | 4 => some 27 | 5 => some 27
     | _ => none)
  else none

/-- Whether a unit lies in a matrix or vector/scalar domain of a compute die. -/
def clockGuardable (u : Nat) : Bool :=
  (unitDie u == 1 || unitDie u == 2) && unitPart u != 15 && decide (unitDomain u % 4 < 2)

/-- CLK_GUARD and the guard bits of KPR_COND_STATUS. -/
def State.setClockGuard (s : State) : State :=
  match s.guards.find? (fun g => g.kind == 2 && !g.removing) with
  | some g => (s.setFld CLK_GUARD_GUARD_MHZ (1600 - g.mv)).setFld KPR_COND_STATUS_CLOCK_GUARD 1
  | none => (s.setFld CLK_GUARD_GUARD_MHZ 1600).setFld KPR_COND_STATUS_CLOCK_GUARD 0

/-- Removal of a unit's guard at the next hinge of the slots that use its domain, or at once (R408). -/
def State.dropGuard (s : State) (u : Nat) : State :=
  let m := s.domJobs (unitDomain u)
  let gs := s.guards.filterMap (fun (g : Guard) =>
    if g.unit ≠ u then some g
    else if m = 0 || g.pend ≠ 0 then none else some { g with removing := true, pend := m })
  ({ s with guards := gs }.setRails).setClockGuard

/-- A hinge of slot `j`: the guards that waited for it (R406). -/
def State.hingeGuards (s : State) (j : Nat) : State :=
  let gs := s.guards.filterMap (fun (g : Guard) =>
    let p := if bitAt g.pend j then g.pend - 2 ^ j else g.pend
    if p = 0 && g.removing then none else some { g with pend := p })
  ({ s with guards := gs }.setRails).setClockGuard

/-! ## CONDITIONAL entries (KPR_COND_n) -/

/-- Entry of a unit. -/
def State.condEntry (s : State) (u : Nat) : Option Nat :=
  (List.range 16).find? (fun n => s.flag (KPR_COND_VALID n) && s.fld (KPR_COND_UNIT n) == u)

def State.condCount (s : State) : State :=
  s.setFld KPR_COND_STATUS_COUNT ((List.range 16).filter (fun n => s.flag (KPR_COND_VALID n))).length

/-- A unit leaves CONDITIONAL: its entry is cleared. -/
def State.condClear (s : State) (u : Nat) : State :=
  match s.condEntry u with
  | some n => (s.setReg (KPR_COND n) 0).condCount
  | none => s

/-- A Keeper's record about a unit with the condition of the detection that led to it. -/
def State.keeperRec (s : State) (u cls flags syn : Nat) : State :=
  let job := if (unitDie u = 1 || unitDie u = 2) && unitPart u < 8 then s.jobOf (unitPart u) else 8
  s.detect u cls flags 0xFFFFFF 0x3F 0 0 job syn

/-- A POWER record (Table 18.9). -/
def State.powerRec (s : State) (unit kind index dom val limit us : Nat) : State :=
  s.keeperRec unit 0x10 0 (kind + index % 2 ^ 8 * 2 ^ 8 + dom % 2 ^ 8 * 2 ^ 16 + val % 2 ^ 16 * 2 ^ 32 + limit % 2 ^ 16 * 2 ^ 48 +
    min us 0xFFFFFFFF * 2 ^ 64)

/-! ## Health (R371 to R373, R408) -/

/-- Whether a partition holds a CONDITIONAL unit. -/
def State.hasCond (s : State) (p : Nat) : Bool :=
  (List.range 16).any (fun n => s.flag (KPR_COND_VALID n) &&
    (let u := s.fld (KPR_COND_UNIT n); decide (1 ≤ unitDie u) && unitDie u != 3 && unitPart u == p))

/-- The module's state from its partitions and the hub (R371). -/
def State.moduleHealth (s : State) (hubFatal : Bool) : Nat :=
  let hs := ((List.range 8).filter s.present).map (fun p => s.fld (RCV_HEALTH_PART p))
  if s.flag RCV_FENCE_FENCED then 4
  else if hubFatal || hs.all (· == 3) then 3
  else if hs.contains 1 then 1 else if hs.contains 2 then 2 else 0

/-- Whether the module is RETIRED for its hub: unit 0x0000 stands retired in unit history. -/
def State.hubFatal (s : State) : Bool := (s.hist 0).state == 1

/-- MODULE of RCV_HEALTH and of the sideband follow; a module RETIRED asserts MOD_FAULT#. -/
def State.syncHealth (s : State) : State :=
  let h := s.moduleHealth s.hubFatal
  let s := (s.setFld RCV_HEALTH_MODULE h).setFld KPR_SB_STATE_HEALTH h
  if h = 3 then s.addFault ftRetired else s.clearFault ftRetired

/-- A HEALTH record (Table 13.2). -/
def State.healthRec (s : State) (scope p old new cause flags : Nat) : State :=
  s.keeperRec (if scope = 0 then 0 else unitId p 0x10) 0x0E flags
    (scope + p * 2 ^ 8 + old * 2 ^ 16 + new * 2 ^ 24 + cause * 2 ^ 32)

/-- A partition's health state changes. -/
def State.setHealth (s : State) (p new cause flags : Nat) : State :=
  let old := s.fld (RCV_HEALTH_PART p)
  if old = new then s else
  let oldM := s.fld RCV_HEALTH_MODULE
  let s := ((s.setFld (RCV_HEALTH_PART p) new).syncHealth).sbAlert alHealth
  let s := { s with uhsDirty := true }
  let s := s.healthRec 1 p old new cause flags
  let newM := s.fld RCV_HEALTH_MODULE
  if oldM = newM then s else s.healthRec 0 0 oldM newM cause flags

/-- A partition is CONDITIONAL while any of its units is, unless a worse state applies (R408). -/
def State.condHealth (s : State) (p cause : Nat) : State :=
  match s.fld (RCV_HEALTH_PART p) with
  | 0 => if s.hasCond p then s.setHealth p 2 6 0 else s
  | 2 => if s.hasCond p then s else s.setHealth p 0 cause 0
  | _ => s

/-- Self-retirements within the window (R372). -/
def State.retireUsed (s : State) : State :=
  let w := 60 * max 1 (s.fld RCV_RETIRE_CFG_RETIRE_WINDOW)
  let n := (s.retires.filter (fun m => decide (s.opmin < m + w))).length
  (s.setFld RCV_RETIRE_USED_USED (min n 15)).setFld RCV_RETIRE_USED_SPENT (if s.fld RCV_RETIRE_CFG_RETIRE_MAX ≤ n then 1 else 0)

/-- A partition enters RETIRED: it runs no work, its domains are off, operations that use it end with ABORTED, and the
module runs nothing more of the job it hosted (R373, Table 12.7). -/
def State.retirePart (s : State) (p cause : Nat) (flags : Nat) : State :=
  if s.fld (RCV_HEALTH_PART p) = 3 then s else
  let j := s.jobOf p
  let hosts := decide (j < 8) && (List.range 32).any (fun e => s.fld (CAM_HOST_W0_STATE p e) != 0)
  let s := { s with retires := s.retires ++ [s.opmin] }.retireUsed
  let s := s.ctxResetAll p
  let s := forRange 4 (fun k t => t.setDom (4 * p + k) 3) s
  let s := s.setHealth p 3 cause flags
  let s := s.endOps (fun o => (o.op == 4 && o.args.getD 1 0 % 16 == p) || (o.op == 10 && bitAt (o.arg 0) p)) stAborted []
  if hosts then { s with jobOut := storeSet false s.jobOut j true } else s

/-- A fatal fault of a partition (R403). -/
def State.partFatal (s : State) (p : Nat) : State := s.retirePart p 1 flFatal

/-- A non-fatal demotion: within the budget the partition retires, beyond it the partition is SUSPECT (R372).
Answers whether it retired. -/
def State.partDemote (s : State) (p : Nat) : State × Bool :=
  let s := s.retireUsed
  if s.flag RCV_RETIRE_USED_SPENT then (s.setHealth p 1 3 0, false) else (s.retirePart p 2 0, true)

/-- A fatal fault of the module (R371, R403). -/
def State.moduleFatal (s : State) : State :=
  let oldM := s.fld RCV_HEALTH_MODULE
  let s := s.setHist 0 { s.hist 0 with state := 1 }
  let s := (s.syncHealth).sbAlert alHealth
  let newM := s.fld RCV_HEALTH_MODULE
  if oldM = newM then s else s.healthRec 0 0 oldM newM 1 flFatal

/-! ## Retirement of units (Table 13.8) -/

/-- MXE_ENG_MAP: logical slots in ascending order on the online engines (R106). -/
def State.mxMap (s : State) (p : Nat) : State :=
  let on := (List.range 6).filter (fun e => bitAt (s.fld (MXE_ENG_ONLINE_ONLINE p)) e)
  forRange 6 (fun j t => t.setFld (MXE_ENG_MAP_SLOT p j) (on.getD j 7)) s

/-- A lane leaves service for good (R253). -/
def State.retireLane (s : State) (x : Nat) : State :=
  let k := x / 16; let b := x % 16
  let s := s.setFld ⟨FAB_LANE_RETIRED k, b, 1⟩ 1
  s.setFld ⟨FAB_LANE_ACTIVE k, b, 1⟩ 0

/-- Retirements that a stack's or a tile store's spare holds (Table 7.6). -/
def State.spareHolds (s : State) (p : Nat) (hbm : Bool) : Nat :=
  4 * (if hbm then s.spareGib p else s.tsSpareMib p) / 3

/-- Retired pseudo-channels or banks of a partition. -/
def State.retiredUnits (s : State) (p : Nat) (hbm : Bool) : List Nat :=
  (List.range 64).filter (fun x =>
    if hbm then bitAt (s.reg64 (MEM_PC_RETIRED_LO p)) x else bitAt (s.reg64 (TSR_BANK_RETIRED_LO p)) x)

/-- Key of a pseudo-channel or bank in `deadChan` and `migr`. -/
def chanKey (p x : Nat) (hbm : Bool) : Nat := if hbm then p * 64 + x else 0x10000 + p * 64 + x

/-- The Keeper's decision to retire a pseudo-channel or bank (R210, R211). Answers whether the spare holds it. -/
def State.retireChan (s : State) (p x : Nat) (hbm : Bool) : State × Bool :=
  let k := chanKey p x hbm
  let queued := (s.migr.filter (fun m => decide (m / 64 = k / 64))).length
  if s.migr.contains k || (s.retiredUnits p hbm).contains x then (s, true)
  else if (s.retiredUnits p hbm).length + queued < s.spareHolds p hbm then
    (({ s with migr := s.migr ++ [k] }).setFld (if hbm then MEM_STATUS_MIGRATING p else TSR_STATUS_MIGRATING p) 1, true)
  else
    let s := { s with deadChan := storeSet false s.deadChan k true }
    let s := s.setFld (if hbm then MEM_STATUS_SPARE_EXHAUSTED p else TSR_STATUS_SPARE_EXHAUSTED p) 1
    (s.detect (if hbm then stackUnit p 0xFF else unitId p (0x20 + x)) 2 0 0xFFFFFF 0x3F 0 0 (s.jobOf p)
      (0xFFFFFFFF + x * 2 ^ 32 + 5 * 2 ^ 40 + p * 2 ^ 48), false)

/-- Threshold row of a unit that is neither counted per row nor on row 7 to 9 (Table 13.7). -/
def unitRow (u : Nat) : Nat :=
  let d := unitDie u; let i := unitIdx u
  if (d = 1 || d = 2) && unitPart u ≠ 15 then
    (if i < 6 then 7 else if i = 8 || i = 9 then 8 else if i = 0xC then 9 else if 0x20 ≤ i && i < 0x60 then 4 else 10)
  else if 4 ≤ d && d < 12 then 1
  else if d = 0 && unitPart u = 1 && i < 0x60 then 0 else 11

/-- A RETIRE record (Table 13.2). -/
def State.retireRec (s : State) (u reason row n : Nat) : State :=
  s.keeperRec u 0x0D 0 (reason + row * 2 ^ 8 + n % 2 ^ 32 * 2 ^ 32)

/-- Whether units of a partition all stand retired in unit history. -/
def State.allRetired (s : State) (l : List Nat) (p : Nat) : Bool := l.all (fun i => (s.hist (unitId p i)).state == 1)

/-- The action of Table 13.8 on a unit classified permanent. -/
def State.retireAction (s : State) (u : Nat) : State :=
  let d := unitDie u; let p := unitPart u; let i := unitIdx u
  if (d = 1 || d = 2) && p < 8 then
    if i < 6 then
      let s := s.setFld ⟨MXE_ENG_ONLINE p, i, 1⟩ 0
      let s := s.mxMap p
      if s.allRetired [0, 1, 2, 3, 4, 5] p then s.partFatal p else s
    else if i = 8 || i = 9 then
      let s := s.setFld ⟨VXE_ENG_ONLINE p, i - 8, 1⟩ 0
      if s.allRetired [8, 9] p then s.partFatal p else s
    else if 0x20 ≤ i && i < 0x60 then
      let r := s.retireChan p (i - 0x20) false
      if r.2 then r.1 else r.1.partFatal p
    else s.partFatal p
  else if 4 ≤ d && d < 12 then
    if i < 64 then
      let r := s.retireChan p i true
      if r.2 then r.1 else (r.1.retireRec (stackUnit p 0xFF) 4 1 0).partFatal p
    else s.partFatal p
  else if d = 0 && p = 1 && i < 0x60 then s.retireLane i
  else if d = 0 && p = 1 && i < 0x66 then forRange 16 (fun b t => t.retireLane (16 * (i - 0x60) + b)) s
  else s.moduleFatal

/-- Whether the action of Table 13.8 on a unit is fatal for its partition. -/
def State.actionFatal (s : State) (u : Nat) : Bool :=
  let d := unitDie u; let p := unitPart u; let i := unitIdx u
  (d == 1 || d == 2) && decide (p < 8) &&
    !(i < 6 && !s.allRetired ([0, 1, 2, 3, 4, 5].filter (· != i)) p) &&
    !((i == 8 || i == 9) && !s.allRetired [17 - i] p) && !(0x20 ≤ i && i < 0x60)

/-- A unit classified permanent (R402): its record, its history, and the action; its CONDITIONAL state ends. -/
def State.permanent (s : State) (u reason row n : Nat) : State :=
  let s := s.retireRec u reason row n
  let s := s.setHist u { s.hist u with state := 1, reason := reason }
  let s := (s.condClear u).dropGuard u
  let s := s.retireAction u
  if (unitDie u = 1 || unitDie u = 2 || 4 ≤ unitDie u) && unitPart u < 8 then s.condHealth (unitPart u) 6 else s

/-- A CONDITIONAL record (Table 13.2). -/
def State.condRec (s : State) (u axis band guard action n nb e : Nat) : State :=
  s.keeperRec u 0x0C 0 (axis + band * 2 ^ 8 + guard * 2 ^ 16 + action * 2 ^ 24 + min n 0xFFFF * 2 ^ 32 +
    min nb 0xFFFF * 2 ^ 48 + e * 2 ^ 64)

/-- CONDITIONAL_SET (R406): the unit's state and entry, its record, its window restarted, its guard. -/
def State.condSet (s : State) (u row : Nat) (t : Nat × Nat × Nat × Nat) : State :=
  let n := detSum (s.detsIn u row)
  let cfg := s.fld KPR_COND_CFG_GUARD
  let want := if cfg = 3 then 1 else cfg
  let clockFree := !s.guards.any (fun g => g.kind == 2 && g.unit != u)
  let guard := if want = 2 && !(clockFree && clockGuardable u) then 1 else want
  let mv := s.fld KPR_COND_CFG_GUARD_MV
  let entry := match s.condEntry u with
    | some e => some e
    | none => (List.range 16).find? (fun e => !s.flag (KPR_COND_VALID e))
  match entry with
  | none => s.permanent u 1 row n
  | some e =>
    let rail := guardRail u
    let fits := decide (s.guardMv (rail.getD 0) true + mv ≤ 40)
    let none_ := guard == 0 || (guard == 1 && (rail.isNone || !fits))
    let g := if none_ then 0 else guard
    let s := s.setHist u { s.hist u with state := 2, axis := t.1, band := t.2.1, guard := g }
    let s := (((((s.setFld (KPR_COND_UNIT e) u).setFld (KPR_COND_AXIS e) t.1).setFld (KPR_COND_BAND e) t.2.1).setFld
      (KPR_COND_GUARD e) g).setFld (KPR_COND_VALID e) 1).condCount.setFld KPR_COND_STATUS_COND_SEEN 1
    let s := s.condRec u t.1 t.2.1 g 0 n t.2.2.1 t.2.2.2
    let s := { s with dets := s.dets.filter (fun d => !(d.unit == u)) }
    if none_ then s.permanent u 1 row n
    else
      let m := if g = 2 then (List.range 8).foldl (fun m j => if s.slotLoaded j then m + 2 ^ j else m) 0 else s.domJobs (unitDomain u)
      let gd : Guard := ⟨u, g, rail.getD 0, if g = 2 then s.fld KPR_COND_CFG_GUARD_MHZ else mv, m, false⟩
      let s := ({ s with guards := s.guards.filter (fun (x : Guard) => x.unit != u) ++ [gd] }.setRails).setClockGuard
      if (unitDie u = 1 || unitDie u = 2 || 4 ≤ unitDie u) && unitPart u < 8 then s.condHealth (unitPart u) 6 else s

/-- GUARD_FAIL (R407). -/
def State.guardFail (s : State) (u row : Nat) : State :=
  let h := s.hist u
  let n := detSum (s.detsIn u row)
  let s := (s.setFld KPR_COND_STATUS_GUARD_FAIL 1).condRec u h.axis h.band h.guard 1 n 0 0
  if s.actionFatal u then
    if h.reason = 3 || s.fld (RCV_HEALTH_PART (unitPart u)) = 1 then s
    else
      let (s, retired) := s.partDemote (unitPart u)
      if retired then
        ((s.setHist u { s.hist u with state := 1, reason := 3 }).condClear u).dropGuard u
      else s
  else s.permanent u 3 row n

/-- The Keeper counts `n` detections against a unit (R401, R402, R407). -/
def State.countDet (s : State) (u row n ftime temp volt act : Nat) : State :=
  if n = 0 || (s.hist u).state = 1 || s.dets.any (fun d => d.unit == u && decide (ftime < d.ftime + 4000000)) then s else
  let d : Det := ⟨u, row, temp, volt, act, s.opmin, ftime, n, false⟩
  let s := { s with dets := s.dets ++ [d] }
  let h := s.hist u
  if h.state = 2 && d.band h.axis = h.band && s.guards.any (fun g => g.unit == u && g.pend == 0 && !g.removing) then
    s.guardFail u row
  else if s.thCount row ≤ detSum (s.detsIn u row) then
    match s.condTest u row with
    | some t => s.condSet u row t
    | none => s.permanent u 1 row (detSum (s.detsIn u row))
  else s

/-! ## Re-admission (R404, R449) -/

/-- A unit's retired or CONDITIONAL state and its detections are cleared, with a RETIRE record of reason 0x05. -/
def State.readmit (s : State) (u : Nat) : State :=
  let h := s.hist u
  let s := s.setHist u { h with state := 0, reason := 0, readmits := h.readmits + 1 }
  let s := { s with
    dets := s.dets.filter (fun (d : Det) => d.unit != u)
    detLog := s.detLog.filter (fun e => bits e 0 16 != u || decide (0x10 ≤ bits e 16 8)) }
  ((s.condClear u).dropGuard u).retireRec u 5 0 0

end Sys2Proof.Machine
end

