-- ==== Sys2Proof/Machine/Recorder.lean ====
section
/-! DEFINITION. The event recorder: operating time, bins and extremes, day and month closes, checkpoints, flushes,
the detection log and the state copies (chapter 15). -/
namespace Sys2Proof.Machine

/-! ## Records as bytes (Table 15.3) -/

/-- A recorder record of 64 bytes. -/
def RecRec.word (r : RecRec) : Nat :=
  let b := r.type % 256 + 2 ^ 8 + r.repeats % 2 ^ 16 * 2 ^ 16 + r.opmin % 2 ^ 32 * 2 ^ 32 + r.pcyc % 2 ^ 32 * 2 ^ 64 +
    r.rseq % 2 ^ 32 * 2 ^ 96 + r.body % 2 ^ 352 * 2 ^ 128
  b + crc32c (leBytes 60 b) * 2 ^ 480

/-- Value `v` in `n` bytes at record byte `at_`, as part of a body. -/
def fieldAt (at_ n v : Nat) : Nat := v % 256 ^ n * 256 ^ (at_ - 16)

/-! ## NVM records (Table 15.2) -/

def State.nvm (s : State) (unit kind addr count : Nat) : State :=
  s.detect unit 0x11 0 0xFFFFFF 0x3F 0 0 8 (kind + addr * 2 ^ 32 + min count 0xFFFFFFFF * 2 ^ 64)

/-- MRAM_LINE_REMAP (R432): lines whose verification failed twice, by byte address; with no spare line left the array
is permanent and the module fatal. -/
def State.remapLines (s : State) (lines : List Nat) : State :=
  lines.foldl (fun t a =>
    let used := t.fld UHS_NVM_SPARE_USED
    if used ≥ 1024 then (t.nvm 0x3F00 3 a 1).moduleFatal
    else (t.setFld UHS_NVM_SPARE_USED (used + 1)).nvm 0x3F00 2 a (used + 1)) s

/-! ## The recent tier (R442, R444) -/

def recentLines : Nat := 114688

/-- A record into the next line of the recent tier; the oldest ages out when the ring is full. -/
def State.recPut (s : State) (r : RecRec) : State :=
  let t := s.fld EVR_RECENT_TAIL_TAIL
  let n := (t + 1) % recentLines
  let s := { s with recent := storeSet none s.recent t (some r) }.setFld EVR_RECENT_TAIL_TAIL n
  if n = s.fld EVR_RECENT_HEAD_HEAD then
    let h := s.fld EVR_RECENT_HEAD_HEAD
    { s with recent := storeErase h s.recent }.setFld EVR_RECENT_HEAD_HEAD ((h + 1) % recentLines)
  else s

/-! ## The detection log (R448) -/

def logCap : Nat := 122880

/-- Band byte of a log entry: 0xFF when mixed. -/
def bandByte (d : Det) : Nat := if d.temp > 7 then 0xFF else d.temp + d.volt * 8 + d.act * 32

/-- A log entry of a detection. -/
def Det.entry (d : Det) : Nat :=
  d.unit % 2 ^ 16 + d.row % 256 * 2 ^ 16 + bandByte d * 2 ^ 24 + d.opmin % 2 ^ 32 * 2 ^ 32 + d.ftime % 2 ^ 64 * 2 ^ 64 +
    min d.count 0xFFFF * 2 ^ 128

/-- One detection for those of one unit, row and band set. -/
def mergeDets (mixed : Bool) : List Det → List Det → List Det
  | acc, [] => acc
  | acc, d :: t =>
    let d := if mixed then { d with temp := 8, volt := 0, act := 0 } else d
    let hit (x : Det) : Bool := x.unit == d.unit && x.row == d.row && bandByte x == bandByte d
    mergeDets mixed (if acc.any hit then acc.map (fun x => if hit x then { x with count := x.count + d.count } else x)
      else acc ++ [d]) t

/-- Longest window of Table 13.7 in operating minutes. -/
def State.maxWindow (s : State) : Nat := (List.range 12).foldl (fun m r => max m (60 * s.thWindow r)) 0

/-- DETECTION_LOG_COMPACT: entries outside every window are dropped, those of one key within one span of 1,440 minutes
merged under their newest OPMIN. -/
def State.logCompact (s : State) : State :=
  let now := s.opmin
  let live := s.detLog.filter (fun e => decide (now < bits e 32 32 + s.maxWindow))
  let merged := live.foldl (fun (acc : List Nat) e =>
    let same (x : Nat) : Bool := x % 2 ^ 32 == e % 2 ^ 32 && bits e 16 8 < 0x10 && decide (bits e 32 32 < bits x 32 32 + 1440)
    if acc.any same then acc.map (fun x => if same x then
        x % 2 ^ 32 + bits e 32 32 * 2 ^ 32 + bits x 64 64 * 2 ^ 64 + min (bits x 128 16 + bits e 128 16) 0xFFFF * 2 ^ 128 else x)
    else acc ++ [e]) []
  ({ s with detLog := merged }.setFld UHS_STATUS_COMPACT_SEEN 1).gcount 0x255 1

/-- Entries into the detection log, which is compacted when full. -/
def State.logPut (s : State) (es : List Nat) : State :=
  let s := if s.detLog.length + es.length > logCap then s.logCompact else s
  let s := { s with detLog := (s.detLog ++ es).drop (s.detLog.length + es.length - logCap) }
  s.setFld UHS_STATUS_LOG_USE (s.detLog.length * 100 / logCap)

/-- The detections of a flush: one entry for each unit, row and band set, at most 256. -/
def State.logFlush (s : State) : State :=
  let new := s.dets.filter (fun d => !d.logged)
  let keys := mergeDets false [] new
  let out := if keys.length ≤ 256 then keys else mergeDets true [] new
  let taken := out.take 256
  let done (d : Det) : Bool := taken.any (fun x => x.unit == d.unit && x.row == d.row)
  ({ s with dets := s.dets.map (fun d => if done d then { d with logged := true } else d) }).logPut (taken.map Det.entry)

/-- A flush without its conditions: the last line rewritten with its repeats, the staged records, the detections. -/
def State.flushNow (s : State) : State :=
  let s := s.logFlush
  let s := { s with lastFlush := (s.opmin, s.ftime) }.gcount 0x253 1
  match s.staged.getLast? with
  | none => s
  | some last =>
    let s := match s.rewrite with
      | some r => { s with recent := storeSet none s.recent ((s.fld EVR_RECENT_TAIL_TAIL + recentLines - 1) % recentLines) (some r) }
      | none => s
    let s := s.staged.foldl State.recPut s
    ({ s with staged := [], rewrite := some last }).setFld EVR_STATUS_STAGED 0

/-- One NVM record for the records dropped from staging (R444). -/
def State.noteDrops (s : State) : State :=
  if s.recDrops.1 = 0 then { s with recLost := false }
  else if s.recLost then s
  else { s with recLost := true }.nvm 0x3F01 6 0xFFFFFFFF s.recDrops.1

/-- RECORDER_FLUSH: when 192 records are staged or FLUSH_MIN minutes have passed, and 60 s since the last flush.
`bad` names the lines whose verification fails twice. -/
def execRecorderFlush (bad : List Nat) (s : State) : Host.Outcome State Fault Refusal :=
  let n := min 60 (max 1 (s.fld EVR_CFG_FLUSH_MIN))
  if (192 ≤ s.staged.length || decide (s.lastFlush.1 + n ≤ s.opmin)) && decide (s.lastFlush.2 + 240000000000 ≤ s.ftime) then
    .next ((s.noteDrops.flushNow).remapLines bad)
  else .next s

/-- A daily or monthly record, which is never dropped: the close flushes when staging is full. -/
def State.closeRec (s : State) (type body : Nat) : State :=
  let s := if s.staged.length ≥ 255 then s.flushNow else s
  s.pushGap.pushRec type body

/-! ## Accumulators -/

/-- Keys of `acc`: bins of the day and of the month, then the other counts. -/
def binTemp (x b : Nat) : Nat := x * 32 + b
def binRail (r b : Nat) : Nat := 2048 + r * 16 + b
def binLane (x b : Nat) : Nat := 2560 + x * 8 + b
def kMonth : Nat := 0x10000
def kMinutes : Nat := 0x20000
def kLost : Nat := 0x20001
def kBoots : Nat := 0x20002
def kOverflow : Nat := 0x20004
def kMonthOff : Nat := 0x100
def kFirstDay : Nat := 0x20104
def kMonthIdx : Nat := 0x20105
def kDrops : Nat := 0x20006
def kLaneFault (x : Nat) : Nat := 0x21000 + x
def kLaneUe (x : Nat) : Nat := 0x21100 + x
def kSde (u slot : Nat) : Nat := 0x1000000 + u * 16 + slot
def kSdeMonth (p slot : Nat) : Nat := 0x22000 + p * 16 + slot
def kErrMonth (die cls : Nat) : Nat := 0x23000 + die * 32 + cls

def State.accGet (s : State) (k : Nat) : Nat := storeGet 0 s.acc k
def State.accAdd (s : State) (k n : Nat) : State := { s with acc := storeSet 0 s.acc k (s.accGet k + n) }
/-- A count of the day and of the month. -/
def State.binAdd (s : State) (k : Nat) : State := (s.accAdd k 1).accAdd (kMonth + k) 1

/-- Temperature bin of Table 15.6. -/
def tempBin (t : Nat) : Nat := let v := signedOf t 16; if v < 0 then 0 else min ((v / 64).toNat + 1) 31
/-- Rail bin: deviation of a mean from a set point. -/
def railBin (mv set : Nat) : Nat :=
  let d : Int := 1000 * ((mv : Int) - set) + 35 * set
  if set = 0 || d < 0 then 0 else min 15 ((d / (5 * set)).toNat + 1)
/-- Lane bin: corrected symbols over symbols received. -/
def laneBin (c n ue : Nat) : Nat :=
  if ue ≠ 0 || n ≤ c * 10 ^ 4 && c ≠ 0 then 7
  else if c = 0 then 0
  else if c * 10 ^ 9 < n then 1
  else if c * 10 ^ 8 < n then 2 else if c * 10 ^ 7 < n then 3 else if c * 10 ^ 6 < n then 4
  else if c * 10 ^ 5 < n then 5 else 6

/-- Set point a rail's deviation is taken from; VIN, which has none, from the 48 V feed. -/
def State.railSet (s : State) (r : Nat) : Nat := if r = 0 then 48000 else s.fld (PWR_RAIL_SET_MV r)

/-- Domain of a sensor or rail, for the minutes in which it was off. -/
def sensorDomain (x : Nat) : Option Nat := if x < 40 then some x else none
def State.itemOn (s : State) (d : Option Nat) : Bool := match d with | some d => s.domState d != 3 | none => true

/-- Extremes of an item: largest value, its OPMIN and fabric time, smallest value, its OPMIN and fabric time. A tie
keeps the earlier time. `le` compares as the item's values are. -/
def extend (lt : Nat → Nat → Bool) (old : List Nat) (op hi hiT lo loT : Nat) : List Nat :=
  match old with
  | [a, b, c, d, e, f] =>
    (if lt a hi then [hi, op, hiT] else [a, b, c]) ++ (if lt lo d then [lo, op, loT] else [d, e, f])
  | _ => [hi, op, hiT, lo, op, loT]

def ltTemp (a b : Nat) : Bool := decide (signedOf a 16 < signedOf b 16)
def ltNat (a b : Nat) : Bool := decide (a < b)

/-- Keys of `accExt`: an item's day extremes, and its month extremes 0x100 above. -/
def State.extAdd (s : State) (lt : Nat → Nat → Bool) (k hi hiT lo loT : Nat) : State :=
  let f (m : Store (List Nat)) (k : Nat) : Store (List Nat) :=
    storeSet [] m k (extend lt (storeGet [] m k) s.opmin hi hiT lo loT)
  { s with accExt := f (f s.accExt k) (0x100 + k) }

/-- The bins and extremes of a minute (R437). -/
def State.minuteBins (s : State) (m : Minute) : State :=
  let s := m.temps.foldl (fun t (x, hi, hiT, lo, loT) =>
    if t.itemOn (sensorDomain x) then (t.binAdd (binTemp x (tempBin hi))).extAdd ltTemp x hi hiT lo loT else t) s
  let s := m.rails.foldl (fun t (r, mean, hi, hiT, lo, loT) =>
    (t.binAdd (binRail r (railBin mean (t.railSet r)))).extAdd ltNat (64 + r) hi hiT lo loT) s
  let s := m.lanes.foldl (fun t (x, c, n, ue) =>
    let t := t.accAdd (kLaneUe x) ue
    if bitAt (t.fld (FAB_LANE_ACTIVE_ACTIVE (x / 16))) (x % 16) then t.binAdd (binLane x (laneBin c n ue)) else t) s
  let s := s.extAdd ltNat 96 m.pin s.ftime m.pin s.ftime
  let s := s.extAdd ltNat 97 m.vinHigh s.ftime m.vinLow s.ftime
  (s.accAdd kMinutes 1).accAdd (kMinutes + kMonthOff) 1

/-- OPMIN into the next line of the operating-time ring (R433). -/
def State.opRingWrite (s : State) : State :=
  let n := storeGet 0 s.opRing 1024
  { s with opRing := storeSet 0 (storeSet 0 s.opRing n (s.opmin + 1)) 1024 ((n + 1) % 1024) }

/-- OPMIN_TICK: an operating minute with what was measured over it, while the module has input power. -/
def execOpminTick (m : Minute) (s : State) : Host.Outcome State Fault Refusal :=
  if s.boot = .off then .next s
  else .next (((s.setFld EVR_OPMIN_OPMIN (s.opmin + 1)).opRingWrite).minuteBins m)

/-! ## Closes (R438, R439) -/

/-- A list of counts of `w` bits each, first lowest. -/
def packCounts (w cap : Nat) (l : List Nat) : Nat := l.zipIdx.foldl (fun n x => n + min x.1 cap * 2 ^ (w * x.2)) 0

def State.bins (s : State) (k n : Nat) : List Nat := (List.range n).map (fun b => s.accGet (k + b))
/-- Monthly hour counts: minutes over 60, rounded half up. -/
def State.hours (s : State) (k n : Nat) : List Nat := (s.bins (kMonth + k) n).map (fun m => min ((m + 30) / 60) 1023)

/-- Body of an EXT_DAY record. -/
def extBody (kind idx : Nat) (e : List Nat) : Nat :=
  fieldAt 16 1 kind + fieldAt 17 1 idx + fieldAt 18 2 (e.getD 0 0) + fieldAt 20 4 (e.getD 1 0) + fieldAt 24 8 (e.getD 2 0) +
    fieldAt 32 2 (e.getD 3 0) + fieldAt 34 4 (e.getD 4 0) + fieldAt 38 8 (e.getD 5 0)

/-- SDE_DAY units of the open day, ascending. -/
def State.sdeUnits (s : State) : List Nat :=
  ((s.acc.filter (fun c => decide (0x1000000 ≤ c.1))).map (fun c => (c.1 - 0x1000000) / 16)).eraseDups

/-- The records of a day close, in their order (R438). -/
def State.dayRecords (s : State) : List (Nat × Nat) :=
  [(0x01, fieldAt 16 4 (s.fld EVR_DAY_DAY) + fieldAt 20 4 (s.accGet kMinutes) + fieldAt 24 4 (s.accGet kLost) +
    fieldAt 28 2 (s.accGet kBoots) + fieldAt 30 4 (storeGet 0 s.cnt (gcntKey 0x251) - s.accGet kDrops) +
    fieldAt 34 1 (s.accGet kOverflow))] ++
  (List.range 128).map (fun i => (0x02, fieldAt 16 1 (i / 2) + fieldAt 17 1 (i % 2) +
    fieldAt 20 32 (packCounts 16 0xFFFF (s.bins (binTemp (i / 2) (16 * (i % 2))) 16)))) ++
  (List.range 32).map (fun r => (0x03, fieldAt 16 1 r + fieldAt 20 2 (s.railSet r) +
    fieldAt 24 32 (packCounts 16 0xFFFF (s.bins (binRail r 0) 16)))) ++
  (List.range 96).map (fun x => (0x04, fieldAt 16 1 x +
    fieldAt 17 1 (if bitAt (s.fld (FAB_LANE_RETIRED_RETIRED (x / 16))) (x % 16) then 1 else 0) +
    fieldAt 18 2 (min (s.accGet (kLaneFault x)) 0xFFFF) + fieldAt 20 4 (min (s.accGet (kLaneUe x)) 0xFFFFFFFF) +
    fieldAt 24 16 (packCounts 16 0xFFFF (s.bins (binLane x 0) 8)))) ++
  (List.range 64).map (fun x => (0x05, extBody 0 x (storeGet [] s.accExt x))) ++
  (List.range 32).map (fun r => (0x05, extBody 1 r (storeGet [] s.accExt (64 + r)))) ++
  s.tally.map (fun t => (0x06, fieldAt 16 2 (t.getD 0 0) + fieldAt 18 1 (t.getD 1 0) + fieldAt 20 4 (t.getD 2 0) +
    fieldAt 24 4 (t.getD 3 0) + fieldAt 28 4 (t.getD 4 0) + fieldAt 32 4 (t.getD 5 0) + fieldAt 36 4 (t.getD 6 0))) ++
  s.sdeUnits.map (fun u => (0x07, fieldAt 16 2 u + fieldAt 20 32 (packCounts 16 0xFFFF (s.bins (kSde u 0) 16))))

/-- Exposure entries of the open day, minutes by band (R448). -/
def State.expoEntries (s : State) : List Nat :=
  (List.range 24).flatMap (fun sc =>
    let id := if sc < 8 then unitId sc 0xFF else if sc < 16 then stackUnit (sc - 8) 0xFF else (sc - 16) * 0x100 + 0xFF
    [0, 1].map (fun h =>
      id + (0x10 + h) * 2 ^ 16 + s.opmin % 2 ^ 32 * 2 ^ 32 +
        packCounts 16 0xFFFF ((List.range 8).map (fun b => storeGet 0 s.expoDay (sc * 16 + 8 * h + b) / 60)) * 2 ^ 128))

/-- A checkpoint into the oldest of the four slots (R440). -/
def State.checkpoint (s : State) : State :=
  { s with ckpts := (⟨s.opmin, s.acc, s.accExt, s.tally, s.expoDay⟩ :: s.ckpts).take 4 }

/-- Whether an accumulator belongs to the month. -/
def monthKey (k : Nat) : Bool :=
  (decide (kMonth ≤ k) && decide (k < kMinutes)) || (decide (0x20100 ≤ k) && decide (k < 0x21000)) ||
    (decide (0x22000 ≤ k) && decide (k < 0x1000000))

/-- The open day's accumulators back to nothing. -/
def State.dayClear (s : State) : State :=
  { s with
      acc := storeSet 0 (s.acc.filter (fun c => monthKey c.1)) kDrops (storeGet 0 s.cnt (gcntKey 0x251)),
      accExt := s.accExt.filter (fun c => decide (0x100 ≤ c.1)), tally := [], expoDay := [] }

/-- A day close without its condition. -/
def State.dayClose (s : State) : State :=
  let first := s.fld EVR_RSEQ_RSEQ
  let s := if s.accGet kFirstDay = 0 then { s with acc := storeSet 0 s.acc kFirstDay (first + 1) } else s
  let s := s.dayRecords.foldl (fun t r => t.closeRec r.1 r.2) s
  let s := s.logPut s.expoEntries
  let s := s.dayClear
  (((s.setFld EVR_DAY_DAY (s.fld EVR_DAY_DAY + 1)).flushNow).checkpoint)

/-- DAY_CLOSE: OPMIN has reached the end of the open day. -/
def execDayClose (s : State) : Host.Outcome State Fault Refusal :=
  if s.opmin % 1440 = 0 && s.fld EVR_DAY_DAY < s.opmin / 1440 then .next s.dayClose else .next s

/-- The hottest (or coldest) sensor of the month: sensor, reading, OPMIN. -/
def State.extSensor (s : State) (cold : Bool) : Nat × Nat × Nat :=
  ((List.range 64).filterMap (fun x => match storeGet [] s.accExt (0x100 + x) with
    | [a, b, _, d, e, _] => some (x, if cold then d else a, if cold then e else b)
    | _ => none)).foldl (fun (m : Nat × Nat × Nat × Bool) r =>
      if !m.2.2.2 then (r.1, r.2.1, r.2.2, true)
      else if (if cold then ltTemp r.2.1 m.2.1 else ltTemp m.2.1 r.2.1) then (r.1, r.2.1, r.2.2, true) else m) (0, 0, 0, false)
    |> fun m => (m.1, m.2.1, m.2.2.1)

/-- Whole °C of a reading, two's complement in a byte. -/
def wholeC (t : Nat) : Nat := codeOf (signedOf t 16 / 16) 8

/-- The 126 records of a month close (Table 15.4). -/
def State.monthRecords (s : State) : List (Nat × Nat) :=
  let ext (k : Nat) : List Nat := storeGet [] s.accExt (0x100 + k)
  let hot := s.extSensor false
  let cold := s.extSensor true
  [(0x20, fieldAt 16 4 (s.accGet kMonthIdx) + fieldAt 20 4 (s.accGet (kMinutes + kMonthOff)) +
    fieldAt 24 4 (s.accGet (kLost + kMonthOff)) + fieldAt 28 4 (s.accGet (kBoots + kMonthOff)) +
    fieldAt 32 4 (s.accGet kFirstDay - 1))] ++
  (List.range 64).map (fun x => (0x21, fieldAt 16 1 x + fieldAt 17 40 (packCounts 10 1023 (s.hours (binTemp x 0) 32)) +
    fieldAt 57 1 (wholeC ((ext x).getD 0 0)) + fieldAt 58 1 (wholeC ((ext x).getD 3 0)))) ++
  (List.range 16).map (fun m => (0x22, fieldAt 16 1 (2 * m) + fieldAt 17 20 (packCounts 10 1023 (s.hours (binRail (2 * m) 0) 16)) +
    fieldAt 37 1 (2 * m + 1) + fieldAt 38 20 (packCounts 10 1023 (s.hours (binRail (2 * m + 1) 0) 16)))) ++
  (List.range 24).map (fun m => (0x23, fieldAt 16 1 (4 * m) +
    fieldAt 17 40 (packCounts 10 1023 ((List.range 4).flatMap (fun i => s.hours (binLane (4 * m + i) 0) 8))))) ++
  (List.range 8).map (fun p => (0x24, fieldAt 16 1 p + fieldAt 20 32 (packCounts 16 0xFFFF (s.bins (kSdeMonth p 0) 16)))) ++
  (List.range 12).map (fun d => (0x25, fieldAt 16 1 d + fieldAt 18 34 (packCounts 16 0xFFFF (s.bins (kErrMonth d 1) 17)))) ++
  [(0x26, fieldAt 16 1 hot.1 + fieldAt 18 2 hot.2.1 + fieldAt 20 4 hot.2.2 + fieldAt 24 1 cold.1 + fieldAt 26 2 cold.2.1 +
    fieldAt 28 4 cold.2.2 + fieldAt 32 2 ((ext 96).getD 0 0) + fieldAt 34 4 ((ext 96).getD 1 0) +
    fieldAt 38 2 ((ext 97).getD 3 0) + fieldAt 40 4 ((ext 97).getD 4 0) + fieldAt 44 2 ((ext 97).getD 0 0) +
    fieldAt 46 4 ((ext 97).getD 1 0))]

/-- A monthly record into the lifetime tier. -/
def State.lifePut (s : State) (r : Nat × Nat) : State :=
  let n := s.fld EVR_LIFE_COUNT_COUNT
  let (s, x) := s.formRec r.1 r.2
  { s with life := storeSet none s.life n (some x) }.setFld EVR_LIFE_COUNT_COUNT (n + 1)

/-- MONTH_CLOSE: after the day close of a month's last day. -/
def execMonthClose (s : State) : Host.Outcome State Fault Refusal :=
  if s.opmin % 43200 = 0 && s.fld EVR_DAY_DAY = s.opmin / 1440 && s.accGet kMonthIdx < s.opmin / 43200 then
    let rs := s.monthRecords
    let s :=
      if s.fld EVR_LIFE_COUNT_COUNT + 126 ≤ 16384 then rs.foldl State.lifePut s
      else
        let s := if s.flag EVR_STATUS_LIFE_FULL then s else (s.setFld EVR_STATUS_LIFE_FULL 1).nvm 0x3F01 5 0xFFFFFFFF 1
        rs.foldl (fun t r => t.closeRec r.1 r.2) s
    let s := s.flushNow
    .next { s with
      acc := storeSet 0 (s.acc.filter (fun c => !monthKey c.1)) kMonthIdx (s.opmin / 43200),
      accExt := s.accExt.filter (fun c => decide (c.1 < 0x100)) }
  else .next s

/-- ACCUMULATOR_CHECKPOINT (R440): every 60 operating minutes. -/
def execAccumulatorCheckpoint (s : State) : Host.Outcome State Fault Refusal :=
  if s.opmin % 60 = 0 && (match s.ckpts with | c :: _ => c.opmin != s.opmin | [] => true) then .next s.checkpoint
  else .next s

/-! ## State copies (R447) -/

/-- Registers a state copy holds: health, fence, escalation counts, the last reset and the boot cause. -/
def histRegs : List Nat :=
  [RCV_HEALTH, RCV_RETIRE_USED, RCV_FENCE, RCV_FENCE_JOB, KPR_ESC_COUNT, KPR_RST_LAST0, KPR_RST_LAST1, KPR_RST_LAST2,
   KPR_RST_LAST3, KPR_BOOT_CAUSE, CLK_GUARD, KPR_COND_STATUS] ++ (List.range 16).map KPR_COND ++
  (List.range 8).flatMap (fun p => [MEM_PC_RETIRED_LO p, MEM_PC_RETIRED_HI p, TSR_BANK_RETIRED_LO p, TSR_BANK_RETIRED_HI p,
    MXE_ENG_ONLINE p, MXE_ENG_MAP p, VXE_ENG_ONLINE p]) ++
  (List.range 6).map FAB_LANE_RETIRED

/-- The older copy takes the state as it stands. -/
def State.copyNow (s : State) : State :=
  let q := s.fld UHS_STATE_SEQ_SEQ + 1
  let c : HistCopy := ⟨q, s.uhs, s.guards, s.rstLog, s.retires, histRegs.map (fun a => (a, (s.reg a).toNat))⟩
  { s with copies := storeSet none s.copies (q % 2) (some c), uhsDirty := false, copyMin := s.opmin + 1 }.setFld UHS_STATE_SEQ_SEQ q

/-- STATE_COPY_WRITE: something has changed and no copy has been written in this operating minute. -/
def execStateCopyWrite (s : State) : Host.Outcome State Fault Refusal :=
  if s.uhsDirty && s.copyMin != s.opmin + 1 then .next s.copyNow else .next s

end Sys2Proof.Machine
end

