-- ==== Sys2Proof/Machine/Errors.lean ====
section
/-! DEFINITION. What the Keeper does with a detection: the error ring, the alert, the recorder, and the counting that
retires units (R380 to R408); die-to-die retries, migrations, exposure samples and patrol scrub. -/
namespace Sys2Proof.Machine

/-! ## The record (Table 13.1) -/

/-- Bytes 0 to 59 of a record, and its CRC. -/
def ErrRec.word (r : ErrRec) (seq opmin : Nat) : Nat :=
  let b := r.unit % 2 ^ 16 + r.cls % 256 * 2 ^ 16 + r.flags % 256 * 2 ^ 24 + seq % 2 ^ 32 * 2 ^ 32 +
    r.ftime % 2 ^ 64 * 2 ^ 64 + opmin % 2 ^ 32 * 2 ^ 128 + r.desc % 2 ^ 24 * 2 ^ 160 + r.ctx % 64 * 2 ^ 184 +
    r.layer % 2 ^ 16 * 2 ^ 192 + r.operator % 2 ^ 16 * 2 ^ 208 + r.job % 8 * 2 ^ 224 + r.sensor % 256 * 2 ^ 232 +
    r.temp % 2 ^ 16 * 2 ^ 240 + r.railMv % 2 ^ 16 * 2 ^ 256 + r.rail % 256 * 2 ^ 272 + r.jobId % 2 ^ 32 * 2 ^ 288 +
    r.syndrome % 2 ^ 128 * 2 ^ 320 + r.gen % 2 ^ 16 * 2 ^ 448
  b + crc32c (leBytes 60 b) * 2 ^ 480

/-- Body of the recorder's ERROR record (Table 15.5). -/
def ErrRec.body (r : ErrRec) (seq now : Nat) : Nat :=
  fieldAt 16 2 r.unit + fieldAt 18 1 r.cls + fieldAt 19 1 r.flags + fieldAt 20 4 seq + fieldAt 24 8 r.ftime +
    fieldAt 32 8 now + fieldAt 40 16 r.syndrome + fieldAt 56 1 (r.job % 8)

/-- Byte `i` of a syndrome, byte 40 of the record being byte 0. -/
def ErrRec.syn (r : ErrRec) (i n : Nat) : Nat := r.syndrome / 256 ^ i % 256 ^ n

/-- A record into the error ring (R381). -/
def State.ringPut (s : State) (w : Nat) : State :=
  let t := s.fld KPR_ERR_TAIL_TAIL
  let n := (t + 1) % 1024
  let s := forRange 16 (fun i x => x.setReg (KPR_ERR_RING t + 4 * i) (BitVec.ofNat 32 (w / 2 ^ (32 * i)))) s
  let s := (s.setFld KPR_ERR_TAIL_TAIL n).gcount 0x230 1
  if n = s.fld KPR_ERR_HEAD_HEAD then
    ((s.setFld KPR_ERR_HEAD_HEAD ((n + 1) % 1024)).setFld KPR_ERR_STATUS_OVERRUN 1).gcount 0x231 1
  else s

/-- Partition a unit lies in for a trace trigger (R541): a compute-die partition field or a stack. -/
def tracePart (u : Nat) : Option Nat :=
  if (unitDie u = 1 || unitDie u = 2 || (4 ≤ unitDie u && unitDie u < 12)) && unitPart u < 8 then some (unitPart u) else none

/-- A silent-error detection (R437). -/
def ErrRec.silent (r : ErrRec) : Bool :=
  (r.cls == 3 && (r.syn 0 1 == 0 || r.syn 0 1 == 3)) || (r.cls == 7 && (r.syn 0 1 == 5 || r.syn 0 1 == 6 || r.syn 0 1 == 7))

/-- Voltage band of the detection. -/
def State.recVolt (s : State) (r : ErrRec) : Nat := voltBand r.railMv (s.railSet r.rail)

/-- One tally of the day, the pairs beyond 1,024 in a last one (R438). -/
def State.tallyAdd (s : State) (r : ErrRec) : State :=
  let b (i : Nat) : Nat := if bitAt r.flags i then 1 else 0
  let add (u c : Nat) : State :=
    let one : List Nat := [u, c, 1, b 3, b 2, b 1, b 0]
    if s.tally.any (fun t => t.take 2 == [u, c]) then
      { s with tally := s.tally.map (fun t => if t.take 2 = [u, c] then
          [u, c] ++ ((t.drop 2).zipWith (fun x y => min (x + y) 0xFFFFFFFF) (one.drop 2)) else t) }
    else { s with tally := s.tally ++ [one] }
  if s.tally.any (fun t => t.take 2 == [r.unit, r.cls]) || s.tally.length < 1024 then add r.unit r.cls
  else { add 0xFFFF 0xFF with acc := storeSet 0 s.acc kOverflow 1 }

/-- The accumulators of the recorder: the day's tally, the month's errors by die, silent errors by band (R437, R438,
R441). -/
def State.recAccumulate (s : State) (r : ErrRec) : State :=
  let s := (s.tallyAdd r).accAdd (kErrMonth (unitDie r.unit) r.cls) 1
  if r.silent then
    [expoSlot 0 (tempBand r.temp), expoSlot 1 (s.recVolt r), expoSlot 2 r.act].foldl (fun t k =>
      (t.accAdd (kSde r.unit k) 1).accAdd (kSdeMonth (unitPart r.unit) k) 1) s
  else s

/-! ## What a record counts against (Table 13.6, Table 13.7) -/

/-- `n` detections of a record against a unit on a row. -/
def State.countRow (s : State) (r : ErrRec) (u row n : Nat) : State :=
  s.countDet u row n r.ftime (tempBand r.temp) (s.recVolt r) r.act

/-- Detections of a two-key outcome: against the engine and against its sibling; the third says that the engine is
permanent at once (Table 13.6). -/
def twoKeyCounts (code flags : Nat) : Nat × Nat × Bool :=
  match code with
  | 0 => (1, 0, false)
  | 1 => (0, 0, true)
  | 2 => (2, 0, false)
  | 3 => (1, 1, false)
  | 4 => if flags % 4 = 3 then (1, 1, false) else (0, 0, false)
  | _ => (0, 0, false)

/-- Faults of the Keeper itself: three of one kind within 168 h are fatal for the module (R422). -/
def State.countKeeper (s : State) (r : ErrRec) (row : Nat) : State :=
  let s := { s with dets := s.dets ++ [⟨r.unit, row, tempBand r.temp, s.recVolt r, r.act, s.opmin, r.ftime, 1, false⟩] }
  if 3 ≤ detSum (s.dets.filter (fun d => d.row == row && decide (s.opmin < d.opmin + 10080))) then s.moduleFatal else s

/-- A record counted in unit history. -/
def State.countRec (s : State) (r : ErrRec) : State :=
  match r.cls with
  | 0 => s.countRow r r.unit r.syndrome 1
  | 1 =>
    let row := unitRow (r.syn 6 2)
    if row = 8 || row = 10 || row = 11 then s.countRow r (r.syn 6 2) row 1 else s
  | 2 =>
    match r.syn 5 1 with
    | 0 => s.countRow r r.unit 1 1
    | 3 => s.countRow r r.unit 1 1
    | 4 => s.countRow r r.unit 4 1
    | _ => s
  | 4 =>
    let upd := r.syn 6 1 == 1
    let row := if upd then 9 else 7
    let (a, b, perm) := twoKeyCounts (r.syn 0 1) (r.syn 3 1)
    let sib := if upd then unitId (r.syn 2 1) 0xC else unitId (unitPart r.unit) (r.syn 2 1)
    if perm then
      (if (s.hist r.unit).state = 1 then s else s.permanent r.unit 2 row (detSum (s.detsIn r.unit row)))
    else (s.countRow r r.unit row a).countRow r sib row b
  | 0x0A => if r.syn 2 1 = 1 then s.countRow r r.unit 0 1 else if r.syn 2 1 = 5 then s.countRow r r.unit 11 1 else s
  | 0x0F => if r.syn 0 1 = 8 then s.countKeeper r 12 else if r.syn 0 1 = 9 then s.countKeeper r 13 else s
  | 0x10 =>
    match r.syn 0 1 with
    | 3 => s.countRow r 0x0700 11 1
    | 6 => s.countRow r r.unit 10 1
    | 7 => s.countRow r r.unit (if r.unit = 0x0700 then 11 else 10) 1
    | _ => s
  | 0x11 => if r.syn 0 1 = 1 || r.syn 0 1 = 2 then s.countRow r 0x3F01 11 1 else s
  | _ => s

/-- The record of a detection: ring, interrupt, alert, trigger, recorder, and then the counts (R380 to R382, R441,
R541). -/
def State.writeRecord (s : State) (r : ErrRec) : State :=
  let seq := s.fld KPR_ERR_SEQ_SEQ
  let s := (s.ringPut (r.word seq s.opmin)).setFld KPR_ERR_SEQ_SEQ (seq + 1)
  let s := { s with irqPend := storeSet false s.irqPend 2 true }
  let s := if bitAt (s.fld KPR_ERR_ALERT_MASK_MASK) r.cls || bitAt r.flags 0 then
    ((((s.setFld KPR_SB_LAST_ERR_UNIT r.unit).setFld KPR_SB_LAST_ERR_CLASS r.cls).setFld KPR_SB_LAST_ERR_FLAGS r.flags).setFld
      KPR_SB_LAST_SEQ_SEQ seq).sbAlert alError else s
  let s := match tracePart r.unit with
    | some p => if bitAt (s.fld (TRC_TRIG_CFG_CLASS_MASK p)) (r.cls - 1) && decide (0 < r.cls) then s.trigger p 2 r.cls 0 else s
    | none => s
  let s := (s.stageRec 0x11 (r.body seq s.ftime)).recAccumulate r
  s.countRec r

/-- Detections taken from the front of the queue: those that write no record are counted on the way to the first that
does. -/
def State.takeDetections (s : State) : List ErrRec → State
  | [] => s
  | r :: t =>
    let s := { s with detections := s.detections.drop 1 }
    if r.cls = 0 then (s.countRec r).takeDetections t else s.writeRecord r

/-- ERR_RING_HEAD_WRITE (R381). -/
def State.errRingHeadWrite (s : State) (v : Nat) : State :=
  (s.setFld KPR_ERR_HEAD_HEAD v)

/-- D2D_RETRY (R385): a die-to-die endpoint saw a mismatch on a datum of a producer, and the second copy was clean. -/
def execD2dRetry (unit addr mask prod : Nat) (s : State) : Host.Outcome State Fault Refusal :=
  .next (s.detect unit 1 flCorrected 0xFFFFFF 0x3F 0 0 8
    (addr % 2 ^ 32 + mask % 2 ^ 16 * 2 ^ 32 + prod % 2 ^ 16 * 2 ^ 48 + 2 * 2 ^ 64))

/-- MIGRATION_COMPLETE (R210): the last granule of the running retirement of a stack (`hbm`) or tile store is copied.
`ecc` gives the granules that were not clean as the copy read them, by physical datum and end (R205). -/
def execMigrationComplete (p : Nat) (hbm : Bool) (ecc : List (Nat × Nat)) (s : State) : Host.Outcome State Fault Refusal :=
  let base := chanKey p 0 hbm
  match s.migr.find? (fun k => decide (k / 64 = base / 64)) with
  | none => .next s
  | some k =>
    if s.domState (4 * p + (if hbm then 3 else 2)) ≥ 2 then .next s else
    let x := k % 64
    let mine (d : Nat) : Bool :=
      let (q, u, h) := datumPlace d
      q == p && h == hbm && (if hbm then unitPc u else unitBank u) == x
    let s := (ecc.filter (fun e => mine e.1)).foldl (fun t e => t.eccRead e.1 e.2 0xF 0x3F 0xFFFFFF 0) s
    let s := { s with migr := s.migr.filter (fun m => m != k) }
    let more := s.migr.any (fun m => decide (m / 64 = base / 64))
    let a := if hbm then MEM_PC_RETIRED_LO p else TSR_BANK_RETIRED_LO p
    let s := s.setFld ⟨a + 4 * (x / 32), x % 32, 1⟩ 1
    let st := if hbm then MEM_STATUS_MIGRATING p else TSR_STATUS_MIGRATING p
    let u := if hbm then stackUnit p x else unitId p (0x20 + x)
    let s := (s.setFld st (if more then 1 else 0)).event st u 8
    .next (s.setHist u { s.hist u with state := 1 })

/-! ## Exposure (R405) -/

/-- Power domain by which the exposure of a scope is measured. -/
def scopeDomain (sc : Nat) : Nat :=
  if sc < 8 then 4 * sc else if sc < 16 then 4 * (sc - 8) + 3
  else match sc with
    | 17 => 32 | 19 => 38 | 20 => 38 | 21 => 39 | _ => 0x3F

/-- One second of a scope in its bands. -/
def State.exposeScope (s : State) (sc : Nat) : State :=
  let d := scopeDomain sc
  if d < 40 && s.domState d = 3 then s else
  let r := domainRail d
  let tb := expoSlot 0 (tempBand (s.fld (PWR_TEMP_TEMP (domainSensor d))))
  let vb := expoSlot 1 (voltBand (s.fld (PWR_RAIL_MEAS_MV r)) (s.railSet r))
  let ab := expoSlot 2 (min 3 (storeGet 0 s.activity d / 25))
  let hour := s.opmin / 60
  [tb, vb, ab].foldl (fun t k =>
    let key := expoKey sc k hour
    { t with
        expo := storeSet 0 t.expo key (storeGet 0 t.expo key + 1),
        expoDay := storeSet 0 t.expoDay (sc * 16 + k) (storeGet 0 t.expoDay (sc * 16 + k) + 1) }) s

/-- EXPOSURE_SAMPLE: each second, with the share of busy cycles of the last 1 ms by power domain in percent. -/
def execExposureSample (activity : List (Nat × Nat)) (s : State) : Host.Outcome State Fault Refusal :=
  let s := { s with activity := activity.foldl (fun m c => storeSet 0 m c.1 c.2) s.activity }
  .next (forRange 24 (fun sc t => t.exposeScope sc) s)

/-! ## Patrol scrub (R207) -/

/-- SCRUB_READ: the next datum of a stack (`hbm`) or tile store is read, and the read ends as `how` says (R205). -/
def execScrubRead (p : Nat) (hbm : Bool) (how : Nat) (s : State) : Host.Outcome State Fault Refusal :=
  if !s.present p || !s.flag (MEM_CFG_SCRUB_EN p) || decide (2 ≤ s.domState (4 * p + (if hbm then 3 else 2))) then .next s else
  let key := 2 * p + (if hbm then 0 else 1)
  let u := storeGet 0 s.scrubPos key
  let n := if hbm then 0x30000000 else 0xC0000
  let s := s.eccRead (if hbm then hbmDatum p u else tsDatum p u) how 0xF 0x3F 0xFFFFFF 3
  let s := { s with scrubPos := storeSet 0 s.scrubPos key ((u + 1) % n) }
  .next (if hbm && u + 1 = n then s.count p 0x222 1 else s)

end Sys2Proof.Machine
end

