-- ==== Sys2Proof/Machine/Slots.lean ====
section
/-! DEFINITION. Hasp sets: control records and images, stripes, slots and their headers, the chunks of phase 1
(R321 to R334), and the trims of the send logs (R365). -/
namespace Sys2Proof.Machine

/-! ## Images (R321 to R323) -/

/-- Shards of a job slot's own continuity group. -/
def JobRun.group (r : JobRun) : Option ContGroup := r.groups[r.own]?

/-- What the continuity section gives for a shard of a job slot. -/
def JobRun.shard (r : JobRun) (lsid : Nat) : Option ShardInfo :=
  (r.groups.flatMap (·.shards)).find? (fun x => x.lsid == lsid)

/-- One flow context of a control record: 80 bytes. -/
def State.ctlFlow (s : State) (n : Nat) : List Nat :=
  leBytes 2 n ++ leBytes 2 ((s.reg (FLW_CTX n)).toNat % 64 &&& 0x23) ++ leBytes 4 (s.fld (fcSeq n)) ++ leBytes 8 0 ++
    (if s.fld (fcKind n) = 2 then leBytes 64 (s.fcWindow n) else leBytes 64 0)

/-- The control record of a hosting entry (Table 11.2). -/
def State.ctlRecord (s : State) (p e : Nat) (flows : List Nat) : List Nat :=
  let w := s.tumWin p e
  let b :=
    leBytes 4 (s.fld (CAM_HOST_W0_LSID p e)) ++ leBytes 4 (s.fld (CAM_HOST_W6_STEP p e)) ++
    leBytes 2 (s.fld (actFld (CAM_STRETCH_STRETCH p))) ++ leBytes 2 (s.fld (CAM_HOST_W5_TWIN_SIZE p e)) ++
    leBytes 4 flows.length ++
    leBytes 4 (s.fld (CAM_HOST_W9_STATE_LEN p e)) ++ leBytes 4 (s.fld (CAM_HOST_W11_RCV_LEN p e)) ++
    leBytes 4 (s.fld (MEM_RELOC_LEN_TS_LEN p e)) ++ leBytes 4 (s.fld (HSP_PLEN_PLEN p e)) ++
    leBytes 4 (s.fld (HSP_STRIPE_TPLEN p e)) ++ leBytes 28 0 ++
    (List.range w.2).flatMap (fun i => leBytes 4 (s.fld (TMB_VALUE_VALUE p (w.1 + i))) ++
      leBytes 4 (s.fld (TMB_SNAP_SNAP p (w.1 + i)))) ++
    flows.flatMap s.ctlFlow
  b ++ List.replicate ((64 - b.length % 64) % 64) 0

/-- 64-byte units of a byte string, clean. -/
def unitsOfBytes (b : List Nat) : List (Nat × Bool) :=
  let v := b.toArray
  (List.range ((b.length + 63) / 64)).map (fun i => (leNat ((List.range 64).map (fun k => v.getD (64 * i + k) 0)), false))

/-- A datum with its poison. -/
def State.unitAt (s : State) (d : Nat) : Nat × Bool := (s.rdBytes (64 * d) 64, s.psn d)

/-- Datums of the state region and of the tile slice of an entry. -/
def State.stateDatum (s : State) (p e i : Nat) : Nat := hbmDatum p (s.fld (CAM_HOST_W8_STATE_BASE p e) + i)
def State.sliceDatum (s : State) (p e i : Nat) : Nat := tsDatum p (s.fld (MEM_RELOC_BASE_TS_BASE p e) + i)

/-- The image of an entry's shard in units (R323). -/
def State.shardImage (s : State) (p e : Nat) (flows : List Nat) : List (Nat × Bool) :=
  unitsOfBytes (s.ctlRecord p e flows) ++
    (List.range (s.fld (HSP_PLEN_PLEN p e))).map (fun i => s.unitAt (s.stateDatum p e i)) ++
    (List.range (s.fld (HSP_STRIPE_TPLEN p e))).map (fun i => s.unitAt (s.sliceDatum p e i))

/-! ## Stripes (R324, R325) -/

/-- Original ranks of a live mask in ascending order: live rank `i` is element `i`. -/
def liveRanks (mask : Nat) : List Nat := (List.range 17).filter (bitAt mask)

/-- Live rank that holds the chunk of `kind` (data chunk j, 0xFF parity) of stripe `s`. -/
def chunkHolder (g s kind : Nat) : Nat := if kind = 0xFF then s % g else (s + 1 + kind) % g
/-- Kind of the chunk of stripe `s` that live rank `l` holds. -/
def chunkKind (g s l : Nat) : Nat :=
  if s % g = l then 0xFF else (l + 2 * g - (s % g) - 1) % g

/-- Units of a chunk of an image of `n` units. -/
def chunkUnits (n g : Nat) : Nat := (n + g - 2) / (g - 1)

/-- Data chunk `i`, padded with zero. -/
def dataChunk (img : List (Nat × Bool)) (g i : Nat) : List (Nat × Bool) :=
  let c := chunkUnits img.length g
  let l := (img.drop (i * c)).take c
  l ++ List.replicate (c - l.length) (0, false)

/-- Bytewise XOR of units; the result is poisoned where any is. -/
def xorUnits (a b : List (Nat × Bool)) : List (Nat × Bool) := List.zipWith (fun x y => (x.1 ^^^ y.1, x.2 || y.2)) a b

/-- XOR of chunks of `c` units. -/
def xorChunks (c : Nat) (l : List (List (Nat × Bool))) : List (Nat × Bool) :=
  l.foldl xorUnits (List.replicate c (0, false))

/-- The chunk of a kind. -/
def chunkOf (img : List (Nat × Bool)) (g kind : Nat) : List (Nat × Bool) :=
  if kind = 0xFF then xorChunks (chunkUnits img.length g) ((List.range (g - 1)).map (dataChunk img g))
  else dataChunk img g kind

/-- CRC-32C over units. -/
def unitsCrc (l : List (Nat × Bool)) : Nat := crc32c (l.flatMap (fun x => leBytes 64 x.1))

/-- A chunk header (Table 11.3). -/
def chunkHeader (job epoch gen kind g lsid len c dcrc shape mask : Nat) : Nat :=
  let b := 0x48530001 + job * 2 ^ 32 + epoch * 2 ^ 64 + gen * 2 ^ 96 + kind * 2 ^ 112 + g * 2 ^ 120 + lsid * 2 ^ 128 +
    len * 2 ^ 160 + c * 2 ^ 192 + dcrc * 2 ^ 224 + shape * 2 ^ 256 + mask * 2 ^ 288
  b + crc32c (leBytes 60 b) * 2 ^ 480

/-- Whether a chunk header is whole: MAGIC and HCRC. -/
def chunkHdrOk (h : Nat) : Bool := bits h 0 32 == 0x48530001 && bits h 480 32 == crc32c (leBytes 60 (h % 2 ^ 480))
def chEpoch (h : Nat) : Nat := bits h 64 32
def chKind (h : Nat) : Nat := bits h 112 8
def chG (h : Nat) : Nat := bits h 120 8
def chLsid (h : Nat) : Nat := bits h 128 24
def chLen (h : Nat) : Nat := bits h 160 32
def chC (h : Nat) : Nat := bits h 192 32
def chDcrc (h : Nat) : Nat := bits h 224 32
def chShape (h : Nat) : Nat := bits h 256 32
def chMask (h : Nat) : Nat := bits h 288 17

/-! ## Slots (R326, R328) -/

def slEmpty : Nat := 0
def slWriting : Nat := 1
def slWritten : Nat := 2
def slCommitted : Nat := 3
def slActive : Nat := 4
def slStale : Nat := 5

/-- State and epoch of slot A (`false`) or B of a partition. -/
def State.slotState (s : State) (p : Nat) (b : Bool) : Nat :=
  s.fld (if b then HSP_SLOT_STATE_B_STATE p else HSP_SLOT_STATE_A_STATE p)
def State.slotEpoch (s : State) (p : Nat) (b : Bool) : Nat :=
  s.fld (if b then HSP_SLOT_EPOCH_B_EPOCH p else HSP_SLOT_EPOCH_A_EPOCH p)
def State.slotPin (s : State) (p : Nat) (b : Bool) : Bool :=
  s.flag (if b then HSP_SLOT_STATE_B_PIN p else HSP_SLOT_STATE_A_PIN p)
/-- Region of a slot: base and length in units (Table 7.4). -/
def State.slotRegion (s : State) (p : Nat) (b : Bool) : Option (Nat × Nat) := s.regionOf p (if b then 6 else 5)

/-- First datum of the slot header as the module lays it out (R326): state, epoch, job identifier, SHAPE, generation, G′
and live mask, then the CRC over them. -/
def slotHeader (st epoch job shape gen g mask : Nat) : Nat :=
  let b := st + epoch * 2 ^ 32 + job * 2 ^ 64 + shape * 2 ^ 96 + gen * 2 ^ 128 + g * 2 ^ 144 + mask * 2 ^ 160
  b + crc32c (leBytes 24 b) * 2 ^ 192

/-- A slot takes a state and an epoch: its header is rewritten and its registers follow (R326, R343). -/
def State.setSlot (s : State) (j p : Nat) (b : Bool) (st epoch g mask shape : Nat) : State :=
  let s := (s.setFld (if b then HSP_SLOT_STATE_B_STATE p else HSP_SLOT_STATE_A_STATE p) st).setFld
    (if b then HSP_SLOT_EPOCH_B_EPOCH p else HSP_SLOT_EPOCH_A_EPOCH p) epoch
  match s.slotRegion p b with
  | some (base, _) =>
    s.wrDatum (hbmDatum p base) (slotHeader st epoch (s.fld (FAB_JOB_ID_JOB_ID j)) shape (s.fld (FAB_JOB_GEN_GEN j)) g mask) false
  | none => s

/-- A slot changes its state only: the rest of its header stays. -/
def State.moveSlot (s : State) (j p : Nat) (b : Bool) (st : Nat) : State :=
  match s.slotRegion p b with
  | some (base, _) =>
    let h := s.rdBytes (64 * hbmDatum p base) 64
    s.setSlot j p b st (s.slotEpoch p b) (bits h 144 8) (bits h 160 17) (bits h 96 32)
  | none => s

/-- Slot that phase 1 of a partition writes: the one that is not ACTIVE (R328). -/
def State.targetSlot (s : State) (p : Nat) : Bool := s.slotState p false == slActive

/-- Datum of unit `u` of a slot. -/
def State.slotDatum (s : State) (p : Nat) (b : Bool) (u : Nat) : Nat :=
  match s.slotRegion p b with
  | some (base, _) => hbmDatum p (base + u)
  | none => hbmDatum p 0

/-- First unit of the cell of a stripe index. -/
def State.cellUnit (s : State) (p stripe : Nat) : Nat := 64 + stripe * s.fld (HSP_CSLOT_CSLOT p)

/-- Chunk of a cell: its header with its poison, and its units. -/
def State.readCell (s : State) (p : Nat) (b : Bool) (stripe : Nat) : (Nat × Bool) × List (Nat × Bool) :=
  let u := s.cellUnit p stripe
  let h := s.unitAt (s.slotDatum p b u)
  (h, (List.range (min (chC h.1) (s.fld (HSP_CSLOT_CSLOT p) - 1))).map (fun i => s.unitAt (s.slotDatum p b (u + 1 + i))))

/-- Whether the chunk of a cell passes its own checks: HCRC, DCRC, JOB_ID, SHAPE, EPOCH, no poison (R337). -/
def State.cellOk (s : State) (j p : Nat) (b : Bool) (stripe epoch shape : Nat) : Bool :=
  let (h, l) := s.readCell p b stripe
  chunkHdrOk h.1 && !h.2 && bits h.1 32 32 == s.fld (FAB_JOB_ID_JOB_ID j) && chEpoch h.1 == epoch && chShape h.1 == shape &&
    l.length == chC h.1 && !l.any (·.2) && unitsCrc l == chDcrc h.1

/-! ## Continuity packets (R332) -/

/-- One continuity packet toward the member of original rank `r`, of units with their poison; `tag` marks what it
carries: 0 a chunk of phase 1, 1 the answer to an HGET, 2 a replica's state. -/
def State.sendCont (s : State) (j r dst tag lsid off : Nat) (l : List (Nat × Bool)) : State :=
  let f := s.fld (HSP_J_FLOW_HFLOW_BASE j) + r
  let seq := s.fld (fcSeq f)
  let pay := l.flatMap (fun x => leBytes 64 x.1)
  let path := if dst = s.gid then 0 else s.pathOf (s.fld (fcPlane f)) dst
  let h := Hdr.enc ⟨4, 4, 0, dst, s.gid, s.fld (fcPeer f), s.fld (FAB_JOB_GEN_GEN j), seq, 0, 0, 0, tag,
    maskOf (l.map (·.2)), pay.length, path, lsid, off, 15⟩
  (s.setFld (fcSeq f) ((seq + 1) % 2 ^ 24)).sendPkt ⟨h, pay⟩ (some f) s.ftime none

/-- Units sent in packets of eight from unit `off` of a partition's slot on. -/
def State.sendContUnits (s : State) (j r dst tag lsid p off : Nat) (l : List (Nat × Bool)) : State :=
  forRange ((l.length + 7) / 8) (fun i t =>
    t.sendCont j r dst tag lsid (p * 2 ^ 28 + (off + 8 * i) % 2 ^ 28) ((l.drop (8 * i)).take 8)) s

/-- A chunk to the member that holds it: its data first and its header last (R332). -/
def State.sendChunk (s : State) (j r dst p stripe hdr : Nat) (l : List (Nat × Bool)) : State :=
  let u := s.cellUnit p stripe
  (s.sendContUnits j r dst 0 (chLsid hdr) p (u + 1) l).sendContUnits j r dst 0 (chLsid hdr) p u [(hdr, false)]

/-- A chunk into a slot of this module. -/
def State.storeChunk (s : State) (p : Nat) (b : Bool) (stripe hdr : Nat) (l : List (Nat × Bool)) : State :=
  let u := s.cellUnit p stripe
  let s := l.zipIdx.foldl (fun (t : State) x => t.wrDatum (t.slotDatum p b (u + 1 + x.2)) x.1.1 x.1.2) s
  s.wrDatum (s.slotDatum p b u) hdr false

/-! ## Phase 1 (R330, R331) -/

/-- Hosting entries of a job slot in a state, as partition and entry. -/
def State.jobEntries (s : State) (j : Nat) (f : Nat → Bool) : List (Nat × Nat) :=
  ((List.range 8).filter (fun p => s.jobOf p == j)).flatMap (fun p =>
    ((List.range 32).filter (fun e => f (s.fld (CAM_HOST_W0_STATE p e)))).map (fun e => (p, e)))

/-- Chunk of one kind of an image with its header, for epoch `k` of a job slot. -/
def State.makeChunk (s : State) (j k g mask lsid kind shape : Nat) (img : List (Nat × Bool)) : Nat × List (Nat × Bool) :=
  let l := chunkOf img g kind
  (chunkHeader (s.fld (FAB_JOB_ID_JOB_ID j)) k (s.fld (FAB_JOB_GEN_GEN j)) kind g lsid img.length l.length (unitsCrc l) shape mask, l)

/-- Phase 1 of one shard: its chunks to the members that hold them, its own into the target slot. -/
def State.phase1Shard (s : State) (j : Nat) (r : JobRun) (grp : ContGroup) (p e : Nat) : State :=
  let lsid := s.lsidOf p e
  let flows := ((r.shard lsid).map (fun x => x.flows.map (·.1))).getD []
  let img := s.shardImage p e flows
  let s := if img.any (·.2) then (s.setFld (HSP_J_STATUS_WITHHELD j) 1).updRun j (fun r => { r with ack := false }) else s
  let ranks := liveRanks grp.live
  let g := ranks.length
  let home := s.fld (HSP_STRIPE_HOME_PART p e)
  let stripe := s.fld (HSP_STRIPE_STRIPE p e)
  forRange g (fun l t =>
    let rank := ranks.getD l 0
    let (hdr, c) := t.makeChunk j r.step g grp.live lsid (chunkKind g stripe l) r.shape img
    let dst := grp.members.getD rank 0
    if dst = t.gid then
      let b := t.targetSlot home
      let t := if t.slotPin home b then t else t.storeChunk home b stripe hdr c
      t.updRun j (fun r => { r with chunks := r.chunks.map (fun x =>
        if x.part = home ∧ x.stripe = stripe then { x with ok := true } else x) })
    else t.sendChunk j rank dst home stripe hdr c) s

/-! ### Chunks that arrive (R332) -/

/-- Owner of a stripe of a home partition: the module on which the rekey table places its shard. -/
def State.stripeOwner (s : State) (j : Nat) (grp : ContGroup) (p stripe : Nat) : Option Nat :=
  ((grp.shards.find? (fun x => x.home == p && x.stripe == stripe)).bind (fun x => s.rekey j x.lsid)).map rkGid

/-- Message of a Hasp exchange about a stripe (Table 11.7). -/
def stripeMsg (code j epoch p stripe : Nat) : List Nat :=
  [code, j, 0, 0] ++ leBytes 4 epoch ++ [p, 0, 0, 0] ++ leBytes 4 stripe

/-- Change of the module's record of one chunk. -/
def State.setChunk (s : State) (j p stripe : Nat) (f : ChunkRx → ChunkRx) : State :=
  s.updRun j (fun r => { r with chunks := r.chunks.map (fun c => if c.part = p ∧ c.stripe = stripe then f c else c) })

/-- A chunk that is late or fails a check: HREQ to its owner, at most three times (R332, Table 11.6). -/
def State.askChunk (s : State) (j p stripe : Nat) : State :=
  match s.run j with
  | none => s
  | some r =>
    match r.chunks.find? (fun c => c.part == p && c.stripe == stripe), r.group with
    | some c, some grp =>
      if 3 ≤ c.tries then
        ((s.setChunk j p stripe (fun c => { c with gaveUp := true })).setFld (HSP_J_STATUS_GAVE_UP j) 1).updRun j
          (fun r => { r with ack := false })
      else
        let t := s.ftime
        let s := (s.setChunk j p stripe (fun c => { c with tries := c.tries + 1, since := t + 1, landed := 0, hdr := false })).setFld
          (HSP_J_STATUS_CRC_RETRY j) 1
        match s.stripeOwner j grp p stripe with
        | some g => s.sendCtl g j (stripeMsg 0x20 j r.step p stripe)
        | none => s
    | _, _ => s

/-- Whether the chunk in a cell has come whole: HCRC, EPOCH and DCRC. Poison is the owner's to report (R331, R332). -/
def State.cellWhole (s : State) (p : Nat) (b : Bool) (stripe epoch : Nat) : Bool :=
  let (h, l) := s.readCell p b stripe
  chunkHdrOk h.1 && chEpoch h.1 == epoch && l.length == chC h.1 && unitsCrc l == chDcrc h.1

/-- Units of a chunk that land in the target slot (R332); those of a pinned slot are discarded. -/
def State.landChunk (s : State) (j off : Nat) (l : List (Nat × Bool)) : State :=
  let p := off / 2 ^ 28
  let u := off % 2 ^ 28
  let stripe := (u - 64) / max 1 (s.fld (HSP_CSLOT_CSLOT p))
  match s.run j with
  | none => s
  | some r =>
    match r.chunks.find? (fun c => c.part == p && c.stripe == stripe) with
    | none => s
    | some c =>
      if c.ok || c.gaveUp || u < 64 || !s.flag (HSP_J_STATUS_SET_OPEN j) then s else
      let b := s.targetSlot p
      let pin := s.slotPin p b
      let isHdr := u == s.cellUnit p stripe
      let t := s.ftime
      let s := if pin then s else
        l.zipIdx.foldl (fun (t : State) x => t.wrDatum (t.slotDatum p b (u + x.2)) x.1.1 x.1.2) s
      let s := s.setChunk j p stripe (fun c => { c with
        since := if c.since = 0 then t + 1 else c.since,
        landed := c.landed + (if isHdr then 0 else l.length), hdr := c.hdr || isHdr })
      if !isHdr then s
      else if pin || s.cellWhole p b stripe r.step then s.setChunk j p stripe (fun c => { c with ok := true })
      else s.askChunk j p stripe

/-- Packets that came before the set began here. -/
def State.landEarly (s : State) (j : Nat) : State :=
  match s.run j with
  | none => s
  | some r => r.earlyCont.foldl (fun t x => t.landChunk j x.1 x.2) (s.updRun j (fun r => { r with earlyCont := [] }))

/-- A chunk packet from a peer: kept until a set that is armed begins here. -/
def State.chunkPacket (s : State) (j off : Nat) (l : List (Nat × Bool)) : State :=
  match s.run j with
  | none => s
  | some r =>
    if r.setHere then s.landChunk j off l
    else if s.flag (HSP_J_STATUS_COMMIT_NEXT j) then s.updRun j (fun r => { r with earlyCont := r.earlyCont ++ [(off, l)] })
    else s

/-- Whether a shard that the rekey table places on this module is not in an ACTIVE or REPLAY entry (Table 11.6). -/
def State.missingShard (s : State) (j : Nat) (shards : List ShardInfo) : Bool :=
  shards.any (fun x => match s.rekey j x.lsid with
    | some w => rkGid w == s.gid &&
        (let st := s.fld (CAM_HOST_W0_STATE (rkPart w) (rkEntry w)); s.lsidOf (rkPart w) (rkEntry w) != x.lsid || (st != 2 && st != 3))
    | none => false)

/-- A set of epoch k begins at the hinge of step k (R330). -/
def State.beginSet (s : State) (j : Nat) : State :=
  match s.run j with
  | none => s
  | some r =>
    match r.group with
    | none => s
    | some grp =>
      let s := (s.gcount 0x210 1).updRun j (fun r => { r with setHere := true, ack := true, lastSet := r.step + 1 })
      let s := s.setFld (HSP_J_INTERVAL_SINCE j) 0
      let g := (liveRanks grp.live).length
      if g < grp.gmin then
        (s.setFld (HSP_J_STATUS_WITHHELD j) 1).updRun j (fun r => { r with ack := false, chunks := [] })
      else
        let s := s.setFld (HSP_J_STATUS_SET_OPEN j) 1
        let ps := (List.range 8).filter (fun p => s.jobOf p == j)
        let pinned := ps.any (fun p => s.slotPin p (s.targetSlot p))
        let s := ps.foldl (fun t p => if t.slotPin p (t.targetSlot p) then t else
          t.setSlot j p (t.targetSlot p) slWriting r.step g grp.live r.shape) s
        let s := if pinned then (s.setFld (HSP_J_STATUS_PIN_DEFER j) 1).updRun j (fun r => { r with ack := false }) else s
        let s := if storeGet false s.rangeSeen j || s.missingShard j grp.shards then
          (s.setFld (HSP_J_STATUS_WITHHELD j) 1).updRun j (fun r => { r with ack := false }) else s
        let s := s.updRun j (fun r => { r with chunks := grp.shards.map (fun x => ⟨x.home, x.stripe, 0, 0, false, 0, false, false⟩) })
        (s.jobEntries j (fun st => st == 2 || st == 3)).foldl (fun t pe =>
          if (grp.shards.any (fun x => x.lsid == t.lsidOf pe.1 pe.2)) then t.phase1Shard j r grp pe.1 pe.2 else t) (s.landEarly j)

/-- Whether phase 1 of a job slot still waits for chunks. -/
def JobRun.phase1Open (r : JobRun) : Bool := r.setHere && r.chunks.any (fun c => !c.ok && !c.gaveUp)

/-- Slots of a job in WRITING enter a state. -/
def State.closeSlots (s : State) (j st : Nat) (from_ : List Nat) : State :=
  ((List.range 8).filter (fun p => s.jobOf p == j)).foldl (fun t p =>
    [false, true].foldl (fun u b => if from_.contains (u.slotState p b) then u.moveSlot j p b st else u) t) s

/-- A set in progress is abandoned at a declaration (Table 11.6). -/
def State.abandonSet (s : State) (j : Nat) : State :=
  match s.run j with
  | some r =>
    if r.setHere then
      ((s.setFld (HSP_J_STATUS_ABANDONED j) 1).setFld (HSP_J_STATUS_SET_OPEN j) 0).updRun j (fun r => { r with ack := false, chunks := [] })
    else s
  | none => s

/-! ## Trims of the send logs (R365, R366) -/

/-- STEP of the record at a log position, and its length in units. -/
def State.logAt (s : State) (p i : Nat) : Nat × Nat :=
  let v := s.rdBytes (64 * s.logDatum p i) 64
  (bits v 256 32, 1 + bits v 304 8)

/-- HEAD advances past records with STEP at most `e`, over at most `fuel` records. -/
def State.logTrim (s : State) (p e : Nat) : Nat → State
  | 0 => s
  | fuel + 1 =>
    if s.logUsed p = 0 then s else
    let h := s.fld (RCV_LOG_HEAD_HEAD p)
    let (st, n) := s.logAt p h
    if e < st then s else (s.setFld (RCV_LOG_HEAD_HEAD p) ((h + n) % max 1 (s.logRegion p).2)).logTrim p e fuel

/-- A trim of a partition's log: space it frees lets logging go on, and the broken stretch ends at the running step. -/
def State.trimLog (s : State) (p e : Nat) : State :=
  let used := s.logUsed p
  let s := s.logTrim p e used
  let s := if s.logUsed p < used && s.flag (RCV_LOG_USE_BROKEN p) then
    let k := ((s.run (s.jobOf p)).map (·.step)).getD 0
    { s.setFld (RCV_LOG_USE_BROKEN p) 0 with
      logBroken := s.logBroken.map (fun x => if x.1 = p ∧ x.2.2 = 0xFFFFFFFF then (p, x.2.1, k) else x) } else s
  s.logShow p

/-- Item 2: a COMMITTED slot becomes ACTIVE, the older one STALE, and the logs of the job are trimmed (R328, R365). -/
def State.flipSlots (s : State) (j : Nat) : State :=
  let ps := (List.range 8).filter (fun p => s.jobOf p == j)
  ps.foldl (fun t p =>
    [false, true].foldl (fun u b =>
      if u.slotState p b = slCommitted then
        let u := if u.slotState p (!b) = slActive then u.moveSlot j p (!b) slStale else u
        let u := u.moveSlot j p b slActive
        ps.foldl (fun x q => x.trimLog q (u.slotEpoch p b)) u
      else u) t) s

/-- Whether the send-log pressure of R366 asks for an early set. -/
def State.logPressed (s : State) (j : Nat) : Bool :=
  (List.range 8).any (fun p => s.jobOf p == j && decide (0 < s.logLimit p) && decide (3 * s.logLimit p ≤ 4 * s.logUsed p))

end Sys2Proof.Machine
end

