-- ==== Sys2Proof/Machine/Tables.lean ====
section
/-! DEFINITION. Register words under their access codes (Table 0.7), and the double-buffered tables: shadow writes,
arming, the swap at a hinge and the copy after it (R271, R295, R305), and the planes of AUTO flows (R291, R292). -/
namespace Sys2Proof.Machine

/-! ## Access codes (R16, Table 0.7) -/

/-- New value of a word under its row's masks: RW bits take the data, W1C bits clear, W1S bits set, RWL bits take
the data unless they are locked. -/
def maskWrite (r : RegRow) (old v : Nat) (locked : Bool) : Nat :=
  let w := r.rw ||| (if locked then 0 else r.rwl)
  let kept := old &&& (0xFFFFFFFF - w)
  ((kept &&& (0xFFFFFFFF - (r.w1c &&& v))) ||| (v &&& w)) ||| (v &&& r.w1s)

/-- Write of a word whose row has no locked bits. -/
def State.maskReg (s : State) (a v : Nat) : State :=
  match regRow a with
  | some (r, _) => s.setReg a (BitVec.ofNat 32 (maskWrite r (s.reg a).toNat (v % 2 ^ 32) false))
  | none => s

/-! ## Banks -/

/-- Exchange of `n` words from `b` on between a shadow bank and the bank in force; a bank lies below 2^31. -/
def swapStore {α : Type} (l : Store α) (b n : Nat) : Store α :=
  let e := b + 4 * min n 0x20000000
  l.filter (fun c => decide (c.1 < b)) ++
    (l.filter (fun c => decide (act b ≤ c.1) && decide (c.1 < act e))).map (fun c => (c.1 - 0x80000000, c.2)) ++
    l.filter (fun c => decide (e ≤ c.1) && decide (c.1 < act b)) ++
    (l.filter (fun c => decide (b ≤ c.1) && decide (c.1 < e))).map (fun c => (act c.1, c.2)) ++
    l.filter (fun c => decide (act e ≤ c.1))

/-- Exchange of the banks of `n` words; a poisoned entry of either bank is replaced as it is written. -/
def State.swapBank (s : State) (b n : Nat) : State :=
  { s with regs := swapStore s.regs b n, tblBad := storeClear s.tblBad b (4 * n) }

/-- Copy of the bank in force into the shadow bank. -/
def State.copyBank (s : State) (b n : Nat) : State := { s with regs := storeCopy s.regs (act b) b (4 * n) }

/-- Member ranges of the groups of a job slot, by the headers at `at_` of an address: first entry and size. -/
def State.groupRanges (s : State) (j : Nat) (at_ : Nat → Nat) : List (Nat × Nat) :=
  (List.range 4096).filterMap (fun g =>
    let n := min (s.reg (at_ (COL_GHDR_W1 j g))).toNat 0xFFFFFFFF % 2 ^ 13
    if n = 0 then none else some ((s.reg (at_ (COL_GHDR_W0 j g))).toNat % 2 ^ 17, n))

/-- Member entries that the groups of a slot list, clipped to the table. -/
def clipMembers (b n : Nat) : Nat × Nat := (b, min n (131072 - b))

/-- Banks of a job slot's tables beside its group members: rekey table, group headers, job tree. -/
def slotBanks (j : Nat) : List (Nat × Nat) :=
  [(FLW_REKEY j 0, 131072), (COL_GHDR_W0 j 0, 8192), (BCT_JHDR_W0 j, 2), (BCT_JREL j 0, 587)]

/-- Banks of the destination tables. -/
def destBanks : List (Nat × Nat) := (List.range 6).map (fun p => (FLW_DEST p 0, 65536))

/-! ## The check at the swap (R257, R269, R270) -/

/-- Whether a rekey entry of the shadow bank is right: its tag has the index, it names a partition that is present, and
its reserved bits are zero. -/
def State.rekeyOk (s : State) (j e : Nat) : Bool :=
  let w := (s.reg (FLW_REKEY j e)).toNat + (s.reg (FLW_REKEY j e + 4)).toNat * 2 ^ 32
  !bitAt w 53 || (decide (bits w 0 24 % 65536 = e) && decide (rkPart w < 8) && (rkGid w != s.fld FAB_GID_GID || s.present (rkPart w)) && decide (w / 2 ^ 54 = 0))

/-- Whether the shadow rekey table of a slot passes. -/
def State.rekeyTableOk (s : State) (j : Nat) : Bool :=
  (s.regs.filter (fun c => decide (FLW_REKEY j 0 ≤ c.1) && decide (c.1 < FLW_REKEY j 0 + 524288))).all
    (fun c => s.rekeyOk j ((c.1 - FLW_REKEY j 0) / 8))

/-- Whether the shadow destination tables pass: each valid entry stands at its tag's index. -/
def State.destTableOk (s : State) : Bool :=
  (s.regs.filter (fun c => decide (FLW_DEST 0 0 ≤ c.1) && decide (c.1 < FLW_DEST 6 0))).all (fun c =>
    let w := c.2.toNat
    !bitAt w 0 || decide (bits w 8 20 % 65536 = (c.1 - FLW_DEST 0 0) / 4 % 65536))

/-- Whether a slot's hinge swaps the destination tables. -/
def State.destArmed (s : State) (j : Nat) : Bool :=
  s.flag FAB_TBL_CTRL_DEST_ARM && s.fld FAB_TBL_CTRL_DEST_JOB == j

/-- Whether anything is armed for a slot's hinge. -/
def State.swapArmed (s : State) (j : Nat) : Bool := bitAt (s.fld FAB_TBL_CTRL_ARM) j || s.destArmed j

/-- Whether the tables armed for a slot pass their check. -/
def State.swapOk (s : State) (j : Nat) : Bool :=
  (!bitAt (s.fld FAB_TBL_CTRL_ARM) j || s.rekeyTableOk j) && (!s.destArmed j || s.destTableOk)

/-! ## Planes of AUTO flows (R291, R292) -/

/-- Weight of a plane in force for a job slot. -/
def State.planeWeight (s : State) (j k : Nat) : Nat :=
  if k < 4 then s.fld (FAB_PW_CUR_LO_WEIGHT j) / 256 ^ k % 256 else s.fld (FAB_PW_CUR_HI_WEIGHT j) / 256 ^ (k - 4) % 256

/-- Flow contexts of a job slot, ascending. -/
def State.jobFlows (s : State) (j : Nat) : List Nat :=
  (((s.regs.filter (fun c => decide (FLW_CTX 0 ≤ c.1) && decide (c.1 < FLW_CTX 0 + 16384 * 128))).map
    (fun c => (c.1 - FLW_CTX 0) / 128)).eraseDups).filter (fun n => s.fld (fcKind n) != 0 && s.fld (fcJob n) == j)

/-- One AUTO flow: the accumulators after it, and its plane. -/
def planeStep (weight : Nat → Nat) (mask : Nat) (acc : List Int) : List Int × Nat :=
  let ps := (List.range 6).filter (fun p => bitAt mask p && decide (0 < weight p))
  let total := ps.foldl (fun n p => n + weight p) 0
  if total = 0 then (acc, ((List.range 6).find? (bitAt mask)).getD 7)
  else
    let acc := acc.zipIdx.map (fun x => if ps.contains x.2 then x.1 + (weight x.2 : Int) else x.1)
    let best := ps.foldl (fun (b : Nat) p => if acc.getD b 0 < acc.getD p 0 then p else b) (ps.headD 0)
    (acc.zipIdx.map (fun x => if x.2 = best then x.1 - (total : Int) else x.1), best)

/-- A flow takes a plane; one that still has packets on the old plane waits for them (R292). -/
def State.movePlane (s : State) (f k : Nat) : State :=
  if s.fld (fcPlane f) = k then s else
  let s := if s.fld (fcOut f) ≠ 0 then { s with flowDrain := storeSet false s.flowDrain f true } else s
  s.setFld (fcPlane f) k

/-- Planes of every AUTO send flow of a slot. -/
def State.assignPlanes (s : State) (j : Nat) : State :=
  let fs := (s.jobFlows j).filter (fun f => s.fld (fcKind f) == 1 && s.flag (fcAuto f))
  (fs.foldl (fun (x : State × List Int) f =>
    let (acc, k) := planeStep (x.1.planeWeight j) (x.1.fld (fcMask f)) x.2
    (x.1.movePlane f k, acc)) (s, List.replicate 6 0)).1

/-! ## The swap (item 4) -/

/-- FLOW_USED of a job slot. -/
def State.countFlows (s : State) (j : Nat) : State := s.setFld (FAB_JOB_FLOW_FLOW_USED j) (s.jobFlows j).length

/-- A flow context as an image or an installation writes it. -/
def State.writeFlow (s : State) (n : Nat) (ws : List Nat) : State :=
  forRange 32 (fun i t => t.setReg (FLW_CTX n + 4 * i) (BitVec.ofNat 32 (ws.getD i 0))) s

/-- The armed tables of a slot swap: rekey, groups, job tree and plane weights, and the destination tables where they
are armed. The flow contexts a table image holds are written with them (R265). -/
def State.swapTables (s : State) (j : Nat) (flows : List (Nat × List Nat)) : State :=
  let slot := bitAt (s.fld FAB_TBL_CTRL_ARM) j
  let dest := s.destArmed j
  let s := if !slot then s else
    let ms := (s.groupRanges j id).map (fun x => clipMembers x.1 x.2)
    let s := ms.foldl (fun t x => { t with regs := storeCopy t.regs (COL_MEMBER x.1) (act (COL_MEMBER x.1)) (4 * x.2) }) s
    let s := (slotBanks j).foldl (fun t x => t.swapBank x.1 x.2) s
    let s := (s.setReg (FAB_PW_CUR_LO j) (s.reg (FAB_PW_LO j))).setReg (FAB_PW_CUR_HI j) (s.reg (FAB_PW_HI j))
    let s := s.updRun j (fun r => { r with up := none, kidsLost := [], kidsAdopted := [] })
    s.setFld (HSP_J_CFG_ROOT j) (if s.isRoot j then 1 else 0)
  let s := if dest then destBanks.foldl (fun t x => t.swapBank x.1 x.2) s else s
  let s := { s with tblCopy := s.tblCopy ++ (if slot then [j] else []) ++ (if dest then [8] else []) }
  let s := if slot || dest then s.setFld FAB_TBL_CTRL_COPY_BUSY 1 else s
  let s := flows.foldl (fun t x => t.writeFlow x.1 x.2) s
  let s := s.countFlows j
  let s := s.setFld ⟨FAB_TBL_CTRL, j, 1⟩ 0
  let s := if dest then s.setFld FAB_TBL_CTRL_DEST_ARM 0 else s
  if slot || !flows.isEmpty then s.assignPlanes j else s

/-- A swap that failed its check: nothing swaps, and the arming is gone (R51, R59, R271). -/
def State.rejectSwap (s : State) (j : Nat) : State :=
  let dest := s.destArmed j
  let s := (s.setFld FAB_TBL_CTRL_TABLE_REJECT 1).setFld ⟨FAB_TBL_CTRL, j, 1⟩ 0
  let s := if dest then s.setFld FAB_TBL_CTRL_DEST_ARM 0 else s
  s.event FAB_TBL_CTRL_TABLE_REJECT 0 j

/-! ## Rows -/

/-- Whether an address lies in a shadow bank. -/
def shadowBank (a : Nat) : Bool :=
  (decide (FLW_DEST 0 0 ≤ a) && decide (a < FLW_DEST 6 0)) || (decide (FLW_REKEY 0 0 ≤ a) && decide (a < FLW_REKEY 8 0)) ||
  (decide (COL_GHDR_W0 0 0 ≤ a) && decide (a < COL_MEMBER 131072)) ||
  (decide (BCT_JHDR_W0 0 ≤ a) && decide (a < BCT_JHDR_W0 8)) || (decide (BCT_JREL 0 0 ≤ a) && decide (a < BCT_JREL 8 0)) ||
  (List.range 8).any (fun j => a == FAB_PW_LO j || a == FAB_PW_HI j)

/-- Job slot whose banks hold an address; 8 for the destination tables and the member entries. -/
def bankSlot (a : Nat) : Nat :=
  if FLW_REKEY 0 0 ≤ a && a < FLW_REKEY 8 0 then (a - FLW_REKEY 0 0) / 524288
  else if COL_GHDR_W0 0 0 ≤ a && a < COL_GHDR_W0 8 0 then (a - COL_GHDR_W0 0 0) / 32768
  else if BCT_JHDR_W0 0 ≤ a && a < BCT_JHDR_W0 8 then (a - BCT_JHDR_W0 0) / 8
  else if BCT_JREL 0 0 ≤ a && a < BCT_JREL 8 0 then (a - BCT_JREL 0 0) / 4096
  else if FAB_PW_LO 0 ≤ a && a < FAB_PW_LO 8 then (a - FAB_PW_LO 0) / 16 else 8

/-- Whether a TABLE_LOAD that has reached its pass 2 holds the bank of an address (R500). -/
def State.bankHeld (s : State) (a : Nat) : Bool :=
  (List.range 8).any (fun j => match (s.run j).bind (·.img) with
    | some i => bankSlot a == j || (i.dest && decide (FLW_DEST 0 0 ≤ a) && decide (a < FLW_DEST 6 0)) ||
        (i.groups && decide (COL_MEMBER 0 ≤ a) && decide (a < COL_MEMBER 131072))
    | none => false)

/-- TABLE_SHADOW_WRITE (R271, R276, R319, R320): a host word into a shadow bank. -/
def State.tableShadowWrite (s : State) (a v : Nat) : State :=
  if !shadowBank a || a % 4 ≠ 0 then s
  else if s.flag FAB_TBL_CTRL_COPY_BUSY || s.bankHeld a then (s.setFld FAB_TBL_CTRL_WRITE_IGNORED 1)
  else (s.maskReg a v)

/-- TABLE_SWAP_ARM (R271, R500): a write of FAB_TBL_CTRL. A slot whose table image waits for its hinge is armed
already. -/
def State.tableSwapArm (s : State) (v : Nat) : State := (s.maskReg FAB_TBL_CTRL v)

/-- The tables that swapped stand in their shadow banks too. -/
def State.copyTables (s : State) : State :=
  let s := s.tblCopy.foldl (fun t j =>
    if j = 8 then destBanks.foldl (fun u x => u.copyBank x.1 x.2) t
    else
      let t := (slotBanks j).foldl (fun u x => u.copyBank x.1 x.2) t
      let ms := (t.groupRanges j act).map (fun x => clipMembers x.1 x.2)
      ms.foldl (fun u x => u.copyBank (COL_MEMBER x.1) x.2) t) s
  { s with tblCopy := [] }.setFld FAB_TBL_CTRL_COPY_BUSY 0

/-- TABLE_COPY_COMPLETE (R271). -/
def execTableCopyComplete (s : State) : Host.Outcome State Fault Refusal := .next s.copyTables

end Sys2Proof.Machine
end

