-- ==== Sys2Proof/Machine/Hinge.lean ====
section
/-! DEFINITION. The hinge (chapter 02 "The hinge", R171 to R182): the end of a step, the arrival instant with items 1
to 7 of Table 2.11, the barrier's notices and its release, item 8 and the start of a step, and the interval controller
of the root (R335, R336). -/
namespace Sys2Proof.Machine

/-! ## The job tree (R304, R305, R313) -/

/-- Fan-out of the job tree. -/
def State.jobFan (s : State) (j : Nat) : Nat := max 1 (s.fld (actFld (BCT_JHDR_W1_FANM1 j))) + 1

/-- Whether a module stands on the dead list of a job slot. -/
def State.isDead (s : State) (j g : Nat) : Bool :=
  (List.range 16).any (fun n => s.flag (RCV_J_DEAD_VALID j n) && s.fld (RCV_J_DEAD_GID j n) == g)

/-- Children of this module in the job tree as the barrier counts them. -/
def State.jobKids (s : State) (j : Nat) : List Nat :=
  let own := (List.range (s.jobFan j)).filterMap (fun i => s.jobRel j (3 + i))
  let r := s.run j
  let lost := (r.map (·.kidsLost)).getD []
  ((own.filter (fun g => !lost.contains g)) ++ (r.map (·.kidsAdopted)).getD []).eraseDups.filter (fun g => !s.isDead j g)

/-- A message to every child in the job tree. -/
def State.sendDown (s : State) (j : Nat) (m : List Nat) : State := (s.jobKids j).foldl (fun t g => t.sendCtl g j m) s

/-! ## Trace records of the hinge (Table 19.6) -/

/-- A HINGE record on every partition of a job slot. -/
def State.hingeTrace (s : State) (j ev step t : Nat) : State :=
  (s.slotParts j).foldl (fun u p =>
    u.trace p true (trcHead 4 u.ftime + ev * 16 + j * 2 ^ 48 + step % 2 ^ 32 * 2 ^ 56 + t % 2 ^ 40 * 2 ^ 88)) s

/-- PHASE of the partitions of a job slot. -/
def State.setPhase (s : State) (j v : Nat) : State :=
  (s.slotParts j).foldl (fun t p => t.setFld (CAM_HINGE_STATUS_PHASE p) v) s

/-! ## Barrier messages -/

/-- A ready notice as the module lays it out on the control class. -/
def readyMsg (j step earliest job faults faultAt : Nat) (ack early pin : Bool) : List Nat :=
  [1, j, 0, 0] ++ leBytes 4 step ++ leBytes 8 earliest ++
    leBytes 4 ((if ack then 1 else 0) + (if early then 2 else 0) + (if pin then 4 else 0)) ++
    leBytes 4 faults ++ leBytes 8 faultAt ++ leBytes 4 job

/-- Its content. -/
def noticeOf (src : Nat) (m : List Nat) : Notice :=
  ⟨src, mField m 8 8, bitAt (mByte m 16) 0, bitAt (mByte m 16) 1, bitAt (mByte m 16) 2, mField m 20 4, mField m 24 8⟩

/-- A release. -/
def releaseMsg (j step t : Nat) (commit next : Bool) : List Nat :=
  [2, j, 0, 0] ++ leBytes 4 step ++ leBytes 8 t ++ leBytes 4 ((if commit then 1 else 0) + (if next then 2 else 0))

/-- A hold notice. -/
def holdMsg (j step : Nat) : List Nat := [3, j, 0, 0] ++ leBytes 4 step

/-- An LREQ or LNAK (Table 12.2). -/
def lreqMsg (code j step lsid mode ctx first : Nat) : List Nat :=
  [code, j, 0, 0] ++ leBytes 4 step ++ leBytes 3 lsid ++ [mode] ++ leBytes 2 ctx ++ [0, 0] ++ leBytes 3 first

/-! ## The end of a step -/

/-- Shard scalars of an entry to +0, their poison cleared (R139). -/
def State.clearShard (s : State) (p e : Nat) : State :=
  { s with
    shardS := storeClear s.shardS (shardKey p e 0) 32
    shardP := storeClear s.shardP (shardKey p e 0) 32 }

/-- Receive contexts of a shard through which data enters its step. -/
def State.recvFlows (s : State) (j lsid : Nat) : List Nat :=
  (s.jobFlows j).filter (fun f => s.fld (fcKind f) == 2 && decide (s.fld (fcClass f) < 2) && !s.flag (fcSrck f) && s.fld (fcDst f) == lsid)

/-- The start of a replayed step (R360): the replay latch of R234, and one LREQ for each receive context. -/
def State.replayStart (s : State) (p e : Nat) : State :=
  let j := s.jobOf p
  let step := s.fld (CAM_HOST_W6_STEP p e)
  let w := s.tumWin p e
  let s := s.snapWin p w.1 1 0
  let s := match s.histRead p step with
    | some l => ({ s with replayEta := storeSet [] s.replayEta (32 * p + e) l }).bumpEta p e
    | none =>
      if s.fld (UPD_ETA_STEP_STEP p) = step && s.flag (UPD_ETA_STATUS_OPEN p) then s
      else
        let s := (s.flagN (UPD_STATUS_HIST_MISS p) p 0x12E 1).detect (unitId p 0xC) 7 0 0xFFFFFF e 0 0 j (4 + step * 2 ^ 32)
        s.meetRollback j 3
  let lsid := s.lsidOf p e
  (s.recvFlows j lsid).foldl (fun t f =>
    match t.rekey j (t.fld (fcSrc f)) with
    | some x => t.sendCtl (rkGid x) j (lreqMsg 0x32 j step lsid 0 f 0)
    | none => t) s

/-- A STEP_END that completes (R171): its bumps, then the snapshot of the window. In REPLAY the next step follows at
once until the target step has been completed (R360). -/
def State.stepEnd (s : State) (c : Cmd) : State :=
  let s := (s.applySig c.p c.ctx (dSig c.d 0)).applySig c.p c.ctx (dSig c.d 1)
  let w := s.tumWin c.p c.ctx
  let s := s.snapWin c.p w.1 w.2 1
  if s.fld (CAM_HOST_W0_STATE c.p c.ctx) ≠ 3 then s else
  let step := s.fld (CAM_HOST_W6_STEP c.p c.ctx)
  let s := s.count c.p 0x232 1
  if s.fld (RCV_J_TARGET_STEP (s.jobOf c.p)) ≤ step then s
  else
    (((s.setFld (CAM_HOST_W6_STEP c.p c.ctx) (step + 1)).setFld (CAM_HOST_W7_POS c.p c.ctx) 0).clearShard c.p c.ctx).replayStart
      c.p c.ctx

/-! ## Arrival (R178, R181) -/

/-- Whether an entry has completed a step: STEP_END has issued, and none of its commands is in flight. -/
def State.entryDone (s : State) (p e step : Nat) : Bool :=
  s.fld (CAM_HOST_W6_STEP p e) == step && s.fld (CAM_HOST_W7_POS p e) == s.fld (CAM_HOST_W2_PROG_LEN p e) &&
    !s.inflight.any (fun i => i.part == p && i.ctx == e)

/-- Whether every entry that Table 6.7 counts has arrived. Before the first step no entry has a step to complete. -/
def State.allArrived (s : State) (j : Nat) (r : JobRun) : Bool :=
  (s.slotParts j).all (fun p => (List.range 32).all (fun e =>
    match s.fld (CAM_HOST_W0_STATE p e) with
    | 2 => r.first || s.entryDone p e r.step
    | 3 => s.entryDone p e r.step
    | 5 => false
    | 6 => false
    | _ => true))

/-- Whether a replay or a placement of the recovery hinge is short of step k (R353). -/
def State.replayPending (s : State) (j : Nat) (r : JobRun) : Bool :=
  (s.jobEntries j (fun st => st == 3)).any (fun x => !s.entryDone x.1 x.2 r.step) ||
    ((r.cut.isSome && s.fld (RCV_J_STATUS_PHASE j) != 0) &&
      (s.jobEntries j (fun st => st == 1)).any (fun x => s.fld (CAM_HOST_W6_STEP x.1 x.2) != r.step + 1))

/-! ### Item 5: quotas and shares (R288, R524) -/

/-- Lanes in striping over the UP ports of a plane (R287). -/
def State.activeLanes (s : State) (k : Nat) : Nat :=
  (((List.range 24).filter (fun q => q / 4 == k && s.portUp q)).map (fun q => s.fld (FAB_PORT_STATUS_WIDTH q))).foldl (· + ·) 0

/-- Bytes a job slot's share gives it in a slot on a plane, and the depth of its bucket. -/
def State.shareRate (s : State) (j k : Nat) : Nat :=
  s.fld (actFld (FAB_SHARE_SHARE j k)) * (s.activeLanes k * 6400) / 256
def State.shareDepth (s : State) (j k : Nat) : Nat := max 1 (s.fld (actFld (FAB_SHARE_DEPTH j k)))

/-- A cut that falls below current use. -/
def State.cutBelow (s : State) (j : Nat) : State :=
  let s := ((s.setFld (PWR_J_QSTAT_CODE j) stQuota).setFld (PWR_J_QSTAT_CUT_SEEN j) 1).gcount 0x289 1
  s.event (PWR_J_QSTAT_CUT_SEEN j) 0 j

/-- Flow-context quota in force: the image's value, or the limit below it. -/
def flowQuota (img lim : Nat) : Nat := if lim = 0 then img else min lim img

/-- Item 5 of a slot's hinge. -/
def State.item5 (s : State) (j : Nat) (r : JobRun) : State :=
  let s := if s.flag (PWR_J_QSTAT_CUT_PENDING j) then
    (s.setFld (PWR_J_QSTAT_CUT_PENDING j) 0).setFld (PWR_J_QSTAT_CODE j) stOk else s
  -- injection shares
  let s := forRange 6 (fun k t =>
    let t := t.setReg (act (FAB_SHARE j k)) (t.reg (FAB_SHARE j k))
    let cap := t.shareRate j k * t.shareDepth j k
    let b := storeGet 0 t.buckets (8 * j + k)
    if cap < b then { t with buckets := storeSet 0 t.buckets (8 * j + k) cap }.cutBelow j else t) s
  -- flow contexts
  let q := flowQuota r.flowImg (s.fld (PWR_J_LIMIT_FLOW_LIMIT j))
  let was := s.fld (FAB_JOB_FLOW_FLOW_QUOTA j)
  let s := s.setFld (FAB_JOB_FLOW_FLOW_QUOTA j) q
  let s := if q < was && decide (q < s.fld (FAB_JOB_FLOW_FLOW_USED j)) then s.cutBelow j else s
  -- send logs
  let same := s.fld (PWR_J_LIMIT_LOG_MIB j) == s.fld (actFld (PWR_J_LIMIT_LOG_MIB j))
  let s := s.setReg (act (PWR_J_LIMIT j)) (s.reg (PWR_J_LIMIT j))
  if same then s else
    (s.slotParts j).foldl (fun t p =>
      if t.logLimit p < t.logUsed p then
        let t := t.cutBelow j
        if t.fld (HSP_J_EPOCH_EPOCH j) = 0xFFFFFFFF then t else t.trimLog p (t.fld (HSP_J_EPOCH_EPOCH j))
      else t) s

/-! ### Item 6: the job clock (R518, R520, R522) -/

/-- CAP_W and CAP_MARGIN in force. -/
def State.capW (s : State) : Nat := min 1550 (max 400 (s.fld PWR_CAP_CAP_W))

/-- Clocks in steps of 25 MHz from 400 to 1,600. -/
def clockSteps : List Nat := (List.range 49).map (fun i => 400 + 25 * i)

/-- Largest clock that satisfies the cap (R520), with the power of the slot's own partitions `dynJ` in W. -/
def capClock (static dyn dynJ cur limit : Nat) : Option Nat :=
  (clockSteps.filter (fun f => decide ((static + (dyn - dynJ)) * cur + dynJ * f ≤ limit * cur))).getLast?

/-- Job clock of a hinge, with what limits it: 0 request, 1 cap, 2 thermal, 3 guard. -/
def pickClock (req fcap ftherm fguard : Nat) : Nat × Nat :=
  let f := max 400 (min (min req fcap) (min ftherm fguard))
  (f, if req ≤ f then 0 else if fcap ≤ f then 1 else if ftherm ≤ f then 2 else 3)

/-- REQ_MHZ as it is read. -/
def State.reqMhz (s : State) (j : Nat) : Nat := min 1600 (max 400 (s.fld (CLK_J_REQ_REQ_MHZ j) / 25 * 25))

/-- Item 6 of a slot's hinge. `dynJ` is the share of dynamic power drawn on the rails of its partitions, in W. -/
def State.item6 (s : State) (j dynJ : Nat) : State :=
  let cur := s.fld (CLK_J_CUR_MHZ j)
  let p0 := storeGet 0 s.pStep j
  let pw := if p0 = 0 then storeGet 0 s.pStep (8 + j) else p0
  let static := s.fld PWR_STATIC_STATIC_W
  let best := capClock static (pw - static) (min dynJ (pw - static)) cur (s.capW - s.fld PWR_CAP_CAP_MARGIN)
  let s := if best.isNone then
    (s.setFld PWR_STATUS_FLOOR 1).powerRec 0x0700 8 0 0x3F pw (s.capW - s.fld PWR_CAP_CAP_MARGIN) 0 else s
  let fcap := min (best.getD 400) (s.fld (CLK_J_CEIL_CAP_MHZ j) + 100)
  let ft := s.fld (CLK_J_CEIL_THERM_MHZ j)
  let ftherm := if storeGet false s.thermStep j then max 400 (cur - 100)
    else if storeGet 0 s.thermLast j = 0 || decide (storeGet 0 s.thermLast j + 240000000000 ≤ s.ftime + 1) then min 1600 (ft + 25) else ft
  let (f, lim) := pickClock (s.reqMhz j) fcap ftherm (s.fld CLK_GUARD_GUARD_MHZ)
  let s := ((((s.setFld (CLK_J_CEIL_CAP_MHZ j) fcap).setFld (CLK_J_CEIL_THERM_MHZ j) ftherm).setFld
    (CLK_J_CUR_MHZ j) f).setFld (CLK_J_CUR_LIMIT j) lim)
  let s := { s with
    pStep := storeSet 0 (storeSet 0 s.pStep (8 + j) pw) j 0
    thermStep := storeSet false s.thermStep j false }
  s.setRails

/-! ### Item 7 (R141, R230) -/

/-- Job scalars of a partition take their pending writes. -/
def State.applyScalars (s : State) (p : Nat) : State :=
  let pend := s.fld (VXE_SREG_PEND_PEND p)
  let s := forRange 32 (fun n t => if bitAt pend n then
    (t.setReg (act (VXE_SREG_LO p n)) (t.reg (VXE_SREG_LO p n))).setReg (act (VXE_SREG_HI p n)) (t.reg (VXE_SREG_HI p n)) else t) s
  s.setFld (VXE_SREG_PEND_PEND p) 0

/-- Item 7 of a slot's hinge, for step `step`. -/
def State.item7 (s : State) (j step : Nat) : State :=
  (s.slotParts j).foldl (fun t p => (t.latchItem7 p step).applyScalars p) s

/-! ### What ends with the step -/

/-- The largest slip event of the step into the capture registers (R176). -/
def State.slipCapture (s : State) (p : Nat) : State :=
  let r := (storeGet none s.slipMax p).getD ⟨false, 0, 0, 0, 0, 0, 0, 0⟩
  let s := { s with slipMax := storeSet none s.slipMax p none }
  (((((((s.setFld (CAM_SLIP_CAP0_DESC_INDEX p) r.idx).setFld (CAM_SLIP_CAP0_CONTEXT p) r.ctx).setFld
    (CAM_SLIP_CAP0_VALID p) (if r.valid then 1 else 0)).setFld (CAM_SLIP_CAP1_CAUSE p) r.cause).setFld
    (CAM_SLIP_CAP1_TUMBLER p) r.tumbler).setFld (CAM_SLIP_CAP2_DETAIL p) r.detail).setFld
    (CAM_SLIP_CAP3_SOURCE p) r.source).setFld (CAM_SLIP_CAP4_SLIP p) r.slip

/-- Slip captures, shard scalars and preloads of a partition at a hinge (R107, R139, R176). An entry in REPLAY keeps its
shard scalars, which its own steps clear (R360). -/
def State.endStep (s : State) (p : Nat) : State :=
  let s := s.slipCapture p
  let s := forRange 32 (fun e t =>
    if t.fld (CAM_HOST_W0_STATE p e) = 3 || t.fld (CAM_HOST_W0_STATE p e) = 4 then t else t.clearShard p e) s
  { s with preload := s.preload.map (fun c =>
      if c.1 / 8 = p then (c.1, c.2.map (fun (x : Preload) => { x with stale := true })) else c) }

/-! ### Ready notices and releases -/

/-- Smoothing of the interval controller, in the unit of the register (R336). -/
def smooth (v x shift : Nat) : Nat :=
  let d : Int := (x : Int) - v
  ((v : Int) + d / (2 ^ max 1 shift : Nat)).toNat

/-- N from C and Tstep in µs and M in s (R336): the nearest whole number of steps to √(2 C M) ÷ Tstep. -/
def intervalN (c m t : Nat) : Nat := (isqrt (8 * c * m * 1000000) / t + 1) / 2

/-- N recomputed and clamped. -/
def State.computeN (s : State) (j : Nat) : State :=
  let lo := max 1 (s.fld (HSP_J_CLAMP_NMIN j))
  let hi := max lo (s.fld (HSP_J_CLAMP_NMAX j))
  let n := intervalN (s.fld (HSP_J_COST_C j)) (s.fld (HSP_J_MTBF_CUR_M j)) (s.fld (HSP_J_STEPT_TSTEP j))
  s.setFld (HSP_J_INTERVAL_N j) (min (max n lo) hi)

/-- A counted failure at a time: M moves by the time since the previous one (R336). -/
def State.countFailure (s : State) (j at_ : Nat) : State :=
  match s.run j with
  | none => s
  | some r =>
    let x := (at_ - r.failAt) / 4000000000
    let s := s.setFld (HSP_J_MTBF_CUR_M j) (smooth (s.fld (HSP_J_MTBF_CUR_M j)) x (s.fld (HSP_J_CFG_SMOOTH_SHIFT j)))
    (s.updRun j (fun r => { r with failAt := max r.failAt at_ })).computeN j

/-- Steps and costs measured at a release with start time `t` (R336). -/
def State.measure (s : State) (j t : Nat) (r : JobRun) : State :=
  let sh := s.fld (HSP_J_CFG_SMOOTH_SHIFT j)
  let s := if r.prevT = 0 then s else
    let x := (t + 1 - r.prevT) / 4000
    s.setFld (HSP_J_STEPT_TSTEP j) (if s.fld (HSP_J_STEPT_TSTEP j) = 0 then x else smooth (s.fld (HSP_J_STEPT_TSTEP j)) x sh)
  let gap := (t - r.arriveAt) / 4000
  if r.setHere then
    let d := if r.gaps.isEmpty then 0 else r.gaps.foldl (· + ·) 0 / r.gaps.length
    (s.setFld (HSP_J_COST_C j) (smooth (s.fld (HSP_J_COST_C j)) (gap - d) sh)).computeN j
  else s.updRun j (fun r => { r with gaps := (gap :: r.gaps).take 8 })

/-- Whether a set is due by the controller at the release of hinge k (R335). -/
def State.setDue (s : State) (j t : Nat) (r : JobRun) : Bool :=
  match s.fld (HSP_J_CFG_MODE j) with
  | 0 => false
  | 2 => decide (r.lastSetT + s.fld (HSP_J_FIXED_TIMER j) * 4000000000 ≤ t)
  | m => decide ((if m = 1 then s.fld (HSP_J_FIXED_FIXED_STEPS j) else s.fld (HSP_J_INTERVAL_N j)) ≤ r.step + 1 - (r.lastSet - 1))

/-- Duty of each compute die as shown: the least of its cap duty and its partitions'. A change is an event (R519, R522). -/
def State.showDuty (s : State) : State :=
  let d (die : Nat) : Nat := (List.range 4).foldl (fun n i => min n (storeGet 16 s.thDuty (4 * die + i))) (storeGet 16 s.capDuty die)
  let put (t : State) (f : Fld) (v : Nat) : State := if t.fld f = v then t else (t.setFld f v).event f 0x0700 8
  put (put s PWR_THROTTLE_DUTY_A (d 0)) PWR_THROTTLE_DUTY_B (d 1)

/-- The start of a step (R178, R180, R235): its counter runs from T. -/
def State.startStep (s : State) (j : Nat) (r : JobRun) : State :=
  let t := r.relT - 1
  let s := if r.first then s.item7 j r.step else s
  let s := (s.slotParts j).foldl (fun u p =>
    let u := { u with
      startCyc := storeSet 0 u.startCyc p (u.stepCycles p)
      etaMissed := storeSet false u.etaMissed p false
      lastIssue := storeClear u.lastIssue (64 * p) 32 }
    if t < u.ftime then u.setFld (CAM_HINGE_STATUS_HINGE_LATE p) 1 else u) s
  let s := { s with updDone := storeSet false s.updDone j false }
  let s := (s.setPhase j 0).hingeTrace j 2 r.step t
  s.updRun j (fun r => { r with first := false })

/-- Item 8 for the entries of a job slot: ACTIVE entries, and at a recovery hinge those in REPLAY and LOADING, stand at
position 0 of the next step (R178, R353). -/
def State.item8 (s : State) (j k : Nat) (recov : Bool) : State :=
  (s.jobEntries j (fun st => st == 2 || (recov && (st == 1 || st == 3)))).foldl (fun t x =>
    ((t.setFld (CAM_HOST_W0_STATE x.1 x.2) 2).setFld (CAM_HOST_W6_STEP x.1 x.2) (k + 1)).setFld (CAM_HOST_W7_POS x.1 x.2) 0) s

/-- End of a recovery at the release (R353): divert bits clear and the re-host operations complete. -/
def State.recoveryDone (s : State) (j : Nat) : State :=
  let s := s.clearRegs (RCV_J_DIVERT j 0) 2048
  let s := (s.setFld (RCV_J_STATUS_PHASE j) 0).setFld (RCV_J_REPLAY_EPOCH j) 0xFFFFFFFF
  let s := if s.ops.any (fun o => o.op == 9 && o.arg 0 == j) then
    (s.endOps (fun o => o.op == 9 && o.arg 0 == j) stOk [0, 0]).setFld (RCV_J_STATUS_LAST_CODE j) stOk else s
  let s := { s with replayEta := s.replayEta.filter (fun c => s.jobOf (c.1 / 32) != j) }
  s.updRun j (fun r => { r with cut := none })

/-- The step to come starts where its T has passed. -/
def State.startFrom (s : State) (j t : Nat) : State :=
  if t ≤ s.ftime then (match s.run j with | some r => s.startStep j r | none => s) else s

/-- Whether the job stands at its recovery hinge. -/
def JobRun.atRecovery (r : JobRun) : Bool := match r.cut with | some c => c.hinged | none => false

/-- What a module does with the release of hinge k (R178, R330): the fate of the set, item 8, and the start where T has
passed. -/
def State.applyRelease (s : State) (j t : Nat) (commit next : Bool) (r : JobRun) : State :=
  let k := r.step
  let s := s.hingeTrace j 1 k t
  let s := if !r.setHere then s
    else if commit then ((s.closeSlots j slCommitted [slWritten]).setFld (HSP_J_EPOCH_EPOCH j) k).gcount 0x211 1
    else ((s.closeSlots j slEmpty [slWriting, slWritten]).setFld (HSP_J_STATUS_WITHHELD j) 1).gcount 0x212 1
  let s := (s.setFld (HSP_J_STATUS_SET_OPEN j) 0).setFld (HSP_J_STATUS_COMMIT_NEXT j) (if next then 1 else 0)
  let s := if r.setHere then s else s.setFld (HSP_J_INTERVAL_SINCE j) (min 65535 (s.fld (HSP_J_INTERVAL_SINCE j) + 1))
  let s := (s.slotParts j).foldl (fun u p => u.setReg64 (CAM_ISSUE_BASE_LO p) t) s
  let s := s.item8 j k r.atRecovery
  let s := r.stretch.foldl (fun u x => u.setFld (actFld (CAM_STRETCH_STRETCH x.1)) x.2) s
  let s := if r.atRecovery then s.recoveryDone j else s
  let s := ({ s with
    capDuty := ((s.slotParts j).map (· / 4)).foldl (fun m d => storeSet 16 m d 16) s.capDuty
    rangeSeen := storeSet false s.rangeSeen j false
    holds := s.holds.filter (fun h => s.jobOf h.part != j || isRing h.ctx) }).showDuty
  ((s.setPhase j 2).updRun j (fun x => { x with
    step := (k + 1) % 2 ^ 32, arrived := false, sent := false, notices := [], holds := [], holdOwn := false, reported := false,
    relT := t + 1, ack := false, setHere := false, chunks := [], early := false, faults := 0, faultAt := 0,
    lastSetT := if x.setHere || x.prevT = 0 then t else x.lastSetT, prevT := t + 1, stretch := [],
    failAt := if x.first then max x.failAt t else x.failAt })).startFrom j t

/-- Whether the target slot of a partition of the job is pinned by a drain. -/
def State.pinned (s : State) (j : Nat) : Bool := (s.slotParts j).any (fun p => s.slotPin p (s.targetSlot p))

/-- The root's release of a hinge (R178, R335, R336): T, COMMIT and COMMIT_NEXT, and then what it measures. -/
def State.rootRelease (s : State) (j : Nat) (r : JobRun) (n : Notice) : State :=
  let margin := s.fld (CAM_HINGE_CFG_MARGIN ((s.slotParts j).headD 0))
  let t := (n.earliest + margin * 1024 + 1023) / 1024 * 1024
  let s := if n.pin then s.setFld (HSP_J_STATUS_PIN_DEFER j) 1 else s
  let next := !n.pin && (s.setDue j t r || n.early)
  let commit := r.setHere && n.ack
  let s := s.sendDown j (releaseMsg j r.step t commit next)
  -- failures that the notices sum and no HFAULT has named
  let extra := r.notices.foldl (fun c x => c + x.faults) 0 - r.faults
  let s := s.measure j t r
  let s := forRange extra (fun _ u => u.countFailure j n.faultAt) s
  match s.run j with
  | some r => s.applyRelease j t commit next r
  | none => s

/-- The ready notice of a module that has arrived, once every child has reported and nothing of its own is
outstanding (R178, R330, R331, R353). -/
def State.trySendReady (s : State) (j : Nat) : State :=
  match s.run j with
  | none => s
  | some r =>
    if !r.arrived || r.sent || s.flag (HSP_J_STATUS_SET_OPEN j) || !r.holds.isEmpty || s.replayPending j r ||
        s.fld (RCV_J_STATUS_PHASE j) ≥ 3 then s
    else
      let kids := s.jobKids j
      let ns := r.notices.filter (fun n => kids.contains n.src)
      if !kids.all (fun g => ns.any (fun n => n.src == g)) then s
      else
        let early := r.early || s.logPressed j
        let own : Notice := ⟨s.gid, if r.setHere || r.cut.isSome then max r.earliest s.ftime else r.earliest, r.setHere && r.ack,
          early, s.pinned j, r.faults, r.faultAt⟩
        let n := ns.foldl (fun (a : Notice) x => ⟨a.src, max a.earliest x.earliest, a.ack && x.ack, a.early || x.early,
          a.pin || x.pin, a.faults + x.faults, max a.faultAt x.faultAt⟩) own
        let s := if early then s.setFld (HSP_J_STATUS_EARLY j) 1 else s
        let s := s.updRun j (fun r => { r with sent := true, holdOwn := false })
        let s := if s.fld (CAM_HINGE_STATUS_PHASE ((s.slotParts j).headD 0)) = 3 then s.setPhase j 1 else s
        match s.jobUp j with
        | some g => s.sendCtl g j (readyMsg j r.step n.earliest (s.fld (FAB_JOB_ID_JOB_ID j)) n.faults n.faultAt n.ack n.early n.pin)
        | none => s.rootRelease j r n

/-! ### The arrival instant -/

/-- Notices that came before the module reached this hinge. -/
def State.takeEarly (s : State) (j : Nat) : State :=
  match s.run j with
  | none => s
  | some r =>
    let mine (x : Nat × List Nat) : Bool := mByte x.2 1 == j && mField x.2 4 4 == r.step
    let ns := (s.earlyMsgs.filter mine).map (fun x => noticeOf x.1 x.2)
    { s with earlyMsgs := s.earlyMsgs.filter (fun x => !mine x) }.updRun j (fun r =>
      { r with notices := r.notices ++ ns.filter (fun (n : Notice) => !r.notices.any (fun y => y.src == n.src)) })

/-- Items 3 and 4 (R51, R52, R59, R271, R499): what is armed applies whole or not at all. -/
def State.items34 (s : State) (j : Nat) (r : JobRun) : State :=
  if !s.swapArmed j && r.img.isNone then s
  else if s.swapOk j then
    let s := match r.img with
      | some i =>
        let s := ((s.setFld (FAB_JOB_GEN_GEN j) i.gen).setFld (BIT_SLOT_TABLE_IMAGE_ID j) i.id).setFld (BIT_SLOT_SHAPE_SHAPE j) i.shape
        (s.setFld (BIT_SLOT_STATE_TABLE_ARMED j) 0).updRun j (fun r => { r with img := none, shape := i.shape })
      | none => s
    let s := s.swapTables j ((r.img.map (·.flows)).getD [])
    if r.img.isSome then s.endOps (fun o => o.op == 3 && o.arg 0 == j) stOk [r.step] else s
  else
    let s := s.rejectSwap j
    if r.img.isSome then
      ((s.endOps (fun o => o.op == 3 && o.arg 0 == j) stBadImage []).setFld (BIT_SLOT_STATE_TABLE_ARMED j) 0).updRun j
        (fun r => { r with img := none }) else s

/-- Item 3 of the starting hinge of a restore that ends a rollback (R369). -/
def State.raiseGen (s : State) (j : Nat) (r : JobRun) : State :=
  if r.first && r.genUp then
    (s.setFld (FAB_JOB_GEN_GEN j) (s.fld (FAB_JOB_GEN_GEN j) + 1)).updRun j (fun r => { r with genUp := false })
  else s

/-- STRETCH of the slot's partitions as it stands for item 8. -/
def State.freezeStretch (s : State) (j : Nat) : State :=
  s.updRun j (fun r => { r with stretch := (s.slotParts j).map (fun p => (p, s.fld (CAM_STRETCH_STRETCH p))) })

/-- The module has arrived: PHASE, the trace, its earliest start. -/
def State.markArrived (s : State) (j : Nat) (clock : Nat) (r : JobRun) : State :=
  let s := (s.setPhase j 1).hingeTrace j 0 r.step 0
  let wait := if s.fld (CLK_J_CUR_MHZ j) = clock then 0 else 120000
  s.updRun j (fun r => { r with arrived := true, arriveAt := s.ftime, earliest := s.ftime + wait })

/-- A hinge of a job slot without a recovery: items 1 to 7 in their order, then phase 1 of a set that begins. -/
def State.arrive (s : State) (j dynJ : Nat) (r : JobRun) : State :=
  let clock := s.fld (CLK_J_CUR_MHZ j)
  let begins := s.flag (HSP_J_STATUS_COMMIT_NEXT j) && !r.first
  let s := (s.slotParts j).foldl State.endStep s
  let s := s.flipSlots j
  let s := s.raiseGen j r
  let s := s.items34 j r
  let s := s.item5 j r
  let s := (s.item6 j dynJ).hingeGuards j
  let s := if r.first then s else s.item7 j (r.step + 1)
  let s := ((s.freezeStretch j).markArrived j clock r).takeEarly j
  if begins then s.beginSet j else s

/-! ## Rows -/

/-- CMD_STEP_END. -/
def execCmdStepEnd (p ctx : Nat) (s : State) : Host.Outcome State Fault Refusal :=
  let j := s.jobOf p
  .next ((s.tryIssue p ctx (fun d => dClass d == 7) false (fun c t => t.stepEnd c)).trySendReady j)

/-- ARRIVAL_INSTANT of a job slot, with the dynamic power of its partitions in W. Once the module has arrived, the row
stands for the end of what the ready notice still waits for. -/
def execArrivalInstant (j dynJ : Nat) (s : State) : Host.Outcome State Fault Refusal :=
  match s.run j with
  | none => .next s
  | some r =>
    if s.flag RCV_FENCE_FENCED then .next s
    else if r.arrived then .next (s.trySendReady j)
    else if r.cut.isSome || s.fld (RCV_J_STATUS_PHASE j) ≠ 0 then .next s
    else if (!r.first && (s.slotParts j).any (fun p => s.fld (CAM_HINGE_STATUS_PHASE p) != 0)) || !s.allArrived j r then .next s
    else .next ((s.arrive j dynJ r).trySendReady j)

/-- HASP_PHASE1_COMPLETE (R330): every chunk has arrived and passed its checks, or has been given up. -/
def execHaspPhase1Complete (j : Nat) (s : State) : Host.Outcome State Fault Refusal :=
  match s.run j with
  | none => .next s
  | some r =>
    if !r.arrived || !r.setHere || r.phase1Open || r.sent || !s.flag (HSP_J_STATUS_SET_OPEN j) then .next s
    else
      let s := if r.chunks.all (·.ok) && !r.chunks.isEmpty then s.closeSlots j slWritten [slWriting]
        else s.updRun j (fun r => { r with ack := false })
      let s := (s.setFld (HSP_J_STATUS_SET_OPEN j) 0).updRun j (fun r => { r with earliest := max r.earliest s.ftime })
      .next (s.trySendReady j)

/-- READY_NOTICE (R178, R181): of a child, kept until this module has arrived at the same hinge. -/
def State.onReadyNotice (s : State) (src : Nat) (m : List Nat) : State :=
  let j := mByte m 1 % 8
  match s.run j with
  | some r =>
    if mField m 4 4 = r.step then
      let n := noticeOf src m
      ((s.updRun j (fun r => { r with
        notices := r.notices.filter (fun x => x.src != src) ++ [n], holds := r.holds.filter (· != src) })).trySendReady j)
    else { s with earlyMsgs := s.earlyMsgs.filter (fun x => !(x.1 == src && mByte x.2 1 == j)) ++ [(src, m)] }
  | none => { s with earlyMsgs := s.earlyMsgs.filter (fun x => !(x.1 == src && mByte x.2 1 == j)) ++ [(src, m)] }

/-- HOLD_NOTICE (R181, R351): it replaces the child's ready notice and goes up the tree. -/
def State.onHoldNotice (s : State) (src : Nat) (m : List Nat) : State :=
  let j := mByte m 1 % 8
  match s.run j with
  | none => s
  | some r =>
    if mField m 4 4 ≠ r.step then s else
    let s := s.updRun j (fun r => { r with
      notices := r.notices.filter (fun x => x.src != src), holds := r.holds.filter (· != src) ++ [src], sent := false })
    match s.jobUp j with
    | some g => (s.sendCtl g j (holdMsg j r.step))
    | none => s

/-- HINGE_RELEASE (R178): from the parent, sent on to every child. -/
def State.onHingeRelease (s : State) (src : Nat) (m : List Nat) : State :=
  let j := mByte m 1 % 8
  match s.run j with
  | none => s
  | some r =>
    if mField m 4 4 ≠ r.step || !r.arrived || s.jobUp j ≠ some src then s
    else
      let t := mField m 8 8
      let s := s.sendDown j m
      (s.applyRelease j t (bitAt (mByte m 16) 0) (bitAt (mByte m 16) 1) r)

/-- STEP_START (R178): fabric time has reached T. -/
def execStepStart (j : Nat) (s : State) : Host.Outcome State Fault Refusal :=
  match s.run j with
  | none => .next s
  | some r =>
    if r.relT = 0 || r.arrived || s.ftime + 1 < r.relT || r.cut.isSome ||
        !(s.slotParts j).any (fun p => s.fld (CAM_HINGE_STATUS_PHASE p) == 2) then .next s
    else .next (s.startStep j r)

/-- HINGE_TIMEOUT (R179): no release within MARGIN plus TIMEOUT of arrival; not while a hold notice stands (R181). -/
def execHingeTimeout (j : Nat) (s : State) : Host.Outcome State Fault Refusal :=
  match s.run j with
  | none => .next s
  | some r =>
    let p := (s.slotParts j).headD 0
    let wait := s.fld (CAM_HINGE_CFG_MARGIN p) * 1024 + max 1 (s.fld (CAM_HINGE_CFG_TIMEOUT p)) * 4000000
    if !r.arrived || r.reported || !r.holds.isEmpty || r.holdOwn || s.fld (RCV_J_STATUS_PHASE j) ≠ 0 ||
        decide (s.ftime ≤ r.arriveAt + wait) then .next s
    else
      let missing := (s.jobKids j).filter (fun g => !r.notices.any (fun n => n.src == g))
      let s := (s.slotParts j).foldl (fun t q => t.setFld (CAM_HINGE_STATUS_HINGE_TIMEOUT q) 1) s
      let s := s.event (CAM_HINGE_STATUS_HINGE_TIMEOUT p) (unitId p 0x11) j
      .next ((s.updRun j (fun r => { r with reported := true })).emit (.report 1 j missing))

/-- MTBF_WRITE (R336). -/
def State.mtbfWrite (s : State) (j v : Nat) : State :=
  let s := (s.setFld (HSP_J_MTBF_MTBF_S j) v).setFld (HSP_J_MTBF_CUR_M j) v
  (if (s.run j).isSome && s.isRoot j then s.computeN j else s)

end Sys2Proof.Machine
end

