-- ==== Sys2Proof/Machine/Links.lean ====
section
/-! DEFINITION. Ports, links and lanes (R240 to R254), fabric time (R277 to R281), slots, shaping and arbitration
(R284 to R289), plane moves and acknowledgement (R266, R267), and saturated levels (R293). -/
namespace Sys2Proof.Machine

/-! ## Ports and lanes (R241, Table 9.2) -/

def linkInit : Link where
  txSeq := 0
  rxSeq := 0
  nakSent := false
  stream := []
  limit := []
  sent := []
  taken := []
  kept := 0
  out := 0
  wait := 0
  peerOut := 0
  since := 0
  drops := []
  holdUntil := 0
  hops := 0xFF
  partner := none
  ue := []
  xseq := 0

/-- Link of a port. -/
def State.link (s : State) (q : Nat) : Link := (storeGet none s.links q).getD linkInit
def State.setLink (s : State) (q : Nat) (l : Link) : State := { s with links := storeSet none s.links q (some l) }

def State.groupMode (s : State) (k : Nat) : Nat := s.fld (FAB_GROUP_CFG_MODE k)

/-- Whether a port exists under the mode of its group. -/
def State.portExists (s : State) (q : Nat) : Bool :=
  decide (q < 24) && s.groupMode (q / 4) != 3 && decide (q % 4 < 2 ^ s.groupMode (q / 4))

/-- Full and least width of a port, and codewords of its replay buffer (Table 9.2). -/
def State.fullWidth (s : State) (q : Nat) : Nat := 16 / 2 ^ s.groupMode (q / 4)
def State.leastWidth (s : State) (q : Nat) : Nat := 8 / 2 ^ s.groupMode (q / 4)
def State.replayCap (s : State) (q : Nat) : Nat := 512 / 2 ^ s.groupMode (q / 4)

/-- Lanes of a port, by position in the group. -/
def State.portLanes (s : State) (q : Nat) : Nat := (2 ^ s.fullWidth q - 1) * 2 ^ (s.fullWidth q * (q % 4))

/-- Port of lane Lx. -/
def State.lanePort (s : State) (x : Nat) : Nat := 4 * (x / 16) + x % 16 / s.fullWidth (4 * (x / 16))

/-- Bits set of a 16-bit mask. -/
def popCount (m : Nat) : Nat := ((List.range 16).filter (bitAt m)).length

/-- Bits of `a` that are not set in `b`. -/
def maskLess (a b : Nat) : Nat := a ^^^ (a &&& b)

/-- Lanes of a port in striping: ACTIVE and WIDTH. -/
def State.setLanes (s : State) (q m : Nat) : State :=
  let k := q / 4
  let s := s.setFld (FAB_LANE_ACTIVE_ACTIVE k) (maskLess (s.fld (FAB_LANE_ACTIVE_ACTIVE k)) (s.portLanes q) ||| (m &&& s.portLanes q))
  s.setFld (FAB_PORT_STATUS_WIDTH q) (popCount (m &&& s.portLanes q))

/-- Lanes that both sides keep in striping. -/
def Link.lanes (l : Link) : Nat := maskLess (maskLess l.kept l.out) l.peerOut

/-! ## Control units (Table 9.3) -/

def ackUnit (seq : Nat) : Nat := 1 + seq % 1024 * 2 ^ 8
def nakUnit (seq : Nat) : Nat := 2 + seq % 1024 * 2 ^ 8
def creditUnit (c : List Nat) : Nat := 3 + ((List.range 4).foldl (fun n i => n + c.getD i 0 % 2 ^ 32 * 2 ^ (32 + 32 * i)) 0)
def laneUnit (mask reason : Nat) : Nat := 6 + mask % 2 ^ 16 * 2 ^ 8 + reason % 256 * 2 ^ 24

/-- TIME unit (Table 10.1). -/
def timeUnit (kind hops : Nat) (valid : Bool) (xseq t1 t2 t3 : Nat) : Nat :=
  4 + kind * 2 ^ 8 + hops % 256 * 2 ^ 16 + (if valid then 2 ^ 24 else 0) + xseq % 2 ^ 16 * 2 ^ 32 +
    t1 % 2 ^ 64 * 2 ^ 64 + t2 % 2 ^ 64 * 2 ^ 128 + t3 % 2 ^ 64 * 2 ^ 192

/-- The module's TRAIN unit for a port (Table 9.5). -/
def State.trainUnit (s : State) (q kept : Nat) (ack : Bool) : Nat :=
  5 + (3 + 4 * 16) * 2 ^ 8 + s.gid * 2 ^ 16 + (q / 4 + s.groupMode (q / 4) * 8 + q % 4 * 32) * 2 ^ 40 +
    kept % 2 ^ 16 * 2 ^ 48 + (if ack then 2 ^ 64 else 0)

/-- Credit that the module advertises on a port: what it offers and what it has received (R247). -/
def State.sendCredit (s : State) (q : Nat) : State :=
  s.emit (.ctlUnit q (creditUnit ((List.range 4).map (fun v => Config.rxCredits q v + (s.link q).taken.getD v 0))))

/-! ## Time source (R280) -/

/-- Port in UP with the lowest HOPS below 0xFF, the lowest number on a tie. -/
def State.bestTime (s : State) : Option Nat :=
  ((List.range 24).filter (fun q => s.portUp q && decide ((s.link q).hops < 0xFF))).foldl (fun b q =>
    match b with
    | none => some q
    | some c => if (s.link q).hops < (s.link c).hops then some q else some c) none

/-- The source port is kept until it leaves UP or another advertises at least two hops less. -/
def State.pickSource (s : State) : State :=
  let cur := s.fld FAB_TIME_STATUS_SOURCE
  let keep := decide (cur < 24) && s.portUp cur
  let next := match s.bestTime with
    | some q => if keep && decide ((s.link cur).hops < (s.link q).hops + 2) then some cur else some q
    | none => if keep then some cur else none
  match next with
  | some q => (s.setFld FAB_TIME_STATUS_SOURCE q).setFld FAB_TIME_STATUS_HOPS (s.link q).hops
  | none => (s.setFld FAB_TIME_STATUS_SOURCE 0x1F).setFld FAB_TIME_STATUS_HOPS 0xFF

/-! ## Moves of flows (R266) -/

/-- A packet sent again after its port went down. -/
def Pkt.resent (p : Pkt) : Pkt := { p with hdr := (Hdr.enc { Hdr.dec p.hdr with rsnd := 1 }) }

/-- Module a send flow leads to, where its context names it. -/
def State.flowGid (s : State) (n : Nat) : Option Nat := (s.rekey (s.fld (fcJob n)) (s.fld (fcDst n))).map rkGid

/-- Send flows that leave on a port. -/
def State.flowsOn (s : State) (q : Nat) : List Nat :=
  let left := (s.txq.filter (fun x => x.port == some q)).filterMap (·.flow)
  let named := ((List.range 8).flatMap s.jobFlows).filter (fun n => s.fld (fcKind n) == 1 &&
    (match s.flowGid n with
     | some g => (match s.flowRoute n g with | some r => r.2 == q | none => false)
     | none => false))
  (left ++ named).eraseDups

/-- Module toward which the waiting packets of a flow go, else the one its context names. -/
def State.flowDest (s : State) (n : Nat) : Option Nat :=
  match s.txq.find? (fun x => x.flow == some n) with
  | some x => some (Hdr.dec x.pkt.hdr).dst
  | none => s.flowGid n

/-- A flow whose port has gone down moves: new plane, and its new packets held for SWITCH_HOLD. -/
def State.moveFlow (s : State) (n : Nat) : State :=
  match s.flowDest n with
  | none => s
  | some g =>
    let s := { s with flowHold := storeSet 0 s.flowHold n (s.ftime + s.fld FAB_FLOW_CFG_SWITCH_HOLD * 4000) }
    match s.flowRoute n g with
    | some r => s.setFld (fcPlane n) r.1
    | none => if s.txq.any (fun x => x.flow == some n) then s.setFld FAB_RX_STATUS_NO_ROUTE 1 else s

/-- What leaves UP takes along: its lanes, its unacknowledged packets and its flows, and the time source. -/
def State.leaveUp (s : State) (q state : Nat) : State :=
  let flows := s.flowsOn q
  let s := flows.foldl (fun t n =>
    t.setFld (fcOut n) (t.fld (fcOut n) - (t.txq.filter (fun x => x.port == some q && x.flow == some n)).length)) s
  let s := ((s.setFld (FAB_PORT_STATUS_STATE q) state).setFld (FAB_PORT_STATUS_VER q) 0).setLanes q 0
  let s := { s with txq := s.txq.filterMap (fun (x : TxPkt) =>
    if x.port = some q then
      (if x.flow.isSome then some { x with pkt := x.pkt.resent, port := none, codeword := 0, sends := 0 } else none)
    else some x) }
  (flows.foldl State.moveFlow s).pickSource

/-! ## Port down and flap damping (R254) -/

/-- Length of the hold of a port at damping level `l`, in ticks. -/
def State.holdTime (s : State) (l : Nat) : Nat :=
  min (s.fld FAB_DAMP_CFG0_DAMP_HOLD * 2 ^ l) (s.fld FAB_DAMP_CFG1_DAMP_CEIL * 1000) * 4000000

/-- A drop of a port that has left UP. -/
def State.portDrop (s : State) (q : Nat) : State :=
  let s := s.gcount (0x140 + q) 1
  let l := s.link q
  let ds := s.ftime :: l.drops.filter (fun t => decide (s.ftime < t + s.fld FAB_DAMP_CFG0_DAMP_WINDOW * 4000000000))
  if max 1 (s.fld FAB_DAMP_CFG0_DAMP_N) ≤ ds.length then
    let lv := s.fld (FAB_PORT_STATUS_DAMP_LEVEL q)
    let s := s.setLink q { l with drops := [], holdUntil := s.ftime + s.holdTime lv }
    ((s.setFld (FAB_PORT_STATUS_DAMP_LEVEL q) (min 8 (lv + 1))).setFld (FAB_PORT_STATUS_STATE q) 4).event
      (FAB_PORT_STATUS_STATE q) (0x160 + q / 4) 8
  else s.setLink q { l with drops := ds }

/-- A port goes down with a reason; an attempt at training ends (R248, R254). -/
def State.portDown (s : State) (q reason : Nat) : State :=
  match s.fld (FAB_PORT_STATUS_STATE q) with
  | 3 =>
    let s := (s.leaveUp q 1).setFld (FAB_PORT_STATUS_REASON q) reason
    (s.setLink q { s.link q with since := s.ftime, partner := none }).portDrop q
  | 2 =>
    let s := (s.setFld (FAB_PORT_STATUS_STATE q) 1).setFld (FAB_PORT_STATUS_REASON q) reason
    s.setLink q { s.link q with since := s.ftime, partner := none }
  | _ => s

/-- PORT_DOWN: a port loses its link, `reason` as REASON of FAB_PORT_STATUS. -/
def execPortDown (q reason : Nat) (s : State) : Host.Outcome State Fault Refusal := .next (s.portDown q reason)

/-! ## Training (R248 to R250) -/

/-- Whether a port may train: it exists, its group is enabled, it is down, and its power domain is awake. -/
def State.canTrain (s : State) (q : Nat) : Bool :=
  s.boot == .running && s.portExists q && s.flag (FAB_GROUP_CFG_EN (q / 4)) && s.fld (FAB_PORT_STATUS_STATE q) == 1 &&
    s.domState (32 + q / 4) == 0

/-- Lane set of a version 3 port: all of its lanes, else the half that is whole (R250). -/
def State.v3Lanes (s : State) (q m : Nat) : Nat :=
  let w := s.fullWidth q
  let lo := (2 ^ (w / 2) - 1) * 2 ^ (w * (q % 4))
  let hi := lo * 2 ^ (w / 2)
  if m &&& s.portLanes q = s.portLanes q then s.portLanes q
  else if m &&& lo = lo then lo else if m &&& hi = hi then hi else 0

/-- Negotiated link version (R249); 0 where there is none. -/
def linkVersion (lo hi : Nat) : Nat := if max 3 lo ≤ min 4 hi then min 4 hi else 0

/-- The checks of Table 9.4 on the partner's TRAIN unit, and UP. -/
def State.trainFinish (s : State) (q u : Nat) : State :=
  let l := s.link q
  let v := linkVersion (bits u 8 4) (bits u 12 4)
  let both := maskLess (l.kept &&& bits u 48 16 &&& s.portLanes q) (s.fld (FAB_LANE_RETIRED_RETIRED (q / 4)))
  let set := if v = 3 then s.v3Lanes q both else both
  if v = 0 then s.portDown q 4
  else if bits u 40 3 ≠ q / 4 then s.portDown q 5
  else
    let s := if s.gid = 0 then s.setFld (FAB_PORT_STATUS_REASON q) 8 else s
    if popCount set < s.leastWidth q then s.portDown q 3
    else
      let s := s.setLink q { linkInit with
        kept := set, since := s.ftime, drops := l.drops, holdUntil := l.holdUntil, partner := some u, xseq := l.xseq }
      let s := (s.sendCredit q).setLanes q set
      ((s.setFld (FAB_PORT_STATUS_VER q) v).setFld (FAB_PORT_STATUS_STATE q) 3).event (FAB_PORT_STATUS_STATE q) (0x160 + q / 4) 8

/-- The partner's TRAIN unit during training: it is answered, and once the partner has acknowledged the module's own
unit the checks follow. -/
def State.linkTrain (s : State) (q u : Nat) : State :=
  if s.fld (FAB_PORT_STATUS_STATE q) ≠ 2 then s else
  let s := s.setLink q { s.link q with partner := some u }
  let s := s.emit (.ctlUnit q (s.trainUnit q (s.link q).kept true))
  if bitAt u 64 then s.trainFinish q u else s

/-- Start of an attempt: `kept` are the lanes that locked, equalised and arrived at their own position (steps 1 to 4),
and `partner` the partner's TRAIN unit where it is received in this attempt. -/
def State.trainStart (s : State) (q kept : Nat) (partner : Option Nat) : State :=
  if !s.canTrain q then s else
  let m := maskLess (kept &&& s.portLanes q) (s.fld (FAB_LANE_RETIRED_RETIRED (q / 4)))
  let s := s.setFld (FAB_PORT_STATUS_STATE q) 2
  let s := s.setLink q { s.link q with kept := m, out := 0, wait := 0, peerOut := 0, since := s.ftime, partner := none }
  let s := s.emit (.ctlUnit q (s.trainUnit q m false))
  match partner with
  | some u => s.linkTrain q u
  | none => s

/-- LINK_TRAIN. -/
def execLinkTrain (q u : Nat) (s : State) : Host.Outcome State Fault Refusal := .next (s.linkTrain q u)

/-- PORT_TRAIN_START. -/
def execPortTrainStart (q kept : Nat) (partner : Option Nat) (s : State) : Host.Outcome State Fault Refusal :=
  .next (s.trainStart q kept partner)

/-- PORT_TRAIN_TIMEOUT: 60 ms after the start of an attempt. -/
def execPortTrainTimeout (q : Nat) (s : State) : Host.Outcome State Fault Refusal :=
  if s.fld (FAB_PORT_STATUS_STATE q) = 2 ∧ (s.link q).since + 240000000 ≤ s.ftime then .next (s.portDown q 7) else .next s

/-- PORT_TRAIN_RETRY: 1 s, ±50 ms, after an attempt ended. -/
def execPortTrainRetry (q kept : Nat) (partner : Option Nat) (s : State) : Host.Outcome State Fault Refusal :=
  if (s.link q).since + 3800000000 ≤ s.ftime then .next (s.trainStart q kept partner) else .next s

/-- DAMP_HOLD_EXPIRY. -/
def execDampHoldExpiry (q kept : Nat) (partner : Option Nat) (s : State) : Host.Outcome State Fault Refusal :=
  if s.fld (FAB_PORT_STATUS_STATE q) = 4 ∧ (s.link q).holdUntil ≤ s.ftime then
    .next ((s.setFld (FAB_PORT_STATUS_STATE q) 1).trainStart q kept partner)
  else .next s

/-- DAMP_QUIET_EXPIRY. -/
def execDampQuietExpiry (q : Nat) (s : State) : Host.Outcome State Fault Refusal :=
  if s.portUp q && decide ((s.link q).since + s.fld FAB_DAMP_CFG1_DAMP_QUIET * 4000000000 ≤ s.ftime) then
    .next (s.setFld (FAB_PORT_STATUS_DAMP_LEVEL q) 0)
  else .next s

/-- FLOW_SWITCH_HOLD_EXPIRY. -/
def execFlowSwitchHoldExpiry (n : Nat) (s : State) : Host.Outcome State Fault Refusal :=
  if storeGet 0 s.flowHold n ≤ s.ftime then .next { s with flowHold := storeSet 0 s.flowHold n 0 } else .next s

/-! ## Lanes (R251 to R253) -/

/-- A lane fault event (Table 9.7). -/
def State.laneFault (s : State) (x : Nat) : State := (s.gcount (0xC0 + x) 1).accAdd (kLaneFault x) 1

/-- The lanes in striping after a change of what either side has out; below the least width the port goes down, and a
version 3 port retrains on the half without a lost lane (R250). -/
def State.restripe (s : State) (q : Nat) : State :=
  let m := (s.link q).lanes
  if s.fld (FAB_PORT_STATUS_VER q) = 3 then
    let h := s.v3Lanes q m
    if h = 0 then s.portDown q 3
    else
      let s := s.leaveUp q 2
      let s := s.setLink q { s.link q with kept := h, out := 0, peerOut := 0, since := s.ftime, partner := none }
      s.emit (.ctlUnit q (s.trainUnit q h false))
  else if popCount m < s.leastWidth q then s.portDown q 3
  else s.setLanes q m

/-- Lane Lx leaves striping and retrains alone: a LANE unit, a FABRIC record of kind 0x01. `event` is its row of
Table 9.7. -/
def State.laneOut (s : State) (x event : Nat) : State :=
  let q := s.lanePort x
  if !s.portUp q || !bitAt (s.fld (FAB_LANE_ACTIVE_ACTIVE (x / 16))) (x % 16) then s else
  let s := s.laneFault x
  let s := s.setLink q { s.link q with out := (s.link q).out ||| 2 ^ (x % 16) }
  let s := s.detect (0x0100 + x) 0x0A 0 0xFFFFFF 0x3F 0 0 8 (q + x * 2 ^ 8 + 1 * 2 ^ 16)
  let s := if s.fld (FAB_PORT_STATUS_VER q) = 3 then s
    else s.emit (.ctlUnit q (laneUnit (s.link q).out (Config.laneReason event)))
  s.restripe q

/-- LANE_LOCK_LOSS. -/
def execLaneLockLoss (x : Nat) (s : State) : Host.Outcome State Fault Refusal := .next (s.laneOut x 2)

/-- LANE_UE_LIMIT: more than the limit within the last second. -/
def execLaneUeLimit (x : Nat) (s : State) : Host.Outcome State Fault Refusal :=
  let n := ((s.link (s.lanePort x)).ue.filter (fun e => e.1 == x % 16 && decide (s.ftime < e.2 + 4000000000))).length
  if s.fld FAB_LINK_CFG_LANE_UE_LIMIT < n then .next (s.laneOut x 1) else .next s

/-- LANE_RETRAIN_TIMEOUT: a lane fault event that writes no record. -/
def execLaneRetrainTimeout (x : Nat) (s : State) : Host.Outcome State Fault Refusal :=
  let q := s.lanePort x
  let l := s.link q
  if s.portUp q && bitAt l.out (x % 16) && !bitAt l.wait (x % 16) then
    .next (((s.setLink q { l with wait := l.wait ||| 2 ^ (x % 16) }).laneFault x).detectOnly (0x0100 + x) 0)
  else .next s

/-- LANE_RETRAIN_RETRY: 1 s later the lane retrains again. -/
def execLaneRetrainRetry (x : Nat) (s : State) : Host.Outcome State Fault Refusal :=
  let q := s.lanePort x
  let l := s.link q
  .next (if s.portUp q then s.setLink q { l with wait := maskLess l.wait (2 ^ (x % 16)) } else s)

/-- LANE_REJOIN: a lane that retrained. A retired lane is never retrained. -/
def execLaneRejoin (x : Nat) (s : State) : Host.Outcome State Fault Refusal :=
  let q := s.lanePort x
  let l := s.link q
  if s.portUp q && bitAt l.out (x % 16) && !bitAt l.wait (x % 16) && !bitAt (s.fld (FAB_LANE_RETIRED_RETIRED (x / 16))) (x % 16) then
    let s := s.setLink q { l with out := maskLess l.out (2 ^ (x % 16)) }
    let s := s.emit (.ctlUnit q (laneUnit (s.link q).out (Config.laneReason 3)))
    .next (s.setLanes q (s.link q).lanes)
  else .next s

/-- A LANE unit: the lanes the partner has out of striping. -/
def State.linkLane (s : State) (q mask : Nat) : State :=
  if !s.portUp q || s.fld (FAB_PORT_STATUS_VER q) = 3 then s else
  (s.setLink q { s.link q with peerOut := mask &&& s.portLanes q }).restripe q

/-- LINK_LANE. -/
def execLinkLane (q mask : Nat) (s : State) : Host.Outcome State Fault Refusal := .next (s.linkLane q mask)

/-- Lanes that the Keeper has retired leave striping, with a LANE unit (R253). -/
def State.dropRetired (s : State) : State :=
  forRange 24 (fun q t =>
    let m := (t.link q).lanes &&& t.fld (FAB_LANE_RETIRED_RETIRED (q / 4)) &&& t.portLanes q
    if !t.portUp q || m = 0 then t else
    let t := t.setLink q { t.link q with out := (t.link q).out ||| m }
    let t := if t.fld (FAB_PORT_STATUS_VER q) = 3 then t else t.emit (.ctlUnit q (laneUnit (t.link q).out (Config.laneReason 4)))
    t.restripe q) s

/-- ERROR_RECORD_WRITE, while the Keeper runs (R380, R423). -/
def execErrorRecordWrite (s : State) : Host.Outcome State Fault Refusal :=
  if s.boot = .running then .next (s.takeDetections s.detections).dropRetired else .next s

/-- LANE_READMIT: a write of FAB_LANE_k_READMIT (R253, R404). -/
def State.laneReadmit (s : State) (k mask : Nat) : State :=
  (forRange 16 (fun b t =>
    if bitAt mask b && bitAt (t.fld (FAB_LANE_RETIRED_RETIRED k)) b then
      (t.setFld ⟨FAB_LANE_RETIRED k, b, 1⟩ 0).readmit (0x0100 + 16 * k + b)
    else t) s)

/-! ## Acknowledgement and retry (R244, R246, R247) -/

/-- A packet is acknowledged: its flow has one less outstanding, and a flow that waited for 0 may send again (R292). -/
def State.ackPkt (s : State) (x : TxPkt) : State :=
  match x.flow with
  | none => s
  | some n =>
    let s := s.setFld (fcOut n) (s.fld (fcOut n) - 1)
    if s.fld (fcOut n) = 0 then { s with flowDrain := storeSet false s.flowDrain n false } else s

/-- A cumulative ACK. -/
def State.linkAck (s : State) (q seq : Nat) : State :=
  if !s.portUp q then s else
  let hit (x : TxPkt) : Bool := x.port == some q && decide ((seq + 1024 - x.codeword) % 1024 < 512)
  let done := s.txq.filter hit
  done.foldl State.ackPkt { s with txq := s.txq.filter (fun x => !hit x) }

/-- LINK_ACK. -/
def execLinkAck (q seq : Nat) (s : State) : Host.Outcome State Fault Refusal := .next (s.linkAck q seq)

/-- A NAK: the codewords from `seq` on are sent again, or the port goes down when one of them has been sent RETRY_LIMIT
times without acknowledgement. -/
def State.linkNak (s : State) (q seq : Nat) : State :=
  if !s.portUp q then s else
  let s := s.gcount (0x120 + q) 1
  let hit (x : TxPkt) : Bool := x.port == some q && decide ((x.codeword + 1024 - seq) % 1024 < 512)
  if (s.txq.filter hit).any (fun x => decide (max 1 (s.fld FAB_LINK_CFG_RETRY_LIMIT) ≤ x.sends)) then s.portDown q 2
  else
    { s with txq := s.txq.map (fun (x : TxPkt) => if hit x then { x with sends := x.sends + 1 } else x) }.emit (.resend q seq)

/-- LINK_NAK. -/
def execLinkNak (q seq : Nat) (s : State) : Host.Outcome State Fault Refusal := .next (s.linkNak q seq)

/-- The partner's credit counts, VC0 to VC3. -/
def State.linkCredit (s : State) (q : Nat) (c : List Nat) : State :=
  if s.portUp q then s.setLink q { s.link q with limit := (List.range 4).map (fun v => c.getD v 0 % 2 ^ 32) } else s

/-- LINK_CREDIT. -/
def execLinkCredit (q : Nat) (c : List Nat) (s : State) : Host.Outcome State Fault Refusal := .next (s.linkCredit q c)

/-- Credit left on a virtual channel: counts rise modulo 2^32. -/
def Link.credit (l : Link) (v : Nat) : Nat :=
  let d := (l.limit.getD v 0 + 2 ^ 32 - l.sent.getD v 0 % 2 ^ 32) % 2 ^ 32
  if d < 2 ^ 31 then d else 0

/-! ## Fabric time (R279 to R281) -/

/-- HOPS and VALID that the module sends: its source's hops and one, or no valid time. -/
def State.timeHops (s : State) : Nat × Bool :=
  if s.flag FAB_TIME_STATUS_VALID && s.fld FAB_TIME_STATUS_SOURCE < 24 then (min 0xFF (s.fld FAB_TIME_STATUS_HOPS + 1), true)
  else (0xFF, false)

/-- TIME_EXCHANGE_START. -/
def execTimeExchangeStart (q : Nat) (s : State) : Host.Outcome State Fault Refusal :=
  if s.portUp q then
    let l := s.link q
    let (h, v) := s.timeHops
    .next ((s.setLink q { l with xseq := (l.xseq + 1) % 65536 }).emit (.ctlUnit q (timeUnit 1 h v l.xseq s.ftime 0 0)))
  else .next s

/-- What any TIME unit advertises. -/
def State.timeAdvert (s : State) (q hops : Nat) : State := (s.setLink q { s.link q with hops := hops % 256 }).pickSource

/-- A REQ: stamped on arrival and answered. -/
def State.timeReq (s : State) (q hops xseq t1 : Nat) : State :=
  if !s.portUp q then s else
  let s := s.timeAdvert q hops
  let (h, v) := s.timeHops
  s.emit (.ctlUnit q (timeUnit 2 h v xseq t1 s.ftime s.ftime))

/-- TIME_REQ. -/
def execTimeReq (q hops xseq t1 : Nat) (s : State) : Host.Outcome State Fault Refusal := .next (s.timeReq q hops xseq t1)

/-- LOCKED clears. -/
def State.timeUnlock (s : State) : State :=
  let s := { s with timeGood := 0 }
  if s.flag FAB_TIME_STATUS_LOCKED then
    ((s.setFld FAB_TIME_STATUS_LOCKED 0).setFld FAB_TIME_STATUS_UNLOCK_SEEN 1).event FAB_TIME_STATUS_UNLOCK_SEEN 0 8
  else s

/-- Difference of two stamps modulo 2^64. -/
def stampDiff (a b : Nat) : Int := signedOf (a + 2 ^ 64 - b % 2 ^ 64) 64

/-- An accepted offset in ticks from the source. -/
def State.timeOffset (s : State) (off : Int) : State :=
  let ps : Int := max (-(2 ^ 31)) (min (2 ^ 31 - 1) (off * 250))
  let s := (s.setFld FAB_TIME_STATUS_VALID 1).setFld FAB_TIME_OFFSET_OFFSET_PS (codeOf ps 32)
  let s := if !s.anyLoaded && decide (s.fld FAB_TIME_CFG1_STEP_LIMIT * 4 ≤ off.natAbs) then
      { s with ftime := (((s.ftime : Int) + off) % (2 ^ 64)).toNat, slew := 0 }.setFld FAB_TIME_STATUS_STEP_SEEN 1
    else { s with slew := off }
  if off.natAbs ≤ 8 then
    let n := min 8 (s.timeGood + 1)
    let s := { s with timeGood := n }
    if n = 8 then s.setFld FAB_TIME_STATUS_LOCKED 1 else s
  else if off.natAbs ≤ 16 then { s with timeGood := 0 }
  else s.timeUnlock

/-- A RESP: offset and delay; an exchange with a negative delay or one above 10 µs is discarded (R279). -/
def State.timeResp (s : State) (q hops t1 t2 t3 : Nat) : State :=
  if !s.portUp q then s else
  let s := s.timeAdvert q hops
  let t4 := s.ftime
  let off := (stampDiff t2 t1 + stampDiff t3 t4) / 2
  let delay := (stampDiff t4 t1 - stampDiff t3 t2) / 2
  if delay < 0 || 40000 < delay then s.gcount 0x171 1
  else if s.fld FAB_TIME_STATUS_SOURCE = q then s.timeOffset off
  else s.setFld FAB_TIME_STATUS_VALID 1

/-- TIME_RESP. -/
def execTimeResp (q hops t1 t2 t3 : Nat) (s : State) : Host.Outcome State Fault Refusal := .next (s.timeResp q hops t1 t2 t3)

/-- TIME_HOLDOVER_EXPIRY: HOLDOVER has passed without an accepted exchange. -/
def execTimeHoldoverExpiry (s : State) : Host.Outcome State Fault Refusal := .next s.timeUnlock

/-- One tick of fabric time, slewed by at most one tick in 5,000 (200 ppm, R281). -/
def State.timeTick (s : State) : State :=
  if s.slew = 0 then { s with ftime := (s.ftime + 1) % 2 ^ 64 }
  else if s.slewPhase + 1 < 5000 then { s with ftime := (s.ftime + 1) % 2 ^ 64, slewPhase := s.slewPhase + 1 }
  else if 0 < s.slew then { s with ftime := (s.ftime + 2) % 2 ^ 64, slewPhase := 0, slew := s.slew - 1 }
  else { s with slewPhase := 0, slew := s.slew + 1 }

/-! ## Codewords (R240, R243, R246) -/

/-- One received control unit. -/
def State.linkUnit (s : State) (q u : Nat) : State :=
  match u % 256 with
  | 0 => s
  | 1 => s.linkAck q (bits u 8 10)
  | 2 => s.linkNak q (bits u 8 10)
  | 3 => s.linkCredit q ((List.range 4).map (fun v => bits u (32 + 32 * v) 32))
  | 4 =>
    if bits u 8 8 = 1 then s.timeReq q (bits u 16 8) (bits u 32 16) (bits u 64 64)
    else if bits u 8 8 = 2 then s.timeResp q (bits u 16 8) (bits u 64 64) (bits u 128 64) (bits u 192 64)
    else s.gcount 0x172 1
  | 5 => s.linkTrain q u
  | 6 => s.linkLane q (bits u 8 16)
  | _ => s.gcount 0x170 1

/-- A NAK for the first missing SEQ, once until that codeword arrives. -/
def State.nak (s : State) (q : Nat) : State :=
  let l := s.link q
  if l.nakSent then s else (s.setLink q { l with nakSent := true }).emit (.ctlUnit q (nakUnit l.rxSeq))

/-- CODEWORD_RECEIVE: a codeword of lane position `lane` of a port with `fec` corrected symbols, or uncorrectable
(`bad`); SEQ and CMASK of its control field, and its ten units of 64 bytes. -/
def execCodewordReceive (q lane : Nat) (bad : Bool) (fec seq cmask : Nat) (units : List Nat) (s : State) :
    Host.Outcome State Fault Refusal :=
  let x := 16 * (q / 4) + lane % 16
  let st := s.fld (FAB_PORT_STATUS_STATE q)
  if st ≠ 2 ∧ st ≠ 3 then .next s
  else if bad then
    let s := s.gcount x 1
    if st ≠ 3 then .next s else
    let l := s.link q
    .next ((s.setLink q { l with
      ue := (lane % 16, s.ftime) :: l.ue.filter (fun (e : Nat × Nat) => decide (s.ftime < e.2 + 4000000000)) }).nak q)
  else
    let s := if fec = 0 then s else s.gcount (0x60 + x) fec
    let ctl := (units.zipIdx.filter (fun u => bitAt cmask u.2)).map (·.1)
    if st = 2 then .next (ctl.foldl (fun t u => t.linkUnit q u) s)
    else
      let l := s.link q
      if seq % 1024 = l.rxSeq then
        let data := (units.zipIdx.filter (fun u => !bitAt cmask u.2)).flatMap (fun u => leBytes 64 u.1)
        let s := s.setLink q { l with rxSeq := (l.rxSeq + 1) % 1024, nakSent := false, stream := l.stream ++ data }
        .next (ctl.foldl (fun t u => t.linkUnit q u) (s.emit (.ctlUnit q (ackUnit l.rxSeq))))
      else if (l.rxSeq + 1024 - seq % 1024) % 1024 ≤ 512 then .next (s.emit (.ctlUnit q (ackUnit (l.rxSeq + 1023))))
      else .next (s.nak q)

/-! ## Slots, shaping and arbitration (R284 to R289) -/

/-- A slot boundary: buckets refill and allowances restart; the deficits of R286 stay. -/
def State.slotStart (s : State) : State :=
  let s := forRange 48 (fun i t =>
    let j := i / 6; let k := i % 6
    let r := t.shareRate j k
    { t with buckets := storeSet 0 t.buckets (8 * j + k) (min (storeGet 0 t.buckets (8 * j + k) + r) (r * t.shareDepth j k)) }) s
  { s with slotUse := s.slotUse.filter (fun c => decide (256 ≤ c.1)) }

/-- SLOT_BOUNDARY: fabric time reaches the next multiple of 1,024. -/
def execSlotBoundary (s : State) : Host.Outcome State Fault Refusal :=
  .next { s with ftime := (s.ftime / 1024 + 1) * 1024 % 2 ^ 64 }.slotStart

/-- Virtual channel of a class (Table 9.9). -/
def vcOf (cls : Nat) : Nat :=
  match cls with
  | 0 => 0 | 1 => 1 | 4 => 1 | 3 => 2 | _ => 3

/-- Job slot a packet is charged to: that of its flow, for the classes that draw tokens. -/
def State.pktJob (s : State) (x : TxPkt) : Option Nat :=
  match x.flow with
  | some n => if vcOf (Hdr.dec x.pkt.hdr).cls = 3 then none else some (s.fld (fcJob n))
  | none => none

/-- Port on which a waiting packet would leave. -/
def State.pktPort (s : State) (x : TxPkt) : Option Nat :=
  let g := (Hdr.dec x.pkt.hdr).dst
  let r : Option (Nat × Nat) := match x.flow with
   | some n => s.flowRoute n g
   | none => s.msgRoute g
  r.map (·.2)

/-- Whether a packet waits and is eligible: its slot has come, its flow is neither held, draining nor full, and no
earlier packet of its flow waits. -/
def State.eligible (s : State) (before : List TxPkt) (x : TxPkt) : Bool :=
  let h := Hdr.dec x.pkt.hdr
  x.port.isNone && decide (x.since ≤ s.ftime) && (s.gid != 0 || h.cls == 5) &&
    (match x.flow with
     | none => true
     | some n => (h.rsnd == 1 || storeGet 0 s.flowHold n == 0 || decide (storeGet 0 s.flowHold n ≤ s.ftime)) &&
         !storeGet false s.flowDrain n && decide (s.fld (fcOut n) < 512) &&
         !before.any (fun y => y.flow == some n && y.port.isNone))

/-- Eligible packets of a port, in the order formed. -/
def State.eligibleOn (s : State) (q : Nat) : List TxPkt :=
  (s.txq.foldl (fun (a : List TxPkt × List TxPkt) x =>
    (x :: a.1, if s.eligible a.1 x && s.pktPort x == some q then x :: a.2 else a.2)) ([], [])).2.reverse

/-- Whether a packet has its credit and its tokens. -/
def State.mayStart (s : State) (q : Nat) (x : TxPkt) : Bool :=
  decide (x.pkt.units ≤ (s.link q).credit (vcOf (Hdr.dec x.pkt.hdr).cls)) &&
    (match s.pktJob x with
     | some j => decide (x.pkt.wire.length ≤ storeGet 0 s.buckets (8 * j + q / 4))
     | none => true)

/-- Packet that a port starts next (R286), and the deficits of VC1 and VC2 after it. -/
def State.choose (s : State) (q : Nat) : Option (TxPkt × Nat × Nat) :=
  let slot := 6400 * s.fld (FAB_PORT_STATUS_WIDTH q)
  let use (r : Nat) : Nat := storeGet 0 s.slotUse (4 * q + r)
  let d1 := storeGet 0 s.slotUse (256 + 2 * q)
  let d2 := storeGet 0 s.slotUse (257 + 2 * q)
  let total := use 0 + use 1 + use 2
  let max3 := s.fld FAB_SLOT_CFG_VC3_MAX * slot / 16
  let max0 := max 1 (s.fld FAB_SLOT_CFG_SCHED_MAX) * slot / 16 + (max3 - use 0)
  let l := (s.eligibleOn q).filter (s.mayStart q)
  let first (v : Nat) : Option TxPkt := l.find? (fun x => vcOf (Hdr.dec x.pkt.hdr).cls == v)
  let len (x : TxPkt) : Nat := x.pkt.wire.length
  if slot ≤ total then none else
  match (first 3).filter (fun x => decide (use 0 + len x ≤ max3)) with
  | some x => some (x, d1, d2)
  | none =>
    match (first 0).filter (fun x => decide (use 1 + len x ≤ max0)) with
    | some x => some (x, d1, d2)
    | none =>
      match first 2, first 1 with
      | none, none => none
      | some x, none => some (x, 0, d2)
      | none, some x => some (x, d1, 0)
      | some b, some x =>
        let wb := 548 * max 1 (s.fld FAB_SLOT_CFG_BCAST_WT)
        let wk := 548 * max 1 (s.fld FAB_SLOT_CFG_BULK_WT)
        if len b ≤ d2 then some (b, d1, d2 - len b)
        else if len x ≤ d1 then some (x, d1 - len x, d2)
        else some (b, d1 + wk, d2 + wb - len b)

/-- Rank of a virtual channel in the use of a slot. -/
def vcRank (v : Nat) : Nat := match v with | 3 => 0 | 0 => 1 | _ => 2

/-- Level of a packet on a plane (R293). -/
def State.pktLevel (s : State) (k path : Nat) : Nat := s.fld (FAB_LVL_MAP_MAP k) / 4 ^ path % 4

/-- A parity mismatch of payload units at the hub port logic: a PARITY record against the producer, and the unit is
marked poisoned (R384). -/
def State.portParity (s : State) (k : Nat) (p : Pkt) (par : List (Nat × Nat × Nat)) : State × Pkt :=
  let hit := par.filter (fun e => decide (e.1 < (p.pay.length + 63) / 64))
  let s := hit.foldl (fun t e => t.detect (0x160 + k) 1 flPoison 0xFFFFFF 0x3F (Hdr.dec p.hdr).layer (Hdr.dec p.hdr).oper 8
    (0xFFFFFFFF + e.2.1 % 2 ^ 16 * 2 ^ 32 + e.2.2 % 2 ^ 16 * 2 ^ 48 + 4 * 2 ^ 64)) s
  let h := Hdr.dec p.hdr
  (s, if hit.isEmpty then p else { p with hdr := Hdr.enc { h with psn := hit.foldl (fun m e => m ||| 2 ^ e.1) h.psn } })

/-- A value of a list replaced at a position of four. -/
def setAt (l : List Nat) (i v : Nat) : List Nat := (List.range 4).map (fun k => if k = i then v else l.getD k 0)

/-- A packet starts on a port. -/
def State.startPkt (s : State) (q : Nat) (x : TxPkt) (par : List (Nat × Nat × Nat)) : State :=
  let k := q / 4
  let (s, p) := s.portParity k x.pkt par
  let h := Hdr.dec p.hdr
  let v := vcOf h.cls
  let n := p.wire.length
  let l := s.link q
  let y : TxPkt := { x with pkt := p, port := some q, codeword := l.txSeq, sends := 1 }
  let s := s.setLink q { l with txSeq := (l.txSeq + 1) % 1024, sent := setAt l.sent v ((l.sent.getD v 0 + p.units) % 2 ^ 32) }
  let s := { s with
    txq := s.txq.map (fun (z : TxPkt) => if z = x then y else z)
    slotUse := storeSet 0 s.slotUse (4 * q + vcRank v) (storeGet 0 s.slotUse (4 * q + vcRank v) + n) }
  let s := match s.pktJob x with
    | some j => { s with buckets := storeSet 0 s.buckets (8 * j + k) (storeGet 0 s.buckets (8 * j + k) - n) }
    | none => s
  let s := match x.flow with
    | some f => s.setFld (fcOut f) (s.fld (fcOut f) + 1)
    | none => s
  let s := ((s.gcount (0x180 + k) n).gcount (0x190 + 4 * k + s.pktLevel k h.path) n).emit (.packet q p)
  match x.cmd with
  | some c => s.settleCmd c
  | none => s

/-- PACKET_TRANSMIT: a port can start a packet. `par` are payload units that fail parity: unit, mask, producer. -/
def execPacketTransmit (q : Nat) (par : List (Nat × Nat × Nat)) (s : State) : Host.Outcome State Fault Refusal :=
  if !s.portUp q || decide (s.replayCap q ≤ (s.txq.filter (fun x => x.port == some q)).length) then .next s
  else
    match s.choose q with
    | none => .next s
    | some (x, d1, d2) =>
      .next ({ s with slotUse := storeSet 0 (storeSet 0 s.slotUse (256 + 2 * q) d1) (257 + 2 * q) d2 }.startPkt q x par)

/-! ## Waits and saturated levels (R266, R267, R289, R293) -/

/-- Ticks of waiting that pass with one tick of fabric time. -/
def State.waitTick (s : State) : State :=
  if s.txq.isEmpty then s else
  let fs := ((s.txq.filter (fun x => x.port.isNone)).filterMap (·.flow)).eraseDups
  let s := s.gcount 0x173 (fs.filter (fun n => decide (512 ≤ s.fld (fcOut n)))).length
  let s := if s.txq.any (fun x => x.port.isNone && (s.pktPort x).isNone) then s.gcount 0x174 1 else s
  let es := (List.range 24).filter s.portUp |>.map (fun q => (q, s.eligibleOn q))
  let s := es.foldl (fun t e => forRange 4 (fun lv u =>
    if e.2.any (fun x => s.pktLevel (e.1 / 4) (Hdr.dec x.pkt.hdr).path == lv &&
        decide ((s.link e.1).credit (vcOf (Hdr.dec x.pkt.hdr).cls) < x.pkt.units)) then u.gcount (0x1B0 + 4 * (e.1 / 4) + lv) 1
    else u) t) s
  forRange 48 (fun i t =>
    if es.any (fun e => e.1 / 4 == i % 6 && e.2.any (fun x => s.pktJob x == some (i / 6) &&
        decide (storeGet 0 s.buckets (8 * (i / 6) + i % 6) < x.pkt.wire.length))) then t.gcount (0x1D0 + i) 1 else t) s

/-- Credit-wait ticks of a plane and level `i` (4 p + L). -/
def State.lvlWait (s : State) (i : Nat) : Nat := storeGet 0 s.cnt (gcntKey (0x1B0 + i))

/-- Whether a level is saturated in the window that ends. -/
def State.saturated (s : State) (i : Nat) : Bool :=
  let up := ((List.range 4).filter (fun p => s.portUp (4 * (i / 4) + p))).length
  let ticks := (s.lvlWait i + 2 ^ 48 - storeGet 0 s.satBase i) % 2 ^ 48
  decide (0 < up) && decide (s.fld FAB_SAT_CFG_SAT_HI * (max 1 (s.fld FAB_SAT_CFG_SAT_WINDOW) * 4000) * up ≤ ticks * 100)

/-- SAT_WINDOW_END. -/
def execSatWindowEnd (s : State) : Host.Outcome State Fault Refusal :=
  let was := s.fld FAB_SAT_STATUS_SAT
  let now := (List.range 24).foldl (fun m i => if s.saturated i then m + 2 ^ i else m) 0
  let s := s.setFld FAB_SAT_STATUS_SAT now
  let s := { s with satBase := (List.range 24).foldl (fun m i => storeSet 0 m i (s.lvlWait i)) s.satBase }
  if maskLess now was = 0 then .next s
  else .next ((s.setFld FAB_SAT_STATUS_SAT_SEEN 1).event FAB_SAT_STATUS_SAT_SEEN 0 8)

/-! ## Gaps (R273, R367) -/

/-- Whether a receive context has an open gap. -/
def State.gapOpen (s : State) (n : Nat) : Bool := s.fld (fcKind n) == 2 && s.fcWindow n != 0

/-- Module that sends on a receive context. -/
def State.senderGid (s : State) (n : Nat) : Option Nat :=
  if s.flag (fcSrck n) then some (s.fld (fcSrc n) % 2 ^ 20) else (s.rekey (s.fld (fcJob n)) (s.fld (fcSrc n))).map rkGid

/-- Whether a hosting entry of this module in REPLAY hosts the shard of a receive context. -/
def State.gapInReplay (s : State) (n : Nat) : Bool :=
  let j := s.fld (fcJob n)
  s.fld (fcDst n) != 0 && (match s.rekey j (s.fld (fcDst n)) with
    | some w => rkGid w == s.gid && s.fld (CAM_HOST_W0_STATE (rkPart w) (rkEntry w)) == 3
    | none => false)

/-- GAP_TIMEOUT: the oldest gap of a receive context has stood for GAP_TIMEOUT. -/
def execGapTimeout (n : Nat) (s : State) : Host.Outcome State Fault Refusal :=
  if !s.gapOpen n then .next s else
  let j := s.fld (fcJob n)
  let s := (s.setFld (fcGap n) (s.fld FAB_FLOW_CFG_GAP_TIMEOUT)).setFld FAB_RX_STATUS_GAP 1
  let s := s.detect 0x0200 0x0A 0 0xFFFFFF 0x3F 0 0 j (0x1F + 4 * 2 ^ 16 + n * 2 ^ 32 +
    s.fld (FAB_JOB_GEN_GEN j) * 2 ^ 48 + s.fld (fcSeq n) * 2 ^ 64 + (s.senderGid n).getD 0 * 2 ^ 96)
  if s.gapInReplay n then .next (s.meetRollback j 4)
  else
    match s.senderGid n with
    | some g => .next (s.sendCtl g j (lreqMsg 0x32 j 0 (s.fld (fcDst n)) 1 n (s.fld (fcSeq n))))
    | none => .next s

end Sys2Proof.Machine
end

