-- ==== Sys2Proof/Machine/Submit.lean ====
section
/-! DEFINITION. Submission of a long operation (R458, R464 to R467), module HBM as the host and the operations address
it (R197), and the flow contexts that the module installs itself. -/
namespace Sys2Proof.Machine

/-! ## Functions (R457, R458) -/

/-- Partitions and job slot of VF `f - 1`; the PF, function 0, reaches all. -/
def State.vfParts (s : State) (f : Nat) : Nat :=
  if f = 0 then 255 else if s.flag (HIF_VF_MAP_VALID (f - 1)) then s.fld (HIF_VF_MAP_PARTS (f - 1)) else 0
def State.vfOwnsJob (s : State) (f j : Nat) : Bool :=
  f == 0 || (s.flag (HIF_VF_MAP_VALID (f - 1)) && s.fld (HIF_VF_MAP_JOB (f - 1)) == j)

/-- An access of a function that is denied: DENIED, counted (R458). -/
def State.denied (s : State) (f : Nat) : State := (s.setFld (HIF_FN_STATUS_DENIED f) 1).gcount 0x261 1
/-- A request completes with Unsupported Request. -/
def State.unsupported (s : State) (f : Nat) : State :=
  ((s.setFld (HIF_FN_STATUS_UR_SENT f) 1).gcount 0x262 1).emit .unsupported
/-- A posted write to a powered-down domain is dropped (R462). -/
def State.dropWrite (s : State) (f : Nat) : State :=
  ((s.setFld (HIF_FN_STATUS_LAST_DROP f) stDomainOff).setFld (HIF_FN_STATUS_DROP f) 1).gcount 0x260 1

/-! ## A3 (R514) -/

/-- Every domain of the hub and of the present partitions that are not RETIRED is in A0, its PLL locked; the others are
off (R512, R515). -/
def State.domainsUp (s : State) : State :=
  let up := (List.range 8).filter (fun p => s.present p && s.fld (RCV_HEALTH_PART p) != 3)
  let s := forRange 40 (fun d t => t.setFld (PWR_DOM_STATE d) (if d < 32 && !up.contains (d / 4) then 3 else 0)) s
  let s := ((s.setFld CLK_STATUS_REF_OK 1).setFld CLK_STATUS_AO_FAST 1).setFld CLK_STATUS_HUB_LOCK 1
  s.setFld CLK_STATUS_PLL_LOCK (up.foldl (fun m p => m + 2 ^ p) 0)

/-- The module leaves A3: the clocks lock, and the domains are in A0. What was in memory went at the entry; the zero fill
leaves stacks and tile stores clear. -/
def State.leaveA3 (s : State) : State :=
  if !s.flag PWR_STATUS_A3 then s else ((s.setFld PWR_STATUS_A3 0).setFld KPR_SB_STATE_A3 0).domainsUp

/-! ## SUBMIT -/

/-- Word `w` of the request in a function's operation area (Table 16.4). -/
def State.reqWord (s : State) (f w : Nat) : Nat := (s.reg (HIF_OP_REQ f w)).toNat

/-- The answer to a read of SUBMIT, which zeroes the operation area. -/
def State.submitAnswer (s : State) (f handle status : Nat) : State :=
  (s.clearRegs (HIF_OP_REQ f 0) 16).emit (.answer (handle + status * 2 ^ 32) false)

/-- Operations that a VF may submit (Table 16.5). -/
def vfMay (op : Nat) : Bool := op == 4 || op == 0x0A || op == 0x0D

/-- Broadcasts open. -/
def State.bcastOpen (s : State) : Nat := s.bcasts.length

/-- Read of SUBMIT of function `f` with a request of operation `op` in its area: the state after it, and the operation
where it is accepted. A request of another operation is another command's. -/
def State.submit (s : State) (f op : Nat) : State × Option OpenOp :=
  let w0 := s.reqWord f 0
  let h := s.reqWord f 1
  if w0 % 256 ≠ op then (s, none)
  else if s.boot ≠ .running then (s, none)
  else if f ≠ 0 && !vfMay op then (s.unsupported f, none)
  else if w0 / 256 % 256 ≠ 1 then (s.submitAnswer f h stVersion, none)
  else if s.flag RCV_FENCE_FENCED && op ≠ 1 then (s.submitAnswer f h stFenced, none)
  else if 64 ≤ s.ops.length || decide (16 ≤ (s.ops.filter (fun o => o.fn == f)).length) ||
      s.ops.any (fun o => o.fn == f && o.handle == h) || (op == 5 && decide (8 ≤ s.bcastOpen)) then
    (s.submitAnswer f h stBusy, none)
  else
    let args := (List.range 14).map (fun i => s.reqWord f (2 + i))
    let c := storeGet 0 s.opCount f
    let handle := if h = 0 then 0x80000000 + f * 2 ^ 24 + c else h
    let s := if h = 0 then { s with opCount := storeSet 0 s.opCount f ((c + 1) % 2 ^ 24) } else s
    let o : OpenOp := ⟨f, handle, op, args, 0⟩
    let s := s.leaveA3
    let s := { s with ops := s.ops ++ [o] }.submitAnswer f handle stOk
    if h = 0 && (op == 5 || op == 7 || op == 9) then (s.endOp o stAborted 0x1E [], none) else (s, some o)

/-- End of an operation with ABORTED for an argument (R467). -/
def State.abortArg (s : State) (o : OpenOp) (arg : Nat) : State := s.endOp o stAborted arg []
/-- End of an operation with a status and no argument named. -/
def State.endWith (s : State) (o : OpenOp) (status : Nat) (results : List Nat) : State := s.endOp o status 0x1F results

/-- A 64-bit argument over two words. -/
def OpenOp.arg64 (o : OpenOp) (i : Nat) : Nat := o.arg i + o.arg (i + 1) * 2 ^ 32

/-- Progress of an open operation. -/
def State.setPhaseOp (s : State) (o : OpenOp) (n : Nat) : State :=
  { s with ops := s.ops.map (fun (x : OpenOp) => if x = o then { x with phase := n } else x) }

/-! ## Module HBM (R197) -/

/-- Bytes of module HBM. -/
def hbmBytes : Nat := 0x6000000000

/-- A byte string into module HBM; byte `i` is poisoned by `g i` (R206). -/
def State.hbmPut (s : State) (a : Nat) (l : List Nat) (g : Nat → Bool) : State :=
  let n := l.length
  let v := l.toArray
  forRange (if n = 0 then 0 else (a + n + 63) / 64 - a / 64) (fun q t =>
    let d := a / 64 + q
    let lo := max a (64 * d)
    let hi := min (a + n) (64 * (d + 1))
    let val := leNat ((List.range (hi - lo)).map (fun i => v.getD (lo - a + i) 0))
    let psn := (List.range (hi - lo)).any (fun i => g (lo - a + i))
    if hi - lo = 64 then t.wrDatum d val psn else t.wrPart d (lo % 64) (hi - lo) val psn) s

/-- Bytes of module HBM. -/
def State.hbmGet (s : State) (a n : Nat) : List Nat := (List.range n).map (fun i => (s.byte (a + i)).toNat)

/-! ## Flow contexts the module installs (R265) -/

/-- Plane that R291 gives a flow among the AUTO send flows of its slot. -/
def State.planeFor (s : State) (j f : Nat) : Nat :=
  let fs := (s.jobFlows j).filter (fun n => s.fld (fcKind n) == 1 && s.flag (fcAuto n) && decide (n ≤ f))
  (fs.foldl (fun (x : Nat × List Int) n =>
    let (acc, k) := planeStep (s.planeWeight j) (s.fld (fcMask n)) x.2
    (k, acc)) (7, List.replicate 6 0)).1

/-- A module flow: a send context of a class, or a receive context from a module. -/
def State.installFlow (s : State) (n kind cls job gid peer : Nat) : State :=
  let w0 := kind + cls * 4 + job * 128 + 7 * 1024 + 2 ^ 13 + 0x3F * 2 ^ 14 + 2 ^ 20
  let s := s.writeFlow n [w0, gid, 0, peer]
  let s := if kind = 1 then s.setFld (fcPlane n) (s.planeFor job n) else s
  s.countFlows job

/-- A flow context becomes free. -/
def State.freeFlow (s : State) (n job : Nat) : State := (s.writeFlow n []).countFlows job

/-- A packet of a module flow. -/
def State.sendFlow (s : State) (n dst lsid offset oper psn : Nat) (pay : List Nat) : State :=
  let cls := s.fld (fcClass n)
  let h := Hdr.enc ⟨4, cls, 0, dst, s.gid, s.fld (fcPeer n), s.fld (FAB_JOB_GEN_GEN (s.fld (fcJob n))), s.fld (fcSeq n), 0, 0, 0,
    oper, psn, pay.length, s.pathOf (s.fld (fcPlane n)) dst, lsid, offset, 15⟩
  (s.setFld (fcSeq n) (s.fld (fcSeq n) + 1)).sendPkt ⟨h, pay⟩ (some n) s.ftime none

end Sys2Proof.Machine
end

