-- ==== Sys2Proof/Machine/Broadcast.lean ====
section
/-! DEFINITION. Tree broadcasts (R304 to R312) and re-attachment in the job tree (R313). -/
namespace Sys2Proof.Machine

/-! ## Trees (R304) -/

/-- Entries of the children of relative `e`; a node's own children stand at 3 to F + 2. -/
def relKids (f e : Nat) : List Nat :=
  if e < 3 then []
  else if e < 3 + f then (List.range f).map (fun k => 3 + f + f * (e - 3) + k)
  else if e < 3 + f + f * f then (List.range f).map (fun k => 3 + f + f * f + f * (e - 3 - f) + k)
  else []

def Bcast.relGid (b : Bcast) (e : Nat) : Option Nat := (b.rel.find? (fun r => r.1 == e)).map (·.2)
/-- Current parent; none at the root. -/
def Bcast.parent (b : Bcast) : Option Nat := if b.root then none else b.relGid b.up
/-- Chunks of the content. -/
def Bcast.total (b : Bcast) : Nat := (b.len + 1048575) / 1048576
/-- Bytes and packets of a chunk. -/
def Bcast.chunkLen (b : Bcast) (c : Nat) : Nat := min 1048576 (b.len - 1048576 * c)
def Bcast.chunkPkts (b : Bcast) (c : Nat) : Nat := (b.chunkLen c + 511) / 512
/-- Every chunk below this index is held. -/
def Bcast.heldBelow (b : Bcast) : Nat := ((List.range b.total).find? (fun c => !bitAt b.held c)).getD b.total
def Bcast.allHeld (b : Bcast) : Bool := b.heldBelow == b.total
def Bcast.heldCount (b : Bcast) : Nat := ((List.range b.total).filter (bitAt b.held)).length

/-! ## The register view (Table 10.8) -/

/-- Sums over the attached subtree: complete, lost, unaccounted. -/
def Bcast.sumsOf (b : Bcast) : Nat × Nat × Nat :=
  b.kids.foldl (fun s k => match k.done with
    | some d => (s.1 + d.1, s.2.1 + d.2.1, s.2.2 + d.2.2)
    | none => s) (if b.allHeld then 1 else 0, b.lost, b.unacc)

/-- BCT_OP_n of a broadcast. -/
def State.bcastShow (s : State) (b : Bcast) (state : Nat) : State :=
  let n := b.place
  let (c, l, u) := b.sumsOf
  let s := (((s.setFld (BCT_OP_HANDLE_HANDLE n) b.handle).setFld (BCT_OP_STATE_STATE n) state).setFld (BCT_OP_STATE_JOB n) b.job).setFld
    (BCT_OP_STATE_UP n) b.up
  let s := ((s.setFld (BCT_OP_STATE_CHILDREN n) b.kids.length).setFld (BCT_OP_HELD_HELD n) b.heldCount).setFld
    (BCT_OP_TOTAL_TOTAL n) b.total
  (((s.setFld (BCT_OP_PARENT_GID n) (b.parent.getD 0)).setFld (BCT_OP_COMPLETE_COMPLETE n) c).setFld (BCT_OP_LOST_LOST n) l).setFld
    (BCT_OP_UNACC_UNACCOUNTED n) u

/-- State of an open broadcast: armed, receiving, or all held. -/
def Bcast.code (b : Bcast) : Nat := if b.allHeld then 3 else if b.held = 0 && b.got.isEmpty then 1 else 2

/-- A broadcast after a change. -/
def State.setBcast (s : State) (b : Bcast) : State :=
  { s with bcasts := s.bcasts.map (fun (x : Bcast) => if x.place = b.place then b else x) }.bcastShow b b.code

/-- Open broadcast of a job slot and handle. -/
def State.bcastOf (s : State) (j handle : Nat) : Option Bcast := s.bcasts.find? (fun b => b.job == j && b.handle == handle)

/-! ## Flow contexts of the pool (R308) -/

/-- Free contexts of a job slot's broadcast pool. -/
def State.poolFree (s : State) (j : Nat) : List Nat :=
  ((List.range (s.fld (BCT_FLOWS_BFLOW_COUNT j))).map (fun i => s.fld (BCT_FLOWS_BFLOW_BASE j) + i)).filter
    (fun n => s.fld (fcKind n) == 0)

/-- A broadcast closes: its contexts are free again. -/
def State.bcastClose (s : State) (b : Bcast) (state : Nat) : State :=
  let s := (b.flow :: b.kids.map (·.flow)).foldl (fun t n => t.freeFlow n b.job) s
  let s := { s with bcasts := s.bcasts.filter (fun x => x.place != b.place) }
  (s.bcastShow b state).setFld BCT_STATUS_OPEN s.bcasts.length

/-- Its operation ends. -/
def State.bcastEnd (s : State) (b : Bcast) (status : Nat) : State :=
  let (c, l, u) := b.sumsOf
  s.endOps (fun o => o.op == 5 && o.fn == b.fn && o.handle == b.handle) status [b.heldCount, c, l, u]

/-! ## Messages (Table 10.5) -/

def bMsg (code j handle : Nat) (rest : List Nat) : List Nat := [code, j, 0, 0] ++ leBytes 4 handle ++ rest

/-- A packet of a chunk to one child, from the node's own copy. -/
def State.bcastPacket (s : State) (b : Bcast) (k : BKid) (c i : Nat) : State :=
  let a := b.dest + 1048576 * c + 512 * i
  let n := min 512 (b.chunkLen c - 512 * i)
  let psn := maskOf ((List.range ((n + 63) / 64)).map (fun u => s.psn ((a + 64 * u) / 64)))
  s.sendFlow k.flow k.gid (b.handle % 2 ^ 24) (2048 * c + i) 0 psn (s.hbmGet a n)

/-- BCHUNK of a chunk to one child. -/
def State.bcastSum (s : State) (b : Bcast) (k : BKid) (c len crc : Nat) : State :=
  s.sendCtl k.gid b.job (bMsg 0x10 b.job b.handle (leBytes 4 c ++ leBytes 4 len ++ leBytes 4 crc))

/-- A held chunk as a whole to one child. -/
def State.bcastChunk (s : State) (b : Bcast) (k : BKid) (c : Nat) : State :=
  let n := b.chunkLen c
  let s := forRange (b.chunkPkts c) (fun i t => t.bcastPacket b k c i) s
  s.bcastSum b k c n (crc32c (s.hbmGet (b.dest + 1048576 * c) n))

/-- What a child that has just armed is due: the held chunks, and what has come of the others. -/
def State.bcastFeed (s : State) (b : Bcast) (k : BKid) : State :=
  forRange b.total (fun c t =>
    if bitAt b.held c then t.bcastChunk b k c
    else
      let t := forRange (b.chunkPkts c) (fun i u => if bitAt (storeGet 0 b.got c) i then u.bcastPacket b k c i else u) t
      match storeGet none b.sums c with
      | some x => t.bcastSum b k c x.1 x.2
      | none => t) s

/-- Bitmap of 256 chunks from a base. -/
def bitmapFrom (l : List Nat) (base : Nat) : List Nat :=
  leBytes 32 (l.foldl (fun m c => if base ≤ c ∧ c < base + 256 then m ||| 2 ^ (c - base) else m) 0)

/-- A BREQ for chunks to the parent, 256 at a time. -/
def State.bcastAsk (s : State) (b : Bcast) (l : List Nat) : State :=
  match b.parent with
  | none => s
  | some g => ((l.map (fun c => c / 256)).eraseDups).foldl (fun t q =>
      t.sendCtl g b.job (bMsg 0x14 b.job b.handle (leBytes 4 (256 * q) ++ bitmapFrom l (256 * q)))) s

/-! ## Completion (R308, R311) -/

/-- Whether a node may report: every chunk held, every attached child done, every expectation settled. -/
def Bcast.finished (b : Bcast) : Bool := b.allHeld && b.kids.all (·.done.isSome) && b.expects.isEmpty

/-- BDONE to the parent, or the end at the root. -/
def State.bcastCheck (s : State) (b : Bcast) : State :=
  if !b.finished then s else
  let (c, l, u) := b.sumsOf
  match b.parent with
  | some g =>
    let s := s.sendCtl g b.job (bMsg 0x15 b.job b.handle (leBytes 4 c ++ leBytes 4 l ++ leBytes 4 u))
    (s.bcastEnd b stOk).bcastClose b 4
  | none => (s.bcastEnd b (if u = 0 then stOk else stOrphan)).bcastClose b 4

/-- A broadcast changes, and may thereby be finished. -/
def State.bcastStep (s : State) (b : Bcast) : State := (s.setBcast b).bcastCheck b

/-! ## Arming -/

/-- Tree of a broadcast: fan-out, own index and relatives, from the job tree or from module HBM in the layout of the
registers. -/
def State.treeOf (s : State) (j addr : Nat) : Nat × Nat × List (Nat × Nat) :=
  if addr = 0 then
    (s.jobFan j, s.fld (actFld (BCT_JHDR_W0_INDEX j)),
      (List.range 587).filterMap (fun e => (s.jobRel j e).map (fun g => (e, g))))
  else
    let w (i : Nat) : Nat := s.rdBytes (addr + 4 * i) 4
    (max 1 (bits (w 1) 17 3) + 1, bits (w 0) 0 17,
      (List.range 587).filterMap (fun e => if bitAt (w (2 + e)) 20 then some (e, bits (w (2 + e)) 0 20) else none))

/-- A broadcast opens on a module whose request is right: its contexts, its entry, and the root's own content (R306). -/
def State.bcastStart (s : State) (o : OpenOp) (j fan own : Nat) (rel : List (Nat × Nat)) (gids pool : List Nat) : State :=
  let len := o.arg64 4
  let dest := o.arg64 6
  let src := o.arg64 8
  let place := ((List.range 8).find? (fun n => !s.bcasts.any (fun b => b.place == n))).getD 0
  let root := own == 0
  let up := ((rel.find? (fun r => r.1 == 0)).map (·.2)).getD 0
  let s := s.installFlow (pool.getD 0 0) 2 3 j up 0
  let kids := gids.zipIdx.map (fun x => (⟨x.1, pool.getD (1 + x.2) 0, false, s.ftime, none, 0⟩ : BKid))
  let s := kids.foldl (fun t k => t.installFlow k.flow 1 3 j k.gid (Config.bcastPeer j o.handle k.gid)) s
  let b : Bcast := {
    place := place, fn := o.fn, handle := o.handle, job := j, root := root, fan := fan, index := own, rel := rel, len := len,
    dest := dest, flow := pool.getD 0 0, up := 0, upTry := 0, beat := s.ftime, below := 0, kids := kids, expects := [],
    held := if root then 2 ^ ((len + 1048575) / 1048576) - 1 else 0, got := [], sums := [], asked := [], lost := 0, unacc := 0 }
  let s := if root then
      let bs := s.hbmGet src len
      let bad := (List.range len).map (fun i => s.psn ((src + i) / 64))
      let v := bad.toArray
      s.hbmPut dest bs (fun i => v.getD i false)
    else s
  let s := { s with bcasts := s.bcasts ++ [b] }
  ((s.setFld BCT_STATUS_OPEN s.bcasts.length).gcount 0x201 1).bcastStep b

/-- OP_BROADCAST: a read of SUBMIT with a BROADCAST in the area of function `f`. -/
def State.bcastArm (s : State) (o : OpenOp) : State :=
  let j := o.arg 0
  let tree := o.arg64 1
  let len := o.arg64 4
  let dest := o.arg64 6
  let src := o.arg64 8
  if 8 ≤ j || !s.slotLoaded j then s.abortArg o 0
  else if hbmBytes < tree + 8 + 4 * 587 then s.abortArg o 1
  else if 2 ^ 41 ≤ len then s.abortArg o 4
  else if hbmBytes < dest + len then s.abortArg o 6
  else if hbmBytes < src + len then s.abortArg o 8
  else
    let (fan, own, rel) := s.treeOf j tree
    if o.arg 3 ≠ own then s.abortArg o 3 else
    let gids := (List.range fan).filterMap (fun i => ((rel.find? (fun r => r.1 == 3 + i))).map (·.2))
    let pool := s.poolFree j
    if pool.length < 1 + gids.length then s.endWith o stQuota [] else
    s.bcastStart o j fan own rel gids pool

/-- OP_BROADCAST. -/
def execOpBroadcast (f : Nat) (s : State) : Host.Outcome State Fault Refusal :=
  match s.submit f 5 with
  | (s, some o) => .next (s.bcastArm o)
  | (s, none) => .next s

/-! ## Chunks (R306) -/

/-- A chunk is held: it goes on to the children that wait for it alone. -/
def State.bcastHold (s : State) (b : Bcast) (c : Nat) : State :=
  let b := { b with
    held := b.held ||| 2 ^ c
    got := storeSet 0 b.got c 0
    sums := storeSet none b.sums c none
    asked := b.asked.filter (· != c) }
  let s := (b.kids.filter (fun k => bitAt k.owed c)).foldl (fun t k => t.bcastChunk b k c) s
  s.bcastStep { b with kids := b.kids.map (fun (k : BKid) => if bitAt k.owed c then { k with owed := k.owed - 2 ^ c } else k) }

/-- A chunk whose packets and BCHUNK have all arrived is checked. -/
def State.bcastVerify (s : State) (b : Bcast) (c : Nat) : State :=
  match storeGet none b.sums c with
  | none => s.setBcast b
  | some x =>
    if storeGet 0 b.got c ≠ 2 ^ b.chunkPkts c - 1 then s.setBcast b
    else if x.1 = b.chunkLen c && crc32c (s.hbmGet (b.dest + 1048576 * c) x.1) = x.2 then s.bcastHold b c
    else
      let b := { b with got := storeSet 0 b.got c 0, sums := storeSet none b.sums c none }
      (((s.setFld BCT_STATUS_CRC_FAIL 1).gcount 0x205 1).setBcast b).bcastAsk b [c]

/-- A broadcast packet accepted on a receive context: stored, forwarded, and the chunk checked when it is whole. -/
def State.bcastData (s : State) (flow offset psn : Nat) (pay : List Nat) : State :=
  match s.bcasts.find? (fun b => b.flow == flow) with
  | none => s
  | some b =>
    let c := offset / 2048
    let i := offset % 2048
    if b.total ≤ c || b.chunkPkts c ≤ i || bitAt b.held c then s else
    let s := s.hbmPut (b.dest + 1048576 * c + 512 * i) pay (fun x => bitAt psn (x / 64))
    let b := { b with got := storeSet 0 b.got c (storeGet 0 b.got c ||| 2 ^ i), asked := b.asked.filter (· != c) }
    let s := (b.kids.filter (fun k => k.armed && !bitAt k.owed c)).foldl (fun t k => t.bcastPacket b k c i) s
    s.bcastVerify b c

/-- BCHUNK. -/
def State.onBchunk (s : State) (src : Nat) (m : List Nat) : State :=
  match s.bcastOf (mByte m 1) (mField m 4 4) with
  | none => s
  | some b =>
    let c := mField m 8 4
    if b.parent ≠ some src || b.total ≤ c || bitAt b.held c then s else
    let b := { b with sums := storeSet none b.sums c (some (mField m 12 4, mField m 16 4)) }
    let s := (b.kids.filter (fun k => k.armed && !bitAt k.owed c)).foldl (fun t k =>
      t.bcastSum b k c (mField m 12 4) (mField m 16 4)) s
    s.bcastVerify b c

/-! ## Heartbeats (R308) -/

/-- BHB from the parent or a child. -/
def State.onBhb (s : State) (src : Nat) (m : List Nat) : State :=
  match s.bcastOf (mByte m 1) (mField m 4 4) with
  | none => s
  | some b =>
    if b.parent = some src then s.setBcast { b with beat := s.ftime, below := mField m 8 4 }
    else match b.kids.find? (fun k => k.gid == src) with
      | none => s
      | some k =>
        let k' : BKid := { k with armed := true, beat := s.ftime }
        let s := if k.armed then s else s.bcastFeed b k'
        s.setBcast { b with kids := b.kids.map (fun x => if x.gid = src then k' else x) }

/-- BHB_SEND: every armed node, to its parent and each of its children. -/
def execBhbSend (s : State) : Host.Outcome State Fault Refusal :=
  .next (s.bcasts.foldl (fun t b =>
    (b.parent.toList ++ b.kids.map (·.gid)).foldl (fun u g =>
      u.sendCtl g b.job (bMsg 0x11 b.job b.handle (leBytes 4 b.heldBelow ++ [0, 0, 0, 0]))) t) s)

/-- HB_PERIOD in ticks. -/
def State.hbTicks (s : State) : Nat := max 1 (s.fld BCT_CFG_HB_PERIOD) * 4000000

/-! ## Re-attachment (R309, R310, R313) -/

/-- ORPHAN and its event. -/
def State.orphanEvent (s : State) (j : Nat) : State := (s.setFld BCT_STATUS_ORPHAN 1).event BCT_STATUS_ORPHAN 0x0300 j

/-- A node that has lost every known ancestor. -/
def State.bcastOrphan (s : State) (b : Bcast) : State :=
  (((s.gcount 0x204 1).orphanEvent b.job).bcastEnd b stOrphan).bcastClose b 5

/-- ATTACH to the next ancestor after relative `e`, else an orphan. -/
def State.bcastAttach (s : State) (b : Bcast) (e : Nat) : State :=
  match ([1, 2].filter (fun a => decide (e < a))).findSome? (fun a => (b.relGid a).map (fun g => (a, g))) with
  | some (a, g) =>
    (s.setBcast { b with upTry := a }).sendCtl g b.job (bMsg 0x12 b.job b.handle (leBytes 4 b.index))
  | none => s.bcastOrphan b

/-- The parent is lost. A node without an a2 is an orphan. -/
def State.bcastLoseParent (s : State) (b : Bcast) : State :=
  if b.root || b.upTry ≠ 0 then s else s.bcastAttach b b.up

/-- Own index in the job tree, and ATTACH in it to an ancestor. -/
def State.jobAttach (s : State) (j a : Nat) : State :=
  match s.jobRel j a with
  | some g => (s.updRun j (fun r => { r with upTry := a })).sendCtl g j (bMsg 0x12 j 0 (leBytes 4 (s.fld (actFld (BCT_JHDR_W0_INDEX j)))))
  | none => s

/-- An orphan of the job tree reports to the Keeper (R313). -/
def State.jobOrphan (s : State) (j : Nat) : State :=
  ((s.updRun j (fun r => { r with upTry := 3 })).orphanEvent j).emit (.report 3 j [])

/-- The parent in the job tree is lost. -/
def State.jobLoseParent (s : State) (j : Nat) : State :=
  match s.run j with
  | none => s
  | some r =>
    if s.isRoot j || r.upTry ≠ 0 then s
    else if (s.jobRel j 1).isSome && r.up.isNone then s.jobAttach j 1
    else if (s.jobRel j 2).isSome && r.up ≠ s.jobRel j 2 then s.jobAttach j 2
    else s.jobOrphan j

/-- BCAST_PARENT_LOST: three HB_PERIODs without a BHB from the parent. Handle 0 names the job tree. -/
def execBcastParentLost (j handle : Nat) (s : State) : Host.Outcome State Fault Refusal :=
  if handle = 0 then .next (s.jobLoseParent j) else
  match s.bcastOf j handle with
  | none => .next s
  | some b => .next (if b.beat + 3 * s.hbTicks ≤ s.ftime then s.bcastLoseParent b else s)

/-- BCAST_CHUNK_TIMEOUT: CHUNK_TIMEOUT without a packet of a chunk below the parent's HELD_BELOW. -/
def execBcastChunkTimeout (j handle c : Nat) (s : State) : Host.Outcome State Fault Refusal :=
  match s.bcastOf j handle with
  | none => .next s
  | some b =>
    if b.below ≤ c || b.total ≤ c || bitAt b.held c || b.upTry ≠ 0 then .next s
    else if b.asked.contains c then .next (s.bcastLoseParent { b with asked := b.asked.filter (· != c) })
    else .next ((s.setBcast { b with asked := c :: b.asked }).bcastAsk b [c])

/-- ATTACH from a descendant. -/
def State.onAttach (s : State) (src : Nat) (m : List Nat) : State :=
  let j := mByte m 1
  let handle := mField m 4 4
  let reply (t : State) (ok : Bool) : State := t.sendCtl src j (bMsg 0x13 j handle [if ok then 1 else 0])
  if handle = 0 then
    if (List.range 584).any (fun i => s.jobRel j (3 + i) == some src) then
      let s := s.updRun j (fun (r : JobRun) => { r with kidsAdopted := (src :: r.kidsAdopted).eraseDups })
      reply ((s.setFld BCT_STATUS_ADOPTED 1).gcount 0x203 1) true
    else reply s false
  else
    match s.bcastOf j handle with
    | none => reply s false
    | some b =>
      let mine := b.rel.any (fun r => decide (3 ≤ r.1) && r.2 == src)
      let expects := b.expects.filter (fun x => x.2 != src)
      if b.kids.any (fun k => k.gid == src) then
        reply (s.setBcast { b with kids := b.kids.map (fun (k : BKid) => if k.gid = src then { k with armed := true, beat := s.ftime } else k) }) true
      else if !mine then reply s false
      else
        match s.poolFree j with
        | [] => reply (s.setFld BCT_STATUS_REFUSED 1) false
        | n :: _ =>
          let s := s.installFlow n 1 3 j src (Config.bcastPeer j handle src)
          let k : BKid := ⟨src, n, true, s.ftime, none, 2 ^ b.total - 1 - b.held⟩
          let s := (s.setFld BCT_STATUS_ADOPTED 1).gcount 0x203 1
          reply (s.setBcast { b with kids := b.kids ++ [k], expects := expects }) true

/-- ATTACH_ACK from the ancestor that was asked. -/
def State.onAttachAck (s : State) (src : Nat) (m : List Nat) : State :=
  let j := mByte m 1
  let handle := mField m 4 4
  let ok := mByte m 8 == 1
  if handle = 0 then
    match s.run j with
    | none => s
    | some r =>
      let asked := (r.upTry == 1 && s.jobRel j 1 == some src) || (r.upTry == 2 && s.jobRel j 2 == some src) ||
        (r.upTry == 3 && (s.jobRel j 1 == some src || s.jobRel j 2 == some src))
      if !asked then s
      else if ok then
        ((s.updRun j (fun (r : JobRun) => { r with up := some src, upTry := 0, sent := false })).setFld BCT_STATUS_ADOPTED 1).trySendReady j
      else if r.upTry = 1 && (s.jobRel j 2).isSome then s.jobAttach j 2
      else if r.upTry = 3 then s
      else s.jobOrphan j
  else
    match s.bcastOf j handle with
    | none => s
    | some b =>
      if b.upTry = 0 || b.relGid b.upTry ≠ some src then s
      else if ok then
        let b := { b with up := b.upTry, upTry := 0, beat := s.ftime, below := 0, asked := [], got := [], sums := [] }
        let s := ((s.setFld (fcSrc b.flow) src).setFld (fcSeq b.flow) 0).setFcWindow b.flow 0
        let s := (s.setFld BCT_STATUS_ADOPTED 1).setBcast b
        s.bcastAsk b ((List.range b.total).filter (fun c => !bitAt b.held c))
      else s.bcastAttach b b.upTry

/-- ATTACH_TIMEOUT: no acceptance from the ancestor that was asked. -/
def execAttachTimeout (j handle : Nat) (s : State) : Host.Outcome State Fault Refusal :=
  if handle = 0 then
    match s.run j with
    | none => .next s
    | some r =>
      if r.upTry = 1 && (s.jobRel j 2).isSome then .next (s.jobAttach j 2)
      else if r.upTry = 1 || r.upTry = 2 then
        .next (s.jobOrphan j)
      else .next s
  else
    match s.bcastOf j handle with
    | none => .next s
    | some b => .next (if b.upTry = 0 then s else s.bcastAttach b b.upTry)

/-- JOB_TREE_ATTACH_RETRY: an orphan of the job tree asks a2 and a3 again. -/
def execJobTreeAttachRetry (j : Nat) (s : State) : Host.Outcome State Fault Refusal :=
  match s.run j with
  | none => .next s
  | some r =>
    if r.upTry ≠ 3 then .next s
    else .next ([1, 2].foldl (fun t a => match t.jobRel j a with
      | some g => t.sendCtl g j (bMsg 0x12 j 0 (leBytes 4 (t.fld (actFld (BCT_JHDR_W0_INDEX j)))))
      | none => t) s)

/-- BREQ from a child: the named chunks to it alone, in ascending index. -/
def State.onBreq (s : State) (src : Nat) (m : List Nat) : State :=
  match s.bcastOf (mByte m 1) (mField m 4 4) with
  | none => s
  | some b =>
    match b.kids.find? (fun k => k.gid == src) with
    | none => s
    | some k =>
      let base := mField m 8 4
      let map := mField m 12 32
      let want := ((List.range 256).filter (bitAt map)).map (fun i => base + i) |>.filter (fun c => decide (c < b.total))
      let now := want.filter (bitAt b.held)
      let s := now.foldl (fun t c => (t.bcastChunk b k c).gcount 0x202 1) s
      let later := (want.filter (fun c => !bitAt b.held c)).foldl (fun n c => n ||| 2 ^ c) 0
      let gone := now.foldl (fun n c => n ||| 2 ^ c) 0
      s.setBcast { b with kids := b.kids.map (fun (x : BKid) =>
        if x.gid = src then { x with owed := maskLess (x.owed ||| later) gone } else x) }

/-- BDONE from a child. -/
def State.onBdone (s : State) (src : Nat) (m : List Nat) : State :=
  match s.bcastOf (mByte m 1) (mField m 4 4) with
  | none => s
  | some b => s.bcastStep { b with kids := b.kids.map (fun (k : BKid) =>
      if k.gid = src then { k with done := some (mField m 8 4, mField m 12 4, mField m 16 4) } else k) }

/-! ## Lost children (R309, R311) -/

/-- Nodes expected in place of relative `e`: its children that exist. -/
def Bcast.expectOf (b : Bcast) (e : Nat) : List (Nat × Nat) :=
  (relKids b.fan e).filterMap (fun x => (b.relGid x).map (fun g => (x, g)))

/-- BCAST_CHILD_LOST: three HB_PERIODs without a BHB from a child. In the job tree the barrier then counts the lost
child's children, which attach to this node (R313). -/
def execBcastChildLost (j handle gid : Nat) (s : State) : Host.Outcome State Fault Refusal :=
  if handle = 0 then
    let f := s.jobFan j
    let es := ((List.range 584).map (· + 3)).filter (fun e => s.jobRel j e == some gid)
    let kids := (es.flatMap (relKids f)).filterMap (s.jobRel j)
    if (s.jobKids j).contains gid then
      .next (s.updRun j (fun (r : JobRun) => { r with
        kidsLost := (gid :: r.kidsLost).eraseDups
        kidsAdopted := ((r.kidsAdopted.filter (· != gid)) ++ kids).eraseDups }))
    else .next s
  else
    match s.bcastOf j handle with
    | none => .next s
    | some b =>
      match b.kids.find? (fun k => k.gid == gid) with
      | none => .next s
      | some k =>
        if k.done.isSome || decide (s.ftime < k.beat + 3 * s.hbTicks) then .next s else
        let es := (b.rel.filter (fun r => decide (3 ≤ r.1) && r.2 == gid)).map (·.1)
        let new := (es.flatMap b.expectOf).filter (fun x => !b.kids.any (fun y => y.gid == x.2))
        .next ((s.freeFlow k.flow j).bcastStep { b with
          kids := b.kids.filter (fun x => x.gid != gid)
          lost := b.lost + 1
          expects := b.expects ++ new })

/-- UNACCOUNTED_TIMEOUT: an expected node has not attached in time. It is unaccounted, and its children are expected
in turn. -/
def execUnaccountedTimeout (j handle gid : Nat) (s : State) : Host.Outcome State Fault Refusal :=
  match s.bcastOf j handle with
  | none => .next s
  | some b =>
    match b.expects.find? (fun x => x.2 == gid) with
    | none => .next s
    | some x =>
      let new := (b.expectOf x.1).filter (fun y => !b.kids.any (fun k => k.gid == y.2))
      .next (s.bcastStep { b with
        expects := b.expects.filter (fun y => y.2 != gid) ++ new
        unacc := b.unacc + 1 })

end Sys2Proof.Machine
end

