-- ==== Sys2Proof/Machine/Move.lean ====
section
/-! DEFINITION. MOVE (R153) and the two halves of a mixture-of-experts layer (R156 to R158). -/
namespace Sys2Proof.Machine

/-- Pushes a command whose outputs have been written: it waits for COMMAND_COMPLETE only. -/
def State.pushDone (s : State) (c : Cmd) (engines : List Nat) (psn : Bool) : State :=
  s.pushIssued (issuedOf c (s.stepOf c) engines 0 psn true)

/-! ## MOVE -/

def mvCount (d : Nat) : Nat := dOp d 32 32
def mvSfmt (d : Nat) : Nat := dOp d 64 4
def mvSblk (d : Nat) : Bool := dOp d 68 1 == 1
def mvW (d : Nat) : Int := signedOf (dOp d 69 10) 10
def mvSrc (d : Nat) : Nat := dOp d 0 32

/-- Whether a MOVE is bit-exact (R153). -/
def mvExact (d : Nat) : Bool := mvSfmt d == ocFmt (dOcvt d) && !mvSblk d && !ocBlk (dOcvt d)

/-- Source ranges of a MOVE; `use` says that they feed a conversion. -/
def mvReads (d : Nat) : List Rng :=
  [⟨mvSrc d, unitsOf (mvSfmt d) (mvCount d), !mvExact d⟩] ++
  (if mvSblk d then [⟨dOp d 96 32, scaleUnits (mvCount d), true⟩] else [])

/-- Output ranges of a MOVE. -/
def mvWrites (d : Nat) : List Rng :=
  [⟨dOut d, unitsOf (ocFmt (dOcvt d)) (mvCount d), false⟩] ++
  (if ocBlk (dOcvt d) then [⟨dOp d 128 32, scaleUnits (mvCount d), false⟩] else [])

/-- Bytes of `n` elements of a format, padding included (R61). -/
def elemBytes (fmt n : Nat) : Nat :=
  if elemBits fmt = 6 then (n + 3) / 4 * 3 else (n * elemBits fmt + 7) / 8

/-- Byte-wise padding bits of a packed list are zero (R61): the last group is padded with zero elements. -/
def padElems (fmt : Nat) (l : List Nat) : List Nat :=
  if elemBits fmt = 6 then l ++ List.replicate ((4 - l.length % 4) % 4) 0 else l

/-- A bit-exact copy (R153, Table 13.3). Elements that carry F copy as they are, and their datums are poisoned (R88). -/
def State.mvCopy (s : State) (c : Cmd) : State :=
  let n := mvCount c.d
  let fmt := mvSfmt c.d
  let codes := padElems fmt ((List.range n).map (s.rdElem c.p c.ctx (mvSrc c.d) fmt))
  let src := s
  s.cmdWriteL c.p c.ctx (dOut c.d) (packAll fmt codes) (fun q =>
    src.cmdPsn c.p c.ctx (mvSrc c.d + q) ||
    (fmt == 0xB && (List.range (min 4 (n - 4 * q))).any (fun i => (src.rdEs96 c.p c.ctx (mvSrc c.d) (4 * q + i)).f)))

/-- A MOVE with a conversion. Answers the state and whether it raised a range fault. -/
def State.mvConvert (s : State) (c : Cmd) : State :=
  let n := mvCount c.d
  let fmt := mvSfmt c.d
  let o := dOcvt c.d
  let of' := ocFmt o
  let x : Strm := ⟨mvSrc c.d, fmt, if mvSblk c.d then some (dOp c.d 96 32) else none⟩
  let w := mvW c.d
  let entry := s.ttabAt c.p c.ctx (dTslot c.d)
  let step := s.stepOf c
  -- exact sources; a scaled source goes through FP32 and may overflow there (Table 3.6)
  let vals : List FVal := (List.range n).map (fun i =>
    if fmt = 0xB then es96Val w (s.rdEs96 c.p c.ctx (mvSrc c.d) i) else s.rdVal c.p c.ctx x i)
  let lovf := if fmt = 0xB then 0 else (vals.filter (fun v => v.isFin && isInf32 (rne32 v))).length
  let vals := if fmt = 0xB then vals else vals.map (fun v => f32 (rne32 v))
  let sp := ((List.range n).map (fun i =>
    if fmt = 0xB then s.cmdPsn c.p c.ctx (mvSrc c.d + i / 4) || (s.rdEs96 c.p c.ctx (mvSrc c.d) i).f
    else s.rdValPsn c.p c.ctx x i)).toArray
  let s := s.cvtFlags c.p ⟨lovf, 0, 0⟩
  if of' = 0xB then
    let es := vals.map (es96In w)
    let bad := es.any (·.f)
    let high := (vals.zip es).filterMap (fun v => if v.2.f then some v.1 else none)
    let s := if bad then s.rangeFault c (if dTslot c.d = 0xFFF then 0 else bits entry 0 32) (dOp c.d 69 10) high false else s
    let fa := (es.map (·.f)).toArray
    s.cmdWriteL c.p c.ctx (dOut c.d) (es.flatMap (fun v => leBytes 16 (es96Code v)))
      (fun q => (List.range 4).any (fun i => sp.getD (4 * q + i) false || fa.getD (4 * q + i) false))
  else
    let rv := vals.zipIdx.map (fun v =>
      (if ocRnd o = 2 then s.ksBits c.p step entry v.2 else 0, v.1))
    let (codes, scales, f) := encStream o (n / 32 + 2) rv
    let pe : Nat → Bool := fun i => if ocBlk o then (List.range 32).any (fun k => sp.getD (i / 32 * 32 + k) false)
                                    else sp.getD i false
    let s := (s.cvtFlags c.p f).cmdWriteL c.p c.ctx (dOut c.d) (packAll of' (padElems of' codes))
      (outPsn (elemBits of') n pe)
    if ocBlk o then
      s.cmdWriteL c.p c.ctx (dOp c.d 128 32) scales (fun q => (List.range 64).any (fun b => pe (32 * (64 * q + b))))
    else s

/-- A MOVE that has issued. -/
def State.mvRun (s : State) (c : Cmd) (env : CmdEnv) : State :=
  let u := unitId c.p 0x70
  let rs := mvReads c.d
  let s := s.applyEnv c u rs env
  let s := s.noteRanges c (if mvExact c.d then u else unitId c.p 0x71) (rs ++ mvWrites c.d)
  let psn := rs.any (s.rngBad c)
  ((if mvExact c.d then s.mvCopy c else s.mvConvert c).pushDone c [] psn).endEnv

/-- CMD_MOVE. -/
def execCmdMove (p ctx : Nat) (env : CmdEnv) (s : State) : Host.Outcome State Fault Refusal :=
  .next (s.tryIssue p ctx (fun d => dClass d == 4) false (fun c t => t.mvRun c env))

/-! ## MOE -/

def moK (d : Nat) : Nat := dOp d 1 3 + 1
def moNe (d : Nat) : Nat := dOp d 16 12 + 1
def moBase (d : Nat) : Nat := dOp d 32 16
def moCap (d : Nat) : Nat := dOp d 48 16
def moNtok (d : Nat) : Nat := dOp d 64 24
def moRowUnits (d : Nat) : Nat := dOp d 96 16
def moRoute (d : Nat) : Nat := dOp d 128 32
def moRow (d : Nat) : Nat := dOp d 160 32
/-- R1 of Table 6.12. -/
def moR1 (d : Nat) : Nat := (moNtok d * moK d + 15) / 16

/-- Progress of a dispatch: rows admitted by expert, position words in order, row of each filled slot, drops. -/
structure MoeAdm where
  count : List Nat
  pos : List Nat
  slots : List (Nat × Nat)
  drops : Nat
  deriving DecidableEq, Repr

/-- One pair of token and choice (R156). -/
def moeAdmit (d : Nat) (m : MoeAdm) (t w : Nat) : MoeAdm :=
  let e := w % 65536
  if bitAt w 31 && decide (moBase d ≤ e) && decide (e < moBase d + moNe d) then
    let i := e - moBase d
    let k := m.count.getD i 0
    if k < moCap d then
      let sl := i * moCap d + k
      ⟨m.count.set i (k + 1), m.pos ++ [sl], m.slots ++ [(sl, t)], m.drops⟩
    else ⟨m.count, m.pos ++ [0xFFFFFFFF], m.slots, m.drops + 1⟩
  else ⟨m.count, m.pos ++ [0xFFFFFFFE], m.slots, m.drops⟩

/-- MOE_DISPATCH that has issued. -/
def State.moeDispatch (s : State) (c : Cmd) (env : CmdEnv) : State :=
  let d := c.d
  let u := moRowUnits d
  let n := moNtok d * moK d
  let rs : List Rng := [⟨moRoute d, moR1 d, true⟩, ⟨moRow d, moNtok d * u, false⟩]
  let ws : List Rng := [⟨dOut d, moNe d * moCap d * u, false⟩, ⟨moRoute d + moR1 d, moR1 d, false⟩,
    ⟨moRoute d + 3 * moR1 d, (moNe d + 1 + 15) / 16, false⟩]
  let s := s.applyEnv c (unitId c.p 0x70) rs env
  let s := s.noteRanges c (unitId c.p 0x70) (rs ++ ws)
  let steer := s.rngBad c ⟨moRoute d, moR1 d, true⟩
  let m := (List.range n).foldl (fun m i => moeAdmit d m (i / moK d) (s.cmdNat c.p c.ctx (moRoute d) (4 * i) 4))
    ⟨List.replicate (moNe d) 0, [], [], 0⟩
  let src := s
  -- slots in ascending number, the unfilled ones zero
  let s := forRange (moNe d * moCap d) (fun sl t =>
    match m.slots.find? (fun x => x.1 == sl) with
    | some x => t.cmdWrite c.p c.ctx (dOut d + sl * u) (64 * u)
        (fun i => src.cmdByte c.p c.ctx (moRow d + x.2 * u) i)
        (fun q => steer || src.cmdPsn c.p c.ctx (moRow d + x.2 * u + q))
    | none => t.cmdWrite c.p c.ctx (dOut d + sl * u) (64 * u) (fun _ => 0) (fun _ => steer)) s
  let s := s.cmdWriteL c.p c.ctx (moRoute d + moR1 d) (m.pos.flatMap (leBytes 4)) (fun _ => steer)
  let s := s.cmdWriteL c.p c.ctx (moRoute d + 3 * moR1 d) ((m.count ++ [m.drops]).flatMap (leBytes 4)) (fun _ => steer)
  let s := if m.drops = 0 then s else (s.count c.p (0x300 + dOp d 8 8) m.drops).count c.p 0x233 m.drops
  (s.pushDone c [] (steer || s.rngBad c ⟨dOut d, moNe d * moCap d * u, false⟩)).endEnv

/-- MOE_DISPATCH. -/
def execMoeDispatch (p ctx : Nat) (env : CmdEnv) (s : State) : Host.Outcome State Fault Refusal :=
  .next (s.tryIssue p ctx (fun d => dClass d == 8 && dOp d 0 1 == 0) false (fun c t => t.moeDispatch c env))

/-- Elements of a row under RFMT. -/
def moN (d : Nat) : Nat := moRowUnits d * 64 / (elemBits (dOp d 28 4) / 8)
/-- Units of an output row of a combine. -/
def moOutUnits (d : Nat) : Nat := (moN d * (elemBits (ocFmt (dOcvt d)) / 8) + 63) / 64

/-- Position words of a token. -/
def State.moPos (s : State) (c : Cmd) (t : Nat) : List Nat :=
  (List.range (moK c.d)).map (fun k => s.cmdNat c.p c.ctx (moRoute c.d + moR1 c.d) (4 * (t * moK c.d + k)) 4)

/-- Whether a position word names a slot, and whether the slot is beyond the buffer (R157). -/
def moUsed (s : Nat) : Bool := decide (s < 0xFFFFFFFE)
def moBeyond (d s : Nat) : Bool := moUsed s && decide (moNe d * moCap d ≤ s)

/-- Element `j` of the output of token `t` before OCVT. -/
def State.moSum (s : State) (c : Cmd) (t j : Nat) : Nat :=
  (s.moPos c t).zipIdx.foldl (fun acc x =>
    if moUsed x.1 then
      let v : FVal := if moBeyond c.d x.1 then .fin false 0 0 else
        decodeElem (dOp c.d 28 4) (s.rdElem c.p c.ctx (moRow c.d + x.1 * moRowUnits c.d) (dOp c.d 28 4) j)
      let g := s.cmdNat c.p c.ctx (moRoute c.d + 2 * moR1 c.d) (4 * (t * moK c.d + x.2)) 4
      f32Add acc (rne32 ((f32 g).mul v))
    else acc) 0

/-- Poison of that element (R158). -/
def State.moSumPsn (s : State) (c : Cmd) (t j : Nat) : Bool :=
  let k := moK c.d
  (List.range k).any (fun i => s.cmdPsn c.p c.ctx (moRoute c.d + moR1 c.d + (t * k + i) / 16)) ||
  (s.moPos c t).zipIdx.any (fun x => moUsed x.1 &&
    (moBeyond c.d x.1 ||
     s.elemPsn c.p c.ctx (moRow c.d + x.1 * moRowUnits c.d) (dOp c.d 28 4) j ||
     s.cmdPsn c.p c.ctx (moRoute c.d + 2 * moR1 c.d + (t * k + x.2) / 16)))

/-- MOE_COMBINE that has issued. -/
def State.moeCombine (s : State) (c : Cmd) (env : CmdEnv) : State :=
  let d := c.d
  let o := dOcvt d
  let u := moRowUnits d
  let n := moN d
  let entry := s.ttabAt c.p c.ctx (dTslot d)
  let step := s.stepOf c
  let s := s.applyEnv c (unitId c.p 0x70)
    [⟨moRoute d, 3 * moR1 d, true⟩, ⟨moRow d, moNe d * moCap d * u, true⟩] env
  let pos := (List.range (moNtok d)).flatMap (s.moPos c)
  let used := pos.filter moUsed
  -- a position at or beyond NE × CAP is an address fault
  let far := (used.filter (moBeyond d)).map (fun x => ((moRow d + x * u) % 2 ^ 32, false))
  let rs : List Rng := [⟨moRoute d + moR1 d, moR1 d, true⟩, ⟨moRoute d + 2 * moR1 d, moR1 d, true⟩] ++
    (used.filter (fun x => !moBeyond d x)).map (fun x => ⟨moRow d + x * u, u, true⟩)
  let ws : List Rng := [⟨dOut d, moNtok d * moOutUnits d, false⟩]
  let s := match far ++ (rs ++ ws).flatMap (s.rngFaults c) with
    | [] => s.noteRanges c (unitId c.p 0x71) rs
    | f :: fs => s.noteFaults c (f :: fs)
  let src := s
  let r := (List.range (moNtok d)).foldl (fun (a : State × Bool) t =>
    let rv := (List.range n).map (fun j =>
      (if ocRnd o = 2 then src.ksBits c.p step entry (t * ttPitch entry + j) else 0, f32 (src.moSum c t j)))
    let (codes, _, f) := encStream o 2 rv
    let pe := ((List.range n).map (src.moSumPsn c t)).toArray
    ((a.1.cvtFlags c.p f).cmdWriteL c.p c.ctx (dOut d + t * moOutUnits d) (packAll (ocFmt o) codes)
      (outPsn (elemBits (ocFmt o)) n (fun i => pe.getD i false)), a.2 || pe.any id)) (s, false)
  (r.1.pushDone c [] r.2).endEnv

/-- MOE_COMBINE. -/
def execMoeCombine (p ctx : Nat) (env : CmdEnv) (s : State) : Host.Outcome State Fault Refusal :=
  .next (s.tryIssue p ctx (fun d => dClass d == 8 && dOp d 0 1 == 1) false (fun c t => t.moeCombine c env))

end Sys2Proof.Machine
end

