-- ==== Sys2Proof/Machine/Hasp.lean ====
section
/-! DEFINITION. Hasp sets beyond the commit (chapter 11): resends, rebuilds of images from their stripes, the restore
from memory, drains and durable restores (R332, R333, R337 to R341). -/
namespace Sys2Proof.Machine

/-- A list sorted by a natural-number key, ascending. -/
def insertKey {α : Type} (f : α → Nat) (a : α) : List α → List α
  | [] => [a]
  | b :: t => if f a ≤ f b then a :: b :: t else b :: insertKey f a t
def sortKey {α : Type} (f : α → Nat) (l : List α) : List α := l.foldr (insertKey f) []

/-! ## The group -/

/-- Original rank of a member. -/
def ContGroup.rankOf (g : ContGroup) (gid : Nat) : Option Nat := g.members.findIdx? (· == gid)

/-- Member of an original rank. -/
def ContGroup.gidOf (g : ContGroup) (rank : Nat) : Nat := g.members.getD rank 0

/-- Home partitions of the group's shards: the partitions whose slots hold chunks. -/
def ContGroup.homes (g : ContGroup) : List Nat := (List.range 8).filter (fun p => g.shards.any (fun x => x.home == p))

/-- Live members by original rank. -/
def ContGroup.liveGids (g : ContGroup) : List Nat := (liveRanks g.live).map g.gidOf

/-- The group leader: the live member of lowest live rank (R333). -/
def ContGroup.leader (g : ContGroup) : Nat := g.liveGids.headD 0

/-- A control message to a member; to the module itself the caller acts at once. -/
def State.isLeader (s : State) (g : ContGroup) : Bool := g.leader == s.gid

/-- Shards of the group that the rekey table places on this module, ascending, with partition and entry. -/
def State.placedHere (s : State) (j : Nat) (g : ContGroup) : List (Nat × Nat × Nat) :=
  let ids := sortKey id (g.shards.map (·.lsid))
  ids.filterMap (fun l => match s.rekey j l with
    | some w => if rkGid w = s.gid then some (l, rkPart w, rkEntry w) else none
    | none => none)

/-- Slot states in which a chunk can be valid (R337). -/
def slotHolds (st : Nat) : Bool := decide (2 ≤ st) && decide (st ≤ 5)

/-- Whether the header of a slot names the loaded job and its shape (R339). -/
def State.slotMatches (s : State) (j p : Nat) (b : Bool) (shape : Nat) : Bool :=
  match s.slotRegion p b with
  | some (base, _) =>
    let h := s.rdBytes (64 * hbmDatum p base) 64
    bits h 64 32 == s.fld (FAB_JOB_ID_JOB_ID j) && bits h 96 32 == shape
  | none => false

/-- Slot of a partition that holds an epoch in a state that can hold valid chunks. -/
def State.slotOf (s : State) (p e : Nat) : Option Bool :=
  [false, true].find? (fun b => s.slotEpoch p b == e && slotHolds (s.slotState p b))

/-! ## Resends of phase 1 -/

/-- HASP_CHUNK_TIMEOUT (R332). -/
def execHaspChunkTimeout (j p stripe : Nat) (s : State) : Host.Outcome State Fault Refusal :=
  match s.run j with
  | none => .next s
  | some r =>
    match r.chunks.find? (fun c => c.part == p && c.stripe == stripe) with
    | none => .next s
    | some c =>
      if c.ok || c.gaveUp || c.since = 0 || !s.flag (HSP_J_STATUS_SET_OPEN j) ||
          decide (s.ftime + 1 < c.since + s.fld (HSP_J_FLOW_HASP_CHUNK_TIMEOUT j) * 4000000) then .next s
      else .next (s.askChunk j p stripe)

/-- HREQ (R332): the owner sends the whole chunk again. -/
def State.onHreq (s : State) (src : Nat) (m : List Nat) : State :=
  let j := mByte m 1 % 8
  let p := mByte m 8
  let stripe := mField m 12 4
  match s.run j with
  | none => s
  | some r =>
    match r.group with
    | none => s
    | some grp =>
      match grp.rankOf src, (grp.shards.find? (fun x => x.home == p && x.stripe == stripe)) with
      | some rank, some x =>
        match (s.jobEntries j (fun st => st == 2 || st == 3)).find? (fun pe => s.lsidOf pe.1 pe.2 == x.lsid) with
        | some pe =>
          if !r.setHere || mField m 4 4 ≠ r.step then s else
          let ranks := liveRanks grp.live
          match ranks.findIdx? (· == rank) with
          | some l =>
            let img := s.shardImage pe.1 pe.2 (x.flows.map (·.1))
            let g := ranks.length
            let (hdr, c) := s.makeChunk j r.step g grp.live x.lsid (chunkKind g stripe l) r.shape img
            ((s.gcount 0x213 1).sendChunk j rank src p stripe hdr c)
          | none => s
        | none => s
      | _, _ => s

/-! ## Rebuilds (R338 step 4, R359) -/

/-- HGET to the holder of a chunk, for its header and all its units. -/
def State.sendHget (s : State) (j : Nat) (g : ContGroup) (b : Rebuild) (rank : Nat) : State :=
  s.sendCtl (g.gidOf rank) j (stripeMsg 0x24 j b.epoch b.home b.stripe ++ leBytes 4 0 ++ leBytes 4 (s.fld (HSP_CSLOT_CSLOT b.home)))

/-- Whether a chunk has come whole: its header and all its units. -/
def Cell.whole (c : Cell) : Bool := match c.hdr with | some h => !c.bad && decide (chC h ≤ c.units.length) | none => false

/-- The checks of R337 on a whole chunk. -/
def State.cellValid (s : State) (j : Nat) (b : Rebuild) (shape : Nat) (c : Cell) : Bool :=
  match c.hdr with
  | none => false
  | some h =>
    chunkHdrOk h && bits h 32 32 == s.fld (FAB_JOB_ID_JOB_ID j) && chEpoch h == b.epoch && chShape h == shape &&
      chLsid h == b.lsid && c.units.length == chC h && !c.units.any (·.2) && unitsCrc c.units == chDcrc h &&
      (match b.cells.find? (fun x => x.whole && x.rank != c.rank) with
       | some x => match x.hdr with
         | some y => chG y == chG h && chMask y == chMask h && chLen y == chLen h
         | none => true
       | none => true)

/-- Data chunk of a kind from the chunks in hand, XORed from the others where it is missing (R324). -/
def rebuildChunk (cells : List (Nat × List (Nat × Bool))) (c kind : Nat) : List (Nat × Bool) :=
  match cells.find? (fun x => x.1 == kind) with
  | some x => x.2
  | none => xorChunks c (cells.map (·.2))

/-- The next thing a rebuild can do: fail, complete, or ask for the parity chunk in place of a lost one. -/
def State.stepRebuild (s : State) (j : Nat) (g : ContGroup) (b : Rebuild) : State × Rebuild :=
  match (b.cells.find? (·.whole)).bind (·.hdr) with
  | none => (s, { b with failed := b.failed || (!b.cells.isEmpty && b.cells.all (·.bad)) })
  | some h =>
    let n := chG h
    let ranks := liveRanks (chMask h)
    let lost := ranks.filter (fun r => !bitAt g.live r || b.cells.any (fun c => c.rank == r && c.bad))
    if 2 ≤ lost.length then (s, { b with failed := true })
    else
      let have_ : List (Nat × List (Nat × Bool)) := (b.cells.filter (·.whole)).filterMap (fun c => c.hdr.map (fun y => (chKind y, c.units)))
      let data := (List.range (n - 1)).all (fun k => have_.any (fun x => x.1 == k))
      if data || decide (n - 1 ≤ have_.length) then
        let img := ((List.range (n - 1)).flatMap (fun k => rebuildChunk have_ (chC h) k)).take (chLen h)
        (s.gcount 0x214 1, { b with img := some img })
      else
        -- chunks to ask for: the data chunks, and the parity chunk where one of them is lost
        let parity := ranks.getD (chunkHolder n b.stripe 0xFF) 0
        let want := ranks.filter (fun r => bitAt g.live r && (r != parity || !lost.isEmpty) && !b.cells.any (fun c => c.rank == r))
        (want.foldl (fun t r => t.sendHget j g b r) s, { b with cells := b.cells ++ want.map (fun r => ⟨r, none, [], false⟩) })

/-- A rebuild starts: the module's own chunk, and HGET for the others. Without a valid chunk of its own the module asks
every live member, since the live mask of the epoch is in the chunk headers. -/
def State.startRebuild (s : State) (j : Nat) (r : JobRun) (g : ContGroup) (lsid part entry use epoch : Nat) : State :=
  match g.shards.find? (fun x => x.lsid == lsid) with
  | none => s
  | some x =>
    let own := (g.rankOf s.gid).getD 17
    let base : Rebuild := ⟨j, lsid, part, entry, use, epoch, x.home, x.stripe, [], none, false⟩
    let mine : Option (Nat × List (Nat × Bool)) :=
      match s.slotOf x.home epoch with
      | some b => if s.cellOk j x.home b x.stripe epoch r.shape then
          (let (h, l) := s.readCell x.home b x.stripe; some (h.1, l)) else none
      | none => none
    let (s, b) := match mine with
      | some (h, l) => s.stepRebuild j g { base with cells := [⟨own, some h, l, false⟩] }
      | none =>
        let others := (liveRanks g.live).filter (· != own)
        (others.foldl (fun t k => t.sendHget j g base k) s,
          { base with cells := ⟨own, none, [], true⟩ :: others.map (fun k => ⟨k, none, [], false⟩) })
    { s with rebuilds := s.rebuilds ++ [b] }

/-- Units of an HGET answer join their chunk; a poisoned header says that the holder has no such chunk. -/
def Cell.take (c : Cell) (isHdr : Bool) (l : List (Nat × Bool)) : Cell :=
  if isHdr then
    match l with
    | h :: t => if h.2 then { c with bad := true } else { c with hdr := some h.1, units := t }
    | [] => c
  else { c with units := c.units ++ l }

/-! ## An image into an entry (R186, R235, R338) -/

/-- Bytes of an image's first units. -/
def imgBytes (img : List (Nat × Bool)) (n : Nat) : List Nat := (img.take ((n + 63) / 64)).flatMap (fun x => leBytes 64 x.1)

/-- TWIN_SIZE and NFLOW of a control record, and its length in units. -/
def ctlShape (img : List (Nat × Bool)) : Nat × Nat × Nat :=
  let h := (img.headD (0, false)).1
  let t := bits h 80 16
  let n := bits h 96 32
  (t, n, (64 + 512 * t + 80 * n + 63) / 64)

/-- SEQ, or EXPECT and WINDOW, of one flow of a control record. -/
def State.installSeq (s : State) (l : List Nat) : State :=
  let n := mField l 0 2 % 16384
  let s := s.setFld (fcSeq n) (mField l 4 4)
  if mField l 2 2 % 4 = 2 then s.setFcWindow n (mField l 16 64) else s

/-- The image of a shard into its entry: state region, tile slice, tumblers, flow contexts, STEP e + 1 at position 0. -/
def State.installImage (s : State) (p e : Nat) (img : List (Nat × Bool)) : State :=
  let (t, n, cu) := ctlShape img
  let ctl := (imgBytes img (64 * cu)).toArray
  let byte (i : Nat) : Nat := ctl.getD i 0
  let word (i : Nat) : Nat := leNat [byte i, byte (i + 1), byte (i + 2), byte (i + 3)]
  let s := (s.setFld (CAM_HOST_W6_STEP p e) (word 4 + 1)).setFld (CAM_HOST_W7_POS p e) 0
  let w := s.tumWin p e
  let s := forRange (min (64 * t) w.2) (fun i u =>
    let snap := word (0x44 + 8 * i)
    let u := u.setFld (TMB_VALUE_VALUE p (w.1 + i)) (if i = 0 then snap else word (0x40 + 8 * i))
    u.setFld (TMB_SNAP_SNAP p (w.1 + i)) snap) s
  let s := forRange n (fun i u => u.installSeq ((List.range 80).map (fun k => byte (64 + 512 * t + 80 * i + k)))) s
  let plen := s.fld (HSP_PLEN_PLEN p e)
  let body := img.drop cu
  let s := (body.take plen).zipIdx.foldl (fun (u : State) x => u.wrDatum (u.stateDatum p e x.2) x.1.1 x.1.2) s
  let s := ((body.drop plen).take (s.fld (HSP_STRIPE_TPLEN p e))).zipIdx.foldl
    (fun (u : State) x => u.wrDatum (u.sliceDatum p e x.2) x.1.1 x.1.2) s
  (s.clearShard p e).killIssued p e

/-! ## Logs at a restore (R365) -/

/-- Records of a log from position `i` on, each with its STEP and units; at most `fuel` of them. -/
def State.logRecords (s : State) (p i left : Nat) : Nat → List (Nat × List (Nat × Bool))
  | 0 => []
  | fuel + 1 =>
    if left = 0 then [] else
    let (st, n) := s.logAt p i
    let l := max 1 (s.logRegion p).2
    (st, (List.range n).map (fun k => s.unitAt (s.logDatum p (i + k)))) :: s.logRecords p ((i + n) % l) (left - n) fuel

/-- The log of a partition keeps only the records whose STEP a test accepts. -/
def State.logKeep (s : State) (p : Nat) (f : Nat → Bool) : State :=
  let used := s.logUsed p
  let h := s.fld (RCV_LOG_HEAD_HEAD p)
  let us := ((s.logRecords p h used used).filter (fun x => f x.1)).flatMap (·.2)
  let s := us.zipIdx.foldl (fun (t : State) x => t.wrDatum (t.logDatum p (h + x.2)) x.1.1 x.1.2) s
  let s := s.setFld (RCV_LOG_TAIL_TAIL p) ((h + us.length) % max 1 (s.logRegion p).2)
  let s := { s.setFld (RCV_LOG_USE_BROKEN p) 0 with logBroken := s.logBroken.filter (fun x => x.1 != p || f x.2.1) }
  s.logShow p

/-- The logs of a job slot keep the steps that a test accepts. -/
def State.logsKeep (s : State) (j : Nat) (f : Nat → Bool) : State := (s.slotParts j).foldl (fun t p => t.logKeep p f) s

/-! ## Restore from memory (R338, R339) -/

/-- Bits of a list. -/
def bitmapOf (l : List Bool) : Nat := maskOf l

/-- A slot summary: one message for each partition and slot. A slot of another job or shape counts as empty. -/
def State.slotSummary (s : State) (j : Nat) (r : JobRun) (g : ContGroup) (p : Nat) (b : Bool) : List Nat :=
  let ok := s.slotMatches j p b r.shape
  let st := if ok then s.slotState p b else 0
  let e := if ok then s.slotEpoch p b else 0xFFFFFFFF
  let h := match s.slotRegion p b with | some (base, _) => s.rdBytes (64 * hbmDatum p base) 64 | none => 0
  let np := (g.shards.filter (fun x => x.home == p)).length
  let map := if slotHolds st then bitmapOf ((List.range np).map (fun i => s.cellOk j p b i e r.shape)) else 0
  [0x21, j, 0, 0] ++ leBytes 4 e ++ [p, if b then 1 else 0, st, bits h 144 8] ++ leBytes 4 (bits h 160 17) ++ leBytes 34 map

/-- The newest eight of a list of epochs. -/
def newest8 (l : List Nat) : List Nat := ((sortKey id l.eraseDups).reverse).take 8

/-- Whether a group leader's summaries are complete. -/
def sumsComplete (g : ContGroup) (sums : List (Nat × List Nat)) : Bool :=
  g.liveGids.all (fun x => g.homes.all (fun p => [0, 1].all (fun b =>
    sums.any (fun m => m.1 == x && mByte m.2 8 == p && mByte m.2 9 == b))))

/-- The group result (R337, R338 step 2): for each candidate epoch whether it is usable in the group and whether some slot
shows it committed. -/
def groupResult (g : ContGroup) (sums : List (Nat × List Nat)) : List (Nat × Bool × Bool) :=
  let live := sums.filter (fun m => g.liveGids.contains m.1 && slotHolds (mByte m.2 10))
  (newest8 (live.map (fun m => mField m.2 4 4))).map (fun e =>
    let ms := live.filter (fun m => mField m.2 4 4 == e)
    let usable := g.shards.all (fun x =>
      let hs := ms.filter (fun m => mByte m.2 8 == x.home && bitAt (mField m.2 16 34) x.stripe)
      match hs with
      | m :: _ => decide (mByte m.2 11 - 1 ≤ (hs.filter (fun y => mByte y.2 11 == mByte m.2 11 && mField y.2 12 4 == mField m.2 12 4)).length)
      | [] => false)
    (e, usable, ms.any (fun m => decide (3 ≤ mByte m.2 10))))

/-- Entries of a HUSE. -/
def useEntries (m : List Nat) : List (Nat × Bool × Bool) :=
  (List.range ((m.length - 12) / 8)).map (fun i =>
    (mField m (12 + 8 * i) 4, bitAt (mByte m (16 + 8 * i)) 0, bitAt (mByte m (16 + 8 * i)) 1))

/-- The merge of group results and HUSE (R338 step 3): GROUPS, and the entries. Contributions without a group result are
neutral. -/
def mergeUses (l : List (List (Nat × Bool × Bool))) : List (Nat × Bool × Bool) :=
  (newest8 (l.flatMap (fun x => x.map (·.1)))).map (fun e =>
    (e, l.all (fun x => x.any (fun y => y.1 == e && y.2.1)), l.any (fun x => x.any (fun y => y.1 == e && y.2.2))))

/-- A restore that runs. -/
def State.restore (s : State) (j : Nat) : Option Restore := storeGet none s.restores j
def State.setRestore (s : State) (j : Nat) (r : Option Restore) : State := { s with restores := storeSet none s.restores j r }

/-- A slot whose epoch is chosen, older, or newer and unusable (R338 step 5). -/
def State.restoreSlots (s : State) (j e shape : Nat) : State :=
  (s.slotParts j).foldl (fun t p => [false, true].foldl (fun u b =>
    if u.slotState p b = slEmpty || !u.slotMatches j p b shape then u
    else if u.slotEpoch p b = e && slotHolds (u.slotState p b) then u.moveSlot j p b slActive
    else if u.slotEpoch p b < e && slotHolds (u.slotState p b) then u.moveSlot j p b slStale
    else u.moveSlot j p b slEmpty) t) s

/-- The job stands at hinge `e` again, its first step to come (R235, R335, R369). -/
def State.restart (s : State) (j e : Nat) : State :=
  let up := s.fld (RCV_J_STATUS_PHASE j) == 4
  let s := ((s.setFld (RCV_J_STATUS_PHASE j) 0).setFld (RCV_J_REPLAY_EPOCH j) 0xFFFFFFFF).setFld (HSP_J_STATUS_SET_OPEN j) 0
  let s := (s.setFld (HSP_J_STATUS_COMMIT_NEXT j) 0).setPhase j 1
  { s with feeds := s.feeds.filter (fun f => f.job != j), rcopy := s.rcopy.filter (fun c => c.job != j) }.updRun j (fun r => { r with
    step := e, first := true, arrived := false, sent := false, notices := [], holds := [], holdOwn := false, reported := false,
    relT := 0, setHere := false, chunks := [], earlyCont := [], early := true, cut := none, lastSet := e + 1,
    genUp := r.genUp || up, gaps := [], prevT := 0 })

/-- Every entry of the job that holds a shard becomes LOADING. -/
def State.loadEntries (s : State) (l : List (Nat × Nat × Nat)) : State :=
  l.foldl (fun t x => (t.setFld (CAM_HOST_W0_STATE x.2.1 x.2.2) 1).killIssued x.2.1 x.2.2) s

/-- HPICK as this module applies it. `none` stands for no epoch; `unmatched` says that no slot on any module matched. -/
def State.applyPick (s : State) (j : Nat) (e : Option Nat) (unmatched : Bool) : State :=
  match s.restore j, s.run j with
  | some t, some r =>
    match e with
    | none =>
      let s := if s.fld (RCV_J_STATUS_PHASE j) = 4 then s.logsKeep j (fun _ => false) else s
      (s.setRestore j none).endWith t.op (if unmatched then stBadImage else stEpochMixed) []
    | some e =>
      let s := (s.logsKeep j (fun x => decide (x ≤ e))).setRestore j (some { t with epoch := some e })
      match r.group with
      | none => s
      | some g =>
        let l := s.placedHere j g
        let s := s.loadEntries l
        l.foldl (fun u x => u.startRebuild j r g x.1 x.2.1 x.2.2 0 e) s
  | _, _ => s

/-- HPICK as a message. -/
def pickMsg (j : Nat) (e : Option Nat) (unmatched : Bool) : List Nat :=
  [0x23, j, 0, 0] ++ leBytes 4 (e.getD 0xFFFFFFFF) ++ [if unmatched then 1 else 0, 0, 0, 0]

/-- HUSE once the children's are in and, on a group leader, its own result; the root picks (R338 step 3). -/
def State.trySendUse (s : State) (j : Nat) : State :=
  match s.restore j, s.run j with
  | some t, some r =>
    let lead := match r.group with | some g => s.isLeader g | none => false
    let kids := s.jobKids j
    if t.sent || (lead && t.result.isNone) || !kids.all (fun k => t.uses.any (fun m => m.1 == k)) then s
    else
      let groups := (t.result.toList) ++ (t.uses.filter (fun m => bitAt (mByte m.2 8) 0)).map (fun m => useEntries m.2)
      let l := mergeUses groups
      let s := s.setRestore j (some { t with sent := true })
      match s.jobUp j with
      | some up => s.sendCtl up j ([0x22, j, 0, 0] ++ leBytes 4 0 ++ [if groups.isEmpty then 0 else 1, 0, 0, 0] ++
          l.flatMap (fun x => leBytes 4 x.1 ++ leBytes 4 ((if x.2.1 then 1 else 0) + (if x.2.2 then 2 else 0))))
      | none =>
        let e := (l.find? (fun x => x.2.1 && x.2.2)).map (·.1)
        (s.sendDown j (pickMsg j e l.isEmpty)).applyPick j e l.isEmpty
  | _, _ => s

/-- A summary or a HUSE taken by a restore that runs here, or kept until it is issued. -/
def State.takeRestoreMsg (s : State) (src : Nat) (m : List Nat) : State :=
  let j := mByte m 1 % 8
  match s.restore j, s.run j with
  | some t, some r =>
    if mByte m 0 = 0x22 then
      (s.setRestore j (some { t with uses := t.uses.filter (fun x => x.1 != src) ++ [(src, m)] })).trySendUse j
    else
      match r.group with
      | some g =>
        let sums := t.sums.filter (fun x => !(x.1 == src && mByte x.2 8 == mByte m 8 && mByte x.2 9 == mByte m 9)) ++ [(src, m)]
        let res := if s.isLeader g && sumsComplete g sums && t.result.isNone then some (groupResult g sums) else t.result
        (s.setRestore j (some { t with sums := sums, result := res })).trySendUse j
      | none => s
  | _, _ => { s with restoreMsgs := s.restoreMsgs ++ [(src, m)] }

/-- HSUM. -/
def State.onHsum (s : State) (src : Nat) (m : List Nat) : State := (s.takeRestoreMsg src m)

/-- HUSE. -/
def State.onHuse (s : State) (src : Nat) (m : List Nat) : State := (s.takeRestoreMsg src m)

/-- HPICK: from the parent, on to every child, and applied here. -/
def State.onHpick (s : State) (src : Nat) (m : List Nat) : State :=
  let j := mByte m 1 % 8
  match s.restore j with
  | some t =>
    if t.epoch.isSome || s.jobUp j ≠ some src then s else
    let e := if mField m 4 4 = 0xFFFFFFFF then none else some (mField m 4 4)
    ((s.sendDown j m).applyPick j e (bitAt (mByte m 8) 0))
  | none => s

/-- Whether an operation on the Hasp sets of a job slot is open. -/
def State.haspOp (s : State) (j op : Nat) : Bool := s.ops.any (fun o => o.op == op && o.arg 0 == j)

/-- OP_HASP_RESTORE (R338). -/
def execOpHaspRestore (f : Nat) (s : State) : Host.Outcome State Fault Refusal :=
  match s.submit f 7 with
  | (s, none) => .next s
  | (s, some o) =>
    let j := o.arg 0
    match (if j < 8 then s.run j else none) with
    | none => .next (s.abortArg o 0)
    | some r =>
      if s.haspOp j 6 || (s.restore j).isSome || s.haspOp j 8 then .next (s.endWith o stBusy []) else
      let s := s.setRestore j (some ⟨o, [], none, [], false, none⟩)
      let s := match r.group with
        | some g =>
          let ms := g.homes.flatMap (fun p => [false, true].map (fun b => s.slotSummary j r g p b))
          if s.isLeader g then ms.foldl (fun (t : State) m => t.takeRestoreMsg t.gid m) s
          else ms.foldl (fun (t : State) m => t.sendCtl g.leader j m) s
        | none => s
      let held := s.restoreMsgs.filter (fun m => mByte m.2 1 % 8 == j)
      let s := { s with restoreMsgs := s.restoreMsgs.filter (fun m => mByte m.2 1 % 8 != j) }
      .next ((held.foldl (fun (t : State) (m : Nat × List Nat) => t.takeRestoreMsg m.1 m.2) s).trySendUse j)

/-- HASP_REBUILD_COMPLETE (R338 steps 4 and 5). -/
def execHaspRebuildComplete (j : Nat) (s : State) : Host.Outcome State Fault Refusal :=
  match s.restore j, s.run j with
  | some t, some r =>
    match t.epoch with
    | none => .next s
    | some e =>
      let l := s.rebuilds.filter (fun b => b.job == j && b.use == 0)
      if !l.all (fun b => b.img.isSome) then .next s else
      let s := l.foldl (fun u b => match b.img with
        | some img => (u.installImage b.part b.entry img).setFld (CAM_HOST_W0_STATE b.part b.entry) 2
        | none => u) s
      let s := { s with rebuilds := s.rebuilds.filter (fun b => !(b.job == j && b.use == 0)) }
      let s := ((s.restoreSlots j e r.shape).setFld (HSP_J_EPOCH_EPOCH j) e).restart j e
      .next ((s.setRestore j none).endWith t.op stOk [e])
  | _, _ => .next s

/-- HGET (R338): the header and units of the chunk, poison included; one poisoned unit where this module holds no such
chunk. -/
def State.onHget (s : State) (src : Nat) (m : List Nat) : State :=
  let j := mByte m 1 % 8
  let p := mByte m 8 % 8
  let stripe := mField m 12 4
  match (s.run j).bind (·.group) with
  | none => s
  | some g =>
    match g.rankOf src with
    | none => s
    | some rank =>
      let lsid := ((g.shards.find? (fun x => x.home == p && x.stripe == stripe)).map (·.lsid)).getD 0
      let u := s.cellUnit p stripe
      let first := mField m 16 4
      let l := match s.slotOf p (mField m 4 4) with
        | some b =>
          let (h, l) := s.readCell p b stripe
          if chunkHdrOk h.1 then ((h :: l).drop first).take (mField m 20 4) else []
        | none => []
      (s.sendContUnits j rank src 1 lsid p (u + first) (if l.isEmpty then [(0, true)] else l))

/-! ## Drains (R340) -/

/-- Pin or unpin the slots of a job slot that hold an epoch. -/
def State.pinSlots (s : State) (j e : Nat) (v : Nat) : State :=
  (s.slotParts j).foldl (fun t p => [false, true].foldl (fun u b =>
    if u.slotEpoch p b = e then u.setFld (if b then HSP_SLOT_STATE_B_PIN p else HSP_SLOT_STATE_A_PIN p) v else u) t) s

/-- Header of a durable chunk (Table 11.9). -/
def durableHdr (job epoch gen lsid shape i n len crc : Nat) : List Nat :=
  let b := leBytes 4 0x48530002 ++ leBytes 4 job ++ leBytes 4 epoch ++ leBytes 2 gen ++ [0, 0] ++ leBytes 3 lsid ++ [0] ++
    leBytes 4 shape ++ leBytes 4 i ++ leBytes 4 n ++ leBytes 4 len ++ leBytes 4 crc ++ List.replicate 20 0
  b ++ leBytes 4 (crc32c b)

/-- Bytes of image per durable chunk. -/
def durableChunk : Nat := 1048576

/-- The objects of a shard's image. -/
def State.durableObjs (s : State) (j : Nat) (r : JobRun) (b : Rebuild) (img : List (Nat × Bool)) : List (List Nat) :=
  let bytes := img.flatMap (fun x => leBytes 64 x.1)
  let n := (bytes.length + durableChunk - 1) / durableChunk
  (List.range n).map (fun i =>
    let d := (bytes.drop (durableChunk * i)).take durableChunk
    durableHdr (s.fld (FAB_JOB_ID_JOB_ID j)) b.epoch (s.fld (FAB_JOB_GEN_GEN j)) b.lsid r.shape i n d.length (crc32c d) ++ d)

/-- One object over the fabric route: continuity packets of up to 512 bytes to the storage node. The key stands in LAYER and
OPERATOR, and OFFSET counts units of the object. -/
def State.sendObject (s : State) (dst j lsid key : Nat) (l : List Nat) : State :=
  forRange ((l.length + 511) / 512) (fun i t =>
    let pay := (l.drop (512 * i)).take 512
    t.sendPkt ⟨Hdr.enc ⟨4, 4, 0, dst, t.gid, 0, t.fld (FAB_JOB_GEN_GEN j), 0, 0, 0, key % 2 ^ 16, key / 2 ^ 16, 0, pay.length,
      0, lsid, 8 * i, 15⟩, pay⟩ none t.ftime none) s

/-- End of a drain: the pin ends. -/
def State.endDrain (s : State) (o : OpenOp) (status : Nat) (results : List Nat) : State :=
  let j := o.arg 0
  let s := { s with rebuilds := s.rebuilds.filter (fun b => !(b.job == j && b.use == 2)) }
  (s.pinSlots j (o.arg 15) 0).endWith o status results

/-- A drain's rebuilt shard is written; the last one ends the drain. `phase` counts shards, and bytes above bit 16. -/
def State.drainShard (s : State) (j : Nat) (r : JobRun) (b : Rebuild) : State :=
  match s.ops.find? (fun o => o.op == 6 && o.arg 0 == j) with
  | none => s
  | some o =>
    if b.failed then s.endDrain o stPoisoned [] else
    match b.img with
    | none => s
    | some img =>
      let objs := s.durableObjs j r b img
      let ids := (s.rebuilds.filter (fun x => x.job == j && x.use == 2)).map (·.lsid)
      let n := o.phase % 65536
      let idx := o.arg 14 - ids.length
      let key := o.arg 5 + o.arg 6 * 2 ^ 32
      let s := objs.zipIdx.foldl (fun (t : State) x =>
        if o.arg 2 = 0 then t.emit (.hostWrite (o.arg (16 + idx) + x.2 * (durableChunk + 64)) x.1)
        else t.sendObject (o.arg 3 % 2 ^ 20) j b.lsid ((key + x.2) % 2 ^ 32) x.1) s
      let bytes := o.phase / 65536 + (objs.map List.length).foldl (· + ·) 0
      let s := { s with rebuilds := s.rebuilds.filter (fun x => !(x.job == j && x.use == 2 && x.lsid == b.lsid)) }
      if s.rebuilds.any (fun x => x.job == j && x.use == 2) then s.setPhaseOp o (n + 1 + bytes * 65536)
      else s.endDrain o stOk [o.arg 15, n + 1, bytes % 2 ^ 32, bytes / 2 ^ 32]

/-- OP_HASP_DRAIN (R340); `bufs` is the buffer list in host memory, one address for each shard in ascending order. -/
def execOpHaspDrain (f : Nat) (bufs : List Nat) (s : State) : Host.Outcome State Fault Refusal :=
  match s.submit f 6 with
  | (s, none) => .next s
  | (s, some o) =>
    let j := o.arg 0
    match (if j < 8 then s.run j else none) with
    | none => .next (s.abortArg o 0)
    | some r =>
      let e := if o.arg 1 = 0xFFFFFFFF then s.fld (HSP_J_EPOCH_EPOCH j) else o.arg 1
      if 2 ≤ o.arg 2 then .next (s.abortArg o 2)
      else if (s.restore j).isSome || s.haspOp j 8 || (s.ops.filter (fun x => x.op == 6 && x.arg 0 == j)).length > 1 then
        .next (s.endWith o stBusy [])
      else if (s.slotParts j).all (fun p => match s.slotOf p e with | some b => decide (s.slotState p b < 3) | none => true) then
        .next (s.abortArg o 1)
      else
        match r.group with
        | none => .next (s.abortArg o 0)
        | some g =>
          let l := s.placedHere j g
          let o' := { o with args := o.args ++ [l.length, e] ++ bufs }
          let s := { s with ops := s.ops.map (fun x => if x = o then o' else x) }
          let s := s.pinSlots j e 1
          if l.isEmpty then .next (s.endDrain o' stOk [e, 0, 0, 0])
          else .next (l.foldl (fun t x => t.startRebuild j r g x.1 x.2.1 x.2.2 2 e) s)

/-- DRAIN_TIMEOUT (R340). -/
def execDrainTimeout (j : Nat) (s : State) : Host.Outcome State Fault Refusal :=
  match s.ops.find? (fun o => o.op == 6 && o.arg 0 == j) with
  | some o => .next (s.endDrain o stTimeout [])
  | none => .next s

/-! ## Answers to HGET -/

/-- What a rebuild that has just ended or failed leads to. -/
def State.rebuildEnded (s : State) (j : Nat) (r : JobRun) (b : Rebuild) : State :=
  match b.use with
  | 2 => s.drainShard j r b
  | 1 => if b.failed then s.meetRollback j 7 else s
  | _ =>
    if !b.failed then s else
    match s.restore j with
    | some t => { (s.setRestore j none).endWith t.op stPoisoned [] with
        rebuilds := s.rebuilds.filter (fun x => !(x.job == j && x.use == 0)) }
    | none => s

/-- Units of a chunk for the rebuilds that asked for it. -/
def State.hgetPacket (s : State) (j rank lsid off : Nat) (l : List (Nat × Bool)) : State :=
  match s.run j with
  | none => s
  | some r =>
    match r.group with
    | none => s
    | some g =>
      (s.rebuilds.filter (fun b => b.job == j && b.lsid == lsid && b.img.isNone && !b.failed)).foldl (fun t b =>
        match b.cells.find? (fun c => c.rank == rank) with
        | none => t
        | some c =>
          if c.bad || c.whole then t else
          let c := c.take (off == b.home * 2 ^ 28 + t.cellUnit b.home b.stripe) l
          let c := if c.whole && !t.cellValid j b r.shape c then { c with bad := true } else c
          let b' := { b with cells := b.cells.map (fun x => if x.rank = rank then c else x) }
          let (t, b') := if c.bad || c.whole then t.stepRebuild j g b' else (t, b')
          let t := { t with rebuilds := t.rebuilds.map (fun x => if x = b then b' else x) }
          if b'.img.isSome || b'.failed then t.rebuildEnded j r b' else t) s

/-! ## Durable restore (R341) -/

/-- Whether one copy of a durable chunk is accepted. -/
def durableOk (job epoch shape lsid i n : Nat) (l : List Nat) : Bool :=
  let d := l.drop 64
  let len := mField l 32 4
  decide (64 ≤ l.length) && mField l 60 4 == crc32c (l.take 60) && mField l 0 4 == 0x48530002 && mField l 4 4 == job &&
    mField l 8 4 == epoch && mField l 20 4 == shape && mField l 16 3 == lsid && mField l 24 4 == i && mField l 28 4 == n &&
    decide (len ≤ durableChunk) && len == d.length && mField l 36 4 == crc32c d

/-- The image of a shard from its durable chunks, each with the copies that storage gives at up to four requests. -/
def durableImage (job epoch shape lsid : Nat) (chunks : List (List (List Nat))) : Option (List (Nat × Bool)) :=
  let n := chunks.length
  let got := chunks.zipIdx.map (fun x => (x.1.take 4).find? (durableOk job epoch shape lsid x.2 n))
  if n = 0 || got.any (·.isNone) then none
  else some (unitsOfBytes (got.flatMap (fun x => (x.getD []).drop 64)))

/-- Whether an image fits the entry it is for. -/
def State.imageFits (s : State) (p e : Nat) (img : List (Nat × Bool)) : Bool :=
  let (t, _, _) := ctlShape img
  let h := (img.headD (0, false)).1
  decide (t ≤ s.fld (CAM_HOST_W5_TWIN_SIZE p e)) && decide (bits h (8 * 0x1C) 32 ≤ s.fld (HSP_PLEN_PLEN p e)) &&
    decide (bits h (8 * 0x20) 32 ≤ s.fld (HSP_STRIPE_TPLEN p e))

/-- OP_DURABLE_RESTORE (R341); `objs` holds, for each shard, its durable chunks as storage answers each request. -/
def execOpDurableRestore (f : Nat) (objs : List (Nat × List (List (List Nat)))) (s : State) : Host.Outcome State Fault Refusal :=
  match s.submit f 8 with
  | (s, none) => .next s
  | (s, some o) =>
    let j := o.arg 0
    match (if j < 8 then s.run j else none) with
    | none => .next (s.abortArg o 0)
    | some r =>
      let e := o.arg 1
      if 2 ≤ o.arg 2 then .next (s.abortArg o 2)
      else if s.haspOp j 6 || (s.restore j).isSome then .next (s.endWith o stBusy []) else
      let l := sortKey (·.1) (r.groups.flatMap (fun g => s.placedHere j g))
      let imgs := l.map (fun x => (x, durableImage (s.fld (FAB_JOB_ID_JOB_ID j)) e r.shape x.1
        (((objs.find? (fun y => y.1 == x.1)).map (·.2)).getD [])))
      match imgs.find? (fun x => x.2.isNone) with
      | some x => .next (s.endWith o stPoisoned [e, x.1.1])
      | none =>
        if imgs.any (fun x => match x.2 with | some i => !s.imageFits x.1.2.1 x.1.2.2 i | none => false) then
          .next (s.endWith o stBadImage [e])
        else
          let s := (s.logsKeep j (fun _ => false)).loadEntries l
          let s := imgs.foldl (fun t x => match x.2 with
            | some i => (t.installImage x.1.2.1 x.1.2.2 i).setFld (CAM_HOST_W0_STATE x.1.2.1 x.1.2.2) 2
            | none => t) s
          let s := (s.slotParts j).foldl (fun t p => [false, true].foldl (fun u b => u.moveSlot j p b slEmpty) t) s
          let s := (s.setFld (HSP_J_EPOCH_EPOCH j) 0xFFFFFFFF).restart j e
          .next (s.endWith o stOk [e])

end Sys2Proof.Machine
end

