-- ==== Sys2Proof/Machine/Recovery.lean ====
section
/-! DEFINITION. Re-hosting, replay and rollback (chapter 12): heartbeats of a group, declarations and the cut, the recovery
hinge with its placement, the feeds of a replay, replica copies, rollback, and the deadbolt. -/
namespace Sys2Proof.Machine

/-! ## The deadbolt (R374, R375) -/

/-- Whether generation `g` is newer than `c` (R274). -/
def genNewer (g c : Nat) : Bool := g != c && !(decide (1 ≤ (c + 65536 - g) % 65536) && decide ((c + 65536 - g) % 65536 ≤ 32767))

/-- DEADBOLT to a module on the dead list, at most once per 10 ms (R374). -/
def State.deadbolt (s : State) (j gid : Nat) : State :=
  let last := storeGet 0 s.deadSent gid
  if last ≠ 0 && decide (s.ftime + 1 < last + 40000000) then s
  else
    let s := { s with deadSent := storeSet 0 s.deadSent gid (s.ftime + 1) }
    (s.gcount 0x223 1).sendCtl gid j ([0x36, j, 0, 0] ++ leBytes 3 gid ++ [0] ++ leBytes 2 (s.fld (FAB_JOB_GEN_GEN j)) ++ [0, 0] ++
      leBytes 4 (s.fld (FAB_JOB_ID_JOB_ID j)))

/-- A control message of a job on a module that runs: one from a module on the dead list is discarded and answered with
DEADBOLT (R374). -/
def State.control (s : State) (src j : Nat) (f : State → State) : State :=
  if s.boot ≠ .running then s else if s.isDead j src then s.deadbolt j src else f s

/-- The module enters FENCED (R375). -/
def State.enterFenced (s : State) (j gen jobId : Nat) : State :=
  let oldM := s.fld RCV_HEALTH_MODULE
  let s := ((((s.setFld RCV_FENCE_FENCED 1).setFld RCV_FENCE_JOB_FLD j).setFld RCV_FENCE_GEN gen).setFld RCV_FENCE_JOB_JOB_ID jobId)
  let ps := (List.range 8).filter (fun p => s.jobOf p < 8)
  let s := ps.foldl (fun t p => forRange 32 (fun e u => u.freeEntry p e) (forRange 4 (fun m u => u.ctxReset p (32 + m)) t)) s
  let s := { s with uhsDirty := true }.syncHealth
  let s := if oldM = s.fld RCV_HEALTH_MODULE then s else s.healthRec 0 0 oldM (s.fld RCV_HEALTH_MODULE) 4 0
  ((s.sbAlert alHealth).sbAlert alFenced).event RCV_FENCE_FENCED 0 j

/-- DEADBOLT (R375). -/
def execDeadbolt (src : Nat) (m : List Nat) (s : State) : Host.Outcome State Fault Refusal :=
  let j := mByte m 1 % 8
  let gen := mField m 8 2
  .next (s.control src j (fun s =>
    let s := s.gcount 0x224 1
    if s.flag RCV_FENCE_FENCED || mField m 4 3 % 2 ^ 20 ≠ s.gid || !s.slotLoaded j || !genNewer gen (s.fld (FAB_JOB_GEN_GEN j)) then s
    else s.enterFenced j gen (mField m 12 4)))

/-! ## Heartbeats of a group (R347) -/

/-- GHB_SEND: to every other member. -/
def execGhbSend (j : Nat) (s : State) : Host.Outcome State Fault Refusal :=
  match s.run j with
  | none => .next s
  | some r =>
    match r.group with
    | none => .next s
    | some g =>
      let m := [0x30, j, 0, 0] ++ leBytes 4 r.step ++ leBytes 3 g.live
      .next ((g.liveGids.filter (· != s.gid)).foldl (fun t x => t.sendCtl x j m) s)

/-- GHB. -/
def execGhb (src : Nat) (m : List Nat) (s : State) : Host.Outcome State Fault Refusal :=
  let j := mByte m 1 % 8
  .next (s.control src j (fun s => { s with
    ghbAt := s.ghbAt.filter (fun x => !(x.1 == j && x.2.1 == src)) ++ [(j, src, s.ftime)],
    silent := s.silent.filter (fun x => !(x.1 == j && x.2.1 == src)) }))

/-- Whether a member has been silent for GHB_MISS periods. -/
def State.isSilent (s : State) (j gid : Nat) : Bool :=
  match s.ghbAt.find? (fun x => x.1 == j && x.2.1 == gid) with
  | some x => decide (x.2.2 + max 1 (s.fld RCV_CFG_GHB_MISS) * max 1 (s.fld RCV_CFG_GHB_PERIOD) * 4000000 ≤ s.ftime)
  | none => true

/-- GHB_MISS: the Keeper reports a silent member to management. -/
def execGhbMiss (j gid : Nat) (s : State) : Host.Outcome State Fault Refusal :=
  match (s.run j).bind (·.group) with
  | none => .next s
  | some g =>
    if gid = s.gid || !g.liveGids.contains gid || !s.isSilent j gid || s.silent.any (fun x => x.1 == j && x.2.1 == gid) then .next s
    else .next ({ s with silent := s.silent ++ [(j, gid, s.ftime)] }.emit (.report 2 j [gid]))

/-- SILENCE_REPORT_REPEAT: every second while the silence lasts. -/
def execSilenceReportRepeat (j gid : Nat) (s : State) : Host.Outcome State Fault Refusal :=
  match s.silent.find? (fun x => x.1 == j && x.2.1 == gid) with
  | none => .next s
  | some x =>
    if s.ftime < x.2.2 + 4000000000 then .next s
    else .next ({ s with silent := s.silent.filter (fun y => y != x) ++ [(j, gid, s.ftime)] }.emit (.report 2 j [gid]))

/-! ## Declarations (R345, R348) -/

/-- Group of a module. -/
def JobRun.groupOf (r : JobRun) (gid : Nat) : Option ContGroup :=
  r.groups.find? (fun g => g.liveGids.contains gid)

/-- Shards that the rekey table places on a module, ascending. -/
def State.shardsOn (s : State) (j : Nat) (g : ContGroup) (gid : Nat) : List ShardInfo :=
  sortKey (·.lsid) (g.shards.filter (fun x => match s.rekey j x.lsid with | some w => rkGid w == gid | none => false))

/-- Whether a shard's replica is hosted on a module that is neither lost nor dead. -/
def State.replicaLives (s : State) (j lost : Nat) (x : ShardInfo) : Bool :=
  match s.rekey j x.replica with
  | some w => rkGid w != lost && !s.isDead j (rkGid w)
  | none => false

/-- Whether the group has a usable epoch with one member's chunks missing, judged by the newest committed epoch and the
live mask in its slot headers (R345). -/
def State.epochStands (s : State) (j : Nat) (g : ContGroup) : Bool :=
  let e := s.fld (HSP_J_EPOCH_EPOCH j)
  e != 0xFFFFFFFF && g.homes.any (fun p =>
    match s.slotOf p e with
    | some b => match s.slotRegion p b with
      | some (base, _) => bits (s.rdBytes (64 * hbmDatum p base) 64) 160 17 == g.live
      | none => false
    | none => false)

/-- Whether some lost shard of the group resolves to ROLLBACK at the cut. -/
def State.resolvesRollback (s : State) (j lost : Nat) (g : ContGroup) : Bool :=
  (s.shardsOn j g lost).any (fun x =>
    if x.path = 1 && s.replicaLives j lost x then false
    else x.path == 3 || !s.epochStands j g)

/-- HFAULT (Table 11.7). -/
def hfaultMsg (j lost gen : Nat) (rb : Bool) (t : Nat) : List Nat :=
  [0x25, j, 0, 0, 0, 0, 0, 0] ++ leBytes 4 lost ++ leBytes 2 gen ++ [if rb then 1 else 0, 0] ++ leBytes 8 t

/-- RCUT (Table 12.2). -/
def rcutMsg (j lost gen k : Nat) (rb : Bool) : List Nat :=
  [0x31, j, 0, 0] ++ leBytes 3 lost ++ [0] ++ leBytes 2 gen ++ [0, 0] ++ leBytes 4 k ++ [if rb then 1 else 0, 0, 0, 0]

/-! ## Rollback (R363, R369) -/

/-- What every module does when the job rolls back: entries to LOADING, divert bits clear, feeds and rebuilds stop. -/
def State.globalRollback (s : State) (j cause : Nat) : State :=
  match s.run j with
  | none => s
  | some r =>
    let s := if r.genUp then s else s.gcount 0x222 1
    let s := s.noteRollback j cause
    let es := s.jobEntries j (fun st => st != 0)
    let s := es.foldl (fun t x => (((t.discard x.1 x.2).setFld (CAM_HOST_W0_STATE x.1 x.2) 1).setFld ⟨CAM_KILLED x.1, x.2, 1⟩ 0)) s
    let s := s.clearRegs (RCV_J_DIVERT j 0) 2048
    { s with feeds := s.feeds.filter (fun f => f.job != j), rcopy := s.rcopy.filter (fun c => c.job != j),
             rebuilds := s.rebuilds.filter (fun b => !(b.job == j && b.use == 1)) }.updRun j (fun r => { r with genUp := true })

/-- RABORT (R363): up to the root, from the root down the whole tree. -/
def execRabort (src : Nat) (m : List Nat) (s : State) : Host.Outcome State Fault Refusal :=
  let j := mByte m 1 % 8
  .next (s.control src j (fun s =>
    if (s.run j).isNone then s
    else if s.isRoot j || s.jobUp j = some src then (s.sendDown j m).globalRollback j (mByte m 8 % 16)
    else s.sendUp j m))

/-! ## Placement (R354) -/

/-- A shard's new place: original rank, partition, entry; none where no headroom slot is free. -/
def placeShard (l : List (Nat × Nat)) (headroom used : List (Nat × Nat × Nat)) (i : Nat) : Option (Nat × Nat × Nat) :=
  (List.range l.length).findSome? (fun t =>
    let q := l.getD ((i + t) % l.length) (0, 0)
    headroom.find? (fun x => x.1 == q.1 && x.2.1 == q.2 && !used.contains x))

/-- Survivor partitions of L: by original rank, then partition. -/
def survivorList (g : ContGroup) : List (Nat × Nat) :=
  (liveRanks g.live).flatMap (fun r => ((List.range 8).filter (fun p => g.headroom.any (fun x => x.1 == r && x.2.1 == p))).map (fun p => (r, p)))

/-- Places of the lost shards in order; none where one of them finds no slot. -/
def placeAll (g : ContGroup) (shards : List ShardInfo) : Option (List (ShardInfo × Nat × Nat × Nat)) :=
  let l := survivorList g
  (shards.zipIdx.foldl (fun (a : Option (List (ShardInfo × Nat × Nat × Nat) × List (Nat × Nat × Nat))) x =>
    a.bind (fun a => (placeShard l g.headroom a.2 x.2).map (fun q => (a.1 ++ [(x.1, q)], a.2 ++ [q])))) (some ([], g.used))).map (·.1)

/-- A rekey entry in both banks (R353). -/
def State.writeRekey (s : State) (j lsid gid part entry : Nat) : State :=
  let a := FLW_REKEY j (lsid % 65536)
  let w := lsid + gid * 2 ^ 24 + part * 2 ^ 44 + entry * 2 ^ 48 + 2 ^ 53
  let s := { s with tblBad := storeClear s.tblBad a 8 }
  (s.setReg64 a w).setReg64 (act a) w

/-- STRETCH of a group after a recovery (R355). -/
def stretchOf (hmax h : Nat) : Nat := min 0x4000 (max 0x1000 ((4096 * hmax + max 1 h - 1) / max 1 h))

/-- Most shards of the group that one partition hosts by the rekey table. -/
def State.groupHmax (s : State) (j : Nat) (g : ContGroup) : Nat :=
  let places := g.shards.filterMap (fun x => (s.rekey j x.lsid).map (fun w => (rkGid w, rkPart w)))
  places.foldl (fun m x => max m (places.filter (· == x)).length) 0

/-! ## The cut (R350, R351) -/

/-- Divert bits of every shard placed on the lost module. -/
def State.divertLost (s : State) (j lost : Nat) (r : JobRun) : State :=
  (r.groups.flatMap (fun g => s.shardsOn j g lost)).foldl (fun t x =>
    t.setFld ⟨(RCV_J_DIVERT_DIVERT j (x.lsid % 65536 / 32)).addr, x.lsid % 32, 1⟩ 1) s

/-- Whether a send flow of the job is not yet quiet: OUTSTANDING, or a formed packet waiting (R350 step 4). -/
def State.flowsBusy (s : State) (j : Nat) : Bool :=
  (s.jobFlows j).any (fun n => s.fld (fcKind n) == 1 && (s.fld (fcOut n) != 0 || s.txq.any (fun x => x.flow == some n && x.port.isNone) ||
    s.intq.any (fun x => x.flow == some n)))

/-- Whether the job's issued commands and its send flows have come to rest. -/
def State.quietNow (s : State) (j : Nat) : Bool :=
  !s.inflight.any (fun i => s.jobOf i.part == j && !isRing i.ctx) && !s.flowsBusy j

/-- A hold notice up the tree (R181). -/
def State.sendHold (s : State) (j : Nat) : State :=
  match s.run j with
  | none => s
  | some r =>
    let s := ((s.setPhase j 3).hingeTrace j 3 r.step 0).updRun j (fun r => { r with holdOwn := true, sent := false })
    match s.jobUp j with
    | some g => s.sendCtl g j (holdMsg j r.step)
    | none => s

/-- Item 3 at a recovery hinge: the generation, the live mask, the dead list (R353, R374). -/
def State.recoverGen (s : State) (j : Nat) (c : Cut) : State :=
  let s := s.setFld (FAB_JOB_GEN_GEN j) c.gen
  let s := s.updRun j (fun r => { r with
    groups := r.groups.map (fun g => match g.rankOf c.lost with
      | some rank => if bitAt g.live rank then { g with live := g.live - 2 ^ rank, used := g.used.filter (fun x => x.1 != rank) } else g
      | none => g),
    cut := r.cut.map (fun c => { c with genDone := true }) })
  let s := s.setFld (HSP_J_LIVE_LIVE j) ((((s.run j).bind (·.group)).map (·.live)).getD 0)
  let w : Word := BitVec.ofNat 32 (c.lost + 2 ^ 20)
  match (List.range 16).find? (fun i => !s.flag (RCV_J_DEAD_VALID j i)) with
  | some i => s.setReg (RCV_J_DEAD j i) w
  | none => (forRange 15 (fun i t => t.setReg (RCV_J_DEAD j i) (t.reg (RCV_J_DEAD j (i + 1)))) s).setReg (RCV_J_DEAD j 15) w

/-- A table image that waits is not applied at a recovery hinge (R500). -/
def State.dropImage (s : State) (j : Nat) : State :=
  match (s.run j).bind (·.img) with
  | none => s
  | some i =>
    let s := s.endOps (fun o => o.op == 3 && o.arg 0 == j) stAborted []
    let s := (slotBanks j).foldl (fun t x => t.copyBank x.1 x.2) s
    let s := if i.dest then (destBanks.foldl (fun t x => t.copyBank x.1 x.2) s).setFld FAB_TBL_CTRL_DEST_ARM 0 else s
    let s := (s.setFld ⟨FAB_TBL_CTRL, j, 1⟩ 0).setFld (BIT_SLOT_STATE_TABLE_ARMED j) 0
    s.updRun j (fun r => { r with img := none })

/-- The tables that are armed, and the new job tree, swap at item 4. -/
def State.recoverSwap (s : State) (j : Nat) (c : Cut) : State :=
  let s := if !s.swapArmed j then s else if s.swapOk j then s.swapTables j [] else s.rejectSwap j
  if !c.tree then s else
    let s := (s.swapBank (BCT_JHDR_W0 j) 2).swapBank (BCT_JREL j 0) 587
    let s := (s.copyBank (BCT_JHDR_W0 j) 2).copyBank (BCT_JREL j 0) 587
    let s := s.updRun j (fun r => { r with up := none, kidsLost := [], kidsAdopted := [] })
    let root := s.isRoot j
    let s := s.setFld (HSP_J_CFG_ROOT j) (if root then 1 else 0)
    -- a new root starts from MTBF, C of 0.1 s and the next step (R336)
    if !root then s else
      ((((s.setFld (HSP_J_MTBF_CUR_M j) (s.fld (HSP_J_MTBF_MTBF_S j))).setFld (HSP_J_COST_C j) 100000).setFld
        (HSP_J_STEPT_TSTEP j) 0).updRun j (fun r => { r with prevT := 0, gaps := [], failures := [], failAt := s.ftime }))

/-- The flow contexts of a re-hosted shard (R346, R353); beyond the quota its re-host ends with QUOTA (R265). -/
def State.installShardFlows (s : State) (j : Nat) (x : ShardInfo) : State :=
  let new := (x.flows.filter (fun f => s.fld (fcKind f.1) == 0)).length
  let q := s.fld (FAB_JOB_FLOW_FLOW_QUOTA j)
  if q ≠ 0 && decide (q < s.fld (FAB_JOB_FLOW_FLOW_USED j) + new) then
    (s.endOps (fun o => o.op == 9 && o.arg 0 == j) stQuota []).setFld (RCV_J_STATUS_LAST_CODE j) stQuota
  else ((x.flows.foldl (fun t f => t.writeFlow f.1 f.2) s).countFlows j).assignPlanes j

/-- FSYNC for every flow between a shard that this module hosts and a replica's target (R368). -/
def State.sendFsync (s : State) (j gid : Nat) (x : ShardInfo) : State :=
  x.flows.foldl (fun t f =>
    let w0 := f.2.getD 0 0
    let other := if w0 % 4 = 1 then f.2.getD 2 0 % 2 ^ 24 else f.2.getD 1 0 % 2 ^ 24
    let here := match t.rekey j other with | some w => rkGid w == t.gid | none => false
    if !here then t
    else if w0 % 4 = 1 then
      let n := f.2.getD 3 0 % 16384
      t.sendCtl gid j ([0x35, j, 0, 0] ++ leBytes 2 f.1 ++ [0, 0] ++ leBytes 3 (t.fld (fcSeq n)) ++ [0, 1, 0, 0, 0])
    else
      match (t.jobFlows j).find? (fun n => t.fld (fcKind n) == 1 && t.fld (fcDst n) == x.lsid && t.fld (fcPeer n) == f.1) with
      | some n => t.sendCtl gid j ([0x35, j, 0, 0] ++ leBytes 2 f.1 ++ [0, 0] ++ leBytes 3 (t.fld (fcSeq n)) ++ [0, 0, 0, 0, 0])
      | none => t) s

/-- One lost shard at item 4: its rekey entry, and on its new host the entry, its flows and the start of its recovery. -/
def State.rehostShard (s : State) (j : Nat) (g : ContGroup) (replica rollback : Bool) (x : ShardInfo) (rank p e : Nat) : State :=
  let gid := g.gidOf rank
  let rw := s.rekey j x.replica
  let s := s.writeRekey j x.lsid gid p e
  let s := s.updRun j (fun r => { r with groups := r.groups.map (fun y =>
    if y.members = g.members then { y with used := y.used ++ [(rank, p, e)] } else y) })
  let s := if replica && !rollback then s.sendFsync j gid x else s
  if gid ≠ s.gid then s else
  let s := (s.setFld (CAM_HOST_W0_LSID p e) x.lsid).setFld (CAM_HOST_W0_STATE p e) 1
  let s := (s.setFld (CAM_HOST_W6_STEP p e) 0).setFld (CAM_HOST_W7_POS p e) 0
  let s := (((s.setFld (HSP_PLEN_PLEN p e) x.plen).setFld (HSP_STRIPE_STRIPE p e) x.stripe).setFld (HSP_STRIPE_HOME_PART p e) x.home).setFld
    (HSP_STRIPE_TPLEN p e) x.tplen
  let s := s.installShardFlows j x
  if rollback then s
  else if replica then
    let s := { s with rcopy := s.rcopy ++ [⟨j, x.lsid, p, e, x.plen + x.tplen⟩] }
    match rw with
    | some w => s.sendCtl (rkGid w) j ([0x34, j, 0, 0] ++ leBytes 3 x.replica ++ [0] ++ leBytes 3 x.lsid ++ [0])
    | none => s
  else
    let s := if x.path = 1 then s.setFld (RCV_J_STATUS_REPLICA_FELL_BACK j) 1 else s
    let ep := s.fld (HSP_J_EPOCH_EPOCH j)
    if ep = 0xFFFFFFFF then s.meetRollback j 7
    else
      match s.run j with
      | some r => match r.group with
        | some g => (s.setFld (RCV_J_REPLAY_EPOCH j) ep).startRebuild j r g x.lsid p e 1 ep
        | none => s
      | none => s

/-- PARKED entries enter REPLAY and resume step k: their updates use the history record of step k (R353, R360). -/
def State.resumeParked (s : State) (j : Nat) : State :=
  (s.jobEntries j (fun st => st == 4)).foldl (fun t x =>
    let t := t.setFld (CAM_HOST_W0_STATE x.1 x.2) 3
    let step := t.fld (CAM_HOST_W6_STEP x.1 x.2)
    match t.histRead x.1 step with
    | some l => { t with replayEta := storeSet [] t.replayEta (32 * x.1 + x.2) l }
    | none => (((t.flagN (UPD_STATUS_HIST_MISS x.1) x.1 0x12E 1).detect (unitId x.1 0xC) 7 0 0xFFFFFF x.2 0 0 j
        (4 + step * 2 ^ 32)).meetRollback j 3)) s

/-- Whether the module or one it has heard of parked an entry at the cut. -/
def State.anyParked (s : State) (j : Nat) : Bool := !(s.jobEntries j (fun st => st == 4)).isEmpty

/-- What happens where no headroom slot is free: HOLD (R356). -/
def State.enterHold (s : State) (j : Nat) : State :=
  let s := s.setFld (RCV_J_STATUS_PHASE j) 3
  if s.ops.any (fun o => o.op == 9 && o.arg 0 == j) then
    (s.endOps (fun o => o.op == 9 && o.arg 0 == j) stNoHeadroom []).setFld (RCV_J_STATUS_LAST_CODE j) stNoHeadroom
  else s

/-- State of a replica for its copy: its units in order (R368). -/
def State.replicaUnits (s : State) (p e : Nat) : List (Nat × Bool) :=
  (List.range (s.fld (HSP_PLEN_PLEN p e))).map (fun i => s.unitAt (s.stateDatum p e i)) ++
    (List.range (s.fld (HSP_STRIPE_TPLEN p e))).map (fun i => s.unitAt (s.sliceDatum p e i))

/-- An RCOPY is answered once the replica has completed step k. -/
def State.answerRcopy (s : State) (src : Nat) (m : List Nat) : State :=
  let j := mByte m 1 % 8
  match (s.run j).bind (·.group), s.rekey j (mField m 4 3) with
  | some g, some w =>
    match g.rankOf src with
    | some rank => if rkGid w = s.gid then
        s.sendContUnits j rank src 2 (mField m 8 3) 0 0 (s.replicaUnits (rkPart w) (rkEntry w)) else s
    | none => s
  | _, _ => s

/-- SEQ or EXPECT of a re-hosted shard's flow from its peer (R368). -/
def State.applyFsync (s : State) (m : List Nat) : State :=
  let n := mField m 4 2 % 16384
  let s := s.setFld (fcSeq n) (mField m 8 3)
  if mByte m 12 = 0 then s.setFcWindow n 0 else s

/-- Messages of replica copies that waited for the recovery hinge here. -/
def State.drainRecovery (s : State) (j : Nat) : State :=
  let l := s.rcopyAsked.filter (fun x => mByte x.2 1 % 8 == j)
  l.foldl (fun t x => if mByte x.2 0 = 0x34 then t.answerRcopy x.1 x.2 else t.applyFsync x.2)
    { s with rcopyAsked := s.rcopyAsked.filter (fun x => mByte x.2 1 % 8 != j) }

/-- Item 4 of a recovery hinge. `peers` says that another module of the job parked an entry. Answers whether every lost
shard found a place. -/
def State.recoverPlace (s : State) (j : Nat) (c : Cut) (peers : Bool) : State × Bool :=
  let s := s.recoverSwap j c
  match s.run j with
  | none => (s, true)
  | some r =>
    let rollback := c.rollback || c.late || s.fld (RCV_J_STATUS_PHASE j) == 4
    let lost := r.groups.filterMap (fun g =>
      let l := s.shardsOn j g c.lost
      if l.isEmpty then none else some (g, l))
    match lost.find? (fun x => (placeAll x.1 x.2).isNone) with
    | some _ => (s, false)
    | none =>
      let parked := peers || s.anyParked j
      let s := lost.foldl (fun t x => ((placeAll x.1 x.2).getD []).foldl (fun u y =>
        u.rehostShard j x.1 (y.1.path == 1 && !parked && u.replicaLives j c.lost y.1) rollback y.1 y.2.1 y.2.2.1 y.2.2.2) t) s
      let s := match r.group with
        | some g => if lost.any (fun x => x.1.members == g.members) then
            (s.slotParts j).foldl (fun t p => t.setFld (CAM_STRETCH_STRETCH p) (stretchOf (s.groupHmax j g) r.h)) s else s
        | none => s
      (if rollback then s else s.resumeParked j, true)

/-- The rest of the recovery once every shard has its place: PHASE, EARLY, the hold notice, or the rollback. -/
def State.recoverOn (s : State) (j : Nat) (c : Cut) : State :=
  let s := s.freezeStretch j
  let s := s.updRun j (fun r => { r with early := true, earlyCont := [], cut := r.cut.map (fun c => { c with hinged := true }) })
  if c.rollback || c.late || s.fld (RCV_J_STATUS_PHASE j) = 4 then
    if s.fld (RCV_J_STATUS_PHASE j) = 4 then s else s.meetRollback j (if c.rollback then 1 else 2)
  else
    let s := s.setFld (RCV_J_STATUS_PHASE j) 2
    let s := match s.run j with
      | some r => if s.replayPending j r then s.sendHold j else s
      | none => s
    (s.drainRecovery j).trySendReady j

/-- Items 3 and 4 with what follows them. -/
def State.recover (s : State) (j : Nat) (c : Cut) (peers : Bool) : State :=
  let s := if c.genDone then s else (s.dropImage j).recoverGen j c
  let (s, ok) := s.recoverPlace j c peers
  if ok then s.recoverOn j c else (s.enterHold j).sendHold j

/-- The recovery hinge of a module that had not arrived (R353). -/
def State.recoveryHinge (s : State) (j dynJ : Nat) (c : Cut) (peers : Bool) (r : JobRun) : State :=
  let clock := s.fld (CLK_J_CUR_MHZ j)
  let s := ((s.slotParts j).foldl State.endStep s).flipSlots j
  let s := (s.dropImage j).recoverGen j c
  let (s, ok) := s.recoverPlace j c peers
  let s := s.item5 j r
  let s := (s.item6 j dynJ).hingeGuards j
  let s := s.item7 j (r.step + 1)
  let s := (s.markArrived j clock r).takeEarly j
  if ok then s.recoverOn j c else (s.enterHold j).sendHold j

/-- The cut (R350), or at a module that has arrived the recovery items at once (R351). -/
def State.takeCut (s : State) (j lost gen : Nat) (rb tree peers : Bool) : State :=
  match s.run j with
  | none => s
  | some r =>
    match r.cut with
    | some c => if c.lost = lost then s else s.meetRollback j 6
    | none =>
      let now := r.arrived && lost != 0
      let c : Cut := ⟨lost, gen, r.step, rb, s.ftime, 0, now, false, tree, false⟩
      let s := (s.gcount 0x221 1).setFld (RCV_J_TARGET_STEP j) r.step
      let s := if lost = 0 then s else
        ((s.setFld (RCV_J_LOST_GID j) lost).setFld (RCV_J_LOSSES_GEN j) gen).setFld (RCV_J_LOSSES_COUNT j)
          (min 65535 (s.fld (RCV_J_LOSSES_COUNT j) + 1))
      let s := (s.abandonSet j).setFld (RCV_J_STATUS_PHASE j) 1
      let s := s.divertLost j lost r
      if now then
        (s.updRun j (fun r => { r with cut := some c, sent := false })).recover j c peers
      else
        let s := (s.jobEntries j (fun st => st == 2)).foldl (fun t x =>
          if t.entryDone x.1 x.2 r.step then t else t.setFld (CAM_HOST_W0_STATE x.1 x.2) 4) s
        s.updRun j (fun r => { r with cut := some c, sent := false })

/-! ## Rows of the cut -/

/-- RCUT (R348, R350): from the parent, on to every child; `peers` says that another module of the job is known to have
parked an entry. -/
def execRcut (src : Nat) (m : List Nat) (peers : Bool) (s : State) : Host.Outcome State Fault Refusal :=
  let j := mByte m 1 % 8
  .next (s.control src j (fun s =>
    match s.run j with
    | none => s
    | some r =>
      let own := s.isRoot j && src == s.gid
      if !own && s.jobUp j ≠ some src then s
      else if mField m 12 4 ≠ r.step then s.sendDown j m
      else (s.sendDown j m).takeCut j (mField m 4 3 % 2 ^ 20) (mField m 8 2) (bitAt (mByte m 16) 0) false peers))

/-- HFAULT (R336, R345, R348): counted on its way to the root, which sends RCUT down the tree. -/
def execHfault (src : Nat) (m : List Nat) (s : State) : Host.Outcome State Fault Refusal :=
  let j := mByte m 1 % 8
  .next (s.control src j (fun s =>
    match s.run j with
    | none => s
    | some r =>
      let lost := mField m 8 4 % 2 ^ 20
      let gen := mField m 12 2
      let t := mField m 16 8
      let s := s.updRun j (fun r => { r with faults := r.faults + 1, faultAt := max r.faultAt t })
      if !s.isRoot j then s.sendUp j m
      else
        let s := if r.failures.contains (lost, gen) then s else
          (s.updRun j (fun r => { r with failures := r.failures ++ [(lost, gen)] })).countFailure j t
        let new := (s.fld (FAB_JOB_GEN_GEN j) + 1) % 65536
        let rb := bitAt (mByte m 14) 0
        match r.cut with
        | some c => if c.lost = lost then s else s.meetRollback j 6
        | none =>
          let s := s.sendDown j (rcutMsg j lost new r.step rb)
          s.takeCut j lost new rb false false))

/-- CUT_TIMEOUT (R350). -/
def execCutTimeout (j : Nat) (s : State) : Host.Outcome State Fault Refusal :=
  match (s.run j).bind (·.cut) with
  | none => .next s
  | some c =>
    if c.hinged || c.late || decide (s.ftime < c.since + s.fld RCV_CFG1_CUT_TIMEOUT * 4000000) then .next s
    else
      let s := (s.setFld (RCV_J_STATUS_CUT_TIMEOUT_SEEN j) 1).updRun j (fun r => { r with cut := r.cut.map (fun c => { c with late := true }) })
      .next (s.meetRollback j 2)

/-- A Dorounte cut at its hinge (R378): where no entry of the job completed an update command in step k, the table image
applies and every entry restarts step k; otherwise the image is not applied and the job waits for a durable restore. -/
def State.dorounteHinge (s : State) (j dynJ : Nat) (peers : Bool) (r : JobRun) : State :=
  let clock := s.fld (CLK_J_CUR_MHZ j)
  let upd := peers || storeGet false s.updDone j
  let s := if r.arrived then s else ((s.slotParts j).foldl State.endStep s).flipSlots j
  if upd then
    let s := s.dropImage j
    let s := (s.jobEntries j (fun st => st != 0)).foldl (fun t x => (t.discard x.1 x.2).setFld (CAM_HOST_W0_STATE x.1 x.2) 1) s
    (s.setFld (RCV_J_STATUS_PHASE j) 4).updRun j (fun r => { r with cut := none })
  else
    let s := s.items34 j r
    let s := (s.jobEntries j (fun st => st == 4)).foldl (fun t x => t.setFld (CAM_HOST_W0_STATE x.1 x.2) 2) s
    let s := s.item5 j r
    let s := (s.item6 j dynJ).hingeGuards j
    -- tumblers stand where step k found them; tumbler 0 keeps the bump of its latch
    let s := (s.jobEntries j (fun st => st == 2)).foldl (fun t x =>
      let w := t.tumWin x.1 x.2
      forRange (w.2 - 1) (fun i u => u.setFld (TMB_VALUE_VALUE x.1 (w.1 + 1 + i)) (u.fld (TMB_SNAP_SNAP x.1 (w.1 + 1 + i)))) t) s
    let s := (s.freezeStretch j).setFld (RCV_J_STATUS_PHASE j) 0
    let s := s.updRun j (fun r => { r with step := (r.step + 2 ^ 32 - 1) % 2 ^ 32, cut := none, notices := [], holds := [] })
    match s.run j with
    | some r => ((s.markArrived j clock r).takeEarly j).trySendReady j
    | none => s

/-- RECOVERY_HINGE_ARRIVAL (R350, R353, R378): once the commands and flows of the slot are quiet, and QUIESCE_US later. `peers`
is what the job's other modules report: a parked entry, or at a Dorounte cut a completed update command. -/
def execRecoveryHingeArrival (j dynJ : Nat) (peers : Bool) (s : State) : Host.Outcome State Fault Refusal :=
  match s.run j with
  | none => .next s
  | some r =>
    match r.cut with
    | none => .next s
    | some c =>
      if c.hinged || c.genDone || (r.arrived && c.lost != 0) || s.flag RCV_FENCE_FENCED || !s.quietNow j then .next s
      else
        let q := if c.quiet = 0 then s.ftime + 1 else c.quiet
        let c := { c with quiet := q }
        let s := s.updRun j (fun r => { r with cut := some c })
        if s.ftime + 1 < q + s.fld RCV_CFG_QUIESCE_US * 4000 then .next s
        else if c.lost = 0 then .next (s.dorounteHinge j dynJ peers r)
        else .next (s.recoveryHinge j dynJ c peers { r with cut := some c })

/-! ## OP_REHOST (R348, R356) -/

/-- Added modules take the lowest free original ranks of the lost module's group. -/
def addMembers (g : ContGroup) (l : List Nat) : ContGroup :=
  l.foldl (fun g x =>
    match (List.range 17).find? (fun r => !bitAt g.live r) with
    | some r => { g with members := (List.range 17).map (fun i => if i = r then x else g.members.getD i 0),
                         live := g.live + 2 ^ r, used := g.used.filter (fun y => y.1 != r) }
    | none => g) g

/-- A module that joins again leaves the dead list. -/
def State.undead (s : State) (j g : Nat) : State :=
  forRange 16 (fun n t => if t.flag (RCV_J_DEAD_VALID j n) && t.fld (RCV_J_DEAD_GID j n) == g then t.setReg (RCV_J_DEAD j n) 0 else t) s

/-- The second re-host of a job in HOLD. -/
def State.endHold (s : State) (j : Nat) (c : Cut) (added : List Nat) (peers : Bool) : State :=
  let s := s.updRun j (fun r => { r with groups := r.groups.map (fun g =>
    if (s.shardsOn j g c.lost).isEmpty then g else addMembers g added) })
  let s := s.setFld (HSP_J_LIVE_LIVE j) ((((s.run j).bind (·.group)).map (·.live)).getD 0)
  ((added.foldl (fun t g => t.undead j g) s).setFld (RCV_J_STATUS_PHASE j) 2).recover j c peers

/-- The new job tree into the shadow bank (R348), from module HBM in the layout of the registers. -/
def State.loadTree (s : State) (j index addr : Nat) : State :=
  let w (i : Nat) : Word := BitVec.ofNat 32 (s.rdBytes (addr + 4 * i) 4)
  let t := ((s.setReg (BCT_JHDR_W0 j) (w 0)).setReg (BCT_JHDR_W1 j) (w 1)).setFld (BCT_JHDR_W0_INDEX j) index
  forRange 587 (fun e u => u.setReg (BCT_JREL j e) (w (2 + e))) t

/-- OP_REHOST; `added` are the identifiers of the added modules in host memory, `peers` as at the recovery hinge. -/
def execOpRehost (f : Nat) (added : List Nat) (peers : Bool) (s : State) : Host.Outcome State Fault Refusal :=
  match s.submit f 9 with
  | (s, none) => .next s
  | (s, some o) =>
    let j := o.arg 0
    let lost := o.arg 1 % 2 ^ 20
    match (if j < 8 then s.run j else none) with
    | none => .next (s.abortArg o 0)
    | some r =>
      let hold := match r.cut with
        | some c => if s.fld (RCV_J_STATUS_PHASE j) = 3 && c.lost = lost then some c else none
        | none => none
      match hold with
      | some c =>
        if 16 < o.arg 2 then .next (s.abortArg o 2) else
        .next (s.endHold j c (added.take (o.arg 2)) peers)
      | none =>
        match r.groupOf lost with
        | none => .next (if (r.cut.map (·.lost)) = some lost then s else s.abortArg o 1)
        | some g =>
          if 16 < o.arg 2 then .next (s.abortArg o 2)
          else if o.arg64 6 ≠ 0 && hbmBytes < o.arg64 6 + 8 + 4 * 587 then .next (s.abortArg o 6) else
          let s := s.gcount 0x220 1
          if (match r.cut with | some c => c.lost != lost | none => false) then .next (s.meetRollback j 6)
          else
            let rb := s.resolvesRollback j lost g
            let gen := (s.fld (FAB_JOB_GEN_GEN j) + 1) % 65536
            let s := s.abandonSet j
            if o.arg64 6 ≠ 0 then
              .next ((s.loadTree j (o.arg 5) (o.arg64 6)).takeCut j lost gen rb true peers)
            else
              let lead := (g.liveGids.filter (· != lost)).headD 0
              if lead = s.gid && r.cut.isNone then
                .next (s.sendCtl ((s.jobUp j).getD s.gid) j (hfaultMsg j lost (s.fld (FAB_JOB_GEN_GEN j)) rb s.ftime))
              else .next s

/-! ## Replay (R359, R362, R367) -/

/-- REPLAY_REBUILD_COMPLETE (R359): the image into the headroom slot; REPLAY, or LOADING at STEP k + 1 where e = k. -/
def execReplayRebuildComplete (j lsid : Nat) (s : State) : Host.Outcome State Fault Refusal :=
  match s.rebuilds.find? (fun b => b.job == j && b.lsid == lsid && b.use == 1) with
  | none => .next s
  | some b =>
    match b.img with
    | none => .next s
    | some img =>
      if s.fld (RCV_J_STATUS_PHASE j) ≠ 2 then .next s else
      let s := { s with rebuilds := s.rebuilds.filter (fun x => x != b) }.installImage b.part b.entry img
      if b.epoch = s.fld (RCV_J_TARGET_STEP j) then .next (s.trySendReady j)
      else .next ((s.setFld (CAM_HOST_W0_STATE b.part b.entry) 3).replayStart b.part b.entry)

/-- Records of a partition's log with their position: header, STEP, send context, payload with its poison, and whether the
CRC holds. -/
def State.logScan (s : State) (p : Nat) : List (Nat × Nat × Nat × List Nat × Nat × Bool) :=
  let used := s.logUsed p
  (s.logRecords p (s.fld (RCV_LOG_HEAD_HEAD p)) used used).map (fun x =>
    let h := (x.2.headD (0, false)).1
    let us := x.2.drop 1
    let pay := (us.flatMap (fun y => leBytes 64 y.1)).take (Hdr.dec h).len
    let whole := us.flatMap (fun y => leBytes 64 y.1)
    (h % 2 ^ 256, x.1, bits h 288 16, pay, maskOf (us.map (·.2)),
      bits h 480 32 == crc32c (leBytes 60 (h % 2 ^ 480) ++ pay) || bits h 480 32 == crc32c (leBytes 60 (h % 2 ^ 480) ++ whole)))

/-- The records of a job's logs that a test accepts are sent again in log order; a record whose CRC fails rolls the job
back (R363). Answers whether there was one. -/
def State.feedAll (s : State) (j : Nat) (f : Nat → Nat → Nat → Bool) : State × Bool :=
  (s.slotParts j).foldl (fun (a : State × Bool) p =>
    (a.1.logScan p).foldl (fun (b : State × Bool) x =>
      if !f x.1 x.2.1 x.2.2.1 then b
      else if !x.2.2.2.2.2 then (b.1.meetRollback j 4, true)
      else (b.1.feedRecord p j x.2.2.1 x.1 x.2.2.2.1 x.2.2.2.2.1, true)) a) (s, false)

/-- Send contexts toward a receive context of a shard. -/
def State.sendersTo (s : State) (j lsid ctx : Nat) : List Nat :=
  (s.jobFlows j).filter (fun n => s.fld (fcKind n) == 1 && s.fld (fcDst n) == lsid && s.fld (fcPeer n) == ctx)

/-- LREQ (R362, R367). -/
def execLreq (src : Nat) (m : List Nat) (s : State) : Host.Outcome State Fault Refusal :=
  let j := mByte m 1 % 8
  .next (s.control src j (fun s =>
    if s.flag RCV_FENCE_FENCED || (s.run j).isNone then s else
    let step := mField m 4 4
    let lsid := mField m 8 3
    let ctx := mField m 12 2 % 16384
    let first := mField m 16 3
    let mode := mByte m 11
    let flows := s.sendersTo j lsid ctx
    let noLog := flows.any (fun n => !s.flag (fcLog n)) || flows.isEmpty
    let nak (t : State) (reason : Nat) : State := t.sendCtl src j (lreqMsg 0x33 j step lsid mode ctx first ++ [reason])
    if mode = 0 then
      let broken := s.logBroken.any (fun x => s.jobOf x.1 == j && decide (x.2.1 ≤ step) && decide (step ≤ x.2.2))
      let e := s.fld (HSP_J_EPOCH_EPOCH j)
      if noLog then nak s 1
      else if broken then nak s 3
      else if e ≠ 0xFFFFFFFF && decide (step ≤ e) then nak s 2
      else
        let s := { s with feeds := s.feeds.filter (fun (f : Feed) => !(f.job == j && f.dst == src && f.lsid == lsid && f.ctx == ctx)) ++
          [(⟨j, src, lsid, ctx, step⟩ : Feed)] }
        (s.feedAll j (fun h st _ => st == step && (Hdr.dec h).lsid == lsid && (Hdr.dec h).flow == ctx)).1
    else
      let (t, any) := s.feedAll j (fun h _ n => flows.contains n && (Hdr.dec h).lsid == lsid && (Hdr.dec h).flow == ctx &&
        decide (((Hdr.dec h).seq + 2 ^ 24 - first) % 2 ^ 24 < 2 ^ 23))
      if any then t
      else if noLog then nak s 1
      else if s.logBroken.any (fun x => s.jobOf x.1 == j) then nak s 3
      else nak s 2))

/-- LNAK (R363, R367). -/
def execLnak (src : Nat) (m : List Nat) (s : State) : Host.Outcome State Fault Refusal :=
  let j := mByte m 1 % 8
  .next (s.control src j (fun s =>
    if (s.run j).isNone then s
    else if mByte m 11 = 0 then s.meetRollback j 4
    else
      match s.rekey j (mField m 8 3) with
      | none => s
      | some w =>
        if rkGid w ≠ s.gid then s
        else if s.fld (CAM_HOST_W0_STATE (rkPart w) (rkEntry w)) = 3 then s.meetRollback j 4
        else s.killCtx (rkPart w) (rkEntry w) 0xFFFFFF 6 0))

/-! ## Replica copy (R368) -/

/-- Whether the recovery hinge has been applied here. -/
def State.hinged (s : State) (j : Nat) : Bool := match (s.run j).bind (·.cut) with | some c => c.hinged | none => false

/-- RCOPY. -/
def execRcopy (src : Nat) (m : List Nat) (s : State) : Host.Outcome State Fault Refusal :=
  let j := mByte m 1 % 8
  .next (s.control src j (fun s =>
    if (s.run j).isNone then s
    else if s.hinged j then s.answerRcopy src m else { s with rcopyAsked := s.rcopyAsked ++ [(src, m)] }))

/-- FSYNC. -/
def execFsync (src : Nat) (m : List Nat) (s : State) : Host.Outcome State Fault Refusal :=
  let j := mByte m 1 % 8
  .next (s.control src j (fun s =>
    if (s.run j).isNone then s
    else if s.hinged j then s.applyFsync m else { s with rcopyAsked := s.rcopyAsked ++ [(src, m)] }))

/-- Units of a replica's state into the target entry. -/
def State.copyPacket (s : State) (j lsid off : Nat) (l : List (Nat × Bool)) : State :=
  match s.rcopy.find? (fun c => c.job == j && c.lsid == lsid) with
  | none => s
  | some c =>
    let plen := s.fld (HSP_PLEN_PLEN c.part c.entry)
    let s := l.zipIdx.foldl (fun (t : State) x =>
      let i := off % 2 ^ 28 + x.2
      t.wrDatum (if i < plen then t.stateDatum c.part c.entry i else t.sliceDatum c.part c.entry (i - plen)) x.1.1 x.1.2) s
    { s with rcopy := s.rcopy.map (fun (x : RCopy) => if x = c then { x with left := x.left - l.length } else x) }

/-- REPLICA_COPY_COMPLETE. -/
def execReplicaCopyComplete (j lsid : Nat) (s : State) : Host.Outcome State Fault Refusal :=
  match s.rcopy.find? (fun c => c.job == j && c.lsid == lsid) with
  | none => .next s
  | some c =>
    if c.left ≠ 0 then .next s else
    let s := { s with rcopy := s.rcopy.filter (fun x => x != c) }
    let s := (s.setFld (CAM_HOST_W6_STEP c.part c.entry) (s.fld (RCV_J_TARGET_STEP j) + 1)).setFld (CAM_HOST_W7_POS c.part c.entry) 0
    let w := s.tumWin c.part c.entry
    let s := forRange w.2 (fun i t => (t.setFld (TMB_VALUE_VALUE c.part (w.1 + i)) 0).setFld (TMB_SNAP_SNAP c.part (w.1 + i)) 0) s
    .next ((s.clearShard c.part c.entry).trySendReady j)

/-! ## Continuity packets (R332, R338, R368) -/

/-- An accepted continuity packet on receive context `n`: a chunk, an answer to HGET, or a replica's state, by its OPERATOR. -/
def State.onCont (s : State) (j n : Nat) (h : Hdr) (pay : List Nat) : State :=
  let rank := n - s.fld (HSP_J_FLOW_HFLOW_BASE j) - 17
  let l := (unitsOfBytes pay).zipIdx.map (fun x => (x.1.1, bitAt h.psn x.2))
  match h.oper with
  | 1 => s.hgetPacket j rank h.lsid h.offset l
  | 2 => s.copyPacket j h.lsid h.offset l
  | _ => s.chunkPacket j h.offset l

end Sys2Proof.Machine
end

