-- ==== Sys2Proof/Machine/Signature.lean ====
section
/-! DEFINITION. The signature of an image (R486): pure Ed25519 as RFC 8032 defines it, with SHA-512 as FIPS 180-4 does.
Both are public standards that the manual names and does not restate: their constants and steps are PRESUMED (log entry 24). -/
namespace Sys2Proof.Machine

/-! ## SHA-512 -/

/-- Constants of the rounds: the first 64 bits of the fractions of the cube roots of the first eighty primes. -/
def shaK0 : List Nat := [
  0x428a2f98d728ae22, 0x7137449123ef65cd, 0xb5c0fbcfec4d3b2f, 0xe9b5dba58189dbbc,
  0x3956c25bf348b538, 0x59f111f1b605d019, 0x923f82a4af194f9b, 0xab1c5ed5da6d8118,
  0xd807aa98a3030242, 0x12835b0145706fbe, 0x243185be4ee4b28c, 0x550c7dc3d5ffb4e2,
  0x72be5d74f27b896f, 0x80deb1fe3b1696b1, 0x9bdc06a725c71235, 0xc19bf174cf692694,
  0xe49b69c19ef14ad2, 0xefbe4786384f25e3, 0x0fc19dc68b8cd5b5, 0x240ca1cc77ac9c65,
  0x2de92c6f592b0275, 0x4a7484aa6ea6e483, 0x5cb0a9dcbd41fbd4, 0x76f988da831153b5,
  0x983e5152ee66dfab, 0xa831c66d2db43210, 0xb00327c898fb213f, 0xbf597fc7beef0ee4,
  0xc6e00bf33da88fc2, 0xd5a79147930aa725, 0x06ca6351e003826f, 0x142929670a0e6e70,
  0x27b70a8546d22ffc, 0x2e1b21385c26c926, 0x4d2c6dfc5ac42aed, 0x53380d139d95b3df,
  0x650a73548baf63de, 0x766a0abb3c77b2a8, 0x81c2c92e47edaee6, 0x92722c851482353b]
def shaK1 : List Nat := [
  0xa2bfe8a14cf10364, 0xa81a664bbc423001, 0xc24b8b70d0f89791, 0xc76c51a30654be30,
  0xd192e819d6ef5218, 0xd69906245565a910, 0xf40e35855771202a, 0x106aa07032bbd1b8,
  0x19a4c116b8d2d0c8, 0x1e376c085141ab53, 0x2748774cdf8eeb99, 0x34b0bcb5e19b48a8,
  0x391c0cb3c5c95a63, 0x4ed8aa4ae3418acb, 0x5b9cca4f7763e373, 0x682e6ff3d6b2b8a3,
  0x748f82ee5defb2fc, 0x78a5636f43172f60, 0x84c87814a1f0ab72, 0x8cc702081a6439ec,
  0x90befffa23631e28, 0xa4506cebde82bde9, 0xbef9a3f7b2c67915, 0xc67178f2e372532b,
  0xca273eceea26619c, 0xd186b8c721c0c207, 0xeada7dd6cde0eb1e, 0xf57d4f7fee6ed178,
  0x06f067aa72176fba, 0x0a637dc5a2c898a6, 0x113f9804bef90dae, 0x1b710b35131c471b,
  0x28db77f523047d84, 0x32caab7b40c72493, 0x3c9ebe0a15c9bebc, 0x431d67c49c100d4c,
  0x4cc5d4becb3e42b6, 0x597f299cfc657e2a, 0x5fcb6fab3ad6faec, 0x6c44198c4a475817]
def shaK : List Nat := shaK0 ++ shaK1

/-- Initial hash: those of the square roots of the first eight primes. -/
def shaInit : List Nat := [
  0x6a09e667f3bcc908, 0xbb67ae8584caa73b, 0x3c6ef372fe94f82b, 0xa54ff53a5f1d36f1,
  0x510e527fade682d1, 0x9b05688c2b3e6c1f, 0x1f83d9abfb41bd6b, 0x5be0cd19137e2179]

/-- Rotation of a 64-bit word to the right. -/
def rotr64 (x n : Nat) : Nat := x / 2 ^ n + x % 2 ^ n * 2 ^ (64 - n)

/-- One round: the working variables, and the window of the sixteen next words of the schedule. -/
def shaRound (v w : List Nat) (k : Nat) : List Nat × List Nat :=
  let at_ (i : Nat) : Nat := w.getD i 0
  let n := (at_ 0 + (rotr64 (at_ 1) 1 ^^^ rotr64 (at_ 1) 8 ^^^ at_ 1 / 2 ^ 7) + at_ 9 +
    (rotr64 (at_ 14) 19 ^^^ rotr64 (at_ 14) 61 ^^^ at_ 14 / 2 ^ 6)) % 2 ^ 64
  match v with
  | [a, b, c, d, e, f, g, h] =>
    let t1 := h + (rotr64 e 14 ^^^ rotr64 e 18 ^^^ rotr64 e 41) + ((e &&& f) ^^^ ((2 ^ 64 - 1 - e) &&& g)) + k + at_ 0
    let t2 := (rotr64 a 28 ^^^ rotr64 a 34 ^^^ rotr64 a 39) + ((a &&& b) ^^^ (a &&& c) ^^^ (b &&& c))
    ([(t1 + t2) % 2 ^ 64, a, b, c, (d + t1) % 2 ^ 64, e, f, g], w.drop 1 ++ [n])
  | _ => (v, w)

/-- A block of sixteen words. -/
def shaBlock (h w : List Nat) : List Nat :=
  let r := shaK.foldl (fun x k => shaRound x.1 x.2 k) (h, w)
  List.zipWith (fun x y => (x + y) % 2 ^ 64) h r.1

/-- Big-endian number of some bytes. -/
def beNat (l : List Nat) : Nat := l.foldl (fun n b => 256 * n + b % 256) 0

/-- Blocks of 128 bytes, `n` of them. -/
def shaBlocks : Nat → List Nat → List Nat → List Nat
  | 0, h, _ => h
  | n + 1, h, l => shaBlocks n (shaBlock h ((List.range 16).map (fun i => beNat ((l.drop (8 * i)).take 8)))) (l.drop 128)

/-- Bytes of SHA-512 of a byte string. -/
def sha512 (m : List Nat) : List Nat :=
  let n := m.length
  let l := m ++ [0x80] ++ List.replicate ((239 - n % 128) % 128) 0 ++ (leBytes 16 (8 * n)).reverse
  (shaBlocks (l.length / 128) shaInit l).flatMap (fun x => (leBytes 8 x).reverse)

/-! ## The curve -/

/-- The prime of the field, the order of the base point, the constant d, and a square root of -1. -/
def edP : Nat := 2 ^ 255 - 19
def edL : Nat := 2 ^ 252 + 27742317777372353535851937790883648493
def edD : Nat := 37095705934669439343138083508754565189542113879843219016388785533085940283555
def edI : Nat := 19681161376707505956807079304988542015446066515923890162744021073123829784752

/-- `b ^ e` in the field, of an exponent of `n` bits. -/
def edPow : Nat → Nat → Nat → Nat
  | 0, _, _ => 1
  | n + 1, b, e =>
    let h := edPow n b (e / 2)
    if e % 2 = 1 then h * h % edP * b % edP else h * h % edP

/-- A point in extended coordinates X, Y, Z, T. -/
structure EdPoint where
  x : Nat
  y : Nat
  z : Nat
  t : Nat
  deriving DecidableEq, Repr

/-- Sum of two points. -/
def EdPoint.add (p q : EdPoint) : EdPoint :=
  let a := (p.y + edP - p.x) * (q.y + edP - q.x) % edP
  let b := (p.y + p.x) * (q.y + q.x) % edP
  let c := 2 * p.t * q.t * edD % edP
  let d := 2 * p.z * q.z % edP
  let e := b + edP - a
  let f := d + edP - c
  let g := d + c
  let h := b + a
  ⟨e * f % edP, g * h % edP, f * g % edP, e * h % edP⟩

/-- The multiple `k P`, of a factor of `n` bits. -/
def EdPoint.mul : Nat → Nat → EdPoint → EdPoint
  | 0, _, _ => ⟨0, 1, 1, 0⟩
  | n + 1, k, p =>
    let h := EdPoint.mul n (k / 2) p
    let d := h.add h
    if k % 2 = 1 then d.add p else d

/-- The base point. -/
def edBase : EdPoint :=
  let x := 15112221349535400772501151409588531511454012693041857206046113283949847762202
  let y := 46316835694926478169428394003475163141307993866256225615783033603165251855960
  ⟨x, y, 1, x * y % edP⟩

/-- The point that 32 bytes encode; none where they encode none. -/
def edDecode (l : List Nat) : Option EdPoint :=
  let n := leNat l
  let y := n % 2 ^ 255
  let s := n / 2 ^ 255 % 2
  if edP ≤ y then none else
  let u := (y * y + edP - 1) % edP
  let v := (edD * (y * y % edP) + 1) % edP
  let x := u * edPow 2 v 3 % edP * edPow 252 (u * edPow 3 v 7 % edP) ((edP - 5) / 8) % edP
  let w := v * (x * x % edP) % edP
  if w ≠ u ∧ w ≠ (edP - u) % edP then none else
  let x := if w = u then x else x * edI % edP
  if x = 0 ∧ s = 1 then none else
  let x := if x % 2 = s then x else edP - x
  some ⟨x, y, 1, x * y % edP⟩

/-- Negative of a point. -/
def EdPoint.neg (p : EdPoint) : EdPoint := ⟨(edP - p.x) % edP, p.y, p.z, (edP - p.t) % edP⟩

/-- Whether `sig` is a signature of `m` under the key `key`: with the factor 8 of RFC 8032's group equation. -/
def ed25519 (key m sig : List Nat) : Bool :=
  let s := leNat (sig.drop 32)
  match edDecode key, edDecode (sig.take 32) with
  | some a, some r =>
    if key.length ≠ 32 || sig.length ≠ 64 || edL ≤ s then false else
    let k := leNat (sha512 (sig.take 32 ++ key ++ m)) % edL
    let q := EdPoint.mul 4 8 (((EdPoint.mul 253 s edBase).add (EdPoint.mul 253 k a).neg).add r.neg)
    q.x % edP == 0 && q.y % edP == q.z % edP
  | _, _ => false

end Sys2Proof.Machine
end

