-- ==== Sys2Proof/Machine/Images.lean ====
section
/-! DEFINITION. Bitting images and table images (chapter 17): their layout, the structural checks of R484 to R492, and
the content checks of the home chapters. -/
namespace Sys2Proof.Machine

/-! ## Header fields (Table 17.1) -/

def Image.fld (i : Image) (at_ n : Nat) : Nat := mField i.hdr at_ n
def Image.partMask (i : Image) : Nat := i.fld 11 1
def Image.jobId (i : Image) : Nat := i.fld 20 4
def Image.gen (i : Image) : Nat := i.fld 24 2
def Image.id (i : Image) : Nat := i.fld 16 4
def Image.keySlot (i : Image) : Nat := i.fld 10 1
/-- Partitions that the image assigns. -/
def Image.parts (i : Image) : List Nat := (List.range 8).filter (bitAt i.partMask)

def ImgSection.type (x : ImgSection) : Nat := mField x.hdr 0 2
def ImgSection.typeMinor (x : ImgSection) : Nat := mByte x.hdr 2
def ImgSection.contentMinor (x : ImgSection) : Nat := mByte x.hdr 3
def ImgSection.part (x : ImgSection) : Nat := mByte x.hdr 12
/-- Bytes of a section with its header and padding. -/
def ImgSection.size (x : ImgSection) : Nat := x.hdr.length + x.bytes.length + x.pad.length

/-- Bytes of the image from byte 192 on. -/
def Image.tail (i : Image) : List Nat := i.secs.flatMap (fun x => x.hdr ++ x.bytes ++ x.pad)
/-- Length of the image as it is laid out. -/
def Image.length (i : Image) : Nat := i.hdr.length + i.sig.length + (i.secs.map ImgSection.size).foldl (· + ·) 0
/-- Byte offset of section `n`. -/
def Image.offset (i : Image) (n : Nat) : Nat := 192 + ((i.secs.take n).map ImgSection.size).foldl (· + ·) 0

def secFusion : Nat := 0x10
def secPorts : Nat := 0x11
def secJob : Nat := 0x12
def secHosting : Nat := 0x13
def secMemory : Nat := 0x14
def secEngines : Nat := 0x15
def secPrograms : Nat := 0x16
def secFlows : Nat := 0x17
def secDest : Nat := 0x18
def secRekey : Nat := 0x19
def secGrid : Nat := 0x1A
def secGroups : Nat := 0x1B
def secTree : Nat := 0x1C
def secContinuity : Nat := 0x1D
def secHealth : Nat := 0x1E
def secTrace : Nat := 0x1F

/-- Types of version 2.3 (Table 17.3). -/
def secKnown (t : Nat) : Bool := decide (0x10 ≤ t) && decide (t ≤ 0x1F)
/-- Types of scope P. -/
def secPerPart (t : Nat) : Bool :=
  t == secHosting || t == secMemory || t == secEngines || t == secPrograms || t == secTrace
/-- Types that are taken from the first image for the module as a whole (R492). -/
def moduleWide : List Nat := [secFusion, secPorts, secHealth]

/-- Sections that the module applies: the known ones. -/
def Image.known (i : Image) : List ImgSection := i.secs.filter (fun x => secKnown x.type)
/-- The section of a type, and of a partition for scope P. -/
def Image.sec (i : Image) (t part : Nat) : Option ImgSection := i.known.find? (fun x => x.type == t && x.part == part)
/-- Body of a section of scope J or M; empty where it is absent. -/
def Image.body (i : Image) (t : Nat) : SecBody := ((i.sec t 0xF).map (·.body)).getD {}
/-- Content of a section of scope J or M. -/
def Image.content (i : Image) (t : Nat) : List Nat := ((i.sec t 0xF).map (·.bytes)).getD []
/-- Whether content for a newer minor version is ignored (R488). -/
def Image.newer (i : Image) : Bool := i.secs.any (fun x => !secKnown x.type || decide (3 < x.contentMinor))

/-! ## Register fields of a section (Table 17.3) -/

/-- Whether an address is one of `n` words from `b` on. -/
def inWords (a b n : Nat) : Bool := decide (b ≤ a) && decide (a < b + 4 * n) && a % 4 == 0

/-- Register words that a section sets, as first address and count, for job slot `j` with partitions `ps`. -/
def secRanges (t part j : Nat) (ps : List Nat) : List (Nat × Nat) :=
  if t = secPorts then
    [(FAB_GROUP_CFG 0, 6), (FAB_DAMP_CFG0, 2), (FAB_LINK_CFG, 1), (FAB_FLOW_CFG, 1), (FAB_TIME_CFG, 2), (FAB_SLOT_CFG, 1),
     (FAB_LVL_MAP 0, 6), (FAB_SAT_CFG, 1)]
  else if t = secJob then
    ps.flatMap (fun p => [(VXE_KS_SEED_LO p, 1), (VXE_KS_SEED_HI p, 1)]) ++ [(FAB_SHARE j 0, 6), (FAB_PW_LO j, 1), (FAB_PW_HI j, 1)]
  else if t = secHosting then [(CAM_HOST_W0 part 0, 512), (CAM_STRETCH part, 1)]
  else if t = secMemory then
    [(MEM_CFG part, 1), (MEM_SPARE part, 1), (MEM_RWIN part 0, 4), (MEM_REGION_BASE part 0, 64), (MEM_RELOC_BASE part 0, 64),
     (TSR_CFG part, 1)]
  else if t = secEngines then
    [(CAM_CFG part, 1), (CAM_WAKE_CFG0 part, 3), (CAM_WAIT_TIMEOUT part, 1), (CAM_HINGE_CFG part, 1), (MXE_CFG part, 1),
     (VXE_CFG part, 1), (UPD_HIST_BASE part, 1), (UPD_ETA_TIMEOUT part, 1), (UPD_CHK_CFG part, 1)]
  else if t = secFlows then [(BCT_FLOWS j, 1)]
  else if t = secDest then [(FLW_DEST 0 0, 393216)]
  else if t = secRekey then [(FLW_REKEY j 0, 131072)]
  else if t = secGroups then [(COL_GHDR_W0 j 0, 8192), (COL_MEMBER 0, 131072)]
  else if t = secTree then [(BCT_JHDR_W0 j, 2), (BCT_JREL j 0, 587), (BCT_CFG, 1)]
  else if t = secContinuity then
    [(HSP_J_CFG j, 4), (HSP_J_FLOW j, 1), (RCV_CFG, 2)] ++
      ps.flatMap (fun p => [(HSP_CSLOT p, 1), (HSP_PLEN p 0, 32), (HSP_STRIPE p 0, 32)])
  else if t = secHealth then
    [(RCV_RETIRE_CFG, 1), (KPR_TH 0, 12), (KPR_COND_CFG, 1), (KPR_ERR_ALERT_MASK, 1), (KPR_HB_CFG, 1), (KPR_HANG_CFG, 1),
     (KPR_ESC_CFG, 1), (EVR_CFG, 1)]
  else if t = secTrace then [(TRC_CFG part, 7)]
  else []

/-- Whether a section may set a register word. -/
def secAllows (t part j : Nat) (ps : List Nat) (a : Nat) : Bool := (secRanges t part j ps).any (fun r => inWords a r.1 r.2)

/-- Bits that are defined of a word no host write reaches. -/
def imageMask (a : Nat) : Nat :=
  match partWindow a with
  | some (_, o) =>
    if 0x1000 ≤ o && o < 0x1800 then
      (match o % 64 / 4 with
       | 0 => 0xFFFFFF07 | 2 => 0xFFFFFF | 4 => 0xFFF | 5 => 0x7FFFF | 7 => 0
       | n => if n < 12 then 0xFFFFFFFF else 0)
    else if 0x140100 ≤ o && o < 0x140200 then 0xFFFFF
    else if 0x140200 ≤ o && o < 0x140300 then (if o % 16 = 8 then 0xF else if o % 16 = 12 then 0 else 0xFFFFFFFF)
    else 0xFFFFFFFF
  | none => 0xFFFFFFFF

/-- Words that have a shadow and a bank in force. -/
def twoBanks (a : Nat) : Bool :=
  (shadowBank a && !(List.range 8).any (fun j => a == FAB_PW_LO j || a == FAB_PW_HI j)) ||
  (decide (FAB_SHARE 0 0 ≤ a) && decide (a < FAB_SHARE 8 0)) || (List.range 8).any (fun p => a == CAM_STRETCH p)

/-- STRETCH within its bounds (R165). -/
def clampStretch (v : Nat) : Nat := min 0x4000 (max 0x1000 (v % 65536))

/-- Value of a word that an image writes: its writable bits, or all defined bits of a read-only word. -/
def State.imgWord (s : State) (a v : Nat) : Nat :=
  match regRow a with
  | some (r, _) =>
    let w := r.rw ||| r.rwl
    let v := if (List.range 8).any (fun p => a == CAM_STRETCH p) then clampStretch v else v % 2 ^ 32
    if w = 0 then v &&& imageMask a else ((s.reg a).toNat &&& (0xFFFFFFFF - w)) ||| (v &&& w)
  | none => 0

/-- Write of one word of an image, in both banks. -/
def State.imgReg (s : State) (a v : Nat) : State :=
  if (regRow a).isNone then s else
  let x : Word := BitVec.ofNat 32 (s.imgWord a v)
  let s := s.setReg a x
  if twoBanks a then s.setReg (act a) x else s

/-- Write of the words of a section. -/
def State.imgRegs (s : State) (l : List (Nat × Nat)) : State := l.foldl (fun t x => t.imgReg x.1 x.2) s

/-- Words of a section back to their defaults, both banks. -/
def State.imgClear (s : State) (l : List (Nat × Nat)) : State :=
  l.foldl (fun t r => { t with regs := storeClear (storeClear t.regs r.1 (4 * r.2)) (act r.1) (4 * r.2) }) s

/-! ## A load that fails (R494, Table 17.4) -/

/-- Reason of a failed load, its section, its offset and its status. -/
structure LoadFail where
  reason : Nat
  type : Nat
  part : Nat
  offset : Nat
  status : Nat
  deriving DecidableEq, Repr

def hdrFail (reason offset status : Nat) : LoadFail := ⟨reason, 0, 0xF, offset, status⟩

/-- Failure of a section of an image, at the section's header. -/
def Image.failAt (i : Image) (t part reason status : Nat) : LoadFail :=
  match i.secs.findIdx? (fun x => x.type == t && x.part == part) with
  | some n => ⟨reason, t, part, i.offset n, status⟩
  | none => ⟨reason, t, part, 0, status⟩

/-- First failure of a list of checks in their order. -/
def firstFail (l : List (Option LoadFail)) : Option LoadFail := l.findSome? id

def failIf (b : Bool) (f : LoadFail) : Option LoadFail := if b then some f else none

/-- Checks of the header (R484, R487), of an image of a kind whose length the operation gives. -/
def Image.headerFail (i : Image) (kind len : Nat) : Option LoadFail := firstFail [
  failIf (i.hdr.length ≠ 128 || i.fld 0 4 ≠ 0x4B544942) (hdrFail 1 0 stBadImage),
  failIf (i.fld 124 4 ≠ crc32c (i.hdr.take 124)) (hdrFail 2 124 stBadImage),
  failIf (i.fld 4 1 ≠ 2 || decide (3 < i.fld 5 1)) (hdrFail 3 (if i.fld 4 1 ≠ 2 then 4 else 5) stVersion),
  failIf (i.fld 7 1 ≠ 0x41 || i.fld 8 2 ≠ kind) (hdrFail 4 (if i.fld 7 1 ≠ 0x41 then 7 else 8) stBadImage),
  failIf (i.fld 12 4 % 64 ≠ 0 || i.fld 12 4 ≠ len) (hdrFail 5 12 stBadImage)]

/-- Check of the signature (R486). -/
def State.signFail (s : State) (i : Image) : Option LoadFail :=
  let k := i.keySlot
  if 4 ≤ k || !bitAt (s.fld BIT_KEYS_PRESENT) k || bitAt (s.fld BIT_KEYS_REVOKED) k then some (hdrFail 6 10 stBadImage)
  else if i.sig.length ≠ 64 || !ed25519 (storeGet [] s.keys k) (i.hdr ++ i.tail) i.sig then some (hdrFail 7 128 stBadImage)
  else none

/-- Whether sections stand in ascending TYPE and PART. -/
def ascending : List ImgSection → Bool
  | a :: b :: t => decide (a.type * 16 + a.part < b.type * 16 + b.part) && ascending (b :: t)
  | _ => true

/-- Whether the layout of one section is right: its header, padding and scope, and only what Table 17.3 lets it set. -/
def ImgSection.laidOut (x : ImgSection) (j mask : Nat) : Bool :=
  let n := x.hdr.length + x.bytes.length
  let t := x.type
  let ps := (List.range 8).filter (bitAt mask)
  x.hdr.length == 16 && mField x.hdr 4 4 == x.bytes.length && mField x.hdr 13 3 == 0 && decide (x.typeMinor ≤ x.contentMinor) &&
  x.pad.length == (64 - n % 64) % 64 && x.pad.all (· == 0) && decide (x.part < 16) &&
  (x.part == 0xF || bitAt mask x.part) &&
  (if secKnown t then
    (secPerPart t != (x.part == 0xF)) &&
    x.body.regs.all (fun r => secAllows t x.part j ps r.1) &&
    (t == secFlows || x.body.flows.isEmpty) && (t == secPrograms || x.body.mem.isEmpty) &&
    (t == secGrid || x.body.grid.isEmpty) && (t == secContinuity || x.body.groups.isEmpty) &&
    (t != secMemory || x.body.buffers.length == 5) &&
    x.body.flows.all (fun f => decide (f.1 < 16384) && f.2.length == 32)
   else decide (3 < x.typeMinor))

/-- Structural checks of the sections (R485, R488, R491). -/
def Image.layoutFail (i : Image) (j : Nat) : Option LoadFail :=
  let crc := i.secs.find? (fun x => mField x.hdr 8 4 != crc32c x.bytes)
  let bad := i.secs.find? (fun x => !x.laidOut j i.partMask)
  firstFail [
    crc.map (fun x => i.failAt x.type x.part 8 stBadImage),
    failIf ((i.hdr.drop 36).take 88 |>.any (· != 0)) (hdrFail 9 36 stBadImage),
    failIf (i.secs.length ≠ i.fld 26 2) (hdrFail 9 26 stBadImage),
    failIf (i.length ≠ i.fld 12 4) (hdrFail 9 12 stBadImage),
    failIf (!ascending i.secs) (hdrFail 9 192 stBadImage),
    bad.map (fun x => i.failAt x.type x.part 9 stBadImage)]

/-- Shape code of GRID and GROUPS content (R490). -/
def shapeCode (grid groups : List Nat) : Nat := crc32c (grid ++ groups)

/-- Whether the image sets Dorounte shape mode. -/
def Image.dorounte (i : Image) : Bool := (i.body secJob).dorounte

/-- Sections that a job image must hold (R489); `first` while no other slot holds an image. -/
def Image.required (i : Image) (first : Bool) : List (Nat × Nat) :=
  (if first then [(secFusion, 0xF)] else []) ++ [(secJob, 0xF)] ++
  (if i.parts.isEmpty then [(secHosting, 0)] else i.parts.flatMap (fun p => [(secHosting, p), (secMemory, p)])) ++
  [(secFlows, 0xF), (secDest, 0xF), (secRekey, 0xF), (secGrid, 0xF), (secTree, 0xF)] ++
  (if i.dorounte then [] else [(secContinuity, 0xF)])

/-! ## Content checks (R489) -/

/-- Words that the sections of an image stand for, cleared before they are written: a module-wide section only by the first
image, the destination tables too, and of the group table the headers alone. -/
def Image.clears (i : Image) (j : Nat) (first : Bool) : List (Nat × Nat) :=
  (if first then secRanges secPorts 0 j [] ++ secRanges secHealth 0 j [] ++ secRanges secDest 0 j [] else []) ++
  secRanges secJob 0 j i.parts ++ i.parts.flatMap (fun p => secRanges secHosting p j [] ++ secRanges secMemory p j [] ++
    secRanges secEngines p j [] ++ secRanges secTrace p j []) ++
  secRanges secFlows 0 j [] ++ secRanges secRekey 0 j [] ++ [(COL_GHDR_W0 j 0, 8192)] ++ secRanges secTree 0 j [] ++
  secRanges secContinuity 0 j i.parts

/-- Words and flow contexts of an image in place of what stood there (R489). -/
def State.placeWords (s : State) (j : Nat) (i : Image) : State :=
  let s := (s.imgClear (i.clears j (!s.anyLoaded)))
  let s := { s with owner := i.parts.foldl (fun o p => storeSet 0 o p (j + 1)) s.owner }
  i.known.foldl (fun t x => x.body.flows.foldl (fun u f => u.writeFlow f.1 f.2) (t.imgRegs x.body.regs)) s

/-- Programs of an image in their regions. -/
def State.placePrograms (s : State) (i : Image) : State :=
  i.known.foldl (fun t x => x.body.mem.foldl (fun u m => u.hbmPut (64 * hbmDatum x.part m.1) m.2 (fun _ => false)) t) s

/-- The module as it would stand with the image in place. -/
def State.trial (s : State) (j : Nat) (i : Image) : State := (s.placeWords j i).placePrograms i

/-- Whether `n` units from local unit `b` on lie in a region of a kind. -/
def State.inRegion (s : State) (p kind b n : Nat) : Bool :=
  n == 0 || (List.range 16).any (fun k => s.fld (MEM_REGION_KIND_KIND p k) == kind &&
    decide (s.fld (MEM_REGION_BASE_BASE p k) ≤ b) &&
    decide (b + n ≤ s.fld (MEM_REGION_BASE_BASE p k) + s.fld (MEM_REGION_LEN_LEN p k)))

/-- Whether stretches, as first number and count, keep apart. -/
def apart : List (Nat × Nat) → Bool
  | [] => true
  | a :: t => t.all (fun b => decide (a.1 + a.2 ≤ b.1) || decide (b.1 + b.2 ≤ a.1)) && apart t

/-- Headroom entries of a partition of this module (R354). -/
def State.headroomOf (s : State) (i : Image) (p : Nat) : List Nat :=
  let b := i.body secContinuity
  match b.groups[b.own]? with
  | some g => (g.headroom.filter (fun h => g.gidOf h.1 == s.gid && h.2.1 == p)).map (·.2.2)
  | none => []

/-- Hosting entries of a partition that hold a shard. -/
def State.hosted (s : State) (p : Nat) : List Nat := (List.range 32).filter (fun e => s.fld (CAM_HOST_W0_STATE p e) != 0)

/-- Regions of a stack (R200, R342). -/
def State.regionsOk (s : State) (i : Image) (p : Nat) : Bool :=
  let used := (List.range 16).filter (fun k => s.fld (MEM_REGION_KIND_KIND p k) != 0)
  let rs := used.map (fun k => (s.fld (MEM_REGION_BASE_BASE p k), s.fld (MEM_REGION_LEN_LEN p k)))
  let len (kind : Nat) : Nat := ((s.regionOf p kind).map (·.2)).getD 0
  let hr := s.headroomOf i p
  used.all (fun k => decide (s.fld (MEM_REGION_KIND_KIND p k) ≤ 9)) &&
  rs.all (fun r => r.1 % 32768 == 0 && r.2 % 32768 == 0 && decide (r.1 + r.2 ≤ s.stackUnits p)) && apart rs &&
  len 5 == len 6 && decide (len 5 ≤ 2 ^ 28) && decide (len 8 ≤ 2 ^ 26) &&
  (s.hosted p ++ hr).all (fun e =>
    let kind := if hr.contains e then 3 else 2
    let rb := s.fld (CAM_HOST_W10_RCV_BASE p e)
    let rl := s.fld (CAM_HOST_W11_RCV_LEN p e)
    s.inRegion p kind (s.fld (CAM_HOST_W8_STATE_BASE p e)) (s.fld (CAM_HOST_W9_STATE_LEN p e)) &&
    ((decide (0x30000000 ≤ rb) && decide (rb + rl ≤ 0x30000000 + s.workUnits p)) || s.inRegion p 4 rb rl) &&
    s.inRegion p 1 (s.fld (CAM_HOST_W1_PROG_BASE p e)) (s.fld (CAM_HOST_W2_PROG_LEN p e)) &&
    s.inRegion p 1 (s.fld (CAM_HOST_W3_TTAB_BASE p e)) ((s.fld (CAM_HOST_W4_TTAB_LEN p e) + 1) / 2))

/-- Tile store split (R43, R214, R225), in KiB. -/
def State.splitOk (s : State) (i : Image) (p : Nat) : Bool :=
  match i.sec secMemory p with
  | some x => decide (64 * x.body.buffers.foldl (· + ·) 0 + 1536 ≤ 1024 * s.handoffMib p)
  | none => true

/-- Tumbler windows of a partition (R162). -/
def State.windowsOk (s : State) (i : Image) (p : Nat) : Bool :=
  let es := (s.hosted p ++ s.headroomOf i p).map (s.tumWin p)
  let rs := ((List.range 4).filter (fun r => s.fld (CAM_RING_CTRL_STATE p r) != 0)).map (fun r => s.tumWin p (32 + r))
  let ws := es ++ rs
  ws.all (fun w => decide (64 ≤ w.2) && decide (w.1 + w.2 ≤ 4096)) && apart ws

/-- Recovery path of a logical shard (R344). -/
def Image.pathOf (i : Image) (lsid : Nat) : Nat :=
  ((((i.body secContinuity).groups.flatMap (·.shards)).find? (fun x => x.lsid == lsid)).map (·.path)).getD 0

/-- Address fields that a command uses, PROG_ADDR left out (R192). -/
def usedAddrs (d : Nat) (prog : List Nat) : List Nat :=
  match dClass d with
  | 1 => if mxMode d = 2 then [mxWaddr d] else
      [mxAaddr d, mxWaddr d] ++ (if mxInit d ≠ 0 then [mxBias d] else []) ++ (if mxAblk d then [mxAscale d] else [])
  | 2 => [dOut d] ++ (if isStream d then [] else [dOp d 64 32]) ++
      (if prog.any (fun w => bits w 0 6 == 0x30) then [dOp d 96 32] else []) ++
      (if prog.any (fun w => bits w 0 6 == 0x31) then [dOp d 128 32] else [])
  | 3 => [upWaddr d, upGaddr d, upMoment d] ++ (if upWfmt d = 0 then [] else [upMaster d]) ++
      (if upFactored d then [upStat d] else [])
  | 4 => [mvSrc d, dOut d] ++ (if mvSblk d then [dOp d 96 32] else []) ++ (if ocBlk (dOcvt d) then [dOp d 128 32] else [])
  | 5 => [sdSrc d]
  | 6 => [clSrc d, dOut d]
  | 8 => [moRoute d, moRow d, dOut d]
  | _ => []

/-- Whether a descriptor of a hosting entry passes (R160, R192, R263); `strict` where its shard may be re-hosted. -/
def State.descOk (s : State) (j p e n : Nat) (strict : Bool) : Bool :=
  let d := s.descAt p e n
  s.reasonAt p e n == 0 &&
  (dClass d != 5 || (s.fld (fcKind (sdFlow d)) == 1 && s.fld (fcJob (sdFlow d)) == j && s.fld (fcDst (sdFlow d)) == sdLsid d &&
    s.fld (fcClass (sdFlow d)) == sdClass d)) &&
  (!strict || (usedAddrs d (if dClass d = 2 then s.vxProg p e d else [])).all (fun a => a / 2 ^ 30 == 1))

/-- Programs of a partition whose PROGRAMS section the image holds. -/
def State.programsOk (s : State) (j : Nat) (i : Image) (p : Nat) : Bool :=
  (i.sec secPrograms p).isNone || (s.hosted p).all (fun e =>
    let path := i.pathOf (s.lsidOf p e)
    (List.range (s.fld (CAM_HOST_W2_PROG_LEN p e))).all (fun n => s.descOk j p e n (path == 1 || path == 2)))

/-- Number of values without repeats. -/
def distinct (l : List Nat) : Bool := l.eraseDups.length == l.length

/-- Groups of a job slot: within the table, no shard twice in one of them (R295). -/
def State.groupsOk (s : State) (j : Nat) : Bool :=
  (s.groupRanges j id).all (fun g => decide (g.2 ≤ 4096) && decide (g.1 + g.2 ≤ 131072) &&
    distinct ((List.range g.2).map (fun m => (s.reg (COL_MEMBER (g.1 + m))).toNat % 2 ^ 24)))

/-- Tree index of relative `e` of node `i` under fan-out `f`; none for an ancestor that does not exist (R304). -/
def relIndex (f i e : Nat) : Option Nat :=
  let up (x : Option Nat) : Option Nat := x.bind (fun n => if n = 0 then none else some ((n - 1) / f))
  match e with
  | 0 => up (some i)
  | 1 => up (up (some i))
  | 2 => up (up (up (some i)))
  | e + 3 =>
    let a := f * i + 1
    let b := f * a + 1
    if e < f then some (a + e)
    else if e < f + f * f then some (b + (e - f))
    else if e < f + f * f + f * f * f then some (f * b + 1 + (e - f - f * f))
    else none

/-- Whether the job tree's relatives agree with its header (R304, R320). -/
def State.treeOk (s : State) (j : Nat) : Bool :=
  let f := s.jobFan j
  let i := s.fld (BCT_JHDR_W0_INDEX j)
  let n := s.fld (BCT_JHDR_W1_NODES j)
  (n == 0 || decide (i < n)) &&
  (List.range 587).all (fun e => s.flag (BCT_JREL_VALID j e) ==
    (match relIndex f i e with | some x => n != 0 && decide (x < n) | none => false))

/-- Units of a shard's image (R322, R323). -/
def imageUnits (x : ShardInfo) : Nat := (64 + 512 * x.twin + 80 * x.flows.length + 63) / 64 + x.plen + x.tplen

/-- Continuity groups of a job that has them (R49, R327, R332, R342, R344, R346), with the section and partition that fail. -/
def State.continuityFail (s : State) (j : Nat) (i : Image) : Option (Nat × Nat) :=
  let b := i.body secContinuity
  let flows := (i.body secFlows).flows.map (·.1)
  let all := b.groups.flatMap (·.shards)
  let again (x : ShardInfo) : Bool := x.path == 1 || x.path == 2
  let at_ (bad : Bool) (t p : Nat) : Option (Nat × Nat) := if bad then some (t, p) else none
  match b.groups[b.own]? with
  | none => some (secContinuity, 0xF)
  | some g =>
    let base := s.fld (HSP_J_FLOW_HFLOW_BASE j)
    let big := (g.shards.map imageUnits).foldl max 0
    let ranks := (List.range 17).filter (fun r => g.gidOf r != 0 && g.gidOf r != s.gid)
    let size := ((List.range 17).filter (fun r => g.gidOf r != 0)).length
    [at_ ((g.rankOf s.gid).isNone || decide (size < 5) || decide (17 < size)) secContinuity 0xF,
     at_ (decide (g.gmin < 3) || decide (size < g.gmin)) secContinuity 0xF,
     -- one path for every shard, and a replica for each that names one
     at_ ((i.body secGrid).grid.any (fun l => !(all.any (fun x => x.lsid == l && decide (1 ≤ x.path) && decide (x.path ≤ 3)))))
       secContinuity 0xF,
     at_ (all.any (fun x => x.path == 1 && !(all.any (fun y => y.lsid == x.replica && y.lsid != x.lsid)))) secContinuity 0xF,
     -- cells and slots
     (g.homes.find? (fun p =>
        let cell := s.fld (HSP_CSLOT_CSLOT p)
        let slot := ((s.regionOf p 5).map (·.2)).getD 0
        let np := (g.shards.filter (fun x => x.home == p)).length
        !bitAt i.partMask p || decide (cell < 1 + (big + g.gmin - 2) / (g.gmin - 1)) || decide (slot < 64 + np * cell) ||
          (g.shards.filter (fun x => x.home == p)).any (fun x => decide (np ≤ x.stripe)) ||
          !distinct ((g.shards.filter (fun x => x.home == p)).map (·.stripe)))).map (fun p => (secContinuity, p)),
     -- Hasp flows
     at_ (ranks.any (fun r => !(flows.contains (base + r) && s.fld (fcKind (base + r)) == 1 && s.fld (fcClass (base + r)) == 4 &&
        s.flag (fcSrck (base + r)) && flows.contains (base + 17 + r) && s.fld (fcKind (base + 17 + r)) == 2 &&
        s.fld (fcClass (base + 17 + r)) == 4 && s.flag (fcSrck (base + 17 + r))))) secFlows 0xF,
     -- send logs and indices
     at_ (flows.any (fun f => s.fld (fcKind f) == 1 && !s.flag (fcSrck f) && !s.flag (fcLog f) &&
        all.any (fun x => x.path == 2 && x.lsid == s.fld (fcDst f)))) secFlows 0xF,
     at_ (b.groups.any (fun h => !distinct ((h.shards.filter again).flatMap (fun x => x.flows.map (·.1))))) secContinuity 0xF,
     -- headroom
     (i.parts.find? (fun p => (s.headroomOf i p).any (fun e => s.fld (CAM_HOST_W0_STATE p e) != 0 ||
        decide (s.fld (CAM_HOST_W5_TWIN_SIZE p e) < (g.shards.map (·.twin)).foldl max 0)))).map (fun p => (secHosting, p)),
     at_ (g.headroom.any (fun x => g.gidOf x.1 == s.gid && !bitAt i.partMask x.2.1)) secContinuity 0xF].findSome? id

/-- Share of a plane that the loaded slots and this one give out (R288). -/
def State.sharesOver (s : State) (j : Nat) : Bool :=
  (List.range 6).any (fun k => decide (256 < ((List.range 8).filter (fun x => x == j || s.slotLoaded x)).foldl
    (fun n x => n + s.fld (actFld (FAB_SHARE_SHARE x k))) 0))

/-- Rekey entries of a section name present partitions, and this module's the ones it assigns (R269, R270, R491). -/
def State.rekeySecOk (s : State) (i : Image) (l : List (Nat × Nat)) (j : Nat) : Bool :=
  distinct (l.map (·.1)) && l.all (fun x =>
    let e := (x.1 - FLW_REKEY j 0) / 8
    let w := (s.reg (FLW_REKEY j e)).toNat + (s.reg (FLW_REKEY j e + 4)).toNat * 2 ^ 32
    s.rekeyOk j e && (!bitAt w 53 || rkGid w != s.gid || bitAt i.partMask (rkPart w)))

/-- Destination entries of a section: each at its tag's index, none twice (R257). -/
def destSecOk (l : List (Nat × Nat)) : Bool :=
  distinct (l.map (·.1)) && l.all (fun x => x.2 % 2 == 0 || bits x.2 8 20 % 65536 == (x.1 - FLW_DEST 0 0) / 4 % 65536)

/-- Destination entries that differ from valid ones in force (R492). -/
def State.destDiffers (s : State) (l : List (Nat × Nat)) : Bool :=
  l.any (fun x => x.2 % 2 == 1 && (s.reg (act x.1)).toNat % 2 == 1 && s.imgWord x.1 x.2 != (s.reg (act x.1)).toNat)

/-- Checks of a job image for slot `j` beyond its layout: required sections, module-wide content and the content checks
of the home chapters, over the module as it would stand. -/
def State.contentFail (s : State) (j : Nat) (i : Image) : Option LoadFail :=
  let first := !s.anyLoaded
  let t := s.trial j i
  let bad (ty part : Nat) : LoadFail := i.failAt ty part 0xC stBadImage
  let jb := i.body secJob
  let flows := (i.body secFlows).flows.map (·.1)
  firstFail [
    ((i.required first).find? (fun x => (i.sec x.1 x.2).isNone)).map (fun x => i.failAt x.1 x.2 0xA stBadImage),
    failIf (i.fld 28 4 ≠ shapeCode (i.content secGrid) (i.content secGroups)) (i.failAt secGrid 0xF 0xA stBadImage),
    if first then none else
      (moduleWide.find? (fun ty => (i.sec ty 0xF).isSome && [i.content ty] != storeGet [] s.slotKeep ty)).map
        (fun ty => i.failAt ty 0xF 0xB stBadImage),
    failIf (!first && s.destDiffers (i.body secDest).regs) (i.failAt secDest 0xF 0xB stBadImage),
    failIf (i.parts.any (fun p => !s.present p || s.fld (RCV_HEALTH_PART p) == 3)) (hdrFail 0xC 11 stBadImage),
    failIf (s.gid = 0) (hdrFail 0xC 11 stBadImage),
    failIf (s.flag RCV_FENCE_FENCED && s.fld RCV_FENCE_JOB_JOB_ID == i.jobId && !genNewer i.gen (s.fld RCV_FENCE_GEN)) (hdrFail 0xC 24 stBadImage),
    failIf (i.id = 0 || i.fld 32 4 ≠ 0) (hdrFail 0xC 16 stBadImage),
    failIf (jb.jobId ≠ i.jobId || jb.gen ≠ i.gen) (bad secJob 0xF),
    failIf ((i.sec secFusion 0xF).isSome && !([1, 2, 4, 8] : List Nat).contains (i.body secFusion).devices) (bad secFusion 0xF),
    failIf ((List.range 6).any (fun k => t.fld (FAB_GROUP_CFG_MODE k) == 3)) (bad secPorts 0xF),
    (i.parts.find? (fun p => match i.sec secHosting p with
      | some x => !([1, 2, 4, 8, 16] : List Nat).contains x.body.h
      | none => false)).map (bad secHosting),
    (i.parts.find? (fun p => !t.windowsOk i p)).map (bad secHosting),
    (i.parts.find? (fun p => !t.regionsOk i p || !t.splitOk i p)).map (bad secMemory),
    (i.parts.find? (fun p => !t.inRegion p 9 (t.fld (UPD_HIST_BASE_BASE p)) 8192)).map (bad secEngines),
    (i.parts.find? (fun p => !t.programsOk j i p)).map (bad secPrograms),
    failIf (flows.any (fun f => t.fld (fcJob f) != j || (s.fld (fcKind f) != 0 && s.fld (fcJob f) != j))) (bad secFlows 0xF),
    failIf (decide (flowQuota jb.quota (s.fld (PWR_J_LIMIT_FLOW_LIMIT j)) < (t.jobFlows j).length)) (i.failAt secFlows 0xF 0xC stQuota),
    failIf (!destSecOk (i.body secDest).regs) (bad secDest 0xF),
    failIf (!t.rekeySecOk i ((i.body secRekey).regs) j) (bad secRekey 0xF),
    failIf (!t.groupsOk j) (bad secGroups 0xF),
    failIf (!t.treeOk j) (bad secTree 0xF),
    if i.dorounte then none else (t.continuityFail j i).map (fun x => bad x.1 x.2),
    failIf (t.sharesOver j) (i.failAt secJob 0xF 0xC stQuota)]

end Sys2Proof.Machine
end

