-- ==== Sys2Proof/Machine/Load.lean ====
section
/-! DEFINITION. Loading and unloading of job images, table images and programs (R160, R283, R493 to R500), and the end of
an operation by ABORT (R470). -/
namespace Sys2Proof.Machine

/-! ## What ends with an operation -/

/-- Datums `d` to `d + n - 1` zero-filled with clean codes. -/
def State.zeroUnits (s : State) (d n : Nat) : State :=
  { s with
    mem := s.mem.filter (fun c => decide (c.1 < 64 * d) || decide (64 * (d + n) ≤ c.1))
    poison := storeClear s.poison d n }

/-- End of an open operation from outside: whatever it keeps running ends with it. -/
def State.cutOp (s : State) (o : OpenOp) (status : Nat) : State :=
  match o.op with
  | 5 =>
    match s.bcasts.find? (fun b => b.fn == o.fn && b.handle == o.handle) with
    | some b => (s.bcastEnd b status).bcastClose b 0
    | none => s.endWith o status []
  | 6 => s.endDrain o status []
  | 7 => ({ s with
      restores := storeSet none s.restores (o.arg 0) none
      rebuilds := s.rebuilds.filter (fun b => !(b.job == o.arg 0 && b.use == 0)) }).endWith o status []
  | 3 => if ((s.run (o.arg 0)).bind (·.img)).isSome then s.dropImage (o.arg 0) else s.endWith o status []
  | _ => s.endWith o status []

/-! ## IMAGE_LOAD -/

/-- A load leaves the queue; LOAD_BUSY shows whether another one runs (R496). -/
def State.popLoad (s : State) : State :=
  let s := { s with loads := s.loads.drop 1 }
  s.setFld BIT_STATUS_LOAD_BUSY (if s.loads.isEmpty then 0 else 1)

/-- BIT_FAIL and the counter of a failed load or table image (R494, R504). -/
def State.noteFail (s : State) (j table : Nat) (f : LoadFail) : State :=
  let s := s.gcount (0x270 + f.reason) 1
  (s.setReg BIT_FAIL0 (BitVec.ofNat 32 (f.reason + j % 8 * 2 ^ 8 + table * 2 ^ 11 + f.part % 16 * 2 ^ 12 + f.type % 2 ^ 16 * 2 ^ 16))).setReg
    BIT_FAIL1 (BitVec.ofNat 32 f.offset)

/-- A load that ends before its commit: the slot is EMPTY again (R494). -/
def State.dropLoad (s : State) (l : Load) (status : Nat) : State :=
  ((s.setReg (BIT_SLOT_STATE (l.op.arg 0)) 0).popLoad).endWith l.op status []

/-- Program regions that pass 2 has written, zero-filled (R494). -/
def State.unplacePrograms (s : State) (i : Image) (j : Nat) : State :=
  let t := s.placeWords j i
  i.parts.foldl (fun u p => (List.range 16).foldl (fun u k =>
    if t.fld (MEM_REGION_KIND_KIND p k) = 1 then
      u.zeroUnits (hbmDatum p (t.fld (MEM_REGION_BASE_BASE p k))) (t.fld (MEM_REGION_LEN_LEN p k)) else u) u) s

/-- Steps 2 to 5 of the load at the head of the queue (R493): it fails, or it is ready for its commit. -/
def State.runLoad (s : State) : State :=
  match s.loads with
  | [] => s
  | l :: rest =>
    let j := l.op.arg 0
    let fail (t : State) (f : LoadFail) : State := (t.noteFail j 0 f).dropLoad l f.status
    if l.ready then s else
    match l.img with
    | none => fail s (hdrFail 0xD 0 stAborted)
    | some i =>
      match i.headerFail 1 (l.op.arg 3) with
      | some f => fail s f
      | none =>
        if i.parts.any (fun p => storeGet 0 s.owner p != 0) then s.dropLoad l stBusy
        else
          match firstFail [s.signFail i, i.layoutFail j, s.contentFail j i] with
          | some f => fail s f
          | none =>
            match i.secs.find? (·.changed) with
            | some x => fail (s.unplacePrograms i j) (i.failAt x.type x.part 0xE stBadImage)
            | none =>
              let l : Load := { l with ready := true, since := s.ftime }
              { s.placePrograms i with loads := l :: rest }

/-- The loads that wait, until one of them is ready or none is left. -/
def State.runLoads : Nat → State → State
  | 0, s => s
  | n + 1, s =>
    match s.loads with
    | [] => s
    | l :: _ => if l.ready then s else State.runLoads n s.runLoad

/-- OP_IMAGE_LOAD; `img` is the image as the module fetches it, none at a PCIe completion error. -/
def execOpImageLoad (f : Nat) (img : Option Image) (s : State) : Host.Outcome State Fault Refusal :=
  match s.submit f 1 with
  | (s, none) => .next s
  | (s, some o) =>
    let j := o.arg 0
    if 8 ≤ j then .next (s.abortArg o 0)
    else if s.fld (BIT_SLOT_STATE_STATE j) ≠ 0 then .next (s.endWith o stBusy [])
    else
      let s := ((s.setFld (BIT_SLOT_STATE_STATE j) 1).setFld BIT_STATUS_LOAD_BUSY 1)
      let s := { s with loads := s.loads ++ [(⟨o, img, false, 0⟩ : Load)] }
      .next (s.runLoads s.loads.length)

/-! ## The commit -/

/-- Partitions of logical device `v` of `d` (Table 16.14). -/
def devParts (d v : Nat) : Nat := if v < d then (2 ^ (8 / d) - 1) * 2 ^ (8 / d * v) else 0

/-- HIF_VF_MAP (R457, R459): laid out by FUSION, each device with the slot that runs on it. -/
def State.mapDevices (s : State) (j : Nat) (i : Image) (first : Bool) : State :=
  let d := (i.body secFusion).devices
  let s := if !first then s else forRange 8 (fun v t =>
    let ps := devParts d v &&& t.fld HIF_PART_ID_PART_MASK
    t.setReg (HIF_VF_MAP v) (BitVec.ofNat 32 (ps + if ps = 0 then 0 else 2 ^ 11))) s
  forRange 8 (fun v t => if t.fld (HIF_VF_MAP_PARTS v) &&& i.partMask = 0 then t else t.setFld (HIF_VF_MAP_JOB v) j) s

/-- Content of the module-wide sections in force, and of GRID and GROUPS of a slot (R492, R499). -/
def State.keepSections (s : State) (j : Nat) (i : Image) (first : Bool) : State :=
  let keep := if first then moduleWide.foldl (fun k t =>
    storeSet [] k t (if (i.sec t 0xF).isSome then [i.content t] else [])) s.slotKeep else s.slotKeep
  { s with slotKeep := storeSet [] keep (0x100 + j) [i.content secGrid, i.content secGroups] }

/-- Ports whose group changes its mode or its enable leave UP (R242). -/
def State.modePorts (s : State) (t : State) : State :=
  (List.range 24).foldl (fun u q =>
    let k := q / 4
    if t.fld (FAB_GROUP_CFG_MODE k) = u.fld (FAB_GROUP_CFG_MODE k) && t.fld (FAB_GROUP_CFG_EN k) = u.fld (FAB_GROUP_CFG_EN k) then u
    else
      let st := if t.flag (FAB_GROUP_CFG_EN k) then 1 else 0
      let u := if t.flag (FAB_GROUP_CFG_EN k) && u.domState (32 + k) = 2 then u.setDom (32 + k) 0 else u
      let u := match u.fld (FAB_PORT_STATUS_STATE q) with
        | 3 => u.leaveUp q st
        | 4 => u
        | _ => u.setFld (FAB_PORT_STATUS_STATE q) st
      u.setLink q { u.link q with since := u.ftime, partner := none }) s

/-- An empty send log. -/
def State.emptyLog (s : State) (p : Nat) : State :=
  { s.clearRegs (RCV_LOG_HEAD p) 4 with logBroken := s.logBroken.filter (fun x => x.1 != p) }

/-- Recovery and Hasp registers of a slot at the start of a job. -/
def State.startSlot (s : State) (j : Nat) (i : Image) : State :=
  let b := i.body secContinuity
  let s := s.clearRegs (RCV_J_STATUS j) 5
  let s := (forRange 16 (fun n t => t.setReg (RCV_J_DEAD j n) 0) s).clearRegs (RCV_J_DIVERT j 0) 2048
  let s := s.clearRegs (HSP_J_COST j) 3
  let s := (s.setReg (HSP_J_STATUS j) 0).setFld (HSP_J_MTBF_CUR_M j) (s.fld (HSP_J_MTBF_MTBF_S j))
  let s := match b.groups[b.own]? with
    | some g => (s.setReg (HSP_J_GROUP j) (BitVec.ofNat 32 ((g.rankOf s.gid).getD 0 +
        ((List.range 17).filter (fun r => g.gidOf r != 0)).length * 2 ^ 5 + g.gmin * 2 ^ 10))).setFld (HSP_J_LIVE_LIVE j) g.live
    | none => (s.setReg (HSP_J_GROUP j) 0).setFld (HSP_J_LIVE_LIVE j) 0
  let s := s.setFld (HSP_J_CFG_ROOT j) (if s.isRoot j then 1 else 0)
  { s with
    feeds := s.feeds.filter (fun x => x.job != j)
    rebuilds := s.rebuilds.filter (fun x => x.job != j)
    restores := storeSet none s.restores j none
    restoreMsgs := s.restoreMsgs.filter (fun x => mByte x.2 1 != j)
    rcopy := s.rcopy.filter (fun x => x.job != j)
    rcopyAsked := s.rcopyAsked.filter (fun x => mByte x.2 1 != j)
    ghbAt := s.ghbAt.filter (fun x => x.1 != j)
    silent := s.silent.filter (fun x => x.1 != j)
    earlyMsgs := s.earlyMsgs.filter (fun x => mByte x.2 1 != j)
    replayEta := s.replayEta.filter (fun c => s.jobOf (c.1 / 32) != j)
    jobOut := storeSet false s.jobOut j false
    updDone := storeSet false s.updDone j false
    rangeSeen := storeSet false s.rangeSeen j false
    thermStep := storeSet false s.thermStep j false
    thermLast := storeSet 0 s.thermLast j 0
    pStep := storeSet 0 (storeSet 0 s.pStep j 0) (8 + j) 0 }

/-- What the module keeps of a slot whose job has just been loaded: the hinge before the step its entries name. -/
def newRun (i : Image) (step ftime : Nat) : JobRun where
  step := (step + 2 ^ 32 - 1) % 2 ^ 32
  first := true
  arrived := false
  arriveAt := 0
  earliest := 0
  sent := false
  notices := []
  holds := []
  holdOwn := false
  reported := false
  relT := 0
  ack := false
  setHere := false
  chunks := []
  early := false
  faults := 0
  faultAt := 0
  lastSet := 0
  lastSetT := 0
  prevT := 0
  gaps := []
  failures := []
  failAt := ftime
  shape := i.fld 28 4
  dorounte := i.dorounte
  groups := (i.body secContinuity).groups
  own := (i.body secContinuity).own
  h := ((i.sec secHosting (i.parts.headD 0)).map (·.body.h)).getD 8
  up := none
  upTry := 0
  kidsLost := []
  kidsAdopted := []
  img := none
  flowImg := (i.body secJob).quota
  stretch := []
  cut := none
  genUp := false
  earlyCont := []

/-- Hasp slots of another job are zero-filled at the commit, those of this job kept for a restore (R493). -/
def State.takeSlots (s : State) (j p : Nat) (jobId : Nat) : State :=
  let s := s.setFld (HSP_SLOT_STATE_JOB p) j
  [false, true].foldl (fun t b =>
    match t.slotRegion p b with
    | none => t
    | some (base, len) =>
      if bits (t.rdBytes (64 * hbmDatum p base) 64) 64 32 = jobId && t.slotState p b ≠ slEmpty then t
      else
        let t := t.zeroUnits (hbmDatum p base) len
        let t := t.setFld (if b then HSP_SLOT_STATE_B_STATE p else HSP_SLOT_STATE_A_STATE p) 0
        let t := t.setFld (if b then HSP_SLOT_STATE_B_PIN p else HSP_SLOT_STATE_A_PIN p) 0
        t.setReg (if b then HSP_SLOT_EPOCH_B p else HSP_SLOT_EPOCH_A p) 0xFFFFFFFF) s

/-- Entries that hold a shard leave FREE for LOADING and then ACTIVE, with their tumblers at a step count of 0. -/
def State.startEntries (s : State) (p : Nat) : State :=
  (s.hosted p).foldl (fun t e =>
    let w := t.tumWin p e
    let t := forRange w.2 (fun n u => (u.setFld (TMB_VALUE_VALUE p (w.1 + n)) 0).setFld (TMB_SNAP_SNAP p (w.1 + n)) 0) t
    ((t.clearShard p e).setFld (CAM_HOST_W0_STATE p e) 2).setFld (CAM_HOST_W7_POS p e) 0) s

/-- The commit of a job image (step 6 of R493). -/
def State.commitImage (s : State) (j : Nat) (i : Image) : State :=
  let first := !s.anyLoaded
  let s := s.modePorts (s.placeWords j i)
  let s := s.placeWords j i
  let s := (s.setFld (FAB_JOB_ID_JOB_ID j) i.jobId).setFld (FAB_JOB_GEN_GEN j) i.gen
  let s := ((s.setReg (FAB_PW_CUR_LO j) (s.reg (FAB_PW_LO j))).setReg (FAB_PW_CUR_HI j) (s.reg (FAB_PW_HI j))).setReg
    (act (PWR_J_LIMIT j)) (s.reg (PWR_J_LIMIT j))
  let s := s.setFld (FAB_JOB_FLOW_FLOW_QUOTA j) (flowQuota (i.body secJob).quota (s.fld (PWR_J_LIMIT_FLOW_LIMIT j)))
  let s := (s.countFlows j).assignPlanes j
  let s := (s.mapDevices j i first).keepSections j i first
  let s := (s.setReg (BIT_SLOT_ID j) (BitVec.ofNat 32 i.id)).setReg (BIT_SLOT_STATE j) (BitVec.ofNat 32
    (2 + i.keySlot * 4 + (if i.newer then 16 else 0) + (if i.dorounte then 64 else 0) + min (i.fld 6 1) 3 * 2 ^ 8))
  let s := ((s.setReg (BIT_SLOT_SHAPE j) (BitVec.ofNat 32 (i.fld 28 4))).setReg (BIT_SLOT_TABLE j) 0).setFld BIT_STATUS_LOCKED 1
  let s := s.setFld ⟨DBG_GSTATUS, 8 + j, 1⟩ 0
  let s := s.startSlot j i
  let s := i.parts.foldl (fun t p => ((t.takeSlots j p i.jobId).emptyLog p).startEntries p) s
  let kept := i.parts.any (fun p => s.slotState p false != slEmpty || s.slotState p true != slEmpty)
  let s := if kept then s else s.setReg (HSP_J_EPOCH j) 0xFFFFFFFF
  let s := i.parts.foldl (fun t p => (List.range 4).foldl (fun u d =>
    let dom := 4 * p + d
    if u.domState dom = 3 then u else u.setDom dom 0) t) s
  let step := match i.parts.flatMap (fun p => (s.hosted p).map (fun e => s.fld (CAM_HOST_W6_STEP p e))) with
    | k :: _ => k
    | [] => 0
  let s := { s with jobs := storeSet none s.jobs j (some (newRun i step s.ftime)) }
  let s := (s.computeN j).setPhase j 1
  let s := s.setFld ⟨DBG_GSTATUS, 8 + j, 1⟩ 0
  if s.flag RCV_FENCE_FENCED then ((s.setReg RCV_FENCE 0).setReg RCV_FENCE_JOB 0).syncHealth else s

/-- IMAGE_LOAD_COMMIT (R283, R493): pass 2 has ended and fabric time is VALID. -/
def execImageLoadCommit (s : State) : Host.Outcome State Fault Refusal :=
  match s.loads with
  | [] => .next s
  | l :: _ =>
    match l.img with
    | none => .next s
    | some i =>
      if !l.ready || !s.flag FAB_TIME_STATUS_VALID then .next s
      else
        let s := ((s.commitImage (l.op.arg 0) i).popLoad).endWith l.op stOk
          [i.id, i.fld 4 1 * 256 + min (i.fld 6 1) 3, if i.newer then 1 else 0]
        .next (s.runLoads s.loads.length)

/-- IMAGE_LOAD_VALID_TIMEOUT (R283): 10 s without fabric time VALID. -/
def execImageLoadValidTimeout (s : State) : Host.Outcome State Fault Refusal :=
  match s.loads with
  | [] => .next s
  | l :: _ =>
    if !l.ready || s.flag FAB_TIME_STATUS_VALID || decide (s.ftime < l.since + 40000000000) then .next s
    else
      let j := l.op.arg 0
      let s := match l.img with | some i => s.unplacePrograms i j | none => s
      let s := (s.noteFail j 0 (hdrFail 0xF 0 stTimeout)).dropLoad l stTimeout
      .next (s.runLoads s.loads.length)

/-! ## IMAGE_UNLOAD (R498) -/

/-- Whether an open operation belongs to a job slot. -/
def OpenOp.ofSlot (o : OpenOp) (j : Nat) : Bool :=
  (o.op == 3 || o.op == 4 || o.op == 5 || o.op == 6 || o.op == 7 || o.op == 8 || o.op == 9) && o.arg 0 == j

/-- Flow contexts and tables of a slot, cleared in both banks; its shares drop to 0. -/
def State.clearTables (s : State) (j : Nat) : State :=
  let fs := s.jobFlows j
  let s := fs.foldl (fun t f => t.writeFlow f []) s
  let s := { s with
    txq := s.txq.filter (fun x => match x.flow with | some f => !fs.contains f | none => true)
    intq := s.intq.filter (fun x => match x.flow with | some f => !fs.contains f | none => true)
    flowHold := s.flowHold.filter (fun c => !fs.contains c.1)
    flowDrain := s.flowDrain.filter (fun c => !fs.contains c.1)
    buckets := storeClear s.buckets (8 * j) 8
    tblCopy := s.tblCopy.filter (· != j) }
  let s := s.imgClear (slotBanks j)
  let s := s.imgClear [(FAB_SHARE j 0, 6)]
  let s := ((s.clearRegs (FAB_PW_CUR_LO j) 2).setFld ⟨FAB_TBL_CTRL, j, 1⟩ 0).setReg (BCT_FLOWS j) 0
  let s := (s.setFld (HSP_J_FLOW_HFLOW_BASE j) 0).countFlows j
  s.setFld FAB_TBL_CTRL_COPY_BUSY (if s.tblCopy.isEmpty then 0 else 1)

/-- Every region of a partition's stack but the Hasp slots, and its tile store, zero-filled. -/
def State.zeroRegions (s : State) (p : Nat) : State :=
  let s := (List.range 16).foldl (fun t k =>
    let kind := t.fld (MEM_REGION_KIND_KIND p k)
    if kind = 0 || kind = 5 || kind = 6 then t
    else t.zeroUnits (hbmDatum p (t.fld (MEM_REGION_BASE_BASE p k))) (t.fld (MEM_REGION_LEN_LEN p k))) s
  s.zeroUnits (tsDatum p 0) 0xC0000

/-- What is left of a job slot leaves the module; the Hasp slots and memory stay. -/
def State.forgetSlot (s : State) (j : Nat) : State :=
  let s := (s.startSlot j ⟨[], [], []⟩).hingeGuards j
  let s := { s with
    owner := s.owner.filter (fun c => c.2 != j + 1)
    jobs := storeSet none s.jobs j none
    slotKeep := storeSet [] s.slotKeep (0x100 + j) [] }
  let s := (((s.setReg (BIT_SLOT_ID j) 0).setReg (BIT_SLOT_STATE j) 0).setReg (BIT_SLOT_SHAPE j) 0).setReg (BIT_SLOT_TABLE j) 0
  let s := (s.setReg (FAB_JOB_ID j) 0).setReg (FAB_JOB_GEN j) 0
  let s := (s.setReg (FAB_JOB_FLOW j) 0).setFld (HSP_J_CFG_ROOT j) 0
  if s.anyLoaded then s
  else { s.setFld BIT_STATUS_LOCKED 0 with slotKeep := moduleWide.foldl (fun k t => storeSet [] k t []) s.slotKeep }

/-- The unloading of a slot. -/
def State.unloadSlot (s : State) (j : Nat) (status : Nat) : State :=
  let s := (s.ops.filter (fun o => o.ofSlot j)).foldl (fun t o => t.cutOp o status) s
  let ps := s.slotParts j
  let s := ps.foldl (fun t p => forRange 32 (fun e u => u.freeEntry p e) (t.ctxResetAll p)) s
  let s := s.clearTables j
  let s := ps.foldl (fun t p => (t.zeroRegions p).emptyLog p) s
  s.forgetSlot j

/-- OP_IMAGE_UNLOAD (R498). -/
def execOpImageUnload (f : Nat) (s : State) : Host.Outcome State Fault Refusal :=
  match s.submit f 2 with
  | (s, none) => .next s
  | (s, some o) =>
    let j := o.arg 0
    if 8 ≤ j || s.fld (BIT_SLOT_STATE_STATE j) ≠ 2 then .next (s.abortArg o 0)
    else .next ((s.unloadSlot j stAborted).endWith o stOk [])

/-! ## TABLE_LOAD (R499, R500) -/

/-- Sections that a table image may hold. -/
def tableSecs : List Nat := [secJob, secFlows, secDest, secRekey, secGroups, secTree]

/-- Words that a section of a table image sets: of JOB the plane weights and shares alone. -/
def tableAllows (t j a : Nat) : Bool :=
  if t = secJob then inWords a (FAB_SHARE j 0) 6 || a == FAB_PW_LO j || a == FAB_PW_HI j
  else if t = secFlows then false
  else if t = secTree then inWords a (BCT_JHDR_W0 j) 2 || inWords a (BCT_JREL j 0) 587
  else secAllows t 0xF j [] a

/-- Shadow banks with the words of a table image in place. -/
def State.placeShadow (s : State) (i : Image) : State :=
  i.known.foldl (fun t x => x.body.regs.foldl (fun u r => u.setReg r.1 (BitVec.ofNat 32 (u.imgWord r.1 r.2))) t) s

/-- Checks of a table image for slot `j` (R499). -/
def State.tableFail (s : State) (j : Nat) (r : JobRun) (i : Image) : Option LoadFail :=
  let bad (ty part : Nat) : LoadFail := i.failAt ty part 0xC stBadImage
  let t := s.placeShadow i
  let fl := (i.body secFlows).flows
  let u := fl.foldl (fun u f => u.writeFlow f.1 f.2) t
  firstFail [
    (i.secs.find? (fun x => secKnown x.type && (!tableSecs.contains x.type || !x.body.regs.all (fun w => tableAllows x.type j w.1)))).map
      (fun x => i.failAt x.type x.part 9 stBadImage),
    failIf (i.fld 32 4 ≠ (s.reg (BIT_SLOT_ID j)).toNat) (hdrFail 0xC 32 stBadImage),
    failIf (i.jobId ≠ s.fld (FAB_JOB_ID_JOB_ID j)) (hdrFail 0xC 20 stBadImage),
    failIf (!genNewer i.gen (s.fld (FAB_JOB_GEN_GEN j))) (hdrFail 0xC 24 stBadImage),
    failIf ((i.sec secGroups 0xF).isSome && !r.dorounte) (bad secGroups 0xF),
    failIf (fl.any (fun f => u.fld (fcJob f.1) != j || (s.fld (fcKind f.1) != 0 && s.fld (fcJob f.1) != j))) (bad secFlows 0xF),
    failIf (decide (s.fld (FAB_JOB_FLOW_FLOW_QUOTA j) < (u.jobFlows j).length)) (i.failAt secFlows 0xF 0xC stQuota),
    failIf (!r.dorounte && (List.range 17).any (fun rank =>
      match r.group with
      | some g => g.gidOf rank != 0 && g.gidOf rank != s.gid &&
          (u.fld (fcKind (s.fld (HSP_J_FLOW_HFLOW_BASE j) + rank)) != 1 || u.fld (fcKind (s.fld (HSP_J_FLOW_HFLOW_BASE j) + 17 + rank)) != 2)
      | none => false)) (bad secFlows 0xF),
    failIf (!destSecOk (i.body secDest).regs) (bad secDest 0xF),
    failIf (!t.rekeySecOk { i with hdr := i.hdr.take 11 ++ [255] ++ i.hdr.drop 12 } ((i.body secRekey).regs) j) (bad secRekey 0xF),
    failIf ((i.sec secGroups 0xF).isSome && !t.groupsOk j) (bad secGroups 0xF),
    failIf ((i.sec secTree 0xF).isSome && !t.treeOk j) (bad secTree 0xF),
    failIf ((List.range 6).any (fun k => decide (256 < ((List.range 8).filter s.slotLoaded).foldl (fun n x =>
      n + (if x = j then t.fld (FAB_SHARE_SHARE x k) else s.fld (actFld (FAB_SHARE_SHARE x k)))) 0))) (i.failAt secJob 0xF 0xC stQuota)]

/-- OP_TABLE_LOAD; `peers` as at the recovery hinge, for a Dorounte cut that the image brings (R378). -/
def execOpTableLoad (f : Nat) (img : Option Image) (peers : Bool) (s : State) : Host.Outcome State Fault Refusal :=
  match s.submit f 3 with
  | (s, none) => .next s
  | (s, some o) =>
    let j := o.arg 0
    match (if j < 8 then s.run j else none) with
    | none => .next (s.abortArg o 0)
    | some r =>
      let dest (i : Image) : Bool := (i.sec secDest 0xF).isSome
      if r.img.isSome then .next (s.endWith o stBusy [])
      else
        let fail (x : LoadFail) : State := (s.noteFail j 1 x).endWith o x.status []
        match img with
        | none => .next (fail (hdrFail 0xD 0 stAborted))
        | some i =>
          match firstFail [i.headerFail 2 (o.arg 3), s.signFail i, i.layoutFail j, s.tableFail j r i] with
          | some x => .next (fail x)
          | none =>
            match i.secs.find? (·.changed) with
            | some x => .next (fail (i.failAt x.type x.part 0xE stBadImage))
            | none =>
              if dest i && s.flag FAB_TBL_CTRL_DEST_ARM then .next (s.endWith o stBusy []) else
              let keep := storeGet [] s.slotKeep (0x100 + j)
              let groups := if (i.sec secGroups 0xF).isSome then i.content secGroups else keep.getD 1 []
              let cut := (i.sec secGroups 0xF).isSome
              let t : TableImg := ⟨i.gen, (i.body secFlows).flows, cut, (i.sec secTree 0xF).isSome, dest i,
                shapeCode (keep.getD 0 []) groups, i.id⟩
              let s := (s.copyTables).placeShadow i
              let s := s.setFld ⟨FAB_TBL_CTRL, j, 1⟩ 1
              let s := if dest i then (s.setFld FAB_TBL_CTRL_DEST_ARM 1).setFld FAB_TBL_CTRL_DEST_JOB j else s
              let s := (s.setFld (BIT_SLOT_STATE_TABLE_ARMED j) 1).updRun j (fun r => { r with img := some t })
              .next (if cut then s.takeCut j 0 i.gen false false peers else s)

/-! ## PROGRAM_LOAD (R160) -/

/-- OP_PROGRAM_LOAD; `prog` is the program as the module fetches it, none at a PCIe completion error. -/
def execOpProgramLoad (f : Nat) (prog : Option (List Nat)) (s : State) : Host.Outcome State Fault Refusal :=
  match s.submit f 4 with
  | (s, none) => .next s
  | (s, some o) =>
    let j := o.arg 0
    let p := o.arg 1 % 16
    let e := o.arg 1 / 256 % 32
    match (if j < 8 && s.vfOwnsJob f j then s.run j else none) with
    | none => .next (s.abortArg o 0)
    | some r =>
      let st := s.fld (CAM_HOST_W0_STATE p e)
      if 8 ≤ p || storeGet 0 s.owner p ≠ j + 1 then .next (s.abortArg o 1)
      else if st = 2 || st = 3 then .next (s.endWith o stBusy [])
      else if o.arg 4 = 0 || o.arg 4 % 64 ≠ 0 then .next (s.abortArg o 4)
      else
        match prog with
        | none => .next (s.endWith o stAborted [])
        | some l =>
          let n := o.arg 4 / 64
          let base := s.fld (CAM_HOST_W1_PROG_BASE p e)
          let t := (s.hbmPut (64 * hbmDatum p base) (l.take (64 * n)) (fun _ => false)).setFld (CAM_HOST_W2_PROG_LEN p e) n
          let path := (((r.group.map (·.shards)).getD []).find? (fun x => x.lsid == s.lsidOf p e)).map (·.path)
          let strict := path == some 1 || path == some 2
          if 2 ^ 24 ≤ n || !s.inRegion p 1 base n || !(List.range n).all (fun k => t.descOk j p e k strict) then
            .next (s.endWith o stBadImage [])
          else .next (t.endWith o stOk [n])

/-! ## ABORT (R470) -/

/-- Whether ABORT ends an operation: Table 16.5, and R470 for a table image that is armed. -/
def mayAbort (op : Nat) : Bool := op == 1 || op == 4 || op == 5 || op == 6 || op == 0xB

/-- OP_ABORT: the target's own function, or any function's operation where the PF issues it. -/
def execOpAbort (f : Nat) (s : State) : Host.Outcome State Fault Refusal :=
  match s.submit f 0xD with
  | (s, none) => .next s
  | (s, some o) =>
    let named (x : OpenOp) : Bool := x != o && x.handle == o.arg 0
    let own := s.ops.find? (fun x => named x && x.fn == f)
    match (if own.isSome || f ≠ 0 then own else s.ops.find? named) with
    | none => .next (s.abortArg o 0)
    | some x =>
      if !mayAbort x.op then .next (s.endWith o stBusy [])
      else
        match s.loads.find? (fun l => l.op == x) with
        | some l =>
          let running := s.loads.head? == some l
          let s := match l.img with
            | some i => if running && l.ready then s.unplacePrograms i (l.op.arg 0) else s
            | none => s
          let s := { s with loads := s.loads.filter (fun y => y != l) }
          let s := (s.setReg (BIT_SLOT_STATE (l.op.arg 0)) 0).setFld BIT_STATUS_LOAD_BUSY (if s.loads.isEmpty then 0 else 1)
          let s := (s.endWith x stAborted []).endWith o stOk [stAborted]
          .next (s.runLoads s.loads.length)
        | none => .next ((s.cutOp x stAborted).endWith o stOk [stAborted])

end Sys2Proof.Machine
end

