-- ==== Sys2Proof/Machine/Access.lean ====
section
/-! DEFINITION. Host access to registers: powered-down domains (R462), the rights of a virtual function (R458), reads
with a behaviour of their own (R529), and plain writes under the access codes (R16, R495). -/
namespace Sys2Proof.Machine

/-! ## Powered-down domains (R461, R462) -/

/-- Power domain of the block at an offset of the window of partition `p` (Table 16.3). -/
def blockDomain (p off : Nat) : Nat :=
  if off < 0x80000 then 4 * p + 1
  else if off < 0xC0000 then 4 * p
  else if off < 0x140000 then 4 * p + 1
  else if off < 0x180000 then 4 * p + 3
  else if off < 0x1C0000 then 4 * p + 2
  else 4 * p + 1

/-- Whether a partition is under reset. -/
def State.partInReset (s : State) (p : Nat) : Bool := s.rstRun.any (fun r => r.kind == 2 && unitPart r.unit == p)

/-- Whether a domain of a partition gives no answer: in A2, off, or its partition under reset. -/
def State.domDown (s : State) (d : Nat) : Bool := decide (2 ≤ s.domState d) || s.partInReset (d / 4)

/-- Domain of a mailbox (Table 16.9); none where it is never switched off. -/
def mbxDomain (n : Nat) : Option Nat := if n < 32 then some (4 * (n / 4) + 1) else none

/-- Mailbox whose registers hold a BAR4 address. -/
def mbxOf (a : Nat) : Option Nat := if 0x10000000 ≤ a && a < 0x10004000 then some ((a - 0x10000000) / 256) else none

/-- Whether an address lies in the window or a mailbox of a partition that is absent (R2). -/
def State.absentReg (s : State) (a : Nat) : Bool :=
  match partWindow a with
  | some (p, _) => !s.present p
  | none => match (mbxOf a).bind mbxDomain with
    | some d => !s.present (d / 4)
    | none => false

/-- Whether a register lies in a powered-down domain (R462). -/
def State.regDown (s : State) (a : Nat) : Bool :=
  match partWindow a with
  | some (p, off) => s.domDown (blockDomain p off)
  | none => match (mbxOf a).bind mbxDomain with
    | some d => s.domDown d
    | none => false

/-! ## Rights of a function (R457, R458) -/

/-- Whether a hub register of BAR0 is open to job slot `j` (R275, R319, R343, R379, R504, R526, R527). -/
def State.openToJob (s : State) (j a : Nat) (write : Bool) : Bool :=
  a == FAB_JOB_GEN j ||
  (decide (COL_STATUS ≤ a) && decide (a < COL_GHDR_W0 0 0) && s.fld COL_CAP1_JOB == j) ||
  (decide (HSP_J_CFG j ≤ a) && decide (a < HSP_J_CFG j + 0x40) && a != HSP_J_MTBF j) ||
  (decide (RCV_J_STATUS j ≤ a) && decide (a < RCV_J_STATUS (j + 1))) ||
  a == BIT_SLOT_ID j || a == BIT_SLOT_STATE j || a == BIT_SLOT_SHAPE j ||
  (!write && (a == PWR_J_LIMIT j || a == PWR_J_QSTAT j)) || a == CLK_J_REQ j || a == CLK_J_CUR j

/-- Whether function `f` reaches a register. -/
def State.mayReach (s : State) (f a : Nat) (write : Bool) : Bool :=
  if f = 0 then true
  else if 8 < f || !s.flag (HIF_VF_MAP_VALID (f - 1)) then false
  else
    let j := s.fld (HIF_VF_MAP_JOB (f - 1))
    match partWindow a with
    | some (p, off) => bitAt (s.vfParts f) p && (off < 0x1C0000 || storeGet 0 s.owner p != 0)
    | none =>
      s.openToJob j a write ||
      -- Hasp registers of a partition
      (decide (HSP_SLOT_STATE 0 ≤ a) && decide (a < HSP_SLOT_STATE 8) && bitAt (s.vfParts f) ((a - HSP_SLOT_STATE 0) / 0x200)) ||
      a == HIF_FN_STATUS f || a == HIF_BAR2_BASE f || a == HIF_IRQ_MOD f ||
      (decide (HIF_OP_REQ f 0 ≤ a) && decide (a < HIF_OP_REQ f 0 + 0x1000)) ||
      (decide (HIF_CQ_BASE_LO f ≤ a) && decide (a < HIF_CQ_BASE_LO f + 0x1000)) ||
      mbxOf a == some (39 + f)

/-! ## Reads -/

/-- Both words of a counter (Table 19.9, Table 19.10). -/
def cntWords (time : Bool) (v : Nat) : Nat :=
  v % 2 ^ 48 + (if !time && v = cntMax then 2 ^ 48 else 0) + (if time then 2 ^ 49 else 0)

/-- Value of the 64-bit pair at an even word where the pair is a counter or the fabric time. -/
def State.pairAt (s : State) (a : Nat) : Option Nat :=
  match partWindow a with
  | some (p, off) =>
    if 0x1C0000 ≤ off && off < 0x1C2000 then
      let n := (off - 0x1C0000) / 8
      some (cntWords (cntIsTime n) (storeGet 0 s.cnt (cntKey p n)))
    else none
  | none =>
    if DBG_GCNT_LO 0 ≤ a && a < DBG_GCNT_LO 1024 then
      let n := (a - DBG_GCNT_LO 0) / 8
      some (cntWords (gcntIsTime n) (storeGet 0 s.cnt (gcntKey n)))
    else if a / 8 * 8 = FAB_TIME_LO then some (s.ftime % 2 ^ 64)
    else none

/-- A register word as it stands, where something other than the register itself holds its value. -/
def State.liveWord (s : State) (a : Nat) : Option Nat :=
  match partWindow a with
  | some (p, _) =>
    if a = CAM_STEP_CYCLES_LO p then some (s.stepCycles p % 2 ^ 32)
    else if a = CAM_STEP_CYCLES_HI p then some (s.stepCycles p / 2 ^ 32)
    else if a = VXE_STATUS p then
      let busy (e : Nat) : Nat := match storeGet none s.vxEng (2 * p + e) with
        | some x => if x.busy then 2 ^ e else 0
        | none => 0
      some ((s.reg a).toNat / 4 * 4 + busy 0 + busy 1)
    else if VXE_SHARD_SREG p 0 ≤ a && a < VXE_SHARD_SREG p 32 then
      let v := storeGet 0 s.shardS (shardKey p (storeGet 0 s.issuing p) ((a - VXE_SHARD_SREG p 0) / 8))
      some (v / 2 ^ (8 * ((a - VXE_SHARD_SREG p 0) % 8)) % 2 ^ 32)
    else if a = VXE_SHARD_SPOISON p then
      some (maskOf ((List.range 32).map (fun n => storeGet false s.shardP (shardKey p (storeGet 0 s.issuing p) n))))
    else if TRC_WIN p ≤ a && a < TRC_WIN p + 0x10000 then
      let o := a - TRC_WIN p
      some (bits (storeGet 0 s.trcBuf (p * trcSlots + 4096 * s.fld (TRC_WIN_SEL_PAGE p) + o / 16)) (8 * (o % 16)) 32)
    else none
  | none =>
    if a = KPR_ESC_COUNT then
      let n (kind w : Nat) : Nat :=
        min 15 (s.rstLog.filter (fun x => x.kind == kind && decide (s.fld EVR_OPMIN_OPMIN < x.opmin + w))).length
      some ((s.reg a).toNat / 256 * 256 + n 4 1440 * 16 + n 3 (max 1 (s.fld KPR_ESC_CFG_ESC_WINDOW)))
    else if shadowBank a && a < 0x2000000 && !(decide (FAB_PW_LO 0 ≤ a) && decide (a < FAB_PW_LO 8)) && s.flag FAB_TBL_CTRL_READ_ACTIVE then
      some (s.reg (act a)).toNat
    else none

/-- A register word without side effects. -/
def State.readWord (s : State) (a : Nat) : Nat :=
  match s.pairAt a with
  | some v => if a % 8 = 4 then v / 2 ^ 32 else v % 2 ^ 32
  | none => (s.liveWord a).getD (s.reg a).toNat

/-- A read that completes: of one word, or of both words of a pair in one instant. A low word latches its high word,
which the next read of the high word returns (R277, R529). -/
def State.readReg (s : State) (a : Nat) (wide : Bool) : State × Nat :=
  if wide then (s, s.readWord a + s.readWord (a + 4) * 2 ^ 32)
  else match s.pairAt a with
    | some v =>
      if a % 8 = 0 then ({ s with latch := storeSet 0 s.latch (a + 4) (v / 2 ^ 32 + 1) }, v % 2 ^ 32)
      else match storeGet 0 s.latch a with
        | 0 => (s, v / 2 ^ 32)
        | l + 1 => ({ s with latch := storeSet 0 s.latch a 0 }, l)
    | none => (s, s.readWord a)

/-- Whether an address is that of a SUBMIT word. -/
def submitWord (a : Nat) : Bool := (List.range 9).any (fun f => a == HIF_OP_SUBMIT f || a == HIF_OP_SUBMIT f + 4)

/-- REGISTER_READ (R458, R461, R462, R464, R529) of function `f`. -/
def execRegisterRead (f a : Nat) (wide : Bool) (s : State) : Host.Outcome State Fault Refusal :=
  if s.boot ≠ .running || 8 < f || a % 4 ≠ 0 then .next s
  else if !s.mayReach f a false || s.absentReg a then .next (s.emit (.answer 0 false))
  else if s.regDown a then .next (s.unsupported f)
  else if submitWord a then .next (if wide then s else s.unsupported f)
  else
    let (s, v) := s.readReg a wide
    .next (s.emit (.answer v false))

/-! ## Writes -/

/-- Bits of a register whose writing is a command of its own. -/
def ownBits (a : Nat) : Nat :=
  let all := 0xFFFFFFFF
  match partWindow a with
  | some (p, _) =>
    if TMB_VALUE p 0 ≤ a && a < TMB_VALUE p 4096 then all
    else if (List.range 4).any (fun m => a == CAM_RING_TAIL p m) then all
    else if (List.range 4).any (fun m => a == CAM_RING_CTRL p m) then 1
    else if VXE_SREG_LO p 0 ≤ a && a < VXE_SREG_LO p 32 then all
    else if a = UPD_ETA p || a = DBG_CNT_CLEAR p then all
    else if a = TRC_CTRL p then all else 0
  | none =>
    if shadowBank a then all
    else if a = FAB_TBL_CTRL then 0xFFF
    else if FAB_LANE_READMIT 0 ≤ a && a < FAB_LANE_READMIT 6 then all
    else if a = KPR_ERR_HEAD || a = KPR_ESC_CLEAR || a = DBG_GCNT_CLEAR then all
    else if a = KPR_RST_REQ || a = MBX_RSEND_CTRL then 2 ^ 31
    else if a = PWR_CAP then 0x7FF
    else if a = PWR_A3 then 3
    else if PWR_DOM 0 ≤ a && a < PWR_DOM 40 then 0xC
    else if (List.range 8).any (fun j => a == HSP_J_MTBF j) then all
    else if (List.range 9).any (fun f => a == HIF_CQ_HEAD f) then all
    else if (List.range 9).any (fun f => a == HIF_CQ_SIZE f) then 0x100
    else match mbxOf a with
      | some n => if a < MBX_STATUS n || a = MBX_TAKE n then all else 0
      | none => 0

/-- Bits of a register whose writes are ignored while another field stands (Table 6.9, Table 16.13, R539). -/
def State.heldBits (s : State) (a : Nat) : Nat :=
  match partWindow a with
  | some (p, _) =>
    if (List.range 4).any (fun m => s.flag (CAM_RING_CTRL_ENABLE p m) &&
        (a == CAM_RING_BASE p m || a == CAM_RING_SIZE p m || a == CAM_RING_TWIN p m)) then 0xFFFFFFFF
    else if s.flag (TRC_CFG_EN p) && (a = TRC_PRE p || a = TRC_POST p) then 0xFFFFFFFF
    else if s.flag (TRC_CFG_EN p) && a = TRC_CFG p then 3 else 0
  | none =>
    if (List.range 9).any (fun f => s.flag (HIF_CQ_SIZE_ENABLE f) &&
        (a == HIF_CQ_BASE_LO f || a == HIF_CQ_BASE_HI f || a == HIF_CQ_SIZE f)) then 0xFFFFFFFF
    else 0

/-- Whether the RWL fields of a register are locked, by their scope: partition, job slot or module (R495). -/
def State.rwlLocked (s : State) (a : Nat) : Bool :=
  match partWindow a with
  | some (p, _) => storeGet 0 s.owner p != 0
  | none =>
    match (List.range 8).find? (fun j => (decide (HSP_J_CFG j ≤ a) && decide (a < HSP_J_CFG j + 0x40)) || a == BCT_FLOWS j) with
    | some j => s.slotLoaded j
    | none => s.flag BIT_STATUS_LOCKED

/-- A write of a locked field: ignored, counted, LOCK_WRITE (R16, R495). -/
def State.lockWrite (s : State) : State := (s.setFld BIT_STATUS_LOCK_WRITE 1).gcount 0x280 1

/-- What a plain write brings about beside the value it stores: the shadows of Table 2.11, the start of a recording
(R537), ports whose group changes (R240). -/
def State.afterWrite (s : State) (a old : Nat) : State :=
  match partWindow a with
  | some (p, _) =>
    if a = CAM_STRETCH p then
      let s := s.setFld (CAM_STRETCH_STRETCH p) (min 0x4000 (max 0x1000 (s.fld (CAM_STRETCH_STRETCH p))))
      if s.jobOf p = 8 then s.setReg (act a) (s.reg a) else s
    else if a = TRC_CFG p then
      if !bitAt old 4 && s.flag (TRC_CFG_EN p) && s.trcMode p ≠ 0 && s.fld (TRC_STATUS_STATE p) = 0 then s.trcTime p else s
    else s
  | none =>
    match (List.range 8).find? (fun j => a == PWR_J_LIMIT j || (List.range 6).any (fun k => a == FAB_SHARE j k)) with
    | some j => if s.slotLoaded j then s.setFld (PWR_J_QSTAT_CUT_PENDING j) 1 else s.setReg (act a) (s.reg a)
    | none => s

/-- A word written to a register by an agent that reaches it: its access code decides (Table 0.7). -/
def State.writeReg (s : State) (a v : Nat) : State :=
  match regRow a with
  | none => s
  | some (r, _) =>
    let lock := s.rwlLocked a
    let s := if lock && decide (r.rwl ≠ 0) then s.lockWrite else s
    let old := (s.reg a).toNat
    let own := ownBits a ||| s.heldBits a
    let r' : RegRow := { r with
      rw := r.rw &&& (0xFFFFFFFF - own), w1c := r.w1c &&& (0xFFFFFFFF - own), rwl := r.rwl &&& (0xFFFFFFFF - own), w1s := 0 }
    let t := s.setReg a (BitVec.ofNat 32 (maskWrite r' old (v % 2 ^ 32) lock))
    -- a GO whose scope names no kind of reset (Table 14.7)
    let t := if a = KPR_RST_REQ && bitAt v 31 && decide (5 ≤ v % 8) then t.setFld KPR_RST_STATUS_REQ_REJECT 1 else t
    let t := if FAB_GROUP_CFG 0 ≤ a && a < FAB_GROUP_CFG 6 then (s.modePorts t).setReg a (t.reg a) else t
    t.afterWrite a old

/-- REGISTER_WRITE of function `f`. -/
def execRegisterWrite (f a v : Nat) (s : State) : Host.Outcome State Fault Refusal :=
  if s.boot ≠ .running || 8 < f || a % 4 ≠ 0 || 0x10100000 ≤ a || s.absentReg a then .next s
  else if !s.mayReach f a true then .next (s.denied f)
  else if s.regDown a then .next (s.dropWrite f)
  else if MBX_RSEND_DATA ≤ a && a < MBX_RSEND_CTRL && s.flag MBX_RSEND_STATUS_BUSY then .next (s.setFld (HIF_FN_STATUS_DENIED f) 1)
  else .next (s.writeReg a v)

end Sys2Proof.Machine
end

