-- ==== Sys2Proof/Machine/HostOps.lean ====
section
/-! DEFINITION. Operations of the host beside the images: self-test, recorder readout, unit-history edits, refused
submissions; the completion rings, host access to HBM, interrupts and the function level reset (chapter 16). -/
namespace Sys2Proof.Machine

/-! ## SUBMIT refused (R464, R466) -/

/-- SUBMIT_REFUSED: a read of SUBMIT of function `f` whose request names an unknown operation or format, or a 4-byte
read of either half. -/
def execSubmitRefused (f : Nat) (wide : Bool) (s : State) : Host.Outcome State Fault Refusal :=
  if s.boot ≠ .running || 8 < f then .next s
  else if !wide then .next (s.unsupported f)
  else
    let op := s.reqWord f 0 % 256
    if op = 0 || 0xD < op then
      (if f ≠ 0 then .next (s.unsupported f) else .next (s.submitAnswer f (s.reqWord f 1) stVersion))
    else if s.reqWord f 0 / 256 % 256 ≠ 1 && (f = 0 || vfMay op) then .next (s.submitAnswer f (s.reqWord f 1) stVersion)
    else .next s

/-! ## SELF_TEST (R469) -/

/-- OP_SELF_TEST; `fails` gives the units whose built-in test fails. -/
def execOpSelfTest (f : Nat) (fails : List Nat) (s : State) : Host.Outcome State Fault Refusal :=
  match s.submit f 0xA with
  | (s, none) => .next s
  | (s, some o) =>
    let m := o.arg 0
    let ps := (List.range 8).filter (bitAt m)
    if 512 ≤ m || ps.any (fun p => !s.present p || !bitAt (s.vfParts f) p) || (f ≠ 0 && bitAt m 8) then .next (s.abortArg o 0)
    else if 1 < o.arg 1 then .next (s.abortArg o 1)
    else if ps.any (fun p => s.fld (RCV_HEALTH_PART p) == 3 ||
        (storeGet 0 s.owner p != 0 && (List.range 32).any (fun e => s.fld (CAM_HOST_W0_STATE p e) != 0))) then
      .next (s.endWith o stBusy [])
    else
      let ofPart (u p : Nat) : Bool := unitDie u != 0 && unitDie u != 3 && unitPart u == p
      let scope := fails.filter (fun u => ps.any (ofPart u) || (bitAt m 8 && unitDie u == 0))
      let passed := maskOf ((List.range 8).map (fun p => ps.contains p && !scope.any (fun u => ofPart u p))) +
        (if bitAt m 8 && !scope.any (fun u => unitDie u == 0) then 256 else 0)
      .next (s.endWith o stOk [passed, scope.foldl min 0xFFFF])

/-! ## RECORDER_READ (R451) -/

/-- Values of the module record of a state copy (R447). -/
def HistCopy.values (c : HistCopy) : List Nat :=
  c.retires ++ c.regs.flatMap (fun x => [x.1, x.2]) ++ c.resets.flatMap (fun x => [x.kind, x.target, x.opmin])

/-- Whether a unit is a pseudo-channel or a bank: a unit that a retirement remaps. -/
def isRemapped (u : Nat) : Bool :=
  (4 ≤ unitDie u && unitDie u < 12 && unitIdx u < 64) || ((unitDie u == 1 || unitDie u == 2) && 0x20 ≤ unitIdx u && unitIdx u < 0x60)

/-- Units that hold a remap, ascending. -/
def HistCopy.remapped (c : HistCopy) : List Nat :=
  c.units.filterMap (fun x => match x.2 with
    | some h => if h.state = 1 && isRemapped x.1 then some x.1 else none
    | none => none)

/-- The entry of a unit (R447); remap blocks are numbered in the order of their units. -/
def HistCopy.entry (c : HistCopy) (u : Nat) (h : UnitHist) : List Nat :=
  let blk := (c.remapped.findIdx? (· == u)).getD 0xFFFFFFFF
  leBytes 2 u ++ [h.state, h.reason, h.axis % 4 + h.band % 8 * 4 + h.guard % 4 * 32, 0] ++ leBytes 2 h.readmits ++
    leBytes 4 h.opmin ++ leBytes 4 blk ++ List.replicate 16 0

/-- A state copy as bytes, its sequence number and CRC last. -/
def HistCopy.bytes (c : HistCopy) : List Nat :=
  let b := (List.range 256).map (fun i => Config.copyByte c.values i % 256) ++
    c.units.flatMap (fun x => match x.2 with
      | some h => if histListed h then c.entry x.1 h else []
      | none => []) ++
    (Config.remapBlocks c.remapped).map (· % 256) ++ leBytes 4 c.seq
  b ++ leBytes 4 (crc32c b)

/-- Records of a readout target, oldest first. -/
def State.readout (s : State) (target : Nat) : List (List Nat) :=
  match target with
  | 0 =>
    let h := s.fld EVR_RECENT_HEAD_HEAD
    let n := (s.fld EVR_RECENT_TAIL_TAIL + recentLines - h) % recentLines
    (List.range n).filterMap (fun i => (storeGet none s.recent ((h + i) % recentLines)).map (fun r => leBytes 64 r.word))
  | 1 => (List.range (s.fld EVR_LIFE_COUNT_COUNT)).filterMap (fun i => (storeGet none s.life i).map (fun r => leBytes 64 r.word))
  | 2 => match storeGet none s.copies (s.fld UHS_STATE_SEQ_SEQ % 2) with
    | some c => [c.bytes]
    | none => []
  | _ => s.detLog.map (leBytes 32)

/-- MRAM byte address of record `i` of a target (Table 15.1, Table 15.7). -/
def State.readAddr (s : State) (target i : Nat) : Nat :=
  match target with
  | 0 => 0x1900000 + 64 * ((s.fld EVR_RECENT_HEAD_HEAD + i) % recentLines)
  | 1 => 0x1800000 + 64 * i
  | 2 => 0x1400000 + 0x20000 * (s.fld UHS_STATE_SEQ_SEQ % 2)
  | _ => 0x1440000 + 32 * i

/-- OP_RECORDER_READ. `bad` gives the records that read damaged, by index, with the bytes as they read; `aged` the
records of the recent tier that age out before they are copied. -/
def execOpRecorderRead (f : Nat) (bad : List (Nat × List Nat)) (aged : List Nat) (s : State) :
    Host.Outcome State Fault Refusal :=
  match s.submit f 0xB with
  | (s, none) => .next s
  | (s, some o) =>
    let t := o.arg 0
    if 3 < t then .next (s.abortArg o 0)
    else if s.ops.any (fun x => x != o && x.op == 0xB) then .next (s.endWith o stBusy [])
    else
      let skip (i : Nat) : Bool := t == 0 && aged.contains i
      let all := (s.readout t).zipIdx
      let live := all.filter (fun r => !skip r.2)
      -- as many whole records as the buffer holds
      let fit := live.foldl (fun (x : List (List Nat × Nat) × Nat) r =>
        if x.2 + r.1.length ≤ o.arg 3 then (x.1 ++ [r], x.2 + r.1.length) else (x.1, o.arg 3 + 1)) ([], 0) |>.1
      let rd (r : List Nat × Nat) : List Nat := ((bad.find? (fun b => b.1 == r.2)).map (·.2)).getD r.1
      let hurt := fit.filter (fun r => rd r != r.1)
      let s := s.emit (.hostWrite (o.arg64 1) (fit.flatMap rd))
      let s := hurt.foldl (fun (u : State) r => (u.gcount 0x254 1).nvm 0x3F00 1 (u.readAddr t r.2) 1) s
      .next (s.endWith o stOk [fit.length, hurt.length, (all.filter (fun r => skip r.2)).length])

/-! ## Unit-history edits (R449) -/

/-- Whether an identifier names a unit of the part (Table 2.5 to Table 2.7). -/
def State.unitOk (s : State) (u : Nat) : Bool :=
  let d := unitDie u; let p := unitPart u; let i := unitIdx u
  if u ≥ 0x10000 then false
  else if d = 1 || d = 2 then
    (p == 15 && i < 2) ||
    (decide (p / 4 + 1 = d) && s.present p &&
      (i < 6 || i == 8 || i == 9 || i == 0xC || (0x10 ≤ i && i ≤ 0x12) || (0x20 ≤ i && i ≤ 0x61) || i == 0x70 || i == 0x71 ||
        i == 0x74 || i == 0x75))
  else if d = 3 then p == 15 && i < 2
  else if 4 ≤ d && d < 12 then decide (p + 4 = d) && s.present p && (i < 64 || i == 0xFF)
  else if d = 0 then
    (match p with
     | 0 => i < 4 | 1 => i ≤ 0x65 | 2 => i < 8 | 3 => i == 0 | 4 => i == 0 | 5 => i < 2 | 6 => i < 2 | 7 => i < 2
     | _ => false)
  else false

/-- An edit: submitted as action `act_` of UHS_EDIT on what `ok` accepts, with its EVENT record and a state copy. -/
def State.uhsEdit (s : State) (f act_ : Nat) (ok : State → Nat → Bool) (unit : Nat → Nat) (edit : Nat → State → State) : State :=
  if s.reqWord f 2 ≠ act_ then s else
  match s.submit f 0xC with
  | (s, none) => s
  | (s, some o) =>
    let x := o.arg 1 % 2 ^ 16
    if !ok s x then s.abortArg o 1
    else
      let s := (edit x s).eventUnit (unit x) 8
      { s with uhsDirty := true }.endWith o stOk []

/-- UHS_READMIT (R404). -/
def execUhsReadmit (f : Nat) (s : State) : Host.Outcome State Fault Refusal :=
  .next (s.uhsEdit f 1 State.unitOk id (fun u t =>
    let t := t.readmit u
    if unitDie u ≠ 0 && unitDie u ≠ 3 && unitPart u < 8 then t.condHealth (unitPart u) 5 else t))

/-- UHS_CLEAR_HEALTH (R371): a partition or the module becomes HEALTHY. -/
def execUhsClearHealth (f : Nat) (s : State) : Host.Outcome State Fault Refusal :=
  .next (s.uhsEdit f 2 (fun t x => x == 0xFFFF || t.present x) (fun x => if x = 0xFFFF then 0 else unitId x 0x10) (fun x t =>
    if x = 0xFFFF then
      let oldM := t.fld RCV_HEALTH_MODULE
      let t := forRange 8 (fun p u => if u.present p then u.setHealth p 0 5 0 else u) (t.setHist 0 { t.hist 0 with state := 0 })
      let t := (t.syncHealth).sbAlert alHealth
      if oldM = t.fld RCV_HEALTH_MODULE then t else t.healthRec 0 0 oldM (t.fld RCV_HEALTH_MODULE) 5 0
    else t.setHealth x 0 5 0))

/-- UHS_CLEAR_COND (R408): the unit leaves CONDITIONAL, its guard goes at the next hinge, a CONDITIONAL record of
action 0x02 is written. -/
def execUhsClearCond (f : Nat) (s : State) : Host.Outcome State Fault Refusal :=
  .next (s.uhsEdit f 3 (fun t u => t.unitOk u && (t.hist u).state == 2) id (fun u t =>
    let h := t.hist u
    let t := t.setHist u { h with state := 0, guard := 0 }
    let t := ((t.condClear u).dropGuard u).condRec u h.axis h.band h.guard 2 0 0 0
    if unitDie u ≠ 0 && unitDie u ≠ 3 && unitPart u < 8 then t.condHealth (unitPart u) 5 else t))

/-! ## Completion rings (R472, R473) -/

/-- Entries of a ring. -/
def State.cqSize (s : State) (f : Nat) : Nat :=
  let l := s.fld (HIF_CQ_SIZE_LOG2 f)
  2 ^ (if 6 ≤ l && l ≤ 16 then l else 6)

/-- Whether a ring is enabled and has space. -/
def State.cqRoom (s : State) (f : Nat) : Bool :=
  s.flag (HIF_CQ_SIZE_ENABLE f) &&
    (s.fld (HIF_CQ_TAIL_TAIL f) + 1) % s.cqSize f != s.fld (HIF_CQ_HEAD_HEAD f) % s.cqSize f

/-- A completion entry (Table 16.7). -/
def Compl.bytes (c : Compl) (phase : Bool) : List Nat :=
  leBytes 4 c.handle ++ leBytes 2 c.status ++ [c.op % 256, (if phase then 1 else 0) + c.arg % 32 * 2] ++
    (List.range 6).flatMap (fun i => leBytes 4 (c.results.getD i 0))

/-- HOLD and HELD of each function: its completions that wait. -/
def State.cqShow (s : State) : State :=
  forRange 9 (fun f t =>
    let n := (t.ended.filter (fun c => c.fn == f)).length
    (t.setFld (HIF_CQ_STATUS_HELD f) n).setFld (HIF_CQ_STATUS_HOLD f) (if n = 0 then 0 else 1)) s

/-- One completion written at TAIL, and MSI-X vector 0 pending. -/
def State.cqPut (s : State) (c : Compl) : State :=
  let f := c.fn
  let t := s.fld (HIF_CQ_TAIL_TAIL f)
  let n := s.cqSize f
  let addr := s.fld (HIF_CQ_BASE_LO_BASE f) * 4096 + s.fld (HIF_CQ_BASE_HI_BASE f) * 2 ^ 32 + 32 * (t % n)
  let s := s.emit (.hostWrite addr (c.bytes (storeGet false s.cqLap f)))
  let t' := (t + 1) % n
  let s := if t' = 0 then { s with cqLap := storeSet false s.cqLap f (!storeGet false s.cqLap f) } else s
  { s.setFld (HIF_CQ_TAIL_TAIL f) t' with irqPend := storeSet false s.irqPend (4 * f) true }

/-- The completions that wait for function `f`, in order, as far as its ring has space. -/
def State.cqDrain (s : State) (f : Nat) : Nat → State
  | 0 => s
  | n + 1 =>
    match s.ended.find? (fun c => c.fn == f) with
    | none => s
    | some c => if s.cqRoom f then ({ s with ended := s.ended.erase c }.cqPut c).cqDrain f n else s

/-- Completions beyond 256 held are dropped, counted, and set LOST of their function. -/
def State.cqOverflow (s : State) : State :=
  let high := s.ended.drop 256
  let s := { s with ended := s.ended.take 256 }
  high.foldl (fun t c => (t.setFld (HIF_CQ_STATUS_LOST c.fn) 1).gcount 0x267 1) s

/-- Completions of function `f` among some. -/
def fnCount (f : Nat) (l : List Compl) : Nat := (l.filter (fun c => c.fn == f)).length

/-- OP_COMPLETION_POST: completions of operations that have ended are written, or held by the Keeper. -/
def execOpCompletionPost (s : State) : Host.Outcome State Fault Refusal :=
  let all := s.ended
  let held := s.ended.take s.cqHeld
  let s := forRange 9 (fun f t => t.cqDrain f t.ended.length) s
  -- what is held now and was not before: a function's completions go out oldest first
  let fresh := (List.range 9).foldl (fun n f => n + min (fnCount f s.ended) (fnCount f all - fnCount f held)) 0
  let s := s.gcount 0x266 (fresh - (s.ended.length - 256))
  let s := s.cqOverflow.cqShow
  .next { s with cqHeld := s.ended.length }

/-- CQ_HEAD_WRITE: entries are free again, and held completions go out. -/
def execCqHeadWrite (f v : Nat) (s : State) : Host.Outcome State Fault Refusal :=
  if s.boot ≠ .running || 8 < f then .next s else
  let s := (s.setFld (HIF_CQ_HEAD_HEAD f) v).cqDrain f s.ended.length
  .next { s.cqShow with cqHeld := s.ended.length }

/-- CQ_ENABLE: a write of `v` to HIF_CQ_f_SIZE that sets or clears ENABLE. Enabling clears HEAD and TAIL and starts
lap 1. -/
def execCqEnable (f v : Nat) (s : State) : Host.Outcome State Fault Refusal :=
  if s.boot ≠ .running || 8 < f then .next s else
  let was := s.flag (HIF_CQ_SIZE_ENABLE f)
  let s := if was then s else s.setFld (HIF_CQ_SIZE_LOG2 f) v
  let s := s.setFld (HIF_CQ_SIZE_ENABLE f) (v / 256)
  if was || !bitAt v 8 then .next s else
  let s := (s.setFld (HIF_CQ_HEAD_HEAD f) 0).setFld (HIF_CQ_TAIL_TAIL f) 0
  let s := { s with cqLap := storeSet false s.cqLap f true }.cqDrain f s.ended.length
  .next { s.cqShow with cqHeld := s.ended.length }

/-! ## Host access to HBM (R197, R455, R456, R463) -/

/-- Why an access of function `f` to `n` bytes at a module HBM address is not made: 1 refused, 2 powered-down. -/
def State.hbmDenied (s : State) (f a n : Nat) : Nat :=
  let e := a + n - 1
  if n = 0 || hbmBytes ≤ e then 1
  else
    let ks := (List.range 8).filter (fun k => decide (a / 0xC00000000 ≤ k) && decide (k ≤ e / 0xC00000000))
    let ends (k : Nat) : Bool := decide (0xC00000000 * k + (48 - s.spareGib k) * 2 ^ 30 ≤ (if k = e / 0xC00000000 then e else 0xC00000000 * (k + 1) - 1))
    if ks.any (fun k => ends k || !bitAt (s.vfParts f) k || !s.present k) then 1
    else if ks.any (fun k => s.domState (4 * k + 3) == 3 || s.partInReset k || s.fld (RCV_HEALTH_PART k) == 3) then 2
    else 0

/-- Stacks in A2 that an access reaches are woken (R196). -/
def State.wakeStacks (s : State) (a n : Nat) : State :=
  forRange 8 (fun k t =>
    if a / 0xC00000000 ≤ k && k ≤ (a + n - 1) / 0xC00000000 && t.domState (4 * k + 3) = 2 then t.setDom (4 * k + 3) 0
    else t) s

/-- Datums that an access touches. -/
def accessDatums (a n : Nat) : List Nat := (List.range ((a + n + 63) / 64 - a / 64)).map (fun i => a / 64 + i)

/-- Module HBM address of an offset in BAR2 of function `f`. -/
def State.bar2 (s : State) (f x : Nat) : Nat := min 383 (s.fld (HIF_BAR2_BASE_BASE_GIB f)) * 2 ^ 30 + x

/-- HOST_HBM_READ of `n` bytes at BAR2 offset `x`. The environment gives the reads that are not clean and the parity
mismatches at the PCIe endpoint. -/
def execHostHbmRead (f x n : Nat) (env : CmdEnv) (s : State) : Host.Outcome State Fault Refusal :=
  if s.boot ≠ .running || 8 < f then .next s else
  let a := s.bar2 f x
  if s.hbmDenied f a n ≠ 0 then .next (s.unsupported f)
  else
    let ds := accessDatums a n
    let s := s.wakeStacks a n
    let s := (env.ecc.filter (fun e => ds.contains e.1)).foldl (fun t e => t.eccRead e.1 e.2 0xF 0x3F 0xFFFFFF 0) s
    let par := env.parity.filter (fun e => ds.contains e.1)
    let s := par.foldl (fun t e => t.detect 0x0500 1 flPoison 0xFFFFFF 0x3F 0 0 8
      (datumLocal e.1 + e.2.1 % 2 ^ 16 * 2 ^ 32 + e.2.2 % 2 ^ 16 * 2 ^ 48 + 5 * 2 ^ 64)) s
    .next (s.emit (.answer (s.rdBytes a n) (ds.any s.psn || !par.isEmpty)))

/-- HOST_HBM_WRITE of bytes at BAR2 offset `x`, poisoned or not. A FENCED module refuses it (R375). -/
def execHostHbmWrite (f x : Nat) (l : List Nat) (psn : Bool) (s : State) : Host.Outcome State Fault Refusal :=
  if s.boot ≠ .running || 8 < f || l.isEmpty then .next s else
  let a := s.bar2 f x
  match s.hbmDenied f a l.length, s.flag RCV_FENCE_FENCED with
  | 0, false => .next ((s.wakeStacks a l.length).hbmPut a l (fun _ => psn))
  | 2, _ => .next (s.dropWrite f)
  | _, _ => .next ((s.denied f).gcount 0x260 1)

/-! ## Interrupts (R482) -/

/-- Moderation interval of a vector in µs. -/
def State.irqMod (s : State) (f v : Nat) : Nat :=
  match v with
  | 0 => s.fld (HIF_IRQ_MOD_CQ_US f)
  | 1 => s.fld (HIF_IRQ_MOD_MBX_US f)
  | _ => s.fld (HIF_IRQ_MOD_ERR_US f)

/-- IRQ_RAISE: a pending vector whose interval has passed is raised. -/
def execIrqRaise (f v : Nat) (s : State) : Host.Outcome State Fault Refusal :=
  let k := 4 * f + v
  let last := storeGet 0 s.irqLast k
  if s.boot ≠ .running || 8 < f || 2 < v || (v = 2 && f ≠ 0) || !storeGet false s.irqPend k ||
      (last ≠ 0 && s.ftime < last - 1 + 4000 * s.irqMod f v) then .next s
  else .next ({ s with irqPend := storeSet false s.irqPend k false, irqLast := storeSet 0 s.irqLast k (s.ftime + 1) }.emit (.msix f v))

/-! ## Function level reset (R418, R473, R483) -/

/-- FUNCTION_LEVEL_RESET: of a VF, its own registers return to their defaults: ring, operation area, mailbox, status,
window and moderation. Of the PF, those of function 0. Its open operations go on and their completions are held. -/
def execFunctionLevelReset (f : Nat) (s : State) : Host.Outcome State Fault Refusal :=
  if s.boot ≠ .running || 8 < f then .next s else
  let s := ((s.setReg (HIF_FN_STATUS f) 0).setReg (HIF_BAR2_BASE f) 0).setReg (HIF_IRQ_MOD f) 0
  let s := (s.clearRegs (HIF_OP_REQ f 0) 18).clearRegs (HIF_CQ_BASE_LO f) 6
  let s := if f = 0 then s else s.clearRegs (MBX_DATA (39 + f)) 20
  let s := { s with
    cqLap := storeSet false s.cqLap f false,
    irqPend := (List.range 3).foldl (fun m v => storeSet false m (4 * f + v) false) s.irqPend,
    irqLast := (List.range 3).foldl (fun m v => storeSet 0 m (4 * f + v) 0) s.irqLast }
  .next s.cqShow

end Sys2Proof.Machine
end

