-- ==== Sys2Proof/Machine/Mailbox.lean ====
section
/-! DEFINITION. Mailboxes and the Keeper mailbox protocol (R475 to R481, R501, R502). -/
namespace Sys2Proof.Machine

/-! ## Senders (Table 16.9, Table 16.10) -/

/-- Identity of function `f`. -/
def fnId (f : Nat) : Nat := if f = 0 then 0 else 0x1000 + (f - 1)
def keeperId : Nat := 0x2000
def coreId (p : Nat) : Nat := 0x3000 + p
def trayId : Nat := 0x4000
def remoteId (part : Nat) : Nat := 0x5000 + part

/-- Function of a PCIe sender. -/
def idFn (who : Nat) : Option Nat :=
  if who = 0 then some 0 else if 0x1000 ≤ who && who < 0x1008 then some (who - 0x1000 + 1) else none

/-- Whether a sender may write a mailbox. -/
def State.mayWriteMbx (s : State) (n who : Nat) : Bool :=
  let k := who / 0x1000
  let x := who % 0x1000
  let parts := s.vfParts (x + 1)
  if n < 32 then k == 0 || (k == 1 && bitAt parts (n / 4)) || k == 2 || k == 3
  else if n < 40 then k == 0 || k == 2 || k == 3 || k == 5
  else if n < 48 then k == 0 || k == 2 || (k == 3 && bitAt (s.vfParts (n - 39)) x)
  else if n < 56 then k == 0 || (k == 1 && parts != 0) || k == 3 || k == 4 || k == 5
  else k == 2 && decide (n < 64)

/-- Whether an agent is the receiver of a mailbox, or the PF, which reaches every register. -/
def mayTake (n who : Nat) : Bool :=
  who == 0 || (decide (n < 32) && who == coreId (n / 4)) || (decide (40 ≤ n) && decide (n < 48) && who == fnId (n - 39)) ||
    (decide (48 ≤ n) && decide (n < 56) && who == keeperId) || (decide (56 ≤ n) && who == trayId)

/-! ## Delivery (R478, R479) -/

/-- MAILBOX of KPR_SB_ALERT follows the mailboxes of the tray controller. -/
def State.mbxAlert (s : State) : State :=
  if (List.range 8).any (fun i => s.flag (MBX_STATUS_FULL (56 + i))) then s.sbAlert 3 else s.setFld KPR_SB_ALERT_MAILBOX 0

/-- A message into a mailbox: the words beyond it read zero. -/
def State.deliver (s : State) (n who gid : Nat) (l : List Nat) : State :=
  let s := if s.flag (MBX_STATUS_FULL n) then (s.setFld (MBX_STATUS_COLLIDE n) 1).gcount 0x263 1 else s
  let s := forRange 16 (fun i t => t.setReg (MBX_DATA n + 4 * i) (BitVec.ofNat 32 (mField l (4 * i) 4))) s
  let s := (s.setFld (MBX_STATUS_LEN n) (l.length / 4)).setFld (MBX_STATUS_SEQ n) (s.fld (MBX_STATUS_SEQ n) + 1)
  let s := ((s.setFld (MBX_SENDER_SENDER n) who).setFld (MBX_GID_GID n) gid).setFld (MBX_STATUS_FULL n) 1
  if n < 32 then
    let d := 4 * (n / 4) + 1
    if s.domState d = 1 then s.setDom d 0 else s
  else if n < 48 then
    let f := if n < 40 then 0 else n - 39
    { s with irqPend := storeSet false s.irqPend (4 * f + 1) true }
  else if n < 56 then s
  else s.mbxAlert

/-- Whether a message has the shape of R476. -/
def mbxShape (off : Nat) (enabled : Bool) (l : List Nat) : Bool :=
  off == 0 && enabled && decide (4 ≤ l.length) && decide (l.length ≤ 64) && l.length % 4 == 0

/-- MBX_SEND: a write of bytes at data offset `off` of mailbox `n` by an agent of the module or over PCIe. -/
def execMbxSend (n who off : Nat) (enabled : Bool) (l : List Nat) (s : State) : Host.Outcome State Fault Refusal :=
  if s.boot ≠ .running || 64 ≤ n || 5 ≤ who / 0x1000 then .next s
  else
    let ok := mbxShape off enabled l && s.mayWriteMbx n who
    let down := match mbxDomain n with
      | some d => s.domDown d
      | none => false
    let absent := decide (n < 32) && !s.present (n / 4)
    match idFn who with
    | some f =>
      if absent then .next s
      else if !ok then .next ((s.setFld (HIF_FN_STATUS_DENIED f) 1).gcount 0x264 1)
      else if down then .next (s.dropWrite f)
      else .next (s.deliver n who 0 l)
    | none =>
      if ok && !down && !absent then .next (s.deliver n who 0 l)
      else if who = trayId then .next s
      else .next (s.emit (.busError who))

/-- MBX_TAKE: a write `v` of MBX_n_TAKE (R478). -/
def State.takeMbx (s : State) (n v : Nat) : State :=
  let s := s.setFld (MBX_TAKE_SEQ n) v
  if bitAt v 8 && s.fld (MBX_STATUS_SEQ n) = v % 256 then
    let s := s.setFld (MBX_STATUS_FULL n) 0
    if 56 ≤ n then s.mbxAlert else s
  else s

/-- MBX_TAKE by an agent. -/
def execMbxTake (n who v : Nat) (s : State) : Host.Outcome State Fault Refusal :=
  if s.boot ≠ .running || 64 ≤ n || (n < 32 && !s.present (n / 4)) then .next s
  else
    let down := match mbxDomain n with
      | some d => s.domDown d
      | none => false
    match idFn who with
    | some f => if !mayTake n who then .next (s.denied f) else if down then .next (s.dropWrite f) else .next (s.takeMbx n v)
    | none => if down || !mayTake n who then .next s else .next (s.takeMbx n v)

/-! ## Remote messages (R480) -/

/-- A management packet that names a mailbox: delivered, or dropped and counted. -/
def State.remoteMbx (s : State) (src part off : Nat) (l : List Nat) : State :=
  if off < 64 && mbxShape 0 true l && s.mayWriteMbx off (remoteId part) then s.deliver off (remoteId part) src l
  else s.gcount 0x265 1

/-- REMOTE_MAILBOX_SEND: a write `v` of MBX_RSEND_CTRL with GO = 1 by function `f`. -/
def execRemoteMailboxSend (f v : Nat) (s : State) : Host.Outcome State Fault Refusal :=
  if s.boot ≠ .running || 8 < f then .next s
  else if f ≠ 0 then .next (s.denied f)
  else
    let s := s.setReg MBX_RSEND_CTRL (BitVec.ofNat 32 (v % 2 ^ 31))
    if !bitAt v 31 then .next s else
    let n := min 16 (max 1 (s.fld MBX_RSEND_CTRL_LEN))
    .next (s.sendMgmt (s.fld MBX_RSEND_CTRL_GID) (s.fld MBX_RSEND_CTRL_MBOX)
      ((List.range n).flatMap (fun i => leBytes 4 (s.reg (MBX_RSEND_DATA + 4 * i)).toNat)))

/-! ## The Keeper mailbox protocol (R501, R502) -/

/-- Version of a message to a partner of range `lo` to `hi`, the module speaking 1 to 3. -/
def mbxVersion (lo hi : Nat) : Nat := if max 1 lo ≤ min 3 hi then min 3 hi else 1

/-- Partner of BIT_MBX_PEER_n. -/
def mbxPeer (who : Nat) : Option Nat := match idFn who with
  | some f => some f
  | none => if who = trayId then some 9 else none

/-- The Keeper takes the message of mailbox `n` of 48 to 55: one outside its versions is dropped and counted; the
partner's range is kept, and HELLO is answered by HELLO. -/
def State.keeperMessage (s : State) (n : Nat) : State :=
  if !s.flag (MBX_STATUS_FULL n) then s else
  let w := (s.reg (MBX_DATA n)).toNat
  let who := s.fld (MBX_SENDER_SENDER n)
  let gid := s.fld (MBX_GID_GID n)
  let s := s.setFld (MBX_STATUS_FULL n) 0
  let ver := w / 256 % 256
  if ver < 1 || 3 < ver then s.gcount 0x281 1
  else
    let lo := w / 2 ^ 16 % 256
    let hi := w / 2 ^ 24 % 256
    let v := mbxVersion lo hi
    let s := match mbxPeer who with
      | some x => ((s.setFld (BIT_MBX_PEER_VER x) (if w % 256 = 1 then v else ver)).setFld (BIT_MBX_PEER_PEER_MIN x) lo).setFld (BIT_MBX_PEER_PEER_MAX x) hi
      | none => s
    if w % 256 ≠ 1 then s
    else
      let m := [1, v, 1, 3]
      match idFn who with
      | some f => s.deliver (if f = 0 then 32 else 39 + f) keeperId 0 m
      | none =>
        if who = trayId then s.deliver 56 keeperId 0 m
        else if who / 0x1000 = 5 then s.sendMgmt gid n m
        else s

/-- HELLO: the Keeper takes the message that stands in one of its mailboxes. -/
def execHello (n : Nat) (s : State) : Host.Outcome State Fault Refusal :=
  if s.boot ≠ .running || n < 48 || 56 ≤ n then .next s else .next (s.keeperMessage n)

end Sys2Proof.Machine
end

