-- ==== Sys2Proof/Machine/Trace.lean ====
section
/-! DEFINITION. Clears of counters and the control of the trace units (R532, R533, R541). -/
namespace Sys2Proof.Machine

/-- Whether function `f` may write the control words of the debug block of partition `p`, or of the global block for
`p = 8`; what else becomes of the write. -/
def State.dbgWrite (s : State) (f p : Nat) (run : State → State) : State :=
  if s.boot ≠ .running || 8 < f || 8 < p then s
  else if p = 8 then (if f = 0 then run s else s.denied f)
  else if !s.present p then s
  else if !s.mayReach f (DBG_CNT_CLEAR p) true then s.denied f
  else if s.regDown (DBG_CNT_CLEAR p) then s.dropWrite f
  else run s

/-- COUNTER_CLEAR: INDEX with GO, of the block of partition `p` or, for 8, of the global block. -/
def State.clearCounter (s : State) (p n : Nat) : State :=
  if p = 8 then { s.setReg DBG_GCNT_CLEAR (BitVec.ofNat 32 (n % 1024)) with cnt := storeSet 0 s.cnt (gcntKey (n % 1024)) 0 }
  else { s.setReg (DBG_CNT_CLEAR p) (BitVec.ofNat 32 (n % 1024)) with cnt := storeSet 0 s.cnt (cntKey p (n % 1024)) 0 }

/-- COUNTER_CLEAR by function `f`. -/
def execCounterClear (f p n : Nat) (s : State) : Host.Outcome State Fault Refusal :=
  .next (s.dbgWrite f p (fun t => t.clearCounter p n))

/-- Every counter of a block. -/
def State.clearCounters (s : State) (p : Nat) : State :=
  if p = 8 then { s.setReg DBG_GCNT_CLEAR (BitVec.ofNat 32 (2 ^ 30)) with cnt := storeClear s.cnt (gcntKey 0) 1024 }
  else { s.setReg (DBG_CNT_CLEAR p) (BitVec.ofNat 32 (2 ^ 30)) with cnt := storeClear s.cnt (cntKey p 0) 1024 }

/-- COUNTER_CLEAR_ALL by function `f`. -/
def execCounterClearAll (f p : Nat) (s : State) : Host.Outcome State Fault Refusal :=
  .next (s.dbgWrite f p (fun t => t.clearCounters p))

/-- ARM: the store records again; what was dropped while it was frozen is reported, then the time (R537, R541). -/
def State.traceArm (s : State) (p : Nat) : State :=
  let s := (s.setFld (TRC_STATUS_STATE p) 0).setFld (TRC_TRIG_POS_VALID p) 0
  let s := s.setTrc p { s.trcGet p with postLeft := 0 }
  if !s.flag (TRC_CFG_EN p) || s.trcMode p = 0 then s
  else if (s.trcGet p).dropCount = 0 then s.trcTime p else s.trcGap p

/-- TRACE_ARM by function `f`. -/
def execTraceArm (f p : Nat) (s : State) : Host.Outcome State Fault Refusal :=
  if 8 ≤ p then .next s else .next (s.dbgWrite f p (fun t => t.traceArm p))

/-- TRACE_TRIGGER: a write of TRIG by function `f`. -/
def execTraceTrigger (f p : Nat) (s : State) : Host.Outcome State Fault Refusal :=
  if 8 ≤ p then .next s else .next (s.dbgWrite f p (fun t => t.trigger p 1 0 0))

end Sys2Proof.Machine
end

