-- ==== Sys2Proof/Machine/Boot.lean ====
section
/-! DEFINITION. What a module reset and a loss of power take from the state (R427, R428), and the boot that follows:
firmware, unit history, counts, recorder, domains (R212, R416, R423, R433, R434, R440, R447, R448, R515, R516). -/
namespace Sys2Proof.Machine

/-! ## Registers (R17, R427) -/

/-- Bits of a register word that survive a reset: 2 partition, 3 module, 4 power cycle. -/
def RegRow.kept (r : RegRow) (lvl : Nat) : Nat :=
  match lvl with
  | 2 => r.prt ||| r.mod ||| r.pwr
  | 3 => r.mod ||| r.pwr
  | _ => r.pwr

/-- The words at addresses that `f` names after a reset: each field kept or at its Default. Both banks go alike. -/
def State.regsReset (s : State) (lvl : Nat) (f : Nat → Bool) : State :=
  { s with regs := s.regs.filterMap (fun (c : Nat × Word) =>
      if !f (c.1 % 0x80000000) then some c else
      match regRow (c.1 % 0x80000000) with
      | none => none
      | some (r, _) =>
        let m := BitVec.ofNat 32 (r.kept lvl)
        let v := (c.2 &&& m) ||| (wordDefault c.1 &&& ~~~m)
        if v = wordDefault c.1 then none else some (c.1, v)) }

/-- Host-interface fields: the windows of the functions in BAR0, BAR4 (Table 14.5, R418). -/
def hostField (a : Nat) : Bool := (0x20 ≤ a && a < 0x430) || (0x10000000 ≤ a && a < 0x10100000)

/-! ## Stacks, tile stores and retirements (R208, R210, R419) -/

/-- Both Hasp slots of a partition hold nothing (R326, R427). -/
def State.emptySlots (s : State) (p : Nat) : State :=
  (((s.setFld (HSP_SLOT_STATE_A_STATE p) 0).setFld (HSP_SLOT_STATE_B_STATE p) 0).setReg (HSP_SLOT_EPOCH_A p) 0xFFFFFFFF).setReg
    (HSP_SLOT_EPOCH_B p) 0xFFFFFFFF

/-- Retirements of a partition's stack that were running are complete: there is nothing to copy. -/
def State.endMigrations (s : State) (p : Nat) : State :=
  let ks := s.migr.filter (fun k => decide (k / 64 = p))
  let s := ks.foldl (fun t k => t.setFld ⟨MEM_PC_RETIRED_LO p + 4 * (k % 64 / 32), k % 32, 1⟩ 1) s
  { s with migr := s.migr.filter (fun k => decide (k / 64 ≠ p)) }.setFld (MEM_STATUS_MIGRATING p) 0

/-- A stack is zero-filled with clean codes. -/
def State.zeroStack (s : State) (p : Nat) : State :=
  ((s.zeroUnits (hbmDatum p 0) 0x30000000).emptySlots p).endMigrations p

/-- A tile store is zero-filled with clean codes. -/
def State.zeroTile (s : State) (p : Nat) : State := s.zeroUnits (tsDatum p 0) 0xC0000

/-! ## Unit history, counts, recorder -/

/-- Unit history as the newest valid state copy holds it (R447). -/
def State.restoreHist (s : State) (env : BootEnv) : State :=
  let s := ([0, 1].filter (fun c => env.copyBad.contains c && (storeGet none s.copies c).isSome)).foldl
    (fun t c => t.nvm 0x3F00 7 (0x1400000 + 0x20000 * c) 1) s
  let good := [0, 1].filterMap (fun c => if env.copyBad.contains c then none else storeGet none s.copies c)
  let best := good.foldl (fun (b : Option HistCopy) c => match b with
    | some x => if x.seq < c.seq then some c else b
    | none => some c) none
  let keep : List Nat := [KPR_ESC_COUNT, KPR_RST_LAST0, KPR_RST_LAST1, KPR_RST_LAST2, KPR_RST_LAST3, KPR_BOOT_CAUSE]
  let regs : List (Nat × Nat) := match best with
    | some c => c.regs
    | none => histRegs.map (fun a => (a, (wordDefault a).toNat))
  let s := (regs.filter (fun x => !keep.contains x.1)).foldl (fun t x => t.setReg x.1 (BitVec.ofNat 32 x.2)) s
  match best with
  | some c => { s with uhs := c.units, guards := c.guards, retires := c.retires }.setFld UHS_STATE_SEQ_SEQ c.seq
  | none => { s with uhs := [], guards := [], retires := [] }

/-- A detection entry of the log, as though all its detections fell at its OPMIN (R448). -/
def logDet (e : Nat) : Option Det :=
  let b := bits e 24 8
  if 0x10 ≤ bits e 16 8 then none
  else some ⟨bits e 0 16, bits e 16 8, if b = 0xFF then 8 else b % 8, if b = 0xFF then 8 else b / 8 % 4,
    if b = 0xFF then 8 else b / 32 % 4, bits e 32 32, bits e 64 64, bits e 128 16, true⟩

/-- The counts of the Keeper rebuilt from the log: detections, and exposure in seconds. -/
def State.rebuildCounts (s : State) : State :=
  let add (m : Store Nat) (e : Nat) : Store Nat :=
    let k := bits e 16 8
    if k ≠ 0x10 && k ≠ 0x11 then m else
      (List.range 8).foldl (fun x b =>
        let key := expoKey (scopeOf (bits e 0 16)) (8 * (k - 0x10) + b) (bits e 32 32 / 60)
        storeSet 0 x key (storeGet 0 x key + 60 * bits e (128 + 16 * b) 16)) m
  { s with dets := s.detLog.filterMap logDet, expo := s.detLog.foldl add [] }

/-- The accumulators of the newest valid checkpoint, what of the day they miss, and a BOOT record (R440). -/
def State.restoreCkpt (s : State) (env : BootEnv) (cause : Nat) : State :=
  let good := (s.ckpts.zipIdx.filter (fun x => !env.ckptBad.contains x.2)).map (·.1)
  let now := s.opmin
  let boot (t : State) (ok at_ lost : Nat) : State :=
    let t := ((t.accAdd kLost lost).accAdd (kLost + kMonthOff) lost).accAdd kBoots 1
    (t.accAdd (kBoots + kMonthOff) 1).stageRec 0x13
      (fieldAt 16 1 cause + fieldAt 17 1 ok + fieldAt 20 4 at_ + fieldAt 24 4 lost)
  match good with
  | c :: _ =>
    let hour := c.opmin / 60
    let s := { s with
      acc := c.acc, accExt := c.ext, tally := c.tally, expoDay := c.expoDay
      expo := c.expoDay.foldl (fun m x => storeSet 0 m (expoKey (x.1 / 16) (x.1 % 16) hour)
        (storeGet 0 m (expoKey (x.1 / 16) (x.1 % 16) hour) + x.2)) s.expo }
    let s := if c.opmin / 1440 < now / 1440 then s.dayClose.setFld EVR_DAY_DAY (now / 1440) else s
    boot s 1 c.opmin (now - c.opmin)
  | [] =>
    let s := { s with acc := [], accExt := [], tally := [], expoDay := [] }.setFld EVR_STATUS_CKPT_LOST 1
    boot (s.nvm 0x3F00 4 0xFFFFFFFF 1) 0 0 (now % 1440)

/-- Retirements of pseudo-channels and banks that unit history holds and that are not complete start again (R212). -/
def State.restartMigrations (s : State) : State :=
  let keys := (List.range 8).flatMap (fun p => (List.range 64).flatMap (fun x =>
    let want (u : Nat) (hbm : Bool) : List Nat :=
      if (s.hist u).state = 1 && !(s.retiredUnits p hbm).contains x && !storeGet false s.deadChan (chanKey p x hbm) then
        [chanKey p x hbm] else []
    want (stackUnit p x) true ++ want (unitId p (0x20 + x)) false))
  let s := { s with migr := keys }
  forRange 8 (fun p t =>
    (t.setFld (MEM_STATUS_MIGRATING p) (if keys.any (fun k => decide (k / 64 = p)) then 1 else 0)).setFld
      (TSR_STATUS_MIGRATING p) (if keys.any (fun k => decide (k / 64 = 1024 + p)) then 1 else 0)) s

/-- The engines in service and their map, from unit history (R106, R415). -/
def State.rebuildEngines (s : State) (p : Nat) : State :=
  let on (l : List Nat) : Nat := maskOf (l.map (fun i => (s.hist (unitId p i)).state != 1))
  let s := s.setFld (MXE_ENG_ONLINE_ONLINE p) (on (List.range 6))
  (s.setFld (VXE_ENG_ONLINE_ONLINE p) (on [8, 9])).mxMap p

/-! ## Boot -/

/-- OPMIN as the ring holds it: its highest valid value (R433). -/
def State.ringOpmin (s : State) (env : BootEnv) : Nat :=
  (s.opRing.filter (fun c => decide (c.1 < 1024) && !env.opBad.contains c.1)).foldl (fun m c => max m (c.2 - 1)) 0

/-- The boot of the Keeper (steps 5 to 7 of R416, steps 2 to 6 of R515) with its cause. Where the always-on domain was
without power (`kept` false), what the Keeper had in its memory comes back from MRAM. Without a firmware copy that verifies, the boot ROM waits
for a recovery (R516). -/
def State.bootUp (s : State) (cause : Nat) (kept : Bool) (env : BootEnv) : State :=
  let s := s.setFld KPR_BOOT_CAUSE_CAUSE cause
  let bad (c : Nat) : Bool := env.fwBad.contains c || storeGet false s.aon.fwBad c
  let s := { s with aon := { s.aon with fwBad := storeSet false (storeSet false s.aon.fwBad 0 (bad 0)) 1 (bad 1) } }
  if bad 0 && bad 1 then ((({ s with boot := .recovery }).setReady false).addFault ftBoot).setFld KPR_SB_STATE_BOOT 0
  else
    let s := { s with boot := .running, aon := { s.aon with bootCause := 0 } }.clearFault ftBoot
    let s := if kept then s else (s.restoreHist env).setFld EVR_OPMIN_OPMIN (s.ringOpmin env)
    let s := if cause = 3 then s else s.setFld EVR_PCYC_PCYC (min 0xFFFFFFFF (s.fld EVR_PCYC_PCYC + 1))
    let gid := s.fld KPR_SB_GID_NEXT_GID
    let s := (s.setFld FAB_GID_GID gid).setFld KPR_SB_GID_CUR_GID gid
    let s := { s with guards := s.guards.filterMap (fun (g : Guard) => if g.removing then none else some { g with pend := 0 }) }
    let s := ((s.setRails).setClockGuard).rebuildCounts
    let s := (s.restoreCkpt env cause).restartMigrations
    let s := forRange 8 (fun p t => t.rebuildEngines p) s
    let s := (s.domainsUp.retireUsed).syncHealth
    let s := (s.setFld KPR_SB_STATE_FENCED (s.fld RCV_FENCE_FENCED)).setFld KPR_SB_STATE_DEBUG_EN (s.fld DBG_GSTATUS_DEBUG_EN)
    let s := if s.kprLost = 0 then s else
      { s with kprLost := 0 }.gcount 0x232 s.kprLost |>.keeperRec 0 0x0F 0 (0x0B + 0x3F * 2 ^ 32 + min s.kprLost 0xFFFFFFFF * 2 ^ 96)
    let s := ((s.sbAlert alReset).setReady true).setFld KPR_SB_STATE_BOOT 2
    { s with perst := !s.pins.perst }

/-! ## What goes (Table 14.5) -/

/-- The state after a loss of input power: MRAM, and what stands outside the module (R417). -/
def State.afterPowerLoss (s : State) : State :=
  { State.reset with
    pending := s.pending
    out := s.out
    regs := (s.regsReset 4 (fun _ => true)).regs
    deadChan := s.deadChan
    pins := { State.reset.pins with perst := s.pins.perst }
    copies := s.copies
    rstLog := s.rstLog
    recent := s.recent
    life := s.life
    ckpts := s.ckpts
    opRing := s.opRing
    detLog := s.detLog
    keys := s.keys
    aon := { aonInit with
      bootCause := s.aon.bootCause, fw := s.aon.fw, fwBad := s.aon.fwBad, fwNewest := s.aon.fwNewest } }

/-- The state in which the Keeper boots after steps 1 to 4 of R416: the always-on domain, MRAM, and the stacks that
`keep` names. -/
def State.afterModuleReset (s : State) (keep : Nat → Bool) : State :=
  let stack (d : Nat) : Bool := decide (d < 0x180000000) && keep (d / 0x30000000)
  let t := s.regsReset 3 (fun _ => true)
  let t := { State.reset with
    pending := s.pending
    regs := t.regs
    mem := s.mem.filter (fun c => stack (c.1 / 64))
    poison := s.poison.filter (fun c => stack c.1)
    deadChan := s.deadChan
    cnt := s.cnt.filter (fun c => decide (0x10000 ≤ c.1))
    ftime := s.ftime
    slew := s.slew
    slewPhase := s.slewPhase
    timeGood := s.timeGood
    detections := s.detections
    staged := s.staged
    rewrite := s.rewrite
    recDrops := s.recDrops
    recLost := s.recLost
    kprLost := s.kprLost
    lastFlush := s.lastFlush
    out := s.out
    boot := .resetting
    pins := s.pins
    uhs := s.uhs
    detLog := s.detLog
    guards := s.guards
    uhsDirty := s.uhsDirty
    copyMin := s.copyMin
    copies := s.copies
    retires := s.retires
    rstLog := s.rstLog
    rstRun := s.rstRun
    migr := s.migr
    recent := s.recent
    life := s.life
    ckpts := s.ckpts
    opRing := s.opRing
    ibiEn := s.ibiEn
    i3cAddr := s.i3cAddr
    i3cPtr := s.i3cPtr
    sbImage := s.sbImage
    scrubPos := s.scrubPos
    keys := s.keys
    aon := { s.aon with ccMiss := [], ccWait := [] } }
  forRange 8 (fun p u => if keep p then u else (u.emptySlots p).endMigrations p) t

end Sys2Proof.Machine
end

