-- ==== Sys2Proof/Machine/Reset.lean ====
section
/-! DEFINITION. The six kinds of reset, heartbeats and Keeper faults, hangs and the escalation ladder (chapter 14). -/
namespace Sys2Proof.Machine

/-! ## Resets that run (R412, R419, R425, R429) -/

/-- Units of Table 14.2 in a partition, by index. -/
def engineIdx (i : Nat) : Bool := i < 6 || i == 8 || i == 9 || i == 0xC || i == 0x10 || i == 0x70 || i == 0x71 || i == 0x74 || i == 0x75

/-- Contexts that hold work in a unit of Table 14.2, oldest first: issued commands that run on the unit or pass through
its stage, tiles and records held for a check, and for the collective engine the commands in its places. -/
def State.unitCtxs (s : State) (u : Nat) : List (Nat × Nat) :=
  let p := unitPart u; let i := unitIdx u
  let by_ (f : Issued → Bool) : List (Nat × Nat) :=
    (s.inflight.filter (fun x => x.part == p && !x.done && f x)).map (fun x => (x.part, x.ctx))
  let held (e : Nat) : List (Nat × Nat) :=
    (s.held.filter (fun h => h.part == p && (h.eng == e || h.sibling == some e))).map (fun h => (h.part, h.ctx))
  (if u = 0x0300 then s.colls.map (fun k => (k.part, k.ctx))
   else if unitDie u = 0 then []
   else if i < 6 then by_ (fun x => x.engines.contains i) ++ held i
   else if i = 8 || i = 9 then
     (match storeGet none s.vxEng (2 * p + (i - 8)) with
      | some x => if x.busy then [(p, x.ctx)] else []
      | none => [])
   else if i = 0xC then by_ (fun x => x.engines.contains 6) ++ held 6
   else if i = 0x75 then by_ (fun x => x.engines.contains 0xA || firstStage (dClass x.desc) == 1)
   else if i = 0x70 || i = 0x71 || i = 0x74 then by_ (fun x => firstStage (dClass x.desc) == 1)
   else []).eraseDups

/-- Whether a running reset covers a target of the same or a shallower kind. -/
def State.rstCovers (s : State) (r : RstRun) (kind unit ctx : Nat) : Bool :=
  decide (kind ≤ r.kind) &&
  (decide (3 ≤ r.kind) || (r.kind == 2 && unitDie unit != 0 && unitPart unit == unitPart r.unit) ||
    (r.kind == 1 && (if kind = 1 then unit == r.unit else (s.unitCtxs r.unit).contains (unitPart unit, ctx))) ||
    (r.kind == 0 && unit == r.unit && ctx == r.ctx))

/-- What a reset is counted against. -/
def rstTarget (kind unit ctx : Nat) : Nat := if kind = 0 then unit + ctx * 2 ^ 16 else if kind < 3 then unit else 0

/-- Resets of a kind on a target within ESC_WINDOW, or 24 h for a power cycle (R425). -/
def State.rstCount (s : State) (kind target : Nat) : Nat :=
  let w := if kind = 4 then 1440 else max 1 (s.fld KPR_ESC_CFG_ESC_WINDOW)
  (s.rstLog.filter (fun x => x.kind == kind && x.target == target && decide (s.opmin < x.opmin + w))).length

/-- RETAIN in force for a reset. -/
def State.rstRetain (s : State) (kind unit : Nat) : Nat :=
  if kind = 2 then s.fld (MEM_CFG_RETAIN (unitPart unit))
  else if kind = 3 then (if (List.range 8).all (fun p => !s.present p || s.flag (MEM_CFG_RETAIN p)) then 1 else 0)
  else 0

/-- A KEEPER record (Table 14.6). -/
def State.keeperNote (s : State) (unit flags kind trig result retain ctx us count : Nat) : State :=
  s.keeperRec unit 0x0F flags (kind + trig * 2 ^ 8 + result * 2 ^ 16 + retain * 2 ^ 24 + ctx * 2 ^ 32 +
    min us 0xFFFFFFFF * 2 ^ 64 + min count 0xFFFFFFFF * 2 ^ 96)

/-- The record of a reset that ends, with its result. -/
def State.rstRecord (s : State) (r : RstRun) (result : Nat) : State :=
  s.keeperNote r.unit (if r.kind ≤ 2 then flKilled else 0) (r.kind + 1) r.trigger result (s.rstRetain r.kind r.unit) r.ctx
    ((s.ftime - r.since) / 4000) (s.rstCount r.kind (rstTarget r.kind r.unit r.ctx))

/-- KPR_RST_STATUS from the resets that run. -/
def State.rstShow (s : State) : State :=
  (s.setFld KPR_RST_STATUS_BUSY (if s.rstRun.isEmpty then 0 else 1)).setFld KPR_RST_STATUS_ACTIVE_SCOPE
    (s.rstRun.foldl (fun m r => max m r.kind) 0)

/-- KPR_RST_LAST as a reset is taken. -/
def State.rstLast (s : State) (scope trig retain unit ctx : Nat) : State :=
  (((s.setReg KPR_RST_LAST0 (BitVec.ofNat 32 (scope + trig * 2 ^ 8 + retain * 2 ^ 24))).setReg KPR_RST_LAST1
    (BitVec.ofNat 32 (unit + ctx * 2 ^ 16))).setReg KPR_RST_LAST2 0).setReg KPR_RST_LAST3 (BitVec.ofNat 32 s.opmin)

/-- A reset is taken: the shallower ones that it covers are merged into it, and it is counted. A power cycle is counted
once it is requested. -/
def State.rstStart (s : State) (kind unit ctx trig : Nat) : State :=
  let new : RstRun := ⟨kind, unit, ctx, trig, s.ftime⟩
  let gone := s.rstRun.filter (fun r => decide (r.kind < kind) && s.rstCovers new r.kind r.unit r.ctx)
  let s := gone.foldl (fun t r => t.rstRecord r 2) { s with rstRun := s.rstRun.filter (fun r => !gone.contains r) ++ [new] }
  let s := if kind = 4 then s else { s with rstLog := s.rstLog ++ [(⟨kind, rstTarget kind unit ctx, s.opmin⟩ : RstDone)] }
  ((s.rstLast kind trig (s.rstRetain kind unit) unit ctx).gcount (0x240 + kind) 1).rstShow

/-- A reset ends. -/
def State.rstEnd (s : State) (r : RstRun) (result : Nat) : State :=
  let s := s.rstRecord r result
  let s := if s.fld KPR_RST_LAST0_SCOPE = r.kind && s.fld KPR_RST_LAST1_UNIT = r.unit && s.fld KPR_RST_LAST1_CONTEXT = r.ctx then
      (s.setFld KPR_RST_LAST0_RESULT result).setFld KPR_RST_LAST2_DURATION_US (min ((s.ftime - r.since) / 4000) 0xFFFFFFFF)
    else s
  { s with rstRun := s.rstRun.erase r }.rstShow

/-- A running reset of a kind on a target. -/
def State.rstOf (s : State) (kind unit ctx : Nat) : Option RstRun :=
  s.rstRun.find? (fun r => r.kind == kind && r.unit == unit && r.ctx == ctx)

/-! ## The ladder (R425) -/

/-- A power cycle is to be requested. -/
def State.takePower (s : State) (trig : Nat) : State :=
  if s.rstRun.any (fun r => r.kind == 4) then s else s.rstStart 4 0 0x3F trig

/-- Step 1 of R416: MOD_READY low, the alert, a context reset of every context. -/
def State.moduleDown (s : State) : State :=
  let s := (s.setReady false).sbAlert alReset
  forRange 8 (fun p t => t.ctxResetAll p) s

/-- A module reset is taken, or replaced by a power cycle. -/
def State.takeModule (s : State) (trig : Nat) : State :=
  if (s.boot ≠ .running && s.boot ≠ .recovery) || s.rstRun.any (fun r => decide (3 ≤ r.kind)) then s
  else if s.fld KPR_ESC_CFG_MOD_RST_MAX ≤ s.rstCount 3 0 then s.takePower 3
  else { (s.rstStart 3 0 0x3F trig).moduleDown with boot := .resetting }

/-- A partition reset is taken, merged, or replaced by a module reset. -/
def State.takePart (s : State) (p trig : Nat) : State :=
  let u := unitId p 0x10
  if s.boot ≠ .running || !s.present p || s.fld (RCV_HEALTH_PART p) = 3 || s.rstRun.any (fun r => s.rstCovers r 2 u 0x3F) then s
  else if s.fld KPR_ESC_CFG_PART_RST_MAX ≤ s.rstCount 2 u then s.takeModule 3
  else
    let s := (s.rstStart 2 u 0x3F trig).ctxResetAll p
    s.setFld ⟨DBG_GSTATUS, 24 + p, 1⟩ 0

/-- Online bit of an engine (R414). -/
def State.setOnline (s : State) (u v : Nat) : State :=
  let p := unitPart u; let i := unitIdx u
  if unitDie u = 0 then s
  else if i < 6 then (s.setFld ⟨MXE_ENG_ONLINE p, i, 1⟩ v).mxMap p
  else if i = 8 || i = 9 then s.setFld ⟨VXE_ENG_ONLINE p, i - 8, 1⟩ v
  else s

/-- An engine reset is taken, merged, or replaced by the next step. -/
def State.takeEngine (s : State) (u trig : Nat) : State :=
  let hub := unitDie u == 0
  let p := unitPart u
  if s.boot ≠ .running || (!hub && (!s.present p || s.fld (RCV_HEALTH_PART p) = 3)) ||
      s.rstRun.any (fun r => s.rstCovers r 1 u 0x3F) then s
  else if s.fld KPR_ESC_CFG_ENG_RST_MAX ≤ s.rstCount 1 u then (if hub then s.takeModule 3 else s.takePart p 3)
  else
    let s := s.rstStart 1 u 0x3F trig
    { s with resetting := storeSet false s.resetting u true }.setOnline u 0

/-- A context reset is taken or merged. -/
def State.takeCtx (s : State) (p ctx trig : Nat) : State :=
  let u := unitId p 0x11
  if s.boot ≠ .running || !s.present p || s.fld (RCV_HEALTH_PART p) = 3 || s.rstRun.any (fun r => s.rstCovers r 0 u ctx) then s
  else s.rstStart 0 u ctx trig

/-! ## The resets themselves -/

/-- CONTEXT_RESET: the reset of a context that has been taken runs to its end (R413). -/
def execContextReset (p ctx : Nat) (s : State) : Host.Outcome State Fault Refusal :=
  match s.rstOf 0 (unitId p 0x11) ctx with
  | some r => .next ((s.ctxReset p ctx).rstEnd r 0)
  | none => .next s

/-- The logic and buffers of a unit at their defaults, its contexts reset (R414, Table 14.2). -/
def State.clearEngine (s : State) (u : Nat) : State :=
  let p := unitPart u; let i := unitIdx u
  let s := (s.unitCtxs u).foldl (fun t c => t.ctxReset c.1 c.2) s
  if u = 0x0400 then
    s.bcasts.foldl (fun t b => (t.bcastEnd b stAborted).bcastClose b 0) s
  else if unitDie u = 0 then s
  else if i < 6 then { s with preload := storeSet none s.preload (8 * p + i) none }
  else if i = 8 || i = 9 then
    let e := i - 8
    let s := { s with vxEng := storeSet none s.vxEng (2 * p + e) none }
    (forRange 4 (fun r t => t.zeroVt p e r) s).zeroVvs p e
  else s

/-- ENGINE_RESET: the unit's contexts are reset and its logic returns to its defaults; its self-test is to come. -/
def execEngineReset (u : Nat) (s : State) : Host.Outcome State Fault Refusal :=
  match s.rstOf 1 u 0x3F with
  | some _ => .next (s.clearEngine u)
  | none => .next s

/-- ENGINE_SELF_TEST_DONE: the unit comes back, or is classified permanent (R414). -/
def execEngineSelfTestDone (u : Nat) (pass : Bool) (s : State) : Host.Outcome State Fault Refusal :=
  match s.rstOf 1 u 0x3F with
  | none => .next s
  | some r =>
    let s := { s with resetting := storeSet false s.resetting u false }
    let s := if (s.hist u).state = 1 then s else s.setOnline u 1
    let s := if unitDie u ≠ 0 && unitIdx u = 0x10 then
      { s with aon := { s.aon with ccWait := storeSet 0 s.aon.ccWait (unitPart u) (s.ftime + 1) } } else s
    if pass then .next (s.rstEnd r 0)
    else .next ((s.rstEnd r 3).permanent u 6 (unitRow u) 0)

/-- Keys `p` and up of a store that holds `n` keys for each partition, cleared. -/
def dropPart {α : Type} (l : Store α) (p n : Nat) : Store α := storeClear l (p * n) n

/-- Long operations that use a partition end with ABORTED (R419). -/
def State.endPartOps (s : State) (p : Nat) : State :=
  let j := s.jobOf p
  let uses (o : OpenOp) : Bool :=
    (o.op == 4 && o.arg 1 % 16 == p) || (o.op == 0xA && bitAt (o.arg 0) p) ||
    (decide (j < 8) && (o.op == 6 || o.op == 7 || o.op == 8) && o.arg 0 == j)
  let s := (s.ops.filter uses).foldl (fun t o => t.cutOp o stAborted) s
  let mine (l : Load) : Bool := match l.img with | some i => i.parts.contains p | none => false
  let gone := s.loads.filter mine
  let s := gone.foldl (fun t l =>
    let t := match l.img with
      | some i => if l.ready then t.unplacePrograms i (l.op.arg 0) else t
      | none => t
    (t.setReg (BIT_SLOT_STATE (l.op.arg 0)) 0).endWith l.op stAborted []) { s with loads := s.loads.filter (fun l => !mine l) }
  s.setFld BIT_STATUS_LOAD_BUSY (if s.loads.isEmpty then 0 else 1)

/-- The tile and vector registers of a partition at +0, clear. -/
def State.zeroVx (s : State) (p : Nat) : State :=
  { s with vx := storeClear s.vx (vtKey p 0 0) (vtKey (p + 1) 0 0 - vtKey p 0 0),
           vxPsn := storeClear s.vxPsn (vtpKey p 0 0) (vtpKey (p + 1) 0 0 - vtpKey p 0 0) }

/-- A partition reset (R415, Table 14.5). -/
def State.partReset (s : State) (p : Nat) : State :=
  let j := s.jobOf p
  let retain := s.flag (MEM_CFG_RETAIN p)
  let s := (s.ctxResetAll p).endPartOps p
  let s := if decide (j < 8) && s.flag (HSP_J_STATUS_SET_OPEN j) then
      (s.setFld (HSP_J_STATUS_WITHHELD j) 1).updRun j (fun r => { r with ack := false })
    else s
  let s := (s.setFld (HSP_SLOT_STATE_A_PIN p) 0).setFld (HSP_SLOT_STATE_B_PIN p) 0
  let s := if retain then s else s.zeroStack p
  let s := s.zeroTile p
  let s := s.regsReset 2 (fun a => match partWindow a with | some (q, _) => q == p | none => a == KPR_CC_HB p)
  let s := forRange 32 (fun e t => if t.fld (CAM_HOST_W0_STATE p e) = 0 then t else t.enterKilled p e) s
  let s := s.zeroVx p
  let s := { s with
    issuing := dropPart s.issuing p 1
    vxEng := dropPart s.vxEng p 2
    vxCmds := s.vxCmds.filter (fun v => v.part != p)
    shardS := dropPart s.shardS p 2048
    shardP := dropPart s.shardP p 2048
    preload := dropPart s.preload p 8
    held := s.held.filter (fun h => h.part != p)
    etaMissed := dropPart s.etaMissed p 1
    replayEta := dropPart s.replayEta p 32
    holds := s.holds.filter (fun h => h.part != p)
    slipMax := dropPart s.slipMax p 1
    lastIssue := dropPart s.lastIssue p 64
    startCyc := dropPart s.startCyc p 1
    resetting := s.resetting.filter (fun c => unitDie c.1 == 0 || unitPart c.1 != p)
    aon := { s.aon with ccMiss := storeSet 0 s.aon.ccMiss p 0, ccWait := storeSet 0 s.aon.ccWait p 0 } }
  let s := (s.rebuildEngines p).setFld ⟨KPR_HB_STATUS, p, 1⟩ 0
  forRange 4 (fun k t => t.setDom (4 * p + k) 0) s

/-- PARTITION_RESET: the partition reset that has been taken runs to its end. -/
def execPartitionReset (p : Nat) (s : State) : Host.Outcome State Fault Refusal :=
  match s.rstOf 2 (unitId p 0x10) 0x3F with
  | some r => .next ((s.partReset p).rstEnd r 0)
  | none => .next s

/-- Steps 2 to 4 of R416. -/
def State.moduleClear (s : State) : State := s.afterModuleReset (fun p => s.flag (MEM_CFG_RETAIN p))

/-- Steps 5 to 7 of R416 and the end of the resets that led there. -/
def State.moduleBoot (s : State) (cause : Nat) (env : BootEnv) : State :=
  let runs := s.rstRun
  let s := s.bootUp cause true env
  if s.boot ≠ .running then s
  else
    let t : State := (runs.filter (fun (r : RstRun) => r.kind == 3)).foldl (fun (t : State) r => t.rstEnd r 0) s
    ({ t with rstRun := [] }).rstShow

/-- MODULE_RESET: the module reset that has been taken runs to its end. -/
def execModuleReset (env : BootEnv) (s : State) : Host.Outcome State Fault Refusal :=
  if s.boot = .resetting then .next (s.moduleClear.moduleBoot 3 env) else .next s

/-- The module is held in module reset, with a cause of MOD_FAULT# (R22, R426). -/
def State.holdModule (s : State) (fault : Nat) : State :=
  { s.moduleDown.moduleClear with boot := .held }.addFault fault

/-- All detections that wait are written (R423). -/
def State.drainDetections (s : State) : State := forRange s.detections.length (fun _ t => t.takeDetections t.detections) s

/-- A power cycle is requested, or beyond PWR_CYCLE_MAX the module is held (R417, R426). -/
def State.powerCycle (s : State) : State :=
  match s.rstRun.find? (fun r => r.kind == 4) with
  | none => s
  | some r =>
    if s.pins.pwrReq || s.boot = .held then s
    else if s.fld KPR_ESC_CFG_PWR_CYCLE_MAX ≤ s.rstCount 4 0 then
      let s := ((s.holdModule ftHeld).setFld KPR_ESC_COUNT_HELD 1).setFld KPR_SB_STATE_ESC_HELD 1
      s.keeperNote 0 0 0x0A r.trigger 0 0 0x3F 0 (s.rstCount 4 0)
    else
      let s := { s with rstLog := s.rstLog ++ [(⟨4, 0, s.opmin⟩ : RstDone)] }.rstRecord r 0
      let s := if s.boot = .running then s.drainDetections else s
      let s := ((s.checkpoint.noteDrops.flushNow).opRingWrite).copyNow
      { s with aon := { s.aon with bootCause := 1 }, pins := { s.pins with pwrReq := true } }

/-- POWER_CYCLE_REQUEST. -/
def execPowerCycleRequest (s : State) : Host.Outcome State Fault Refusal := .next s.powerCycle

/-- PWR_CYCLE_REQ_TIMEOUT: 2 s without an answer to PWR_CYCLE_REQ# (R22). -/
def execPwrCycleReqTimeout (s : State) : Host.Outcome State Fault Refusal :=
  if !s.pins.pwrReq || s.boot = .held then .next s
  else .next (((s.eventUnit 0 8).holdModule ftUnanswered).sbAlert alPwrCycle)

/-- Counts, request and cause of the escalation are forgotten. -/
def State.escForget (s : State) : State :=
  { s with rstLog := [], pins := { s.pins with pwrReq := false }, rstRun := s.rstRun.filter (fun r => r.kind != 4)
           aon := { s.aon with bootCause := if s.aon.bootCause = 1 then 0 else s.aon.bootCause } }

/-- CLEAR (R22, R426): the counts and the hold go, PWR_CYCLE_REQ# and MOD_FAULT# are released, and a held module boots. -/
def State.escClear (s : State) (env : BootEnv) : State :=
  let s := (((s.escForget.clearFault (ftUnanswered + ftHeld)).setFld KPR_ESC_COUNT_HELD 0).setFld KPR_SB_STATE_ESC_HELD 0).rstShow
  if s.boot = .held then s.moduleBoot 3 env else s

/-- KPR_ESC_CLEAR_WRITE by function `f`. -/
def execKprEscClearWrite (f : Nat) (env : BootEnv) (s : State) : Host.Outcome State Fault Refusal :=
  if s.boot = .off || 8 < f then .next s
  else if f ≠ 0 then .next (s.denied f)
  else .next (s.escClear env)

/-- PCIE_CONVENTIONAL_RESET (R418, R558): by PERST# (0), hot reset (1) or link down (2). -/
def execPcieConventionalReset (how : Nat) (s : State) : Host.Outcome State Fault Refusal :=
  if s.boot = .off then .next s else
  let s := if how = 0 then { s with pins := { s.pins with perst := true } } else s
  let s := { s with perst := if how = 0 then false else s.perst }
  -- a deeper reset that runs covers it
  if s.boot ≠ .running || s.rstRun.any (fun r => decide (3 ≤ r.kind)) then .next s else
  let trig := if how = 2 then 0xA else 9
  let s := s.regsReset 4 hostField
  let s := { s with irqPend := [], irqLast := [], cqLap := [] }.mbxAlert.cqShow
  let s := { s with rstLog := s.rstLog ++ [(⟨5, 0, s.opmin⟩ : RstDone)] }
  .next (((s.rstLast 5 trig 0 0x0500 0x3F).gcount 0x245 1).keeperNote 0x0500 0 6 trig 0 0 0x3F 0 (s.rstCount 5 0))

/-! ## Heartbeats and Keeper faults (R420 to R422) -/

/-- CC_HEARTBEAT_SAMPLE: beats of a control core in the last CC_PERIOD. -/
def execCcHeartbeatSample (p beats : Nat) (s : State) : Host.Outcome State Fault Refusal :=
  let u := unitId p 0x10
  if s.boot ≠ .running || !s.present p || s.fld (RCV_HEALTH_PART p) = 3 || decide (2 ≤ s.domState (4 * p + 1)) ||
      s.partInReset p || (s.rstOf 1 u 0x3F).isSome || bitAt (s.fld DBG_GSTATUS_HALTED) p then .next s
  else
    let s := s.setFld (KPR_CC_HB_BEAT p) (s.fld (KPR_CC_HB_BEAT p) + beats)
    if beats ≠ 0 then
      .next { s.setFld ⟨KPR_HB_STATUS, p, 1⟩ 0 with
        aon := { s.aon with ccMiss := storeSet 0 s.aon.ccMiss p 0, ccWait := storeSet 0 s.aon.ccWait p 0 } }
    else
      let n := storeGet 0 s.aon.ccMiss p + 1
      let s := (s.setFld ⟨KPR_HB_STATUS, p, 1⟩ 1).gcount 0x246 1
      if n < max 1 (s.fld KPR_HB_CFG_CC_MISS) || storeGet 0 s.aon.ccWait p ≠ 0 then
        .next { s with aon := { s.aon with ccMiss := storeSet 0 s.aon.ccMiss p n } }
      else
        let s := { s with aon := { s.aon with ccMiss := storeSet 0 s.aon.ccMiss p 0 } }
        .next (((s.setFld KPR_HB_STATUS_CC_MISS_SEEN 1).keeperNote u 0 7 4 0 0 0x3F 0 0).takeEngine u 4)

/-- KEEPER_WATCHDOG: KPR_MISS periods without a beat of the Keeper. It is disarmed while a module reset runs. -/
def execKeeperWatchdog (s : State) : Host.Outcome State Fault Refusal :=
  if s.boot ≠ .running then .next s
  else
    let s := (s.gcount 0x247 (max 1 (s.fld KPR_HB_CFG_KPR_MISS))).setFld KPR_HB_STATUS_KPR_MISS_SEEN 1
    .next ((s.keeperNote 0 0 7 5 0 0 0x3F 0 0).takeModule 5)

/-- WATCHDOG_BOOT_TIMEOUT: no beat 2 s after a module reset was taken. -/
def execWatchdogBootTimeout (s : State) : Host.Outcome State Fault Refusal :=
  if s.boot ≠ .resetting then .next s else .next ((s.takePower 5).powerCycle)

/-- LOCKSTEP_MISMATCH. -/
def execLockstepMismatch (s : State) : Host.Outcome State Fault Refusal :=
  if s.boot ≠ .running then .next s else .next ((s.keeperNote 0 0 8 6 0 0 0x3F 0 0).takeModule 6)

/-- CLOCK_FAULT. -/
def execClockFault (s : State) : Host.Outcome State Fault Refusal :=
  if s.boot ≠ .running then .next s else .next ((s.keeperNote 2 0 9 7 0 0 0x3F 0 0).takeModule 7)

/-- I3C_TARGET_FAULT: the target logic alone is reset, counted against unit 0x0003. -/
def execI3cTargetFault (s : State) : Host.Outcome State Fault Refusal :=
  if s.boot = .off then .next s
  else .next ({ s with ibiEn := false, i3cAddr := 0, i3cPtr := 0 }.detectOnly 3 11)

/-! ## Hangs and bounds (R424, R425) -/

/-- HANG_DETECT: a unit holds work and has completed none of it for HANG_US. -/
def execHangDetect (u : Nat) (s : State) : Host.Outcome State Fault Refusal :=
  match s.unitCtxs u with
  | [] => .next s
  | c :: _ => .next (s.takeCtx c.1 c.2 1)

/-- RESET_BOUND_EXPIRY: a reset of `kind` exceeds its bound or does not cure. A context reset names context and partition,
and `unit` is the unit that has not discarded the work or still hangs; an engine or partition reset names its unit. -/
def execResetBoundExpiry (kind p ctx unit : Nat) (s : State) : Host.Outcome State Fault Refusal :=
  match kind with
  | 0 =>
    match s.rstOf 0 (unitId p 0x11) ctx with
    | some r => .next (((s.ctxReset p ctx).rstEnd r 1).takeEngine unit 2)
    | none => if (s.unitCtxs unit).isEmpty then .next s else .next (s.takeEngine unit 2)
  | 1 =>
    let next (t : State) : State := if unitDie unit = 0 then t.takeModule 2 else t.takePart (unitPart unit) 2
    match s.rstOf 1 unit 0x3F with
    | some r => .next (next ((s.clearEngine unit).rstEnd r 1))
    | none =>
      let w := storeGet 0 s.aon.ccWait (unitPart unit)
      if unitDie unit ≠ 0 && unitIdx unit = 0x10 && w ≠ 0 &&
          decide (w - 1 + 3 * 4000000 * min 1000 (max 1 (s.fld KPR_HB_CFG_CC_PERIOD)) ≤ s.ftime) then .next (next s)
      else .next s
  | 2 =>
    match s.rstOf 2 (unitId p 0x10) 0x3F with
    | some r => .next (((s.partReset p).rstEnd r 1).takeModule 2)
    | none => .next s
  | 3 =>
    match s.rstOf 3 0 0x3F with
    | some r => .next ((s.rstEnd r 1).takePower 2)
    | none => .next s
  | _ => .next s

/-! ## Requests (R412, Table 14.7) -/

/-- A GO of KPR_RST_REQ by function `f` with its fields; `ok` whether its target exists. -/
def State.rstReq (s : State) (f scope part unit hub ctx : Nat) (ok : Bool) (take : State → State) : State :=
  if s.boot ≠ .running || 8 < f then s
  else if f ≠ 0 then s.denied f
  else
    let s := s.setReg KPR_RST_REQ (BitVec.ofNat 32 (scope + part % 16 * 8 + unit % 256 * 2 ^ 7 + hub * 2 ^ 15 + ctx % 64 * 2 ^ 16))
    if ok then take s else s.setFld KPR_RST_STATUS_REQ_REJECT 1

/-- RST_REQ_CONTEXT. -/
def execRstReqContext (f p ctx : Nat) (s : State) : Host.Outcome State Fault Refusal :=
  .next (s.rstReq f 0 p 0 0 ctx (s.present p && decide (ctx < 36)) (fun t => t.takeCtx p ctx 8))

/-- RST_REQ_ENGINE: the unit of index `i` of partition `p`, or of the hub. -/
def execRstReqEngine (f p i : Nat) (hub : Bool) (s : State) : Host.Outcome State Fault Refusal :=
  .next (s.rstReq f 1 p i (if hub then 1 else 0) 0 (if hub then decide (i < 2) else s.present p && engineIdx i)
    (fun t => t.takeEngine (if hub then 0x0300 + 0x100 * i else unitId p i) 8))

/-- RST_REQ_PARTITION. -/
def execRstReqPartition (f p : Nat) (s : State) : Host.Outcome State Fault Refusal :=
  .next (s.rstReq f 2 p 0 0 0 (s.present p) (fun t => t.takePart p 8))

/-- RST_REQ_MODULE. -/
def execRstReqModule (f : Nat) (s : State) : Host.Outcome State Fault Refusal :=
  .next (s.rstReq f 3 0 0 0 0 true (fun t => t.takeModule 8))

/-- RST_REQ_POWER_CYCLE. -/
def execRstReqPowerCycle (f : Nat) (s : State) : Host.Outcome State Fault Refusal :=
  .next (s.rstReq f 4 0 0 0 0 true (fun t => t.takePower 8))

end Sys2Proof.Machine
end

