-- ==== Sys2Proof/Machine/Power.lean ====
section
/-! DEFINITION. Power-on and the loss of input power, rails, sensors, throttling, power domains and A3 (chapter 18, R183,
R189, R190). -/
namespace Sys2Proof.Machine

/-! ## Input (R505, R506, R515, R516) -/

/-- Telemetry of the sideband as PWR_VIN and the sensors stand (Table 20.6). -/
def State.showTelem (s : State) : State :=
  let s := (s.setFld KPR_SB_TELEM0_VIN_MV (s.fld PWR_VIN_VIN_MV)).setFld KPR_SB_TELEM0_PIN_W (s.fld PWR_VIN_PIN_W)
  let hot := (List.range 64).foldl (fun (b : Option Nat) x =>
    if !s.flag (PWR_TEMP_VALID x) then b else match b with
      | some y => if ltTemp (s.fld (PWR_TEMP_TEMP y)) (s.fld (PWR_TEMP_TEMP x)) then some x else b
      | none => some x) none
  let s := match hot with
    | some x => (s.setFld KPR_SB_TELEM1_TEMP (s.fld (PWR_TEMP_TEMP x))).setFld KPR_SB_TELEM1_SENSOR x
    | none => s
  (s.setFld KPR_SB_TELEM2_INLET (s.fld (PWR_TEMP_TEMP 50))).setFld KPR_SB_TELEM2_OUTLET (s.fld (PWR_TEMP_TEMP 51))

/-- Input voltage as measured. -/
def State.setVin (s : State) (mv : Nat) : State := (s.setFld PWR_VIN_VIN_MV (min mv 65535)).showTelem

/-- POWER_ON: the input rises through 40 V on a module that had none. -/
def execPowerOn (env : BootEnv) (s : State) : Host.Outcome State Fault Refusal :=
  let s := s.afterPowerLoss
  let cause := if s.aon.bootCause ≠ 0 then s.aon.bootCause else if s.fld EVR_PCYC_PCYC = 0 then 0 else 2
  .next (s.bootUp cause false env)

/-- Every switched domain is off and no PLL runs. -/
def State.domainsOff (s : State) (keepHost : Bool) : State :=
  let s := forRange 40 (fun d t => if keepHost && d = 39 then t else t.setDom d 3) s
  ((s.setFld CLK_STATUS_REF_OK 0).setFld CLK_STATUS_HUB_LOCK 0).setFld CLK_STATUS_PLL_LOCK 0

/-- Shutdown of R506: OPMIN and the staging go to MRAM, and every switched domain loses its state. -/
def State.shutDown (s : State) (b : Boot) : State :=
  let s := s.opRingWrite.flushNow
  let runs := s.rstRun.filter (fun (r : RstRun) => decide (3 ≤ r.kind))
  let s := s.afterModuleReset (fun _ => false)
  let s := { s with boot := b, rstRun := runs, pins := { s.pins with pwrReq := false } }.rstShow
  (s.domainsOff false).setReady false

/-- UNDERVOLTAGE: the input stands at `mv`, below 38 V, for `us`. -/
def execUndervoltage (mv us : Nat) (s : State) : Host.Outcome State Fault Refusal :=
  if s.boot = .off || s.boot = .undervolt || s.boot = .overvolt || 38000 ≤ mv then .next s
  else
    let s := (s.setVin mv).shutDown .undervolt
    .next (((s.setFld PWR_STATUS_UV_SEEN 1).sbAlert alInput).powerRec 0x0700 1 0 0x3F mv 38000 us)

/-- OVERVOLTAGE: the input stands at `mv`, above 61 V, for `us`. Above 65 V it may have damaged the module, which then has no
behaviour the manual gives. -/
def execOvervoltage (mv us : Nat) (s : State) : Host.Outcome State Fault Refusal :=
  if 65000 < mv && Config.damaged mv then .fault .inputOverstress
  else if s.boot = .off || s.boot = .overvolt || mv ≤ 61000 then .next s
  else
    let s := ((s.setVin mv).shutDown .overvolt).addFault ftOvervolt
    .next (((s.setFld PWR_STATUS_OV_SEEN 1).sbAlert alInput).powerRec 0x0700 2 0 0x3F mv 61000 us)

/-- The input is back in range: the module boots, or stays where a trip or a hold keeps it (R22, R426, R523). -/
def State.inputBack (s : State) (env : BootEnv) : State :=
  if s.pins.trip then { s with boot := .tripped }
  else if s.pins.fault &&& (ftUnanswered + ftHeld) ≠ 0 then { s with boot := .held }
  else s.moduleBoot (if s.aon.bootCause ≠ 0 then s.aon.bootCause else 2) env

/-- UNDERVOLTAGE_RECOVERY: 100 ms at 40 V or above. -/
def execUndervoltageRecovery (env : BootEnv) (s : State) : Host.Outcome State Fault Refusal :=
  if s.boot = .undervolt then .next (s.inputBack env) else .next s

/-- OVERVOLTAGE_RECOVERY: 1 s below 59 V. -/
def execOvervoltageRecovery (env : BootEnv) (s : State) : Host.Outcome State Fault Refusal :=
  if s.boot = .overvolt then .next ((s.clearFault ftOvervolt).inputBack env) else .next s

/-- UV_WARNING: the input stands at `mv`, from 38 V to below 40 V. PWR_CYCLE_REQ# is released (R417). -/
def execUvWarning (mv : Nat) (s : State) : Host.Outcome State Fault Refusal :=
  if s.boot = .off || mv < 38000 || 40000 ≤ mv then .next s
  else
    let s := (s.setVin mv).setFld PWR_STATUS_UV_SEEN 1
    .next ({ s with pins := { s.pins with pwrReq := false } }.event PWR_STATUS_UV_SEEN 0x0700 8 |>.sbAlert alInput)

/-! ## Rails and PLLs (R509, R517) -/

/-- Partitions that a rail feeds (Table 18.3). -/
def railParts (r : Nat) : List Nat :=
  if 1 ≤ r && r ≤ 24 then [(r - 1) % 8] else if r = 25 then [0, 1, 2, 3] else if r = 26 then [4, 5, 6, 7] else []

/-- RAIL_OUT_OF_REGULATION: rail `r` has stood at `mv` for `us`. -/
def execRailOutOfRegulation (r mv us : Nat) (s : State) : Host.Outcome State Fault Refusal :=
  let set := s.fld (PWR_RAIL_SET_MV r)
  let low := decide (mv * 20 < set * 19)
  if s.boot = .off || r = 0 || 32 ≤ r || us < 10 || (!low && mv * 20 ≤ set * 21) then .next s
  else
    let s := (s.setFld (PWR_RAIL_MEAS_MV r) (min mv 65535)).setFld PWR_STATUS_RAIL_FAULT 1
    let s := s.powerRec 0x0700 3 r 0x3F mv (set * (if low then 19 else 21) / 20) us
    let trig := (Config.powerTrigger 3).toNat
    .next (if 27 ≤ r && r ≤ 30 then s.takeModule trig else (railParts r).foldl (fun t p => t.takePart p trig) s)

/-- PLL_LOCK_LOSS of partition `p`. -/
def execPllLockLoss (p : Nat) (s : State) : Host.Outcome State Fault Refusal :=
  if s.boot ≠ .running || !s.present p || !bitAt (s.fld CLK_STATUS_PLL_LOCK) p then .next s
  else
    let s := (s.setFld ⟨CLK_STATUS, 8 + p, 1⟩ 0).setFld CLK_STATUS_PLL_LOSS 1
    let s := s.powerRec (unitId p 0x10) 6 p 0x3F (Config.powerField 6 44 p).toNat (Config.powerField 6 46 p).toNat 0
    .next (s.takePart p (Config.powerTrigger 6).toNat)

/-! ## Sensors (R510, R522, R523, R570) -/

/-- THROTTLE_C as it is read, in 1/16 °C. -/
def State.throttleLimit (s : State) : Nat := 16 * min 100 (max 70 (s.fld PWR_THERM_CFG_THROTTLE_C))

/-- Throttle and trip limits of a sensor in 1/16 °C (Table 18.4); none where it has none. -/
def State.ownLimits (s : State) (x : Nat) : Option Nat × Option Nat :=
  if x < 32 then (if x % 4 = 3 then (some (105 * 16), some (110 * 16)) else (some s.throttleLimit, some (115 * 16)))
  else if x < 40 then (some s.throttleLimit, some (115 * 16))
  else if x < 42 then (none, some (115 * 16))
  else if x < 50 then (some (110 * 16), some (125 * 16))
  else if x < 52 then (none, none)
  else (some s.throttleLimit, some (115 * 16))

/-- Die on which a sensor lies; a stack, the MRAM die and what is no die stand alone. -/
def sensorDie (x : Nat) : Nat :=
  if x < 32 then (if x % 4 = 3 then 16 + x else x / 16)
  else if x < 41 then 2 else if x < 52 then 16 + x else if x < 58 then 0 else 1

/-- Sensors marked not valid. -/
def State.sensorBad (s : State) (x : Nat) : Bool := storeGet false s.aon.thHot (0x100 + x)

/-- The lower of two limits. -/
def minLimit (a b : Option Nat) : Option Nat :=
  match a, b with
  | some x, some y => some (min x y)
  | some x, none => some x
  | none, y => y

/-- Limits in force on a sensor: its own, and those of its die's sensors that are not valid. -/
def State.limits (s : State) (x : Nat) : Option Nat × Option Nat :=
  ((List.range 64).filter (fun y => y != x && sensorDie y == sensorDie x && s.sensorBad y)).foldl
    (fun l y => (minLimit l.1 (s.ownLimits y).1, minLimit l.2 (s.ownLimits y).2)) (s.ownLimits x)

def State.sensorHot (s : State) (x : Nat) : Bool := storeGet false s.aon.thHot x
def State.setHot (s : State) (x : Nat) (b : Bool) : State :=
  { s with aon := { s.aon with thHot := storeSet false s.aon.thHot x b } }

/-- Sensors counted for a partition; a conversion phase throttles both dies. -/
def partSensors (p : Nat) : List Nat :=
  [4 * p, 4 * p + 1, 4 * p + 2, 4 * p + 3] ++ (List.range 8).map (42 + ·) ++ (List.range 6).map ((if p < 4 then 52 else 58) + ·)

/-- Whether a partition is throttled by a sensor. -/
def State.partHot (s : State) (p : Nat) : Bool := (partSensors p).any s.sensorHot

/-- A thermally throttled partition of a job slot (R522). -/
def State.noteTherm (s : State) (p : Nat) : State :=
  let j := s.jobOf p
  if j < 8 && (s.partHot p || decide (storeGet 16 s.thDuty p < 16)) then
    { s with thermStep := storeSet false s.thermStep j true, thermLast := storeSet 0 s.thermLast j (s.ftime + 1) }
  else s

/-- THERM_THROTTLED and the inlet: the flags of a sensor with its reading (R522, R570). -/
def State.sensorFlags (s : State) (x : Nat) : State :=
  let t := signedOf (s.fld (PWR_TEMP_TEMP x)) 16
  if !s.flag (PWR_TEMP_VALID x) then s.setHot x false
  else if x = 50 then
    let out := decide (t < 240) || decide (640 < t)
    if out && !s.sensorHot 50 then ((s.setHot 50 true).event ⟨PWR_TEMP 50, 0, 16⟩ 0x0701 8).sbAlert alCoolant else s.setHot 50 out
  else match (s.limits x).1 with
    | none => s
    | some l =>
      if (l : Int) ≤ t then
        if s.sensorHot x then s
        else (((s.setHot x true).setFld PWR_STATUS_THERM_THROTTLED 1).event PWR_STATUS_THERM_THROTTLED 0x0701 8).sbAlert alThermal
      else if t ≤ (l : Int) - 32 then s.setHot x false
      else s

/-- A trip (R523): the compute clocks stop, THERM_TRIP# is asserted, and OPMIN and the staging go to MRAM. -/
def State.trip (s : State) (x limit : Nat) : State :=
  let s := s.powerRec 0x0701 4 x ((sensorDomain x).getD 0x3F) (s.fld (PWR_TEMP_TEMP x)) limit 0
  let s := if s.boot = .running then s.drainDetections else s
  let s := s.opRingWrite.flushNow
  { s with boot := .tripped, pins := { s.pins with trip := true }, aon := { s.aon with bootCause := 4, tripAt := s.ftime } }

/-- One reading of a sensor; `ok` false where it does not answer. -/
def State.readSensor (s : State) (x v : Nat) (ok : Bool) : State :=
  let t := signedOf (v % 65536) 16
  if ok && decide (-640 ≤ t) && decide (t ≤ 2400) then
    ((s.setFld (PWR_TEMP_TEMP x) v).setFld (PWR_TEMP_VALID x) 1).setHot (0x100 + x) false
  else
    let s := s.setFld (PWR_TEMP_VALID x) 0
    if s.sensorBad x then s
    else
      let lim := if !ok then (Config.powerField 5 46 x).toNat else if t < -640 then 65536 - 640 else 2400
      (s.setHot (0x100 + x) true).powerRec 0x0701 5 x ((sensorDomain x).getD 0x3F)
        (if ok then v % 65536 else (Config.powerField 5 44 x).toNat) lim 0

/-- TEMP_SENSOR_SAMPLE: the readings of 1 ms, as sensor, temperature in 1/16 °C and whether it answered. -/
def execTempSensorSample (rs : List (Nat × Nat × Bool)) (s : State) : Host.Outcome State Fault Refusal :=
  if s.boot = .off then .next s
  else
    let s := (rs.filter (fun r => r.1 < 64)).foldl (fun t r => t.readSensor r.1 r.2.1 r.2.2) s
    let s := (forRange 64 (fun x t => t.sensorFlags x) s).showTelem
    let s := forRange 8 (fun p t =>
      let d := storeGet 16 t.thDuty p
      (if !t.partHot p && decide (d < 16) then { t with thDuty := storeSet 16 t.thDuty p (d + 1) } else t).noteTherm p) s
    let s := s.showDuty
    let high := (List.range 64).findSome? (fun x =>
      match (s.limits x).2 with
      | some l => if s.flag (PWR_TEMP_VALID x) && decide ((l : Int) ≤ signedOf (s.fld (PWR_TEMP_TEMP x)) 16) then some (x, l) else none
      | none => none)
    match high with
    | some (x, l) => if s.boot = .tripped || s.boot = .undervolt || s.boot = .overvolt then .next s else .next (s.trip x l)
    | none => .next s

/-- THERM_TRIP_NOT_REMOVED: input is present 1 s after the trip. -/
def execThermTripNotRemoved (s : State) : Host.Outcome State Fault Refusal :=
  if s.boot = .tripped && decide (s.aon.tripAt + 4000000000 ≤ s.ftime) then .next (s.addFault ftTrip) else .next s

/-- Lower bound of a refresh band in 1/16 °C (Table 7.2). -/
def bandBound (b : Nat) : Int := match b with | 0 => -65536 | 1 => 1360 | 2 => 1520 | _ => 1680

/-- Refresh band at a temperature, from the band before (R190). -/
def nextBand (cur : Nat) (t : Int) : Nat :=
  (List.range 4).foldl (fun m b =>
    if bandBound b ≤ t || (decide (b ≤ cur) && decide (bandBound b - 32 < t)) then b else m) 0

/-- STACK_TEMP_SAMPLE: the controller of partition `p` reads its stack, in 1/16 °C (R189, R190). -/
def execStackTempSample (p v : Nat) (s : State) : Host.Outcome State Fault Refusal :=
  if s.boot ≠ .running || !s.present p || s.domState (4 * p + 3) = 3 then .next s
  else
    let t := signedOf (v % 65536) 16
    let cur := s.fld (MEM_STATUS_BAND p)
    let b := nextBand cur t
    let s := (s.setFld (MEM_STATUS_STACK_TEMP p) (t / 16 % 256).toNat).setFld (MEM_STATUS_BAND p) b
    .next (if (b = 2 && cur ≠ 2) || (b = 3 && decide (cur < 2)) then s.event (MEM_STATUS_BAND p) (stackUnit p 0xFF) 8 else s)

/-! ## Power samples and the throttle (R519 to R522) -/

/-- CAP_W − CAP_MARGIN as the throttle uses it: under the cap, and under 1,550 W with a margin of at least 20 W (R520,
R521). -/
def State.capFloor (s : State) : Nat :=
  min (s.capW - s.fld PWR_CAP_CAP_MARGIN) (1550 - max 20 (s.fld PWR_CAP_CAP_MARGIN))

/-- POWER_SAMPLE: input power in W, input voltage in mV, estimated idle power in W, and the rails as measured in mV. -/
def execPowerSample (w vin static : Nat) (rails : List (Nat × Nat)) (s : State) : Host.Outcome State Fault Refusal :=
  if s.boot = .off then .next s
  else
    let l := (w :: s.aon.pinAvg).take 10
    let pin := min 65535 (l.foldl (· + ·) 0 / l.length)
    let s := { s with aon := { s.aon with pinAvg := l } }
    let s := (s.setFld PWR_VIN_PIN_W pin).setFld PWR_STATIC_STATIC_W (min static 65535)
    let s := (rails.filter (fun r => r.1 < 32)).foldl (fun t r => t.setFld (PWR_RAIL_MEAS_MV r.1) (min r.2 65535)) s
    let full := s.fld PWR_THROTTLE_DUTY_A = 16 && s.fld PWR_THROTTLE_DUTY_B = 16
    let s := if !full then s else
      { s with pStep := ((List.range 8).filter s.slotLoaded).foldl (fun m j => storeSet 0 m j (max pin (storeGet 0 m j))) s.pStep }
    let s := if s.capFloor < pin then { s with aon := { s.aon with pinOver := s.ftime + 1 } } else s
    .next (s.setVin vin)

/-- Whether a compute die runs work. -/
def State.dieBusy (s : State) (die : Nat) : Bool := s.inflight.any (fun i => i.part / 4 == die && !i.done)

/-- Duty of a die under the cap at a 100 µs boundary (R520, R521). -/
def State.capStep (s : State) (die : Nat) : State :=
  let d := storeGet 16 s.capDuty die
  let pin := s.fld PWR_VIN_PIN_W
  let static := s.fld PWR_STATIC_STATIC_W
  let lim := s.capFloor
  let d' :=
    if s.capW < pin then (if s.dieBusy die then max 1 (d - 1) else d)
    else if d < 16 && decide (pin ≤ lim) && (s.aon.pinOver == 0 || decide (s.aon.pinOver - 1 + 4000000 ≤ s.ftime)) &&
        decide (static * d + (pin - static) * (d + 1) ≤ lim * d) then d + 1
    else d
  { s with capDuty := storeSet 16 s.capDuty die d' }

/-- THROTTLE_STEP: a 100 µs boundary, with the time the past 100 µs count for (Table 19.1, Table 19.2). -/
def execThrottleStep (s : State) : Host.Outcome State Fault Refusal :=
  if s.boot ≠ .running then .next s
  else
    let s := forRange 8 (fun p t => if storeGet 16 t.thDuty p < 16 then t.count p 0x238 100 else t) s
    let s := if storeGet 16 s.capDuty 0 < 16 || storeGet 16 s.capDuty 1 < 16 then s.gcount 0x288 100 else s
    let s := if s.capW < s.fld PWR_VIN_PIN_W then s.setFld PWR_STATUS_CAP_THROTTLED 1 else s
    let s := (s.capStep 0).capStep 1
    let s := forRange 8 (fun p t =>
      (if t.partHot p then { t with thDuty := storeSet 16 t.thDuty p (max 1 (storeGet 16 t.thDuty p - 1)) } else t).noteTherm p) s
    .next s.showDuty

/-- CAP_WRITE of function `f` (R520, R524): a cut below the power in use is noted in every loaded slot. -/
def execCapWrite (f w : Nat) (s : State) : Host.Outcome State Fault Refusal :=
  if s.boot ≠ .running || 8 < f then .next s
  else if f ≠ 0 then .next (s.denied f)
  else
    let was := s.capW
    let s := s.setFld PWR_CAP_CAP_W w
    if s.capW < was && decide (s.capW < s.fld PWR_VIN_PIN_W) then
      .next (((List.range 8).filter s.slotLoaded).foldl (fun t j => t.cutBelow j) s)
    else .next s

/-! ## Power domains (R183, R512, R513) -/

/-- Descriptors that the Cam scans of an entry: index and effective offset; one in REPLAY is due at once. -/
def State.scanOf (s : State) (p e : Nat) : List (Nat × Nat) :=
  let st := s.fld (CAM_HOST_W0_STATE p e)
  if st ≠ 2 && st ≠ 3 then []
  else
    let pos := s.fld (CAM_HOST_W7_POS p e)
    let n := min (min 64 (s.fld (CAM_CFG_LOOKAHEAD p))) (s.fld (CAM_HOST_W2_PROG_LEN p e) - pos)
    (List.range n).map (fun i =>
      let d := s.descAt p e (pos + i)
      (d, if st = 3 then 0 else s.effOffset p e d))

/-- Earliest offset at which the lookahead of a partition needs a domain; the head of a ring needs its domains at once. -/
def State.domNeed (s : State) (p d : Nat) : Option Nat :=
  let ring := (List.range 4).any (fun m => s.ctxReady p (32 + m) &&
    (neededDomains p (s.descAt p (32 + m) (s.ctxPos p (32 + m)))).contains d)
  let offs := ((List.range 32).flatMap (fun e => s.scanOf p e)).filterMap (fun x =>
    if (neededDomains p x.1).contains d then some x.2 else none)
  (if ring then [0] else offs).foldl (fun (m : Option Nat) o => match m with | some x => some (min x o) | none => some o)
    (if ring then some 0 else none)

/-- Whether a command in flight needs a domain. -/
def State.domInUse (s : State) (d : Nat) : Bool :=
  s.inflight.any (fun i => !i.done && (neededDomains i.part i.desc).contains d)

/-- Whether work of a partition keeps its vector/scalar domain out of A2: an entry in ACTIVE or REPLAY, a ring that is
enabled (R512). -/
def State.vsKept (s : State) (p : Nat) : Bool :=
  (List.range 32).any (fun e => s.fld (CAM_HOST_W0_STATE p e) == 2 || s.fld (CAM_HOST_W0_STATE p e) == 3) ||
    (List.range 4).any (fun m => s.flag (CAM_RING_CTRL_ENABLE p m))

/-- A wake: A0 from A1 or A2. -/
def State.wakeDom (s : State) (d : Nat) : State :=
  if s.domState d = 1 || s.domState d = 2 then s.setDom d 0 else s

/-- DOMAIN_PREWAKE: the lookahead needs domain `d` within its lead. -/
def execDomainPrewake (d : Nat) (s : State) : Host.Outcome State Fault Refusal :=
  let ps := if d < 32 then [d / 4] else if d = 38 then List.range 8 else []
  let near (p : Nat) : Bool := s.camRuns p && (match s.domNeed p d with
    | some o => decide (o ≤ s.stepCycles p + (if s.domState d = 1 then s.fld (CAM_WAKE_CFG0_A1_LEAD p) else s.fld (CAM_WAKE_CFG1_A2_LEAD p)))
    | none => false)
  .next (if ps.any near then s.wakeDom d else s)

/-- DOMAIN_A1_ENTRY: domain `d` has been idle for A1_IDLE cycles, or the collective/broadcast engine has nothing open. -/
def execDomainA1Entry (d : Nat) (s : State) : Host.Outcome State Fault Refusal :=
  if s.boot ≠ .running || s.domState d ≠ 0 || s.flag (PWR_DOM_HOLD_AWAKE d) || s.domInUse d then .next s
  else if d = 38 then .next (if s.colls.isEmpty && s.bcasts.isEmpty then s.setDom d 1 else s)
  else if 32 ≤ d || d % 4 = 3 then .next s
  else
    let p := d / 4
    let far := match s.domNeed p d with
      | some o => decide (s.stepCycles p + s.fld (CAM_WAKE_CFG0_A1_IDLE p) < o)
      | none => true
    .next (if s.camRuns p && far then s.setDom d 1 else s)

/-- DOMAIN_A2_ENTRY: domain `d` has been idle for A2_IDLE cycles. -/
def execDomainA2Entry (d : Nat) (s : State) : Host.Outcome State Fault Refusal :=
  let p := d / 4
  if 32 ≤ d || !s.camRuns p || 2 ≤ s.domState d || s.flag (PWR_DOM_HOLD_AWAKE d) || s.domInUse d ||
      (d % 4 = 1 && s.vsKept p) then .next s
  else
    let far (o : Nat) : Bool := decide (s.stepCycles p + s.fld (CAM_WAKE_CFG2_A2_IDLE p) ≤ o)
    let ok := match s.domNeed p d with
      | some o => far o
      | none => (List.range 32).all (fun e => match (s.scanOf p e).getLast? with | some x => far x.2 | none => true)
    .next (if ok then s.setDom d 2 else s)

/-- PARTITION_IDLE_A2: partition `p` of no loaded slot has been idle for 10 ms. -/
def execPartitionIdleA2 (p : Nat) (s : State) : Host.Outcome State Fault Refusal :=
  if s.boot ≠ .running || !s.present p || storeGet 0 s.owner p ≠ 0 || s.partInReset p || s.vsKept p ||
      s.inflight.any (fun i => i.part == p && !i.done) then .next s
  else .next (forRange 4 (fun k t =>
    let d := 4 * p + k
    if 2 ≤ t.domState d || t.flag (PWR_DOM_HOLD_AWAKE d) then t else t.setDom d 2) s)

/-- DOMAIN_WAKE_TIMEOUT: domain `d` has not reached A0 1 ms after its wake request. -/
def execDomainWakeTimeout (d : Nat) (s : State) : Host.Outcome State Fault Refusal :=
  if s.boot ≠ .running || 40 ≤ d || (s.domState d ≠ 1 && s.domState d ≠ 2) then .next s
  else
    let s := s.setFld (PWR_DOM_FAIL_WAKE d) 1
    let v := (Config.powerField 7 44 d).toNat
    let l := (Config.powerField 7 46 d).toNat
    let trig := (Config.powerTrigger 7).toNat
    if d < 32 then
      .next ((((s.count (d / 4) 0x239 1).powerRec (unitId (d / 4) 0x10) 7 (d / 4) d v l 1000)).takePart (d / 4) trig)
    else
      .next (((s.gcount 0x28A 1).powerRec 0x0700 7 ((Config.powerField 7 41 d).toNat) d v l 1000).takeModule trig)

/-- DOMAIN_SLEEP_REQUEST: SLEEP of PWR_DOM_d, written by function `f`. -/
def execDomainSleepRequest (f d : Nat) (s : State) : Host.Outcome State Fault Refusal :=
  if s.boot ≠ .running || 8 < f || 40 ≤ d then .next s
  else if f ≠ 0 then .next (s.denied f)
  else
    let no := s.domState d = 3 || d = 38 || d = 39 || s.flag (PWR_DOM_HOLD_AWAKE d) || s.domInUse d ||
      (d < 32 && (storeGet 0 s.owner (d / 4) != 0 || (d % 4 = 1 && s.vsKept (d / 4)))) ||
      (32 ≤ d && s.flag (FAB_GROUP_CFG_EN (d - 32)))
    if no then .next (if d < 32 then s.count (d / 4) 0x23A 1 else s)
    else .next (s.setDom d 2)

/-- DOMAIN_HOLD_AWAKE: HOLD_AWAKE of PWR_DOM_d, written by function `f`. -/
def execDomainHoldAwake (f d : Nat) (hold : Bool) (s : State) : Host.Outcome State Fault Refusal :=
  if s.boot ≠ .running || 8 < f || 40 ≤ d then .next s
  else if f ≠ 0 then .next (s.denied f)
  else if hold then .next ((s.setFld (PWR_DOM_HOLD_AWAKE d) 1).wakeDom d)
  else .next (s.setFld (PWR_DOM_HOLD_AWAKE d) 0)

/-! ## A3 (R514, Table 14.5) -/

/-- `t` with what stays in A3 beside what a module reset keeps: registers from `m`, Keeper memory and the host interface
from `s` (R428). -/
def State.a3Kept (s m t : State) : State :=
  { t with
    regs := (m.regsReset 3 (fun a => !hostField a)).regs
    migr := m.migr
    boot := s.boot
    perst := s.perst
    irqPend := s.irqPend
    irqLast := s.irqLast
    cqLap := s.cqLap
    cqHeld := s.cqHeld
    ended := s.ended
    opCount := s.opCount
    dets := s.dets
    expo := s.expo
    expoDay := s.expoDay
    acc := s.acc
    accExt := s.accExt
    tally := s.tally
    aon := { s.aon with ccMiss := [], ccWait := [] } }

/-- What A3 leaves: the always-on domain, the host interface and MRAM. -/
def State.enterA3 (s : State) : State :=
  let m := forRange 8 (fun p t => (t.emptySlots p).endMigrations p) s
  let t := s.a3Kept m (s.afterModuleReset (fun _ => false))
  let t := ((t.setRails).setClockGuard).domainsOff true
  ((t.setFld CLK_STATUS_AO_FAST 0).setFld PWR_STATUS_A3 1).setFld KPR_SB_STATE_A3 1

/-- A3_ENTER: ENTER of PWR_A3, written by function `f`. -/
def execA3Enter (f : Nat) (s : State) : Host.Outcome State Fault Refusal :=
  if s.boot ≠ .running || 8 < f || s.flag PWR_STATUS_A3 then .next s
  else if f ≠ 0 then .next (s.denied f)
  else if s.anyLoaded || !s.ops.isEmpty || !s.loads.isEmpty then .next (s.setFld PWR_A3_REFUSED 1)
  else .next s.enterA3

/-- A3_EXIT: EXIT of PWR_A3, written by function `f`. -/
def execA3Exit (f : Nat) (s : State) : Host.Outcome State Fault Refusal :=
  if s.boot ≠ .running || 8 < f then .next s
  else if f ≠ 0 then .next (s.denied f)
  else .next s.leaveA3

end Sys2Proof.Machine
end

