-- ==== Sys2Proof/Machine/Writes.lean ====
section
/-! DEFINITION. Register writes with an effect of their own, as commands: each reaches its register under the rights of its
sender and the state of the register's domain (R458, R462), and has the effect its chapter gives it. -/
namespace Sys2Proof.Machine

/-- A write that reaches the register at `a` from function `f`; 9 stands for an agent on the module. -/
def State.hostWrite (s : State) (f a : Nat) (run : State → State) : State :=
  if s.boot ≠ .running || 9 < f || s.absentReg a then s
  else if f ≠ 9 && !s.mayReach f a true then s.denied f
  else if s.regDown a then (if f = 9 then s else s.dropWrite f)
  else run s

/-- TMB_VALUE_WRITE of tumbler `n` of partition `p` (R167, R188). -/
def execTmbValueWrite (f p n v : Nat) (s : State) : Host.Outcome State Fault Refusal :=
  .next (if 8 ≤ p || 4096 ≤ n then s else s.hostWrite f (TMB_VALUE p n) (fun t => t.tmbValueWrite p n v))

/-- RING_DOORBELL: a TAIL write of ring `m` (R185). -/
def execRingDoorbell (f p m v : Nat) (s : State) : Host.Outcome State Fault Refusal :=
  .next (if 8 ≤ p || 4 ≤ m then s else s.hostWrite f (CAM_RING_TAIL p m) (fun t => t.ringDoorbell p m v))

/-- RING_ENABLE. -/
def execRingEnable (f p m : Nat) (s : State) : Host.Outcome State Fault Refusal :=
  .next (if 8 ≤ p || 4 ≤ m then s else s.hostWrite f (CAM_RING_CTRL p m) (fun t => t.ringEnable p m))

/-- RING_DISABLE. -/
def execRingDisable (f p m : Nat) (s : State) : Host.Outcome State Fault Refusal :=
  .next (if 8 ≤ p || 4 ≤ m then s else s.hostWrite f (CAM_RING_CTRL p m) (fun t => t.ringDisable p m))

/-- UPD_ETA_WRITE (R230, R231). -/
def execUpdEtaWrite (f p v : Nat) (s : State) : Host.Outcome State Fault Refusal :=
  .next (if 8 ≤ p then s else s.hostWrite f (UPD_ETA p) (fun t => t.updEtaWrite p v))

/-- JOB_SCALAR_WRITE: a word of job scalar `n` (R141). -/
def execJobScalarWrite (f p n : Nat) (hi : Bool) (v : Nat) (s : State) : Host.Outcome State Fault Refusal :=
  .next (if 8 ≤ p || 32 ≤ n then s else s.hostWrite f (VXE_SREG_LO p n) (fun t => t.jobScalarWrite p n hi v))

/-- TABLE_SHADOW_WRITE of a word at `a` (R271). -/
def execTableShadowWrite (f a v : Nat) (s : State) : Host.Outcome State Fault Refusal :=
  .next (s.hostWrite f a (fun t => t.tableShadowWrite a v))

/-- TABLE_SWAP_ARM: a write of FAB_TBL_CTRL (R271). -/
def execTableSwapArm (f v : Nat) (s : State) : Host.Outcome State Fault Refusal :=
  .next (s.hostWrite f FAB_TBL_CTRL (fun t => t.tableSwapArm v))

/-- LANE_READMIT: a write of FAB_LANE_k_READMIT (R253, R404). -/
def execLaneReadmit (f k mask : Nat) (s : State) : Host.Outcome State Fault Refusal :=
  .next (if 6 ≤ k then s else s.hostWrite f (FAB_LANE_READMIT k) (fun t => t.laneReadmit k mask))

/-- MTBF_WRITE (R336). -/
def execMtbfWrite (f j v : Nat) (s : State) : Host.Outcome State Fault Refusal :=
  .next (if 8 ≤ j then s else s.hostWrite f (HSP_J_MTBF j) (fun t => t.mtbfWrite j v))

/-- ERR_RING_HEAD_WRITE (R381). -/
def execErrRingHeadWrite (f v : Nat) (s : State) : Host.Outcome State Fault Refusal :=
  .next (s.hostWrite f KPR_ERR_HEAD (fun t => t.errRingHeadWrite v))

end Sys2Proof.Machine
end

