-- ==== Sys2Proof/Machine/Sideband.lean ====
section
/-! DEFINITION. The sideband: PERST#, the I3C target with its registers, mailboxes and commands, firmware and keys (R558,
R560 to R569). -/
namespace Sys2Proof.Machine

/-! ## PERST# (R558) -/

/-- PERST_DEASSERT: PERST# rises. With MOD_READY released the endpoint trains, to `rate`, `width` and FLIT mode. -/
def execPerstDeassert (rate width flit : Nat) (s : State) : Host.Outcome State Fault Refusal :=
  let s := { s with pins := { s.pins with perst := false } }
  if s.boot = .off || !s.pins.ready then .next s
  else
    let s := { s with perst := true }
    .next (((s.setFld HIF_LINK_RATE rate).setFld HIF_LINK_WIDTH width).setFld HIF_LINK_FLIT flit)

/-! ## Registers (Table 20.6, R561, R562) -/

/-- Whether an index names a register. -/
def sbIndex (i : Nat) : Bool :=
  i % 4 == 0 && (decide (i < 0x2C) || i == 0x30 || i == 0x34 || (decide (0x40 ≤ i) && decide (i < 0x60)) || i == 0x80 ||
    (decide (0xC0 ≤ i) && decide (i < 0x100)) ||
    (decide (0x400 ≤ i) && decide (i < 0xC00) && (decide ((i - 0x400) % 0x80 < 0x48) || (i - 0x400) % 0x80 == 0x4C)))

/-- Value of a sideband register. The DATA windows of mailboxes 48 to 55 read zero (R569). -/
def State.sbValue (s : State) (i : Nat) : Nat :=
  if i < 0x400 then (s.reg (KPR_SB_ID + i)).toNat
  else
    let n := 48 + (i - 0x400) / 0x80
    let o := (i - 0x400) % 0x80
    if o < 0x40 then (if n < 56 then 0 else (s.reg (MBX_DATA n + o)).toNat)
    else if o = 0x40 then (s.reg (MBX_STATUS n)).toNat
    else if o = 0x44 then (s.reg (MBX_SENDER n)).toNat
    else (s.reg (MBX_TAKE n)).toNat

/-- Whether the Keeper does not answer: it boots. -/
def State.keeperDown (s : State) : Bool := s.boot == .resetting

/-- SB_IMAGE_REFRESH. -/
def execSbImageRefresh (s : State) : Host.Outcome State Fault Refusal :=
  if s.boot = .off || s.keeperDown then .next s
  else
    let is := ((List.range 768).map (4 * ·)).filter sbIndex
    .next { s with sbImage := is.filterMap (fun i => if s.sbValue i = 0 then none else some (i, s.sbValue i)) }

/-- A word as I3C reads it: from the image, and while the Keeper is down only ID, STATE and ALERT. -/
def State.sbRead (s : State) (i : Nat) : Nat :=
  if !sbIndex i || (s.keeperDown && decide (8 < i)) then 0 else storeGet 0 s.sbImage i

/-- `n` words from the read pointer on, which advances. -/
def State.sbReads (s : State) (n : Nat) : State :=
  if n = 0 then s else
  let l := (List.range n).flatMap (fun k => leBytes 4 (s.sbRead (s.i3cPtr + 4 * k)))
  { s with i3cPtr := (s.i3cPtr + 4 * n) % 65536 }.emit (.i3c l)

def State.sbErr (s : State) (f : Fld) : State := s.setFld f 1

/-! ## Alerts and the identifier (R564, R568) -/

/-- A write of KPR_SB_ALERT clears the bits it names but MAILBOX. -/
def State.sbAlertWrite (s : State) (v : Nat) : State := s.maskReg KPR_SB_ALERT v

/-- A write of KPR_SB_GID. -/
def State.sbGidWrite (s : State) (v : Nat) : State :=
  if v % 2 ^ 20 = 0xFFFFF then s.sbErr KPR_SB_ERR_VALUE_ERR else s.setFld KPR_SB_GID_NEXT_GID v

/-! ## Firmware (R567) -/

/-- Bytes of a firmware copy. -/
def fwSize : Nat := 8 * 2 ^ 20

/-- Bytes written at OFFSET of the staged copy. -/
def State.fwWrite (s : State) (l : List Nat) : State :=
  let o := s.fld KPR_SB_FW_OFF_OFFSET
  match s.aon.fwStage with
  | none => s.sbErr KPR_SB_ERR_VALUE_ERR
  | some c =>
    if fwSize < o + l.length then s.sbErr KPR_SB_ERR_VALUE_ERR
    else
      let s := forRange (l.length / 4) (fun k t => t.setReg (KPR_SB_FW_DATA + 4 * k) (BitVec.ofNat 32 (mField l (4 * k) 4))) s
      { s with aon := { s.aon with fw := storeSetRange 0 s.aon.fw (c * fwSize + o) l.length (fun i => l.getD i 0 % 256) } }.setFld
        KPR_SB_FW_OFF_OFFSET (o + l.length)

/-- Content of a firmware copy, for its verification. -/
def State.fwBytes (s : State) (c : Nat) : List (Nat × Nat) :=
  (s.aon.fw.filter (fun x => x.1 / fwSize == c)).map (fun x => (x.1 % fwSize, x.2))

/-- FW_BEGIN: the copy that does not verify, or the older one. -/
def State.fwBegin (s : State) : State × Nat :=
  if s.anyLoaded && s.boot ≠ .recovery then (s, stBusy)
  else
    let old := 1 - s.aon.fwNewest
    let bad (c : Nat) : Bool := storeGet false s.aon.fwBad c
    let c := if bad (1 - old) && !bad old then 1 - old else old
    ({ s with aon := { s.aon with fwBad := storeSet false s.aon.fwBad c true, fwStage := some c } }.setFld KPR_SB_FW_OFF_OFFSET 0, stOk)

/-- FW_COMMIT: a copy that verifies is the newest; in ROM recovery the boot goes on with it. -/
def State.fwCommit (s : State) (env : BootEnv) : State × Nat :=
  match s.aon.fwStage with
  | none => (s, stBadImage)
  | some c =>
    let s := { s with aon := { s.aon with fwStage := none } }
    if Config.fwVerify (s.fwBytes c) then
      let s := { s with aon := { s.aon with fwBad := storeSet false s.aon.fwBad c false, fwNewest := c } }
      let cause := s.fld KPR_BOOT_CAUSE_CAUSE
      (if s.boot = .recovery then s.bootUp cause (cause == 3) env else s, stOk)
    else (s, stBadImage)

/-! ## Keys (R566) -/

/-- The key registers, zeroed after each key command. -/
def State.zeroKey (s : State) : State := forRange 8 (fun w t => t.setReg (KPR_SB_KEY w) 0) s

/-- KEY_PROVISION. -/
def State.keyProvision (s : State) (k : Nat) : State × Nat :=
  if s.anyLoaded || !s.loads.isEmpty then (s.zeroKey, stBusy)
  else if bitAt (s.fld BIT_KEYS_PRESENT) k && !bitAt (s.fld BIT_KEYS_REVOKED) k then
    ((s.sbErr KPR_SB_ERR_VALUE_ERR).zeroKey, stBadImage)
  else
    let key := (List.range 8).flatMap (fun w => leBytes 4 (s.reg (KPR_SB_KEY w)).toNat)
    let s := { s with keys := storeSet [] s.keys k key }
    let s := (s.setFld ⟨BIT_KEYS, k, 1⟩ 1).setFld ⟨BIT_KEYS, 4 + k, 1⟩ 0
    ((s.event ⟨BIT_KEYS, k, 1⟩ 0 8).zeroKey, stOk)

/-- KEY_REVOKE. -/
def State.keyRevoke (s : State) (k : Nat) : State × Nat :=
  (((s.setFld ⟨BIT_KEYS, 4 + k, 1⟩ 1).event ⟨BIT_KEYS, 4 + k, 1⟩ 0 8).zeroKey, stOk)

/-! ## Commands (R565, Table 20.7) -/

/-- DEBUG_EN in MRAM. -/
def State.setDebug (s : State) (v : Nat) : State := (s.setFld DBG_GSTATUS_DEBUG_EN v).setFld KPR_SB_STATE_DEBUG_EN v

/-- GO with a command and a key slot: BUSY, its effect, and the status with which it ends. While a command runs the GO is
ignored; a reserved command ends at once with VERSION; the boot ROM answers the firmware commands alone. -/
def State.sbGo (s : State) (op slot : Nat) (run : State → State × Nat) : State :=
  if s.boot = .off then s
  else if s.keeperDown then s.sbErr KPR_SB_ERR_KEEPER_DOWN
  else if s.boot = .recovery && (op < 8 || 10 < op) then s
  else if s.flag KPR_SB_CMD_STATUS_BUSY then s.sbErr KPR_SB_ERR_VALUE_ERR
  else
    let s := (s.setFld KPR_SB_CMD_OP op).setFld KPR_SB_CMD_KEY_SLOT slot
    if op = 0 || 10 < op then (s.setFld KPR_SB_CMD_STATUS_CODE stVersion).setFld KPR_SB_CMD_STATUS_DONE 1
    else
      let (t, code) := run (s.setFld KPR_SB_CMD_STATUS_BUSY 1)
      { t with aon := { t.aon with sbRun := some code } }

/-- SB_COMMAND_END. -/
def execSbCommandEnd (s : State) : Host.Outcome State Fault Refusal :=
  match s.aon.sbRun with
  | none => .next s
  | some code =>
    if s.boot = .off || s.keeperDown then .next s
    else
      let s := { s with aon := { s.aon with sbRun := none } }
      .next (((s.setFld KPR_SB_CMD_STATUS_CODE code).setFld KPR_SB_CMD_STATUS_BUSY 0).setFld KPR_SB_CMD_STATUS_DONE 1)

/-- MODULE_RESET of the sideband. -/
def State.sbModuleReset (s : State) : State × Nat := if s.pins.pwrReq then (s, stBusy) else (s.takeModule 8, stOk)

/-- What a command does and its status. -/
def State.sbRunOp (s : State) (op slot : Nat) (env : BootEnv) : State × Nat :=
  match op with
  | 1 => (s.leaveA3, stOk)
  | 2 => (s.escClear env, stOk)
  | 3 => s.sbModuleReset
  | 4 => (s.setDebug 1, stOk)
  | 5 => (s.setDebug 0, stOk)
  | 6 => s.keyProvision slot
  | 7 => s.keyRevoke slot
  | 8 => s.fwBegin
  | 9 => s.fwCommit env
  | _ => ({ s with aon := { s.aon with fwStage := none } }, stOk)

/-- EXIT_A3 by GO. -/
def execExitA3 (s : State) : Host.Outcome State Fault Refusal := .next (s.sbGo 1 0 (fun t => t.sbRunOp 1 0 {}))
/-- ESC_CLEAR by GO. -/
def execEscClear (env : BootEnv) (s : State) : Host.Outcome State Fault Refusal := .next (s.sbGo 2 0 (fun t => t.sbRunOp 2 0 env))
/-- MODULE_RESET by GO. -/
def execSbModuleReset (s : State) : Host.Outcome State Fault Refusal := .next (s.sbGo 3 0 (fun t => t.sbRunOp 3 0 {}))
/-- DEBUG_ENABLE by GO. -/
def execDebugEnable (s : State) : Host.Outcome State Fault Refusal := .next (s.sbGo 4 0 (fun t => t.sbRunOp 4 0 {}))
/-- DEBUG_DISABLE by GO. -/
def execDebugDisable (s : State) : Host.Outcome State Fault Refusal := .next (s.sbGo 5 0 (fun t => t.sbRunOp 5 0 {}))
/-- KEY_PROVISION of key slot `k` by GO. -/
def execKeyProvision (k : Nat) (s : State) : Host.Outcome State Fault Refusal :=
  .next (s.sbGo 6 (k % 4) (fun t => t.sbRunOp 6 (k % 4) {}))
/-- KEY_REVOKE of key slot `k` by GO. -/
def execKeyRevoke (k : Nat) (s : State) : Host.Outcome State Fault Refusal :=
  .next (s.sbGo 7 (k % 4) (fun t => t.sbRunOp 7 (k % 4) {}))
/-- FW_BEGIN by GO. -/
def execFwBegin (s : State) : Host.Outcome State Fault Refusal := .next (s.sbGo 8 0 (fun t => t.sbRunOp 8 0 {}))
/-- FW_COMMIT by GO. -/
def execFwCommit (env : BootEnv) (s : State) : Host.Outcome State Fault Refusal := .next (s.sbGo 9 0 (fun t => t.sbRunOp 9 0 env))
/-- FW_ABORT by GO. -/
def execFwAbort (s : State) : Host.Outcome State Fault Refusal := .next (s.sbGo 10 0 (fun t => t.sbRunOp 10 0 {}))

/-! ## Private writes (R561, R562, R569) -/

/-- One word written to a sideband register. -/
def State.sbWord (s : State) (i v : Nat) (env : BootEnv) : State :=
  if i = 8 then s.sbAlertWrite v
  else if s.keeperDown then s.sbErr KPR_SB_ERR_KEEPER_DOWN
  else if s.boot = .recovery && i ≠ 0x30 && i ≠ 0x34 && i ≠ 0x80 && i ≠ 0x28 then s
  else if i = 0x20 then s.sbGidWrite v
  else if i = 0x30 then
    if bitAt v 31 then s.sbGo (v % 16) (v / 16 % 4) (fun t => t.sbRunOp (v % 16) (v / 16 % 4) env)
    else (s.setFld KPR_SB_CMD_OP v).setFld KPR_SB_CMD_KEY_SLOT (v / 16)
  else if i < 0x400 then s.maskReg (KPR_SB_ID + i) v
  else if (i - 0x400) % 0x80 = 0x4C && 0x800 ≤ i then s.takeMbx (48 + (i - 0x400) / 0x80) v
  else s

/-- The data bytes of a private write to index `i`. -/
def State.sbData (s : State) (i : Nat) (l : List Nat) (env : BootEnv) : State :=
  let n := 48 + (i - 0x400) / 0x80
  let o := (i - 0x400) % 0x80
  if !(List.range (l.length / 4)).all (fun k => sbIndex (i + 4 * k)) then s.sbErr KPR_SB_ERR_SHAPE_ERR
  else if 0xC0 ≤ i && i < 0x100 then
    (if s.keeperDown then s.sbErr KPR_SB_ERR_KEEPER_DOWN else s.fwWrite l)
  else if 0x400 ≤ i && o < 0x40 then
    (if s.keeperDown then s.sbErr KPR_SB_ERR_KEEPER_DOWN
     else if s.boot = .recovery then s
     else if 56 ≤ n || o ≠ 0 || 64 < l.length then s.sbErr KPR_SB_ERR_SHAPE_ERR
     else s.deliver n trayId 0 l)
  else (List.range (l.length / 4)).foldl (fun t k => t.sbWord (i + 4 * k) (mField l (4 * k) 4) env) s

/-- SB_PRIVATE_WRITE: the bytes of a private write, and the words that a private read then takes. With no bytes it is a
read alone. -/
def execSbPrivateWrite (l : List Nat) (rd : Nat) (env : BootEnv) (s : State) : Host.Outcome State Fault Refusal :=
  if s.boot = .off then .next s
  else if l.isEmpty then .next (s.sbReads rd)
  else
    let i := leNat (l.take 2)
    let d := l.drop 2
    if l.length < 2 || i % 4 ≠ 0 || d.length % 4 ≠ 0 || 64 < d.length then .next ((s.sbErr KPR_SB_ERR_SHAPE_ERR).sbReads rd)
    else if d.isEmpty then .next ({ s with i3cPtr := i }.sbReads rd)
    else .next ((s.sbData i d env).sbReads rd)

/-- SB_ALERT_CLEAR: a write `v` of KPR_SB_ALERT. -/
def execSbAlertClear (v : Nat) (s : State) : Host.Outcome State Fault Refusal :=
  if s.boot = .off then .next s else .next (s.sbAlertWrite v)

/-- SB_GID_WRITE: a write `v` of KPR_SB_GID. -/
def execSbGidWrite (v : Nat) (s : State) : Host.Outcome State Fault Refusal :=
  if s.boot = .off then .next s else .next (s.sbWord 0x20 v {})

/-- SB_FW_DATA_WRITE: bytes written to KPR_SB_FW_DATA, in whole words. -/
def execSbFwDataWrite (l : List Nat) (s : State) : Host.Outcome State Fault Refusal :=
  if s.boot = .off then .next s
  else if l.isEmpty || l.length % 4 ≠ 0 || 64 < l.length then .next (s.sbErr KPR_SB_ERR_SHAPE_ERR)
  else .next (s.sbData 0xC0 l {})

/-! ## Common command codes (R560) -/

/-- Provisioned identifier, most significant byte first: manufacturer 0x0C2D from bit 33, 0x4B41, DIE_STEP. -/
def State.i3cPid (s : State) : List Nat :=
  (leBytes 6 (0x0C2D * 2 ^ 33 + 0x4B41 * 2 ^ 16 + s.fld HIF_PART_ID_DIE_STEP * 2 ^ 12)).reverse

/-- CCC_ENTDAA: a target without a dynamic address sends identifier, BCR and DCR, and takes the address. -/
def execCccEntdaa (addr : Nat) (s : State) : Host.Outcome State Fault Refusal :=
  if s.boot = .off || s.i3cAddr ≠ 0 then .next s
  else .next ({ s with i3cAddr := addr % 128 }.emit (.i3c (s.i3cPid ++ [0x06, 0x00])))

/-- CCC_SETDASA: the target at static address `st` takes a dynamic address, where it has none. -/
def execCccSetdasa (st addr : Nat) (s : State) : Host.Outcome State Fault Refusal :=
  if s.boot = .off || s.i3cAddr ≠ 0 || st ≠ 0x48 then .next s else .next { s with i3cAddr := addr % 128 }

/-- CCC_SETNEWDA. -/
def execCccSetnewda (addr : Nat) (s : State) : Host.Outcome State Fault Refusal :=
  if s.boot = .off || s.i3cAddr = 0 then .next s else .next { s with i3cAddr := addr % 128 }

/-- CCC_RSTDAA. -/
def execCccRstdaa (s : State) : Host.Outcome State Fault Refusal :=
  if s.boot = .off then .next s else .next { s with i3cAddr := 0 }

/-- CCC_ENEC. -/
def execCccEnec (s : State) : Host.Outcome State Fault Refusal :=
  if s.boot = .off then .next s else .next { s with ibiEn := true }

/-- CCC_DISEC. -/
def execCccDisec (s : State) : Host.Outcome State Fault Refusal :=
  if s.boot = .off then .next s else .next { s with ibiEn := false }

/-- What a directed GET returns, once the target has a dynamic address. -/
def State.cccGet (s : State) (l : List Nat) : State := if s.boot = .off || s.i3cAddr = 0 then s else s.emit (.i3c l)

/-- CCC_GETPID. -/
def execCccGetpid (s : State) : Host.Outcome State Fault Refusal := .next (s.cccGet s.i3cPid)
/-- CCC_GETBCR. -/
def execCccGetbcr (s : State) : Host.Outcome State Fault Refusal := .next (s.cccGet [0x06])
/-- CCC_GETDCR. -/
def execCccGetdcr (s : State) : Host.Outcome State Fault Refusal := .next (s.cccGet [0x00])
/-- CCC_GETSTATUS: two bytes, most significant first. -/
def execCccGetstatus (s : State) : Host.Outcome State Fault Refusal :=
  .next (s.cccGet (leBytes 2 (Config.i3cStatus (s.reg KPR_SB_ALERT).toNat).toNat).reverse)
/-- CCC_GETMWL: 68 bytes, most significant byte first. -/
def execCccGetmwl (s : State) : Host.Outcome State Fault Refusal := .next (s.cccGet [0, 68])
/-- CCC_GETMRL: 68 bytes, most significant byte first, and the one byte of an in-band interrupt. -/
def execCccGetmrl (s : State) : Host.Outcome State Fault Refusal := .next (s.cccGet [0, 68, 1])

end Sys2Proof.Machine
end

