-- ==== Sys2Proof/Machine/Debug.lean ====
section
/-! DEFINITION. The test access port and debug access (R543 to R546). -/
namespace Sys2Proof.Machine

/-! ## The port (R543, Table 19.8) -/

/-- DEBUG_EN. -/
def State.debugEn (s : State) : Bool := s.flag DBG_GSTATUS_DEBUG_EN

/-- What EXTEST, HIGHZ and CLAMP need: DEBUG_EN, and MOD_READY low in module reset. -/
def State.scanOk (s : State) : Bool := s.debugEn && !s.pins.ready && (s.boot == .resetting || s.boot == .held)

/-- IDCODE. -/
def State.idcode (s : State) : Nat :=
  s.fld HIF_PART_ID_DIE_STEP * 2 ^ 28 + 0x4B41 * 2 ^ 12 + 0x35B * 2 + 1

/-- Levels of the sideband outputs in the order of Table 20.5, and of PERST# above them: MOD_READY, MOD_ALERT#, MOD_FAULT#,
PWR_CYCLE_REQ#, THERM_TRIP#. -/
def State.pinLevels (s : State) : Nat :=
  maskOf [s.pins.ready, !s.modAlert, s.pins.fault == 0, !s.pins.pwrReq, !s.pins.trip, !s.pins.perst]

/-- Outputs as driven: from the boundary-scan register under EXTEST and CLAMP, not at all under HIGHZ. -/
def State.pinsDriven (s : State) : Option Nat :=
  if s.scanOk && (s.aon.tapIr = 0 || s.aon.tapIr = 4) then some (s.aon.tapBsr % 32)
  else if s.scanOk && s.aon.tapIr = 3 then none
  else some (s.pinLevels % 32)

/-- An instruction selected; one whose need is not met acts as BYPASS. -/
def State.tapSelect (s : State) (ir : Nat) (ok : Bool) : State := { s with aon := { s.aon with tapIr := if ok then ir else 0xFF } }

/-- TAP_EXTEST: the pins are captured and the boundary-scan register takes `v`, which the pins then follow. -/
def execTapExtest (v : Nat) (s : State) : Host.Outcome State Fault Refusal :=
  if s.boot = .off then .next s
  else
    let t := s.tapSelect 0 s.scanOk
    if s.scanOk then .next ({ t with aon := { t.aon with tapBsr := v % 64 } }.emit (.tdo s.pinLevels)) else .next (t.emit (.tdo 0))

/-- TAP_SAMPLE_PRELOAD. -/
def execTapSamplePreload (v : Nat) (s : State) : Host.Outcome State Fault Refusal :=
  if s.boot = .off then .next s
  else
    let t := s.tapSelect 1 true
    .next ({ t with aon := { t.aon with tapBsr := v % 64 } }.emit (.tdo s.pinLevels))

/-- TAP_IDCODE. -/
def execTapIdcode (s : State) : Host.Outcome State Fault Refusal :=
  if s.boot = .off then .next s else .next ((s.tapSelect 2 true).emit (.tdo s.idcode))

/-- TAP_HIGHZ. -/
def execTapHighz (s : State) : Host.Outcome State Fault Refusal :=
  if s.boot = .off then .next s else .next ((s.tapSelect 3 s.scanOk).emit (.tdo 0))

/-- TAP_CLAMP. -/
def execTapClamp (s : State) : Host.Outcome State Fault Refusal :=
  if s.boot = .off then .next s else .next ((s.tapSelect 4 s.scanOk).emit (.tdo 0))

/-- TAP_BYPASS. -/
def execTapBypass (s : State) : Host.Outcome State Fault Refusal :=
  if s.boot = .off then .next s else .next ((s.tapSelect 0xFF true).emit (.tdo 0))

/-- TAP_TEST_LOGIC_RESET. -/
def execTapTestLogicReset (s : State) : Host.Outcome State Fault Refusal :=
  if s.boot = .off then .next s else .next (s.tapSelect 2 true)

/-! ## Debug access (R544, R546) -/

/-- Content of the data register at the next capture: DATA, status, DONE, POISON. -/
def dbgResult (data status : Nat) (psn : Bool) : Nat :=
  data % 2 ^ 32 + status * 2 ^ 32 + 2 ^ 48 + (if psn then 2 ^ 49 else 0)

/-- A debug instruction: without DEBUG_EN it acts as BYPASS; with it the last result is shifted out and `run` answers the
new one. -/
def State.dbgAccess (s : State) (ir : Nat) (last : Nat) (run : State → State) : State :=
  if s.boot = .off then s
  else if !s.debugEn then (s.tapSelect 0xFF true).emit (.tdo 0)
  else run (((s.tapSelect ir true).emit (.tdo last)).gcount 0x290 1)

/-- A debug write to what a job slot owns taints it. -/
def State.taint (s : State) (j : Nat) : State :=
  if 8 ≤ j || bitAt (s.fld DBG_GSTATUS_TAINT) j then s
  else ((s.setFld ⟨DBG_GSTATUS, 8 + j, 1⟩ 1).event ⟨DBG_GSTATUS, 8 + j, 1⟩ 0 j).gcount 0x291 1

/-- Loaded job slot that owns a register: of a block of its partition, or its own hub register; 8 when none does. -/
def State.regJob (s : State) (a : Nat) : Nat :=
  match partWindow a with
  | some (p, _) => s.jobOf p
  | none => ((List.range 8).find? (fun j => s.slotLoaded j &&
      (s.openToJob j a true || s.openToJob j a false || (List.range 6).any (fun k => a == FAB_SHARE j k) || a == FAB_JOB_ID j ||
        a == FAB_JOB_FLOW j || a == CLK_J_CEIL j || (shadowBank a && bankSlot a == j)))).getD 8

/-- Why a debug access to a register gets no data: a powered-down domain, or a module that does not run. -/
def State.dbgDown (s : State) (a : Nat) : Bool := s.boot != .running || s.regDown a

/-- DBG_REG_READ at Update-DR of BAR0 offset `a`. -/
def execDbgRegRead (a : Nat) (s : State) : Host.Outcome State Fault Refusal :=
  .next (s.dbgAccess 0x10 s.aon.tapReg (fun s =>
    let a := a % 2 ^ 26 / 4 * 4
    let put (t : State) (v : Nat) : State := { t with aon := { t.aon with tapReg := v } }
    if s.dbgDown a then put s (dbgResult 0 stDomainOff false)
    else if submitWord a then put s (dbgResult 0 stAborted false)
    else if s.absentReg a then put s (dbgResult 0 stOk false)
    else
      let (t, v) := s.readReg a false
      put t (dbgResult v stOk false)))

/-- State of an outcome of a command that has one. -/
def outState (s : State) : Host.Outcome State Fault Refusal → State
  | .next t => t
  | _ => s

/-- Bits of a register that have a command of their own, written with PF privilege. -/
def State.ownWrite (s : State) (a v : Nat) (env : BootEnv) : State :=
  let run (o : Host.Outcome State Fault Refusal) : State := outState s o
  match partWindow a with
  | some (p, _) =>
    if TMB_VALUE p 0 ≤ a && a < TMB_VALUE p 4096 && a % 4 = 0 then
      run (execTmbValueWrite 0 p ((a - TMB_VALUE p 0) / 4) v s)
    else match (List.range 4).find? (fun m => a == CAM_RING_TAIL p m || a == CAM_RING_CTRL p m) with
      | some m =>
        if a = CAM_RING_TAIL p m then run (execRingDoorbell 0 p m v s)
        else if bitAt v 0 then run (execRingEnable 0 p m s) else run (execRingDisable 0 p m s)
      | none =>
        if VXE_SREG_LO p 0 ≤ a && a < VXE_SREG_LO p 32 then
          run (execJobScalarWrite 0 p ((a - VXE_SREG_LO p 0) / 8) (a % 8 == 4) v s)
        else if a = UPD_ETA p then run (execUpdEtaWrite 0 p v s)
        else if a = DBG_CNT_CLEAR p then
          if !bitAt v 31 then s else if bitAt v 30 then run (execCounterClearAll 0 p s) else run (execCounterClear 0 p (v % 1024) s)
        else if a = TRC_CTRL p then
          let t := if bitAt v 0 then run (execTraceArm 0 p s) else s
          if bitAt v 1 then outState t (execTraceTrigger 0 p t) else t
        else s
  | none =>
    if shadowBank a then run (execTableShadowWrite 0 a v s)
    else if a = FAB_TBL_CTRL then run (execTableSwapArm 0 v s)
    else if FAB_LANE_READMIT 0 ≤ a && a < FAB_LANE_READMIT 6 then run (execLaneReadmit 0 ((a - FAB_LANE_READMIT 0) / 4) v s)
    else if a = KPR_ERR_HEAD then run (execErrRingHeadWrite 0 v s)
    else if a = KPR_ESC_CLEAR then (if bitAt v 0 then run (execKprEscClearWrite 0 env s) else s)
    else if a = DBG_GCNT_CLEAR then
      if !bitAt v 31 then s else if bitAt v 30 then run (execCounterClearAll 0 8 s) else run (execCounterClear 0 8 (v % 1024) s)
    else if a = KPR_RST_REQ then
      if !bitAt v 31 then s else
      match v % 8 with
      | 0 => run (execRstReqContext 0 (v / 8 % 16) (v / 2 ^ 16 % 64) s)
      | 1 => run (execRstReqEngine 0 (v / 8 % 16) (v / 2 ^ 7 % 256) (bitAt v 15) s)
      | 2 => run (execRstReqPartition 0 (v / 8 % 16) s)
      | 3 => run (execRstReqModule 0 s)
      | 4 => run (execRstReqPowerCycle 0 s)
      | _ => s
    else if a = MBX_RSEND_CTRL then (if bitAt v 31 then run (execRemoteMailboxSend 0 v s) else s)
    else if a = PWR_CAP then run (execCapWrite 0 v s)
    else if a = PWR_A3 then
      let t := if bitAt v 0 then run (execA3Enter 0 s) else s
      if bitAt v 1 then outState t (execA3Exit 0 t) else t
    else if PWR_DOM 0 ≤ a && a < PWR_DOM 40 then
      let d := (a - PWR_DOM 0) / 4
      let t := run (execDomainHoldAwake 0 d (bitAt v 2) s)
      if bitAt v 3 then outState t (execDomainSleepRequest 0 d t) else t
    else match (List.range 8).find? (fun j => a == HSP_J_MTBF j) with
      | some j => run (execMtbfWrite 0 j v s)
      | none => s

/-- A register word written with PF privilege, every bit with its effect. -/
def State.pfWrite (s : State) (a v : Nat) (env : BootEnv) : State := (s.writeReg a v).ownWrite a v env

/-- DBG_REG_WRITE at Update-DR: `v` to BAR0 offset `a`. -/
def execDbgRegWrite (a v : Nat) (env : BootEnv) (s : State) : Host.Outcome State Fault Refusal :=
  .next (s.dbgAccess 0x10 s.aon.tapReg (fun s =>
    let a := a % 2 ^ 26 / 4 * 4
    let put (t : State) (c : Nat) : State := { t with aon := { t.aon with tapReg := dbgResult v c false } }
    if s.dbgDown a then put s stDomainOff
    else if s.absentReg a then put s stOk
    else put ((s.taint (s.regJob a)).pfWrite a (v % 2 ^ 32) env) stOk))

/-- DBG_HBM_READ at Update-DR of the word at module HBM address `a`. `ecc` gives a read that is not clean. -/
def execDbgHbmRead (a : Nat) (ecc : List (Nat × Nat)) (s : State) : Host.Outcome State Fault Refusal :=
  .next (s.dbgAccess 0x11 s.aon.tapHbm (fun s =>
    let a := a % 2 ^ 39 / 4 * 4
    let put (t : State) (v : Nat) : State := { t with aon := { t.aon with tapHbm := v } }
    if s.boot ≠ .running then put s (dbgResult 0 stDomainOff false)
    else match s.hbmDenied 0 a 4 with
      | 0 =>
        let t := s.wakeStacks a 4
        let t := (ecc.filter (fun e => e.1 == a / 64)).foldl (fun t e => t.eccRead e.1 e.2 0xF 0x3F 0xFFFFFF 0) t
        put t (dbgResult (t.rdBytes a 4) stOk (t.psn (a / 64)))
      | 2 => put s (dbgResult 0 stDomainOff false)
      | _ => put s (dbgResult 0 stAborted false)))

/-- DBG_HBM_WRITE at Update-DR: the word `v` to module HBM address `a`. -/
def execDbgHbmWrite (a v : Nat) (s : State) : Host.Outcome State Fault Refusal :=
  .next (s.dbgAccess 0x11 s.aon.tapHbm (fun s =>
    let a := a % 2 ^ 39 / 4 * 4
    let put (t : State) (c : Nat) : State := { t with aon := { t.aon with tapHbm := dbgResult v c false } }
    if s.boot ≠ .running then put s stDomainOff
    else match s.hbmDenied 0 a 4 with
      | 0 =>
        let p := a / 0xC00000000
        let job := s.regionKind p (a % 0xC00000000 / 64) != 0 && decide (s.jobOf p < 8)
        if s.flag RCV_FENCE_FENCED && job then put s stFenced
        else
          let t := if job then s.taint (s.jobOf p) else s
          put ((t.wakeStacks a 4).hbmPut a (leBytes 4 v) (fun _ => false)) stOk
      | 2 => put s stDomainOff
      | _ => put s stAborted))

/-- DBG_HALT at Update-DR: partitions to halt, then partitions to resume (R545). -/
def execDbgHalt (halt resume : Nat) (s : State) : Host.Outcome State Fault Refusal :=
  .next (s.dbgAccess 0x12 (s.fld DBG_GSTATUS_HALTED) (fun s =>
    if s.boot ≠ .running then s
    else
      let h := maskOf ((List.range 8).map (fun p => s.present p && !bitAt resume p &&
        (bitAt halt p || bitAt (s.fld DBG_GSTATUS_HALTED) p)))
      s.setFld DBG_GSTATUS_HALTED h))

end Sys2Proof.Machine
end

