-- ==== Sys2Proof/Machine/Receive.lean ====
section
/-! DEFINITION. Receiving: the twelve checks, delivery with its bump, and the handlers of control messages (R272 to R274, R155,
R170, R374, R384, R480). -/
namespace Sys2Proof.Machine

/-! ## Control messages -/

/-- A control message of the job that its byte 1 names, at its handler (R374). -/
def State.message (s : State) (src : Nat) (m : List Nat) (f : State → State) : State :=
  s.control src (mByte m 1 % 8) f

/-- READY_NOTICE. -/
def execReadyNotice (src : Nat) (m : List Nat) (s : State) : Host.Outcome State Fault Refusal :=
  .next (s.message src m (fun t => t.onReadyNotice src m))
/-- HOLD_NOTICE. -/
def execHoldNotice (src : Nat) (m : List Nat) (s : State) : Host.Outcome State Fault Refusal :=
  .next (s.message src m (fun t => t.onHoldNotice src m))
/-- HINGE_RELEASE. -/
def execHingeRelease (src : Nat) (m : List Nat) (s : State) : Host.Outcome State Fault Refusal :=
  .next (s.message src m (fun t => t.onHingeRelease src m))
/-- HREQ. -/
def execHreq (src : Nat) (m : List Nat) (s : State) : Host.Outcome State Fault Refusal :=
  .next (s.message src m (fun t => t.onHreq src m))
/-- HSUM. -/
def execHsum (src : Nat) (m : List Nat) (s : State) : Host.Outcome State Fault Refusal :=
  .next (s.message src m (fun t => t.onHsum src m))
/-- HUSE. -/
def execHuse (src : Nat) (m : List Nat) (s : State) : Host.Outcome State Fault Refusal :=
  .next (s.message src m (fun t => t.onHuse src m))
/-- HPICK. -/
def execHpick (src : Nat) (m : List Nat) (s : State) : Host.Outcome State Fault Refusal :=
  .next (s.message src m (fun t => t.onHpick src m))
/-- HGET. -/
def execHget (src : Nat) (m : List Nat) (s : State) : Host.Outcome State Fault Refusal :=
  .next (s.message src m (fun t => t.onHget src m))
/-- BCHUNK. -/
def execBchunk (src : Nat) (m : List Nat) (s : State) : Host.Outcome State Fault Refusal :=
  .next (s.message src m (fun t => t.onBchunk src m))
/-- BHB. -/
def execBhb (src : Nat) (m : List Nat) (s : State) : Host.Outcome State Fault Refusal :=
  .next (s.message src m (fun t => t.onBhb src m))
/-- ATTACH. -/
def execAttach (src : Nat) (m : List Nat) (s : State) : Host.Outcome State Fault Refusal :=
  .next (s.message src m (fun t => t.onAttach src m))
/-- ATTACH_ACK. -/
def execAttachAck (src : Nat) (m : List Nat) (s : State) : Host.Outcome State Fault Refusal :=
  .next (s.message src m (fun t => t.onAttachAck src m))
/-- BREQ. -/
def execBreq (src : Nat) (m : List Nat) (s : State) : Host.Outcome State Fault Refusal :=
  .next (s.message src m (fun t => t.onBreq src m))
/-- BDONE. -/
def execBdone (src : Nat) (m : List Nat) (s : State) : Host.Outcome State Fault Refusal :=
  .next (s.message src m (fun t => t.onBdone src m))

/-- The handler of a control message by its type (chapters 10 to 12); one of no known type has none. -/
def State.onControl (s : State) (src : Nat) (m : List Nat) (peers : Bool) : State :=
  let go (o : Host.Outcome State Fault Refusal) : State := outState s o
  match mByte m 0 with
  | 0x01 => go (execReadyNotice src m s)
  | 0x02 => go (execHingeRelease src m s)
  | 0x03 => go (execHoldNotice src m s)
  | 0x10 => go (execBchunk src m s)
  | 0x11 => go (execBhb src m s)
  | 0x12 => go (execAttach src m s)
  | 0x13 => go (execAttachAck src m s)
  | 0x14 => go (execBreq src m s)
  | 0x15 => go (execBdone src m s)
  | 0x20 => go (execHreq src m s)
  | 0x21 => go (execHsum src m s)
  | 0x22 => go (execHuse src m s)
  | 0x23 => go (execHpick src m s)
  | 0x24 => go (execHget src m s)
  | 0x25 => go (execHfault src m s)
  | 0x30 => go (execGhb src m s)
  | 0x31 => go (execRcut src m peers s)
  | 0x32 => go (execLreq src m s)
  | 0x33 => go (execLnak src m s)
  | 0x34 => go (execRcopy src m s)
  | 0x35 => go (execFsync src m s)
  | 0x36 => go (execDeadbolt src m s)
  | 0x37 => go (execRabort src m s)
  | _ => s

/-! ## Drops (R272, Table 9.13) -/

/-- A counted drop at a check, with its flag in FAB_RX_STATUS and the first capture. -/
def State.rxDrop (s : State) (q check : Nat) (flag : Option Fld) (h : Hdr) : State :=
  let s := if check ≤ 11 then s.gcount (0x160 + check) 1 else s
  let s := match flag with
    | some f => s.setFld f 1
    | none => s
  if s.flag FAB_RX_CAP0_VALID then s
  else
    let s := ((s.setFld FAB_RX_CAP0_SRC h.src).setFld FAB_RX_CAP0_CHECK check).setFld FAB_RX_CAP0_PORT q
    (((s.setFld FAB_RX_CAP0_VALID 1).setFld FAB_RX_CAP1_FLOW h.flow).setFld FAB_RX_CAP1_GEN h.gen).setFld FAB_RX_CAP2_SEQ h.seq

/-- A FABRIC record of a packet (Table 13.2). -/
def State.rxRecord (s : State) (q kind check : Nat) (h : Hdr) (job : Nat) : State :=
  s.detect (if q = 0x1F then 0x0200 else 0x0160 + q / 4) 0x0A 0 0xFFFFFF 0x3F h.layer h.oper job
    (q + kind * 2 ^ 16 + check * 2 ^ 24 + h.flow * 2 ^ 32 + h.gen * 2 ^ 48 + h.seq * 2 ^ 64 + h.src * 2 ^ 96)

/-- Whether a header is well formed (check 3). -/
def Hdr.ok (h : Hdr) (n : Nat) : Bool :=
  let units := (h.len + 63) / 64
  (h.ver == 4 || h.ver == 3) && decide (h.cls < 6) && decide (h.len ≤ 512) && bits n 62 2 == 0 && bits n 174 2 == 0 &&
    bits n 236 4 == 0 && decide (h.inc ≤ 8) && h.inc == (if h.cls < 2 then units else 0) && h.psn / 2 ^ units == 0 &&
    (h.ver == 4 || (bits n 96 8 == 0 && h.path == 0 && h.part == 0))

/-- A nonzero header with the HCRC it should have (R259). -/
def hcrcOk (n : Nat) : Bool := crc16 (leBytes 30 (n % 2 ^ 240)) == n / 2 ^ 240 % 2 ^ 16

/-! ## Sequence numbers (R273) -/

/-- WINDOW and EXPECT after an accepted number: EXPECT passes every contiguous set bit. -/
def slide : Nat → Nat → Nat → Nat × Nat
  | 0, w, e => (w, e)
  | n + 1, w, e => if w % 2 = 1 then slide n (w / 2) (e + 1) else (w, e)

/-- Window `r.1` and expected sequence, advanced by `r.2`, after an acceptance into window `w`. -/
def State.slideSeq (s : State) (n w : Nat) (r : Nat × Nat) : State :=
  let s := (s.setFcWindow n r.1).setFld (fcSeq n) ((s.fld (fcSeq n) + r.2) % 2 ^ s.fcSeqBits n)
  if r.1 = 0 || 0 < r.2 || w = 0 then s.setFld (fcGap n) 0 else s

/-- An accepted number at distance `d` from EXPECT. GAP_AGE starts where the oldest gap changes and stops with the last. -/
def State.acceptSeq (s : State) (n d : Nat) : State :=
  s.slideSeq n (s.fcWindow n) (slide 513 (s.fcWindow n ||| 2 ^ d) 0)

/-! ## Delivery (check 12) -/

/-- The payload of a scheduled or bulk packet into the receive region of its entry, then the bump of INC (R155, R169,
R170). -/
def State.landData (s : State) (h : Hdr) (pay : List Nat) : State :=
  match s.rekey (s.fld (fcJob h.flow)) h.lsid with
  | none => s
  | some w =>
    let p := rkPart w
    let e := rkEntry w
    let win := s.tumWin p e
    let bounds := decide (s.fld (CAM_HOST_W11_RCV_LEN p e) < h.offset + (h.len + 63) / 64)
    if bounds || win.2 ≤ h.tumbler || h.tumbler = 0 then
      (s.setFld (CAM_STATUS_RCV_VIOLATION p) 1).detect (unitId p 0x11) 8 0 0xFFFFFF e h.layer h.oper (s.fld (fcJob h.flow))
        (0x10 + (if bounds then h.offset else h.tumbler) % 2 ^ 32 * 2 ^ 32)
    else
      let v := pay.toArray
      let s := s.cmdWrite p e (0x50000000 + h.offset) pay.length (fun i => v.getD i 0) (fun q => bitAt h.psn q)
      s.bump p (win.1 + h.tumbler) h.inc h.src h.part false

/-- Partition that hosts the receiving shard of a flow. -/
def State.rxPart (s : State) (h : Hdr) : Option Nat :=
  if s.fld (fcDst h.flow) = 0 then none else (s.rekey (s.fld (fcJob h.flow)) h.lsid).map rkPart

/-- Payload units whose parity fails at the receiving memory controller are poisoned, with a PARITY record (R384). -/
def State.rxParity (s : State) (h : Hdr) (par : List (Nat × Nat × Nat)) : State × Hdr :=
  let hit := par.filter (fun e => decide (e.1 < (h.len + 63) / 64))
  let u := match s.rxPart h with
    | some p => unitId p 0x60
    | none => 0x0200
  (hit.foldl (fun t e => t.detect u 1 flPoison 0xFFFFFF 0x3F h.layer h.oper 8
    (0xFFFFFFFF + e.2.1 % 2 ^ 16 * 2 ^ 32 + e.2.2 % 2 ^ 16 * 2 ^ 48 + 3 * 2 ^ 64)) s,
   { h with psn := hit.foldl (fun m e => m ||| 2 ^ e.1) h.psn })

/-- Checks 6 to 12 of a packet of a class with a flow context. -/
def State.rxFlow (s : State) (q : Nat) (h : Hdr) (pay : List Nat) (par : List (Nat × Nat × Nat)) : State :=
  let n := h.flow
  let j := s.fld (fcJob n)
  let cur := s.fld (FAB_JOB_GEN_GEN j)
  if storeGet false s.tblBad (FLW_CTX n) || s.fld (fcKind n) ≠ 2 || s.fld (fcClass n) ≠ h.cls || s.flag (fcV3 n) ≠ (h.ver == 3) then
    s.rxDrop q 6 (some FAB_RX_STATUS_FLOW_VIOLATION) h
  else if s.flag RCV_FENCE_FENCED then s.gcount 0x167 1
  else if h.gen ≠ cur && !genNewer h.gen cur then
    let s := s.gcount 0x16C 1
    if s.isDead j h.src then s.deadbolt j h.src else s
  else if h.gen ≠ cur then
    let s := (s.rxDrop q 8 (some FAB_RX_STATUS_FUTURE_GEN) h).rxRecord q 3 8 h j
    if s.isDead j h.src then s.deadbolt j h.src else s
  else
    let srcOk := if s.flag (fcSrck n) then s.fld (fcSrc n) % 2 ^ 20 == h.src
      else match s.rekey j (s.fld (fcSrc n)) with
        | some w => rkGid w == h.src && (h.ver == 3 || rkPart w == h.part)
        | none => false
    let dst := s.fld (fcDst n)
    let dstOk := dst == 0 || (dst == h.lsid && (match s.rekey j h.lsid with
      | some w => rkGid w == s.gid
      | none => false))
    let m := 2 ^ s.fcSeqBits n
    let d := (h.seq % m + m - s.fld (fcSeq n) % m) % m
    if !srcOk then s.rxDrop q 9 (some FAB_RX_STATUS_SRC_VIOLATION) h
    else if !dstOk then s.rxDrop q 10 (some FAB_RX_STATUS_FLOW_VIOLATION) h
    else if m / 2 ≤ d || (d < 512 && bitAt (s.fcWindow n) d) then s.gcount 0x16D 1
    else if 512 ≤ d then s.rxDrop q 11 (some FAB_RX_STATUS_SEQ_WINDOW) h
    else if (match s.rxPart h with | some p => s.partInReset p | none => false) then s.rxDrop q 12 none h
    else
      let s := s.acceptSeq n d
      let (s, h) := s.rxParity h par
      match h.cls with
      | 3 => s.bcastData n h.offset h.psn pay
      | 4 => s.onCont j n h pay
      | _ => s.landData h pay

/-- The checks of Table 9.13 on a packet that came on port `q`, 0x1F for an internal one. `crc` says whether its CRC-32C
matches. -/
def State.rxPacket (s : State) (q : Nat) (p : Pkt) (crc : Bool) (par : List (Nat × Nat × Nat)) (peers : Bool) : State :=
  let h := Hdr.dec p.hdr
  if s.gid = 0 && h.cls ≠ 5 then s
  else if h.dst ≠ s.gid then s.rxDrop q 2 (some FAB_RX_STATUS_MISROUTE) h
  else if !h.ok p.hdr then s.rxDrop q 3 (some FAB_RX_STATUS_MALFORMED) h
  else if !crc then (s.rxDrop q 4 (some FAB_RX_STATUS_CRC_FAIL) h).rxRecord q 2 4 h 8
  else if h.cls = 2 then s.onControl h.src p.pay peers
  else if h.cls = 5 then s.remoteMbx h.src h.part h.offset p.pay
  else s.rxFlow q h p.pay par

/-! ## PACKET_RECEIVE -/

/-- A data stream without its idle fill: zero words where a header would start (R243). -/
def skipFill : Nat → List Nat → List Nat
  | 0, l => l
  | n + 1, l => match l with
    | 0 :: 0 :: 0 :: 0 :: t => skipFill n t
    | _ => l

/-- The first packet of a port's data stream: its bytes leave the stream, and its credit is returned (R243, R247). A header
whose HCRC fails gives no length: what has been received goes with it. -/
def State.rxPort (s : State) (q : Nat) (par : List (Nat × Nat × Nat)) (peers : Bool) : State :=
  let l := s.link q
  let st := skipFill l.stream.length l.stream
  if st.length < 32 then s.setLink q { l with stream := st }
  else
    let n := leNat (st.take 32)
    if !hcrcOk n then (s.setLink q { l with stream := [] }).rxDrop q 1 (some FAB_RX_STATUS_HCRC_FAIL) ⟨0, 0, 0, 0, 0, 0, 0, 0, 0, 0, 0, 0, 0, 0, 0, 0, 0, 0⟩
    else
      let len := bits n 160 10
      let size := 36 + (len + 3) / 4 * 4
      if st.length < size then s.setLink q { l with stream := st }
      else
        let p : Pkt := ⟨n, (st.drop 32).take len⟩
        let crc := crc32c (st.take (size - 4)) == leNat ((st.drop (size - 4)).take 4)
        let v := vcOf (bits n 4 3)
        let s := s.setLink q { l with stream := st.drop size, taken := setAt l.taken v (l.taken.getD v 0 + (size + 63) / 64) }
        (s.sendCredit q).rxPacket q p crc par peers

/-- PACKET_RECEIVE: the next packet of port `q`, or for 0x1F the next internal packet. The surroundings give the hub table
words met uncorrectable, the payload units whose parity fails, and for a cut whether another module of the job is known to
have parked an entry. -/
def execPacketReceive (q : Nat) (tbl : List Nat) (par : List (Nat × Nat × Nat)) (peers : Bool) (s : State) :
    Host.Outcome State Fault Refusal :=
  if s.boot ≠ .running then .next s
  else
    let s := s.tableErrors tbl
    if q = 0x1F then
      match s.intq with
      | [] => .next s
      | x :: t =>
        let s := ({ s with intq := t }).rxPacket q x.pkt true par peers
        match x.cmd with
        | some k => .next (s.settleCmd k)
        | none => .next s
    else if q < 24 && s.portUp q then .next (s.rxPort q par peers)
    else .next s

end Sys2Proof.Machine
end

