-- ==== Sys2Proof/Machine/Dispatch.lean ====
section
/-! DEFINITION. One arm for each command of the opcode table: a direct call of its meaning. -/
namespace Sys2Proof.Machine

/-- The effect of a command on everything but the queue. -/
def exec (i : Instr) (s : State) : Host.Outcome State Fault Refusal :=
  match i with
  | .powerOn env => Sys2Proof.Machine.execPowerOn env s
  | .undervoltage mv us => Sys2Proof.Machine.execUndervoltage mv us s
  | .overvoltage mv us => Sys2Proof.Machine.execOvervoltage mv us s
  | .undervoltageRecovery env => Sys2Proof.Machine.execUndervoltageRecovery env s
  | .overvoltageRecovery env => Sys2Proof.Machine.execOvervoltageRecovery env s
  | .uvWarning mv => Sys2Proof.Machine.execUvWarning mv s
  | .railOutOfRegulation r mv us => Sys2Proof.Machine.execRailOutOfRegulation r mv us s
  | .pllLockLoss p => Sys2Proof.Machine.execPllLockLoss p s
  | .tempSensorSample rs => Sys2Proof.Machine.execTempSensorSample rs s
  | .thermTripNotRemoved => Sys2Proof.Machine.execThermTripNotRemoved s
  | .stackTempSample p v => Sys2Proof.Machine.execStackTempSample p v s
  | .powerSample w vin static rails => Sys2Proof.Machine.execPowerSample w vin static rails s
  | .throttleStep => Sys2Proof.Machine.execThrottleStep s
  | .domainPrewake d => Sys2Proof.Machine.execDomainPrewake d s
  | .domainA1Entry d => Sys2Proof.Machine.execDomainA1Entry d s
  | .domainA2Entry d => Sys2Proof.Machine.execDomainA2Entry d s
  | .partitionIdleA2 p => Sys2Proof.Machine.execPartitionIdleA2 p s
  | .domainWakeTimeout d => Sys2Proof.Machine.execDomainWakeTimeout d s
  | .a3Enter f => Sys2Proof.Machine.execA3Enter f s
  | .a3Exit f => Sys2Proof.Machine.execA3Exit f s
  | .domainSleepRequest f d => Sys2Proof.Machine.execDomainSleepRequest f d s
  | .domainHoldAwake f d hold => Sys2Proof.Machine.execDomainHoldAwake f d hold s
  | .capWrite f w => Sys2Proof.Machine.execCapWrite f w s
  | .pwrCycleReqTimeout => Sys2Proof.Machine.execPwrCycleReqTimeout s
  | .kprEscClearWrite f env => Sys2Proof.Machine.execKprEscClearWrite f env s
  | .cmdNop p ctx => Sys2Proof.Machine.execCmdNop p ctx s
  | .mxeAccumulate p ctx env => Sys2Proof.Machine.execMxeAccumulate p ctx env s
  | .mxeFp32 p ctx env => Sys2Proof.Machine.execMxeFp32 p ctx env s
  | .mxePreload p ctx env => Sys2Proof.Machine.execMxePreload p ctx env s
  | .cmdVxe p ctx env => Sys2Proof.Machine.execCmdVxe p ctx env s
  | .vxeGroupStart p rerun => Sys2Proof.Machine.execVxeGroupStart p rerun s
  | .vxeOpMov p e n w => Sys2Proof.Machine.execVxeOpMov p e n w s
  | .vxeOpAdd p e n w => Sys2Proof.Machine.execVxeOpAdd p e n w s
  | .vxeOpSub p e n w => Sys2Proof.Machine.execVxeOpSub p e n w s
  | .vxeOpMul p e n w => Sys2Proof.Machine.execVxeOpMul p e n w s
  | .vxeOpFma p e n w => Sys2Proof.Machine.execVxeOpFma p e n w s
  | .vxeOpMax p e n w => Sys2Proof.Machine.execVxeOpMax p e n w s
  | .vxeOpMin p e n w => Sys2Proof.Machine.execVxeOpMin p e n w s
  | .vxeOpAbs p e n w => Sys2Proof.Machine.execVxeOpAbs p e n w s
  | .vxeOpNeg p e n w => Sys2Proof.Machine.execVxeOpNeg p e n w s
  | .vxeOpSel p e n w => Sys2Proof.Machine.execVxeOpSel p e n w s
  | .vxeOpCmask p e n w => Sys2Proof.Machine.execVxeOpCmask p e n w s
  | .vxeOpCvt p e n w => Sys2Proof.Machine.execVxeOpCvt p e n w s
  | .vxeOpExp p e n w => Sys2Proof.Machine.execVxeOpExp p e n w s
  | .vxeOpExp2 p e n w => Sys2Proof.Machine.execVxeOpExp2 p e n w s
  | .vxeOpRcp p e n w => Sys2Proof.Machine.execVxeOpRcp p e n w s
  | .vxeOpRsqrt p e n w => Sys2Proof.Machine.execVxeOpRsqrt p e n w s
  | .vxeOpSqrt p e n w => Sys2Proof.Machine.execVxeOpSqrt p e n w s
  | .vxeOpLog p e n w => Sys2Proof.Machine.execVxeOpLog p e n w s
  | .vxeOpTanh p e n w => Sys2Proof.Machine.execVxeOpTanh p e n w s
  | .vxeOpSigmoid p e n w => Sys2Proof.Machine.execVxeOpSigmoid p e n w s
  | .vxeOpSilu p e n w => Sys2Proof.Machine.execVxeOpSilu p e n w s
  | .vxeOpGelu p e n w => Sys2Proof.Machine.execVxeOpGelu p e n w s
  | .vxeOpRowsum p e n w => Sys2Proof.Machine.execVxeOpRowsum p e n w s
  | .vxeOpRowmax p e n w => Sys2Proof.Machine.execVxeOpRowmax p e n w s
  | .vxeOpColsum p e n w => Sys2Proof.Machine.execVxeOpColsum p e n w s
  | .vxeOpColmax p e n w => Sys2Proof.Machine.execVxeOpColmax p e n w s
  | .vxeOpVsum p e n w => Sys2Proof.Machine.execVxeOpVsum p e n w s
  | .vxeOpVmax p e n w => Sys2Proof.Machine.execVxeOpVmax p e n w s
  | .vxeOpLdv p e n w => Sys2Proof.Machine.execVxeOpLdv p e n w s
  | .vxeOpStv p e n w => Sys2Proof.Machine.execVxeOpStv p e n w s
  | .vxeOpSput p e n w => Sys2Proof.Machine.execVxeOpSput p e n w s
  | .updSgd p ctx env => Sys2Proof.Machine.execUpdSgd p ctx env s
  | .updFactored p ctx env => Sys2Proof.Machine.execUpdFactored p ctx env s
  | .updSampleCrosscheck p flips => Sys2Proof.Machine.execUpdSampleCrosscheck p flips s
  | .cmdMove p ctx env => Sys2Proof.Machine.execCmdMove p ctx env s
  | .cmdSend p ctx env => Sys2Proof.Machine.execCmdSend p ctx env s
  | .collReduceScatter p ctx env => Sys2Proof.Machine.execCollReduceScatter p ctx env s
  | .collAllGather p ctx env => Sys2Proof.Machine.execCollAllGather p ctx env s
  | .collAllReduce p ctx env => Sys2Proof.Machine.execCollAllReduce p ctx env s
  | .collStageReady place => Sys2Proof.Machine.execCollStageReady place s
  | .moeDispatch p ctx env => Sys2Proof.Machine.execMoeDispatch p ctx env s
  | .moeCombine p ctx env => Sys2Proof.Machine.execMoeCombine p ctx env s
  | .cmdStepEnd p ctx => Sys2Proof.Machine.execCmdStepEnd p ctx s
  | .malformedDescriptorHalt p ctx => Sys2Proof.Machine.execMalformedDescriptorHalt p ctx s
  | .commandComplete p ctx idx => Sys2Proof.Machine.execCommandComplete p ctx idx s
  | .waitTimeout p ctx => Sys2Proof.Machine.execWaitTimeout p ctx s
  | .tmbValueWrite f p n v => Sys2Proof.Machine.execTmbValueWrite f p n v s
  | .ringDoorbell f p m v => Sys2Proof.Machine.execRingDoorbell f p m v s
  | .ringEnable f p m => Sys2Proof.Machine.execRingEnable f p m s
  | .ringDisable f p m => Sys2Proof.Machine.execRingDisable f p m s
  | .jobScalarWrite f p n hi v => Sys2Proof.Machine.execJobScalarWrite f p n hi v s
  | .updEtaWrite f p v => Sys2Proof.Machine.execUpdEtaWrite f p v s
  | .etaTimeout p => Sys2Proof.Machine.execEtaTimeout p s
  | .arrivalInstant j dynJ => Sys2Proof.Machine.execArrivalInstant j dynJ s
  | .haspPhase1Complete j => Sys2Proof.Machine.execHaspPhase1Complete j s
  | .readyNotice src m => Sys2Proof.Machine.execReadyNotice src m s
  | .holdNotice src m => Sys2Proof.Machine.execHoldNotice src m s
  | .hingeRelease src m => Sys2Proof.Machine.execHingeRelease src m s
  | .stepStart j => Sys2Proof.Machine.execStepStart j s
  | .hingeTimeout j => Sys2Proof.Machine.execHingeTimeout j s
  | .mtbfWrite f j v => Sys2Proof.Machine.execMtbfWrite f j v s
  | .registerWrite f a v => Sys2Proof.Machine.execRegisterWrite f a v s
  | .tableShadowWrite f a v => Sys2Proof.Machine.execTableShadowWrite f a v s
  | .tableSwapArm f v => Sys2Proof.Machine.execTableSwapArm f v s
  | .tableCopyComplete => Sys2Proof.Machine.execTableCopyComplete s
  | .codewordReceive q lane bad fec seq cmask units => Sys2Proof.Machine.execCodewordReceive q lane bad fec seq cmask units s
  | .linkAck q seq => Sys2Proof.Machine.execLinkAck q seq s
  | .linkNak q seq => Sys2Proof.Machine.execLinkNak q seq s
  | .linkCredit q c => Sys2Proof.Machine.execLinkCredit q c s
  | .linkTrain q u => Sys2Proof.Machine.execLinkTrain q u s
  | .linkLane q mask => Sys2Proof.Machine.execLinkLane q mask s
  | .portTrainStart q kept partner => Sys2Proof.Machine.execPortTrainStart q kept partner s
  | .portTrainTimeout q => Sys2Proof.Machine.execPortTrainTimeout q s
  | .portTrainRetry q kept partner => Sys2Proof.Machine.execPortTrainRetry q kept partner s
  | .portDown q reason => Sys2Proof.Machine.execPortDown q reason s
  | .dampHoldExpiry q kept partner => Sys2Proof.Machine.execDampHoldExpiry q kept partner s
  | .dampQuietExpiry q => Sys2Proof.Machine.execDampQuietExpiry q s
  | .flowSwitchHoldExpiry n => Sys2Proof.Machine.execFlowSwitchHoldExpiry n s
  | .laneLockLoss x => Sys2Proof.Machine.execLaneLockLoss x s
  | .laneUeLimit x => Sys2Proof.Machine.execLaneUeLimit x s
  | .laneRetrainTimeout x => Sys2Proof.Machine.execLaneRetrainTimeout x s
  | .laneRejoin x => Sys2Proof.Machine.execLaneRejoin x s
  | .laneReadmit f k mask => Sys2Proof.Machine.execLaneReadmit f k mask s
  | .slotBoundary => Sys2Proof.Machine.execSlotBoundary s
  | .packetTransmit q par => Sys2Proof.Machine.execPacketTransmit q par s
  | .packetReceive q tbl par peers => Sys2Proof.Machine.execPacketReceive q tbl par peers s
  | .gapTimeout n => Sys2Proof.Machine.execGapTimeout n s
  | .timeExchangeStart q => Sys2Proof.Machine.execTimeExchangeStart q s
  | .timeReq q hops xseq t1 => Sys2Proof.Machine.execTimeReq q hops xseq t1 s
  | .timeResp q hops t1 t2 t3 => Sys2Proof.Machine.execTimeResp q hops t1 t2 t3 s
  | .timeHoldoverExpiry => Sys2Proof.Machine.execTimeHoldoverExpiry s
  | .satWindowEnd => Sys2Proof.Machine.execSatWindowEnd s
  | .bchunk src m => Sys2Proof.Machine.execBchunk src m s
  | .bhb src m => Sys2Proof.Machine.execBhb src m s
  | .bhbSend => Sys2Proof.Machine.execBhbSend s
  | .attach src m => Sys2Proof.Machine.execAttach src m s
  | .attachAck src m => Sys2Proof.Machine.execAttachAck src m s
  | .breq src m => Sys2Proof.Machine.execBreq src m s
  | .bdone src m => Sys2Proof.Machine.execBdone src m s
  | .bcastParentLost j handle => Sys2Proof.Machine.execBcastParentLost j handle s
  | .bcastChunkTimeout j handle c => Sys2Proof.Machine.execBcastChunkTimeout j handle c s
  | .bcastChildLost j handle gid => Sys2Proof.Machine.execBcastChildLost j handle gid s
  | .attachTimeout j handle => Sys2Proof.Machine.execAttachTimeout j handle s
  | .unaccountedTimeout j handle gid => Sys2Proof.Machine.execUnaccountedTimeout j handle gid s
  | .jobTreeAttachRetry j => Sys2Proof.Machine.execJobTreeAttachRetry j s
  | .haspChunkTimeout j p stripe => Sys2Proof.Machine.execHaspChunkTimeout j p stripe s
  | .hreq src m => Sys2Proof.Machine.execHreq src m s
  | .hsum src m => Sys2Proof.Machine.execHsum src m s
  | .huse src m => Sys2Proof.Machine.execHuse src m s
  | .hpick src m => Sys2Proof.Machine.execHpick src m s
  | .hget src m => Sys2Proof.Machine.execHget src m s
  | .hfault src m => Sys2Proof.Machine.execHfault src m s
  | .haspRebuildComplete j => Sys2Proof.Machine.execHaspRebuildComplete j s
  | .drainTimeout j => Sys2Proof.Machine.execDrainTimeout j s
  | .ghbSend j => Sys2Proof.Machine.execGhbSend j s
  | .ghb src m => Sys2Proof.Machine.execGhb src m s
  | .ghbMiss j gid => Sys2Proof.Machine.execGhbMiss j gid s
  | .rcut src m peers => Sys2Proof.Machine.execRcut src m peers s
  | .recoveryHingeArrival j dynJ peers => Sys2Proof.Machine.execRecoveryHingeArrival j dynJ peers s
  | .cutTimeout j => Sys2Proof.Machine.execCutTimeout j s
  | .replayRebuildComplete j lsid => Sys2Proof.Machine.execReplayRebuildComplete j lsid s
  | .lreq src m => Sys2Proof.Machine.execLreq src m s
  | .lnak src m => Sys2Proof.Machine.execLnak src m s
  | .rcopy src m => Sys2Proof.Machine.execRcopy src m s
  | .fsync src m => Sys2Proof.Machine.execFsync src m s
  | .replicaCopyComplete j lsid => Sys2Proof.Machine.execReplicaCopyComplete j lsid s
  | .rabort src m => Sys2Proof.Machine.execRabort src m s
  | .deadbolt src m => Sys2Proof.Machine.execDeadbolt src m s
  | .hello n => Sys2Proof.Machine.execHello n s
  | .errorRecordWrite => Sys2Proof.Machine.execErrorRecordWrite s
  | .d2dRetry unit addr mask prod => Sys2Proof.Machine.execD2dRetry unit addr mask prod s
  | .migrationComplete p hbm ecc => Sys2Proof.Machine.execMigrationComplete p hbm ecc s
  | .exposureSample activity => Sys2Proof.Machine.execExposureSample activity s
  | .twoKeyCheck p eng flips => Sys2Proof.Machine.execTwoKeyCheck p eng flips s
  | .twoKeySiblingRepeat p eng flips => Sys2Proof.Machine.execTwoKeySiblingRepeat p eng flips s
  | .twoKeyOutcome p eng => Sys2Proof.Machine.execTwoKeyOutcome p eng s
  | .scrubRead p hbm how => Sys2Proof.Machine.execScrubRead p hbm how s
  | .hangDetect u => Sys2Proof.Machine.execHangDetect u s
  | .contextReset p ctx => Sys2Proof.Machine.execContextReset p ctx s
  | .engineReset u => Sys2Proof.Machine.execEngineReset u s
  | .engineSelfTestDone u pass => Sys2Proof.Machine.execEngineSelfTestDone u pass s
  | .partitionReset p => Sys2Proof.Machine.execPartitionReset p s
  | .moduleReset env => Sys2Proof.Machine.execModuleReset env s
  | .powerCycleRequest => Sys2Proof.Machine.execPowerCycleRequest s
  | .pcieConventionalReset how => Sys2Proof.Machine.execPcieConventionalReset how s
  | .functionLevelReset f => Sys2Proof.Machine.execFunctionLevelReset f s
  | .resetBoundExpiry kind p ctx unit => Sys2Proof.Machine.execResetBoundExpiry kind p ctx unit s
  | .ccHeartbeatSample p beats => Sys2Proof.Machine.execCcHeartbeatSample p beats s
  | .keeperWatchdog => Sys2Proof.Machine.execKeeperWatchdog s
  | .watchdogBootTimeout => Sys2Proof.Machine.execWatchdogBootTimeout s
  | .lockstepMismatch => Sys2Proof.Machine.execLockstepMismatch s
  | .clockFault => Sys2Proof.Machine.execClockFault s
  | .i3cTargetFault => Sys2Proof.Machine.execI3cTargetFault s
  | .rstReqContext f p ctx => Sys2Proof.Machine.execRstReqContext f p ctx s
  | .rstReqEngine f p eng hub => Sys2Proof.Machine.execRstReqEngine f p eng hub s
  | .rstReqPartition f p => Sys2Proof.Machine.execRstReqPartition f p s
  | .rstReqModule f => Sys2Proof.Machine.execRstReqModule f s
  | .rstReqPowerCycle f => Sys2Proof.Machine.execRstReqPowerCycle f s
  | .errRingHeadWrite f v => Sys2Proof.Machine.execErrRingHeadWrite f v s
  | .opminTick m => Sys2Proof.Machine.execOpminTick m s
  | .dayClose => Sys2Proof.Machine.execDayClose s
  | .monthClose => Sys2Proof.Machine.execMonthClose s
  | .accumulatorCheckpoint => Sys2Proof.Machine.execAccumulatorCheckpoint s
  | .recorderFlush bad => Sys2Proof.Machine.execRecorderFlush bad s
  | .stateCopyWrite => Sys2Proof.Machine.execStateCopyWrite s
  | .opImageLoad f img => Sys2Proof.Machine.execOpImageLoad f img s
  | .imageLoadCommit => Sys2Proof.Machine.execImageLoadCommit s
  | .imageLoadValidTimeout => Sys2Proof.Machine.execImageLoadValidTimeout s
  | .opImageUnload f => Sys2Proof.Machine.execOpImageUnload f s
  | .opTableLoad f img peers => Sys2Proof.Machine.execOpTableLoad f img peers s
  | .opProgramLoad f prog => Sys2Proof.Machine.execOpProgramLoad f prog s
  | .opBroadcast f => Sys2Proof.Machine.execOpBroadcast f s
  | .opHaspDrain f bufs => Sys2Proof.Machine.execOpHaspDrain f bufs s
  | .opHaspRestore f => Sys2Proof.Machine.execOpHaspRestore f s
  | .opDurableRestore f objs => Sys2Proof.Machine.execOpDurableRestore f objs s
  | .opRehost f added peers => Sys2Proof.Machine.execOpRehost f added peers s
  | .opSelfTest f fails => Sys2Proof.Machine.execOpSelfTest f fails s
  | .opRecorderRead f bad aged => Sys2Proof.Machine.execOpRecorderRead f bad aged s
  | .uhsReadmit f => Sys2Proof.Machine.execUhsReadmit f s
  | .uhsClearHealth f => Sys2Proof.Machine.execUhsClearHealth f s
  | .uhsClearCond f => Sys2Proof.Machine.execUhsClearCond f s
  | .opAbort f => Sys2Proof.Machine.execOpAbort f s
  | .opCompletionPost => Sys2Proof.Machine.execOpCompletionPost s
  | .cqHeadWrite f v => Sys2Proof.Machine.execCqHeadWrite f v s
  | .cqEnable f v => Sys2Proof.Machine.execCqEnable f v s
  | .hostHbmRead f x n env => Sys2Proof.Machine.execHostHbmRead f x n env s
  | .hostHbmWrite f x l psn => Sys2Proof.Machine.execHostHbmWrite f x l psn s
  | .mbxSend n who off enabled l => Sys2Proof.Machine.execMbxSend n who off enabled l s
  | .mbxTake n who v => Sys2Proof.Machine.execMbxTake n who v s
  | .remoteMailboxSend f v => Sys2Proof.Machine.execRemoteMailboxSend f v s
  | .irqRaise f v => Sys2Proof.Machine.execIrqRaise f v s
  | .counterClear f p n => Sys2Proof.Machine.execCounterClear f p n s
  | .counterClearAll f p => Sys2Proof.Machine.execCounterClearAll f p s
  | .traceArm f p => Sys2Proof.Machine.execTraceArm f p s
  | .traceTrigger f p => Sys2Proof.Machine.execTraceTrigger f p s
  | .tapExtest v => Sys2Proof.Machine.execTapExtest v s
  | .tapSamplePreload v => Sys2Proof.Machine.execTapSamplePreload v s
  | .tapIdcode => Sys2Proof.Machine.execTapIdcode s
  | .tapHighz => Sys2Proof.Machine.execTapHighz s
  | .tapClamp => Sys2Proof.Machine.execTapClamp s
  | .tapBypass => Sys2Proof.Machine.execTapBypass s
  | .dbgRegRead a => Sys2Proof.Machine.execDbgRegRead a s
  | .dbgRegWrite a v env => Sys2Proof.Machine.execDbgRegWrite a v env s
  | .dbgHbmRead a ecc => Sys2Proof.Machine.execDbgHbmRead a ecc s
  | .dbgHbmWrite a v => Sys2Proof.Machine.execDbgHbmWrite a v s
  | .dbgHalt halt resume => Sys2Proof.Machine.execDbgHalt halt resume s
  | .sbImageRefresh => Sys2Proof.Machine.execSbImageRefresh s
  | .sbPrivateWrite l rd env => Sys2Proof.Machine.execSbPrivateWrite l rd env s
  | .sbAlertClear v => Sys2Proof.Machine.execSbAlertClear v s
  | .sbGidWrite v => Sys2Proof.Machine.execSbGidWrite v s
  | .sbFwDataWrite l => Sys2Proof.Machine.execSbFwDataWrite l s
  | .exitA3 => Sys2Proof.Machine.execExitA3 s
  | .escClear env => Sys2Proof.Machine.execEscClear env s
  | .sbModuleReset => Sys2Proof.Machine.execSbModuleReset s
  | .debugEnable => Sys2Proof.Machine.execDebugEnable s
  | .debugDisable => Sys2Proof.Machine.execDebugDisable s
  | .keyProvision k => Sys2Proof.Machine.execKeyProvision k s
  | .keyRevoke k => Sys2Proof.Machine.execKeyRevoke k s
  | .fwBegin => Sys2Proof.Machine.execFwBegin s
  | .fwCommit env => Sys2Proof.Machine.execFwCommit env s
  | .fwAbort => Sys2Proof.Machine.execFwAbort s
  | .cccEntdaa addr => Sys2Proof.Machine.execCccEntdaa addr s
  | .cccSetdasa st addr => Sys2Proof.Machine.execCccSetdasa st addr s
  | .cccSetnewda addr => Sys2Proof.Machine.execCccSetnewda addr s
  | .cccRstdaa => Sys2Proof.Machine.execCccRstdaa s
  | .cccEnec => Sys2Proof.Machine.execCccEnec s
  | .cccDisec => Sys2Proof.Machine.execCccDisec s
  | .cccGetpid => Sys2Proof.Machine.execCccGetpid s
  | .cccGetbcr => Sys2Proof.Machine.execCccGetbcr s
  | .cccGetdcr => Sys2Proof.Machine.execCccGetdcr s
  | .cccGetstatus => Sys2Proof.Machine.execCccGetstatus s
  | .cccGetmwl => Sys2Proof.Machine.execCccGetmwl s
  | .cccGetmrl => Sys2Proof.Machine.execCccGetmrl s
  | .perstDeassert rate width flit => Sys2Proof.Machine.execPerstDeassert rate width flit s
  | .laneRetrainRetry x => Sys2Proof.Machine.execLaneRetrainRetry x s
  | .sbCommandEnd => Sys2Proof.Machine.execSbCommandEnd s
  | .submitRefused f wide => Sys2Proof.Machine.execSubmitRefused f wide s
  | .registerRead f a wide => Sys2Proof.Machine.execRegisterRead f a wide s
  | .silenceReportRepeat j gid => Sys2Proof.Machine.execSilenceReportRepeat j gid s
  | .tapTestLogicReset => Sys2Proof.Machine.execTapTestLogicReset s

end Sys2Proof.Machine
end

