-- ==== Sys2Proof/Machine/Idle.lean ====
section
/-! DEFINITION. One tick of 250 ps on an idle module: fabric time, waits and the Keeper's beat (R281, R293, R421). -/
namespace Sys2Proof.Machine

/-- Ticks of KPR_PERIOD; 0 is read as 1 ms, above 1,000 as 1,000 (Table 14.7). -/
def State.kprPeriod (s : State) : Nat := min 1000 (max 1 (s.fld KPR_HB_CFG_KPR_PERIOD)) * 4000000

/-- Keeper firmware counts KPR_SELF_HB up once every KPR_PERIOD (R421): `t` is the fabric time before the tick. -/
def State.selfBeat (s : State) (t : Nat) : State :=
  if t / s.kprPeriod = s.ftime / s.kprPeriod then s
  else s.setFld KPR_SELF_HB_BEAT ((s.fld KPR_SELF_HB_BEAT + 1) % 2 ^ 32)

/-- What one tick without a command does. DESIGN CHOICE (log entry 8): an idle step of the model is one tick; nothing runs
without input power, and only fabric time while the module does not run. -/
def State.idleTick (s : State) : State :=
  match s.boot with
  | .off => s
  | .running => s.waitTick.timeTick.selfBeat s.ftime
  | _ => s.timeTick

end Sys2Proof.Machine
end

