-- ==== Sys2Proof/Machine/Step.lean ====
section
/-! DEFINITION. The step: the command at the front of the queue, or one idle tick. -/
namespace Sys2Proof.Machine

/-- One step: the command at the front of the queue takes effect on the state with the rest of the queue; on an empty
queue the module idles for one tick (log entry 8). -/
def step (s : State) : Host.Outcome State Fault Refusal :=
  match s.pending with
  | [] => .next s.idleTick
  | c :: cs => exec c { s with pending := cs }

/-- `s` with the command that a table word spells at the front of the queue. The table gives no row any bits, so no word
spells a command and `s` stays as it is. -/
def State.withFetchWord (s : State) (nbits w : Nat) : State :=
  match decodeTableWord nbits w with
  | none => s
  | some c => { s with pending := c :: s.pending }

end Sys2Proof.Machine
end

