-- ==== Sys2Proof/Safety.lean ====
section
/-! DEFINITION. What every state of a sound run meets: the form in which the model holds memory, registers, time and
counters; and the words in which the statements say what a command leaves alone. -/
namespace Sys2Proof.Machine

/-- The fields that `State.Inv` speaks of. Memory lists a byte once, in rising order, and never a zero; the poison bits
likewise; a register word, an element of a vector engine's register and its poison are listed once, in rising order; fabric time is a 64-bit count (R277); a counter is 48 bits wide (R528). -/
structure InvF (mem : List Host.Cell) (poison : Store Bool) (regs : Store Word) (ftime : Nat) (cnt vx : Store Nat)
    (vxPsn : Store Bool) : Prop where
  mem : Memory.wf mem
  poison : storeWf false poison
  regs : storeRising regs
  ftime : ftime < 2 ^ 64
  cnt : ∀ c ∈ cnt, c.2 < 2 ^ 48
  vx : storeRising vx
  vxPsn : storeRising vxPsn

/-- The invariant of the machine. -/
def State.Inv (s : State) : Prop := InvF s.mem s.poison s.regs s.ftime s.cnt s.vx s.vxPsn

/-! ## What a command leaves alone -/

/-- An outcome is a next state with a property. -/
def Answers (o : Host.Outcome State Fault Refusal) (P : State → Prop) : Prop := ∃ t, o = .next t ∧ P t

/-- Register words that the report of an event or of a saturated counter writes: EVR_RSEQ, EVR_STATUS, DBG_GSTATUS and
DBG_STATUS of a partition (R435, R444, R530). -/
def reportReg (a : Nat) : Bool :=
  a == EVR_RSEQ || a == EVR_STATUS || a == DBG_GSTATUS || (decide (0x2000000 ≤ a) && a % 0x400000 == 0x1C2004)

/-- `s` without its registers, its counters, and what reports go through on their way to the recorder and the error ring:
two states with one `bare` agree in all else, memory among it. -/
def State.bare (s : State) : State :=
  { s with regs := [], cnt := [], staged := [], rewrite := none, recDrops := (0, 0, 0), detections := [], rangeSeen := [], kprLost := 0 }

/-- Every register word but those that `P` names, and but those of reports, is as before. -/
def State.RegsKept (s t : State) (P : Nat → Prop) : Prop :=
  ∀ a, ¬ P a → reportReg a = false → t.reg a = s.reg a

/-- Every byte of memory and every poison bit is as before. -/
def State.MemKept (s t : State) : Prop :=
  (∀ a, t.byte a = s.byte a) ∧ ∀ d, storeGet false t.poison d = storeGet false s.poison d

/-- `t` is `s` but for the registers that `P` names, the counters and the reports. -/
def State.OnlyRegs (s t : State) (P : Nat → Prop) : Prop := t.bare = s.bare ∧ s.RegsKept t P

/-! ## When a command reaches what it names -/

/-- A write of sender `f` (function 0 to 8, or 9 for an agent on the module) reaches the register at `a`: the module runs, the
register is there, the sender may write it, and its domain answers (R2, R458, R462). -/
structure State.Reaches (s : State) (f a : Nat) : Prop where
  runs : s.boot = .running
  sender : f ≤ 9
  there : s.absentReg a = false
  right : f = 9 ∨ s.mayReach f a true = true
  awake : s.regDown a = false

/-- The next command of a context issues now, being of the class that `cls` tests (R164): the context may issue, nothing it
fetches is poisoned, it is well formed, due, and nothing holds it. -/
structure State.Issues (s : State) (p ctx : Nat) (cls : Nat → Bool) : Prop where
  ready : s.ctxReady p ctx = true
  clean : s.fetchPsn p ctx (s.ctxPos p ctx) = false
  cls : cls (s.descAt p ctx (s.ctxPos p ctx)) = true
  formed : s.reasonAt p ctx (s.ctxPos p ctx) = 0
  due : s.isDue p ctx (s.descAt p ctx (s.ctxPos p ctx)) = true
  free : s.holdCause p ctx (s.descAt p ctx (s.ctxPos p ctx)) = none

/-- The same for a matrix command and the stream command after it, which issue together (R152). -/
structure State.IssuesPair (s : State) (p ctx : Nat) (cls : Nat → Bool) : Prop where
  first : s.Issues p ctx cls
  clean : s.fetchPsn p ctx (s.ctxPos p ctx + 1) = false
  formed : s.reasonAt p ctx (s.ctxPos p ctx + 1) = 0
  due : s.isDue p ctx (s.descAt p ctx (s.ctxPos p ctx + 1)) = true
  free : s.holdCause p ctx (s.descAt p ctx (s.ctxPos p ctx + 1)) = none

/-- The state in which an issuing command starts: its slip is accounted, its context stands `n` commands further, and its shard
is the one that issues (R164, R175, R176). -/
def State.issuedAt (s : State) (p ctx n eff : Nat) : State :=
  ((s.noteSlip p ctx (s.ctxPos p ctx) eff).advance p ctx n).showShard p ctx

/-- The next command of a context. -/
def State.nextCmd (s : State) (p ctx : Nat) : Cmd := s.cmdAt p ctx (s.ctxPos p ctx)

/-- The state after a command that answers one; the state before it otherwise. -/
def State.after (s : State) (i : Instr) : State :=
  match exec i s with
  | .next t => t
  | _ => s

/-! ## Elements of the operands of a vector operation (Table 5.3, R130)

Of kind 0 a tile register, reading as zero where it holds no tile (R127); of kind 1 and 2 a vector register by column and by
row; of kind 3 a scalar slot. -/

/-- Element `i` of a tile-form operand, in row order. -/
def State.tileArg (s : State) (p e : Nat) (g : VxEng) (kind r i : Nat) : Nat :=
  match kind with
  | 0 => if g.filled r then storeGet 0 s.vx (vtKey p e r + i) else 0
  | 1 => storeGet 0 s.vx (vvKey p e r + i % 128)
  | 2 => storeGet 0 s.vx (vvKey p e r + i / 128)
  | _ => (g.slots.getD r (0, false)).1

/-- Poison of datum `q`, sixteen elements, of a tile-form operand. -/
def State.tileArgPsn (s : State) (p e : Nat) (g : VxEng) (kind r q : Nat) : Bool :=
  match kind with
  | 0 => g.filled r && storeGet false s.vxPsn (vtpKey p e r + q)
  | 1 => (List.range 16).any (fun j => storeGet false s.vxPsn (vvpKey p e r + (16 * (q % 8) + j)))
  | 2 => storeGet false s.vxPsn (vvpKey p e r + q / 8)
  | _ => (g.slots.getD r (0, false)).2

/-- Element `i` of a vector-form operand. -/
def State.vecArg (s : State) (p e : Nat) (g : VxEng) (kind r i : Nat) : Nat :=
  if kind = 3 then (g.slots.getD r (0, false)).1 else storeGet 0 s.vx (vvKey p e r + i)

/-- Poison of element `i` of a vector-form operand. -/
def State.vecArgPsn (s : State) (p e : Nat) (g : VxEng) (kind r i : Nat) : Bool :=
  if kind = 3 then (g.slots.getD r (0, false)).2 else storeGet false s.vxPsn (vvpKey p e r + i)

/-- The reduction of R136 over 128 values, as its loop runs. -/
def reduceTree (op : Nat → Nat → Nat) (x : List Nat) : Nat :=
  (([64, 32, 16, 8, 4, 2, 1] : List Nat).foldl
    (fun x w => (List.range w).map (fun e => op (x.getD e 0) (x.getD (e + w) 0))) x).getD 0 0

/-- `t` differs from `s` in the keys `b` to `b + n - 1` of the vector engines' registers and `c` to `c + m - 1` of their poison,
in the registers that `P` names, the counters and the reports. -/
def State.OnlyVx (s t : State) (b n c m : Nat) (P : Nat → Prop) : Prop :=
  t.bare = { s.bare with vx := t.vx, vxPsn := t.vxPsn } ∧ s.RegsKept t P ∧
  (∀ k, ¬(b ≤ k ∧ k < b + n) → storeGet 0 t.vx k = storeGet 0 s.vx k) ∧
  (∀ k, ¬(c ≤ k ∧ k < c + m) → storeGet false t.vxPsn k = storeGet false s.vxPsn k)

end Sys2Proof.Machine
end

