-- ==== Sys2Proof/WellFormed.lean ====
section
/-! DEFINITION. Which commands are well formed: every operand within the range that the manual gives it. The step
does not test it: a sender outside the manual's ranges is outside the manual. -/
namespace Sys2Proof

/-- A partition, P0 to P7. -/
def partWf (p : Nat) : Bool := decide (p < 8)
/-- A context: hosting entry 0 to 31 or command ring 32 to 35 (R184). -/
def ctxWf (c : Nat) : Bool := decide (c < 36)
/-- A sender: function 0 to 8, or 9 for an agent on the module (R458). -/
def senderWf (f : Nat) : Bool := decide (f < 10)
/-- A job slot. -/
def slotWf (j : Nat) : Bool := decide (j < 8)
/-- A fabric port. -/
def portWf (q : Nat) : Bool := decide (q < 24)
/-- An identifier of up to 20 bits: a module (R255, FAB_GID), a logical shard, an agent of a mailbox. -/
def gidWf (g : Nat) : Bool := decide (g < 2 ^ 20)
/-- Such identifiers. -/
def gidsWf (l : List Nat) : Bool := l.all gidWf
/-- A byte. -/
def byteWf (b : Nat) : Bool := decide (b < 256)
/-- Bytes. -/
def bytesWf (l : List Nat) : Bool := l.all byteWf
/-- Bytes as fetched over PCIe. -/
def fetchedWf : Option (List Nat) → Bool
  | none => true
  | some l => bytesWf l
/-- A vector engine of a partition. -/
def vxeWf (e : Nat) : Bool := decide (e < 2)
/-- A matrix engine of a partition. -/
def engineWf (e : Nat) : Bool := decide (e < 6)
/-- A 32-bit word. -/
def wordWf (v : Nat) : Bool := decide (v < 2 ^ 32)
/-- The number of an operation of a vector program. -/
def opNumberWf (n : Nat) : Bool := decide (n < 256)
/-- A power domain (Table 18.1). -/
def domainWf (d : Nat) : Bool := decide (d < 40)
/-- A lane: 16 times its port group plus its position. -/
def laneWf (x : Nat) : Bool := decide (x < 96)
/-- A lane position of a port. -/
def portLaneWf (x : Nat) : Bool := decide (x < 4)
/-- A port group of 16 lanes. -/
def groupWf (k : Nat) : Bool := decide (k < 6)
/-- A mask of 16 bits. -/
def lanesWf (m : Nat) : Bool := decide (m < 2 ^ 16)
/-- A register address: BAR0 below 0x10000000, BAR4 and sideband above. -/
def addrWf (a : Nat) : Bool := decide (a < 2 ^ 31) && decide (a % 4 = 0)
/-- A unit identifier (R40). -/
def unitWf (u : Nat) : Bool := decide (u < 2 ^ 16)
/-- Unit identifiers. -/
def unitsIdWf (l : List Nat) : Bool := l.all unitWf
/-- The 64 bytes of a unit, as one number. -/
def unitBytesWf (u : Nat) : Bool := decide (u < 2 ^ 512)
/-- The ten units of a codeword. -/
def unitsWf (l : List Nat) : Bool := decide (l.length = 10) && l.all unitBytesWf
/-- A partner's kept-lane mask, where it answers. -/
def partnerWf : Option Nat → Bool
  | none => true
  | some m => lanesWf m
/-- A handle of a long operation. -/
def handleWf (h : Nat) : Bool := decide (h < 2 ^ 32)
/-- Shares in percent by power domain. -/
def percentWf (l : List (Nat × Nat)) : Bool := l.all (fun c => domainWf c.1 && decide (c.2 ≤ 100))
/-- A dynamic or static I3C address of 7 bits. -/
def i3cWf (a : Nat) : Bool := decide (a < 128)
/-- A mask of partitions. -/
def maskWf (m : Nat) : Bool := decide (m < 256)
/-- A temperature in 1/16 °C, in 16 bits. -/
def tempWf (t : Nat) : Bool := decide (t < 2 ^ 16)
/-- A reading of one of the 64 sensors. -/
def readingsWf (l : List (Nat × Nat × Bool)) : Bool := l.all (fun c => decide (c.1 < 64) && tempWf c.2.1)
/-- A rail (Table 18.3). -/
def railWf (r : Nat) : Bool := decide (r < 32)
/-- Rails as measured. -/
def railsWf (l : List (Nat × Nat)) : Bool := l.all (fun c => railWf c.1)
/-- A minute of measurements: sensors, rails and lanes that exist. -/
def minuteWf (m : Minute) : Bool :=
  m.temps.all (fun c => decide (c.1 < 64)) && m.rails.all (fun c => railWf c.1) && m.lanes.all (fun c => laneWf c.1)
/-- How a read ends (R205): 2 corrected, 3 uncorrectable once, 4 uncorrectable twice; 0 and 1 clean. -/
def readEndWf (h : Nat) : Bool := decide (h < 5)
/-- What the surroundings do to a command: reads end as R205 says, parity masks cover 16 words. -/
def envWf (e : CmdEnv) : Bool := e.ecc.all (fun c => readEndWf c.2) && e.parity.all (fun c => lanesWf c.2.1)
/-- What a boot finds damaged: one of two firmware and state copies. -/
def bootWf (e : BootEnv) : Bool := e.fwBad.all (fun c => decide (c < 2)) && e.copyBad.all (fun c => decide (c < 2))
/-- A command ring of a partition. -/
def ringWf (m : Nat) : Bool := decide (m < 4)
/-- A reset with a bound: context, engine, partition or module. -/
def resetKindWf (k : Nat) : Bool := decide (k < 5)
/-- A Hasp stripe of a partition. -/
def stripeWf (n : Nat) : Bool := decide (n < 272)
/-- Credits of the four virtual channels. -/
def creditsWf (l : List Nat) : Bool := l.all wordWf
/-- A place of the collective engine. -/
def placeWf (n : Nat) : Bool := decide (n < 8)
/-- A 64-bit time or address. -/
def timeWf (t : Nat) : Bool := decide (t < 2 ^ 64)
/-- A key slot (R486). -/
def keyWf (k : Nat) : Bool := decide (k < 4)
/-- A tumbler of a partition. -/
def tumblerWf (n : Nat) : Bool := decide (n < 4096)
/-- A job scalar (R141). -/
def scalarWf (n : Nat) : Bool := decide (n < 32)
/-- A mailbox (R547). -/
def mailboxWf (n : Nat) : Bool := decide (n < 64)
/-- A counter of a partition or of the module (Tables 19.1 and 19.2). -/
def counterWf (n : Nat) : Bool := decide (n < 1024)
/-- A byte offset in BAR2. -/
def bar2Wf (x : Nat) : Bool := decide (x < 2 ^ 64)
/-- A pattern of the boundary-scan register. -/
def scanWf (v : Nat) : Bool := decide (v < 64)
/-- Cause of a PCIe conventional reset (R418). -/
def pcieCauseWf (h : Nat) : Bool := decide (h < 3)
/-- An MSI-X vector of a function (R482). -/
def vectorWf (v : Nat) : Bool := decide (v < 3)
/-- An image: its header, signature and section headers as long as R484 gives them, all of bytes. -/
def imageWf : Option Machine.Image → Bool
  | none => true
  | some i => decide (i.hdr.length = 128) && bytesWf i.hdr && decide (i.sig.length = 64) && bytesWf i.sig &&
      i.secs.all (fun s => decide (s.hdr.length = 16) && bytesWf s.hdr && bytesWf s.bytes)

/-- Well-formed commands. -/
def Instr.wf : Instr → Bool
  | .powerOn env => bootWf env
  | .undervoltage _ _ => true
  | .overvoltage _ _ => true
  | .undervoltageRecovery env => bootWf env
  | .overvoltageRecovery env => bootWf env
  | .uvWarning _ => true
  | .railOutOfRegulation r _ _ => railWf r
  | .pllLockLoss p => partWf p
  | .tempSensorSample rs => readingsWf rs
  | .thermTripNotRemoved => true
  | .stackTempSample p v => partWf p && tempWf v
  | .powerSample _ _ _ rails => railsWf rails
  | .throttleStep => true
  | .domainPrewake d => domainWf d
  | .domainA1Entry d => domainWf d
  | .domainA2Entry d => domainWf d
  | .partitionIdleA2 p => partWf p
  | .domainWakeTimeout d => domainWf d
  | .a3Enter f => senderWf f
  | .a3Exit f => senderWf f
  | .domainSleepRequest f d => senderWf f && domainWf d
  | .domainHoldAwake f d _ => senderWf f && domainWf d
  | .capWrite f w => senderWf f && wordWf w
  | .pwrCycleReqTimeout => true
  | .kprEscClearWrite f env => senderWf f && bootWf env
  | .cmdNop p ctx => partWf p && ctxWf ctx
  | .mxeAccumulate p ctx env => partWf p && ctxWf ctx && envWf env
  | .mxeFp32 p ctx env => partWf p && ctxWf ctx && envWf env
  | .mxePreload p ctx env => partWf p && ctxWf ctx && envWf env
  | .cmdVxe p ctx env => partWf p && ctxWf ctx && envWf env
  | .vxeGroupStart p _ => partWf p
  | .vxeOpMov p e n w => partWf p && vxeWf e && opNumberWf n && wordWf w
  | .vxeOpAdd p e n w => partWf p && vxeWf e && opNumberWf n && wordWf w
  | .vxeOpSub p e n w => partWf p && vxeWf e && opNumberWf n && wordWf w
  | .vxeOpMul p e n w => partWf p && vxeWf e && opNumberWf n && wordWf w
  | .vxeOpFma p e n w => partWf p && vxeWf e && opNumberWf n && wordWf w
  | .vxeOpMax p e n w => partWf p && vxeWf e && opNumberWf n && wordWf w
  | .vxeOpMin p e n w => partWf p && vxeWf e && opNumberWf n && wordWf w
  | .vxeOpAbs p e n w => partWf p && vxeWf e && opNumberWf n && wordWf w
  | .vxeOpNeg p e n w => partWf p && vxeWf e && opNumberWf n && wordWf w
  | .vxeOpSel p e n w => partWf p && vxeWf e && opNumberWf n && wordWf w
  | .vxeOpCmask p e n w => partWf p && vxeWf e && opNumberWf n && wordWf w
  | .vxeOpCvt p e n w => partWf p && vxeWf e && opNumberWf n && wordWf w
  | .vxeOpExp p e n w => partWf p && vxeWf e && opNumberWf n && wordWf w
  | .vxeOpExp2 p e n w => partWf p && vxeWf e && opNumberWf n && wordWf w
  | .vxeOpRcp p e n w => partWf p && vxeWf e && opNumberWf n && wordWf w
  | .vxeOpRsqrt p e n w => partWf p && vxeWf e && opNumberWf n && wordWf w
  | .vxeOpSqrt p e n w => partWf p && vxeWf e && opNumberWf n && wordWf w
  | .vxeOpLog p e n w => partWf p && vxeWf e && opNumberWf n && wordWf w
  | .vxeOpTanh p e n w => partWf p && vxeWf e && opNumberWf n && wordWf w
  | .vxeOpSigmoid p e n w => partWf p && vxeWf e && opNumberWf n && wordWf w
  | .vxeOpSilu p e n w => partWf p && vxeWf e && opNumberWf n && wordWf w
  | .vxeOpGelu p e n w => partWf p && vxeWf e && opNumberWf n && wordWf w
  | .vxeOpRowsum p e n w => partWf p && vxeWf e && opNumberWf n && wordWf w
  | .vxeOpRowmax p e n w => partWf p && vxeWf e && opNumberWf n && wordWf w
  | .vxeOpColsum p e n w => partWf p && vxeWf e && opNumberWf n && wordWf w
  | .vxeOpColmax p e n w => partWf p && vxeWf e && opNumberWf n && wordWf w
  | .vxeOpVsum p e n w => partWf p && vxeWf e && opNumberWf n && wordWf w
  | .vxeOpVmax p e n w => partWf p && vxeWf e && opNumberWf n && wordWf w
  | .vxeOpLdv p e n w => partWf p && vxeWf e && opNumberWf n && wordWf w
  | .vxeOpStv p e n w => partWf p && vxeWf e && opNumberWf n && wordWf w
  | .vxeOpSput p e n w => partWf p && vxeWf e && opNumberWf n && wordWf w
  | .updSgd p ctx env => partWf p && ctxWf ctx && envWf env
  | .updFactored p ctx env => partWf p && ctxWf ctx && envWf env
  | .updSampleCrosscheck p _ => partWf p
  | .cmdMove p ctx env => partWf p && ctxWf ctx && envWf env
  | .cmdSend p ctx env => partWf p && ctxWf ctx && envWf env
  | .collReduceScatter p ctx env => partWf p && ctxWf ctx && envWf env
  | .collAllGather p ctx env => partWf p && ctxWf ctx && envWf env
  | .collAllReduce p ctx env => partWf p && ctxWf ctx && envWf env
  | .collStageReady place => placeWf place
  | .moeDispatch p ctx env => partWf p && ctxWf ctx && envWf env
  | .moeCombine p ctx env => partWf p && ctxWf ctx && envWf env
  | .cmdStepEnd p ctx => partWf p && ctxWf ctx
  | .malformedDescriptorHalt p ctx => partWf p && ctxWf ctx
  | .commandComplete p ctx _ => partWf p && ctxWf ctx
  | .waitTimeout p ctx => partWf p && ctxWf ctx
  | .tmbValueWrite f p n v => senderWf f && partWf p && tumblerWf n && wordWf v
  | .ringDoorbell f p m v => senderWf f && partWf p && ringWf m && wordWf v
  | .ringEnable f p m => senderWf f && partWf p && ringWf m
  | .ringDisable f p m => senderWf f && partWf p && ringWf m
  | .jobScalarWrite f p n _ v => senderWf f && partWf p && scalarWf n && wordWf v
  | .updEtaWrite f p v => senderWf f && partWf p && wordWf v
  | .etaTimeout p => partWf p
  | .arrivalInstant j _ => slotWf j
  | .haspPhase1Complete j => slotWf j
  | .readyNotice src m => gidWf src && bytesWf m
  | .holdNotice src m => gidWf src && bytesWf m
  | .hingeRelease src m => gidWf src && bytesWf m
  | .stepStart j => slotWf j
  | .hingeTimeout j => slotWf j
  | .mtbfWrite f j v => senderWf f && slotWf j && wordWf v
  | .registerWrite f a v => senderWf f && addrWf a && wordWf v
  | .tableShadowWrite f a v => senderWf f && addrWf a && wordWf v
  | .tableSwapArm f v => senderWf f && wordWf v
  | .tableCopyComplete => true
  | .codewordReceive q lane _ _ seq cmask units => portWf q && portLaneWf lane && wordWf seq && lanesWf cmask && unitsWf units
  | .linkAck q seq => portWf q && wordWf seq
  | .linkNak q seq => portWf q && wordWf seq
  | .linkCredit q c => portWf q && creditsWf c
  | .linkTrain q u => portWf q && unitBytesWf u
  | .linkLane q mask => portWf q && lanesWf mask
  | .portTrainStart q kept partner => portWf q && lanesWf kept && partnerWf partner
  | .portTrainTimeout q => portWf q
  | .portTrainRetry q kept partner => portWf q && lanesWf kept && partnerWf partner
  | .portDown q reason => portWf q && byteWf reason
  | .dampHoldExpiry q kept partner => portWf q && lanesWf kept && partnerWf partner
  | .dampQuietExpiry q => portWf q
  | .flowSwitchHoldExpiry _ => true
  | .laneLockLoss x => laneWf x
  | .laneUeLimit x => laneWf x
  | .laneRetrainTimeout x => laneWf x
  | .laneRejoin x => laneWf x
  | .laneReadmit f k mask => senderWf f && groupWf k && lanesWf mask
  | .slotBoundary => true
  | .packetTransmit q _ => portWf q
  | .packetReceive q _ _ _ => portWf q
  | .gapTimeout _ => true
  | .timeExchangeStart q => portWf q
  | .timeReq q hops xseq t1 => portWf q && byteWf hops && byteWf xseq && timeWf t1
  | .timeResp q hops t1 t2 t3 => portWf q && byteWf hops && timeWf t1 && timeWf t2 && timeWf t3
  | .timeHoldoverExpiry => true
  | .satWindowEnd => true
  | .bchunk src m => gidWf src && bytesWf m
  | .bhb src m => gidWf src && bytesWf m
  | .bhbSend => true
  | .attach src m => gidWf src && bytesWf m
  | .attachAck src m => gidWf src && bytesWf m
  | .breq src m => gidWf src && bytesWf m
  | .bdone src m => gidWf src && bytesWf m
  | .bcastParentLost j handle => slotWf j && handleWf handle
  | .bcastChunkTimeout j handle _ => slotWf j && handleWf handle
  | .bcastChildLost j handle gid => slotWf j && handleWf handle && gidWf gid
  | .attachTimeout j handle => slotWf j && handleWf handle
  | .unaccountedTimeout j handle gid => slotWf j && handleWf handle && gidWf gid
  | .jobTreeAttachRetry j => slotWf j
  | .haspChunkTimeout j p stripe => slotWf j && partWf p && stripeWf stripe
  | .hreq src m => gidWf src && bytesWf m
  | .hsum src m => gidWf src && bytesWf m
  | .huse src m => gidWf src && bytesWf m
  | .hpick src m => gidWf src && bytesWf m
  | .hget src m => gidWf src && bytesWf m
  | .hfault src m => gidWf src && bytesWf m
  | .haspRebuildComplete j => slotWf j
  | .drainTimeout j => slotWf j
  | .ghbSend j => slotWf j
  | .ghb src m => gidWf src && bytesWf m
  | .ghbMiss j gid => slotWf j && gidWf gid
  | .rcut src m _ => gidWf src && bytesWf m
  | .recoveryHingeArrival j _ _ => slotWf j
  | .cutTimeout j => slotWf j
  | .replayRebuildComplete j lsid => slotWf j && gidWf lsid
  | .lreq src m => gidWf src && bytesWf m
  | .lnak src m => gidWf src && bytesWf m
  | .rcopy src m => gidWf src && bytesWf m
  | .fsync src m => gidWf src && bytesWf m
  | .replicaCopyComplete j lsid => slotWf j && gidWf lsid
  | .rabort src m => gidWf src && bytesWf m
  | .deadbolt src m => gidWf src && bytesWf m
  | .hello n => mailboxWf n
  | .errorRecordWrite => true
  | .d2dRetry unit _ mask prod => unitWf unit && lanesWf mask && unitWf prod
  | .migrationComplete p _ _ => partWf p
  | .exposureSample activity => percentWf activity
  | .twoKeyCheck p eng _ => partWf p && engineWf eng
  | .twoKeySiblingRepeat p eng _ => partWf p && engineWf eng
  | .twoKeyOutcome p eng => partWf p && engineWf eng
  | .scrubRead p _ how => partWf p && readEndWf how
  | .hangDetect u => unitWf u
  | .contextReset p ctx => partWf p && ctxWf ctx
  | .engineReset u => unitWf u
  | .engineSelfTestDone u _ => unitWf u
  | .partitionReset p => partWf p
  | .moduleReset env => bootWf env
  | .powerCycleRequest => true
  | .pcieConventionalReset how => pcieCauseWf how
  | .functionLevelReset f => senderWf f
  | .resetBoundExpiry kind p ctx unit => resetKindWf kind && partWf p && ctxWf ctx && unitWf unit
  | .ccHeartbeatSample p _ => partWf p
  | .keeperWatchdog => true
  | .watchdogBootTimeout => true
  | .lockstepMismatch => true
  | .clockFault => true
  | .i3cTargetFault => true
  | .rstReqContext f p ctx => senderWf f && partWf p && ctxWf ctx
  | .rstReqEngine f p eng _ => senderWf f && partWf p && byteWf eng
  | .rstReqPartition f p => senderWf f && partWf p
  | .rstReqModule f => senderWf f
  | .rstReqPowerCycle f => senderWf f
  | .errRingHeadWrite f v => senderWf f && wordWf v
  | .opminTick m => minuteWf m
  | .dayClose => true
  | .monthClose => true
  | .accumulatorCheckpoint => true
  | .recorderFlush _ => true
  | .stateCopyWrite => true
  | .opImageLoad f img => senderWf f && imageWf img
  | .imageLoadCommit => true
  | .imageLoadValidTimeout => true
  | .opImageUnload f => senderWf f
  | .opTableLoad f img _ => senderWf f && imageWf img
  | .opProgramLoad f prog => senderWf f && fetchedWf prog
  | .opBroadcast f => senderWf f
  | .opHaspDrain f _ => senderWf f
  | .opHaspRestore f => senderWf f
  | .opDurableRestore f _ => senderWf f
  | .opRehost f added _ => senderWf f && gidsWf added
  | .opSelfTest f fails => senderWf f && unitsIdWf fails
  | .opRecorderRead f _ _ => senderWf f
  | .uhsReadmit f => senderWf f
  | .uhsClearHealth f => senderWf f
  | .uhsClearCond f => senderWf f
  | .opAbort f => senderWf f
  | .opCompletionPost => true
  | .cqHeadWrite f v => senderWf f && wordWf v
  | .cqEnable f v => senderWf f && wordWf v
  | .hostHbmRead f x _ env => senderWf f && bar2Wf x && envWf env
  | .hostHbmWrite f x l _ => senderWf f && bar2Wf x && bytesWf l
  | .mbxSend n who _ _ l => mailboxWf n && gidWf who && bytesWf l
  | .mbxTake n who v => mailboxWf n && gidWf who && wordWf v
  | .remoteMailboxSend f v => senderWf f && wordWf v
  | .irqRaise f v => senderWf f && vectorWf v
  | .counterClear f p n => senderWf f && partWf p && counterWf n
  | .counterClearAll f p => senderWf f && partWf p
  | .traceArm f p => senderWf f && partWf p
  | .traceTrigger f p => senderWf f && partWf p
  | .tapExtest v => scanWf v
  | .tapSamplePreload v => scanWf v
  | .tapIdcode => true
  | .tapHighz => true
  | .tapClamp => true
  | .tapBypass => true
  | .dbgRegRead a => addrWf a
  | .dbgRegWrite a v env => addrWf a && wordWf v && bootWf env
  | .dbgHbmRead a _ => timeWf a
  | .dbgHbmWrite a v => timeWf a && unitBytesWf v
  | .dbgHalt halt resume => maskWf halt && maskWf resume
  | .sbImageRefresh => true
  | .sbPrivateWrite l _ env => bytesWf l && bootWf env
  | .sbAlertClear v => wordWf v
  | .sbGidWrite v => wordWf v
  | .sbFwDataWrite l => bytesWf l
  | .exitA3 => true
  | .escClear env => bootWf env
  | .sbModuleReset => true
  | .debugEnable => true
  | .debugDisable => true
  | .keyProvision k => keyWf k
  | .keyRevoke k => keyWf k
  | .fwBegin => true
  | .fwCommit env => bootWf env
  | .fwAbort => true
  | .cccEntdaa addr => i3cWf addr
  | .cccSetdasa st addr => i3cWf st && i3cWf addr
  | .cccSetnewda addr => i3cWf addr
  | .cccRstdaa => true
  | .cccEnec => true
  | .cccDisec => true
  | .cccGetpid => true
  | .cccGetbcr => true
  | .cccGetdcr => true
  | .cccGetstatus => true
  | .cccGetmwl => true
  | .cccGetmrl => true
  | .perstDeassert _ _ _ => true
  | .laneRetrainRetry x => laneWf x
  | .sbCommandEnd => true
  | .submitRefused f _ => senderWf f
  | .registerRead f a _ => senderWf f && addrWf a
  | .silenceReportRepeat j gid => slotWf j && gidWf gid
  | .tapTestLogicReset => true

end Sys2Proof
end

