-- ==== Sys2Proof/Certificates/Slice0/Obligations.lean ====
section
/-! DEFINITION. The statements for the provers. Each says of its commands that they answer a next state, what that state
holds, and what they leave alone; a value or a convention that the model chose is named with its log entry. -/

open Sys2Proof Sys2Proof.Machine

/-- A step takes the command at the front of the queue and answers what it does to the state with the rest of the queue. -/
def Obligations.StepRunsTheFrontCommand : Prop :=
  ∀ (s : State) (c : Instr) (cs : List Instr), s.pending = c :: cs → step s = exec c { s with pending := cs }

/-- An idle step, the model's own choice (log entry 8). Without input power nothing changes. With power, the fabric time advances as
a tick of `State.timeTick` says, and no command, byte of memory or queue entry changes. -/
def Obligations.IdleStepIsOneTick : Prop :=
  ∀ s : State, s.pending = [] →
    (s.boot = .off → step s = .next s) ∧
    (s.boot ≠ .off → Answers (step s) fun t => t.pending = [] ∧ t.ftime = s.timeTick.ftime ∧ t.boot = s.boot ∧
      (s.slew = 0 → t.ftime = (s.ftime + 1) % 2 ^ 64))

/-- The state in which the model starts: no input power (log entry 9), nothing waits, no byte is listed, every register at its
Default, and the invariant holds. -/
def Obligations.ResetMeetsTheInvariant : Prop :=
  State.reset.Inv ∧ State.reset.pending = [] ∧ State.reset.boot = .off ∧ (∀ a, State.reset.byte a = 0) ∧
    ∀ a, State.reset.reg a = wordDefault a

/-- Every step, of whatever command or of an idle module, keeps the invariant: memory and poison in their one canonical form,
each register word listed once, fabric time below 2^64 (R277), every counter below 2^48 (R528). -/
def Obligations.StepKeepsTheInvariant : Prop :=
  ∀ s s' : State, s.Inv → step s = .next s' → s'.Inv

/-- No command reads or writes the queue: a step of a module with commands waiting leaves exactly those behind the front one. -/
def Obligations.CommandsLeaveTheQueueAlone : Prop :=
  (∀ (c : Instr) (s t : State), exec c s = .next t → t.pending = s.pending) ∧
  ∀ (s s' : State) (c : Instr) (cs : List Instr), s.pending = c :: cs → step s = .next s' → s'.pending = cs

/-- No command is refused and none stops the machine, but for an input above 65 V where it has damaged the conversion stage: the
manual says that it can, and gives a damaged module no behaviour (`Config.damaged` is a free value, log entry 23). -/
def Obligations.OnlyOverstressStops : Prop :=
  ∀ (c : Instr) (s : State),
    (∃ t, exec c s = .next t) ∨ ∃ mv us, c = .overvoltage mv us ∧ 65000 < mv ∧ Config.damaged mv = true ∧ exec c s = .fault .inputOverstress

/-- POWER_ON. With a firmware copy that verifies, the boot ends with MOD_READY released and the boot phase of KPR_SB_STATE at
2. With none, MOD_READY stays asserted low, MOD_FAULT# is asserted and the boot ROM waits for a recovery (R516). Both forms of the
command are covered; the queue, what was sent before and the MRAM tiers of the recorder are not part of the effect. -/
def Obligations.PowerOnBoots : Prop :=
  ∀ (s : State) (env : BootEnv),
    let bad (c : Nat) : Bool := env.fwBad.contains c || storeGet false s.aon.fwBad c
    (bad 0 && bad 1 → Answers (exec (.powerOn env) s) fun t =>
      t.boot = .recovery ∧ t.pins.ready = false ∧ t.fld KPR_SB_STATE_READY = 0 ∧ t.fld KPR_SB_STATE_BOOT = 0 ∧
      t.fld KPR_SB_STATE_FAULT = 1 ∧ t.mem = [] ∧ t.inflight = []) ∧
    (!(bad 0 && bad 1) → Answers (exec (.powerOn env) s) fun t =>
      t.pins.ready = true ∧ t.fld KPR_SB_STATE_READY = 1 ∧ t.fld KPR_SB_STATE_BOOT = 2 ∧ t.fld ⟨KPR_SB_ALERT, 4, 1⟩ = 1)

/-- The rows of the 48 V input. UNDERVOLTAGE (below 38 V) and OVERVOLTAGE (above 61 V) leave every byte of memory zero, every
switched domain off, MOD_READY low, their flag in PWR_STATUS and the input alert. UV_WARNING (38 V to below 40 V) sets UV_SEEN and
the alert, releases PWR_CYCLE_REQ#, and leaves memory, work and every other register but the telemetry alone. The recoveries boot
the module, but leave it tripped or held where a trip or a hold stands (the precedence is DEDUCED, log entry 21). -/
def Obligations.InputFaultsShutDown : Prop :=
  (∀ (s : State) (mv us : Nat), s.boot ≠ .off → s.boot ≠ .undervolt → s.boot ≠ .overvolt → mv < 38000 →
    Answers (exec (.undervoltage mv us) s) fun t =>
      t.boot = .undervolt ∧ t.mem = [] ∧ t.inflight = [] ∧ t.pins.ready = false ∧ t.pins.pwrReq = false ∧
      (∀ d, d < 40 → t.domState d = 3) ∧ t.fld PWR_STATUS_UV_SEEN = 1 ∧ t.fld ⟨KPR_SB_ALERT, 7, 1⟩ = 1) ∧
  (∀ (s : State) (mv us : Nat), s.boot ≠ .off → s.boot ≠ .overvolt → 61000 < mv → (mv ≤ 65000 ∨ Config.damaged mv = false) →
    Answers (exec (.overvoltage mv us) s) fun t =>
      t.boot = .overvolt ∧ t.mem = [] ∧ t.inflight = [] ∧ t.pins.ready = false ∧ t.fld KPR_SB_STATE_FAULT = 1 ∧
      (∀ d, d < 40 → t.domState d = 3) ∧ t.fld PWR_STATUS_OV_SEEN = 1 ∧ t.fld ⟨KPR_SB_ALERT, 7, 1⟩ = 1) ∧
  (∀ (s : State) (mv : Nat), s.boot ≠ .off → 38000 ≤ mv → mv < 40000 →
    Answers (exec (.uvWarning mv) s) fun t =>
      t.fld PWR_STATUS_UV_SEEN = 1 ∧ t.fld PWR_VIN_VIN_MV = mv ∧ t.fld ⟨KPR_SB_ALERT, 7, 1⟩ = 1 ∧
      t.pins = { s.pins with pwrReq := false } ∧ t.bare = { s.bare with pins := t.pins, out := t.out } ∧
      s.RegsKept t (fun a => a ∈ [PWR_STATUS, PWR_VIN, KPR_SB_ALERT, KPR_SB_TELEM0, KPR_SB_TELEM1, KPR_SB_TELEM2])) ∧
  (∀ (s : State) (env : BootEnv), s.boot = .undervolt → s.pins.trip = true →
    exec (.undervoltageRecovery env) s = .next { s with boot := .tripped }) ∧
  (∀ (s : State) (env : BootEnv), s.boot = .undervolt → s.pins.trip = false → s.pins.fault &&& 3 = 0 →
    Answers (exec (.undervoltageRecovery env) s) fun t =>
      if (env.fwBad.contains 0 || storeGet false s.aon.fwBad 0) && (env.fwBad.contains 1 || storeGet false s.aon.fwBad 1) then
        t.boot = .recovery ∧ t.pins.ready = false
      else t.pins.ready = true ∧ t.fld KPR_SB_STATE_BOOT = 2) ∧
  (∀ (s : State) (env : BootEnv), s.boot = .overvolt → s.pins.trip = false → s.pins.fault &&& 3 = 0 →
    Answers (exec (.overvoltageRecovery env) s) fun t =>
      if (env.fwBad.contains 0 || storeGet false s.aon.fwBad 0) && (env.fwBad.contains 1 || storeGet false s.aon.fwBad 1) then
        t.boot = .recovery ∧ t.pins.ready = false
      else t.pins.ready = true ∧ t.fld KPR_SB_STATE_BOOT = 2)

/-- RAIL_OUT_OF_REGULATION, PLL_LOCK_LOSS and DOMAIN_WAKE_TIMEOUT. Each sets its flag and holds one POWER record for the error ring,
with all else as it was; then it takes the reset of the partition, or of the module where the rail or the domain is the hub's, as
`takePart` and `takeModule` do (RequestedResetsAreTaken says what those do). The trigger code of such a reset is a free value (log entry 21). -/
def Obligations.RailAndPllFaultsResetTheirPart : Prop :=
  (∀ (s : State) (r mv us : Nat), s.boot = .running → 0 < r → r < 32 → 10 ≤ us →
    (mv * 20 < s.fld (PWR_RAIL_SET_MV r) * 19 ∨ s.fld (PWR_RAIL_SET_MV r) * 21 < mv * 20) →
    ∃ u : State, ∃ d : ErrRec, u.fld PWR_STATUS_RAIL_FAULT = 1 ∧ u.fld (PWR_RAIL_MEAS_MV r) = min mv 65535 ∧
      u.detections = s.detections ++ [d] ∧ d.cls = 0x10 ∧ d.syndrome % 2 ^ 16 = 3 + 256 * r ∧ d.ftime = s.ftime ∧
      s.OnlyRegs u (fun a => a = PWR_STATUS ∨ a = (PWR_RAIL_MEAS_MV r).addr) ∧
      exec (.railOutOfRegulation r mv us) s = .next (if 27 ≤ r ∧ r ≤ 30 then u.takeModule (Config.powerTrigger 3).toNat
        else (railParts r).foldl (fun t p => t.takePart p (Config.powerTrigger 3).toNat) u)) ∧
  (∀ (s : State) (p : Nat), s.boot = .running → s.present p = true → bitAt (s.fld CLK_STATUS_PLL_LOCK) p = true →
    ∃ u : State, ∃ d : ErrRec, u.fld ⟨CLK_STATUS, 8 + p, 1⟩ = 0 ∧ u.fld CLK_STATUS_PLL_LOSS = 1 ∧
      u.detections = s.detections ++ [d] ∧ d.cls = 0x10 ∧ d.unit = unitId p 0x10 ∧ d.syndrome % 2 ^ 16 = 6 + 256 * p ∧
      s.OnlyRegs u (fun a => a = CLK_STATUS) ∧ exec (.pllLockLoss p) s = .next (u.takePart p (Config.powerTrigger 6).toNat)) ∧
  (∀ (s : State) (d : Nat), s.boot = .running → d < 40 → (s.domState d = 1 ∨ s.domState d = 2) →
    ∃ u : State, ∃ x : ErrRec, u.fld (PWR_DOM_FAIL_WAKE d) = 1 ∧ u.detections = s.detections ++ [x] ∧ x.cls = 0x10 ∧
      x.syndrome % 2 ^ 8 = 7 ∧ x.syndrome / 2 ^ 16 % 2 ^ 8 = d ∧ s.OnlyRegs u (fun a => a = PWR_DOM d) ∧
      exec (.domainWakeTimeout d) s = .next (if d < 32 then u.takePart (d / 4) (Config.powerTrigger 7).toNat
        else u.takeModule (Config.powerTrigger 7).toNat))

/-- The sampled rows. TEMP_SENSOR_SAMPLE stores every good reading of a sensor (from -40 to 150 degrees) and marks it valid, and
one that does not answer not valid; after it the module goes on or trips (`State.trip`). STACK_TEMP_SAMPLE stores the stack's temperature and its refresh band (R190), and changes no
other register but those of reports, no memory and no state. POWER_SAMPLE stores the voltage, the average of the last samples and
the static power. THERM_TRIP_NOT_REMOVED asserts MOD_FAULT# one second after a trip. -/
def Obligations.SensorAndPowerSamples : Prop :=
  (∀ (s : State) (x v : Nat), s.boot ≠ .off → x < 64 → v % 65536 ≤ 2400 →
    ∃ u : State, u.fld (PWR_TEMP_TEMP x) = v % 65536 ∧ u.fld (PWR_TEMP_VALID x) = 1 ∧ s.MemKept u ∧ u.inflight = s.inflight ∧
      (exec (.tempSensorSample [(x, v, true)]) s = .next u ∨ ∃ y l, exec (.tempSensorSample [(x, v, true)]) s = .next (u.trip y l))) ∧
  (∀ (s : State) (x v : Nat), s.boot ≠ .off → x < 64 →
    ∃ u : State, u.fld (PWR_TEMP_VALID x) = 0 ∧ s.MemKept u ∧ u.inflight = s.inflight ∧
      (exec (.tempSensorSample [(x, v, false)]) s = .next u ∨ ∃ y l, exec (.tempSensorSample [(x, v, false)]) s = .next (u.trip y l))) ∧
  (∀ (s : State) (p v : Nat), s.boot = .running → s.present p = true → s.domState (4 * p + 3) ≠ 3 →
    Answers (exec (.stackTempSample p v) s) fun t =>
      t.fld (MEM_STATUS_STACK_TEMP p) = (signedOf (v % 65536) 16 / 16 % 256).toNat ∧
      t.fld (MEM_STATUS_BAND p) = nextBand (s.fld (MEM_STATUS_BAND p)) (signedOf (v % 65536) 16) ∧
      s.OnlyRegs t (fun a => a = MEM_STATUS p)) ∧
  (∀ (s : State) (w vin static : Nat), s.boot ≠ .off → vin < 65536 → static < 65536 →
    Answers (exec (.powerSample w vin static []) s) fun t =>
      t.fld PWR_VIN_VIN_MV = vin ∧ t.fld PWR_STATIC_STATIC_W = static ∧ t.aon.pinAvg = (w :: s.aon.pinAvg).take 10 ∧
      t.fld PWR_VIN_PIN_W = min 65535 (t.aon.pinAvg.foldl (· + ·) 0 / t.aon.pinAvg.length) ∧
      t.boot = s.boot ∧ s.MemKept t ∧ t.inflight = s.inflight ∧ t.pins = s.pins) ∧
  (∀ s : State, s.boot = .tripped → s.aon.tripAt + 4000000000 ≤ s.ftime →
    Answers (exec .thermTripNotRemoved s) fun t =>
      t.fld KPR_SB_STATE_FAULT = 1 ∧ t.pins = { s.pins with fault := s.pins.fault ||| ftTrip } ∧
      t.bare = { s.bare with pins := t.pins } ∧ s.RegsKept t (fun a => a = KPR_SB_STATE))

/-- THROTTLE_STEP and CAP_WRITE. At a 100 microsecond boundary the duty of a die falls by one, but not below 1, while the power is
above the cap and the die runs work, rises by at most one otherwise, and CAP_THROTTLED is set while the power is above the cap. A
write of the cap by the physical function takes effect; no memory and no work changes. -/
def Obligations.DutyFollowsCapAndHeat : Prop :=
  (∀ (s : State) (die : Nat), s.boot = .running → die < 2 →
    Answers (exec .throttleStep s) fun t =>
      (s.capW < s.fld PWR_VIN_PIN_W →
        t.fld PWR_STATUS_CAP_THROTTLED = 1 ∧
        storeGet 16 t.capDuty die =
          (if s.dieBusy die then max 1 (storeGet 16 s.capDuty die - 1) else storeGet 16 s.capDuty die)) ∧
      (s.fld PWR_VIN_PIN_W ≤ s.capW →
        storeGet 16 s.capDuty die ≤ storeGet 16 t.capDuty die ∧ storeGet 16 t.capDuty die ≤ storeGet 16 s.capDuty die + 1) ∧
      s.MemKept t ∧ t.inflight = s.inflight ∧ t.boot = s.boot) ∧
  (∀ (s : State) (w : Nat), s.boot = .running →
    Answers (exec (.capWrite 0 w) s) fun t =>
      t.fld PWR_CAP_CAP_W = w % 2 ^ PWR_CAP_CAP_W.w ∧ s.MemKept t ∧ t.inflight = s.inflight ∧ t.boot = s.boot)

/-- The rows of power domains. Each writes PWR_DOM of the domain it names and PLL_LOCK of CLK_STATUS (R512), and leaves memory,
poison, work and every other register alone (events of counters apart). A1 and A2 entries, wakes, sleep requests and
HOLD_AWAKE reach the state that the manual gives, under its conditions as `domInUse`, `domNeed` and `vsKept` state them. A3 entry and
exit of the module are the last two clauses: A3 is refused, with REFUSED set, while a job is loaded or an operation open. -/
def Obligations.PowerDomainsChangeState : Prop :=
  (∀ (s : State) (d o : Nat), s.camRuns (d / 4) = true → d < 32 → (s.domState d = 1 ∨ s.domState d = 2) →
    s.domNeed (d / 4) d = some o →
    o ≤ s.stepCycles (d / 4) + (if s.domState d = 1 then s.fld (CAM_WAKE_CFG0_A1_LEAD (d / 4)) else s.fld (CAM_WAKE_CFG1_A2_LEAD (d / 4))) →
    Answers (exec (.domainPrewake d) s) fun t => t.domState d = 0 ∧ s.OnlyRegs t (fun a => a = PWR_DOM d ∨ a = CLK_STATUS)) ∧
  (∀ (s : State) (d : Nat), s.camRuns (d / 4) = true → d < 32 → d % 4 ≠ 3 → s.domState d = 0 → s.flag (PWR_DOM_HOLD_AWAKE d) = false →
    s.domInUse d = false →
    (match s.domNeed (d / 4) d with
      | some o => s.stepCycles (d / 4) + s.fld (CAM_WAKE_CFG0_A1_IDLE (d / 4)) < o
      | none => True) →
    Answers (exec (.domainA1Entry d) s) fun t => t.domState d = 1 ∧ s.OnlyRegs t (fun a => a = PWR_DOM d ∨ a = CLK_STATUS)) ∧
  (∀ (s : State) (d o : Nat), s.camRuns (d / 4) = true → d < 32 → s.domState d < 2 → s.flag (PWR_DOM_HOLD_AWAKE d) = false →
    s.domInUse d = false → (d % 4 = 1 → s.vsKept (d / 4) = false) → s.domNeed (d / 4) d = some o →
    s.stepCycles (d / 4) + s.fld (CAM_WAKE_CFG2_A2_IDLE (d / 4)) ≤ o →
    Answers (exec (.domainA2Entry d) s) fun t => t.domState d = 2 ∧ s.OnlyRegs t (fun a => a = PWR_DOM d ∨ a = CLK_STATUS)) ∧
  (∀ (s : State) (p : Nat), s.boot = .running → s.present p = true → storeGet 0 s.owner p = 0 → s.partInReset p = false →
    s.vsKept p = false → (∀ i ∈ s.inflight, i.part = p → i.done = true) →
    Answers (exec (.partitionIdleA2 p) s) fun t =>
      (∀ k, k < 4 → s.flag (PWR_DOM_HOLD_AWAKE (4 * p + k)) = false → 2 ≤ t.domState (4 * p + k)) ∧
      s.OnlyRegs t (fun a => (∃ k, k < 4 ∧ a = PWR_DOM (4 * p + k)) ∨ a = CLK_STATUS)) ∧
  (∀ (s : State) (d : Nat), s.boot = .running → d < 32 → s.domState d ≠ 3 → s.flag (PWR_DOM_HOLD_AWAKE d) = false →
    s.domInUse d = false → storeGet 0 s.owner (d / 4) = 0 → (d % 4 = 1 → s.vsKept (d / 4) = false) →
    Answers (exec (.domainSleepRequest 0 d) s) fun t => t.domState d = 2 ∧ s.OnlyRegs t (fun a => a = PWR_DOM d ∨ a = CLK_STATUS)) ∧
  (∀ (s : State) (d : Nat) (hold : Bool), s.boot = .running → d < 40 →
    Answers (exec (.domainHoldAwake 0 d hold) s) fun t =>
      t.fld (PWR_DOM_HOLD_AWAKE d) = (if hold then 1 else 0) ∧
      (hold = true → s.domState d ≠ 3 → t.domState d = 0) ∧ s.OnlyRegs t (fun a => a = PWR_DOM d ∨ a = CLK_STATUS)) ∧
  (∀ s : State, s.boot = .running → s.flag PWR_STATUS_A3 = false → s.anyLoaded = false → s.ops = [] → s.loads = [] →
    Answers (exec (.a3Enter 0) s) fun t =>
      t.fld PWR_STATUS_A3 = 1 ∧ t.mem = [] ∧ (∀ d, d < 39 → t.domState d = 3) ∧ t.inflight = [] ∧
      t.boot = .running ∧ t.uhs = s.uhs ∧ t.recent = s.recent) ∧
  (∀ s : State, s.boot = .running → s.flag PWR_STATUS_A3 = false → s.anyLoaded = true →
    Answers (exec (.a3Enter 0) s) fun t => t.fld PWR_A3_REFUSED = 1 ∧ s.OnlyRegs t (fun a => a = PWR_A3)) ∧
  (∀ s : State, s.boot = .running → s.flag PWR_STATUS_A3 = true →
    Answers (exec (.a3Exit 0) s) fun t => t.fld PWR_STATUS_A3 = 0 ∧ t.boot = .running)

/-- The five rows of KPR_RST_REQ, written by the physical function (0). Where no running reset covers the target and the ladder does
not replace the reset by the next step, the reset is taken: it joins the running ones with trigger 8, KPR_RST_STATUS shows busy, and
KPR_RST_LAST0 its scope and trigger. An engine is taken offline; a partition reset goes on to the context resets of step 1, and a module
reset leaves the module resetting. A request for a target that does not exist sets REQ_REJECT. A reset that is taken has its effect by
the rows of ResetsRunToTheirEnd. -/
def Obligations.RequestedResetsAreTaken : Prop :=
  (∀ (s : State) (p ctx : Nat), s.boot = .running → s.present p = true → ctx < 36 → s.fld (RCV_HEALTH_PART p) ≠ 3 →
    (∀ r ∈ s.rstRun, s.rstCovers r 0 (unitId p 0x11) ctx = false) →
    Answers (exec (.rstReqContext 0 p ctx) s) fun t =>
      t.rstRun = s.rstRun ++ [⟨0, unitId p 0x11, ctx, 8, s.ftime⟩] ∧
      t.rstLog = s.rstLog ++ [⟨0, rstTarget 0 (unitId p 0x11) ctx, s.opmin⟩] ∧
      t.fld KPR_RST_STATUS_BUSY = 1 ∧ t.fld KPR_RST_LAST0_SCOPE = 0 ∧ t.fld KPR_RST_LAST0_TRIGGER = 8 ∧
      t.fld KPR_RST_LAST1_UNIT = unitId p 0x11 ∧ t.fld KPR_RST_LAST1_CONTEXT = ctx ∧
      t.bare = { s.bare with rstRun := t.rstRun, rstLog := t.rstLog } ∧
      s.RegsKept t (fun a => a ∈ [KPR_RST_REQ, KPR_RST_LAST0, KPR_RST_LAST1, KPR_RST_LAST2, KPR_RST_LAST3, KPR_RST_STATUS])) ∧
  (∀ (s : State) (p i : Nat), s.boot = .running → s.present p = true → engineIdx i = true → s.fld (RCV_HEALTH_PART p) ≠ 3 →
    (∀ r ∈ s.rstRun, s.rstCovers r 1 (unitId p i) 0x3F = false) → s.rstCount 1 (unitId p i) < s.fld KPR_ESC_CFG_ENG_RST_MAX →
    Answers (exec (.rstReqEngine 0 p i false) s) fun t =>
      (⟨1, unitId p i, 0x3F, 8, s.ftime⟩ : RstRun) ∈ t.rstRun ∧ storeGet false t.resetting (unitId p i) = true ∧
      (i < 6 → t.fld ⟨MXE_ENG_ONLINE p, i, 1⟩ = 0) ∧ (i = 8 ∨ i = 9 → t.fld ⟨VXE_ENG_ONLINE p, i - 8, 1⟩ = 0) ∧
      t.fld KPR_RST_STATUS_BUSY = 1 ∧ t.fld KPR_RST_LAST0_SCOPE = 1 ∧ s.MemKept t ∧ t.inflight = s.inflight) ∧
  (∀ (s : State) (p : Nat), s.boot = .running → s.present p = true → s.fld (RCV_HEALTH_PART p) ≠ 3 →
    (∀ r ∈ s.rstRun, s.rstCovers r 2 (unitId p 0x10) 0x3F = false) →
    s.rstCount 2 (unitId p 0x10) < s.fld KPR_ESC_CFG_PART_RST_MAX →
    ∃ u : State, (⟨2, unitId p 0x10, 0x3F, 8, s.ftime⟩ : RstRun) ∈ u.rstRun ∧ u.fld KPR_RST_STATUS_BUSY = 1 ∧
      u.fld KPR_RST_LAST0_SCOPE = 2 ∧ s.MemKept u ∧ u.inflight = s.inflight ∧
      exec (.rstReqPartition 0 p) s = .next ((u.ctxResetAll p).setFld ⟨DBG_GSTATUS, 24 + p, 1⟩ 0)) ∧
  (∀ s : State, s.boot = .running → (∀ r ∈ s.rstRun, r.kind < 3) → s.rstCount 3 0 < s.fld KPR_ESC_CFG_MOD_RST_MAX →
    ∃ u : State, u.rstRun = [⟨3, 0, 0x3F, 8, s.ftime⟩] ∧ u.fld KPR_RST_STATUS_BUSY = 1 ∧ u.fld KPR_RST_LAST0_SCOPE = 3 ∧
      s.MemKept u ∧ exec (.rstReqModule 0) s = .next { u.moduleDown with boot := .resetting }) ∧
  (∀ s : State, s.boot = .running → (∀ r ∈ s.rstRun, r.kind < 4) →
    Answers (exec (.rstReqPowerCycle 0) s) fun t =>
      t.rstRun = [⟨4, 0, 0x3F, 8, s.ftime⟩] ∧ t.rstLog = s.rstLog ∧ t.fld KPR_RST_STATUS_BUSY = 1 ∧
      t.fld KPR_RST_STATUS_ACTIVE_SCOPE = 4 ∧ s.MemKept t ∧ t.inflight = s.inflight ∧ t.pins = s.pins) ∧
  (∀ (s : State) (p ctx : Nat), s.boot = .running → (s.present p = false ∨ 36 ≤ ctx) →
    Answers (exec (.rstReqContext 0 p ctx) s) fun t =>
      t.fld KPR_RST_STATUS_REQ_REJECT = 1 ∧ s.OnlyRegs t (fun a => a = KPR_RST_REQ ∨ a = KPR_RST_STATUS))

/-- The rows by which a reset that has been taken does its work. A context reset discards the context's work and ends the run. An
engine reset clears the unit; its self-test ends the run and brings the unit back, or retires it when it fails. A partition reset leaves
the partition's domains in A0 and ends its run, and its tile store reads zero. A module reset boots the module again. A power cycle
asserts PWR_CYCLE_REQ#, or beyond PWR_CYCLE_MAX holds the module. A conventional PCIe reset is logged and counted and leaves jobs, memory
and work alone. -/
def Obligations.ResetsRunToTheirEnd : Prop :=
  (∀ (s : State) (p ctx : Nat) (r : RstRun), s.rstOf 0 (unitId p 0x11) ctx = some r →
    exec (.contextReset p ctx) s = .next ((s.ctxReset p ctx).rstEnd r 0) ∧
    Answers (exec (.contextReset p ctx) s) fun t => ∀ x ∈ t.inflight, ¬(x.part = p ∧ x.ctx = ctx)) ∧
  (∀ (s : State) (p e : Nat) (r : RstRun), p < 8 → e < 2 → s.rstOf 1 (unitId p (8 + e)) 0x3F = some r →
    Answers (exec (.engineReset (unitId p (8 + e))) s) fun t =>
      storeGet none t.vxEng (2 * p + e) = none ∧ ∀ k < 4, ∀ x < 16384, storeGet 0 t.vx (vtKey p e k + x) = 0) ∧
  (∀ (s : State) (u : Nat) (r : RstRun), s.rstOf 1 u 0x3F = some r → (s.hist u).state ≠ 1 →
    Answers (exec (.engineSelfTestDone u true) s) fun t =>
      t.rstRun = s.rstRun.erase r ∧ storeGet false t.resetting u = false ∧
      (unitDie u ≠ 0 → unitIdx u < 6 → t.fld ⟨MXE_ENG_ONLINE (unitPart u), unitIdx u, 1⟩ = 1) ∧
      s.MemKept t ∧ t.inflight = s.inflight) ∧
  (∀ (s : State) (p : Nat) (r : RstRun), p < 8 → s.rstOf 2 (unitId p 0x10) 0x3F = some r →
    exec (.partitionReset p) s = .next ((s.partReset p).rstEnd r 0) ∧
    Answers (exec (.partitionReset p) s) fun t => (∀ k, k < 4 → t.domState (4 * p + k) = 0) ∧
      (∀ o, o < 64 * 0xC0000 → t.byte (64 * tsDatum p 0 + o) = 0) ∧
      ∀ k, k < 2048 → storeGet 0 t.shardS (2048 * p + k) = 0) ∧
  (∀ (s : State) (env : BootEnv), s.boot = .resetting →
    exec (.moduleReset env) s = .next (s.moduleClear.moduleBoot 3 env) ∧
    Answers (exec (.moduleReset env) s) fun t =>
      ((!((env.fwBad.contains 0 || storeGet false s.aon.fwBad 0) && (env.fwBad.contains 1 || storeGet false s.aon.fwBad 1))) = true →
        t.pins.ready = true ∧ t.fld KPR_SB_STATE_BOOT = 2)) ∧
  (∀ (s : State) (r : RstRun), s.rstRun.find? (fun r => r.kind == 4) = some r → s.pins.pwrReq = false → s.boot ≠ .held →
    s.rstCount 4 0 < s.fld KPR_ESC_CFG_PWR_CYCLE_MAX →
    Answers (exec .powerCycleRequest s) fun t => t.pins.pwrReq = true ∧ t.aon.bootCause = 1) ∧
  (∀ (s : State) (how : Nat), s.boot = .running → (∀ r ∈ s.rstRun, r.kind < 3) → 0 < how →
    Answers (exec (.pcieConventionalReset how) s) fun t =>
      t.rstLog = s.rstLog ++ [⟨5, 0, s.opmin⟩] ∧ t.fld KPR_RST_LAST0_SCOPE = 5 ∧ t.irqPend = [] ∧ t.cqLap = [] ∧
      t.boot = s.boot ∧ s.MemKept t ∧ t.inflight = s.inflight ∧ t.jobs = s.jobs ∧ t.owner = s.owner ∧ t.pins = s.pins)

/-- The rows of detected faults. A beat of a control core clears its misses; a miss below CC_MISS is only counted, and the last one
takes an engine reset of the core with trigger 4. The Keeper's watchdog, a lockstep mismatch and a clock fault take a module reset with
triggers 5, 6 and 7. A fault of the I3C target resets that target alone. A hang takes a context reset with trigger 1, and a reset that
exceeds its bound takes the next step with trigger 2. Two seconds without an answer to PWR_CYCLE_REQ# hold the module (R22); CLEAR by the
physical function forgets counts and request. -/
def Obligations.FaultsOfTheControlPathTakeResets : Prop :=
  (∀ (s : State) (u : Nat) (c : Nat × Nat) (l : List (Nat × Nat)), s.unitCtxs u = c :: l →
    exec (.hangDetect u) s = .next (s.takeCtx c.1 c.2 1)) ∧
  (∀ (s : State) (p beats : Nat), s.boot = .running → s.present p = true → s.fld (RCV_HEALTH_PART p) ≠ 3 →
    s.domState (4 * p + 1) < 2 → s.partInReset p = false → s.rstOf 1 (unitId p 0x10) 0x3F = none →
    bitAt (s.fld DBG_GSTATUS_HALTED) p = false →
    (beats ≠ 0 → Answers (exec (.ccHeartbeatSample p beats) s) fun t =>
      t.fld (KPR_CC_HB_BEAT p) = (s.fld (KPR_CC_HB_BEAT p) + beats) % 2 ^ (KPR_CC_HB_BEAT p).w ∧
      t.fld ⟨KPR_HB_STATUS, p, 1⟩ = 0 ∧ storeGet 0 t.aon.ccMiss p = 0 ∧
      t.bare = { s.bare with aon := t.aon } ∧ s.RegsKept t (fun a => a = (KPR_CC_HB_BEAT p).addr ∨ a = KPR_HB_STATUS)) ∧
    (beats = 0 → storeGet 0 s.aon.ccMiss p + 1 < max 1 (s.fld KPR_HB_CFG_CC_MISS) →
      Answers (exec (.ccHeartbeatSample p beats) s) fun t =>
        storeGet 0 t.aon.ccMiss p = storeGet 0 s.aon.ccMiss p + 1 ∧ t.fld ⟨KPR_HB_STATUS, p, 1⟩ = 1 ∧
        storeGet 0 t.cnt (gcntKey 0x246) = cntAdd false (storeGet 0 s.cnt (gcntKey 0x246)) 1 ∧
        t.rstRun = s.rstRun ∧ t.bare = { s.bare with aon := t.aon }) ∧
    (beats = 0 → max 1 (s.fld KPR_HB_CFG_CC_MISS) ≤ storeGet 0 s.aon.ccMiss p + 1 → storeGet 0 s.aon.ccWait p = 0 →
      ∃ u : State, u.fld KPR_HB_STATUS_CC_MISS_SEEN = 1 ∧ storeGet 0 u.aon.ccMiss p = 0 ∧ s.MemKept u ∧ u.inflight = s.inflight ∧
        exec (.ccHeartbeatSample p beats) s = .next (u.takeEngine (unitId p 0x10) 4))) ∧
  (∀ s : State, s.boot = .running →
    (∃ u : State, u.fld KPR_HB_STATUS_KPR_MISS_SEEN = 1 ∧ s.OnlyRegs u (fun a => a = KPR_HB_STATUS) ∧
      exec .keeperWatchdog s = .next (u.takeModule 5)) ∧
    (∃ u : State, s.OnlyRegs u (fun _ => False) ∧ u.detections.length = s.detections.length + 1 ∧
      exec .lockstepMismatch s = .next (u.takeModule 6)) ∧
    (∃ u : State, s.OnlyRegs u (fun _ => False) ∧ u.detections.length = s.detections.length + 1 ∧
      exec .clockFault s = .next (u.takeModule 7))) ∧
  (∀ s : State, s.boot ≠ .off → Answers (exec .i3cTargetFault s) fun t =>
    t.ibiEn = false ∧ t.i3cAddr = 0 ∧ t.i3cPtr = 0 ∧ s.RegsKept t (fun _ => False) ∧
    t.bare = { s.bare with ibiEn := false, i3cAddr := 0, i3cPtr := 0 }) ∧
  (∀ s : State, s.boot = .resetting → exec .watchdogBootTimeout s = .next (s.takePower 5).powerCycle) ∧
  (∀ (s : State) (p ctx unit : Nat) (r : RstRun), s.rstOf 0 (unitId p 0x11) ctx = some r →
    exec (.resetBoundExpiry 0 p ctx unit) s = .next (((s.ctxReset p ctx).rstEnd r 1).takeEngine unit 2)) ∧
  (∀ (s : State) (p ctx unit : Nat) (r : RstRun), s.rstOf 1 unit 0x3F = some r →
    exec (.resetBoundExpiry 1 p ctx unit) s = .next (if unitDie unit = 0 then ((s.clearEngine unit).rstEnd r 1).takeModule 2
      else ((s.clearEngine unit).rstEnd r 1).takePart (unitPart unit) 2)) ∧
  (∀ (s : State) (p ctx unit : Nat) (r : RstRun), s.rstOf 2 (unitId p 0x10) 0x3F = some r →
    exec (.resetBoundExpiry 2 p ctx unit) s = .next (((s.partReset p).rstEnd r 1).takeModule 2)) ∧
  (∀ (s : State) (p ctx unit : Nat) (r : RstRun), s.rstOf 3 0 0x3F = some r →
    exec (.resetBoundExpiry 3 p ctx unit) s = .next ((s.rstEnd r 1).takePower 2)) ∧
  (∀ s : State, s.pins.pwrReq = true → s.boot ≠ .held → Answers (exec .pwrCycleReqTimeout s) fun t =>
    t.boot = .held ∧ t.fld KPR_SB_STATE_FAULT = 1 ∧ t.fld ⟨KPR_SB_ALERT, 8, 1⟩ = 1 ∧ t.inflight = []) ∧
  (∀ (s : State) (env : BootEnv), s.boot ≠ .off → s.boot ≠ .held → Answers (exec (.kprEscClearWrite 0 env) s) fun t =>
    t.pins.pwrReq = false ∧ t.rstLog = [] ∧ t.fld KPR_ESC_COUNT_HELD = 0 ∧ t.fld KPR_SB_STATE_ESC_HELD = 0 ∧ t.boot = s.boot ∧
    s.MemKept t ∧ t.inflight = s.inflight)

/-- The rows of the command classes, for a context that issues now. The context's position moves past the command (past both of a
stream pair), its slip is accounted, and the class's effect is what the named operation makes of that state: bumps for a NOP, the tiles and
the vector command of a stream pair, the preload, the update, the move, the packets of a SEND, the stages of a collective, the rows of a
mixture-of-experts layer, the vector command, the end of the step. MXE rows need an engine that is online (R106). -/
def Obligations.ClassRowsIssue : Prop :=
  ∀ (s : State) (p ctx : Nat) (env : CmdEnv),
    let d := s.descAt p ctx (s.ctxPos p ctx)
    let u := s.issuedAt p ctx 1 (s.effOffset p ctx d)
    let u2 := s.issuedAt p ctx 2 (max (s.effOffset p ctx d) (s.effOffset p ctx (s.descAt p ctx (s.ctxPos p ctx + 1))))
    let c := s.nextCmd p ctx
    (s.Issues p ctx (fun d => dClass d == 0) →
      exec (.cmdNop p ctx) s = .next ((u.applySig p ctx (dSig d 0)).applySig p ctx (dSig d 1))) ∧
    (s.IssuesPair p ctx (fun d => dClass d == 1 && mxMode d == 0 && !(s.mxEngines p d).isEmpty) →
      exec (.mxeAccumulate p ctx env) s = .next (u2.mxRun c env)) ∧
    (s.IssuesPair p ctx (fun d => dClass d == 1 && mxMode d == 1 && !(s.mxEngines p d).isEmpty) →
      exec (.mxeFp32 p ctx env) s = .next (u2.mxRun c env)) ∧
    (s.Issues p ctx (fun d => dClass d == 1 && dOp d 6 2 == 2) → u.flag (MXE_CFG_PRELOAD_EN p) = false →
      exec (.mxePreload p ctx env) s = .next ((u.applySig p ctx (dSig d 0)).applySig p ctx (dSig d 1))) ∧
    (s.Issues p ctx (fun d => dClass d == 1 && dOp d 6 2 == 2) → u.flag (MXE_CFG_PRELOAD_EN p) = true → env = {} →
      let a := mxWaddr d
      let h := u.cmdNat p ctx a 0 64
      ∀ k, headerUnits h = some k → recFmt h = mxWfmt d → recBlk h = mxWblk d →
        (∀ i, i < k → (∃ m, u.locate p ctx ((a + i) % 2 ^ 32) = .at m) ∧ u.cmdPsn p ctx (a + i) = false) →
        Answers (exec (.mxePreload p ctx env) s) fun t => ∀ e ∈ u.mxEngines p d,
          storeGet none t.preload (8 * p + e) = some ⟨ctx, a, u.cmdNat p ctx a 0 (64 * k), false, false⟩) ∧
    (s.Issues p ctx (fun d => dClass d == 2 && !isStream d) →
      Answers (exec (.cmdVxe p ctx env) s) fun t => ∃ v ∈ t.vxCmds, v.part = p ∧ v.ctx = ctx ∧ v.desc = d ∧
        v.tiles.length = dOp d 16 8 ∧ v.next = 0) ∧
    (s.Issues p ctx (fun d => dClass d == 3 && !upFactored d) → exec (.updSgd p ctx env) s = .next (u.upRun c env)) ∧
    (s.Issues p ctx (fun d => dClass d == 3 && upFactored d) → exec (.updFactored p ctx env) s = .next (u.upRun c env)) ∧
    (s.Issues p ctx (fun d => dClass d == 4) → exec (.cmdMove p ctx env) s = .next (u.mvRun c env)) ∧
    (s.Issues p ctx (fun d => dClass d == 5) → exec (.cmdSend p ctx env) s = .next (u.sendRun c env)) ∧
    (s.Issues p ctx (fun d => dClass d == 6 && clOp d == 0) → exec (.collReduceScatter p ctx env) s = .next (u.colRun c env)) ∧
    (s.Issues p ctx (fun d => dClass d == 6 && clOp d == 1) → exec (.collAllGather p ctx env) s = .next (u.colRun c env)) ∧
    (s.Issues p ctx (fun d => dClass d == 6 && clOp d == 2) → exec (.collAllReduce p ctx env) s = .next (u.colRun c env)) ∧
    (s.Issues p ctx (fun d => dClass d == 8 && dOp d 0 1 == 0) → exec (.moeDispatch p ctx env) s = .next (u.moeDispatch c env)) ∧
    (s.Issues p ctx (fun d => dClass d == 8 && dOp d 0 1 == 1) → exec (.moeCombine p ctx env) s = .next (u.moeCombine c env))

/-- The state in which an issuing command starts: the position of its context, or the head of its ring, has moved by the number of
commands that issue together, modulo the field's width; an entry's first hold record of the command is gone; no command in flight, queue of
packets, tile register or step count of any tumbler changes. -/
def Obligations.IssueMovesTheContextOn : Prop :=
  ∀ (s : State) (p ctx n eff : Nat), p < 8 → ctx < 36 →
    let t := s.issuedAt p ctx n eff
    t.ctxPos p ctx = (s.ctxPos p ctx + n) % (if isRing ctx then 2 ^ 16 else 2 ^ 24) ∧
    t.inflight = s.inflight ∧ t.txq = s.txq ∧ t.vx = s.vx ∧ t.vxCmds = s.vxCmds ∧ t.poison = s.poison ∧
    (∀ q c, (q ≠ p ∨ c ≠ ctx) → c < 36 → q < 8 → t.ctxPos q c = s.ctxPos q c) ∧
    (∀ q m, q < 8 → m < 4096 → t.stepCount q m = s.stepCount q m) ∧
    (isRing ctx = false → s.fld (CAM_HOST_W0_STATE p ctx) ≠ 3 → ∀ h ∈ t.holds, ¬(h.part = p ∧ h.ctx = ctx ∧ h.idx = s.ctxPos p ctx))

/-- For every row that issues one command of a class. Nothing happens while the context may not issue, while its next command is of another class or
malformed (MALFORMED_DESCRIPTOR_HALT takes that one), or while it is not due. A hold of a due command is noted and changes nothing else. A
fetch that is poisoned kills the context (R390). -/
def Obligations.CommandsThatDoNotIssue : Prop :=
  ∀ (s : State) (p ctx : Nat) (env : CmdEnv),
    let i := s.ctxPos p ctx
    let d := s.descAt p ctx i
    ∀ x ∈ ([(.cmdNop p ctx, fun d => dClass d == 0), (.cmdVxe p ctx env, fun d => dClass d == 2 && !isStream d),
        (.mxePreload p ctx env, fun d => dClass d == 1 && dOp d 6 2 == 2),
        (.updSgd p ctx env, fun d => dClass d == 3 && !upFactored d), (.updFactored p ctx env, fun d => dClass d == 3 && upFactored d),
        (.cmdMove p ctx env, fun d => dClass d == 4), (.cmdSend p ctx env, fun d => dClass d == 5),
        (.collReduceScatter p ctx env, fun d => dClass d == 6 && clOp d == 0),
        (.collAllGather p ctx env, fun d => dClass d == 6 && clOp d == 1),
        (.collAllReduce p ctx env, fun d => dClass d == 6 && clOp d == 2),
        (.moeDispatch p ctx env, fun d => dClass d == 8 && dOp d 0 1 == 0),
        (.moeCombine p ctx env, fun d => dClass d == 8 && dOp d 0 1 == 1)] : List (Instr × (Nat → Bool))),
      (s.ctxReady p ctx = false → exec x.1 s = .next s) ∧
      (s.ctxReady p ctx = true → s.fetchPsn p ctx i = true → exec x.1 s = .next (s.fetchKill p ctx)) ∧
      (s.ctxReady p ctx = true → s.fetchPsn p ctx i = false →
        (x.2 d = false ∨ s.reasonAt p ctx i ≠ 0 ∨ s.isDue p ctx d = false → exec x.1 s = .next s) ∧
        (x.2 d = true → s.reasonAt p ctx i = 0 → s.isDue p ctx d = true → ∀ h, s.holdCause p ctx d = some h →
          Answers (exec x.1 s) fun t => t = { s with holds := t.holds } ∧
            ∃ k ∈ t.holds, k.part = p ∧ k.ctx = ctx ∧ k.idx = i))

/-- A command whose writes have been accepted completes: it leaves the commands in flight. Where its context was killed, or it is the
matrix command of a stream pair, no tumbler changes. Where it has one enabled SIG, the tumbler that it names in its context's window gains
the increment, modulo 2^32, and its source is this module and partition. -/
def Obligations.CompletionBumpsTheTumblers : Prop :=
  ∀ (s : State) (p ctx idx : Nat) (i : Issued), p < 8 →
    s.inflight.find? (fun x => x.part == p && x.ctx == ctx && x.idx == idx && x.done) = some i →
    Answers (exec (.commandComplete p ctx idx) s) fun t =>
      (i.killed = true ∨ isMatrix i.desc = true →
        t.inflight = s.inflight.erase i ∧ ∀ q n, q < 8 → n < 4096 → t.fld (TMB_VALUE_VALUE q n) = s.fld (TMB_VALUE_VALUE q n)) ∧
      (i.killed = false → isMatrix i.desc = false → sigEn (dSig i.desc 0) = true → sigEn (dSig i.desc 1) = false →
        let n := (s.tumWin p ctx).1 + sigTumbler (dSig i.desc 0)
        n < 4096 →
        t.fld (TMB_VALUE_VALUE p n) = (s.fld (TMB_VALUE_VALUE p n) + sigInc (dSig i.desc 0)) % 2 ^ 32 ∧
        t.fld (TMB_SRC_MODULE p n) = s.gid % 2 ^ 20 ∧ t.fld (TMB_SRC_PART p n) = p ∧ t.fld (TMB_SRC_LOCAL p n) = 1)

/-- MALFORMED_DESCRIPTOR_HALT and WAIT_TIMEOUT. A malformed descriptor at the head puts an entry in FAULT (5) or halts a ring (2), the
capture takes the first one, MALFORMED is set and one record goes to the error ring; memory stays. A command held longer than
WAIT_TIMEOUT past its due cycle sets WAIT_TIMEOUT_SEEN once. -/
def Obligations.MalformedAndLateCommands : Prop :=
  (∀ (s : State) (p ctx : Nat), p < 8 → ctx < 36 → s.ctxReady p ctx = true →
    s.reasonAt p ctx (s.ctxPos p ctx) ≠ 0 → s.psn (s.descDatum p ctx (s.ctxPos p ctx)) = false →
    s.fld (CAM_HOST_W0_STATE p ctx) ≠ 3 ∨ isRing ctx = true →
    Answers (exec (.malformedDescriptorHalt p ctx) s) fun t =>
      (if isRing ctx then t.fld (CAM_RING_CTRL_STATE p (ctx - 32)) = 2 else t.fld (CAM_HOST_W0_STATE p ctx) = 5) ∧
      t.fld (CAM_STATUS_MALFORMED p) = 1 ∧ t.fld (CAM_FAULT_CAP0_VALID p) = 1 ∧
      (s.fld (CAM_FAULT_CAP0_VALID p) = 0 → t.fld (CAM_FAULT_CAP0_CONTEXT p) = ctx ∧
        t.fld (CAM_FAULT_CAP1_REASON p) = s.reasonAt p ctx (s.ctxPos p ctx) % 2 ^ 8) ∧
      t.detections.length = s.detections.length + 1 ∧ t.bare = s.bare ∧
      s.RegsKept t (fun a => a ∈ [(CAM_STATUS_MALFORMED p).addr, CAM_FAULT_CAP0 p, CAM_FAULT_CAP1 p, CAM_HOST_W0 p ctx,
        CAM_RING_CTRL p (ctx - 32)])) ∧
  (∀ (s : State) (p ctx : Nat) (h : Nat × Nat × Nat × Nat), p < 8 → s.ctxReady p ctx = true →
    s.reasonAt p ctx (s.ctxPos p ctx) = 0 → s.isDue p ctx (s.descAt p ctx (s.ctxPos p ctx)) = true →
    0 < s.fld (CAM_WAIT_TIMEOUT_WAIT_TIMEOUT p) →
    s.fld (CAM_WAIT_TIMEOUT_WAIT_TIMEOUT p) * s.jobMhz p <
      s.stepCycles p - s.effOffset p ctx (s.descAt p ctx (s.ctxPos p ctx)) →
    s.holdCause p ctx (s.descAt p ctx (s.ctxPos p ctx)) = some h →
    (∀ x ∈ s.holds, x.part = p → x.ctx = ctx → x.idx = s.ctxPos p ctx → x.reported = false) →
    Answers (exec (.waitTimeout p ctx) s) fun t =>
      t.fld (CAM_STATUS_WAIT_TIMEOUT_SEEN p) = 1 ∧ t.bare = { s.bare with holds := t.holds } ∧
      (∃ x ∈ t.holds, x.part = p ∧ x.ctx = ctx ∧ x.idx = s.ctxPos p ctx ∧ x.reported = true) ∧
      s.RegsKept t (fun a => a = (CAM_STATUS_WAIT_TIMEOUT_SEEN p).addr))

/-- TMB_VALUE_WRITE, RING_DOORBELL, RING_ENABLE and RING_DISABLE of a sender that reaches the register. A tumbler whose context issues
keeps its value and WRITE_REFUSED is set; any other takes the value, with partition 0xF as its source. TAIL is taken by a running ring only.
A ring is enabled unless its window is empty, leaves the bank or overlaps that of a context in use, which sets ENABLE_ERR. Disabling stops a ring,
and a halted one drops what waits. Memory, work and all other registers stay. -/
def Obligations.TumblerAndRingWrites : Prop :=
  (∀ (s : State) (f p n v : Nat), p < 8 → n < 4096 → s.Reaches f (TMB_VALUE p n) →
    (s.tumOwner p n = none → Answers (exec (.tmbValueWrite f p n v) s) fun t =>
      t.fld (TMB_VALUE_VALUE p n) = v % 2 ^ 32 ∧ t.fld (TMB_SRC_MODULE p n) = s.gid % 2 ^ 20 ∧ t.fld (TMB_SRC_PART p n) = 15 ∧
      t.fld (TMB_SRC_LOCAL p n) = 0 ∧ s.OnlyRegs t (fun a => a = TMB_VALUE p n ∨ a = TMB_SRC p n)) ∧
    (∀ e, s.tumOwner p n = some e → e < 32 → s.fld (CAM_HOST_W0_STATE p e) = 2 ∨ s.fld (CAM_HOST_W0_STATE p e) = 3 →
      Answers (exec (.tmbValueWrite f p n v) s) fun t =>
        t.fld (TMB_STATUS_WRITE_REFUSED p) = 1 ∧ s.OnlyRegs t (fun a => a = (TMB_STATUS_WRITE_REFUSED p).addr))) ∧
  (∀ (s : State) (f p m v : Nat), p < 8 → m < 4 → s.Reaches f (CAM_RING_TAIL p m) →
    (s.flag (CAM_RING_CTRL_ENABLE p m) = true → s.fld (CAM_RING_CTRL_STATE p m) = 1 →
      Answers (exec (.ringDoorbell f p m v) s) fun t =>
        t.fld (CAM_RING_TAIL_TAIL p m) = v % 2 ^ 16 ∧ s.OnlyRegs t (fun a => a = CAM_RING_TAIL p m)) ∧
    (s.flag (CAM_RING_CTRL_ENABLE p m) = false ∨ s.fld (CAM_RING_CTRL_STATE p m) ≠ 1 →
      Answers (exec (.ringDoorbell f p m v) s) fun t =>
        storeGet 0 t.cnt (cntKey p 0x103) = cntAdd false (storeGet 0 s.cnt (cntKey p 0x103)) 1 ∧ s.OnlyRegs t (fun _ => False))) ∧
  (∀ (s : State) (f p m : Nat), p < 8 → m < 4 → s.Reaches f (CAM_RING_CTRL p m) →
    (s.flag (CAM_RING_CTRL_ENABLE p m) = false → s.ringOverlap p m = false → Answers (exec (.ringEnable f p m) s) fun t =>
      t.fld (CAM_RING_CTRL_ENABLE p m) = 1 ∧ t.fld (CAM_RING_CTRL_STATE p m) = 1 ∧ s.OnlyRegs t (fun a => a = CAM_RING_CTRL p m)) ∧
    (s.flag (CAM_RING_CTRL_ENABLE p m) = false → s.ringOverlap p m = true → Answers (exec (.ringEnable f p m) s) fun t =>
      t.fld (CAM_RING_CTRL_ENABLE p m) = 0 ∧ t.fld (CAM_RING_CTRL_ENABLE_ERR p m) = 1 ∧ s.OnlyRegs t (fun a => a = CAM_RING_CTRL p m)) ∧
    Answers (exec (.ringDisable f p m) s) fun t =>
      t.fld (CAM_RING_CTRL_ENABLE p m) = 0 ∧ t.fld (CAM_RING_CTRL_STATE p m) = 0 ∧
      t.fld (CAM_RING_HEAD_HEAD p m) =
        (if s.fld (CAM_RING_CTRL_STATE p m) = 2 then s.fld (CAM_RING_TAIL_TAIL p m) else s.fld (CAM_RING_HEAD_HEAD p m)) ∧
      s.OnlyRegs t (fun a => a = CAM_RING_CTRL p m ∨ a = CAM_RING_HEAD p m))

/-- A sender that reaches the register. A job scalar of a loaded partition goes to the shadow and is pending, of an unowned one it takes
effect at once. A step size that is not finite is refused with ETA_INVALID; a finite one is pending, or completes an open latch. A word of a
shadow bank is written under its access codes, and ignored with WRITE_IGNORED while a copy runs or an armed swap holds the bank. ETA_TIMEOUT
reports an open latch once. TABLE_COPY_COMPLETE ends the copy. -/
def Obligations.ShadowedWritesWaitForTheHinge : Prop :=
  (∀ (s : State) (f p n v : Nat) (hi : Bool), p < 8 → n < 32 → s.Reaches f (VXE_SREG_LO p n) →
    let w := if hi then VXE_SREG_HI_VALUE p n else VXE_SREG_LO_VALUE p n
    (s.jobOf p < 8 → Answers (exec (.jobScalarWrite f p n hi v) s) fun t =>
      t.fld w = v % 2 ^ 32 ∧ t.fld ⟨VXE_SREG_PEND p, n, 1⟩ = 1 ∧ t.fld (actFld w) = s.fld (actFld w) ∧
      s.OnlyRegs t (fun a => a = w.addr ∨ a = VXE_SREG_PEND p)) ∧
    (s.jobOf p = 8 → Answers (exec (.jobScalarWrite f p n hi v) s) fun t =>
      t.fld w = v % 2 ^ 32 ∧ t.fld (actFld w) = v % 2 ^ 32 ∧ s.OnlyRegs t (fun a => a = w.addr ∨ a = act w.addr))) ∧
  (∀ (s : State) (f p v : Nat), p < 8 → s.Reaches f (UPD_ETA p) →
    (isFin32 (v % 2 ^ 32) = false → Answers (exec (.updEtaWrite f p v) s) fun t =>
      t.fld (UPD_ETA_STATUS_ETA_INVALID p) = 1 ∧ s.OnlyRegs t (fun a => a = UPD_ETA_STATUS p)) ∧
    (isFin32 (v % 2 ^ 32) = true → s.flag (UPD_ETA_STATUS_OPEN p) = false → Answers (exec (.updEtaWrite f p v) s) fun t =>
      t.fld (UPD_ETA_ETA p) = v % 2 ^ 32 ∧ t.fld (UPD_ETA_STATUS_PENDING p) = 1 ∧
      s.OnlyRegs t (fun a => a = UPD_ETA p ∨ a = UPD_ETA_STATUS p)) ∧
    (isFin32 (v % 2 ^ 32) = true → s.flag (UPD_ETA_STATUS_OPEN p) = true → Answers (exec (.updEtaWrite f p v) s) fun t =>
      t.fld (UPD_ETA_STATUS_ETA_LATE p) = 1)) ∧
  (∀ (s : State) (f a v : Nat), s.Reaches f a → shadowBank a = true → a % 4 = 0 →
    (s.flag FAB_TBL_CTRL_COPY_BUSY = true ∨ s.bankHeld a = true → Answers (exec (.tableShadowWrite f a v) s) fun t =>
      t.fld FAB_TBL_CTRL_WRITE_IGNORED = 1 ∧ s.OnlyRegs t (fun b => b = FAB_TBL_CTRL)) ∧
    (s.flag FAB_TBL_CTRL_COPY_BUSY = false → s.bankHeld a = false → Answers (exec (.tableShadowWrite f a v) s) fun t =>
      t = s.maskReg a v ∧ s.OnlyRegs t (fun b => b = a))) ∧
  (∀ (s : State) (f v : Nat), s.Reaches f FAB_TBL_CTRL → Answers (exec (.tableSwapArm f v) s) fun t =>
    t = s.maskReg FAB_TBL_CTRL v ∧ t.fld FAB_TBL_CTRL_ARM = s.fld FAB_TBL_CTRL_ARM ||| v % 2 ^ 8 ∧ s.OnlyRegs t (fun a => a = FAB_TBL_CTRL)) ∧
  (∀ s : State, Answers (exec .tableCopyComplete s) fun t =>
    t.tblCopy = [] ∧ t.fld FAB_TBL_CTRL_COPY_BUSY = 0 ∧ s.MemKept t ∧ t.inflight = s.inflight) ∧
  (∀ (s : State) (f j v : Nat), j < 8 → s.Reaches f (HSP_J_MTBF j) → s.run j = none →
    Answers (exec (.mtbfWrite f j v) s) fun t =>
      t.fld (HSP_J_MTBF_MTBF_S j) = v % 2 ^ 32 ∧ t.fld (HSP_J_MTBF_CUR_M j) = v % 2 ^ 32 ∧
      s.OnlyRegs t (fun a => a = HSP_J_MTBF j ∨ a = HSP_J_MTBF_CUR j)) ∧
  (∀ (s : State) (f k mask : Nat), k < 6 → s.Reaches f (FAB_LANE_READMIT k) → Answers (exec (.laneReadmit f k mask) s) fun t =>
    (∀ b, b < 16 → bitAt mask b = true → t.fld ⟨FAB_LANE_RETIRED k, b, 1⟩ = 0) ∧ s.MemKept t ∧ t.inflight = s.inflight) ∧
  (∀ (s : State) (f v : Nat), s.Reaches f KPR_ERR_HEAD → Answers (exec (.errRingHeadWrite f v) s) fun t =>
    t.fld KPR_ERR_HEAD_HEAD = v % 2 ^ 10 ∧ s.OnlyRegs t (fun a => a = KPR_ERR_HEAD)) ∧
  (∀ (s : State) (p : Nat), p < 8 → 0 < s.fld (UPD_ETA_TIMEOUT_TIMEOUT p) → s.flag (UPD_ETA_STATUS_OPEN p) = true →
    s.issueBase p + 4000 * s.fld (UPD_ETA_TIMEOUT_TIMEOUT p) ≤ s.ftime → storeGet false s.etaMissed p = false →
    Answers (exec (.etaTimeout p) s) fun t =>
      t.fld (UPD_ETA_STATUS_ETA_MISSING p) = 1 ∧ storeGet false t.etaMissed p = true ∧
      t.bare = { s.bare with etaMissed := t.etaMissed } ∧ s.RegsKept t (fun a => a = UPD_ETA_STATUS p))

/-- What the update unit writes as the history record of a step is what a replay of that step finds: the step size and the sixteen
coefficients in effect. A channel that lost its retirement or a parity error in the command in progress would poison the read. -/
def Obligations.HistoryRecordReadsBack : Prop :=
  ∀ (s : State) (p step : Nat), p < 8 → step < 2 ^ 32 → s.parityBad = [] → s.deadChan = [] →
    (s.histWrite p step).histRead p step = some (s.fld (UPD_ETA_CUR_ETA p) :: (List.range 16).map (fun i => s.fld (UPD_COEF_CUR_VALUE p i)))

/-- The twenty element-wise and special-function operations other than CMASK and CVT, on an engine that holds a group, for every operation word that Table 5.3 and
Table 5.4 allow. Each element of the destination is the operation of Table 5.4 on that element of the operands, rounded first where PREC
asks; a datum is poisoned where any operand it depends on is. A result for a register without a tile is discarded. Everything else stays but
for FP_OVERFLOW with its capture and its counter. -/
def Obligations.ElementwiseOperations : Prop :=
  ∀ x ∈ ([(0x00, fun p e n w => .vxeOpMov p e n w), (0x01, fun p e n w => .vxeOpAdd p e n w),
      (0x02, fun p e n w => .vxeOpSub p e n w), (0x03, fun p e n w => .vxeOpMul p e n w),
      (0x04, fun p e n w => .vxeOpFma p e n w), (0x05, fun p e n w => .vxeOpMax p e n w),
      (0x06, fun p e n w => .vxeOpMin p e n w), (0x07, fun p e n w => .vxeOpAbs p e n w),
      (0x08, fun p e n w => .vxeOpNeg p e n w), (0x09, fun p e n w => .vxeOpSel p e n w),
      (0x10, fun p e n w => .vxeOpExp p e n w), (0x11, fun p e n w => .vxeOpExp2 p e n w),
      (0x12, fun p e n w => .vxeOpRcp p e n w), (0x13, fun p e n w => .vxeOpRsqrt p e n w),
      (0x14, fun p e n w => .vxeOpSqrt p e n w), (0x15, fun p e n w => .vxeOpLog p e n w),
      (0x16, fun p e n w => .vxeOpTanh p e n w), (0x17, fun p e n w => .vxeOpSigmoid p e n w),
      (0x18, fun p e n w => .vxeOpSilu p e n w), (0x19, fun p e n w => .vxeOpGelu p e n w)] :
      List (Nat × (Nat → Nat → Nat → Nat → Instr))),
  ∀ (s : State) (p e n w : Nat) (g : VxEng), p < 8 → e < 2 → s.Inv → storeGet none s.vxEng (2 * p + e) = some g →
    let v := vopWord x.1 w
    let prec := bitAt v 6
    let d := bits v 10 2; let a := bits v 12 2; let b := bits v 14 2; let bk := bits v 16 2
    let c := bits v 18 2; let ck := bits v 20 2
    let noted := fun k => k ∈ [VXE_STATUS p, VXE_CAP0 p, VXE_CAP1 p]
    vopBad v = false →
    (bitAt v 7 = false → bitAt v 8 = false → Answers (exec (x.2 p e n w) s) fun t =>
      s.OnlyVx t (vtKey p e d) (if g.filled d then 16384 else 0) (vtpKey p e d) (if g.filled d then 1024 else 0) noted ∧
      (g.filled d = true →
        (∀ i, i < 16384 → storeGet 0 t.vx (vtKey p e d + i) = vxElem x.1 prec (vxOperand prec (s.tileArg p e g 0 a i))
          (vxOperand prec (s.tileArg p e g bk b i)) (vxOperand prec (s.tileArg p e g ck c i))) ∧
        (∀ q, q < 1024 → storeGet false t.vxPsn (vtpKey p e d + q) = (s.tileArgPsn p e g 0 a q ||
          (vxUsesB x.1 && s.tileArgPsn p e g bk b q) || (vxUsesC x.1 && s.tileArgPsn p e g ck c q))))) ∧
    (bitAt v 8 = true → Answers (exec (x.2 p e n w) s) fun t =>
      s.OnlyVx t (vvKey p e d) 128 (vvpKey p e d) 128 noted ∧
      (∀ i, i < 128 → storeGet 0 t.vx (vvKey p e d + i) = vxElem x.1 prec (vxOperand prec (s.vecArg p e g 1 a i))
        (vxOperand prec (s.vecArg p e g bk b i)) (vxOperand prec (s.vecArg p e g ck c i)) ∧
        storeGet false t.vxPsn (vvpKey p e d + i) = (s.vecArgPsn p e g 1 a i ||
          (vxUsesB x.1 && s.vecArgPsn p e g bk b i) || (vxUsesC x.1 && s.vecArgPsn p e g ck c i))))

/-- CMASK keeps the elements that R133 keeps and writes minus infinity elsewhere; CVT outside blocks gives each element the value of its encoding and
in blocks the value of the block's encoding. An operation with ALL is the same operation without it, run on each register that holds a tile, in
ascending order, with that register as destination and first operand. -/
def Obligations.MaskConvertAndAll : Prop :=
  (∀ (s : State) (p e n w : Nat) (g : VxEng), p < 8 → e < 2 → s.Inv → storeGet none s.vxEng (2 * p + e) = some g →
    let v := vopWord 0x0A w
    let d := bits v 10 2; let a := bits v 12 2
    let k := g.slots.getD (bits v 14 2) (0, false)
    let at' := g.pos.getD a (0, 0)
    vopBad v = false → bitAt v 7 = false → g.filled d = true → Answers (exec (.vxeOpCmask p e n w) s) fun t =>
      s.OnlyVx t (vtKey p e d) 16384 (vtpKey p e d) 1024 (fun _ => False) ∧
      (∀ i j, i < 128 → j < 128 → storeGet 0 t.vx (vtKey p e d + (128 * i + j)) =
        (if ((128 * at'.2 + j : Nat) : Int) ≤ ((128 * at'.1 + i : Nat) : Int) + signedOf k.1 32
          then s.tileArg p e g 0 a (128 * i + j) else 0xFF800000)) ∧
      (∀ q, q < 1024 → storeGet false t.vxPsn (vtpKey p e d + q) = (s.tileArgPsn p e g 0 a q || k.2))) ∧
  (∀ (s : State) (p e n w : Nat) (g : VxEng), p < 8 → e < 2 → s.Inv → storeGet none s.vxEng (2 * p + e) = some g →
    let v := vopWord 0x0B w
    let d := bits v 10 2; let a := bits v 12 2; let aux := bits v 24 8
    let noted := fun k => k = (VXE_CVT_FLAGS_OVERFLOW p).addr
    vopBad v = false →
    (bitAt v 7 = false → bitAt v 8 = false → g.filled d = true → Answers (exec (.vxeOpCvt p e n w) s) fun t =>
      s.OnlyVx t (vtKey p e d) 16384 (vtpKey p e d) 1024 noted ∧
      (ocBlk aux = false → ∀ i, i < 16384 →
        storeGet 0 t.vx (vtKey p e d + i) = (vxCvt aux (s.tileArg p e g 0 a i)).1) ∧
      (ocBlk aux = true → ∀ k i, k < 512 → i < 32 → storeGet 0 t.vx (vtKey p e d + (32 * k + i)) =
        (vxCvtBlock aux ((List.range 32).map (fun j => s.tileArg p e g 0 a (32 * k + j)))).1.getD i 0) ∧
      (∀ q, q < 1024 → storeGet false t.vxPsn (vtpKey p e d + q) = (if ocBlk aux
        then s.tileArgPsn p e g 0 a (q / 2 * 2) || s.tileArgPsn p e g 0 a (q / 2 * 2 + 1) else s.tileArgPsn p e g 0 a q))) ∧
    (bitAt v 8 = true → Answers (exec (.vxeOpCvt p e n w) s) fun t =>
      s.OnlyVx t (vvKey p e d) 128 (vvpKey p e d) 128 noted ∧
      (ocBlk aux = false → ∀ i, i < 128 → storeGet 0 t.vx (vvKey p e d + i) = (vxCvt aux (s.vecArg p e g 1 a i)).1) ∧
      (ocBlk aux = true → ∀ k i, k < 4 → i < 32 → storeGet 0 t.vx (vvKey p e d + (32 * k + i)) =
        (vxCvtBlock aux ((List.range 32).map (fun j => s.vecArg p e g 1 a (32 * k + j)))).1.getD i 0))) ∧
  (∀ x ∈ ([(0x00, fun p e n w => .vxeOpMov p e n w), (0x01, fun p e n w => .vxeOpAdd p e n w),
      (0x02, fun p e n w => .vxeOpSub p e n w), (0x03, fun p e n w => .vxeOpMul p e n w),
      (0x04, fun p e n w => .vxeOpFma p e n w), (0x05, fun p e n w => .vxeOpMax p e n w),
      (0x06, fun p e n w => .vxeOpMin p e n w), (0x07, fun p e n w => .vxeOpAbs p e n w),
      (0x08, fun p e n w => .vxeOpNeg p e n w), (0x09, fun p e n w => .vxeOpSel p e n w),
      (0x0A, fun p e n w => .vxeOpCmask p e n w), (0x0B, fun p e n w => .vxeOpCvt p e n w),
      (0x10, fun p e n w => .vxeOpExp p e n w), (0x11, fun p e n w => .vxeOpExp2 p e n w),
      (0x12, fun p e n w => .vxeOpRcp p e n w), (0x13, fun p e n w => .vxeOpRsqrt p e n w),
      (0x14, fun p e n w => .vxeOpSqrt p e n w), (0x15, fun p e n w => .vxeOpLog p e n w),
      (0x16, fun p e n w => .vxeOpTanh p e n w), (0x17, fun p e n w => .vxeOpSigmoid p e n w),
      (0x18, fun p e n w => .vxeOpSilu p e n w), (0x19, fun p e n w => .vxeOpGelu p e n w)] :
      List (Nat × (Nat → Nat → Nat → Nat → Instr))),
    ∀ (s : State) (p e n w : Nat) (g : VxEng), storeGet none s.vxEng (2 * p + e) = some g → g.pos.length ≤ 4 →
    let v := vopWord x.1 w
    vopBad v = false → bitAt v 7 = true →
      exec (x.2 p e n w) s = .next (forRange g.pos.length (fun r t => t.after (x.2 p e n (v - 0x80 + r * 0x1400))) s))

/-- ROWSUM, ROWMAX, COLSUM and COLMAX give each row or column the combination that R136 writes: the tree over each source register in ascending
order, after the old element where ACC is set. VSUM and VMAX reduce one vector into element 0 and clear the others. An element is poisoned
where any element it reduced is. Only the destination register changes, but for FP_OVERFLOW with its capture and its counter. -/
def Obligations.Reductions : Prop :=
  (∀ x ∈ ([(0x20, fun p e n w => .vxeOpRowsum p e n w), (0x21, fun p e n w => .vxeOpRowmax p e n w),
      (0x22, fun p e n w => .vxeOpColsum p e n w), (0x23, fun p e n w => .vxeOpColmax p e n w)] :
      List (Nat × (Nat → Nat → Nat → Nat → Instr))),
    ∀ (s : State) (p e n w : Nat) (g : VxEng), p < 8 → e < 2 → s.Inv → storeGet none s.vxEng (2 * p + e) = some g →
    0 < g.pos.length →
    let v := vopWord x.1 w
    let d := bits v 10 2
    let acc := bitAt v 24
    let op := if x.1 % 2 = 0 then f32Add else f32Max
    let src := if bitAt v 7 then List.range g.pos.length else [bits v 12 2]
    let cell := fun i j => if x.1 < 0x22 then 128 * i + j else 128 * j + i
    let one := fun i r => reduceTree op ((List.range 128).map (fun j => s.tileArg p e g 0 r (cell i j)))
    vopBad v = false → Answers (exec (x.2 p e n w) s) fun t =>
      s.OnlyVx t (vvKey p e d) 128 (vvpKey p e d) 128 (fun k => k ∈ [VXE_STATUS p, VXE_CAP0 p, VXE_CAP1 p]) ∧
      ∀ i, i < 128 →
        some (storeGet 0 t.vx (vvKey p e d + i)) =
          src.foldl (fun a r => some (match a with | none => one i r | some y => op y (one i r)))
            (if acc then some (storeGet 0 s.vx (vvKey p e d + i)) else none) ∧
        storeGet false t.vxPsn (vvpKey p e d + i) = ((acc && storeGet false s.vxPsn (vvpKey p e d + i)) ||
          src.any (fun r => (List.range 128).any (fun j => s.tileArgPsn p e g 0 r (cell i j / 16))))) ∧
  (∀ x ∈ ([(0x24, fun p e n w => .vxeOpVsum p e n w), (0x25, fun p e n w => .vxeOpVmax p e n w)] :
      List (Nat × (Nat → Nat → Nat → Nat → Instr))),
    ∀ (s : State) (p e n w : Nat) (g : VxEng), p < 8 → e < 2 → s.Inv → storeGet none s.vxEng (2 * p + e) = some g →
    let v := vopWord x.1 w
    let d := bits v 10 2; let a := bits v 12 2
    let acc := bitAt v 24
    let op := if x.1 % 2 = 0 then f32Add else f32Max
    let r := reduceTree op ((List.range 128).map (fun j => storeGet 0 s.vx (vvKey p e a + j)))
    vopBad v = false → Answers (exec (x.2 p e n w) s) fun t =>
      s.OnlyVx t (vvKey p e d) 128 (vvpKey p e d) 128 (fun k => k ∈ [VXE_STATUS p, VXE_CAP0 p, VXE_CAP1 p]) ∧
      storeGet 0 t.vx (vvKey p e d) = (if acc then op (storeGet 0 s.vx (vvKey p e d)) r else r) ∧
      storeGet false t.vxPsn (vvpKey p e d) = ((acc && storeGet false s.vxPsn (vvpKey p e d)) ||
        (List.range 128).any (fun j => storeGet false s.vxPsn (vvpKey p e a + j))) ∧
      ∀ i, 0 < i → i < 128 → storeGet 0 t.vx (vvKey p e d + i) = 0 ∧ storeGet false t.vxPsn (vvpKey p e d + i) = false)

/-- LDV gives vector register D the 128 words at VEC_ADDR + 8 (AUX + q), STV stores register A at VOUT_ADDR + 8 (AUX + q), q being the column or row index of
the group's first tile; the eight units written are those that the addresses decode to, and no other byte or poison bit changes. SPUT
writes element 0 of A with its poison into the shard scalar of the hosting entry. An operation on an engine without a group, or with a word
that no program holds, does nothing. -/
def Obligations.VectorsMoveToMemoryAndScalars : Prop :=
  (∀ (s : State) (p e n w : Nat) (g : VxEng), p < 8 → e < 2 → storeGet none s.vxEng (2 * p + e) = some g →
    let v := vopWord 0x30 w
    let d := bits v 10 2
    let at' := g.pos.getD 0 (0, 0)
    let a := dOp g.desc 96 32 + 8 * (bits v 24 7 + if bitAt v 31 then at'.1 else at'.2)
    vopBad v = false → Answers (exec (.vxeOpLdv p e n w) s) fun t =>
      (∀ i, i < 128 → storeGet 0 t.vx (vvKey p e d + i) = s.cmdNat p g.ctx a (4 * i) 4 ∧
        storeGet false t.vxPsn (vvpKey p e d + i) = s.cmdPsn p g.ctx (a + i / 16)) ∧
      ((∀ u, u < 8 → (∃ m, s.locate p g.ctx ((a + u) % 2 ^ 32) = .at m) ∧ s.cmdPsn p g.ctx (a + u) = false) →
        s.OnlyVx t (vvKey p e d) 128 (vvpKey p e d) 128 (fun _ => False))) ∧
  (∀ (s : State) (p e n w : Nat) (g : VxEng) (m : Nat → Nat), p < 8 → e < 2 → s.Inv →
    storeGet none s.vxEng (2 * p + e) = some g →
    let v := vopWord 0x31 w
    let r := bits v 12 2
    let at' := g.pos.getD 0 (0, 0)
    let a := dOp g.desc 128 32 + 8 * (bits v 24 7 + if bitAt v 31 then at'.1 else at'.2)
    vopBad v = false → (∀ u, u < 8 → s.locate p g.ctx ((a + u) % 2 ^ 32) = .at (m u)) →
    Answers (exec (.vxeOpStv p e n w) s) fun t =>
      t.bare = { s.bare with mem := t.mem, poison := t.poison } ∧ s.RegsKept t (fun _ => False) ∧
      (∀ u, u < 8 → (∀ k, u < k → k < 8 → m k ≠ m u) →
        (∀ i j, i < 16 → j < 4 →
          (t.byte (64 * m u + (4 * i + j))).toNat = storeGet 0 s.vx (vvKey p e r + (16 * u + i)) / 256 ^ j % 256) ∧
        storeGet false t.poison (m u) = (List.range 16).any (fun i => storeGet false s.vxPsn (vvpKey p e r + (16 * u + i)))) ∧
      (∀ b, (∀ u, u < 8 → b / 64 ≠ m u) → t.byte b = s.byte b) ∧
      (∀ b, (∀ u, u < 8 → b ≠ m u) → storeGet false t.poison b = storeGet false s.poison b)) ∧
  (∀ (s : State) (p e n w : Nat) (g : VxEng), p < 8 → e < 2 → s.Inv → storeGet none s.vxEng (2 * p + e) = some g →
    let v := vopWord 0x32 w
    let r := bits v 12 2
    let k := shardKey p g.ctx (bits v 24 5)
    vopBad v = false → Answers (exec (.vxeOpSput p e n w) s) fun t =>
      t = { s with shardS := t.shardS, shardP := t.shardP } ∧
      storeGet 0 t.shardS k = storeGet 0 s.vx (vvKey p e r) ∧ storeGet false t.shardP k = storeGet false s.vxPsn (vvpKey p e r) ∧
      ∀ q, q ≠ k → storeGet 0 t.shardS q = storeGet 0 s.shardS q ∧ storeGet false t.shardP q = storeGet false s.shardP q) ∧
  (∀ x ∈ ([(0x00, fun p e n w => .vxeOpMov p e n w), (0x01, fun p e n w => .vxeOpAdd p e n w),
      (0x02, fun p e n w => .vxeOpSub p e n w), (0x03, fun p e n w => .vxeOpMul p e n w),
      (0x04, fun p e n w => .vxeOpFma p e n w), (0x05, fun p e n w => .vxeOpMax p e n w),
      (0x06, fun p e n w => .vxeOpMin p e n w), (0x07, fun p e n w => .vxeOpAbs p e n w),
      (0x08, fun p e n w => .vxeOpNeg p e n w), (0x09, fun p e n w => .vxeOpSel p e n w),
      (0x0A, fun p e n w => .vxeOpCmask p e n w), (0x0B, fun p e n w => .vxeOpCvt p e n w),
      (0x10, fun p e n w => .vxeOpExp p e n w), (0x11, fun p e n w => .vxeOpExp2 p e n w),
      (0x12, fun p e n w => .vxeOpRcp p e n w), (0x13, fun p e n w => .vxeOpRsqrt p e n w),
      (0x14, fun p e n w => .vxeOpSqrt p e n w), (0x15, fun p e n w => .vxeOpLog p e n w),
      (0x16, fun p e n w => .vxeOpTanh p e n w), (0x17, fun p e n w => .vxeOpSigmoid p e n w),
      (0x18, fun p e n w => .vxeOpSilu p e n w), (0x19, fun p e n w => .vxeOpGelu p e n w),
      (0x20, fun p e n w => .vxeOpRowsum p e n w), (0x21, fun p e n w => .vxeOpRowmax p e n w),
      (0x22, fun p e n w => .vxeOpColsum p e n w), (0x23, fun p e n w => .vxeOpColmax p e n w),
      (0x24, fun p e n w => .vxeOpVsum p e n w), (0x25, fun p e n w => .vxeOpVmax p e n w),
      (0x30, fun p e n w => .vxeOpLdv p e n w), (0x31, fun p e n w => .vxeOpStv p e n w),
      (0x32, fun p e n w => .vxeOpSput p e n w)] :
      List (Nat × (Nat → Nat → Nat → Nat → Instr))),
    ∀ (s : State) (p e n w : Nat),
      storeGet none s.vxEng (2 * p + e) = none ∨ vopBad (vopWord x.1 w) = true → exec (x.2 p e n w) s = .next s)

/-- VXE_GROUP_START takes the first vector command of the partition whose group has all its tiles, on the first engine that the command may use. REGROUP is
set where the engine was retired under it. The engine's input registers hold the group's tiles in order, the other tile registers are zero, and
the vector registers are zero at the first group of a command. Without a command, all tiles or an engine, nothing happens. -/
def Obligations.VectorGroupsRun : Prop :=
  (∀ (s : State) (p : Nat) (rerun : Bool) (v : VxCmd), s.vxCmds.find? (fun v => v.part == p) = some v →
    (∀ g e es, v.group = some g → s.vxEngines p v.desc = e :: es →
      exec (.vxeGroupStart p false) s = .next (s.vxRunGroup p e v g) ∧
      (p < 8 → ∃ u, exec (.vxeGroupStart p true) s = .next (u.vxRunGroup p e v g) ∧ u.fld (VXE_STATUS_REGROUP p) = 1 ∧
        s.OnlyRegs u (fun a => a = VXE_STATUS p))) ∧
    (v.group = none ∨ s.vxEngines p v.desc = [] → exec (.vxeGroupStart p rerun) s = .next s)) ∧
  (∀ (s : State) (p : Nat) (rerun : Bool), s.vxCmds.find? (fun v => v.part == p) = none →
    exec (.vxeGroupStart p rerun) s = .next s) ∧
  (∀ (s : State) (p e : Nat) (v : VxCmd) (g : List Tile), p < 8 → e < 2 → g.length ≤ 4 →
    (∀ t ∈ g, t.data.length = 16384 ∧ t.psn.length = 1024) →
    let l := s.vxLoadGroup p e v g
    l.2.ctx = v.ctx ∧ l.2.desc = v.desc ∧ l.2.slots = v.slots ∧ l.2.pos = g.map (fun t => (t.mt, t.nt)) ∧
    storeGet none l.1.vxEng (2 * p + e) = some l.2 ∧
    (∀ k t, g[k]? = some t →
      (∀ i, i < 16384 → storeGet 0 l.1.vx (vtKey p e k + i) = t.data.getD i 0) ∧
      (∀ q, q < 1024 → storeGet false l.1.vxPsn (vtpKey p e k + q) = t.psn.getD q false)) ∧
    (∀ k i, g.length ≤ k → k < 4 → i < 16384 → storeGet 0 l.1.vx (vtKey p e k + i) = 0) ∧
    (v.next = 0 ∨ dOp v.desc 0 2 = 3 → ∀ r i, r < 4 → i < 128 → storeGet 0 l.1.vx (vvKey p e r + i) = 0) ∧
    (v.next ≠ 0 → dOp v.desc 0 2 ≠ 3 → ∀ r i, r < 4 → i < 128 →
      storeGet 0 l.1.vx (vvKey p e r + i) = storeGet 0 s.vx (vvKey p e r + i)) ∧
    l.1.bare = { s.bare with vx := l.1.vx, vxPsn := l.1.vxPsn, vxEng := l.1.vxEng })

/-- The oldest tile or record held on an engine. The repeat on the same engine is noted with its sibling, which is an online engine without a held tile;
the sibling's repeat is noted. The outcome has the code and the released result of Table 13.6, the first capture of the partition takes it, one
TWO_KEY record is detected, the engine is no longer held unless another tile waits, and the result is released or poison is. A sampled record
that the sibling computes alike is written; one that differs waits for the two-key check. Without a held tile nothing happens. -/
def Obligations.TwoKeyCheckSettlesAMiss : Prop :=
  (∀ (s : State) (p eng : Nat) (fl : List (Nat × Nat)), s.heldOn p eng = none →
    exec (.twoKeyCheck p eng fl) s = .next s ∧ exec (.twoKeySiblingRepeat p eng fl) s = .next s ∧
    exec (.twoKeyOutcome p eng) s = .next s) ∧
  (∀ (s : State) (p eng : Nat) (fl : List (Nat × Nat)) (h : HeldTile), s.heldOn p eng = some h → h.same = none →
    s.runsRepeat p eng = false → Answers (exec (.twoKeyCheck p eng fl) s) fun t =>
      t = { s with held := t.held } ∧ ∃ sib, t.held = s.held.map (fun x => if x = h then
        { h with same := some (if eng = 6 then s.upRepeat h fl true else s.mxRerun h fl), sibling := sib } else x) ∧
        (eng = 6 → sib = s.upSibling p) ∧
        (eng < 6 → ∀ e, sib = some e → e < 6 ∧ e ≠ eng ∧ bitAt (s.fld (MXE_ENG_ONLINE_ONLINE p)) e = true ∧
          s.heldOn p e = none)) ∧
  (∀ (s : State) (p eng : Nat) (fl : List (Nat × Nat)) (h : HeldTile), s.heldOn p eng = some h → h.same ≠ none →
    h.sibling ≠ none → h.other = none → Answers (exec (.twoKeySiblingRepeat p eng fl) s) fun t =>
      t = { s with held := t.held } ∧ t.held = s.held.map (fun x => if x = h then
        { h with other := some (if eng = 6 then s.upRepeat h fl false else s.mxRerun h fl) } else x)) ∧
  (∀ (first : List Nat) (a b : KeyRun),
    (a.miss = false → b.miss = false → twoKeyOutcome first a (some b) = if a.out = b.out then (0, some a.out) else (4, none)) ∧
    (a.miss = true → b.miss = false → twoKeyOutcome first a (some b) = (if a.out = first then 1 else 2, some b.out)) ∧
    (a.miss = false → b.miss = true → twoKeyOutcome first a (some b) = (3, some a.out)) ∧
    (a.miss = true → b.miss = true → twoKeyOutcome first a (some b) = (4, none)) ∧
    (a.miss = false → twoKeyOutcome first a none = (0, some a.out)) ∧
    (a.miss = true → twoKeyOutcome first a none = (if a.out = first then 1 else 2, none))) ∧
  (∀ (s : State) (p eng : Nat) (h : HeldTile) (a : KeyRun), p < 8 → eng < 7 → s.heldOn p eng = some h → h.same = some a →
    h.sibling = none ∨ h.other ≠ none →
    let o := twoKeyOutcome h.first a h.other
    ∃ u : State,
      u.bare = { s.bare with held := s.held.erase h } ∧
      s.RegsKept u (fun k => k ∈ [(MXE_TWOKEY_LAST_CYCLES p).addr, (MXE_TWOKEY_CAP0_VALID p).addr, MXE_STATUS p,
        (UPD_TWOKEY_CAP0_VALID p).addr]) ∧
      (s.boot = .running → u.detections.length = s.detections.length + 1) ∧
      (eng = 6 → u.fld (UPD_TWOKEY_CAP0_VALID p) = 1 ∧
        (s.fld (UPD_TWOKEY_CAP0_VALID p) = 0 → u.fld (UPD_TWOKEY_CAP0_OUTCOME p) = o.1)) ∧
      (eng < 6 → u.fld (MXE_TWOKEY_CAP0_VALID p) = 1 ∧
        (s.fld (MXE_TWOKEY_CAP0_VALID p) = 0 → u.fld (MXE_TWOKEY_CAP0_OUTCOME p) = o.1 ∧ u.fld (MXE_TWOKEY_CAP0_ENGINE p) = eng) ∧
        (u.heldOn p eng = none → bitAt (u.fld (MXE_STATUS_HELD p)) eng = false)) ∧
      exec (.twoKeyOutcome p eng) s = .next (if eng = 6 then (if s.ctxDead p h.ctx then u.upSettle h.cmd else u.upRelease1 h o.2)
        else u.mxRelease1 h (if s.ctxDead p h.ctx then none else o.2))) ∧
  (∀ (s : State) (h : HeldTile) (l : List Nat),
    let t := s.mxRelease1 h (some l)
    t.bare = { s.bare with vxCmds := t.vxCmds, inflight := t.inflight } ∧
    t.vxCmds = s.vxCmds.map (fun v => if v.part = h.part ∧ v.ctx = h.ctx ∧ v.idx = nextIdx h.ctx h.idx
      then { v with tiles := v.tiles.set h.order (some ⟨h.mt, h.nt, l, List.replicate 1024 false⟩) } else v)) ∧
  (∀ (s : State) (p : Nat) (fl : List (Nat × Nat)) (h : HeldTile),
    s.held.find? (fun h => h.part == p && h.eng == 6 && h.missKind == 3) = some h →
    let o := s.upRerun h fl
    (o.words = h.first → exec (.updSampleCrosscheck p fl) s =
      .next (({ s with held := s.held.erase h }.upWrite h.cmd h.nt h.kt o h.upPs false).upSettle h.cmd)) ∧
    (o.words ≠ h.first → Answers (exec (.updSampleCrosscheck p fl) s) fun t =>
      t.bare = { s.bare with held := t.held } ∧ s.RegsKept t (fun _ => False) ∧
      t.held = s.held.map (fun x => if x = h then { h with missKind := 1, missAt := s.stepCycles p } else x) ∧
      (s.boot = .running → t.detections.length = s.detections.length + 1))) ∧
  (∀ (s : State) (p : Nat) (fl : List (Nat × Nat)), (∀ h ∈ s.held, h.part = p → h.eng = 6 → h.missKind ≠ 3) →
    exec (.updSampleCrosscheck p fl) s = .next s)

/-- COLL_STAGE_READY waits below the target of R300, and at the target runs the stage and moves the collective on: to the next stage in its place, or
out of its place, counted as one collective that is done, after the last. Without a collective in the place nothing happens. -/
def Obligations.CollectiveStagesFollow : Prop :=
  (∀ (s : State) (place : Nat), (∀ k ∈ s.colls, k.place ≠ place) → exec (.collStageReady place) s = .next s) ∧
  (∀ (s : State) (place : Nat) (k : Coll), s.colls.find? (fun k => k.place == place) = some k →
    let have_ := s.stepCount k.part ((s.tumWin k.part k.ctx).1 + clRtumb k.desc)
    let need := colTarget k.desc k.members.length (k.stage + 1)
    (have_ < need → exec (.collStageReady place) s = .next s) ∧
    (need ≤ have_ →
      let r := s.colStage ⟨k.part, k.ctx, k.idx, k.desc⟩ k (k.stage + 1)
      exec (.collStageReady place) s = .next (r.1.colEnd { k with stage := k.stage + 1, rf := r.2 }))) ∧
  (∀ (s : State) (k : Coll),
    (k.stage < colStages k.desc k.members.length →
      s.colEnd k = { s with colls := s.colls.map (fun x => if x.place = k.place then k else x) }) ∧
    (colStages k.desc k.members.length ≤ k.stage →
      (s.colEnd k).colls = s.colls.filter (fun x => x.place != k.place) ∧
      storeGet 0 (s.colEnd k).cnt (gcntKey 0x200) = cntAdd false (storeGet 0 s.cnt (gcntKey 0x200)) 1 ∧
      (s.colEnd k).bare = { s.bare with colls := (s.colEnd k).colls, inflight := (s.colEnd k).inflight } ∧
      s.RegsKept (s.colEnd k) (fun a => a = COL_STATUS_BUSY.addr) ∧
      (s.hasPackets (k.part, k.ctx, k.idx) = false →
        (∀ x ∈ s.colls, x.place ≠ k.place → ¬(x.part = k.part ∧ x.ctx = k.ctx ∧ x.idx = k.idx)) →
        ∀ i ∈ (s.colEnd k).inflight, i.part = k.part → i.ctx = k.ctx → i.idx = k.idx → i.done = true)))

/-- CMD_STEP_END that issues ends the step of its entry: after its bumps every tumbler of the window but the step-size tumbler has its value as snapshot. ARRIVAL_INSTANT of a
slot that runs a step, whose entries have all arrived, applies the hinge; once arrived, or while anything is outstanding, it does nothing but
try the ready notice again. In every case the notice goes up only when this module and every child are ready. -/
def Obligations.StepsEndAndModulesArrive : Prop :=
  (∀ (s : State) (p ctx : Nat),
    (s.Issues p ctx (fun d => dClass d == 7) → exec (.cmdStepEnd p ctx) s =
      .next (((s.issuedAt p ctx 1 (s.effOffset p ctx (s.descAt p ctx (s.ctxPos p ctx)))).stepEnd (s.nextCmd p ctx)).trySendReady
        (s.jobOf p))) ∧
    (s.ctxReady p ctx = false → exec (.cmdStepEnd p ctx) s = .next (s.trySendReady (s.jobOf p)))) ∧
  (∀ (s : State) (c : Cmd), c.p < 8 → c.ctx < 36 → sigEn (dSig c.d 0) = false → sigEn (dSig c.d 1) = false →
    s.fld (CAM_HOST_W0_STATE c.p c.ctx) ≠ 3 →
    let w := s.tumWin c.p c.ctx
    w.1 + w.2 ≤ 4096 →
    let t := s.stepEnd c
    (∀ n, 0 < n → n < w.2 → t.fld (TMB_SNAP_SNAP c.p (w.1 + n)) = s.fld (TMB_VALUE_VALUE c.p (w.1 + n)) ∧
      t.stepCount c.p (w.1 + n) = 0) ∧
    s.OnlyRegs t (fun a => ∃ n, 0 < n ∧ n < w.2 ∧ a = TMB_SNAP c.p (w.1 + n))) ∧
  (∀ (s : State) (j dynJ : Nat) (r : JobRun), s.run j = some r → s.flag RCV_FENCE_FENCED = false →
    (r.arrived = true → exec (.arrivalInstant j dynJ) s = .next (s.trySendReady j)) ∧
    (r.arrived = false → r.cut = none → s.fld (RCV_J_STATUS_PHASE j) = 0 →
      ((r.first = true ∨ ∀ p ∈ s.slotParts j, s.fld (CAM_HINGE_STATUS_PHASE p) = 0) → s.allArrived j r = true →
        exec (.arrivalInstant j dynJ) s = .next ((s.arrive j dynJ r).trySendReady j)) ∧
      (s.allArrived j r = false → exec (.arrivalInstant j dynJ) s = .next s))) ∧
  (∀ (s : State) (j dynJ : Nat), s.run j = none ∨ s.flag RCV_FENCE_FENCED = true → exec (.arrivalInstant j dynJ) s = .next s) ∧
  (∀ (s : State) (j : Nat) (r : JobRun), s.run j = some r →
    r.arrived = false ∨ r.sent = true ∨ s.flag (HSP_J_STATUS_SET_OPEN j) = true ∨ r.holds ≠ [] ∨ 3 ≤ s.fld (RCV_J_STATUS_PHASE j) ∨
      (∃ g ∈ s.jobKids j, ∀ n ∈ r.notices, n.src ≠ g) → s.trySendReady j = s) ∧
  (∀ (s : State) (j : Nat) (r : JobRun), s.run j = some r → r.arrived = true → r.setHere = true → r.phase1Open = false → r.sent = false →
    s.flag (HSP_J_STATUS_SET_OPEN j) = true → j < 8 →
    ∃ u : State, exec (.haspPhase1Complete j) s = .next (u.trySendReady j) ∧ u.flag (HSP_J_STATUS_SET_OPEN j) = false ∧
      (∃ q, u.run j = some q ∧ q.earliest = max r.earliest s.ftime ∧
        q.ack = (if r.chunks.all (·.ok) && !r.chunks.isEmpty then r.ack else false)) ∧ u.inflight = s.inflight)

/-- Of a live sender, a ready notice for this step replaces the sender's earlier notice and its hold and lets the notice be tried; a hold notice does the reverse
and goes up; a release of another step or sender does nothing, one from the parent goes to every child and applies. Control message bytes are the
model's (log entry 15). Every ACTIVE entry then stands at position 0 of the next step. STEP_START takes the step's partitions to PHASE 0 and
marks a late one. HINGE_TIMEOUT reports once the children that are missing. A clock is the least of its limits, at least 400 MHz. -/
def Obligations.TheHingeBarrier : Prop :=
  (∀ (s : State) (src : Nat) (m : List Nat) (r : JobRun),
    let j := mByte m 1 % 8
    s.boot = .running → s.isDead j src = false → s.run j = some r →
    (mField m 4 4 = r.step →
      (∃ u : State, exec (.readyNotice src m) s = .next (u.trySendReady j) ∧ u = { s with jobs := u.jobs } ∧
        ∃ q, u.run j = some q ∧ q = { r with notices := q.notices, holds := q.holds } ∧ src ∉ q.holds ∧
          (∀ n, n.src = src → (n ∈ q.notices ↔ n = noticeOf src m)) ∧ (∀ n, n.src ≠ src → (n ∈ q.notices ↔ n ∈ r.notices))) ∧
      (∃ u : State, u = { s with jobs := u.jobs } ∧
        (∃ q, u.run j = some q ∧ q = { r with notices := q.notices, holds := q.holds, sent := false } ∧ src ∈ q.holds ∧
          (∀ n, n ∈ q.notices ↔ (n ∈ r.notices ∧ n.src ≠ src))) ∧
        exec (.holdNotice src m) s = .next (match u.jobUp j with | some g => u.sendCtl g j (holdMsg j r.step) | none => u)) ∧
      (r.arrived = true → s.jobUp j = some src →
        exec (.hingeRelease src m) s = .next ((s.sendDown j m).applyRelease j (mField m 8 8) (bitAt (mByte m 16) 0)
          (bitAt (mByte m 16) 1) r)) ∧
      (r.arrived = false ∨ s.jobUp j ≠ some src → exec (.hingeRelease src m) s = .next s)) ∧
    (mField m 4 4 ≠ r.step → exec (.hingeRelease src m) s = .next s ∧ exec (.holdNotice src m) s = .next s ∧
      Answers (exec (.readyNotice src m) s) fun t => (src, m) ∈ t.earlyMsgs ∧ t = { s with earlyMsgs := t.earlyMsgs })) ∧
  (∀ (s : State) (j k p e : Nat), j < 8 → p < 8 → e < 32 → s.jobOf p = j → s.fld (CAM_HOST_W0_STATE p e) = 2 →
    let t := s.item8 j k false
    t.fld (CAM_HOST_W0_STATE p e) = 2 ∧ t.fld (CAM_HOST_W6_STEP p e) = (k + 1) % 2 ^ 32 ∧ t.fld (CAM_HOST_W7_POS p e) = 0) ∧
  (∀ (s : State) (j : Nat) (r : JobRun), s.run j = some r → r.relT ≠ 0 → r.arrived = false → r.relT ≤ s.ftime + 1 → r.cut = none →
    s.slotParts j ≠ [] → (∀ p ∈ s.slotParts j, s.fld (CAM_HINGE_STATUS_PHASE p) = 2) →
    exec (.stepStart j) s = .next (s.startStep j r)) ∧
  (∀ (s : State) (j : Nat) (r : JobRun), j < 8 → s.run j = some r → r.first = false → s.slotParts j ≠ [] →
    (∀ p ∈ s.slotParts j, s.flag (TRC_CFG_EN p) = false) →
    let t := s.startStep j r
    (∀ p ∈ s.slotParts j, t.fld (CAM_HINGE_STATUS_PHASE p) = 0 ∧ storeGet false t.etaMissed p = false ∧
      (r.relT - 1 < s.ftime → t.fld (CAM_HINGE_STATUS_HINGE_LATE p) = 1)) ∧
    s.RegsKept t (fun a => ∃ p ∈ s.slotParts j, a = CAM_HINGE_STATUS p) ∧ s.MemKept t) ∧
  (∀ (s : State) (j : Nat) (r : JobRun), j < 8 → s.run j = some r → r.arrived = true → r.reported = false → r.holds = [] →
    r.holdOwn = false → s.fld (RCV_J_STATUS_PHASE j) = 0 → s.slotParts j ≠ [] →
    r.arriveAt + (s.fld (CAM_HINGE_CFG_MARGIN ((s.slotParts j).headD 0)) * 1024 +
      max 1 (s.fld (CAM_HINGE_CFG_TIMEOUT ((s.slotParts j).headD 0))) * 4000000) < s.ftime →
    Answers (exec (.hingeTimeout j) s) fun t =>
      (∀ p ∈ s.slotParts j, t.fld (CAM_HINGE_STATUS_HINGE_TIMEOUT p) = 1) ∧
      t.run j = some { r with reported := true } ∧
      t.out = s.out ++ [.report 1 j ((s.jobKids j).filter (fun g => !r.notices.any (fun n => n.src == g)))] ∧
      t.bare = { s.bare with jobs := t.jobs, out := t.out } ∧
      s.RegsKept t (fun a => ∃ p ∈ s.slotParts j, a = CAM_HINGE_STATUS p)) ∧
  (∀ req cap therm guard : Nat, 400 ≤ req → 400 ≤ cap → 400 ≤ therm → 400 ≤ guard →
    let f := (pickClock req cap therm guard).1
    f ≤ req ∧ f ≤ cap ∧ f ≤ therm ∧ f ≤ guard ∧ f ∈ [req, cap, therm, guard] ∧
    ((pickClock req cap therm guard).2 = 0 ↔ f = req))

/-- PORT_TRAIN_START of a port that may train takes it to TRAIN with the lanes it kept and sends its TRAIN unit; LINK_TRAIN answers the partner, and with the partner's
acknowledgement the checks of Table 9.4 decide: no common version, the wrong plane, too few lanes, or UP with its version, lanes and width. An attempt is
given up after 60 ms and repeated (DEDUCED bounds of log entry 16 on its tolerances). A port that falls keeps its reason and no packet; the
damping hold, its level and the hold of a moved flow end at their times. -/
def Obligations.PortsTrainAndFall : Prop :=
  (∀ (s : State) (q kept : Nat) (partner : Option Nat), q < 24 →
    (s.canTrain q = false → exec (.portTrainStart q kept partner) s = .next s) ∧
    (s.canTrain q = true →
      ∃ t : State, exec (.portTrainStart q kept none) s = .next t ∧
        (∀ u, exec (.portTrainStart q kept (some u)) s = exec (.linkTrain q u) t) ∧
        t.fld (FAB_PORT_STATUS_STATE q) = 2 ∧
        (t.link q).kept = maskLess (kept &&& s.portLanes q) (s.fld (FAB_LANE_RETIRED_RETIRED (q / 4))) ∧
        (t.link q).since = s.ftime ∧ t.out = s.out ++ [.ctlUnit q (s.trainUnit q (t.link q).kept false)] ∧
        t.bare = { s.bare with links := t.links, out := t.out } ∧ s.RegsKept t (fun a => a = FAB_PORT_STATUS q)) ∧
    ((s.link q).since + 3800000000 ≤ s.ftime →
      exec (.portTrainRetry q kept partner) s = exec (.portTrainStart q kept partner) s) ∧
    (s.ftime < (s.link q).since + 3800000000 → exec (.portTrainRetry q kept partner) s = .next s) ∧
    (s.fld (FAB_PORT_STATUS_STATE q) = 4 → (s.link q).holdUntil ≤ s.ftime →
      exec (.dampHoldExpiry q kept partner) s = exec (.portTrainStart q kept partner) (s.setFld (FAB_PORT_STATUS_STATE q) 1)) ∧
    (s.fld (FAB_PORT_STATUS_STATE q) ≠ 4 ∨ s.ftime < (s.link q).holdUntil → exec (.dampHoldExpiry q kept partner) s = .next s)) ∧
  (∀ (s : State) (q u : Nat), q < 24 →
    (s.fld (FAB_PORT_STATUS_STATE q) ≠ 2 → exec (.linkTrain q u) s = .next s) ∧
    (s.fld (FAB_PORT_STATUS_STATE q) = 2 → ∃ t : State,
      (t.link q).partner = some u ∧ (t.link q).kept = (s.link q).kept ∧ t.regs = s.regs ∧ t.fld (FAB_PORT_STATUS_STATE q) = 2 ∧
      t.out = s.out ++ [.ctlUnit q (s.trainUnit q (s.link q).kept true)] ∧ t.bare = { s.bare with links := t.links, out := t.out } ∧
      exec (.linkTrain q u) s = .next (if bitAt u 64 then t.trainFinish q u else t))) ∧
  (∀ (s : State) (q u : Nat), q < 24 → s.fld (FAB_PORT_STATUS_STATE q) = 2 →
    let t := s.trainFinish q u
    let v := linkVersion (bits u 8 4) (bits u 12 4)
    let both := maskLess ((s.link q).kept &&& bits u 48 16 &&& s.portLanes q) (s.fld (FAB_LANE_RETIRED_RETIRED (q / 4)))
    let lanes := if v = 3 then s.v3Lanes q both else both
    (v = 0 → t.fld (FAB_PORT_STATUS_STATE q) = 1 ∧ t.fld (FAB_PORT_STATUS_REASON q) = 4) ∧
    (v ≠ 0 → bits u 40 3 ≠ q / 4 → t.fld (FAB_PORT_STATUS_STATE q) = 1 ∧ t.fld (FAB_PORT_STATUS_REASON q) = 5) ∧
    (v ≠ 0 → bits u 40 3 = q / 4 → popCount lanes < s.leastWidth q →
      t.fld (FAB_PORT_STATUS_STATE q) = 1 ∧ t.fld (FAB_PORT_STATUS_REASON q) = 3) ∧
    (v ≠ 0 → bits u 40 3 = q / 4 → s.leastWidth q ≤ popCount lanes →
      t.fld (FAB_PORT_STATUS_STATE q) = 3 ∧ t.fld (FAB_PORT_STATUS_VER q) = v ∧ (t.link q).kept = lanes ∧
      t.fld (FAB_PORT_STATUS_WIDTH q) = popCount (lanes &&& s.portLanes q) ∧
      (s.gid = 0 → t.fld (FAB_PORT_STATUS_REASON q) = 8) ∧ t.txq = s.txq ∧ s.MemKept t)) ∧
  (∀ (s : State) (q : Nat), q < 24 →
    (s.fld (FAB_PORT_STATUS_STATE q) = 2 → (s.link q).since + 240000000 ≤ s.ftime →
      exec (.portTrainTimeout q) s = exec (.portDown q 7) s) ∧
    (s.fld (FAB_PORT_STATUS_STATE q) ≠ 2 ∨ s.ftime < (s.link q).since + 240000000 → exec (.portTrainTimeout q) s = .next s) ∧
    ∀ reason,
      (s.fld (FAB_PORT_STATUS_STATE q) = 2 → Answers (exec (.portDown q reason) s) fun t =>
        t.fld (FAB_PORT_STATUS_STATE q) = 1 ∧ t.fld (FAB_PORT_STATUS_REASON q) = reason % 16 ∧ (t.link q).since = s.ftime ∧
        t.bare = { s.bare with links := t.links } ∧ s.RegsKept t (fun a => a = FAB_PORT_STATUS q)) ∧
      (s.fld (FAB_PORT_STATUS_STATE q) = 3 → Answers (exec (.portDown q reason) s) fun t =>
        (t.fld (FAB_PORT_STATUS_STATE q) = 1 ∨ t.fld (FAB_PORT_STATUS_STATE q) = 4) ∧
        t.fld (FAB_PORT_STATUS_REASON q) = reason % 16 ∧ t.fld (FAB_PORT_STATUS_WIDTH q) = 0 ∧
        (∀ x ∈ t.txq, x.port ≠ some q) ∧ (∀ x ∈ s.txq, x.port ≠ some q → x ∈ t.txq) ∧
        storeGet 0 t.cnt (gcntKey (0x140 + q)) = cntAdd false (storeGet 0 s.cnt (gcntKey (0x140 + q))) 1 ∧ s.MemKept t) ∧
      (s.fld (FAB_PORT_STATUS_STATE q) ≠ 2 → s.fld (FAB_PORT_STATUS_STATE q) ≠ 3 → exec (.portDown q reason) s = .next s)) ∧
  (∀ (s : State) (q : Nat), q < 24 → s.portUp q = true →
    (s.link q).since + s.fld FAB_DAMP_CFG1_DAMP_QUIET * 4000000000 ≤ s.ftime → Answers (exec (.dampQuietExpiry q) s) fun t =>
      t.fld (FAB_PORT_STATUS_DAMP_LEVEL q) = 0 ∧ s.OnlyRegs t (fun a => a = FAB_PORT_STATUS q)) ∧
  (∀ (s : State) (n : Nat), storeGet 0 s.flowHold n ≤ s.ftime → Answers (exec (.flowSwitchHoldExpiry n) s) fun t =>
    storeGet 0 t.flowHold n = 0 ∧ (∀ m, m ≠ n → storeGet 0 t.flowHold m = storeGet 0 s.flowHold m) ∧
    t = { s with flowHold := t.flowHold })

/-- A lane that loses lock, or exceeds the limit of uncorrectable codewords within a second, leaves the striping of its version 4 port when enough lanes stay: the width falls, a
LANE unit tells the partner, one FABRIC record is detected. A retrain that fails is a further lane fault and waits a second for the next; a lane that
retrained rejoins unless it is retired. What the partner has out is out here too. The REASON byte of a LANE unit is a free value. -/
def Obligations.LanesLeaveAndRejoin : Prop :=
  (∀ (s : State) (x : Nat), x < 96 →
    let q := s.lanePort x
    let b := 2 ^ (x % 16)
    let l := s.link q
    q < 24 → s.portUp q = true → s.fld (FAB_PORT_STATUS_VER q) ≠ 3 → bitAt (s.fld (FAB_LANE_ACTIVE_ACTIVE (x / 16))) (x % 16) = true →
    s.leastWidth q ≤ popCount ({ l with out := l.out ||| b }).lanes →
    ∀ i ∈ ([.laneLockLoss x, .laneUeLimit x] : List Instr),
      (i = .laneUeLimit x → s.fld FAB_LINK_CFG_LANE_UE_LIMIT <
        (l.ue.filter (fun e => e.1 == x % 16 && decide (s.ftime < e.2 + 4000000000))).length) →
      Answers (exec i s) fun t =>
        t.link q = { l with out := l.out ||| b } ∧ t.fld (FAB_PORT_STATUS_STATE q) = 3 ∧
        t.fld (FAB_PORT_STATUS_WIDTH q) = popCount ((t.link q).lanes &&& s.portLanes q) ∧
        (∃ r, t.out = s.out ++ [.ctlUnit q (laneUnit (l.out ||| b) r)]) ∧
        t.txq = s.txq ∧ t.inflight = s.inflight ∧ s.MemKept t ∧
        (s.boot = .running → t.detections.length = s.detections.length + 1) ∧
        storeGet 0 t.cnt (gcntKey (0xC0 + x)) = cntAdd false (storeGet 0 s.cnt (gcntKey (0xC0 + x))) 1 ∧
        s.RegsKept t (fun a => a = FAB_PORT_STATUS q ∨ a = FAB_LANE_ACTIVE (q / 4))) ∧
  (∀ (s : State) (x : Nat), x < 96 → s.portUp (s.lanePort x) = false ∨
    bitAt (s.fld (FAB_LANE_ACTIVE_ACTIVE (x / 16))) (x % 16) = false → exec (.laneLockLoss x) s = .next s) ∧
  (∀ (s : State) (x : Nat), x < 96 →
    let q := s.lanePort x
    let l := s.link q
    s.portUp q = true →
    (bitAt l.out (x % 16) = true → bitAt l.wait (x % 16) = false → Answers (exec (.laneRetrainTimeout x) s) fun t =>
      (t.link q).wait = l.wait ||| 2 ^ (x % 16) ∧
      storeGet 0 t.cnt (gcntKey (0xC0 + x)) = cntAdd false (storeGet 0 s.cnt (gcntKey (0xC0 + x))) 1 ∧
      t.bare = { s.bare with links := t.links, acc := t.acc } ∧ s.RegsKept t (fun _ => False)) ∧
    Answers (exec (.laneRetrainRetry x) s) (fun t =>
      (t.link q).wait = maskLess l.wait (2 ^ (x % 16)) ∧ bitAt (t.link q).wait (x % 16) = false ∧ t = { s with links := t.links }) ∧
    (bitAt l.out (x % 16) = true → bitAt l.wait (x % 16) = false →
      (bitAt (s.fld (FAB_LANE_RETIRED_RETIRED (x / 16))) (x % 16) = true → exec (.laneRejoin x) s = .next s) ∧
      (bitAt (s.fld (FAB_LANE_RETIRED_RETIRED (x / 16))) (x % 16) = false → Answers (exec (.laneRejoin x) s) fun t =>
        (t.link q).out = maskLess l.out (2 ^ (x % 16)) ∧
        t.fld (FAB_PORT_STATUS_WIDTH q) = popCount ((t.link q).lanes &&& s.portLanes q) ∧
        (∃ r, t.out = s.out ++ [.ctlUnit q (laneUnit (maskLess l.out (2 ^ (x % 16))) r)]) ∧
        t.bare = { s.bare with links := t.links, out := t.out } ∧
        s.RegsKept t (fun a => a = FAB_PORT_STATUS q ∨ a = FAB_LANE_ACTIVE (q / 4))))) ∧
  (∀ (s : State) (q mask : Nat), q < 24 → s.portUp q = true → s.fld (FAB_PORT_STATUS_VER q) ≠ 3 →
    let l : Link := { s.link q with peerOut := mask &&& s.portLanes q }
    s.leastWidth q ≤ popCount l.lanes → Answers (exec (.linkLane q mask) s) fun t =>
      t.link q = l ∧ t.fld (FAB_PORT_STATUS_WIDTH q) = popCount (l.lanes &&& s.portLanes q) ∧
      t.bare = { s.bare with links := t.links } ∧ s.RegsKept t (fun a => a = FAB_PORT_STATUS q ∨ a = FAB_LANE_ACTIVE (q / 4)))

/-- A codeword on a port in UP: the next one in order joins the data stream and is acknowledged; after a gap, or an uncorrectable one, a NAK names the first
missing one, once; an old one is acknowledged again. An ACK releases the packets it covers, a NAK sends again from the named SEQ or takes the
port down at RETRY_LIMIT with reason RETRY, CREDIT gives the counts of the four channels. The model sends one packet per codeword (log entry 7). -/
def Obligations.CodewordsAreAcknowledgedAndRetried : Prop :=
  (∀ (s : State) (q lane fec seq cmask : Nat) (units : List Nat), q < 24 → s.fld (FAB_PORT_STATUS_STATE q) = 3 →
    let l := s.link q
    let ctl := (units.zipIdx.filter (fun u => bitAt cmask u.2)).map (·.1)
    let data := (units.zipIdx.filter (fun u => !bitAt cmask u.2)).flatMap (fun u => leBytes 64 u.1)
    (seq % 1024 = l.rxSeq → ∃ u : State,
      u.link q = { l with rxSeq := (l.rxSeq + 1) % 1024, nakSent := false, stream := l.stream ++ data } ∧
      u.out = s.out ++ [.ctlUnit q (ackUnit l.rxSeq)] ∧ u.bare = { s.bare with links := u.links, out := u.out } ∧
      s.RegsKept u (fun _ => False) ∧
      exec (.codewordReceive q lane false fec seq cmask units) s = .next (ctl.foldl (fun t u => t.linkUnit q u) u)) ∧
    (seq % 1024 ≠ l.rxSeq → l.rxSeq < 1024 → (l.rxSeq + 1024 - seq % 1024) % 1024 ≤ 512 →
      Answers (exec (.codewordReceive q lane false fec seq cmask units) s) fun t =>
        t.links = s.links ∧ t.out = s.out ++ [.ctlUnit q (ackUnit (l.rxSeq + 1023))] ∧ s.RegsKept t (fun _ => False)) ∧
    (512 < (l.rxSeq + 1024 - seq % 1024) % 1024 →
      Answers (exec (.codewordReceive q lane false fec seq cmask units) s) fun t =>
        (t.link q).nakSent = true ∧ (t.link q).rxSeq = l.rxSeq ∧ (t.link q).stream = l.stream ∧
        t.out = (if l.nakSent then s.out else s.out ++ [.ctlUnit q (nakUnit l.rxSeq)])) ∧
    Answers (exec (.codewordReceive q lane true fec seq cmask units) s) (fun t =>
      (t.link q).nakSent = true ∧ (t.link q).rxSeq = l.rxSeq ∧ (t.link q).stream = l.stream ∧
      t.out = (if l.nakSent then s.out else s.out ++ [.ctlUnit q (nakUnit l.rxSeq)]) ∧ (lane % 16, s.ftime) ∈ (t.link q).ue)) ∧
  (∀ (s : State) (q lane fec seq cmask : Nat) (units : List Nat) (bad : Bool), s.fld (FAB_PORT_STATUS_STATE q) ≠ 2 →
    s.fld (FAB_PORT_STATUS_STATE q) ≠ 3 → exec (.codewordReceive q lane bad fec seq cmask units) s = .next s) ∧
  (∀ (s : State) (q seq : Nat), q < 24 → s.portUp q = true →
    let acked := fun (x : TxPkt) => x.port == some q && decide ((seq + 1024 - x.codeword) % 1024 < 512)
    Answers (exec (.linkAck q seq) s) fun t =>
      t.txq = s.txq.filter (fun x => !acked x) ∧
      t.bare = { s.bare with txq := t.txq, flowDrain := t.flowDrain } ∧
      s.RegsKept t (fun a => ∃ x ∈ s.txq, ∃ n, acked x = true ∧ x.flow = some n ∧ a = FLW_CTX n + 20)) ∧
  (∀ (s : State) (q seq : Nat), q < 24 → s.portUp q = true →
    let again := fun (x : TxPkt) => x.port == some q && decide ((x.codeword + 1024 - seq) % 1024 < 512)
    ((∀ x ∈ s.txq, again x = true → x.sends < max 1 (s.fld FAB_LINK_CFG_RETRY_LIMIT)) →
      Answers (exec (.linkNak q seq) s) fun t =>
        t.txq = s.txq.map (fun x => if again x then { x with sends := x.sends + 1 } else x) ∧ t.out = s.out ++ [.resend q seq] ∧
        t.bare = { s.bare with txq := t.txq, out := t.out } ∧ s.RegsKept t (fun _ => False)) ∧
    ((∃ x ∈ s.txq, again x = true ∧ max 1 (s.fld FAB_LINK_CFG_RETRY_LIMIT) ≤ x.sends) →
      Answers (exec (.linkNak q seq) s) fun t =>
        t.fld (FAB_PORT_STATUS_STATE q) ≠ 3 ∧ t.fld (FAB_PORT_STATUS_REASON q) = 2)) ∧
  (∀ (s : State) (q : Nat) (c : List Nat), s.portUp q = true → Answers (exec (.linkCredit q c) s) fun t =>
    t.link q = { s.link q with limit := (List.range 4).map (fun v => c.getD v 0 % 2 ^ 32) } ∧ t = { s with links := t.links }) ∧
  (∀ (s : State) (q seq mask : Nat) (c : List Nat), s.portUp q = false →
    exec (.linkAck q seq) s = .next s ∧ exec (.linkNak q seq) s = .next s ∧ exec (.linkCredit q c) s = .next s ∧
    exec (.linkLane q mask) s = .next s)

/-- SLOT_BOUNDARY takes fabric time to the next multiple of 1,024 ticks and fills every bucket up to its depth. The packet that R286 chooses leaves on its port, takes a codeword and its
tokens. A time exchange is stamped, answered at once, discarded beyond its delay, or gives the offset by which time slews, or steps while
no job is loaded. A saturated level is reported once. An old gap is recorded and its packets asked of the sender. Ordering among
chosen packets within the spec's latitude is the model's (log entry 16). -/
def Obligations.SlotsTransmissionAndTime : Prop :=
  (∀ s : State, Answers (exec .slotBoundary s) fun t =>
    t.ftime = (s.ftime / 1024 + 1) * 1024 % 2 ^ 64 ∧
    (∀ j k, j < 8 → k < 6 → storeGet 0 t.buckets (8 * j + k) =
      min (storeGet 0 s.buckets (8 * j + k) + s.shareRate j k) (s.shareRate j k * s.shareDepth j k)) ∧
    (∀ q r, 4 * q + r < 256 → storeGet 0 t.slotUse (4 * q + r) = 0) ∧
    t = { s with ftime := t.ftime, buckets := t.buckets, slotUse := t.slotUse }) ∧
  (∀ (s : State) (q d1 d2 : Nat) (x : TxPkt), q < 24 → s.portUp q = true →
    (s.txq.filter (fun x => x.port == some q)).length < s.replayCap q → s.choose q = some (x, d1, d2) → x.cmd = none →
    Answers (exec (.packetTransmit q []) s) fun t =>
      t.out = s.out ++ [.packet q x.pkt] ∧ (t.link q).txSeq = ((s.link q).txSeq + 1) % 1024 ∧
      t.txq = s.txq.map (fun z => if z = x then { x with port := some q, codeword := (s.link q).txSeq, sends := 1 } else z) ∧
      (∀ j, s.pktJob x = some j →
        storeGet 0 t.buckets (8 * j + q / 4) = storeGet 0 s.buckets (8 * j + q / 4) - x.pkt.wire.length) ∧
      (∀ f, x.flow = some f → f < 16384 → s.fld (fcOut f) < 512 → t.fld (fcOut f) = s.fld (fcOut f) + 1) ∧
      t.bare = { s.bare with out := t.out, links := t.links, txq := t.txq, buckets := t.buckets, slotUse := t.slotUse } ∧
      s.RegsKept t (fun a => ∃ f, x.flow = some f ∧ a = FLW_CTX f + 20)) ∧
  (∀ (s : State) (q : Nat) (par : List (Nat × Nat × Nat)), s.portUp q = false ∨ s.choose q = none ∨
    s.replayCap q ≤ (s.txq.filter (fun x => x.port == some q)).length → exec (.packetTransmit q par) s = .next s) ∧
  (∀ (s : State) (q : Nat), s.portUp q = true → Answers (exec (.timeExchangeStart q) s) fun t =>
    (t.link q).xseq = ((s.link q).xseq + 1) % 65536 ∧
    t.out = s.out ++ [.ctlUnit q (timeUnit 1 s.timeHops.1 s.timeHops.2 (s.link q).xseq s.ftime 0 0)] ∧
    t = { s with links := t.links, out := t.out }) ∧
  (∀ (s : State) (q hops x t1 : Nat), q < 24 → s.portUp q = true → Answers (exec (.timeReq q hops x t1) s) fun t =>
    (t.link q).hops = hops % 256 ∧ t.bare = { s.bare with links := t.links, out := t.out } ∧
    t.out = s.out ++ [.ctlUnit q (timeUnit 2 t.timeHops.1 t.timeHops.2 x t1 s.ftime s.ftime)] ∧
    s.RegsKept t (fun a => a = FAB_TIME_STATUS)) ∧
  (∀ (s : State) (q hops t1 t2 t3 : Nat), q < 24 → s.portUp q = true →
    let off := (stampDiff t2 t1 + stampDiff t3 s.ftime) / 2
    let delay := (stampDiff s.ftime t1 - stampDiff t3 t2) / 2
    let u := s.timeAdvert q hops
    (delay < 0 ∨ 40000 < delay → Answers (exec (.timeResp q hops t1 t2 t3) s) fun t =>
      t.ftime = s.ftime ∧ t.slew = s.slew ∧ s.RegsKept t (fun a => a = FAB_TIME_STATUS) ∧
      storeGet 0 t.cnt (gcntKey 0x171) = cntAdd false (storeGet 0 s.cnt (gcntKey 0x171)) 1) ∧
    (0 ≤ delay → delay ≤ 40000 → u.fld FAB_TIME_STATUS_SOURCE = q →
      Answers (exec (.timeResp q hops t1 t2 t3) s) fun t =>
        t.fld FAB_TIME_STATUS_VALID = 1 ∧
        t.fld FAB_TIME_OFFSET_OFFSET_PS = codeOf (max (-(2 ^ 31)) (min (2 ^ 31 - 1) (off * 250))) 32 ∧
        (s.anyLoaded = true ∨ off.natAbs < s.fld FAB_TIME_CFG1_STEP_LIMIT * 4 → t.slew = off ∧ t.ftime = s.ftime) ∧
        (s.anyLoaded = false → s.fld FAB_TIME_CFG1_STEP_LIMIT * 4 ≤ off.natAbs →
          t.slew = 0 ∧ t.ftime = (((s.ftime : Int) + off) % (2 ^ 64)).toNat ∧ t.fld FAB_TIME_STATUS_STEP_SEEN = 1) ∧
        (16 < off.natAbs → t.fld FAB_TIME_STATUS_LOCKED = 0) ∧ s.MemKept t)) ∧
  (∀ s : State, Answers (exec .timeHoldoverExpiry s) fun t =>
    t.fld FAB_TIME_STATUS_LOCKED = 0 ∧ (s.flag FAB_TIME_STATUS_LOCKED = true → t.fld FAB_TIME_STATUS_UNLOCK_SEEN = 1) ∧
    t.bare = { s.bare with timeGood := 0 } ∧ s.RegsKept t (fun a => a = FAB_TIME_STATUS)) ∧
  (∀ s : State, Answers (exec .satWindowEnd s) fun t =>
    (∀ i, i < 24 → bitAt (t.fld FAB_SAT_STATUS_SAT) i = s.saturated i ∧ storeGet 0 t.satBase i = s.lvlWait i) ∧
    ((∃ i, i < 24 ∧ s.saturated i = true ∧ bitAt (s.fld FAB_SAT_STATUS_SAT) i = false) → t.fld FAB_SAT_STATUS_SAT_SEEN = 1) ∧
    t.bare = { s.bare with satBase := t.satBase } ∧ s.RegsKept t (fun a => a = FAB_SAT_STATUS)) ∧
  (∀ (s : State) (n : Nat), n < 16384 →
    (s.gapOpen n = false → exec (.gapTimeout n) s = .next s) ∧
    (s.gapOpen n = true → s.gapInReplay n = false → ∃ u : State,
      u.fld FAB_RX_STATUS_GAP = 1 ∧ (s.boot = .running → u.detections.length = s.detections.length + 1) ∧
      s.OnlyRegs u (fun a => a = FAB_RX_STATUS ∨ a = FLW_CTX n + 24) ∧
      exec (.gapTimeout n) s = .next (match s.senderGid n with
        | some g => u.sendCtl g (s.fld (fcJob n)) (lreqMsg 0x32 (s.fld (fcJob n)) 0 (s.fld (fcDst n)) 1 n (s.fld (fcSeq n)))
        | none => u)))

/-- For every header whose fields fit their widths: each field stands at the bits of Table 9.8, the reserved bits are zero, bits 240 to 255 hold the CRC-16 of bytes 0 to 29 as its
register steps with polynomial 0x1021 from 0xFFFF, the header's eight words travel little-endian, and decoding the encoded header gives
every field back. -/
def Obligations.HeaderLayout : Prop :=
  (∀ h : Hdr, h.ver < 2 ^ 4 → h.cls < 2 ^ 3 → h.rsnd < 2 → h.dst < 2 ^ 20 → h.src < 2 ^ 20 → h.flow < 2 ^ 14 → h.gen < 2 ^ 16 →
    h.seq < 2 ^ 24 → h.tumbler < 2 ^ 12 → h.inc < 2 ^ 4 → h.layer < 2 ^ 16 → h.oper < 2 ^ 16 → h.psn < 2 ^ 8 → h.len < 2 ^ 10 →
    h.path < 2 ^ 4 → h.lsid < 2 ^ 24 → h.offset < 2 ^ 32 → h.part < 2 ^ 4 →
    let n := h.enc
    n < 2 ^ 256 ∧ Hdr.dec n = h ∧
    bits n 0 4 = h.ver ∧ bits n 4 3 = h.cls ∧ bits n 7 1 = h.rsnd ∧ bits n 8 20 = h.dst ∧ bits n 28 20 = h.src ∧
    bits n 48 14 = h.flow ∧ bits n 62 2 = 0 ∧ bits n 64 16 = h.gen ∧ bits n 80 24 = h.seq ∧ bits n 104 12 = h.tumbler ∧
    bits n 116 4 = h.inc ∧ bits n 120 16 = h.layer ∧ bits n 136 16 = h.oper ∧ bits n 152 8 = h.psn ∧ bits n 160 10 = h.len ∧
    bits n 170 4 = h.path ∧ bits n 174 2 = 0 ∧ bits n 176 24 = h.lsid ∧ bits n 200 32 = h.offset ∧ bits n 232 4 = h.part ∧
    bits n 236 4 = 0 ∧
    bits n 240 16 = (leBytes 30 n).foldl (fun c b => (List.range 8).foldl (fun c _ =>
      if c / 2 ^ 15 = 1 then (c * 2 % 2 ^ 16) ^^^ 0x1021 else c * 2 % 2 ^ 16) (c ^^^ b * 2 ^ 8)) 0xFFFF ∧
    hcrcOk n = true) ∧
  (∀ (p : Pkt) (i : Nat), i < 32 → p.wire.getD i 0 = p.hdr / 256 ^ i % 256)

/-- An internal packet leaves its queue and goes through the checks; a port that is not UP gives none. A packet for another module, a malformed one, one whose CRC-32C fails,
and a stale, duplicate or out-of-window one is dropped with the flag and counter of its check, the first capture, and no effect on memory or
work. A sequence number in order moves EXPECT, one ahead opens a gap. Without FAB_GID only management traffic is taken. -/
def Obligations.ReceiveChecks : Prop :=
  (∀ (s : State) (q : Nat) (tbl : List Nat) (par : List (Nat × Nat × Nat)) (peers : Bool),
    (s.boot ≠ .running → exec (.packetReceive q tbl par peers) s = .next s) ∧
    (s.boot = .running → s.intq = [] → exec (.packetReceive 0x1F [] par peers) s = .next s) ∧
    (∀ x l, s.boot = .running → s.intq = x :: l → exec (.packetReceive 0x1F [] par peers) s =
      .next (let t := ({ s with intq := l }).rxPacket 0x1F x.pkt true par peers
        match x.cmd with | some k => t.settleCmd k | none => t)) ∧
    (s.boot = .running → q < 24 → s.portUp q = true → exec (.packetReceive q [] par peers) s = .next (s.rxPort q par peers)) ∧
    (q ≠ 0x1F → q < 24 → s.portUp q = false → exec (.packetReceive q [] par peers) s = .next s)) ∧
  (∀ (s : State) (q : Nat) (p : Pkt) (crc : Bool) (par : List (Nat × Nat × Nat)) (peers : Bool),
    let h := Hdr.dec p.hdr
    let t := s.rxPacket q p crc par peers
    let dropped := fun (check : Nat) (flag : Fld) => t.fld flag = 1 ∧ t.fld FAB_RX_CAP0_VALID = 1 ∧
      (s.fld FAB_RX_CAP0_VALID = 0 → t.fld FAB_RX_CAP0_CHECK = check ∧ t.fld FAB_RX_CAP0_SRC = h.src ∧ t.fld FAB_RX_CAP1_FLOW = h.flow) ∧
      storeGet 0 t.cnt (gcntKey (0x160 + check)) = cntAdd false (storeGet 0 s.cnt (gcntKey (0x160 + check))) 1 ∧
      s.OnlyRegs t (fun a => a = FAB_RX_STATUS ∨ a = FAB_RX_CAP0_VALID.addr ∨ a = FAB_RX_CAP1_FLOW.addr ∨ a = FAB_RX_CAP2_SEQ.addr)
    (s.gid = 0 → h.cls ≠ 5 → t = s) ∧
    (s.gid ≠ 0 → h.dst ≠ s.gid → dropped 2 FAB_RX_STATUS_MISROUTE) ∧
    (s.gid ≠ 0 → h.dst = s.gid → h.ok p.hdr = false → dropped 3 FAB_RX_STATUS_MALFORMED) ∧
    (s.gid ≠ 0 → h.dst = s.gid → h.ok p.hdr = true → crc = false → dropped 4 FAB_RX_STATUS_CRC_FAIL ∧
      (s.boot = .running → t.detections.length = s.detections.length + 1)) ∧
    (s.gid ≠ 0 → h.dst = s.gid → h.ok p.hdr = true → crc = true → h.cls ≠ 2 → h.cls ≠ 5 → t = s.rxFlow q h p.pay par)) ∧
  (∀ (s : State) (q : Nat) (h : Hdr) (pay : List Nat) (par : List (Nat × Nat × Nat)),
    let n := h.flow
    let cur := s.fld (FAB_JOB_GEN_GEN (s.fld (fcJob n)))
    let t := s.rxFlow q h pay par
    (s.fld (fcKind n) ≠ 2 ∨ s.fld (fcClass n) ≠ h.cls → t.fld FAB_RX_STATUS_FLOW_VIOLATION = 1 ∧ t.bare = s.bare) ∧
    (storeGet false s.tblBad (FLW_CTX n) = false → s.fld (fcKind n) = 2 → s.fld (fcClass n) = h.cls → s.flag (fcV3 n) = (h.ver == 3) →
      (s.flag RCV_FENCE_FENCED = true → s.OnlyRegs t (fun _ => False) ∧
        storeGet 0 t.cnt (gcntKey 0x167) = cntAdd false (storeGet 0 s.cnt (gcntKey 0x167)) 1) ∧
      (s.flag RCV_FENCE_FENCED = false → s.isDead (s.fld (fcJob n)) h.src = false →
        (h.gen ≠ cur → genNewer h.gen cur = false → s.OnlyRegs t (fun _ => False) ∧
          storeGet 0 t.cnt (gcntKey 0x16C) = cntAdd false (storeGet 0 s.cnt (gcntKey 0x16C)) 1) ∧
        (h.gen ≠ cur → genNewer h.gen cur = true → t.fld FAB_RX_STATUS_FUTURE_GEN = 1 ∧ t.bare = s.bare)))) ∧
  (∀ g c : Nat, g < 2 ^ 16 → c < 2 ^ 16 → g ≠ c → (genNewer g c = false ↔ 1 ≤ (c + 2 ^ 16 - g) % 2 ^ 16 ∧ (c + 2 ^ 16 - g) % 2 ^ 16 ≤ 32767)) ∧
  (∀ (s : State) (n d : Nat), n < 16384 → s.fcWindow n = 0 → d < 512 →
    let t := s.acceptSeq n d
    (d = 0 → t.fld (fcSeq n) = (s.fld (fcSeq n) + 1) % 2 ^ s.fcSeqBits n ∧ t.fcWindow n = 0) ∧
    (0 < d → s.fld (fcSeq n) < 2 ^ s.fcSeqBits n → t.fld (fcSeq n) = s.fld (fcSeq n) ∧ t.fcWindow n = 2 ^ d ∧ t.fld (fcGap n) = 0) ∧
    t.bare = s.bare)

/-- Check 12 of a scheduled or bulk packet with whole units, whose shard is hosted here: byte for byte the payload stands where the receive region decodes to, poison follows the header's mask,
the tumbler that the packet names in the window gains INC, with the sender as its source, and nothing else changes. A packet
beyond the region, or naming tumbler 0 or one outside the window, writes nothing and sets RCV_VIOLATION with one record. -/
def Obligations.DeliveredDataLandsBeforeItsBump : Prop :=
  ∀ (s : State) (h : Hdr) (pay : List Nat) (w k : Nat) (m : Nat → Nat), s.rekey (s.fld (fcJob h.flow)) h.lsid = some w →
    let p := rkPart w
    let e := rkEntry w
    let win := s.tumWin p e
    let n := win.1 + h.tumbler
    p < 8 → h.len = 64 * k → pay.length = 64 * k → n < 4096 →
    let t := s.landData h pay
    (h.offset + k ≤ s.fld (CAM_HOST_W11_RCV_LEN p e) → 0 < h.tumbler → h.tumbler < win.2 → s.stepCount p n + h.inc < 2 ^ 31 →
      (∀ u, u < k → s.locate p e ((0x50000000 + h.offset + u) % 2 ^ 32) = .at (m u)) →
      (∀ u v, u < k → v < k → m u = m v → u = v) →
      (∀ u i, u < k → i < 64 → (t.byte (64 * m u + i)).toNat = pay.getD (64 * u + i) 0 % 256) ∧
      (∀ u, u < k → storeGet false t.poison (m u) = bitAt h.psn u) ∧
      (∀ b, (∀ u, u < k → b / 64 ≠ m u) → t.byte b = s.byte b) ∧
      (∀ d, (∀ u, u < k → d ≠ m u) → storeGet false t.poison d = storeGet false s.poison d) ∧
      t.fld (TMB_VALUE_VALUE p n) = (s.fld (TMB_VALUE_VALUE p n) + h.inc) % 2 ^ 32 ∧
      t.fld (TMB_SRC_MODULE p n) = h.src % 2 ^ 20 ∧ t.fld (TMB_SRC_PART p n) = h.part % 2 ^ 4 ∧ t.fld (TMB_SRC_LOCAL p n) = 0 ∧
      t.bare = { s.bare with mem := t.mem, poison := t.poison } ∧
      s.RegsKept t (fun a => a = TMB_VALUE p n ∨ a = TMB_SRC p n)) ∧
    (s.fld (CAM_HOST_W11_RCV_LEN p e) < h.offset + k ∨ h.tumbler = 0 ∨ win.2 ≤ h.tumbler →
      t.fld (CAM_STATUS_RCV_VIOLATION p) = 1 ∧ (s.boot = .running → t.detections.length = s.detections.length + 1) ∧
      s.OnlyRegs t (fun a => a = (CAM_STATUS_RCV_VIOLATION p).addr))

/-- The message rows of the barrier, of broadcasts and of restores, on a module that runs. The handler of the row's own message answers the next state; a message from a
module on the dead list of its job has no effect but the DEADBOLT that it draws, at most one in 10 ms. A module that does not run takes no message. The
bytes of the messages beyond those that the spec lays out are the model's (log entry 15). -/
def Obligations.ControlMessagesReachTheirHandlers : Prop :=
  (∀ x ∈ ([(fun g m => .readyNotice g m, State.onReadyNotice), (fun g m => .holdNotice g m, State.onHoldNotice),
        (fun g m => .hingeRelease g m, State.onHingeRelease), (fun g m => .hreq g m, State.onHreq), (fun g m => .hsum g m, State.onHsum),
        (fun g m => .huse g m, State.onHuse), (fun g m => .hpick g m, State.onHpick), (fun g m => .hget g m, State.onHget),
        (fun g m => .bchunk g m, State.onBchunk), (fun g m => .bhb g m, State.onBhb), (fun g m => .attach g m, State.onAttach),
        (fun g m => .attachAck g m, State.onAttachAck), (fun g m => .breq g m, State.onBreq), (fun g m => .bdone g m, State.onBdone)] :
      List ((Nat → List Nat → Instr) × (State → Nat → List Nat → State))),
    ∀ (s : State) (src : Nat) (m : List Nat),
      let j := mByte m 1 % 8
      (s.boot ≠ .running → exec (x.1 src m) s = .next s) ∧
      (s.boot = .running → s.isDead j src = false → exec (x.1 src m) s = .next (x.2 s src m)) ∧
      (s.boot = .running → s.isDead j src = true → exec (x.1 src m) s = .next (s.deadbolt j src))) ∧
  (∀ (s : State) (j gid : Nat),
    (storeGet 0 s.deadSent gid ≠ 0 → s.ftime + 1 < storeGet 0 s.deadSent gid + 40000000 → s.deadbolt j gid = s) ∧
    (storeGet 0 s.deadSent gid = 0 ∨ storeGet 0 s.deadSent gid + 40000000 ≤ s.ftime + 1 →
      let t := s.deadbolt j gid
      storeGet 0 t.deadSent gid = s.ftime + 1 ∧
      storeGet 0 t.cnt (gcntKey 0x223) = cntAdd false (storeGet 0 s.cnt (gcntKey 0x223)) 1 ∧
      t.bare = { s.bare with deadSent := t.deadSent, txq := t.txq, intq := t.intq } ∧ s.RegsKept t (fun _ => False) ∧
      (s.boot = .running → s.flag RCV_FENCE_FENCED = false → gid < 2 ^ 20 → gid ≠ s.gid → j < 8 →
        ∃ x : TxPkt, t.txq = s.txq ++ [x] ∧ x.flow = none ∧ x.port = none ∧ (Hdr.dec x.pkt.hdr).cls = 2 ∧
          (Hdr.dec x.pkt.hdr).dst = gid ∧ mByte x.pkt.pay 0 = 0x36 ∧ mByte x.pkt.pay 1 = j ∧ mField x.pkt.pay 4 3 = gid ∧
          mField x.pkt.pay 8 2 = s.fld (FAB_JOB_GEN_GEN j) % 2 ^ 16 ∧ mField x.pkt.pay 12 4 = s.fld (FAB_JOB_ID_JOB_ID j))))

/-- The messages of an open broadcast, of a live sender. A summary of a missing chunk from the parent is kept, passed to the armed children and verified; a heartbeat of the
parent gives what it holds, the first of a child arms and feeds it; a request names the held chunks that are sent again; a report of a child is summed. A node
reports when it holds everything and every child has reported. A parent that is silent three periods is replaced by an ancestor, a
child likewise by its children, an expected node that does not attach is unaccounted. -/
def Obligations.BroadcastsCopyThroughTheTree : Prop :=
  (∀ (s : State) (src : Nat) (m : List Nat), mField m 4 4 ≠ 0 → s.bcastOf (mByte m 1) (mField m 4 4) = none →
    s.onBchunk src m = s ∧ s.onBhb src m = s ∧ s.onBreq src m = s ∧ s.onBdone src m = s ∧ s.onAttachAck src m = s ∧
    s.onAttach src m = s.sendCtl src (mByte m 1) (bMsg 0x13 (mByte m 1) (mField m 4 4) [0])) ∧
  (∀ (s : State) (src : Nat) (m : List Nat) (b : Bcast), mField m 4 4 ≠ 0 → s.bcastOf (mByte m 1) (mField m 4 4) = some b →
    (b.parent = some src → mField m 8 4 < b.total → bitAt b.held (mField m 8 4) = false →
      s.onBchunk src m = ((b.kids.filter (fun k => k.armed && !bitAt k.owed (mField m 8 4))).foldl (fun t k =>
        t.bcastSum b k (mField m 8 4) (mField m 12 4) (mField m 16 4)) s).bcastVerify
          { b with sums := storeSet none b.sums (mField m 8 4) (some (mField m 12 4, mField m 16 4)) } (mField m 8 4)) ∧
    (b.parent ≠ some src → s.onBchunk src m = s) ∧
    (b.parent = some src → s.onBhb src m = s.setBcast { b with beat := s.ftime, below := mField m 8 4 }) ∧
    (∀ k, b.parent ≠ some src → b.kids.find? (fun k => k.gid == src) = some k →
      let k' : BKid := { k with armed := true, beat := s.ftime }
      s.onBhb src m = (if k.armed then s else s.bcastFeed b k').setBcast
        { b with kids := b.kids.map (fun x => if x.gid = src then k' else x) }) ∧
    s.onBdone src m = s.bcastStep { b with kids := b.kids.map (fun k =>
      if k.gid = src then { k with done := some (mField m 8 4, mField m 12 4, mField m 16 4) } else k) }) ∧
  (∀ (s : State) (b : Bcast),
    (b.finished = false → s.bcastStep b = s.setBcast b) ∧
    (∀ g, b.finished = true → b.parent = some g → s.bcastStep b =
      ((((s.setBcast b).sendCtl g b.job (bMsg 0x15 b.job b.handle (leBytes 4 b.sumsOf.1 ++ leBytes 4 b.sumsOf.2.1 ++
        leBytes 4 b.sumsOf.2.2))).bcastEnd b stOk).bcastClose b 4)) ∧
    (b.finished = true → b.parent = none → s.bcastStep b =
      ((s.setBcast b).bcastEnd b (if b.sumsOf.2.2 = 0 then stOk else stOrphan)).bcastClose b 4)) ∧
  (∀ (s : State) (b : Bcast), b.place < 8 → b.kids.length < 256 →
    let t := s.setBcast b
    t.bcasts = s.bcasts.map (fun x => if x.place = b.place then b else x) ∧
    t.fld (BCT_OP_HANDLE_HANDLE b.place) = b.handle % 2 ^ 32 ∧ t.fld (BCT_OP_STATE_STATE b.place) = b.code ∧
    t.fld (BCT_OP_STATE_CHILDREN b.place) = b.kids.length ∧ t.fld (BCT_OP_HELD_HELD b.place) = b.heldCount % 2 ^ 21 ∧
    t.fld (BCT_OP_LOST_LOST b.place) = b.sumsOf.2.1 % 2 ^ 17 ∧
    t.bare = { s.bare with bcasts := t.bcasts } ∧
    s.RegsKept t (fun a => BCT_OP_HANDLE b.place ≤ a ∧ a < BCT_OP_HANDLE b.place + 32)) ∧
  (∀ (s : State) (b : Bcast) (c : Nat) (x : Nat × Nat), storeGet none b.sums c = some x →
    (storeGet 0 b.got c = 2 ^ b.chunkPkts c - 1 → x.1 = b.chunkLen c →
      crc32c (s.hbmGet (b.dest + 1048576 * c) x.1) = x.2 → s.bcastVerify b c = s.bcastHold b c) ∧
    (storeGet 0 b.got c = 2 ^ b.chunkPkts c - 1 → crc32c (s.hbmGet (b.dest + 1048576 * c) x.1) ≠ x.2 → b.place < 8 →
      ∃ (u : State) (b' : Bcast), s.bcastVerify b c = u.bcastAsk b' [c] ∧ b' = { b with got := b'.got, sums := b'.sums } ∧
        storeGet 0 b'.got c = 0 ∧ storeGet none b'.sums c = none ∧ u.fld BCT_STATUS_CRC_FAIL = 1 ∧ s.MemKept u ∧
        storeGet 0 u.cnt (gcntKey 0x205) = cntAdd false (storeGet 0 s.cnt (gcntKey 0x205)) 1) ∧
    (storeGet 0 b.got c ≠ 2 ^ b.chunkPkts c - 1 → s.bcastVerify b c = s.setBcast b)) ∧
  (∀ s : State, exec .bhbSend s = .next (s.bcasts.foldl (fun t b => (b.parent.toList ++ b.kids.map (·.gid)).foldl (fun u g =>
    u.sendCtl g b.job (bMsg 0x11 b.job b.handle (leBytes 4 b.heldBelow ++ [0, 0, 0, 0]))) t) s)) ∧
  (∀ (s : State) (f : Nat), exec (.opBroadcast f) s =
    .next (match s.submit f 5 with | (t, some o) => t.bcastArm o | (t, none) => t)) ∧
  (∀ (s : State) (j handle c gid : Nat), handle ≠ 0 → s.bcastOf j handle = none →
    exec (.bcastParentLost j handle) s = .next s ∧ exec (.bcastChunkTimeout j handle c) s = .next s ∧
    exec (.bcastChildLost j handle gid) s = .next s ∧ exec (.attachTimeout j handle) s = .next s ∧
    exec (.unaccountedTimeout j handle gid) s = .next s) ∧
  (∀ (s : State) (j handle c gid : Nat) (b : Bcast), handle ≠ 0 → s.bcastOf j handle = some b →
    (b.beat + 3 * s.hbTicks ≤ s.ftime → b.root = false → b.upTry = 0 → b.up = 0 →
      (∀ g, b.relGid 1 = some g → exec (.bcastParentLost j handle) s =
        .next ((s.setBcast { b with upTry := 1 }).sendCtl g b.job (bMsg 0x12 b.job b.handle (leBytes 4 b.index)))) ∧
      (b.relGid 1 = none → b.relGid 2 = none → exec (.bcastParentLost j handle) s = .next (s.bcastOrphan b))) ∧
    (s.ftime < b.beat + 3 * s.hbTicks → exec (.bcastParentLost j handle) s = .next s) ∧
    (c < b.below → c < b.total → bitAt b.held c = false → b.upTry = 0 → b.asked.contains c = false →
      exec (.bcastChunkTimeout j handle c) s = .next ((s.setBcast { b with asked := c :: b.asked }).bcastAsk b [c])) ∧
    (∀ k, b.kids.find? (fun k => k.gid == gid) = some k → k.done = none → k.beat + 3 * s.hbTicks ≤ s.ftime →
      ∃ new, exec (.bcastChildLost j handle gid) s = .next ((s.freeFlow k.flow j).bcastStep
        { b with kids := b.kids.filter (fun x => x.gid != gid), lost := b.lost + 1, expects := b.expects ++ new })) ∧
    (b.upTry = 0 → exec (.attachTimeout j handle) s = .next s) ∧
    (b.upTry ≠ 0 → exec (.attachTimeout j handle) s = .next (s.bcastAttach b b.upTry)) ∧
    (∀ x, b.expects.find? (fun x => x.2 == gid) = some x →
      ∃ new, exec (.unaccountedTimeout j handle gid) s = .next (s.bcastStep
        { b with expects := b.expects.filter (fun y => y.2 != gid) ++ new, unacc := b.unacc + 1 }))) ∧
  (∀ (s : State) (j g : Nat) (r : JobRun), s.run j = some r →
    (r.upTry = 3 → (∀ a, s.jobRel j a = if a = 1 then some g else none) → exec (.jobTreeAttachRetry j) s =
      .next (s.sendCtl g j (bMsg 0x12 j 0 (leBytes 4 (s.fld (actFld (BCT_JHDR_W0_INDEX j))))))) ∧
    (r.upTry ≠ 3 → exec (.jobTreeAttachRetry j) s = .next s) ∧
    (s.isRoot j = false → r.upTry = 0 → r.up = none → s.jobRel j 1 = some g → exec (.bcastParentLost j 0) s =
      .next ((s.updRun j (fun r => { r with upTry := 1 })).sendCtl g j
        (bMsg 0x12 j 0 (leBytes 4 (s.fld (actFld (BCT_JHDR_W0_INDEX j))))))) ∧
    (s.isRoot j = true → exec (.bcastParentLost j 0) s = .next s))

/-- A chunk of an open set that is not complete in HASP_CHUNK_TIMEOUT is asked of its owner, and the fourth time given up with the module's acknowledgement. DRAIN_TIMEOUT
ends the drain and its pins. A restore whose shards are all rebuilt puts its job back at the hinge of the epoch and ends with OK and the epoch.
A drain, a restore and a durable restore that are accepted (their submissions: OperationsAreSubmitted) end with ABORTED for a slot that runs no job
and with BUSY beside another such operation; a durable restore with a refused chunk or an image that does not fit places nothing. A restore whose epoch is durable leaves
both slots EMPTY and no committed epoch (log entry 17). -/
def Obligations.HaspResendsDrainsAndRestores : Prop :=
  (∀ (s : State) (j p stripe : Nat) (r : JobRun) (c : ChunkRx), j < 8 → s.run j = some r →
    r.chunks.find? (fun c => c.part == p && c.stripe == stripe) = some c →
    let due := c.since + s.fld (HSP_J_FLOW_HASP_CHUNK_TIMEOUT j) * 4000000
    (c.ok = true ∨ c.gaveUp = true ∨ c.since = 0 ∨ s.flag (HSP_J_STATUS_SET_OPEN j) = false ∨ s.ftime + 1 < due →
      exec (.haspChunkTimeout j p stripe) s = .next s) ∧
    (∀ g, r.group = some g → c.ok = false → c.gaveUp = false → c.since ≠ 0 → s.flag (HSP_J_STATUS_SET_OPEN j) = true → due ≤ s.ftime + 1 →
      (3 ≤ c.tries → Answers (exec (.haspChunkTimeout j p stripe) s) fun t =>
        t.fld (HSP_J_STATUS_GAVE_UP j) = 1 ∧ t = { s with jobs := t.jobs, regs := t.regs } ∧ s.RegsKept t (fun a => a = HSP_J_STATUS j) ∧
        t.run j = some { r with ack := false, chunks := r.chunks.map (fun c =>
          if c.part = p ∧ c.stripe = stripe then { c with gaveUp := true } else c) }) ∧
      (c.tries < 3 → ∃ u : State, u.fld (HSP_J_STATUS_CRC_RETRY j) = 1 ∧ u = { s with jobs := u.jobs, regs := u.regs } ∧
        s.RegsKept u (fun a => a = HSP_J_STATUS j) ∧
        u.run j = some { r with chunks := r.chunks.map (fun c => if c.part = p ∧ c.stripe = stripe then
          { c with tries := c.tries + 1, since := s.ftime + 1, landed := 0, hdr := false } else c) } ∧
        exec (.haspChunkTimeout j p stripe) s = .next (match u.stripeOwner j g p stripe with
          | some o => u.sendCtl o j (stripeMsg 0x20 j r.step p stripe)
          | none => u)))) ∧
  (∀ (s : State) (j : Nat), (∀ o ∈ s.ops, ¬(o.op = 6 ∧ o.arg 0 = j)) → exec (.drainTimeout j) s = .next s) ∧
  (∀ (s : State) (j : Nat) (o : OpenOp), s.ops.find? (fun o => o.op == 6 && o.arg 0 == j) = some o →
    Answers (exec (.drainTimeout j) s) fun t =>
      t.ops = s.ops.filter (fun x => x != o) ∧ t.ended = s.ended ++ [⟨o.fn, o.handle, 6, stTimeout, 0x1F, []⟩] ∧
      (∀ b, b ∈ t.rebuilds ↔ b ∈ s.rebuilds ∧ ¬(b.job = j ∧ b.use = 2)) ∧
      (∀ p ∈ s.slotParts j, ∀ b, s.slotEpoch p b = o.arg 15 → t.slotPin p b = false) ∧
      t.bare = { s.bare with ops := t.ops, ended := t.ended, rebuilds := t.rebuilds } ∧
      s.RegsKept t (fun a => ∃ p ∈ s.slotParts j, a = HSP_SLOT_STATE p)) ∧
  (∀ (s : State) (j e : Nat) (x : Restore) (r : JobRun), j < 8 → s.restore j = some x → s.run j = some r → x.epoch = some e →
    ((∃ b ∈ s.rebuilds, b.job = j ∧ b.use = 0 ∧ b.img = none) → exec (.haspRebuildComplete j) s = .next s) ∧
    ((∀ b ∈ s.rebuilds, b.job = j → b.use = 0 → b.img ≠ none) →
      ∃ u : State, exec (.haspRebuildComplete j) s = .next ((u.setRestore j none).endWith x.op stOk [e]) ∧
        u.fld (HSP_J_EPOCH_EPOCH j) = e % 2 ^ 32 ∧ u.fld (RCV_J_STATUS_PHASE j) = 0 ∧ u.flag (HSP_J_STATUS_SET_OPEN j) = false ∧
        (∀ b ∈ u.rebuilds, ¬(b.job = j ∧ b.use = 0)) ∧
        ∃ q, u.run j = some q ∧ q.step = e ∧ q.first = true ∧ q.arrived = false ∧ q.early = true ∧ q.notices = [] ∧ q.cut = none)) ∧
  (∀ (s : State) (j : Nat), s.restore j = none ∨ s.run j = none ∨ (∃ x, s.restore j = some x ∧ x.epoch = none) →
    exec (.haspRebuildComplete j) s = .next s) ∧
  (∀ (s u : State) (f : Nat) (o : OpenOp) (bufs : List Nat) (objs : List (Nat × List (List (List Nat)))),
    let j := o.arg 0
    (8 ≤ j ∨ u.run j = none →
      (s.submit f 6 = (u, some o) → exec (.opHaspDrain f bufs) s = .next (u.abortArg o 0)) ∧
      (s.submit f 7 = (u, some o) → exec (.opHaspRestore f) s = .next (u.abortArg o 0)) ∧
      (s.submit f 8 = (u, some o) → exec (.opDurableRestore f objs) s = .next (u.abortArg o 0))) ∧
    (∀ r, j < 8 → u.run j = some r →
      (s.submit f 6 = (u, some o) →
        (2 ≤ o.arg 2 → exec (.opHaspDrain f bufs) s = .next (u.abortArg o 2)) ∧
        (o.arg 2 < 2 → (u.restore j).isSome = true ∨ u.haspOp j 8 = true → exec (.opHaspDrain f bufs) s = .next (u.endWith o stBusy [])) ∧
        (∀ g e, o.arg 2 < 2 → u.restore j = none → u.haspOp j 8 = false → (u.ops.filter (fun x => x.op == 6 && x.arg 0 == j)).length ≤ 1 →
          r.group = some g → e = (if o.arg 1 = 0xFFFFFFFF then u.fld (HSP_J_EPOCH_EPOCH j) else o.arg 1) →
          (∃ p ∈ u.slotParts j, ∃ b, u.slotOf p e = some b ∧ 3 ≤ u.slotState p b) →
          let l := u.placedHere j g
          ∃ (v : State) (o' : OpenOp), o' = { o with args := o.args ++ [l.length, e] ++ bufs } ∧
            v.ops = u.ops.map (fun x => if x = o then o' else x) ∧
            (∀ p ∈ u.slotParts j, ∀ b, u.slotEpoch p b = e → v.slotPin p b = true) ∧
            v.bare = { u.bare with ops := v.ops } ∧ u.RegsKept v (fun a => ∃ p ∈ u.slotParts j, a = HSP_SLOT_STATE p) ∧
            (l = [] → exec (.opHaspDrain f bufs) s = .next (v.endDrain o' stOk [e, 0, 0, 0])) ∧
            (l ≠ [] → exec (.opHaspDrain f bufs) s =
              .next (l.foldl (fun t x => t.startRebuild j r g x.1 x.2.1 x.2.2 2 e) v)))) ∧
      (s.submit f 7 = (u, some o) →
        (u.haspOp j 6 = true ∨ (u.restore j).isSome = true ∨ u.haspOp j 8 = true →
          exec (.opHaspRestore f) s = .next (u.endWith o stBusy [])) ∧
        (u.haspOp j 6 = false → u.restore j = none → u.haspOp j 8 = false → (∀ m ∈ u.restoreMsgs, mByte m.2 1 % 8 ≠ j) →
          let v := u.setRestore j (some ⟨o, [], none, [], false, none⟩)
          (r.group = none → exec (.opHaspRestore f) s = .next (v.trySendUse j)) ∧
          (∀ g, r.group = some g → v.isLeader g = false → exec (.opHaspRestore f) s =
            .next (((g.homes.flatMap (fun p => [v.slotSummary j r g p false, v.slotSummary j r g p true])).foldl
              (fun t m => t.sendCtl g.leader j m) v).trySendUse j)))) ∧
      (s.submit f 8 = (u, some o) → o.arg 2 < 2 →
        (u.haspOp j 6 = true ∨ (u.restore j).isSome = true → exec (.opDurableRestore f objs) s = .next (u.endWith o stBusy [])) ∧
        (u.haspOp j 6 = false → u.restore j = none →
          let e := o.arg 1
          let l := sortKey (·.1) (r.groups.flatMap (fun g => u.placedHere j g))
          let image := fun lsid => durableImage (u.fld (FAB_JOB_ID_JOB_ID j)) e r.shape lsid
            (((objs.find? (fun y => y.1 == lsid)).map (·.2)).getD [])
          (∀ x, l.find? (fun x => (image x.1).isNone) = some x →
            exec (.opDurableRestore f objs) s = .next (u.endWith o stPoisoned [e, x.1])) ∧
          ((∀ x ∈ l, (image x.1).isSome = true) → (∃ x ∈ l, ∀ i, image x.1 = some i → u.imageFits x.2.1 x.2.2 i = false) →
            exec (.opDurableRestore f objs) s = .next (u.endWith o stBadImage [e])) ∧
          ((∀ x ∈ l, ∃ i, image x.1 = some i ∧ u.imageFits x.2.1 x.2.2 i = true) →
            ∃ v : State, exec (.opDurableRestore f objs) s = .next (v.endWith o stOk [e]) ∧
              v.fld (HSP_J_EPOCH_EPOCH j) = 0xFFFFFFFF ∧ v.fld (RCV_J_STATUS_PHASE j) = 0 ∧
              (∀ p ∈ u.slotParts j, ∀ b, (u.slotRegion p b).isSome = true → v.slotState p b = slEmpty) ∧
              ∃ q, v.run j = some q ∧ q.step = e ∧ q.first = true ∧ q.early = true)))))

/-- Recovery messages of a job whose module runs and whose sender is not on the dead list (a dead sender draws a DEADBOLT instead). GHB notes the time
of a member and ends its silence; GHB_MISS and its repeat report a member that is silent. HFAULT is counted and goes up; at the root it becomes
RCUT and the cut. The cut targets the step that runs, sets PHASE 1, the divert bit of every shard on the lost module, and parks what has not
ended its step. CUT_TIMEOUT rolls back with cause 2, a second declaration with cause 6. A rollback sets PHASE 4 and CAUSE and ends an open re-host with ABORTED; RABORT takes
the whole tree there. A DEADBOLT for this module with a newer generation fences it. -/
def Obligations.LossesAreDeclaredAndCut : Prop :=
  (∀ (peers : Bool), ∀ x ∈ ([fun g m => .ghb g m, fun g m => .hfault g m, fun g m => .rcut g m peers, fun g m => .rabort g m,
        fun g m => .deadbolt g m, fun g m => .lreq g m, fun g m => .lnak g m, fun g m => .rcopy g m, fun g m => .fsync g m] :
      List (Nat → List Nat → Instr)),
    ∀ (s : State) (src : Nat) (m : List Nat),
      (s.boot ≠ .running → exec (x src m) s = .next s) ∧
      (s.boot = .running → s.isDead (mByte m 1 % 8) src = true → exec (x src m) s = .next (s.deadbolt (mByte m 1 % 8) src))) ∧
  (∀ (s : State) (j : Nat) (r : JobRun) (g : ContGroup), s.run j = some r → r.group = some g →
    exec (.ghbSend j) s = .next ((g.liveGids.filter (· != s.gid)).foldl (fun t x =>
      t.sendCtl x j ([0x30, j, 0, 0] ++ leBytes 4 r.step ++ leBytes 3 g.live)) s) ∧
    ∀ gid,
      (s.isSilent j gid = true ↔ ∀ x, s.ghbAt.find? (fun x => x.1 == j && x.2.1 == gid) = some x →
        x.2.2 + max 1 (s.fld RCV_CFG_GHB_MISS) * max 1 (s.fld RCV_CFG_GHB_PERIOD) * 4000000 ≤ s.ftime) ∧
      (gid ≠ s.gid → gid ∈ g.liveGids → s.isSilent j gid = true → (∀ x ∈ s.silent, ¬(x.1 = j ∧ x.2.1 = gid)) →
        exec (.ghbMiss j gid) s = .next { s with silent := s.silent ++ [(j, gid, s.ftime)], out := s.out ++ [.report 2 j [gid]] }) ∧
      (gid = s.gid ∨ gid ∉ g.liveGids ∨ s.isSilent j gid = false ∨ (∃ x ∈ s.silent, x.1 = j ∧ x.2.1 = gid) →
        exec (.ghbMiss j gid) s = .next s)) ∧
  (∀ (s : State) (j gid : Nat),
    ((∀ x ∈ s.silent, ¬(x.1 = j ∧ x.2.1 = gid)) → exec (.silenceReportRepeat j gid) s = .next s) ∧
    (∀ x, s.silent.find? (fun x => x.1 == j && x.2.1 == gid) = some x →
      (s.ftime < x.2.2 + 4000000000 → exec (.silenceReportRepeat j gid) s = .next s) ∧
      (x.2.2 + 4000000000 ≤ s.ftime → Answers (exec (.silenceReportRepeat j gid) s) fun t =>
        (j, gid, s.ftime) ∈ t.silent ∧ t = { s with silent := t.silent, out := s.out ++ [.report 2 j [gid]] }))) ∧
  (∀ (s : State) (src : Nat) (m : List Nat) (peers : Bool),
    let j := mByte m 1 % 8
    s.boot = .running → s.isDead j src = false →
    (Answers (exec (.ghb src m) s) fun t => t = { s with ghbAt := t.ghbAt, silent := t.silent } ∧ (j, src, s.ftime) ∈ t.ghbAt ∧
      (∀ x ∈ t.silent, ¬(x.1 = j ∧ x.2.1 = src)) ∧
      (∀ x, ¬(x.1 = j ∧ x.2.1 = src) → (x ∈ t.ghbAt ↔ x ∈ s.ghbAt) ∧ (x ∈ t.silent ↔ x ∈ s.silent))) ∧
    (s.run j = none → exec (.hfault src m) s = .next s ∧ exec (.rcut src m peers) s = .next s ∧ exec (.rabort src m) s = .next s) ∧
    (∀ r, s.run j = some r →
      let lost := mField m 8 4 % 2 ^ 20
      let new := (s.fld (FAB_JOB_GEN_GEN j) + 1) % 65536
      (s.isRoot j = false → ∃ u : State, exec (.hfault src m) s = .next (u.sendUp j m) ∧ u = { s with jobs := u.jobs } ∧
        u.run j = some { r with faults := r.faults + 1, faultAt := max r.faultAt (mField m 16 8) }) ∧
      (s.isRoot j = true → ∃ u : State, (∃ q, u.run j = some q ∧ q.faults = r.faults + 1 ∧ q.cut = r.cut ∧ q.step = r.step ∧
          (lost, mField m 12 2) ∈ q.failures) ∧
        u.bare = { s.bare with jobs := u.jobs } ∧ s.RegsKept u (fun a => a = HSP_J_MTBF_CUR j ∨ a = HSP_J_INTERVAL j) ∧
        (r.cut = none → exec (.hfault src m) s = .next ((u.sendDown j (rcutMsg j lost new r.step (bitAt (mByte m 14) 0))).takeCut j lost new
          (bitAt (mByte m 14) 0) false false)) ∧
        (∀ c, r.cut = some c → exec (.hfault src m) s = .next (if c.lost = lost then u else u.meetRollback j 6))) ∧
      ((s.isRoot j = true ∧ src = s.gid) ∨ s.jobUp j = some src →
        (mField m 12 4 ≠ r.step → exec (.rcut src m peers) s = .next (s.sendDown j m)) ∧
        (mField m 12 4 = r.step → exec (.rcut src m peers) s = .next ((s.sendDown j m).takeCut j (mField m 4 3 % 2 ^ 20) (mField m 8 2)
          (bitAt (mByte m 16) 0) false peers))) ∧
      (¬(s.isRoot j = true ∧ src = s.gid) → s.jobUp j ≠ some src → exec (.rcut src m peers) s = .next s) ∧
      (s.isRoot j = true ∨ s.jobUp j = some src → exec (.rabort src m) s = .next ((s.sendDown j m).globalRollback j (mByte m 8 % 16))) ∧
      (s.isRoot j = false → s.jobUp j ≠ some src → exec (.rabort src m) s = .next (s.sendUp j m))) ∧
    (s.flag RCV_FENCE_FENCED = true ∨ mField m 4 3 % 2 ^ 20 ≠ s.gid ∨ s.slotLoaded j = false ∨
        genNewer (mField m 8 2) (s.fld (FAB_JOB_GEN_GEN j)) = false →
      exec (.deadbolt src m) s = .next (s.gcount 0x224 1)) ∧
    (s.flag RCV_FENCE_FENCED = false → mField m 4 3 % 2 ^ 20 = s.gid → s.slotLoaded j = true →
        genNewer (mField m 8 2) (s.fld (FAB_JOB_GEN_GEN j)) = true →
      Answers (exec (.deadbolt src m) s) fun t => t.flag RCV_FENCE_FENCED = true ∧ t.fld RCV_FENCE_JOB_FLD = j ∧
        t.fld RCV_FENCE_GEN = mField m 8 2 ∧ t.fld RCV_FENCE_JOB_JOB_ID = mField m 12 4 ∧
        (∀ p e, p < 8 → e < 32 → s.jobOf p < 8 → t.fld (CAM_HOST_W0_STATE p e) = 0) ∧
        t.fld ⟨KPR_SB_ALERT, alHealth, 1⟩ = 1 ∧ t.fld ⟨KPR_SB_ALERT, alFenced, 1⟩ = 1)) ∧
  (∀ (s : State) (j : Nat) (r : JobRun) (c : Cut), j < 8 → s.run j = some r → r.cut = some c →
    let due := c.since + s.fld RCV_CFG1_CUT_TIMEOUT * 4000000
    (c.hinged = true ∨ c.late = true ∨ s.ftime < due → exec (.cutTimeout j) s = .next s) ∧
    (c.hinged = false → c.late = false → due ≤ s.ftime → ∃ u : State, exec (.cutTimeout j) s = .next (u.meetRollback j 2) ∧
      u.flag (RCV_J_STATUS_CUT_TIMEOUT_SEEN j) = true ∧ u.run j = some { r with cut := some { c with late := true } } ∧
      u.bare = { s.bare with jobs := u.jobs } ∧ s.RegsKept u (fun a => a = RCV_J_STATUS j))) ∧
  (∀ (s : State) (j c : Nat), j < 8 → c < 16 →
    let t := s.meetRollback j c
    t.fld (RCV_J_STATUS_PHASE j) = 4 ∧ t.fld (RCV_J_STATUS_CAUSE j) = c ∧
    (∀ o, o ∈ t.ops ↔ o ∈ s.ops ∧ ¬(o.op = 9 ∧ o.arg 0 = j)) ∧
    (∀ o ∈ s.ops, o.op = 9 → o.arg 0 = j → (⟨o.fn, o.handle, 9, stAborted, 0x1F, [1, c]⟩ : Compl) ∈ t.ended) ∧
    t.bare = { s.bare with txq := t.txq, intq := t.intq, ops := t.ops, ended := t.ended } ∧ s.RegsKept t (fun a => a = RCV_J_STATUS j)) ∧
  (∀ (s : State) (j c : Nat) (r : JobRun), j < 8 → c < 16 → s.run j = some r →
    let t := s.globalRollback j c
    t.fld (RCV_J_STATUS_PHASE j) = 4 ∧ t.fld (RCV_J_STATUS_CAUSE j) = c ∧
    (∀ x ∈ s.jobEntries j (fun st => st != 0), t.fld (CAM_HOST_W0_STATE x.1 x.2) = 1) ∧
    (∀ w, w < 2048 → t.fld (RCV_J_DIVERT_DIVERT j w) = 0) ∧ (∀ f ∈ t.feeds, f.job ≠ j) ∧ t.run j = some { r with genUp := true }) ∧
  (∀ (s : State) (j lost gen : Nat) (rb tree peers : Bool) (r : JobRun), j < 8 → 0 < lost → lost < 2 ^ 20 → s.run j = some r → r.cut = none →
    r.arrived = false →
    let t := s.takeCut j lost gen rb tree peers
    t.fld (RCV_J_STATUS_PHASE j) = 1 ∧ t.fld (RCV_J_TARGET_STEP j) = r.step % 2 ^ 32 ∧ t.fld (RCV_J_LOST_GID j) = lost ∧
    t.fld (RCV_J_LOSSES_GEN j) = gen % 2 ^ 16 ∧ t.fld (RCV_J_LOSSES_COUNT j) = min 65535 (s.fld (RCV_J_LOSSES_COUNT j) + 1) ∧
    (∀ g ∈ r.groups, ∀ x ∈ s.shardsOn j g lost, t.fld ⟨RCV_J_DIVERT j (x.lsid % 65536 / 32), x.lsid % 32, 1⟩ = 1) ∧
    (∀ x ∈ s.jobEntries j (fun st => st == 2), t.fld (CAM_HOST_W0_STATE x.1 x.2) = if s.entryDone x.1 x.2 r.step then 2 else 4) ∧
    (∃ q, t.run j = some q ∧ q.cut = some ⟨lost, gen, r.step, rb, s.ftime, 0, false, false, tree, false⟩ ∧ q.sent = false) ∧
    t.inflight = s.inflight ∧ s.MemKept t)

/-- The recovery hinge waits for the slot's commands and flows to come to rest and QUIESCE_US more; it takes the generation of the cut, puts the lost module on
the dead list and its bit out of the live mask. A rebuilt image stands in its entry, which enters REPLAY, or waits where the epoch is the step of the cut. An LREQ is fed from the logs or answered
with LNAK and its reason; LNAK to a feed rolls back with cause 4. RCOPY and FSYNC wait for the recovery hinge of this module (log entry 18). A completed copy stands at STEP k + 1 with its
tumblers 0. OP_REHOST ends with ABORTED for an argument that names nothing, rolls back on a second declaration, and on the group leader sends
HFAULT. Messages: of a running module and a live sender. -/
def Obligations.RecoveryReplaysOrRollsBack : Prop :=
  (∀ (s : State) (j dynJ : Nat) (peers : Bool), (s.run j = none ∨ ∃ r, s.run j = some r ∧ r.cut = none) →
    exec (.recoveryHingeArrival j dynJ peers) s = .next s) ∧
  (∀ (s : State) (j dynJ : Nat) (peers : Bool) (r : JobRun) (c : Cut), s.run j = some r → r.cut = some c →
    (c.hinged = true ∨ c.genDone = true ∨ (r.arrived = true ∧ c.lost ≠ 0) ∨ s.flag RCV_FENCE_FENCED = true ∨ s.quietNow j = false →
      exec (.recoveryHingeArrival j dynJ peers) s = .next s) ∧
    (c.hinged = false → c.genDone = false → (r.arrived = false ∨ c.lost = 0) → s.flag RCV_FENCE_FENCED = false → s.quietNow j = true →
      let q := if c.quiet = 0 then s.ftime + 1 else c.quiet
      let c' : Cut := { c with quiet := q }
      let r' : JobRun := { r with cut := some c' }
      ∃ u : State, u = { s with jobs := u.jobs } ∧ u.run j = some r' ∧
        (s.ftime + 1 < q + s.fld RCV_CFG_QUIESCE_US * 4000 → exec (.recoveryHingeArrival j dynJ peers) s = .next u) ∧
        (q + s.fld RCV_CFG_QUIESCE_US * 4000 ≤ s.ftime + 1 → c.lost ≠ 0 →
          exec (.recoveryHingeArrival j dynJ peers) s = .next (u.recoveryHinge j dynJ c' peers r')) ∧
        (q + s.fld RCV_CFG_QUIESCE_US * 4000 ≤ s.ftime + 1 → c.lost = 0 → peers = true ∨ storeGet false s.updDone j = true →
          Answers (exec (.recoveryHingeArrival j dynJ peers) s) fun t => t.fld (RCV_J_STATUS_PHASE j) = 4))) ∧
  (∀ (s : State) (j : Nat) (r : JobRun) (c : Cut), j < 8 → c.lost < 2 ^ 20 → s.run j = some r →
    let t := s.recoverGen j c
    t.fld (FAB_JOB_GEN_GEN j) = c.gen % 2 ^ 16 ∧
    (∃ n, n < 16 ∧ t.fld (RCV_J_DEAD_GID j n) = c.lost ∧ t.flag (RCV_J_DEAD_VALID j n) = true) ∧
    (∃ q, t.run j = some q ∧ q.groups.length = r.groups.length ∧
      ∀ g ∈ q.groups, ∀ rank, g.rankOf c.lost = some rank → bitAt g.live rank = false) ∧
    s.MemKept t ∧ t.inflight = s.inflight) ∧
  (∀ (s : State) (j lsid : Nat),
    (∀ b ∈ s.rebuilds, ¬(b.job = j ∧ b.lsid = lsid ∧ b.use = 1)) → exec (.replayRebuildComplete j lsid) s = .next s) ∧
  (∀ (s : State) (j lsid : Nat) (b : Rebuild), s.rebuilds.find? (fun b => b.job == j && b.lsid == lsid && b.use == 1) = some b →
    (b.img = none ∨ s.fld (RCV_J_STATUS_PHASE j) ≠ 2 → exec (.replayRebuildComplete j lsid) s = .next s) ∧
    (∀ img, b.img = some img → s.fld (RCV_J_STATUS_PHASE j) = 2 → b.part < 8 → b.entry < 32 →
      (s.tumWin b.part b.entry).1 + (s.tumWin b.part b.entry).2 ≤ 4096 →
      ∃ u : State, (∀ x, x ∈ u.rebuilds ↔ x ∈ s.rebuilds ∧ x ≠ b) ∧
        u.fld (CAM_HOST_W6_STEP b.part b.entry) = (bits (img.headD (0, false)).1 32 32 + 1) % 2 ^ 32 ∧ u.fld (CAM_HOST_W7_POS b.part b.entry) = 0 ∧
        (b.epoch = s.fld (RCV_J_TARGET_STEP j) → exec (.replayRebuildComplete j lsid) s = .next (u.trySendReady j)) ∧
        (b.epoch ≠ s.fld (RCV_J_TARGET_STEP j) → exec (.replayRebuildComplete j lsid) s =
          .next ((u.setFld (CAM_HOST_W0_STATE b.part b.entry) 3).replayStart b.part b.entry)))) ∧
  (∀ (s : State) (src : Nat) (m : List Nat),
    let j := mByte m 1 % 8
    let lsid := mField m 8 3
    s.boot = .running → s.isDead j src = false →
    (s.run j = none → exec (.lreq src m) s = .next s ∧ exec (.lnak src m) s = .next s ∧ exec (.rcopy src m) s = .next s ∧
      exec (.fsync src m) s = .next s) ∧
    (s.run j ≠ none →
      (s.flag RCV_FENCE_FENCED = false →
        let step := mField m 4 4
        let ctx := mField m 12 2 % 16384
        let flows := s.sendersTo j lsid ctx
        let nak := fun (reason : Nat) => s.sendCtl src j (lreqMsg 0x33 j step lsid (mByte m 11) ctx (mField m 16 3) ++ [reason])
        let broken := ∃ x ∈ s.logBroken, s.jobOf x.1 = j ∧ x.2.1 ≤ step ∧ step ≤ x.2.2
        let old := s.fld (HSP_J_EPOCH_EPOCH j) ≠ 0xFFFFFFFF ∧ step ≤ s.fld (HSP_J_EPOCH_EPOCH j)
        let logged := flows ≠ [] ∧ ∀ n ∈ flows, s.flag (fcLog n) = true
        (mByte m 11 = 0 → ¬logged → exec (.lreq src m) s = .next (nak 1)) ∧
        (mByte m 11 = 0 → logged → broken → exec (.lreq src m) s = .next (nak 3)) ∧
        (mByte m 11 = 0 → logged → ¬broken → old → exec (.lreq src m) s = .next (nak 2)) ∧
        (mByte m 11 = 0 → logged → ¬broken → ¬old → ∃ u : State, u = { s with feeds := u.feeds } ∧ (⟨j, src, lsid, ctx, step⟩ : Feed) ∈ u.feeds ∧
          (∀ f ∈ u.feeds, f.job = j → f.dst = src → f.lsid = lsid → f.ctx = ctx → f.step = step) ∧
          exec (.lreq src m) s = .next (u.feedAll j (fun h st _ => st == step && (Hdr.dec h).lsid == lsid && (Hdr.dec h).flow == ctx)).1) ∧
        (mByte m 11 ≠ 0 → (∀ p ∈ s.slotParts j, s.logScan p = []) → ¬logged → exec (.lreq src m) s = .next (nak 1)) ∧
        (mByte m 11 ≠ 0 → (∀ p ∈ s.slotParts j, s.logScan p = []) → logged → (∀ x ∈ s.logBroken, s.jobOf x.1 ≠ j) →
          exec (.lreq src m) s = .next (nak 2))) ∧
      (mByte m 11 = 0 → exec (.lnak src m) s = .next (s.meetRollback j 4)) ∧
      (mByte m 11 ≠ 0 → (s.rekey j lsid = none ∨ ∃ w, s.rekey j lsid = some w ∧ rkGid w ≠ s.gid) → exec (.lnak src m) s = .next s) ∧
      (∀ w, mByte m 11 ≠ 0 → s.rekey j lsid = some w → rkGid w = s.gid → exec (.lnak src m) s =
        .next (if s.fld (CAM_HOST_W0_STATE (rkPart w) (rkEntry w)) = 3 then s.meetRollback j 4
          else s.killCtx (rkPart w) (rkEntry w) 0xFFFFFF 6 0)) ∧
      (s.hinged j = false → exec (.rcopy src m) s = .next { s with rcopyAsked := s.rcopyAsked ++ [(src, m)] } ∧
        exec (.fsync src m) s = .next { s with rcopyAsked := s.rcopyAsked ++ [(src, m)] }) ∧
      (s.hinged j = true → Answers (exec (.fsync src m) s) fun t => t.fld (fcSeq (mField m 4 2 % 16384)) = lsid ∧
        (mByte m 12 = 0 → t.fcWindow (mField m 4 2 % 16384) = 0) ∧ t.bare = s.bare ∧
        s.RegsKept t (fun a => FLW_CTX (mField m 4 2 % 16384) ≤ a ∧ a < FLW_CTX (mField m 4 2 % 16384) + 128)) ∧
      (∀ r g w rank, s.hinged j = true → s.run j = some r → r.group = some g → s.rekey j (mField m 4 3) = some w → g.rankOf src = some rank →
        exec (.rcopy src m) s = .next (if rkGid w = s.gid then
          s.sendContUnits j rank src 2 lsid 0 0 (s.replicaUnits (rkPart w) (rkEntry w)) else s)))) ∧
  (∀ (s : State) (j lsid : Nat), (∀ c ∈ s.rcopy, ¬(c.job = j ∧ c.lsid = lsid)) → exec (.replicaCopyComplete j lsid) s = .next s) ∧
  (∀ (s : State) (j lsid : Nat) (c : RCopy), s.rcopy.find? (fun c => c.job == j && c.lsid == lsid) = some c →
    (c.left ≠ 0 → exec (.replicaCopyComplete j lsid) s = .next s) ∧
    (c.left = 0 → c.part < 8 → c.entry < 32 →
      let w := s.tumWin c.part c.entry
      w.1 + w.2 ≤ 4096 →
      ∃ u : State, exec (.replicaCopyComplete j lsid) s = .next (u.trySendReady j) ∧ (∀ x, x ∈ u.rcopy ↔ x ∈ s.rcopy ∧ x ≠ c) ∧
        u.fld (CAM_HOST_W6_STEP c.part c.entry) = (s.fld (RCV_J_TARGET_STEP j) + 1) % 2 ^ 32 ∧ u.fld (CAM_HOST_W7_POS c.part c.entry) = 0 ∧
        (∀ i, i < w.2 → u.fld (TMB_VALUE_VALUE c.part (w.1 + i)) = 0 ∧ u.fld (TMB_SNAP_SNAP c.part (w.1 + i)) = 0) ∧ s.MemKept u ∧
        s.RegsKept u (fun a => a = CAM_HOST_W6 c.part c.entry ∨ a = CAM_HOST_W7 c.part c.entry ∨
          ∃ i, i < w.2 ∧ (a = TMB_VALUE c.part (w.1 + i) ∨ a = TMB_SNAP c.part (w.1 + i))))) ∧
  (∀ (s u : State) (f : Nat) (o : OpenOp) (added : List Nat) (peers : Bool), s.submit f 9 = (u, some o) →
    let j := o.arg 0
    let lost := o.arg 1 % 2 ^ 20
    (8 ≤ j ∨ u.run j = none → exec (.opRehost f added peers) s = .next (u.abortArg o 0)) ∧
    (∀ r, j < 8 → u.run j = some r →
      (∀ c, r.cut = some c → u.fld (RCV_J_STATUS_PHASE j) = 3 → c.lost = lost → exec (.opRehost f added peers) s =
        .next (if 16 < o.arg 2 then u.abortArg o 2 else u.endHold j c (added.take (o.arg 2)) peers)) ∧
      (r.cut = none → r.groupOf lost = none → exec (.opRehost f added peers) s = .next (u.abortArg o 1)) ∧
      (∀ g, r.groupOf lost = some g → o.arg 2 ≤ 16 →
        (∀ c, r.cut = some c → c.lost ≠ lost → o.arg64 6 = 0 →
          exec (.opRehost f added peers) s = .next ((u.gcount 0x220 1).meetRollback j 6)) ∧
        (r.cut = none → o.arg64 6 = 0 → ∃ v : State, v.bare = { u.bare with jobs := v.jobs } ∧
          u.RegsKept v (fun a => a = HSP_J_STATUS j) ∧
          exec (.opRehost f added peers) s = .next (if (g.liveGids.filter (· != lost)).headD 0 = u.gid then
            v.sendCtl ((u.jobUp j).getD u.gid) j (hfaultMsg j lost (u.fld (FAB_JOB_GEN_GEN j)) (u.resolvesRollback j lost g) u.ftime)
            else v)))))

/-- A submission that none of R466's other answers turns away. The read of SUBMIT answers the operation's handle; a handle of 0 is replaced by
0x8000_0000 + (f << 24) + c and the counter c of the function advances on 24 bits; BROADCAST (5), HASP_RESTORE (7) and REHOST (9) with handle 0 complete
with ABORTED and ARG_INDEX 0x1E. -/
def Obligations.HandlesAreAssigned : Prop :=
  ∀ (s : State) (f op : Nat), f ≤ 8 → s.reqWord f 0 = op + 256 → 0 < op → op ≤ 0xD → s.boot = .running → (f = 0 ∨ vfMay op = true) →
    (s.flag RCV_FENCE_FENCED = false ∨ op = 1) → s.ops.length < 64 → (s.ops.filter (fun o => o.fn == f)).length < 16 →
    (∀ o ∈ s.ops, ¬(o.fn = f ∧ o.handle = s.reqWord f 1)) → (op = 5 → s.bcasts.length < 8) → s.flag PWR_STATUS_A3 = false →
    storeGet 0 s.opCount f < 2 ^ 24 →
    let h := s.reqWord f 1
    let c := storeGet 0 s.opCount f
    let handle := if h = 0 then 0x80000000 + (f <<< 24) + c else h
    let t := (s.submit f op).1
    t.out = s.out ++ [.answer handle false] ∧
    storeGet 0 t.opCount f = (if h = 0 then (c + 1) % 2 ^ 24 else c) ∧
    (∀ g, g ≠ f → storeGet 0 t.opCount g = storeGet 0 s.opCount g) ∧
    (∀ i, i < 16 → t.reqWord f i = 0) ∧
    (h = 0 → op = 5 ∨ op = 7 ∨ op = 9 → (s.submit f op).2 = none ∧ (∀ x, x.handle ≠ handle → (x ∈ t.ops ↔ x ∈ s.ops)) ∧
      t.ended = s.ended ++ [⟨f, handle, op, stAborted, 0x1E, []⟩]) ∧
    (h ≠ 0 ∨ ¬(op = 5 ∨ op = 7 ∨ op = 9) → ∃ o : OpenOp, (s.submit f op).2 = some o ∧ o.fn = f ∧ o.op = op ∧ o.handle = handle ∧
      (∀ i, i < 14 → o.arg i = s.reqWord f (2 + i)) ∧ t.ops = s.ops ++ [o] ∧ t.ended = s.ended)

/-- A request that is not accepted opens no operation and empties the request area; one of an operation that a VF may not use completes with Unsupported Request.
Every row that submits leaves the machine there. SELF_TEST, RECORDER_READ, UHS_EDIT and ABORT, once accepted, end with ABORTED and the argument that names nothing, with
BUSY where they may not run, or with OK and their results: the passed mask and the least failing unit; the records copied; the partition
or unit whose history is edited, with one event and a state copy due; the target's completion before the ABORT's. -/
def Obligations.OperationsAreSubmitted : Prop :=
  (∀ (s : State) (f op : Nat), s.boot = .running → s.reqWord f 0 % 256 = op →
    (f ≠ 0 → vfMay op = false → s.submit f op = (s.unsupported f, none)) ∧
    (f = 0 ∨ vfMay op = true →
      let h := s.reqWord f 1
      (s.reqWord f 0 / 256 % 256 ≠ 1 → s.submit f op = (s.submitAnswer f h stVersion, none)) ∧
      (s.reqWord f 0 / 256 % 256 = 1 → s.flag RCV_FENCE_FENCED = true → op ≠ 1 → s.submit f op = (s.submitAnswer f h stFenced, none)) ∧
      (s.reqWord f 0 / 256 % 256 = 1 → (s.flag RCV_FENCE_FENCED = false ∨ op = 1) →
        (64 ≤ s.ops.length ∨ 16 ≤ (s.ops.filter (fun o => o.fn == f)).length ∨ (∃ o ∈ s.ops, o.fn = f ∧ o.handle = h) ∨
          (op = 5 ∧ 8 ≤ s.bcasts.length)) → s.submit f op = (s.submitAnswer f h stBusy, none)))) ∧
  (∀ (s : State) (f h st : Nat),
    let t := s.submitAnswer f h st
    t.out = s.out ++ [.answer (h + st * 2 ^ 32) false] ∧ (∀ i, i < 16 → t.reqWord f i = 0) ∧ t.bare = { s.bare with out := t.out } ∧
    s.RegsKept t (fun a => HIF_OP_REQ f 0 ≤ a ∧ a < HIF_OP_REQ f 0 + 64)) ∧
  (∀ (s u : State) (f : Nat) (img : Option Image) (peers : Bool) (prog : Option (List Nat)) (l : List Nat)
      (objs : List (Nat × List (List (List Nat)))) (bad : List (Nat × List Nat)),
    ∀ x ∈ ([(1, .opImageLoad f img), (2, .opImageUnload f), (3, .opTableLoad f img peers), (4, .opProgramLoad f prog), (5, .opBroadcast f),
        (6, .opHaspDrain f l), (7, .opHaspRestore f), (8, .opDurableRestore f objs), (9, .opRehost f l peers), (0xA, .opSelfTest f l),
        (0xB, .opRecorderRead f bad l), (0xD, .opAbort f)] : List (Nat × Instr)),
      s.submit f x.1 = (u, none) → exec x.2 s = .next u) ∧
  (∀ (s : State) (f : Nat) (wide : Bool), f ≤ 8 → s.boot = .running →
    (wide = false → exec (.submitRefused f wide) s = .next (s.unsupported f)) ∧
    (wide = true → s.reqWord f 0 % 256 = 0 ∨ 0xD < s.reqWord f 0 % 256 → exec (.submitRefused f wide) s =
      .next (if f = 0 then s.submitAnswer f (s.reqWord f 1) stVersion else s.unsupported f))) ∧
  (∀ (s : State) (f : Nat), s.boot ≠ .running → exec (.submitRefused f true) s = .next s ∧ exec (.opAbort f) s = .next s) ∧
  (∀ (s u : State) (f : Nat) (o : OpenOp) (fails : List Nat), s.submit f 0xA = (u, some o) →
    let mine := fun p => p < 8 ∧ bitAt (o.arg 0) p = true
    (512 ≤ o.arg 0 ∨ (∃ p, mine p ∧ (u.present p = false ∨ bitAt (u.vfParts f) p = false)) ∨ (f ≠ 0 ∧ bitAt (o.arg 0) 8 = true) →
      exec (.opSelfTest f fails) s = .next (u.abortArg o 0)) ∧
    (o.arg 0 < 512 → (∀ p, mine p → u.present p = true ∧ bitAt (u.vfParts f) p = true) → (f = 0 ∨ bitAt (o.arg 0) 8 = false) →
      (1 < o.arg 1 → exec (.opSelfTest f fails) s = .next (u.abortArg o 1)) ∧
      (o.arg 1 ≤ 1 → (∃ p, mine p ∧ u.fld (RCV_HEALTH_PART p) = 3) → exec (.opSelfTest f fails) s = .next (u.endWith o stBusy [])) ∧
      (o.arg 1 ≤ 1 → (∀ p, mine p → u.fld (RCV_HEALTH_PART p) ≠ 3 ∧ (storeGet 0 u.owner p = 0 ∨ ∀ e, e < 32 → u.fld (CAM_HOST_W0_STATE p e) = 0)) →
        fails = [] → exec (.opSelfTest f fails) s = .next (u.endWith o stOk [o.arg 0, 0xFFFF])))) ∧
  (∀ (s u : State) (f : Nat) (o : OpenOp), s.submit f 0xB = (u, some o) →
    (3 < o.arg 0 → exec (.opRecorderRead f [] []) s = .next (u.abortArg o 0)) ∧
    (o.arg 0 ≤ 3 → (∃ x ∈ u.ops, x ≠ o ∧ x.op = 0xB) → exec (.opRecorderRead f [] []) s = .next (u.endWith o stBusy [])) ∧
    (o.arg 0 ≤ 3 → (∀ x ∈ u.ops, x.op = 0xB → x = o) → ((u.readout (o.arg 0)).map List.length).sum ≤ o.arg 3 →
      exec (.opRecorderRead f [] []) s = .next ((u.emit (.hostWrite (o.arg64 1) (u.readout (o.arg 0)).flatten)).endWith o stOk
        [(u.readout (o.arg 0)).length, 0, 0]))) ∧
  (∀ (s u : State) (f : Nat) (o : OpenOp), s.submit f 0xC = (u, some o) →
    let x := o.arg 1 % 2 ^ 16
    (s.reqWord f 2 ≠ 1 → exec (.uhsReadmit f) s = .next s) ∧ (s.reqWord f 2 ≠ 2 → exec (.uhsClearHealth f) s = .next s) ∧
    (s.reqWord f 2 ≠ 3 → exec (.uhsClearCond f) s = .next s) ∧
    (s.reqWord f 2 = 1 → u.unitOk x = false → exec (.uhsReadmit f) s = .next (u.abortArg o 1)) ∧
    (s.reqWord f 2 = 2 → x ≠ 0xFFFF → u.present x = false → exec (.uhsClearHealth f) s = .next (u.abortArg o 1)) ∧
    (s.reqWord f 2 = 3 → u.unitOk x = false ∨ (u.hist x).state ≠ 2 → exec (.uhsClearCond f) s = .next (u.abortArg o 1)) ∧
    (s.reqWord f 2 = 1 → u.unitOk x = true → Answers (exec (.uhsReadmit f) s) fun t =>
      (t.hist x).state = 0 ∧ (t.hist x).readmits = (u.hist x).readmits + 1 ∧ t.uhsDirty = true ∧ t.ops = u.ops.filter (fun y => y != o) ∧
      t.ended = u.ended ++ [⟨o.fn, o.handle, 0xC, stOk, 0x1F, []⟩]) ∧
    (s.reqWord f 2 = 2 → x < 8 → u.present x = true → Answers (exec (.uhsClearHealth f) s) fun t =>
      t.fld (RCV_HEALTH_PART x) = 0 ∧ t.uhsDirty = true ∧ t.ended = u.ended ++ [⟨o.fn, o.handle, 0xC, stOk, 0x1F, []⟩]) ∧
    (s.reqWord f 2 = 3 → u.unitOk x = true → (u.hist x).state = 2 → Answers (exec (.uhsClearCond f) s) fun t =>
      (t.hist x).state = 0 ∧ t.uhsDirty = true ∧ t.ended = u.ended ++ [⟨o.fn, o.handle, 0xC, stOk, 0x1F, []⟩])) ∧
  (∀ (s u : State) (f : Nat) (o : OpenOp), s.submit f 0xD = (u, some o) →
    ((∀ x ∈ u.ops, x ≠ o → x.handle ≠ o.arg 0) → exec (.opAbort f) s = .next (u.abortArg o 0)) ∧
    (∀ x, u.ops.find? (fun x => x != o && x.handle == o.arg 0 && x.fn == f) = some x →
      (mayAbort x.op = false → exec (.opAbort f) s = .next (u.endWith o stBusy [])) ∧
      (mayAbort x.op = true → (∀ l ∈ u.loads, l.op ≠ x) → exec (.opAbort f) s = .next ((u.cutOp x stAborted).endWith o stOk [stAborted]))))

/-- The long operations of bitting, once accepted. A job image for a slot that is not EMPTY is turned away with BUSY; otherwise its slot is LOADING and the load
queues. The commit gives the slot its identifiers, locks the RWL fields, starts its run, clears a fence, and ends with OK. Ten seconds without VALID leave the slot EMPTY with
BIT_FAIL reason 0xF. An unload leaves nothing of the slot but its Hasp slots. A table image for a slot with one armed is BUSY; one that passes arms the swap. A
program goes into the region of an entry that does not run. -/
def Obligations.ImagesLoadAndUnload : Prop :=
  (∀ (s u : State) (f : Nat) (o : OpenOp) (img : Option Image), s.submit f 1 = (u, some o) →
    let j := o.arg 0
    (8 ≤ j → exec (.opImageLoad f img) s = .next (u.abortArg o 0)) ∧
    (j < 8 → u.fld (BIT_SLOT_STATE_STATE j) ≠ 0 → exec (.opImageLoad f img) s = .next (u.endWith o stBusy [])) ∧
    (j < 8 → u.fld (BIT_SLOT_STATE_STATE j) = 0 →
      ∃ v : State, v.fld (BIT_SLOT_STATE_STATE j) = 1 ∧ v.fld BIT_STATUS_LOAD_BUSY = 1 ∧ v.loads = u.loads ++ [⟨o, img, false, 0⟩] ∧
        v.bare = { u.bare with loads := v.loads } ∧ u.RegsKept v (fun a => a = BIT_SLOT_STATE j ∨ a = BIT_STATUS) ∧
        exec (.opImageLoad f img) s = .next (v.runLoads v.loads.length))) ∧
  (∀ (s : State) (l : Load) (rest : List Load), s.loads = l :: rest → l.ready = false →
    (l.img = none → s.runLoad = (s.noteFail (l.op.arg 0) 0 (hdrFail 0xD 0 stAborted)).dropLoad l stAborted) ∧
    (∀ i, l.img = some i → i.headerFail 1 (l.op.arg 3) = none → (∃ p ∈ i.parts, storeGet 0 s.owner p ≠ 0) → s.runLoad = s.dropLoad l stBusy) ∧
    (∀ i x, l.img = some i → i.headerFail 1 (l.op.arg 3) = some x → s.runLoad = (s.noteFail (l.op.arg 0) 0 x).dropLoad l x.status) ∧
    (∀ i, l.img = some i → i.headerFail 1 (l.op.arg 3) = none → (∀ p ∈ i.parts, storeGet 0 s.owner p = 0) →
      firstFail [s.signFail i, i.layoutFail (l.op.arg 0), s.contentFail (l.op.arg 0) i] = none → (∀ x ∈ i.secs, x.changed = false) →
      s.runLoad = { s.placePrograms i with loads := { l with ready := true, since := s.ftime } :: rest })) ∧
  (∀ (s : State) (l : Load) (st : Nat), s.loads = [l] → l.op.arg 0 < 8 →
    let t := s.dropLoad l st
    t.loads = [] ∧ t.reg (BIT_SLOT_STATE (l.op.arg 0)) = 0 ∧ t.fld BIT_STATUS_LOAD_BUSY = 0 ∧ t.ops = s.ops.filter (fun x => x != l.op) ∧
    t.ended = s.ended ++ [⟨l.op.fn, l.op.handle, l.op.op, st, 0x1F, []⟩] ∧
    t.bare = { s.bare with loads := [], ops := t.ops, ended := t.ended } ∧
    s.RegsKept t (fun a => a = BIT_SLOT_STATE (l.op.arg 0) ∨ a = BIT_STATUS)) ∧
  (∀ s : State, s.loads = [] → exec .imageLoadCommit s = .next s ∧ exec .imageLoadValidTimeout s = .next s) ∧
  (∀ (s : State) (l : Load) (rest : List Load) (i : Image), s.loads = l :: rest → l.img = some i →
    (l.ready = false ∨ s.flag FAB_TIME_STATUS_VALID = false → exec .imageLoadCommit s = .next s) ∧
    (l.ready = true → s.flag FAB_TIME_STATUS_VALID = true →
      let v := ((s.commitImage (l.op.arg 0) i).popLoad).endWith l.op stOk [i.id, i.fld 4 1 * 256 + min (i.fld 6 1) 3, if i.newer then 1 else 0]
      exec .imageLoadCommit s = .next (v.runLoads v.loads.length)) ∧
    (l.ready = false ∨ s.flag FAB_TIME_STATUS_VALID = true ∨ s.ftime < l.since + 40000000000 → exec .imageLoadValidTimeout s = .next s) ∧
    (l.ready = true → s.flag FAB_TIME_STATUS_VALID = false → l.since + 40000000000 ≤ s.ftime →
      let v := ((s.unplacePrograms i (l.op.arg 0)).noteFail (l.op.arg 0) 0 (hdrFail 0xF 0 stTimeout)).dropLoad l stTimeout
      exec .imageLoadValidTimeout s = .next (v.runLoads v.loads.length))) ∧
  (∀ (s : State) (j : Nat) (i : Image), j < 8 →
    let t := s.commitImage j i
    t.reg (BIT_SLOT_ID j) = BitVec.ofNat 32 i.id ∧ t.fld (BIT_SLOT_STATE_STATE j) = 2 ∧ t.fld BIT_STATUS_LOCKED = 1 ∧
    t.fld (FAB_JOB_ID_JOB_ID j) = i.jobId % 2 ^ 32 ∧ t.fld (FAB_JOB_GEN_GEN j) = i.gen % 2 ^ 16 ∧ t.flag RCV_FENCE_FENCED = false ∧
    (∃ r, t.run j = some r ∧ r.first = true ∧ r.arrived = false ∧ r.cut = none ∧ r.dorounte = i.dorounte) ∧
    (∀ k, k ≠ j → t.run k = s.run k)) ∧
  (∀ (s u : State) (f : Nat) (o : OpenOp), s.submit f 2 = (u, some o) →
    let j := o.arg 0
    (8 ≤ j ∨ u.fld (BIT_SLOT_STATE_STATE j) ≠ 2 → exec (.opImageUnload f) s = .next (u.abortArg o 0)) ∧
    (j < 8 → u.fld (BIT_SLOT_STATE_STATE j) = 2 → ∃ v : State, exec (.opImageUnload f) s = .next (v.endWith o stOk []) ∧
      v.slotParts j = [] ∧ v.run j = none ∧ v.reg (BIT_SLOT_STATE j) = 0 ∧ v.reg (BIT_SLOT_ID j) = 0 ∧
      (v.anyLoaded = false → v.fld BIT_STATUS_LOCKED = 0) ∧
      (∀ p ∈ u.slotParts j, ∀ e, e < 32 → v.fld (CAM_HOST_W0_STATE p e) = 0) ∧
      (∀ p b, p < 8 → v.slotState p b = u.slotState p b ∧ v.slotEpoch p b = u.slotEpoch p b))) ∧
  (∀ (s u : State) (f : Nat) (o : OpenOp) (img : Option Image) (peers : Bool), s.submit f 3 = (u, some o) →
    let j := o.arg 0
    (8 ≤ j ∨ u.run j = none → exec (.opTableLoad f img peers) s = .next (u.abortArg o 0)) ∧
    (∀ r, j < 8 → u.run j = some r →
      (r.img.isSome = true → exec (.opTableLoad f img peers) s = .next (u.endWith o stBusy [])) ∧
      (r.img = none → img = none → exec (.opTableLoad f img peers) s =
        .next ((u.noteFail j 1 (hdrFail 0xD 0 stAborted)).endWith o stAborted [])) ∧
      (∀ i x, r.img = none → img = some i → firstFail [i.headerFail 2 (o.arg 3), u.signFail i, i.layoutFail j, u.tableFail j r i] = some x →
        exec (.opTableLoad f img peers) s = .next ((u.noteFail j 1 x).endWith o x.status [])) ∧
      (∀ i, r.img = none → img = some i → firstFail [i.headerFail 2 (o.arg 3), u.signFail i, i.layoutFail j, u.tableFail j r i] = none →
        (∀ x ∈ i.secs, x.changed = false) → (i.sec secDest 0xF).isSome = false → (i.sec secGroups 0xF).isSome = false →
        Answers (exec (.opTableLoad f img peers) s) fun t => t.fld ⟨FAB_TBL_CTRL, j, 1⟩ = 1 ∧ t.fld (BIT_SLOT_STATE_TABLE_ARMED j) = 1 ∧
          (∃ q, t.run j = some q ∧ q = { r with img := q.img } ∧ ∃ y, q.img = some y ∧ y.gen = i.gen ∧ y.id = i.id ∧ y.groups = false) ∧
          t.ops = u.ops ∧ t.ended = u.ended))) ∧
  (∀ (s u : State) (f : Nat) (o : OpenOp) (prog : Option (List Nat)), s.submit f 4 = (u, some o) →
    let j := o.arg 0
    let p := o.arg 1 % 16
    let e := o.arg 1 / 256 % 32
    (8 ≤ j ∨ u.vfOwnsJob f j = false ∨ u.run j = none → exec (.opProgramLoad f prog) s = .next (u.abortArg o 0)) ∧
    (j < 8 → u.vfOwnsJob f j = true → u.run j ≠ none →
      (8 ≤ p ∨ storeGet 0 u.owner p ≠ j + 1 → exec (.opProgramLoad f prog) s = .next (u.abortArg o 1)) ∧
      (p < 8 → storeGet 0 u.owner p = j + 1 →
        (u.fld (CAM_HOST_W0_STATE p e) = 2 ∨ u.fld (CAM_HOST_W0_STATE p e) = 3 → exec (.opProgramLoad f prog) s = .next (u.endWith o stBusy [])) ∧
        (u.fld (CAM_HOST_W0_STATE p e) ≠ 2 → u.fld (CAM_HOST_W0_STATE p e) ≠ 3 →
          (o.arg 4 = 0 ∨ o.arg 4 % 64 ≠ 0 → exec (.opProgramLoad f prog) s = .next (u.abortArg o 4)) ∧
          (∀ l, o.arg 4 ≠ 0 → o.arg 4 % 64 = 0 → prog = some l →
            let n := o.arg 4 / 64
            let base := u.fld (CAM_HOST_W1_PROG_BASE p e)
            let t := (u.hbmPut (64 * hbmDatum p base) (l.take (64 * n)) (fun _ => false)).setFld (CAM_HOST_W2_PROG_LEN p e) n
            (u.inRegion p 1 base n = false → exec (.opProgramLoad f prog) s = .next (u.endWith o stBadImage [])) ∧
            (n < 2 ^ 24 → u.inRegion p 1 base n = true → (∀ k, k < n → ∀ strict, t.descOk j p e k strict = true) →
              exec (.opProgramLoad f prog) s = .next (t.endWith o stOk [n])))))))

/-- The oldest completion of a function whose ring has space leaves the queue as one host write of 32 bytes at TAIL with the lap's phase, and vector 0 is pending.
OP_COMPLETION_POST posts it, or holds it, counted and shown, where the ring is full or not enabled; beyond 256 held completions the rest are dropped and set LOST. Writing HEAD
makes space; enabling a ring starts it empty on lap 1. A pending vector is raised once its interval has passed. A
function level reset takes the function's own registers to their defaults; its operations and completions stay. -/
def Obligations.CompletionsAndInterrupts : Prop :=
  (∀ (s : State) (c : Compl), c.fn ≤ 8 → s.cqSize c.fn = 2 ^ (if 6 ≤ s.fld (HIF_CQ_SIZE_LOG2 c.fn) ∧ s.fld (HIF_CQ_SIZE_LOG2 c.fn) ≤ 16 then
      s.fld (HIF_CQ_SIZE_LOG2 c.fn) else 6) ∧
    let t := s.cqPut c
    let n := s.cqSize c.fn
    let tail := s.fld (HIF_CQ_TAIL_TAIL c.fn)
    t.out = s.out ++ [.hostWrite (s.fld (HIF_CQ_BASE_LO_BASE c.fn) * 4096 + s.fld (HIF_CQ_BASE_HI_BASE c.fn) * 2 ^ 32 + 32 * (tail % n))
      (c.bytes (storeGet false s.cqLap c.fn))] ∧
    t.fld (HIF_CQ_TAIL_TAIL c.fn) = (tail + 1) % n ∧ storeGet false t.irqPend (4 * c.fn) = true ∧
    storeGet false t.cqLap c.fn = (if (tail + 1) % n = 0 then !storeGet false s.cqLap c.fn else storeGet false s.cqLap c.fn) ∧
    t.bare = { s.bare with out := t.out, irqPend := t.irqPend, cqLap := t.cqLap } ∧ s.RegsKept t (fun a => a = HIF_CQ_TAIL c.fn)) ∧
  (∀ (c : Compl) (ph : Bool), let b := c.bytes ph
    b.length = 32 ∧ mField b 0 4 = c.handle % 2 ^ 32 ∧ mField b 4 2 = c.status % 2 ^ 16 ∧ mByte b 6 = c.op % 256 ∧
    mByte b 7 = (if ph then 1 else 0) + c.arg % 32 * 2 ∧ (∀ i, i < 6 → mField b (8 + 4 * i) 4 = c.results.getD i 0 % 2 ^ 32)) ∧
  (∀ (s : State) (c : Compl), s.ended = [c] → c.fn ≤ 8 →
    (s.cqRoom c.fn = true → Answers (exec .opCompletionPost s) fun t =>
      t.ended = [] ∧ t.out = (s.cqPut c).out ∧ t.fld (HIF_CQ_TAIL_TAIL c.fn) = (s.cqPut c).fld (HIF_CQ_TAIL_TAIL c.fn) ∧
      t.fld (HIF_CQ_STATUS_HELD c.fn) = 0 ∧ t.ops = s.ops ∧ s.MemKept t ∧ t.inflight = s.inflight) ∧
    (s.cqRoom c.fn = false → s.cqHeld = 0 → Answers (exec .opCompletionPost s) fun t =>
      t.ended = [c] ∧ t.out = s.out ∧ t.fld (HIF_CQ_STATUS_HELD c.fn) = 1 ∧ t.fld (HIF_CQ_STATUS_HOLD c.fn) = 1 ∧ t.cqHeld = 1 ∧
      storeGet 0 t.cnt (gcntKey 0x266) = cntAdd false (storeGet 0 s.cnt (gcntKey 0x266)) 1 ∧ s.MemKept t)) ∧
  (∀ s : State, (∀ f, f ≤ 8 → s.cqRoom f = false) → (∀ c ∈ s.ended, c.fn ≤ 8) → Answers (exec .opCompletionPost s) fun t =>
    t.ended = s.ended.take 256 ∧ t.out = s.out ∧ (∀ c ∈ s.ended.drop 256, t.fld (HIF_CQ_STATUS_LOST c.fn) = 1) ∧ s.MemKept t) ∧
  (∀ (s : State) (f v : Nat), f ≤ 8 → s.boot = .running → s.ended = [] →
    (Answers (exec (.cqHeadWrite f v) s) fun t => t.fld (HIF_CQ_HEAD_HEAD f) = v % 2 ^ 16 ∧ t.out = s.out ∧
      s.OnlyRegs { t with cqHeld := s.cqHeld } (fun a => a = HIF_CQ_HEAD f ∨ ∃ g, g ≤ 8 ∧ a = HIF_CQ_STATUS g)) ∧
    (s.flag (HIF_CQ_SIZE_ENABLE f) = true → exec (.cqEnable f v) s = .next (s.setFld (HIF_CQ_SIZE_ENABLE f) (v / 256))) ∧
    (s.flag (HIF_CQ_SIZE_ENABLE f) = false → bitAt v 8 = true → Answers (exec (.cqEnable f v) s) fun t =>
      t.flag (HIF_CQ_SIZE_ENABLE f) = true ∧ t.fld (HIF_CQ_SIZE_LOG2 f) = v % 2 ^ 5 ∧ t.fld (HIF_CQ_HEAD_HEAD f) = 0 ∧
      t.fld (HIF_CQ_TAIL_TAIL f) = 0 ∧ storeGet false t.cqLap f = true ∧ t.out = s.out ∧ s.MemKept t)) ∧
  (∀ (s : State) (f v : Nat) (c : Compl), f ≤ 8 → s.boot = .running → s.ended = [c] → c.fn = f →
    let u := s.setFld (HIF_CQ_HEAD_HEAD f) v
    (u.cqRoom f = true → Answers (exec (.cqHeadWrite f v) s) fun t => t.ended = [] ∧ t.out = (u.cqPut c).out) ∧
    (u.cqRoom f = false → Answers (exec (.cqHeadWrite f v) s) fun t => t.ended = [c] ∧ t.out = s.out)) ∧
  (∀ (s : State) (f v : Nat), f ≤ 8 → v ≤ 2 → (v = 2 → f = 0) → s.boot = .running →
    let last := storeGet 0 s.irqLast (4 * f + v)
    let free := last = 0 ∨ last - 1 + 4000 * s.irqMod f v ≤ s.ftime
    (storeGet false s.irqPend (4 * f + v) = false ∨ ¬free → exec (.irqRaise f v) s = .next s) ∧
    (storeGet false s.irqPend (4 * f + v) = true → free → Answers (exec (.irqRaise f v) s) fun t =>
      t.out = s.out ++ [.msix f v] ∧ storeGet false t.irqPend (4 * f + v) = false ∧ storeGet 0 t.irqLast (4 * f + v) = s.ftime + 1 ∧
      t = { s with out := t.out, irqPend := t.irqPend, irqLast := t.irqLast })) ∧
  (∀ (s : State) (f : Nat), f ≤ 8 → s.boot = .running → Answers (exec (.functionLevelReset f) s) fun t =>
    t.reg (HIF_FN_STATUS f) = 0 ∧ t.reg (HIF_BAR2_BASE f) = 0 ∧ t.reg (HIF_IRQ_MOD f) = 0 ∧ (∀ i, i < 16 → t.reqWord f i = 0) ∧
    t.flag (HIF_CQ_SIZE_ENABLE f) = false ∧ t.fld (HIF_CQ_SIZE_LOG2 f) = 6 ∧ t.ops = s.ops ∧ t.ended = s.ended ∧ s.MemKept t ∧
    (0 < f → t.flag (MBX_STATUS_FULL (39 + f)) = false))

/-- A read beyond a function's rights answers zero, one of a powered-down domain completes with Unsupported Request, any other answers the word and changes nothing but a counter's
latch. A write beyond its rights is ignored and counted with DENIED, one to a powered-down domain is dropped with DOMAIN_OFF; one that reaches takes effect bit by bit as the access
code says. An HBM read answers the bytes at the window's address with their poison, a write stores every byte and poisons or cleans the datums it fills; a refused read is an Unsupported
Request, a refused write is dropped and DENIED; a FENCED module refuses it (log entry 20). PERST# high trains the link. -/
def Obligations.HostReachesRegistersAndMemory : Prop :=
  (∀ (s : State) (f a : Nat) (wide : Bool), s.boot = .running → f ≤ 8 → a % 4 = 0 →
    (s.mayReach f a false = false ∨ s.absentReg a = true → exec (.registerRead f a wide) s = .next { s with out := s.out ++ [.answer 0 false] }) ∧
    (s.mayReach f a false = true → s.absentReg a = false →
      (s.regDown a = true → exec (.registerRead f a wide) s = .next (s.unsupported f)) ∧
      (s.regDown a = false → submitWord a = true → exec (.registerRead f a wide) s = .next (if wide then s else s.unsupported f)) ∧
      (s.regDown a = false → submitWord a = false →
        (wide = true → exec (.registerRead f a wide) s =
          .next { s with out := s.out ++ [.answer (s.readWord a + s.readWord (a + 4) * 2 ^ 32) false] }) ∧
        (wide = false → s.pairAt a = none → exec (.registerRead f a wide) s = .next { s with out := s.out ++ [.answer (s.readWord a) false] }) ∧
        (∀ v, wide = false → s.pairAt a = some v → a % 8 = 0 → Answers (exec (.registerRead f a wide) s) fun t =>
          t.out = s.out ++ [.answer (v % 2 ^ 32) false] ∧ t = { s with out := t.out, latch := t.latch } ∧
          storeGet 0 t.latch (a + 4) = v / 2 ^ 32 + 1) ∧
        (∀ v l, wide = false → s.pairAt a = some v → a % 8 = 4 → storeGet 0 s.latch a = l + 1 → Answers (exec (.registerRead f a wide) s) fun t =>
          t.out = s.out ++ [.answer l false] ∧ t = { s with out := t.out, latch := t.latch })))) ∧
  (∀ (s : State) (f a v : Nat), s.boot = .running → f ≤ 8 → a % 4 = 0 → a < 0x10100000 →
    (s.absentReg a = true → exec (.registerWrite f a v) s = .next s) ∧
    (s.absentReg a = false → s.mayReach f a true = false → exec (.registerWrite f a v) s = .next (s.denied f)) ∧
    (s.absentReg a = false → s.mayReach f a true = true → s.regDown a = true → exec (.registerWrite f a v) s = .next (s.dropWrite f)) ∧
    (s.absentReg a = false → s.mayReach f a true = true → s.regDown a = false → s.flag MBX_RSEND_STATUS_BUSY = false →
      exec (.registerWrite f a v) s = .next (s.writeReg a v) ∧ (regRow a = none → s.writeReg a v = s) ∧
      (∀ r i, regRow a = some (r, i) → r.rw < 2 ^ 32 → r.w1c < 2 ^ 32 → r.rwl = 0 → ownBits a = 0 → s.heldBits a = 0 →
        (∃ p off, partWindow a = some (p, off) ∧ a ≠ CAM_STRETCH p ∧ a ≠ TRC_CFG p) →
        Answers (exec (.registerWrite f a v) s) fun t => t.reg a = BitVec.ofNat 32 (maskWrite { r with w1s := 0 } (s.reg a).toNat (v % 2 ^ 32)
          (s.rwlLocked a)) ∧ s.OnlyRegs t (fun b => b = a)) ∧
      (∀ r i, regRow a = some (r, i) → r.rwl ≠ 0 → s.rwlLocked a = true → (∃ p off, partWindow a = some (p, off) ∧ a ≠ CAM_STRETCH p ∧ a ≠ TRC_CFG p) →
        Answers (exec (.registerWrite f a v) s) fun t => t.flag BIT_STATUS_LOCK_WRITE = true ∧
          storeGet 0 t.cnt (gcntKey 0x280) = cntAdd false (storeGet 0 s.cnt (gcntKey 0x280)) 1))) ∧
  (∀ (r : RegRow) (old v i : Nat) (locked : Bool), r.rw < 2 ^ 32 → r.rwl < 2 ^ 32 → r.w1c < 2 ^ 32 → old < 2 ^ 32 → i < 32 →
    bitAt (maskWrite r old v locked) i =
    (if bitAt r.rw i || (bitAt r.rwl i && !locked) || (bitAt r.w1s i && bitAt v i) then bitAt v i
     else if bitAt r.w1c i then bitAt old i && !bitAt v i else bitAt old i)) ∧
  (∀ (s : State) (f a : Nat), f ≤ 8 →
    (let t := s.denied f;
      t.fld (HIF_FN_STATUS_DENIED f) = 1 ∧ storeGet 0 t.cnt (gcntKey 0x261) = cntAdd false (storeGet 0 s.cnt (gcntKey 0x261)) 1 ∧
      s.OnlyRegs t (fun b => b = HIF_FN_STATUS f)) ∧
    (let t := s.dropWrite f;
      t.fld (HIF_FN_STATUS_DROP f) = 1 ∧ t.fld (HIF_FN_STATUS_LAST_DROP f) = stDomainOff ∧
      storeGet 0 t.cnt (gcntKey 0x260) = cntAdd false (storeGet 0 s.cnt (gcntKey 0x260)) 1 ∧ s.OnlyRegs t (fun b => b = HIF_FN_STATUS f)) ∧
    (f ≠ 0 → s.flag (HIF_VF_MAP_VALID (f - 1)) = false → s.mayReach f a true = false) ∧ s.mayReach 0 a true = true) ∧
  (∀ (s : State) (f x n : Nat) (env : CmdEnv) (l : List Nat) (psn : Bool), s.boot = .running → f ≤ 8 →
    let a := s.bar2 f x
    (s.hbmDenied f a n ≠ 0 → exec (.hostHbmRead f x n env) s = .next (s.unsupported f)) ∧
    (s.hbmDenied f a n = 0 → env.ecc = [] → env.parity = [] → (∀ k, k < 8 → s.domState (4 * k + 3) ≠ 2) →
      exec (.hostHbmRead f x n env) s = .next { s with out := s.out ++ [.answer (s.rdBytes a n) ((accessDatums a n).any s.psn)] }) ∧
    (l ≠ [] → s.hbmDenied f a l.length = 1 ∨ (s.hbmDenied f a l.length = 0 ∧ s.flag RCV_FENCE_FENCED = true) →
      exec (.hostHbmWrite f x l psn) s = .next ((s.denied f).gcount 0x260 1)) ∧
    (l ≠ [] → s.hbmDenied f a l.length = 2 → exec (.hostHbmWrite f x l psn) s = .next (s.dropWrite f)) ∧
    (l ≠ [] → s.hbmDenied f a l.length = 0 → s.flag RCV_FENCE_FENCED = false → (∀ k, k < 8 → s.domState (4 * k + 3) ≠ 2) →
      Answers (exec (.hostHbmWrite f x l psn) s) fun t =>
        (∀ i, i < l.length → (t.byte (a + i)).toNat = l.getD i 0 % 256) ∧ (∀ b, ¬(a ≤ b ∧ b < a + l.length) → t.byte b = s.byte b) ∧
        (∀ d, 64 * d < a + l.length → a < 64 * (d + 1) → psn = true → storeGet false t.poison d = true) ∧
        (∀ d, a ≤ 64 * d → 64 * (d + 1) ≤ a + l.length → storeGet false t.poison d = psn) ∧
        (∀ d, ¬(64 * d < a + l.length ∧ a < 64 * (d + 1)) → storeGet false t.poison d = storeGet false s.poison d) ∧ t.inflight = s.inflight)) ∧
  (∀ (s : State) (rate width flit : Nat),
    (s.boot = .off ∨ s.pins.ready = false → exec (.perstDeassert rate width flit) s = .next { s with pins := { s.pins with perst := false } }) ∧
    (s.boot ≠ .off → s.pins.ready = true → Answers (exec (.perstDeassert rate width flit) s) fun t => t.perst = true ∧ t.pins = { s.pins with perst := false } ∧
      t.fld HIF_LINK_RATE = rate % 8 ∧ t.fld HIF_LINK_WIDTH = width % 32 ∧ t.fld HIF_LINK_FLIT = flit % 2 ∧
      t = { s with pins := t.pins, perst := true, regs := t.regs } ∧ s.RegsKept t (fun a => a = HIF_LINK)))

/-- Each delivery of a message at a mailbox: DATA and LEN become the message's, SENDER and GID are stamped, SEQ advances modulo 256, FULL is set; where FULL stood, the message
before is lost, COLLIDE is set and one collision counted. A read of a mailbox register leaves the mailbox unchanged. A write of TAKE with GO by the receiver clears
FULL where its SEQ is the current one and is ignored otherwise. -/
def Obligations.MailboxDelivery : Prop :=
  (∀ (s : State) (n who gid : Nat) (l : List Nat), n < 64 → 4 ≤ l.length → l.length ≤ 64 → l.length % 4 = 0 →
    let t := s.deliver n who gid l
    (∀ i, 4 * i < l.length → i < 16 → (t.reg (MBX_DATA n + 4 * i)).toNat = mField l (4 * i) 4) ∧
    t.fld (MBX_STATUS_LEN n) = l.length / 4 ∧ t.fld (MBX_SENDER_SENDER n) = who % 2 ^ 16 ∧ t.fld (MBX_GID_GID n) = gid % 2 ^ 20 ∧
    t.fld (MBX_STATUS_SEQ n) = (s.fld (MBX_STATUS_SEQ n) + 1) % 256 ∧ t.flag (MBX_STATUS_FULL n) = true ∧
    (s.flag (MBX_STATUS_FULL n) = true → t.flag (MBX_STATUS_COLLIDE n) = true ∧
      storeGet 0 t.cnt (gcntKey 0x263) = cntAdd false (storeGet 0 s.cnt (gcntKey 0x263)) 1) ∧
    (s.flag (MBX_STATUS_FULL n) = false → t.flag (MBX_STATUS_COLLIDE n) = s.flag (MBX_STATUS_COLLIDE n) ∧ t.cnt = s.cnt)) ∧
  (∀ (s : State) (f n i : Nat) (wide : Bool), n < 64 → 4 * i < 0x50 → Answers (exec (.registerRead f (MBX_DATA n + 4 * i) wide) s) fun t =>
    ∀ a, MBX_DATA n ≤ a → a < MBX_DATA n + 0x50 → t.reg a = s.reg a) ∧
  (∀ (s : State) (n who v : Nat), s.boot = .running → n < 64 → mayTake n who = true →
    (n < 32 → s.present (n / 4) = true ∧ s.domDown (4 * (n / 4) + 1) = false) →
    (bitAt v 8 = true → v % 256 = s.fld (MBX_STATUS_SEQ n) → Answers (exec (.mbxTake n who v) s) fun t => t.flag (MBX_STATUS_FULL n) = false ∧
      t.fld (MBX_STATUS_SEQ n) = s.fld (MBX_STATUS_SEQ n) ∧ ∀ i, i < 16 → t.reg (MBX_DATA n + 4 * i) = s.reg (MBX_DATA n + 4 * i)) ∧
    (v % 256 ≠ s.fld (MBX_STATUS_SEQ n) → Answers (exec (.mbxTake n who v) s) fun t => t.flag (MBX_STATUS_FULL n) = s.flag (MBX_STATUS_FULL n) ∧
      s.OnlyRegs t (fun a => a = MBX_TAKE n)))

/-- A message that may not be delivered is dropped with DENIED over PCIe, is a bus error on the module, and is nothing from the tray; one into a mailbox of a powered-down domain is dropped as a
posted write. A delivery wakes the core's domain from A1, raises vector 1, or asserts the module alert. REMOTE_MAILBOX_SEND of the PF forms a
management packet. A Keeper message of a version outside 1 to 3 is dropped and counted; HELLO is answered to its sender with the module's range; the choice of mailbox for the
answers is the model's (log entry 20). -/
def Obligations.MessagesGoWhereTheyMay : Prop :=
  (∀ (s : State) (n who off : Nat) (enabled : Bool) (l : List Nat), s.boot = .running → n < 64 → who < 0x5000 →
    (n < 32 → s.present (n / 4) = true) →
    let ok := mbxShape off enabled l = true ∧ s.mayWriteMbx n who = true
    let down := n < 32 ∧ s.domDown (4 * (n / 4) + 1) = true
    (ok → ¬down → exec (.mbxSend n who off enabled l) s = .next (s.deliver n who 0 l)) ∧
    (∀ f, idFn who = some f → ok → down → exec (.mbxSend n who off enabled l) s = .next (s.dropWrite f)) ∧
    (∀ f, idFn who = some f → ¬ok → exec (.mbxSend n who off enabled l) s = .next ((s.setFld (HIF_FN_STATUS_DENIED f) 1).gcount 0x264 1)) ∧
    (idFn who = none → who = trayId → ¬ok ∨ down → exec (.mbxSend n who off enabled l) s = .next s) ∧
    (idFn who = none → who ≠ trayId → ¬ok ∨ down → exec (.mbxSend n who off enabled l) s = .next { s with out := s.out ++ [.busError who] })) ∧
  (∀ (off : Nat) (enabled : Bool) (l : List Nat), mbxShape off enabled l = true ↔
    off = 0 ∧ enabled = true ∧ 4 ≤ l.length ∧ l.length ≤ 64 ∧ l.length % 4 = 0) ∧
  (∀ (s : State) (n who gid : Nat) (l : List Nat), n < 64 →
    let t := s.deliver n who gid l
    (n < 32 → s.domState (4 * (n / 4) + 1) = 1 → t.domState (4 * (n / 4) + 1) = 0) ∧
    (32 ≤ n → n < 48 → storeGet false t.irqPend (4 * (if n < 40 then 0 else n - 39) + 1) = true) ∧
    (56 ≤ n → t.fld KPR_SB_ALERT_MAILBOX = 1) ∧ s.MemKept t ∧ t.inflight = s.inflight ∧ t.ended = s.ended) ∧
  (∀ (s : State) (n who v : Nat) (f : Nat), s.boot = .running → n < 64 → (n < 32 → s.present (n / 4) = true) → idFn who = some f → mayTake n who = false →
    exec (.mbxTake n who v) s = .next (s.denied f)) ∧
  (∀ (s : State) (f v : Nat), s.boot = .running → f ≤ 8 →
    (f ≠ 0 → exec (.remoteMailboxSend f v) s = .next (s.denied f)) ∧
    (f = 0 → bitAt v 31 = false → exec (.remoteMailboxSend f v) s = .next (s.setReg MBX_RSEND_CTRL (BitVec.ofNat 32 (v % 2 ^ 31)))) ∧
    (f = 0 → bitAt v 31 = true → v % 2 ^ 20 ≠ s.gid →
      let n := min 16 (max 1 (v / 2 ^ 26 % 32))
      Answers (exec (.remoteMailboxSend f v) s) fun t => ∃ x : TxPkt, t.txq = s.txq ++ [x] ∧ x.flow = none ∧ (Hdr.dec x.pkt.hdr).cls = 5 ∧
        (Hdr.dec x.pkt.hdr).dst = v % 2 ^ 20 ∧ (Hdr.dec x.pkt.hdr).offset = v / 2 ^ 20 % 64 ∧ (Hdr.dec x.pkt.hdr).len = 4 * n ∧
        x.pkt.pay.length = 4 * n ∧ (∀ i, i < n → mField x.pkt.pay (4 * i) 4 = (s.reg (MBX_RSEND_DATA + 4 * i)).toNat) ∧
        t.bare = { s.bare with txq := t.txq } ∧ s.RegsKept t (fun a => a = MBX_RSEND_CTRL))) ∧
  (∀ (s : State) (n : Nat), s.boot = .running → 48 ≤ n → n < 56 →
    let w := (s.reg (MBX_DATA n)).toNat
    let who := s.fld (MBX_SENDER_SENDER n)
    (s.flag (MBX_STATUS_FULL n) = false → exec (.hello n) s = .next s) ∧
    (s.flag (MBX_STATUS_FULL n) = true → w / 256 % 256 < 1 ∨ 3 < w / 256 % 256 → Answers (exec (.hello n) s) fun t =>
      t.flag (MBX_STATUS_FULL n) = false ∧ storeGet 0 t.cnt (gcntKey 0x281) = cntAdd false (storeGet 0 s.cnt (gcntKey 0x281)) 1 ∧
      s.OnlyRegs t (fun a => a = MBX_STATUS n)) ∧
    (s.flag (MBX_STATUS_FULL n) = true → 1 ≤ w / 256 % 256 → w / 256 % 256 ≤ 3 → w % 256 = 1 → idFn who = some 0 ∨ who = trayId →
      let v := mbxVersion (w / 2 ^ 16 % 256) (w / 2 ^ 24 % 256)
      let x := if who = trayId then 9 else 0
      ∃ u : State, exec (.hello n) s = .next (u.deliver (if who = trayId then 56 else 32) keeperId 0 [1, v, 1, 3]) ∧
        u.flag (MBX_STATUS_FULL n) = false ∧ u.fld (BIT_MBX_PEER_VER x) = v ∧ u.fld (BIT_MBX_PEER_PEER_MIN x) = w / 2 ^ 16 % 16 ∧
        u.fld (BIT_MBX_PEER_PEER_MAX x) = w / 2 ^ 24 % 16 ∧ s.OnlyRegs u (fun a => a = MBX_STATUS n ∨ a = (BIT_MBX_PEER_VER x).addr))) ∧
  (∀ lo hi : Nat, (max 1 lo ≤ min 3 hi → mbxVersion lo hi = min 3 hi) ∧ (min 3 hi < max 1 lo → mbxVersion lo hi = 1))

/-- An event counter saturates at 2^48 - 1, a time counter wraps. The clear of a counter, or of a block, by a function that may write it zeroes exactly those counters.
TRACE_ARM puts the store in RECORDING and clears the trigger position; TRACE_TRIGGER stores a TRIGGER record of source 1 where the unit records, and is ignored and
counted where it does not stand in RECORDING. -/
def Obligations.CountersClearAndTracesFreeze : Prop :=
  (∀ (s : State) (n k : Nat), n < 1024 → gcntIsTime n = false →
    storeGet 0 (s.gcount n k).cnt (gcntKey n) = min (storeGet 0 s.cnt (gcntKey n) + k) (2 ^ 48 - 1)) ∧
  (∀ v k : Nat, cntAdd true v k = (v + k) % 2 ^ 48) ∧
  (∀ (s : State) (f p n : Nat), s.boot = .running → p ≤ 8 → n < 1024 →
    let may := if p = 8 then f = 0 else f ≤ 8 ∧ s.Reaches f (DBG_CNT_CLEAR p)
    let a := if p = 8 then DBG_GCNT_CLEAR else DBG_CNT_CLEAR p
    let k := fun i => if p = 8 then gcntKey i else cntKey p i
    (may → (Answers (exec (.counterClear f p n) s) fun t => storeGet 0 t.cnt (k n) = 0 ∧ (∀ j, j ≠ k n → storeGet 0 t.cnt j = storeGet 0 s.cnt j) ∧
        t = { s with cnt := t.cnt, regs := t.regs } ∧ s.RegsKept t (fun b => b = a)) ∧
      (Answers (exec (.counterClearAll f p) s) fun t => (∀ i, i < 1024 → storeGet 0 t.cnt (k i) = 0) ∧
        (∀ j, (∀ i, i < 1024 → j ≠ k i) → storeGet 0 t.cnt j = storeGet 0 s.cnt j) ∧
        t = { s with cnt := t.cnt, regs := t.regs } ∧ s.RegsKept t (fun b => b = a))) ∧
    (p = 8 → f ≠ 0 → f ≤ 8 → exec (.counterClear f p n) s = .next (s.denied f) ∧ exec (.counterClearAll f p) s = .next (s.denied f)) ∧
    (p < 8 → f ≤ 8 → s.present p = true → s.mayReach f (DBG_CNT_CLEAR p) true = false → exec (.counterClear f p n) s = .next (s.denied f) ∧
      exec (.counterClearAll f p) s = .next (s.denied f) ∧ exec (.traceArm f p) s = .next (s.denied f) ∧ exec (.traceTrigger f p) s = .next (s.denied f))) ∧
  (∀ (s : State) (f p : Nat), f ≤ 8 → p < 8 → s.Reaches f (DBG_CNT_CLEAR p) →
    (s.flag (TRC_CFG_EN p) = false → Answers (exec (.traceArm f p) s) fun t => t.fld (TRC_STATUS_STATE p) = 0 ∧ t.flag (TRC_TRIG_POS_VALID p) = false ∧
      t.bare = { s.bare with trc := t.trc } ∧ s.RegsKept t (fun a => a = TRC_STATUS p ∨ a = TRC_TRIG_POS p)) ∧
    (s.flag (TRC_CFG_EN p) = true → s.trcMode p = 1 → (s.trcGet p).dropCount = 0 → s.fld (TRC_WPTR_WPTR p) < trcSlots →
      Answers (exec (.traceArm f p) s) fun t => t.fld (TRC_STATUS_STATE p) = 0 ∧ t.flag (TRC_TRIG_POS_VALID p) = false ∧
        storeGet 0 t.trcBuf (p * trcSlots + s.fld (TRC_WPTR_WPTR p)) = 5 + s.ftime % 2 ^ 40 * 2 ^ 8 + s.ftime / 2 ^ 40 % 2 ^ 24 * 2 ^ 48 ∧
        t.fld (TRC_WPTR_WPTR p) = (s.fld (TRC_WPTR_WPTR p) + 1) % trcSlots) ∧
    (bitAt (s.fld TRC_FANOUT_MASK) p = false →
      (s.flag (TRC_CFG_EN p) = false ∨ s.trcMode p = 0 → exec (.traceTrigger f p) s = .next s) ∧
      (s.flag (TRC_CFG_EN p) = true → s.trcMode p ≠ 0 → s.fld (TRC_STATUS_STATE p) ≠ 0 → Answers (exec (.traceTrigger f p) s) fun t =>
        t.fld (TRC_STATUS_TRIG_IGNORED p) = 1 ∧ s.OnlyRegs t (fun a => a = TRC_STATUS p)) ∧
      (s.flag (TRC_CFG_EN p) = true → s.trcMode p = 1 → s.fld (TRC_STATUS_STATE p) = 0 → (s.trcGet p).dropCount = 0 → s.fld (TRC_WPTR_WPTR p) < trcSlots →
        let i := s.fld (TRC_WPTR_WPTR p)
        let post := min (s.fld (TRC_POST_POST p)) (s.trcCap p - 4 - s.fld (TRC_PRE_PRE p))
        Answers (exec (.traceTrigger f p) s) fun t => storeGet 0 t.trcBuf (p * trcSlots + i) = 7 + 16 + s.ftime % 2 ^ 40 * 2 ^ 8 ∧
          t.fld (TRC_TRIG_POS_SLOT p) = i ∧ t.flag (TRC_TRIG_POS_VALID p) = true ∧
          t.fld (TRC_STATUS_STATE p) = (if post = 0 then 2 else 1) ∧ (t.trcGet p).postLeft = post)))

/-- ERROR_RECORD_WRITE takes the detections in order: one that writes a record puts its 64 bytes, with their CRC, at TAIL, and where the ring is full the oldest goes and OVERRUN is set. D2D_RETRY records a
corrected parity error. SCRUB_READ moves on over every datum and poisons one that is uncorrectable. MIGRATION_COMPLETE marks the channel
retired. EXPOSURE_SAMPLE adds one second to the bands of each scope whose domain is on. -/
def Obligations.DetectionsBecomeRecords : Prop :=
  (∀ s : State, (s.boot ≠ .running → exec .errorRecordWrite s = .next s) ∧
    (∀ r rest, s.boot = .running → s.detections = r :: rest → r.cls ≠ 0 →
      exec .errorRecordWrite s = .next (({ s with detections := rest }.writeRecord r).dropRetired))) ∧
  (∀ (s : State) (w : Nat),
    let tail := s.fld KPR_ERR_TAIL_TAIL
    let head := s.fld KPR_ERR_HEAD_HEAD
    let t := s.ringPut w
    (∀ i, i < 16 → (t.reg (KPR_ERR_RING tail + 4 * i)).toNat = bits w (32 * i) 32) ∧ t.fld KPR_ERR_TAIL_TAIL = (tail + 1) % 1024 ∧
    ((tail + 1) % 1024 = head → t.fld KPR_ERR_HEAD_HEAD = (head + 1) % 1024 ∧ t.fld KPR_ERR_STATUS_OVERRUN = 1) ∧
    ((tail + 1) % 1024 ≠ head → t.fld KPR_ERR_HEAD_HEAD = head ∧ t.fld KPR_ERR_STATUS_OVERRUN = s.fld KPR_ERR_STATUS_OVERRUN) ∧
    s.OnlyRegs t (fun a => a = KPR_ERR_TAIL ∨ a = KPR_ERR_HEAD ∨ a = KPR_ERR_STATUS ∨
      (KPR_ERR_RING tail ≤ a ∧ a < KPR_ERR_RING tail + 64))) ∧
  (∀ (s : State) (r : ErrRec), r.cls < 2 ^ 8 →
    ∃ u : State, s.writeRecord r = u.countRec r ∧ u.fld KPR_ERR_SEQ_SEQ = (s.fld KPR_ERR_SEQ_SEQ + 1) % 2 ^ 32 ∧
      u.fld KPR_ERR_TAIL_TAIL = (s.fld KPR_ERR_TAIL_TAIL + 1) % 1024 ∧ storeGet false u.irqPend 2 = true ∧
      (∀ i, i < 16 → (u.reg (KPR_ERR_RING (s.fld KPR_ERR_TAIL_TAIL) + 4 * i)).toNat =
        bits (r.word (s.fld KPR_ERR_SEQ_SEQ) s.opmin) (32 * i) 32) ∧
      (bitAt r.flags 0 = true ∨ bitAt (s.fld KPR_ERR_ALERT_MASK_MASK) r.cls = true → u.fld ⟨KPR_SB_ALERT, alError, 1⟩ = 1)) ∧
  (∀ (r : ErrRec) (seq opmin : Nat), let w := r.word seq opmin
    bits w 0 16 = r.unit % 2 ^ 16 ∧ bits w 16 8 = r.cls % 2 ^ 8 ∧ bits w 24 8 = r.flags % 2 ^ 8 ∧ bits w 32 32 = seq % 2 ^ 32 ∧
    bits w 64 64 = r.ftime % 2 ^ 64 ∧ bits w 128 32 = opmin % 2 ^ 32 ∧ bits w 160 24 = r.desc % 2 ^ 24 ∧ bits w 184 6 = r.ctx % 64 ∧
    bits w 192 16 = r.layer % 2 ^ 16 ∧ bits w 208 16 = r.operator % 2 ^ 16 ∧ bits w 320 128 = r.syndrome % 2 ^ 128 ∧
    bits w 480 32 = crc32c (leBytes 60 (w % 2 ^ 480))) ∧
  (∀ (s : State) (unit addr mask prod : Nat), s.boot = .running → Answers (exec (.d2dRetry unit addr mask prod) s) fun t =>
    ∃ r : ErrRec, t = { s with detections := s.detections ++ [r] } ∧ r.unit = unit ∧ r.cls = 1 ∧ r.flags = flCorrected ∧ r.ftime = s.ftime ∧
      r.syndrome = addr % 2 ^ 32 + mask % 2 ^ 16 * 2 ^ 32 + prod % 2 ^ 16 * 2 ^ 48 + 2 * 2 ^ 64) ∧
  (∀ (s : State) (p how : Nat) (hbm : Bool),
    let dom := 4 * p + (if hbm then 3 else 2)
    let key := 2 * p + (if hbm then 0 else 1)
    let n := if hbm then 0x30000000 else 0xC0000
    let u := storeGet 0 s.scrubPos key
    let d := if hbm then hbmDatum p u else tsDatum p u
    (s.present p = false ∨ s.flag (MEM_CFG_SCRUB_EN p) = false ∨ 2 ≤ s.domState dom → exec (.scrubRead p hbm how) s = .next s) ∧
    (s.present p = true → s.flag (MEM_CFG_SCRUB_EN p) = true → s.domState dom < 2 → u < n →
      (Answers (exec (.scrubRead p hbm how) s) fun t => storeGet 0 t.scrubPos key = (u + 1) % n ∧ t.mem = s.mem) ∧
      (how = 1 → u + 1 ≠ n → Answers (exec (.scrubRead p hbm how) s) fun t => t = { s with scrubPos := t.scrubPos }) ∧
      (how = 4 → s.psn d = false → p < 8 → Answers (exec (.scrubRead p hbm how) s) fun t => storeGet false t.poison d = true ∧
        (∀ x, x ≠ d → storeGet false t.poison x = storeGet false s.poison x) ∧ (s.boot = .running → t.detections.length = s.detections.length + 1)))) ∧
  (∀ (s : State) (p : Nat) (hbm : Bool), (∀ k ∈ s.migr, k / 64 ≠ chanKey p 0 hbm / 64) ∨ 2 ≤ s.domState (4 * p + (if hbm then 3 else 2)) →
    exec (.migrationComplete p hbm []) s = .next s) ∧
  (∀ (s : State) (p k : Nat) (hbm : Bool), p < 8 → s.migr.find? (fun k => decide (k / 64 = chanKey p 0 hbm / 64)) = some k →
    s.domState (4 * p + (if hbm then 3 else 2)) < 2 →
    let x := k % 64
    let a := (if hbm then MEM_PC_RETIRED_LO p else TSR_BANK_RETIRED_LO p) + 4 * (x / 32)
    Answers (exec (.migrationComplete p hbm []) s) fun t => (∀ m, m ∈ t.migr ↔ m ∈ s.migr ∧ m ≠ k) ∧ t.fld ⟨a, x % 32, 1⟩ = 1 ∧
      (t.hist (if hbm then stackUnit p x else unitId p (0x20 + x))).state = 1 ∧ s.MemKept t ∧
      t.fld (if hbm then MEM_STATUS_MIGRATING p else TSR_STATUS_MIGRATING p) =
        (if ∃ m ∈ s.migr, m ≠ k ∧ m / 64 = chanKey p 0 hbm / 64 then 1 else 0)) ∧
  (∀ (s : State) (activity : List (Nat × Nat)), exec (.exposureSample activity) s =
    .next (forRange 24 (fun sc t => t.exposeScope sc) { s with activity := activity.foldl (fun m c => storeSet 0 m c.1 c.2) s.activity })) ∧
  (∀ (s : State) (sc : Nat), sc < 24 →
    let d := scopeDomain sc
    let h := s.opmin / 60
    let temp := tempBand (s.fld (PWR_TEMP_TEMP (domainSensor d)))
    let volt := voltBand (s.fld (PWR_RAIL_MEAS_MV (domainRail d))) (s.railSet (domainRail d))
    let act := min 3 (storeGet 0 s.activity d / 25)
    (d < 40 → s.domState d = 3 → s.exposeScope sc = s) ∧
    (¬(d < 40 ∧ s.domState d = 3) → ∀ k,
      storeGet 0 (s.exposeScope sc).expo (expoKey sc k h) = storeGet 0 s.expo (expoKey sc k h) +
        (if k = expoSlot 0 temp ∨ k = expoSlot 1 volt ∨ k = expoSlot 2 act then 1 else 0)) ∧
    s.exposeScope sc = { s with expo := (s.exposeScope sc).expo, expoDay := (s.exposeScope sc).expoDay })

/-- OPMIN_TICK counts a minute. A day closes once OPMIN is at a multiple of 1,440: its records go in the order of R438, its accumulators start again, a checkpoint is written. A month
closes every 43,200 minutes with 126 records. The checkpoint goes to the oldest of four slots each 60 minutes. A flush waits for 192 records or FLUSH_MIN
and for 60 s since the last. A state copy is written at most once a minute, over the older of two. -/
def Obligations.TheRecorderKeepsTime : Prop :=
  (∀ (s : State) (m : Minute), (s.boot = .off → exec (.opminTick m) s = .next s) ∧
    (s.boot ≠ .off → (∀ x ∈ m.temps, x.1 < 64) → (∀ x ∈ m.rails, x.1 < 32) → (∀ x ∈ m.lanes, x.1 < 96) →
      Answers (exec (.opminTick m) s) fun t => t.opmin = (s.opmin + 1) % 2 ^ 32 ∧ t.accGet kMinutes = s.accGet kMinutes + 1 ∧
        t.accGet (kMinutes + kMonthOff) = s.accGet (kMinutes + kMonthOff) + 1 ∧
        (storeGet 0 s.opRing 1024 < 1024 → storeGet 0 t.opRing (storeGet 0 s.opRing 1024) = t.opmin + 1) ∧
        t.bare = { s.bare with opRing := t.opRing, acc := t.acc, accExt := t.accExt } ∧ s.RegsKept t (fun a => a = EVR_OPMIN))) ∧
  (∀ s : State, s.dayRecords.map (·.1) = 0x01 :: (List.replicate 128 0x02 ++ List.replicate 32 0x03 ++ List.replicate 96 0x04 ++
    List.replicate 96 0x05 ++ List.replicate s.tally.length 0x06 ++ List.replicate s.sdeUnits.length 0x07) ∧ s.monthRecords.length = 126) ∧
  (∀ s : State,
    let day := s.fld EVR_DAY_DAY
    (s.opmin % 1440 ≠ 0 ∨ s.opmin / 1440 ≤ day → exec .dayClose s = .next s) ∧
    (s.opmin % 1440 = 0 → day < s.opmin / 1440 → Answers (exec .dayClose s) fun t =>
      t.fld EVR_DAY_DAY = day + 1 ∧ t.opmin = s.opmin ∧ t.accGet kMinutes = 0 ∧ t.tally = [] ∧ t.expoDay = [] ∧ t.staged = [] ∧
      t.ckpts = (⟨t.opmin, t.acc, t.accExt, t.tally, t.expoDay⟩ :: s.ckpts).take 4 ∧
      t.accGet (kMinutes + kMonthOff) = s.accGet (kMinutes + kMonthOff) ∧ s.MemKept t ∧ t.inflight = s.inflight)) ∧
  (∀ s : State,
    let due := s.opmin % 43200 = 0 ∧ s.fld EVR_DAY_DAY = s.opmin / 1440 ∧ s.accGet kMonthIdx < s.opmin / 43200
    (¬due → exec .monthClose s = .next s) ∧
    (due → Answers (exec .monthClose s) fun t => t.accGet kMonthIdx = s.opmin / 43200 ∧ t.accGet (kMinutes + kMonthOff) = 0 ∧
      t.accGet kMinutes = s.accGet kMinutes ∧
      (s.fld EVR_LIFE_COUNT_COUNT + 126 ≤ 16384 → t.fld EVR_LIFE_COUNT_COUNT = s.fld EVR_LIFE_COUNT_COUNT + 126) ∧
      (16384 < s.fld EVR_LIFE_COUNT_COUNT + 126 → t.flag EVR_STATUS_LIFE_FULL = true) ∧ s.MemKept t ∧ t.inflight = s.inflight)) ∧
  (∀ s : State,
    let due := s.opmin % 60 = 0 ∧ ∀ c rest, s.ckpts = c :: rest → c.opmin ≠ s.opmin
    (¬due → exec .accumulatorCheckpoint s = .next s) ∧
    (due → exec .accumulatorCheckpoint s =
      .next { s with ckpts := (⟨s.opmin, s.acc, s.accExt, s.tally, s.expoDay⟩ :: s.ckpts).take 4 })) ∧
  (∀ s : State,
    let due := (192 ≤ s.staged.length ∨ s.lastFlush.1 + min 60 (max 1 (s.fld EVR_CFG_FLUSH_MIN)) ≤ s.opmin) ∧
      s.lastFlush.2 + 240000000000 ≤ s.ftime
    (¬due → exec (.recorderFlush []) s = .next s) ∧
    (due → Answers (exec (.recorderFlush []) s) fun t => t.staged = [] ∧ t.lastFlush = (s.opmin, s.ftime) ∧ t.acc = s.acc ∧ s.MemKept t ∧
      t.inflight = s.inflight)) ∧
  (∀ (s : State) (r : RecRec), s.fld EVR_RECENT_TAIL_TAIL < recentLines → s.fld EVR_RECENT_HEAD_HEAD < recentLines →
    let tail := s.fld EVR_RECENT_TAIL_TAIL
    let head := s.fld EVR_RECENT_HEAD_HEAD
    let t := s.recPut r
    storeGet none t.recent tail = some r ∧ t.fld EVR_RECENT_TAIL_TAIL = (tail + 1) % recentLines ∧
    ((tail + 1) % recentLines = head → storeGet none t.recent head = none ∧ t.fld EVR_RECENT_HEAD_HEAD = (head + 1) % recentLines) ∧
    ((tail + 1) % recentLines ≠ head → t.fld EVR_RECENT_HEAD_HEAD = head) ∧
    (∀ i, i ≠ tail → i ≠ head → storeGet none t.recent i = storeGet none s.recent i)) ∧
  (∀ s : State,
    let due := s.uhsDirty = true ∧ s.copyMin ≠ s.opmin + 1
    (¬due → exec .stateCopyWrite s = .next s) ∧
    (due → Answers (exec .stateCopyWrite s) fun t =>
      let q := s.fld UHS_STATE_SEQ_SEQ + 1
      (∃ c, storeGet none t.copies (q % 2) = some c ∧ c.seq = q ∧ c.units = s.uhs ∧ c.guards = s.guards ∧ c.retires = s.retires) ∧
      (∀ i, i ≠ q % 2 → storeGet none t.copies i = storeGet none s.copies i) ∧ t.fld UHS_STATE_SEQ_SEQ = q % 2 ^ 32 ∧ t.uhsDirty = false ∧
      t.bare = { s.bare with copies := t.copies, uhsDirty := false, copyMin := s.opmin + 1 } ∧ s.RegsKept t (fun a => a = UHS_STATE_SEQ)))

/-- With input power the port takes its instruction in every state of the module; EXTEST, HIGHZ and CLAMP need DEBUG_EN and MOD_READY low in module reset, and act as
BYPASS otherwise. IDCODE reads as R543 says. DBG_REG and DBG_HBM shift out the last result and then access: a powered-down domain answers DOMAIN_OFF, a refused range ABORTED, a store into
the job memory of a FENCED module FENCED; each access counts, and a write to what a job slot owns taints it. DBG_HALT shifts out the halted partitions, then
halts and resumes. The order of the pins in the boundary register and the resume of a partition named twice are the model's choices (log entry 22). -/
def Obligations.TestAccessPortAndDebug : Prop :=
  (∀ (s : State) (v : Nat), s.boot ≠ .off →
    let dbg := s.flag DBG_GSTATUS_DEBUG_EN = true
    let scan := dbg ∧ s.pins.ready = false ∧ (s.boot = .resetting ∨ s.boot = .held)
    let sel (ir bsr : Nat) (tdo : Nat) : Host.Outcome State Fault Refusal :=
      .next { s with aon := { s.aon with tapIr := ir, tapBsr := bsr }, out := s.out ++ [.tdo tdo] }
    let bypass := sel 0xFF s.aon.tapBsr 0
    exec .tapBypass s = bypass ∧ exec .tapTestLogicReset s = .next { s with aon := { s.aon with tapIr := 2 } } ∧
    exec .tapIdcode s = sel 2 s.aon.tapBsr s.idcode ∧
    exec (.tapSamplePreload v) s = sel 1 (v % 64) s.pinLevels ∧
    (scan → exec (.tapExtest v) s = sel 0 (v % 64) s.pinLevels ∧ exec .tapHighz s = sel 3 s.aon.tapBsr 0 ∧
      exec .tapClamp s = sel 4 s.aon.tapBsr 0 ∧ (s.after (.tapExtest v)).pinsDriven = some (v % 32) ∧
      (s.after .tapHighz).pinsDriven = none ∧ (s.after .tapClamp).pinsDriven = some (s.aon.tapBsr % 32)) ∧
    (¬scan → exec (.tapExtest v) s = bypass ∧ exec .tapHighz s = bypass ∧ exec .tapClamp s = bypass) ∧
    (s.after .tapBypass).pinsDriven = some (s.pinLevels % 32) ∧ (s.after (.tapSamplePreload v)).pinsDriven = some (s.pinLevels % 32)) ∧
  (∀ s : State, bitAt s.idcode 0 = true ∧ bits s.idcode 1 11 = 0x35B ∧ bits s.idcode 12 16 = 0x4B41 ∧
    bits s.idcode 28 4 = s.fld HIF_PART_ID_DIE_STEP ∧ bitAt s.pinLevels 0 = s.pins.ready ∧
    bitAt s.pinLevels 1 = (s.reg KPR_SB_ALERT == 0) ∧ bitAt s.pinLevels 2 = (s.pins.fault == 0) ∧
    bitAt s.pinLevels 3 = !s.pins.pwrReq ∧ bitAt s.pinLevels 4 = !s.pins.trip ∧ bitAt s.pinLevels 5 = !s.pins.perst) ∧
  (∀ (s : State) (a v : Nat) (env : BootEnv) (ecc : List (Nat × Nat)) (halt resume : Nat),
    (s.boot = .off → ∀ i ∈ [Instr.dbgRegRead a, .dbgRegWrite a v env, .dbgHbmRead a ecc, .dbgHbmWrite a v, .dbgHalt halt resume,
        .tapExtest v, .tapSamplePreload v, .tapIdcode, .tapHighz, .tapClamp, .tapBypass, .tapTestLogicReset], exec i s = .next s) ∧
    (s.boot ≠ .off → s.flag DBG_GSTATUS_DEBUG_EN = false → ∀ i ∈ [Instr.dbgRegRead a, .dbgRegWrite a v env, .dbgHbmRead a ecc,
        .dbgHbmWrite a v, .dbgHalt halt resume], exec i s = exec .tapBypass s)) ∧
  (∀ (s : State) (ir last : Nat),
    let v : State := { s with aon := { s.aon with tapIr := ir }, out := s.out ++ [.tdo last] }
    let u := v.gcount 0x290 1
    v.OnlyRegs u (fun _ => False) ∧ storeGet 0 u.cnt (gcntKey 0x290) = cntAdd false (storeGet 0 s.cnt (gcntKey 0x290)) 1) ∧
  (∀ (s : State) (x v : Nat) (env : BootEnv), s.boot ≠ .off → s.flag DBG_GSTATUS_DEBUG_EN = true →
    let u := ({ s with aon := { s.aon with tapIr := 0x10 }, out := s.out ++ [.tdo s.aon.tapReg] } : State).gcount 0x290 1
    let a := x % 2 ^ 26 / 4 * 4
    let put (t : State) (data status : Nat) : Host.Outcome State Fault Refusal :=
      .next { t with aon := { t.aon with tapReg := data % 2 ^ 32 + status * 2 ^ 32 + 2 ^ 48 } }
    (s.boot ≠ .running ∨ u.regDown a = true → exec (.dbgRegRead x) s = put u 0 stDomainOff ∧ exec (.dbgRegWrite x v env) s = put u v stDomainOff) ∧
    (s.boot = .running → u.regDown a = false →
      (submitWord a = true → exec (.dbgRegRead x) s = put u 0 stAborted) ∧
      (submitWord a = false → u.absentReg a = true → exec (.dbgRegRead x) s = put u 0 stOk) ∧
      (submitWord a = false → u.absentReg a = false → exec (.dbgRegRead x) s = put (u.readReg a false).1 (u.readReg a false).2 stOk) ∧
      (u.absentReg a = true → exec (.dbgRegWrite x v env) s = put u v stOk) ∧
      (u.absentReg a = false → exec (.dbgRegWrite x v env) s = put ((u.taint (u.regJob a)).pfWrite a (v % 2 ^ 32) env) v stOk))) ∧
  (∀ (s : State) (p i v : Nat) (env : BootEnv), p < 8 → i < 4096 →
    s.pfWrite (TMB_VALUE p i) v env = (s.writeReg (TMB_VALUE p i) v).after (.tmbValueWrite 0 p i v)) ∧
  (∀ (s : State) (j : Nat),
    (8 ≤ j ∨ bitAt (s.fld DBG_GSTATUS_TAINT) j = true → s.taint j = s) ∧
    (j < 8 → bitAt (s.fld DBG_GSTATUS_TAINT) j = false →
      (s.taint j).fld ⟨DBG_GSTATUS, 8 + j, 1⟩ = 1 ∧ (∀ k, k < 8 → k ≠ j → (s.taint j).fld ⟨DBG_GSTATUS, 8 + k, 1⟩ = s.fld ⟨DBG_GSTATUS, 8 + k, 1⟩) ∧
      storeGet 0 (s.taint j).cnt (gcntKey 0x291) = cntAdd false (storeGet 0 s.cnt (gcntKey 0x291)) 1 ∧
      s.OnlyRegs (s.taint j) (fun b => b = DBG_GSTATUS))) ∧
  (∀ (s : State) (x v : Nat), s.boot ≠ .off → s.flag DBG_GSTATUS_DEBUG_EN = true →
    let u := ({ s with aon := { s.aon with tapIr := 0x11 }, out := s.out ++ [.tdo s.aon.tapHbm] } : State).gcount 0x290 1
    let a := x % 2 ^ 39 / 4 * 4
    let p := a / 0xC00000000
    let put (t : State) (data status : Nat) : Host.Outcome State Fault Refusal :=
      .next { t with aon := { t.aon with tapHbm := data % 2 ^ 32 + status * 2 ^ 32 + 2 ^ 48 } }
    let job := u.regionKind p (a % 0xC00000000 / 64) ≠ 0 ∧ u.jobOf p < 8
    (s.boot ≠ .running ∨ u.hbmDenied 0 a 4 = 2 → exec (.dbgHbmRead x []) s = put u 0 stDomainOff ∧ exec (.dbgHbmWrite x v) s = put u v stDomainOff) ∧
    (s.boot = .running → u.hbmDenied 0 a 4 = 1 → exec (.dbgHbmRead x []) s = put u 0 stAborted ∧ exec (.dbgHbmWrite x v) s = put u v stAborted) ∧
    (s.boot = .running → u.hbmDenied 0 a 4 = 0 → (∀ k, k < 8 → u.domState (4 * k + 3) ≠ 2) →
      exec (.dbgHbmRead x []) s = .next { u with aon := { u.aon with tapHbm := u.rdBytes a 4 + 2 ^ 48 + (if u.psn (a / 64) then 2 ^ 49 else 0) } } ∧
      (s.flag RCV_FENCE_FENCED = true → job → exec (.dbgHbmWrite x v) s = put u v stFenced) ∧
      (s.flag RCV_FENCE_FENCED = false ∨ ¬job → Answers (exec (.dbgHbmWrite x v) s) fun t =>
        t.aon.tapHbm = v % 2 ^ 32 + 2 ^ 48 ∧ (∀ i, i < 4 → (t.byte (a + i)).toNat = v / 2 ^ (8 * i) % 256) ∧
        (∀ b, ¬(a ≤ b ∧ b < a + 4) → t.byte b = s.byte b) ∧
        (job → t.fld ⟨DBG_GSTATUS, 8 + u.jobOf p, 1⟩ = 1) ∧ t.inflight = s.inflight ∧ s.RegsKept t (fun b => b = DBG_GSTATUS)))) ∧
  (∀ (s : State) (halt resume : Nat), s.boot ≠ .off → s.flag DBG_GSTATUS_DEBUG_EN = true → Answers (exec (.dbgHalt halt resume) s) fun t =>
    t.out = s.out ++ [.tdo (s.fld DBG_GSTATUS_HALTED)] ∧ t.aon = { s.aon with tapIr := 0x12 } ∧
    (s.boot ≠ .running → t.fld DBG_GSTATUS_HALTED = s.fld DBG_GSTATUS_HALTED) ∧
    (s.boot = .running → ∀ p, p < 8 → bitAt (t.fld DBG_GSTATUS_HALTED) p =
      (s.present p && !bitAt resume p && (bitAt halt p || bitAt (s.fld DBG_GSTATUS_HALTED) p))) ∧
    t.bare = { s.bare with aon := t.aon, out := t.out } ∧ s.RegsKept t (fun b => b = DBG_GSTATUS))

/-- The image holds each register of Table 20.6. A private read returns words from the pointer, which advances, zero outside the table. A write of another shape or outside the
table is ignored with SHAPE_ERR, one while the Keeper boots with KEEPER_DOWN, but that of KPR_SB_ALERT clears the bits it names in every state. NEXT_GID takes a value other than 0xFFFFF. A
write of the firmware window stores its bytes at OFFSET of the staged copy; a mailbox window 48 to 55 is delivered with sender 0x4000, 56 to 63 refused. In ROM recovery the
boot ROM serves the command, error and firmware registers alone (log entry 22). -/
def Obligations.SidebandRegistersAreServed : Prop :=
  (∀ s : State, (s.boot = .off ∨ s.boot = .resetting → exec .sbImageRefresh s = .next s) ∧
    (s.boot ≠ .off → s.boot ≠ .resetting → Answers (exec .sbImageRefresh s) fun t => t = { s with sbImage := t.sbImage } ∧
      (∀ i, i < 0xC00 → sbIndex i = true → storeGet 0 t.sbImage i = s.sbValue i))) ∧
  (∀ (s : State) (i : Nat), i % 4 = 0 →
    (i < 0x400 → s.sbValue i = (s.reg (KPR_SB_ID + i)).toNat) ∧
    (∀ n o, 48 ≤ n → n < 64 → i = 0x400 + 0x80 * (n - 48) + o →
      (o < 0x40 → s.sbValue i = if n < 56 then 0 else (s.reg (MBX_DATA n + o)).toNat) ∧
      (o = 0x40 → s.sbValue i = (s.reg (MBX_STATUS n)).toNat) ∧ (o = 0x44 → s.sbValue i = (s.reg (MBX_SENDER n)).toNat) ∧
      (o = 0x4C → s.sbValue i = (s.reg (MBX_TAKE n)).toNat) ∧
      (o < 0x80 → (sbIndex i = true ↔ o < 0x48 ∨ o = 0x4C))) ∧
    (i < 0x400 → (sbIndex i = true ↔ i ≤ 0x28 ∨ i = 0x30 ∨ i = 0x34 ∨ (0x40 ≤ i ∧ i ≤ 0x5C) ∨ i = 0x80 ∨ (0xC0 ≤ i ∧ i ≤ 0xFC)))) ∧
  (∀ (s : State) (n : Nat) (env : BootEnv), s.boot ≠ .off → 0 < n → Answers (exec (.sbPrivateWrite [] n env) s) fun t =>
    ∃ l : List Nat, t = { s with out := s.out ++ [.i3c l], i3cPtr := (s.i3cPtr + 4 * n) % 65536 } ∧ l.length = 4 * n ∧
      ∀ k, k < n → let i := s.i3cPtr + 4 * k
        mField l (4 * k) 4 = if sbIndex i = false ∨ (s.boot = .resetting ∧ 8 < i) then 0 else storeGet 0 s.sbImage i % 2 ^ 32) ∧
  (∀ (s : State) (l : List Nat) (env : BootEnv), (∀ b ∈ l, b < 256) →
    let i := mField l 0 2
    let d := l.drop 2
    let shape := 2 ≤ l.length ∧ i % 4 = 0 ∧ d.length % 4 = 0 ∧ d.length ≤ 64
    (s.boot = .off → exec (.sbPrivateWrite l 0 env) s = .next s) ∧
    (s.boot ≠ .off → l ≠ [] →
      (¬shape → exec (.sbPrivateWrite l 0 env) s = .next (s.setFld KPR_SB_ERR_SHAPE_ERR 1)) ∧
      (shape → d = [] → exec (.sbPrivateWrite l 0 env) s = .next { s with i3cPtr := i }) ∧
      (shape → (∃ k, 4 * k < d.length ∧ sbIndex (i + 4 * k) = false) → exec (.sbPrivateWrite l 0 env) s = .next (s.setFld KPR_SB_ERR_SHAPE_ERR 1)) ∧
      (shape → d.length = 4 → sbIndex i = true →
        let w := mField d 0 4
        (i = 8 → exec (.sbPrivateWrite l 0 env) s = exec (.sbAlertClear w) s) ∧
        (i ≠ 8 → s.boot = .resetting → exec (.sbPrivateWrite l 0 env) s = .next (s.setFld KPR_SB_ERR_KEEPER_DOWN 1)) ∧
        (s.boot = .running →
          (i = 0x20 → exec (.sbPrivateWrite l 0 env) s = exec (.sbGidWrite w) s) ∧
          (0xC0 ≤ i → i < 0x100 → exec (.sbPrivateWrite l 0 env) s = exec (.sbFwDataWrite d) s) ∧
          (i = 0x30 → bitAt w 31 = false → exec (.sbPrivateWrite l 0 env) s =
            .next ((s.setFld KPR_SB_CMD_OP w).setFld KPR_SB_CMD_KEY_SLOT (w / 16))) ∧
          (0x40 ≤ i → i < 0x60 → Answers (exec (.sbPrivateWrite l 0 env) s) fun t => (t.reg (KPR_SB_ID + i)).toNat = w ∧
            s.OnlyRegs t (fun b => b = KPR_SB_ID + i)) ∧
          (i < 8 ∨ (8 < i ∧ i < 0x20) ∨ i = 0x24 → Answers (exec (.sbPrivateWrite l 0 env) s) fun t =>
            s.OnlyRegs t (fun _ => False)))) ∧
      (∀ n, 48 ≤ n → n < 56 → shape → d ≠ [] → i = 0x400 + 0x80 * (n - 48) → s.boot = .running →
        exec (.sbPrivateWrite l 0 env) s = .next (s.deliver n 0x4000 0 d)) ∧
      (∀ n, 56 ≤ n → n < 64 → shape → d ≠ [] → i = 0x400 + 0x80 * (n - 48) → s.boot = .running →
        exec (.sbPrivateWrite l 0 env) s = .next (s.setFld KPR_SB_ERR_SHAPE_ERR 1)))) ∧
  (∀ (s : State) (v : Nat), (s.boot = .off → exec (.sbAlertClear v) s = .next s ∧ exec (.sbGidWrite v) s = .next s) ∧
    (s.boot ≠ .off → Answers (exec (.sbAlertClear v) s) fun t => s.OnlyRegs t (fun b => b = KPR_SB_ALERT) ∧
      ∀ b, b < 32 → bitAt (t.reg KPR_SB_ALERT).toNat b =
        (bitAt (s.reg KPR_SB_ALERT).toNat b && !(bitAt v b && decide (b ∈ [0, 1, 2, 4, 5, 6, 7, 8])))) ∧
    (s.boot = .resetting → exec (.sbGidWrite v) s = .next (s.setFld KPR_SB_ERR_KEEPER_DOWN 1)) ∧
    (s.boot ≠ .off → s.boot ≠ .resetting → s.boot ≠ .recovery → exec (.sbGidWrite v) s =
      .next (if v % 2 ^ 20 = 0xFFFFF then s.setFld KPR_SB_ERR_VALUE_ERR 1 else s.setFld KPR_SB_GID_NEXT_GID v))) ∧
  (∀ (s : State) (l : List Nat), s.boot ≠ .off →
    let shape := l ≠ [] ∧ l.length % 4 = 0 ∧ l.length ≤ 64
    let o := s.fld KPR_SB_FW_OFF_OFFSET
    (¬shape → exec (.sbFwDataWrite l) s = .next (s.setFld KPR_SB_ERR_SHAPE_ERR 1)) ∧
    (shape → s.boot = .resetting → exec (.sbFwDataWrite l) s = .next (s.setFld KPR_SB_ERR_KEEPER_DOWN 1)) ∧
    (shape → s.boot ≠ .resetting → s.aon.fwStage = none ∨ 8 * 2 ^ 20 < o + l.length →
      exec (.sbFwDataWrite l) s = .next (s.setFld KPR_SB_ERR_VALUE_ERR 1)) ∧
    (∀ c, shape → s.boot ≠ .resetting → s.aon.fwStage = some c → o + l.length ≤ 8 * 2 ^ 20 → Answers (exec (.sbFwDataWrite l) s) fun t =>
      t.fld KPR_SB_FW_OFF_OFFSET = o + l.length ∧ t.aon = { s.aon with fw := t.aon.fw } ∧
      (∀ i, i < l.length → storeGet 0 t.aon.fw (c * (8 * 2 ^ 20) + o + i) = l.getD i 0 % 256) ∧
      (∀ x, ¬(c * (8 * 2 ^ 20) + o ≤ x ∧ x < c * (8 * 2 ^ 20) + o + l.length) → storeGet 0 t.aon.fw x = storeGet 0 s.aon.fw x) ∧
      t.bare = { s.bare with aon := t.aon } ∧ s.RegsKept t (fun b => b = KPR_SB_FW_OFF ∨ (KPR_SB_FW_DATA ≤ b ∧ b < KPR_SB_FW_DATA + 64))))

/-- A GO is ignored without power, with KEEPER_DOWN while the Keeper boots, with VALUE_ERR while BUSY, and in ROM recovery but for the firmware commands (log entry 22). Otherwise BUSY
is set, the command has its effect, and SB_COMMAND_END shows its code with DONE. KEY_PROVISION writes an unused or revoked slot, KEY_REVOKE revokes; FW_BEGIN stages the copy
that fails verification or the older one, FW_COMMIT makes a copy that verifies the newest and in ROM recovery boots; whether bytes verify is a free value. -/
def Obligations.SidebandCommandsRun : Prop :=
  (∀ (s : State) (k : Nat) (env : BootEnv), ∀ r ∈ [(Instr.exitA3, 1, 0), (Instr.escClear env, 2, 0), (Instr.sbModuleReset, 3, 0),
      (Instr.debugEnable, 4, 0), (Instr.debugDisable, 5, 0), (Instr.keyProvision k, 6, k % 4), (Instr.keyRevoke k, 7, k % 4),
      (Instr.fwBegin, 8, 0), (Instr.fwCommit env, 9, 0), (Instr.fwAbort, 10, 0)],
    (s.boot = .off → exec r.1 s = .next s) ∧
    (s.boot = .resetting → exec r.1 s = .next (s.setFld KPR_SB_ERR_KEEPER_DOWN 1)) ∧
    (s.boot = .recovery → r.2.1 < 8 → exec r.1 s = .next s) ∧
    (s.boot ≠ .off → s.boot ≠ .resetting → (s.boot = .recovery → 8 ≤ r.2.1) →
      (s.flag KPR_SB_CMD_STATUS_BUSY = true → exec r.1 s = .next (s.setFld KPR_SB_ERR_VALUE_ERR 1)) ∧
      (s.flag KPR_SB_CMD_STATUS_BUSY = false →
        let u := ((s.setFld KPR_SB_CMD_OP r.2.1).setFld KPR_SB_CMD_KEY_SLOT r.2.2).setFld KPR_SB_CMD_STATUS_BUSY 1
        let e : BootEnv := if r.2.1 = 2 ∨ r.2.1 = 9 then env else {}
        let t := (u.sbRunOp r.2.1 r.2.2 e).1
        exec r.1 s = .next { t with aon := { t.aon with sbRun := some (u.sbRunOp r.2.1 r.2.2 e).2 } }))) ∧
  (∀ s : State, (s.aon.sbRun = none ∨ s.boot = .off ∨ s.boot = .resetting → exec .sbCommandEnd s = .next s) ∧
    (∀ c, s.aon.sbRun = some c → s.boot ≠ .off → s.boot ≠ .resetting → Answers (exec .sbCommandEnd s) fun t =>
      t.aon = { s.aon with sbRun := none } ∧ t.fld KPR_SB_CMD_STATUS_CODE = c % 2 ^ 16 ∧ t.fld KPR_SB_CMD_STATUS_BUSY = 0 ∧
      t.fld KPR_SB_CMD_STATUS_DONE = 1 ∧ t.bare = { s.bare with aon := t.aon } ∧ s.RegsKept t (fun b => b = KPR_SB_CMD_STATUS))) ∧
  (∀ (s : State) (slot : Nat) (env : BootEnv),
    (s.flag PWR_STATUS_A3 = false → s.sbRunOp 1 slot env = (s, stOk)) ∧
    (s.flag PWR_STATUS_A3 = true → (s.sbRunOp 1 slot env).2 = stOk ∧ (s.sbRunOp 1 slot env).1.fld PWR_STATUS_A3 = 0 ∧
      (s.sbRunOp 1 slot env).1.fld KPR_SB_STATE_A3 = 0 ∧
      ∀ d, d < 32 → s.present (d / 4) = true → s.fld (RCV_HEALTH_PART (d / 4)) ≠ 3 → (s.sbRunOp 1 slot env).1.domState d = 0) ∧
    (s.sbRunOp 2 slot env).2 = stOk ∧
    (s.boot ≠ .off → s.sbRunOp 2 slot env = (s.after (.kprEscClearWrite 0 env), stOk)) ∧
    (s.pins.pwrReq = true → s.sbRunOp 3 slot env = (s, stBusy)) ∧ (s.pins.pwrReq = false → s.sbRunOp 3 slot env = (s.takeModule 8, stOk)) ∧
    (∀ op v, (op, v) ∈ [(4, 1), (5, 0)] → (s.sbRunOp op slot env).2 = stOk ∧ (s.sbRunOp op slot env).1.fld DBG_GSTATUS_DEBUG_EN = v ∧
      (s.sbRunOp op slot env).1.fld KPR_SB_STATE_DEBUG_EN = v ∧
      s.OnlyRegs (s.sbRunOp op slot env).1 (fun b => b = DBG_GSTATUS ∨ b = KPR_SB_STATE))) ∧
  (∀ (s : State) (k : Nat) (env : BootEnv), k < 4 →
    let loading := s.anyLoaded = true ∨ s.loads ≠ []
    let used := bitAt (s.fld BIT_KEYS_PRESENT) k = true ∧ bitAt (s.fld BIT_KEYS_REVOKED) k = false
    let t := (s.sbRunOp 6 k env).1
    let r := (s.sbRunOp 7 k env).1
    (∀ w, w < 8 → t.reg (KPR_SB_KEY w) = 0 ∧ r.reg (KPR_SB_KEY w) = 0) ∧
    (loading → (s.sbRunOp 6 k env).2 = stBusy ∧ s.OnlyRegs t (fun b => KPR_SB_KEY 0 ≤ b ∧ b ≤ KPR_SB_KEY 7)) ∧
    (¬loading → used → (s.sbRunOp 6 k env).2 = stBadImage ∧ t.fld KPR_SB_ERR_VALUE_ERR = 1 ∧
      s.OnlyRegs t (fun b => b = KPR_SB_ERR ∨ (KPR_SB_KEY 0 ≤ b ∧ b ≤ KPR_SB_KEY 7))) ∧
    (¬loading → ¬used → (s.sbRunOp 6 k env).2 = stOk ∧
      storeGet [] t.keys k = (List.range 8).flatMap (fun w => leBytes 4 (s.reg (KPR_SB_KEY w)).toNat) ∧
      (∀ j, j ≠ k → storeGet [] t.keys j = storeGet [] s.keys j) ∧
      (∀ j, j < 4 → bitAt (t.fld BIT_KEYS_PRESENT) j = (decide (j = k) || bitAt (s.fld BIT_KEYS_PRESENT) j) ∧
        bitAt (t.fld BIT_KEYS_REVOKED) j = (decide (j ≠ k) && bitAt (s.fld BIT_KEYS_REVOKED) j)) ∧
      t.bare = { s.bare with keys := t.keys } ∧ s.RegsKept t (fun b => b = BIT_KEYS ∨ (KPR_SB_KEY 0 ≤ b ∧ b ≤ KPR_SB_KEY 7))) ∧
    (s.sbRunOp 7 k env).2 = stOk ∧
    (∀ j, j < 4 → bitAt (r.fld BIT_KEYS_PRESENT) j = bitAt (s.fld BIT_KEYS_PRESENT) j ∧
      bitAt (r.fld BIT_KEYS_REVOKED) j = (decide (j = k) || bitAt (s.fld BIT_KEYS_REVOKED) j)) ∧
    s.OnlyRegs r (fun b => b = BIT_KEYS ∨ (KPR_SB_KEY 0 ≤ b ∧ b ≤ KPR_SB_KEY 7))) ∧
  (∀ (s : State) (slot : Nat) (env : BootEnv),
    (s.anyLoaded = true → s.boot ≠ .recovery → s.sbRunOp 8 slot env = (s, stBusy)) ∧
    (s.anyLoaded = false ∨ s.boot = .recovery → s.aon.fwNewest < 2 →
      let t := (s.sbRunOp 8 slot env).1
      let c := if storeGet false s.aon.fwBad s.aon.fwNewest = true ∧ storeGet false s.aon.fwBad (1 - s.aon.fwNewest) = false then s.aon.fwNewest
        else 1 - s.aon.fwNewest
      (s.sbRunOp 8 slot env).2 = stOk ∧ t.aon.fwStage = some c ∧ storeGet false t.aon.fwBad c = true ∧
      storeGet false t.aon.fwBad (1 - c) = storeGet false s.aon.fwBad (1 - c) ∧ t.fld KPR_SB_FW_OFF_OFFSET = 0 ∧
      t.aon = { s.aon with fwBad := t.aon.fwBad, fwStage := t.aon.fwStage } ∧ t.bare = { s.bare with aon := t.aon } ∧
      s.RegsKept t (fun b => b = KPR_SB_FW_OFF)) ∧
    (s.aon.fwStage = none → s.sbRunOp 9 slot env = (s, stBadImage)) ∧
    (∀ c, s.aon.fwStage = some c → let good := Config.fwVerify (s.fwBytes c)
      let v := { s with aon := { s.aon with fwStage := none, fwBad := storeSet false s.aon.fwBad c false, fwNewest := c } }
      (good = false → s.sbRunOp 9 slot env = ({ s with aon := { s.aon with fwStage := none } }, stBadImage)) ∧
      (good = true → s.boot ≠ .recovery → s.sbRunOp 9 slot env = (v, stOk)) ∧
      (good = true → s.boot = .recovery → s.sbRunOp 9 slot env =
        (v.bootUp (s.fld KPR_BOOT_CAUSE_CAUSE) (s.fld KPR_BOOT_CAUSE_CAUSE == 3) env, stOk))) ∧
    s.sbRunOp 10 slot env = ({ s with aon := { s.aon with fwStage := none } }, stOk))

/-- With input power, in every state of the module: ENTDAA gives identifier, BCR and DCR to a target without an address, which takes one; SETDASA does so at the static address
0x48; SETNEWDA changes it, RSTDAA drops it, ENEC and DISEC allow and forbid interrupts. The GET codes answer once an address is held. That a held address is kept by ENTDAA and SETDASA, the places of the
manufacturer field, the third byte of GETMRL, and the status word, a free value, are not the spec's (log entry 22). -/
def Obligations.I3cTargetAnswersItsCodes : Prop :=
  (∀ (s : State) (addr st : Nat), s.boot = .off → ∀ i ∈ [Instr.cccEntdaa addr, .cccSetdasa st addr, .cccSetnewda addr, .cccRstdaa, .cccEnec,
    .cccDisec, .cccGetpid, .cccGetbcr, .cccGetdcr, .cccGetstatus, .cccGetmwl, .cccGetmrl], exec i s = .next s) ∧
  (∀ (s : State) (addr st : Nat), s.boot ≠ .off →
    let put (l : List Nat) : Host.Outcome State Fault Refusal := .next { s with out := s.out ++ [.i3c l] }
    (s.i3cAddr = 0 → Answers (exec (.cccEntdaa addr) s) fun t => t = { s with i3cAddr := addr % 128, out := t.out } ∧
      t.out = s.out ++ [.i3c (s.i3cPid ++ [0x06, 0x00])]) ∧
    (s.i3cAddr ≠ 0 → exec (.cccEntdaa addr) s = .next s) ∧
    exec (.cccSetdasa st addr) s = .next (if s.i3cAddr = 0 ∧ st = 0x48 then { s with i3cAddr := addr % 128 } else s) ∧
    exec (.cccSetnewda addr) s = .next (if s.i3cAddr = 0 then s else { s with i3cAddr := addr % 128 }) ∧
    exec .cccRstdaa s = .next { s with i3cAddr := 0 } ∧ exec .cccEnec s = .next { s with ibiEn := true } ∧
    exec .cccDisec s = .next { s with ibiEn := false } ∧
    (s.i3cAddr = 0 → ∀ i ∈ [Instr.cccGetpid, .cccGetbcr, .cccGetdcr, .cccGetstatus, .cccGetmwl, .cccGetmrl], exec i s = .next s) ∧
    (s.i3cAddr ≠ 0 → exec .cccGetpid s = put s.i3cPid ∧ exec .cccGetbcr s = put [0x06] ∧ exec .cccGetdcr s = put [0x00] ∧
      exec .cccGetmwl s = put [0, 68] ∧ exec .cccGetmrl s = put [0, 68, 1] ∧
      ∃ hi lo, exec .cccGetstatus s = put [hi, lo] ∧ hi < 256 ∧ lo < 256)) ∧
  (∀ s : State, s.i3cPid.length = 6 ∧ leNat s.i3cPid.reverse = 0x0C2D * 2 ^ 33 + 0x4B41 * 2 ^ 16 + s.fld HIF_PART_ID_DIE_STEP * 2 ^ 12) ∧
  (∀ (s : State) (b : Nat), b < 9 → (s.sbAlert b).fld ⟨KPR_SB_ALERT, b, 1⟩ = 1 ∧
    (s.reg KPR_SB_ALERT = 0 → s.ibiEn = true → (s.sbAlert b).out = s.out ++ [.ibi (if b < 8 then 2 ^ b else 0)]) ∧
    (s.reg KPR_SB_ALERT ≠ 0 ∨ s.ibiEn = false → (s.sbAlert b).out = s.out) ∧
    (s.sbAlert b).bare = { s.bare with out := (s.sbAlert b).out } ∧ s.RegsKept (s.sbAlert b) (fun a => a = KPR_SB_ALERT))

/-- R530, for global and partition counters: a count that does not reach 2^48 - 1 changes that counter alone; the one that reaches it sets SAT_SEEN and writes the event that names the
word pair; at the maximum a count changes nothing. OVF, bit 48 of the pair, reads 1 exactly at the maximum, and 0 for a time counter. An event that repeats no other record, with room in the staging
buffer and no drop to tell of, is one EVENT record at the end of the buffer. -/
def Obligations.SaturationIsReportedOnce : Prop :=
  (∀ (s : State) (n k : Nat), n < 1024 → gcntIsTime n = false →
    let v := storeGet 0 s.cnt (gcntKey n)
    let held (x : Nat) : State := { s with cnt := storeSet 0 s.cnt (gcntKey n) x }
    let t := s.gcount n k
    (v = 2 ^ 48 - 1 → t = held (2 ^ 48 - 1)) ∧ (v + k < 2 ^ 48 - 1 → t = held (v + k)) ∧
    (v < 2 ^ 48 - 1 → 2 ^ 48 - 1 ≤ v + k → t = ((held (2 ^ 48 - 1)).setFld DBG_GSTATUS_SAT_SEEN 1).event ⟨DBG_GCNT_LO n, 0, 32⟩ 0 8 ∧
      t.fld DBG_GSTATUS_SAT_SEEN = 1 ∧ storeGet 0 t.cnt (gcntKey n) = 2 ^ 48 - 1)) ∧
  (∀ (s : State) (p n k : Nat), p < 8 → n < 1024 → cntIsTime n = false →
    let v := storeGet 0 s.cnt (cntKey p n)
    let held (x : Nat) : State := { s with cnt := storeSet 0 s.cnt (cntKey p n) x }
    let t := s.count p n k
    (v = 2 ^ 48 - 1 → t = held (2 ^ 48 - 1)) ∧ (v + k < 2 ^ 48 - 1 → t = held (v + k)) ∧
    (v < 2 ^ 48 - 1 → 2 ^ 48 - 1 ≤ v + k →
      t = ((held (2 ^ 48 - 1)).setFld (DBG_STATUS_SAT_SEEN p) 1).event ⟨DBG_CNT_LO p n, 0, 32⟩ (unitId p 0x10) 8 ∧
      t.fld (DBG_STATUS_SAT_SEEN p) = 1 ∧ storeGet 0 t.cnt (cntKey p n) = 2 ^ 48 - 1)) ∧
  (∀ (s : State) (n : Nat), n < 1024 →
    (∃ w, s.pairAt (DBG_GCNT_LO n) = some w ∧ w % 2 ^ 48 = storeGet 0 s.cnt (gcntKey n) % 2 ^ 48 ∧
      (gcntIsTime n = true → bitAt w 48 = false) ∧ (gcntIsTime n = false → bitAt w 48 = (storeGet 0 s.cnt (gcntKey n) == 2 ^ 48 - 1))) ∧
    ∀ p, p < 8 → ∃ w, s.pairAt (DBG_CNT_LO p n) = some w ∧ w % 2 ^ 48 = storeGet 0 s.cnt (cntKey p n) % 2 ^ 48 ∧
      (cntIsTime n = true → bitAt w 48 = false) ∧ (cntIsTime n = false → bitAt w 48 = (storeGet 0 s.cnt (cntKey p n) == 2 ^ 48 - 1))) ∧
  (∀ (s : State) (f : Fld) (unit job : Nat), f.addr < 2 ^ 32 → f.lo < 2 ^ 8 → f.w < 2 ^ 8 → s.recDrops.1 = 0 → s.staged.length < 255 →
    (∀ l body, s.lastRec = some l → recRepeats l ⟨0x10, 0, 0, 0, 0, body⟩ = false) →
    ∃ r : RecRec, (s.event f unit job).staged = s.staged ++ [r] ∧ r.type = 0x10 ∧ bits r.body 0 32 = f.addr ∧
      bits r.body 32 8 = f.lo ∧ bits r.body 40 8 = f.w)
end

