-- ==== Sys2Proof/Laws/Store.lean ====
section
/-! SUPPORT. Laws of the sparse stores: read after write, and every operation keeps the canonical form. -/
namespace Sys2Proof.Machine

/-! ## Read after write -/

theorem storeGet_erase_self {α : Type} (d : α) (l : Store α) (k : Nat) : storeGet d (storeErase k l) k = d := by
  induction l with
  | nil => rfl
  | cons c t ih =>
    by_cases h : c.1 = k
    · simpa [storeErase, h] using ih
    · simpa [storeErase, h, storeGet] using ih

theorem storeGet_erase_ne {α : Type} (d : α) (l : Store α) {k k' : Nat} (hk : k' ≠ k) :
    storeGet d (storeErase k l) k' = storeGet d l k' := by
  induction l with
  | nil => rfl
  | cons c t ih =>
    by_cases h : c.1 = k
    · have h2 : ¬ k = k' := fun e => hk e.symm
      simpa [storeErase, h, storeGet, h2] using ih
    · by_cases h2 : c.1 = k'
      · simp [storeErase, storeGet, h2, hk]
      · simpa [storeErase, h, storeGet, h2] using ih

theorem storeGet_insert_self {α : Type} (d : α) (l : Store α) (k : Nat) (v : α) (hk : ∀ c ∈ l, c.1 ≠ k) :
    storeGet d (storeInsert k v l) k = v := by
  induction l with
  | nil => simp [storeInsert, storeGet]
  | cons c t ih =>
    simp only [storeInsert]
    split
    · simp [storeGet]
    · have h1 : c.1 ≠ k := hk c (by simp)
      simp [storeGet, h1, ih (fun x hx => hk x (by simp [hx]))]

theorem storeGet_insert_ne {α : Type} (d : α) (l : Store α) {k k' : Nat} (v : α) (hk : k' ≠ k) :
    storeGet d (storeInsert k v l) k' = storeGet d l k' := by
  have h2 : ¬ k = k' := fun e => hk e.symm
  induction l with
  | nil => simp [storeInsert, storeGet, h2]
  | cons c t ih =>
    simp only [storeInsert]
    split
    · simp [storeGet, h2]
    · simp [storeGet, ih]

theorem mem_storeErase {α : Type} {l : Store α} {k : Nat} {c : Nat × α} : c ∈ storeErase k l ↔ c ∈ l ∧ c.1 ≠ k := by
  simp [storeErase]

/-- What was written is read. -/
theorem storeGet_set_self {α : Type} [DecidableEq α] (d : α) (l : Store α) (k : Nat) (v : α) :
    storeGet d (storeSet d l k v) k = v := by
  unfold storeSet
  split
  · next h => rw [storeGet_erase_self, h]
  · exact storeGet_insert_self d _ k v (fun c hc => (mem_storeErase.mp hc).2)

/-- A write leaves every other key alone, whatever their defaults. -/
theorem storeGet_set_ne {α : Type} [DecidableEq α] (d e : α) (l : Store α) {k k' : Nat} (v : α) (hk : k' ≠ k) :
    storeGet d (storeSet e l k v) k' = storeGet d l k' := by
  unfold storeSet
  split
  · exact storeGet_erase_ne d l hk
  · rw [storeGet_insert_ne d _ v hk, storeGet_erase_ne d l hk]

/-- A key that no cell lists reads as the default. -/
theorem storeGet_not_listed {α : Type} (d : α) {l : Store α} {k : Nat} (h : ∀ c ∈ l, c.1 ≠ k) : storeGet d l k = d := by
  induction l with
  | nil => rfl
  | cons c t ih =>
    have h1 : ¬ c.1 = k := h c (by simp)
    simp [storeGet, h1, ih (fun x hx => h x (by simp [hx]))]

theorem storeGet_append {α : Type} (d : α) (a b : Store α) (k : Nat) :
    storeGet d (a ++ b) k = if ∃ c ∈ a, c.1 = k then storeGet d a k else storeGet d b k := by
  induction a with
  | nil => simp
  | cons c t ih =>
    by_cases h : c.1 = k
    · simp [storeGet, h]
    · have e : (∃ x ∈ c :: t, x.1 = k) ↔ ∃ x ∈ t, x.1 = k := by
        constructor
        · rintro ⟨x, hx, hk⟩
          rcases List.mem_cons.mp hx with hx | hx
          · exact absurd (hx ▸ hk) h
          · exact ⟨x, hx, hk⟩
        · rintro ⟨x, hx, hk⟩; exact ⟨x, List.mem_cons_of_mem _ hx, hk⟩
      simp only [List.cons_append, storeGet, h, if_false, ih, e]

theorem storeGet_filter {α : Type} (d : α) (l : Store α) (p : Nat → Bool) (k : Nat) :
    storeGet d (l.filter (fun c => p c.1)) k = if p k then storeGet d l k else d := by
  induction l with
  | nil => simp [storeGet]
  | cons c t ih =>
    by_cases hp : p c.1
    · simp only [List.filter_cons, hp, if_true, storeGet]
      by_cases h : c.1 = k
      · subst h; simp [hp]
      · simp [h, ih]
    · simp only [List.filter_cons, hp, storeGet]
      by_cases h : c.1 = k
      · subst h; simp [hp] at ih ⊢; exact ih
      · simp [h, ih]

/-- Cleared keys read as the default, the others as before. -/
theorem storeGet_clear {α : Type} (d : α) (l : Store α) (b n k : Nat) :
    storeGet d (storeClear l b n) k = if b ≤ k ∧ k < b + n then d else storeGet d l k := by
  have := storeGet_filter d l (fun x => decide (x < b) || decide (b + n ≤ x)) k
  unfold storeClear
  rw [this]
  by_cases h : b ≤ k ∧ k < b + n
  · have h1 : ¬ k < b := by omega
    have h2 : ¬ b + n ≤ k := by omega
    simp [h, h1, h2]
  · have h1 : k < b ∨ b + n ≤ k := by omega
    simp only [h, if_false]
    rcases h1 with h1 | h1 <;> simp [h1]

theorem storeGet_range {α : Type} [DecidableEq α] (d : α) (f : Nat → α) (b : Nat) (l : List Nat) (hl : l.Nodup) (k : Nat) :
    storeGet d (l.filterMap (fun i => if f i = d then none else some (b + i, f i))) k =
      if b ≤ k ∧ (k - b) ∈ l then f (k - b) else d := by
  induction l with
  | nil => simp [storeGet]
  | cons i t ih =>
    have hi : i ∉ t := (List.nodup_cons.mp hl).1
    have ih := ih (List.nodup_cons.mp hl).2
    by_cases hf : f i = d
    · simp only [List.filterMap_cons, hf, if_true, ih]
      by_cases hk : b ≤ k ∧ k - b = i
      · have h1 : (k - b) ∉ t := by rw [hk.2]; exact hi
        simp [hk.1, h1]
        simp [hk.2, hf]
      · by_cases h1 : b ≤ k
        · have h2 : ¬ k - b = i := fun e => hk ⟨h1, e⟩
          simp [h1, h2]
        · simp [h1]
    · simp only [List.filterMap_cons, hf, if_false, storeGet]
      by_cases hk : b + i = k
      · subst hk; simp
      · simp only [hk, if_false, ih]
        by_cases h1 : b ≤ k
        · have h2 : ¬ k - b = i := by omega
          simp [h1, h2]
        · simp [h1]

/-- A range that was written reads as what was written, every other key as before. -/
theorem storeGet_setRange {α : Type} [DecidableEq α] (d : α) (l : Store α) (b n : Nat) (f : Nat → α) (k : Nat) :
    storeGet d (storeSetRange d l b n f) k = if b ≤ k ∧ k < b + n then f (k - b) else storeGet d l k := by
  unfold storeSetRange
  rw [List.append_assoc, storeGet_append]
  have hlow : (∃ c ∈ l.filter (fun c => decide (c.1 < b)), c.1 = k) → k < b := by
    rintro ⟨c, hc, rfl⟩; simpa using (List.mem_filter.mp hc).2
  have h1 := storeGet_filter d l (fun x => decide (x < b)) k
  split
  · next h =>
    have hk := hlow h
    have : ¬ (b ≤ k ∧ k < b + n) := by omega
    rw [h1]; simp [hk, this]
  · next h =>
    rw [storeGet_append]
    have h2 := storeGet_range d f b (List.range n) List.nodup_range k
    have h3 := storeGet_filter d l (fun x => decide (b + n ≤ x)) k
    have hnl : k < b → storeGet d l k = d := by
      intro hk
      apply storeGet_not_listed
      intro c hc e
      exact h ⟨c, List.mem_filter.mpr ⟨hc, by simp [e, hk]⟩, e⟩
    split
    · next hm =>
      rw [h2]
      obtain ⟨c, hc, e⟩ := hm
      obtain ⟨i, hi, hi2⟩ := List.mem_filterMap.mp hc
      have hi := List.mem_range.mp hi
      split at hi2
      · cases hi2
      · cases hi2
        have e : b + i = k := e
        have : b ≤ k ∧ k < b + n := by omega
        simp [this]
        intro h9; exact absurd h9 (by omega)
    · next hm =>
      rw [h3]
      by_cases hk : b ≤ k ∧ k < b + n
      · have hn : ¬ b + n ≤ k := by omega
        have hf : f (k - b) = d := by
          apply Classical.byContradiction
          intro hne
          apply hm
          refine ⟨(b + (k - b), f (k - b)), List.mem_filterMap.mpr ⟨k - b, List.mem_range.mpr (by omega), by simp [hne]⟩, ?_⟩
          show b + (k - b) = k
          omega
        simp [hn, hk, hf]
      · rw [if_neg hk]
        by_cases hb : b + n ≤ k
        · simp [hb]
        · have : k < b := by omega
          simp [hb, hnl this]

/-! ## The canonical form -/

theorem storeRising_filter {α : Type} {l : Store α} (p : Nat × α → Bool) (h : storeRising l) : storeRising (l.filter p) :=
  List.Pairwise.filter p h

theorem storeWf_filter {α : Type} [DecidableEq α] {d : α} {l : Store α} (p : Nat × α → Bool) (h : storeWf d l) :
    storeWf d (l.filter p) := ⟨storeRising_filter p h.1, fun c hc => h.2 c ((List.mem_filter.mp hc).1)⟩

theorem storeRising_erase {α : Type} {l : Store α} (k : Nat) (h : storeRising l) : storeRising (storeErase k l) :=
  storeRising_filter _ h

theorem mem_storeInsert {α : Type} {l : Store α} {k : Nat} {v : α} {c : Nat × α} (h : c ∈ storeInsert k v l) :
    c = (k, v) ∨ c ∈ l := by
  induction l with
  | nil => simpa [storeInsert] using h
  | cons a t ih =>
    simp only [storeInsert] at h
    split at h
    · simpa using h
    · rcases List.mem_cons.mp h with h | h
      · exact .inr (by simp [h])
      · rcases ih h with h | h
        · exact .inl h
        · exact .inr (by simp [h])

theorem storeRising_insert {α : Type} {l : Store α} (k : Nat) (v : α) (h : storeRising l) (hk : ∀ c ∈ l, c.1 ≠ k) :
    storeRising (storeInsert k v l) := by
  induction l with
  | nil => simp [storeInsert]
  | cons a t ih =>
    have ha := List.pairwise_cons.mp h
    simp only [storeInsert]
    split
    · next hlt =>
      refine List.pairwise_cons.mpr ⟨?_, h⟩
      intro c hc
      rcases List.mem_cons.mp hc with hc | hc
      · rw [hc]; exact hlt
      · exact Nat.lt_trans hlt (ha.1 c hc)
    · next hlt =>
      refine List.pairwise_cons.mpr ⟨?_, ih ha.2 (fun c hc => hk c (by simp [hc]))⟩
      intro c hc
      have h1 : a.1 ≠ k := hk a (by simp)
      rcases mem_storeInsert hc with hc | hc
      · rw [hc]; show a.1 < k; have : ¬ k < a.1 := hlt; omega
      · exact ha.1 c hc

/-- Every cell of a store after a write was there, or is the one written. -/
theorem mem_storeSet {α : Type} [DecidableEq α] {d : α} {l : Store α} {k : Nat} {v : α} {c : Nat × α}
    (h : c ∈ storeSet d l k v) : c ∈ l ∨ c = (k, v) ∧ v ≠ d := by
  unfold storeSet at h
  split at h
  · exact .inl (mem_storeErase.mp h).1
  · next hv =>
    rcases mem_storeInsert h with h | h
    · exact .inr ⟨h, hv⟩
    · exact .inl (mem_storeErase.mp h).1

theorem storeRising_set {α : Type} [DecidableEq α] (d : α) {l : Store α} (k : Nat) (v : α) (h : storeRising l) :
    storeRising (storeSet d l k v) := by
  unfold storeSet
  split
  · exact storeRising_erase k h
  · exact storeRising_insert k v (storeRising_erase k h) (fun c hc => (mem_storeErase.mp hc).2)

theorem storeWf_set {α : Type} [DecidableEq α] {d : α} {l : Store α} (k : Nat) (v : α) (h : storeWf d l) :
    storeWf d (storeSet d l k v) := by
  refine ⟨storeRising_set d k v h.1, fun c hc => ?_⟩
  rcases mem_storeSet hc with hc | ⟨rfl, hv⟩
  · exact h.2 c hc
  · exact hv

theorem storeRising_append {α : Type} {a b : Store α} (n : Nat) (ha : storeRising a) (hb : storeRising b)
    (h1 : ∀ c ∈ a, c.1 < n) (h2 : ∀ c ∈ b, n ≤ c.1) : storeRising (a ++ b) :=
  List.pairwise_append.mpr ⟨ha, hb, fun x hx y hy => Nat.lt_of_lt_of_le (h1 x hx) (h2 y hy)⟩

theorem mem_filter_lt {α : Type} {l : Store α} {n : Nat} : ∀ c ∈ l.filter (fun c => decide (c.1 < n)), c.1 < n :=
  fun c hc => by simpa using (List.mem_filter.mp hc).2

theorem mem_filter_le {α : Type} {l : Store α} {n : Nat} : ∀ c ∈ l.filter (fun c => decide (n ≤ c.1)), n ≤ c.1 :=
  fun c hc => by simpa using (List.mem_filter.mp hc).2

theorem storeRising_range {α : Type} [DecidableEq α] (d : α) (f : Nat → α) (b n : Nat) :
    storeRising ((List.range n).filterMap (fun i => if f i = d then none else some (b + i, f i))) := by
  refine List.pairwise_filterMap.mpr (List.Pairwise.imp ?_ List.pairwise_lt_range)
  intro i j hij x hx y hy
  split at hx <;> split at hy <;> simp_all
  subst hx; subst hy
  show b + i < b + j
  omega

theorem storeRising_setRange {α : Type} [DecidableEq α] {d : α} {l : Store α} (b n : Nat) (f : Nat → α) (h : storeRising l) :
    storeRising (storeSetRange d l b n f) := by
  have hm : ∀ c ∈ (List.range n).filterMap (fun i => if f i = d then none else some (b + i, f i)), b ≤ c.1 ∧ c.1 < b + n := by
    intro c hc
    obtain ⟨i, hi, hi2⟩ := List.mem_filterMap.mp hc
    have hi := List.mem_range.mp hi
    split at hi2
    · cases hi2
    · cases hi2
      exact ⟨Nat.le_add_right b i, Nat.add_lt_add_left hi b⟩
  unfold storeSetRange
  refine storeRising_append (b + n) (storeRising_append b (storeRising_filter _ h) (storeRising_range d f b n)
    mem_filter_lt (fun c hc => (hm c hc).1)) (storeRising_filter _ h) ?_ mem_filter_le
  intro c hc
  rcases List.mem_append.mp hc with hc | hc
  · exact Nat.lt_of_lt_of_le (mem_filter_lt c hc) (Nat.le_add_right b n)
  · exact (hm c hc).2

/-- Writing a range keeps the canonical form. -/
theorem storeWf_setRange {α : Type} [DecidableEq α] {d : α} {l : Store α} (b n : Nat) (f : Nat → α) (h : storeWf d l) :
    storeWf d (storeSetRange d l b n f) := by
  refine ⟨storeRising_setRange b n f h.1, fun c hc => ?_⟩
  unfold storeSetRange at hc
  rcases List.mem_append.mp hc with hc | hc
  · rcases List.mem_append.mp hc with hc | hc
    · exact h.2 c (List.mem_filter.mp hc).1
    · obtain ⟨i, _, hi⟩ := List.mem_filterMap.mp hc
      split at hi
      · cases hi
      · next hf => cases hi; exact hf
  · exact h.2 c (List.mem_filter.mp hc).1

/-- Clearing a range keeps the canonical form. -/
theorem storeWf_clear {α : Type} [DecidableEq α] {d : α} {l : Store α} (b n : Nat) (h : storeWf d l) :
    storeWf d (storeClear l b n) := storeWf_filter _ h

theorem storeRising_clear {α : Type} {l : Store α} (b n : Nat) (h : storeRising l) : storeRising (storeClear l b n) :=
  storeRising_filter _ h

/-- Part of a store moved to other keys in the same order. -/
theorem storeRising_moved {α : Type} {l : Store α} (p : Nat × α → Bool) (g : Nat → Nat)
    (hg : ∀ a ∈ l.filter p, ∀ b ∈ l.filter p, a.1 < b.1 → g a.1 < g b.1) (h : storeRising l) :
    storeRising ((l.filter p).map (fun c => (g c.1, c.2))) := by
  rw [storeRising, List.pairwise_map]
  exact List.Pairwise.imp_of_mem (fun ha hb hab => hg _ ha _ hb hab) (storeRising_filter p h)

theorem storeRising_copy {α : Type} {l : Store α} (src dst n : Nat) (h : storeRising l) : storeRising (storeCopy l src dst n) := by
  have hm : ∀ c ∈ (l.filter (fun c => decide (src ≤ c.1) && decide (c.1 < src + n))).map (fun c => (c.1 - src + dst, c.2)),
      dst ≤ c.1 ∧ c.1 < dst + n := by
    intro c hc
    obtain ⟨x, hx, rfl⟩ := List.mem_map.mp hc
    have := (List.mem_filter.mp hx).2
    simp only [Bool.and_eq_true, decide_eq_true_eq] at this
    show dst ≤ x.1 - src + dst ∧ x.1 - src + dst < dst + n
    omega
  unfold storeCopy
  refine storeRising_append (dst + n) (storeRising_append dst (storeRising_filter _ h) ?_
    mem_filter_lt (fun c hc => (hm c hc).1)) (storeRising_filter _ h) ?_ mem_filter_le
  · refine storeRising_moved _ (fun k => k - src + dst) ?_ h
    intro a ha b hb hab
    have ha := (List.mem_filter.mp ha).2
    have hb := (List.mem_filter.mp hb).2
    simp only [Bool.and_eq_true, decide_eq_true_eq] at ha hb
    show a.1 - src + dst < b.1 - src + dst
    omega
  · intro c hc
    rcases List.mem_append.mp hc with hc | hc
    · exact Nat.lt_of_lt_of_le (mem_filter_lt c hc) (Nat.le_add_right dst n)
    · exact (hm c hc).2

theorem storeRising_swap {α : Type} {l : Store α} (b n : Nat) (h : storeRising l) : storeRising (swapStore l b n) := by
  unfold swapStore act
  simp only
  have he : 4 * min n 0x20000000 ≤ 0x80000000 := by have := Nat.min_le_right n 0x20000000; omega
  generalize 4 * min n 0x20000000 = m at he
  have m2 : ∀ c ∈ (l.filter (fun c => decide (b + 0x80000000 ≤ c.1) && decide (c.1 < b + m + 0x80000000))).map
      (fun c => (c.1 - 0x80000000, c.2)), b ≤ c.1 ∧ c.1 < b + m := by
    intro c hc
    obtain ⟨x, hx, rfl⟩ := List.mem_map.mp hc
    have := (List.mem_filter.mp hx).2
    simp only [Bool.and_eq_true, decide_eq_true_eq] at this
    show b ≤ x.1 - 0x80000000 ∧ x.1 - 0x80000000 < b + m
    omega
  have m3 : ∀ c ∈ l.filter (fun c => decide (b + m ≤ c.1) && decide (c.1 < b + 0x80000000)),
      b + m ≤ c.1 ∧ c.1 < b + 0x80000000 := by
    intro c hc
    have := (List.mem_filter.mp hc).2
    simpa using this
  have m4 : ∀ c ∈ (l.filter (fun c => decide (b ≤ c.1) && decide (c.1 < b + m))).map (fun c => (c.1 + 0x80000000, c.2)),
      b + 0x80000000 ≤ c.1 ∧ c.1 < b + m + 0x80000000 := by
    intro c hc
    obtain ⟨x, hx, rfl⟩ := List.mem_map.mp hc
    have := (List.mem_filter.mp hx).2
    simp only [Bool.and_eq_true, decide_eq_true_eq] at this
    show b + 0x80000000 ≤ x.1 + 0x80000000 ∧ x.1 + 0x80000000 < b + m + 0x80000000
    omega
  have r2 : storeRising ((l.filter (fun c => decide (b + 0x80000000 ≤ c.1) && decide (c.1 < b + m + 0x80000000))).map
      (fun c => (c.1 - 0x80000000, c.2))) := by
    refine storeRising_moved _ (fun k => k - 0x80000000) ?_ h
    intro x hx y hy hxy
    have hx := (List.mem_filter.mp hx).2
    simp only [Bool.and_eq_true, decide_eq_true_eq] at hx
    show x.1 - 0x80000000 < y.1 - 0x80000000
    omega
  have r4 : storeRising ((l.filter (fun c => decide (b ≤ c.1) && decide (c.1 < b + m))).map
      (fun c => (c.1 + 0x80000000, c.2))) :=
    storeRising_moved _ (fun k => k + 0x80000000) (fun x _ y _ hxy => Nat.add_lt_add_right hxy _) h
  have s2 := storeRising_append b (storeRising_filter _ h) r2 mem_filter_lt (fun c hc => (m2 c hc).1)
  have b2 : ∀ c ∈ l.filter (fun c => decide (c.1 < b)) ++ (l.filter (fun c => decide (b + 0x80000000 ≤ c.1) &&
      decide (c.1 < b + m + 0x80000000))).map (fun c => (c.1 - 0x80000000, c.2)), c.1 < b + m := by
    intro c hc
    rcases List.mem_append.mp hc with hc | hc
    · exact Nat.lt_of_lt_of_le (mem_filter_lt c hc) (Nat.le_add_right b m)
    · exact (m2 c hc).2
  have s3 := storeRising_append (b + m) s2 (storeRising_filter (fun c => decide (b + m ≤ c.1) &&
    decide (c.1 < b + 0x80000000)) h) b2 (fun c hc => (m3 c hc).1)
  have s4 := storeRising_append (b + 0x80000000) s3 r4 (fun c hc => by
    rcases List.mem_append.mp hc with hc | hc
    · have := b2 c hc; omega
    · exact (m3 c hc).2) (fun c hc => (m4 c hc).1)
  exact storeRising_append (b + m + 0x80000000) s4 (storeRising_filter _ h) (fun c hc => by
    rcases List.mem_append.mp hc with hc | hc
    · rcases List.mem_append.mp hc with hc | hc
      · have := b2 c hc; omega
      · have := (m3 c hc).2; omega
    · exact (m4 c hc).2) mem_filter_le

/-! ## Lists of values -/

/-- Writing a list of values is writing a range. -/
theorem storeSetList_eq {α : Type} [DecidableEq α] (d : α) (l : Store α) (b : Nat) (vs : List α) :
    storeSetList d l b vs = storeSetRange d l b vs.length (fun i => vs.getD i d) := by
  have e : vs.zipIdx = (List.range vs.length).map (fun i => (vs.getD i d, i)) := by
    refine List.ext_getElem (by simp) fun i h1 h2 => ?_
    have h : i < vs.length := by simpa using h1
    simp [List.getD, h]
  unfold storeSetList storeSetRange
  rw [e, List.filterMap_map]
  rfl

theorem storeRising_setList {α : Type} [DecidableEq α] {d : α} {l : Store α} (b : Nat) (vs : List α) (h : storeRising l) :
    storeRising (storeSetList d l b vs) := by
  rw [storeSetList_eq]
  exact storeRising_setRange _ _ _ h

/-- What a key holds after a list of values is written. -/
theorem storeGet_setList {α : Type} [DecidableEq α] (d : α) (l : Store α) (b : Nat) (vs : List α) (k : Nat) :
    storeGet d (storeSetList d l b vs) k =
      if b ≤ k ∧ k < b + vs.length then vs.getD (k - b) d else storeGet d l k := by
  rw [storeSetList_eq, storeGet_setRange]

theorem fillRange_length {α : Type} (d : α) : ∀ (n k : Nat) (l : Store α), (fillRange d n k l).length = n
  | 0, _, _ => rfl
  | n + 1, k, [] => by simp [fillRange, fillRange_length d n]
  | n + 1, k, (k', v) :: t => by
    unfold fillRange
    split <;> simp [fillRange_length d n]

theorem storeGet_below {α : Type} (d : α) {l : Store α} {k : Nat} (h : ∀ c ∈ l, k < c.1) : storeGet d l k = d :=
  storeGet_not_listed d fun c hc e => Nat.lt_irrefl k (e ▸ h c hc)

theorem fillRange_getD {α : Type} (d : α) : ∀ (n k i : Nat) (l : Store α), storeRising l → (∀ c ∈ l, k ≤ c.1) → i < n →
    (fillRange d n k l).getD i d = storeGet d l (k + i)
  | 0, _, _, _, _, _, hi => absurd hi (Nat.not_lt_zero _)
  | n + 1, k, 0, [], _, _, _ => rfl
  | n + 1, k, i + 1, [], hr, hb, hi => by
    have := fillRange_getD d n (k + 1) i [] hr (fun c hc => nomatch hc) (Nat.lt_of_succ_lt_succ hi)
    simpa [fillRange, storeGet, Nat.add_assoc, Nat.add_comm 1 i] using this
  | n + 1, k, i, (k', v) :: t, hr, hb, hi => by
    have ht := (List.pairwise_cons.mp hr)
    have hk : k ≤ k' := hb _ (List.mem_cons_self ..)
    unfold fillRange
    split
    · next e =>
      subst e
      have hb' : ∀ c ∈ t, k' + 1 ≤ c.1 := fun c hc => ht.1 c hc
      cases i with
      | zero => simp [storeGet]
      | succ i =>
        have := fillRange_getD d n (k' + 1) i t ht.2 hb' (Nat.lt_of_succ_lt_succ hi)
        have e1 : k' ≠ k' + (i + 1) := by omega
        have e2 : k' + (i + 1) = k' + 1 + i := by omega
        simp only [List.getD_cons_succ, this, e2]
        rw [storeGet, if_neg (by omega)]
    · next e =>
      have hlt : k < k' := by omega
      have hb' : ∀ c ∈ (k', v) :: t, k + 1 ≤ c.1 := by
        intro c hc
        rcases List.mem_cons.mp hc with rfl | hc
        · exact hlt
        · exact Nat.le_trans hlt (Nat.le_of_lt (ht.1 c hc))
      cases i with
      | zero => simpa using (storeGet_below d (k := k) hb').symm
      | succ i =>
        have := fillRange_getD d n (k + 1) i _ hr hb' (Nat.lt_of_succ_lt_succ hi)
        simpa [Nat.add_assoc, Nat.add_comm 1 i] using this

/-- What a range of a store in rising order reads as. -/
theorem storeList_getD {α : Type} (d : α) {l : Store α} (b n i : Nat) (h : storeRising l) (hi : i < n) :
    (storeList d l b n).getD i d = storeGet d l (b + i) := by
  unfold storeList
  rw [fillRange_getD d n b i _ (storeRising_filter _ h) ?_ hi,
    storeGet_filter d l (fun x => decide (b ≤ x) && decide (x < b + n)), if_pos (by simp [hi])]
  intro c hc
  have := (List.mem_filter.mp hc).2
  simp only [Bool.and_eq_true, decide_eq_true_eq] at this
  exact this.1

theorem storeList_length {α : Type} (d : α) (l : Store α) (b n : Nat) : (storeList d l b n).length = n := fillRange_length d n b _

end Sys2Proof.Machine
end

