-- ==== Sys2Proof/Laws/State.lean ====
section
/-! SUPPORT. Laws of registers and fields, and what a register write and a report leave alone: one lemma per field of the
state for each. -/
namespace Sys2Proof.Machine

/-! ## Registers and fields -/

@[simp] theorem State.reg_setReg_self (s : State) (a : Nat) (w : Word) : (s.setReg a w).reg a = w := by
  show storeGet (wordDefault a) (storeSet (wordDefault a) s.regs a w) a = w
  exact storeGet_set_self (α := Word) _ _ _ _

theorem State.reg_setReg_ne (s : State) {a b : Nat} (w : Word) (h : b ≠ a) : (s.setReg a w).reg b = s.reg b := by
  simp only [State.reg, State.setReg]
  exact storeGet_set_ne (α := Word) _ _ _ _ h

theorem testBit_insertField (o lo w v i : Nat) :
    (insertField o lo w v).testBit i =
      if i < lo then o.testBit i else if i < lo + w then v.testBit (i - lo) else o.testBit i := by
  have h1 : insertField o lo w v = 2 ^ lo * (2 ^ w * (o / 2 ^ (lo + w)) + v % 2 ^ w) + o % 2 ^ lo := by
    simp only [insertField, Nat.pow_add, Nat.mul_add]
    rw [← Nat.mul_assoc (2 ^ lo), Nat.mul_comm (o / (2 ^ lo * 2 ^ w)) (2 ^ lo * 2 ^ w), Nat.mul_comm (v % 2 ^ w) (2 ^ lo)]
  rw [h1, Nat.testBit_two_pow_mul_add _ (Nat.mod_lt _ (Nat.two_pow_pos lo))]
  split
  · simp [Nat.testBit_mod_two_pow, *]
  · rw [Nat.testBit_two_pow_mul_add _ (Nat.mod_lt _ (Nat.two_pow_pos w))]
    by_cases h : i < lo + w
    · rw [if_pos (by omega), if_pos h]
      simp [Nat.testBit_mod_two_pow]; omega
    · rw [if_neg (by omega), if_neg h, Nat.testBit_div_two_pow]
      congr 1; omega

/-- Two fields share no bit. -/
def Fld.apart (f g : Fld) : Prop := f.addr ≠ g.addr ∨ g.lo + g.w ≤ f.lo ∨ f.lo + f.w ≤ g.lo

theorem State.fld_eq (s : State) (f : Fld) : s.fld f = (s.reg f.addr).toNat / 2 ^ f.lo % 2 ^ f.w := rfl

theorem State.fld_lt (s : State) (f : Fld) : s.fld f < 2 ^ f.w := Nat.mod_lt _ (Nat.two_pow_pos _)

/-- A field reads back what was written to it. -/
theorem State.fld_setFld_self (s : State) (f : Fld) (v : Nat) (h : f.lo + f.w ≤ 32) : (s.setFld f v).fld f = v % 2 ^ f.w := by
  simp only [State.fld, State.setFld, State.reg_setReg_self, BitVec.toNat_ofNat]
  apply Nat.eq_of_testBit_eq
  intro i
  simp only [Nat.testBit_mod_two_pow, Nat.testBit_div_two_pow, testBit_insertField]
  by_cases hi : i < f.w
  · rw [if_neg (by omega), if_pos (by omega)]
    have : i + f.lo < 32 := by omega
    simp [this, hi]
  · simp [hi]

/-- A field keeps its value when another one is written. -/
theorem State.fld_setFld_apart (s : State) (f g : Fld) (v : Nat) (h : f.apart g) (_hf : f.lo + f.w ≤ 32) :
    (s.setFld f v).fld g = s.fld g := by
  by_cases ha : g.addr = f.addr
  · simp only [State.fld, State.setFld]
    rw [ha, State.reg_setReg_self, BitVec.toNat_ofNat]
    apply Nat.eq_of_testBit_eq
    intro i
    simp only [Nat.testBit_mod_two_pow, Nat.testBit_div_two_pow, testBit_insertField]
    by_cases hi : i < g.w
    · by_cases h32 : i + g.lo < 32
      · have hne : ¬ f.addr ≠ g.addr := fun e => e ha.symm
        simp only [Fld.apart, hne, false_or] at h
        simp only [hi, h32, decide_true, Bool.true_and]
        rcases h with h | h
        · rw [if_pos (by omega)]
        · rw [if_neg (by omega), if_neg (by omega)]
      · have : (s.reg f.addr).toNat.testBit (i + g.lo) = false :=
          Nat.testBit_lt_two_pow (Nat.lt_of_lt_of_le (s.reg f.addr).isLt (Nat.pow_le_pow_right (by omega) (by omega)))
        simp [h32, this]
    · simp [hi]
  · simp only [State.fld, State.setFld]
    rw [State.reg_setReg_ne _ _ ha]

theorem State.reg_setFld_ne (s : State) (f : Fld) (v : Nat) {a : Nat} (h : a ≠ f.addr) : (s.setFld f v).reg a = s.reg a :=
  State.reg_setReg_ne _ _ h

theorem State.fld_setReg_ne (s : State) (f : Fld) (w : Word) {a : Nat} (h : f.addr ≠ a) : (s.setReg a w).fld f = s.fld f := by
  simp only [State.fld, State.reg_setReg_ne _ _ h]

theorem State.fld_setReg_self (s : State) (f : Fld) (w : Word) : (s.setReg f.addr w).fld f = w.toNat / 2 ^ f.lo % 2 ^ f.w := by
  simp [State.fld]

theorem State.fld_of_reg {s t : State} {f : Fld} (h : t.reg f.addr = s.reg f.addr) : t.fld f = s.fld f := by
  simp only [State.fld, h]

/-! ## Reports -/

theorem State.bare_upd (s : State) (regs : Store Word) (cnt : Store Nat) (staged : List RecRec) (rewrite : Option RecRec)
    (recDrops : Nat × Nat × Nat) (detections : List ErrRec) (rangeSeen : Store Bool) (kprLost : Nat) :
    ({ s with regs := regs, cnt := cnt, staged := staged, rewrite := rewrite, recDrops := recDrops, detections := detections,
              rangeSeen := rangeSeen, kprLost := kprLost } : State).bare = s.bare := rfl

theorem State.bare_setReg (s : State) (a : Nat) (w : Word) : (s.setReg a w).bare = s.bare := State.bare_upd ..
theorem State.bare_setFld (s : State) (f : Fld) (v : Nat) : (s.setFld f v).bare = s.bare := State.bare_setReg ..
theorem State.bare_setReg64 (s : State) (a v : Nat) : (s.setReg64 a v).bare = s.bare :=
  (State.bare_setReg ..).trans (State.bare_setReg ..)
theorem State.bare_clearRegs (s : State) (a n : Nat) : (s.clearRegs a n).bare = s.bare := State.bare_upd ..
theorem State.bare_gcntRaw (s : State) (n k : Nat) : (s.gcntRaw n k).bare = s.bare := State.bare_upd ..
theorem State.reg_congr {s t : State} (h : t.regs = s.regs) (a : Nat) : t.reg a = s.reg a := by
  simp only [State.reg, h]
theorem State.reg_gcntRaw (s : State) (n k a : Nat) : (s.gcntRaw n k).reg a = s.reg a := State.reg_congr rfl a

theorem State.bare_pushRec (s : State) (type body : Nat) : (s.pushRec type body).bare = s.bare := by
  unfold State.pushRec
  generalize hq : s.formRec type body = q
  have hr : q.1.bare = s.bare := by rw [← hq]; exact State.bare_setFld ..
  obtain ⟨q, r⟩ := q
  simp only []
  rw [State.bare_setFld, State.bare_gcntRaw]
  exact (State.bare_upd ..).trans hr

theorem State.bare_pushGap (s : State) : s.pushGap.bare = s.bare := by
  unfold State.pushGap
  split
  · rfl
  · exact (State.bare_upd ..).trans (State.bare_pushRec ..)

theorem State.bare_stageRec (s : State) (type body : Nat) : (s.stageRec type body).bare = s.bare := by
  have hp : (s.pushGap.pushRec type body).bare = s.bare := by rw [State.bare_pushRec, State.bare_pushGap]
  unfold State.stageRec
  split
  · simp only []
    repeat' split
    all_goals first
      | exact hp
      | exact (State.bare_upd ..).trans (State.bare_gcntRaw ..)
      | exact (State.bare_upd ..).trans ((State.bare_setFld ..).trans (State.bare_gcntRaw ..))
  · exact hp

theorem State.bare_event (s : State) (f : Fld) (unit job : Nat) : (s.event f unit job).bare = s.bare := State.bare_stageRec _ _ _
theorem State.bare_eventUnit (s : State) (unit job : Nat) : (s.eventUnit unit job).bare = s.bare := State.bare_stageRec _ _ _

theorem State.bare_gcount (s : State) (n k : Nat) : (s.gcount n k).bare = s.bare := by
  unfold State.gcount
  simp only []
  split
  · rw [State.bare_event, State.bare_setFld, State.bare_gcntRaw]
  · exact State.bare_gcntRaw ..

theorem State.bare_count (s : State) (p n k : Nat) : (s.count p n k).bare = s.bare := by
  unfold State.count
  simp only []
  split
  · rw [State.bare_event, State.bare_setFld]; exact State.bare_upd ..
  · exact State.bare_upd ..

theorem State.bare_detect (s : State) (unit cls flags desc ctx layer operator job syndrome : Nat) :
    (s.detect unit cls flags desc ctx layer operator job syndrome).bare = s.bare := by
  unfold State.detect
  simp only []
  repeat' split
  all_goals first | exact State.bare_upd .. | exact (State.bare_upd ..).trans (State.bare_upd ..)

theorem State.bare_detectOnly (s : State) (unit row : Nat) : (s.detectOnly unit row).bare = s.bare := State.bare_detect ..

theorem State.reg_pushRec (s : State) (type body : Nat) {a : Nat} (h : reportReg a = false) :
    (s.pushRec type body).reg a = s.reg a := by
  simp only [reportReg, Bool.or_eq_false_iff, beq_eq_false_iff_ne] at h
  unfold State.pushRec
  generalize hq : s.formRec type body = q
  have hr : q.1.reg a = s.reg a := by
    rw [← hq]; exact State.reg_setFld_ne _ _ _ (by simp [EVR_RSEQ_RSEQ]; omega)
  obtain ⟨q, r⟩ := q
  simp only []
  rw [State.reg_setFld_ne _ _ _ (by simp [EVR_STATUS_STAGED]; omega), State.reg_gcntRaw]
  exact (State.reg_congr (s := q) rfl a).trans hr

theorem State.reg_pushGap (s : State) {a : Nat} (h : reportReg a = false) : s.pushGap.reg a = s.reg a := by
  unfold State.pushGap
  split
  · rfl
  · simp only []
    generalize hq : State.pushRec s 0x12 _ = q
    have h2 : q.reg a = s.reg a := hq ▸ State.reg_pushRec _ _ _ h
    exact (State.reg_congr (s := q) rfl a).trans h2

theorem State.reg_stageRec (s : State) (type body : Nat) {a : Nat} (h : reportReg a = false) :
    (s.stageRec type body).reg a = s.reg a := by
  have hp : (s.pushGap.pushRec type body).reg a = s.reg a := by rw [State.reg_pushRec _ _ _ h, State.reg_pushGap _ h]
  have hd : ((s.gcntRaw 0x251 1).setFld EVR_STATUS_DROP_SEEN 1).reg a = s.reg a := by
    simp only [reportReg, Bool.or_eq_false_iff, beq_eq_false_iff_ne] at h
    rw [State.reg_setFld_ne _ _ _ (by simp [EVR_STATUS_DROP_SEEN]; omega), State.reg_gcntRaw]
  unfold State.stageRec
  split
  · simp only []
    split
    · split
      all_goals
        generalize hq : State.gcntRaw s 0x252 1 = q
        have h2 : q.reg a = s.reg a := hq ▸ State.reg_gcntRaw ..
        exact (State.reg_congr (s := q) rfl a).trans h2
    · split
      · generalize hq : State.setFld (State.gcntRaw s 0x251 1) EVR_STATUS_DROP_SEEN 1 = q at hd ⊢
        exact (State.reg_congr (s := q) rfl a).trans hd
      · exact hp
  · exact hp

theorem State.reg_event (s : State) (f : Fld) (unit job : Nat) {a : Nat} (h : reportReg a = false) :
    (s.event f unit job).reg a = s.reg a := State.reg_stageRec _ _ _ h
theorem State.reg_eventUnit (s : State) (unit job : Nat) {a : Nat} (h : reportReg a = false) :
    (s.eventUnit unit job).reg a = s.reg a := State.reg_stageRec _ _ _ h

theorem State.reg_gcount (s : State) (n k : Nat) {a : Nat} (h : reportReg a = false) : (s.gcount n k).reg a = s.reg a := by
  unfold State.gcount
  simp only []
  split
  · rw [State.reg_event _ _ _ _ h]
    simp only [reportReg, Bool.or_eq_false_iff, beq_eq_false_iff_ne] at h
    rw [State.reg_setFld_ne _ _ _ (by simp [DBG_GSTATUS_SAT_SEEN]; omega), State.reg_gcntRaw]
  · exact State.reg_gcntRaw ..

theorem State.reg_count (s : State) (p n k : Nat) {a : Nat} (h : reportReg a = false) : (s.count p n k).reg a = s.reg a := by
  unfold State.count
  simp only []
  split
  · rw [State.reg_event _ _ _ _ h]
    have hp : a ≠ DBG_STATUS p := by
      intro e
      subst e
      simp [reportReg, DBG_STATUS, partBase] at h
      omega
    rw [State.reg_setFld_ne _ _ _ (by simpa [DBG_STATUS_SAT_SEEN] using hp)]
    exact State.reg_congr (s := s) rfl a
  · exact State.reg_congr (s := s) rfl a

theorem State.reg_detect (s : State) (unit cls flags desc ctx layer operator job syndrome a : Nat) :
    (s.detect unit cls flags desc ctx layer operator job syndrome).reg a = s.reg a := by
  unfold State.detect
  simp only []
  repeat' split
  all_goals exact State.reg_congr (s := s) rfl a

theorem State.fld_stageRec (s : State) (type body : Nat) (g : Fld) (h : reportReg g.addr = false) :
    (s.stageRec type body).fld g = s.fld g := State.fld_of_reg (State.reg_stageRec _ _ _ h)
theorem State.fld_event (s : State) (f : Fld) (unit job : Nat) (g : Fld) (h : reportReg g.addr = false) :
    (s.event f unit job).fld g = s.fld g := State.fld_of_reg (State.reg_event _ _ _ _ h)
theorem State.fld_eventUnit (s : State) (unit job : Nat) (g : Fld) (h : reportReg g.addr = false) :
    (s.eventUnit unit job).fld g = s.fld g := State.fld_of_reg (State.reg_eventUnit _ _ _ h)
theorem State.fld_gcount (s : State) (n k : Nat) (g : Fld) (h : reportReg g.addr = false) :
    (s.gcount n k).fld g = s.fld g := State.fld_of_reg (State.reg_gcount _ _ _ h)
theorem State.fld_count (s : State) (p n k : Nat) (g : Fld) (h : reportReg g.addr = false) :
    (s.count p n k).fld g = s.fld g := State.fld_of_reg (State.reg_count _ _ _ _ h)
theorem State.fld_detect (s : State) (unit cls flags desc ctx layer operator job syndrome : Nat) (g : Fld) :
    (s.detect unit cls flags desc ctx layer operator job syndrome).fld g = s.fld g := State.fld_of_reg (State.reg_detect ..)

/-! ## Fields of the state -/

/-- What does not look at registers, counters and reports is the same in two states with one `bare`. -/
theorem State.of_bare {α : Type} (g : State → α) (hg : ∀ s : State, g s.bare = g s) {s t : State} (h : t.bare = s.bare) :
    g t = g s := by
  rw [← hg t, h, hg]

@[simp] theorem State.pending_setReg (s : State) (a : Nat) (w : Word) : (s.setReg a w).pending = s.pending := rfl
@[simp] theorem State.pending_setFld (s : State) (f : Fld) (v : Nat) : (s.setFld f v).pending = s.pending := rfl
@[simp] theorem State.mem_setReg (s : State) (a : Nat) (w : Word) : (s.setReg a w).mem = s.mem := rfl
@[simp] theorem State.mem_setFld (s : State) (f : Fld) (v : Nat) : (s.setFld f v).mem = s.mem := rfl
@[simp] theorem State.poison_setReg (s : State) (a : Nat) (w : Word) : (s.setReg a w).poison = s.poison := rfl
@[simp] theorem State.poison_setFld (s : State) (f : Fld) (v : Nat) : (s.setFld f v).poison = s.poison := rfl
@[simp] theorem State.parityBad_setReg (s : State) (a : Nat) (w : Word) : (s.setReg a w).parityBad = s.parityBad := rfl
@[simp] theorem State.parityBad_setFld (s : State) (f : Fld) (v : Nat) : (s.setFld f v).parityBad = s.parityBad := rfl
@[simp] theorem State.deadChan_setReg (s : State) (a : Nat) (w : Word) : (s.setReg a w).deadChan = s.deadChan := rfl
@[simp] theorem State.deadChan_setFld (s : State) (f : Fld) (v : Nat) : (s.setFld f v).deadChan = s.deadChan := rfl
@[simp] theorem State.cnt_setReg (s : State) (a : Nat) (w : Word) : (s.setReg a w).cnt = s.cnt := rfl
@[simp] theorem State.cnt_setFld (s : State) (f : Fld) (v : Nat) : (s.setFld f v).cnt = s.cnt := rfl
@[simp] theorem State.latch_setReg (s : State) (a : Nat) (w : Word) : (s.setReg a w).latch = s.latch := rfl
@[simp] theorem State.latch_setFld (s : State) (f : Fld) (v : Nat) : (s.setFld f v).latch = s.latch := rfl
@[simp] theorem State.ftime_setReg (s : State) (a : Nat) (w : Word) : (s.setReg a w).ftime = s.ftime := rfl
@[simp] theorem State.ftime_setFld (s : State) (f : Fld) (v : Nat) : (s.setFld f v).ftime = s.ftime := rfl
@[simp] theorem State.inflight_setReg (s : State) (a : Nat) (w : Word) : (s.setReg a w).inflight = s.inflight := rfl
@[simp] theorem State.inflight_setFld (s : State) (f : Fld) (v : Nat) : (s.setFld f v).inflight = s.inflight := rfl
@[simp] theorem State.issuing_setReg (s : State) (a : Nat) (w : Word) : (s.setReg a w).issuing = s.issuing := rfl
@[simp] theorem State.issuing_setFld (s : State) (f : Fld) (v : Nat) : (s.setFld f v).issuing = s.issuing := rfl
@[simp] theorem State.vx_setReg (s : State) (a : Nat) (w : Word) : (s.setReg a w).vx = s.vx := rfl
@[simp] theorem State.vx_setFld (s : State) (f : Fld) (v : Nat) : (s.setFld f v).vx = s.vx := rfl
@[simp] theorem State.vxPsn_setReg (s : State) (a : Nat) (w : Word) : (s.setReg a w).vxPsn = s.vxPsn := rfl
@[simp] theorem State.vxPsn_setFld (s : State) (f : Fld) (v : Nat) : (s.setFld f v).vxPsn = s.vxPsn := rfl
@[simp] theorem State.vxEng_setReg (s : State) (a : Nat) (w : Word) : (s.setReg a w).vxEng = s.vxEng := rfl
@[simp] theorem State.vxEng_setFld (s : State) (f : Fld) (v : Nat) : (s.setFld f v).vxEng = s.vxEng := rfl
@[simp] theorem State.vxCmds_setReg (s : State) (a : Nat) (w : Word) : (s.setReg a w).vxCmds = s.vxCmds := rfl
@[simp] theorem State.vxCmds_setFld (s : State) (f : Fld) (v : Nat) : (s.setFld f v).vxCmds = s.vxCmds := rfl
@[simp] theorem State.shardS_setReg (s : State) (a : Nat) (w : Word) : (s.setReg a w).shardS = s.shardS := rfl
@[simp] theorem State.shardS_setFld (s : State) (f : Fld) (v : Nat) : (s.setFld f v).shardS = s.shardS := rfl
@[simp] theorem State.shardP_setReg (s : State) (a : Nat) (w : Word) : (s.setReg a w).shardP = s.shardP := rfl
@[simp] theorem State.shardP_setFld (s : State) (f : Fld) (v : Nat) : (s.setFld f v).shardP = s.shardP := rfl
@[simp] theorem State.preload_setReg (s : State) (a : Nat) (w : Word) : (s.setReg a w).preload = s.preload := rfl
@[simp] theorem State.preload_setFld (s : State) (f : Fld) (v : Nat) : (s.setFld f v).preload = s.preload := rfl
@[simp] theorem State.held_setReg (s : State) (a : Nat) (w : Word) : (s.setReg a w).held = s.held := rfl
@[simp] theorem State.held_setFld (s : State) (f : Fld) (v : Nat) : (s.setFld f v).held = s.held := rfl
@[simp] theorem State.etaMissed_setReg (s : State) (a : Nat) (w : Word) : (s.setReg a w).etaMissed = s.etaMissed := rfl
@[simp] theorem State.etaMissed_setFld (s : State) (f : Fld) (v : Nat) : (s.setFld f v).etaMissed = s.etaMissed := rfl
@[simp] theorem State.replayEta_setReg (s : State) (a : Nat) (w : Word) : (s.setReg a w).replayEta = s.replayEta := rfl
@[simp] theorem State.replayEta_setFld (s : State) (f : Fld) (v : Nat) : (s.setFld f v).replayEta = s.replayEta := rfl
@[simp] theorem State.holds_setReg (s : State) (a : Nat) (w : Word) : (s.setReg a w).holds = s.holds := rfl
@[simp] theorem State.holds_setFld (s : State) (f : Fld) (v : Nat) : (s.setFld f v).holds = s.holds := rfl
@[simp] theorem State.slipMax_setReg (s : State) (a : Nat) (w : Word) : (s.setReg a w).slipMax = s.slipMax := rfl
@[simp] theorem State.slipMax_setFld (s : State) (f : Fld) (v : Nat) : (s.setFld f v).slipMax = s.slipMax := rfl
@[simp] theorem State.lastIssue_setReg (s : State) (a : Nat) (w : Word) : (s.setReg a w).lastIssue = s.lastIssue := rfl
@[simp] theorem State.lastIssue_setFld (s : State) (f : Fld) (v : Nat) : (s.setFld f v).lastIssue = s.lastIssue := rfl
@[simp] theorem State.startCyc_setReg (s : State) (a : Nat) (w : Word) : (s.setReg a w).startCyc = s.startCyc := rfl
@[simp] theorem State.startCyc_setFld (s : State) (f : Fld) (v : Nat) : (s.setFld f v).startCyc = s.startCyc := rfl
@[simp] theorem State.resetting_setReg (s : State) (a : Nat) (w : Word) : (s.setReg a w).resetting = s.resetting := rfl
@[simp] theorem State.resetting_setFld (s : State) (f : Fld) (v : Nat) : (s.setFld f v).resetting = s.resetting := rfl
@[simp] theorem State.detections_setReg (s : State) (a : Nat) (w : Word) : (s.setReg a w).detections = s.detections := rfl
@[simp] theorem State.detections_setFld (s : State) (f : Fld) (v : Nat) : (s.setFld f v).detections = s.detections := rfl
@[simp] theorem State.staged_setReg (s : State) (a : Nat) (w : Word) : (s.setReg a w).staged = s.staged := rfl
@[simp] theorem State.staged_setFld (s : State) (f : Fld) (v : Nat) : (s.setFld f v).staged = s.staged := rfl
@[simp] theorem State.rewrite_setReg (s : State) (a : Nat) (w : Word) : (s.setReg a w).rewrite = s.rewrite := rfl
@[simp] theorem State.rewrite_setFld (s : State) (f : Fld) (v : Nat) : (s.setFld f v).rewrite = s.rewrite := rfl
@[simp] theorem State.recDrops_setReg (s : State) (a : Nat) (w : Word) : (s.setReg a w).recDrops = s.recDrops := rfl
@[simp] theorem State.recDrops_setFld (s : State) (f : Fld) (v : Nat) : (s.setFld f v).recDrops = s.recDrops := rfl
@[simp] theorem State.trcBuf_setReg (s : State) (a : Nat) (w : Word) : (s.setReg a w).trcBuf = s.trcBuf := rfl
@[simp] theorem State.trcBuf_setFld (s : State) (f : Fld) (v : Nat) : (s.setFld f v).trcBuf = s.trcBuf := rfl
@[simp] theorem State.trc_setReg (s : State) (a : Nat) (w : Word) : (s.setReg a w).trc = s.trc := rfl
@[simp] theorem State.trc_setFld (s : State) (f : Fld) (v : Nat) : (s.setFld f v).trc = s.trc := rfl
@[simp] theorem State.owner_setReg (s : State) (a : Nat) (w : Word) : (s.setReg a w).owner = s.owner := rfl
@[simp] theorem State.owner_setFld (s : State) (f : Fld) (v : Nat) : (s.setFld f v).owner = s.owner := rfl
@[simp] theorem State.txq_setReg (s : State) (a : Nat) (w : Word) : (s.setReg a w).txq = s.txq := rfl
@[simp] theorem State.txq_setFld (s : State) (f : Fld) (v : Nat) : (s.setFld f v).txq = s.txq := rfl
@[simp] theorem State.intq_setReg (s : State) (a : Nat) (w : Word) : (s.setReg a w).intq = s.intq := rfl
@[simp] theorem State.intq_setFld (s : State) (f : Fld) (v : Nat) : (s.setFld f v).intq = s.intq := rfl
@[simp] theorem State.tblBad_setReg (s : State) (a : Nat) (w : Word) : (s.setReg a w).tblBad = s.tblBad := rfl
@[simp] theorem State.tblBad_setFld (s : State) (f : Fld) (v : Nat) : (s.setFld f v).tblBad = s.tblBad := rfl
@[simp] theorem State.logBroken_setReg (s : State) (a : Nat) (w : Word) : (s.setReg a w).logBroken = s.logBroken := rfl
@[simp] theorem State.logBroken_setFld (s : State) (f : Fld) (v : Nat) : (s.setFld f v).logBroken = s.logBroken := rfl
@[simp] theorem State.links_setReg (s : State) (a : Nat) (w : Word) : (s.setReg a w).links = s.links := rfl
@[simp] theorem State.links_setFld (s : State) (f : Fld) (v : Nat) : (s.setFld f v).links = s.links := rfl
@[simp] theorem State.buckets_setReg (s : State) (a : Nat) (w : Word) : (s.setReg a w).buckets = s.buckets := rfl
@[simp] theorem State.buckets_setFld (s : State) (f : Fld) (v : Nat) : (s.setFld f v).buckets = s.buckets := rfl
@[simp] theorem State.slotUse_setReg (s : State) (a : Nat) (w : Word) : (s.setReg a w).slotUse = s.slotUse := rfl
@[simp] theorem State.slotUse_setFld (s : State) (f : Fld) (v : Nat) : (s.setFld f v).slotUse = s.slotUse := rfl
@[simp] theorem State.flowHold_setReg (s : State) (a : Nat) (w : Word) : (s.setReg a w).flowHold = s.flowHold := rfl
@[simp] theorem State.flowHold_setFld (s : State) (f : Fld) (v : Nat) : (s.setFld f v).flowHold = s.flowHold := rfl
@[simp] theorem State.flowDrain_setReg (s : State) (a : Nat) (w : Word) : (s.setReg a w).flowDrain = s.flowDrain := rfl
@[simp] theorem State.flowDrain_setFld (s : State) (f : Fld) (v : Nat) : (s.setFld f v).flowDrain = s.flowDrain := rfl
@[simp] theorem State.colls_setReg (s : State) (a : Nat) (w : Word) : (s.setReg a w).colls = s.colls := rfl
@[simp] theorem State.colls_setFld (s : State) (f : Fld) (v : Nat) : (s.setFld f v).colls = s.colls := rfl
@[simp] theorem State.ops_setReg (s : State) (a : Nat) (w : Word) : (s.setReg a w).ops = s.ops := rfl
@[simp] theorem State.ops_setFld (s : State) (f : Fld) (v : Nat) : (s.setFld f v).ops = s.ops := rfl
@[simp] theorem State.ended_setReg (s : State) (a : Nat) (w : Word) : (s.setReg a w).ended = s.ended := rfl
@[simp] theorem State.ended_setFld (s : State) (f : Fld) (v : Nat) : (s.setFld f v).ended = s.ended := rfl
@[simp] theorem State.out_setReg (s : State) (a : Nat) (w : Word) : (s.setReg a w).out = s.out := rfl
@[simp] theorem State.out_setFld (s : State) (f : Fld) (v : Nat) : (s.setFld f v).out = s.out := rfl
@[simp] theorem State.boot_setReg (s : State) (a : Nat) (w : Word) : (s.setReg a w).boot = s.boot := rfl
@[simp] theorem State.boot_setFld (s : State) (f : Fld) (v : Nat) : (s.setFld f v).boot = s.boot := rfl
@[simp] theorem State.pins_setReg (s : State) (a : Nat) (w : Word) : (s.setReg a w).pins = s.pins := rfl
@[simp] theorem State.pins_setFld (s : State) (f : Fld) (v : Nat) : (s.setFld f v).pins = s.pins := rfl
@[simp] theorem State.perst_setReg (s : State) (a : Nat) (w : Word) : (s.setReg a w).perst = s.perst := rfl
@[simp] theorem State.perst_setFld (s : State) (f : Fld) (v : Nat) : (s.setFld f v).perst = s.perst := rfl
@[simp] theorem State.uhs_setReg (s : State) (a : Nat) (w : Word) : (s.setReg a w).uhs = s.uhs := rfl
@[simp] theorem State.uhs_setFld (s : State) (f : Fld) (v : Nat) : (s.setFld f v).uhs = s.uhs := rfl
@[simp] theorem State.dets_setReg (s : State) (a : Nat) (w : Word) : (s.setReg a w).dets = s.dets := rfl
@[simp] theorem State.dets_setFld (s : State) (f : Fld) (v : Nat) : (s.setFld f v).dets = s.dets := rfl
@[simp] theorem State.detLog_setReg (s : State) (a : Nat) (w : Word) : (s.setReg a w).detLog = s.detLog := rfl
@[simp] theorem State.detLog_setFld (s : State) (f : Fld) (v : Nat) : (s.setFld f v).detLog = s.detLog := rfl
@[simp] theorem State.expo_setReg (s : State) (a : Nat) (w : Word) : (s.setReg a w).expo = s.expo := rfl
@[simp] theorem State.expo_setFld (s : State) (f : Fld) (v : Nat) : (s.setFld f v).expo = s.expo := rfl
@[simp] theorem State.expoDay_setReg (s : State) (a : Nat) (w : Word) : (s.setReg a w).expoDay = s.expoDay := rfl
@[simp] theorem State.expoDay_setFld (s : State) (f : Fld) (v : Nat) : (s.setFld f v).expoDay = s.expoDay := rfl
@[simp] theorem State.activity_setReg (s : State) (a : Nat) (w : Word) : (s.setReg a w).activity = s.activity := rfl
@[simp] theorem State.activity_setFld (s : State) (f : Fld) (v : Nat) : (s.setFld f v).activity = s.activity := rfl
@[simp] theorem State.guards_setReg (s : State) (a : Nat) (w : Word) : (s.setReg a w).guards = s.guards := rfl
@[simp] theorem State.guards_setFld (s : State) (f : Fld) (v : Nat) : (s.setFld f v).guards = s.guards := rfl
@[simp] theorem State.uhsDirty_setReg (s : State) (a : Nat) (w : Word) : (s.setReg a w).uhsDirty = s.uhsDirty := rfl
@[simp] theorem State.uhsDirty_setFld (s : State) (f : Fld) (v : Nat) : (s.setFld f v).uhsDirty = s.uhsDirty := rfl
@[simp] theorem State.copyMin_setReg (s : State) (a : Nat) (w : Word) : (s.setReg a w).copyMin = s.copyMin := rfl
@[simp] theorem State.copyMin_setFld (s : State) (f : Fld) (v : Nat) : (s.setFld f v).copyMin = s.copyMin := rfl
@[simp] theorem State.copies_setReg (s : State) (a : Nat) (w : Word) : (s.setReg a w).copies = s.copies := rfl
@[simp] theorem State.copies_setFld (s : State) (f : Fld) (v : Nat) : (s.setFld f v).copies = s.copies := rfl
@[simp] theorem State.retires_setReg (s : State) (a : Nat) (w : Word) : (s.setReg a w).retires = s.retires := rfl
@[simp] theorem State.retires_setFld (s : State) (f : Fld) (v : Nat) : (s.setFld f v).retires = s.retires := rfl
@[simp] theorem State.rstLog_setReg (s : State) (a : Nat) (w : Word) : (s.setReg a w).rstLog = s.rstLog := rfl
@[simp] theorem State.rstLog_setFld (s : State) (f : Fld) (v : Nat) : (s.setFld f v).rstLog = s.rstLog := rfl
@[simp] theorem State.rstRun_setReg (s : State) (a : Nat) (w : Word) : (s.setReg a w).rstRun = s.rstRun := rfl
@[simp] theorem State.rstRun_setFld (s : State) (f : Fld) (v : Nat) : (s.setFld f v).rstRun = s.rstRun := rfl
@[simp] theorem State.jobOut_setReg (s : State) (a : Nat) (w : Word) : (s.setReg a w).jobOut = s.jobOut := rfl
@[simp] theorem State.jobOut_setFld (s : State) (f : Fld) (v : Nat) : (s.setFld f v).jobOut = s.jobOut := rfl
@[simp] theorem State.migr_setReg (s : State) (a : Nat) (w : Word) : (s.setReg a w).migr = s.migr := rfl
@[simp] theorem State.migr_setFld (s : State) (f : Fld) (v : Nat) : (s.setFld f v).migr = s.migr := rfl
@[simp] theorem State.recent_setReg (s : State) (a : Nat) (w : Word) : (s.setReg a w).recent = s.recent := rfl
@[simp] theorem State.recent_setFld (s : State) (f : Fld) (v : Nat) : (s.setFld f v).recent = s.recent := rfl
@[simp] theorem State.life_setReg (s : State) (a : Nat) (w : Word) : (s.setReg a w).life = s.life := rfl
@[simp] theorem State.life_setFld (s : State) (f : Fld) (v : Nat) : (s.setFld f v).life = s.life := rfl
@[simp] theorem State.acc_setReg (s : State) (a : Nat) (w : Word) : (s.setReg a w).acc = s.acc := rfl
@[simp] theorem State.acc_setFld (s : State) (f : Fld) (v : Nat) : (s.setFld f v).acc = s.acc := rfl
@[simp] theorem State.accExt_setReg (s : State) (a : Nat) (w : Word) : (s.setReg a w).accExt = s.accExt := rfl
@[simp] theorem State.accExt_setFld (s : State) (f : Fld) (v : Nat) : (s.setFld f v).accExt = s.accExt := rfl
@[simp] theorem State.tally_setReg (s : State) (a : Nat) (w : Word) : (s.setReg a w).tally = s.tally := rfl
@[simp] theorem State.tally_setFld (s : State) (f : Fld) (v : Nat) : (s.setFld f v).tally = s.tally := rfl
@[simp] theorem State.ckpts_setReg (s : State) (a : Nat) (w : Word) : (s.setReg a w).ckpts = s.ckpts := rfl
@[simp] theorem State.ckpts_setFld (s : State) (f : Fld) (v : Nat) : (s.setFld f v).ckpts = s.ckpts := rfl
@[simp] theorem State.opRing_setReg (s : State) (a : Nat) (w : Word) : (s.setReg a w).opRing = s.opRing := rfl
@[simp] theorem State.opRing_setFld (s : State) (f : Fld) (v : Nat) : (s.setFld f v).opRing = s.opRing := rfl
@[simp] theorem State.lastFlush_setReg (s : State) (a : Nat) (w : Word) : (s.setReg a w).lastFlush = s.lastFlush := rfl
@[simp] theorem State.lastFlush_setFld (s : State) (f : Fld) (v : Nat) : (s.setFld f v).lastFlush = s.lastFlush := rfl
@[simp] theorem State.recLost_setReg (s : State) (a : Nat) (w : Word) : (s.setReg a w).recLost = s.recLost := rfl
@[simp] theorem State.recLost_setFld (s : State) (f : Fld) (v : Nat) : (s.setFld f v).recLost = s.recLost := rfl
@[simp] theorem State.kprLost_setReg (s : State) (a : Nat) (w : Word) : (s.setReg a w).kprLost = s.kprLost := rfl
@[simp] theorem State.kprLost_setFld (s : State) (f : Fld) (v : Nat) : (s.setFld f v).kprLost = s.kprLost := rfl
@[simp] theorem State.ibiEn_setReg (s : State) (a : Nat) (w : Word) : (s.setReg a w).ibiEn = s.ibiEn := rfl
@[simp] theorem State.ibiEn_setFld (s : State) (f : Fld) (v : Nat) : (s.setFld f v).ibiEn = s.ibiEn := rfl
@[simp] theorem State.i3cAddr_setReg (s : State) (a : Nat) (w : Word) : (s.setReg a w).i3cAddr = s.i3cAddr := rfl
@[simp] theorem State.i3cAddr_setFld (s : State) (f : Fld) (v : Nat) : (s.setFld f v).i3cAddr = s.i3cAddr := rfl
@[simp] theorem State.i3cPtr_setReg (s : State) (a : Nat) (w : Word) : (s.setReg a w).i3cPtr = s.i3cPtr := rfl
@[simp] theorem State.i3cPtr_setFld (s : State) (f : Fld) (v : Nat) : (s.setFld f v).i3cPtr = s.i3cPtr := rfl
@[simp] theorem State.sbImage_setReg (s : State) (a : Nat) (w : Word) : (s.setReg a w).sbImage = s.sbImage := rfl
@[simp] theorem State.sbImage_setFld (s : State) (f : Fld) (v : Nat) : (s.setFld f v).sbImage = s.sbImage := rfl
@[simp] theorem State.irqPend_setReg (s : State) (a : Nat) (w : Word) : (s.setReg a w).irqPend = s.irqPend := rfl
@[simp] theorem State.irqPend_setFld (s : State) (f : Fld) (v : Nat) : (s.setFld f v).irqPend = s.irqPend := rfl
@[simp] theorem State.irqLast_setReg (s : State) (a : Nat) (w : Word) : (s.setReg a w).irqLast = s.irqLast := rfl
@[simp] theorem State.irqLast_setFld (s : State) (f : Fld) (v : Nat) : (s.setFld f v).irqLast = s.irqLast := rfl
@[simp] theorem State.scrubPos_setReg (s : State) (a : Nat) (w : Word) : (s.setReg a w).scrubPos = s.scrubPos := rfl
@[simp] theorem State.scrubPos_setFld (s : State) (f : Fld) (v : Nat) : (s.setFld f v).scrubPos = s.scrubPos := rfl
@[simp] theorem State.jobs_setReg (s : State) (a : Nat) (w : Word) : (s.setReg a w).jobs = s.jobs := rfl
@[simp] theorem State.jobs_setFld (s : State) (f : Fld) (v : Nat) : (s.setFld f v).jobs = s.jobs := rfl
@[simp] theorem State.rangeSeen_setReg (s : State) (a : Nat) (w : Word) : (s.setReg a w).rangeSeen = s.rangeSeen := rfl
@[simp] theorem State.rangeSeen_setFld (s : State) (f : Fld) (v : Nat) : (s.setFld f v).rangeSeen = s.rangeSeen := rfl
@[simp] theorem State.tblCopy_setReg (s : State) (a : Nat) (w : Word) : (s.setReg a w).tblCopy = s.tblCopy := rfl
@[simp] theorem State.tblCopy_setFld (s : State) (f : Fld) (v : Nat) : (s.setFld f v).tblCopy = s.tblCopy := rfl
@[simp] theorem State.pStep_setReg (s : State) (a : Nat) (w : Word) : (s.setReg a w).pStep = s.pStep := rfl
@[simp] theorem State.pStep_setFld (s : State) (f : Fld) (v : Nat) : (s.setFld f v).pStep = s.pStep := rfl
@[simp] theorem State.thermStep_setReg (s : State) (a : Nat) (w : Word) : (s.setReg a w).thermStep = s.thermStep := rfl
@[simp] theorem State.thermStep_setFld (s : State) (f : Fld) (v : Nat) : (s.setFld f v).thermStep = s.thermStep := rfl
@[simp] theorem State.thermLast_setReg (s : State) (a : Nat) (w : Word) : (s.setReg a w).thermLast = s.thermLast := rfl
@[simp] theorem State.thermLast_setFld (s : State) (f : Fld) (v : Nat) : (s.setFld f v).thermLast = s.thermLast := rfl
@[simp] theorem State.capDuty_setReg (s : State) (a : Nat) (w : Word) : (s.setReg a w).capDuty = s.capDuty := rfl
@[simp] theorem State.capDuty_setFld (s : State) (f : Fld) (v : Nat) : (s.setFld f v).capDuty = s.capDuty := rfl
@[simp] theorem State.thDuty_setReg (s : State) (a : Nat) (w : Word) : (s.setReg a w).thDuty = s.thDuty := rfl
@[simp] theorem State.thDuty_setFld (s : State) (f : Fld) (v : Nat) : (s.setFld f v).thDuty = s.thDuty := rfl
@[simp] theorem State.earlyMsgs_setReg (s : State) (a : Nat) (w : Word) : (s.setReg a w).earlyMsgs = s.earlyMsgs := rfl
@[simp] theorem State.earlyMsgs_setFld (s : State) (f : Fld) (v : Nat) : (s.setFld f v).earlyMsgs = s.earlyMsgs := rfl
@[simp] theorem State.slew_setReg (s : State) (a : Nat) (w : Word) : (s.setReg a w).slew = s.slew := rfl
@[simp] theorem State.slew_setFld (s : State) (f : Fld) (v : Nat) : (s.setFld f v).slew = s.slew := rfl
@[simp] theorem State.slewPhase_setReg (s : State) (a : Nat) (w : Word) : (s.setReg a w).slewPhase = s.slewPhase := rfl
@[simp] theorem State.slewPhase_setFld (s : State) (f : Fld) (v : Nat) : (s.setFld f v).slewPhase = s.slewPhase := rfl
@[simp] theorem State.timeGood_setReg (s : State) (a : Nat) (w : Word) : (s.setReg a w).timeGood = s.timeGood := rfl
@[simp] theorem State.timeGood_setFld (s : State) (f : Fld) (v : Nat) : (s.setFld f v).timeGood = s.timeGood := rfl
@[simp] theorem State.satBase_setReg (s : State) (a : Nat) (w : Word) : (s.setReg a w).satBase = s.satBase := rfl
@[simp] theorem State.satBase_setFld (s : State) (f : Fld) (v : Nat) : (s.setFld f v).satBase = s.satBase := rfl
@[simp] theorem State.bcasts_setReg (s : State) (a : Nat) (w : Word) : (s.setReg a w).bcasts = s.bcasts := rfl
@[simp] theorem State.bcasts_setFld (s : State) (f : Fld) (v : Nat) : (s.setFld f v).bcasts = s.bcasts := rfl
@[simp] theorem State.opCount_setReg (s : State) (a : Nat) (w : Word) : (s.setReg a w).opCount = s.opCount := rfl
@[simp] theorem State.opCount_setFld (s : State) (f : Fld) (v : Nat) : (s.setFld f v).opCount = s.opCount := rfl
@[simp] theorem State.feeds_setReg (s : State) (a : Nat) (w : Word) : (s.setReg a w).feeds = s.feeds := rfl
@[simp] theorem State.feeds_setFld (s : State) (f : Fld) (v : Nat) : (s.setFld f v).feeds = s.feeds := rfl
@[simp] theorem State.rebuilds_setReg (s : State) (a : Nat) (w : Word) : (s.setReg a w).rebuilds = s.rebuilds := rfl
@[simp] theorem State.rebuilds_setFld (s : State) (f : Fld) (v : Nat) : (s.setFld f v).rebuilds = s.rebuilds := rfl
@[simp] theorem State.restores_setReg (s : State) (a : Nat) (w : Word) : (s.setReg a w).restores = s.restores := rfl
@[simp] theorem State.restores_setFld (s : State) (f : Fld) (v : Nat) : (s.setFld f v).restores = s.restores := rfl
@[simp] theorem State.restoreMsgs_setReg (s : State) (a : Nat) (w : Word) : (s.setReg a w).restoreMsgs = s.restoreMsgs := rfl
@[simp] theorem State.restoreMsgs_setFld (s : State) (f : Fld) (v : Nat) : (s.setFld f v).restoreMsgs = s.restoreMsgs := rfl
@[simp] theorem State.rcopy_setReg (s : State) (a : Nat) (w : Word) : (s.setReg a w).rcopy = s.rcopy := rfl
@[simp] theorem State.rcopy_setFld (s : State) (f : Fld) (v : Nat) : (s.setFld f v).rcopy = s.rcopy := rfl
@[simp] theorem State.rcopyAsked_setReg (s : State) (a : Nat) (w : Word) : (s.setReg a w).rcopyAsked = s.rcopyAsked := rfl
@[simp] theorem State.rcopyAsked_setFld (s : State) (f : Fld) (v : Nat) : (s.setFld f v).rcopyAsked = s.rcopyAsked := rfl
@[simp] theorem State.ghbAt_setReg (s : State) (a : Nat) (w : Word) : (s.setReg a w).ghbAt = s.ghbAt := rfl
@[simp] theorem State.ghbAt_setFld (s : State) (f : Fld) (v : Nat) : (s.setFld f v).ghbAt = s.ghbAt := rfl
@[simp] theorem State.silent_setReg (s : State) (a : Nat) (w : Word) : (s.setReg a w).silent = s.silent := rfl
@[simp] theorem State.silent_setFld (s : State) (f : Fld) (v : Nat) : (s.setFld f v).silent = s.silent := rfl
@[simp] theorem State.deadSent_setReg (s : State) (a : Nat) (w : Word) : (s.setReg a w).deadSent = s.deadSent := rfl
@[simp] theorem State.deadSent_setFld (s : State) (f : Fld) (v : Nat) : (s.setFld f v).deadSent = s.deadSent := rfl
@[simp] theorem State.updDone_setReg (s : State) (a : Nat) (w : Word) : (s.setReg a w).updDone = s.updDone := rfl
@[simp] theorem State.updDone_setFld (s : State) (f : Fld) (v : Nat) : (s.setFld f v).updDone = s.updDone := rfl
@[simp] theorem State.loads_setReg (s : State) (a : Nat) (w : Word) : (s.setReg a w).loads = s.loads := rfl
@[simp] theorem State.loads_setFld (s : State) (f : Fld) (v : Nat) : (s.setFld f v).loads = s.loads := rfl
@[simp] theorem State.keys_setReg (s : State) (a : Nat) (w : Word) : (s.setReg a w).keys = s.keys := rfl
@[simp] theorem State.keys_setFld (s : State) (f : Fld) (v : Nat) : (s.setFld f v).keys = s.keys := rfl
@[simp] theorem State.slotKeep_setReg (s : State) (a : Nat) (w : Word) : (s.setReg a w).slotKeep = s.slotKeep := rfl
@[simp] theorem State.slotKeep_setFld (s : State) (f : Fld) (v : Nat) : (s.setFld f v).slotKeep = s.slotKeep := rfl
@[simp] theorem State.cqLap_setReg (s : State) (a : Nat) (w : Word) : (s.setReg a w).cqLap = s.cqLap := rfl
@[simp] theorem State.cqLap_setFld (s : State) (f : Fld) (v : Nat) : (s.setFld f v).cqLap = s.cqLap := rfl
@[simp] theorem State.cqHeld_setReg (s : State) (a : Nat) (w : Word) : (s.setReg a w).cqHeld = s.cqHeld := rfl
@[simp] theorem State.cqHeld_setFld (s : State) (f : Fld) (v : Nat) : (s.setFld f v).cqHeld = s.cqHeld := rfl
@[simp] theorem State.aon_setReg (s : State) (a : Nat) (w : Word) : (s.setReg a w).aon = s.aon := rfl
@[simp] theorem State.aon_setFld (s : State) (f : Fld) (v : Nat) : (s.setFld f v).aon = s.aon := rfl

theorem State.pending_of_bare {s t : State} (h : t.bare = s.bare) : t.pending = s.pending :=
  State.of_bare State.pending (fun _ => rfl) h
@[simp] theorem State.pending_stageRec (s : State) (type body : Nat) : (s.stageRec type body).pending = s.pending :=
  State.pending_of_bare (State.bare_stageRec ..)
@[simp] theorem State.pending_event (s : State) (f : Fld) (unit job : Nat) : (s.event f unit job).pending = s.pending :=
  State.pending_of_bare (State.bare_event ..)
@[simp] theorem State.pending_eventUnit (s : State) (unit job : Nat) : (s.eventUnit unit job).pending = s.pending :=
  State.pending_of_bare (State.bare_eventUnit ..)
@[simp] theorem State.pending_gcount (s : State) (n k : Nat) : (s.gcount n k).pending = s.pending :=
  State.pending_of_bare (State.bare_gcount ..)
@[simp] theorem State.pending_count (s : State) (p n k : Nat) : (s.count p n k).pending = s.pending :=
  State.pending_of_bare (State.bare_count ..)
@[simp] theorem State.pending_detect (s : State) (unit cls flags desc ctx layer operator job syn : Nat) : (s.detect unit cls flags desc ctx layer operator job syn).pending = s.pending :=
  State.pending_of_bare (State.bare_detect ..)

theorem State.mem_of_bare {s t : State} (h : t.bare = s.bare) : t.mem = s.mem :=
  State.of_bare State.mem (fun _ => rfl) h
@[simp] theorem State.mem_stageRec (s : State) (type body : Nat) : (s.stageRec type body).mem = s.mem :=
  State.mem_of_bare (State.bare_stageRec ..)
@[simp] theorem State.mem_event (s : State) (f : Fld) (unit job : Nat) : (s.event f unit job).mem = s.mem :=
  State.mem_of_bare (State.bare_event ..)
@[simp] theorem State.mem_eventUnit (s : State) (unit job : Nat) : (s.eventUnit unit job).mem = s.mem :=
  State.mem_of_bare (State.bare_eventUnit ..)
@[simp] theorem State.mem_gcount (s : State) (n k : Nat) : (s.gcount n k).mem = s.mem :=
  State.mem_of_bare (State.bare_gcount ..)
@[simp] theorem State.mem_count (s : State) (p n k : Nat) : (s.count p n k).mem = s.mem :=
  State.mem_of_bare (State.bare_count ..)
@[simp] theorem State.mem_detect (s : State) (unit cls flags desc ctx layer operator job syn : Nat) : (s.detect unit cls flags desc ctx layer operator job syn).mem = s.mem :=
  State.mem_of_bare (State.bare_detect ..)

theorem State.poison_of_bare {s t : State} (h : t.bare = s.bare) : t.poison = s.poison :=
  State.of_bare State.poison (fun _ => rfl) h
@[simp] theorem State.poison_stageRec (s : State) (type body : Nat) : (s.stageRec type body).poison = s.poison :=
  State.poison_of_bare (State.bare_stageRec ..)
@[simp] theorem State.poison_event (s : State) (f : Fld) (unit job : Nat) : (s.event f unit job).poison = s.poison :=
  State.poison_of_bare (State.bare_event ..)
@[simp] theorem State.poison_eventUnit (s : State) (unit job : Nat) : (s.eventUnit unit job).poison = s.poison :=
  State.poison_of_bare (State.bare_eventUnit ..)
@[simp] theorem State.poison_gcount (s : State) (n k : Nat) : (s.gcount n k).poison = s.poison :=
  State.poison_of_bare (State.bare_gcount ..)
@[simp] theorem State.poison_count (s : State) (p n k : Nat) : (s.count p n k).poison = s.poison :=
  State.poison_of_bare (State.bare_count ..)
@[simp] theorem State.poison_detect (s : State) (unit cls flags desc ctx layer operator job syn : Nat) : (s.detect unit cls flags desc ctx layer operator job syn).poison = s.poison :=
  State.poison_of_bare (State.bare_detect ..)

theorem State.parityBad_of_bare {s t : State} (h : t.bare = s.bare) : t.parityBad = s.parityBad :=
  State.of_bare State.parityBad (fun _ => rfl) h
@[simp] theorem State.parityBad_stageRec (s : State) (type body : Nat) : (s.stageRec type body).parityBad = s.parityBad :=
  State.parityBad_of_bare (State.bare_stageRec ..)
@[simp] theorem State.parityBad_event (s : State) (f : Fld) (unit job : Nat) : (s.event f unit job).parityBad = s.parityBad :=
  State.parityBad_of_bare (State.bare_event ..)
@[simp] theorem State.parityBad_eventUnit (s : State) (unit job : Nat) : (s.eventUnit unit job).parityBad = s.parityBad :=
  State.parityBad_of_bare (State.bare_eventUnit ..)
@[simp] theorem State.parityBad_gcount (s : State) (n k : Nat) : (s.gcount n k).parityBad = s.parityBad :=
  State.parityBad_of_bare (State.bare_gcount ..)
@[simp] theorem State.parityBad_count (s : State) (p n k : Nat) : (s.count p n k).parityBad = s.parityBad :=
  State.parityBad_of_bare (State.bare_count ..)
@[simp] theorem State.parityBad_detect (s : State) (unit cls flags desc ctx layer operator job syn : Nat) : (s.detect unit cls flags desc ctx layer operator job syn).parityBad = s.parityBad :=
  State.parityBad_of_bare (State.bare_detect ..)

theorem State.deadChan_of_bare {s t : State} (h : t.bare = s.bare) : t.deadChan = s.deadChan :=
  State.of_bare State.deadChan (fun _ => rfl) h
@[simp] theorem State.deadChan_stageRec (s : State) (type body : Nat) : (s.stageRec type body).deadChan = s.deadChan :=
  State.deadChan_of_bare (State.bare_stageRec ..)
@[simp] theorem State.deadChan_event (s : State) (f : Fld) (unit job : Nat) : (s.event f unit job).deadChan = s.deadChan :=
  State.deadChan_of_bare (State.bare_event ..)
@[simp] theorem State.deadChan_eventUnit (s : State) (unit job : Nat) : (s.eventUnit unit job).deadChan = s.deadChan :=
  State.deadChan_of_bare (State.bare_eventUnit ..)
@[simp] theorem State.deadChan_gcount (s : State) (n k : Nat) : (s.gcount n k).deadChan = s.deadChan :=
  State.deadChan_of_bare (State.bare_gcount ..)
@[simp] theorem State.deadChan_count (s : State) (p n k : Nat) : (s.count p n k).deadChan = s.deadChan :=
  State.deadChan_of_bare (State.bare_count ..)
@[simp] theorem State.deadChan_detect (s : State) (unit cls flags desc ctx layer operator job syn : Nat) : (s.detect unit cls flags desc ctx layer operator job syn).deadChan = s.deadChan :=
  State.deadChan_of_bare (State.bare_detect ..)

theorem State.latch_of_bare {s t : State} (h : t.bare = s.bare) : t.latch = s.latch :=
  State.of_bare State.latch (fun _ => rfl) h
@[simp] theorem State.latch_stageRec (s : State) (type body : Nat) : (s.stageRec type body).latch = s.latch :=
  State.latch_of_bare (State.bare_stageRec ..)
@[simp] theorem State.latch_event (s : State) (f : Fld) (unit job : Nat) : (s.event f unit job).latch = s.latch :=
  State.latch_of_bare (State.bare_event ..)
@[simp] theorem State.latch_eventUnit (s : State) (unit job : Nat) : (s.eventUnit unit job).latch = s.latch :=
  State.latch_of_bare (State.bare_eventUnit ..)
@[simp] theorem State.latch_gcount (s : State) (n k : Nat) : (s.gcount n k).latch = s.latch :=
  State.latch_of_bare (State.bare_gcount ..)
@[simp] theorem State.latch_count (s : State) (p n k : Nat) : (s.count p n k).latch = s.latch :=
  State.latch_of_bare (State.bare_count ..)
@[simp] theorem State.latch_detect (s : State) (unit cls flags desc ctx layer operator job syn : Nat) : (s.detect unit cls flags desc ctx layer operator job syn).latch = s.latch :=
  State.latch_of_bare (State.bare_detect ..)

theorem State.ftime_of_bare {s t : State} (h : t.bare = s.bare) : t.ftime = s.ftime :=
  State.of_bare State.ftime (fun _ => rfl) h
@[simp] theorem State.ftime_stageRec (s : State) (type body : Nat) : (s.stageRec type body).ftime = s.ftime :=
  State.ftime_of_bare (State.bare_stageRec ..)
@[simp] theorem State.ftime_event (s : State) (f : Fld) (unit job : Nat) : (s.event f unit job).ftime = s.ftime :=
  State.ftime_of_bare (State.bare_event ..)
@[simp] theorem State.ftime_eventUnit (s : State) (unit job : Nat) : (s.eventUnit unit job).ftime = s.ftime :=
  State.ftime_of_bare (State.bare_eventUnit ..)
@[simp] theorem State.ftime_gcount (s : State) (n k : Nat) : (s.gcount n k).ftime = s.ftime :=
  State.ftime_of_bare (State.bare_gcount ..)
@[simp] theorem State.ftime_count (s : State) (p n k : Nat) : (s.count p n k).ftime = s.ftime :=
  State.ftime_of_bare (State.bare_count ..)
@[simp] theorem State.ftime_detect (s : State) (unit cls flags desc ctx layer operator job syn : Nat) : (s.detect unit cls flags desc ctx layer operator job syn).ftime = s.ftime :=
  State.ftime_of_bare (State.bare_detect ..)

theorem State.inflight_of_bare {s t : State} (h : t.bare = s.bare) : t.inflight = s.inflight :=
  State.of_bare State.inflight (fun _ => rfl) h
@[simp] theorem State.inflight_stageRec (s : State) (type body : Nat) : (s.stageRec type body).inflight = s.inflight :=
  State.inflight_of_bare (State.bare_stageRec ..)
@[simp] theorem State.inflight_event (s : State) (f : Fld) (unit job : Nat) : (s.event f unit job).inflight = s.inflight :=
  State.inflight_of_bare (State.bare_event ..)
@[simp] theorem State.inflight_eventUnit (s : State) (unit job : Nat) : (s.eventUnit unit job).inflight = s.inflight :=
  State.inflight_of_bare (State.bare_eventUnit ..)
@[simp] theorem State.inflight_gcount (s : State) (n k : Nat) : (s.gcount n k).inflight = s.inflight :=
  State.inflight_of_bare (State.bare_gcount ..)
@[simp] theorem State.inflight_count (s : State) (p n k : Nat) : (s.count p n k).inflight = s.inflight :=
  State.inflight_of_bare (State.bare_count ..)
@[simp] theorem State.inflight_detect (s : State) (unit cls flags desc ctx layer operator job syn : Nat) : (s.detect unit cls flags desc ctx layer operator job syn).inflight = s.inflight :=
  State.inflight_of_bare (State.bare_detect ..)

theorem State.issuing_of_bare {s t : State} (h : t.bare = s.bare) : t.issuing = s.issuing :=
  State.of_bare State.issuing (fun _ => rfl) h
@[simp] theorem State.issuing_stageRec (s : State) (type body : Nat) : (s.stageRec type body).issuing = s.issuing :=
  State.issuing_of_bare (State.bare_stageRec ..)
@[simp] theorem State.issuing_event (s : State) (f : Fld) (unit job : Nat) : (s.event f unit job).issuing = s.issuing :=
  State.issuing_of_bare (State.bare_event ..)
@[simp] theorem State.issuing_eventUnit (s : State) (unit job : Nat) : (s.eventUnit unit job).issuing = s.issuing :=
  State.issuing_of_bare (State.bare_eventUnit ..)
@[simp] theorem State.issuing_gcount (s : State) (n k : Nat) : (s.gcount n k).issuing = s.issuing :=
  State.issuing_of_bare (State.bare_gcount ..)
@[simp] theorem State.issuing_count (s : State) (p n k : Nat) : (s.count p n k).issuing = s.issuing :=
  State.issuing_of_bare (State.bare_count ..)
@[simp] theorem State.issuing_detect (s : State) (unit cls flags desc ctx layer operator job syn : Nat) : (s.detect unit cls flags desc ctx layer operator job syn).issuing = s.issuing :=
  State.issuing_of_bare (State.bare_detect ..)

theorem State.vx_of_bare {s t : State} (h : t.bare = s.bare) : t.vx = s.vx :=
  State.of_bare State.vx (fun _ => rfl) h
@[simp] theorem State.vx_stageRec (s : State) (type body : Nat) : (s.stageRec type body).vx = s.vx :=
  State.vx_of_bare (State.bare_stageRec ..)
@[simp] theorem State.vx_event (s : State) (f : Fld) (unit job : Nat) : (s.event f unit job).vx = s.vx :=
  State.vx_of_bare (State.bare_event ..)
@[simp] theorem State.vx_eventUnit (s : State) (unit job : Nat) : (s.eventUnit unit job).vx = s.vx :=
  State.vx_of_bare (State.bare_eventUnit ..)
@[simp] theorem State.vx_gcount (s : State) (n k : Nat) : (s.gcount n k).vx = s.vx :=
  State.vx_of_bare (State.bare_gcount ..)
@[simp] theorem State.vx_count (s : State) (p n k : Nat) : (s.count p n k).vx = s.vx :=
  State.vx_of_bare (State.bare_count ..)
@[simp] theorem State.vx_detect (s : State) (unit cls flags desc ctx layer operator job syn : Nat) : (s.detect unit cls flags desc ctx layer operator job syn).vx = s.vx :=
  State.vx_of_bare (State.bare_detect ..)

theorem State.vxPsn_of_bare {s t : State} (h : t.bare = s.bare) : t.vxPsn = s.vxPsn :=
  State.of_bare State.vxPsn (fun _ => rfl) h
@[simp] theorem State.vxPsn_stageRec (s : State) (type body : Nat) : (s.stageRec type body).vxPsn = s.vxPsn :=
  State.vxPsn_of_bare (State.bare_stageRec ..)
@[simp] theorem State.vxPsn_event (s : State) (f : Fld) (unit job : Nat) : (s.event f unit job).vxPsn = s.vxPsn :=
  State.vxPsn_of_bare (State.bare_event ..)
@[simp] theorem State.vxPsn_eventUnit (s : State) (unit job : Nat) : (s.eventUnit unit job).vxPsn = s.vxPsn :=
  State.vxPsn_of_bare (State.bare_eventUnit ..)
@[simp] theorem State.vxPsn_gcount (s : State) (n k : Nat) : (s.gcount n k).vxPsn = s.vxPsn :=
  State.vxPsn_of_bare (State.bare_gcount ..)
@[simp] theorem State.vxPsn_count (s : State) (p n k : Nat) : (s.count p n k).vxPsn = s.vxPsn :=
  State.vxPsn_of_bare (State.bare_count ..)
@[simp] theorem State.vxPsn_detect (s : State) (unit cls flags desc ctx layer operator job syn : Nat) : (s.detect unit cls flags desc ctx layer operator job syn).vxPsn = s.vxPsn :=
  State.vxPsn_of_bare (State.bare_detect ..)

theorem State.vxEng_of_bare {s t : State} (h : t.bare = s.bare) : t.vxEng = s.vxEng :=
  State.of_bare State.vxEng (fun _ => rfl) h
@[simp] theorem State.vxEng_stageRec (s : State) (type body : Nat) : (s.stageRec type body).vxEng = s.vxEng :=
  State.vxEng_of_bare (State.bare_stageRec ..)
@[simp] theorem State.vxEng_event (s : State) (f : Fld) (unit job : Nat) : (s.event f unit job).vxEng = s.vxEng :=
  State.vxEng_of_bare (State.bare_event ..)
@[simp] theorem State.vxEng_eventUnit (s : State) (unit job : Nat) : (s.eventUnit unit job).vxEng = s.vxEng :=
  State.vxEng_of_bare (State.bare_eventUnit ..)
@[simp] theorem State.vxEng_gcount (s : State) (n k : Nat) : (s.gcount n k).vxEng = s.vxEng :=
  State.vxEng_of_bare (State.bare_gcount ..)
@[simp] theorem State.vxEng_count (s : State) (p n k : Nat) : (s.count p n k).vxEng = s.vxEng :=
  State.vxEng_of_bare (State.bare_count ..)
@[simp] theorem State.vxEng_detect (s : State) (unit cls flags desc ctx layer operator job syn : Nat) : (s.detect unit cls flags desc ctx layer operator job syn).vxEng = s.vxEng :=
  State.vxEng_of_bare (State.bare_detect ..)

theorem State.vxCmds_of_bare {s t : State} (h : t.bare = s.bare) : t.vxCmds = s.vxCmds :=
  State.of_bare State.vxCmds (fun _ => rfl) h
@[simp] theorem State.vxCmds_stageRec (s : State) (type body : Nat) : (s.stageRec type body).vxCmds = s.vxCmds :=
  State.vxCmds_of_bare (State.bare_stageRec ..)
@[simp] theorem State.vxCmds_event (s : State) (f : Fld) (unit job : Nat) : (s.event f unit job).vxCmds = s.vxCmds :=
  State.vxCmds_of_bare (State.bare_event ..)
@[simp] theorem State.vxCmds_eventUnit (s : State) (unit job : Nat) : (s.eventUnit unit job).vxCmds = s.vxCmds :=
  State.vxCmds_of_bare (State.bare_eventUnit ..)
@[simp] theorem State.vxCmds_gcount (s : State) (n k : Nat) : (s.gcount n k).vxCmds = s.vxCmds :=
  State.vxCmds_of_bare (State.bare_gcount ..)
@[simp] theorem State.vxCmds_count (s : State) (p n k : Nat) : (s.count p n k).vxCmds = s.vxCmds :=
  State.vxCmds_of_bare (State.bare_count ..)
@[simp] theorem State.vxCmds_detect (s : State) (unit cls flags desc ctx layer operator job syn : Nat) : (s.detect unit cls flags desc ctx layer operator job syn).vxCmds = s.vxCmds :=
  State.vxCmds_of_bare (State.bare_detect ..)

theorem State.shardS_of_bare {s t : State} (h : t.bare = s.bare) : t.shardS = s.shardS :=
  State.of_bare State.shardS (fun _ => rfl) h
@[simp] theorem State.shardS_stageRec (s : State) (type body : Nat) : (s.stageRec type body).shardS = s.shardS :=
  State.shardS_of_bare (State.bare_stageRec ..)
@[simp] theorem State.shardS_event (s : State) (f : Fld) (unit job : Nat) : (s.event f unit job).shardS = s.shardS :=
  State.shardS_of_bare (State.bare_event ..)
@[simp] theorem State.shardS_eventUnit (s : State) (unit job : Nat) : (s.eventUnit unit job).shardS = s.shardS :=
  State.shardS_of_bare (State.bare_eventUnit ..)
@[simp] theorem State.shardS_gcount (s : State) (n k : Nat) : (s.gcount n k).shardS = s.shardS :=
  State.shardS_of_bare (State.bare_gcount ..)
@[simp] theorem State.shardS_count (s : State) (p n k : Nat) : (s.count p n k).shardS = s.shardS :=
  State.shardS_of_bare (State.bare_count ..)
@[simp] theorem State.shardS_detect (s : State) (unit cls flags desc ctx layer operator job syn : Nat) : (s.detect unit cls flags desc ctx layer operator job syn).shardS = s.shardS :=
  State.shardS_of_bare (State.bare_detect ..)

theorem State.shardP_of_bare {s t : State} (h : t.bare = s.bare) : t.shardP = s.shardP :=
  State.of_bare State.shardP (fun _ => rfl) h
@[simp] theorem State.shardP_stageRec (s : State) (type body : Nat) : (s.stageRec type body).shardP = s.shardP :=
  State.shardP_of_bare (State.bare_stageRec ..)
@[simp] theorem State.shardP_event (s : State) (f : Fld) (unit job : Nat) : (s.event f unit job).shardP = s.shardP :=
  State.shardP_of_bare (State.bare_event ..)
@[simp] theorem State.shardP_eventUnit (s : State) (unit job : Nat) : (s.eventUnit unit job).shardP = s.shardP :=
  State.shardP_of_bare (State.bare_eventUnit ..)
@[simp] theorem State.shardP_gcount (s : State) (n k : Nat) : (s.gcount n k).shardP = s.shardP :=
  State.shardP_of_bare (State.bare_gcount ..)
@[simp] theorem State.shardP_count (s : State) (p n k : Nat) : (s.count p n k).shardP = s.shardP :=
  State.shardP_of_bare (State.bare_count ..)
@[simp] theorem State.shardP_detect (s : State) (unit cls flags desc ctx layer operator job syn : Nat) : (s.detect unit cls flags desc ctx layer operator job syn).shardP = s.shardP :=
  State.shardP_of_bare (State.bare_detect ..)

theorem State.preload_of_bare {s t : State} (h : t.bare = s.bare) : t.preload = s.preload :=
  State.of_bare State.preload (fun _ => rfl) h
@[simp] theorem State.preload_stageRec (s : State) (type body : Nat) : (s.stageRec type body).preload = s.preload :=
  State.preload_of_bare (State.bare_stageRec ..)
@[simp] theorem State.preload_event (s : State) (f : Fld) (unit job : Nat) : (s.event f unit job).preload = s.preload :=
  State.preload_of_bare (State.bare_event ..)
@[simp] theorem State.preload_eventUnit (s : State) (unit job : Nat) : (s.eventUnit unit job).preload = s.preload :=
  State.preload_of_bare (State.bare_eventUnit ..)
@[simp] theorem State.preload_gcount (s : State) (n k : Nat) : (s.gcount n k).preload = s.preload :=
  State.preload_of_bare (State.bare_gcount ..)
@[simp] theorem State.preload_count (s : State) (p n k : Nat) : (s.count p n k).preload = s.preload :=
  State.preload_of_bare (State.bare_count ..)
@[simp] theorem State.preload_detect (s : State) (unit cls flags desc ctx layer operator job syn : Nat) : (s.detect unit cls flags desc ctx layer operator job syn).preload = s.preload :=
  State.preload_of_bare (State.bare_detect ..)

theorem State.held_of_bare {s t : State} (h : t.bare = s.bare) : t.held = s.held :=
  State.of_bare State.held (fun _ => rfl) h
@[simp] theorem State.held_stageRec (s : State) (type body : Nat) : (s.stageRec type body).held = s.held :=
  State.held_of_bare (State.bare_stageRec ..)
@[simp] theorem State.held_event (s : State) (f : Fld) (unit job : Nat) : (s.event f unit job).held = s.held :=
  State.held_of_bare (State.bare_event ..)
@[simp] theorem State.held_eventUnit (s : State) (unit job : Nat) : (s.eventUnit unit job).held = s.held :=
  State.held_of_bare (State.bare_eventUnit ..)
@[simp] theorem State.held_gcount (s : State) (n k : Nat) : (s.gcount n k).held = s.held :=
  State.held_of_bare (State.bare_gcount ..)
@[simp] theorem State.held_count (s : State) (p n k : Nat) : (s.count p n k).held = s.held :=
  State.held_of_bare (State.bare_count ..)
@[simp] theorem State.held_detect (s : State) (unit cls flags desc ctx layer operator job syn : Nat) : (s.detect unit cls flags desc ctx layer operator job syn).held = s.held :=
  State.held_of_bare (State.bare_detect ..)

theorem State.etaMissed_of_bare {s t : State} (h : t.bare = s.bare) : t.etaMissed = s.etaMissed :=
  State.of_bare State.etaMissed (fun _ => rfl) h
@[simp] theorem State.etaMissed_stageRec (s : State) (type body : Nat) : (s.stageRec type body).etaMissed = s.etaMissed :=
  State.etaMissed_of_bare (State.bare_stageRec ..)
@[simp] theorem State.etaMissed_event (s : State) (f : Fld) (unit job : Nat) : (s.event f unit job).etaMissed = s.etaMissed :=
  State.etaMissed_of_bare (State.bare_event ..)
@[simp] theorem State.etaMissed_eventUnit (s : State) (unit job : Nat) : (s.eventUnit unit job).etaMissed = s.etaMissed :=
  State.etaMissed_of_bare (State.bare_eventUnit ..)
@[simp] theorem State.etaMissed_gcount (s : State) (n k : Nat) : (s.gcount n k).etaMissed = s.etaMissed :=
  State.etaMissed_of_bare (State.bare_gcount ..)
@[simp] theorem State.etaMissed_count (s : State) (p n k : Nat) : (s.count p n k).etaMissed = s.etaMissed :=
  State.etaMissed_of_bare (State.bare_count ..)
@[simp] theorem State.etaMissed_detect (s : State) (unit cls flags desc ctx layer operator job syn : Nat) : (s.detect unit cls flags desc ctx layer operator job syn).etaMissed = s.etaMissed :=
  State.etaMissed_of_bare (State.bare_detect ..)

theorem State.replayEta_of_bare {s t : State} (h : t.bare = s.bare) : t.replayEta = s.replayEta :=
  State.of_bare State.replayEta (fun _ => rfl) h
@[simp] theorem State.replayEta_stageRec (s : State) (type body : Nat) : (s.stageRec type body).replayEta = s.replayEta :=
  State.replayEta_of_bare (State.bare_stageRec ..)
@[simp] theorem State.replayEta_event (s : State) (f : Fld) (unit job : Nat) : (s.event f unit job).replayEta = s.replayEta :=
  State.replayEta_of_bare (State.bare_event ..)
@[simp] theorem State.replayEta_eventUnit (s : State) (unit job : Nat) : (s.eventUnit unit job).replayEta = s.replayEta :=
  State.replayEta_of_bare (State.bare_eventUnit ..)
@[simp] theorem State.replayEta_gcount (s : State) (n k : Nat) : (s.gcount n k).replayEta = s.replayEta :=
  State.replayEta_of_bare (State.bare_gcount ..)
@[simp] theorem State.replayEta_count (s : State) (p n k : Nat) : (s.count p n k).replayEta = s.replayEta :=
  State.replayEta_of_bare (State.bare_count ..)
@[simp] theorem State.replayEta_detect (s : State) (unit cls flags desc ctx layer operator job syn : Nat) : (s.detect unit cls flags desc ctx layer operator job syn).replayEta = s.replayEta :=
  State.replayEta_of_bare (State.bare_detect ..)

theorem State.holds_of_bare {s t : State} (h : t.bare = s.bare) : t.holds = s.holds :=
  State.of_bare State.holds (fun _ => rfl) h
@[simp] theorem State.holds_stageRec (s : State) (type body : Nat) : (s.stageRec type body).holds = s.holds :=
  State.holds_of_bare (State.bare_stageRec ..)
@[simp] theorem State.holds_event (s : State) (f : Fld) (unit job : Nat) : (s.event f unit job).holds = s.holds :=
  State.holds_of_bare (State.bare_event ..)
@[simp] theorem State.holds_eventUnit (s : State) (unit job : Nat) : (s.eventUnit unit job).holds = s.holds :=
  State.holds_of_bare (State.bare_eventUnit ..)
@[simp] theorem State.holds_gcount (s : State) (n k : Nat) : (s.gcount n k).holds = s.holds :=
  State.holds_of_bare (State.bare_gcount ..)
@[simp] theorem State.holds_count (s : State) (p n k : Nat) : (s.count p n k).holds = s.holds :=
  State.holds_of_bare (State.bare_count ..)
@[simp] theorem State.holds_detect (s : State) (unit cls flags desc ctx layer operator job syn : Nat) : (s.detect unit cls flags desc ctx layer operator job syn).holds = s.holds :=
  State.holds_of_bare (State.bare_detect ..)

theorem State.slipMax_of_bare {s t : State} (h : t.bare = s.bare) : t.slipMax = s.slipMax :=
  State.of_bare State.slipMax (fun _ => rfl) h
@[simp] theorem State.slipMax_stageRec (s : State) (type body : Nat) : (s.stageRec type body).slipMax = s.slipMax :=
  State.slipMax_of_bare (State.bare_stageRec ..)
@[simp] theorem State.slipMax_event (s : State) (f : Fld) (unit job : Nat) : (s.event f unit job).slipMax = s.slipMax :=
  State.slipMax_of_bare (State.bare_event ..)
@[simp] theorem State.slipMax_eventUnit (s : State) (unit job : Nat) : (s.eventUnit unit job).slipMax = s.slipMax :=
  State.slipMax_of_bare (State.bare_eventUnit ..)
@[simp] theorem State.slipMax_gcount (s : State) (n k : Nat) : (s.gcount n k).slipMax = s.slipMax :=
  State.slipMax_of_bare (State.bare_gcount ..)
@[simp] theorem State.slipMax_count (s : State) (p n k : Nat) : (s.count p n k).slipMax = s.slipMax :=
  State.slipMax_of_bare (State.bare_count ..)
@[simp] theorem State.slipMax_detect (s : State) (unit cls flags desc ctx layer operator job syn : Nat) : (s.detect unit cls flags desc ctx layer operator job syn).slipMax = s.slipMax :=
  State.slipMax_of_bare (State.bare_detect ..)

theorem State.lastIssue_of_bare {s t : State} (h : t.bare = s.bare) : t.lastIssue = s.lastIssue :=
  State.of_bare State.lastIssue (fun _ => rfl) h
@[simp] theorem State.lastIssue_stageRec (s : State) (type body : Nat) : (s.stageRec type body).lastIssue = s.lastIssue :=
  State.lastIssue_of_bare (State.bare_stageRec ..)
@[simp] theorem State.lastIssue_event (s : State) (f : Fld) (unit job : Nat) : (s.event f unit job).lastIssue = s.lastIssue :=
  State.lastIssue_of_bare (State.bare_event ..)
@[simp] theorem State.lastIssue_eventUnit (s : State) (unit job : Nat) : (s.eventUnit unit job).lastIssue = s.lastIssue :=
  State.lastIssue_of_bare (State.bare_eventUnit ..)
@[simp] theorem State.lastIssue_gcount (s : State) (n k : Nat) : (s.gcount n k).lastIssue = s.lastIssue :=
  State.lastIssue_of_bare (State.bare_gcount ..)
@[simp] theorem State.lastIssue_count (s : State) (p n k : Nat) : (s.count p n k).lastIssue = s.lastIssue :=
  State.lastIssue_of_bare (State.bare_count ..)
@[simp] theorem State.lastIssue_detect (s : State) (unit cls flags desc ctx layer operator job syn : Nat) : (s.detect unit cls flags desc ctx layer operator job syn).lastIssue = s.lastIssue :=
  State.lastIssue_of_bare (State.bare_detect ..)

theorem State.startCyc_of_bare {s t : State} (h : t.bare = s.bare) : t.startCyc = s.startCyc :=
  State.of_bare State.startCyc (fun _ => rfl) h
@[simp] theorem State.startCyc_stageRec (s : State) (type body : Nat) : (s.stageRec type body).startCyc = s.startCyc :=
  State.startCyc_of_bare (State.bare_stageRec ..)
@[simp] theorem State.startCyc_event (s : State) (f : Fld) (unit job : Nat) : (s.event f unit job).startCyc = s.startCyc :=
  State.startCyc_of_bare (State.bare_event ..)
@[simp] theorem State.startCyc_eventUnit (s : State) (unit job : Nat) : (s.eventUnit unit job).startCyc = s.startCyc :=
  State.startCyc_of_bare (State.bare_eventUnit ..)
@[simp] theorem State.startCyc_gcount (s : State) (n k : Nat) : (s.gcount n k).startCyc = s.startCyc :=
  State.startCyc_of_bare (State.bare_gcount ..)
@[simp] theorem State.startCyc_count (s : State) (p n k : Nat) : (s.count p n k).startCyc = s.startCyc :=
  State.startCyc_of_bare (State.bare_count ..)
@[simp] theorem State.startCyc_detect (s : State) (unit cls flags desc ctx layer operator job syn : Nat) : (s.detect unit cls flags desc ctx layer operator job syn).startCyc = s.startCyc :=
  State.startCyc_of_bare (State.bare_detect ..)

theorem State.resetting_of_bare {s t : State} (h : t.bare = s.bare) : t.resetting = s.resetting :=
  State.of_bare State.resetting (fun _ => rfl) h
@[simp] theorem State.resetting_stageRec (s : State) (type body : Nat) : (s.stageRec type body).resetting = s.resetting :=
  State.resetting_of_bare (State.bare_stageRec ..)
@[simp] theorem State.resetting_event (s : State) (f : Fld) (unit job : Nat) : (s.event f unit job).resetting = s.resetting :=
  State.resetting_of_bare (State.bare_event ..)
@[simp] theorem State.resetting_eventUnit (s : State) (unit job : Nat) : (s.eventUnit unit job).resetting = s.resetting :=
  State.resetting_of_bare (State.bare_eventUnit ..)
@[simp] theorem State.resetting_gcount (s : State) (n k : Nat) : (s.gcount n k).resetting = s.resetting :=
  State.resetting_of_bare (State.bare_gcount ..)
@[simp] theorem State.resetting_count (s : State) (p n k : Nat) : (s.count p n k).resetting = s.resetting :=
  State.resetting_of_bare (State.bare_count ..)
@[simp] theorem State.resetting_detect (s : State) (unit cls flags desc ctx layer operator job syn : Nat) : (s.detect unit cls flags desc ctx layer operator job syn).resetting = s.resetting :=
  State.resetting_of_bare (State.bare_detect ..)

theorem State.trcBuf_of_bare {s t : State} (h : t.bare = s.bare) : t.trcBuf = s.trcBuf :=
  State.of_bare State.trcBuf (fun _ => rfl) h
@[simp] theorem State.trcBuf_stageRec (s : State) (type body : Nat) : (s.stageRec type body).trcBuf = s.trcBuf :=
  State.trcBuf_of_bare (State.bare_stageRec ..)
@[simp] theorem State.trcBuf_event (s : State) (f : Fld) (unit job : Nat) : (s.event f unit job).trcBuf = s.trcBuf :=
  State.trcBuf_of_bare (State.bare_event ..)
@[simp] theorem State.trcBuf_eventUnit (s : State) (unit job : Nat) : (s.eventUnit unit job).trcBuf = s.trcBuf :=
  State.trcBuf_of_bare (State.bare_eventUnit ..)
@[simp] theorem State.trcBuf_gcount (s : State) (n k : Nat) : (s.gcount n k).trcBuf = s.trcBuf :=
  State.trcBuf_of_bare (State.bare_gcount ..)
@[simp] theorem State.trcBuf_count (s : State) (p n k : Nat) : (s.count p n k).trcBuf = s.trcBuf :=
  State.trcBuf_of_bare (State.bare_count ..)
@[simp] theorem State.trcBuf_detect (s : State) (unit cls flags desc ctx layer operator job syn : Nat) : (s.detect unit cls flags desc ctx layer operator job syn).trcBuf = s.trcBuf :=
  State.trcBuf_of_bare (State.bare_detect ..)

theorem State.trc_of_bare {s t : State} (h : t.bare = s.bare) : t.trc = s.trc :=
  State.of_bare State.trc (fun _ => rfl) h
@[simp] theorem State.trc_stageRec (s : State) (type body : Nat) : (s.stageRec type body).trc = s.trc :=
  State.trc_of_bare (State.bare_stageRec ..)
@[simp] theorem State.trc_event (s : State) (f : Fld) (unit job : Nat) : (s.event f unit job).trc = s.trc :=
  State.trc_of_bare (State.bare_event ..)
@[simp] theorem State.trc_eventUnit (s : State) (unit job : Nat) : (s.eventUnit unit job).trc = s.trc :=
  State.trc_of_bare (State.bare_eventUnit ..)
@[simp] theorem State.trc_gcount (s : State) (n k : Nat) : (s.gcount n k).trc = s.trc :=
  State.trc_of_bare (State.bare_gcount ..)
@[simp] theorem State.trc_count (s : State) (p n k : Nat) : (s.count p n k).trc = s.trc :=
  State.trc_of_bare (State.bare_count ..)
@[simp] theorem State.trc_detect (s : State) (unit cls flags desc ctx layer operator job syn : Nat) : (s.detect unit cls flags desc ctx layer operator job syn).trc = s.trc :=
  State.trc_of_bare (State.bare_detect ..)

theorem State.owner_of_bare {s t : State} (h : t.bare = s.bare) : t.owner = s.owner :=
  State.of_bare State.owner (fun _ => rfl) h
@[simp] theorem State.owner_stageRec (s : State) (type body : Nat) : (s.stageRec type body).owner = s.owner :=
  State.owner_of_bare (State.bare_stageRec ..)
@[simp] theorem State.owner_event (s : State) (f : Fld) (unit job : Nat) : (s.event f unit job).owner = s.owner :=
  State.owner_of_bare (State.bare_event ..)
@[simp] theorem State.owner_eventUnit (s : State) (unit job : Nat) : (s.eventUnit unit job).owner = s.owner :=
  State.owner_of_bare (State.bare_eventUnit ..)
@[simp] theorem State.owner_gcount (s : State) (n k : Nat) : (s.gcount n k).owner = s.owner :=
  State.owner_of_bare (State.bare_gcount ..)
@[simp] theorem State.owner_count (s : State) (p n k : Nat) : (s.count p n k).owner = s.owner :=
  State.owner_of_bare (State.bare_count ..)
@[simp] theorem State.owner_detect (s : State) (unit cls flags desc ctx layer operator job syn : Nat) : (s.detect unit cls flags desc ctx layer operator job syn).owner = s.owner :=
  State.owner_of_bare (State.bare_detect ..)

theorem State.txq_of_bare {s t : State} (h : t.bare = s.bare) : t.txq = s.txq :=
  State.of_bare State.txq (fun _ => rfl) h
@[simp] theorem State.txq_stageRec (s : State) (type body : Nat) : (s.stageRec type body).txq = s.txq :=
  State.txq_of_bare (State.bare_stageRec ..)
@[simp] theorem State.txq_event (s : State) (f : Fld) (unit job : Nat) : (s.event f unit job).txq = s.txq :=
  State.txq_of_bare (State.bare_event ..)
@[simp] theorem State.txq_eventUnit (s : State) (unit job : Nat) : (s.eventUnit unit job).txq = s.txq :=
  State.txq_of_bare (State.bare_eventUnit ..)
@[simp] theorem State.txq_gcount (s : State) (n k : Nat) : (s.gcount n k).txq = s.txq :=
  State.txq_of_bare (State.bare_gcount ..)
@[simp] theorem State.txq_count (s : State) (p n k : Nat) : (s.count p n k).txq = s.txq :=
  State.txq_of_bare (State.bare_count ..)
@[simp] theorem State.txq_detect (s : State) (unit cls flags desc ctx layer operator job syn : Nat) : (s.detect unit cls flags desc ctx layer operator job syn).txq = s.txq :=
  State.txq_of_bare (State.bare_detect ..)

theorem State.intq_of_bare {s t : State} (h : t.bare = s.bare) : t.intq = s.intq :=
  State.of_bare State.intq (fun _ => rfl) h
@[simp] theorem State.intq_stageRec (s : State) (type body : Nat) : (s.stageRec type body).intq = s.intq :=
  State.intq_of_bare (State.bare_stageRec ..)
@[simp] theorem State.intq_event (s : State) (f : Fld) (unit job : Nat) : (s.event f unit job).intq = s.intq :=
  State.intq_of_bare (State.bare_event ..)
@[simp] theorem State.intq_eventUnit (s : State) (unit job : Nat) : (s.eventUnit unit job).intq = s.intq :=
  State.intq_of_bare (State.bare_eventUnit ..)
@[simp] theorem State.intq_gcount (s : State) (n k : Nat) : (s.gcount n k).intq = s.intq :=
  State.intq_of_bare (State.bare_gcount ..)
@[simp] theorem State.intq_count (s : State) (p n k : Nat) : (s.count p n k).intq = s.intq :=
  State.intq_of_bare (State.bare_count ..)
@[simp] theorem State.intq_detect (s : State) (unit cls flags desc ctx layer operator job syn : Nat) : (s.detect unit cls flags desc ctx layer operator job syn).intq = s.intq :=
  State.intq_of_bare (State.bare_detect ..)

theorem State.tblBad_of_bare {s t : State} (h : t.bare = s.bare) : t.tblBad = s.tblBad :=
  State.of_bare State.tblBad (fun _ => rfl) h
@[simp] theorem State.tblBad_stageRec (s : State) (type body : Nat) : (s.stageRec type body).tblBad = s.tblBad :=
  State.tblBad_of_bare (State.bare_stageRec ..)
@[simp] theorem State.tblBad_event (s : State) (f : Fld) (unit job : Nat) : (s.event f unit job).tblBad = s.tblBad :=
  State.tblBad_of_bare (State.bare_event ..)
@[simp] theorem State.tblBad_eventUnit (s : State) (unit job : Nat) : (s.eventUnit unit job).tblBad = s.tblBad :=
  State.tblBad_of_bare (State.bare_eventUnit ..)
@[simp] theorem State.tblBad_gcount (s : State) (n k : Nat) : (s.gcount n k).tblBad = s.tblBad :=
  State.tblBad_of_bare (State.bare_gcount ..)
@[simp] theorem State.tblBad_count (s : State) (p n k : Nat) : (s.count p n k).tblBad = s.tblBad :=
  State.tblBad_of_bare (State.bare_count ..)
@[simp] theorem State.tblBad_detect (s : State) (unit cls flags desc ctx layer operator job syn : Nat) : (s.detect unit cls flags desc ctx layer operator job syn).tblBad = s.tblBad :=
  State.tblBad_of_bare (State.bare_detect ..)

theorem State.logBroken_of_bare {s t : State} (h : t.bare = s.bare) : t.logBroken = s.logBroken :=
  State.of_bare State.logBroken (fun _ => rfl) h
@[simp] theorem State.logBroken_stageRec (s : State) (type body : Nat) : (s.stageRec type body).logBroken = s.logBroken :=
  State.logBroken_of_bare (State.bare_stageRec ..)
@[simp] theorem State.logBroken_event (s : State) (f : Fld) (unit job : Nat) : (s.event f unit job).logBroken = s.logBroken :=
  State.logBroken_of_bare (State.bare_event ..)
@[simp] theorem State.logBroken_eventUnit (s : State) (unit job : Nat) : (s.eventUnit unit job).logBroken = s.logBroken :=
  State.logBroken_of_bare (State.bare_eventUnit ..)
@[simp] theorem State.logBroken_gcount (s : State) (n k : Nat) : (s.gcount n k).logBroken = s.logBroken :=
  State.logBroken_of_bare (State.bare_gcount ..)
@[simp] theorem State.logBroken_count (s : State) (p n k : Nat) : (s.count p n k).logBroken = s.logBroken :=
  State.logBroken_of_bare (State.bare_count ..)
@[simp] theorem State.logBroken_detect (s : State) (unit cls flags desc ctx layer operator job syn : Nat) : (s.detect unit cls flags desc ctx layer operator job syn).logBroken = s.logBroken :=
  State.logBroken_of_bare (State.bare_detect ..)

theorem State.links_of_bare {s t : State} (h : t.bare = s.bare) : t.links = s.links :=
  State.of_bare State.links (fun _ => rfl) h
@[simp] theorem State.links_stageRec (s : State) (type body : Nat) : (s.stageRec type body).links = s.links :=
  State.links_of_bare (State.bare_stageRec ..)
@[simp] theorem State.links_event (s : State) (f : Fld) (unit job : Nat) : (s.event f unit job).links = s.links :=
  State.links_of_bare (State.bare_event ..)
@[simp] theorem State.links_eventUnit (s : State) (unit job : Nat) : (s.eventUnit unit job).links = s.links :=
  State.links_of_bare (State.bare_eventUnit ..)
@[simp] theorem State.links_gcount (s : State) (n k : Nat) : (s.gcount n k).links = s.links :=
  State.links_of_bare (State.bare_gcount ..)
@[simp] theorem State.links_count (s : State) (p n k : Nat) : (s.count p n k).links = s.links :=
  State.links_of_bare (State.bare_count ..)
@[simp] theorem State.links_detect (s : State) (unit cls flags desc ctx layer operator job syn : Nat) : (s.detect unit cls flags desc ctx layer operator job syn).links = s.links :=
  State.links_of_bare (State.bare_detect ..)

theorem State.buckets_of_bare {s t : State} (h : t.bare = s.bare) : t.buckets = s.buckets :=
  State.of_bare State.buckets (fun _ => rfl) h
@[simp] theorem State.buckets_stageRec (s : State) (type body : Nat) : (s.stageRec type body).buckets = s.buckets :=
  State.buckets_of_bare (State.bare_stageRec ..)
@[simp] theorem State.buckets_event (s : State) (f : Fld) (unit job : Nat) : (s.event f unit job).buckets = s.buckets :=
  State.buckets_of_bare (State.bare_event ..)
@[simp] theorem State.buckets_eventUnit (s : State) (unit job : Nat) : (s.eventUnit unit job).buckets = s.buckets :=
  State.buckets_of_bare (State.bare_eventUnit ..)
@[simp] theorem State.buckets_gcount (s : State) (n k : Nat) : (s.gcount n k).buckets = s.buckets :=
  State.buckets_of_bare (State.bare_gcount ..)
@[simp] theorem State.buckets_count (s : State) (p n k : Nat) : (s.count p n k).buckets = s.buckets :=
  State.buckets_of_bare (State.bare_count ..)
@[simp] theorem State.buckets_detect (s : State) (unit cls flags desc ctx layer operator job syn : Nat) : (s.detect unit cls flags desc ctx layer operator job syn).buckets = s.buckets :=
  State.buckets_of_bare (State.bare_detect ..)

theorem State.slotUse_of_bare {s t : State} (h : t.bare = s.bare) : t.slotUse = s.slotUse :=
  State.of_bare State.slotUse (fun _ => rfl) h
@[simp] theorem State.slotUse_stageRec (s : State) (type body : Nat) : (s.stageRec type body).slotUse = s.slotUse :=
  State.slotUse_of_bare (State.bare_stageRec ..)
@[simp] theorem State.slotUse_event (s : State) (f : Fld) (unit job : Nat) : (s.event f unit job).slotUse = s.slotUse :=
  State.slotUse_of_bare (State.bare_event ..)
@[simp] theorem State.slotUse_eventUnit (s : State) (unit job : Nat) : (s.eventUnit unit job).slotUse = s.slotUse :=
  State.slotUse_of_bare (State.bare_eventUnit ..)
@[simp] theorem State.slotUse_gcount (s : State) (n k : Nat) : (s.gcount n k).slotUse = s.slotUse :=
  State.slotUse_of_bare (State.bare_gcount ..)
@[simp] theorem State.slotUse_count (s : State) (p n k : Nat) : (s.count p n k).slotUse = s.slotUse :=
  State.slotUse_of_bare (State.bare_count ..)
@[simp] theorem State.slotUse_detect (s : State) (unit cls flags desc ctx layer operator job syn : Nat) : (s.detect unit cls flags desc ctx layer operator job syn).slotUse = s.slotUse :=
  State.slotUse_of_bare (State.bare_detect ..)

theorem State.flowHold_of_bare {s t : State} (h : t.bare = s.bare) : t.flowHold = s.flowHold :=
  State.of_bare State.flowHold (fun _ => rfl) h
@[simp] theorem State.flowHold_stageRec (s : State) (type body : Nat) : (s.stageRec type body).flowHold = s.flowHold :=
  State.flowHold_of_bare (State.bare_stageRec ..)
@[simp] theorem State.flowHold_event (s : State) (f : Fld) (unit job : Nat) : (s.event f unit job).flowHold = s.flowHold :=
  State.flowHold_of_bare (State.bare_event ..)
@[simp] theorem State.flowHold_eventUnit (s : State) (unit job : Nat) : (s.eventUnit unit job).flowHold = s.flowHold :=
  State.flowHold_of_bare (State.bare_eventUnit ..)
@[simp] theorem State.flowHold_gcount (s : State) (n k : Nat) : (s.gcount n k).flowHold = s.flowHold :=
  State.flowHold_of_bare (State.bare_gcount ..)
@[simp] theorem State.flowHold_count (s : State) (p n k : Nat) : (s.count p n k).flowHold = s.flowHold :=
  State.flowHold_of_bare (State.bare_count ..)
@[simp] theorem State.flowHold_detect (s : State) (unit cls flags desc ctx layer operator job syn : Nat) : (s.detect unit cls flags desc ctx layer operator job syn).flowHold = s.flowHold :=
  State.flowHold_of_bare (State.bare_detect ..)

theorem State.flowDrain_of_bare {s t : State} (h : t.bare = s.bare) : t.flowDrain = s.flowDrain :=
  State.of_bare State.flowDrain (fun _ => rfl) h
@[simp] theorem State.flowDrain_stageRec (s : State) (type body : Nat) : (s.stageRec type body).flowDrain = s.flowDrain :=
  State.flowDrain_of_bare (State.bare_stageRec ..)
@[simp] theorem State.flowDrain_event (s : State) (f : Fld) (unit job : Nat) : (s.event f unit job).flowDrain = s.flowDrain :=
  State.flowDrain_of_bare (State.bare_event ..)
@[simp] theorem State.flowDrain_eventUnit (s : State) (unit job : Nat) : (s.eventUnit unit job).flowDrain = s.flowDrain :=
  State.flowDrain_of_bare (State.bare_eventUnit ..)
@[simp] theorem State.flowDrain_gcount (s : State) (n k : Nat) : (s.gcount n k).flowDrain = s.flowDrain :=
  State.flowDrain_of_bare (State.bare_gcount ..)
@[simp] theorem State.flowDrain_count (s : State) (p n k : Nat) : (s.count p n k).flowDrain = s.flowDrain :=
  State.flowDrain_of_bare (State.bare_count ..)
@[simp] theorem State.flowDrain_detect (s : State) (unit cls flags desc ctx layer operator job syn : Nat) : (s.detect unit cls flags desc ctx layer operator job syn).flowDrain = s.flowDrain :=
  State.flowDrain_of_bare (State.bare_detect ..)

theorem State.colls_of_bare {s t : State} (h : t.bare = s.bare) : t.colls = s.colls :=
  State.of_bare State.colls (fun _ => rfl) h
@[simp] theorem State.colls_stageRec (s : State) (type body : Nat) : (s.stageRec type body).colls = s.colls :=
  State.colls_of_bare (State.bare_stageRec ..)
@[simp] theorem State.colls_event (s : State) (f : Fld) (unit job : Nat) : (s.event f unit job).colls = s.colls :=
  State.colls_of_bare (State.bare_event ..)
@[simp] theorem State.colls_eventUnit (s : State) (unit job : Nat) : (s.eventUnit unit job).colls = s.colls :=
  State.colls_of_bare (State.bare_eventUnit ..)
@[simp] theorem State.colls_gcount (s : State) (n k : Nat) : (s.gcount n k).colls = s.colls :=
  State.colls_of_bare (State.bare_gcount ..)
@[simp] theorem State.colls_count (s : State) (p n k : Nat) : (s.count p n k).colls = s.colls :=
  State.colls_of_bare (State.bare_count ..)
@[simp] theorem State.colls_detect (s : State) (unit cls flags desc ctx layer operator job syn : Nat) : (s.detect unit cls flags desc ctx layer operator job syn).colls = s.colls :=
  State.colls_of_bare (State.bare_detect ..)

theorem State.ops_of_bare {s t : State} (h : t.bare = s.bare) : t.ops = s.ops :=
  State.of_bare State.ops (fun _ => rfl) h
@[simp] theorem State.ops_stageRec (s : State) (type body : Nat) : (s.stageRec type body).ops = s.ops :=
  State.ops_of_bare (State.bare_stageRec ..)
@[simp] theorem State.ops_event (s : State) (f : Fld) (unit job : Nat) : (s.event f unit job).ops = s.ops :=
  State.ops_of_bare (State.bare_event ..)
@[simp] theorem State.ops_eventUnit (s : State) (unit job : Nat) : (s.eventUnit unit job).ops = s.ops :=
  State.ops_of_bare (State.bare_eventUnit ..)
@[simp] theorem State.ops_gcount (s : State) (n k : Nat) : (s.gcount n k).ops = s.ops :=
  State.ops_of_bare (State.bare_gcount ..)
@[simp] theorem State.ops_count (s : State) (p n k : Nat) : (s.count p n k).ops = s.ops :=
  State.ops_of_bare (State.bare_count ..)
@[simp] theorem State.ops_detect (s : State) (unit cls flags desc ctx layer operator job syn : Nat) : (s.detect unit cls flags desc ctx layer operator job syn).ops = s.ops :=
  State.ops_of_bare (State.bare_detect ..)

theorem State.ended_of_bare {s t : State} (h : t.bare = s.bare) : t.ended = s.ended :=
  State.of_bare State.ended (fun _ => rfl) h
@[simp] theorem State.ended_stageRec (s : State) (type body : Nat) : (s.stageRec type body).ended = s.ended :=
  State.ended_of_bare (State.bare_stageRec ..)
@[simp] theorem State.ended_event (s : State) (f : Fld) (unit job : Nat) : (s.event f unit job).ended = s.ended :=
  State.ended_of_bare (State.bare_event ..)
@[simp] theorem State.ended_eventUnit (s : State) (unit job : Nat) : (s.eventUnit unit job).ended = s.ended :=
  State.ended_of_bare (State.bare_eventUnit ..)
@[simp] theorem State.ended_gcount (s : State) (n k : Nat) : (s.gcount n k).ended = s.ended :=
  State.ended_of_bare (State.bare_gcount ..)
@[simp] theorem State.ended_count (s : State) (p n k : Nat) : (s.count p n k).ended = s.ended :=
  State.ended_of_bare (State.bare_count ..)
@[simp] theorem State.ended_detect (s : State) (unit cls flags desc ctx layer operator job syn : Nat) : (s.detect unit cls flags desc ctx layer operator job syn).ended = s.ended :=
  State.ended_of_bare (State.bare_detect ..)

theorem State.out_of_bare {s t : State} (h : t.bare = s.bare) : t.out = s.out :=
  State.of_bare State.out (fun _ => rfl) h
@[simp] theorem State.out_stageRec (s : State) (type body : Nat) : (s.stageRec type body).out = s.out :=
  State.out_of_bare (State.bare_stageRec ..)
@[simp] theorem State.out_event (s : State) (f : Fld) (unit job : Nat) : (s.event f unit job).out = s.out :=
  State.out_of_bare (State.bare_event ..)
@[simp] theorem State.out_eventUnit (s : State) (unit job : Nat) : (s.eventUnit unit job).out = s.out :=
  State.out_of_bare (State.bare_eventUnit ..)
@[simp] theorem State.out_gcount (s : State) (n k : Nat) : (s.gcount n k).out = s.out :=
  State.out_of_bare (State.bare_gcount ..)
@[simp] theorem State.out_count (s : State) (p n k : Nat) : (s.count p n k).out = s.out :=
  State.out_of_bare (State.bare_count ..)
@[simp] theorem State.out_detect (s : State) (unit cls flags desc ctx layer operator job syn : Nat) : (s.detect unit cls flags desc ctx layer operator job syn).out = s.out :=
  State.out_of_bare (State.bare_detect ..)

theorem State.boot_of_bare {s t : State} (h : t.bare = s.bare) : t.boot = s.boot :=
  State.of_bare State.boot (fun _ => rfl) h
@[simp] theorem State.boot_stageRec (s : State) (type body : Nat) : (s.stageRec type body).boot = s.boot :=
  State.boot_of_bare (State.bare_stageRec ..)
@[simp] theorem State.boot_event (s : State) (f : Fld) (unit job : Nat) : (s.event f unit job).boot = s.boot :=
  State.boot_of_bare (State.bare_event ..)
@[simp] theorem State.boot_eventUnit (s : State) (unit job : Nat) : (s.eventUnit unit job).boot = s.boot :=
  State.boot_of_bare (State.bare_eventUnit ..)
@[simp] theorem State.boot_gcount (s : State) (n k : Nat) : (s.gcount n k).boot = s.boot :=
  State.boot_of_bare (State.bare_gcount ..)
@[simp] theorem State.boot_count (s : State) (p n k : Nat) : (s.count p n k).boot = s.boot :=
  State.boot_of_bare (State.bare_count ..)
@[simp] theorem State.boot_detect (s : State) (unit cls flags desc ctx layer operator job syn : Nat) : (s.detect unit cls flags desc ctx layer operator job syn).boot = s.boot :=
  State.boot_of_bare (State.bare_detect ..)

theorem State.pins_of_bare {s t : State} (h : t.bare = s.bare) : t.pins = s.pins :=
  State.of_bare State.pins (fun _ => rfl) h
@[simp] theorem State.pins_stageRec (s : State) (type body : Nat) : (s.stageRec type body).pins = s.pins :=
  State.pins_of_bare (State.bare_stageRec ..)
@[simp] theorem State.pins_event (s : State) (f : Fld) (unit job : Nat) : (s.event f unit job).pins = s.pins :=
  State.pins_of_bare (State.bare_event ..)
@[simp] theorem State.pins_eventUnit (s : State) (unit job : Nat) : (s.eventUnit unit job).pins = s.pins :=
  State.pins_of_bare (State.bare_eventUnit ..)
@[simp] theorem State.pins_gcount (s : State) (n k : Nat) : (s.gcount n k).pins = s.pins :=
  State.pins_of_bare (State.bare_gcount ..)
@[simp] theorem State.pins_count (s : State) (p n k : Nat) : (s.count p n k).pins = s.pins :=
  State.pins_of_bare (State.bare_count ..)
@[simp] theorem State.pins_detect (s : State) (unit cls flags desc ctx layer operator job syn : Nat) : (s.detect unit cls flags desc ctx layer operator job syn).pins = s.pins :=
  State.pins_of_bare (State.bare_detect ..)

theorem State.perst_of_bare {s t : State} (h : t.bare = s.bare) : t.perst = s.perst :=
  State.of_bare State.perst (fun _ => rfl) h
@[simp] theorem State.perst_stageRec (s : State) (type body : Nat) : (s.stageRec type body).perst = s.perst :=
  State.perst_of_bare (State.bare_stageRec ..)
@[simp] theorem State.perst_event (s : State) (f : Fld) (unit job : Nat) : (s.event f unit job).perst = s.perst :=
  State.perst_of_bare (State.bare_event ..)
@[simp] theorem State.perst_eventUnit (s : State) (unit job : Nat) : (s.eventUnit unit job).perst = s.perst :=
  State.perst_of_bare (State.bare_eventUnit ..)
@[simp] theorem State.perst_gcount (s : State) (n k : Nat) : (s.gcount n k).perst = s.perst :=
  State.perst_of_bare (State.bare_gcount ..)
@[simp] theorem State.perst_count (s : State) (p n k : Nat) : (s.count p n k).perst = s.perst :=
  State.perst_of_bare (State.bare_count ..)
@[simp] theorem State.perst_detect (s : State) (unit cls flags desc ctx layer operator job syn : Nat) : (s.detect unit cls flags desc ctx layer operator job syn).perst = s.perst :=
  State.perst_of_bare (State.bare_detect ..)

theorem State.uhs_of_bare {s t : State} (h : t.bare = s.bare) : t.uhs = s.uhs :=
  State.of_bare State.uhs (fun _ => rfl) h
@[simp] theorem State.uhs_stageRec (s : State) (type body : Nat) : (s.stageRec type body).uhs = s.uhs :=
  State.uhs_of_bare (State.bare_stageRec ..)
@[simp] theorem State.uhs_event (s : State) (f : Fld) (unit job : Nat) : (s.event f unit job).uhs = s.uhs :=
  State.uhs_of_bare (State.bare_event ..)
@[simp] theorem State.uhs_eventUnit (s : State) (unit job : Nat) : (s.eventUnit unit job).uhs = s.uhs :=
  State.uhs_of_bare (State.bare_eventUnit ..)
@[simp] theorem State.uhs_gcount (s : State) (n k : Nat) : (s.gcount n k).uhs = s.uhs :=
  State.uhs_of_bare (State.bare_gcount ..)
@[simp] theorem State.uhs_count (s : State) (p n k : Nat) : (s.count p n k).uhs = s.uhs :=
  State.uhs_of_bare (State.bare_count ..)
@[simp] theorem State.uhs_detect (s : State) (unit cls flags desc ctx layer operator job syn : Nat) : (s.detect unit cls flags desc ctx layer operator job syn).uhs = s.uhs :=
  State.uhs_of_bare (State.bare_detect ..)

theorem State.dets_of_bare {s t : State} (h : t.bare = s.bare) : t.dets = s.dets :=
  State.of_bare State.dets (fun _ => rfl) h
@[simp] theorem State.dets_stageRec (s : State) (type body : Nat) : (s.stageRec type body).dets = s.dets :=
  State.dets_of_bare (State.bare_stageRec ..)
@[simp] theorem State.dets_event (s : State) (f : Fld) (unit job : Nat) : (s.event f unit job).dets = s.dets :=
  State.dets_of_bare (State.bare_event ..)
@[simp] theorem State.dets_eventUnit (s : State) (unit job : Nat) : (s.eventUnit unit job).dets = s.dets :=
  State.dets_of_bare (State.bare_eventUnit ..)
@[simp] theorem State.dets_gcount (s : State) (n k : Nat) : (s.gcount n k).dets = s.dets :=
  State.dets_of_bare (State.bare_gcount ..)
@[simp] theorem State.dets_count (s : State) (p n k : Nat) : (s.count p n k).dets = s.dets :=
  State.dets_of_bare (State.bare_count ..)
@[simp] theorem State.dets_detect (s : State) (unit cls flags desc ctx layer operator job syn : Nat) : (s.detect unit cls flags desc ctx layer operator job syn).dets = s.dets :=
  State.dets_of_bare (State.bare_detect ..)

theorem State.detLog_of_bare {s t : State} (h : t.bare = s.bare) : t.detLog = s.detLog :=
  State.of_bare State.detLog (fun _ => rfl) h
@[simp] theorem State.detLog_stageRec (s : State) (type body : Nat) : (s.stageRec type body).detLog = s.detLog :=
  State.detLog_of_bare (State.bare_stageRec ..)
@[simp] theorem State.detLog_event (s : State) (f : Fld) (unit job : Nat) : (s.event f unit job).detLog = s.detLog :=
  State.detLog_of_bare (State.bare_event ..)
@[simp] theorem State.detLog_eventUnit (s : State) (unit job : Nat) : (s.eventUnit unit job).detLog = s.detLog :=
  State.detLog_of_bare (State.bare_eventUnit ..)
@[simp] theorem State.detLog_gcount (s : State) (n k : Nat) : (s.gcount n k).detLog = s.detLog :=
  State.detLog_of_bare (State.bare_gcount ..)
@[simp] theorem State.detLog_count (s : State) (p n k : Nat) : (s.count p n k).detLog = s.detLog :=
  State.detLog_of_bare (State.bare_count ..)
@[simp] theorem State.detLog_detect (s : State) (unit cls flags desc ctx layer operator job syn : Nat) : (s.detect unit cls flags desc ctx layer operator job syn).detLog = s.detLog :=
  State.detLog_of_bare (State.bare_detect ..)

theorem State.expo_of_bare {s t : State} (h : t.bare = s.bare) : t.expo = s.expo :=
  State.of_bare State.expo (fun _ => rfl) h
@[simp] theorem State.expo_stageRec (s : State) (type body : Nat) : (s.stageRec type body).expo = s.expo :=
  State.expo_of_bare (State.bare_stageRec ..)
@[simp] theorem State.expo_event (s : State) (f : Fld) (unit job : Nat) : (s.event f unit job).expo = s.expo :=
  State.expo_of_bare (State.bare_event ..)
@[simp] theorem State.expo_eventUnit (s : State) (unit job : Nat) : (s.eventUnit unit job).expo = s.expo :=
  State.expo_of_bare (State.bare_eventUnit ..)
@[simp] theorem State.expo_gcount (s : State) (n k : Nat) : (s.gcount n k).expo = s.expo :=
  State.expo_of_bare (State.bare_gcount ..)
@[simp] theorem State.expo_count (s : State) (p n k : Nat) : (s.count p n k).expo = s.expo :=
  State.expo_of_bare (State.bare_count ..)
@[simp] theorem State.expo_detect (s : State) (unit cls flags desc ctx layer operator job syn : Nat) : (s.detect unit cls flags desc ctx layer operator job syn).expo = s.expo :=
  State.expo_of_bare (State.bare_detect ..)

theorem State.expoDay_of_bare {s t : State} (h : t.bare = s.bare) : t.expoDay = s.expoDay :=
  State.of_bare State.expoDay (fun _ => rfl) h
@[simp] theorem State.expoDay_stageRec (s : State) (type body : Nat) : (s.stageRec type body).expoDay = s.expoDay :=
  State.expoDay_of_bare (State.bare_stageRec ..)
@[simp] theorem State.expoDay_event (s : State) (f : Fld) (unit job : Nat) : (s.event f unit job).expoDay = s.expoDay :=
  State.expoDay_of_bare (State.bare_event ..)
@[simp] theorem State.expoDay_eventUnit (s : State) (unit job : Nat) : (s.eventUnit unit job).expoDay = s.expoDay :=
  State.expoDay_of_bare (State.bare_eventUnit ..)
@[simp] theorem State.expoDay_gcount (s : State) (n k : Nat) : (s.gcount n k).expoDay = s.expoDay :=
  State.expoDay_of_bare (State.bare_gcount ..)
@[simp] theorem State.expoDay_count (s : State) (p n k : Nat) : (s.count p n k).expoDay = s.expoDay :=
  State.expoDay_of_bare (State.bare_count ..)
@[simp] theorem State.expoDay_detect (s : State) (unit cls flags desc ctx layer operator job syn : Nat) : (s.detect unit cls flags desc ctx layer operator job syn).expoDay = s.expoDay :=
  State.expoDay_of_bare (State.bare_detect ..)

theorem State.activity_of_bare {s t : State} (h : t.bare = s.bare) : t.activity = s.activity :=
  State.of_bare State.activity (fun _ => rfl) h
@[simp] theorem State.activity_stageRec (s : State) (type body : Nat) : (s.stageRec type body).activity = s.activity :=
  State.activity_of_bare (State.bare_stageRec ..)
@[simp] theorem State.activity_event (s : State) (f : Fld) (unit job : Nat) : (s.event f unit job).activity = s.activity :=
  State.activity_of_bare (State.bare_event ..)
@[simp] theorem State.activity_eventUnit (s : State) (unit job : Nat) : (s.eventUnit unit job).activity = s.activity :=
  State.activity_of_bare (State.bare_eventUnit ..)
@[simp] theorem State.activity_gcount (s : State) (n k : Nat) : (s.gcount n k).activity = s.activity :=
  State.activity_of_bare (State.bare_gcount ..)
@[simp] theorem State.activity_count (s : State) (p n k : Nat) : (s.count p n k).activity = s.activity :=
  State.activity_of_bare (State.bare_count ..)
@[simp] theorem State.activity_detect (s : State) (unit cls flags desc ctx layer operator job syn : Nat) : (s.detect unit cls flags desc ctx layer operator job syn).activity = s.activity :=
  State.activity_of_bare (State.bare_detect ..)

theorem State.guards_of_bare {s t : State} (h : t.bare = s.bare) : t.guards = s.guards :=
  State.of_bare State.guards (fun _ => rfl) h
@[simp] theorem State.guards_stageRec (s : State) (type body : Nat) : (s.stageRec type body).guards = s.guards :=
  State.guards_of_bare (State.bare_stageRec ..)
@[simp] theorem State.guards_event (s : State) (f : Fld) (unit job : Nat) : (s.event f unit job).guards = s.guards :=
  State.guards_of_bare (State.bare_event ..)
@[simp] theorem State.guards_eventUnit (s : State) (unit job : Nat) : (s.eventUnit unit job).guards = s.guards :=
  State.guards_of_bare (State.bare_eventUnit ..)
@[simp] theorem State.guards_gcount (s : State) (n k : Nat) : (s.gcount n k).guards = s.guards :=
  State.guards_of_bare (State.bare_gcount ..)
@[simp] theorem State.guards_count (s : State) (p n k : Nat) : (s.count p n k).guards = s.guards :=
  State.guards_of_bare (State.bare_count ..)
@[simp] theorem State.guards_detect (s : State) (unit cls flags desc ctx layer operator job syn : Nat) : (s.detect unit cls flags desc ctx layer operator job syn).guards = s.guards :=
  State.guards_of_bare (State.bare_detect ..)

theorem State.uhsDirty_of_bare {s t : State} (h : t.bare = s.bare) : t.uhsDirty = s.uhsDirty :=
  State.of_bare State.uhsDirty (fun _ => rfl) h
@[simp] theorem State.uhsDirty_stageRec (s : State) (type body : Nat) : (s.stageRec type body).uhsDirty = s.uhsDirty :=
  State.uhsDirty_of_bare (State.bare_stageRec ..)
@[simp] theorem State.uhsDirty_event (s : State) (f : Fld) (unit job : Nat) : (s.event f unit job).uhsDirty = s.uhsDirty :=
  State.uhsDirty_of_bare (State.bare_event ..)
@[simp] theorem State.uhsDirty_eventUnit (s : State) (unit job : Nat) : (s.eventUnit unit job).uhsDirty = s.uhsDirty :=
  State.uhsDirty_of_bare (State.bare_eventUnit ..)
@[simp] theorem State.uhsDirty_gcount (s : State) (n k : Nat) : (s.gcount n k).uhsDirty = s.uhsDirty :=
  State.uhsDirty_of_bare (State.bare_gcount ..)
@[simp] theorem State.uhsDirty_count (s : State) (p n k : Nat) : (s.count p n k).uhsDirty = s.uhsDirty :=
  State.uhsDirty_of_bare (State.bare_count ..)
@[simp] theorem State.uhsDirty_detect (s : State) (unit cls flags desc ctx layer operator job syn : Nat) : (s.detect unit cls flags desc ctx layer operator job syn).uhsDirty = s.uhsDirty :=
  State.uhsDirty_of_bare (State.bare_detect ..)

theorem State.copyMin_of_bare {s t : State} (h : t.bare = s.bare) : t.copyMin = s.copyMin :=
  State.of_bare State.copyMin (fun _ => rfl) h
@[simp] theorem State.copyMin_stageRec (s : State) (type body : Nat) : (s.stageRec type body).copyMin = s.copyMin :=
  State.copyMin_of_bare (State.bare_stageRec ..)
@[simp] theorem State.copyMin_event (s : State) (f : Fld) (unit job : Nat) : (s.event f unit job).copyMin = s.copyMin :=
  State.copyMin_of_bare (State.bare_event ..)
@[simp] theorem State.copyMin_eventUnit (s : State) (unit job : Nat) : (s.eventUnit unit job).copyMin = s.copyMin :=
  State.copyMin_of_bare (State.bare_eventUnit ..)
@[simp] theorem State.copyMin_gcount (s : State) (n k : Nat) : (s.gcount n k).copyMin = s.copyMin :=
  State.copyMin_of_bare (State.bare_gcount ..)
@[simp] theorem State.copyMin_count (s : State) (p n k : Nat) : (s.count p n k).copyMin = s.copyMin :=
  State.copyMin_of_bare (State.bare_count ..)
@[simp] theorem State.copyMin_detect (s : State) (unit cls flags desc ctx layer operator job syn : Nat) : (s.detect unit cls flags desc ctx layer operator job syn).copyMin = s.copyMin :=
  State.copyMin_of_bare (State.bare_detect ..)

theorem State.copies_of_bare {s t : State} (h : t.bare = s.bare) : t.copies = s.copies :=
  State.of_bare State.copies (fun _ => rfl) h
@[simp] theorem State.copies_stageRec (s : State) (type body : Nat) : (s.stageRec type body).copies = s.copies :=
  State.copies_of_bare (State.bare_stageRec ..)
@[simp] theorem State.copies_event (s : State) (f : Fld) (unit job : Nat) : (s.event f unit job).copies = s.copies :=
  State.copies_of_bare (State.bare_event ..)
@[simp] theorem State.copies_eventUnit (s : State) (unit job : Nat) : (s.eventUnit unit job).copies = s.copies :=
  State.copies_of_bare (State.bare_eventUnit ..)
@[simp] theorem State.copies_gcount (s : State) (n k : Nat) : (s.gcount n k).copies = s.copies :=
  State.copies_of_bare (State.bare_gcount ..)
@[simp] theorem State.copies_count (s : State) (p n k : Nat) : (s.count p n k).copies = s.copies :=
  State.copies_of_bare (State.bare_count ..)
@[simp] theorem State.copies_detect (s : State) (unit cls flags desc ctx layer operator job syn : Nat) : (s.detect unit cls flags desc ctx layer operator job syn).copies = s.copies :=
  State.copies_of_bare (State.bare_detect ..)

theorem State.retires_of_bare {s t : State} (h : t.bare = s.bare) : t.retires = s.retires :=
  State.of_bare State.retires (fun _ => rfl) h
@[simp] theorem State.retires_stageRec (s : State) (type body : Nat) : (s.stageRec type body).retires = s.retires :=
  State.retires_of_bare (State.bare_stageRec ..)
@[simp] theorem State.retires_event (s : State) (f : Fld) (unit job : Nat) : (s.event f unit job).retires = s.retires :=
  State.retires_of_bare (State.bare_event ..)
@[simp] theorem State.retires_eventUnit (s : State) (unit job : Nat) : (s.eventUnit unit job).retires = s.retires :=
  State.retires_of_bare (State.bare_eventUnit ..)
@[simp] theorem State.retires_gcount (s : State) (n k : Nat) : (s.gcount n k).retires = s.retires :=
  State.retires_of_bare (State.bare_gcount ..)
@[simp] theorem State.retires_count (s : State) (p n k : Nat) : (s.count p n k).retires = s.retires :=
  State.retires_of_bare (State.bare_count ..)
@[simp] theorem State.retires_detect (s : State) (unit cls flags desc ctx layer operator job syn : Nat) : (s.detect unit cls flags desc ctx layer operator job syn).retires = s.retires :=
  State.retires_of_bare (State.bare_detect ..)

theorem State.rstLog_of_bare {s t : State} (h : t.bare = s.bare) : t.rstLog = s.rstLog :=
  State.of_bare State.rstLog (fun _ => rfl) h
@[simp] theorem State.rstLog_stageRec (s : State) (type body : Nat) : (s.stageRec type body).rstLog = s.rstLog :=
  State.rstLog_of_bare (State.bare_stageRec ..)
@[simp] theorem State.rstLog_event (s : State) (f : Fld) (unit job : Nat) : (s.event f unit job).rstLog = s.rstLog :=
  State.rstLog_of_bare (State.bare_event ..)
@[simp] theorem State.rstLog_eventUnit (s : State) (unit job : Nat) : (s.eventUnit unit job).rstLog = s.rstLog :=
  State.rstLog_of_bare (State.bare_eventUnit ..)
@[simp] theorem State.rstLog_gcount (s : State) (n k : Nat) : (s.gcount n k).rstLog = s.rstLog :=
  State.rstLog_of_bare (State.bare_gcount ..)
@[simp] theorem State.rstLog_count (s : State) (p n k : Nat) : (s.count p n k).rstLog = s.rstLog :=
  State.rstLog_of_bare (State.bare_count ..)
@[simp] theorem State.rstLog_detect (s : State) (unit cls flags desc ctx layer operator job syn : Nat) : (s.detect unit cls flags desc ctx layer operator job syn).rstLog = s.rstLog :=
  State.rstLog_of_bare (State.bare_detect ..)

theorem State.rstRun_of_bare {s t : State} (h : t.bare = s.bare) : t.rstRun = s.rstRun :=
  State.of_bare State.rstRun (fun _ => rfl) h
@[simp] theorem State.rstRun_stageRec (s : State) (type body : Nat) : (s.stageRec type body).rstRun = s.rstRun :=
  State.rstRun_of_bare (State.bare_stageRec ..)
@[simp] theorem State.rstRun_event (s : State) (f : Fld) (unit job : Nat) : (s.event f unit job).rstRun = s.rstRun :=
  State.rstRun_of_bare (State.bare_event ..)
@[simp] theorem State.rstRun_eventUnit (s : State) (unit job : Nat) : (s.eventUnit unit job).rstRun = s.rstRun :=
  State.rstRun_of_bare (State.bare_eventUnit ..)
@[simp] theorem State.rstRun_gcount (s : State) (n k : Nat) : (s.gcount n k).rstRun = s.rstRun :=
  State.rstRun_of_bare (State.bare_gcount ..)
@[simp] theorem State.rstRun_count (s : State) (p n k : Nat) : (s.count p n k).rstRun = s.rstRun :=
  State.rstRun_of_bare (State.bare_count ..)
@[simp] theorem State.rstRun_detect (s : State) (unit cls flags desc ctx layer operator job syn : Nat) : (s.detect unit cls flags desc ctx layer operator job syn).rstRun = s.rstRun :=
  State.rstRun_of_bare (State.bare_detect ..)

theorem State.jobOut_of_bare {s t : State} (h : t.bare = s.bare) : t.jobOut = s.jobOut :=
  State.of_bare State.jobOut (fun _ => rfl) h
@[simp] theorem State.jobOut_stageRec (s : State) (type body : Nat) : (s.stageRec type body).jobOut = s.jobOut :=
  State.jobOut_of_bare (State.bare_stageRec ..)
@[simp] theorem State.jobOut_event (s : State) (f : Fld) (unit job : Nat) : (s.event f unit job).jobOut = s.jobOut :=
  State.jobOut_of_bare (State.bare_event ..)
@[simp] theorem State.jobOut_eventUnit (s : State) (unit job : Nat) : (s.eventUnit unit job).jobOut = s.jobOut :=
  State.jobOut_of_bare (State.bare_eventUnit ..)
@[simp] theorem State.jobOut_gcount (s : State) (n k : Nat) : (s.gcount n k).jobOut = s.jobOut :=
  State.jobOut_of_bare (State.bare_gcount ..)
@[simp] theorem State.jobOut_count (s : State) (p n k : Nat) : (s.count p n k).jobOut = s.jobOut :=
  State.jobOut_of_bare (State.bare_count ..)
@[simp] theorem State.jobOut_detect (s : State) (unit cls flags desc ctx layer operator job syn : Nat) : (s.detect unit cls flags desc ctx layer operator job syn).jobOut = s.jobOut :=
  State.jobOut_of_bare (State.bare_detect ..)

theorem State.migr_of_bare {s t : State} (h : t.bare = s.bare) : t.migr = s.migr :=
  State.of_bare State.migr (fun _ => rfl) h
@[simp] theorem State.migr_stageRec (s : State) (type body : Nat) : (s.stageRec type body).migr = s.migr :=
  State.migr_of_bare (State.bare_stageRec ..)
@[simp] theorem State.migr_event (s : State) (f : Fld) (unit job : Nat) : (s.event f unit job).migr = s.migr :=
  State.migr_of_bare (State.bare_event ..)
@[simp] theorem State.migr_eventUnit (s : State) (unit job : Nat) : (s.eventUnit unit job).migr = s.migr :=
  State.migr_of_bare (State.bare_eventUnit ..)
@[simp] theorem State.migr_gcount (s : State) (n k : Nat) : (s.gcount n k).migr = s.migr :=
  State.migr_of_bare (State.bare_gcount ..)
@[simp] theorem State.migr_count (s : State) (p n k : Nat) : (s.count p n k).migr = s.migr :=
  State.migr_of_bare (State.bare_count ..)
@[simp] theorem State.migr_detect (s : State) (unit cls flags desc ctx layer operator job syn : Nat) : (s.detect unit cls flags desc ctx layer operator job syn).migr = s.migr :=
  State.migr_of_bare (State.bare_detect ..)

theorem State.recent_of_bare {s t : State} (h : t.bare = s.bare) : t.recent = s.recent :=
  State.of_bare State.recent (fun _ => rfl) h
@[simp] theorem State.recent_stageRec (s : State) (type body : Nat) : (s.stageRec type body).recent = s.recent :=
  State.recent_of_bare (State.bare_stageRec ..)
@[simp] theorem State.recent_event (s : State) (f : Fld) (unit job : Nat) : (s.event f unit job).recent = s.recent :=
  State.recent_of_bare (State.bare_event ..)
@[simp] theorem State.recent_eventUnit (s : State) (unit job : Nat) : (s.eventUnit unit job).recent = s.recent :=
  State.recent_of_bare (State.bare_eventUnit ..)
@[simp] theorem State.recent_gcount (s : State) (n k : Nat) : (s.gcount n k).recent = s.recent :=
  State.recent_of_bare (State.bare_gcount ..)
@[simp] theorem State.recent_count (s : State) (p n k : Nat) : (s.count p n k).recent = s.recent :=
  State.recent_of_bare (State.bare_count ..)
@[simp] theorem State.recent_detect (s : State) (unit cls flags desc ctx layer operator job syn : Nat) : (s.detect unit cls flags desc ctx layer operator job syn).recent = s.recent :=
  State.recent_of_bare (State.bare_detect ..)

theorem State.life_of_bare {s t : State} (h : t.bare = s.bare) : t.life = s.life :=
  State.of_bare State.life (fun _ => rfl) h
@[simp] theorem State.life_stageRec (s : State) (type body : Nat) : (s.stageRec type body).life = s.life :=
  State.life_of_bare (State.bare_stageRec ..)
@[simp] theorem State.life_event (s : State) (f : Fld) (unit job : Nat) : (s.event f unit job).life = s.life :=
  State.life_of_bare (State.bare_event ..)
@[simp] theorem State.life_eventUnit (s : State) (unit job : Nat) : (s.eventUnit unit job).life = s.life :=
  State.life_of_bare (State.bare_eventUnit ..)
@[simp] theorem State.life_gcount (s : State) (n k : Nat) : (s.gcount n k).life = s.life :=
  State.life_of_bare (State.bare_gcount ..)
@[simp] theorem State.life_count (s : State) (p n k : Nat) : (s.count p n k).life = s.life :=
  State.life_of_bare (State.bare_count ..)
@[simp] theorem State.life_detect (s : State) (unit cls flags desc ctx layer operator job syn : Nat) : (s.detect unit cls flags desc ctx layer operator job syn).life = s.life :=
  State.life_of_bare (State.bare_detect ..)

theorem State.acc_of_bare {s t : State} (h : t.bare = s.bare) : t.acc = s.acc :=
  State.of_bare State.acc (fun _ => rfl) h
@[simp] theorem State.acc_stageRec (s : State) (type body : Nat) : (s.stageRec type body).acc = s.acc :=
  State.acc_of_bare (State.bare_stageRec ..)
@[simp] theorem State.acc_event (s : State) (f : Fld) (unit job : Nat) : (s.event f unit job).acc = s.acc :=
  State.acc_of_bare (State.bare_event ..)
@[simp] theorem State.acc_eventUnit (s : State) (unit job : Nat) : (s.eventUnit unit job).acc = s.acc :=
  State.acc_of_bare (State.bare_eventUnit ..)
@[simp] theorem State.acc_gcount (s : State) (n k : Nat) : (s.gcount n k).acc = s.acc :=
  State.acc_of_bare (State.bare_gcount ..)
@[simp] theorem State.acc_count (s : State) (p n k : Nat) : (s.count p n k).acc = s.acc :=
  State.acc_of_bare (State.bare_count ..)
@[simp] theorem State.acc_detect (s : State) (unit cls flags desc ctx layer operator job syn : Nat) : (s.detect unit cls flags desc ctx layer operator job syn).acc = s.acc :=
  State.acc_of_bare (State.bare_detect ..)

theorem State.accExt_of_bare {s t : State} (h : t.bare = s.bare) : t.accExt = s.accExt :=
  State.of_bare State.accExt (fun _ => rfl) h
@[simp] theorem State.accExt_stageRec (s : State) (type body : Nat) : (s.stageRec type body).accExt = s.accExt :=
  State.accExt_of_bare (State.bare_stageRec ..)
@[simp] theorem State.accExt_event (s : State) (f : Fld) (unit job : Nat) : (s.event f unit job).accExt = s.accExt :=
  State.accExt_of_bare (State.bare_event ..)
@[simp] theorem State.accExt_eventUnit (s : State) (unit job : Nat) : (s.eventUnit unit job).accExt = s.accExt :=
  State.accExt_of_bare (State.bare_eventUnit ..)
@[simp] theorem State.accExt_gcount (s : State) (n k : Nat) : (s.gcount n k).accExt = s.accExt :=
  State.accExt_of_bare (State.bare_gcount ..)
@[simp] theorem State.accExt_count (s : State) (p n k : Nat) : (s.count p n k).accExt = s.accExt :=
  State.accExt_of_bare (State.bare_count ..)
@[simp] theorem State.accExt_detect (s : State) (unit cls flags desc ctx layer operator job syn : Nat) : (s.detect unit cls flags desc ctx layer operator job syn).accExt = s.accExt :=
  State.accExt_of_bare (State.bare_detect ..)

theorem State.tally_of_bare {s t : State} (h : t.bare = s.bare) : t.tally = s.tally :=
  State.of_bare State.tally (fun _ => rfl) h
@[simp] theorem State.tally_stageRec (s : State) (type body : Nat) : (s.stageRec type body).tally = s.tally :=
  State.tally_of_bare (State.bare_stageRec ..)
@[simp] theorem State.tally_event (s : State) (f : Fld) (unit job : Nat) : (s.event f unit job).tally = s.tally :=
  State.tally_of_bare (State.bare_event ..)
@[simp] theorem State.tally_eventUnit (s : State) (unit job : Nat) : (s.eventUnit unit job).tally = s.tally :=
  State.tally_of_bare (State.bare_eventUnit ..)
@[simp] theorem State.tally_gcount (s : State) (n k : Nat) : (s.gcount n k).tally = s.tally :=
  State.tally_of_bare (State.bare_gcount ..)
@[simp] theorem State.tally_count (s : State) (p n k : Nat) : (s.count p n k).tally = s.tally :=
  State.tally_of_bare (State.bare_count ..)
@[simp] theorem State.tally_detect (s : State) (unit cls flags desc ctx layer operator job syn : Nat) : (s.detect unit cls flags desc ctx layer operator job syn).tally = s.tally :=
  State.tally_of_bare (State.bare_detect ..)

theorem State.ckpts_of_bare {s t : State} (h : t.bare = s.bare) : t.ckpts = s.ckpts :=
  State.of_bare State.ckpts (fun _ => rfl) h
@[simp] theorem State.ckpts_stageRec (s : State) (type body : Nat) : (s.stageRec type body).ckpts = s.ckpts :=
  State.ckpts_of_bare (State.bare_stageRec ..)
@[simp] theorem State.ckpts_event (s : State) (f : Fld) (unit job : Nat) : (s.event f unit job).ckpts = s.ckpts :=
  State.ckpts_of_bare (State.bare_event ..)
@[simp] theorem State.ckpts_eventUnit (s : State) (unit job : Nat) : (s.eventUnit unit job).ckpts = s.ckpts :=
  State.ckpts_of_bare (State.bare_eventUnit ..)
@[simp] theorem State.ckpts_gcount (s : State) (n k : Nat) : (s.gcount n k).ckpts = s.ckpts :=
  State.ckpts_of_bare (State.bare_gcount ..)
@[simp] theorem State.ckpts_count (s : State) (p n k : Nat) : (s.count p n k).ckpts = s.ckpts :=
  State.ckpts_of_bare (State.bare_count ..)
@[simp] theorem State.ckpts_detect (s : State) (unit cls flags desc ctx layer operator job syn : Nat) : (s.detect unit cls flags desc ctx layer operator job syn).ckpts = s.ckpts :=
  State.ckpts_of_bare (State.bare_detect ..)

theorem State.opRing_of_bare {s t : State} (h : t.bare = s.bare) : t.opRing = s.opRing :=
  State.of_bare State.opRing (fun _ => rfl) h
@[simp] theorem State.opRing_stageRec (s : State) (type body : Nat) : (s.stageRec type body).opRing = s.opRing :=
  State.opRing_of_bare (State.bare_stageRec ..)
@[simp] theorem State.opRing_event (s : State) (f : Fld) (unit job : Nat) : (s.event f unit job).opRing = s.opRing :=
  State.opRing_of_bare (State.bare_event ..)
@[simp] theorem State.opRing_eventUnit (s : State) (unit job : Nat) : (s.eventUnit unit job).opRing = s.opRing :=
  State.opRing_of_bare (State.bare_eventUnit ..)
@[simp] theorem State.opRing_gcount (s : State) (n k : Nat) : (s.gcount n k).opRing = s.opRing :=
  State.opRing_of_bare (State.bare_gcount ..)
@[simp] theorem State.opRing_count (s : State) (p n k : Nat) : (s.count p n k).opRing = s.opRing :=
  State.opRing_of_bare (State.bare_count ..)
@[simp] theorem State.opRing_detect (s : State) (unit cls flags desc ctx layer operator job syn : Nat) : (s.detect unit cls flags desc ctx layer operator job syn).opRing = s.opRing :=
  State.opRing_of_bare (State.bare_detect ..)

theorem State.lastFlush_of_bare {s t : State} (h : t.bare = s.bare) : t.lastFlush = s.lastFlush :=
  State.of_bare State.lastFlush (fun _ => rfl) h
@[simp] theorem State.lastFlush_stageRec (s : State) (type body : Nat) : (s.stageRec type body).lastFlush = s.lastFlush :=
  State.lastFlush_of_bare (State.bare_stageRec ..)
@[simp] theorem State.lastFlush_event (s : State) (f : Fld) (unit job : Nat) : (s.event f unit job).lastFlush = s.lastFlush :=
  State.lastFlush_of_bare (State.bare_event ..)
@[simp] theorem State.lastFlush_eventUnit (s : State) (unit job : Nat) : (s.eventUnit unit job).lastFlush = s.lastFlush :=
  State.lastFlush_of_bare (State.bare_eventUnit ..)
@[simp] theorem State.lastFlush_gcount (s : State) (n k : Nat) : (s.gcount n k).lastFlush = s.lastFlush :=
  State.lastFlush_of_bare (State.bare_gcount ..)
@[simp] theorem State.lastFlush_count (s : State) (p n k : Nat) : (s.count p n k).lastFlush = s.lastFlush :=
  State.lastFlush_of_bare (State.bare_count ..)
@[simp] theorem State.lastFlush_detect (s : State) (unit cls flags desc ctx layer operator job syn : Nat) : (s.detect unit cls flags desc ctx layer operator job syn).lastFlush = s.lastFlush :=
  State.lastFlush_of_bare (State.bare_detect ..)

theorem State.recLost_of_bare {s t : State} (h : t.bare = s.bare) : t.recLost = s.recLost :=
  State.of_bare State.recLost (fun _ => rfl) h
@[simp] theorem State.recLost_stageRec (s : State) (type body : Nat) : (s.stageRec type body).recLost = s.recLost :=
  State.recLost_of_bare (State.bare_stageRec ..)
@[simp] theorem State.recLost_event (s : State) (f : Fld) (unit job : Nat) : (s.event f unit job).recLost = s.recLost :=
  State.recLost_of_bare (State.bare_event ..)
@[simp] theorem State.recLost_eventUnit (s : State) (unit job : Nat) : (s.eventUnit unit job).recLost = s.recLost :=
  State.recLost_of_bare (State.bare_eventUnit ..)
@[simp] theorem State.recLost_gcount (s : State) (n k : Nat) : (s.gcount n k).recLost = s.recLost :=
  State.recLost_of_bare (State.bare_gcount ..)
@[simp] theorem State.recLost_count (s : State) (p n k : Nat) : (s.count p n k).recLost = s.recLost :=
  State.recLost_of_bare (State.bare_count ..)
@[simp] theorem State.recLost_detect (s : State) (unit cls flags desc ctx layer operator job syn : Nat) : (s.detect unit cls flags desc ctx layer operator job syn).recLost = s.recLost :=
  State.recLost_of_bare (State.bare_detect ..)

theorem State.ibiEn_of_bare {s t : State} (h : t.bare = s.bare) : t.ibiEn = s.ibiEn :=
  State.of_bare State.ibiEn (fun _ => rfl) h
@[simp] theorem State.ibiEn_stageRec (s : State) (type body : Nat) : (s.stageRec type body).ibiEn = s.ibiEn :=
  State.ibiEn_of_bare (State.bare_stageRec ..)
@[simp] theorem State.ibiEn_event (s : State) (f : Fld) (unit job : Nat) : (s.event f unit job).ibiEn = s.ibiEn :=
  State.ibiEn_of_bare (State.bare_event ..)
@[simp] theorem State.ibiEn_eventUnit (s : State) (unit job : Nat) : (s.eventUnit unit job).ibiEn = s.ibiEn :=
  State.ibiEn_of_bare (State.bare_eventUnit ..)
@[simp] theorem State.ibiEn_gcount (s : State) (n k : Nat) : (s.gcount n k).ibiEn = s.ibiEn :=
  State.ibiEn_of_bare (State.bare_gcount ..)
@[simp] theorem State.ibiEn_count (s : State) (p n k : Nat) : (s.count p n k).ibiEn = s.ibiEn :=
  State.ibiEn_of_bare (State.bare_count ..)
@[simp] theorem State.ibiEn_detect (s : State) (unit cls flags desc ctx layer operator job syn : Nat) : (s.detect unit cls flags desc ctx layer operator job syn).ibiEn = s.ibiEn :=
  State.ibiEn_of_bare (State.bare_detect ..)

theorem State.i3cAddr_of_bare {s t : State} (h : t.bare = s.bare) : t.i3cAddr = s.i3cAddr :=
  State.of_bare State.i3cAddr (fun _ => rfl) h
@[simp] theorem State.i3cAddr_stageRec (s : State) (type body : Nat) : (s.stageRec type body).i3cAddr = s.i3cAddr :=
  State.i3cAddr_of_bare (State.bare_stageRec ..)
@[simp] theorem State.i3cAddr_event (s : State) (f : Fld) (unit job : Nat) : (s.event f unit job).i3cAddr = s.i3cAddr :=
  State.i3cAddr_of_bare (State.bare_event ..)
@[simp] theorem State.i3cAddr_eventUnit (s : State) (unit job : Nat) : (s.eventUnit unit job).i3cAddr = s.i3cAddr :=
  State.i3cAddr_of_bare (State.bare_eventUnit ..)
@[simp] theorem State.i3cAddr_gcount (s : State) (n k : Nat) : (s.gcount n k).i3cAddr = s.i3cAddr :=
  State.i3cAddr_of_bare (State.bare_gcount ..)
@[simp] theorem State.i3cAddr_count (s : State) (p n k : Nat) : (s.count p n k).i3cAddr = s.i3cAddr :=
  State.i3cAddr_of_bare (State.bare_count ..)
@[simp] theorem State.i3cAddr_detect (s : State) (unit cls flags desc ctx layer operator job syn : Nat) : (s.detect unit cls flags desc ctx layer operator job syn).i3cAddr = s.i3cAddr :=
  State.i3cAddr_of_bare (State.bare_detect ..)

theorem State.i3cPtr_of_bare {s t : State} (h : t.bare = s.bare) : t.i3cPtr = s.i3cPtr :=
  State.of_bare State.i3cPtr (fun _ => rfl) h
@[simp] theorem State.i3cPtr_stageRec (s : State) (type body : Nat) : (s.stageRec type body).i3cPtr = s.i3cPtr :=
  State.i3cPtr_of_bare (State.bare_stageRec ..)
@[simp] theorem State.i3cPtr_event (s : State) (f : Fld) (unit job : Nat) : (s.event f unit job).i3cPtr = s.i3cPtr :=
  State.i3cPtr_of_bare (State.bare_event ..)
@[simp] theorem State.i3cPtr_eventUnit (s : State) (unit job : Nat) : (s.eventUnit unit job).i3cPtr = s.i3cPtr :=
  State.i3cPtr_of_bare (State.bare_eventUnit ..)
@[simp] theorem State.i3cPtr_gcount (s : State) (n k : Nat) : (s.gcount n k).i3cPtr = s.i3cPtr :=
  State.i3cPtr_of_bare (State.bare_gcount ..)
@[simp] theorem State.i3cPtr_count (s : State) (p n k : Nat) : (s.count p n k).i3cPtr = s.i3cPtr :=
  State.i3cPtr_of_bare (State.bare_count ..)
@[simp] theorem State.i3cPtr_detect (s : State) (unit cls flags desc ctx layer operator job syn : Nat) : (s.detect unit cls flags desc ctx layer operator job syn).i3cPtr = s.i3cPtr :=
  State.i3cPtr_of_bare (State.bare_detect ..)

theorem State.sbImage_of_bare {s t : State} (h : t.bare = s.bare) : t.sbImage = s.sbImage :=
  State.of_bare State.sbImage (fun _ => rfl) h
@[simp] theorem State.sbImage_stageRec (s : State) (type body : Nat) : (s.stageRec type body).sbImage = s.sbImage :=
  State.sbImage_of_bare (State.bare_stageRec ..)
@[simp] theorem State.sbImage_event (s : State) (f : Fld) (unit job : Nat) : (s.event f unit job).sbImage = s.sbImage :=
  State.sbImage_of_bare (State.bare_event ..)
@[simp] theorem State.sbImage_eventUnit (s : State) (unit job : Nat) : (s.eventUnit unit job).sbImage = s.sbImage :=
  State.sbImage_of_bare (State.bare_eventUnit ..)
@[simp] theorem State.sbImage_gcount (s : State) (n k : Nat) : (s.gcount n k).sbImage = s.sbImage :=
  State.sbImage_of_bare (State.bare_gcount ..)
@[simp] theorem State.sbImage_count (s : State) (p n k : Nat) : (s.count p n k).sbImage = s.sbImage :=
  State.sbImage_of_bare (State.bare_count ..)
@[simp] theorem State.sbImage_detect (s : State) (unit cls flags desc ctx layer operator job syn : Nat) : (s.detect unit cls flags desc ctx layer operator job syn).sbImage = s.sbImage :=
  State.sbImage_of_bare (State.bare_detect ..)

theorem State.irqPend_of_bare {s t : State} (h : t.bare = s.bare) : t.irqPend = s.irqPend :=
  State.of_bare State.irqPend (fun _ => rfl) h
@[simp] theorem State.irqPend_stageRec (s : State) (type body : Nat) : (s.stageRec type body).irqPend = s.irqPend :=
  State.irqPend_of_bare (State.bare_stageRec ..)
@[simp] theorem State.irqPend_event (s : State) (f : Fld) (unit job : Nat) : (s.event f unit job).irqPend = s.irqPend :=
  State.irqPend_of_bare (State.bare_event ..)
@[simp] theorem State.irqPend_eventUnit (s : State) (unit job : Nat) : (s.eventUnit unit job).irqPend = s.irqPend :=
  State.irqPend_of_bare (State.bare_eventUnit ..)
@[simp] theorem State.irqPend_gcount (s : State) (n k : Nat) : (s.gcount n k).irqPend = s.irqPend :=
  State.irqPend_of_bare (State.bare_gcount ..)
@[simp] theorem State.irqPend_count (s : State) (p n k : Nat) : (s.count p n k).irqPend = s.irqPend :=
  State.irqPend_of_bare (State.bare_count ..)
@[simp] theorem State.irqPend_detect (s : State) (unit cls flags desc ctx layer operator job syn : Nat) : (s.detect unit cls flags desc ctx layer operator job syn).irqPend = s.irqPend :=
  State.irqPend_of_bare (State.bare_detect ..)

theorem State.irqLast_of_bare {s t : State} (h : t.bare = s.bare) : t.irqLast = s.irqLast :=
  State.of_bare State.irqLast (fun _ => rfl) h
@[simp] theorem State.irqLast_stageRec (s : State) (type body : Nat) : (s.stageRec type body).irqLast = s.irqLast :=
  State.irqLast_of_bare (State.bare_stageRec ..)
@[simp] theorem State.irqLast_event (s : State) (f : Fld) (unit job : Nat) : (s.event f unit job).irqLast = s.irqLast :=
  State.irqLast_of_bare (State.bare_event ..)
@[simp] theorem State.irqLast_eventUnit (s : State) (unit job : Nat) : (s.eventUnit unit job).irqLast = s.irqLast :=
  State.irqLast_of_bare (State.bare_eventUnit ..)
@[simp] theorem State.irqLast_gcount (s : State) (n k : Nat) : (s.gcount n k).irqLast = s.irqLast :=
  State.irqLast_of_bare (State.bare_gcount ..)
@[simp] theorem State.irqLast_count (s : State) (p n k : Nat) : (s.count p n k).irqLast = s.irqLast :=
  State.irqLast_of_bare (State.bare_count ..)
@[simp] theorem State.irqLast_detect (s : State) (unit cls flags desc ctx layer operator job syn : Nat) : (s.detect unit cls flags desc ctx layer operator job syn).irqLast = s.irqLast :=
  State.irqLast_of_bare (State.bare_detect ..)

theorem State.scrubPos_of_bare {s t : State} (h : t.bare = s.bare) : t.scrubPos = s.scrubPos :=
  State.of_bare State.scrubPos (fun _ => rfl) h
@[simp] theorem State.scrubPos_stageRec (s : State) (type body : Nat) : (s.stageRec type body).scrubPos = s.scrubPos :=
  State.scrubPos_of_bare (State.bare_stageRec ..)
@[simp] theorem State.scrubPos_event (s : State) (f : Fld) (unit job : Nat) : (s.event f unit job).scrubPos = s.scrubPos :=
  State.scrubPos_of_bare (State.bare_event ..)
@[simp] theorem State.scrubPos_eventUnit (s : State) (unit job : Nat) : (s.eventUnit unit job).scrubPos = s.scrubPos :=
  State.scrubPos_of_bare (State.bare_eventUnit ..)
@[simp] theorem State.scrubPos_gcount (s : State) (n k : Nat) : (s.gcount n k).scrubPos = s.scrubPos :=
  State.scrubPos_of_bare (State.bare_gcount ..)
@[simp] theorem State.scrubPos_count (s : State) (p n k : Nat) : (s.count p n k).scrubPos = s.scrubPos :=
  State.scrubPos_of_bare (State.bare_count ..)
@[simp] theorem State.scrubPos_detect (s : State) (unit cls flags desc ctx layer operator job syn : Nat) : (s.detect unit cls flags desc ctx layer operator job syn).scrubPos = s.scrubPos :=
  State.scrubPos_of_bare (State.bare_detect ..)

theorem State.jobs_of_bare {s t : State} (h : t.bare = s.bare) : t.jobs = s.jobs :=
  State.of_bare State.jobs (fun _ => rfl) h
@[simp] theorem State.jobs_stageRec (s : State) (type body : Nat) : (s.stageRec type body).jobs = s.jobs :=
  State.jobs_of_bare (State.bare_stageRec ..)
@[simp] theorem State.jobs_event (s : State) (f : Fld) (unit job : Nat) : (s.event f unit job).jobs = s.jobs :=
  State.jobs_of_bare (State.bare_event ..)
@[simp] theorem State.jobs_eventUnit (s : State) (unit job : Nat) : (s.eventUnit unit job).jobs = s.jobs :=
  State.jobs_of_bare (State.bare_eventUnit ..)
@[simp] theorem State.jobs_gcount (s : State) (n k : Nat) : (s.gcount n k).jobs = s.jobs :=
  State.jobs_of_bare (State.bare_gcount ..)
@[simp] theorem State.jobs_count (s : State) (p n k : Nat) : (s.count p n k).jobs = s.jobs :=
  State.jobs_of_bare (State.bare_count ..)
@[simp] theorem State.jobs_detect (s : State) (unit cls flags desc ctx layer operator job syn : Nat) : (s.detect unit cls flags desc ctx layer operator job syn).jobs = s.jobs :=
  State.jobs_of_bare (State.bare_detect ..)

theorem State.tblCopy_of_bare {s t : State} (h : t.bare = s.bare) : t.tblCopy = s.tblCopy :=
  State.of_bare State.tblCopy (fun _ => rfl) h
@[simp] theorem State.tblCopy_stageRec (s : State) (type body : Nat) : (s.stageRec type body).tblCopy = s.tblCopy :=
  State.tblCopy_of_bare (State.bare_stageRec ..)
@[simp] theorem State.tblCopy_event (s : State) (f : Fld) (unit job : Nat) : (s.event f unit job).tblCopy = s.tblCopy :=
  State.tblCopy_of_bare (State.bare_event ..)
@[simp] theorem State.tblCopy_eventUnit (s : State) (unit job : Nat) : (s.eventUnit unit job).tblCopy = s.tblCopy :=
  State.tblCopy_of_bare (State.bare_eventUnit ..)
@[simp] theorem State.tblCopy_gcount (s : State) (n k : Nat) : (s.gcount n k).tblCopy = s.tblCopy :=
  State.tblCopy_of_bare (State.bare_gcount ..)
@[simp] theorem State.tblCopy_count (s : State) (p n k : Nat) : (s.count p n k).tblCopy = s.tblCopy :=
  State.tblCopy_of_bare (State.bare_count ..)
@[simp] theorem State.tblCopy_detect (s : State) (unit cls flags desc ctx layer operator job syn : Nat) : (s.detect unit cls flags desc ctx layer operator job syn).tblCopy = s.tblCopy :=
  State.tblCopy_of_bare (State.bare_detect ..)

theorem State.pStep_of_bare {s t : State} (h : t.bare = s.bare) : t.pStep = s.pStep :=
  State.of_bare State.pStep (fun _ => rfl) h
@[simp] theorem State.pStep_stageRec (s : State) (type body : Nat) : (s.stageRec type body).pStep = s.pStep :=
  State.pStep_of_bare (State.bare_stageRec ..)
@[simp] theorem State.pStep_event (s : State) (f : Fld) (unit job : Nat) : (s.event f unit job).pStep = s.pStep :=
  State.pStep_of_bare (State.bare_event ..)
@[simp] theorem State.pStep_eventUnit (s : State) (unit job : Nat) : (s.eventUnit unit job).pStep = s.pStep :=
  State.pStep_of_bare (State.bare_eventUnit ..)
@[simp] theorem State.pStep_gcount (s : State) (n k : Nat) : (s.gcount n k).pStep = s.pStep :=
  State.pStep_of_bare (State.bare_gcount ..)
@[simp] theorem State.pStep_count (s : State) (p n k : Nat) : (s.count p n k).pStep = s.pStep :=
  State.pStep_of_bare (State.bare_count ..)
@[simp] theorem State.pStep_detect (s : State) (unit cls flags desc ctx layer operator job syn : Nat) : (s.detect unit cls flags desc ctx layer operator job syn).pStep = s.pStep :=
  State.pStep_of_bare (State.bare_detect ..)

theorem State.thermStep_of_bare {s t : State} (h : t.bare = s.bare) : t.thermStep = s.thermStep :=
  State.of_bare State.thermStep (fun _ => rfl) h
@[simp] theorem State.thermStep_stageRec (s : State) (type body : Nat) : (s.stageRec type body).thermStep = s.thermStep :=
  State.thermStep_of_bare (State.bare_stageRec ..)
@[simp] theorem State.thermStep_event (s : State) (f : Fld) (unit job : Nat) : (s.event f unit job).thermStep = s.thermStep :=
  State.thermStep_of_bare (State.bare_event ..)
@[simp] theorem State.thermStep_eventUnit (s : State) (unit job : Nat) : (s.eventUnit unit job).thermStep = s.thermStep :=
  State.thermStep_of_bare (State.bare_eventUnit ..)
@[simp] theorem State.thermStep_gcount (s : State) (n k : Nat) : (s.gcount n k).thermStep = s.thermStep :=
  State.thermStep_of_bare (State.bare_gcount ..)
@[simp] theorem State.thermStep_count (s : State) (p n k : Nat) : (s.count p n k).thermStep = s.thermStep :=
  State.thermStep_of_bare (State.bare_count ..)
@[simp] theorem State.thermStep_detect (s : State) (unit cls flags desc ctx layer operator job syn : Nat) : (s.detect unit cls flags desc ctx layer operator job syn).thermStep = s.thermStep :=
  State.thermStep_of_bare (State.bare_detect ..)

theorem State.thermLast_of_bare {s t : State} (h : t.bare = s.bare) : t.thermLast = s.thermLast :=
  State.of_bare State.thermLast (fun _ => rfl) h
@[simp] theorem State.thermLast_stageRec (s : State) (type body : Nat) : (s.stageRec type body).thermLast = s.thermLast :=
  State.thermLast_of_bare (State.bare_stageRec ..)
@[simp] theorem State.thermLast_event (s : State) (f : Fld) (unit job : Nat) : (s.event f unit job).thermLast = s.thermLast :=
  State.thermLast_of_bare (State.bare_event ..)
@[simp] theorem State.thermLast_eventUnit (s : State) (unit job : Nat) : (s.eventUnit unit job).thermLast = s.thermLast :=
  State.thermLast_of_bare (State.bare_eventUnit ..)
@[simp] theorem State.thermLast_gcount (s : State) (n k : Nat) : (s.gcount n k).thermLast = s.thermLast :=
  State.thermLast_of_bare (State.bare_gcount ..)
@[simp] theorem State.thermLast_count (s : State) (p n k : Nat) : (s.count p n k).thermLast = s.thermLast :=
  State.thermLast_of_bare (State.bare_count ..)
@[simp] theorem State.thermLast_detect (s : State) (unit cls flags desc ctx layer operator job syn : Nat) : (s.detect unit cls flags desc ctx layer operator job syn).thermLast = s.thermLast :=
  State.thermLast_of_bare (State.bare_detect ..)

theorem State.capDuty_of_bare {s t : State} (h : t.bare = s.bare) : t.capDuty = s.capDuty :=
  State.of_bare State.capDuty (fun _ => rfl) h
@[simp] theorem State.capDuty_stageRec (s : State) (type body : Nat) : (s.stageRec type body).capDuty = s.capDuty :=
  State.capDuty_of_bare (State.bare_stageRec ..)
@[simp] theorem State.capDuty_event (s : State) (f : Fld) (unit job : Nat) : (s.event f unit job).capDuty = s.capDuty :=
  State.capDuty_of_bare (State.bare_event ..)
@[simp] theorem State.capDuty_eventUnit (s : State) (unit job : Nat) : (s.eventUnit unit job).capDuty = s.capDuty :=
  State.capDuty_of_bare (State.bare_eventUnit ..)
@[simp] theorem State.capDuty_gcount (s : State) (n k : Nat) : (s.gcount n k).capDuty = s.capDuty :=
  State.capDuty_of_bare (State.bare_gcount ..)
@[simp] theorem State.capDuty_count (s : State) (p n k : Nat) : (s.count p n k).capDuty = s.capDuty :=
  State.capDuty_of_bare (State.bare_count ..)
@[simp] theorem State.capDuty_detect (s : State) (unit cls flags desc ctx layer operator job syn : Nat) : (s.detect unit cls flags desc ctx layer operator job syn).capDuty = s.capDuty :=
  State.capDuty_of_bare (State.bare_detect ..)

theorem State.thDuty_of_bare {s t : State} (h : t.bare = s.bare) : t.thDuty = s.thDuty :=
  State.of_bare State.thDuty (fun _ => rfl) h
@[simp] theorem State.thDuty_stageRec (s : State) (type body : Nat) : (s.stageRec type body).thDuty = s.thDuty :=
  State.thDuty_of_bare (State.bare_stageRec ..)
@[simp] theorem State.thDuty_event (s : State) (f : Fld) (unit job : Nat) : (s.event f unit job).thDuty = s.thDuty :=
  State.thDuty_of_bare (State.bare_event ..)
@[simp] theorem State.thDuty_eventUnit (s : State) (unit job : Nat) : (s.eventUnit unit job).thDuty = s.thDuty :=
  State.thDuty_of_bare (State.bare_eventUnit ..)
@[simp] theorem State.thDuty_gcount (s : State) (n k : Nat) : (s.gcount n k).thDuty = s.thDuty :=
  State.thDuty_of_bare (State.bare_gcount ..)
@[simp] theorem State.thDuty_count (s : State) (p n k : Nat) : (s.count p n k).thDuty = s.thDuty :=
  State.thDuty_of_bare (State.bare_count ..)
@[simp] theorem State.thDuty_detect (s : State) (unit cls flags desc ctx layer operator job syn : Nat) : (s.detect unit cls flags desc ctx layer operator job syn).thDuty = s.thDuty :=
  State.thDuty_of_bare (State.bare_detect ..)

theorem State.earlyMsgs_of_bare {s t : State} (h : t.bare = s.bare) : t.earlyMsgs = s.earlyMsgs :=
  State.of_bare State.earlyMsgs (fun _ => rfl) h
@[simp] theorem State.earlyMsgs_stageRec (s : State) (type body : Nat) : (s.stageRec type body).earlyMsgs = s.earlyMsgs :=
  State.earlyMsgs_of_bare (State.bare_stageRec ..)
@[simp] theorem State.earlyMsgs_event (s : State) (f : Fld) (unit job : Nat) : (s.event f unit job).earlyMsgs = s.earlyMsgs :=
  State.earlyMsgs_of_bare (State.bare_event ..)
@[simp] theorem State.earlyMsgs_eventUnit (s : State) (unit job : Nat) : (s.eventUnit unit job).earlyMsgs = s.earlyMsgs :=
  State.earlyMsgs_of_bare (State.bare_eventUnit ..)
@[simp] theorem State.earlyMsgs_gcount (s : State) (n k : Nat) : (s.gcount n k).earlyMsgs = s.earlyMsgs :=
  State.earlyMsgs_of_bare (State.bare_gcount ..)
@[simp] theorem State.earlyMsgs_count (s : State) (p n k : Nat) : (s.count p n k).earlyMsgs = s.earlyMsgs :=
  State.earlyMsgs_of_bare (State.bare_count ..)
@[simp] theorem State.earlyMsgs_detect (s : State) (unit cls flags desc ctx layer operator job syn : Nat) : (s.detect unit cls flags desc ctx layer operator job syn).earlyMsgs = s.earlyMsgs :=
  State.earlyMsgs_of_bare (State.bare_detect ..)

theorem State.slew_of_bare {s t : State} (h : t.bare = s.bare) : t.slew = s.slew :=
  State.of_bare State.slew (fun _ => rfl) h
@[simp] theorem State.slew_stageRec (s : State) (type body : Nat) : (s.stageRec type body).slew = s.slew :=
  State.slew_of_bare (State.bare_stageRec ..)
@[simp] theorem State.slew_event (s : State) (f : Fld) (unit job : Nat) : (s.event f unit job).slew = s.slew :=
  State.slew_of_bare (State.bare_event ..)
@[simp] theorem State.slew_eventUnit (s : State) (unit job : Nat) : (s.eventUnit unit job).slew = s.slew :=
  State.slew_of_bare (State.bare_eventUnit ..)
@[simp] theorem State.slew_gcount (s : State) (n k : Nat) : (s.gcount n k).slew = s.slew :=
  State.slew_of_bare (State.bare_gcount ..)
@[simp] theorem State.slew_count (s : State) (p n k : Nat) : (s.count p n k).slew = s.slew :=
  State.slew_of_bare (State.bare_count ..)
@[simp] theorem State.slew_detect (s : State) (unit cls flags desc ctx layer operator job syn : Nat) : (s.detect unit cls flags desc ctx layer operator job syn).slew = s.slew :=
  State.slew_of_bare (State.bare_detect ..)

theorem State.slewPhase_of_bare {s t : State} (h : t.bare = s.bare) : t.slewPhase = s.slewPhase :=
  State.of_bare State.slewPhase (fun _ => rfl) h
@[simp] theorem State.slewPhase_stageRec (s : State) (type body : Nat) : (s.stageRec type body).slewPhase = s.slewPhase :=
  State.slewPhase_of_bare (State.bare_stageRec ..)
@[simp] theorem State.slewPhase_event (s : State) (f : Fld) (unit job : Nat) : (s.event f unit job).slewPhase = s.slewPhase :=
  State.slewPhase_of_bare (State.bare_event ..)
@[simp] theorem State.slewPhase_eventUnit (s : State) (unit job : Nat) : (s.eventUnit unit job).slewPhase = s.slewPhase :=
  State.slewPhase_of_bare (State.bare_eventUnit ..)
@[simp] theorem State.slewPhase_gcount (s : State) (n k : Nat) : (s.gcount n k).slewPhase = s.slewPhase :=
  State.slewPhase_of_bare (State.bare_gcount ..)
@[simp] theorem State.slewPhase_count (s : State) (p n k : Nat) : (s.count p n k).slewPhase = s.slewPhase :=
  State.slewPhase_of_bare (State.bare_count ..)
@[simp] theorem State.slewPhase_detect (s : State) (unit cls flags desc ctx layer operator job syn : Nat) : (s.detect unit cls flags desc ctx layer operator job syn).slewPhase = s.slewPhase :=
  State.slewPhase_of_bare (State.bare_detect ..)

theorem State.timeGood_of_bare {s t : State} (h : t.bare = s.bare) : t.timeGood = s.timeGood :=
  State.of_bare State.timeGood (fun _ => rfl) h
@[simp] theorem State.timeGood_stageRec (s : State) (type body : Nat) : (s.stageRec type body).timeGood = s.timeGood :=
  State.timeGood_of_bare (State.bare_stageRec ..)
@[simp] theorem State.timeGood_event (s : State) (f : Fld) (unit job : Nat) : (s.event f unit job).timeGood = s.timeGood :=
  State.timeGood_of_bare (State.bare_event ..)
@[simp] theorem State.timeGood_eventUnit (s : State) (unit job : Nat) : (s.eventUnit unit job).timeGood = s.timeGood :=
  State.timeGood_of_bare (State.bare_eventUnit ..)
@[simp] theorem State.timeGood_gcount (s : State) (n k : Nat) : (s.gcount n k).timeGood = s.timeGood :=
  State.timeGood_of_bare (State.bare_gcount ..)
@[simp] theorem State.timeGood_count (s : State) (p n k : Nat) : (s.count p n k).timeGood = s.timeGood :=
  State.timeGood_of_bare (State.bare_count ..)
@[simp] theorem State.timeGood_detect (s : State) (unit cls flags desc ctx layer operator job syn : Nat) : (s.detect unit cls flags desc ctx layer operator job syn).timeGood = s.timeGood :=
  State.timeGood_of_bare (State.bare_detect ..)

theorem State.satBase_of_bare {s t : State} (h : t.bare = s.bare) : t.satBase = s.satBase :=
  State.of_bare State.satBase (fun _ => rfl) h
@[simp] theorem State.satBase_stageRec (s : State) (type body : Nat) : (s.stageRec type body).satBase = s.satBase :=
  State.satBase_of_bare (State.bare_stageRec ..)
@[simp] theorem State.satBase_event (s : State) (f : Fld) (unit job : Nat) : (s.event f unit job).satBase = s.satBase :=
  State.satBase_of_bare (State.bare_event ..)
@[simp] theorem State.satBase_eventUnit (s : State) (unit job : Nat) : (s.eventUnit unit job).satBase = s.satBase :=
  State.satBase_of_bare (State.bare_eventUnit ..)
@[simp] theorem State.satBase_gcount (s : State) (n k : Nat) : (s.gcount n k).satBase = s.satBase :=
  State.satBase_of_bare (State.bare_gcount ..)
@[simp] theorem State.satBase_count (s : State) (p n k : Nat) : (s.count p n k).satBase = s.satBase :=
  State.satBase_of_bare (State.bare_count ..)
@[simp] theorem State.satBase_detect (s : State) (unit cls flags desc ctx layer operator job syn : Nat) : (s.detect unit cls flags desc ctx layer operator job syn).satBase = s.satBase :=
  State.satBase_of_bare (State.bare_detect ..)

theorem State.bcasts_of_bare {s t : State} (h : t.bare = s.bare) : t.bcasts = s.bcasts :=
  State.of_bare State.bcasts (fun _ => rfl) h
@[simp] theorem State.bcasts_stageRec (s : State) (type body : Nat) : (s.stageRec type body).bcasts = s.bcasts :=
  State.bcasts_of_bare (State.bare_stageRec ..)
@[simp] theorem State.bcasts_event (s : State) (f : Fld) (unit job : Nat) : (s.event f unit job).bcasts = s.bcasts :=
  State.bcasts_of_bare (State.bare_event ..)
@[simp] theorem State.bcasts_eventUnit (s : State) (unit job : Nat) : (s.eventUnit unit job).bcasts = s.bcasts :=
  State.bcasts_of_bare (State.bare_eventUnit ..)
@[simp] theorem State.bcasts_gcount (s : State) (n k : Nat) : (s.gcount n k).bcasts = s.bcasts :=
  State.bcasts_of_bare (State.bare_gcount ..)
@[simp] theorem State.bcasts_count (s : State) (p n k : Nat) : (s.count p n k).bcasts = s.bcasts :=
  State.bcasts_of_bare (State.bare_count ..)
@[simp] theorem State.bcasts_detect (s : State) (unit cls flags desc ctx layer operator job syn : Nat) : (s.detect unit cls flags desc ctx layer operator job syn).bcasts = s.bcasts :=
  State.bcasts_of_bare (State.bare_detect ..)

theorem State.opCount_of_bare {s t : State} (h : t.bare = s.bare) : t.opCount = s.opCount :=
  State.of_bare State.opCount (fun _ => rfl) h
@[simp] theorem State.opCount_stageRec (s : State) (type body : Nat) : (s.stageRec type body).opCount = s.opCount :=
  State.opCount_of_bare (State.bare_stageRec ..)
@[simp] theorem State.opCount_event (s : State) (f : Fld) (unit job : Nat) : (s.event f unit job).opCount = s.opCount :=
  State.opCount_of_bare (State.bare_event ..)
@[simp] theorem State.opCount_eventUnit (s : State) (unit job : Nat) : (s.eventUnit unit job).opCount = s.opCount :=
  State.opCount_of_bare (State.bare_eventUnit ..)
@[simp] theorem State.opCount_gcount (s : State) (n k : Nat) : (s.gcount n k).opCount = s.opCount :=
  State.opCount_of_bare (State.bare_gcount ..)
@[simp] theorem State.opCount_count (s : State) (p n k : Nat) : (s.count p n k).opCount = s.opCount :=
  State.opCount_of_bare (State.bare_count ..)
@[simp] theorem State.opCount_detect (s : State) (unit cls flags desc ctx layer operator job syn : Nat) : (s.detect unit cls flags desc ctx layer operator job syn).opCount = s.opCount :=
  State.opCount_of_bare (State.bare_detect ..)

theorem State.feeds_of_bare {s t : State} (h : t.bare = s.bare) : t.feeds = s.feeds :=
  State.of_bare State.feeds (fun _ => rfl) h
@[simp] theorem State.feeds_stageRec (s : State) (type body : Nat) : (s.stageRec type body).feeds = s.feeds :=
  State.feeds_of_bare (State.bare_stageRec ..)
@[simp] theorem State.feeds_event (s : State) (f : Fld) (unit job : Nat) : (s.event f unit job).feeds = s.feeds :=
  State.feeds_of_bare (State.bare_event ..)
@[simp] theorem State.feeds_eventUnit (s : State) (unit job : Nat) : (s.eventUnit unit job).feeds = s.feeds :=
  State.feeds_of_bare (State.bare_eventUnit ..)
@[simp] theorem State.feeds_gcount (s : State) (n k : Nat) : (s.gcount n k).feeds = s.feeds :=
  State.feeds_of_bare (State.bare_gcount ..)
@[simp] theorem State.feeds_count (s : State) (p n k : Nat) : (s.count p n k).feeds = s.feeds :=
  State.feeds_of_bare (State.bare_count ..)
@[simp] theorem State.feeds_detect (s : State) (unit cls flags desc ctx layer operator job syn : Nat) : (s.detect unit cls flags desc ctx layer operator job syn).feeds = s.feeds :=
  State.feeds_of_bare (State.bare_detect ..)

theorem State.rebuilds_of_bare {s t : State} (h : t.bare = s.bare) : t.rebuilds = s.rebuilds :=
  State.of_bare State.rebuilds (fun _ => rfl) h
@[simp] theorem State.rebuilds_stageRec (s : State) (type body : Nat) : (s.stageRec type body).rebuilds = s.rebuilds :=
  State.rebuilds_of_bare (State.bare_stageRec ..)
@[simp] theorem State.rebuilds_event (s : State) (f : Fld) (unit job : Nat) : (s.event f unit job).rebuilds = s.rebuilds :=
  State.rebuilds_of_bare (State.bare_event ..)
@[simp] theorem State.rebuilds_eventUnit (s : State) (unit job : Nat) : (s.eventUnit unit job).rebuilds = s.rebuilds :=
  State.rebuilds_of_bare (State.bare_eventUnit ..)
@[simp] theorem State.rebuilds_gcount (s : State) (n k : Nat) : (s.gcount n k).rebuilds = s.rebuilds :=
  State.rebuilds_of_bare (State.bare_gcount ..)
@[simp] theorem State.rebuilds_count (s : State) (p n k : Nat) : (s.count p n k).rebuilds = s.rebuilds :=
  State.rebuilds_of_bare (State.bare_count ..)
@[simp] theorem State.rebuilds_detect (s : State) (unit cls flags desc ctx layer operator job syn : Nat) : (s.detect unit cls flags desc ctx layer operator job syn).rebuilds = s.rebuilds :=
  State.rebuilds_of_bare (State.bare_detect ..)

theorem State.restores_of_bare {s t : State} (h : t.bare = s.bare) : t.restores = s.restores :=
  State.of_bare State.restores (fun _ => rfl) h
@[simp] theorem State.restores_stageRec (s : State) (type body : Nat) : (s.stageRec type body).restores = s.restores :=
  State.restores_of_bare (State.bare_stageRec ..)
@[simp] theorem State.restores_event (s : State) (f : Fld) (unit job : Nat) : (s.event f unit job).restores = s.restores :=
  State.restores_of_bare (State.bare_event ..)
@[simp] theorem State.restores_eventUnit (s : State) (unit job : Nat) : (s.eventUnit unit job).restores = s.restores :=
  State.restores_of_bare (State.bare_eventUnit ..)
@[simp] theorem State.restores_gcount (s : State) (n k : Nat) : (s.gcount n k).restores = s.restores :=
  State.restores_of_bare (State.bare_gcount ..)
@[simp] theorem State.restores_count (s : State) (p n k : Nat) : (s.count p n k).restores = s.restores :=
  State.restores_of_bare (State.bare_count ..)
@[simp] theorem State.restores_detect (s : State) (unit cls flags desc ctx layer operator job syn : Nat) : (s.detect unit cls flags desc ctx layer operator job syn).restores = s.restores :=
  State.restores_of_bare (State.bare_detect ..)

theorem State.restoreMsgs_of_bare {s t : State} (h : t.bare = s.bare) : t.restoreMsgs = s.restoreMsgs :=
  State.of_bare State.restoreMsgs (fun _ => rfl) h
@[simp] theorem State.restoreMsgs_stageRec (s : State) (type body : Nat) : (s.stageRec type body).restoreMsgs = s.restoreMsgs :=
  State.restoreMsgs_of_bare (State.bare_stageRec ..)
@[simp] theorem State.restoreMsgs_event (s : State) (f : Fld) (unit job : Nat) : (s.event f unit job).restoreMsgs = s.restoreMsgs :=
  State.restoreMsgs_of_bare (State.bare_event ..)
@[simp] theorem State.restoreMsgs_eventUnit (s : State) (unit job : Nat) : (s.eventUnit unit job).restoreMsgs = s.restoreMsgs :=
  State.restoreMsgs_of_bare (State.bare_eventUnit ..)
@[simp] theorem State.restoreMsgs_gcount (s : State) (n k : Nat) : (s.gcount n k).restoreMsgs = s.restoreMsgs :=
  State.restoreMsgs_of_bare (State.bare_gcount ..)
@[simp] theorem State.restoreMsgs_count (s : State) (p n k : Nat) : (s.count p n k).restoreMsgs = s.restoreMsgs :=
  State.restoreMsgs_of_bare (State.bare_count ..)
@[simp] theorem State.restoreMsgs_detect (s : State) (unit cls flags desc ctx layer operator job syn : Nat) : (s.detect unit cls flags desc ctx layer operator job syn).restoreMsgs = s.restoreMsgs :=
  State.restoreMsgs_of_bare (State.bare_detect ..)

theorem State.rcopy_of_bare {s t : State} (h : t.bare = s.bare) : t.rcopy = s.rcopy :=
  State.of_bare State.rcopy (fun _ => rfl) h
@[simp] theorem State.rcopy_stageRec (s : State) (type body : Nat) : (s.stageRec type body).rcopy = s.rcopy :=
  State.rcopy_of_bare (State.bare_stageRec ..)
@[simp] theorem State.rcopy_event (s : State) (f : Fld) (unit job : Nat) : (s.event f unit job).rcopy = s.rcopy :=
  State.rcopy_of_bare (State.bare_event ..)
@[simp] theorem State.rcopy_eventUnit (s : State) (unit job : Nat) : (s.eventUnit unit job).rcopy = s.rcopy :=
  State.rcopy_of_bare (State.bare_eventUnit ..)
@[simp] theorem State.rcopy_gcount (s : State) (n k : Nat) : (s.gcount n k).rcopy = s.rcopy :=
  State.rcopy_of_bare (State.bare_gcount ..)
@[simp] theorem State.rcopy_count (s : State) (p n k : Nat) : (s.count p n k).rcopy = s.rcopy :=
  State.rcopy_of_bare (State.bare_count ..)
@[simp] theorem State.rcopy_detect (s : State) (unit cls flags desc ctx layer operator job syn : Nat) : (s.detect unit cls flags desc ctx layer operator job syn).rcopy = s.rcopy :=
  State.rcopy_of_bare (State.bare_detect ..)

theorem State.rcopyAsked_of_bare {s t : State} (h : t.bare = s.bare) : t.rcopyAsked = s.rcopyAsked :=
  State.of_bare State.rcopyAsked (fun _ => rfl) h
@[simp] theorem State.rcopyAsked_stageRec (s : State) (type body : Nat) : (s.stageRec type body).rcopyAsked = s.rcopyAsked :=
  State.rcopyAsked_of_bare (State.bare_stageRec ..)
@[simp] theorem State.rcopyAsked_event (s : State) (f : Fld) (unit job : Nat) : (s.event f unit job).rcopyAsked = s.rcopyAsked :=
  State.rcopyAsked_of_bare (State.bare_event ..)
@[simp] theorem State.rcopyAsked_eventUnit (s : State) (unit job : Nat) : (s.eventUnit unit job).rcopyAsked = s.rcopyAsked :=
  State.rcopyAsked_of_bare (State.bare_eventUnit ..)
@[simp] theorem State.rcopyAsked_gcount (s : State) (n k : Nat) : (s.gcount n k).rcopyAsked = s.rcopyAsked :=
  State.rcopyAsked_of_bare (State.bare_gcount ..)
@[simp] theorem State.rcopyAsked_count (s : State) (p n k : Nat) : (s.count p n k).rcopyAsked = s.rcopyAsked :=
  State.rcopyAsked_of_bare (State.bare_count ..)
@[simp] theorem State.rcopyAsked_detect (s : State) (unit cls flags desc ctx layer operator job syn : Nat) : (s.detect unit cls flags desc ctx layer operator job syn).rcopyAsked = s.rcopyAsked :=
  State.rcopyAsked_of_bare (State.bare_detect ..)

theorem State.ghbAt_of_bare {s t : State} (h : t.bare = s.bare) : t.ghbAt = s.ghbAt :=
  State.of_bare State.ghbAt (fun _ => rfl) h
@[simp] theorem State.ghbAt_stageRec (s : State) (type body : Nat) : (s.stageRec type body).ghbAt = s.ghbAt :=
  State.ghbAt_of_bare (State.bare_stageRec ..)
@[simp] theorem State.ghbAt_event (s : State) (f : Fld) (unit job : Nat) : (s.event f unit job).ghbAt = s.ghbAt :=
  State.ghbAt_of_bare (State.bare_event ..)
@[simp] theorem State.ghbAt_eventUnit (s : State) (unit job : Nat) : (s.eventUnit unit job).ghbAt = s.ghbAt :=
  State.ghbAt_of_bare (State.bare_eventUnit ..)
@[simp] theorem State.ghbAt_gcount (s : State) (n k : Nat) : (s.gcount n k).ghbAt = s.ghbAt :=
  State.ghbAt_of_bare (State.bare_gcount ..)
@[simp] theorem State.ghbAt_count (s : State) (p n k : Nat) : (s.count p n k).ghbAt = s.ghbAt :=
  State.ghbAt_of_bare (State.bare_count ..)
@[simp] theorem State.ghbAt_detect (s : State) (unit cls flags desc ctx layer operator job syn : Nat) : (s.detect unit cls flags desc ctx layer operator job syn).ghbAt = s.ghbAt :=
  State.ghbAt_of_bare (State.bare_detect ..)

theorem State.silent_of_bare {s t : State} (h : t.bare = s.bare) : t.silent = s.silent :=
  State.of_bare State.silent (fun _ => rfl) h
@[simp] theorem State.silent_stageRec (s : State) (type body : Nat) : (s.stageRec type body).silent = s.silent :=
  State.silent_of_bare (State.bare_stageRec ..)
@[simp] theorem State.silent_event (s : State) (f : Fld) (unit job : Nat) : (s.event f unit job).silent = s.silent :=
  State.silent_of_bare (State.bare_event ..)
@[simp] theorem State.silent_eventUnit (s : State) (unit job : Nat) : (s.eventUnit unit job).silent = s.silent :=
  State.silent_of_bare (State.bare_eventUnit ..)
@[simp] theorem State.silent_gcount (s : State) (n k : Nat) : (s.gcount n k).silent = s.silent :=
  State.silent_of_bare (State.bare_gcount ..)
@[simp] theorem State.silent_count (s : State) (p n k : Nat) : (s.count p n k).silent = s.silent :=
  State.silent_of_bare (State.bare_count ..)
@[simp] theorem State.silent_detect (s : State) (unit cls flags desc ctx layer operator job syn : Nat) : (s.detect unit cls flags desc ctx layer operator job syn).silent = s.silent :=
  State.silent_of_bare (State.bare_detect ..)

theorem State.deadSent_of_bare {s t : State} (h : t.bare = s.bare) : t.deadSent = s.deadSent :=
  State.of_bare State.deadSent (fun _ => rfl) h
@[simp] theorem State.deadSent_stageRec (s : State) (type body : Nat) : (s.stageRec type body).deadSent = s.deadSent :=
  State.deadSent_of_bare (State.bare_stageRec ..)
@[simp] theorem State.deadSent_event (s : State) (f : Fld) (unit job : Nat) : (s.event f unit job).deadSent = s.deadSent :=
  State.deadSent_of_bare (State.bare_event ..)
@[simp] theorem State.deadSent_eventUnit (s : State) (unit job : Nat) : (s.eventUnit unit job).deadSent = s.deadSent :=
  State.deadSent_of_bare (State.bare_eventUnit ..)
@[simp] theorem State.deadSent_gcount (s : State) (n k : Nat) : (s.gcount n k).deadSent = s.deadSent :=
  State.deadSent_of_bare (State.bare_gcount ..)
@[simp] theorem State.deadSent_count (s : State) (p n k : Nat) : (s.count p n k).deadSent = s.deadSent :=
  State.deadSent_of_bare (State.bare_count ..)
@[simp] theorem State.deadSent_detect (s : State) (unit cls flags desc ctx layer operator job syn : Nat) : (s.detect unit cls flags desc ctx layer operator job syn).deadSent = s.deadSent :=
  State.deadSent_of_bare (State.bare_detect ..)

theorem State.updDone_of_bare {s t : State} (h : t.bare = s.bare) : t.updDone = s.updDone :=
  State.of_bare State.updDone (fun _ => rfl) h
@[simp] theorem State.updDone_stageRec (s : State) (type body : Nat) : (s.stageRec type body).updDone = s.updDone :=
  State.updDone_of_bare (State.bare_stageRec ..)
@[simp] theorem State.updDone_event (s : State) (f : Fld) (unit job : Nat) : (s.event f unit job).updDone = s.updDone :=
  State.updDone_of_bare (State.bare_event ..)
@[simp] theorem State.updDone_eventUnit (s : State) (unit job : Nat) : (s.eventUnit unit job).updDone = s.updDone :=
  State.updDone_of_bare (State.bare_eventUnit ..)
@[simp] theorem State.updDone_gcount (s : State) (n k : Nat) : (s.gcount n k).updDone = s.updDone :=
  State.updDone_of_bare (State.bare_gcount ..)
@[simp] theorem State.updDone_count (s : State) (p n k : Nat) : (s.count p n k).updDone = s.updDone :=
  State.updDone_of_bare (State.bare_count ..)
@[simp] theorem State.updDone_detect (s : State) (unit cls flags desc ctx layer operator job syn : Nat) : (s.detect unit cls flags desc ctx layer operator job syn).updDone = s.updDone :=
  State.updDone_of_bare (State.bare_detect ..)

theorem State.loads_of_bare {s t : State} (h : t.bare = s.bare) : t.loads = s.loads :=
  State.of_bare State.loads (fun _ => rfl) h
@[simp] theorem State.loads_stageRec (s : State) (type body : Nat) : (s.stageRec type body).loads = s.loads :=
  State.loads_of_bare (State.bare_stageRec ..)
@[simp] theorem State.loads_event (s : State) (f : Fld) (unit job : Nat) : (s.event f unit job).loads = s.loads :=
  State.loads_of_bare (State.bare_event ..)
@[simp] theorem State.loads_eventUnit (s : State) (unit job : Nat) : (s.eventUnit unit job).loads = s.loads :=
  State.loads_of_bare (State.bare_eventUnit ..)
@[simp] theorem State.loads_gcount (s : State) (n k : Nat) : (s.gcount n k).loads = s.loads :=
  State.loads_of_bare (State.bare_gcount ..)
@[simp] theorem State.loads_count (s : State) (p n k : Nat) : (s.count p n k).loads = s.loads :=
  State.loads_of_bare (State.bare_count ..)
@[simp] theorem State.loads_detect (s : State) (unit cls flags desc ctx layer operator job syn : Nat) : (s.detect unit cls flags desc ctx layer operator job syn).loads = s.loads :=
  State.loads_of_bare (State.bare_detect ..)

theorem State.keys_of_bare {s t : State} (h : t.bare = s.bare) : t.keys = s.keys :=
  State.of_bare State.keys (fun _ => rfl) h
@[simp] theorem State.keys_stageRec (s : State) (type body : Nat) : (s.stageRec type body).keys = s.keys :=
  State.keys_of_bare (State.bare_stageRec ..)
@[simp] theorem State.keys_event (s : State) (f : Fld) (unit job : Nat) : (s.event f unit job).keys = s.keys :=
  State.keys_of_bare (State.bare_event ..)
@[simp] theorem State.keys_eventUnit (s : State) (unit job : Nat) : (s.eventUnit unit job).keys = s.keys :=
  State.keys_of_bare (State.bare_eventUnit ..)
@[simp] theorem State.keys_gcount (s : State) (n k : Nat) : (s.gcount n k).keys = s.keys :=
  State.keys_of_bare (State.bare_gcount ..)
@[simp] theorem State.keys_count (s : State) (p n k : Nat) : (s.count p n k).keys = s.keys :=
  State.keys_of_bare (State.bare_count ..)
@[simp] theorem State.keys_detect (s : State) (unit cls flags desc ctx layer operator job syn : Nat) : (s.detect unit cls flags desc ctx layer operator job syn).keys = s.keys :=
  State.keys_of_bare (State.bare_detect ..)

theorem State.slotKeep_of_bare {s t : State} (h : t.bare = s.bare) : t.slotKeep = s.slotKeep :=
  State.of_bare State.slotKeep (fun _ => rfl) h
@[simp] theorem State.slotKeep_stageRec (s : State) (type body : Nat) : (s.stageRec type body).slotKeep = s.slotKeep :=
  State.slotKeep_of_bare (State.bare_stageRec ..)
@[simp] theorem State.slotKeep_event (s : State) (f : Fld) (unit job : Nat) : (s.event f unit job).slotKeep = s.slotKeep :=
  State.slotKeep_of_bare (State.bare_event ..)
@[simp] theorem State.slotKeep_eventUnit (s : State) (unit job : Nat) : (s.eventUnit unit job).slotKeep = s.slotKeep :=
  State.slotKeep_of_bare (State.bare_eventUnit ..)
@[simp] theorem State.slotKeep_gcount (s : State) (n k : Nat) : (s.gcount n k).slotKeep = s.slotKeep :=
  State.slotKeep_of_bare (State.bare_gcount ..)
@[simp] theorem State.slotKeep_count (s : State) (p n k : Nat) : (s.count p n k).slotKeep = s.slotKeep :=
  State.slotKeep_of_bare (State.bare_count ..)
@[simp] theorem State.slotKeep_detect (s : State) (unit cls flags desc ctx layer operator job syn : Nat) : (s.detect unit cls flags desc ctx layer operator job syn).slotKeep = s.slotKeep :=
  State.slotKeep_of_bare (State.bare_detect ..)

theorem State.cqLap_of_bare {s t : State} (h : t.bare = s.bare) : t.cqLap = s.cqLap :=
  State.of_bare State.cqLap (fun _ => rfl) h
@[simp] theorem State.cqLap_stageRec (s : State) (type body : Nat) : (s.stageRec type body).cqLap = s.cqLap :=
  State.cqLap_of_bare (State.bare_stageRec ..)
@[simp] theorem State.cqLap_event (s : State) (f : Fld) (unit job : Nat) : (s.event f unit job).cqLap = s.cqLap :=
  State.cqLap_of_bare (State.bare_event ..)
@[simp] theorem State.cqLap_eventUnit (s : State) (unit job : Nat) : (s.eventUnit unit job).cqLap = s.cqLap :=
  State.cqLap_of_bare (State.bare_eventUnit ..)
@[simp] theorem State.cqLap_gcount (s : State) (n k : Nat) : (s.gcount n k).cqLap = s.cqLap :=
  State.cqLap_of_bare (State.bare_gcount ..)
@[simp] theorem State.cqLap_count (s : State) (p n k : Nat) : (s.count p n k).cqLap = s.cqLap :=
  State.cqLap_of_bare (State.bare_count ..)
@[simp] theorem State.cqLap_detect (s : State) (unit cls flags desc ctx layer operator job syn : Nat) : (s.detect unit cls flags desc ctx layer operator job syn).cqLap = s.cqLap :=
  State.cqLap_of_bare (State.bare_detect ..)

theorem State.cqHeld_of_bare {s t : State} (h : t.bare = s.bare) : t.cqHeld = s.cqHeld :=
  State.of_bare State.cqHeld (fun _ => rfl) h
@[simp] theorem State.cqHeld_stageRec (s : State) (type body : Nat) : (s.stageRec type body).cqHeld = s.cqHeld :=
  State.cqHeld_of_bare (State.bare_stageRec ..)
@[simp] theorem State.cqHeld_event (s : State) (f : Fld) (unit job : Nat) : (s.event f unit job).cqHeld = s.cqHeld :=
  State.cqHeld_of_bare (State.bare_event ..)
@[simp] theorem State.cqHeld_eventUnit (s : State) (unit job : Nat) : (s.eventUnit unit job).cqHeld = s.cqHeld :=
  State.cqHeld_of_bare (State.bare_eventUnit ..)
@[simp] theorem State.cqHeld_gcount (s : State) (n k : Nat) : (s.gcount n k).cqHeld = s.cqHeld :=
  State.cqHeld_of_bare (State.bare_gcount ..)
@[simp] theorem State.cqHeld_count (s : State) (p n k : Nat) : (s.count p n k).cqHeld = s.cqHeld :=
  State.cqHeld_of_bare (State.bare_count ..)
@[simp] theorem State.cqHeld_detect (s : State) (unit cls flags desc ctx layer operator job syn : Nat) : (s.detect unit cls flags desc ctx layer operator job syn).cqHeld = s.cqHeld :=
  State.cqHeld_of_bare (State.bare_detect ..)

theorem State.aon_of_bare {s t : State} (h : t.bare = s.bare) : t.aon = s.aon :=
  State.of_bare State.aon (fun _ => rfl) h
@[simp] theorem State.aon_stageRec (s : State) (type body : Nat) : (s.stageRec type body).aon = s.aon :=
  State.aon_of_bare (State.bare_stageRec ..)
@[simp] theorem State.aon_event (s : State) (f : Fld) (unit job : Nat) : (s.event f unit job).aon = s.aon :=
  State.aon_of_bare (State.bare_event ..)
@[simp] theorem State.aon_eventUnit (s : State) (unit job : Nat) : (s.eventUnit unit job).aon = s.aon :=
  State.aon_of_bare (State.bare_eventUnit ..)
@[simp] theorem State.aon_gcount (s : State) (n k : Nat) : (s.gcount n k).aon = s.aon :=
  State.aon_of_bare (State.bare_gcount ..)
@[simp] theorem State.aon_count (s : State) (p n k : Nat) : (s.count p n k).aon = s.aon :=
  State.aon_of_bare (State.bare_count ..)
@[simp] theorem State.aon_detect (s : State) (unit cls flags desc ctx layer operator job syn : Nat) : (s.detect unit cls flags desc ctx layer operator job syn).aon = s.aon :=
  State.aon_of_bare (State.bare_detect ..)

end Sys2Proof.Machine
end

