-- ==== Sys2Proof/Laws/Frames.lean ====
section
/-! SUPPORT. What the shared operations of alerts, pins, records and power domains write, and what they leave alone. -/
namespace Sys2Proof.Machine

/-! ## Answers and frames -/

theorem answers_next {t : State} {P : State → Prop} (h : P t) : Answers (.next t) P := ⟨t, rfl, h⟩

theorem answers_imp {o : Host.Outcome State Fault Refusal} {P Q : State → Prop} (h : Answers o P) (hi : ∀ t, P t → Q t) :
    Answers o Q := by
  obtain ⟨t, e, p⟩ := h
  exact ⟨t, e, hi t p⟩

theorem State.RegsKept.refl (s : State) (P : Nat → Prop) : s.RegsKept s P := fun _ _ _ => rfl

theorem State.RegsKept.of_regs {s t u : State} {P : Nat → Prop} (h : s.RegsKept t P) (e : u.regs = t.regs) : s.RegsKept u P :=
  fun a ha hr => (State.reg_congr e a).trans (h a ha hr)

theorem State.RegsKept.setFld {s t : State} {P : Nat → Prop} (h : s.RegsKept t P) {f : Fld} (v : Nat) (hp : P f.addr) :
    s.RegsKept (t.setFld f v) P := by
  intro a ha hr
  have e : a ≠ f.addr := fun e => ha (e ▸ hp)
  rw [State.reg_setFld_ne _ _ _ e, h a ha hr]

theorem State.RegsKept.setReg {s t : State} {P : Nat → Prop} (h : s.RegsKept t P) {a : Nat} (w : Word) (hp : P a) :
    s.RegsKept (t.setReg a w) P := by
  intro b hb hr
  have e : b ≠ a := fun e => hb (e ▸ hp)
  rw [State.reg_setReg_ne _ _ e, h b hb hr]

theorem State.RegsKept.stageRec {s t : State} {P : Nat → Prop} (h : s.RegsKept t P) (type body : Nat) :
    s.RegsKept (t.stageRec type body) P := fun a ha hr => (State.reg_stageRec _ _ _ hr).trans (h a ha hr)
theorem State.RegsKept.event {s t : State} {P : Nat → Prop} (h : s.RegsKept t P) (f : Fld) (unit job : Nat) :
    s.RegsKept (t.event f unit job) P := h.stageRec _ _
theorem State.RegsKept.eventUnit {s t : State} {P : Nat → Prop} (h : s.RegsKept t P) (unit job : Nat) :
    s.RegsKept (t.eventUnit unit job) P := h.stageRec _ _
theorem State.RegsKept.gcount {s t : State} {P : Nat → Prop} (h : s.RegsKept t P) (n k : Nat) :
    s.RegsKept (t.gcount n k) P := fun a ha hr => (State.reg_gcount _ _ _ hr).trans (h a ha hr)
theorem State.RegsKept.count {s t : State} {P : Nat → Prop} (h : s.RegsKept t P) (p n k : Nat) :
    s.RegsKept (t.count p n k) P := fun a ha hr => (State.reg_count _ _ _ _ hr).trans (h a ha hr)
theorem State.RegsKept.detect {s t : State} {P : Nat → Prop} (h : s.RegsKept t P)
    (unit cls flags desc ctx layer operator job syn : Nat) :
    s.RegsKept (t.detect unit cls flags desc ctx layer operator job syn) P :=
  fun a ha hr => (State.reg_detect ..).trans (h a ha hr)

theorem State.byte_congr {s t : State} (h : t.mem = s.mem) (a : Nat) : t.byte a = s.byte a := by
  simp only [State.byte, h]

theorem State.MemKept.of_eq {s t : State} (hm : t.mem = s.mem) (hp : t.poison = s.poison) : s.MemKept t :=
  ⟨fun a => State.byte_congr hm a, fun d => by rw [hp]⟩

theorem State.MemKept.of_bare {s t : State} (h : t.bare = s.bare) : s.MemKept t :=
  .of_eq (State.mem_of_bare h) (State.poison_of_bare h)

/-! ## Records of the Keeper -/

theorem State.bare_keeperRec (s : State) (u cls flags syn : Nat) : (s.keeperRec u cls flags syn).bare = s.bare :=
  State.bare_detect ..
theorem State.reg_keeperRec (s : State) (u cls flags syn a : Nat) : (s.keeperRec u cls flags syn).reg a = s.reg a :=
  State.reg_detect ..
theorem State.bare_powerRec (s : State) (unit kind index dom val limit us : Nat) :
    (s.powerRec unit kind index dom val limit us).bare = s.bare := State.bare_keeperRec ..
theorem State.reg_powerRec (s : State) (unit kind index dom val limit us a : Nat) :
    (s.powerRec unit kind index dom val limit us).reg a = s.reg a := State.reg_keeperRec ..
theorem State.fld_powerRec (s : State) (unit kind index dom val limit us : Nat) (g : Fld) :
    (s.powerRec unit kind index dom val limit us).fld g = s.fld g := State.fld_of_reg (State.reg_powerRec ..)

/-! ## Alerts and pins -/

theorem State.bare_emit (s : State) (m : OutMsg) : (s.emit m).bare = { s.bare with out := s.out ++ [m] } := rfl
theorem State.reg_emit (s : State) (m : OutMsg) (a : Nat) : (s.emit m).reg a = s.reg a := State.reg_congr rfl a

/-- The bit of an alert is set whatever stood there. -/
theorem State.fld_sbAlert_self (s : State) (b : Nat) (h : b < 32) : (s.sbAlert b).fld ⟨KPR_SB_ALERT, b, 1⟩ = 1 := by
  have e : (s.setFld ⟨KPR_SB_ALERT, b, 1⟩ 1).fld ⟨KPR_SB_ALERT, b, 1⟩ = 1 := by
    rw [State.fld_setFld_self _ _ _ (by simp; omega)]; rfl
  unfold State.sbAlert
  simp only []
  split
  · exact (State.fld_of_reg (State.reg_emit ..)).trans e
  · exact e

theorem State.reg_sbAlert (s : State) (b : Nat) {a : Nat} (h : a ≠ KPR_SB_ALERT) : (s.sbAlert b).reg a = s.reg a := by
  unfold State.sbAlert
  simp only []
  split
  · exact (State.reg_emit ..).trans (State.reg_setFld_ne _ _ _ h)
  · exact State.reg_setFld_ne _ _ _ h

theorem State.fld_sbAlert (s : State) (b : Nat) (g : Fld) (h : g.addr ≠ KPR_SB_ALERT) : (s.sbAlert b).fld g = s.fld g :=
  State.fld_of_reg (State.reg_sbAlert _ _ h)

theorem State.out_of_bare' {s t : State} {o : List OutMsg} (h : t.bare = { s.bare with out := o }) :
    t.bare = { s.bare with out := t.out } := by
  have e : t.out = o := congrArg State.out h
  rw [e]; exact h

theorem State.bare_out_self (s : State) : s.bare = { s.bare with out := s.out } := rfl

/-- An alert writes its register, and may raise an in-band interrupt. -/
theorem State.bare_sbAlert (s : State) (b : Nat) : (s.sbAlert b).bare = { s.bare with out := (s.sbAlert b).out } := by
  apply State.out_of_bare' (o := (s.sbAlert b).out)
  unfold State.sbAlert
  simp only []
  split
  · generalize hq : s.setFld ⟨KPR_SB_ALERT, b, 1⟩ 1 = q
    have hb : q.bare = s.bare := hq ▸ State.bare_setFld ..
    rw [State.bare_emit, hb]
    rfl
  · rw [State.bare_setFld, State.out_setFld]
    exact State.bare_out_self s

/-! ## Power domains -/

theorem State.bare_setDom (s : State) (d v : Nat) : (s.setDom d v).bare = s.bare := by
  unfold State.setDom
  simp only []
  split <;> simp only [State.bare_setFld]

theorem State.domState_setDom (s : State) (d v : Nat) (hd : d < 40) (hv : v < 4) : (s.setDom d v).domState d = v := by
  unfold State.setDom State.domState
  simp only []
  have h : (s.setFld (PWR_DOM_STATE d) v).fld (PWR_DOM_STATE d) = v := by
    rw [State.fld_setFld_self _ _ _ (by simp [PWR_DOM_STATE])]
    simp [PWR_DOM_STATE]
    omega
  split
  · rw [State.fld_setFld_apart]
    · exact h
    · left
      simp [PWR_DOM_STATE, CLK_STATUS, PWR_DOM]
      omega
    · simp
      omega
  · exact h

theorem State.RegsKept.setDom {s t : State} {P : Nat → Prop} (h : s.RegsKept t P) (d v : Nat) (h1 : P (PWR_DOM d))
    (h2 : P CLK_STATUS) : s.RegsKept (t.setDom d v) P := by
  unfold State.setDom
  simp only []
  split
  · exact (h.setFld _ h1).setFld _ h2
  · exact h.setFld _ h1

/-- A domain's change of state writes its register, and the lock bits of the clock status. -/
theorem State.only_setDom (s : State) (d v : Nat) : s.OnlyRegs (s.setDom d v) (fun a => a = PWR_DOM d ∨ a = CLK_STATUS) :=
  ⟨State.bare_setDom .., State.RegsKept.setDom (State.RegsKept.refl s _) d v (.inl rfl) (.inr rfl)⟩

theorem State.fld_setDom (s : State) (d v : Nat) (g : Fld) (h : g.addr ≠ PWR_DOM d) (h2 : g.addr ≠ CLK_STATUS) :
    (s.setDom d v).fld g = s.fld g := by
  unfold State.setDom
  simp only []
  split
  · rw [State.fld_of_reg (State.reg_setFld_ne _ _ _ h2), State.fld_of_reg (State.reg_setFld_ne _ _ _ h)]
  · exact State.fld_of_reg (State.reg_setFld_ne _ _ _ h)

/-! ## Loops -/

/-- What a loop keeps. -/
theorem forRange_ind {I : Nat → State → Prop} {n : Nat} {f : Nat → State → State} {s : State} (h0 : I 0 s)
    (hs : ∀ i t, i < n → I i t → I (i + 1) (f i t)) : I n (forRange n f s) := by
  unfold forRange
  induction n with
  | zero => simpa using h0
  | succ n ih =>
    rw [List.range_succ, List.foldl_append]
    simp only [List.foldl_cons, List.foldl_nil]
    exact hs n _ (by omega) (ih (fun i t hi h => hs i t (by omega) h))

end Sys2Proof.Machine
end

