-- ==== Sys2Proof/Laws/Issue.lean ====
section
/-! SUPPORT. What the shared attempt to issue a command does (R164): it issues, it waits, or a poisoned fetch kills. -/
namespace Sys2Proof.Machine

/-- The next command issues: its effect starts one position further. -/
theorem State.tryIssue_issues {s : State} {p ctx : Nat} {cls : Nat → Bool} (h : s.Issues p ctx cls) (run : Cmd → State → State) :
    s.tryIssue p ctx cls false run =
      run (s.nextCmd p ctx) (s.issuedAt p ctx 1 (s.effOffset p ctx (s.descAt p ctx (s.ctxPos p ctx)))) := by
  obtain ⟨h1, h2, h3, h4, h5, h6⟩ := h
  simp [State.tryIssue, State.cmdAt, State.nextCmd, State.issuedAt, h1, h2, h3, h4, h5, h6]

/-- A matrix command and the stream command after it issue together, two positions further (R152). -/
theorem State.tryIssue_pair {s : State} {p ctx : Nat} {cls : Nat → Bool} (h : s.IssuesPair p ctx cls) (run : Cmd → State → State) :
    s.tryIssue p ctx cls true run =
      run (s.nextCmd p ctx) (s.issuedAt p ctx 2 (max (s.effOffset p ctx (s.descAt p ctx (s.ctxPos p ctx)))
        (s.effOffset p ctx (s.descAt p ctx (s.ctxPos p ctx + 1))))) := by
  obtain ⟨⟨h1, h2, h3, h4, h5, h6⟩, g2, g4, g5, g6⟩ := h
  simp [State.tryIssue, State.cmdAt, State.nextCmd, State.issuedAt, h1, h2, h3, h4, h5, h6, g2, g4, g5, g6]

theorem State.tryIssue_not_ready {s : State} {p ctx : Nat} (h : s.ctxReady p ctx = false) (cls : Nat → Bool) (pair : Bool)
    (run : Cmd → State → State) : s.tryIssue p ctx cls pair run = s := by
  simp [State.tryIssue, h]

theorem State.tryIssue_poisoned {s : State} {p ctx : Nat} (h : s.ctxReady p ctx = true)
    (hp : s.fetchPsn p ctx (s.ctxPos p ctx) = true) (cls : Nat → Bool) (pair : Bool) (run : Cmd → State → State) :
    s.tryIssue p ctx cls pair run = s.fetchKill p ctx := by
  simp [State.tryIssue, h, hp]

/-- A command of another class, or malformed, is none of this row's. -/
theorem State.tryIssue_other {s : State} {p ctx : Nat} {cls : Nat → Bool} (hp : s.fetchPsn p ctx (s.ctxPos p ctx) = false)
    (h : cls (s.descAt p ctx (s.ctxPos p ctx)) = false ∨ s.reasonAt p ctx (s.ctxPos p ctx) ≠ 0) (run : Cmd → State → State) :
    s.tryIssue p ctx cls false run = s := by
  rcases h with h | h <;> simp [State.tryIssue, State.cmdAt, hp, h]

theorem State.tryIssue_not_due {s : State} {p ctx : Nat} {cls : Nat → Bool} (hp : s.fetchPsn p ctx (s.ctxPos p ctx) = false)
    (h : s.isDue p ctx (s.descAt p ctx (s.ctxPos p ctx)) = false) (run : Cmd → State → State) :
    s.tryIssue p ctx cls false run = s := by
  simp [State.tryIssue, State.cmdAt, hp, h]

/-- A command that something holds notes the cause and does not issue. -/
theorem State.tryIssue_held {s : State} {p ctx : Nat} {cls : Nat → Bool} {x : Nat × Nat × Nat × Nat} (h1 : s.ctxReady p ctx = true)
    (h2 : s.fetchPsn p ctx (s.ctxPos p ctx) = false) (h3 : cls (s.descAt p ctx (s.ctxPos p ctx)) = true)
    (h4 : s.reasonAt p ctx (s.ctxPos p ctx) = 0) (h5 : s.isDue p ctx (s.descAt p ctx (s.ctxPos p ctx)) = true)
    (h6 : s.holdCause p ctx (s.descAt p ctx (s.ctxPos p ctx)) = some x) (run : Cmd → State → State) :
    s.tryIssue p ctx cls false run = s.noteHold (s.nextCmd p ctx) x := by
  simp [State.tryIssue, State.cmdAt, State.nextCmd, h1, h2, h3, h4, h5, h6]

end Sys2Proof.Machine
end

