-- ==== Sys2Proof/Laws/Kept.lean ====
section
/-! SUPPORT. What every operation keeps, and the rules by which the lemmas of the files KeptA on go through definitions. -/
namespace Sys2Proof.Machine
/-- What an operation is to keep: the queue, and the invariant where `inv` asks for it. -/
structure Keep where
  queue : List Instr
  inv : Prop

/-- The queue is that of `cs`, and the other fields meet the invariant where `cs` asks for it. -/
def KeptF (cs : Keep) (pending : List Instr) (mem : List Host.Cell) (poison : Store Bool) (regs : Store Word) (ftime : Nat)
    (cnt vx : Store Nat) (vxPsn : Store Bool) : Prop := pending = cs.queue ∧ (cs.inv → InvF mem poison regs ftime
        cnt vx vxPsn)

/-- The queue of `s` is that of `cs`, and `s` meets the invariant where `cs` asks for it. Each operation of the
    machine keeps it, whatever `cs` is: it leaves
the queue alone and it keeps the invariant. -/
def State.Kept (cs : Keep) (s : State) : Prop := KeptF cs s.pending s.mem s.poison s.regs s.ftime s.cnt s.vx s.vxPsn

theorem kept_of {cs : Keep} {s t : State} (h : s.Kept cs) (hp : t.pending = s.pending)
    (hi : InvF s.mem s.poison s.regs s.ftime s.cnt s.vx s.vxPsn → InvF t.mem t.poison t.regs t.ftime t.cnt t.vx
        t.vxPsn) : t.Kept cs :=
  ⟨hp.trans h.1, fun b => hi (h.2 b)⟩

/-- A next state keeps it; a fault or a refusal leaves nothing to keep. -/
def KeptO (cs : Keep) : Host.Outcome State Fault Refusal → Prop
  | .next t => t.Kept cs
  | _ => True

theorem kept_fold {cs : Keep} {s : State} (h : s.Kept cs) : KeptF cs s.pending s.mem s.poison s.regs s.ftime s.cnt
    s.vx s.vxPsn := h

theorem kept_next {cs : Keep} {t : State} (h : t.Kept cs) : KeptO cs (.next t) := h

theorem kept_fault {cs : Keep} {r : Fault} : KeptO cs (.fault r) := trivial

theorem kept_refused {cs : Keep} {r : Refusal} : KeptO cs (.refused r) := trivial

theorem kept_cut {cs : Keep} {P : Prop} (x : State) (h : x.Kept cs) (k : x.Kept cs → P) : P := k h

theorem kept_cut1 {α : Type} {cs : Keep} {P : Prop} (x : State × α) (h : x.1.Kept cs) (k : x.1.Kept cs → P) : P := k h

theorem kept_fst {α : Type} {cs : Keep} {p : State × α} {t : State} {b : α} (e : p = (t, b)) (h : p.1.Kept cs) :
    t.Kept cs := by
  subst e; exact h

theorem kept_pair {α : Type} {cs : Keep} {t : State} {b : α} (h : t.Kept cs) : ((t, b) : State × α).1.Kept cs := h

theorem foldl_kept {α : Type} {cs : Keep} {l : List α} {f : State → α → State} {s : State}
    (hf : ∀ t x, t.Kept cs → (f t x).Kept cs) (h : s.Kept cs) : (l.foldl f s).Kept cs := by
  induction l generalizing s with
  | nil => exact h
  | cons a l ih => exact ih (hf s a h)

theorem foldl_kept1 {α β : Type} {cs : Keep} {l : List α} {f : State × β → α → State × β} {s : State × β}
    (hf : ∀ t x, t.1.Kept cs → (f t x).1.Kept cs) (h : s.1.Kept cs) : (l.foldl f s).1.Kept cs := by
  induction l generalizing s with
  | nil => exact h
  | cons a l ih => exact ih (hf s a h)

theorem forRange_kept {cs : Keep} {n : Nat} {f : Nat → State → State} {s : State}
    (hf : ∀ i t, t.Kept cs → (f i t).Kept cs) (h : s.Kept cs) : (forRange n f s).Kept cs := by
  unfold forRange; exact foldl_kept (fun t x ht => hf x t ht) h

theorem kept_cut2 {α : Type} {cs : Keep} {P : Prop} {p : State × α} {t : State} {b : α} (e : p = (t, b)) (h : p.1.Kept cs)
    (k : t.Kept cs → P) : P := k (kept_fst e h)

theorem cntAdd_lt (time : Bool) (v n : Nat) : cntAdd time v n < 2 ^ 48 := by
  unfold cntAdd cntMax
  split
  · exact Nat.mod_lt _ (by decide)
  · exact Nat.lt_of_le_of_lt (Nat.min_le_right _ _) (by decide)

theorem cntSet_lt {l : Store Nat} (h : ∀ c ∈ l, c.2 < 2 ^ 48) (k : Nat) {v : Nat} (hv : v < 2 ^ 48) :
    ∀ c ∈ storeSet 0 l k v, c.2 < 2 ^ 48 := by
  intro c hc
  rcases mem_storeSet hc with hc | ⟨rfl, _⟩
  · exact h c hc
  · exact hv

theorem outState_kept {cs : Keep} {s : State} {o : Host.Outcome State Fault Refusal} (h : s.Kept cs) (ho : KeptO cs o) :
    (outState s o).Kept cs := by
  cases o with
  | next t => exact ho
  | fault r => exact h
  | refused r => exact h

theorem ite_kept {cs : Keep} {c : Prop} [Decidable c] {a b : State} (ha : a.Kept cs) (hb : b.Kept cs) :
    (if c then a else b).Kept cs := by
  split
  · exact ha
  · exact hb

theorem ite_kept1 {α : Type} {cs : Keep} {c : Prop} [Decidable c] {a b : State × α} (ha : a.1.Kept cs) (hb : b.1.Kept cs) :
    (if c then a else b).1.Kept cs := by
  split
  · exact ha
  · exact hb

theorem ite_keptO {cs : Keep} {c : Prop} [Decidable c] {a b : Host.Outcome State Fault Refusal} (ha : KeptO cs a)
    (hb : KeptO cs b) : KeptO cs (if c then a else b) := by
  split
  · exact ha
  · exact hb

theorem kept_mk {cs : Keep} {pending} {regs} {mem} {poison} {parityBad} {deadChan} {cnt} {latch} {ftime} {inflight}
    {issuing} {vx} {vxPsn} {vxEng} {vxCmds} {shardS} {shardP} {preload} {held} {etaMissed} {replayEta} {holds} {slipMax}
    {lastIssue} {startCyc} {resetting} {detections} {staged} {rewrite} {recDrops} {trcBuf} {trc} {owner} {txq} {intq}
    {tblBad} {logBroken} {links} {buckets} {slotUse} {flowHold} {flowDrain} {colls} {ops} {ended} {out} {boot} {pins}
    {perst} {uhs} {dets} {detLog} {expo} {expoDay} {activity} {guards} {uhsDirty} {copyMin} {copies} {retires} {rstLog}
    {rstRun} {jobOut} {migr} {recent} {life} {acc} {accExt} {tally} {ckpts} {opRing} {lastFlush} {recLost} {kprLost}
    {ibiEn} {i3cAddr} {i3cPtr} {sbImage} {irqPend} {irqLast} {scrubPos} {jobs} {rangeSeen} {tblCopy} {pStep} {thermStep}
    {thermLast} {capDuty} {thDuty} {earlyMsgs} {slew} {slewPhase} {timeGood} {satBase} {bcasts} {opCount} {feeds}
    {rebuilds} {restores} {restoreMsgs} {rcopy} {rcopyAsked} {ghbAt} {silent} {deadSent} {updDone} {loads} {keys}
    {slotKeep} {cqLap} {cqHeld} {aon} (h : KeptF cs pending mem poison regs ftime cnt vx vxPsn) :
    State.Kept cs ⟨pending, regs, mem, poison, parityBad, deadChan, cnt, latch, ftime, inflight, issuing, vx, vxPsn,
        vxEng, vxCmds, shardS, shardP, preload, held, etaMissed, replayEta, holds, slipMax, lastIssue, startCyc,
        resetting, detections, staged, rewrite, recDrops, trcBuf, trc, owner, txq, intq, tblBad, logBroken, links,
        buckets, slotUse, flowHold, flowDrain, colls, ops, ended, out, boot, pins, perst, uhs, dets, detLog, expo,
        expoDay, activity, guards, uhsDirty, copyMin, copies, retires, rstLog, rstRun, jobOut, migr, recent, life, acc,
        accExt, tally, ckpts, opRing, lastFlush, recLost, kprLost, ibiEn, i3cAddr, i3cPtr, sbImage, irqPend, irqLast,
        scrubPos, jobs, rangeSeen, tblCopy, pStep, thermStep, thermLast, capDuty, thDuty, earlyMsgs, slew, slewPhase,
        timeGood, satBase, bcasts, opCount, feeds, rebuilds, restores, restoreMsgs, rcopy, rcopyAsked, ghbAt, silent,
        deadSent, updDone, loads, keys, slotKeep, cqLap, cqHeld, aon⟩ := h

end Sys2Proof.Machine
end

