-- ==== Sys2Proof/Laws/KeptA.lean ====
section
/-! SUPPORT. What the operations of Machine/Ops, Machine/Operands, Machine/Packets, Machine/Flags, Machine/Cam, Machine/Vector keep (`State.Kept`): the queue, and the invariant. -/
namespace Sys2Proof.Machine

theorem State.setReg_kept {cs : Keep} {s : State} (h : s.Kept cs) (a : Nat) (w : Word) : (s.setReg a w).Kept cs :=
  kept_of h rfl fun i => ⟨i.mem, i.poison, storeRising_set _ _ _ i.regs, i.ftime, i.cnt, i.vx, i.vxPsn⟩

theorem State.setFld_kept {cs : Keep} {s : State} (h : s.Kept cs) : ∀ f v, State.Kept cs (State.setFld s f v) := by
  intros
  unfold State.setFld
  repeat' first
    | (with_reducible assumption)
    | (with_reducible apply State.setReg_kept)

theorem State.setReg64_kept {cs : Keep} {s : State} (h : s.Kept cs) : ∀ a v, State.Kept cs (State.setReg64 s a v) := by
  intros
  unfold State.setReg64
  repeat' first
    | (with_reducible assumption)
    | (with_reducible apply State.setReg_kept)

theorem State.setBits32_kept {cs : Keep} {s : State} (h : s.Kept cs) : ∀ a lo w v, State.Kept cs (State.setBits32 s
    a lo w v) := by
  intros
  unfold State.setBits32
  repeat' first
    | (with_reducible assumption)
    | (with_reducible apply State.setFld_kept)

theorem State.clearRegs_kept {cs : Keep} {s : State} (h : s.Kept cs) (b n : Nat) : (s.clearRegs b n).Kept cs :=
  kept_of h rfl fun i => ⟨i.mem, i.poison, storeRising_clear _ _ i.regs, i.ftime, i.cnt, i.vx, i.vxPsn⟩

theorem State.gcntRaw_kept {cs : Keep} {s : State} (h : s.Kept cs) (n k : Nat) : (s.gcntRaw n k).Kept cs :=
  kept_of h rfl fun i => ⟨i.mem, i.poison, i.regs, i.ftime, cntSet_lt i.cnt _ (cntAdd_lt _ _ _), i.vx, i.vxPsn⟩

theorem State.formRec_kept {cs : Keep} {s : State} (h : s.Kept cs) : ∀ type body, State.Kept cs (State.formRec s
    type body).1 := by
  intros
  unfold State.formRec
  repeat' first
    | (with_reducible assumption)
    | (extract_lets +onlyGivenNames x; generalize x = y; clear x)
    | (with_reducible apply State.setFld_kept)

theorem State.pushRec_kept {cs : Keep} {s : State} (h : s.Kept cs) : ∀ type body, State.Kept cs (State.pushRec s
    type body) := by
  intros
  unfold State.pushRec
  repeat' first
    | (with_reducible apply State.setFld_kept)
    | (with_reducible apply State.gcntRaw_kept)
    | (with_reducible exact kept_mk (kept_fold (State.formRec_kept (by assumption) _ _)))

theorem State.pushGap_kept {cs : Keep} {s : State} (h : s.Kept cs) : State.Kept cs (State.pushGap s) := by
  unfold State.pushGap
  repeat' first
    | (with_reducible assumption)
    | (extract_lets +onlyGivenNames x; refine kept_cut (cs := cs) x ?_ ?_; subst x; rotate_left; generalize x = y;
        clear x; intro _)
    | (with_reducible refine ite_kept ?_ ?_)
    | (with_reducible apply State.pushRec_kept)
    | (with_reducible exact kept_mk (kept_fold (by assumption)))

theorem State.stageRec_kept {cs : Keep} {s : State} (h : s.Kept cs) : ∀ type body, State.Kept cs (State.stageRec s
    type body) := by
  intros
  unfold State.stageRec
  repeat' first
    | (with_reducible assumption)
    | (extract_lets +onlyGivenNames x; refine kept_cut (cs := cs) x ?_ ?_; subst x; rotate_left; generalize x = y;
        clear x; intro _)
    | (extract_lets +onlyGivenNames x; generalize x = y; clear x)
    | (with_reducible refine ite_kept ?_ ?_)
    | (with_reducible apply State.gcntRaw_kept)
    | (with_reducible apply State.setFld_kept)
    | (with_reducible apply State.pushRec_kept)
    | (with_reducible apply State.pushGap_kept)
    | (with_reducible exact kept_mk (kept_fold (by assumption)))
    | split

theorem State.event_kept {cs : Keep} {s : State} (h : s.Kept cs) : ∀ f unit job, State.Kept cs (State.event s f unit
    job) := by
  intros
  unfold State.event
  repeat' first
    | (with_reducible assumption)
    | (with_reducible apply State.stageRec_kept)

theorem State.eventUnit_kept {cs : Keep} {s : State} (h : s.Kept cs) : ∀ unit job, State.Kept cs (State.eventUnit s
    unit job) := by
  intros
  unfold State.eventUnit
  repeat' first
    | (with_reducible assumption)
    | (with_reducible apply State.stageRec_kept)

theorem State.gcount_kept {cs : Keep} {s : State} (h : s.Kept cs) : ∀ n k, State.Kept cs (State.gcount s n k) := by
  intros
  unfold State.gcount
  repeat' first
    | (with_reducible assumption)
    | (extract_lets +onlyGivenNames x; refine kept_cut (cs := cs) x ?_ ?_; subst x; rotate_left; generalize x = y;
        clear x; intro _)
    | (extract_lets +onlyGivenNames x; generalize x = y; clear x)
    | (with_reducible refine ite_kept ?_ ?_)
    | (with_reducible apply State.gcntRaw_kept)
    | (with_reducible apply State.event_kept)
    | (with_reducible apply State.setFld_kept)

theorem State.count_kept {cs : Keep} {s : State} (h : s.Kept cs) (p n k : Nat) : (s.count p n k).Kept cs := by
  unfold State.count
  extract_lets old v t
  have ht : t.Kept cs := kept_of h rfl fun i => ⟨i.mem, i.poison, i.regs, i.ftime, cntSet_lt i.cnt _ (cntAdd_lt _ _
      _), i.vx, i.vxPsn⟩
  split
  · exact State.event_kept (State.setFld_kept ht _ _) _ _ _
  · exact ht

theorem State.detect_kept {cs : Keep} {s : State} (h : s.Kept cs) : ∀ unit cls flags desc ctx layer operator job
    syndrome, State.Kept cs (State.detect s unit cls flags desc ctx layer operator job syndrome) := by
  intros
  unfold State.detect
  repeat' first
    | (with_reducible assumption)
    | (extract_lets +onlyGivenNames x; refine kept_cut (cs := cs) x ?_ ?_; subst x; rotate_left; generalize x = y;
        clear x; intro _)
    | (extract_lets +onlyGivenNames x; generalize x = y; clear x)
    | (with_reducible refine ite_kept ?_ ?_)
    | (with_reducible exact kept_mk (kept_fold (by assumption)))

theorem State.detectOnly_kept {cs : Keep} {s : State} (h : s.Kept cs) : ∀ unit row, State.Kept cs (State.detectOnly
    s unit row) := by
  intros
  unfold State.detectOnly
  repeat' first
    | (with_reducible assumption)
    | (with_reducible apply State.detect_kept)

theorem State.wrBytes_kept {cs : Keep} {s : State} (h : s.Kept cs) (a n v : Nat) : (s.wrBytes a n v).Kept cs :=
  kept_of h rfl fun i => ⟨storeWf_setRange _ _ _ i.mem, i.poison, i.regs, i.ftime, i.cnt, i.vx, i.vxPsn⟩

theorem State.trcPut_kept {cs : Keep} {s : State} (h : s.Kept cs) : ∀ p r, State.Kept cs (State.trcPut s p r).1 := by
  intros
  unfold State.trcPut
  repeat' first
    | (with_reducible assumption)
    | (extract_lets +onlyGivenNames x; refine kept_cut (cs := cs) x ?_ ?_; subst x; rotate_left; generalize x = y;
        clear x; intro _)
    | (extract_lets +onlyGivenNames x; generalize x = y; clear x)
    | (with_reducible refine ite_kept1 ?_ ?_)
    | (with_reducible apply State.wrBytes_kept)
    | (with_reducible apply State.setFld_kept)
    | (with_reducible exact kept_mk (kept_fold (by assumption)))

theorem State.setTrc_kept {cs : Keep} {s : State} (h : s.Kept cs) : ∀ p t, State.Kept cs (State.setTrc s p t) := by
  intros
  unfold State.setTrc
  repeat' first
    | (with_reducible exact kept_mk (kept_fold (by assumption)))

theorem State.trcTime_kept {cs : Keep} {s : State} (h : s.Kept cs) : ∀ p, State.Kept cs (State.trcTime s p) := by
  intros
  unfold State.trcTime
  repeat' first
    | (with_reducible assumption)
    | (extract_lets +onlyGivenNames x; refine kept_cut (cs := cs) x ?_ ?_; subst x; rotate_left; generalize x = y;
        clear x; intro _)
    | (extract_lets +onlyGivenNames x; generalize x = y; clear x)
    | (with_reducible apply State.trcPut_kept)
    | (with_reducible apply State.setTrc_kept)

theorem State.trcGap_kept {cs : Keep} {s : State} (h : s.Kept cs) : ∀ p, State.Kept cs (State.trcGap s p) := by
  intros
  unfold State.trcGap
  repeat' first
    | (with_reducible assumption)
    | (extract_lets +onlyGivenNames x; refine kept_cut (cs := cs) x ?_ ?_; subst x; rotate_left; generalize x = y;
        clear x; intro _)
    | (extract_lets +onlyGivenNames x; generalize x = y; clear x)
    | (with_reducible refine ite_kept ?_ ?_)
    | (with_reducible apply State.setFld_kept)
    | (with_reducible apply State.trcPut_kept)
    | (with_reducible apply State.setTrc_kept)
    | (with_reducible apply State.trcTime_kept)

theorem State.trcDrop_kept {cs : Keep} {s : State} (h : s.Kept cs) : ∀ p sync, State.Kept cs (State.trcDrop s p sync) := by
  intros
  unfold State.trcDrop
  repeat' first
    | (with_reducible assumption)
    | (extract_lets +onlyGivenNames x; generalize x = y; clear x)
    | (with_reducible apply State.count_kept)
    | (with_reducible apply State.setTrc_kept)

theorem State.trcPost_kept {cs : Keep} {s : State} (h : s.Kept cs) : ∀ p, State.Kept cs (State.trcPost s p) := by
  intros
  unfold State.trcPost
  repeat' first
    | (with_reducible assumption)
    | (extract_lets +onlyGivenNames x; refine kept_cut (cs := cs) x ?_ ?_; subst x; rotate_left; generalize x = y;
        clear x; intro _)
    | (extract_lets +onlyGivenNames x; generalize x = y; clear x)
    | (with_reducible refine ite_kept ?_ ?_)
    | (with_reducible apply State.setTrc_kept)
    | (with_reducible apply State.setFld_kept)

theorem State.trace_kept {cs : Keep} {s : State} (h : s.Kept cs) : ∀ p sync r, State.Kept cs (State.trace s p sync r) := by
  intros
  unfold State.trace
  repeat' first
    | (with_reducible assumption)
    | (extract_lets +onlyGivenNames x; refine kept_cut (cs := cs) x ?_ ?_; subst x; rotate_left; generalize x = y;
        clear x; intro _)
    | (extract_lets +onlyGivenNames x; generalize x = y; clear x)
    | (with_reducible refine ite_kept ?_ ?_)
    | (with_reducible apply State.trcDrop_kept)
    | (with_reducible apply State.trcGap_kept)
    | (with_reducible apply State.trcTime_kept)
    | (with_reducible apply State.trcPost_kept)
    | (with_reducible apply State.count_kept)
    | (with_reducible apply State.trcPut_kept)

theorem State.trigger1_kept {cs : Keep} {s : State} (h : s.Kept cs) : ∀ p src detail oper, State.Kept cs
    (State.trigger1 s p src detail oper) := by
  intros
  unfold State.trigger1
  repeat' first
    | (with_reducible assumption)
    | (extract_lets +onlyGivenNames x; refine kept_cut (cs := cs) x ?_ ?_; subst x; rotate_left; generalize x = y;
        clear x; intro _)
    | (extract_lets +onlyGivenNames x; generalize x = y; clear x)
    | (with_reducible refine ite_kept ?_ ?_)
    | (with_reducible apply State.count_kept)
    | (with_reducible apply State.setFld_kept)
    | (with_reducible apply State.trcGap_kept)
    | (with_reducible apply State.trcPut_kept)
    | (with_reducible apply State.setTrc_kept)

theorem State.trigger_kept {cs : Keep} {s : State} (h : s.Kept cs) : ∀ p src detail oper, State.Kept cs
    (State.trigger s p src detail oper) := by
  intros
  unfold State.trigger
  repeat' first
    | (with_reducible assumption)
    | intro _
    | (extract_lets +onlyGivenNames x; refine kept_cut (cs := cs) x ?_ ?_; subst x; rotate_left; generalize x = y;
        clear x; intro _)
    | (extract_lets +onlyGivenNames x; generalize x = y; clear x)
    | (with_reducible refine ite_kept ?_ ?_)
    | (with_reducible apply State.trigger1_kept)
    | (with_reducible refine forRange_kept ?_ ?_)

theorem State.traceCmd_kept {cs : Keep} {s : State} (h : s.Kept cs) : ∀ p isEnd engine ctx idx layer oper step
    killed poison, State.Kept cs (State.traceCmd s p isEnd engine ctx idx layer oper step killed poison) := by
  intros
  unfold State.traceCmd
  repeat' first
    | (with_reducible assumption)
    | (extract_lets +onlyGivenNames x; refine kept_cut (cs := cs) x ?_ ?_; subst x; rotate_left; generalize x = y;
        clear x; intro _)
    | (extract_lets +onlyGivenNames x; generalize x = y; clear x)
    | (with_reducible refine ite_kept ?_ ?_)
    | (with_reducible apply State.trace_kept)
    | (with_reducible apply State.trigger_kept)

theorem State.setDom_kept {cs : Keep} {s : State} (h : s.Kept cs) : ∀ d v, State.Kept cs (State.setDom s d v) := by
  intros
  unfold State.setDom
  repeat' first
    | (with_reducible assumption)
    | (extract_lets +onlyGivenNames x; refine kept_cut (cs := cs) x ?_ ?_; subst x; rotate_left; generalize x = y;
        clear x; intro _)
    | (with_reducible refine ite_kept ?_ ?_)
    | (with_reducible apply State.setFld_kept)

theorem State.wrDatum_kept {cs : Keep} {s : State} (h : s.Kept cs) (d v : Nat) (psn : Bool) :
    (s.wrDatum d v psn).Kept cs :=
  kept_of h rfl fun i => ⟨storeWf_setRange _ _ _ i.mem, storeWf_set _ _ i.poison, i.regs, i.ftime, i.cnt, i.vx, i.vxPsn⟩

theorem State.wrPart_kept {cs : Keep} {s : State} (h : s.Kept cs) (d o n v : Nat) (psn : Bool) :
    (s.wrPart d o n v psn).Kept cs :=
  kept_of h rfl fun i => ⟨storeWf_setRange _ _ _ i.mem, storeWf_set _ _ i.poison, i.regs, i.ftime, i.cnt, i.vx, i.vxPsn⟩

theorem State.cmdWrite_kept {cs : Keep} {s : State} (h : s.Kept cs) : ∀ p ctx a n f g, State.Kept cs (State.cmdWrite
    s p ctx a n f g) := by
  intros
  unfold State.cmdWrite
  repeat' first
    | (with_reducible assumption)
    | intro _
    | (extract_lets +onlyGivenNames x; generalize x = y; clear x)
    | (with_reducible refine ite_kept ?_ ?_)
    | (with_reducible apply State.wrDatum_kept)
    | (with_reducible apply State.wrPart_kept)
    | (with_reducible refine forRange_kept ?_ ?_)
    | split

theorem State.cmdWriteL_kept {cs : Keep} {s : State} (h : s.Kept cs) : ∀ p ctx a l g, State.Kept cs (State.cmdWriteL
    s p ctx a l g) := by
  intros
  unfold State.cmdWriteL
  repeat' first
    | (with_reducible assumption)
    | (extract_lets +onlyGivenNames x; generalize x = y; clear x)
    | (with_reducible apply State.cmdWrite_kept)

theorem State.sendPkt_kept {cs : Keep} {s : State} (h : s.Kept cs) : ∀ p flow since cmd, State.Kept cs
    (State.sendPkt s p flow since cmd) := by
  intros
  unfold State.sendPkt
  repeat' first
    | (with_reducible assumption)
    | (with_reducible refine ite_kept ?_ ?_)
    | (with_reducible exact kept_mk (kept_fold (by assumption)))

theorem State.sendCtl_kept {cs : Keep} {s : State} (h : s.Kept cs) : ∀ dst job m, State.Kept cs (State.sendCtl s dst
    job m) := by
  intros
  unfold State.sendCtl
  repeat' first
    | (with_reducible assumption)
    | (with_reducible apply State.sendPkt_kept)

theorem State.sendMgmt_kept {cs : Keep} {s : State} (h : s.Kept cs) : ∀ dst offset m, State.Kept cs (State.sendMgmt
    s dst offset m) := by
  intros
  unfold State.sendMgmt
  repeat' first
    | (with_reducible assumption)
    | (with_reducible apply State.sendPkt_kept)

theorem State.emit_kept {cs : Keep} {s : State} (h : s.Kept cs) : ∀ m, State.Kept cs (State.emit s m) := by
  intros
  unfold State.emit
  repeat' first
    | (with_reducible exact kept_mk (kept_fold (by assumption)))

theorem State.endOp_kept {cs : Keep} {s : State} (h : s.Kept cs) : ∀ o status arg results, State.Kept cs
    (State.endOp s o status arg results) := by
  intros
  unfold State.endOp
  repeat' first
    | (with_reducible exact kept_mk (kept_fold (by assumption)))

theorem State.endOps_kept {cs : Keep} {s : State} (h : s.Kept cs) : ∀ f status results, State.Kept cs (State.endOps
    s f status results) := by
  intros
  unfold State.endOps
  repeat' first
    | (with_reducible assumption)
    | intro _
    | (with_reducible apply State.endOp_kept)
    | (with_reducible refine foldl_kept ?_ ?_)

theorem State.updRun_kept {cs : Keep} {s : State} (h : s.Kept cs) : ∀ j f, State.Kept cs (State.updRun s j f) := by
  intros
  unfold State.updRun
  repeat' first
    | (with_reducible exact kept_mk (kept_fold (by assumption)))

theorem State.sendUp_kept {cs : Keep} {s : State} (h : s.Kept cs) : ∀ j m, State.Kept cs (State.sendUp s j m) := by
  intros
  unfold State.sendUp
  repeat' first
    | (with_reducible assumption)
    | (with_reducible apply State.sendCtl_kept)
    | split

theorem State.noteRollback_kept {cs : Keep} {s : State} (h : s.Kept cs) : ∀ j cause, State.Kept cs
    (State.noteRollback s j cause) := by
  intros
  unfold State.noteRollback
  repeat' first
    | (with_reducible assumption)
    | (extract_lets +onlyGivenNames x; refine kept_cut (cs := cs) x ?_ ?_; subst x; rotate_left; generalize x = y;
        clear x; intro _)
    | (extract_lets +onlyGivenNames x; generalize x = y; clear x)
    | (with_reducible refine ite_kept ?_ ?_)
    | (with_reducible apply State.setFld_kept)
    | (with_reducible apply State.endOps_kept)
    | (with_reducible apply State.event_kept)

theorem State.meetRollback_kept {cs : Keep} {s : State} (h : s.Kept cs) : ∀ j cause, State.Kept cs
    (State.meetRollback s j cause) := by
  intros
  unfold State.meetRollback
  repeat' first
    | (with_reducible assumption)
    | (extract_lets +onlyGivenNames x; refine kept_cut (cs := cs) x ?_ ?_; subst x; rotate_left; generalize x = y;
        clear x; intro _)
    | (with_reducible apply State.sendUp_kept)
    | (with_reducible apply State.noteRollback_kept)

theorem State.flagN_kept {cs : Keep} {s : State} (h : s.Kept cs) : ∀ f p n k, State.Kept cs (State.flagN s f p n k) := by
  intros
  unfold State.flagN
  repeat' first
    | (with_reducible assumption)
    | (with_reducible refine ite_kept ?_ ?_)
    | (with_reducible apply State.count_kept)
    | (with_reducible apply State.setFld_kept)

theorem State.gflagN_kept {cs : Keep} {s : State} (h : s.Kept cs) : ∀ f n k, State.Kept cs (State.gflagN s f n k) := by
  intros
  unfold State.gflagN
  repeat' first
    | (with_reducible assumption)
    | (with_reducible refine ite_kept ?_ ?_)
    | (with_reducible apply State.gcount_kept)
    | (with_reducible apply State.setFld_kept)

theorem State.cvtFlags_kept {cs : Keep} {s : State} (h : s.Kept cs) : ∀ p f, State.Kept cs (State.cvtFlags s p f) := by
  intros
  unfold State.cvtFlags
  repeat' first
    | (with_reducible assumption)
    | (with_reducible apply State.flagN_kept)

theorem State.cmdRecord_kept {cs : Keep} {s : State} (h : s.Kept cs) : ∀ c unit cls flags syn, State.Kept cs
    (State.cmdRecord s c unit cls flags syn) := by
  intros
  unfold State.cmdRecord
  repeat' first
    | (with_reducible assumption)
    | (with_reducible apply State.detect_kept)

theorem State.memCap_kept {cs : Keep} {s : State} (h : s.Kept cs) : ∀ p a pc kind req ctx idx, State.Kept cs
    (State.memCap s p a pc kind req ctx idx) := by
  intros
  unfold State.memCap
  repeat' first
    | (with_reducible assumption)
    | (with_reducible refine ite_kept ?_ ?_)
    | (with_reducible apply State.setFld_kept)

theorem State.killIssued_kept {cs : Keep} {s : State} (h : s.Kept cs) : ∀ p ctx, State.Kept cs (State.killIssued s p
    ctx) := by
  intros
  unfold State.killIssued
  repeat' first
    | (with_reducible exact kept_mk (kept_fold (by assumption)))

theorem State.enterKilled_kept {cs : Keep} {s : State} (h : s.Kept cs) : ∀ p ctx, State.Kept cs (State.enterKilled s
    p ctx) := by
  intros
  unfold State.enterKilled
  repeat' first
    | (with_reducible assumption)
    | (extract_lets +onlyGivenNames x; refine kept_cut (cs := cs) x ?_ ?_; subst x; rotate_left; generalize x = y;
        clear x; intro _)
    | (extract_lets +onlyGivenNames x; generalize x = y; clear x)
    | (with_reducible refine ite_kept ?_ ?_)
    | (with_reducible apply State.setFld_kept)
    | (with_reducible apply State.meetRollback_kept)

theorem State.killCtx_kept {cs : Keep} {s : State} (h : s.Kept cs) : ∀ p ctx idx reason input, State.Kept cs
    (State.killCtx s p ctx idx reason input) := by
  intros
  unfold State.killCtx
  repeat' first
    | (with_reducible assumption)
    | (extract_lets +onlyGivenNames x; refine kept_cut (cs := cs) x ?_ ?_; subst x; rotate_left; generalize x = y;
        clear x; intro _)
    | (with_reducible refine ite_kept ?_ ?_)
    | (with_reducible apply State.killIssued_kept)
    | (with_reducible apply State.enterKilled_kept)
    | (with_reducible apply State.setFld_kept)
    | (with_reducible apply State.count_kept)

theorem State.consumePoison_kept {cs : Keep} {s : State} (h : s.Kept cs) : ∀ c unit input addr, State.Kept cs
    (State.consumePoison s c unit input addr) := by
  intros
  unfold State.consumePoison
  repeat' first
    | (with_reducible assumption)
    | (with_reducible refine ite_kept ?_ ?_)
    | (with_reducible apply State.killCtx_kept)
    | (with_reducible apply State.cmdRecord_kept)

theorem State.noteFaults_kept {cs : Keep} {s : State} (h : s.Kept cs) : ∀ c fs, State.Kept cs (State.noteFaults s c fs) := by
  intros
  unfold State.noteFaults
  repeat' first
    | (with_reducible assumption)
    | (extract_lets +onlyGivenNames x; refine kept_cut (cs := cs) x ?_ ?_; subst x; rotate_left; generalize x = y;
        clear x; intro _)
    | (extract_lets +onlyGivenNames x; generalize x = y; clear x)
    | (with_reducible apply State.flagN_kept)
    | (with_reducible apply State.memCap_kept)
    | (with_reducible apply State.cmdRecord_kept)
    | (with_reducible apply State.killCtx_kept)
    | split

theorem State.noteRanges_kept {cs : Keep} {s : State} (h : s.Kept cs) : ∀ c unit rs, State.Kept cs (State.noteRanges
    s c unit rs) := by
  intros
  unfold State.noteRanges
  repeat' first
    | (with_reducible assumption)
    | (with_reducible apply State.consumePoison_kept)
    | (with_reducible apply State.noteFaults_kept)
    | split

theorem State.poisonSet_kept {cs : Keep} {s : State} (h : s.Kept cs) (d : Nat) (b : Bool) :
    State.Kept cs { s with poison := storeSet false s.poison d b } :=
  kept_of h rfl fun i => ⟨i.mem, storeWf_set _ _ i.poison, i.regs, i.ftime, i.cnt, i.vx, i.vxPsn⟩

theorem State.eccRead_kept {cs : Keep} {s : State} (h : s.Kept cs) : ∀ d end_ req ctx idx kind, State.Kept cs
    (State.eccRead s d end_ req ctx idx kind) := by
  intros
  unfold State.eccRead
  repeat' first
    | (with_reducible assumption)
    | (extract_lets +onlyGivenNames x; refine kept_cut (cs := cs) x ?_ ?_; subst x; rotate_left; generalize x = y;
        clear x; intro _)
    | (extract_lets +onlyGivenNames x; generalize x = y; clear x)
    | (with_reducible refine ite_kept ?_ ?_)
    | (with_reducible refine State.poisonSet_kept ?_ _ _)
    | (with_reducible apply State.detectOnly_kept)
    | (with_reducible apply State.count_kept)
    | (with_reducible apply State.setFld_kept)
    | (with_reducible apply State.memCap_kept)
    | (with_reducible apply State.detect_kept)
    | split

theorem State.parityMiss_kept {cs : Keep} {s : State} (h : s.Kept cs) : ∀ c unit d mask prod point, State.Kept cs
    (State.parityMiss s c unit d mask prod point) := by
  intros
  unfold State.parityMiss
  repeat' first
    | (with_reducible apply State.cmdRecord_kept)
    | (with_reducible exact kept_mk (kept_fold (by assumption)))

theorem State.applyEnv_kept {cs : Keep} {s : State} (h : s.Kept cs) : ∀ c unit rs env, State.Kept cs (State.applyEnv
    s c unit rs env) := by
  intros
  unfold State.applyEnv
  repeat' first
    | (with_reducible assumption)
    | intro _
    | (extract_lets +onlyGivenNames x; refine kept_cut (cs := cs) x ?_ ?_; subst x; rotate_left; generalize x = y;
        clear x; intro _)
    | (with_reducible apply State.eccRead_kept)
    | (with_reducible apply State.parityMiss_kept)
    | (with_reducible refine foldl_kept ?_ ?_)

theorem State.endEnv_kept {cs : Keep} {s : State} (h : s.Kept cs) : State.Kept cs (State.endEnv s) := by
  unfold State.endEnv
  repeat' first
    | (with_reducible exact kept_mk (kept_fold (by assumption)))

theorem State.cmdPut_kept {cs : Keep} {s : State} (h : s.Kept cs) : ∀ c a off l g, State.Kept cs (State.cmdPut s c a
    off l g) := by
  intros
  unfold State.cmdPut
  repeat' first
    | (with_reducible assumption)
    | intro _
    | (extract_lets +onlyGivenNames x; generalize x = y; clear x)
    | (with_reducible refine ite_kept ?_ ?_)
    | (with_reducible apply State.wrDatum_kept)
    | (with_reducible apply State.wrPart_kept)
    | (with_reducible refine forRange_kept ?_ ?_)
    | split

theorem State.bump_kept {cs : Keep} {s : State} (h : s.Kept cs) : ∀ p n inc gid part loc, State.Kept cs (State.bump
    s p n inc gid part loc) := by
  intros
  unfold State.bump
  repeat' first
    | (with_reducible assumption)
    | (extract_lets +onlyGivenNames x; refine kept_cut (cs := cs) x ?_ ?_; subst x; rotate_left; generalize x = y;
        clear x; intro _)
    | (extract_lets +onlyGivenNames x; generalize x = y; clear x)
    | (with_reducible refine ite_kept ?_ ?_)
    | (with_reducible apply State.setFld_kept)
    | (with_reducible apply State.count_kept)
    | (with_reducible apply State.detect_kept)
    | (with_reducible apply State.killCtx_kept)
    | split

theorem State.snapWin_kept {cs : Keep} {s : State} (h : s.Kept cs) : ∀ p base size skip, State.Kept cs
    (State.snapWin s p base size skip) := by
  intros
  unfold State.snapWin
  repeat' first
    | (with_reducible assumption)
    | intro _
    | (with_reducible apply State.setFld_kept)
    | (with_reducible refine forRange_kept ?_ ?_)

theorem State.noteSlip_kept {cs : Keep} {s : State} (h : s.Kept cs) : ∀ p ctx idx eff, State.Kept cs (State.noteSlip
    s p ctx idx eff) := by
  intros
  unfold State.noteSlip
  repeat' first
    | (with_reducible assumption)
    | (extract_lets +onlyGivenNames x; refine kept_cut (cs := cs) x ?_ ?_; subst x; rotate_left; generalize x = y;
        clear x; intro _)
    | (extract_lets +onlyGivenNames x; generalize x = y; clear x)
    | (with_reducible refine ite_kept ?_ ?_)
    | (with_reducible apply State.count_kept)
    | (with_reducible apply State.trace_kept)
    | (with_reducible apply State.trigger_kept)
    | (with_reducible exact kept_mk (kept_fold (by assumption)))
    | split

theorem State.advance_kept {cs : Keep} {s : State} (h : s.Kept cs) : ∀ p ctx n, State.Kept cs (State.advance s p ctx n) := by
  intros
  unfold State.advance
  repeat' first
    | (with_reducible assumption)
    | (with_reducible refine ite_kept ?_ ?_)
    | (with_reducible apply State.setFld_kept)

theorem State.showShard_kept {cs : Keep} {s : State} (h : s.Kept cs) : ∀ p ctx, State.Kept cs (State.showShard s p ctx) := by
  intros
  unfold State.showShard
  repeat' first
    | (with_reducible assumption)
    | (extract_lets +onlyGivenNames x; refine kept_cut (cs := cs) x ?_ ?_; subst x; rotate_left; generalize x = y;
        clear x; intro _)
    | (with_reducible refine ite_kept ?_ ?_)
    | (with_reducible apply State.setFld_kept)
    | (with_reducible exact kept_mk (kept_fold (by assumption)))

theorem State.pushIssued_kept {cs : Keep} {s : State} (h : s.Kept cs) : ∀ i, State.Kept cs (State.pushIssued s i) := by
  intros
  unfold State.pushIssued
  repeat' first
    | (with_reducible assumption)
    | intro _
    | (extract_lets +onlyGivenNames x; refine kept_cut (cs := cs) x ?_ ?_; subst x; rotate_left; generalize x = y;
        clear x; intro _)
    | (with_reducible apply State.traceCmd_kept)
    | (with_reducible refine foldl_kept ?_ ?_)
    | (with_reducible exact kept_mk (kept_fold (by assumption)))

theorem State.fetchKill_kept {cs : Keep} {s : State} (h : s.Kept cs) : ∀ p ctx, State.Kept cs (State.fetchKill s p ctx) := by
  intros
  unfold State.fetchKill
  repeat' first
    | (with_reducible assumption)
    | (extract_lets +onlyGivenNames x; generalize x = y; clear x)
    | (with_reducible apply State.killCtx_kept)
    | (with_reducible apply State.cmdRecord_kept)

theorem State.noteHold_kept {cs : Keep} {s : State} (h : s.Kept cs) : ∀ c h, State.Kept cs (State.noteHold s c h) := by
  intros
  unfold State.noteHold
  repeat' first
    | (with_reducible assumption)
    | (with_reducible refine ite_kept ?_ ?_)
    | (with_reducible exact kept_mk (kept_fold (by assumption)))

theorem State.tryIssue_kept {cs : Keep} {s : State} {run : Cmd → State → State} (hrun : ∀ c t, t.Kept cs → (run c
    t).Kept cs) (h : s.Kept cs) : ∀ p ctx isClass pair, State.Kept cs (State.tryIssue s p ctx isClass pair run) := by
  intros
  unfold State.tryIssue
  repeat' first
    | (with_reducible assumption)
    | (extract_lets +onlyGivenNames x; refine kept_cut (cs := cs) x ?_ ?_; subst x; rotate_left; generalize x = y;
        clear x; intro _)
    | (extract_lets +onlyGivenNames x; generalize x = y; clear x)
    | (with_reducible refine ite_kept ?_ ?_)
    | (with_reducible apply hrun)
    | (with_reducible apply State.fetchKill_kept)
    | (with_reducible apply State.noteHold_kept)
    | (with_reducible apply State.advance_kept)
    | (with_reducible apply State.noteSlip_kept)
    | (with_reducible apply State.showShard_kept)
    | split

theorem State.applySig_kept {cs : Keep} {s : State} (h : s.Kept cs) : ∀ p ctx g, State.Kept cs (State.applySig s p
    ctx g) := by
  intros
  unfold State.applySig
  repeat' first
    | (with_reducible assumption)
    | (with_reducible refine ite_kept ?_ ?_)
    | (with_reducible apply State.bump_kept)

theorem State.traceEnds_kept {cs : Keep} {s : State} (h : s.Kept cs) : ∀ i killed, State.Kept cs (State.traceEnds s
    i killed) := by
  intros
  unfold State.traceEnds
  repeat' first
    | (with_reducible assumption)
    | intro _
    | (with_reducible apply State.traceCmd_kept)
    | (with_reducible refine foldl_kept ?_ ?_)

theorem State.completeCmd_kept {cs : Keep} {s : State} (h : s.Kept cs) : ∀ i, State.Kept cs (State.completeCmd s i) := by
  intros
  unfold State.completeCmd
  repeat' first
    | (with_reducible assumption)
    | (extract_lets +onlyGivenNames x; refine kept_cut (cs := cs) x ?_ ?_; subst x; rotate_left; generalize x = y;
        clear x; intro _)
    | (with_reducible refine ite_kept ?_ ?_)
    | (with_reducible apply State.traceEnds_kept)
    | (with_reducible apply State.applySig_kept)
    | (with_reducible exact kept_mk (kept_fold (by assumption)))

theorem execCommandComplete_kept {cs : Keep} {s : State} (h : s.Kept cs) : ∀ p ctx idx, KeptO cs
    (execCommandComplete p ctx idx s) := by
  intros
  unfold execCommandComplete
  repeat' first
    | (with_reducible assumption)
    | (extract_lets +onlyGivenNames x; refine kept_cut (cs := cs) x ?_ ?_; subst x; rotate_left; generalize x = y;
        clear x; intro _)
    | (extract_lets +onlyGivenNames x; generalize x = y; clear x)
    | (with_reducible refine ite_kept ?_ ?_)
    | (with_reducible refine kept_next ?_)
    | (with_reducible apply State.completeCmd_kept)
    | (with_reducible apply State.setFld_kept)
    | (with_reducible exact kept_mk (kept_fold (by assumption)))
    | split

theorem execCmdNop_kept {cs : Keep} {s : State} (h : s.Kept cs) : ∀ p ctx, KeptO cs (execCmdNop p ctx s) := by
  intros
  unfold execCmdNop
  repeat' first
    | (with_reducible assumption)
    | intro _
    | (with_reducible refine kept_next ?_)
    | (with_reducible apply State.tryIssue_kept)
    | (with_reducible apply State.applySig_kept)

theorem execMalformedDescriptorHalt_kept {cs : Keep} {s : State} (h : s.Kept cs) : ∀ p ctx, KeptO cs
    (execMalformedDescriptorHalt p ctx s) := by
  intros
  unfold execMalformedDescriptorHalt
  repeat' first
    | (with_reducible assumption)
    | (extract_lets +onlyGivenNames x; refine kept_cut (cs := cs) x ?_ ?_; subst x; rotate_left; generalize x = y;
        clear x; intro _)
    | (extract_lets +onlyGivenNames x; generalize x = y; clear x)
    | (with_reducible refine ite_kept ?_ ?_)
    | (with_reducible refine ite_keptO ?_ ?_)
    | (with_reducible refine kept_next ?_)
    | (with_reducible apply State.setFld_kept)
    | (with_reducible apply State.meetRollback_kept)
    | (with_reducible apply State.flagN_kept)
    | (with_reducible apply State.cmdRecord_kept)

theorem execWaitTimeout_kept {cs : Keep} {s : State} (h : s.Kept cs) : ∀ p ctx, KeptO cs (execWaitTimeout p ctx s) := by
  intros
  unfold execWaitTimeout
  repeat' first
    | (with_reducible assumption)
    | (extract_lets +onlyGivenNames x; refine kept_cut (cs := cs) x ?_ ?_; subst x; rotate_left; generalize x = y;
        clear x; intro _)
    | (extract_lets +onlyGivenNames x; generalize x = y; clear x)
    | (with_reducible refine ite_keptO ?_ ?_)
    | (with_reducible refine kept_next ?_)
    | (with_reducible apply State.noteHold_kept)
    | (with_reducible apply State.event_kept)
    | (with_reducible apply State.flagN_kept)
    | (with_reducible exact kept_mk (kept_fold (by assumption)))
    | split

theorem State.tmbValueWrite_kept {cs : Keep} {s : State} (h : s.Kept cs) : ∀ p n v, State.Kept cs
    (State.tmbValueWrite s p n v) := by
  intros
  unfold State.tmbValueWrite
  repeat' first
    | (with_reducible assumption)
    | (extract_lets +onlyGivenNames x; generalize x = y; clear x)
    | (with_reducible refine ite_kept ?_ ?_)
    | (with_reducible apply State.flagN_kept)
    | (with_reducible apply State.setFld_kept)

theorem State.ringDoorbell_kept {cs : Keep} {s : State} (h : s.Kept cs) : ∀ p m v, State.Kept cs (State.ringDoorbell
    s p m v) := by
  intros
  unfold State.ringDoorbell
  repeat' first
    | (with_reducible assumption)
    | (with_reducible refine ite_kept ?_ ?_)
    | (with_reducible apply State.setFld_kept)
    | (with_reducible apply State.count_kept)

theorem State.ringEnable_kept {cs : Keep} {s : State} (h : s.Kept cs) : ∀ p m, State.Kept cs (State.ringEnable s p m) := by
  intros
  unfold State.ringEnable
  repeat' first
    | (with_reducible assumption)
    | (with_reducible refine ite_kept ?_ ?_)
    | (with_reducible apply State.setFld_kept)

theorem State.ringDisable_kept {cs : Keep} {s : State} (h : s.Kept cs) : ∀ p m, State.Kept cs (State.ringDisable s p m) := by
  intros
  unfold State.ringDisable
  repeat' first
    | (with_reducible assumption)
    | (extract_lets +onlyGivenNames x; refine kept_cut (cs := cs) x ?_ ?_; subst x; rotate_left; generalize x = y;
        clear x; intro _)
    | (with_reducible refine ite_kept ?_ ?_)
    | (with_reducible apply State.setFld_kept)

theorem State.setVt_kept {cs : Keep} {s : State} (h : s.Kept cs) (p e t : Nat) (d : List Nat) (q : List Bool) :
    (s.setVt p e t d q).Kept cs :=
  kept_of h rfl fun i => ⟨i.mem, i.poison, i.regs, i.ftime, i.cnt, storeRising_setList _ _ i.vx, storeRising_setList
      _ _ i.vxPsn⟩

theorem State.setVv_kept {cs : Keep} {s : State} (h : s.Kept cs) (p e v : Nat) (d : List Nat) (q : List Bool) :
    (s.setVv p e v d q).Kept cs :=
  kept_of h rfl fun i => ⟨i.mem, i.poison, i.regs, i.ftime, i.cnt, storeRising_setList _ _ i.vx, storeRising_setList
      _ _ i.vxPsn⟩

theorem State.zeroVt_kept {cs : Keep} {s : State} (h : s.Kept cs) (p e t : Nat) : (s.zeroVt p e t).Kept cs :=
  kept_of h rfl fun i => ⟨i.mem, i.poison, i.regs, i.ftime, i.cnt, storeRising_clear _ _ i.vx, storeRising_clear _ _ i.vxPsn⟩

theorem State.zeroVvs_kept {cs : Keep} {s : State} (h : s.Kept cs) (p e : Nat) : (s.zeroVvs p e).Kept cs :=
  kept_of h rfl fun i => ⟨i.mem, i.poison, i.regs, i.ftime, i.cnt, storeRising_clear _ _ i.vx, storeRising_clear _ _ i.vxPsn⟩

theorem State.vxCapture_kept {cs : Keep} {s : State} (h : s.Kept cs) : ∀ p e idx d n, State.Kept cs (State.vxCapture
    s p e idx d n) := by
  intros
  unfold State.vxCapture
  repeat' first
    | (with_reducible assumption)
    | (with_reducible refine ite_kept ?_ ?_)
    | (with_reducible apply State.setFld_kept)

theorem State.vxOvf_kept {cs : Keep} {s : State} (h : s.Kept cs) : ∀ p e g n any, State.Kept cs (State.vxOvf s p e g
    n any) := by
  intros
  unfold State.vxOvf
  repeat' first
    | (with_reducible assumption)
    | (with_reducible refine ite_kept ?_ ?_)
    | (with_reducible apply State.vxCapture_kept)
    | (with_reducible apply State.flagN_kept)

theorem State.putVt_kept {cs : Keep} {s : State} (h : s.Kept cs) : ∀ p e g t d q, State.Kept cs (State.putVt s p e g
    t d q) := by
  intros
  unfold State.putVt
  repeat' first
    | (with_reducible assumption)
    | (with_reducible refine ite_kept ?_ ?_)
    | (with_reducible apply State.setVt_kept)

theorem State.vxElemTile_kept {cs : Keep} {s : State} (h : s.Kept cs) : ∀ p e g w n dst src, State.Kept cs
    (State.vxElemTile s p e g w n dst src) := by
  intros
  unfold State.vxElemTile
  repeat' first
    | (with_reducible assumption)
    | (extract_lets +onlyGivenNames x; generalize x = y; clear x)
    | (with_reducible refine ite_kept ?_ ?_)
    | (with_reducible apply State.putVt_kept)
    | (with_reducible apply State.cvtFlags_kept)
    | (with_reducible apply State.vxOvf_kept)

theorem State.vxElemVec_kept {cs : Keep} {s : State} (h : s.Kept cs) : ∀ p e g w n, State.Kept cs (State.vxElemVec s
    p e g w n) := by
  intros
  unfold State.vxElemVec
  repeat' first
    | (with_reducible assumption)
    | (extract_lets +onlyGivenNames x; generalize x = y; clear x)
    | (with_reducible refine ite_kept ?_ ?_)
    | (with_reducible apply State.setVv_kept)
    | (with_reducible apply State.cvtFlags_kept)
    | (with_reducible apply State.vxOvf_kept)

theorem State.vxReduce_kept {cs : Keep} {s : State} (h : s.Kept cs) : ∀ p e g w n, State.Kept cs (State.vxReduce s p
    e g w n) := by
  intros
  unfold State.vxReduce
  repeat' first
    | (with_reducible assumption)
    | (extract_lets +onlyGivenNames x; generalize x = y; clear x)
    | (with_reducible apply State.setVv_kept)
    | (with_reducible apply State.vxOvf_kept)
    | split

theorem State.vxVecReduce_kept {cs : Keep} {s : State} (h : s.Kept cs) : ∀ p e g w n, State.Kept cs
    (State.vxVecReduce s p e g w n) := by
  intros
  unfold State.vxVecReduce
  repeat' first
    | (with_reducible assumption)
    | (extract_lets +onlyGivenNames x; generalize x = y; clear x)
    | (with_reducible apply State.setVv_kept)
    | (with_reducible apply State.vxOvf_kept)

theorem State.vxLdv_kept {cs : Keep} {s : State} (h : s.Kept cs) : ∀ p e g w, State.Kept cs (State.vxLdv s p e g w) := by
  intros
  unfold State.vxLdv
  repeat' first
    | (with_reducible assumption)
    | (extract_lets +onlyGivenNames x; generalize x = y; clear x)
    | (with_reducible apply State.setVv_kept)
    | (with_reducible apply State.noteRanges_kept)

theorem State.vxStv_kept {cs : Keep} {s : State} (h : s.Kept cs) : ∀ p e g w, State.Kept cs (State.vxStv s p e g w) := by
  intros
  unfold State.vxStv
  repeat' first
    | (with_reducible assumption)
    | (extract_lets +onlyGivenNames x; generalize x = y; clear x)
    | (with_reducible apply State.cmdWriteL_kept)
    | (with_reducible apply State.noteRanges_kept)

theorem State.vxSput_kept {cs : Keep} {s : State} (h : s.Kept cs) : ∀ p e g w, State.Kept cs (State.vxSput s p e g w) := by
  intros
  unfold State.vxSput
  repeat' first
    | (extract_lets +onlyGivenNames x; generalize x = y; clear x)
    | (with_reducible exact kept_mk (kept_fold (by assumption)))

theorem State.vxOp_kept {cs : Keep} {s : State} (h : s.Kept cs) : ∀ p e g w n, State.Kept cs (State.vxOp s p e g w n) := by
  intros
  unfold State.vxOp
  repeat' first
    | (with_reducible assumption)
    | intro _
    | (extract_lets +onlyGivenNames x; generalize x = y; clear x)
    | (with_reducible refine ite_kept ?_ ?_)
    | (with_reducible apply State.vxElemVec_kept)
    | (with_reducible apply State.vxElemTile_kept)
    | (with_reducible apply State.vxReduce_kept)
    | (with_reducible apply State.vxVecReduce_kept)
    | (with_reducible apply State.vxLdv_kept)
    | (with_reducible apply State.vxStv_kept)
    | (with_reducible apply State.vxSput_kept)
    | (with_reducible refine foldl_kept ?_ ?_)

theorem State.rangeFault_kept {cs : Keep} {s : State} (h : s.Kept cs) : ∀ c tensor w vals count, State.Kept cs
    (State.rangeFault s c tensor w vals count) := by
  intros
  unfold State.rangeFault
  repeat' first
    | (with_reducible assumption)
    | (extract_lets +onlyGivenNames x; refine kept_cut (cs := cs) x ?_ ?_; subst x; rotate_left; generalize x = y;
        clear x; intro _)
    | (extract_lets +onlyGivenNames x; generalize x = y; clear x)
    | (with_reducible refine ite_kept ?_ ?_)
    | (with_reducible apply State.cmdRecord_kept)
    | (with_reducible apply State.flagN_kept)
    | (with_reducible apply State.setReg_kept)
    | (with_reducible apply State.setFld_kept)

theorem State.vxStore_kept {cs : Keep} {s : State} (h : s.Kept cs) : ∀ c step k n t all raised, State.Kept cs
    (State.vxStore s c step k n t all raised).1 := by
  intros
  unfold State.vxStore
  repeat' first
    | (with_reducible assumption)
    | (extract_lets +onlyGivenNames x; (have _ := fun a => x a); subst x; dsimp -zeta only)
    | (extract_lets +onlyGivenNames x; refine kept_cut (cs := cs) x ?_ ?_; subst x; rotate_left; generalize x = y;
        clear x; intro _)
    | (extract_lets +onlyGivenNames x; generalize x = y; clear x)
    | (with_reducible refine ite_kept ?_ ?_)
    | (with_reducible refine ite_kept1 ?_ ?_)
    | (with_reducible apply State.rangeFault_kept)
    | (with_reducible apply State.cmdWriteL_kept)
    | (with_reducible apply State.cvtFlags_kept)

theorem State.vxNonfinite_kept {cs : Keep} {s : State} (h : s.Kept cs) : ∀ p e v t reg done, State.Kept cs
    (State.vxNonfinite s p e v t reg done).1 := by
  intros
  unfold State.vxNonfinite
  repeat' first
    | (with_reducible assumption)
    | (extract_lets +onlyGivenNames x; refine kept_cut (cs := cs) x ?_ ?_; subst x; rotate_left; generalize x = y;
        clear x; intro _)
    | (extract_lets +onlyGivenNames x; generalize x = y; clear x)
    | (with_reducible refine ite_kept1 ?_ ?_)
    | (with_reducible apply State.vxCapture_kept)
    | (with_reducible apply State.flagN_kept)
    | (with_reducible apply State.cmdRecord_kept)
    | split

theorem State.vxLoadGroup_kept {cs : Keep} {s : State} (h : s.Kept cs) : ∀ p e v g, State.Kept cs (State.vxLoadGroup
    s p e v g).1 := by
  intros
  unfold State.vxLoadGroup
  repeat' first
    | (with_reducible assumption)
    | intro _
    | (extract_lets +onlyGivenNames x; refine kept_cut (cs := cs) x ?_ ?_; subst x; rotate_left; generalize x = y;
        clear x; intro _)
    | (extract_lets +onlyGivenNames x; generalize x = y; clear x)
    | (with_reducible refine ite_kept ?_ ?_)
    | (with_reducible apply State.zeroVvs_kept)
    | (with_reducible apply State.zeroVt_kept)
    | (with_reducible apply State.setVt_kept)
    | (with_reducible refine foldl_kept ?_ ?_)
    | (with_reducible refine forRange_kept ?_ ?_)
    | (with_reducible exact kept_mk (kept_fold (by assumption)))

theorem State.vxCarry_kept {cs : Keep} {s : State} (h : s.Kept cs) : ∀ p e v, State.Kept cs (State.vxCarry s p e v) := by
  intros
  unfold State.vxCarry
  repeat' first
    | (with_reducible assumption)
    | intro _
    | (extract_lets +onlyGivenNames x; generalize x = y; clear x)
    | (with_reducible refine ite_kept ?_ ?_)
    | (with_reducible apply State.setVv_kept)
    | (with_reducible refine forRange_kept ?_ ?_)
    | split

theorem State.vxRunGroup_kept {cs : Keep} {s : State} (h : s.Kept cs) : ∀ p e v g, State.Kept cs (State.vxRunGroup s
    p e v g) := by
  intros
  unfold State.vxRunGroup
  repeat' first
    | (with_reducible assumption)
    | intro _
    | (extract_lets +onlyGivenNames x; refine kept_cut (cs := cs) x ?_ ?_; subst x; rotate_left; generalize x = y;
        clear x; intro _)
    | (extract_lets +onlyGivenNames x; refine kept_cut1 (cs := cs) x ?_ ?_; subst x; rotate_left; generalize x = y;
        clear x; intro _)
    | (extract_lets +onlyGivenNames x; generalize x = y; clear x)
    | (with_reducible refine ite_kept ?_ ?_)
    | (with_reducible apply State.consumePoison_kept)
    | (with_reducible apply State.flagN_kept)
    | (with_reducible apply State.vxLoadGroup_kept)
    | (with_reducible apply State.vxCarry_kept)
    | (with_reducible apply State.vxOp_kept)
    | (with_reducible apply State.vxNonfinite_kept)
    | (with_reducible apply State.vxStore_kept)
    | (with_reducible refine foldl_kept ?_ ?_)
    | (with_reducible refine foldl_kept1 ?_ ?_)
    | (with_reducible exact kept_mk (kept_fold (by assumption)))
    | (split; rename_i heq; refine kept_cut2 (cs := cs) heq ?_ ?_; rotate_left; (clear heq; intro _))

theorem execVxeGroupStart_kept {cs : Keep} {s : State} (h : s.Kept cs) : ∀ p rerun, KeptO cs (execVxeGroupStart p
    rerun s) := by
  intros
  unfold execVxeGroupStart
  repeat' first
    | (with_reducible assumption)
    | (extract_lets +onlyGivenNames x; refine kept_cut (cs := cs) x ?_ ?_; subst x; rotate_left; generalize x = y;
        clear x; intro _)
    | (with_reducible refine ite_kept ?_ ?_)
    | (with_reducible refine kept_next ?_)
    | (with_reducible apply State.flagN_kept)
    | (with_reducible apply State.vxRunGroup_kept)
    | split

theorem State.vxLatch_kept {cs : Keep} {s : State} (h : s.Kept cs) : ∀ c tiles, State.Kept cs (State.vxLatch s c tiles) := by
  intros
  unfold State.vxLatch
  repeat' first
    | (with_reducible assumption)
    | (extract_lets +onlyGivenNames x; refine kept_cut (cs := cs) x ?_ ?_; subst x; rotate_left; generalize x = y;
        clear x; intro _)
    | (extract_lets +onlyGivenNames x; generalize x = y; clear x)
    | (with_reducible refine ite_kept ?_ ?_)
    | (with_reducible apply State.consumePoison_kept)
    | (with_reducible apply State.flagN_kept)
    | (with_reducible apply State.noteRanges_kept)
    | (with_reducible apply State.pushIssued_kept)
    | (with_reducible exact kept_mk (kept_fold (by assumption)))

theorem execCmdVxe_kept {cs : Keep} {s : State} (h : s.Kept cs) : ∀ p ctx env, KeptO cs (execCmdVxe p ctx env s) := by
  intros
  unfold execCmdVxe
  repeat' first
    | (with_reducible assumption)
    | intro _
    | (extract_lets +onlyGivenNames x; refine kept_cut (cs := cs) x ?_ ?_; subst x; rotate_left; generalize x = y;
        clear x; intro _)
    | (extract_lets +onlyGivenNames x; generalize x = y; clear x)
    | (with_reducible refine kept_next ?_)
    | (with_reducible apply State.tryIssue_kept)
    | (with_reducible apply State.applyEnv_kept)
    | (with_reducible apply State.noteRanges_kept)
    | (with_reducible apply State.endEnv_kept)
    | (with_reducible apply State.vxLatch_kept)

theorem State.vxRow_kept {cs : Keep} {s : State} (h : s.Kept cs) : ∀ p e n opc w, State.Kept cs (State.vxRow s p e n
    opc w) := by
  intros
  unfold State.vxRow
  repeat' first
    | (with_reducible assumption)
    | (with_reducible refine ite_kept ?_ ?_)
    | (with_reducible apply State.vxOp_kept)
    | split

theorem execVxeOpMov_kept {cs : Keep} {s : State} (h : s.Kept cs) : ∀ p e n w, KeptO cs (execVxeOpMov p e n w s) := by
  intros
  unfold execVxeOpMov
  repeat' first
    | (with_reducible assumption)
    | (with_reducible refine kept_next ?_)
    | (with_reducible apply State.vxRow_kept)

theorem execVxeOpAdd_kept {cs : Keep} {s : State} (h : s.Kept cs) : ∀ p e n w, KeptO cs (execVxeOpAdd p e n w s) := by
  intros
  unfold execVxeOpAdd
  repeat' first
    | (with_reducible assumption)
    | (with_reducible refine kept_next ?_)
    | (with_reducible apply State.vxRow_kept)

theorem execVxeOpSub_kept {cs : Keep} {s : State} (h : s.Kept cs) : ∀ p e n w, KeptO cs (execVxeOpSub p e n w s) := by
  intros
  unfold execVxeOpSub
  repeat' first
    | (with_reducible assumption)
    | (with_reducible refine kept_next ?_)
    | (with_reducible apply State.vxRow_kept)

theorem execVxeOpMul_kept {cs : Keep} {s : State} (h : s.Kept cs) : ∀ p e n w, KeptO cs (execVxeOpMul p e n w s) := by
  intros
  unfold execVxeOpMul
  repeat' first
    | (with_reducible assumption)
    | (with_reducible refine kept_next ?_)
    | (with_reducible apply State.vxRow_kept)

theorem execVxeOpFma_kept {cs : Keep} {s : State} (h : s.Kept cs) : ∀ p e n w, KeptO cs (execVxeOpFma p e n w s) := by
  intros
  unfold execVxeOpFma
  repeat' first
    | (with_reducible assumption)
    | (with_reducible refine kept_next ?_)
    | (with_reducible apply State.vxRow_kept)

theorem execVxeOpMax_kept {cs : Keep} {s : State} (h : s.Kept cs) : ∀ p e n w, KeptO cs (execVxeOpMax p e n w s) := by
  intros
  unfold execVxeOpMax
  repeat' first
    | (with_reducible assumption)
    | (with_reducible refine kept_next ?_)
    | (with_reducible apply State.vxRow_kept)

theorem execVxeOpMin_kept {cs : Keep} {s : State} (h : s.Kept cs) : ∀ p e n w, KeptO cs (execVxeOpMin p e n w s) := by
  intros
  unfold execVxeOpMin
  repeat' first
    | (with_reducible assumption)
    | (with_reducible refine kept_next ?_)
    | (with_reducible apply State.vxRow_kept)

theorem execVxeOpAbs_kept {cs : Keep} {s : State} (h : s.Kept cs) : ∀ p e n w, KeptO cs (execVxeOpAbs p e n w s) := by
  intros
  unfold execVxeOpAbs
  repeat' first
    | (with_reducible assumption)
    | (with_reducible refine kept_next ?_)
    | (with_reducible apply State.vxRow_kept)

theorem execVxeOpNeg_kept {cs : Keep} {s : State} (h : s.Kept cs) : ∀ p e n w, KeptO cs (execVxeOpNeg p e n w s) := by
  intros
  unfold execVxeOpNeg
  repeat' first
    | (with_reducible assumption)
    | (with_reducible refine kept_next ?_)
    | (with_reducible apply State.vxRow_kept)

theorem execVxeOpSel_kept {cs : Keep} {s : State} (h : s.Kept cs) : ∀ p e n w, KeptO cs (execVxeOpSel p e n w s) := by
  intros
  unfold execVxeOpSel
  repeat' first
    | (with_reducible assumption)
    | (with_reducible refine kept_next ?_)
    | (with_reducible apply State.vxRow_kept)

theorem execVxeOpCmask_kept {cs : Keep} {s : State} (h : s.Kept cs) : ∀ p e n w, KeptO cs (execVxeOpCmask p e n w s) := by
  intros
  unfold execVxeOpCmask
  repeat' first
    | (with_reducible assumption)
    | (with_reducible refine kept_next ?_)
    | (with_reducible apply State.vxRow_kept)

theorem execVxeOpCvt_kept {cs : Keep} {s : State} (h : s.Kept cs) : ∀ p e n w, KeptO cs (execVxeOpCvt p e n w s) := by
  intros
  unfold execVxeOpCvt
  repeat' first
    | (with_reducible assumption)
    | (with_reducible refine kept_next ?_)
    | (with_reducible apply State.vxRow_kept)

theorem execVxeOpExp_kept {cs : Keep} {s : State} (h : s.Kept cs) : ∀ p e n w, KeptO cs (execVxeOpExp p e n w s) := by
  intros
  unfold execVxeOpExp
  repeat' first
    | (with_reducible assumption)
    | (with_reducible refine kept_next ?_)
    | (with_reducible apply State.vxRow_kept)

theorem execVxeOpExp2_kept {cs : Keep} {s : State} (h : s.Kept cs) : ∀ p e n w, KeptO cs (execVxeOpExp2 p e n w s) := by
  intros
  unfold execVxeOpExp2
  repeat' first
    | (with_reducible assumption)
    | (with_reducible refine kept_next ?_)
    | (with_reducible apply State.vxRow_kept)

theorem execVxeOpRcp_kept {cs : Keep} {s : State} (h : s.Kept cs) : ∀ p e n w, KeptO cs (execVxeOpRcp p e n w s) := by
  intros
  unfold execVxeOpRcp
  repeat' first
    | (with_reducible assumption)
    | (with_reducible refine kept_next ?_)
    | (with_reducible apply State.vxRow_kept)

theorem execVxeOpRsqrt_kept {cs : Keep} {s : State} (h : s.Kept cs) : ∀ p e n w, KeptO cs (execVxeOpRsqrt p e n w s) := by
  intros
  unfold execVxeOpRsqrt
  repeat' first
    | (with_reducible assumption)
    | (with_reducible refine kept_next ?_)
    | (with_reducible apply State.vxRow_kept)

theorem execVxeOpSqrt_kept {cs : Keep} {s : State} (h : s.Kept cs) : ∀ p e n w, KeptO cs (execVxeOpSqrt p e n w s) := by
  intros
  unfold execVxeOpSqrt
  repeat' first
    | (with_reducible assumption)
    | (with_reducible refine kept_next ?_)
    | (with_reducible apply State.vxRow_kept)

theorem execVxeOpLog_kept {cs : Keep} {s : State} (h : s.Kept cs) : ∀ p e n w, KeptO cs (execVxeOpLog p e n w s) := by
  intros
  unfold execVxeOpLog
  repeat' first
    | (with_reducible assumption)
    | (with_reducible refine kept_next ?_)
    | (with_reducible apply State.vxRow_kept)

theorem execVxeOpTanh_kept {cs : Keep} {s : State} (h : s.Kept cs) : ∀ p e n w, KeptO cs (execVxeOpTanh p e n w s) := by
  intros
  unfold execVxeOpTanh
  repeat' first
    | (with_reducible assumption)
    | (with_reducible refine kept_next ?_)
    | (with_reducible apply State.vxRow_kept)

theorem execVxeOpSigmoid_kept {cs : Keep} {s : State} (h : s.Kept cs) : ∀ p e n w, KeptO cs (execVxeOpSigmoid p e n
    w s) := by
  intros
  unfold execVxeOpSigmoid
  repeat' first
    | (with_reducible assumption)
    | (with_reducible refine kept_next ?_)
    | (with_reducible apply State.vxRow_kept)

theorem execVxeOpSilu_kept {cs : Keep} {s : State} (h : s.Kept cs) : ∀ p e n w, KeptO cs (execVxeOpSilu p e n w s) := by
  intros
  unfold execVxeOpSilu
  repeat' first
    | (with_reducible assumption)
    | (with_reducible refine kept_next ?_)
    | (with_reducible apply State.vxRow_kept)

theorem execVxeOpGelu_kept {cs : Keep} {s : State} (h : s.Kept cs) : ∀ p e n w, KeptO cs (execVxeOpGelu p e n w s) := by
  intros
  unfold execVxeOpGelu
  repeat' first
    | (with_reducible assumption)
    | (with_reducible refine kept_next ?_)
    | (with_reducible apply State.vxRow_kept)

theorem execVxeOpRowsum_kept {cs : Keep} {s : State} (h : s.Kept cs) : ∀ p e n w, KeptO cs (execVxeOpRowsum p e n w s) := by
  intros
  unfold execVxeOpRowsum
  repeat' first
    | (with_reducible assumption)
    | (with_reducible refine kept_next ?_)
    | (with_reducible apply State.vxRow_kept)

theorem execVxeOpRowmax_kept {cs : Keep} {s : State} (h : s.Kept cs) : ∀ p e n w, KeptO cs (execVxeOpRowmax p e n w s) := by
  intros
  unfold execVxeOpRowmax
  repeat' first
    | (with_reducible assumption)
    | (with_reducible refine kept_next ?_)
    | (with_reducible apply State.vxRow_kept)

theorem execVxeOpColsum_kept {cs : Keep} {s : State} (h : s.Kept cs) : ∀ p e n w, KeptO cs (execVxeOpColsum p e n w s) := by
  intros
  unfold execVxeOpColsum
  repeat' first
    | (with_reducible assumption)
    | (with_reducible refine kept_next ?_)
    | (with_reducible apply State.vxRow_kept)

theorem execVxeOpColmax_kept {cs : Keep} {s : State} (h : s.Kept cs) : ∀ p e n w, KeptO cs (execVxeOpColmax p e n w s) := by
  intros
  unfold execVxeOpColmax
  repeat' first
    | (with_reducible assumption)
    | (with_reducible refine kept_next ?_)
    | (with_reducible apply State.vxRow_kept)

theorem execVxeOpVsum_kept {cs : Keep} {s : State} (h : s.Kept cs) : ∀ p e n w, KeptO cs (execVxeOpVsum p e n w s) := by
  intros
  unfold execVxeOpVsum
  repeat' first
    | (with_reducible assumption)
    | (with_reducible refine kept_next ?_)
    | (with_reducible apply State.vxRow_kept)

theorem execVxeOpVmax_kept {cs : Keep} {s : State} (h : s.Kept cs) : ∀ p e n w, KeptO cs (execVxeOpVmax p e n w s) := by
  intros
  unfold execVxeOpVmax
  repeat' first
    | (with_reducible assumption)
    | (with_reducible refine kept_next ?_)
    | (with_reducible apply State.vxRow_kept)

theorem execVxeOpLdv_kept {cs : Keep} {s : State} (h : s.Kept cs) : ∀ p e n w, KeptO cs (execVxeOpLdv p e n w s) := by
  intros
  unfold execVxeOpLdv
  repeat' first
    | (with_reducible assumption)
    | (with_reducible refine kept_next ?_)
    | (with_reducible apply State.vxRow_kept)

theorem execVxeOpStv_kept {cs : Keep} {s : State} (h : s.Kept cs) : ∀ p e n w, KeptO cs (execVxeOpStv p e n w s) := by
  intros
  unfold execVxeOpStv
  repeat' first
    | (with_reducible assumption)
    | (with_reducible refine kept_next ?_)
    | (with_reducible apply State.vxRow_kept)

theorem execVxeOpSput_kept {cs : Keep} {s : State} (h : s.Kept cs) : ∀ p e n w, KeptO cs (execVxeOpSput p e n w s) := by
  intros
  unfold execVxeOpSput
  repeat' first
    | (with_reducible assumption)
    | (with_reducible refine kept_next ?_)
    | (with_reducible apply State.vxRow_kept)

end Sys2Proof.Machine
end

