-- ==== Sys2Proof/Laws/KeptB.lean ====
section
/-! SUPPORT. What the operations of Machine/Matrix, Machine/Update, Machine/TwoKey, Machine/Fabric, Machine/Collective, Machine/Discard, Machine/History keep (`State.Kept`): the queue, and the invariant. -/
namespace Sys2Proof.Machine

theorem State.usePreloads_kept {cs : Keep} {s : State} (h : s.Kept cs) : ∀ c eng, State.Kept cs (State.usePreloads s
    c eng) := by
  intros
  unfold State.usePreloads
  repeat' first
    | (with_reducible assumption)
    | intro _
    | (extract_lets +onlyGivenNames x; refine kept_cut (cs := cs) x ?_ ?_; subst x; rotate_left; generalize x = y;
        clear x; intro _)
    | (extract_lets +onlyGivenNames x; generalize x = y; clear x)
    | (with_reducible refine ite_kept ?_ ?_)
    | (with_reducible apply State.flagN_kept)
    | (with_reducible refine foldl_kept ?_ ?_)
    | (with_reducible exact kept_mk (kept_fold (by assumption)))

theorem execMxePreload_kept {cs : Keep} {s : State} (h : s.Kept cs) : ∀ p ctx env, KeptO cs (execMxePreload p ctx
    env s) := by
  intros
  unfold execMxePreload
  repeat' first
    | (with_reducible assumption)
    | intro _
    | (extract_lets +onlyGivenNames x; (have _ := fun a => x a); subst x; dsimp -zeta only)
    | (extract_lets +onlyGivenNames x; refine kept_cut (cs := cs) x ?_ ?_; subst x; rotate_left; generalize x = y;
        clear x; intro _)
    | (extract_lets +onlyGivenNames x; generalize x = y; clear x)
    | (with_reducible refine ite_kept ?_ ?_)
    | (with_reducible refine kept_next ?_)
    | (with_reducible apply State.tryIssue_kept)
    | (with_reducible apply State.applySig_kept)
    | (with_reducible apply State.applyEnv_kept)
    | (with_reducible apply State.noteRanges_kept)
    | (with_reducible apply State.flagN_kept)
    | (with_reducible apply State.endEnv_kept)
    | (with_reducible refine foldl_kept ?_ ?_)
    | (with_reducible exact kept_mk (kept_fold (by assumption)))
    | split

theorem State.mxTorn_kept {cs : Keep} {s : State} (h : s.Kept cs) : ∀ c eng recs, State.Kept cs (State.mxTorn s c
    eng recs) := by
  intros
  unfold State.mxTorn
  repeat' first
    | (with_reducible assumption)
    | intro _
    | (extract_lets +onlyGivenNames x; generalize x = y; clear x)
    | (with_reducible refine ite_kept ?_ ?_)
    | (with_reducible apply State.flagN_kept)
    | (with_reducible apply State.cmdRecord_kept)
    | (with_reducible refine foldl_kept ?_ ?_)
    | (with_reducible refine forRange_kept ?_ ?_)

theorem State.mxMiss_kept {cs : Keep} {s : State} (h : s.Kept cs) : ∀ c e mt nt row kind k, State.Kept cs
    (State.mxMiss s c e mt nt row kind k) := by
  intros
  unfold State.mxMiss
  repeat' first
    | (with_reducible assumption)
    | (extract_lets +onlyGivenNames x; refine kept_cut (cs := cs) x ?_ ?_; subst x; rotate_left; generalize x = y;
        clear x; intro _)
    | (with_reducible refine ite_kept ?_ ?_)
    | (with_reducible apply State.flagN_kept)
    | (with_reducible apply State.setFld_kept)
    | (with_reducible apply State.cmdRecord_kept)

theorem State.mxReleased_kept {cs : Keep} {s : State} (h : s.Kept cs) : ∀ p t, State.Kept cs (State.mxReleased s p t) := by
  intros
  unfold State.mxReleased
  repeat' first
    | (with_reducible assumption)
    | (with_reducible refine ite_kept ?_ ?_)
    | (with_reducible apply State.flagN_kept)

theorem State.mxOne_kept {cs : Keep} {s : State} (h : s.Kept cs) : ∀ c m env order nt mt, State.Kept cs (State.mxOne
    s c m env order nt mt).1 := by
  intros
  unfold State.mxOne
  repeat' first
    | (with_reducible assumption)
    | (extract_lets +onlyGivenNames x; refine kept_cut (cs := cs) x ?_ ?_; subst x; rotate_left; generalize x = y;
        clear x; intro _)
    | (extract_lets +onlyGivenNames x; generalize x = y; clear x)
    | (with_reducible apply State.flagN_kept)
    | (with_reducible apply State.mxMiss_kept)
    | (with_reducible apply State.mxReleased_kept)
    | (with_reducible exact kept_mk (kept_fold (by assumption)))
    | split

theorem State.mxRun_kept {cs : Keep} {s : State} (h : s.Kept cs) : ∀ c env, State.Kept cs (State.mxRun s c env) := by
  intros
  unfold State.mxRun
  repeat' first
    | (with_reducible assumption)
    | intro _
    | (extract_lets +onlyGivenNames x; refine kept_cut (cs := cs) x ?_ ?_; subst x; rotate_left; generalize x = y;
        clear x; intro _)
    | (extract_lets +onlyGivenNames x; refine kept_cut1 (cs := cs) x ?_ ?_; subst x; rotate_left; generalize x = y;
        clear x; intro _)
    | (extract_lets +onlyGivenNames x; generalize x = y; clear x)
    | (with_reducible refine ite_kept ?_ ?_)
    | (with_reducible apply State.applyEnv_kept)
    | (with_reducible apply State.consumePoison_kept)
    | (with_reducible apply State.noteFaults_kept)
    | (with_reducible apply State.flagN_kept)
    | (with_reducible apply State.mxTorn_kept)
    | (with_reducible apply State.setFld_kept)
    | (with_reducible apply State.pushIssued_kept)
    | (with_reducible apply State.mxOne_kept)
    | (with_reducible apply State.usePreloads_kept)
    | (with_reducible apply State.endEnv_kept)
    | (with_reducible apply State.vxLatch_kept)
    | (with_reducible refine foldl_kept1 ?_ ?_)
    | (with_reducible exact kept_mk (kept_fold (by assumption)))
    | split

theorem execMxeAccumulate_kept {cs : Keep} {s : State} (h : s.Kept cs) : ∀ p ctx env, KeptO cs (execMxeAccumulate p
    ctx env s) := by
  intros
  unfold execMxeAccumulate
  repeat' first
    | (with_reducible assumption)
    | intro _
    | (with_reducible refine kept_next ?_)
    | (with_reducible apply State.tryIssue_kept)
    | (with_reducible apply State.mxRun_kept)

theorem execMxeFp32_kept {cs : Keep} {s : State} (h : s.Kept cs) : ∀ p ctx env, KeptO cs (execMxeFp32 p ctx env s) := by
  intros
  unfold execMxeFp32
  repeat' first
    | (with_reducible assumption)
    | intro _
    | (with_reducible refine kept_next ?_)
    | (with_reducible apply State.tryIssue_kept)
    | (with_reducible apply State.mxRun_kept)

theorem State.upFlag_kept {cs : Keep} {s : State} (h : s.Kept cs) : ∀ c f n k, State.Kept cs (State.upFlag s c f n k) := by
  intros
  unfold State.upFlag
  repeat' first
    | (with_reducible assumption)
    | (extract_lets +onlyGivenNames x; refine kept_cut (cs := cs) x ?_ ?_; subst x; rotate_left; generalize x = y;
        clear x; intro _)
    | (with_reducible refine ite_kept ?_ ?_)
    | (with_reducible apply State.flagN_kept)
    | (with_reducible apply State.setFld_kept)

theorem State.upRec_kept {cs : Keep} {s : State} (h : s.Kept cs) : ∀ c kind nt kt flags, State.Kept cs (State.upRec
    s c kind nt kt flags) := by
  intros
  unfold State.upRec
  repeat' first
    | (with_reducible assumption)
    | (with_reducible apply State.cmdRecord_kept)

theorem State.upWrite_kept {cs : Keep} {s : State} (h : s.Kept cs) : ∀ c nt kt o ps all, State.Kept cs
    (State.upWrite s c nt kt o ps all) := by
  intros
  unfold State.upWrite
  repeat' first
    | (with_reducible assumption)
    | (extract_lets +onlyGivenNames x; (have _ := fun a => x a); subst x; dsimp -zeta only)
    | (extract_lets +onlyGivenNames x; refine kept_cut (cs := cs) x ?_ ?_; subst x; rotate_left; generalize x = y;
        clear x; intro _)
    | (extract_lets +onlyGivenNames x; generalize x = y; clear x)
    | (with_reducible refine ite_kept ?_ ?_)
    | (with_reducible apply State.cmdPut_kept)

theorem State.upOutFlags_kept {cs : Keep} {s : State} (h : s.Kept cs) : ∀ c o, State.Kept cs (State.upOutFlags s c o) := by
  intros
  unfold State.upOutFlags
  repeat' first
    | (with_reducible assumption)
    | (extract_lets +onlyGivenNames x; refine kept_cut (cs := cs) x ?_ ?_; subst x; rotate_left; generalize x = y;
        clear x; intro _)
    | (with_reducible refine ite_kept ?_ ?_)
    | (with_reducible apply State.upFlag_kept)

theorem State.upOne_kept {cs : Keep} {s : State} (h : s.Kept cs) : ∀ c env i ps, State.Kept cs (State.upOne s c env
    i ps) := by
  intros
  unfold State.upOne
  repeat' first
    | (with_reducible assumption)
    | (extract_lets +onlyGivenNames x; refine kept_cut (cs := cs) x ?_ ?_; subst x; rotate_left; generalize x = y;
        clear x; intro _)
    | (extract_lets +onlyGivenNames x; generalize x = y; clear x)
    | (with_reducible refine ite_kept ?_ ?_)
    | (with_reducible apply State.upOutFlags_kept)
    | (with_reducible apply State.upRec_kept)
    | (with_reducible apply State.upWrite_kept)
    | (with_reducible exact kept_mk (kept_fold (by assumption)))

theorem State.upSettle_kept {cs : Keep} {s : State} (h : s.Kept cs) : ∀ c, State.Kept cs (State.upSettle s c) := by
  intros
  unfold State.upSettle
  repeat' first
    | (with_reducible assumption)
    | (with_reducible refine ite_kept ?_ ?_)
    | (with_reducible exact kept_mk (kept_fold (by assumption)))

theorem State.upApply_kept {cs : Keep} {s : State} (h : s.Kept cs) : ∀ c env co g r c2 rbar, State.Kept cs
    (State.upApply s c env co g r c2 rbar) := by
  intros
  unfold State.upApply
  repeat' first
    | (with_reducible assumption)
    | intro _
    | (extract_lets +onlyGivenNames x; refine kept_cut (cs := cs) x ?_ ?_; subst x; rotate_left; generalize x = y;
        clear x; intro _)
    | (extract_lets +onlyGivenNames x; generalize x = y; clear x)
    | (with_reducible apply State.upFlag_kept)
    | (with_reducible apply State.setFld_kept)
    | (with_reducible apply State.upOne_kept)
    | (with_reducible refine foldl_kept ?_ ?_)

theorem State.upRun_kept {cs : Keep} {s : State} (h : s.Kept cs) : ∀ c env, State.Kept cs (State.upRun s c env) := by
  intros
  unfold State.upRun
  repeat' first
    | (with_reducible assumption)
    | (extract_lets +onlyGivenNames x; (have _ := fun a => x a); subst x; dsimp -zeta only)
    | (extract_lets +onlyGivenNames x; refine kept_cut (cs := cs) x ?_ ?_; subst x; rotate_left; generalize x = y;
        clear x; intro _)
    | (extract_lets +onlyGivenNames x; generalize x = y; clear x)
    | (with_reducible refine ite_kept ?_ ?_)
    | (with_reducible apply State.applyEnv_kept)
    | (with_reducible apply State.noteFaults_kept)
    | (with_reducible apply State.pushIssued_kept)
    | (with_reducible apply State.setFld_kept)
    | (with_reducible apply State.endEnv_kept)
    | (with_reducible apply State.upSettle_kept)
    | (with_reducible apply State.consumePoison_kept)
    | (with_reducible apply State.upFlag_kept)
    | (with_reducible apply State.upRec_kept)
    | (with_reducible apply State.cmdPut_kept)
    | (with_reducible apply State.upApply_kept)
    | (with_reducible exact kept_mk (kept_fold (by assumption)))
    | split

theorem execUpdSgd_kept {cs : Keep} {s : State} (h : s.Kept cs) : ∀ p ctx env, KeptO cs (execUpdSgd p ctx env s) := by
  intros
  unfold execUpdSgd
  repeat' first
    | (with_reducible assumption)
    | intro _
    | (with_reducible refine kept_next ?_)
    | (with_reducible apply State.tryIssue_kept)
    | (with_reducible apply State.upRun_kept)

theorem execUpdFactored_kept {cs : Keep} {s : State} (h : s.Kept cs) : ∀ p ctx env, KeptO cs (execUpdFactored p ctx
    env s) := by
  intros
  unfold execUpdFactored
  repeat' first
    | (with_reducible assumption)
    | intro _
    | (with_reducible refine kept_next ?_)
    | (with_reducible apply State.tryIssue_kept)
    | (with_reducible apply State.upRun_kept)

theorem execUpdSampleCrosscheck_kept {cs : Keep} {s : State} (h : s.Kept cs) : ∀ p flips, KeptO cs
    (execUpdSampleCrosscheck p flips s) := by
  intros
  unfold execUpdSampleCrosscheck
  repeat' first
    | (with_reducible assumption)
    | (extract_lets +onlyGivenNames x; refine kept_cut (cs := cs) x ?_ ?_; subst x; rotate_left; generalize x = y;
        clear x; intro _)
    | (extract_lets +onlyGivenNames x; generalize x = y; clear x)
    | (with_reducible refine ite_keptO ?_ ?_)
    | (with_reducible refine kept_next ?_)
    | (with_reducible apply State.upSettle_kept)
    | (with_reducible apply State.upWrite_kept)
    | (with_reducible apply State.upRec_kept)
    | (with_reducible exact kept_mk (kept_fold (by assumption)))
    | split

theorem State.histWrite_kept {cs : Keep} {s : State} (h : s.Kept cs) : ∀ p step, State.Kept cs (State.histWrite s p
    step) := by
  intros
  unfold State.histWrite
  repeat' first
    | (with_reducible assumption)
    | (extract_lets +onlyGivenNames x; generalize x = y; clear x)
    | (with_reducible apply State.wrDatum_kept)

theorem State.bumpEta_kept {cs : Keep} {s : State} (h : s.Kept cs) : ∀ p e, State.Kept cs (State.bumpEta s p e) := by
  intros
  unfold State.bumpEta
  repeat' first
    | (with_reducible assumption)
    | (with_reducible apply State.bump_kept)

theorem State.latchDone_kept {cs : Keep} {s : State} (h : s.Kept cs) : ∀ p eta, State.Kept cs (State.latchDone s p eta) := by
  intros
  unfold State.latchDone
  repeat' first
    | (with_reducible assumption)
    | intro _
    | (extract_lets +onlyGivenNames x; refine kept_cut (cs := cs) x ?_ ?_; subst x; rotate_left; generalize x = y;
        clear x; intro _)
    | (extract_lets +onlyGivenNames x; generalize x = y; clear x)
    | (with_reducible refine ite_kept ?_ ?_)
    | (with_reducible apply State.setFld_kept)
    | (with_reducible apply State.histWrite_kept)
    | (with_reducible apply State.bumpEta_kept)
    | (with_reducible refine foldl_kept ?_ ?_)
    | (with_reducible exact kept_mk (kept_fold (by assumption)))

theorem State.latchItem7_kept {cs : Keep} {s : State} (h : s.Kept cs) : ∀ p step, State.Kept cs (State.latchItem7 s
    p step) := by
  intros
  unfold State.latchItem7
  repeat' first
    | (with_reducible assumption)
    | intro _
    | (extract_lets +onlyGivenNames x; refine kept_cut (cs := cs) x ?_ ?_; subst x; rotate_left; generalize x = y;
        clear x; intro _)
    | (with_reducible refine ite_kept ?_ ?_)
    | (with_reducible apply State.setFld_kept)
    | (with_reducible apply State.snapWin_kept)
    | (with_reducible apply State.latchDone_kept)
    | (with_reducible refine foldl_kept ?_ ?_)
    | (with_reducible refine forRange_kept ?_ ?_)

theorem State.updEtaWrite_kept {cs : Keep} {s : State} (h : s.Kept cs) : ∀ p v, State.Kept cs (State.updEtaWrite s p v) := by
  intros
  unfold State.updEtaWrite
  repeat' first
    | (with_reducible assumption)
    | (extract_lets +onlyGivenNames x; refine kept_cut (cs := cs) x ?_ ?_; subst x; rotate_left; generalize x = y;
        clear x; intro _)
    | (with_reducible refine ite_kept ?_ ?_)
    | (with_reducible apply State.flagN_kept)
    | (with_reducible apply State.setFld_kept)
    | (with_reducible apply State.latchDone_kept)

theorem execEtaTimeout_kept {cs : Keep} {s : State} (h : s.Kept cs) : ∀ p, KeptO cs (execEtaTimeout p s) := by
  intros
  unfold execEtaTimeout
  repeat' first
    | (with_reducible assumption)
    | (extract_lets +onlyGivenNames x; refine kept_cut (cs := cs) x ?_ ?_; subst x; rotate_left; generalize x = y;
        clear x; intro _)
    | (extract_lets +onlyGivenNames x; generalize x = y; clear x)
    | (with_reducible refine ite_keptO ?_ ?_)
    | (with_reducible refine kept_next ?_)
    | (with_reducible apply State.detect_kept)
    | (with_reducible apply State.flagN_kept)
    | (with_reducible exact kept_mk (kept_fold (by assumption)))

theorem State.jobScalarWrite_kept {cs : Keep} {s : State} (h : s.Kept cs) : ∀ p n hi v, State.Kept cs
    (State.jobScalarWrite s p n hi v) := by
  intros
  unfold State.jobScalarWrite
  repeat' first
    | (with_reducible assumption)
    | (extract_lets +onlyGivenNames x; refine kept_cut (cs := cs) x ?_ ?_; subst x; rotate_left; generalize x = y;
        clear x; intro _)
    | (extract_lets +onlyGivenNames x; generalize x = y; clear x)
    | (with_reducible refine ite_kept ?_ ?_)
    | (with_reducible apply State.setFld_kept)

theorem State.putHeld_kept {cs : Keep} {s : State} (h : s.Kept cs) : ∀ h h', State.Kept cs (State.putHeld s h h') := by
  intros
  unfold State.putHeld
  repeat' first
    | (with_reducible exact kept_mk (kept_fold (by assumption)))

theorem execTwoKeyCheck_kept {cs : Keep} {s : State} (h : s.Kept cs) : ∀ p eng flips, KeptO cs (execTwoKeyCheck p
    eng flips s) := by
  intros
  unfold execTwoKeyCheck
  repeat' first
    | (with_reducible assumption)
    | (with_reducible refine ite_keptO ?_ ?_)
    | (with_reducible refine kept_next ?_)
    | (with_reducible apply State.putHeld_kept)
    | split

theorem execTwoKeySiblingRepeat_kept {cs : Keep} {s : State} (h : s.Kept cs) : ∀ p eng flips, KeptO cs
    (execTwoKeySiblingRepeat p eng flips s) := by
  intros
  unfold execTwoKeySiblingRepeat
  repeat' first
    | (with_reducible assumption)
    | (with_reducible refine ite_keptO ?_ ?_)
    | (with_reducible refine kept_next ?_)
    | (with_reducible apply State.putHeld_kept)
    | split

theorem State.twoKeyNote_kept {cs : Keep} {s : State} (h : s.Kept cs) : ∀ h same code psn, State.Kept cs
    (State.twoKeyNote s h same code psn) := by
  intros
  unfold State.twoKeyNote
  repeat' first
    | (with_reducible assumption)
    | (extract_lets +onlyGivenNames x; refine kept_cut (cs := cs) x ?_ ?_; subst x; rotate_left; generalize x = y;
        clear x; intro _)
    | (extract_lets +onlyGivenNames x; generalize x = y; clear x)
    | (with_reducible refine ite_kept ?_ ?_)
    | (with_reducible apply State.cmdRecord_kept)
    | (with_reducible apply State.count_kept)
    | (with_reducible apply State.setFld_kept)

theorem State.mxRelease1_kept {cs : Keep} {s : State} (h : s.Kept cs) : ∀ h out, State.Kept cs (State.mxRelease1 s h
    out) := by
  intros
  unfold State.mxRelease1
  repeat' first
    | (with_reducible assumption)
    | (extract_lets +onlyGivenNames x; refine kept_cut (cs := cs) x ?_ ?_; subst x; rotate_left; generalize x = y;
        clear x; intro _)
    | (extract_lets +onlyGivenNames x; generalize x = y; clear x)
    | (with_reducible refine ite_kept ?_ ?_)
    | (with_reducible apply State.mxReleased_kept)
    | (with_reducible apply State.consumePoison_kept)
    | (with_reducible exact kept_mk (kept_fold (by assumption)))

theorem State.upRelease1_kept {cs : Keep} {s : State} (h : s.Kept cs) : ∀ h out, State.Kept cs (State.upRelease1 s h
    out) := by
  intros
  unfold State.upRelease1
  repeat' first
    | (with_reducible assumption)
    | (extract_lets +onlyGivenNames x; refine kept_cut (cs := cs) x ?_ ?_; subst x; rotate_left; generalize x = y;
        clear x; intro _)
    | (extract_lets +onlyGivenNames x; generalize x = y; clear x)
    | (with_reducible apply State.upSettle_kept)
    | (with_reducible apply State.upWrite_kept)
    | (with_reducible apply State.consumePoison_kept)
    | (with_reducible exact kept_mk (kept_fold (by assumption)))
    | split

theorem execTwoKeyOutcome_kept {cs : Keep} {s : State} (h : s.Kept cs) : ∀ p eng, KeptO cs (execTwoKeyOutcome p eng s) := by
  intros
  unfold execTwoKeyOutcome
  repeat' first
    | (with_reducible assumption)
    | (extract_lets +onlyGivenNames x; refine kept_cut (cs := cs) x ?_ ?_; subst x; rotate_left; generalize x = y;
        clear x; intro _)
    | (with_reducible refine ite_kept ?_ ?_)
    | (with_reducible refine ite_keptO ?_ ?_)
    | (with_reducible refine kept_next ?_)
    | (with_reducible apply State.twoKeyNote_kept)
    | (with_reducible apply State.setFld_kept)
    | (with_reducible apply State.upSettle_kept)
    | (with_reducible apply State.upRelease1_kept)
    | (with_reducible apply State.mxRelease1_kept)
    | (with_reducible exact kept_mk (kept_fold (by assumption)))
    | split

theorem State.setFcWindow_kept {cs : Keep} {s : State} (h : s.Kept cs) : ∀ n v, State.Kept cs (State.setFcWindow s n v) := by
  intros
  unfold State.setFcWindow
  repeat' first
    | (with_reducible assumption)
    | intro _
    | (with_reducible apply State.setReg_kept)
    | (with_reducible refine forRange_kept ?_ ?_)

theorem State.tableError_kept {cs : Keep} {s : State} (h : s.Kept cs) : ∀ a, State.Kept cs (State.tableError s a) := by
  intros
  unfold State.tableError
  repeat' first
    | (with_reducible assumption)
    | (extract_lets +onlyGivenNames x; refine kept_cut (cs := cs) x ?_ ?_; subst x; rotate_left; generalize x = y;
        clear x; intro _)
    | (extract_lets +onlyGivenNames x; generalize x = y; clear x)
    | (with_reducible refine ite_kept ?_ ?_)
    | (with_reducible apply State.detect_kept)
    | (with_reducible exact kept_mk (kept_fold (by assumption)))

theorem State.tableErrors_kept {cs : Keep} {s : State} (h : s.Kept cs) : ∀ l, State.Kept cs (State.tableErrors s l) := by
  intros
  unfold State.tableErrors
  repeat' first
    | (with_reducible assumption)
    | intro _
    | (with_reducible apply State.tableError_kept)
    | (with_reducible refine foldl_kept ?_ ?_)

theorem State.logShow_kept {cs : Keep} {s : State} (h : s.Kept cs) : ∀ p, State.Kept cs (State.logShow s p) := by
  intros
  unfold State.logShow
  repeat' first
    | (with_reducible assumption)
    | (extract_lets +onlyGivenNames x; refine kept_cut (cs := cs) x ?_ ?_; subst x; rotate_left; generalize x = y;
        clear x; intro _)
    | (extract_lets +onlyGivenNames x; generalize x = y; clear x)
    | (with_reducible apply State.setFld_kept)

theorem State.logWrite_kept {cs : Keep} {s : State} (h : s.Kept cs) : ∀ p j step flow hdr pay psn, State.Kept cs
    (State.logWrite s p j step flow hdr pay psn) := by
  intros
  unfold State.logWrite
  repeat' first
    | (with_reducible assumption)
    | intro _
    | (extract_lets +onlyGivenNames x; refine kept_cut (cs := cs) x ?_ ?_; subst x; rotate_left; generalize x = y;
        clear x; intro _)
    | (extract_lets +onlyGivenNames x; generalize x = y; clear x)
    | (with_reducible refine ite_kept ?_ ?_)
    | (with_reducible apply State.setFld_kept)
    | (with_reducible apply State.wrDatum_kept)
    | (with_reducible apply State.count_kept)
    | (with_reducible apply State.logShow_kept)
    | (with_reducible refine forRange_kept ?_ ?_)
    | (with_reducible exact kept_mk (kept_fold (by assumption)))

theorem State.feedRecord_kept {cs : Keep} {s : State} (h : s.Kept cs) : ∀ p j flow hdr pay psn, State.Kept cs
    (State.feedRecord s p j flow hdr pay psn) := by
  intros
  unfold State.feedRecord
  repeat' first
    | (with_reducible assumption)
    | (extract_lets +onlyGivenNames x; generalize x = y; clear x)
    | (with_reducible apply State.sendPkt_kept)
    | (with_reducible apply State.count_kept)
    | split

theorem State.formPacket_kept {cs : Keep} {s : State} (h : s.Kept cs) : ∀ c flow tumbler offset pay psn, State.Kept
    cs (State.formPacket s c flow tumbler offset pay psn) := by
  intros
  unfold State.formPacket
  repeat' first
    | (with_reducible assumption)
    | (extract_lets +onlyGivenNames x; refine kept_cut (cs := cs) x ?_ ?_; subst x; rotate_left; generalize x = y;
        clear x; intro _)
    | (extract_lets +onlyGivenNames x; generalize x = y; clear x)
    | (with_reducible refine ite_kept ?_ ?_)
    | (with_reducible apply State.setFld_kept)
    | (with_reducible apply State.logWrite_kept)
    | (with_reducible apply State.feedRecord_kept)
    | (with_reducible apply State.sendPkt_kept)
    | split

theorem State.sendUnits_kept {cs : Keep} {s : State} (h : s.Kept cs) : ∀ c flow tumbler off pay psn, State.Kept cs
    (State.sendUnits s c flow tumbler off pay psn) := by
  intros
  unfold State.sendUnits
  repeat' first
    | (with_reducible assumption)
    | intro _
    | (extract_lets +onlyGivenNames x; generalize x = y; clear x)
    | (with_reducible refine ite_kept ?_ ?_)
    | (with_reducible apply State.formPacket_kept)
    | (with_reducible refine forRange_kept ?_ ?_)

theorem State.settleCmd_kept {cs : Keep} {s : State} (h : s.Kept cs) : ∀ k, State.Kept cs (State.settleCmd s k) := by
  intros
  unfold State.settleCmd
  repeat' first
    | (with_reducible assumption)
    | (with_reducible refine ite_kept ?_ ?_)
    | (with_reducible exact kept_mk (kept_fold (by assumption)))

theorem State.sendRun_kept {cs : Keep} {s : State} (h : s.Kept cs) : ∀ c env, State.Kept cs (State.sendRun s c env) := by
  intros
  unfold State.sendRun
  repeat' first
    | (with_reducible assumption)
    | (extract_lets +onlyGivenNames x; refine kept_cut (cs := cs) x ?_ ?_; subst x; rotate_left; generalize x = y;
        clear x; intro _)
    | (extract_lets +onlyGivenNames x; generalize x = y; clear x)
    | (with_reducible refine ite_kept ?_ ?_)
    | (with_reducible apply State.tableErrors_kept)
    | (with_reducible apply State.pushIssued_kept)
    | (with_reducible apply State.killCtx_kept)
    | (with_reducible apply State.cmdRecord_kept)
    | (with_reducible apply State.applyEnv_kept)
    | (with_reducible apply State.noteRanges_kept)
    | (with_reducible apply State.endEnv_kept)
    | (with_reducible apply State.settleCmd_kept)
    | (with_reducible apply State.sendUnits_kept)

theorem execCmdSend_kept {cs : Keep} {s : State} (h : s.Kept cs) : ∀ p ctx env, KeptO cs (execCmdSend p ctx env s) := by
  intros
  unfold execCmdSend
  repeat' first
    | (with_reducible assumption)
    | intro _
    | (with_reducible refine kept_next ?_)
    | (with_reducible apply State.tryIssue_kept)
    | (with_reducible apply State.sendRun_kept)

theorem State.colCapture_kept {cs : Keep} {s : State} (h : s.Kept cs) : ∀ c, State.Kept cs (State.colCapture s c) := by
  intros
  unfold State.colCapture
  repeat' first
    | (with_reducible assumption)
    | (with_reducible refine ite_kept ?_ ?_)
    | (with_reducible apply State.setFld_kept)

theorem State.colMiss_kept {cs : Keep} {s : State} (h : s.Kept cs) : ∀ c f reason value, State.Kept cs
    (State.colMiss s c f reason value) := by
  intros
  unfold State.colMiss
  repeat' first
    | (with_reducible assumption)
    | (with_reducible apply State.killCtx_kept)
    | (with_reducible apply State.cmdRecord_kept)
    | (with_reducible apply State.colCapture_kept)
    | (with_reducible apply State.setFld_kept)

theorem State.colRange_kept {cs : Keep} {s : State} (h : s.Kept cs) : ∀ c high count, State.Kept cs (State.colRange
    s c high count) := by
  intros
  unfold State.colRange
  repeat' first
    | (with_reducible assumption)
    | (extract_lets +onlyGivenNames x; refine kept_cut (cs := cs) x ?_ ?_; subst x; rotate_left; generalize x = y;
        clear x; intro _)
    | (extract_lets +onlyGivenNames x; generalize x = y; clear x)
    | (with_reducible refine ite_kept ?_ ?_)
    | (with_reducible apply State.setFld_kept)
    | (with_reducible apply State.cmdRecord_kept)
    | (with_reducible apply State.colCapture_kept)
    | (with_reducible apply State.setReg_kept)

theorem State.sendPortion_kept {cs : Keep} {s : State} (h : s.Kept cs) : ∀ c flow o x, State.Kept cs
    (State.sendPortion s c flow o x) := by
  intros
  unfold State.sendPortion
  repeat' first
    | (with_reducible assumption)
    | (with_reducible apply State.sendUnits_kept)

theorem State.colNote_kept {cs : Keep} {s : State} (h : s.Kept cs) : ∀ c k own ins outs, State.Kept cs
    (State.colNote s c k own ins outs).1 := by
  intros
  unfold State.colNote
  repeat' first
    | (with_reducible assumption)
    | (extract_lets +onlyGivenNames x; refine kept_cut (cs := cs) x ?_ ?_; subst x; rotate_left; generalize x = y;
        clear x; intro _)
    | (extract_lets +onlyGivenNames x; generalize x = y; clear x)
    | (with_reducible refine ite_kept ?_ ?_)
    | (with_reducible refine ite_kept1 ?_ ?_)
    | (with_reducible apply State.consumePoison_kept)
    | (with_reducible apply State.colCapture_kept)
    | (with_reducible apply State.setFld_kept)
    | (with_reducible apply State.colRange_kept)

theorem State.colWrite_kept {cs : Keep} {s : State} (h : s.Kept cs) : ∀ c step c0 at_ vs, State.Kept cs
    (State.colWrite s c step c0 at_ vs) := by
  intros
  unfold State.colWrite
  repeat' first
    | (with_reducible assumption)
    | (extract_lets +onlyGivenNames x; generalize x = y; clear x)
    | (with_reducible refine ite_kept ?_ ?_)
    | (with_reducible apply State.cvtFlags_kept)
    | (with_reducible apply State.colCapture_kept)
    | (with_reducible apply State.setFld_kept)
    | (with_reducible apply State.cmdPut_kept)

theorem State.colCopy_kept {cs : Keep} {s : State} (h : s.Kept cs) : ∀ c a lo at_ n f, State.Kept cs (State.colCopy
    s c a lo at_ n f) := by
  intros
  unfold State.colCopy
  repeat' first
    | (with_reducible assumption)
    | (extract_lets +onlyGivenNames x; refine kept_cut (cs := cs) x ?_ ?_; subst x; rotate_left; generalize x = y;
        clear x; intro _)
    | (extract_lets +onlyGivenNames x; generalize x = y; clear x)
    | (with_reducible apply State.cmdPut_kept)

theorem State.colFinish_kept {cs : Keep} {s : State} (h : s.Kept cs) : ∀ c k vs, State.Kept cs (State.colFinish s c
    k vs) := by
  intros
  unfold State.colFinish
  repeat' first
    | (with_reducible assumption)
    | (extract_lets +onlyGivenNames x; generalize x = y; clear x)
    | (with_reducible apply State.colWrite_kept)

theorem State.colStart_kept {cs : Keep} {s : State} (h : s.Kept cs) : ∀ c k, State.Kept cs (State.colStart s c k) := by
  intros
  unfold State.colStart
  repeat' first
    | (with_reducible assumption)
    | intro _
    | (extract_lets +onlyGivenNames x; refine kept_cut (cs := cs) x ?_ ?_; subst x; rotate_left; generalize x = y;
        clear x; intro _)
    | (extract_lets +onlyGivenNames x; generalize x = y; clear x)
    | (with_reducible refine ite_kept ?_ ?_)
    | (with_reducible apply State.colCopy_kept)
    | (with_reducible apply State.colNote_kept)
    | (with_reducible apply State.colWrite_kept)
    | (with_reducible apply State.sendPortion_kept)
    | (with_reducible refine forRange_kept ?_ ?_)

theorem State.colStage_kept {cs : Keep} {s : State} (h : s.Kept cs) : ∀ c k t, State.Kept cs (State.colStage s c k t).1 := by
  intros
  unfold State.colStage
  repeat' first
    | (with_reducible assumption)
    | intro _
    | (extract_lets +onlyGivenNames x; refine kept_cut (cs := cs) x ?_ ?_; subst x; rotate_left; generalize x = y;
        clear x; intro _)
    | (extract_lets +onlyGivenNames x; generalize x = y; clear x)
    | (with_reducible refine ite_kept ?_ ?_)
    | (with_reducible refine ite_kept1 ?_ ?_)
    | (with_reducible apply State.colCopy_kept)
    | (with_reducible apply State.sendPortion_kept)
    | (with_reducible apply State.colNote_kept)
    | (with_reducible apply State.colFinish_kept)
    | (with_reducible refine forRange_kept ?_ ?_)

theorem State.colBusy_kept {cs : Keep} {s : State} (h : s.Kept cs) : State.Kept cs (State.colBusy s) := by
  unfold State.colBusy
  repeat' first
    | (with_reducible assumption)
    | (with_reducible apply State.setFld_kept)

theorem State.colEnd_kept {cs : Keep} {s : State} (h : s.Kept cs) : ∀ k, State.Kept cs (State.colEnd s k) := by
  intros
  unfold State.colEnd
  repeat' first
    | (with_reducible refine ite_kept ?_ ?_)
    | (with_reducible apply State.settleCmd_kept)
    | (with_reducible apply State.gcount_kept)
    | (with_reducible apply State.colBusy_kept)
    | (with_reducible exact kept_mk (kept_fold (by assumption)))

theorem State.colRun_kept {cs : Keep} {s : State} (h : s.Kept cs) : ∀ c env, State.Kept cs (State.colRun s c env) := by
  intros
  unfold State.colRun
  repeat' first
    | (with_reducible assumption)
    | (extract_lets +onlyGivenNames x; refine kept_cut (cs := cs) x ?_ ?_; subst x; rotate_left; generalize x = y;
        clear x; intro _)
    | (extract_lets +onlyGivenNames x; generalize x = y; clear x)
    | (with_reducible apply State.tableErrors_kept)
    | (with_reducible apply State.pushIssued_kept)
    | (with_reducible apply State.colMiss_kept)
    | (with_reducible apply State.applyEnv_kept)
    | (with_reducible apply State.noteRanges_kept)
    | (with_reducible apply State.colStart_kept)
    | (with_reducible apply State.colBusy_kept)
    | (with_reducible apply State.endEnv_kept)
    | (with_reducible apply State.colEnd_kept)
    | (with_reducible exact kept_mk (kept_fold (by assumption)))
    | split

theorem execCollReduceScatter_kept {cs : Keep} {s : State} (h : s.Kept cs) : ∀ p ctx env, KeptO cs
    (execCollReduceScatter p ctx env s) := by
  intros
  unfold execCollReduceScatter
  repeat' first
    | (with_reducible assumption)
    | intro _
    | (with_reducible refine kept_next ?_)
    | (with_reducible apply State.tryIssue_kept)
    | (with_reducible apply State.colRun_kept)

theorem execCollAllGather_kept {cs : Keep} {s : State} (h : s.Kept cs) : ∀ p ctx env, KeptO cs (execCollAllGather p
    ctx env s) := by
  intros
  unfold execCollAllGather
  repeat' first
    | (with_reducible assumption)
    | intro _
    | (with_reducible refine kept_next ?_)
    | (with_reducible apply State.tryIssue_kept)
    | (with_reducible apply State.colRun_kept)

theorem execCollAllReduce_kept {cs : Keep} {s : State} (h : s.Kept cs) : ∀ p ctx env, KeptO cs (execCollAllReduce p
    ctx env s) := by
  intros
  unfold execCollAllReduce
  repeat' first
    | (with_reducible assumption)
    | intro _
    | (with_reducible refine kept_next ?_)
    | (with_reducible apply State.tryIssue_kept)
    | (with_reducible apply State.colRun_kept)

theorem execCollStageReady_kept {cs : Keep} {s : State} (h : s.Kept cs) : ∀ place, KeptO cs (execCollStageReady
    place s) := by
  intros
  unfold execCollStageReady
  repeat' first
    | (with_reducible assumption)
    | (extract_lets +onlyGivenNames x; generalize x = y; clear x)
    | (with_reducible refine ite_keptO ?_ ?_)
    | (with_reducible refine kept_next ?_)
    | (with_reducible apply State.colStage_kept)
    | (with_reducible apply State.colEnd_kept)
    | split

theorem State.sbAlert_kept {cs : Keep} {s : State} (h : s.Kept cs) : ∀ bit, State.Kept cs (State.sbAlert s bit) := by
  intros
  unfold State.sbAlert
  repeat' first
    | (with_reducible assumption)
    | (extract_lets +onlyGivenNames x; refine kept_cut (cs := cs) x ?_ ?_; subst x; rotate_left; generalize x = y;
        clear x; intro _)
    | (extract_lets +onlyGivenNames x; generalize x = y; clear x)
    | (with_reducible refine ite_kept ?_ ?_)
    | (with_reducible apply State.setFld_kept)
    | (with_reducible apply State.emit_kept)

theorem State.addFault_kept {cs : Keep} {s : State} (h : s.Kept cs) : ∀ m, State.Kept cs (State.addFault s m) := by
  intros
  unfold State.addFault
  repeat' first
    | (with_reducible assumption)
    | (extract_lets +onlyGivenNames x; refine kept_cut (cs := cs) x ?_ ?_; subst x; rotate_left; generalize x = y;
        clear x; intro _)
    | (extract_lets +onlyGivenNames x; generalize x = y; clear x)
    | (with_reducible apply State.setFld_kept)
    | (with_reducible exact kept_mk (kept_fold (by assumption)))

theorem State.clearFault_kept {cs : Keep} {s : State} (h : s.Kept cs) : ∀ m, State.Kept cs (State.clearFault s m) := by
  intros
  unfold State.clearFault
  repeat' first
    | (extract_lets +onlyGivenNames x; generalize x = y; clear x)
    | (with_reducible apply State.setFld_kept)
    | (with_reducible exact kept_mk (kept_fold (by assumption)))

theorem State.setReady_kept {cs : Keep} {s : State} (h : s.Kept cs) : ∀ b, State.Kept cs (State.setReady s b) := by
  intros
  unfold State.setReady
  repeat' first
    | (extract_lets +onlyGivenNames x; generalize x = y; clear x)
    | (with_reducible apply State.setFld_kept)
    | (with_reducible exact kept_mk (kept_fold (by assumption)))

theorem State.discard_kept {cs : Keep} {s : State} (h : s.Kept cs) : ∀ p ctx, State.Kept cs (State.discard s p ctx) := by
  intros
  unfold State.discard
  repeat' first
    | (with_reducible assumption)
    | intro _
    | (extract_lets +onlyGivenNames x; (have _ := fun a => x a); subst x; dsimp -zeta only)
    | (extract_lets +onlyGivenNames x; refine kept_cut (cs := cs) x ?_ ?_; subst x; rotate_left; generalize x = y;
        clear x; intro _)
    | (extract_lets +onlyGivenNames x; generalize x = y; clear x)
    | (with_reducible refine ite_kept ?_ ?_)
    | (with_reducible apply State.traceEnds_kept)
    | (with_reducible apply State.setFld_kept)
    | (with_reducible apply State.colBusy_kept)
    | (with_reducible refine foldl_kept ?_ ?_)
    | (with_reducible exact kept_mk (kept_fold (by assumption)))

theorem State.ctxReset_kept {cs : Keep} {s : State} (h : s.Kept cs) : ∀ p ctx, State.Kept cs (State.ctxReset s p ctx) := by
  intros
  unfold State.ctxReset
  repeat' first
    | (with_reducible assumption)
    | (extract_lets +onlyGivenNames x; refine kept_cut (cs := cs) x ?_ ?_; subst x; rotate_left; generalize x = y;
        clear x; intro _)
    | (extract_lets +onlyGivenNames x; generalize x = y; clear x)
    | (with_reducible refine ite_kept ?_ ?_)
    | (with_reducible apply State.discard_kept)
    | (with_reducible apply State.setFld_kept)
    | (with_reducible apply State.enterKilled_kept)

theorem State.ctxResetAll_kept {cs : Keep} {s : State} (h : s.Kept cs) : ∀ p, State.Kept cs (State.ctxResetAll s p) := by
  intros
  unfold State.ctxResetAll
  repeat' first
    | (with_reducible assumption)
    | intro _
    | (with_reducible apply State.ctxReset_kept)
    | (with_reducible refine forRange_kept ?_ ?_)

theorem State.freeEntry_kept {cs : Keep} {s : State} (h : s.Kept cs) : ∀ p e, State.Kept cs (State.freeEntry s p e) := by
  intros
  unfold State.freeEntry
  repeat' first
    | (with_reducible assumption)
    | (with_reducible apply State.setFld_kept)
    | (with_reducible apply State.clearRegs_kept)
    | (with_reducible apply State.discard_kept)

theorem State.setHist_kept {cs : Keep} {s : State} (h : s.Kept cs) : ∀ u h, State.Kept cs (State.setHist s u h) := by
  intros
  unfold State.setHist
  repeat' first
    | (with_reducible assumption)
    | (extract_lets +onlyGivenNames x; refine kept_cut (cs := cs) x ?_ ?_; subst x; rotate_left; generalize x = y;
        clear x; intro _)
    | (extract_lets +onlyGivenNames x; generalize x = y; clear x)
    | (with_reducible apply State.setFld_kept)
    | (with_reducible exact kept_mk (kept_fold (by assumption)))

theorem State.setRails_kept {cs : Keep} {s : State} (h : s.Kept cs) : State.Kept cs (State.setRails s) := by
  unfold State.setRails
  repeat' first
    | (with_reducible assumption)
    | intro _
    | (with_reducible apply State.setFld_kept)
    | (with_reducible refine forRange_kept ?_ ?_)

theorem State.setClockGuard_kept {cs : Keep} {s : State} (h : s.Kept cs) : State.Kept cs (State.setClockGuard s) := by
  unfold State.setClockGuard
  repeat' first
    | (with_reducible assumption)
    | (with_reducible apply State.setFld_kept)
    | split

theorem State.dropGuard_kept {cs : Keep} {s : State} (h : s.Kept cs) : ∀ u, State.Kept cs (State.dropGuard s u) := by
  intros
  unfold State.dropGuard
  repeat' first
    | (extract_lets +onlyGivenNames x; generalize x = y; clear x)
    | (with_reducible apply State.setClockGuard_kept)
    | (with_reducible apply State.setRails_kept)
    | (with_reducible exact kept_mk (kept_fold (by assumption)))

theorem State.hingeGuards_kept {cs : Keep} {s : State} (h : s.Kept cs) : ∀ j, State.Kept cs (State.hingeGuards s j) := by
  intros
  unfold State.hingeGuards
  repeat' first
    | (extract_lets +onlyGivenNames x; generalize x = y; clear x)
    | (with_reducible apply State.setClockGuard_kept)
    | (with_reducible apply State.setRails_kept)
    | (with_reducible exact kept_mk (kept_fold (by assumption)))

theorem State.condCount_kept {cs : Keep} {s : State} (h : s.Kept cs) : State.Kept cs (State.condCount s) := by
  unfold State.condCount
  repeat' first
    | (with_reducible assumption)
    | (with_reducible apply State.setFld_kept)

theorem State.condClear_kept {cs : Keep} {s : State} (h : s.Kept cs) : ∀ u, State.Kept cs (State.condClear s u) := by
  intros
  unfold State.condClear
  repeat' first
    | (with_reducible assumption)
    | (with_reducible apply State.condCount_kept)
    | (with_reducible apply State.setReg_kept)
    | split

theorem State.keeperRec_kept {cs : Keep} {s : State} (h : s.Kept cs) : ∀ u cls flags syn, State.Kept cs
    (State.keeperRec s u cls flags syn) := by
  intros
  unfold State.keeperRec
  repeat' first
    | (with_reducible assumption)
    | (extract_lets +onlyGivenNames x; generalize x = y; clear x)
    | (with_reducible apply State.detect_kept)

theorem State.powerRec_kept {cs : Keep} {s : State} (h : s.Kept cs) : ∀ unit kind index dom val limit us, State.Kept
    cs (State.powerRec s unit kind index dom val limit us) := by
  intros
  unfold State.powerRec
  repeat' first
    | (with_reducible assumption)
    | (with_reducible apply State.keeperRec_kept)

theorem State.syncHealth_kept {cs : Keep} {s : State} (h : s.Kept cs) : State.Kept cs (State.syncHealth s) := by
  unfold State.syncHealth
  repeat' first
    | (with_reducible assumption)
    | (extract_lets +onlyGivenNames x; refine kept_cut (cs := cs) x ?_ ?_; subst x; rotate_left; generalize x = y;
        clear x; intro _)
    | (extract_lets +onlyGivenNames x; generalize x = y; clear x)
    | (with_reducible refine ite_kept ?_ ?_)
    | (with_reducible apply State.setFld_kept)
    | (with_reducible apply State.addFault_kept)
    | (with_reducible apply State.clearFault_kept)

theorem State.healthRec_kept {cs : Keep} {s : State} (h : s.Kept cs) : ∀ scope p old new cause flags, State.Kept cs
    (State.healthRec s scope p old new cause flags) := by
  intros
  unfold State.healthRec
  repeat' first
    | (with_reducible assumption)
    | (with_reducible apply State.keeperRec_kept)

theorem State.setHealth_kept {cs : Keep} {s : State} (h : s.Kept cs) : ∀ p new cause flags, State.Kept cs
    (State.setHealth s p new cause flags) := by
  intros
  unfold State.setHealth
  repeat' first
    | (with_reducible assumption)
    | (extract_lets +onlyGivenNames x; refine kept_cut (cs := cs) x ?_ ?_; subst x; rotate_left; generalize x = y;
        clear x; intro _)
    | (extract_lets +onlyGivenNames x; generalize x = y; clear x)
    | (with_reducible refine ite_kept ?_ ?_)
    | (with_reducible apply State.sbAlert_kept)
    | (with_reducible apply State.syncHealth_kept)
    | (with_reducible apply State.setFld_kept)
    | (with_reducible apply State.healthRec_kept)
    | (with_reducible exact kept_mk (kept_fold (by assumption)))

theorem State.condHealth_kept {cs : Keep} {s : State} (h : s.Kept cs) : ∀ p cause, State.Kept cs (State.condHealth s
    p cause) := by
  intros
  unfold State.condHealth
  repeat' first
    | (with_reducible assumption)
    | (with_reducible refine ite_kept ?_ ?_)
    | (with_reducible apply State.setHealth_kept)
    | split

theorem State.retireUsed_kept {cs : Keep} {s : State} (h : s.Kept cs) : State.Kept cs (State.retireUsed s) := by
  unfold State.retireUsed
  repeat' first
    | (with_reducible assumption)
    | (extract_lets +onlyGivenNames x; generalize x = y; clear x)
    | (with_reducible apply State.setFld_kept)

theorem State.retirePart_kept {cs : Keep} {s : State} (h : s.Kept cs) : ∀ p cause flags, State.Kept cs
    (State.retirePart s p cause flags) := by
  intros
  unfold State.retirePart
  repeat' first
    | (with_reducible assumption)
    | intro _
    | (extract_lets +onlyGivenNames x; refine kept_cut (cs := cs) x ?_ ?_; subst x; rotate_left; generalize x = y;
        clear x; intro _)
    | (extract_lets +onlyGivenNames x; generalize x = y; clear x)
    | (with_reducible refine ite_kept ?_ ?_)
    | (with_reducible apply State.retireUsed_kept)
    | (with_reducible apply State.ctxResetAll_kept)
    | (with_reducible apply State.setDom_kept)
    | (with_reducible apply State.setHealth_kept)
    | (with_reducible apply State.endOps_kept)
    | (with_reducible refine forRange_kept ?_ ?_)
    | (with_reducible exact kept_mk (kept_fold (by assumption)))

theorem State.partFatal_kept {cs : Keep} {s : State} (h : s.Kept cs) : ∀ p, State.Kept cs (State.partFatal s p) := by
  intros
  unfold State.partFatal
  repeat' first
    | (with_reducible assumption)
    | (with_reducible apply State.retirePart_kept)

theorem State.partDemote_kept {cs : Keep} {s : State} (h : s.Kept cs) : ∀ p, State.Kept cs (State.partDemote s p).1 := by
  intros
  unfold State.partDemote
  repeat' first
    | (with_reducible assumption)
    | (extract_lets +onlyGivenNames x; refine kept_cut (cs := cs) x ?_ ?_; subst x; rotate_left; generalize x = y;
        clear x; intro _)
    | (with_reducible refine ite_kept1 ?_ ?_)
    | (with_reducible apply State.retireUsed_kept)
    | (with_reducible apply State.setHealth_kept)
    | (with_reducible apply State.retirePart_kept)

theorem State.moduleFatal_kept {cs : Keep} {s : State} (h : s.Kept cs) : State.Kept cs (State.moduleFatal s) := by
  unfold State.moduleFatal
  repeat' first
    | (with_reducible assumption)
    | (extract_lets +onlyGivenNames x; refine kept_cut (cs := cs) x ?_ ?_; subst x; rotate_left; generalize x = y;
        clear x; intro _)
    | (extract_lets +onlyGivenNames x; generalize x = y; clear x)
    | (with_reducible refine ite_kept ?_ ?_)
    | (with_reducible apply State.setHist_kept)
    | (with_reducible apply State.sbAlert_kept)
    | (with_reducible apply State.syncHealth_kept)
    | (with_reducible apply State.healthRec_kept)

theorem State.mxMap_kept {cs : Keep} {s : State} (h : s.Kept cs) : ∀ p, State.Kept cs (State.mxMap s p) := by
  intros
  unfold State.mxMap
  repeat' first
    | (with_reducible assumption)
    | intro _
    | (extract_lets +onlyGivenNames x; generalize x = y; clear x)
    | (with_reducible apply State.setFld_kept)
    | (with_reducible refine forRange_kept ?_ ?_)

theorem State.retireLane_kept {cs : Keep} {s : State} (h : s.Kept cs) : ∀ x, State.Kept cs (State.retireLane s x) := by
  intros
  unfold State.retireLane
  repeat' first
    | (with_reducible assumption)
    | (extract_lets +onlyGivenNames x; refine kept_cut (cs := cs) x ?_ ?_; subst x; rotate_left; generalize x = y;
        clear x; intro _)
    | (extract_lets +onlyGivenNames x; generalize x = y; clear x)
    | (with_reducible apply State.setFld_kept)

theorem State.retireChan_kept {cs : Keep} {s : State} (h : s.Kept cs) : ∀ p x hbm, State.Kept cs (State.retireChan s
    p x hbm).1 := by
  intros
  unfold State.retireChan
  repeat' first
    | (with_reducible assumption)
    | (extract_lets +onlyGivenNames x; refine kept_cut (cs := cs) x ?_ ?_; subst x; rotate_left; generalize x = y;
        clear x; intro _)
    | (extract_lets +onlyGivenNames x; generalize x = y; clear x)
    | (with_reducible refine ite_kept1 ?_ ?_)
    | (with_reducible apply State.setFld_kept)
    | (with_reducible apply State.detect_kept)
    | (with_reducible exact kept_mk (kept_fold (by assumption)))

theorem State.retireRec_kept {cs : Keep} {s : State} (h : s.Kept cs) : ∀ u reason row n, State.Kept cs
    (State.retireRec s u reason row n) := by
  intros
  unfold State.retireRec
  repeat' first
    | (with_reducible assumption)
    | (with_reducible apply State.keeperRec_kept)

theorem State.retireAction_kept {cs : Keep} {s : State} (h : s.Kept cs) : ∀ u, State.Kept cs (State.retireAction s u) := by
  intros
  unfold State.retireAction
  repeat' first
    | (with_reducible assumption)
    | intro _
    | (extract_lets +onlyGivenNames x; refine kept_cut (cs := cs) x ?_ ?_; subst x; rotate_left; generalize x = y;
        clear x; intro _)
    | (extract_lets +onlyGivenNames x; refine kept_cut1 (cs := cs) x ?_ ?_; subst x; rotate_left; generalize x = y;
        clear x; intro _)
    | (extract_lets +onlyGivenNames x; generalize x = y; clear x)
    | (with_reducible refine ite_kept ?_ ?_)
    | (with_reducible apply State.setFld_kept)
    | (with_reducible apply State.mxMap_kept)
    | (with_reducible apply State.partFatal_kept)
    | (with_reducible apply State.retireChan_kept)
    | (with_reducible apply State.retireRec_kept)
    | (with_reducible apply State.retireLane_kept)
    | (with_reducible apply State.moduleFatal_kept)
    | (with_reducible refine forRange_kept ?_ ?_)

theorem State.permanent_kept {cs : Keep} {s : State} (h : s.Kept cs) : ∀ u reason row n, State.Kept cs
    (State.permanent s u reason row n) := by
  intros
  unfold State.permanent
  repeat' first
    | (with_reducible assumption)
    | (extract_lets +onlyGivenNames x; refine kept_cut (cs := cs) x ?_ ?_; subst x; rotate_left; generalize x = y;
        clear x; intro _)
    | (extract_lets +onlyGivenNames x; generalize x = y; clear x)
    | (with_reducible refine ite_kept ?_ ?_)
    | (with_reducible apply State.retireRec_kept)
    | (with_reducible apply State.setHist_kept)
    | (with_reducible apply State.dropGuard_kept)
    | (with_reducible apply State.condClear_kept)
    | (with_reducible apply State.retireAction_kept)
    | (with_reducible apply State.condHealth_kept)

theorem State.condRec_kept {cs : Keep} {s : State} (h : s.Kept cs) : ∀ u axis band guard action n nb e, State.Kept
    cs (State.condRec s u axis band guard action n nb e) := by
  intros
  unfold State.condRec
  repeat' first
    | (with_reducible assumption)
    | (with_reducible apply State.keeperRec_kept)

theorem State.condSet_kept {cs : Keep} {s : State} (h : s.Kept cs) : ∀ u row t, State.Kept cs (State.condSet s u row t) := by
  intros
  unfold State.condSet
  repeat' first
    | (with_reducible assumption)
    | (extract_lets +onlyGivenNames x; refine kept_cut (cs := cs) x ?_ ?_; subst x; rotate_left; generalize x = y;
        clear x; intro _)
    | (extract_lets +onlyGivenNames x; generalize x = y; clear x)
    | (with_reducible refine ite_kept ?_ ?_)
    | (with_reducible apply State.permanent_kept)
    | (with_reducible apply State.setHist_kept)
    | (with_reducible apply State.setFld_kept)
    | (with_reducible apply State.condCount_kept)
    | (with_reducible apply State.condRec_kept)
    | (with_reducible apply State.setClockGuard_kept)
    | (with_reducible apply State.setRails_kept)
    | (with_reducible apply State.condHealth_kept)
    | (with_reducible exact kept_mk (kept_fold (by assumption)))
    | split

theorem State.guardFail_kept {cs : Keep} {s : State} (h : s.Kept cs) : ∀ u row, State.Kept cs (State.guardFail s u row) := by
  intros
  unfold State.guardFail
  repeat' first
    | (with_reducible assumption)
    | (extract_lets +onlyGivenNames x; refine kept_cut (cs := cs) x ?_ ?_; subst x; rotate_left; generalize x = y;
        clear x; intro _)
    | (extract_lets +onlyGivenNames x; generalize x = y; clear x)
    | (with_reducible refine ite_kept ?_ ?_)
    | (with_reducible apply State.condRec_kept)
    | (with_reducible apply State.setFld_kept)
    | (with_reducible apply State.partDemote_kept)
    | (with_reducible apply State.dropGuard_kept)
    | (with_reducible apply State.condClear_kept)
    | (with_reducible apply State.setHist_kept)
    | (with_reducible apply State.permanent_kept)

theorem State.countDet_kept {cs : Keep} {s : State} (h : s.Kept cs) : ∀ u row n ftime temp volt act, State.Kept cs
    (State.countDet s u row n ftime temp volt act) := by
  intros
  unfold State.countDet
  repeat' first
    | (with_reducible assumption)
    | (extract_lets +onlyGivenNames x; refine kept_cut (cs := cs) x ?_ ?_; subst x; rotate_left; generalize x = y;
        clear x; intro _)
    | (extract_lets +onlyGivenNames x; generalize x = y; clear x)
    | (with_reducible refine ite_kept ?_ ?_)
    | (with_reducible apply State.guardFail_kept)
    | (with_reducible apply State.condSet_kept)
    | (with_reducible apply State.permanent_kept)
    | (with_reducible exact kept_mk (kept_fold (by assumption)))
    | split

theorem State.readmit_kept {cs : Keep} {s : State} (h : s.Kept cs) : ∀ u, State.Kept cs (State.readmit s u) := by
  intros
  unfold State.readmit
  repeat' first
    | (with_reducible assumption)
    | (extract_lets +onlyGivenNames x; refine kept_cut (cs := cs) x ?_ ?_; subst x; rotate_left; generalize x = y;
        clear x; intro _)
    | (extract_lets +onlyGivenNames x; generalize x = y; clear x)
    | (with_reducible apply State.setHist_kept)
    | (with_reducible apply State.retireRec_kept)
    | (with_reducible apply State.dropGuard_kept)
    | (with_reducible apply State.condClear_kept)
    | (with_reducible exact kept_mk (kept_fold (by assumption)))

end Sys2Proof.Machine
end

