-- ==== Sys2Proof/Laws/KeptC.lean ====
section
/-! SUPPORT. What the operations of Machine/Recorder, Machine/Errors, Machine/Slots, Machine/Tables, Machine/Hinge keep (`State.Kept`): the queue, and the invariant. -/
namespace Sys2Proof.Machine

theorem State.nvm_kept {cs : Keep} {s : State} (h : s.Kept cs) : ∀ unit kind addr count, State.Kept cs (State.nvm s
    unit kind addr count) := by
  intros
  unfold State.nvm
  repeat' first
    | (with_reducible assumption)
    | (with_reducible apply State.detect_kept)

theorem State.remapLines_kept {cs : Keep} {s : State} (h : s.Kept cs) : ∀ lines, State.Kept cs (State.remapLines s
    lines) := by
  intros
  unfold State.remapLines
  repeat' first
    | (with_reducible assumption)
    | intro _
    | (extract_lets +onlyGivenNames x; generalize x = y; clear x)
    | (with_reducible refine ite_kept ?_ ?_)
    | (with_reducible apply State.moduleFatal_kept)
    | (with_reducible apply State.nvm_kept)
    | (with_reducible apply State.setFld_kept)
    | (with_reducible refine foldl_kept ?_ ?_)

theorem State.recPut_kept {cs : Keep} {s : State} (h : s.Kept cs) : ∀ r, State.Kept cs (State.recPut s r) := by
  intros
  unfold State.recPut
  repeat' first
    | (with_reducible assumption)
    | (extract_lets +onlyGivenNames x; refine kept_cut (cs := cs) x ?_ ?_; subst x; rotate_left; generalize x = y;
        clear x; intro _)
    | (extract_lets +onlyGivenNames x; generalize x = y; clear x)
    | (with_reducible refine ite_kept ?_ ?_)
    | (with_reducible apply State.setFld_kept)
    | (with_reducible exact kept_mk (kept_fold (by assumption)))

theorem State.logCompact_kept {cs : Keep} {s : State} (h : s.Kept cs) : State.Kept cs (State.logCompact s) := by
  unfold State.logCompact
  repeat' first
    | (extract_lets +onlyGivenNames x; generalize x = y; clear x)
    | (with_reducible apply State.gcount_kept)
    | (with_reducible apply State.setFld_kept)
    | (with_reducible exact kept_mk (kept_fold (by assumption)))

theorem State.logPut_kept {cs : Keep} {s : State} (h : s.Kept cs) : ∀ es, State.Kept cs (State.logPut s es) := by
  intros
  unfold State.logPut
  repeat' first
    | (with_reducible assumption)
    | (extract_lets +onlyGivenNames x; refine kept_cut (cs := cs) x ?_ ?_; subst x; rotate_left; generalize x = y;
        clear x; intro _)
    | (with_reducible refine ite_kept ?_ ?_)
    | (with_reducible apply State.logCompact_kept)
    | (with_reducible apply State.setFld_kept)
    | (with_reducible exact kept_mk (kept_fold (by assumption)))

theorem State.logFlush_kept {cs : Keep} {s : State} (h : s.Kept cs) : State.Kept cs (State.logFlush s) := by
  unfold State.logFlush
  repeat' first
    | (extract_lets +onlyGivenNames x; (have _ := fun a => x a); subst x; dsimp -zeta only)
    | (extract_lets +onlyGivenNames x; generalize x = y; clear x)
    | (with_reducible apply State.logPut_kept)
    | (with_reducible exact kept_mk (kept_fold (by assumption)))

theorem State.flushNow_kept {cs : Keep} {s : State} (h : s.Kept cs) : State.Kept cs (State.flushNow s) := by
  unfold State.flushNow
  repeat' first
    | (with_reducible assumption)
    | intro _
    | (extract_lets +onlyGivenNames x; refine kept_cut (cs := cs) x ?_ ?_; subst x; rotate_left; generalize x = y;
        clear x; intro _)
    | (with_reducible apply State.logFlush_kept)
    | (with_reducible apply State.gcount_kept)
    | (with_reducible apply State.recPut_kept)
    | (with_reducible apply State.setFld_kept)
    | (with_reducible refine foldl_kept ?_ ?_)
    | (with_reducible exact kept_mk (kept_fold (by assumption)))
    | split

theorem State.noteDrops_kept {cs : Keep} {s : State} (h : s.Kept cs) : State.Kept cs (State.noteDrops s) := by
  unfold State.noteDrops
  repeat' first
    | (with_reducible assumption)
    | (with_reducible refine ite_kept ?_ ?_)
    | (with_reducible apply State.nvm_kept)
    | (with_reducible exact kept_mk (kept_fold (by assumption)))

theorem execRecorderFlush_kept {cs : Keep} {s : State} (h : s.Kept cs) : ∀ bad, KeptO cs (execRecorderFlush bad s) := by
  intros
  unfold execRecorderFlush
  repeat' first
    | (with_reducible assumption)
    | (extract_lets +onlyGivenNames x; generalize x = y; clear x)
    | (with_reducible refine ite_keptO ?_ ?_)
    | (with_reducible refine kept_next ?_)
    | (with_reducible apply State.remapLines_kept)
    | (with_reducible apply State.flushNow_kept)
    | (with_reducible apply State.noteDrops_kept)

theorem State.closeRec_kept {cs : Keep} {s : State} (h : s.Kept cs) : ∀ type body, State.Kept cs (State.closeRec s
    type body) := by
  intros
  unfold State.closeRec
  repeat' first
    | (with_reducible assumption)
    | (extract_lets +onlyGivenNames x; refine kept_cut (cs := cs) x ?_ ?_; subst x; rotate_left; generalize x = y;
        clear x; intro _)
    | (with_reducible refine ite_kept ?_ ?_)
    | (with_reducible apply State.flushNow_kept)
    | (with_reducible apply State.pushRec_kept)
    | (with_reducible apply State.pushGap_kept)

theorem State.accAdd_kept {cs : Keep} {s : State} (h : s.Kept cs) : ∀ k n, State.Kept cs (State.accAdd s k n) := by
  intros
  unfold State.accAdd
  repeat' first
    | (with_reducible exact kept_mk (kept_fold (by assumption)))

theorem State.binAdd_kept {cs : Keep} {s : State} (h : s.Kept cs) : ∀ k, State.Kept cs (State.binAdd s k) := by
  intros
  unfold State.binAdd
  repeat' first
    | (with_reducible assumption)
    | (with_reducible apply State.accAdd_kept)

theorem State.extAdd_kept {cs : Keep} {s : State} (h : s.Kept cs) : ∀ lt k hi hiT lo loT, State.Kept cs
    (State.extAdd s lt k hi hiT lo loT) := by
  intros
  unfold State.extAdd
  repeat' first
    | (extract_lets +onlyGivenNames x; (have _ := fun a => x a); subst x; dsimp -zeta only)
    | (with_reducible exact kept_mk (kept_fold (by assumption)))

theorem State.minuteBins_kept {cs : Keep} {s : State} (h : s.Kept cs) : ∀ m, State.Kept cs (State.minuteBins s m) := by
  intros
  unfold State.minuteBins
  repeat' first
    | (with_reducible assumption)
    | intro _
    | (extract_lets +onlyGivenNames x; refine kept_cut (cs := cs) x ?_ ?_; subst x; rotate_left; generalize x = y;
        clear x; intro _)
    | (with_reducible refine ite_kept ?_ ?_)
    | (with_reducible apply State.extAdd_kept)
    | (with_reducible apply State.binAdd_kept)
    | (with_reducible apply State.accAdd_kept)
    | (with_reducible refine foldl_kept ?_ ?_)

theorem State.opRingWrite_kept {cs : Keep} {s : State} (h : s.Kept cs) : State.Kept cs (State.opRingWrite s) := by
  unfold State.opRingWrite
  repeat' first
    | (extract_lets +onlyGivenNames x; generalize x = y; clear x)
    | (with_reducible exact kept_mk (kept_fold (by assumption)))

theorem execOpminTick_kept {cs : Keep} {s : State} (h : s.Kept cs) : ∀ m, KeptO cs (execOpminTick m s) := by
  intros
  unfold execOpminTick
  repeat' first
    | (with_reducible assumption)
    | (with_reducible refine ite_keptO ?_ ?_)
    | (with_reducible refine kept_next ?_)
    | (with_reducible apply State.minuteBins_kept)
    | (with_reducible apply State.opRingWrite_kept)
    | (with_reducible apply State.setFld_kept)

theorem State.checkpoint_kept {cs : Keep} {s : State} (h : s.Kept cs) : State.Kept cs (State.checkpoint s) := by
  unfold State.checkpoint
  repeat' first
    | (with_reducible exact kept_mk (kept_fold (by assumption)))

theorem State.dayClear_kept {cs : Keep} {s : State} (h : s.Kept cs) : State.Kept cs (State.dayClear s) := by
  unfold State.dayClear
  repeat' first
    | (with_reducible exact kept_mk (kept_fold (by assumption)))

theorem State.dayClose_kept {cs : Keep} {s : State} (h : s.Kept cs) : State.Kept cs (State.dayClose s) := by
  unfold State.dayClose
  repeat' first
    | (with_reducible assumption)
    | intro _
    | (extract_lets +onlyGivenNames x; refine kept_cut (cs := cs) x ?_ ?_; subst x; rotate_left; generalize x = y;
        clear x; intro _)
    | (extract_lets +onlyGivenNames x; generalize x = y; clear x)
    | (with_reducible refine ite_kept ?_ ?_)
    | (with_reducible apply State.closeRec_kept)
    | (with_reducible apply State.logPut_kept)
    | (with_reducible apply State.dayClear_kept)
    | (with_reducible apply State.checkpoint_kept)
    | (with_reducible apply State.flushNow_kept)
    | (with_reducible apply State.setFld_kept)
    | (with_reducible refine foldl_kept ?_ ?_)
    | (with_reducible exact kept_mk (kept_fold (by assumption)))

theorem execDayClose_kept {cs : Keep} {s : State} (h : s.Kept cs) : KeptO cs (execDayClose s) := by
  unfold execDayClose
  repeat' first
    | (with_reducible assumption)
    | (with_reducible refine ite_keptO ?_ ?_)
    | (with_reducible refine kept_next ?_)
    | (with_reducible apply State.dayClose_kept)

theorem State.lifePut_kept {cs : Keep} {s : State} (h : s.Kept cs) : ∀ r, State.Kept cs (State.lifePut s r) := by
  intros
  unfold State.lifePut
  repeat' first
    | (extract_lets +onlyGivenNames x; generalize x = y; clear x)
    | (with_reducible apply State.setFld_kept)
    | (with_reducible exact kept_mk (kept_fold (State.formRec_kept (by assumption) _ _)))

theorem execMonthClose_kept {cs : Keep} {s : State} (h : s.Kept cs) : KeptO cs (execMonthClose s) := by
  unfold execMonthClose
  repeat' first
    | (with_reducible assumption)
    | intro _
    | (extract_lets +onlyGivenNames x; refine kept_cut (cs := cs) x ?_ ?_; subst x; rotate_left; generalize x = y;
        clear x; intro _)
    | (extract_lets +onlyGivenNames x; generalize x = y; clear x)
    | (with_reducible refine ite_kept ?_ ?_)
    | (with_reducible refine ite_keptO ?_ ?_)
    | (with_reducible refine kept_next ?_)
    | (with_reducible apply State.lifePut_kept)
    | (with_reducible apply State.nvm_kept)
    | (with_reducible apply State.setFld_kept)
    | (with_reducible apply State.closeRec_kept)
    | (with_reducible apply State.flushNow_kept)
    | (with_reducible refine foldl_kept ?_ ?_)
    | (with_reducible exact kept_mk (kept_fold (by assumption)))

theorem execAccumulatorCheckpoint_kept {cs : Keep} {s : State} (h : s.Kept cs) : KeptO cs (execAccumulatorCheckpoint s) := by
  unfold execAccumulatorCheckpoint
  repeat' first
    | (with_reducible assumption)
    | (with_reducible refine ite_keptO ?_ ?_)
    | (with_reducible refine kept_next ?_)
    | (with_reducible apply State.checkpoint_kept)

theorem State.copyNow_kept {cs : Keep} {s : State} (h : s.Kept cs) : State.Kept cs (State.copyNow s) := by
  unfold State.copyNow
  repeat' first
    | (extract_lets +onlyGivenNames x; generalize x = y; clear x)
    | (with_reducible apply State.setFld_kept)
    | (with_reducible exact kept_mk (kept_fold (by assumption)))

theorem execStateCopyWrite_kept {cs : Keep} {s : State} (h : s.Kept cs) : KeptO cs (execStateCopyWrite s) := by
  unfold execStateCopyWrite
  repeat' first
    | (with_reducible assumption)
    | (with_reducible refine ite_keptO ?_ ?_)
    | (with_reducible refine kept_next ?_)
    | (with_reducible apply State.copyNow_kept)

theorem State.ringPut_kept {cs : Keep} {s : State} (h : s.Kept cs) : ∀ w, State.Kept cs (State.ringPut s w) := by
  intros
  unfold State.ringPut
  repeat' first
    | (with_reducible assumption)
    | intro _
    | (extract_lets +onlyGivenNames x; refine kept_cut (cs := cs) x ?_ ?_; subst x; rotate_left; generalize x = y;
        clear x; intro _)
    | (extract_lets +onlyGivenNames x; generalize x = y; clear x)
    | (with_reducible refine ite_kept ?_ ?_)
    | (with_reducible apply State.setReg_kept)
    | (with_reducible apply State.gcount_kept)
    | (with_reducible apply State.setFld_kept)
    | (with_reducible refine forRange_kept ?_ ?_)

theorem State.tallyAdd_kept {cs : Keep} {s : State} (h : s.Kept cs) : ∀ r, State.Kept cs (State.tallyAdd s r) := by
  intros
  unfold State.tallyAdd
  repeat' first
    | (extract_lets +onlyGivenNames x; (have _ := fun a => x a); subst x; dsimp -zeta only)
    | (extract_lets +onlyGivenNames x; refine kept_cut (cs := cs) x ?_ ?_; subst x; rotate_left; generalize x = y;
        clear x; intro _)
    | (extract_lets +onlyGivenNames x; generalize x = y; clear x)
    | (with_reducible refine ite_kept ?_ ?_)
    | (with_reducible exact kept_mk (kept_fold (by assumption)))

theorem State.recAccumulate_kept {cs : Keep} {s : State} (h : s.Kept cs) : ∀ r, State.Kept cs (State.recAccumulate s r) := by
  intros
  unfold State.recAccumulate
  repeat' first
    | (with_reducible assumption)
    | intro _
    | (extract_lets +onlyGivenNames x; refine kept_cut (cs := cs) x ?_ ?_; subst x; rotate_left; generalize x = y;
        clear x; intro _)
    | (with_reducible refine ite_kept ?_ ?_)
    | (with_reducible apply State.accAdd_kept)
    | (with_reducible apply State.tallyAdd_kept)
    | (with_reducible refine foldl_kept ?_ ?_)

theorem State.countRow_kept {cs : Keep} {s : State} (h : s.Kept cs) : ∀ r u row n, State.Kept cs (State.countRow s r
    u row n) := by
  intros
  unfold State.countRow
  repeat' first
    | (with_reducible assumption)
    | (with_reducible apply State.countDet_kept)

theorem State.countKeeper_kept {cs : Keep} {s : State} (h : s.Kept cs) : ∀ r row, State.Kept cs (State.countKeeper s
    r row) := by
  intros
  unfold State.countKeeper
  repeat' first
    | (with_reducible assumption)
    | (extract_lets +onlyGivenNames x; refine kept_cut (cs := cs) x ?_ ?_; subst x; rotate_left; generalize x = y;
        clear x; intro _)
    | (with_reducible refine ite_kept ?_ ?_)
    | (with_reducible apply State.moduleFatal_kept)
    | (with_reducible exact kept_mk (kept_fold (by assumption)))

theorem State.countRec_kept {cs : Keep} {s : State} (h : s.Kept cs) : ∀ r, State.Kept cs (State.countRec s r) := by
  intros
  unfold State.countRec
  repeat' first
    | (with_reducible assumption)
    | (extract_lets +onlyGivenNames x; generalize x = y; clear x)
    | (with_reducible refine ite_kept ?_ ?_)
    | (with_reducible apply State.countRow_kept)
    | (with_reducible apply State.permanent_kept)
    | (with_reducible apply State.countKeeper_kept)
    | split

theorem State.writeRecord_kept {cs : Keep} {s : State} (h : s.Kept cs) : ∀ r, State.Kept cs (State.writeRecord s r) := by
  intros
  unfold State.writeRecord
  repeat' first
    | (with_reducible assumption)
    | (extract_lets +onlyGivenNames x; refine kept_cut (cs := cs) x ?_ ?_; subst x; rotate_left; generalize x = y;
        clear x; intro _)
    | (extract_lets +onlyGivenNames x; generalize x = y; clear x)
    | (with_reducible refine ite_kept ?_ ?_)
    | (with_reducible apply State.setFld_kept)
    | (with_reducible apply State.ringPut_kept)
    | (with_reducible apply State.sbAlert_kept)
    | (with_reducible apply State.trigger_kept)
    | (with_reducible apply State.recAccumulate_kept)
    | (with_reducible apply State.stageRec_kept)
    | (with_reducible apply State.countRec_kept)
    | (with_reducible exact kept_mk (kept_fold (by assumption)))
    | split

theorem State.takeDetections_kept {cs : Keep} (l : List ErrRec) {s : State} (h : s.Kept cs) :
    (s.takeDetections l).Kept cs := by
  induction l generalizing s with
  | nil => exact h
  | cons r t ih =>
    have h1 : State.Kept cs { s with detections := s.detections.drop 1 } := h
    unfold State.takeDetections
    split
    · exact ih (State.countRec_kept h1 _)
    · exact State.writeRecord_kept h1 _

theorem State.errRingHeadWrite_kept {cs : Keep} {s : State} (h : s.Kept cs) : ∀ v, State.Kept cs
    (State.errRingHeadWrite s v) := by
  intros
  unfold State.errRingHeadWrite
  repeat' first
    | (with_reducible assumption)
    | (with_reducible apply State.setFld_kept)

theorem execD2dRetry_kept {cs : Keep} {s : State} (h : s.Kept cs) : ∀ unit addr mask prod, KeptO cs (execD2dRetry
    unit addr mask prod s) := by
  intros
  unfold execD2dRetry
  repeat' first
    | (with_reducible assumption)
    | (with_reducible refine kept_next ?_)
    | (with_reducible apply State.detect_kept)

theorem execMigrationComplete_kept {cs : Keep} {s : State} (h : s.Kept cs) : ∀ p hbm ecc, KeptO cs
    (execMigrationComplete p hbm ecc s) := by
  intros
  unfold execMigrationComplete
  repeat' first
    | (with_reducible assumption)
    | intro _
    | (extract_lets +onlyGivenNames x; (have _ := fun a => x a); subst x; dsimp -zeta only)
    | (extract_lets +onlyGivenNames x; refine kept_cut (cs := cs) x ?_ ?_; subst x; rotate_left; generalize x = y;
        clear x; intro _)
    | (extract_lets +onlyGivenNames x; generalize x = y; clear x)
    | (with_reducible refine ite_keptO ?_ ?_)
    | (with_reducible refine kept_next ?_)
    | (with_reducible apply State.eccRead_kept)
    | (with_reducible apply State.setFld_kept)
    | (with_reducible apply State.event_kept)
    | (with_reducible apply State.setHist_kept)
    | (with_reducible refine foldl_kept ?_ ?_)
    | (with_reducible exact kept_mk (kept_fold (by assumption)))
    | split

theorem State.exposeScope_kept {cs : Keep} {s : State} (h : s.Kept cs) : ∀ sc, State.Kept cs (State.exposeScope s sc) := by
  intros
  unfold State.exposeScope
  repeat' first
    | (with_reducible assumption)
    | intro _
    | (extract_lets +onlyGivenNames x; generalize x = y; clear x)
    | (with_reducible refine ite_kept ?_ ?_)
    | (with_reducible refine foldl_kept ?_ ?_)
    | (with_reducible exact kept_mk (kept_fold (by assumption)))

theorem execExposureSample_kept {cs : Keep} {s : State} (h : s.Kept cs) : ∀ activity, KeptO cs (execExposureSample
    activity s) := by
  intros
  unfold execExposureSample
  repeat' first
    | (with_reducible assumption)
    | intro _
    | (extract_lets +onlyGivenNames x; refine kept_cut (cs := cs) x ?_ ?_; subst x; rotate_left; generalize x = y;
        clear x; intro _)
    | (with_reducible refine kept_next ?_)
    | (with_reducible apply State.exposeScope_kept)
    | (with_reducible refine forRange_kept ?_ ?_)
    | (with_reducible exact kept_mk (kept_fold (by assumption)))

theorem execScrubRead_kept {cs : Keep} {s : State} (h : s.Kept cs) : ∀ p hbm how, KeptO cs (execScrubRead p hbm how s) := by
  intros
  unfold execScrubRead
  repeat' first
    | (with_reducible assumption)
    | (extract_lets +onlyGivenNames x; refine kept_cut (cs := cs) x ?_ ?_; subst x; rotate_left; generalize x = y;
        clear x; intro _)
    | (extract_lets +onlyGivenNames x; generalize x = y; clear x)
    | (with_reducible refine ite_kept ?_ ?_)
    | (with_reducible refine ite_keptO ?_ ?_)
    | (with_reducible refine kept_next ?_)
    | (with_reducible apply State.eccRead_kept)
    | (with_reducible apply State.count_kept)
    | (with_reducible exact kept_mk (kept_fold (by assumption)))

theorem State.setSlot_kept {cs : Keep} {s : State} (h : s.Kept cs) : ∀ j p b st epoch g mask shape, State.Kept cs
    (State.setSlot s j p b st epoch g mask shape) := by
  intros
  unfold State.setSlot
  repeat' first
    | (with_reducible assumption)
    | (extract_lets +onlyGivenNames x; refine kept_cut (cs := cs) x ?_ ?_; subst x; rotate_left; generalize x = y;
        clear x; intro _)
    | (with_reducible apply State.setFld_kept)
    | (with_reducible apply State.wrDatum_kept)
    | split

theorem State.moveSlot_kept {cs : Keep} {s : State} (h : s.Kept cs) : ∀ j p b st, State.Kept cs (State.moveSlot s j
    p b st) := by
  intros
  unfold State.moveSlot
  repeat' first
    | (with_reducible assumption)
    | (extract_lets +onlyGivenNames x; generalize x = y; clear x)
    | (with_reducible apply State.setSlot_kept)
    | split

theorem State.sendCont_kept {cs : Keep} {s : State} (h : s.Kept cs) : ∀ j r dst tag lsid off l, State.Kept cs
    (State.sendCont s j r dst tag lsid off l) := by
  intros
  unfold State.sendCont
  repeat' first
    | (with_reducible assumption)
    | (extract_lets +onlyGivenNames x; generalize x = y; clear x)
    | (with_reducible apply State.sendPkt_kept)
    | (with_reducible apply State.setFld_kept)

theorem State.sendContUnits_kept {cs : Keep} {s : State} (h : s.Kept cs) : ∀ j r dst tag lsid p off l, State.Kept cs
    (State.sendContUnits s j r dst tag lsid p off l) := by
  intros
  unfold State.sendContUnits
  repeat' first
    | (with_reducible assumption)
    | intro _
    | (with_reducible apply State.sendCont_kept)
    | (with_reducible refine forRange_kept ?_ ?_)

theorem State.sendChunk_kept {cs : Keep} {s : State} (h : s.Kept cs) : ∀ j r dst p stripe hdr l, State.Kept cs
    (State.sendChunk s j r dst p stripe hdr l) := by
  intros
  unfold State.sendChunk
  repeat' first
    | (with_reducible assumption)
    | (extract_lets +onlyGivenNames x; generalize x = y; clear x)
    | (with_reducible apply State.sendContUnits_kept)

theorem State.storeChunk_kept {cs : Keep} {s : State} (h : s.Kept cs) : ∀ p b stripe hdr l, State.Kept cs
    (State.storeChunk s p b stripe hdr l) := by
  intros
  unfold State.storeChunk
  repeat' first
    | (with_reducible assumption)
    | intro _
    | (extract_lets +onlyGivenNames x; refine kept_cut (cs := cs) x ?_ ?_; subst x; rotate_left; generalize x = y;
        clear x; intro _)
    | (extract_lets +onlyGivenNames x; generalize x = y; clear x)
    | (with_reducible apply State.wrDatum_kept)
    | (with_reducible refine foldl_kept ?_ ?_)

theorem State.phase1Shard_kept {cs : Keep} {s : State} (h : s.Kept cs) : ∀ j r grp p e, State.Kept cs
    (State.phase1Shard s j r grp p e) := by
  intros
  unfold State.phase1Shard
  repeat' first
    | (with_reducible assumption)
    | intro _
    | (extract_lets +onlyGivenNames x; refine kept_cut (cs := cs) x ?_ ?_; subst x; rotate_left; generalize x = y;
        clear x; intro _)
    | (extract_lets +onlyGivenNames x; generalize x = y; clear x)
    | (with_reducible refine ite_kept ?_ ?_)
    | (with_reducible apply State.updRun_kept)
    | (with_reducible apply State.setFld_kept)
    | (with_reducible apply State.storeChunk_kept)
    | (with_reducible apply State.sendChunk_kept)
    | (with_reducible refine forRange_kept ?_ ?_)

theorem State.setChunk_kept {cs : Keep} {s : State} (h : s.Kept cs) : ∀ j p stripe f, State.Kept cs (State.setChunk
    s j p stripe f) := by
  intros
  unfold State.setChunk
  repeat' first
    | (with_reducible assumption)
    | (with_reducible apply State.updRun_kept)

theorem State.askChunk_kept {cs : Keep} {s : State} (h : s.Kept cs) : ∀ j p stripe, State.Kept cs (State.askChunk s
    j p stripe) := by
  intros
  unfold State.askChunk
  repeat' first
    | (with_reducible assumption)
    | (extract_lets +onlyGivenNames x; refine kept_cut (cs := cs) x ?_ ?_; subst x; rotate_left; generalize x = y;
        clear x; intro _)
    | (extract_lets +onlyGivenNames x; generalize x = y; clear x)
    | (with_reducible refine ite_kept ?_ ?_)
    | (with_reducible apply State.updRun_kept)
    | (with_reducible apply State.setFld_kept)
    | (with_reducible apply State.setChunk_kept)
    | (with_reducible apply State.sendCtl_kept)
    | split

theorem State.landChunk_kept {cs : Keep} {s : State} (h : s.Kept cs) : ∀ j off l, State.Kept cs (State.landChunk s j
    off l) := by
  intros
  unfold State.landChunk
  repeat' first
    | (with_reducible assumption)
    | intro _
    | (extract_lets +onlyGivenNames x; refine kept_cut (cs := cs) x ?_ ?_; subst x; rotate_left; generalize x = y;
        clear x; intro _)
    | (extract_lets +onlyGivenNames x; generalize x = y; clear x)
    | (with_reducible refine ite_kept ?_ ?_)
    | (with_reducible apply State.wrDatum_kept)
    | (with_reducible apply State.setChunk_kept)
    | (with_reducible apply State.askChunk_kept)
    | (with_reducible refine foldl_kept ?_ ?_)
    | split

theorem State.landEarly_kept {cs : Keep} {s : State} (h : s.Kept cs) : ∀ j, State.Kept cs (State.landEarly s j) := by
  intros
  unfold State.landEarly
  repeat' first
    | (with_reducible assumption)
    | intro _
    | (with_reducible apply State.landChunk_kept)
    | (with_reducible apply State.updRun_kept)
    | (with_reducible refine foldl_kept ?_ ?_)
    | split

theorem State.chunkPacket_kept {cs : Keep} {s : State} (h : s.Kept cs) : ∀ j off l, State.Kept cs (State.chunkPacket
    s j off l) := by
  intros
  unfold State.chunkPacket
  repeat' first
    | (with_reducible assumption)
    | (with_reducible refine ite_kept ?_ ?_)
    | (with_reducible apply State.landChunk_kept)
    | (with_reducible apply State.updRun_kept)
    | split

theorem State.beginSet_kept {cs : Keep} {s : State} (h : s.Kept cs) : ∀ j, State.Kept cs (State.beginSet s j) := by
  intros
  unfold State.beginSet
  repeat' first
    | (with_reducible assumption)
    | intro _
    | (extract_lets +onlyGivenNames x; refine kept_cut (cs := cs) x ?_ ?_; subst x; rotate_left; generalize x = y;
        clear x; intro _)
    | (extract_lets +onlyGivenNames x; generalize x = y; clear x)
    | (with_reducible refine ite_kept ?_ ?_)
    | (with_reducible apply State.updRun_kept)
    | (with_reducible apply State.gcount_kept)
    | (with_reducible apply State.setFld_kept)
    | (with_reducible apply State.setSlot_kept)
    | (with_reducible apply State.phase1Shard_kept)
    | (with_reducible apply State.landEarly_kept)
    | (with_reducible refine foldl_kept ?_ ?_)
    | split

theorem State.closeSlots_kept {cs : Keep} {s : State} (h : s.Kept cs) : ∀ j st from_, State.Kept cs
    (State.closeSlots s j st from_) := by
  intros
  unfold State.closeSlots
  repeat' first
    | (with_reducible assumption)
    | intro _
    | (with_reducible refine ite_kept ?_ ?_)
    | (with_reducible apply State.moveSlot_kept)
    | (with_reducible refine foldl_kept ?_ ?_)

theorem State.abandonSet_kept {cs : Keep} {s : State} (h : s.Kept cs) : ∀ j, State.Kept cs (State.abandonSet s j) := by
  intros
  unfold State.abandonSet
  repeat' first
    | (with_reducible assumption)
    | (with_reducible refine ite_kept ?_ ?_)
    | (with_reducible apply State.updRun_kept)
    | (with_reducible apply State.setFld_kept)
    | split

theorem State.logTrim_kept {cs : Keep} (p e n : Nat) {s : State} (h : s.Kept cs) : (s.logTrim p e n).Kept cs := by
  induction n generalizing s with
  | zero => exact h
  | succ n ih =>
    unfold State.logTrim
    split
    · exact h
    · dsimp only
      split
      · exact h
      · exact ih (State.setFld_kept h _ _)

theorem State.trimLog_kept {cs : Keep} {s : State} (h : s.Kept cs) : ∀ p e, State.Kept cs (State.trimLog s p e) := by
  intros
  unfold State.trimLog
  repeat' first
    | (with_reducible assumption)
    | (extract_lets +onlyGivenNames x; refine kept_cut (cs := cs) x ?_ ?_; subst x; rotate_left; generalize x = y;
        clear x; intro _)
    | (extract_lets +onlyGivenNames x; generalize x = y; clear x)
    | (with_reducible refine ite_kept ?_ ?_)
    | (with_reducible apply State.logTrim_kept)
    | (with_reducible apply State.setFld_kept)
    | (with_reducible apply State.logShow_kept)
    | (with_reducible exact kept_mk (kept_fold (by assumption)))

theorem State.flipSlots_kept {cs : Keep} {s : State} (h : s.Kept cs) : ∀ j, State.Kept cs (State.flipSlots s j) := by
  intros
  unfold State.flipSlots
  repeat' first
    | (with_reducible assumption)
    | intro _
    | (extract_lets +onlyGivenNames x; refine kept_cut (cs := cs) x ?_ ?_; subst x; rotate_left; generalize x = y;
        clear x; intro _)
    | (extract_lets +onlyGivenNames x; generalize x = y; clear x)
    | (with_reducible refine ite_kept ?_ ?_)
    | (with_reducible apply State.moveSlot_kept)
    | (with_reducible apply State.trimLog_kept)
    | (with_reducible refine foldl_kept ?_ ?_)

theorem State.maskReg_kept {cs : Keep} {s : State} (h : s.Kept cs) : ∀ a v, State.Kept cs (State.maskReg s a v) := by
  intros
  unfold State.maskReg
  repeat' first
    | (with_reducible assumption)
    | (with_reducible apply State.setReg_kept)
    | split

theorem State.swapBank_kept {cs : Keep} {s : State} (h : s.Kept cs) (b n : Nat) : (s.swapBank b n).Kept cs :=
  kept_of h rfl fun i => ⟨i.mem, i.poison, storeRising_swap _ _ i.regs, i.ftime, i.cnt, i.vx, i.vxPsn⟩

theorem State.copyBank_kept {cs : Keep} {s : State} (h : s.Kept cs) (b n : Nat) : (s.copyBank b n).Kept cs :=
  kept_of h rfl fun i => ⟨i.mem, i.poison, storeRising_copy _ _ _ i.regs, i.ftime, i.cnt, i.vx, i.vxPsn⟩

theorem storeCopy_kept {cs : Keep} {s : State} (h : s.Kept cs) (a b n : Nat) :
    State.Kept cs { s with regs := storeCopy s.regs a b n } :=
  kept_of h rfl fun i => ⟨i.mem, i.poison, storeRising_copy _ _ _ i.regs, i.ftime, i.cnt, i.vx, i.vxPsn⟩

theorem State.movePlane_kept {cs : Keep} {s : State} (h : s.Kept cs) : ∀ f k, State.Kept cs (State.movePlane s f k) := by
  intros
  unfold State.movePlane
  repeat' first
    | (with_reducible assumption)
    | (extract_lets +onlyGivenNames x; refine kept_cut (cs := cs) x ?_ ?_; subst x; rotate_left; generalize x = y;
        clear x; intro _)
    | (with_reducible refine ite_kept ?_ ?_)
    | (with_reducible apply State.setFld_kept)
    | (with_reducible exact kept_mk (kept_fold (by assumption)))

theorem State.assignPlanes_kept {cs : Keep} {s : State} (h : s.Kept cs) : ∀ j, State.Kept cs (State.assignPlanes s j) := by
  intros
  unfold State.assignPlanes
  repeat' first
    | (with_reducible assumption)
    | intro _
    | (extract_lets +onlyGivenNames x; generalize x = y; clear x)
    | (with_reducible apply State.movePlane_kept)
    | (with_reducible refine foldl_kept1 ?_ ?_)

theorem State.countFlows_kept {cs : Keep} {s : State} (h : s.Kept cs) : ∀ j, State.Kept cs (State.countFlows s j) := by
  intros
  unfold State.countFlows
  repeat' first
    | (with_reducible assumption)
    | (with_reducible apply State.setFld_kept)

theorem State.writeFlow_kept {cs : Keep} {s : State} (h : s.Kept cs) : ∀ n ws, State.Kept cs (State.writeFlow s n ws) := by
  intros
  unfold State.writeFlow
  repeat' first
    | (with_reducible assumption)
    | intro _
    | (with_reducible apply State.setReg_kept)
    | (with_reducible refine forRange_kept ?_ ?_)

theorem State.swapTables_kept {cs : Keep} {s : State} (h : s.Kept cs) : ∀ j flows, State.Kept cs (State.swapTables s
    j flows) := by
  intros
  unfold State.swapTables
  repeat' first
    | (with_reducible assumption)
    | intro _
    | (extract_lets +onlyGivenNames x; refine kept_cut (cs := cs) x ?_ ?_; subst x; rotate_left; generalize x = y;
        clear x; intro _)
    | (extract_lets +onlyGivenNames x; generalize x = y; clear x)
    | (with_reducible refine ite_kept ?_ ?_)
    | (with_reducible refine storeCopy_kept ?_ _ _ _)
    | (with_reducible apply State.swapBank_kept)
    | (with_reducible apply State.setReg_kept)
    | (with_reducible apply State.updRun_kept)
    | (with_reducible apply State.setFld_kept)
    | (with_reducible apply State.writeFlow_kept)
    | (with_reducible apply State.countFlows_kept)
    | (with_reducible apply State.assignPlanes_kept)
    | (with_reducible refine foldl_kept ?_ ?_)
    | (with_reducible exact kept_mk (kept_fold (by assumption)))

theorem State.rejectSwap_kept {cs : Keep} {s : State} (h : s.Kept cs) : ∀ j, State.Kept cs (State.rejectSwap s j) := by
  intros
  unfold State.rejectSwap
  repeat' first
    | (with_reducible assumption)
    | (extract_lets +onlyGivenNames x; refine kept_cut (cs := cs) x ?_ ?_; subst x; rotate_left; generalize x = y;
        clear x; intro _)
    | (extract_lets +onlyGivenNames x; generalize x = y; clear x)
    | (with_reducible refine ite_kept ?_ ?_)
    | (with_reducible apply State.setFld_kept)
    | (with_reducible apply State.event_kept)

theorem State.tableShadowWrite_kept {cs : Keep} {s : State} (h : s.Kept cs) : ∀ a v, State.Kept cs
    (State.tableShadowWrite s a v) := by
  intros
  unfold State.tableShadowWrite
  repeat' first
    | (with_reducible assumption)
    | (with_reducible refine ite_kept ?_ ?_)
    | (with_reducible apply State.setFld_kept)
    | (with_reducible apply State.maskReg_kept)

theorem State.tableSwapArm_kept {cs : Keep} {s : State} (h : s.Kept cs) : ∀ v, State.Kept cs (State.tableSwapArm s v) := by
  intros
  unfold State.tableSwapArm
  repeat' first
    | (with_reducible assumption)
    | (with_reducible apply State.maskReg_kept)

theorem State.copyTables_kept {cs : Keep} {s : State} (h : s.Kept cs) : State.Kept cs (State.copyTables s) := by
  unfold State.copyTables
  repeat' first
    | (with_reducible assumption)
    | intro _
    | (extract_lets +onlyGivenNames x; refine kept_cut (cs := cs) x ?_ ?_; subst x; rotate_left; generalize x = y;
        clear x; intro _)
    | (extract_lets +onlyGivenNames x; generalize x = y; clear x)
    | (with_reducible refine ite_kept ?_ ?_)
    | (with_reducible apply State.copyBank_kept)
    | (with_reducible apply State.setFld_kept)
    | (with_reducible refine foldl_kept ?_ ?_)
    | (with_reducible exact kept_mk (kept_fold (by assumption)))

theorem execTableCopyComplete_kept {cs : Keep} {s : State} (h : s.Kept cs) : KeptO cs (execTableCopyComplete s) := by
  unfold execTableCopyComplete
  repeat' first
    | (with_reducible assumption)
    | (with_reducible refine kept_next ?_)
    | (with_reducible apply State.copyTables_kept)

theorem State.sendDown_kept {cs : Keep} {s : State} (h : s.Kept cs) : ∀ j m, State.Kept cs (State.sendDown s j m) := by
  intros
  unfold State.sendDown
  repeat' first
    | (with_reducible assumption)
    | intro _
    | (with_reducible apply State.sendCtl_kept)
    | (with_reducible refine foldl_kept ?_ ?_)

theorem State.hingeTrace_kept {cs : Keep} {s : State} (h : s.Kept cs) : ∀ j ev step t, State.Kept cs
    (State.hingeTrace s j ev step t) := by
  intros
  unfold State.hingeTrace
  repeat' first
    | (with_reducible assumption)
    | intro _
    | (with_reducible apply State.trace_kept)
    | (with_reducible refine foldl_kept ?_ ?_)

theorem State.setPhase_kept {cs : Keep} {s : State} (h : s.Kept cs) : ∀ j v, State.Kept cs (State.setPhase s j v) := by
  intros
  unfold State.setPhase
  repeat' first
    | (with_reducible assumption)
    | intro _
    | (with_reducible apply State.setFld_kept)
    | (with_reducible refine foldl_kept ?_ ?_)

theorem State.clearShard_kept {cs : Keep} {s : State} (h : s.Kept cs) : ∀ p e, State.Kept cs (State.clearShard s p e) := by
  intros
  unfold State.clearShard
  repeat' first
    | (with_reducible exact kept_mk (kept_fold (by assumption)))

theorem State.replayStart_kept {cs : Keep} {s : State} (h : s.Kept cs) : ∀ p e, State.Kept cs (State.replayStart s p e) := by
  intros
  unfold State.replayStart
  repeat' first
    | (with_reducible assumption)
    | intro _
    | (extract_lets +onlyGivenNames x; refine kept_cut (cs := cs) x ?_ ?_; subst x; rotate_left; generalize x = y;
        clear x; intro _)
    | (extract_lets +onlyGivenNames x; generalize x = y; clear x)
    | (with_reducible refine ite_kept ?_ ?_)
    | (with_reducible apply State.snapWin_kept)
    | (with_reducible apply State.bumpEta_kept)
    | (with_reducible apply State.detect_kept)
    | (with_reducible apply State.flagN_kept)
    | (with_reducible apply State.meetRollback_kept)
    | (with_reducible apply State.sendCtl_kept)
    | (with_reducible refine foldl_kept ?_ ?_)
    | (with_reducible exact kept_mk (kept_fold (by assumption)))
    | split

theorem State.stepEnd_kept {cs : Keep} {s : State} (h : s.Kept cs) : ∀ c, State.Kept cs (State.stepEnd s c) := by
  intros
  unfold State.stepEnd
  repeat' first
    | (with_reducible assumption)
    | (extract_lets +onlyGivenNames x; refine kept_cut (cs := cs) x ?_ ?_; subst x; rotate_left; generalize x = y;
        clear x; intro _)
    | (extract_lets +onlyGivenNames x; generalize x = y; clear x)
    | (with_reducible refine ite_kept ?_ ?_)
    | (with_reducible apply State.applySig_kept)
    | (with_reducible apply State.snapWin_kept)
    | (with_reducible apply State.count_kept)
    | (with_reducible apply State.replayStart_kept)
    | (with_reducible apply State.clearShard_kept)
    | (with_reducible apply State.setFld_kept)

theorem State.cutBelow_kept {cs : Keep} {s : State} (h : s.Kept cs) : ∀ j, State.Kept cs (State.cutBelow s j) := by
  intros
  unfold State.cutBelow
  repeat' first
    | (with_reducible assumption)
    | (extract_lets +onlyGivenNames x; refine kept_cut (cs := cs) x ?_ ?_; subst x; rotate_left; generalize x = y;
        clear x; intro _)
    | (with_reducible apply State.gcount_kept)
    | (with_reducible apply State.setFld_kept)
    | (with_reducible apply State.event_kept)

theorem State.item5_kept {cs : Keep} {s : State} (h : s.Kept cs) : ∀ j r, State.Kept cs (State.item5 s j r) := by
  intros
  unfold State.item5
  repeat' first
    | (with_reducible assumption)
    | intro _
    | (extract_lets +onlyGivenNames x; refine kept_cut (cs := cs) x ?_ ?_; subst x; rotate_left; generalize x = y;
        clear x; intro _)
    | (extract_lets +onlyGivenNames x; generalize x = y; clear x)
    | (with_reducible refine ite_kept ?_ ?_)
    | (with_reducible apply State.setFld_kept)
    | (with_reducible apply State.setReg_kept)
    | (with_reducible apply State.cutBelow_kept)
    | (with_reducible apply State.trimLog_kept)
    | (with_reducible refine foldl_kept ?_ ?_)
    | (with_reducible refine forRange_kept ?_ ?_)
    | (with_reducible exact kept_mk (kept_fold (by assumption)))

theorem State.item6_kept {cs : Keep} {s : State} (h : s.Kept cs) : ∀ j dynJ, State.Kept cs (State.item6 s j dynJ) := by
  intros
  unfold State.item6
  repeat' first
    | (with_reducible assumption)
    | (extract_lets +onlyGivenNames x; refine kept_cut (cs := cs) x ?_ ?_; subst x; rotate_left; generalize x = y;
        clear x; intro _)
    | (extract_lets +onlyGivenNames x; generalize x = y; clear x)
    | (with_reducible refine ite_kept ?_ ?_)
    | (with_reducible apply State.powerRec_kept)
    | (with_reducible apply State.setFld_kept)
    | (with_reducible apply State.setRails_kept)
    | (with_reducible refine kept_mk (kept_fold ?_); first | with_reducible apply State.powerRec_kept | with_reducible apply State.setFld_kept | with_reducible apply State.setRails_kept)

theorem State.applyScalars_kept {cs : Keep} {s : State} (h : s.Kept cs) : ∀ p, State.Kept cs (State.applyScalars s p) := by
  intros
  unfold State.applyScalars
  repeat' first
    | (with_reducible assumption)
    | intro _
    | (extract_lets +onlyGivenNames x; refine kept_cut (cs := cs) x ?_ ?_; subst x; rotate_left; generalize x = y;
        clear x; intro _)
    | (extract_lets +onlyGivenNames x; generalize x = y; clear x)
    | (with_reducible refine ite_kept ?_ ?_)
    | (with_reducible apply State.setReg_kept)
    | (with_reducible apply State.setFld_kept)
    | (with_reducible refine forRange_kept ?_ ?_)

theorem State.item7_kept {cs : Keep} {s : State} (h : s.Kept cs) : ∀ j step, State.Kept cs (State.item7 s j step) := by
  intros
  unfold State.item7
  repeat' first
    | (with_reducible assumption)
    | intro _
    | (with_reducible apply State.applyScalars_kept)
    | (with_reducible apply State.latchItem7_kept)
    | (with_reducible refine foldl_kept ?_ ?_)

theorem State.slipCapture_kept {cs : Keep} {s : State} (h : s.Kept cs) : ∀ p, State.Kept cs (State.slipCapture s p) := by
  intros
  unfold State.slipCapture
  repeat' first
    | (with_reducible assumption)
    | (extract_lets +onlyGivenNames x; refine kept_cut (cs := cs) x ?_ ?_; subst x; rotate_left; generalize x = y;
        clear x; intro _)
    | (extract_lets +onlyGivenNames x; generalize x = y; clear x)
    | (with_reducible apply State.setFld_kept)
    | (with_reducible exact kept_mk (kept_fold (by assumption)))

theorem State.endStep_kept {cs : Keep} {s : State} (h : s.Kept cs) : ∀ p, State.Kept cs (State.endStep s p) := by
  intros
  unfold State.endStep
  repeat' first
    | (with_reducible assumption)
    | intro _
    | (extract_lets +onlyGivenNames x; refine kept_cut (cs := cs) x ?_ ?_; subst x; rotate_left; generalize x = y;
        clear x; intro _)
    | (with_reducible refine ite_kept ?_ ?_)
    | (with_reducible apply State.slipCapture_kept)
    | (with_reducible apply State.clearShard_kept)
    | (with_reducible refine forRange_kept ?_ ?_)
    | (with_reducible exact kept_mk (kept_fold (by assumption)))

theorem State.computeN_kept {cs : Keep} {s : State} (h : s.Kept cs) : ∀ j, State.Kept cs (State.computeN s j) := by
  intros
  unfold State.computeN
  repeat' first
    | (with_reducible assumption)
    | (extract_lets +onlyGivenNames x; generalize x = y; clear x)
    | (with_reducible apply State.setFld_kept)

theorem State.countFailure_kept {cs : Keep} {s : State} (h : s.Kept cs) : ∀ j at_, State.Kept cs (State.countFailure
    s j at_) := by
  intros
  unfold State.countFailure
  repeat' first
    | (with_reducible assumption)
    | (extract_lets +onlyGivenNames x; refine kept_cut (cs := cs) x ?_ ?_; subst x; rotate_left; generalize x = y;
        clear x; intro _)
    | (extract_lets +onlyGivenNames x; generalize x = y; clear x)
    | (with_reducible apply State.setFld_kept)
    | (with_reducible apply State.computeN_kept)
    | (with_reducible apply State.updRun_kept)
    | split

theorem State.measure_kept {cs : Keep} {s : State} (h : s.Kept cs) : ∀ j t r, State.Kept cs (State.measure s j t r) := by
  intros
  unfold State.measure
  repeat' first
    | (with_reducible assumption)
    | (extract_lets +onlyGivenNames x; refine kept_cut (cs := cs) x ?_ ?_; subst x; rotate_left; generalize x = y;
        clear x; intro _)
    | (extract_lets +onlyGivenNames x; generalize x = y; clear x)
    | (with_reducible refine ite_kept ?_ ?_)
    | (with_reducible apply State.setFld_kept)
    | (with_reducible apply State.computeN_kept)
    | (with_reducible apply State.updRun_kept)

theorem State.showDuty_kept {cs : Keep} {s : State} (h : s.Kept cs) : State.Kept cs (State.showDuty s) := by
  unfold State.showDuty
  repeat' first
    | (with_reducible assumption)
    | (extract_lets +onlyGivenNames x; (have _ := fun a => x a); subst x; dsimp -zeta only)
    | (with_reducible refine ite_kept ?_ ?_)
    | (with_reducible apply State.event_kept)
    | (with_reducible apply State.setFld_kept)

theorem State.startStep_kept {cs : Keep} {s : State} (h : s.Kept cs) : ∀ j r, State.Kept cs (State.startStep s j r) := by
  intros
  unfold State.startStep
  repeat' first
    | (with_reducible assumption)
    | intro _
    | (extract_lets +onlyGivenNames x; refine kept_cut (cs := cs) x ?_ ?_; subst x; rotate_left; generalize x = y;
        clear x; intro _)
    | (extract_lets +onlyGivenNames x; generalize x = y; clear x)
    | (with_reducible refine ite_kept ?_ ?_)
    | (with_reducible apply State.item7_kept)
    | (with_reducible apply State.setFld_kept)
    | (with_reducible apply State.hingeTrace_kept)
    | (with_reducible apply State.setPhase_kept)
    | (with_reducible apply State.updRun_kept)
    | (with_reducible refine foldl_kept ?_ ?_)
    | (with_reducible exact kept_mk (kept_fold (by assumption)))

theorem State.item8_kept {cs : Keep} {s : State} (h : s.Kept cs) : ∀ j k recov, State.Kept cs (State.item8 s j k recov) := by
  intros
  unfold State.item8
  repeat' first
    | (with_reducible assumption)
    | intro _
    | (with_reducible apply State.setFld_kept)
    | (with_reducible refine foldl_kept ?_ ?_)

theorem State.recoveryDone_kept {cs : Keep} {s : State} (h : s.Kept cs) : ∀ j, State.Kept cs (State.recoveryDone s j) := by
  intros
  unfold State.recoveryDone
  repeat' first
    | (with_reducible assumption)
    | (extract_lets +onlyGivenNames x; refine kept_cut (cs := cs) x ?_ ?_; subst x; rotate_left; generalize x = y;
        clear x; intro _)
    | (with_reducible refine ite_kept ?_ ?_)
    | (with_reducible apply State.clearRegs_kept)
    | (with_reducible apply State.setFld_kept)
    | (with_reducible apply State.endOps_kept)
    | (with_reducible apply State.updRun_kept)
    | (with_reducible exact kept_mk (kept_fold (by assumption)))

theorem State.startFrom_kept {cs : Keep} {s : State} (h : s.Kept cs) : ∀ j t, State.Kept cs (State.startFrom s j t) := by
  intros
  unfold State.startFrom
  repeat' first
    | (with_reducible assumption)
    | (with_reducible refine ite_kept ?_ ?_)
    | (with_reducible apply State.startStep_kept)
    | split

theorem State.applyRelease_kept {cs : Keep} {s : State} (h : s.Kept cs) : ∀ j t commit next r, State.Kept cs
    (State.applyRelease s j t commit next r) := by
  intros
  unfold State.applyRelease
  repeat' first
    | (with_reducible assumption)
    | intro _
    | (extract_lets +onlyGivenNames x; refine kept_cut (cs := cs) x ?_ ?_; subst x; rotate_left; generalize x = y;
        clear x; intro _)
    | (extract_lets +onlyGivenNames x; generalize x = y; clear x)
    | (with_reducible refine ite_kept ?_ ?_)
    | (with_reducible apply State.hingeTrace_kept)
    | (with_reducible apply State.gcount_kept)
    | (with_reducible apply State.setFld_kept)
    | (with_reducible apply State.closeSlots_kept)
    | (with_reducible apply State.setReg64_kept)
    | (with_reducible apply State.item8_kept)
    | (with_reducible apply State.recoveryDone_kept)
    | (with_reducible apply State.showDuty_kept)
    | (with_reducible apply State.startFrom_kept)
    | (with_reducible apply State.updRun_kept)
    | (with_reducible apply State.setPhase_kept)
    | (with_reducible refine foldl_kept ?_ ?_)
    | (with_reducible exact kept_mk (kept_fold (by assumption)))

theorem State.rootRelease_kept {cs : Keep} {s : State} (h : s.Kept cs) : ∀ j r n, State.Kept cs (State.rootRelease s
    j r n) := by
  intros
  unfold State.rootRelease
  repeat' first
    | (with_reducible assumption)
    | intro _
    | (extract_lets +onlyGivenNames x; refine kept_cut (cs := cs) x ?_ ?_; subst x; rotate_left; generalize x = y;
        clear x; intro _)
    | (extract_lets +onlyGivenNames x; generalize x = y; clear x)
    | (with_reducible refine ite_kept ?_ ?_)
    | (with_reducible apply State.setFld_kept)
    | (with_reducible apply State.sendDown_kept)
    | (with_reducible apply State.measure_kept)
    | (with_reducible apply State.countFailure_kept)
    | (with_reducible apply State.applyRelease_kept)
    | (with_reducible refine forRange_kept ?_ ?_)
    | split

theorem State.trySendReady_kept {cs : Keep} {s : State} (h : s.Kept cs) : ∀ j, State.Kept cs (State.trySendReady s j) := by
  intros
  unfold State.trySendReady
  repeat' first
    | (with_reducible assumption)
    | (extract_lets +onlyGivenNames x; refine kept_cut (cs := cs) x ?_ ?_; subst x; rotate_left; generalize x = y;
        clear x; intro _)
    | (extract_lets +onlyGivenNames x; generalize x = y; clear x)
    | (with_reducible refine ite_kept ?_ ?_)
    | (with_reducible apply State.setFld_kept)
    | (with_reducible apply State.updRun_kept)
    | (with_reducible apply State.setPhase_kept)
    | (with_reducible apply State.sendCtl_kept)
    | (with_reducible apply State.rootRelease_kept)
    | split

theorem State.takeEarly_kept {cs : Keep} {s : State} (h : s.Kept cs) : ∀ j, State.Kept cs (State.takeEarly s j) := by
  intros
  unfold State.takeEarly
  repeat' first
    | (with_reducible assumption)
    | (extract_lets +onlyGivenNames x; (have _ := fun a => x a); subst x; dsimp -zeta only)
    | (extract_lets +onlyGivenNames x; generalize x = y; clear x)
    | (with_reducible apply State.updRun_kept)
    | (with_reducible exact kept_mk (kept_fold (by assumption)))
    | split

theorem State.items34_kept {cs : Keep} {s : State} (h : s.Kept cs) : ∀ j r, State.Kept cs (State.items34 s j r) := by
  intros
  unfold State.items34
  repeat' first
    | (with_reducible assumption)
    | (extract_lets +onlyGivenNames x; refine kept_cut (cs := cs) x ?_ ?_; subst x; rotate_left; generalize x = y;
        clear x; intro _)
    | (with_reducible refine ite_kept ?_ ?_)
    | (with_reducible apply State.setFld_kept)
    | (with_reducible apply State.updRun_kept)
    | (with_reducible apply State.swapTables_kept)
    | (with_reducible apply State.endOps_kept)
    | (with_reducible apply State.rejectSwap_kept)
    | split

theorem State.raiseGen_kept {cs : Keep} {s : State} (h : s.Kept cs) : ∀ j r, State.Kept cs (State.raiseGen s j r) := by
  intros
  unfold State.raiseGen
  repeat' first
    | (with_reducible assumption)
    | (with_reducible refine ite_kept ?_ ?_)
    | (with_reducible apply State.updRun_kept)
    | (with_reducible apply State.setFld_kept)

theorem State.freezeStretch_kept {cs : Keep} {s : State} (h : s.Kept cs) : ∀ j, State.Kept cs (State.freezeStretch s j) := by
  intros
  unfold State.freezeStretch
  repeat' first
    | (with_reducible assumption)
    | (with_reducible apply State.updRun_kept)

theorem State.markArrived_kept {cs : Keep} {s : State} (h : s.Kept cs) : ∀ j clock r, State.Kept cs
    (State.markArrived s j clock r) := by
  intros
  unfold State.markArrived
  repeat' first
    | (with_reducible assumption)
    | (extract_lets +onlyGivenNames x; refine kept_cut (cs := cs) x ?_ ?_; subst x; rotate_left; generalize x = y;
        clear x; intro _)
    | (extract_lets +onlyGivenNames x; generalize x = y; clear x)
    | (with_reducible apply State.hingeTrace_kept)
    | (with_reducible apply State.setPhase_kept)
    | (with_reducible apply State.updRun_kept)

theorem State.arrive_kept {cs : Keep} {s : State} (h : s.Kept cs) : ∀ j dynJ r, State.Kept cs (State.arrive s j dynJ r) := by
  intros
  unfold State.arrive
  repeat' first
    | (with_reducible assumption)
    | intro _
    | (extract_lets +onlyGivenNames x; refine kept_cut (cs := cs) x ?_ ?_; subst x; rotate_left; generalize x = y;
        clear x; intro _)
    | (extract_lets +onlyGivenNames x; generalize x = y; clear x)
    | (with_reducible refine ite_kept ?_ ?_)
    | (with_reducible apply State.endStep_kept)
    | (with_reducible apply State.flipSlots_kept)
    | (with_reducible apply State.raiseGen_kept)
    | (with_reducible apply State.items34_kept)
    | (with_reducible apply State.item5_kept)
    | (with_reducible apply State.hingeGuards_kept)
    | (with_reducible apply State.item6_kept)
    | (with_reducible apply State.item7_kept)
    | (with_reducible apply State.takeEarly_kept)
    | (with_reducible apply State.markArrived_kept)
    | (with_reducible apply State.freezeStretch_kept)
    | (with_reducible apply State.beginSet_kept)
    | (with_reducible refine foldl_kept ?_ ?_)

theorem execCmdStepEnd_kept {cs : Keep} {s : State} (h : s.Kept cs) : ∀ p ctx, KeptO cs (execCmdStepEnd p ctx s) := by
  intros
  unfold execCmdStepEnd
  repeat' first
    | (with_reducible assumption)
    | intro _
    | (extract_lets +onlyGivenNames x; generalize x = y; clear x)
    | (with_reducible refine kept_next ?_)
    | (with_reducible apply State.trySendReady_kept)
    | (with_reducible apply State.tryIssue_kept)
    | (with_reducible apply State.stepEnd_kept)

theorem execArrivalInstant_kept {cs : Keep} {s : State} (h : s.Kept cs) : ∀ j dynJ, KeptO cs (execArrivalInstant j
    dynJ s) := by
  intros
  unfold execArrivalInstant
  repeat' first
    | (with_reducible assumption)
    | (with_reducible refine ite_keptO ?_ ?_)
    | (with_reducible refine kept_next ?_)
    | (with_reducible apply State.trySendReady_kept)
    | (with_reducible apply State.arrive_kept)
    | split

theorem execHaspPhase1Complete_kept {cs : Keep} {s : State} (h : s.Kept cs) : ∀ j, KeptO cs (execHaspPhase1Complete
    j s) := by
  intros
  unfold execHaspPhase1Complete
  repeat' first
    | (with_reducible assumption)
    | (extract_lets +onlyGivenNames x; refine kept_cut (cs := cs) x ?_ ?_; subst x; rotate_left; generalize x = y;
        clear x; intro _)
    | (with_reducible refine ite_kept ?_ ?_)
    | (with_reducible refine ite_keptO ?_ ?_)
    | (with_reducible refine kept_next ?_)
    | (with_reducible apply State.closeSlots_kept)
    | (with_reducible apply State.updRun_kept)
    | (with_reducible apply State.setFld_kept)
    | (with_reducible apply State.trySendReady_kept)
    | split

theorem State.onReadyNotice_kept {cs : Keep} {s : State} (h : s.Kept cs) : ∀ src m, State.Kept cs
    (State.onReadyNotice s src m) := by
  intros
  unfold State.onReadyNotice
  repeat' first
    | (with_reducible assumption)
    | (extract_lets +onlyGivenNames x; generalize x = y; clear x)
    | (with_reducible refine ite_kept ?_ ?_)
    | (with_reducible apply State.trySendReady_kept)
    | (with_reducible apply State.updRun_kept)
    | (with_reducible exact kept_mk (kept_fold (by assumption)))
    | split

theorem State.onHoldNotice_kept {cs : Keep} {s : State} (h : s.Kept cs) : ∀ src m, State.Kept cs (State.onHoldNotice
    s src m) := by
  intros
  unfold State.onHoldNotice
  repeat' first
    | (with_reducible assumption)
    | (extract_lets +onlyGivenNames x; refine kept_cut (cs := cs) x ?_ ?_; subst x; rotate_left; generalize x = y;
        clear x; intro _)
    | (extract_lets +onlyGivenNames x; generalize x = y; clear x)
    | (with_reducible refine ite_kept ?_ ?_)
    | (with_reducible apply State.updRun_kept)
    | (with_reducible apply State.sendCtl_kept)
    | split

theorem State.onHingeRelease_kept {cs : Keep} {s : State} (h : s.Kept cs) : ∀ src m, State.Kept cs
    (State.onHingeRelease s src m) := by
  intros
  unfold State.onHingeRelease
  repeat' first
    | (with_reducible assumption)
    | (extract_lets +onlyGivenNames x; refine kept_cut (cs := cs) x ?_ ?_; subst x; rotate_left; generalize x = y;
        clear x; intro _)
    | (extract_lets +onlyGivenNames x; generalize x = y; clear x)
    | (with_reducible refine ite_kept ?_ ?_)
    | (with_reducible apply State.sendDown_kept)
    | (with_reducible apply State.applyRelease_kept)
    | split

theorem execStepStart_kept {cs : Keep} {s : State} (h : s.Kept cs) : ∀ j, KeptO cs (execStepStart j s) := by
  intros
  unfold execStepStart
  repeat' first
    | (with_reducible assumption)
    | (with_reducible refine ite_keptO ?_ ?_)
    | (with_reducible refine kept_next ?_)
    | (with_reducible apply State.startStep_kept)
    | split

theorem execHingeTimeout_kept {cs : Keep} {s : State} (h : s.Kept cs) : ∀ j, KeptO cs (execHingeTimeout j s) := by
  intros
  unfold execHingeTimeout
  repeat' first
    | (with_reducible assumption)
    | intro _
    | (extract_lets +onlyGivenNames x; refine kept_cut (cs := cs) x ?_ ?_; subst x; rotate_left; generalize x = y;
        clear x; intro _)
    | (extract_lets +onlyGivenNames x; generalize x = y; clear x)
    | (with_reducible refine ite_keptO ?_ ?_)
    | (with_reducible refine kept_next ?_)
    | (with_reducible apply State.setFld_kept)
    | (with_reducible apply State.event_kept)
    | (with_reducible apply State.emit_kept)
    | (with_reducible apply State.updRun_kept)
    | (with_reducible refine foldl_kept ?_ ?_)
    | split

theorem State.mtbfWrite_kept {cs : Keep} {s : State} (h : s.Kept cs) : ∀ j v, State.Kept cs (State.mtbfWrite s j v) := by
  intros
  unfold State.mtbfWrite
  repeat' first
    | (with_reducible assumption)
    | (extract_lets +onlyGivenNames x; refine kept_cut (cs := cs) x ?_ ?_; subst x; rotate_left; generalize x = y;
        clear x; intro _)
    | (with_reducible refine ite_kept ?_ ?_)
    | (with_reducible apply State.setFld_kept)
    | (with_reducible apply State.computeN_kept)

end Sys2Proof.Machine
end

