-- ==== Sys2Proof/Laws/KeptD.lean ====
section
/-! SUPPORT. What the operations of Machine/Links, Machine/Submit, Machine/Broadcast keep (`State.Kept`): the queue, and the invariant. -/
namespace Sys2Proof.Machine

theorem State.setLink_kept {cs : Keep} {s : State} (h : s.Kept cs) : ∀ q l, State.Kept cs (State.setLink s q l) := by
  intros
  unfold State.setLink
  repeat' first
    | (with_reducible exact kept_mk (kept_fold (by assumption)))

theorem State.setLanes_kept {cs : Keep} {s : State} (h : s.Kept cs) : ∀ q m, State.Kept cs (State.setLanes s q m) := by
  intros
  unfold State.setLanes
  repeat' first
    | (with_reducible assumption)
    | (extract_lets +onlyGivenNames x; refine kept_cut (cs := cs) x ?_ ?_; subst x; rotate_left; generalize x = y;
        clear x; intro _)
    | (extract_lets +onlyGivenNames x; generalize x = y; clear x)
    | (with_reducible apply State.setFld_kept)

theorem State.sendCredit_kept {cs : Keep} {s : State} (h : s.Kept cs) : ∀ q, State.Kept cs (State.sendCredit s q) := by
  intros
  unfold State.sendCredit
  repeat' first
    | (with_reducible assumption)
    | (with_reducible apply State.emit_kept)

theorem State.pickSource_kept {cs : Keep} {s : State} (h : s.Kept cs) : State.Kept cs (State.pickSource s) := by
  unfold State.pickSource
  repeat' first
    | (with_reducible assumption)
    | (extract_lets +onlyGivenNames x; generalize x = y; clear x)
    | (with_reducible apply State.setFld_kept)
    | split

theorem State.moveFlow_kept {cs : Keep} {s : State} (h : s.Kept cs) : ∀ n, State.Kept cs (State.moveFlow s n) := by
  intros
  unfold State.moveFlow
  repeat' first
    | (with_reducible assumption)
    | (extract_lets +onlyGivenNames x; refine kept_cut (cs := cs) x ?_ ?_; subst x; rotate_left; generalize x = y;
        clear x; intro _)
    | (with_reducible refine ite_kept ?_ ?_)
    | (with_reducible apply State.setFld_kept)
    | (with_reducible exact kept_mk (kept_fold (by assumption)))
    | split

theorem State.leaveUp_kept {cs : Keep} {s : State} (h : s.Kept cs) : ∀ q state, State.Kept cs (State.leaveUp s q state) := by
  intros
  unfold State.leaveUp
  repeat' first
    | (with_reducible assumption)
    | intro _
    | (extract_lets +onlyGivenNames x; refine kept_cut (cs := cs) x ?_ ?_; subst x; rotate_left; generalize x = y;
        clear x; intro _)
    | (extract_lets +onlyGivenNames x; generalize x = y; clear x)
    | (with_reducible apply State.setFld_kept)
    | (with_reducible apply State.setLanes_kept)
    | (with_reducible apply State.pickSource_kept)
    | (with_reducible apply State.moveFlow_kept)
    | (with_reducible refine foldl_kept ?_ ?_)
    | (with_reducible exact kept_mk (kept_fold (by assumption)))

theorem State.portDrop_kept {cs : Keep} {s : State} (h : s.Kept cs) : ∀ q, State.Kept cs (State.portDrop s q) := by
  intros
  unfold State.portDrop
  repeat' first
    | (with_reducible assumption)
    | (extract_lets +onlyGivenNames x; refine kept_cut (cs := cs) x ?_ ?_; subst x; rotate_left; generalize x = y;
        clear x; intro _)
    | (extract_lets +onlyGivenNames x; generalize x = y; clear x)
    | (with_reducible refine ite_kept ?_ ?_)
    | (with_reducible apply State.gcount_kept)
    | (with_reducible apply State.setLink_kept)
    | (with_reducible apply State.event_kept)
    | (with_reducible apply State.setFld_kept)

theorem State.portDown_kept {cs : Keep} {s : State} (h : s.Kept cs) : ∀ q reason, State.Kept cs (State.portDown s q
    reason) := by
  intros
  unfold State.portDown
  repeat' first
    | (with_reducible assumption)
    | (extract_lets +onlyGivenNames x; refine kept_cut (cs := cs) x ?_ ?_; subst x; rotate_left; generalize x = y;
        clear x; intro _)
    | (extract_lets +onlyGivenNames x; generalize x = y; clear x)
    | (with_reducible apply State.setFld_kept)
    | (with_reducible apply State.leaveUp_kept)
    | (with_reducible apply State.portDrop_kept)
    | (with_reducible apply State.setLink_kept)
    | split

theorem execPortDown_kept {cs : Keep} {s : State} (h : s.Kept cs) : ∀ q reason, KeptO cs (execPortDown q reason s) := by
  intros
  unfold execPortDown
  repeat' first
    | (with_reducible assumption)
    | (with_reducible refine kept_next ?_)
    | (with_reducible apply State.portDown_kept)

theorem State.trainFinish_kept {cs : Keep} {s : State} (h : s.Kept cs) : ∀ q u, State.Kept cs (State.trainFinish s q u) := by
  intros
  unfold State.trainFinish
  repeat' first
    | (with_reducible assumption)
    | (extract_lets +onlyGivenNames x; refine kept_cut (cs := cs) x ?_ ?_; subst x; rotate_left; generalize x = y;
        clear x; intro _)
    | (extract_lets +onlyGivenNames x; generalize x = y; clear x)
    | (with_reducible refine ite_kept ?_ ?_)
    | (with_reducible apply State.portDown_kept)
    | (with_reducible apply State.setFld_kept)
    | (with_reducible apply State.setLink_kept)
    | (with_reducible apply State.setLanes_kept)
    | (with_reducible apply State.sendCredit_kept)
    | (with_reducible apply State.event_kept)

theorem State.linkTrain_kept {cs : Keep} {s : State} (h : s.Kept cs) : ∀ q u, State.Kept cs (State.linkTrain s q u) := by
  intros
  unfold State.linkTrain
  repeat' first
    | (with_reducible assumption)
    | (extract_lets +onlyGivenNames x; refine kept_cut (cs := cs) x ?_ ?_; subst x; rotate_left; generalize x = y;
        clear x; intro _)
    | (extract_lets +onlyGivenNames x; generalize x = y; clear x)
    | (with_reducible refine ite_kept ?_ ?_)
    | (with_reducible apply State.setLink_kept)
    | (with_reducible apply State.emit_kept)
    | (with_reducible apply State.trainFinish_kept)

theorem State.trainStart_kept {cs : Keep} {s : State} (h : s.Kept cs) : ∀ q kept partner, State.Kept cs
    (State.trainStart s q kept partner) := by
  intros
  unfold State.trainStart
  repeat' first
    | (with_reducible assumption)
    | (extract_lets +onlyGivenNames x; refine kept_cut (cs := cs) x ?_ ?_; subst x; rotate_left; generalize x = y;
        clear x; intro _)
    | (extract_lets +onlyGivenNames x; generalize x = y; clear x)
    | (with_reducible refine ite_kept ?_ ?_)
    | (with_reducible apply State.setFld_kept)
    | (with_reducible apply State.setLink_kept)
    | (with_reducible apply State.emit_kept)
    | (with_reducible apply State.linkTrain_kept)
    | split

theorem execLinkTrain_kept {cs : Keep} {s : State} (h : s.Kept cs) : ∀ q u, KeptO cs (execLinkTrain q u s) := by
  intros
  unfold execLinkTrain
  repeat' first
    | (with_reducible assumption)
    | (with_reducible refine kept_next ?_)
    | (with_reducible apply State.linkTrain_kept)

theorem execPortTrainStart_kept {cs : Keep} {s : State} (h : s.Kept cs) : ∀ q kept partner, KeptO cs
    (execPortTrainStart q kept partner s) := by
  intros
  unfold execPortTrainStart
  repeat' first
    | (with_reducible assumption)
    | (with_reducible refine kept_next ?_)
    | (with_reducible apply State.trainStart_kept)

theorem execPortTrainTimeout_kept {cs : Keep} {s : State} (h : s.Kept cs) : ∀ q, KeptO cs (execPortTrainTimeout q s) := by
  intros
  unfold execPortTrainTimeout
  repeat' first
    | (with_reducible assumption)
    | (with_reducible refine ite_keptO ?_ ?_)
    | (with_reducible refine kept_next ?_)
    | (with_reducible apply State.portDown_kept)

theorem execPortTrainRetry_kept {cs : Keep} {s : State} (h : s.Kept cs) : ∀ q kept partner, KeptO cs
    (execPortTrainRetry q kept partner s) := by
  intros
  unfold execPortTrainRetry
  repeat' first
    | (with_reducible assumption)
    | (with_reducible refine ite_keptO ?_ ?_)
    | (with_reducible refine kept_next ?_)
    | (with_reducible apply State.trainStart_kept)

theorem execDampHoldExpiry_kept {cs : Keep} {s : State} (h : s.Kept cs) : ∀ q kept partner, KeptO cs
    (execDampHoldExpiry q kept partner s) := by
  intros
  unfold execDampHoldExpiry
  repeat' first
    | (with_reducible assumption)
    | (with_reducible refine ite_keptO ?_ ?_)
    | (with_reducible refine kept_next ?_)
    | (with_reducible apply State.trainStart_kept)
    | (with_reducible apply State.setFld_kept)

theorem execDampQuietExpiry_kept {cs : Keep} {s : State} (h : s.Kept cs) : ∀ q, KeptO cs (execDampQuietExpiry q s) := by
  intros
  unfold execDampQuietExpiry
  repeat' first
    | (with_reducible assumption)
    | (with_reducible refine ite_keptO ?_ ?_)
    | (with_reducible refine kept_next ?_)
    | (with_reducible apply State.setFld_kept)

theorem execFlowSwitchHoldExpiry_kept {cs : Keep} {s : State} (h : s.Kept cs) : ∀ n, KeptO cs
    (execFlowSwitchHoldExpiry n s) := by
  intros
  unfold execFlowSwitchHoldExpiry
  repeat' first
    | (with_reducible assumption)
    | (with_reducible refine ite_keptO ?_ ?_)
    | (with_reducible refine kept_next ?_)
    | (with_reducible exact kept_mk (kept_fold (by assumption)))

theorem State.laneFault_kept {cs : Keep} {s : State} (h : s.Kept cs) : ∀ x, State.Kept cs (State.laneFault s x) := by
  intros
  unfold State.laneFault
  repeat' first
    | (with_reducible assumption)
    | (with_reducible apply State.accAdd_kept)
    | (with_reducible apply State.gcount_kept)

theorem State.restripe_kept {cs : Keep} {s : State} (h : s.Kept cs) : ∀ q, State.Kept cs (State.restripe s q) := by
  intros
  unfold State.restripe
  repeat' first
    | (with_reducible assumption)
    | (extract_lets +onlyGivenNames x; refine kept_cut (cs := cs) x ?_ ?_; subst x; rotate_left; generalize x = y;
        clear x; intro _)
    | (extract_lets +onlyGivenNames x; generalize x = y; clear x)
    | (with_reducible refine ite_kept ?_ ?_)
    | (with_reducible apply State.portDown_kept)
    | (with_reducible apply State.leaveUp_kept)
    | (with_reducible apply State.setLink_kept)
    | (with_reducible apply State.emit_kept)
    | (with_reducible apply State.setLanes_kept)

theorem State.laneOut_kept {cs : Keep} {s : State} (h : s.Kept cs) : ∀ x event, State.Kept cs (State.laneOut s x event) := by
  intros
  unfold State.laneOut
  repeat' first
    | (with_reducible assumption)
    | (extract_lets +onlyGivenNames x; refine kept_cut (cs := cs) x ?_ ?_; subst x; rotate_left; generalize x = y;
        clear x; intro _)
    | (extract_lets +onlyGivenNames x; generalize x = y; clear x)
    | (with_reducible refine ite_kept ?_ ?_)
    | (with_reducible apply State.laneFault_kept)
    | (with_reducible apply State.setLink_kept)
    | (with_reducible apply State.detect_kept)
    | (with_reducible apply State.emit_kept)
    | (with_reducible apply State.restripe_kept)

theorem execLaneLockLoss_kept {cs : Keep} {s : State} (h : s.Kept cs) : ∀ x, KeptO cs (execLaneLockLoss x s) := by
  intros
  unfold execLaneLockLoss
  repeat' first
    | (with_reducible assumption)
    | (with_reducible refine kept_next ?_)
    | (with_reducible apply State.laneOut_kept)

theorem execLaneUeLimit_kept {cs : Keep} {s : State} (h : s.Kept cs) : ∀ x, KeptO cs (execLaneUeLimit x s) := by
  intros
  unfold execLaneUeLimit
  repeat' first
    | (with_reducible assumption)
    | (extract_lets +onlyGivenNames x; generalize x = y; clear x)
    | (with_reducible refine ite_keptO ?_ ?_)
    | (with_reducible refine kept_next ?_)
    | (with_reducible apply State.laneOut_kept)

theorem execLaneRetrainTimeout_kept {cs : Keep} {s : State} (h : s.Kept cs) : ∀ x, KeptO cs (execLaneRetrainTimeout
    x s) := by
  intros
  unfold execLaneRetrainTimeout
  repeat' first
    | (with_reducible assumption)
    | (extract_lets +onlyGivenNames x; generalize x = y; clear x)
    | (with_reducible refine ite_keptO ?_ ?_)
    | (with_reducible refine kept_next ?_)
    | (with_reducible apply State.detectOnly_kept)
    | (with_reducible apply State.laneFault_kept)
    | (with_reducible apply State.setLink_kept)

theorem execLaneRetrainRetry_kept {cs : Keep} {s : State} (h : s.Kept cs) : ∀ x, KeptO cs (execLaneRetrainRetry x s) := by
  intros
  unfold execLaneRetrainRetry
  repeat' first
    | (with_reducible assumption)
    | (extract_lets +onlyGivenNames x; generalize x = y; clear x)
    | (with_reducible refine ite_kept ?_ ?_)
    | (with_reducible refine kept_next ?_)
    | (with_reducible apply State.setLink_kept)

theorem execLaneRejoin_kept {cs : Keep} {s : State} (h : s.Kept cs) : ∀ x, KeptO cs (execLaneRejoin x s) := by
  intros
  unfold execLaneRejoin
  repeat' first
    | (with_reducible assumption)
    | (extract_lets +onlyGivenNames x; refine kept_cut (cs := cs) x ?_ ?_; subst x; rotate_left; generalize x = y;
        clear x; intro _)
    | (extract_lets +onlyGivenNames x; generalize x = y; clear x)
    | (with_reducible refine ite_keptO ?_ ?_)
    | (with_reducible refine kept_next ?_)
    | (with_reducible apply State.setLink_kept)
    | (with_reducible apply State.emit_kept)
    | (with_reducible apply State.setLanes_kept)

theorem State.linkLane_kept {cs : Keep} {s : State} (h : s.Kept cs) : ∀ q mask, State.Kept cs (State.linkLane s q mask) := by
  intros
  unfold State.linkLane
  repeat' first
    | (with_reducible assumption)
    | (extract_lets +onlyGivenNames x; generalize x = y; clear x)
    | (with_reducible refine ite_kept ?_ ?_)
    | (with_reducible apply State.restripe_kept)
    | (with_reducible apply State.setLink_kept)

theorem execLinkLane_kept {cs : Keep} {s : State} (h : s.Kept cs) : ∀ q mask, KeptO cs (execLinkLane q mask s) := by
  intros
  unfold execLinkLane
  repeat' first
    | (with_reducible assumption)
    | (with_reducible refine kept_next ?_)
    | (with_reducible apply State.linkLane_kept)

theorem State.dropRetired_kept {cs : Keep} {s : State} (h : s.Kept cs) : State.Kept cs (State.dropRetired s) := by
  unfold State.dropRetired
  repeat' first
    | (with_reducible assumption)
    | intro _
    | (extract_lets +onlyGivenNames x; refine kept_cut (cs := cs) x ?_ ?_; subst x; rotate_left; generalize x = y;
        clear x; intro _)
    | (extract_lets +onlyGivenNames x; generalize x = y; clear x)
    | (with_reducible refine ite_kept ?_ ?_)
    | (with_reducible apply State.setLink_kept)
    | (with_reducible apply State.emit_kept)
    | (with_reducible apply State.restripe_kept)
    | (with_reducible refine forRange_kept ?_ ?_)

theorem execErrorRecordWrite_kept {cs : Keep} {s : State} (h : s.Kept cs) : KeptO cs (execErrorRecordWrite s) := by
  unfold execErrorRecordWrite
  repeat' first
    | (with_reducible assumption)
    | (with_reducible refine ite_keptO ?_ ?_)
    | (with_reducible refine kept_next ?_)
    | (with_reducible apply State.dropRetired_kept)
    | (with_reducible apply State.takeDetections_kept)

theorem State.laneReadmit_kept {cs : Keep} {s : State} (h : s.Kept cs) : ∀ k mask, State.Kept cs (State.laneReadmit
    s k mask) := by
  intros
  unfold State.laneReadmit
  repeat' first
    | (with_reducible assumption)
    | intro _
    | (with_reducible refine ite_kept ?_ ?_)
    | (with_reducible apply State.readmit_kept)
    | (with_reducible apply State.setFld_kept)
    | (with_reducible refine forRange_kept ?_ ?_)

theorem State.ackPkt_kept {cs : Keep} {s : State} (h : s.Kept cs) : ∀ x, State.Kept cs (State.ackPkt s x) := by
  intros
  unfold State.ackPkt
  repeat' first
    | (with_reducible assumption)
    | (extract_lets +onlyGivenNames x; refine kept_cut (cs := cs) x ?_ ?_; subst x; rotate_left; generalize x = y;
        clear x; intro _)
    | (with_reducible refine ite_kept ?_ ?_)
    | (with_reducible apply State.setFld_kept)
    | (with_reducible exact kept_mk (kept_fold (by assumption)))
    | split

theorem State.linkAck_kept {cs : Keep} {s : State} (h : s.Kept cs) : ∀ q seq, State.Kept cs (State.linkAck s q seq) := by
  intros
  unfold State.linkAck
  repeat' first
    | (with_reducible assumption)
    | intro _
    | (extract_lets +onlyGivenNames x; (have _ := fun a => x a); subst x; dsimp -zeta only)
    | (extract_lets +onlyGivenNames x; generalize x = y; clear x)
    | (with_reducible refine ite_kept ?_ ?_)
    | (with_reducible apply State.ackPkt_kept)
    | (with_reducible refine foldl_kept ?_ ?_)
    | (with_reducible exact kept_mk (kept_fold (by assumption)))

theorem execLinkAck_kept {cs : Keep} {s : State} (h : s.Kept cs) : ∀ q seq, KeptO cs (execLinkAck q seq s) := by
  intros
  unfold execLinkAck
  repeat' first
    | (with_reducible assumption)
    | (with_reducible refine kept_next ?_)
    | (with_reducible apply State.linkAck_kept)

theorem State.linkNak_kept {cs : Keep} {s : State} (h : s.Kept cs) : ∀ q seq, State.Kept cs (State.linkNak s q seq) := by
  intros
  unfold State.linkNak
  repeat' first
    | (with_reducible assumption)
    | (extract_lets +onlyGivenNames x; (have _ := fun a => x a); subst x; dsimp -zeta only)
    | (extract_lets +onlyGivenNames x; refine kept_cut (cs := cs) x ?_ ?_; subst x; rotate_left; generalize x = y;
        clear x; intro _)
    | (with_reducible refine ite_kept ?_ ?_)
    | (with_reducible apply State.gcount_kept)
    | (with_reducible apply State.portDown_kept)
    | (with_reducible apply State.emit_kept)
    | (with_reducible exact kept_mk (kept_fold (by assumption)))

theorem execLinkNak_kept {cs : Keep} {s : State} (h : s.Kept cs) : ∀ q seq, KeptO cs (execLinkNak q seq s) := by
  intros
  unfold execLinkNak
  repeat' first
    | (with_reducible assumption)
    | (with_reducible refine kept_next ?_)
    | (with_reducible apply State.linkNak_kept)

theorem State.linkCredit_kept {cs : Keep} {s : State} (h : s.Kept cs) : ∀ q c, State.Kept cs (State.linkCredit s q c) := by
  intros
  unfold State.linkCredit
  repeat' first
    | (with_reducible assumption)
    | (extract_lets +onlyGivenNames x; generalize x = y; clear x)
    | (with_reducible refine ite_kept ?_ ?_)
    | (with_reducible apply State.setLink_kept)

theorem execLinkCredit_kept {cs : Keep} {s : State} (h : s.Kept cs) : ∀ q c, KeptO cs (execLinkCredit q c s) := by
  intros
  unfold execLinkCredit
  repeat' first
    | (with_reducible assumption)
    | (with_reducible refine kept_next ?_)
    | (with_reducible apply State.linkCredit_kept)

theorem execTimeExchangeStart_kept {cs : Keep} {s : State} (h : s.Kept cs) : ∀ q, KeptO cs (execTimeExchangeStart q s) := by
  intros
  unfold execTimeExchangeStart
  repeat' first
    | (with_reducible assumption)
    | (extract_lets +onlyGivenNames x; generalize x = y; clear x)
    | (with_reducible refine ite_keptO ?_ ?_)
    | (with_reducible refine kept_next ?_)
    | (with_reducible apply State.emit_kept)
    | (with_reducible apply State.setLink_kept)

theorem State.timeAdvert_kept {cs : Keep} {s : State} (h : s.Kept cs) : ∀ q hops, State.Kept cs (State.timeAdvert s
    q hops) := by
  intros
  unfold State.timeAdvert
  repeat' first
    | (with_reducible assumption)
    | (extract_lets +onlyGivenNames x; generalize x = y; clear x)
    | (with_reducible apply State.pickSource_kept)
    | (with_reducible apply State.setLink_kept)

theorem State.timeReq_kept {cs : Keep} {s : State} (h : s.Kept cs) : ∀ q hops xseq t1, State.Kept cs (State.timeReq
    s q hops xseq t1) := by
  intros
  unfold State.timeReq
  repeat' first
    | (with_reducible assumption)
    | (extract_lets +onlyGivenNames x; refine kept_cut (cs := cs) x ?_ ?_; subst x; rotate_left; generalize x = y;
        clear x; intro _)
    | (with_reducible refine ite_kept ?_ ?_)
    | (with_reducible apply State.timeAdvert_kept)
    | (with_reducible apply State.emit_kept)

theorem execTimeReq_kept {cs : Keep} {s : State} (h : s.Kept cs) : ∀ q hops xseq t1, KeptO cs (execTimeReq q hops
    xseq t1 s) := by
  intros
  unfold execTimeReq
  repeat' first
    | (with_reducible assumption)
    | (with_reducible refine kept_next ?_)
    | (with_reducible apply State.timeReq_kept)

theorem State.timeUnlock_kept {cs : Keep} {s : State} (h : s.Kept cs) : State.Kept cs (State.timeUnlock s) := by
  unfold State.timeUnlock
  repeat' first
    | (with_reducible assumption)
    | (extract_lets +onlyGivenNames x; refine kept_cut (cs := cs) x ?_ ?_; subst x; rotate_left; generalize x = y;
        clear x; intro _)
    | (with_reducible refine ite_kept ?_ ?_)
    | (with_reducible apply State.event_kept)
    | (with_reducible apply State.setFld_kept)
    | (with_reducible exact kept_mk (kept_fold (by assumption)))

theorem State.ftimeSet_kept {cs : Keep} {s : State} (h : s.Kept cs) (t : Nat) (ht : t < 2 ^ 64) (d : Int) :
    State.Kept cs { s with ftime := t, slew := d } :=
  kept_of h rfl fun i => ⟨i.mem, i.poison, i.regs, ht, i.cnt, i.vx, i.vxPsn⟩

theorem emod_time_lt (a : Int) : (a % (2 ^ 64)).toNat < 2 ^ 64 := by
  have ha := Int.emod_lt_of_pos a (show (0 : Int) < 2 ^ 64 by decide)
  have hb := Int.emod_nonneg a (show (2 : Int) ^ 64 ≠ 0 by decide)
  omega

theorem State.timeOffset_kept {cs : Keep} {s : State} (h : s.Kept cs) : ∀ off, State.Kept cs (State.timeOffset s off) := by
  intros
  unfold State.timeOffset
  repeat' first
    | (with_reducible assumption)
    | (with_reducible refine ite_kept ?_ ?_)
    | (with_reducible refine State.ftimeSet_kept ?_ _ (emod_time_lt _) _)
    | (with_reducible apply State.setFld_kept)
    | (with_reducible apply State.timeUnlock_kept)
    | split
    | (with_reducible refine kept_mk (kept_fold ?_); first | with_reducible apply State.setFld_kept | with_reducible apply State.timeUnlock_kept)
    | dsimp only

theorem State.timeResp_kept {cs : Keep} {s : State} (h : s.Kept cs) : ∀ q hops t1 t2 t3, State.Kept cs
    (State.timeResp s q hops t1 t2 t3) := by
  intros
  unfold State.timeResp
  repeat' first
    | (with_reducible assumption)
    | (extract_lets +onlyGivenNames x; refine kept_cut (cs := cs) x ?_ ?_; subst x; rotate_left; generalize x = y;
        clear x; intro _)
    | (extract_lets +onlyGivenNames x; generalize x = y; clear x)
    | (with_reducible refine ite_kept ?_ ?_)
    | (with_reducible apply State.timeAdvert_kept)
    | (with_reducible apply State.gcount_kept)
    | (with_reducible apply State.timeOffset_kept)
    | (with_reducible apply State.setFld_kept)

theorem execTimeResp_kept {cs : Keep} {s : State} (h : s.Kept cs) : ∀ q hops t1 t2 t3, KeptO cs (execTimeResp q hops
    t1 t2 t3 s) := by
  intros
  unfold execTimeResp
  repeat' first
    | (with_reducible assumption)
    | (with_reducible refine kept_next ?_)
    | (with_reducible apply State.timeResp_kept)

theorem execTimeHoldoverExpiry_kept {cs : Keep} {s : State} (h : s.Kept cs) : KeptO cs (execTimeHoldoverExpiry s) := by
  unfold execTimeHoldoverExpiry
  repeat' first
    | (with_reducible assumption)
    | (with_reducible refine kept_next ?_)
    | (with_reducible apply State.timeUnlock_kept)

theorem State.timeTick_kept {cs : Keep} {s : State} (h : s.Kept cs) : s.timeTick.Kept cs := by
  have hm (n : Nat) : n % 2 ^ 64 < 2 ^ 64 := Nat.mod_lt _ (by decide)
  unfold State.timeTick
  split
  · exact kept_of h rfl fun i => ⟨i.mem, i.poison, i.regs, hm _, i.cnt, i.vx, i.vxPsn⟩
  · split
    · exact kept_of h rfl fun i => ⟨i.mem, i.poison, i.regs, hm _, i.cnt, i.vx, i.vxPsn⟩
    · split
      · exact kept_of h rfl fun i => ⟨i.mem, i.poison, i.regs, hm _, i.cnt, i.vx, i.vxPsn⟩
      · exact h

theorem State.linkUnit_kept {cs : Keep} {s : State} (h : s.Kept cs) : ∀ q u, State.Kept cs (State.linkUnit s q u) := by
  intros
  unfold State.linkUnit
  repeat' first
    | (with_reducible assumption)
    | (with_reducible refine ite_kept ?_ ?_)
    | (with_reducible apply State.linkAck_kept)
    | (with_reducible apply State.linkNak_kept)
    | (with_reducible apply State.linkCredit_kept)
    | (with_reducible apply State.timeReq_kept)
    | (with_reducible apply State.timeResp_kept)
    | (with_reducible apply State.gcount_kept)
    | (with_reducible apply State.linkTrain_kept)
    | (with_reducible apply State.linkLane_kept)
    | split

theorem State.nak_kept {cs : Keep} {s : State} (h : s.Kept cs) : ∀ q, State.Kept cs (State.nak s q) := by
  intros
  unfold State.nak
  repeat' first
    | (with_reducible assumption)
    | (extract_lets +onlyGivenNames x; generalize x = y; clear x)
    | (with_reducible refine ite_kept ?_ ?_)
    | (with_reducible apply State.emit_kept)
    | (with_reducible apply State.setLink_kept)

theorem execCodewordReceive_kept {cs : Keep} {s : State} (h : s.Kept cs) : ∀ q lane bad fec seq cmask units, KeptO
    cs (execCodewordReceive q lane bad fec seq cmask units s) := by
  intros
  unfold execCodewordReceive
  repeat' first
    | (with_reducible assumption)
    | intro _
    | (extract_lets +onlyGivenNames x; refine kept_cut (cs := cs) x ?_ ?_; subst x; rotate_left; generalize x = y;
        clear x; intro _)
    | (extract_lets +onlyGivenNames x; generalize x = y; clear x)
    | (with_reducible refine ite_kept ?_ ?_)
    | (with_reducible refine ite_keptO ?_ ?_)
    | (with_reducible refine kept_next ?_)
    | (with_reducible apply State.gcount_kept)
    | (with_reducible apply State.nak_kept)
    | (with_reducible apply State.setLink_kept)
    | (with_reducible apply State.linkUnit_kept)
    | (with_reducible apply State.emit_kept)
    | (with_reducible refine foldl_kept ?_ ?_)

theorem State.slotStart_kept {cs : Keep} {s : State} (h : s.Kept cs) : State.Kept cs (State.slotStart s) := by
  unfold State.slotStart
  repeat' first
    | (with_reducible assumption)
    | intro _
    | (extract_lets +onlyGivenNames x; refine kept_cut (cs := cs) x ?_ ?_; subst x; rotate_left; generalize x = y;
        clear x; intro _)
    | (extract_lets +onlyGivenNames x; generalize x = y; clear x)
    | (with_reducible refine forRange_kept ?_ ?_)
    | (with_reducible exact kept_mk (kept_fold (by assumption)))

theorem execSlotBoundary_kept {cs : Keep} {s : State} (h : s.Kept cs) : KeptO cs (execSlotBoundary s) := by
  unfold execSlotBoundary
  refine kept_next (State.slotStart_kept ?_)
  exact kept_of h rfl fun i => ⟨i.mem, i.poison, i.regs, Nat.mod_lt _ (by decide), i.cnt, i.vx, i.vxPsn⟩

theorem State.portParity_kept {cs : Keep} {s : State} (h : s.Kept cs) : ∀ k p par, State.Kept cs (State.portParity s
    k p par).1 := by
  intros
  unfold State.portParity
  repeat' first
    | (with_reducible assumption)
    | intro _
    | (extract_lets +onlyGivenNames x; refine kept_cut (cs := cs) x ?_ ?_; subst x; rotate_left; generalize x = y;
        clear x; intro _)
    | (extract_lets +onlyGivenNames x; generalize x = y; clear x)
    | (with_reducible apply State.detect_kept)
    | (with_reducible refine foldl_kept ?_ ?_)

theorem State.startPkt_kept {cs : Keep} {s : State} (h : s.Kept cs) : ∀ q x par, State.Kept cs (State.startPkt s q x
    par) := by
  intros
  unfold State.startPkt
  repeat' first
    | (with_reducible assumption)
    | (extract_lets +onlyGivenNames x; refine kept_cut (cs := cs) x ?_ ?_; subst x; rotate_left; generalize x = y;
        clear x; intro _)
    | (extract_lets +onlyGivenNames x; generalize x = y; clear x)
    | (with_reducible apply State.portParity_kept)
    | (with_reducible apply State.setLink_kept)
    | (with_reducible apply State.setFld_kept)
    | (with_reducible apply State.emit_kept)
    | (with_reducible apply State.gcount_kept)
    | (with_reducible apply State.settleCmd_kept)
    | (with_reducible exact kept_mk (kept_fold (by assumption)))
    | (split; rename_i heq; refine kept_cut2 (cs := cs) heq ?_ ?_; rotate_left; (clear heq; intro _))
    | split

theorem execPacketTransmit_kept {cs : Keep} {s : State} (h : s.Kept cs) : ∀ q par, KeptO cs (execPacketTransmit q
    par s) := by
  intros
  unfold execPacketTransmit
  repeat' first
    | (with_reducible assumption)
    | (with_reducible refine ite_keptO ?_ ?_)
    | (with_reducible refine kept_next ?_)
    | (with_reducible apply State.startPkt_kept)
    | (with_reducible exact kept_mk (kept_fold (by assumption)))
    | split

theorem State.waitTick_kept {cs : Keep} {s : State} (h : s.Kept cs) : State.Kept cs (State.waitTick s) := by
  unfold State.waitTick
  repeat' first
    | (with_reducible assumption)
    | intro _
    | (extract_lets +onlyGivenNames x; refine kept_cut (cs := cs) x ?_ ?_; subst x; rotate_left; generalize x = y;
        clear x; intro _)
    | (extract_lets +onlyGivenNames x; generalize x = y; clear x)
    | (with_reducible refine ite_kept ?_ ?_)
    | (with_reducible apply State.gcount_kept)
    | (with_reducible refine foldl_kept ?_ ?_)
    | (with_reducible refine forRange_kept ?_ ?_)

theorem execSatWindowEnd_kept {cs : Keep} {s : State} (h : s.Kept cs) : KeptO cs (execSatWindowEnd s) := by
  unfold execSatWindowEnd
  repeat' first
    | (with_reducible assumption)
    | (extract_lets +onlyGivenNames x; refine kept_cut (cs := cs) x ?_ ?_; subst x; rotate_left; generalize x = y;
        clear x; intro _)
    | (extract_lets +onlyGivenNames x; generalize x = y; clear x)
    | (with_reducible refine ite_keptO ?_ ?_)
    | (with_reducible refine kept_next ?_)
    | (with_reducible apply State.setFld_kept)
    | (with_reducible apply State.event_kept)
    | (with_reducible exact kept_mk (kept_fold (by assumption)))

theorem execGapTimeout_kept {cs : Keep} {s : State} (h : s.Kept cs) : ∀ n, KeptO cs (execGapTimeout n s) := by
  intros
  unfold execGapTimeout
  repeat' first
    | (with_reducible assumption)
    | (extract_lets +onlyGivenNames x; refine kept_cut (cs := cs) x ?_ ?_; subst x; rotate_left; generalize x = y;
        clear x; intro _)
    | (extract_lets +onlyGivenNames x; generalize x = y; clear x)
    | (with_reducible refine ite_keptO ?_ ?_)
    | (with_reducible refine kept_next ?_)
    | (with_reducible apply State.setFld_kept)
    | (with_reducible apply State.detect_kept)
    | (with_reducible apply State.meetRollback_kept)
    | (with_reducible apply State.sendCtl_kept)
    | split

theorem State.denied_kept {cs : Keep} {s : State} (h : s.Kept cs) : ∀ f, State.Kept cs (State.denied s f) := by
  intros
  unfold State.denied
  repeat' first
    | (with_reducible assumption)
    | (with_reducible apply State.gcount_kept)
    | (with_reducible apply State.setFld_kept)

theorem State.unsupported_kept {cs : Keep} {s : State} (h : s.Kept cs) : ∀ f, State.Kept cs (State.unsupported s f) := by
  intros
  unfold State.unsupported
  repeat' first
    | (with_reducible assumption)
    | (with_reducible apply State.emit_kept)
    | (with_reducible apply State.gcount_kept)
    | (with_reducible apply State.setFld_kept)

theorem State.dropWrite_kept {cs : Keep} {s : State} (h : s.Kept cs) : ∀ f, State.Kept cs (State.dropWrite s f) := by
  intros
  unfold State.dropWrite
  repeat' first
    | (with_reducible assumption)
    | (with_reducible apply State.gcount_kept)
    | (with_reducible apply State.setFld_kept)

theorem State.domainsUp_kept {cs : Keep} {s : State} (h : s.Kept cs) : State.Kept cs (State.domainsUp s) := by
  unfold State.domainsUp
  repeat' first
    | (with_reducible assumption)
    | intro _
    | (extract_lets +onlyGivenNames x; refine kept_cut (cs := cs) x ?_ ?_; subst x; rotate_left; generalize x = y;
        clear x; intro _)
    | (extract_lets +onlyGivenNames x; generalize x = y; clear x)
    | (with_reducible apply State.setFld_kept)
    | (with_reducible refine forRange_kept ?_ ?_)

theorem State.leaveA3_kept {cs : Keep} {s : State} (h : s.Kept cs) : State.Kept cs (State.leaveA3 s) := by
  unfold State.leaveA3
  repeat' first
    | (with_reducible assumption)
    | (with_reducible refine ite_kept ?_ ?_)
    | (with_reducible apply State.domainsUp_kept)
    | (with_reducible apply State.setFld_kept)

theorem State.submitAnswer_kept {cs : Keep} {s : State} (h : s.Kept cs) : ∀ f handle status, State.Kept cs
    (State.submitAnswer s f handle status) := by
  intros
  unfold State.submitAnswer
  repeat' first
    | (with_reducible assumption)
    | (with_reducible apply State.emit_kept)
    | (with_reducible apply State.clearRegs_kept)

theorem State.submit_kept {cs : Keep} {s : State} (h : s.Kept cs) : ∀ f op, State.Kept cs (State.submit s f op).1 := by
  intros
  unfold State.submit
  repeat' first
    | (with_reducible assumption)
    | (extract_lets +onlyGivenNames x; refine kept_cut (cs := cs) x ?_ ?_; subst x; rotate_left; generalize x = y;
        clear x; intro _)
    | (extract_lets +onlyGivenNames x; generalize x = y; clear x)
    | (with_reducible refine ite_kept ?_ ?_)
    | (with_reducible refine ite_kept1 ?_ ?_)
    | (with_reducible apply State.unsupported_kept)
    | (with_reducible apply State.submitAnswer_kept)
    | (with_reducible apply State.leaveA3_kept)
    | (with_reducible apply State.endOp_kept)
    | (with_reducible exact kept_mk (kept_fold (by assumption)))

theorem State.abortArg_kept {cs : Keep} {s : State} (h : s.Kept cs) : ∀ o arg, State.Kept cs (State.abortArg s o arg) := by
  intros
  unfold State.abortArg
  repeat' first
    | (with_reducible assumption)
    | (with_reducible apply State.endOp_kept)

theorem State.endWith_kept {cs : Keep} {s : State} (h : s.Kept cs) : ∀ o status results, State.Kept cs
    (State.endWith s o status results) := by
  intros
  unfold State.endWith
  repeat' first
    | (with_reducible assumption)
    | (with_reducible apply State.endOp_kept)

theorem State.setPhaseOp_kept {cs : Keep} {s : State} (h : s.Kept cs) : ∀ o n, State.Kept cs (State.setPhaseOp s o n) := by
  intros
  unfold State.setPhaseOp
  repeat' first
    | (with_reducible exact kept_mk (kept_fold (by assumption)))

theorem State.hbmPut_kept {cs : Keep} {s : State} (h : s.Kept cs) : ∀ a l g, State.Kept cs (State.hbmPut s a l g) := by
  intros
  unfold State.hbmPut
  repeat' first
    | (with_reducible assumption)
    | intro _
    | (extract_lets +onlyGivenNames x; generalize x = y; clear x)
    | (with_reducible refine ite_kept ?_ ?_)
    | (with_reducible apply State.wrDatum_kept)
    | (with_reducible apply State.wrPart_kept)
    | (with_reducible refine forRange_kept ?_ ?_)

theorem State.installFlow_kept {cs : Keep} {s : State} (h : s.Kept cs) : ∀ n kind cls job gid peer, State.Kept cs
    (State.installFlow s n kind cls job gid peer) := by
  intros
  unfold State.installFlow
  repeat' first
    | (with_reducible assumption)
    | (extract_lets +onlyGivenNames x; refine kept_cut (cs := cs) x ?_ ?_; subst x; rotate_left; generalize x = y;
        clear x; intro _)
    | (extract_lets +onlyGivenNames x; generalize x = y; clear x)
    | (with_reducible refine ite_kept ?_ ?_)
    | (with_reducible apply State.writeFlow_kept)
    | (with_reducible apply State.setFld_kept)
    | (with_reducible apply State.countFlows_kept)

theorem State.freeFlow_kept {cs : Keep} {s : State} (h : s.Kept cs) : ∀ n job, State.Kept cs (State.freeFlow s n job) := by
  intros
  unfold State.freeFlow
  repeat' first
    | (with_reducible assumption)
    | (with_reducible apply State.countFlows_kept)
    | (with_reducible apply State.writeFlow_kept)

theorem State.sendFlow_kept {cs : Keep} {s : State} (h : s.Kept cs) : ∀ n dst lsid offset oper psn pay, State.Kept
    cs (State.sendFlow s n dst lsid offset oper psn pay) := by
  intros
  unfold State.sendFlow
  repeat' first
    | (with_reducible assumption)
    | (extract_lets +onlyGivenNames x; generalize x = y; clear x)
    | (with_reducible apply State.sendPkt_kept)
    | (with_reducible apply State.setFld_kept)

theorem State.bcastShow_kept {cs : Keep} {s : State} (h : s.Kept cs) : ∀ b state, State.Kept cs (State.bcastShow s b
    state) := by
  intros
  unfold State.bcastShow
  repeat' first
    | (with_reducible assumption)
    | (extract_lets +onlyGivenNames x; refine kept_cut (cs := cs) x ?_ ?_; subst x; rotate_left; generalize x = y;
        clear x; intro _)
    | (extract_lets +onlyGivenNames x; generalize x = y; clear x)
    | (with_reducible apply State.setFld_kept)

theorem State.setBcast_kept {cs : Keep} {s : State} (h : s.Kept cs) : ∀ b, State.Kept cs (State.setBcast s b) := by
  intros
  unfold State.setBcast
  repeat' first
    | (with_reducible apply State.bcastShow_kept)
    | (with_reducible exact kept_mk (kept_fold (by assumption)))

theorem State.bcastClose_kept {cs : Keep} {s : State} (h : s.Kept cs) : ∀ b state, State.Kept cs (State.bcastClose s
    b state) := by
  intros
  unfold State.bcastClose
  repeat' first
    | (with_reducible assumption)
    | intro _
    | (extract_lets +onlyGivenNames x; refine kept_cut (cs := cs) x ?_ ?_; subst x; rotate_left; generalize x = y;
        clear x; intro _)
    | (with_reducible apply State.freeFlow_kept)
    | (with_reducible apply State.setFld_kept)
    | (with_reducible apply State.bcastShow_kept)
    | (with_reducible refine foldl_kept ?_ ?_)
    | (with_reducible exact kept_mk (kept_fold (by assumption)))

theorem State.bcastEnd_kept {cs : Keep} {s : State} (h : s.Kept cs) : ∀ b status, State.Kept cs (State.bcastEnd s b
    status) := by
  intros
  unfold State.bcastEnd
  repeat' first
    | (with_reducible assumption)
    | (with_reducible apply State.endOps_kept)

theorem State.bcastPacket_kept {cs : Keep} {s : State} (h : s.Kept cs) : ∀ b k c i, State.Kept cs (State.bcastPacket
    s b k c i) := by
  intros
  unfold State.bcastPacket
  repeat' first
    | (with_reducible assumption)
    | (extract_lets +onlyGivenNames x; generalize x = y; clear x)
    | (with_reducible apply State.sendFlow_kept)

theorem State.bcastSum_kept {cs : Keep} {s : State} (h : s.Kept cs) : ∀ b k c len crc, State.Kept cs (State.bcastSum
    s b k c len crc) := by
  intros
  unfold State.bcastSum
  repeat' first
    | (with_reducible assumption)
    | (with_reducible apply State.sendCtl_kept)

theorem State.bcastChunk_kept {cs : Keep} {s : State} (h : s.Kept cs) : ∀ b k c, State.Kept cs (State.bcastChunk s b
    k c) := by
  intros
  unfold State.bcastChunk
  repeat' first
    | (with_reducible assumption)
    | intro _
    | (extract_lets +onlyGivenNames x; refine kept_cut (cs := cs) x ?_ ?_; subst x; rotate_left; generalize x = y;
        clear x; intro _)
    | (extract_lets +onlyGivenNames x; generalize x = y; clear x)
    | (with_reducible apply State.bcastPacket_kept)
    | (with_reducible apply State.bcastSum_kept)
    | (with_reducible refine forRange_kept ?_ ?_)

theorem State.bcastFeed_kept {cs : Keep} {s : State} (h : s.Kept cs) : ∀ b k, State.Kept cs (State.bcastFeed s b k) := by
  intros
  unfold State.bcastFeed
  repeat' first
    | (with_reducible assumption)
    | intro _
    | (extract_lets +onlyGivenNames x; refine kept_cut (cs := cs) x ?_ ?_; subst x; rotate_left; generalize x = y;
        clear x; intro _)
    | (with_reducible refine ite_kept ?_ ?_)
    | (with_reducible apply State.bcastChunk_kept)
    | (with_reducible apply State.bcastPacket_kept)
    | (with_reducible apply State.bcastSum_kept)
    | (with_reducible refine forRange_kept ?_ ?_)
    | split

theorem State.bcastAsk_kept {cs : Keep} {s : State} (h : s.Kept cs) : ∀ b l, State.Kept cs (State.bcastAsk s b l) := by
  intros
  unfold State.bcastAsk
  repeat' first
    | (with_reducible assumption)
    | intro _
    | (with_reducible apply State.sendCtl_kept)
    | (with_reducible refine foldl_kept ?_ ?_)
    | split

theorem State.bcastCheck_kept {cs : Keep} {s : State} (h : s.Kept cs) : ∀ b, State.Kept cs (State.bcastCheck s b) := by
  intros
  unfold State.bcastCheck
  repeat' first
    | (with_reducible assumption)
    | (extract_lets +onlyGivenNames x; refine kept_cut (cs := cs) x ?_ ?_; subst x; rotate_left; generalize x = y;
        clear x; intro _)
    | (with_reducible refine ite_kept ?_ ?_)
    | (with_reducible apply State.sendCtl_kept)
    | (with_reducible apply State.bcastClose_kept)
    | (with_reducible apply State.bcastEnd_kept)
    | split

theorem State.bcastStep_kept {cs : Keep} {s : State} (h : s.Kept cs) : ∀ b, State.Kept cs (State.bcastStep s b) := by
  intros
  unfold State.bcastStep
  repeat' first
    | (with_reducible assumption)
    | (with_reducible apply State.bcastCheck_kept)
    | (with_reducible apply State.setBcast_kept)

theorem State.bcastStart_kept {cs : Keep} {s : State} (h : s.Kept cs) : ∀ o j fan own rel gids pool, State.Kept cs
    (State.bcastStart s o j fan own rel gids pool) := by
  intros
  unfold State.bcastStart
  repeat' first
    | (with_reducible assumption)
    | intro _
    | (extract_lets +onlyGivenNames x; refine kept_cut (cs := cs) x ?_ ?_; subst x; rotate_left; generalize x = y;
        clear x; intro _)
    | (extract_lets +onlyGivenNames x; generalize x = y; clear x)
    | (with_reducible refine ite_kept ?_ ?_)
    | (with_reducible apply State.installFlow_kept)
    | (with_reducible apply State.hbmPut_kept)
    | (with_reducible apply State.bcastStep_kept)
    | (with_reducible apply State.gcount_kept)
    | (with_reducible apply State.setFld_kept)
    | (with_reducible refine foldl_kept ?_ ?_)
    | (with_reducible exact kept_mk (kept_fold (by assumption)))

theorem State.bcastArm_kept {cs : Keep} {s : State} (h : s.Kept cs) (o : OpenOp) : (s.bcastArm o).Kept cs := by
  unfold State.bcastArm
  extract_lets +onlyGivenNames j tree len dest src
  refine ite_kept (State.abortArg_kept h _ _) (ite_kept (State.abortArg_kept h _ _) (ite_kept (State.abortArg_kept h _ _)
    (ite_kept (State.abortArg_kept h _ _) (ite_kept (State.abortArg_kept h _ _) ?_))))
  generalize s.treeOf j tree = r
  obtain ⟨fan, own, rel⟩ := r
  exact ite_kept (State.abortArg_kept h _ _) (ite_kept (State.endWith_kept h _ _ _) (State.bcastStart_kept h _ _ _ _ _ _ _))

theorem execOpBroadcast_kept {cs : Keep} {s : State} (h : s.Kept cs) : ∀ f, KeptO cs (execOpBroadcast f s) := by
  intros
  unfold execOpBroadcast
  repeat' first
    | (with_reducible assumption)
    | (with_reducible refine kept_next ?_)
    | (with_reducible apply State.submit_kept)
    | (with_reducible apply State.bcastArm_kept)
    | (split; rename_i heq; refine kept_cut2 (cs := cs) heq ?_ ?_; rotate_left; (clear heq; intro _))
    | (with_reducible refine kept_fst ‹_ = (_, _)› ?_)

theorem State.bcastHold_kept {cs : Keep} {s : State} (h : s.Kept cs) : ∀ b c, State.Kept cs (State.bcastHold s b c) := by
  intros
  unfold State.bcastHold
  repeat' first
    | (with_reducible assumption)
    | intro _
    | (extract_lets +onlyGivenNames x; refine kept_cut (cs := cs) x ?_ ?_; subst x; rotate_left; generalize x = y;
        clear x; intro _)
    | (extract_lets +onlyGivenNames x; generalize x = y; clear x)
    | (with_reducible apply State.bcastChunk_kept)
    | (with_reducible apply State.bcastStep_kept)
    | (with_reducible refine foldl_kept ?_ ?_)

theorem State.bcastVerify_kept {cs : Keep} {s : State} (h : s.Kept cs) : ∀ b c, State.Kept cs (State.bcastVerify s b c) := by
  intros
  unfold State.bcastVerify
  repeat' first
    | (with_reducible assumption)
    | (extract_lets +onlyGivenNames x; generalize x = y; clear x)
    | (with_reducible refine ite_kept ?_ ?_)
    | (with_reducible apply State.setBcast_kept)
    | (with_reducible apply State.bcastHold_kept)
    | (with_reducible apply State.bcastAsk_kept)
    | (with_reducible apply State.gcount_kept)
    | (with_reducible apply State.setFld_kept)
    | split

theorem State.bcastData_kept {cs : Keep} {s : State} (h : s.Kept cs) : ∀ flow offset psn pay, State.Kept cs
    (State.bcastData s flow offset psn pay) := by
  intros
  unfold State.bcastData
  repeat' first
    | (with_reducible assumption)
    | intro _
    | (extract_lets +onlyGivenNames x; refine kept_cut (cs := cs) x ?_ ?_; subst x; rotate_left; generalize x = y;
        clear x; intro _)
    | (extract_lets +onlyGivenNames x; generalize x = y; clear x)
    | (with_reducible refine ite_kept ?_ ?_)
    | (with_reducible apply State.hbmPut_kept)
    | (with_reducible apply State.bcastPacket_kept)
    | (with_reducible apply State.bcastVerify_kept)
    | (with_reducible refine foldl_kept ?_ ?_)
    | split

theorem State.onBchunk_kept {cs : Keep} {s : State} (h : s.Kept cs) : ∀ src m, State.Kept cs (State.onBchunk s src m) := by
  intros
  unfold State.onBchunk
  repeat' first
    | (with_reducible assumption)
    | intro _
    | (extract_lets +onlyGivenNames x; refine kept_cut (cs := cs) x ?_ ?_; subst x; rotate_left; generalize x = y;
        clear x; intro _)
    | (extract_lets +onlyGivenNames x; generalize x = y; clear x)
    | (with_reducible refine ite_kept ?_ ?_)
    | (with_reducible apply State.bcastSum_kept)
    | (with_reducible apply State.bcastVerify_kept)
    | (with_reducible refine foldl_kept ?_ ?_)
    | split

theorem State.onBhb_kept {cs : Keep} {s : State} (h : s.Kept cs) : ∀ src m, State.Kept cs (State.onBhb s src m) := by
  intros
  unfold State.onBhb
  repeat' first
    | (with_reducible assumption)
    | (extract_lets +onlyGivenNames x; refine kept_cut (cs := cs) x ?_ ?_; subst x; rotate_left; generalize x = y;
        clear x; intro _)
    | (extract_lets +onlyGivenNames x; generalize x = y; clear x)
    | (with_reducible refine ite_kept ?_ ?_)
    | (with_reducible apply State.setBcast_kept)
    | (with_reducible apply State.bcastFeed_kept)
    | split

theorem execBhbSend_kept {cs : Keep} {s : State} (h : s.Kept cs) : KeptO cs (execBhbSend s) := by
  unfold execBhbSend
  repeat' first
    | (with_reducible assumption)
    | intro _
    | (with_reducible refine kept_next ?_)
    | (with_reducible apply State.sendCtl_kept)
    | (with_reducible refine foldl_kept ?_ ?_)

theorem State.orphanEvent_kept {cs : Keep} {s : State} (h : s.Kept cs) : ∀ j, State.Kept cs (State.orphanEvent s j) := by
  intros
  unfold State.orphanEvent
  repeat' first
    | (with_reducible assumption)
    | (with_reducible apply State.event_kept)
    | (with_reducible apply State.setFld_kept)

theorem State.bcastOrphan_kept {cs : Keep} {s : State} (h : s.Kept cs) : ∀ b, State.Kept cs (State.bcastOrphan s b) := by
  intros
  unfold State.bcastOrphan
  repeat' first
    | (with_reducible assumption)
    | (with_reducible apply State.bcastClose_kept)
    | (with_reducible apply State.bcastEnd_kept)
    | (with_reducible apply State.orphanEvent_kept)
    | (with_reducible apply State.gcount_kept)

theorem State.bcastAttach_kept {cs : Keep} {s : State} (h : s.Kept cs) : ∀ b e, State.Kept cs (State.bcastAttach s b e) := by
  intros
  unfold State.bcastAttach
  repeat' first
    | (with_reducible assumption)
    | (with_reducible apply State.sendCtl_kept)
    | (with_reducible apply State.setBcast_kept)
    | (with_reducible apply State.bcastOrphan_kept)
    | split

theorem State.bcastLoseParent_kept {cs : Keep} {s : State} (h : s.Kept cs) : ∀ b, State.Kept cs
    (State.bcastLoseParent s b) := by
  intros
  unfold State.bcastLoseParent
  repeat' first
    | (with_reducible assumption)
    | (with_reducible refine ite_kept ?_ ?_)
    | (with_reducible apply State.bcastAttach_kept)

theorem State.jobAttach_kept {cs : Keep} {s : State} (h : s.Kept cs) : ∀ j a, State.Kept cs (State.jobAttach s j a) := by
  intros
  unfold State.jobAttach
  repeat' first
    | (with_reducible assumption)
    | (with_reducible apply State.sendCtl_kept)
    | (with_reducible apply State.updRun_kept)
    | split

theorem State.jobOrphan_kept {cs : Keep} {s : State} (h : s.Kept cs) : ∀ j, State.Kept cs (State.jobOrphan s j) := by
  intros
  unfold State.jobOrphan
  repeat' first
    | (with_reducible assumption)
    | (with_reducible apply State.emit_kept)
    | (with_reducible apply State.orphanEvent_kept)
    | (with_reducible apply State.updRun_kept)

theorem State.jobLoseParent_kept {cs : Keep} {s : State} (h : s.Kept cs) : ∀ j, State.Kept cs (State.jobLoseParent s j) := by
  intros
  unfold State.jobLoseParent
  repeat' first
    | (with_reducible assumption)
    | (with_reducible refine ite_kept ?_ ?_)
    | (with_reducible apply State.jobAttach_kept)
    | (with_reducible apply State.jobOrphan_kept)
    | split

theorem execBcastParentLost_kept {cs : Keep} {s : State} (h : s.Kept cs) : ∀ j handle, KeptO cs (execBcastParentLost
    j handle s) := by
  intros
  unfold execBcastParentLost
  repeat' first
    | (with_reducible assumption)
    | (with_reducible refine ite_kept ?_ ?_)
    | (with_reducible refine ite_keptO ?_ ?_)
    | (with_reducible refine kept_next ?_)
    | (with_reducible apply State.jobLoseParent_kept)
    | (with_reducible apply State.bcastLoseParent_kept)
    | split

theorem execBcastChunkTimeout_kept {cs : Keep} {s : State} (h : s.Kept cs) : ∀ j handle c, KeptO cs
    (execBcastChunkTimeout j handle c s) := by
  intros
  unfold execBcastChunkTimeout
  repeat' first
    | (with_reducible assumption)
    | (with_reducible refine ite_keptO ?_ ?_)
    | (with_reducible refine kept_next ?_)
    | (with_reducible apply State.bcastLoseParent_kept)
    | (with_reducible apply State.bcastAsk_kept)
    | (with_reducible apply State.setBcast_kept)
    | split

theorem State.onAttach_kept {cs : Keep} {s : State} (h : s.Kept cs) : ∀ src m, State.Kept cs (State.onAttach s src m) := by
  intros
  unfold State.onAttach
  repeat' first
    | (with_reducible assumption)
    | (extract_lets +onlyGivenNames x; (have _ := fun a => x a); subst x; dsimp -zeta only)
    | (extract_lets +onlyGivenNames x; refine kept_cut (cs := cs) x ?_ ?_; subst x; rotate_left; generalize x = y;
        clear x; intro _)
    | (extract_lets +onlyGivenNames x; generalize x = y; clear x)
    | (with_reducible refine ite_kept ?_ ?_)
    | (with_reducible apply State.sendCtl_kept)
    | (with_reducible apply State.updRun_kept)
    | (with_reducible apply State.gcount_kept)
    | (with_reducible apply State.setFld_kept)
    | (with_reducible apply State.setBcast_kept)
    | (with_reducible apply State.installFlow_kept)
    | split

theorem State.onAttachAck_kept {cs : Keep} {s : State} (h : s.Kept cs) : ∀ src m, State.Kept cs (State.onAttachAck s
    src m) := by
  intros
  unfold State.onAttachAck
  repeat' first
    | (with_reducible assumption)
    | (extract_lets +onlyGivenNames x; refine kept_cut (cs := cs) x ?_ ?_; subst x; rotate_left; generalize x = y;
        clear x; intro _)
    | (extract_lets +onlyGivenNames x; generalize x = y; clear x)
    | (with_reducible refine ite_kept ?_ ?_)
    | (with_reducible apply State.trySendReady_kept)
    | (with_reducible apply State.setFld_kept)
    | (with_reducible apply State.updRun_kept)
    | (with_reducible apply State.jobAttach_kept)
    | (with_reducible apply State.jobOrphan_kept)
    | (with_reducible apply State.setFcWindow_kept)
    | (with_reducible apply State.setBcast_kept)
    | (with_reducible apply State.bcastAsk_kept)
    | (with_reducible apply State.bcastAttach_kept)
    | split

theorem execAttachTimeout_kept {cs : Keep} {s : State} (h : s.Kept cs) : ∀ j handle, KeptO cs (execAttachTimeout j
    handle s) := by
  intros
  unfold execAttachTimeout
  repeat' first
    | (with_reducible assumption)
    | (with_reducible refine ite_kept ?_ ?_)
    | (with_reducible refine ite_keptO ?_ ?_)
    | (with_reducible refine kept_next ?_)
    | (with_reducible apply State.jobAttach_kept)
    | (with_reducible apply State.jobOrphan_kept)
    | (with_reducible apply State.bcastAttach_kept)
    | split

theorem execJobTreeAttachRetry_kept {cs : Keep} {s : State} (h : s.Kept cs) : ∀ j, KeptO cs (execJobTreeAttachRetry
    j s) := by
  intros
  unfold execJobTreeAttachRetry
  repeat' first
    | (with_reducible assumption)
    | intro _
    | (with_reducible refine ite_keptO ?_ ?_)
    | (with_reducible refine kept_next ?_)
    | (with_reducible apply State.sendCtl_kept)
    | (with_reducible refine foldl_kept ?_ ?_)
    | split

theorem State.onBreq_kept {cs : Keep} {s : State} (h : s.Kept cs) : ∀ src m, State.Kept cs (State.onBreq s src m) := by
  intros
  unfold State.onBreq
  repeat' first
    | (with_reducible assumption)
    | intro _
    | (extract_lets +onlyGivenNames x; refine kept_cut (cs := cs) x ?_ ?_; subst x; rotate_left; generalize x = y;
        clear x; intro _)
    | (extract_lets +onlyGivenNames x; generalize x = y; clear x)
    | (with_reducible apply State.gcount_kept)
    | (with_reducible apply State.bcastChunk_kept)
    | (with_reducible apply State.setBcast_kept)
    | (with_reducible refine foldl_kept ?_ ?_)
    | split

theorem State.onBdone_kept {cs : Keep} {s : State} (h : s.Kept cs) : ∀ src m, State.Kept cs (State.onBdone s src m) := by
  intros
  unfold State.onBdone
  repeat' first
    | (with_reducible assumption)
    | (with_reducible apply State.bcastStep_kept)
    | split

theorem execBcastChildLost_kept {cs : Keep} {s : State} (h : s.Kept cs) : ∀ j handle gid, KeptO cs
    (execBcastChildLost j handle gid s) := by
  intros
  unfold execBcastChildLost
  repeat' first
    | (with_reducible assumption)
    | (extract_lets +onlyGivenNames x; generalize x = y; clear x)
    | (with_reducible refine ite_keptO ?_ ?_)
    | (with_reducible refine kept_next ?_)
    | (with_reducible apply State.updRun_kept)
    | (with_reducible apply State.bcastStep_kept)
    | (with_reducible apply State.freeFlow_kept)
    | split

theorem execUnaccountedTimeout_kept {cs : Keep} {s : State} (h : s.Kept cs) : ∀ j handle gid, KeptO cs
    (execUnaccountedTimeout j handle gid s) := by
  intros
  unfold execUnaccountedTimeout
  repeat' first
    | (with_reducible assumption)
    | (extract_lets +onlyGivenNames x; generalize x = y; clear x)
    | (with_reducible refine kept_next ?_)
    | (with_reducible apply State.bcastStep_kept)
    | split

end Sys2Proof.Machine
end

