-- ==== Sys2Proof/Laws/KeptE.lean ====
section
/-! SUPPORT. What the operations of Machine/Hasp, Machine/Recovery keep (`State.Kept`): the queue, and the invariant. -/
namespace Sys2Proof.Machine

theorem execHaspChunkTimeout_kept {cs : Keep} {s : State} (h : s.Kept cs) : ∀ j p stripe, KeptO cs
    (execHaspChunkTimeout j p stripe s) := by
  intros
  unfold execHaspChunkTimeout
  repeat' first
    | (with_reducible assumption)
    | (with_reducible refine ite_keptO ?_ ?_)
    | (with_reducible refine kept_next ?_)
    | (with_reducible apply State.askChunk_kept)
    | split

theorem State.onHreq_kept {cs : Keep} {s : State} (h : s.Kept cs) : ∀ src m, State.Kept cs (State.onHreq s src m) := by
  intros
  unfold State.onHreq
  repeat' first
    | (with_reducible assumption)
    | (extract_lets +onlyGivenNames x; generalize x = y; clear x)
    | (with_reducible refine ite_kept ?_ ?_)
    | (with_reducible apply State.sendChunk_kept)
    | (with_reducible apply State.gcount_kept)
    | split

theorem State.sendHget_kept {cs : Keep} {s : State} (h : s.Kept cs) : ∀ j g b rank, State.Kept cs (State.sendHget s
    j g b rank) := by
  intros
  unfold State.sendHget
  repeat' first
    | (with_reducible assumption)
    | (with_reducible apply State.sendCtl_kept)

theorem State.stepRebuild_kept {cs : Keep} {s : State} (h : s.Kept cs) : ∀ j g b, State.Kept cs (State.stepRebuild s
    j g b).1 := by
  intros
  unfold State.stepRebuild
  repeat' first
    | (with_reducible assumption)
    | intro _
    | (extract_lets +onlyGivenNames x; generalize x = y; clear x)
    | (with_reducible refine ite_kept1 ?_ ?_)
    | (with_reducible apply State.gcount_kept)
    | (with_reducible apply State.sendHget_kept)
    | (with_reducible refine foldl_kept ?_ ?_)
    | split

theorem State.startRebuild_kept {cs : Keep} {s : State} (h : s.Kept cs) : ∀ j r g lsid part entry use epoch,
    State.Kept cs (State.startRebuild s j r g lsid part entry use epoch) := by
  intros
  unfold State.startRebuild
  repeat' first
    | (with_reducible assumption)
    | intro _
    | (extract_lets +onlyGivenNames x; generalize x = y; clear x)
    | (with_reducible apply State.stepRebuild_kept)
    | (with_reducible apply State.sendHget_kept)
    | (with_reducible refine foldl_kept ?_ ?_)
    | (with_reducible exact kept_mk (kept_fold (by assumption)))
    | (split; rename_i heq; refine kept_cut2 (cs := cs) heq ?_ ?_; rotate_left; (clear heq; intro _))
    | split

theorem State.installSeq_kept {cs : Keep} {s : State} (h : s.Kept cs) : ∀ l, State.Kept cs (State.installSeq s l) := by
  intros
  unfold State.installSeq
  repeat' first
    | (with_reducible assumption)
    | (extract_lets +onlyGivenNames x; refine kept_cut (cs := cs) x ?_ ?_; subst x; rotate_left; generalize x = y;
        clear x; intro _)
    | (extract_lets +onlyGivenNames x; generalize x = y; clear x)
    | (with_reducible refine ite_kept ?_ ?_)
    | (with_reducible apply State.setFld_kept)
    | (with_reducible apply State.setFcWindow_kept)

theorem State.installImage_kept {cs : Keep} {s : State} (h : s.Kept cs) : ∀ p e img, State.Kept cs
    (State.installImage s p e img) := by
  intros
  unfold State.installImage
  repeat' first
    | (with_reducible assumption)
    | intro _
    | (extract_lets +onlyGivenNames x; refine kept_cut (cs := cs) x ?_ ?_; subst x; rotate_left; generalize x = y;
        clear x; intro _)
    | (extract_lets +onlyGivenNames x; generalize x = y; clear x)
    | (with_reducible apply State.setFld_kept)
    | (with_reducible apply State.installSeq_kept)
    | (with_reducible apply State.wrDatum_kept)
    | (with_reducible apply State.killIssued_kept)
    | (with_reducible apply State.clearShard_kept)
    | (with_reducible refine foldl_kept ?_ ?_)
    | (with_reducible refine forRange_kept ?_ ?_)

theorem State.logKeep_kept {cs : Keep} {s : State} (h : s.Kept cs) : ∀ p f, State.Kept cs (State.logKeep s p f) := by
  intros
  unfold State.logKeep
  repeat' first
    | (with_reducible assumption)
    | intro _
    | (extract_lets +onlyGivenNames x; refine kept_cut (cs := cs) x ?_ ?_; subst x; rotate_left; generalize x = y;
        clear x; intro _)
    | (extract_lets +onlyGivenNames x; generalize x = y; clear x)
    | (with_reducible apply State.wrDatum_kept)
    | (with_reducible apply State.setFld_kept)
    | (with_reducible apply State.logShow_kept)
    | (with_reducible refine foldl_kept ?_ ?_)
    | (with_reducible exact kept_mk (kept_fold (by assumption)))

theorem State.logsKeep_kept {cs : Keep} {s : State} (h : s.Kept cs) : ∀ j f, State.Kept cs (State.logsKeep s j f) := by
  intros
  unfold State.logsKeep
  repeat' first
    | (with_reducible assumption)
    | intro _
    | (with_reducible apply State.logKeep_kept)
    | (with_reducible refine foldl_kept ?_ ?_)

theorem State.setRestore_kept {cs : Keep} {s : State} (h : s.Kept cs) : ∀ j r, State.Kept cs (State.setRestore s j r) := by
  intros
  unfold State.setRestore
  repeat' first
    | (with_reducible exact kept_mk (kept_fold (by assumption)))

theorem State.restoreSlots_kept {cs : Keep} {s : State} (h : s.Kept cs) : ∀ j e shape, State.Kept cs
    (State.restoreSlots s j e shape) := by
  intros
  unfold State.restoreSlots
  repeat' first
    | (with_reducible assumption)
    | intro _
    | (with_reducible refine ite_kept ?_ ?_)
    | (with_reducible apply State.moveSlot_kept)
    | (with_reducible refine foldl_kept ?_ ?_)

theorem State.restart_kept {cs : Keep} {s : State} (h : s.Kept cs) : ∀ j e, State.Kept cs (State.restart s j e) := by
  intros
  unfold State.restart
  repeat' first
    | (with_reducible assumption)
    | (extract_lets +onlyGivenNames x; refine kept_cut (cs := cs) x ?_ ?_; subst x; rotate_left; generalize x = y;
        clear x; intro _)
    | (extract_lets +onlyGivenNames x; generalize x = y; clear x)
    | (with_reducible apply State.setFld_kept)
    | (with_reducible apply State.setPhase_kept)
    | (with_reducible apply State.updRun_kept)
    | (with_reducible exact kept_mk (kept_fold (by assumption)))

theorem State.loadEntries_kept {cs : Keep} {s : State} (h : s.Kept cs) : ∀ l, State.Kept cs (State.loadEntries s l) := by
  intros
  unfold State.loadEntries
  repeat' first
    | (with_reducible assumption)
    | intro _
    | (with_reducible apply State.killIssued_kept)
    | (with_reducible apply State.setFld_kept)
    | (with_reducible refine foldl_kept ?_ ?_)

theorem State.applyPick_kept {cs : Keep} {s : State} (h : s.Kept cs) : ∀ j e unmatched, State.Kept cs
    (State.applyPick s j e unmatched) := by
  intros
  unfold State.applyPick
  repeat' first
    | (with_reducible assumption)
    | intro _
    | (extract_lets +onlyGivenNames x; refine kept_cut (cs := cs) x ?_ ?_; subst x; rotate_left; generalize x = y;
        clear x; intro _)
    | (extract_lets +onlyGivenNames x; generalize x = y; clear x)
    | (with_reducible refine ite_kept ?_ ?_)
    | (with_reducible apply State.logsKeep_kept)
    | (with_reducible apply State.endWith_kept)
    | (with_reducible apply State.setRestore_kept)
    | (with_reducible apply State.loadEntries_kept)
    | (with_reducible apply State.startRebuild_kept)
    | (with_reducible refine foldl_kept ?_ ?_)
    | split

theorem State.trySendUse_kept {cs : Keep} {s : State} (h : s.Kept cs) : ∀ j, State.Kept cs (State.trySendUse s j) := by
  intros
  unfold State.trySendUse
  repeat' first
    | (with_reducible assumption)
    | (extract_lets +onlyGivenNames x; refine kept_cut (cs := cs) x ?_ ?_; subst x; rotate_left; generalize x = y;
        clear x; intro _)
    | (extract_lets +onlyGivenNames x; generalize x = y; clear x)
    | (with_reducible refine ite_kept ?_ ?_)
    | (with_reducible apply State.setRestore_kept)
    | (with_reducible apply State.sendCtl_kept)
    | (with_reducible apply State.applyPick_kept)
    | (with_reducible apply State.sendDown_kept)
    | split

theorem State.takeRestoreMsg_kept {cs : Keep} {s : State} (h : s.Kept cs) : ∀ src m, State.Kept cs
    (State.takeRestoreMsg s src m) := by
  intros
  unfold State.takeRestoreMsg
  repeat' first
    | (with_reducible assumption)
    | (extract_lets +onlyGivenNames x; generalize x = y; clear x)
    | (with_reducible refine ite_kept ?_ ?_)
    | (with_reducible apply State.trySendUse_kept)
    | (with_reducible apply State.setRestore_kept)
    | (with_reducible exact kept_mk (kept_fold (by assumption)))
    | split

theorem State.onHsum_kept {cs : Keep} {s : State} (h : s.Kept cs) : ∀ src m, State.Kept cs (State.onHsum s src m) := by
  intros
  unfold State.onHsum
  repeat' first
    | (with_reducible assumption)
    | (with_reducible apply State.takeRestoreMsg_kept)

theorem State.onHuse_kept {cs : Keep} {s : State} (h : s.Kept cs) : ∀ src m, State.Kept cs (State.onHuse s src m) := by
  intros
  unfold State.onHuse
  repeat' first
    | (with_reducible assumption)
    | (with_reducible apply State.takeRestoreMsg_kept)

theorem State.onHpick_kept {cs : Keep} {s : State} (h : s.Kept cs) : ∀ src m, State.Kept cs (State.onHpick s src m) := by
  intros
  unfold State.onHpick
  repeat' first
    | (with_reducible assumption)
    | (extract_lets +onlyGivenNames x; generalize x = y; clear x)
    | (with_reducible refine ite_kept ?_ ?_)
    | (with_reducible apply State.applyPick_kept)
    | (with_reducible apply State.sendDown_kept)
    | split

theorem execOpHaspRestore_kept {cs : Keep} {s : State} (h : s.Kept cs) : ∀ f, KeptO cs (execOpHaspRestore f s) := by
  intros
  unfold execOpHaspRestore
  repeat' first
    | (with_reducible assumption)
    | intro _
    | (extract_lets +onlyGivenNames x; refine kept_cut (cs := cs) x ?_ ?_; subst x; rotate_left; generalize x = y;
        clear x; intro _)
    | (extract_lets +onlyGivenNames x; generalize x = y; clear x)
    | (with_reducible refine ite_kept ?_ ?_)
    | (with_reducible refine ite_keptO ?_ ?_)
    | (with_reducible refine kept_next ?_)
    | (with_reducible apply State.submit_kept)
    | (with_reducible apply State.abortArg_kept)
    | (with_reducible apply State.endWith_kept)
    | (with_reducible apply State.setRestore_kept)
    | (with_reducible apply State.takeRestoreMsg_kept)
    | (with_reducible apply State.sendCtl_kept)
    | (with_reducible apply State.trySendUse_kept)
    | (with_reducible refine foldl_kept ?_ ?_)
    | (with_reducible exact kept_mk (kept_fold (by assumption)))
    | (split; rename_i heq; refine kept_cut2 (cs := cs) heq ?_ ?_; rotate_left; (clear heq; intro _))
    | split
    | (with_reducible refine kept_fst ‹_ = (_, _)› ?_)

theorem execHaspRebuildComplete_kept {cs : Keep} {s : State} (h : s.Kept cs) : ∀ j, KeptO cs
    (execHaspRebuildComplete j s) := by
  intros
  unfold execHaspRebuildComplete
  repeat' first
    | (with_reducible assumption)
    | intro _
    | (extract_lets +onlyGivenNames x; refine kept_cut (cs := cs) x ?_ ?_; subst x; rotate_left; generalize x = y;
        clear x; intro _)
    | (extract_lets +onlyGivenNames x; generalize x = y; clear x)
    | (with_reducible refine ite_keptO ?_ ?_)
    | (with_reducible refine kept_next ?_)
    | (with_reducible apply State.setFld_kept)
    | (with_reducible apply State.installImage_kept)
    | (with_reducible apply State.restart_kept)
    | (with_reducible apply State.restoreSlots_kept)
    | (with_reducible apply State.endWith_kept)
    | (with_reducible apply State.setRestore_kept)
    | (with_reducible refine foldl_kept ?_ ?_)
    | (with_reducible exact kept_mk (kept_fold (by assumption)))
    | split

theorem State.onHget_kept {cs : Keep} {s : State} (h : s.Kept cs) : ∀ src m, State.Kept cs (State.onHget s src m) := by
  intros
  unfold State.onHget
  repeat' first
    | (with_reducible assumption)
    | (extract_lets +onlyGivenNames x; generalize x = y; clear x)
    | (with_reducible apply State.sendContUnits_kept)
    | split

theorem State.pinSlots_kept {cs : Keep} {s : State} (h : s.Kept cs) : ∀ j e v, State.Kept cs (State.pinSlots s j e v) := by
  intros
  unfold State.pinSlots
  repeat' first
    | (with_reducible assumption)
    | intro _
    | (with_reducible refine ite_kept ?_ ?_)
    | (with_reducible apply State.setFld_kept)
    | (with_reducible refine foldl_kept ?_ ?_)

theorem State.sendObject_kept {cs : Keep} {s : State} (h : s.Kept cs) : ∀ dst j lsid key l, State.Kept cs
    (State.sendObject s dst j lsid key l) := by
  intros
  unfold State.sendObject
  repeat' first
    | (with_reducible assumption)
    | intro _
    | (extract_lets +onlyGivenNames x; generalize x = y; clear x)
    | (with_reducible apply State.sendPkt_kept)
    | (with_reducible refine forRange_kept ?_ ?_)

theorem State.endDrain_kept {cs : Keep} {s : State} (h : s.Kept cs) : ∀ o status results, State.Kept cs
    (State.endDrain s o status results) := by
  intros
  unfold State.endDrain
  repeat' first
    | (with_reducible assumption)
    | (extract_lets +onlyGivenNames x; refine kept_cut (cs := cs) x ?_ ?_; subst x; rotate_left; generalize x = y;
        clear x; intro _)
    | (extract_lets +onlyGivenNames x; generalize x = y; clear x)
    | (with_reducible apply State.endWith_kept)
    | (with_reducible apply State.pinSlots_kept)
    | (with_reducible exact kept_mk (kept_fold (by assumption)))

theorem State.drainShard_kept {cs : Keep} {s : State} (h : s.Kept cs) : ∀ j r b, State.Kept cs (State.drainShard s j
    r b) := by
  intros
  unfold State.drainShard
  repeat' first
    | (with_reducible assumption)
    | intro _
    | (extract_lets +onlyGivenNames x; refine kept_cut (cs := cs) x ?_ ?_; subst x; rotate_left; generalize x = y;
        clear x; intro _)
    | (extract_lets +onlyGivenNames x; generalize x = y; clear x)
    | (with_reducible refine ite_kept ?_ ?_)
    | (with_reducible apply State.endDrain_kept)
    | (with_reducible apply State.emit_kept)
    | (with_reducible apply State.sendObject_kept)
    | (with_reducible apply State.setPhaseOp_kept)
    | (with_reducible refine foldl_kept ?_ ?_)
    | (with_reducible exact kept_mk (kept_fold (by assumption)))
    | split

theorem execOpHaspDrain_kept {cs : Keep} {s : State} (h : s.Kept cs) : ∀ f bufs, KeptO cs (execOpHaspDrain f bufs s) := by
  intros
  unfold execOpHaspDrain
  repeat' first
    | (with_reducible assumption)
    | intro _
    | (extract_lets +onlyGivenNames x; refine kept_cut (cs := cs) x ?_ ?_; subst x; rotate_left; generalize x = y;
        clear x; intro _)
    | (extract_lets +onlyGivenNames x; generalize x = y; clear x)
    | (with_reducible refine ite_keptO ?_ ?_)
    | (with_reducible refine kept_next ?_)
    | (with_reducible apply State.submit_kept)
    | (with_reducible apply State.abortArg_kept)
    | (with_reducible apply State.endWith_kept)
    | (with_reducible apply State.pinSlots_kept)
    | (with_reducible apply State.endDrain_kept)
    | (with_reducible apply State.startRebuild_kept)
    | (with_reducible refine foldl_kept ?_ ?_)
    | (split; rename_i heq; refine kept_cut2 (cs := cs) heq ?_ ?_; rotate_left; (clear heq; intro _))
    | split
    | (with_reducible refine kept_fst ‹_ = (_, _)› ?_)
    | (with_reducible exact kept_mk (kept_fold (kept_fst (by assumption) (State.submit_kept (by assumption) _ _))))

theorem execDrainTimeout_kept {cs : Keep} {s : State} (h : s.Kept cs) : ∀ j, KeptO cs (execDrainTimeout j s) := by
  intros
  unfold execDrainTimeout
  repeat' first
    | (with_reducible assumption)
    | (with_reducible refine kept_next ?_)
    | (with_reducible apply State.endDrain_kept)
    | split

theorem State.rebuildEnded_kept {cs : Keep} {s : State} (h : s.Kept cs) : ∀ j r b, State.Kept cs (State.rebuildEnded
    s j r b) := by
  intros
  unfold State.rebuildEnded
  repeat' first
    | (with_reducible assumption)
    | (extract_lets +onlyGivenNames x; refine kept_cut (cs := cs) x ?_ ?_; subst x; rotate_left; generalize x = y;
        clear x; intro _)
    | (with_reducible refine ite_kept ?_ ?_)
    | (with_reducible apply State.drainShard_kept)
    | (with_reducible apply State.meetRollback_kept)
    | (with_reducible apply State.endWith_kept)
    | (with_reducible apply State.setRestore_kept)
    | (with_reducible exact kept_mk (kept_fold (by assumption)))
    | split

theorem State.hgetPacket_kept {cs : Keep} {s : State} (h : s.Kept cs) : ∀ j rank lsid off l, State.Kept cs
    (State.hgetPacket s j rank lsid off l) := by
  intros
  unfold State.hgetPacket
  repeat' first
    | (with_reducible assumption)
    | intro _
    | (extract_lets +onlyGivenNames x; generalize x = y; clear x)
    | (with_reducible refine ite_kept ?_ ?_)
    | (with_reducible apply State.rebuildEnded_kept)
    | (with_reducible refine foldl_kept ?_ ?_)
    | (with_reducible exact kept_mk (kept_fold (by assumption)))
    | split
    | (with_reducible exact kept_mk (kept_fold (State.stepRebuild_kept (by assumption) _ _ _)))

theorem execOpDurableRestore_kept {cs : Keep} {s : State} (h : s.Kept cs) : ∀ f objs, KeptO cs (execOpDurableRestore
    f objs s) := by
  intros
  unfold execOpDurableRestore
  repeat' first
    | (with_reducible assumption)
    | intro _
    | (extract_lets +onlyGivenNames x; refine kept_cut (cs := cs) x ?_ ?_; subst x; rotate_left; generalize x = y;
        clear x; intro _)
    | (extract_lets +onlyGivenNames x; generalize x = y; clear x)
    | (with_reducible refine ite_keptO ?_ ?_)
    | (with_reducible refine kept_next ?_)
    | (with_reducible apply State.submit_kept)
    | (with_reducible apply State.abortArg_kept)
    | (with_reducible apply State.endWith_kept)
    | (with_reducible apply State.loadEntries_kept)
    | (with_reducible apply State.logsKeep_kept)
    | (with_reducible apply State.setFld_kept)
    | (with_reducible apply State.installImage_kept)
    | (with_reducible apply State.moveSlot_kept)
    | (with_reducible apply State.restart_kept)
    | (with_reducible refine foldl_kept ?_ ?_)
    | (split; rename_i heq; refine kept_cut2 (cs := cs) heq ?_ ?_; rotate_left; (clear heq; intro _))
    | split
    | (with_reducible refine kept_fst ‹_ = (_, _)› ?_)

theorem State.deadbolt_kept {cs : Keep} {s : State} (h : s.Kept cs) : ∀ j gid, State.Kept cs (State.deadbolt s j gid) := by
  intros
  unfold State.deadbolt
  repeat' first
    | (with_reducible assumption)
    | (extract_lets +onlyGivenNames x; refine kept_cut (cs := cs) x ?_ ?_; subst x; rotate_left; generalize x = y;
        clear x; intro _)
    | (extract_lets +onlyGivenNames x; generalize x = y; clear x)
    | (with_reducible refine ite_kept ?_ ?_)
    | (with_reducible apply State.sendCtl_kept)
    | (with_reducible apply State.gcount_kept)
    | (with_reducible exact kept_mk (kept_fold (by assumption)))

theorem State.control_kept {cs : Keep} {s : State} {f : State → State} (hf : ∀ t, t.Kept cs → (f t).Kept cs) (h :
    s.Kept cs) : ∀ src j, State.Kept cs (State.control s src j f) := by
  intros
  unfold State.control
  repeat' first
    | (with_reducible assumption)
    | (with_reducible refine ite_kept ?_ ?_)
    | (with_reducible apply hf)
    | (with_reducible apply State.deadbolt_kept)

theorem State.enterFenced_kept {cs : Keep} {s : State} (h : s.Kept cs) : ∀ j gen jobId, State.Kept cs
    (State.enterFenced s j gen jobId) := by
  intros
  unfold State.enterFenced
  repeat' first
    | (with_reducible assumption)
    | intro _
    | (extract_lets +onlyGivenNames x; refine kept_cut (cs := cs) x ?_ ?_; subst x; rotate_left; generalize x = y;
        clear x; intro _)
    | (extract_lets +onlyGivenNames x; generalize x = y; clear x)
    | (with_reducible refine ite_kept ?_ ?_)
    | (with_reducible apply State.setFld_kept)
    | (with_reducible apply State.freeEntry_kept)
    | (with_reducible apply State.ctxReset_kept)
    | (with_reducible apply State.syncHealth_kept)
    | (with_reducible apply State.healthRec_kept)
    | (with_reducible apply State.event_kept)
    | (with_reducible apply State.sbAlert_kept)
    | (with_reducible refine foldl_kept ?_ ?_)
    | (with_reducible refine forRange_kept ?_ ?_)
    | (with_reducible exact kept_mk (kept_fold (by assumption)))

theorem execDeadbolt_kept {cs : Keep} {s : State} (h : s.Kept cs) : ∀ src m, KeptO cs (execDeadbolt src m s) := by
  intros
  unfold execDeadbolt
  repeat' first
    | (with_reducible assumption)
    | intro _
    | (extract_lets +onlyGivenNames x; refine kept_cut (cs := cs) x ?_ ?_; subst x; rotate_left; generalize x = y;
        clear x; intro _)
    | (extract_lets +onlyGivenNames x; generalize x = y; clear x)
    | (with_reducible refine ite_kept ?_ ?_)
    | (with_reducible refine kept_next ?_)
    | (with_reducible apply State.control_kept)
    | (with_reducible apply State.gcount_kept)
    | (with_reducible apply State.enterFenced_kept)

theorem execGhbSend_kept {cs : Keep} {s : State} (h : s.Kept cs) : ∀ j, KeptO cs (execGhbSend j s) := by
  intros
  unfold execGhbSend
  repeat' first
    | (with_reducible assumption)
    | intro _
    | (extract_lets +onlyGivenNames x; generalize x = y; clear x)
    | (with_reducible refine kept_next ?_)
    | (with_reducible apply State.sendCtl_kept)
    | (with_reducible refine foldl_kept ?_ ?_)
    | split

theorem execGhb_kept {cs : Keep} {s : State} (h : s.Kept cs) : ∀ src m, KeptO cs (execGhb src m s) := by
  intros
  unfold execGhb
  repeat' first
    | (with_reducible assumption)
    | intro _
    | (extract_lets +onlyGivenNames x; generalize x = y; clear x)
    | (with_reducible refine kept_next ?_)
    | (with_reducible apply State.control_kept)
    | (with_reducible exact kept_mk (kept_fold (by assumption)))

theorem execGhbMiss_kept {cs : Keep} {s : State} (h : s.Kept cs) : ∀ j gid, KeptO cs (execGhbMiss j gid s) := by
  intros
  unfold execGhbMiss
  repeat' first
    | (with_reducible assumption)
    | (with_reducible refine ite_keptO ?_ ?_)
    | (with_reducible refine kept_next ?_)
    | (with_reducible apply State.emit_kept)
    | (with_reducible exact kept_mk (kept_fold (by assumption)))
    | split

theorem execSilenceReportRepeat_kept {cs : Keep} {s : State} (h : s.Kept cs) : ∀ j gid, KeptO cs
    (execSilenceReportRepeat j gid s) := by
  intros
  unfold execSilenceReportRepeat
  repeat' first
    | (with_reducible assumption)
    | (with_reducible refine ite_keptO ?_ ?_)
    | (with_reducible refine kept_next ?_)
    | (with_reducible apply State.emit_kept)
    | (with_reducible exact kept_mk (kept_fold (by assumption)))
    | split

theorem State.globalRollback_kept {cs : Keep} {s : State} (h : s.Kept cs) : ∀ j cause, State.Kept cs
    (State.globalRollback s j cause) := by
  intros
  unfold State.globalRollback
  repeat' first
    | (with_reducible assumption)
    | intro _
    | (extract_lets +onlyGivenNames x; refine kept_cut (cs := cs) x ?_ ?_; subst x; rotate_left; generalize x = y;
        clear x; intro _)
    | (extract_lets +onlyGivenNames x; generalize x = y; clear x)
    | (with_reducible refine ite_kept ?_ ?_)
    | (with_reducible apply State.gcount_kept)
    | (with_reducible apply State.noteRollback_kept)
    | (with_reducible apply State.setFld_kept)
    | (with_reducible apply State.discard_kept)
    | (with_reducible apply State.clearRegs_kept)
    | (with_reducible apply State.updRun_kept)
    | (with_reducible refine foldl_kept ?_ ?_)
    | (with_reducible exact kept_mk (kept_fold (by assumption)))
    | split

theorem execRabort_kept {cs : Keep} {s : State} (h : s.Kept cs) : ∀ src m, KeptO cs (execRabort src m s) := by
  intros
  unfold execRabort
  repeat' first
    | (with_reducible assumption)
    | intro _
    | (extract_lets +onlyGivenNames x; generalize x = y; clear x)
    | (with_reducible refine ite_kept ?_ ?_)
    | (with_reducible refine kept_next ?_)
    | (with_reducible apply State.control_kept)
    | (with_reducible apply State.globalRollback_kept)
    | (with_reducible apply State.sendDown_kept)
    | (with_reducible apply State.sendUp_kept)

theorem State.writeRekey_kept {cs : Keep} {s : State} (h : s.Kept cs) : ∀ j lsid gid part entry, State.Kept cs
    (State.writeRekey s j lsid gid part entry) := by
  intros
  unfold State.writeRekey
  repeat' first
    | (with_reducible assumption)
    | (extract_lets +onlyGivenNames x; refine kept_cut (cs := cs) x ?_ ?_; subst x; rotate_left; generalize x = y;
        clear x; intro _)
    | (extract_lets +onlyGivenNames x; generalize x = y; clear x)
    | (with_reducible apply State.setReg64_kept)
    | (with_reducible exact kept_mk (kept_fold (by assumption)))

theorem State.divertLost_kept {cs : Keep} {s : State} (h : s.Kept cs) : ∀ j lost r, State.Kept cs (State.divertLost
    s j lost r) := by
  intros
  unfold State.divertLost
  repeat' first
    | (with_reducible assumption)
    | intro _
    | (with_reducible apply State.setFld_kept)
    | (with_reducible refine foldl_kept ?_ ?_)

theorem State.sendHold_kept {cs : Keep} {s : State} (h : s.Kept cs) : ∀ j, State.Kept cs (State.sendHold s j) := by
  intros
  unfold State.sendHold
  repeat' first
    | (with_reducible assumption)
    | (extract_lets +onlyGivenNames x; refine kept_cut (cs := cs) x ?_ ?_; subst x; rotate_left; generalize x = y;
        clear x; intro _)
    | (with_reducible apply State.updRun_kept)
    | (with_reducible apply State.hingeTrace_kept)
    | (with_reducible apply State.setPhase_kept)
    | (with_reducible apply State.sendCtl_kept)
    | split

theorem State.recoverGen_kept {cs : Keep} {s : State} (h : s.Kept cs) : ∀ j c, State.Kept cs (State.recoverGen s j c) := by
  intros
  unfold State.recoverGen
  repeat' first
    | (with_reducible assumption)
    | intro _
    | (extract_lets +onlyGivenNames x; refine kept_cut (cs := cs) x ?_ ?_; subst x; rotate_left; generalize x = y;
        clear x; intro _)
    | (extract_lets +onlyGivenNames x; generalize x = y; clear x)
    | (with_reducible apply State.setFld_kept)
    | (with_reducible apply State.updRun_kept)
    | (with_reducible apply State.setReg_kept)
    | (with_reducible refine forRange_kept ?_ ?_)
    | split

theorem State.dropImage_kept {cs : Keep} {s : State} (h : s.Kept cs) : ∀ j, State.Kept cs (State.dropImage s j) := by
  intros
  unfold State.dropImage
  repeat' first
    | (with_reducible assumption)
    | intro _
    | (extract_lets +onlyGivenNames x; refine kept_cut (cs := cs) x ?_ ?_; subst x; rotate_left; generalize x = y;
        clear x; intro _)
    | (with_reducible refine ite_kept ?_ ?_)
    | (with_reducible apply State.endOps_kept)
    | (with_reducible apply State.copyBank_kept)
    | (with_reducible apply State.setFld_kept)
    | (with_reducible apply State.updRun_kept)
    | (with_reducible refine foldl_kept ?_ ?_)
    | split

theorem State.recoverSwap_kept {cs : Keep} {s : State} (h : s.Kept cs) : ∀ j c, State.Kept cs (State.recoverSwap s j c) := by
  intros
  unfold State.recoverSwap
  repeat' first
    | (with_reducible assumption)
    | (extract_lets +onlyGivenNames x; refine kept_cut (cs := cs) x ?_ ?_; subst x; rotate_left; generalize x = y;
        clear x; intro _)
    | (extract_lets +onlyGivenNames x; generalize x = y; clear x)
    | (with_reducible refine ite_kept ?_ ?_)
    | (with_reducible apply State.swapTables_kept)
    | (with_reducible apply State.rejectSwap_kept)
    | (with_reducible apply State.swapBank_kept)
    | (with_reducible apply State.copyBank_kept)
    | (with_reducible apply State.updRun_kept)
    | (with_reducible apply State.setFld_kept)

theorem State.installShardFlows_kept {cs : Keep} {s : State} (h : s.Kept cs) : ∀ j x, State.Kept cs
    (State.installShardFlows s j x) := by
  intros
  unfold State.installShardFlows
  repeat' first
    | (with_reducible assumption)
    | intro _
    | (extract_lets +onlyGivenNames x; generalize x = y; clear x)
    | (with_reducible refine ite_kept ?_ ?_)
    | (with_reducible apply State.setFld_kept)
    | (with_reducible apply State.endOps_kept)
    | (with_reducible apply State.assignPlanes_kept)
    | (with_reducible apply State.countFlows_kept)
    | (with_reducible apply State.writeFlow_kept)
    | (with_reducible refine foldl_kept ?_ ?_)

theorem State.sendFsync_kept {cs : Keep} {s : State} (h : s.Kept cs) : ∀ j gid x, State.Kept cs (State.sendFsync s j
    gid x) := by
  intros
  unfold State.sendFsync
  repeat' first
    | (with_reducible assumption)
    | intro _
    | (extract_lets +onlyGivenNames x; generalize x = y; clear x)
    | (with_reducible refine ite_kept ?_ ?_)
    | (with_reducible apply State.sendCtl_kept)
    | (with_reducible refine foldl_kept ?_ ?_)
    | split

theorem State.rehostShard_kept {cs : Keep} {s : State} (h : s.Kept cs) : ∀ j g replica rollback x rank p e,
    State.Kept cs (State.rehostShard s j g replica rollback x rank p e) := by
  intros
  unfold State.rehostShard
  repeat' first
    | (with_reducible assumption)
    | (extract_lets +onlyGivenNames x; refine kept_cut (cs := cs) x ?_ ?_; subst x; rotate_left; generalize x = y;
        clear x; intro _)
    | (extract_lets +onlyGivenNames x; generalize x = y; clear x)
    | (with_reducible refine ite_kept ?_ ?_)
    | (with_reducible apply State.writeRekey_kept)
    | (with_reducible apply State.updRun_kept)
    | (with_reducible apply State.sendFsync_kept)
    | (with_reducible apply State.setFld_kept)
    | (with_reducible apply State.installShardFlows_kept)
    | (with_reducible apply State.sendCtl_kept)
    | (with_reducible apply State.meetRollback_kept)
    | (with_reducible apply State.startRebuild_kept)
    | (with_reducible exact kept_mk (kept_fold (by assumption)))
    | split

theorem State.resumeParked_kept {cs : Keep} {s : State} (h : s.Kept cs) : ∀ j, State.Kept cs (State.resumeParked s j) := by
  intros
  unfold State.resumeParked
  repeat' first
    | (with_reducible assumption)
    | intro _
    | (extract_lets +onlyGivenNames x; refine kept_cut (cs := cs) x ?_ ?_; subst x; rotate_left; generalize x = y;
        clear x; intro _)
    | (extract_lets +onlyGivenNames x; generalize x = y; clear x)
    | (with_reducible apply State.setFld_kept)
    | (with_reducible apply State.meetRollback_kept)
    | (with_reducible apply State.detect_kept)
    | (with_reducible apply State.flagN_kept)
    | (with_reducible refine foldl_kept ?_ ?_)
    | (with_reducible exact kept_mk (kept_fold (by assumption)))
    | split

theorem State.enterHold_kept {cs : Keep} {s : State} (h : s.Kept cs) : ∀ j, State.Kept cs (State.enterHold s j) := by
  intros
  unfold State.enterHold
  repeat' first
    | (with_reducible assumption)
    | (extract_lets +onlyGivenNames x; refine kept_cut (cs := cs) x ?_ ?_; subst x; rotate_left; generalize x = y;
        clear x; intro _)
    | (with_reducible refine ite_kept ?_ ?_)
    | (with_reducible apply State.setFld_kept)
    | (with_reducible apply State.endOps_kept)

theorem State.answerRcopy_kept {cs : Keep} {s : State} (h : s.Kept cs) : ∀ src m, State.Kept cs (State.answerRcopy s
    src m) := by
  intros
  unfold State.answerRcopy
  repeat' first
    | (with_reducible assumption)
    | (extract_lets +onlyGivenNames x; generalize x = y; clear x)
    | (with_reducible refine ite_kept ?_ ?_)
    | (with_reducible apply State.sendContUnits_kept)
    | split

theorem State.applyFsync_kept {cs : Keep} {s : State} (h : s.Kept cs) : ∀ m, State.Kept cs (State.applyFsync s m) := by
  intros
  unfold State.applyFsync
  repeat' first
    | (with_reducible assumption)
    | (extract_lets +onlyGivenNames x; refine kept_cut (cs := cs) x ?_ ?_; subst x; rotate_left; generalize x = y;
        clear x; intro _)
    | (extract_lets +onlyGivenNames x; generalize x = y; clear x)
    | (with_reducible refine ite_kept ?_ ?_)
    | (with_reducible apply State.setFld_kept)
    | (with_reducible apply State.setFcWindow_kept)

theorem State.drainRecovery_kept {cs : Keep} {s : State} (h : s.Kept cs) : ∀ j, State.Kept cs (State.drainRecovery s j) := by
  intros
  unfold State.drainRecovery
  repeat' first
    | (with_reducible assumption)
    | intro _
    | (extract_lets +onlyGivenNames x; generalize x = y; clear x)
    | (with_reducible refine ite_kept ?_ ?_)
    | (with_reducible apply State.answerRcopy_kept)
    | (with_reducible apply State.applyFsync_kept)
    | (with_reducible refine foldl_kept ?_ ?_)
    | (with_reducible exact kept_mk (kept_fold (by assumption)))

theorem State.recoverPlace_kept {cs : Keep} {s : State} (h : s.Kept cs) : ∀ j c peers, State.Kept cs
    (State.recoverPlace s j c peers).1 := by
  intros
  unfold State.recoverPlace
  repeat' first
    | (with_reducible assumption)
    | intro _
    | (extract_lets +onlyGivenNames x; refine kept_cut (cs := cs) x ?_ ?_; subst x; rotate_left; generalize x = y;
        clear x; intro _)
    | (extract_lets +onlyGivenNames x; generalize x = y; clear x)
    | (with_reducible refine ite_kept ?_ ?_)
    | (with_reducible apply State.recoverSwap_kept)
    | (with_reducible apply State.rehostShard_kept)
    | (with_reducible apply State.setFld_kept)
    | (with_reducible apply State.resumeParked_kept)
    | (with_reducible refine foldl_kept ?_ ?_)
    | split

theorem State.recoverOn_kept {cs : Keep} {s : State} (h : s.Kept cs) : ∀ j c, State.Kept cs (State.recoverOn s j c) := by
  intros
  unfold State.recoverOn
  repeat' first
    | (with_reducible assumption)
    | (extract_lets +onlyGivenNames x; refine kept_cut (cs := cs) x ?_ ?_; subst x; rotate_left; generalize x = y;
        clear x; intro _)
    | (with_reducible refine ite_kept ?_ ?_)
    | (with_reducible apply State.freezeStretch_kept)
    | (with_reducible apply State.updRun_kept)
    | (with_reducible apply State.meetRollback_kept)
    | (with_reducible apply State.setFld_kept)
    | (with_reducible apply State.sendHold_kept)
    | (with_reducible apply State.trySendReady_kept)
    | (with_reducible apply State.drainRecovery_kept)
    | split

theorem State.recover_kept {cs : Keep} {s : State} (h : s.Kept cs) : ∀ j c peers, State.Kept cs (State.recover s j c
    peers) := by
  intros
  unfold State.recover
  repeat' first
    | (with_reducible assumption)
    | (extract_lets +onlyGivenNames x; refine kept_cut (cs := cs) x ?_ ?_; subst x; rotate_left; generalize x = y;
        clear x; intro _)
    | (with_reducible refine ite_kept ?_ ?_)
    | (with_reducible apply State.recoverGen_kept)
    | (with_reducible apply State.dropImage_kept)
    | (with_reducible apply State.recoverPlace_kept)
    | (with_reducible apply State.recoverOn_kept)
    | (with_reducible apply State.sendHold_kept)
    | (with_reducible apply State.enterHold_kept)

theorem State.recoveryHinge_kept {cs : Keep} {s : State} (h : s.Kept cs) : ∀ j dynJ c peers r, State.Kept cs
    (State.recoveryHinge s j dynJ c peers r) := by
  intros
  unfold State.recoveryHinge
  repeat' first
    | (with_reducible assumption)
    | intro _
    | (extract_lets +onlyGivenNames x; refine kept_cut (cs := cs) x ?_ ?_; subst x; rotate_left; generalize x = y;
        clear x; intro _)
    | (extract_lets +onlyGivenNames x; generalize x = y; clear x)
    | (with_reducible refine ite_kept ?_ ?_)
    | (with_reducible apply State.flipSlots_kept)
    | (with_reducible apply State.endStep_kept)
    | (with_reducible apply State.recoverGen_kept)
    | (with_reducible apply State.dropImage_kept)
    | (with_reducible apply State.recoverPlace_kept)
    | (with_reducible apply State.item5_kept)
    | (with_reducible apply State.hingeGuards_kept)
    | (with_reducible apply State.item6_kept)
    | (with_reducible apply State.item7_kept)
    | (with_reducible apply State.takeEarly_kept)
    | (with_reducible apply State.markArrived_kept)
    | (with_reducible apply State.recoverOn_kept)
    | (with_reducible apply State.sendHold_kept)
    | (with_reducible apply State.enterHold_kept)
    | (with_reducible refine foldl_kept ?_ ?_)

theorem State.takeCut_kept {cs : Keep} {s : State} (h : s.Kept cs) : ∀ j lost gen rb tree peers, State.Kept cs
    (State.takeCut s j lost gen rb tree peers) := by
  intros
  unfold State.takeCut
  repeat' first
    | (with_reducible assumption)
    | intro _
    | (extract_lets +onlyGivenNames x; refine kept_cut (cs := cs) x ?_ ?_; subst x; rotate_left; generalize x = y;
        clear x; intro _)
    | (extract_lets +onlyGivenNames x; generalize x = y; clear x)
    | (with_reducible refine ite_kept ?_ ?_)
    | (with_reducible apply State.meetRollback_kept)
    | (with_reducible apply State.setFld_kept)
    | (with_reducible apply State.gcount_kept)
    | (with_reducible apply State.abandonSet_kept)
    | (with_reducible apply State.divertLost_kept)
    | (with_reducible apply State.recover_kept)
    | (with_reducible apply State.updRun_kept)
    | (with_reducible refine foldl_kept ?_ ?_)
    | split

theorem execRcut_kept {cs : Keep} {s : State} (h : s.Kept cs) : ∀ src m peers, KeptO cs (execRcut src m peers s) := by
  intros
  unfold execRcut
  repeat' first
    | (with_reducible assumption)
    | intro _
    | (extract_lets +onlyGivenNames x; generalize x = y; clear x)
    | (with_reducible refine ite_kept ?_ ?_)
    | (with_reducible refine kept_next ?_)
    | (with_reducible apply State.control_kept)
    | (with_reducible apply State.sendDown_kept)
    | (with_reducible apply State.takeCut_kept)
    | split

theorem execHfault_kept {cs : Keep} {s : State} (h : s.Kept cs) : ∀ src m, KeptO cs (execHfault src m s) := by
  intros
  unfold execHfault
  repeat' first
    | (with_reducible assumption)
    | intro _
    | (extract_lets +onlyGivenNames x; refine kept_cut (cs := cs) x ?_ ?_; subst x; rotate_left; generalize x = y;
        clear x; intro _)
    | (extract_lets +onlyGivenNames x; generalize x = y; clear x)
    | (with_reducible refine ite_kept ?_ ?_)
    | (with_reducible refine kept_next ?_)
    | (with_reducible apply State.control_kept)
    | (with_reducible apply State.updRun_kept)
    | (with_reducible apply State.sendUp_kept)
    | (with_reducible apply State.countFailure_kept)
    | (with_reducible apply State.meetRollback_kept)
    | (with_reducible apply State.sendDown_kept)
    | (with_reducible apply State.takeCut_kept)
    | split

theorem execCutTimeout_kept {cs : Keep} {s : State} (h : s.Kept cs) : ∀ j, KeptO cs (execCutTimeout j s) := by
  intros
  unfold execCutTimeout
  repeat' first
    | (with_reducible assumption)
    | (extract_lets +onlyGivenNames x; refine kept_cut (cs := cs) x ?_ ?_; subst x; rotate_left; generalize x = y;
        clear x; intro _)
    | (with_reducible refine ite_keptO ?_ ?_)
    | (with_reducible refine kept_next ?_)
    | (with_reducible apply State.updRun_kept)
    | (with_reducible apply State.setFld_kept)
    | (with_reducible apply State.meetRollback_kept)
    | split

theorem State.dorounteHinge_kept {cs : Keep} {s : State} (h : s.Kept cs) : ∀ j dynJ peers r, State.Kept cs
    (State.dorounteHinge s j dynJ peers r) := by
  intros
  unfold State.dorounteHinge
  repeat' first
    | (with_reducible assumption)
    | intro _
    | (extract_lets +onlyGivenNames x; refine kept_cut (cs := cs) x ?_ ?_; subst x; rotate_left; generalize x = y;
        clear x; intro _)
    | (extract_lets +onlyGivenNames x; generalize x = y; clear x)
    | (with_reducible refine ite_kept ?_ ?_)
    | (with_reducible apply State.flipSlots_kept)
    | (with_reducible apply State.endStep_kept)
    | (with_reducible apply State.dropImage_kept)
    | (with_reducible apply State.setFld_kept)
    | (with_reducible apply State.discard_kept)
    | (with_reducible apply State.updRun_kept)
    | (with_reducible apply State.items34_kept)
    | (with_reducible apply State.item5_kept)
    | (with_reducible apply State.hingeGuards_kept)
    | (with_reducible apply State.item6_kept)
    | (with_reducible apply State.freezeStretch_kept)
    | (with_reducible apply State.trySendReady_kept)
    | (with_reducible apply State.takeEarly_kept)
    | (with_reducible apply State.markArrived_kept)
    | (with_reducible refine foldl_kept ?_ ?_)
    | (with_reducible refine forRange_kept ?_ ?_)
    | split

theorem execRecoveryHingeArrival_kept {cs : Keep} {s : State} (h : s.Kept cs) : ∀ j dynJ peers, KeptO cs
    (execRecoveryHingeArrival j dynJ peers s) := by
  intros
  unfold execRecoveryHingeArrival
  repeat' first
    | (with_reducible assumption)
    | (extract_lets +onlyGivenNames x; refine kept_cut (cs := cs) x ?_ ?_; subst x; rotate_left; generalize x = y;
        clear x; intro _)
    | (extract_lets +onlyGivenNames x; generalize x = y; clear x)
    | (with_reducible refine ite_keptO ?_ ?_)
    | (with_reducible refine kept_next ?_)
    | (with_reducible apply State.updRun_kept)
    | (with_reducible apply State.dorounteHinge_kept)
    | (with_reducible apply State.recoveryHinge_kept)
    | split

theorem State.undead_kept {cs : Keep} {s : State} (h : s.Kept cs) : ∀ j g, State.Kept cs (State.undead s j g) := by
  intros
  unfold State.undead
  repeat' first
    | (with_reducible assumption)
    | intro _
    | (with_reducible refine ite_kept ?_ ?_)
    | (with_reducible apply State.setReg_kept)
    | (with_reducible refine forRange_kept ?_ ?_)

theorem State.endHold_kept {cs : Keep} {s : State} (h : s.Kept cs) : ∀ j c added peers, State.Kept cs (State.endHold
    s j c added peers) := by
  intros
  unfold State.endHold
  repeat' first
    | (with_reducible assumption)
    | intro _
    | (extract_lets +onlyGivenNames x; refine kept_cut (cs := cs) x ?_ ?_; subst x; rotate_left; generalize x = y;
        clear x; intro _)
    | (with_reducible apply State.updRun_kept)
    | (with_reducible apply State.setFld_kept)
    | (with_reducible apply State.recover_kept)
    | (with_reducible apply State.undead_kept)
    | (with_reducible refine foldl_kept ?_ ?_)

theorem State.loadTree_kept {cs : Keep} {s : State} (h : s.Kept cs) : ∀ j index addr, State.Kept cs (State.loadTree
    s j index addr) := by
  intros
  unfold State.loadTree
  repeat' first
    | (with_reducible assumption)
    | intro _
    | (extract_lets +onlyGivenNames x; (have _ := fun a => x a); subst x; dsimp -zeta only)
    | (extract_lets +onlyGivenNames x; refine kept_cut (cs := cs) x ?_ ?_; subst x; rotate_left; generalize x = y;
        clear x; intro _)
    | (with_reducible apply State.setFld_kept)
    | (with_reducible apply State.setReg_kept)
    | (with_reducible refine forRange_kept ?_ ?_)

theorem execOpRehost_kept {cs : Keep} {s : State} (h : s.Kept cs) : ∀ f added peers, KeptO cs (execOpRehost f added
    peers s) := by
  intros
  unfold execOpRehost
  repeat' first
    | (with_reducible assumption)
    | (extract_lets +onlyGivenNames x; refine kept_cut (cs := cs) x ?_ ?_; subst x; rotate_left; generalize x = y;
        clear x; intro _)
    | (extract_lets +onlyGivenNames x; generalize x = y; clear x)
    | (with_reducible refine ite_kept ?_ ?_)
    | (with_reducible refine ite_keptO ?_ ?_)
    | (with_reducible refine kept_next ?_)
    | (with_reducible apply State.submit_kept)
    | (with_reducible apply State.abortArg_kept)
    | (with_reducible apply State.endHold_kept)
    | (with_reducible apply State.gcount_kept)
    | (with_reducible apply State.meetRollback_kept)
    | (with_reducible apply State.abandonSet_kept)
    | (with_reducible apply State.takeCut_kept)
    | (with_reducible apply State.loadTree_kept)
    | (with_reducible apply State.sendCtl_kept)
    | (split; rename_i heq; refine kept_cut2 (cs := cs) heq ?_ ?_; rotate_left; (clear heq; intro _))
    | split
    | (with_reducible refine kept_fst ‹_ = (_, _)› ?_)

theorem execReplayRebuildComplete_kept {cs : Keep} {s : State} (h : s.Kept cs) : ∀ j lsid, KeptO cs
    (execReplayRebuildComplete j lsid s) := by
  intros
  unfold execReplayRebuildComplete
  repeat' first
    | (with_reducible assumption)
    | (extract_lets +onlyGivenNames x; refine kept_cut (cs := cs) x ?_ ?_; subst x; rotate_left; generalize x = y;
        clear x; intro _)
    | (with_reducible refine ite_keptO ?_ ?_)
    | (with_reducible refine kept_next ?_)
    | (with_reducible apply State.installImage_kept)
    | (with_reducible apply State.trySendReady_kept)
    | (with_reducible apply State.replayStart_kept)
    | (with_reducible apply State.setFld_kept)
    | (with_reducible exact kept_mk (kept_fold (by assumption)))
    | split

theorem State.feedAll_kept {cs : Keep} {s : State} (h : s.Kept cs) : ∀ j f, State.Kept cs (State.feedAll s j f).1 := by
  intros
  unfold State.feedAll
  repeat' first
    | (with_reducible assumption)
    | intro _
    | (with_reducible refine ite_kept1 ?_ ?_)
    | (with_reducible apply State.meetRollback_kept)
    | (with_reducible apply State.feedRecord_kept)
    | (with_reducible refine foldl_kept1 ?_ ?_)

theorem execLreq_kept {cs : Keep} {s : State} (h : s.Kept cs) : ∀ src m, KeptO cs (execLreq src m s) := by
  intros
  unfold execLreq
  repeat' first
    | (with_reducible assumption)
    | intro _
    | (extract_lets +onlyGivenNames x; (have _ := fun a => x a); subst x; dsimp -zeta only)
    | (extract_lets +onlyGivenNames x; refine kept_cut (cs := cs) x ?_ ?_; subst x; rotate_left; generalize x = y;
        clear x; intro _)
    | (extract_lets +onlyGivenNames x; generalize x = y; clear x)
    | (with_reducible refine ite_kept ?_ ?_)
    | (with_reducible refine kept_next ?_)
    | (with_reducible apply State.control_kept)
    | (with_reducible apply State.sendCtl_kept)
    | (with_reducible apply State.feedAll_kept)
    | (with_reducible exact kept_mk (kept_fold (by assumption)))

theorem execLnak_kept {cs : Keep} {s : State} (h : s.Kept cs) : ∀ src m, KeptO cs (execLnak src m s) := by
  intros
  unfold execLnak
  repeat' first
    | (with_reducible assumption)
    | intro _
    | (extract_lets +onlyGivenNames x; generalize x = y; clear x)
    | (with_reducible refine ite_kept ?_ ?_)
    | (with_reducible refine kept_next ?_)
    | (with_reducible apply State.control_kept)
    | (with_reducible apply State.meetRollback_kept)
    | (with_reducible apply State.killCtx_kept)
    | split

theorem execRcopy_kept {cs : Keep} {s : State} (h : s.Kept cs) : ∀ src m, KeptO cs (execRcopy src m s) := by
  intros
  unfold execRcopy
  repeat' first
    | (with_reducible assumption)
    | intro _
    | (extract_lets +onlyGivenNames x; generalize x = y; clear x)
    | (with_reducible refine ite_kept ?_ ?_)
    | (with_reducible refine kept_next ?_)
    | (with_reducible apply State.control_kept)
    | (with_reducible apply State.answerRcopy_kept)
    | (with_reducible exact kept_mk (kept_fold (by assumption)))

theorem execFsync_kept {cs : Keep} {s : State} (h : s.Kept cs) : ∀ src m, KeptO cs (execFsync src m s) := by
  intros
  unfold execFsync
  repeat' first
    | (with_reducible assumption)
    | intro _
    | (extract_lets +onlyGivenNames x; generalize x = y; clear x)
    | (with_reducible refine ite_kept ?_ ?_)
    | (with_reducible refine kept_next ?_)
    | (with_reducible apply State.control_kept)
    | (with_reducible apply State.applyFsync_kept)
    | (with_reducible exact kept_mk (kept_fold (by assumption)))

theorem State.copyPacket_kept {cs : Keep} {s : State} (h : s.Kept cs) : ∀ j lsid off l, State.Kept cs
    (State.copyPacket s j lsid off l) := by
  intros
  unfold State.copyPacket
  repeat' first
    | (with_reducible assumption)
    | intro _
    | (extract_lets +onlyGivenNames x; refine kept_cut (cs := cs) x ?_ ?_; subst x; rotate_left; generalize x = y;
        clear x; intro _)
    | (extract_lets +onlyGivenNames x; generalize x = y; clear x)
    | (with_reducible apply State.wrDatum_kept)
    | (with_reducible refine foldl_kept ?_ ?_)
    | (with_reducible exact kept_mk (kept_fold (by assumption)))
    | split

theorem execReplicaCopyComplete_kept {cs : Keep} {s : State} (h : s.Kept cs) : ∀ j lsid, KeptO cs
    (execReplicaCopyComplete j lsid s) := by
  intros
  unfold execReplicaCopyComplete
  repeat' first
    | (with_reducible assumption)
    | intro _
    | (extract_lets +onlyGivenNames x; refine kept_cut (cs := cs) x ?_ ?_; subst x; rotate_left; generalize x = y;
        clear x; intro _)
    | (extract_lets +onlyGivenNames x; generalize x = y; clear x)
    | (with_reducible refine ite_keptO ?_ ?_)
    | (with_reducible refine kept_next ?_)
    | (with_reducible apply State.setFld_kept)
    | (with_reducible apply State.trySendReady_kept)
    | (with_reducible apply State.clearShard_kept)
    | (with_reducible refine forRange_kept ?_ ?_)
    | (with_reducible exact kept_mk (kept_fold (by assumption)))
    | split

theorem State.onCont_kept {cs : Keep} {s : State} (h : s.Kept cs) : ∀ j n h pay, State.Kept cs (State.onCont s j n h
    pay) := by
  intros
  unfold State.onCont
  repeat' first
    | (with_reducible assumption)
    | (extract_lets +onlyGivenNames x; generalize x = y; clear x)
    | (with_reducible apply State.hgetPacket_kept)
    | (with_reducible apply State.copyPacket_kept)
    | (with_reducible apply State.chunkPacket_kept)
    | split

end Sys2Proof.Machine
end

