-- ==== Sys2Proof/Laws/KeptF.lean ====
section
/-! SUPPORT. What the operations of Machine/Move, Machine/Images, Machine/Load, Machine/Access, Machine/HostOps, Machine/Mailbox keep (`State.Kept`): the queue, and the invariant. -/
namespace Sys2Proof.Machine

theorem State.pushDone_kept {cs : Keep} {s : State} (h : s.Kept cs) : ∀ c engines psn, State.Kept cs (State.pushDone
    s c engines psn) := by
  intros
  unfold State.pushDone
  repeat' first
    | (with_reducible assumption)
    | (with_reducible apply State.pushIssued_kept)

theorem State.mvCopy_kept {cs : Keep} {s : State} (h : s.Kept cs) : ∀ c, State.Kept cs (State.mvCopy s c) := by
  intros
  unfold State.mvCopy
  repeat' first
    | (with_reducible assumption)
    | (extract_lets +onlyGivenNames x; refine kept_cut (cs := cs) x ?_ ?_; subst x; rotate_left; generalize x = y;
        clear x; intro _)
    | (extract_lets +onlyGivenNames x; generalize x = y; clear x)
    | (with_reducible apply State.cmdWriteL_kept)

theorem State.mvConvert_kept {cs : Keep} {s : State} (h : s.Kept cs) : ∀ c, State.Kept cs (State.mvConvert s c) := by
  intros
  unfold State.mvConvert
  repeat' first
    | (with_reducible assumption)
    | (extract_lets +onlyGivenNames x; (have _ := fun a => x a); subst x; dsimp -zeta only)
    | (extract_lets +onlyGivenNames x; refine kept_cut (cs := cs) x ?_ ?_; subst x; rotate_left; generalize x = y;
        clear x; intro _)
    | (extract_lets +onlyGivenNames x; generalize x = y; clear x)
    | (with_reducible refine ite_kept ?_ ?_)
    | (with_reducible apply State.cvtFlags_kept)
    | (with_reducible apply State.rangeFault_kept)
    | (with_reducible apply State.cmdWriteL_kept)

theorem State.mvRun_kept {cs : Keep} {s : State} (h : s.Kept cs) : ∀ c env, State.Kept cs (State.mvRun s c env) := by
  intros
  unfold State.mvRun
  repeat' first
    | (with_reducible assumption)
    | (extract_lets +onlyGivenNames x; refine kept_cut (cs := cs) x ?_ ?_; subst x; rotate_left; generalize x = y;
        clear x; intro _)
    | (extract_lets +onlyGivenNames x; generalize x = y; clear x)
    | (with_reducible refine ite_kept ?_ ?_)
    | (with_reducible apply State.applyEnv_kept)
    | (with_reducible apply State.noteRanges_kept)
    | (with_reducible apply State.endEnv_kept)
    | (with_reducible apply State.pushDone_kept)
    | (with_reducible apply State.mvCopy_kept)
    | (with_reducible apply State.mvConvert_kept)

theorem execCmdMove_kept {cs : Keep} {s : State} (h : s.Kept cs) : ∀ p ctx env, KeptO cs (execCmdMove p ctx env s) := by
  intros
  unfold execCmdMove
  repeat' first
    | (with_reducible assumption)
    | intro _
    | (with_reducible refine kept_next ?_)
    | (with_reducible apply State.tryIssue_kept)
    | (with_reducible apply State.mvRun_kept)

theorem State.moeDispatch_kept {cs : Keep} {s : State} (h : s.Kept cs) : ∀ c env, State.Kept cs (State.moeDispatch s
    c env) := by
  intros
  unfold State.moeDispatch
  repeat' first
    | (with_reducible assumption)
    | intro _
    | (extract_lets +onlyGivenNames x; refine kept_cut (cs := cs) x ?_ ?_; subst x; rotate_left; generalize x = y;
        clear x; intro _)
    | (extract_lets +onlyGivenNames x; generalize x = y; clear x)
    | (with_reducible refine ite_kept ?_ ?_)
    | (with_reducible apply State.applyEnv_kept)
    | (with_reducible apply State.noteRanges_kept)
    | (with_reducible apply State.cmdWrite_kept)
    | (with_reducible apply State.cmdWriteL_kept)
    | (with_reducible apply State.count_kept)
    | (with_reducible apply State.endEnv_kept)
    | (with_reducible apply State.pushDone_kept)
    | (with_reducible refine forRange_kept ?_ ?_)
    | split

theorem execMoeDispatch_kept {cs : Keep} {s : State} (h : s.Kept cs) : ∀ p ctx env, KeptO cs (execMoeDispatch p ctx
    env s) := by
  intros
  unfold execMoeDispatch
  repeat' first
    | (with_reducible assumption)
    | intro _
    | (with_reducible refine kept_next ?_)
    | (with_reducible apply State.tryIssue_kept)
    | (with_reducible apply State.moeDispatch_kept)

theorem State.moeCombine_kept {cs : Keep} {s : State} (h : s.Kept cs) : ∀ c env, State.Kept cs (State.moeCombine s c
    env) := by
  intros
  unfold State.moeCombine
  repeat' first
    | (with_reducible assumption)
    | intro _
    | (extract_lets +onlyGivenNames x; refine kept_cut (cs := cs) x ?_ ?_; subst x; rotate_left; generalize x = y;
        clear x; intro _)
    | (extract_lets +onlyGivenNames x; refine kept_cut1 (cs := cs) x ?_ ?_; subst x; rotate_left; generalize x = y;
        clear x; intro _)
    | (extract_lets +onlyGivenNames x; generalize x = y; clear x)
    | (with_reducible apply State.applyEnv_kept)
    | (with_reducible apply State.noteRanges_kept)
    | (with_reducible apply State.noteFaults_kept)
    | (with_reducible apply State.cmdWriteL_kept)
    | (with_reducible apply State.cvtFlags_kept)
    | (with_reducible apply State.endEnv_kept)
    | (with_reducible apply State.pushDone_kept)
    | (with_reducible refine foldl_kept1 ?_ ?_)
    | split

theorem execMoeCombine_kept {cs : Keep} {s : State} (h : s.Kept cs) : ∀ p ctx env, KeptO cs (execMoeCombine p ctx
    env s) := by
  intros
  unfold execMoeCombine
  repeat' first
    | (with_reducible assumption)
    | intro _
    | (with_reducible refine kept_next ?_)
    | (with_reducible apply State.tryIssue_kept)
    | (with_reducible apply State.moeCombine_kept)

theorem State.imgReg_kept {cs : Keep} {s : State} (h : s.Kept cs) : ∀ a v, State.Kept cs (State.imgReg s a v) := by
  intros
  unfold State.imgReg
  repeat' first
    | (with_reducible assumption)
    | (extract_lets +onlyGivenNames x; refine kept_cut (cs := cs) x ?_ ?_; subst x; rotate_left; generalize x = y;
        clear x; intro _)
    | (extract_lets +onlyGivenNames x; generalize x = y; clear x)
    | (with_reducible refine ite_kept ?_ ?_)
    | (with_reducible apply State.setReg_kept)

theorem State.imgRegs_kept {cs : Keep} {s : State} (h : s.Kept cs) : ∀ l, State.Kept cs (State.imgRegs s l) := by
  intros
  unfold State.imgRegs
  repeat' first
    | (with_reducible assumption)
    | intro _
    | (with_reducible apply State.imgReg_kept)
    | (with_reducible refine foldl_kept ?_ ?_)

theorem State.imgClear_kept {cs : Keep} {s : State} (h : s.Kept cs) : ∀ l, (s.imgClear l).Kept cs := by
  intro l
  unfold State.imgClear
  exact foldl_kept (fun t r ht => kept_of ht rfl fun i => ⟨i.mem, i.poison,
    storeRising_clear _ _ (storeRising_clear _ _ i.regs), i.ftime, i.cnt, i.vx, i.vxPsn⟩) h

theorem State.placeWords_kept {cs : Keep} {s : State} (h : s.Kept cs) : ∀ j i, State.Kept cs (State.placeWords s j i) := by
  intros
  unfold State.placeWords
  repeat' first
    | (with_reducible assumption)
    | intro _
    | (extract_lets +onlyGivenNames x; refine kept_cut (cs := cs) x ?_ ?_; subst x; rotate_left; generalize x = y;
        clear x; intro _)
    | (with_reducible apply State.imgClear_kept)
    | (with_reducible apply State.writeFlow_kept)
    | (with_reducible apply State.imgRegs_kept)
    | (with_reducible refine foldl_kept ?_ ?_)
    | (with_reducible exact kept_mk (kept_fold (by assumption)))

theorem State.placePrograms_kept {cs : Keep} {s : State} (h : s.Kept cs) : ∀ i, State.Kept cs (State.placePrograms s i) := by
  intros
  unfold State.placePrograms
  repeat' first
    | (with_reducible assumption)
    | intro _
    | (with_reducible apply State.hbmPut_kept)
    | (with_reducible refine foldl_kept ?_ ?_)

theorem State.trial_kept {cs : Keep} {s : State} (h : s.Kept cs) : ∀ j i, State.Kept cs (State.trial s j i) := by
  intros
  unfold State.trial
  repeat' first
    | (with_reducible assumption)
    | (with_reducible apply State.placePrograms_kept)
    | (with_reducible apply State.placeWords_kept)

theorem State.zeroUnits_kept {cs : Keep} {s : State} (h : s.Kept cs) (d n : Nat) : (s.zeroUnits d n).Kept cs :=
  kept_of h rfl fun i => ⟨storeWf_filter _ i.mem, storeWf_clear _ _ i.poison, i.regs, i.ftime, i.cnt, i.vx, i.vxPsn⟩

theorem State.cutOp_kept {cs : Keep} {s : State} (h : s.Kept cs) : ∀ o status, State.Kept cs (State.cutOp s o status) := by
  intros
  unfold State.cutOp
  repeat' first
    | (with_reducible assumption)
    | (with_reducible refine ite_kept ?_ ?_)
    | (with_reducible apply State.bcastClose_kept)
    | (with_reducible apply State.bcastEnd_kept)
    | (with_reducible apply State.endWith_kept)
    | (with_reducible apply State.endDrain_kept)
    | (with_reducible apply State.dropImage_kept)
    | (with_reducible exact kept_mk (kept_fold (by assumption)))
    | split

theorem State.popLoad_kept {cs : Keep} {s : State} (h : s.Kept cs) : State.Kept cs (State.popLoad s) := by
  unfold State.popLoad
  repeat' first
    | (with_reducible assumption)
    | (extract_lets +onlyGivenNames x; refine kept_cut (cs := cs) x ?_ ?_; subst x; rotate_left; generalize x = y;
        clear x; intro _)
    | (with_reducible apply State.setFld_kept)
    | (with_reducible exact kept_mk (kept_fold (by assumption)))

theorem State.noteFail_kept {cs : Keep} {s : State} (h : s.Kept cs) : ∀ j table f, State.Kept cs (State.noteFail s j
    table f) := by
  intros
  unfold State.noteFail
  repeat' first
    | (with_reducible assumption)
    | (extract_lets +onlyGivenNames x; refine kept_cut (cs := cs) x ?_ ?_; subst x; rotate_left; generalize x = y;
        clear x; intro _)
    | (with_reducible apply State.gcount_kept)
    | (with_reducible apply State.setReg_kept)

theorem State.dropLoad_kept {cs : Keep} {s : State} (h : s.Kept cs) : ∀ l status, State.Kept cs (State.dropLoad s l
    status) := by
  intros
  unfold State.dropLoad
  repeat' first
    | (with_reducible assumption)
    | (with_reducible apply State.endWith_kept)
    | (with_reducible apply State.popLoad_kept)
    | (with_reducible apply State.setReg_kept)

theorem State.unplacePrograms_kept {cs : Keep} {s : State} (h : s.Kept cs) : ∀ i j, State.Kept cs
    (State.unplacePrograms s i j) := by
  intros
  unfold State.unplacePrograms
  repeat' first
    | (with_reducible assumption)
    | intro _
    | (extract_lets +onlyGivenNames x; refine kept_cut (cs := cs) x ?_ ?_; subst x; rotate_left; generalize x = y;
        clear x; intro _)
    | (with_reducible refine ite_kept ?_ ?_)
    | (with_reducible apply State.placeWords_kept)
    | (with_reducible apply State.zeroUnits_kept)
    | (with_reducible refine foldl_kept ?_ ?_)

theorem State.runLoad_kept {cs : Keep} {s : State} (h : s.Kept cs) : State.Kept cs (State.runLoad s) := by
  unfold State.runLoad
  repeat' first
    | (with_reducible assumption)
    | (extract_lets +onlyGivenNames x; (have _ := fun a => x a); subst x; dsimp -zeta only)
    | (extract_lets +onlyGivenNames x; refine kept_cut (cs := cs) x ?_ ?_; subst x; rotate_left; generalize x = y;
        clear x; intro _)
    | (extract_lets +onlyGivenNames x; generalize x = y; clear x)
    | (with_reducible refine ite_kept ?_ ?_)
    | (with_reducible apply State.dropLoad_kept)
    | (with_reducible apply State.noteFail_kept)
    | (with_reducible apply State.unplacePrograms_kept)
    | (with_reducible apply State.placePrograms_kept)
    | (with_reducible exact kept_mk (kept_fold (by assumption)))
    | split

theorem State.runLoads_kept {cs : Keep} {s : State} (h : s.Kept cs) (n : Nat) : (State.runLoads n s).Kept cs := by
  induction n generalizing s with
  | zero => exact h
  | succ n ih =>
    unfold State.runLoads
    split
    · exact h
    · split
      · exact h
      · exact ih (State.runLoad_kept h)

theorem execOpImageLoad_kept {cs : Keep} {s : State} (h : s.Kept cs) : ∀ f img, KeptO cs (execOpImageLoad f img s) := by
  intros
  unfold execOpImageLoad
  repeat' first
    | (with_reducible assumption)
    | (extract_lets +onlyGivenNames x; refine kept_cut (cs := cs) x ?_ ?_; subst x; rotate_left; generalize x = y;
        clear x; intro _)
    | (extract_lets +onlyGivenNames x; generalize x = y; clear x)
    | (with_reducible refine ite_keptO ?_ ?_)
    | (with_reducible refine kept_next ?_)
    | (with_reducible apply State.submit_kept)
    | (with_reducible apply State.abortArg_kept)
    | (with_reducible apply State.endWith_kept)
    | (with_reducible apply State.setFld_kept)
    | (with_reducible apply State.runLoads_kept)
    | (with_reducible exact kept_mk (kept_fold (by assumption)))
    | (split; rename_i heq; refine kept_cut2 (cs := cs) heq ?_ ?_; rotate_left; (clear heq; intro _))
    | (with_reducible refine kept_fst ‹_ = (_, _)› ?_)

theorem State.mapDevices_kept {cs : Keep} {s : State} (h : s.Kept cs) : ∀ j i first, State.Kept cs (State.mapDevices
    s j i first) := by
  intros
  unfold State.mapDevices
  repeat' first
    | (with_reducible assumption)
    | intro _
    | (extract_lets +onlyGivenNames x; refine kept_cut (cs := cs) x ?_ ?_; subst x; rotate_left; generalize x = y;
        clear x; intro _)
    | (extract_lets +onlyGivenNames x; generalize x = y; clear x)
    | (with_reducible refine ite_kept ?_ ?_)
    | (with_reducible apply State.setReg_kept)
    | (with_reducible apply State.setFld_kept)
    | (with_reducible refine forRange_kept ?_ ?_)

theorem State.keepSections_kept {cs : Keep} {s : State} (h : s.Kept cs) : ∀ j i first, State.Kept cs
    (State.keepSections s j i first) := by
  intros
  unfold State.keepSections
  repeat' first
    | (extract_lets +onlyGivenNames x; generalize x = y; clear x)
    | (with_reducible exact kept_mk (kept_fold (by assumption)))

theorem State.modePorts_kept {cs : Keep} {s t : State} (hs : s.Kept cs) (ht : t.Kept cs) : State.Kept cs
    (State.modePorts s t) := by
  unfold State.modePorts
  repeat' first
    | (with_reducible assumption)
    | intro _
    | (extract_lets +onlyGivenNames x; refine kept_cut (cs := cs) x ?_ ?_; subst x; rotate_left; generalize x = y;
        clear x; intro _)
    | (extract_lets +onlyGivenNames x; generalize x = y; clear x)
    | (with_reducible refine ite_kept ?_ ?_)
    | (with_reducible apply State.setDom_kept)
    | (with_reducible apply State.leaveUp_kept)
    | (with_reducible apply State.setFld_kept)
    | (with_reducible apply State.setLink_kept)
    | (with_reducible refine foldl_kept ?_ ?_)
    | split

theorem State.emptyLog_kept {cs : Keep} {s : State} (h : s.Kept cs) : ∀ p, State.Kept cs (State.emptyLog s p) := by
  intros
  unfold State.emptyLog
  repeat' first
    | (with_reducible assumption)
    | (extract_lets +onlyGivenNames x; refine kept_cut (cs := cs) x ?_ ?_; subst x; rotate_left; generalize x = y;
        clear x; intro _)
    | (with_reducible apply State.clearRegs_kept)
    | (with_reducible exact kept_mk (kept_fold (by assumption)))

theorem State.startSlot_kept {cs : Keep} {s : State} (h : s.Kept cs) : ∀ j i, State.Kept cs (State.startSlot s j i) := by
  intros
  unfold State.startSlot
  repeat' first
    | (with_reducible assumption)
    | intro _
    | (extract_lets +onlyGivenNames x; refine kept_cut (cs := cs) x ?_ ?_; subst x; rotate_left; generalize x = y;
        clear x; intro _)
    | (extract_lets +onlyGivenNames x; generalize x = y; clear x)
    | (with_reducible apply State.clearRegs_kept)
    | (with_reducible apply State.setReg_kept)
    | (with_reducible apply State.setFld_kept)
    | (with_reducible refine forRange_kept ?_ ?_)
    | (with_reducible exact kept_mk (kept_fold (by assumption)))
    | split

theorem State.takeSlots_kept {cs : Keep} {s : State} (h : s.Kept cs) : ∀ j p jobId, State.Kept cs (State.takeSlots s
    j p jobId) := by
  intros
  unfold State.takeSlots
  repeat' first
    | (with_reducible assumption)
    | intro _
    | (extract_lets +onlyGivenNames x; refine kept_cut (cs := cs) x ?_ ?_; subst x; rotate_left; generalize x = y;
        clear x; intro _)
    | (with_reducible refine ite_kept ?_ ?_)
    | (with_reducible apply State.setFld_kept)
    | (with_reducible apply State.zeroUnits_kept)
    | (with_reducible apply State.setReg_kept)
    | (with_reducible refine foldl_kept ?_ ?_)
    | split

theorem State.startEntries_kept {cs : Keep} {s : State} (h : s.Kept cs) : ∀ p, State.Kept cs (State.startEntries s p) := by
  intros
  unfold State.startEntries
  repeat' first
    | (with_reducible assumption)
    | intro _
    | (extract_lets +onlyGivenNames x; refine kept_cut (cs := cs) x ?_ ?_; subst x; rotate_left; generalize x = y;
        clear x; intro _)
    | (extract_lets +onlyGivenNames x; generalize x = y; clear x)
    | (with_reducible apply State.setFld_kept)
    | (with_reducible apply State.clearShard_kept)
    | (with_reducible refine foldl_kept ?_ ?_)
    | (with_reducible refine forRange_kept ?_ ?_)

theorem State.commitImage_kept {cs : Keep} {s : State} (h : s.Kept cs) : ∀ j i, State.Kept cs (State.commitImage s j i) := by
  intros
  unfold State.commitImage
  repeat' first
    | (with_reducible assumption)
    | intro _
    | (extract_lets +onlyGivenNames x; refine kept_cut (cs := cs) x ?_ ?_; subst x; rotate_left; generalize x = y;
        clear x; intro _)
    | (extract_lets +onlyGivenNames x; generalize x = y; clear x)
    | (with_reducible refine ite_kept ?_ ?_)
    | (with_reducible apply State.modePorts_kept)
    | (with_reducible apply State.placeWords_kept)
    | (with_reducible apply State.setFld_kept)
    | (with_reducible apply State.setReg_kept)
    | (with_reducible apply State.assignPlanes_kept)
    | (with_reducible apply State.countFlows_kept)
    | (with_reducible apply State.keepSections_kept)
    | (with_reducible apply State.mapDevices_kept)
    | (with_reducible apply State.startSlot_kept)
    | (with_reducible apply State.startEntries_kept)
    | (with_reducible apply State.emptyLog_kept)
    | (with_reducible apply State.takeSlots_kept)
    | (with_reducible apply State.setDom_kept)
    | (with_reducible apply State.setPhase_kept)
    | (with_reducible apply State.computeN_kept)
    | (with_reducible apply State.syncHealth_kept)
    | (with_reducible refine foldl_kept ?_ ?_)
    | (with_reducible exact kept_mk (kept_fold (by assumption)))

theorem execImageLoadCommit_kept {cs : Keep} {s : State} (h : s.Kept cs) : KeptO cs (execImageLoadCommit s) := by
  unfold execImageLoadCommit
  repeat' first
    | (with_reducible assumption)
    | (extract_lets +onlyGivenNames x; refine kept_cut (cs := cs) x ?_ ?_; subst x; rotate_left; generalize x = y;
        clear x; intro _)
    | (with_reducible refine ite_keptO ?_ ?_)
    | (with_reducible refine kept_next ?_)
    | (with_reducible apply State.endWith_kept)
    | (with_reducible apply State.popLoad_kept)
    | (with_reducible apply State.commitImage_kept)
    | (with_reducible apply State.runLoads_kept)
    | split

theorem execImageLoadValidTimeout_kept {cs : Keep} {s : State} (h : s.Kept cs) : KeptO cs (execImageLoadValidTimeout s) := by
  unfold execImageLoadValidTimeout
  repeat' first
    | (with_reducible assumption)
    | (extract_lets +onlyGivenNames x; refine kept_cut (cs := cs) x ?_ ?_; subst x; rotate_left; generalize x = y;
        clear x; intro _)
    | (extract_lets +onlyGivenNames x; generalize x = y; clear x)
    | (with_reducible refine ite_keptO ?_ ?_)
    | (with_reducible refine kept_next ?_)
    | (with_reducible apply State.unplacePrograms_kept)
    | (with_reducible apply State.dropLoad_kept)
    | (with_reducible apply State.noteFail_kept)
    | (with_reducible apply State.runLoads_kept)
    | split

theorem State.clearTables_kept {cs : Keep} {s : State} (h : s.Kept cs) : ∀ j, State.Kept cs (State.clearTables s j) := by
  intros
  unfold State.clearTables
  repeat' first
    | (with_reducible assumption)
    | intro _
    | (extract_lets +onlyGivenNames x; refine kept_cut (cs := cs) x ?_ ?_; subst x; rotate_left; generalize x = y;
        clear x; intro _)
    | (extract_lets +onlyGivenNames x; generalize x = y; clear x)
    | (with_reducible apply State.writeFlow_kept)
    | (with_reducible apply State.imgClear_kept)
    | (with_reducible apply State.setReg_kept)
    | (with_reducible apply State.setFld_kept)
    | (with_reducible apply State.clearRegs_kept)
    | (with_reducible apply State.countFlows_kept)
    | (with_reducible refine foldl_kept ?_ ?_)
    | (with_reducible exact kept_mk (kept_fold (by assumption)))

theorem State.zeroRegions_kept {cs : Keep} {s : State} (h : s.Kept cs) : ∀ p, State.Kept cs (State.zeroRegions s p) := by
  intros
  unfold State.zeroRegions
  repeat' first
    | (with_reducible assumption)
    | intro _
    | (extract_lets +onlyGivenNames x; refine kept_cut (cs := cs) x ?_ ?_; subst x; rotate_left; generalize x = y;
        clear x; intro _)
    | (extract_lets +onlyGivenNames x; generalize x = y; clear x)
    | (with_reducible refine ite_kept ?_ ?_)
    | (with_reducible apply State.zeroUnits_kept)
    | (with_reducible refine foldl_kept ?_ ?_)

theorem State.forgetSlot_kept {cs : Keep} {s : State} (h : s.Kept cs) : ∀ j, State.Kept cs (State.forgetSlot s j) := by
  intros
  unfold State.forgetSlot
  repeat' first
    | (with_reducible assumption)
    | (extract_lets +onlyGivenNames x; refine kept_cut (cs := cs) x ?_ ?_; subst x; rotate_left; generalize x = y;
        clear x; intro _)
    | (with_reducible refine ite_kept ?_ ?_)
    | (with_reducible apply State.hingeGuards_kept)
    | (with_reducible apply State.startSlot_kept)
    | (with_reducible apply State.setReg_kept)
    | (with_reducible apply State.setFld_kept)
    | (with_reducible exact kept_mk (kept_fold (by assumption)))

theorem State.unloadSlot_kept {cs : Keep} {s : State} (h : s.Kept cs) : ∀ j status, State.Kept cs (State.unloadSlot
    s j status) := by
  intros
  unfold State.unloadSlot
  repeat' first
    | (with_reducible assumption)
    | intro _
    | (extract_lets +onlyGivenNames x; refine kept_cut (cs := cs) x ?_ ?_; subst x; rotate_left; generalize x = y;
        clear x; intro _)
    | (extract_lets +onlyGivenNames x; generalize x = y; clear x)
    | (with_reducible apply State.cutOp_kept)
    | (with_reducible apply State.freeEntry_kept)
    | (with_reducible apply State.ctxResetAll_kept)
    | (with_reducible apply State.clearTables_kept)
    | (with_reducible apply State.emptyLog_kept)
    | (with_reducible apply State.zeroRegions_kept)
    | (with_reducible apply State.forgetSlot_kept)
    | (with_reducible refine foldl_kept ?_ ?_)
    | (with_reducible refine forRange_kept ?_ ?_)

theorem execOpImageUnload_kept {cs : Keep} {s : State} (h : s.Kept cs) : ∀ f, KeptO cs (execOpImageUnload f s) := by
  intros
  unfold execOpImageUnload
  repeat' first
    | (with_reducible assumption)
    | (extract_lets +onlyGivenNames x; generalize x = y; clear x)
    | (with_reducible refine ite_keptO ?_ ?_)
    | (with_reducible refine kept_next ?_)
    | (with_reducible apply State.submit_kept)
    | (with_reducible apply State.abortArg_kept)
    | (with_reducible apply State.endWith_kept)
    | (with_reducible apply State.unloadSlot_kept)
    | (split; rename_i heq; refine kept_cut2 (cs := cs) heq ?_ ?_; rotate_left; (clear heq; intro _))
    | (with_reducible refine kept_fst ‹_ = (_, _)› ?_)

theorem State.placeShadow_kept {cs : Keep} {s : State} (h : s.Kept cs) : ∀ i, State.Kept cs (State.placeShadow s i) := by
  intros
  unfold State.placeShadow
  repeat' first
    | (with_reducible assumption)
    | intro _
    | (with_reducible apply State.setReg_kept)
    | (with_reducible refine foldl_kept ?_ ?_)

theorem execOpTableLoad_kept {cs : Keep} {s : State} (h : s.Kept cs) : ∀ f img peers, KeptO cs (execOpTableLoad f
    img peers s) := by
  intros
  unfold execOpTableLoad
  repeat' first
    | (with_reducible assumption)
    | (extract_lets +onlyGivenNames x; (have _ := fun a => x a); subst x; dsimp -zeta only)
    | (extract_lets +onlyGivenNames x; refine kept_cut (cs := cs) x ?_ ?_; subst x; rotate_left; generalize x = y;
        clear x; intro _)
    | (extract_lets +onlyGivenNames x; generalize x = y; clear x)
    | (with_reducible refine ite_kept ?_ ?_)
    | (with_reducible refine ite_keptO ?_ ?_)
    | (with_reducible refine kept_next ?_)
    | (with_reducible apply State.submit_kept)
    | (with_reducible apply State.abortArg_kept)
    | (with_reducible apply State.endWith_kept)
    | (with_reducible apply State.noteFail_kept)
    | (with_reducible apply State.placeShadow_kept)
    | (with_reducible apply State.copyTables_kept)
    | (with_reducible apply State.setFld_kept)
    | (with_reducible apply State.updRun_kept)
    | (with_reducible apply State.takeCut_kept)
    | (split; rename_i heq; refine kept_cut2 (cs := cs) heq ?_ ?_; rotate_left; (clear heq; intro _))
    | split
    | (with_reducible refine kept_fst ‹_ = (_, _)› ?_)

theorem execOpProgramLoad_kept {cs : Keep} {s : State} (h : s.Kept cs) : ∀ f prog, KeptO cs (execOpProgramLoad f
    prog s) := by
  intros
  unfold execOpProgramLoad
  repeat' first
    | (with_reducible assumption)
    | (extract_lets +onlyGivenNames x; refine kept_cut (cs := cs) x ?_ ?_; subst x; rotate_left; generalize x = y;
        clear x; intro _)
    | (extract_lets +onlyGivenNames x; generalize x = y; clear x)
    | (with_reducible refine ite_keptO ?_ ?_)
    | (with_reducible refine kept_next ?_)
    | (with_reducible apply State.submit_kept)
    | (with_reducible apply State.abortArg_kept)
    | (with_reducible apply State.endWith_kept)
    | (with_reducible apply State.setFld_kept)
    | (with_reducible apply State.hbmPut_kept)
    | (split; rename_i heq; refine kept_cut2 (cs := cs) heq ?_ ?_; rotate_left; (clear heq; intro _))
    | split
    | (with_reducible refine kept_fst ‹_ = (_, _)› ?_)

theorem execOpAbort_kept {cs : Keep} {s : State} (h : s.Kept cs) : ∀ f, KeptO cs (execOpAbort f s) := by
  intros
  unfold execOpAbort
  repeat' first
    | (with_reducible assumption)
    | (extract_lets +onlyGivenNames x; (have _ := fun a => x a); subst x; dsimp -zeta only)
    | (extract_lets +onlyGivenNames x; refine kept_cut (cs := cs) x ?_ ?_; subst x; rotate_left; generalize x = y;
        clear x; intro _)
    | (extract_lets +onlyGivenNames x; generalize x = y; clear x)
    | (with_reducible refine ite_kept ?_ ?_)
    | (with_reducible refine ite_keptO ?_ ?_)
    | (with_reducible refine kept_next ?_)
    | (with_reducible apply State.submit_kept)
    | (with_reducible apply State.abortArg_kept)
    | (with_reducible apply State.endWith_kept)
    | (with_reducible apply State.unplacePrograms_kept)
    | (with_reducible apply State.setFld_kept)
    | (with_reducible apply State.setReg_kept)
    | (with_reducible apply State.runLoads_kept)
    | (with_reducible apply State.cutOp_kept)
    | (with_reducible exact kept_mk (kept_fold (by assumption)))
    | (split; rename_i heq; refine kept_cut2 (cs := cs) heq ?_ ?_; rotate_left; (clear heq; intro _))
    | split
    | (with_reducible refine kept_fst ‹_ = (_, _)› ?_)

theorem State.readReg_kept {cs : Keep} {s : State} (h : s.Kept cs) : ∀ a wide, State.Kept cs (State.readReg s a wide).1 := by
  intros
  unfold State.readReg
  repeat' first
    | (with_reducible assumption)
    | (with_reducible refine ite_kept1 ?_ ?_)
    | (with_reducible exact kept_mk (kept_fold (by assumption)))
    | split

theorem execRegisterRead_kept {cs : Keep} {s : State} (h : s.Kept cs) : ∀ f a wide, KeptO cs (execRegisterRead f a
    wide s) := by
  intros
  unfold execRegisterRead
  repeat' first
    | (with_reducible assumption)
    | (with_reducible refine ite_kept ?_ ?_)
    | (with_reducible refine ite_keptO ?_ ?_)
    | (with_reducible refine kept_next ?_)
    | (with_reducible apply State.emit_kept)
    | (with_reducible apply State.unsupported_kept)
    | (with_reducible apply State.readReg_kept)

theorem State.lockWrite_kept {cs : Keep} {s : State} (h : s.Kept cs) : State.Kept cs (State.lockWrite s) := by
  unfold State.lockWrite
  repeat' first
    | (with_reducible assumption)
    | (with_reducible apply State.gcount_kept)
    | (with_reducible apply State.setFld_kept)

theorem State.afterWrite_kept {cs : Keep} {s : State} (h : s.Kept cs) : ∀ a old, State.Kept cs (State.afterWrite s a
    old) := by
  intros
  unfold State.afterWrite
  repeat' first
    | (with_reducible assumption)
    | (extract_lets +onlyGivenNames x; refine kept_cut (cs := cs) x ?_ ?_; subst x; rotate_left; generalize x = y;
        clear x; intro _)
    | (with_reducible refine ite_kept ?_ ?_)
    | (with_reducible apply State.setFld_kept)
    | (with_reducible apply State.setReg_kept)
    | (with_reducible apply State.trcTime_kept)
    | split

theorem State.writeReg_kept {cs : Keep} {s : State} (h : s.Kept cs) : ∀ a v, State.Kept cs (State.writeReg s a v) := by
  intros
  unfold State.writeReg
  repeat' first
    | (with_reducible assumption)
    | (extract_lets +onlyGivenNames x; refine kept_cut (cs := cs) x ?_ ?_; subst x; rotate_left; generalize x = y;
        clear x; intro _)
    | (extract_lets +onlyGivenNames x; generalize x = y; clear x)
    | (with_reducible refine ite_kept ?_ ?_)
    | (with_reducible apply State.lockWrite_kept)
    | (with_reducible apply State.setReg_kept)
    | (with_reducible apply State.setFld_kept)
    | (with_reducible apply State.modePorts_kept)
    | (with_reducible apply State.afterWrite_kept)
    | split

theorem execRegisterWrite_kept {cs : Keep} {s : State} (h : s.Kept cs) : ∀ f a v, KeptO cs (execRegisterWrite f a v s) := by
  intros
  unfold execRegisterWrite
  repeat' first
    | (with_reducible assumption)
    | (with_reducible refine ite_keptO ?_ ?_)
    | (with_reducible refine kept_next ?_)
    | (with_reducible apply State.denied_kept)
    | (with_reducible apply State.dropWrite_kept)
    | (with_reducible apply State.setFld_kept)
    | (with_reducible apply State.writeReg_kept)

theorem execSubmitRefused_kept {cs : Keep} {s : State} (h : s.Kept cs) : ∀ f wide, KeptO cs (execSubmitRefused f
    wide s) := by
  intros
  unfold execSubmitRefused
  repeat' first
    | (with_reducible assumption)
    | (extract_lets +onlyGivenNames x; generalize x = y; clear x)
    | (with_reducible refine ite_keptO ?_ ?_)
    | (with_reducible refine kept_next ?_)
    | (with_reducible apply State.unsupported_kept)
    | (with_reducible apply State.submitAnswer_kept)

theorem execOpSelfTest_kept {cs : Keep} {s : State} (h : s.Kept cs) : ∀ f fails, KeptO cs (execOpSelfTest f fails s) := by
  intros
  unfold execOpSelfTest
  repeat' first
    | (with_reducible assumption)
    | (extract_lets +onlyGivenNames x; (have _ := fun a => x a); subst x; dsimp -zeta only)
    | (extract_lets +onlyGivenNames x; generalize x = y; clear x)
    | (with_reducible refine ite_keptO ?_ ?_)
    | (with_reducible refine kept_next ?_)
    | (with_reducible apply State.submit_kept)
    | (with_reducible apply State.abortArg_kept)
    | (with_reducible apply State.endWith_kept)
    | (split; rename_i heq; refine kept_cut2 (cs := cs) heq ?_ ?_; rotate_left; (clear heq; intro _))
    | (with_reducible refine kept_fst ‹_ = (_, _)› ?_)

theorem execOpRecorderRead_kept {cs : Keep} {s : State} (h : s.Kept cs) : ∀ f bad aged, KeptO cs (execOpRecorderRead
    f bad aged s) := by
  intros
  unfold execOpRecorderRead
  repeat' first
    | (with_reducible assumption)
    | intro _
    | (extract_lets +onlyGivenNames x; (have _ := fun a => x a); subst x; dsimp -zeta only)
    | (extract_lets +onlyGivenNames x; refine kept_cut (cs := cs) x ?_ ?_; subst x; rotate_left; generalize x = y;
        clear x; intro _)
    | (extract_lets +onlyGivenNames x; generalize x = y; clear x)
    | (with_reducible refine ite_keptO ?_ ?_)
    | (with_reducible refine kept_next ?_)
    | (with_reducible apply State.submit_kept)
    | (with_reducible apply State.abortArg_kept)
    | (with_reducible apply State.endWith_kept)
    | (with_reducible apply State.emit_kept)
    | (with_reducible apply State.nvm_kept)
    | (with_reducible apply State.gcount_kept)
    | (with_reducible refine foldl_kept ?_ ?_)
    | (split; rename_i heq; refine kept_cut2 (cs := cs) heq ?_ ?_; rotate_left; (clear heq; intro _))
    | (with_reducible refine kept_fst ‹_ = (_, _)› ?_)

theorem State.uhsEdit_kept {cs : Keep} {s : State} {edit : Nat → State → State} (hrun : ∀ n t, t.Kept cs → (edit n
    t).Kept cs) (h : s.Kept cs) : ∀ f act_ unit, State.Kept cs (State.uhsEdit s f act_ ok unit edit) := by
  intros
  unfold State.uhsEdit
  repeat' first
    | (with_reducible assumption)
    | (extract_lets +onlyGivenNames x; refine kept_cut (cs := cs) x ?_ ?_; subst x; rotate_left; generalize x = y;
        clear x; intro _)
    | (extract_lets +onlyGivenNames x; generalize x = y; clear x)
    | (with_reducible refine ite_kept ?_ ?_)
    | (with_reducible apply hrun)
    | (with_reducible apply State.submit_kept)
    | (with_reducible apply State.abortArg_kept)
    | (with_reducible apply State.eventUnit_kept)
    | (with_reducible apply State.endWith_kept)
    | (with_reducible exact kept_mk (kept_fold (by assumption)))
    | (split; rename_i heq; refine kept_cut2 (cs := cs) heq ?_ ?_; rotate_left; (clear heq; intro _))
    | (with_reducible refine kept_fst ‹_ = (_, _)› ?_)

theorem execUhsReadmit_kept {cs : Keep} {s : State} (h : s.Kept cs) : ∀ f, KeptO cs (execUhsReadmit f s) := by
  intros
  unfold execUhsReadmit
  repeat' first
    | (with_reducible assumption)
    | intro _
    | (extract_lets +onlyGivenNames x; refine kept_cut (cs := cs) x ?_ ?_; subst x; rotate_left; generalize x = y;
        clear x; intro _)
    | (with_reducible refine ite_kept ?_ ?_)
    | (with_reducible refine kept_next ?_)
    | (with_reducible apply State.uhsEdit_kept)
    | (with_reducible apply State.readmit_kept)
    | (with_reducible apply State.condHealth_kept)

theorem execUhsClearHealth_kept {cs : Keep} {s : State} (h : s.Kept cs) : ∀ f, KeptO cs (execUhsClearHealth f s) := by
  intros
  unfold execUhsClearHealth
  repeat' first
    | (with_reducible assumption)
    | intro _
    | (extract_lets +onlyGivenNames x; refine kept_cut (cs := cs) x ?_ ?_; subst x; rotate_left; generalize x = y;
        clear x; intro _)
    | (extract_lets +onlyGivenNames x; generalize x = y; clear x)
    | (with_reducible refine ite_kept ?_ ?_)
    | (with_reducible refine kept_next ?_)
    | (with_reducible apply State.uhsEdit_kept)
    | (with_reducible apply State.setHealth_kept)
    | (with_reducible apply State.setHist_kept)
    | (with_reducible apply State.sbAlert_kept)
    | (with_reducible apply State.syncHealth_kept)
    | (with_reducible apply State.healthRec_kept)
    | (with_reducible refine forRange_kept ?_ ?_)

theorem execUhsClearCond_kept {cs : Keep} {s : State} (h : s.Kept cs) : ∀ f, KeptO cs (execUhsClearCond f s) := by
  intros
  unfold execUhsClearCond
  repeat' first
    | (with_reducible assumption)
    | intro _
    | (extract_lets +onlyGivenNames x; refine kept_cut (cs := cs) x ?_ ?_; subst x; rotate_left; generalize x = y;
        clear x; intro _)
    | (extract_lets +onlyGivenNames x; generalize x = y; clear x)
    | (with_reducible refine ite_kept ?_ ?_)
    | (with_reducible refine kept_next ?_)
    | (with_reducible apply State.uhsEdit_kept)
    | (with_reducible apply State.setHist_kept)
    | (with_reducible apply State.condRec_kept)
    | (with_reducible apply State.dropGuard_kept)
    | (with_reducible apply State.condClear_kept)
    | (with_reducible apply State.condHealth_kept)

theorem State.cqShow_kept {cs : Keep} {s : State} (h : s.Kept cs) : State.Kept cs (State.cqShow s) := by
  unfold State.cqShow
  repeat' first
    | (with_reducible assumption)
    | intro _
    | (extract_lets +onlyGivenNames x; generalize x = y; clear x)
    | (with_reducible apply State.setFld_kept)
    | (with_reducible refine forRange_kept ?_ ?_)

theorem State.cqPut_kept {cs : Keep} {s : State} (h : s.Kept cs) : ∀ c, State.Kept cs (State.cqPut s c) := by
  intros
  unfold State.cqPut
  repeat' first
    | (with_reducible assumption)
    | (extract_lets +onlyGivenNames x; refine kept_cut (cs := cs) x ?_ ?_; subst x; rotate_left; generalize x = y;
        clear x; intro _)
    | (extract_lets +onlyGivenNames x; generalize x = y; clear x)
    | (with_reducible refine ite_kept ?_ ?_)
    | (with_reducible apply State.emit_kept)
    | (with_reducible apply State.setFld_kept)
    | (with_reducible exact kept_mk (kept_fold (by assumption)))

theorem State.cqDrain_kept {cs : Keep} (f n : Nat) {s : State} (h : s.Kept cs) : (s.cqDrain f n).Kept cs := by
  induction n generalizing s with
  | zero => exact h
  | succ n ih =>
    unfold State.cqDrain
    split
    · exact h
    · split
      · exact ih (State.cqPut_kept (kept_mk (kept_fold h)) _)
      · exact h

theorem State.cqOverflow_kept {cs : Keep} {s : State} (h : s.Kept cs) : State.Kept cs (State.cqOverflow s) := by
  unfold State.cqOverflow
  repeat' first
    | (with_reducible assumption)
    | intro _
    | (extract_lets +onlyGivenNames x; refine kept_cut (cs := cs) x ?_ ?_; subst x; rotate_left; generalize x = y;
        clear x; intro _)
    | (extract_lets +onlyGivenNames x; generalize x = y; clear x)
    | (with_reducible apply State.gcount_kept)
    | (with_reducible apply State.setFld_kept)
    | (with_reducible refine foldl_kept ?_ ?_)
    | (with_reducible exact kept_mk (kept_fold (by assumption)))

theorem execOpCompletionPost_kept {cs : Keep} {s : State} (h : s.Kept cs) : KeptO cs (execOpCompletionPost s) := by
  unfold execOpCompletionPost
  repeat' first
    | (with_reducible assumption)
    | intro _
    | (extract_lets +onlyGivenNames x; refine kept_cut (cs := cs) x ?_ ?_; subst x; rotate_left; generalize x = y;
        clear x; intro _)
    | (extract_lets +onlyGivenNames x; generalize x = y; clear x)
    | (with_reducible refine kept_next ?_)
    | (with_reducible apply State.cqDrain_kept)
    | (with_reducible apply State.gcount_kept)
    | (with_reducible apply State.cqShow_kept)
    | (with_reducible apply State.cqOverflow_kept)
    | (with_reducible refine forRange_kept ?_ ?_)
    | (with_reducible exact kept_mk (kept_fold (by assumption)))

theorem execCqHeadWrite_kept {cs : Keep} {s : State} (h : s.Kept cs) : ∀ f v, KeptO cs (execCqHeadWrite f v s) := by
  intros
  unfold execCqHeadWrite
  repeat' first
    | (with_reducible assumption)
    | (extract_lets +onlyGivenNames x; refine kept_cut (cs := cs) x ?_ ?_; subst x; rotate_left; generalize x = y;
        clear x; intro _)
    | (with_reducible refine ite_keptO ?_ ?_)
    | (with_reducible refine kept_next ?_)
    | (with_reducible apply State.cqDrain_kept)
    | (with_reducible apply State.setFld_kept)
    | (with_reducible apply State.cqShow_kept)
    | (with_reducible exact kept_mk (kept_fold (by assumption)))

theorem execCqEnable_kept {cs : Keep} {s : State} (h : s.Kept cs) : ∀ f v, KeptO cs (execCqEnable f v s) := by
  intros
  unfold execCqEnable
  repeat' first
    | (with_reducible assumption)
    | (extract_lets +onlyGivenNames x; refine kept_cut (cs := cs) x ?_ ?_; subst x; rotate_left; generalize x = y;
        clear x; intro _)
    | (extract_lets +onlyGivenNames x; generalize x = y; clear x)
    | (with_reducible refine ite_kept ?_ ?_)
    | (with_reducible refine ite_keptO ?_ ?_)
    | (with_reducible refine kept_next ?_)
    | (with_reducible apply State.setFld_kept)
    | (with_reducible apply State.cqDrain_kept)
    | (with_reducible apply State.cqShow_kept)
    | (with_reducible exact kept_mk (kept_fold (by assumption)))

theorem State.wakeStacks_kept {cs : Keep} {s : State} (h : s.Kept cs) : ∀ a n, State.Kept cs (State.wakeStacks s a n) := by
  intros
  unfold State.wakeStacks
  repeat' first
    | (with_reducible assumption)
    | intro _
    | (with_reducible refine ite_kept ?_ ?_)
    | (with_reducible apply State.setDom_kept)
    | (with_reducible refine forRange_kept ?_ ?_)

theorem execHostHbmRead_kept {cs : Keep} {s : State} (h : s.Kept cs) : ∀ f x n env, KeptO cs (execHostHbmRead f x n
    env s) := by
  intros
  unfold execHostHbmRead
  repeat' first
    | (with_reducible assumption)
    | intro _
    | (extract_lets +onlyGivenNames x; refine kept_cut (cs := cs) x ?_ ?_; subst x; rotate_left; generalize x = y;
        clear x; intro _)
    | (extract_lets +onlyGivenNames x; generalize x = y; clear x)
    | (with_reducible refine ite_keptO ?_ ?_)
    | (with_reducible refine kept_next ?_)
    | (with_reducible apply State.unsupported_kept)
    | (with_reducible apply State.wakeStacks_kept)
    | (with_reducible apply State.eccRead_kept)
    | (with_reducible apply State.detect_kept)
    | (with_reducible apply State.emit_kept)
    | (with_reducible refine foldl_kept ?_ ?_)

theorem execHostHbmWrite_kept {cs : Keep} {s : State} (h : s.Kept cs) : ∀ f x l psn, KeptO cs (execHostHbmWrite f x
    l psn s) := by
  intros
  unfold execHostHbmWrite
  repeat' first
    | (with_reducible assumption)
    | (extract_lets +onlyGivenNames x; generalize x = y; clear x)
    | (with_reducible refine ite_keptO ?_ ?_)
    | (with_reducible refine kept_next ?_)
    | (with_reducible apply State.hbmPut_kept)
    | (with_reducible apply State.wakeStacks_kept)
    | (with_reducible apply State.dropWrite_kept)
    | (with_reducible apply State.gcount_kept)
    | (with_reducible apply State.denied_kept)
    | split

theorem execIrqRaise_kept {cs : Keep} {s : State} (h : s.Kept cs) : ∀ f v, KeptO cs (execIrqRaise f v s) := by
  intros
  unfold execIrqRaise
  repeat' first
    | (with_reducible assumption)
    | (extract_lets +onlyGivenNames x; generalize x = y; clear x)
    | (with_reducible refine ite_keptO ?_ ?_)
    | (with_reducible refine kept_next ?_)
    | (with_reducible apply State.emit_kept)
    | (with_reducible exact kept_mk (kept_fold (by assumption)))

theorem execFunctionLevelReset_kept {cs : Keep} {s : State} (h : s.Kept cs) : ∀ f, KeptO cs (execFunctionLevelReset
    f s) := by
  intros
  unfold execFunctionLevelReset
  repeat' first
    | (with_reducible assumption)
    | (extract_lets +onlyGivenNames x; refine kept_cut (cs := cs) x ?_ ?_; subst x; rotate_left; generalize x = y;
        clear x; intro _)
    | (with_reducible refine ite_kept ?_ ?_)
    | (with_reducible refine ite_keptO ?_ ?_)
    | (with_reducible refine kept_next ?_)
    | (with_reducible apply State.setReg_kept)
    | (with_reducible apply State.clearRegs_kept)
    | (with_reducible apply State.cqShow_kept)
    | (with_reducible exact kept_mk (kept_fold (by assumption)))

theorem State.mbxAlert_kept {cs : Keep} {s : State} (h : s.Kept cs) : State.Kept cs (State.mbxAlert s) := by
  unfold State.mbxAlert
  repeat' first
    | (with_reducible assumption)
    | (with_reducible refine ite_kept ?_ ?_)
    | (with_reducible apply State.sbAlert_kept)
    | (with_reducible apply State.setFld_kept)

theorem State.deliver_kept {cs : Keep} {s : State} (h : s.Kept cs) : ∀ n who gid l, State.Kept cs (State.deliver s n
    who gid l) := by
  intros
  unfold State.deliver
  repeat' first
    | (with_reducible assumption)
    | intro _
    | (extract_lets +onlyGivenNames x; refine kept_cut (cs := cs) x ?_ ?_; subst x; rotate_left; generalize x = y;
        clear x; intro _)
    | (extract_lets +onlyGivenNames x; generalize x = y; clear x)
    | (with_reducible refine ite_kept ?_ ?_)
    | (with_reducible apply State.gcount_kept)
    | (with_reducible apply State.setFld_kept)
    | (with_reducible apply State.setReg_kept)
    | (with_reducible apply State.setDom_kept)
    | (with_reducible apply State.mbxAlert_kept)
    | (with_reducible refine forRange_kept ?_ ?_)
    | (with_reducible exact kept_mk (kept_fold (by assumption)))

theorem execMbxSend_kept {cs : Keep} {s : State} (h : s.Kept cs) : ∀ n who off enabled l, KeptO cs (execMbxSend n
    who off enabled l s) := by
  intros
  unfold execMbxSend
  repeat' first
    | (with_reducible assumption)
    | (extract_lets +onlyGivenNames x; generalize x = y; clear x)
    | (with_reducible refine ite_keptO ?_ ?_)
    | (with_reducible refine kept_next ?_)
    | (with_reducible apply State.gcount_kept)
    | (with_reducible apply State.setFld_kept)
    | (with_reducible apply State.dropWrite_kept)
    | (with_reducible apply State.deliver_kept)
    | (with_reducible apply State.emit_kept)
    | split

theorem State.takeMbx_kept {cs : Keep} {s : State} (h : s.Kept cs) : ∀ n v, State.Kept cs (State.takeMbx s n v) := by
  intros
  unfold State.takeMbx
  repeat' first
    | (with_reducible assumption)
    | (extract_lets +onlyGivenNames x; refine kept_cut (cs := cs) x ?_ ?_; subst x; rotate_left; generalize x = y;
        clear x; intro _)
    | (with_reducible refine ite_kept ?_ ?_)
    | (with_reducible apply State.setFld_kept)
    | (with_reducible apply State.mbxAlert_kept)

theorem execMbxTake_kept {cs : Keep} {s : State} (h : s.Kept cs) : ∀ n who v, KeptO cs (execMbxTake n who v s) := by
  intros
  unfold execMbxTake
  repeat' first
    | (with_reducible assumption)
    | (extract_lets +onlyGivenNames x; generalize x = y; clear x)
    | (with_reducible refine ite_keptO ?_ ?_)
    | (with_reducible refine kept_next ?_)
    | (with_reducible apply State.denied_kept)
    | (with_reducible apply State.dropWrite_kept)
    | (with_reducible apply State.takeMbx_kept)
    | split

theorem State.remoteMbx_kept {cs : Keep} {s : State} (h : s.Kept cs) : ∀ src part off l, State.Kept cs
    (State.remoteMbx s src part off l) := by
  intros
  unfold State.remoteMbx
  repeat' first
    | (with_reducible assumption)
    | (with_reducible refine ite_kept ?_ ?_)
    | (with_reducible apply State.deliver_kept)
    | (with_reducible apply State.gcount_kept)

theorem execRemoteMailboxSend_kept {cs : Keep} {s : State} (h : s.Kept cs) : ∀ f v, KeptO cs (execRemoteMailboxSend
    f v s) := by
  intros
  unfold execRemoteMailboxSend
  repeat' first
    | (with_reducible assumption)
    | (extract_lets +onlyGivenNames x; refine kept_cut (cs := cs) x ?_ ?_; subst x; rotate_left; generalize x = y;
        clear x; intro _)
    | (extract_lets +onlyGivenNames x; generalize x = y; clear x)
    | (with_reducible refine ite_keptO ?_ ?_)
    | (with_reducible refine kept_next ?_)
    | (with_reducible apply State.denied_kept)
    | (with_reducible apply State.setReg_kept)
    | (with_reducible apply State.sendMgmt_kept)

theorem State.keeperMessage_kept {cs : Keep} {s : State} (h : s.Kept cs) : ∀ n, State.Kept cs (State.keeperMessage s n) := by
  intros
  unfold State.keeperMessage
  repeat' first
    | (with_reducible assumption)
    | (extract_lets +onlyGivenNames x; refine kept_cut (cs := cs) x ?_ ?_; subst x; rotate_left; generalize x = y;
        clear x; intro _)
    | (extract_lets +onlyGivenNames x; generalize x = y; clear x)
    | (with_reducible refine ite_kept ?_ ?_)
    | (with_reducible apply State.setFld_kept)
    | (with_reducible apply State.gcount_kept)
    | (with_reducible apply State.deliver_kept)
    | (with_reducible apply State.sendMgmt_kept)
    | split

theorem execHello_kept {cs : Keep} {s : State} (h : s.Kept cs) : ∀ n, KeptO cs (execHello n s) := by
  intros
  unfold execHello
  repeat' first
    | (with_reducible assumption)
    | (with_reducible refine ite_keptO ?_ ?_)
    | (with_reducible refine kept_next ?_)
    | (with_reducible apply State.keeperMessage_kept)

end Sys2Proof.Machine
end

