-- ==== Sys2Proof/Laws/KeptG.lean ====
section
/-! SUPPORT. What the operations of Machine/Trace, Machine/Boot, Machine/Reset, Machine/Power keep (`State.Kept`): the queue, and the invariant. -/
namespace Sys2Proof.Machine

theorem State.dbgWrite_kept {cs : Keep} {s : State} {run : State → State} (hrun : ∀ t, t.Kept cs → (run t).Kept cs)
    (h : s.Kept cs) : ∀ f p, State.Kept cs (State.dbgWrite s f p run) := by
  intros
  unfold State.dbgWrite
  repeat' first
    | (with_reducible assumption)
    | (with_reducible refine ite_kept ?_ ?_)
    | (with_reducible apply hrun)
    | (with_reducible apply State.denied_kept)
    | (with_reducible apply State.dropWrite_kept)

theorem State.clearCounter_kept {cs : Keep} {s : State} (h : s.Kept cs) (p n : Nat) : (s.clearCounter p n).Kept cs := by
  have hc (k : Nat) (b : cs.inv) := cntSet_lt (h.2 b).cnt k (show 0 < 2 ^ 48 by decide)
  have e (t : State) (l : Store Nat) (h1 : t.Kept cs) (h2 : cs.inv → ∀ c ∈ l, c.2 < 2 ^ 48) : State.Kept cs { t with
      cnt := l } :=
    ⟨h1.1, fun b => let i := h1.2 b
      ⟨i.mem, i.poison, i.regs, i.ftime, h2 b, i.vx, i.vxPsn⟩⟩
  unfold State.clearCounter
  split
  · exact e _ _ (State.setReg_kept h DBG_GCNT_CLEAR (BitVec.ofNat 32 (n % 1024))) (hc _)
  · exact e _ _ (State.setReg_kept h (DBG_CNT_CLEAR p) (BitVec.ofNat 32 (n % 1024))) (hc _)

theorem execCounterClear_kept {cs : Keep} {s : State} (h : s.Kept cs) : ∀ f p n, KeptO cs (execCounterClear f p n s) := by
  intros
  unfold execCounterClear
  repeat' first
    | (with_reducible assumption)
    | intro _
    | (with_reducible refine kept_next ?_)
    | (with_reducible apply State.dbgWrite_kept)
    | (with_reducible apply State.clearCounter_kept)

theorem State.clearCounters_kept {cs : Keep} {s : State} (h : s.Kept cs) (p : Nat) : (s.clearCounters p).Kept cs := by
  have hc (k : Nat) (b : cs.inv) : ∀ c ∈ storeClear s.cnt k 1024, c.2 < 2 ^ 48 :=
    fun c hc => (h.2 b).cnt c (List.mem_filter.mp hc).1
  have e (t : State) (l : Store Nat) (h1 : t.Kept cs) (h2 : cs.inv → ∀ c ∈ l, c.2 < 2 ^ 48) : State.Kept cs { t with
      cnt := l } :=
    ⟨h1.1, fun b => let i := h1.2 b
      ⟨i.mem, i.poison, i.regs, i.ftime, h2 b, i.vx, i.vxPsn⟩⟩
  unfold State.clearCounters
  split
  · exact e _ _ (State.setReg_kept h DBG_GCNT_CLEAR (BitVec.ofNat 32 (2 ^ 30))) (hc _)
  · exact e _ _ (State.setReg_kept h (DBG_CNT_CLEAR p) (BitVec.ofNat 32 (2 ^ 30))) (hc _)

theorem execCounterClearAll_kept {cs : Keep} {s : State} (h : s.Kept cs) : ∀ f p, KeptO cs (execCounterClearAll f p s) := by
  intros
  unfold execCounterClearAll
  repeat' first
    | (with_reducible assumption)
    | intro _
    | (with_reducible refine kept_next ?_)
    | (with_reducible apply State.dbgWrite_kept)
    | (with_reducible apply State.clearCounters_kept)

theorem State.traceArm_kept {cs : Keep} {s : State} (h : s.Kept cs) : ∀ p, State.Kept cs (State.traceArm s p) := by
  intros
  unfold State.traceArm
  repeat' first
    | (with_reducible assumption)
    | (extract_lets +onlyGivenNames x; refine kept_cut (cs := cs) x ?_ ?_; subst x; rotate_left; generalize x = y;
        clear x; intro _)
    | (extract_lets +onlyGivenNames x; generalize x = y; clear x)
    | (with_reducible refine ite_kept ?_ ?_)
    | (with_reducible apply State.setFld_kept)
    | (with_reducible apply State.setTrc_kept)
    | (with_reducible apply State.trcTime_kept)
    | (with_reducible apply State.trcGap_kept)

theorem execTraceArm_kept {cs : Keep} {s : State} (h : s.Kept cs) : ∀ f p, KeptO cs (execTraceArm f p s) := by
  intros
  unfold execTraceArm
  repeat' first
    | (with_reducible assumption)
    | intro _
    | (with_reducible refine ite_keptO ?_ ?_)
    | (with_reducible refine kept_next ?_)
    | (with_reducible apply State.dbgWrite_kept)
    | (with_reducible apply State.traceArm_kept)

theorem execTraceTrigger_kept {cs : Keep} {s : State} (h : s.Kept cs) : ∀ f p, KeptO cs (execTraceTrigger f p s) := by
  intros
  unfold execTraceTrigger
  repeat' first
    | (with_reducible assumption)
    | intro _
    | (with_reducible refine ite_keptO ?_ ?_)
    | (with_reducible refine kept_next ?_)
    | (with_reducible apply State.dbgWrite_kept)
    | (with_reducible apply State.trigger_kept)

theorem State.regsReset_rising {s : State} (h : storeRising s.regs) (lvl : Nat) (f : Nat → Bool) :
    storeRising (s.regsReset lvl f).regs := by
  unfold State.regsReset
  refine List.pairwise_filterMap.mpr (List.Pairwise.imp ?_ h)
  intro a b hab x hx y hy
  have key : ∀ {c d : Nat × Word}, (if !f (c.1 % 0x80000000) then some c else
      match regRow (c.1 % 0x80000000) with
      | none => none
      | some (r, _) =>
        let w := (c.2 &&& BitVec.ofNat 32 (r.kept lvl)) ||| (wordDefault c.1 &&& ~~~ BitVec.ofNat 32 (r.kept lvl))
        if w = wordDefault c.1 then none else some (c.1, w)) = some d → d.1 = c.1 := by
    intro c d e
    split at e
    · cases e; rfl
    · split at e
      · cases e
      · dsimp only at e
        split at e
        · cases e
        · cases e; rfl
  rw [key hx, key hy]
  exact hab

theorem State.regsReset_kept {cs : Keep} {s : State} (h : s.Kept cs) (lvl : Nat) (f : Nat → Bool) :
    (s.regsReset lvl f).Kept cs := kept_of h rfl fun i => ⟨i.mem, i.poison, State.regsReset_rising i.regs _ _,
        i.ftime, i.cnt, i.vx, i.vxPsn⟩

theorem State.emptySlots_kept {cs : Keep} {s : State} (h : s.Kept cs) : ∀ p, State.Kept cs (State.emptySlots s p) := by
  intros
  unfold State.emptySlots
  repeat' first
    | (with_reducible assumption)
    | (with_reducible apply State.setReg_kept)
    | (with_reducible apply State.setFld_kept)

theorem State.endMigrations_kept {cs : Keep} {s : State} (h : s.Kept cs) : ∀ p, State.Kept cs (State.endMigrations s p) := by
  intros
  unfold State.endMigrations
  repeat' first
    | (with_reducible assumption)
    | intro _
    | (extract_lets +onlyGivenNames x; refine kept_cut (cs := cs) x ?_ ?_; subst x; rotate_left; generalize x = y;
        clear x; intro _)
    | (extract_lets +onlyGivenNames x; generalize x = y; clear x)
    | (with_reducible apply State.setFld_kept)
    | (with_reducible refine foldl_kept ?_ ?_)
    | (with_reducible exact kept_mk (kept_fold (by assumption)))

theorem State.zeroStack_kept {cs : Keep} {s : State} (h : s.Kept cs) : ∀ p, State.Kept cs (State.zeroStack s p) := by
  intros
  unfold State.zeroStack
  repeat' first
    | (with_reducible assumption)
    | (with_reducible apply State.endMigrations_kept)
    | (with_reducible apply State.emptySlots_kept)
    | (with_reducible apply State.zeroUnits_kept)

theorem State.zeroTile_kept {cs : Keep} {s : State} (h : s.Kept cs) : ∀ p, State.Kept cs (State.zeroTile s p) := by
  intros
  unfold State.zeroTile
  repeat' first
    | (with_reducible assumption)
    | (with_reducible apply State.zeroUnits_kept)

theorem State.restoreHist_kept {cs : Keep} {s : State} (h : s.Kept cs) : ∀ env, State.Kept cs (State.restoreHist s env) := by
  intros
  unfold State.restoreHist
  repeat' first
    | (with_reducible assumption)
    | intro _
    | (extract_lets +onlyGivenNames x; refine kept_cut (cs := cs) x ?_ ?_; subst x; rotate_left; generalize x = y;
        clear x; intro _)
    | (extract_lets +onlyGivenNames x; generalize x = y; clear x)
    | (with_reducible apply State.nvm_kept)
    | (with_reducible apply State.setReg_kept)
    | (with_reducible apply State.setFld_kept)
    | (with_reducible refine foldl_kept ?_ ?_)
    | (with_reducible exact kept_mk (kept_fold (by assumption)))
    | split

theorem State.rebuildCounts_kept {cs : Keep} {s : State} (h : s.Kept cs) : State.Kept cs (State.rebuildCounts s) := by
  unfold State.rebuildCounts
  repeat' first
    | (extract_lets +onlyGivenNames x; generalize x = y; clear x)
    | (with_reducible exact kept_mk (kept_fold (by assumption)))

theorem State.restoreCkpt_kept {cs : Keep} {s : State} (h : s.Kept cs) : ∀ env cause, State.Kept cs
    (State.restoreCkpt s env cause) := by
  intros
  unfold State.restoreCkpt
  repeat' first
    | (with_reducible assumption)
    | (extract_lets +onlyGivenNames x; (have _ := fun a => x a); subst x; dsimp -zeta only)
    | (extract_lets +onlyGivenNames x; refine kept_cut (cs := cs) x ?_ ?_; subst x; rotate_left; generalize x = y;
        clear x; intro _)
    | (extract_lets +onlyGivenNames x; generalize x = y; clear x)
    | (with_reducible refine ite_kept ?_ ?_)
    | (with_reducible apply State.accAdd_kept)
    | (with_reducible apply State.stageRec_kept)
    | (with_reducible apply State.setFld_kept)
    | (with_reducible apply State.dayClose_kept)
    | (with_reducible apply State.nvm_kept)
    | (with_reducible exact kept_mk (kept_fold (by assumption)))
    | split

theorem State.restartMigrations_kept {cs : Keep} {s : State} (h : s.Kept cs) : State.Kept cs
    (State.restartMigrations s) := by
  unfold State.restartMigrations
  repeat' first
    | (with_reducible assumption)
    | intro _
    | (extract_lets +onlyGivenNames x; refine kept_cut (cs := cs) x ?_ ?_; subst x; rotate_left; generalize x = y;
        clear x; intro _)
    | (extract_lets +onlyGivenNames x; generalize x = y; clear x)
    | (with_reducible apply State.setFld_kept)
    | (with_reducible refine forRange_kept ?_ ?_)
    | (with_reducible exact kept_mk (kept_fold (by assumption)))

theorem State.rebuildEngines_kept {cs : Keep} {s : State} (h : s.Kept cs) : ∀ p, State.Kept cs (State.rebuildEngines
    s p) := by
  intros
  unfold State.rebuildEngines
  repeat' first
    | (with_reducible assumption)
    | (extract_lets +onlyGivenNames x; (have _ := fun a => x a); subst x; dsimp -zeta only)
    | (extract_lets +onlyGivenNames x; refine kept_cut (cs := cs) x ?_ ?_; subst x; rotate_left; generalize x = y;
        clear x; intro _)
    | (with_reducible apply State.setFld_kept)
    | (with_reducible apply State.mxMap_kept)

theorem State.bootUp_kept {cs : Keep} {s : State} (h : s.Kept cs) : ∀ cause kept env, State.Kept cs (State.bootUp s
    cause kept env) := by
  intros
  unfold State.bootUp
  repeat' first
    | (with_reducible assumption)
    | intro _
    | (extract_lets +onlyGivenNames x; (have _ := fun a => x a); subst x; dsimp -zeta only)
    | (extract_lets +onlyGivenNames x; refine kept_cut (cs := cs) x ?_ ?_; subst x; rotate_left; generalize x = y;
        clear x; intro _)
    | (extract_lets +onlyGivenNames x; generalize x = y; clear x)
    | (with_reducible refine ite_kept ?_ ?_)
    | (with_reducible apply State.setFld_kept)
    | (with_reducible apply State.addFault_kept)
    | (with_reducible apply State.setReady_kept)
    | (with_reducible apply State.clearFault_kept)
    | (with_reducible apply State.restoreHist_kept)
    | (with_reducible apply State.rebuildCounts_kept)
    | (with_reducible apply State.setClockGuard_kept)
    | (with_reducible apply State.setRails_kept)
    | (with_reducible apply State.restartMigrations_kept)
    | (with_reducible apply State.restoreCkpt_kept)
    | (with_reducible apply State.rebuildEngines_kept)
    | (with_reducible apply State.syncHealth_kept)
    | (with_reducible apply State.retireUsed_kept)
    | (with_reducible apply State.domainsUp_kept)
    | (with_reducible apply State.keeperRec_kept)
    | (with_reducible apply State.gcount_kept)
    | (with_reducible apply State.sbAlert_kept)
    | (with_reducible refine forRange_kept ?_ ?_)
    | (with_reducible exact kept_mk (kept_fold (by assumption)))

theorem State.afterPowerLoss_kept {cs : Keep} {s : State} (h : s.Kept cs) : s.afterPowerLoss.Kept cs :=
  kept_of h rfl fun i => ⟨⟨List.Pairwise.nil, fun _ hc => nomatch hc⟩, ⟨List.Pairwise.nil, fun _ hc => nomatch hc⟩,
    State.regsReset_rising i.regs 4 (fun _ => true), Nat.zero_lt_succ _, (fun _ hc => nomatch hc), List.Pairwise.nil,
    List.Pairwise.nil⟩

theorem State.afterModuleReset_kept {cs : Keep} {s : State} (h : s.Kept cs) (keep : Nat → Bool) :
    (s.afterModuleReset keep).Kept cs := by
  unfold State.afterModuleReset
  refine forRange_kept (fun p x hx => ?_) (kept_of h rfl fun i => ⟨storeWf_filter _ i.mem,
    storeWf_filter _ i.poison, State.regsReset_rising i.regs 3 (fun _ => true), i.ftime,
    (fun c hc => i.cnt c (List.mem_filter.mp hc).1), List.Pairwise.nil, List.Pairwise.nil⟩)
  split
  · exact hx
  · exact State.endMigrations_kept (State.emptySlots_kept hx _) _

theorem State.keeperNote_kept {cs : Keep} {s : State} (h : s.Kept cs) : ∀ unit flags kind trig result retain ctx us
    count, State.Kept cs (State.keeperNote s unit flags kind trig result retain ctx us count) := by
  intros
  unfold State.keeperNote
  repeat' first
    | (with_reducible assumption)
    | (with_reducible apply State.keeperRec_kept)

theorem State.rstRecord_kept {cs : Keep} {s : State} (h : s.Kept cs) : ∀ r result, State.Kept cs (State.rstRecord s
    r result) := by
  intros
  unfold State.rstRecord
  repeat' first
    | (with_reducible assumption)
    | (with_reducible apply State.keeperNote_kept)

theorem State.rstShow_kept {cs : Keep} {s : State} (h : s.Kept cs) : State.Kept cs (State.rstShow s) := by
  unfold State.rstShow
  repeat' first
    | (with_reducible assumption)
    | (with_reducible apply State.setFld_kept)

theorem State.rstLast_kept {cs : Keep} {s : State} (h : s.Kept cs) : ∀ scope trig retain unit ctx, State.Kept cs
    (State.rstLast s scope trig retain unit ctx) := by
  intros
  unfold State.rstLast
  repeat' first
    | (with_reducible assumption)
    | (with_reducible apply State.setReg_kept)

theorem State.rstStart_kept {cs : Keep} {s : State} (h : s.Kept cs) : ∀ kind unit ctx trig, State.Kept cs
    (State.rstStart s kind unit ctx trig) := by
  intros
  unfold State.rstStart
  repeat' first
    | (with_reducible assumption)
    | intro _
    | (extract_lets +onlyGivenNames x; refine kept_cut (cs := cs) x ?_ ?_; subst x; rotate_left; generalize x = y;
        clear x; intro _)
    | (extract_lets +onlyGivenNames x; generalize x = y; clear x)
    | (with_reducible refine ite_kept ?_ ?_)
    | (with_reducible apply State.rstRecord_kept)
    | (with_reducible apply State.rstShow_kept)
    | (with_reducible apply State.gcount_kept)
    | (with_reducible apply State.rstLast_kept)
    | (with_reducible refine foldl_kept ?_ ?_)
    | (with_reducible exact kept_mk (kept_fold (by assumption)))

theorem State.rstEnd_kept {cs : Keep} {s : State} (h : s.Kept cs) : ∀ r result, State.Kept cs (State.rstEnd s r result) := by
  intros
  unfold State.rstEnd
  repeat' first
    | (with_reducible assumption)
    | (extract_lets +onlyGivenNames x; refine kept_cut (cs := cs) x ?_ ?_; subst x; rotate_left; generalize x = y;
        clear x; intro _)
    | (with_reducible refine ite_kept ?_ ?_)
    | (with_reducible apply State.rstRecord_kept)
    | (with_reducible apply State.setFld_kept)
    | (with_reducible apply State.rstShow_kept)
    | (with_reducible exact kept_mk (kept_fold (by assumption)))

theorem State.takePower_kept {cs : Keep} {s : State} (h : s.Kept cs) : ∀ trig, State.Kept cs (State.takePower s trig) := by
  intros
  unfold State.takePower
  repeat' first
    | (with_reducible assumption)
    | (with_reducible refine ite_kept ?_ ?_)
    | (with_reducible apply State.rstStart_kept)

theorem State.moduleDown_kept {cs : Keep} {s : State} (h : s.Kept cs) : State.Kept cs (State.moduleDown s) := by
  unfold State.moduleDown
  repeat' first
    | (with_reducible assumption)
    | intro _
    | (extract_lets +onlyGivenNames x; refine kept_cut (cs := cs) x ?_ ?_; subst x; rotate_left; generalize x = y;
        clear x; intro _)
    | (with_reducible apply State.sbAlert_kept)
    | (with_reducible apply State.setReady_kept)
    | (with_reducible apply State.ctxResetAll_kept)
    | (with_reducible refine forRange_kept ?_ ?_)

theorem State.takeModule_kept {cs : Keep} {s : State} (h : s.Kept cs) : ∀ trig, State.Kept cs (State.takeModule s trig) := by
  intros
  unfold State.takeModule
  repeat' first
    | (with_reducible assumption)
    | (extract_lets +onlyGivenNames x; refine kept_cut (cs := cs) x ?_ ?_; subst x; rotate_left; generalize x = y;
        clear x; intro _)
    | (with_reducible refine ite_kept ?_ ?_)
    | (with_reducible apply State.takePower_kept)
    | (with_reducible apply State.moduleDown_kept)
    | (with_reducible apply State.rstStart_kept)
    | (with_reducible exact kept_mk (kept_fold (by assumption)))

theorem State.takePart_kept {cs : Keep} {s : State} (h : s.Kept cs) : ∀ p trig, State.Kept cs (State.takePart s p trig) := by
  intros
  unfold State.takePart
  repeat' first
    | (with_reducible assumption)
    | (extract_lets +onlyGivenNames x; refine kept_cut (cs := cs) x ?_ ?_; subst x; rotate_left; generalize x = y;
        clear x; intro _)
    | (extract_lets +onlyGivenNames x; generalize x = y; clear x)
    | (with_reducible refine ite_kept ?_ ?_)
    | (with_reducible apply State.takeModule_kept)
    | (with_reducible apply State.ctxResetAll_kept)
    | (with_reducible apply State.rstStart_kept)
    | (with_reducible apply State.setFld_kept)

theorem State.setOnline_kept {cs : Keep} {s : State} (h : s.Kept cs) : ∀ u v, State.Kept cs (State.setOnline s u v) := by
  intros
  unfold State.setOnline
  repeat' first
    | (with_reducible assumption)
    | (extract_lets +onlyGivenNames x; generalize x = y; clear x)
    | (with_reducible refine ite_kept ?_ ?_)
    | (with_reducible apply State.mxMap_kept)
    | (with_reducible apply State.setFld_kept)

theorem State.takeEngine_kept {cs : Keep} {s : State} (h : s.Kept cs) : ∀ u trig, State.Kept cs (State.takeEngine s
    u trig) := by
  intros
  unfold State.takeEngine
  repeat' first
    | (with_reducible assumption)
    | (extract_lets +onlyGivenNames x; refine kept_cut (cs := cs) x ?_ ?_; subst x; rotate_left; generalize x = y;
        clear x; intro _)
    | (extract_lets +onlyGivenNames x; generalize x = y; clear x)
    | (with_reducible refine ite_kept ?_ ?_)
    | (with_reducible apply State.takeModule_kept)
    | (with_reducible apply State.takePart_kept)
    | (with_reducible apply State.rstStart_kept)
    | (with_reducible apply State.setOnline_kept)
    | (with_reducible exact kept_mk (kept_fold (by assumption)))

theorem State.takeCtx_kept {cs : Keep} {s : State} (h : s.Kept cs) : ∀ p ctx trig, State.Kept cs (State.takeCtx s p
    ctx trig) := by
  intros
  unfold State.takeCtx
  repeat' first
    | (with_reducible assumption)
    | (extract_lets +onlyGivenNames x; generalize x = y; clear x)
    | (with_reducible refine ite_kept ?_ ?_)
    | (with_reducible apply State.rstStart_kept)

theorem execContextReset_kept {cs : Keep} {s : State} (h : s.Kept cs) : ∀ p ctx, KeptO cs (execContextReset p ctx s) := by
  intros
  unfold execContextReset
  repeat' first
    | (with_reducible assumption)
    | (with_reducible refine kept_next ?_)
    | (with_reducible apply State.rstEnd_kept)
    | (with_reducible apply State.ctxReset_kept)
    | split

theorem State.clearEngine_kept {cs : Keep} {s : State} (h : s.Kept cs) : ∀ u, State.Kept cs (State.clearEngine s u) := by
  intros
  unfold State.clearEngine
  repeat' first
    | (with_reducible assumption)
    | intro _
    | (extract_lets +onlyGivenNames x; refine kept_cut (cs := cs) x ?_ ?_; subst x; rotate_left; generalize x = y;
        clear x; intro _)
    | (extract_lets +onlyGivenNames x; generalize x = y; clear x)
    | (with_reducible refine ite_kept ?_ ?_)
    | (with_reducible apply State.ctxReset_kept)
    | (with_reducible apply State.bcastClose_kept)
    | (with_reducible apply State.bcastEnd_kept)
    | (with_reducible apply State.zeroVvs_kept)
    | (with_reducible apply State.zeroVt_kept)
    | (with_reducible refine foldl_kept ?_ ?_)
    | (with_reducible refine forRange_kept ?_ ?_)
    | (with_reducible exact kept_mk (kept_fold (by assumption)))

theorem execEngineReset_kept {cs : Keep} {s : State} (h : s.Kept cs) : ∀ u, KeptO cs (execEngineReset u s) := by
  intros
  unfold execEngineReset
  repeat' first
    | (with_reducible assumption)
    | (with_reducible refine kept_next ?_)
    | (with_reducible apply State.clearEngine_kept)
    | split

theorem execEngineSelfTestDone_kept {cs : Keep} {s : State} (h : s.Kept cs) : ∀ u pass, KeptO cs
    (execEngineSelfTestDone u pass s) := by
  intros
  unfold execEngineSelfTestDone
  repeat' first
    | (with_reducible assumption)
    | (extract_lets +onlyGivenNames x; generalize x = y; clear x)
    | (with_reducible refine ite_kept ?_ ?_)
    | (with_reducible refine ite_keptO ?_ ?_)
    | (with_reducible refine kept_next ?_)
    | (with_reducible apply State.setOnline_kept)
    | (with_reducible apply State.rstEnd_kept)
    | (with_reducible apply State.permanent_kept)
    | (with_reducible exact kept_mk (kept_fold (by assumption)))
    | split
    | (with_reducible refine kept_mk (kept_fold ?_); first | with_reducible apply State.setOnline_kept | with_reducible apply State.rstEnd_kept | with_reducible apply State.permanent_kept)
    | dsimp only

theorem State.endPartOps_kept {cs : Keep} {s : State} (h : s.Kept cs) : ∀ p, State.Kept cs (State.endPartOps s p) := by
  intros
  unfold State.endPartOps
  repeat' first
    | (with_reducible assumption)
    | intro _
    | (extract_lets +onlyGivenNames x; (have _ := fun a => x a); subst x; dsimp -zeta only)
    | (extract_lets +onlyGivenNames x; refine kept_cut (cs := cs) x ?_ ?_; subst x; rotate_left; generalize x = y;
        clear x; intro _)
    | (extract_lets +onlyGivenNames x; generalize x = y; clear x)
    | (with_reducible refine ite_kept ?_ ?_)
    | (with_reducible apply State.cutOp_kept)
    | (with_reducible apply State.unplacePrograms_kept)
    | (with_reducible apply State.endWith_kept)
    | (with_reducible apply State.setReg_kept)
    | (with_reducible apply State.setFld_kept)
    | (with_reducible refine foldl_kept ?_ ?_)
    | (with_reducible exact kept_mk (kept_fold (by assumption)))
    | split

theorem State.zeroVx_kept {cs : Keep} {s : State} (h : s.Kept cs) (p : Nat) : (s.zeroVx p).Kept cs :=
  kept_of h rfl fun i => ⟨i.mem, i.poison, i.regs, i.ftime, i.cnt, storeRising_clear _ _ i.vx, storeRising_clear _ _ i.vxPsn⟩

theorem State.partReset_kept {cs : Keep} {s : State} (h : s.Kept cs) : ∀ p, State.Kept cs (State.partReset s p) := by
  intros
  unfold State.partReset
  repeat' first
    | (with_reducible assumption)
    | intro _
    | (extract_lets +onlyGivenNames x; refine kept_cut (cs := cs) x ?_ ?_; subst x; rotate_left; generalize x = y;
        clear x; intro _)
    | (extract_lets +onlyGivenNames x; generalize x = y; clear x)
    | (with_reducible refine ite_kept ?_ ?_)
    | (with_reducible apply State.endPartOps_kept)
    | (with_reducible apply State.ctxResetAll_kept)
    | (with_reducible apply State.updRun_kept)
    | (with_reducible apply State.setFld_kept)
    | (with_reducible apply State.zeroStack_kept)
    | (with_reducible apply State.zeroTile_kept)
    | (with_reducible apply State.regsReset_kept)
    | (with_reducible apply State.enterKilled_kept)
    | (with_reducible apply State.zeroVx_kept)
    | (with_reducible apply State.rebuildEngines_kept)
    | (with_reducible apply State.setDom_kept)
    | (with_reducible refine forRange_kept ?_ ?_)
    | (with_reducible exact kept_mk (kept_fold (by assumption)))

theorem execPartitionReset_kept {cs : Keep} {s : State} (h : s.Kept cs) : ∀ p, KeptO cs (execPartitionReset p s) := by
  intros
  unfold execPartitionReset
  repeat' first
    | (with_reducible assumption)
    | (with_reducible refine kept_next ?_)
    | (with_reducible apply State.rstEnd_kept)
    | (with_reducible apply State.partReset_kept)
    | split

theorem State.moduleClear_kept {cs : Keep} {s : State} (h : s.Kept cs) : State.Kept cs (State.moduleClear s) := by
  unfold State.moduleClear
  repeat' first
    | (with_reducible assumption)
    | (with_reducible apply State.afterModuleReset_kept)

theorem State.moduleBoot_kept {cs : Keep} {s : State} (h : s.Kept cs) : ∀ cause env, State.Kept cs (State.moduleBoot
    s cause env) := by
  intros
  unfold State.moduleBoot
  repeat' first
    | (with_reducible assumption)
    | intro _
    | (extract_lets +onlyGivenNames x; refine kept_cut (cs := cs) x ?_ ?_; subst x; rotate_left; generalize x = y;
        clear x; intro _)
    | (extract_lets +onlyGivenNames x; generalize x = y; clear x)
    | (with_reducible refine ite_kept ?_ ?_)
    | (with_reducible apply State.bootUp_kept)
    | (with_reducible apply State.rstEnd_kept)
    | (with_reducible apply State.rstShow_kept)
    | (with_reducible refine foldl_kept ?_ ?_)
    | (with_reducible exact kept_mk (kept_fold (by assumption)))

theorem execModuleReset_kept {cs : Keep} {s : State} (h : s.Kept cs) : ∀ env, KeptO cs (execModuleReset env s) := by
  intros
  unfold execModuleReset
  repeat' first
    | (with_reducible assumption)
    | (with_reducible refine ite_keptO ?_ ?_)
    | (with_reducible refine kept_next ?_)
    | (with_reducible apply State.moduleBoot_kept)
    | (with_reducible apply State.moduleClear_kept)

theorem State.holdModule_kept {cs : Keep} {s : State} (h : s.Kept cs) : ∀ fault, State.Kept cs (State.holdModule s
    fault) := by
  intros
  unfold State.holdModule
  repeat' first
    | (with_reducible assumption)
    | (extract_lets +onlyGivenNames x; refine kept_cut (cs := cs) x ?_ ?_; subst x; rotate_left; generalize x = y;
        clear x; intro _)
    | (with_reducible apply State.addFault_kept)
    | (with_reducible apply State.moduleClear_kept)
    | (with_reducible apply State.moduleDown_kept)
    | (with_reducible exact kept_mk (kept_fold (by assumption)))

theorem State.drainDetections_kept {cs : Keep} {s : State} (h : s.Kept cs) : State.Kept cs (State.drainDetections s) := by
  unfold State.drainDetections
  repeat' first
    | (with_reducible assumption)
    | intro _
    | (with_reducible apply State.takeDetections_kept)
    | (with_reducible refine forRange_kept ?_ ?_)

theorem State.powerCycle_kept {cs : Keep} {s : State} (h : s.Kept cs) : State.Kept cs (State.powerCycle s) := by
  unfold State.powerCycle
  repeat' first
    | (with_reducible assumption)
    | (extract_lets +onlyGivenNames x; refine kept_cut (cs := cs) x ?_ ?_; subst x; rotate_left; generalize x = y;
        clear x; intro _)
    | (with_reducible refine ite_kept ?_ ?_)
    | (with_reducible apply State.setFld_kept)
    | (with_reducible apply State.holdModule_kept)
    | (with_reducible apply State.keeperNote_kept)
    | (with_reducible apply State.rstRecord_kept)
    | (with_reducible apply State.drainDetections_kept)
    | (with_reducible apply State.opRingWrite_kept)
    | (with_reducible apply State.flushNow_kept)
    | (with_reducible apply State.noteDrops_kept)
    | (with_reducible apply State.checkpoint_kept)
    | (with_reducible exact kept_mk (kept_fold (by assumption)))
    | split
    | (with_reducible refine kept_mk (kept_fold ?_); first | with_reducible apply State.setFld_kept | with_reducible apply State.holdModule_kept | with_reducible apply State.keeperNote_kept | with_reducible apply State.rstRecord_kept | with_reducible apply State.drainDetections_kept | with_reducible apply State.copyNow_kept | with_reducible apply State.opRingWrite_kept | with_reducible apply State.flushNow_kept | with_reducible apply State.noteDrops_kept | with_reducible apply State.checkpoint_kept)

theorem execPowerCycleRequest_kept {cs : Keep} {s : State} (h : s.Kept cs) : KeptO cs (execPowerCycleRequest s) := by
  unfold execPowerCycleRequest
  repeat' first
    | (with_reducible assumption)
    | (with_reducible refine kept_next ?_)
    | (with_reducible apply State.powerCycle_kept)

theorem execPwrCycleReqTimeout_kept {cs : Keep} {s : State} (h : s.Kept cs) : KeptO cs (execPwrCycleReqTimeout s) := by
  unfold execPwrCycleReqTimeout
  repeat' first
    | (with_reducible assumption)
    | (with_reducible refine ite_keptO ?_ ?_)
    | (with_reducible refine kept_next ?_)
    | (with_reducible apply State.sbAlert_kept)
    | (with_reducible apply State.holdModule_kept)
    | (with_reducible apply State.eventUnit_kept)

theorem State.escForget_kept {cs : Keep} {s : State} (h : s.Kept cs) : State.Kept cs (State.escForget s) := by
  unfold State.escForget
  repeat' first
    | (extract_lets +onlyGivenNames x; generalize x = y; clear x)
    | (with_reducible exact kept_mk (kept_fold (by assumption)))

theorem State.escClear_kept {cs : Keep} {s : State} (h : s.Kept cs) : ∀ env, State.Kept cs (State.escClear s env) := by
  intros
  unfold State.escClear
  repeat' first
    | (with_reducible assumption)
    | (extract_lets +onlyGivenNames x; refine kept_cut (cs := cs) x ?_ ?_; subst x; rotate_left; generalize x = y;
        clear x; intro _)
    | (with_reducible refine ite_kept ?_ ?_)
    | (with_reducible apply State.rstShow_kept)
    | (with_reducible apply State.setFld_kept)
    | (with_reducible apply State.clearFault_kept)
    | (with_reducible apply State.escForget_kept)
    | (with_reducible apply State.moduleBoot_kept)

theorem execKprEscClearWrite_kept {cs : Keep} {s : State} (h : s.Kept cs) : ∀ f env, KeptO cs (execKprEscClearWrite
    f env s) := by
  intros
  unfold execKprEscClearWrite
  repeat' first
    | (with_reducible assumption)
    | (with_reducible refine ite_keptO ?_ ?_)
    | (with_reducible refine kept_next ?_)
    | (with_reducible apply State.denied_kept)
    | (with_reducible apply State.escClear_kept)

theorem execPcieConventionalReset_kept {cs : Keep} {s : State} (h : s.Kept cs) : ∀ how, KeptO cs
    (execPcieConventionalReset how s) := by
  intros
  unfold execPcieConventionalReset
  repeat' first
    | (with_reducible assumption)
    | (extract_lets +onlyGivenNames x; refine kept_cut (cs := cs) x ?_ ?_; subst x; rotate_left; generalize x = y;
        clear x; intro _)
    | (extract_lets +onlyGivenNames x; generalize x = y; clear x)
    | (with_reducible refine ite_kept ?_ ?_)
    | (with_reducible refine ite_keptO ?_ ?_)
    | (with_reducible refine kept_next ?_)
    | (with_reducible apply State.regsReset_kept)
    | (with_reducible apply State.cqShow_kept)
    | (with_reducible apply State.mbxAlert_kept)
    | (with_reducible apply State.keeperNote_kept)
    | (with_reducible apply State.gcount_kept)
    | (with_reducible apply State.rstLast_kept)
    | (with_reducible exact kept_mk (kept_fold (by assumption)))

theorem execCcHeartbeatSample_kept {cs : Keep} {s : State} (h : s.Kept cs) : ∀ p beats, KeptO cs
    (execCcHeartbeatSample p beats s) := by
  intros
  unfold execCcHeartbeatSample
  repeat' first
    | (with_reducible assumption)
    | (extract_lets +onlyGivenNames x; refine kept_cut (cs := cs) x ?_ ?_; subst x; rotate_left; generalize x = y;
        clear x; intro _)
    | (extract_lets +onlyGivenNames x; generalize x = y; clear x)
    | (with_reducible refine ite_keptO ?_ ?_)
    | (with_reducible refine kept_next ?_)
    | (with_reducible apply State.setFld_kept)
    | (with_reducible apply State.gcount_kept)
    | (with_reducible apply State.takeEngine_kept)
    | (with_reducible apply State.keeperNote_kept)
    | (with_reducible exact kept_mk (kept_fold (by assumption)))

theorem execKeeperWatchdog_kept {cs : Keep} {s : State} (h : s.Kept cs) : KeptO cs (execKeeperWatchdog s) := by
  unfold execKeeperWatchdog
  repeat' first
    | (with_reducible assumption)
    | (extract_lets +onlyGivenNames x; refine kept_cut (cs := cs) x ?_ ?_; subst x; rotate_left; generalize x = y;
        clear x; intro _)
    | (with_reducible refine ite_keptO ?_ ?_)
    | (with_reducible refine kept_next ?_)
    | (with_reducible apply State.setFld_kept)
    | (with_reducible apply State.gcount_kept)
    | (with_reducible apply State.takeModule_kept)
    | (with_reducible apply State.keeperNote_kept)

theorem execWatchdogBootTimeout_kept {cs : Keep} {s : State} (h : s.Kept cs) : KeptO cs (execWatchdogBootTimeout s) := by
  unfold execWatchdogBootTimeout
  repeat' first
    | (with_reducible assumption)
    | (with_reducible refine ite_keptO ?_ ?_)
    | (with_reducible refine kept_next ?_)
    | (with_reducible apply State.powerCycle_kept)
    | (with_reducible apply State.takePower_kept)

theorem execLockstepMismatch_kept {cs : Keep} {s : State} (h : s.Kept cs) : KeptO cs (execLockstepMismatch s) := by
  unfold execLockstepMismatch
  repeat' first
    | (with_reducible assumption)
    | (with_reducible refine ite_keptO ?_ ?_)
    | (with_reducible refine kept_next ?_)
    | (with_reducible apply State.takeModule_kept)
    | (with_reducible apply State.keeperNote_kept)

theorem execClockFault_kept {cs : Keep} {s : State} (h : s.Kept cs) : KeptO cs (execClockFault s) := by
  unfold execClockFault
  repeat' first
    | (with_reducible assumption)
    | (with_reducible refine ite_keptO ?_ ?_)
    | (with_reducible refine kept_next ?_)
    | (with_reducible apply State.takeModule_kept)
    | (with_reducible apply State.keeperNote_kept)

theorem execI3cTargetFault_kept {cs : Keep} {s : State} (h : s.Kept cs) : KeptO cs (execI3cTargetFault s) := by
  unfold execI3cTargetFault
  repeat' first
    | (with_reducible assumption)
    | (with_reducible refine ite_keptO ?_ ?_)
    | (with_reducible refine kept_next ?_)
    | (with_reducible apply State.detectOnly_kept)
    | (with_reducible exact kept_mk (kept_fold (by assumption)))

theorem execHangDetect_kept {cs : Keep} {s : State} (h : s.Kept cs) : ∀ u, KeptO cs (execHangDetect u s) := by
  intros
  unfold execHangDetect
  repeat' first
    | (with_reducible assumption)
    | (with_reducible refine kept_next ?_)
    | (with_reducible apply State.takeCtx_kept)
    | split

theorem execResetBoundExpiry_kept {cs : Keep} {s : State} (h : s.Kept cs) : ∀ kind p ctx unit, KeptO cs
    (execResetBoundExpiry kind p ctx unit s) := by
  intros
  unfold execResetBoundExpiry
  repeat' first
    | (with_reducible assumption)
    | (extract_lets +onlyGivenNames x; (have _ := fun a => x a); subst x; dsimp -zeta only)
    | (extract_lets +onlyGivenNames x; generalize x = y; clear x)
    | (with_reducible refine ite_kept ?_ ?_)
    | (with_reducible refine ite_keptO ?_ ?_)
    | (with_reducible refine kept_next ?_)
    | (with_reducible apply State.takeEngine_kept)
    | (with_reducible apply State.rstEnd_kept)
    | (with_reducible apply State.ctxReset_kept)
    | (with_reducible apply State.takeModule_kept)
    | (with_reducible apply State.takePart_kept)
    | (with_reducible apply State.clearEngine_kept)
    | (with_reducible apply State.partReset_kept)
    | (with_reducible apply State.takePower_kept)
    | split

theorem State.rstReq_kept {cs : Keep} {s : State} {take : State → State} (hrun : ∀ t, t.Kept cs → (take t).Kept cs)
    (h : s.Kept cs) : ∀ f scope part unit hub ctx ok, State.Kept cs (State.rstReq s f scope part unit hub ctx ok take)
    := by
  intros
  unfold State.rstReq
  repeat' first
    | (with_reducible assumption)
    | (extract_lets +onlyGivenNames x; refine kept_cut (cs := cs) x ?_ ?_; subst x; rotate_left; generalize x = y;
        clear x; intro _)
    | (with_reducible refine ite_kept ?_ ?_)
    | (with_reducible apply hrun)
    | (with_reducible apply State.denied_kept)
    | (with_reducible apply State.setReg_kept)
    | (with_reducible apply State.setFld_kept)

theorem execRstReqContext_kept {cs : Keep} {s : State} (h : s.Kept cs) : ∀ f p ctx, KeptO cs (execRstReqContext f p
    ctx s) := by
  intros
  unfold execRstReqContext
  repeat' first
    | (with_reducible assumption)
    | intro _
    | (with_reducible refine kept_next ?_)
    | (with_reducible apply State.rstReq_kept)
    | (with_reducible apply State.takeCtx_kept)

theorem execRstReqEngine_kept {cs : Keep} {s : State} (h : s.Kept cs) : ∀ f p i hub, KeptO cs (execRstReqEngine f p
    i hub s) := by
  intros
  unfold execRstReqEngine
  repeat' first
    | (with_reducible assumption)
    | intro _
    | (with_reducible refine kept_next ?_)
    | (with_reducible apply State.rstReq_kept)
    | (with_reducible apply State.takeEngine_kept)

theorem execRstReqPartition_kept {cs : Keep} {s : State} (h : s.Kept cs) : ∀ f p, KeptO cs (execRstReqPartition f p s) := by
  intros
  unfold execRstReqPartition
  repeat' first
    | (with_reducible assumption)
    | intro _
    | (with_reducible refine kept_next ?_)
    | (with_reducible apply State.rstReq_kept)
    | (with_reducible apply State.takePart_kept)

theorem execRstReqModule_kept {cs : Keep} {s : State} (h : s.Kept cs) : ∀ f, KeptO cs (execRstReqModule f s) := by
  intros
  unfold execRstReqModule
  repeat' first
    | (with_reducible assumption)
    | intro _
    | (with_reducible refine kept_next ?_)
    | (with_reducible apply State.rstReq_kept)
    | (with_reducible apply State.takeModule_kept)

theorem execRstReqPowerCycle_kept {cs : Keep} {s : State} (h : s.Kept cs) : ∀ f, KeptO cs (execRstReqPowerCycle f s) := by
  intros
  unfold execRstReqPowerCycle
  repeat' first
    | (with_reducible assumption)
    | intro _
    | (with_reducible refine kept_next ?_)
    | (with_reducible apply State.rstReq_kept)
    | (with_reducible apply State.takePower_kept)

theorem State.showTelem_kept {cs : Keep} {s : State} (h : s.Kept cs) : State.Kept cs (State.showTelem s) := by
  unfold State.showTelem
  repeat' first
    | (with_reducible assumption)
    | (extract_lets +onlyGivenNames x; refine kept_cut (cs := cs) x ?_ ?_; subst x; rotate_left; generalize x = y;
        clear x; intro _)
    | (extract_lets +onlyGivenNames x; generalize x = y; clear x)
    | (with_reducible apply State.setFld_kept)
    | split

theorem State.setVin_kept {cs : Keep} {s : State} (h : s.Kept cs) : ∀ mv, State.Kept cs (State.setVin s mv) := by
  intros
  unfold State.setVin
  repeat' first
    | (with_reducible assumption)
    | (with_reducible apply State.showTelem_kept)
    | (with_reducible apply State.setFld_kept)

theorem execPowerOn_kept {cs : Keep} {s : State} (h : s.Kept cs) : ∀ env, KeptO cs (execPowerOn env s) := by
  intros
  unfold execPowerOn
  repeat' first
    | (with_reducible assumption)
    | (extract_lets +onlyGivenNames x; refine kept_cut (cs := cs) x ?_ ?_; subst x; rotate_left; generalize x = y;
        clear x; intro _)
    | (extract_lets +onlyGivenNames x; generalize x = y; clear x)
    | (with_reducible refine kept_next ?_)
    | (with_reducible apply State.afterPowerLoss_kept)
    | (with_reducible apply State.bootUp_kept)

theorem State.domainsOff_kept {cs : Keep} {s : State} (h : s.Kept cs) : ∀ keepHost, State.Kept cs (State.domainsOff
    s keepHost) := by
  intros
  unfold State.domainsOff
  repeat' first
    | (with_reducible assumption)
    | intro _
    | (extract_lets +onlyGivenNames x; refine kept_cut (cs := cs) x ?_ ?_; subst x; rotate_left; generalize x = y;
        clear x; intro _)
    | (with_reducible refine ite_kept ?_ ?_)
    | (with_reducible apply State.setDom_kept)
    | (with_reducible apply State.setFld_kept)
    | (with_reducible refine forRange_kept ?_ ?_)

theorem State.shutDown_kept {cs : Keep} {s : State} (h : s.Kept cs) : ∀ b, State.Kept cs (State.shutDown s b) := by
  intros
  unfold State.shutDown
  repeat' first
    | (with_reducible assumption)
    | (extract_lets +onlyGivenNames x; refine kept_cut (cs := cs) x ?_ ?_; subst x; rotate_left; generalize x = y;
        clear x; intro _)
    | (extract_lets +onlyGivenNames x; generalize x = y; clear x)
    | (with_reducible apply State.flushNow_kept)
    | (with_reducible apply State.opRingWrite_kept)
    | (with_reducible apply State.afterModuleReset_kept)
    | (with_reducible apply State.rstShow_kept)
    | (with_reducible apply State.setReady_kept)
    | (with_reducible apply State.domainsOff_kept)
    | (with_reducible exact kept_mk (kept_fold (by assumption)))

theorem execUndervoltage_kept {cs : Keep} {s : State} (h : s.Kept cs) : ∀ mv us, KeptO cs (execUndervoltage mv us s) := by
  intros
  unfold execUndervoltage
  repeat' first
    | (with_reducible assumption)
    | (extract_lets +onlyGivenNames x; refine kept_cut (cs := cs) x ?_ ?_; subst x; rotate_left; generalize x = y;
        clear x; intro _)
    | (with_reducible refine ite_keptO ?_ ?_)
    | (with_reducible refine kept_next ?_)
    | (with_reducible apply State.shutDown_kept)
    | (with_reducible apply State.setVin_kept)
    | (with_reducible apply State.powerRec_kept)
    | (with_reducible apply State.sbAlert_kept)
    | (with_reducible apply State.setFld_kept)

theorem execOvervoltage_kept {cs : Keep} {s : State} (h : s.Kept cs) : ∀ mv us, KeptO cs (execOvervoltage mv us s) := by
  intros
  unfold execOvervoltage
  repeat' first
    | (with_reducible assumption)
    | (extract_lets +onlyGivenNames x; refine kept_cut (cs := cs) x ?_ ?_; subst x; rotate_left; generalize x = y;
        clear x; intro _)
    | (with_reducible refine ite_keptO ?_ ?_)
    | (with_reducible refine kept_next ?_)
    | (with_reducible exact kept_fault)
    | (with_reducible apply State.addFault_kept)
    | (with_reducible apply State.shutDown_kept)
    | (with_reducible apply State.setVin_kept)
    | (with_reducible apply State.powerRec_kept)
    | (with_reducible apply State.sbAlert_kept)
    | (with_reducible apply State.setFld_kept)

theorem State.inputBack_kept {cs : Keep} {s : State} (h : s.Kept cs) : ∀ env, State.Kept cs (State.inputBack s env) := by
  intros
  unfold State.inputBack
  repeat' first
    | (with_reducible assumption)
    | (with_reducible refine ite_kept ?_ ?_)
    | (with_reducible apply State.moduleBoot_kept)
    | (with_reducible exact kept_mk (kept_fold (by assumption)))

theorem execUndervoltageRecovery_kept {cs : Keep} {s : State} (h : s.Kept cs) : ∀ env, KeptO cs
    (execUndervoltageRecovery env s) := by
  intros
  unfold execUndervoltageRecovery
  repeat' first
    | (with_reducible assumption)
    | (with_reducible refine ite_keptO ?_ ?_)
    | (with_reducible refine kept_next ?_)
    | (with_reducible apply State.inputBack_kept)

theorem execOvervoltageRecovery_kept {cs : Keep} {s : State} (h : s.Kept cs) : ∀ env, KeptO cs
    (execOvervoltageRecovery env s) := by
  intros
  unfold execOvervoltageRecovery
  repeat' first
    | (with_reducible assumption)
    | (with_reducible refine ite_keptO ?_ ?_)
    | (with_reducible refine kept_next ?_)
    | (with_reducible apply State.inputBack_kept)
    | (with_reducible apply State.clearFault_kept)

theorem execUvWarning_kept {cs : Keep} {s : State} (h : s.Kept cs) : ∀ mv, KeptO cs (execUvWarning mv s) := by
  intros
  unfold execUvWarning
  repeat' first
    | (with_reducible assumption)
    | (extract_lets +onlyGivenNames x; refine kept_cut (cs := cs) x ?_ ?_; subst x; rotate_left; generalize x = y;
        clear x; intro _)
    | (extract_lets +onlyGivenNames x; generalize x = y; clear x)
    | (with_reducible refine ite_keptO ?_ ?_)
    | (with_reducible refine kept_next ?_)
    | (with_reducible apply State.setFld_kept)
    | (with_reducible apply State.setVin_kept)
    | (with_reducible apply State.sbAlert_kept)
    | (with_reducible apply State.event_kept)
    | (with_reducible exact kept_mk (kept_fold (by assumption)))

theorem execRailOutOfRegulation_kept {cs : Keep} {s : State} (h : s.Kept cs) : ∀ r mv us, KeptO cs
    (execRailOutOfRegulation r mv us s) := by
  intros
  unfold execRailOutOfRegulation
  repeat' first
    | (with_reducible assumption)
    | intro _
    | (extract_lets +onlyGivenNames x; refine kept_cut (cs := cs) x ?_ ?_; subst x; rotate_left; generalize x = y;
        clear x; intro _)
    | (extract_lets +onlyGivenNames x; generalize x = y; clear x)
    | (with_reducible refine ite_kept ?_ ?_)
    | (with_reducible refine ite_keptO ?_ ?_)
    | (with_reducible refine kept_next ?_)
    | (with_reducible apply State.setFld_kept)
    | (with_reducible apply State.powerRec_kept)
    | (with_reducible apply State.takeModule_kept)
    | (with_reducible apply State.takePart_kept)
    | (with_reducible refine foldl_kept ?_ ?_)

theorem execPllLockLoss_kept {cs : Keep} {s : State} (h : s.Kept cs) : ∀ p, KeptO cs (execPllLockLoss p s) := by
  intros
  unfold execPllLockLoss
  repeat' first
    | (with_reducible assumption)
    | (extract_lets +onlyGivenNames x; refine kept_cut (cs := cs) x ?_ ?_; subst x; rotate_left; generalize x = y;
        clear x; intro _)
    | (with_reducible refine ite_keptO ?_ ?_)
    | (with_reducible refine kept_next ?_)
    | (with_reducible apply State.setFld_kept)
    | (with_reducible apply State.powerRec_kept)
    | (with_reducible apply State.takePart_kept)

theorem State.setHot_kept {cs : Keep} {s : State} (h : s.Kept cs) : ∀ x b, State.Kept cs (State.setHot s x b) := by
  intros
  unfold State.setHot
  repeat' first
    | (extract_lets +onlyGivenNames x; generalize x = y; clear x)
    | (with_reducible exact kept_mk (kept_fold (by assumption)))

theorem State.noteTherm_kept {cs : Keep} {s : State} (h : s.Kept cs) : ∀ p, State.Kept cs (State.noteTherm s p) := by
  intros
  unfold State.noteTherm
  repeat' first
    | (with_reducible assumption)
    | (extract_lets +onlyGivenNames x; generalize x = y; clear x)
    | (with_reducible refine ite_kept ?_ ?_)
    | (with_reducible exact kept_mk (kept_fold (by assumption)))

theorem State.sensorFlags_kept {cs : Keep} {s : State} (h : s.Kept cs) : ∀ x, State.Kept cs (State.sensorFlags s x) := by
  intros
  unfold State.sensorFlags
  repeat' first
    | (with_reducible assumption)
    | (extract_lets +onlyGivenNames x; generalize x = y; clear x)
    | (with_reducible refine ite_kept ?_ ?_)
    | (with_reducible apply State.setHot_kept)
    | (with_reducible apply State.sbAlert_kept)
    | (with_reducible apply State.event_kept)
    | (with_reducible apply State.setFld_kept)
    | split

theorem State.trip_kept {cs : Keep} {s : State} (h : s.Kept cs) : ∀ x limit, State.Kept cs (State.trip s x limit) := by
  intros
  unfold State.trip
  repeat' first
    | (with_reducible assumption)
    | (extract_lets +onlyGivenNames x; refine kept_cut (cs := cs) x ?_ ?_; subst x; rotate_left; generalize x = y;
        clear x; intro _)
    | (extract_lets +onlyGivenNames x; generalize x = y; clear x)
    | (with_reducible refine ite_kept ?_ ?_)
    | (with_reducible apply State.powerRec_kept)
    | (with_reducible apply State.drainDetections_kept)
    | (with_reducible apply State.flushNow_kept)
    | (with_reducible apply State.opRingWrite_kept)
    | (with_reducible exact kept_mk (kept_fold (by assumption)))

theorem State.readSensor_kept {cs : Keep} {s : State} (h : s.Kept cs) : ∀ x v ok, State.Kept cs (State.readSensor s
    x v ok) := by
  intros
  unfold State.readSensor
  repeat' first
    | (with_reducible assumption)
    | (extract_lets +onlyGivenNames x; refine kept_cut (cs := cs) x ?_ ?_; subst x; rotate_left; generalize x = y;
        clear x; intro _)
    | (extract_lets +onlyGivenNames x; generalize x = y; clear x)
    | (with_reducible refine ite_kept ?_ ?_)
    | (with_reducible apply State.setHot_kept)
    | (with_reducible apply State.setFld_kept)
    | (with_reducible apply State.powerRec_kept)

theorem execTempSensorSample_kept {cs : Keep} {s : State} (h : s.Kept cs) : ∀ rs, KeptO cs (execTempSensorSample rs s) := by
  intros
  unfold execTempSensorSample
  repeat' first
    | (with_reducible assumption)
    | intro _
    | (extract_lets +onlyGivenNames x; refine kept_cut (cs := cs) x ?_ ?_; subst x; rotate_left; generalize x = y;
        clear x; intro _)
    | (extract_lets +onlyGivenNames x; generalize x = y; clear x)
    | (with_reducible refine ite_kept ?_ ?_)
    | (with_reducible refine ite_keptO ?_ ?_)
    | (with_reducible refine kept_next ?_)
    | (with_reducible apply State.readSensor_kept)
    | (with_reducible apply State.showTelem_kept)
    | (with_reducible apply State.sensorFlags_kept)
    | (with_reducible apply State.noteTherm_kept)
    | (with_reducible apply State.showDuty_kept)
    | (with_reducible apply State.trip_kept)
    | (with_reducible refine foldl_kept ?_ ?_)
    | (with_reducible refine forRange_kept ?_ ?_)
    | (with_reducible exact kept_mk (kept_fold (by assumption)))
    | split

theorem execThermTripNotRemoved_kept {cs : Keep} {s : State} (h : s.Kept cs) : KeptO cs (execThermTripNotRemoved s) := by
  unfold execThermTripNotRemoved
  repeat' first
    | (with_reducible assumption)
    | (with_reducible refine ite_keptO ?_ ?_)
    | (with_reducible refine kept_next ?_)
    | (with_reducible apply State.addFault_kept)

theorem execStackTempSample_kept {cs : Keep} {s : State} (h : s.Kept cs) : ∀ p v, KeptO cs (execStackTempSample p v s) := by
  intros
  unfold execStackTempSample
  repeat' first
    | (with_reducible assumption)
    | (extract_lets +onlyGivenNames x; refine kept_cut (cs := cs) x ?_ ?_; subst x; rotate_left; generalize x = y;
        clear x; intro _)
    | (extract_lets +onlyGivenNames x; generalize x = y; clear x)
    | (with_reducible refine ite_kept ?_ ?_)
    | (with_reducible refine ite_keptO ?_ ?_)
    | (with_reducible refine kept_next ?_)
    | (with_reducible apply State.setFld_kept)
    | (with_reducible apply State.event_kept)

theorem execPowerSample_kept {cs : Keep} {s : State} (h : s.Kept cs) : ∀ w vin static rails, KeptO cs
    (execPowerSample w vin static rails s) := by
  intros
  unfold execPowerSample
  repeat' first
    | (with_reducible assumption)
    | intro _
    | (extract_lets +onlyGivenNames x; refine kept_cut (cs := cs) x ?_ ?_; subst x; rotate_left; generalize x = y;
        clear x; intro _)
    | (extract_lets +onlyGivenNames x; generalize x = y; clear x)
    | (with_reducible refine ite_kept ?_ ?_)
    | (with_reducible refine ite_keptO ?_ ?_)
    | (with_reducible refine kept_next ?_)
    | (with_reducible apply State.setFld_kept)
    | (with_reducible apply State.setVin_kept)
    | (with_reducible refine foldl_kept ?_ ?_)
    | (with_reducible exact kept_mk (kept_fold (by assumption)))

theorem State.capStep_kept {cs : Keep} {s : State} (h : s.Kept cs) : ∀ die, State.Kept cs (State.capStep s die) := by
  intros
  unfold State.capStep
  repeat' first
    | (extract_lets +onlyGivenNames x; generalize x = y; clear x)
    | (with_reducible exact kept_mk (kept_fold (by assumption)))

theorem execThrottleStep_kept {cs : Keep} {s : State} (h : s.Kept cs) : KeptO cs (execThrottleStep s) := by
  unfold execThrottleStep
  repeat' first
    | (with_reducible assumption)
    | intro _
    | (extract_lets +onlyGivenNames x; refine kept_cut (cs := cs) x ?_ ?_; subst x; rotate_left; generalize x = y;
        clear x; intro _)
    | (with_reducible refine ite_kept ?_ ?_)
    | (with_reducible refine ite_keptO ?_ ?_)
    | (with_reducible refine kept_next ?_)
    | (with_reducible apply State.count_kept)
    | (with_reducible apply State.gcount_kept)
    | (with_reducible apply State.setFld_kept)
    | (with_reducible apply State.capStep_kept)
    | (with_reducible apply State.noteTherm_kept)
    | (with_reducible apply State.showDuty_kept)
    | (with_reducible refine forRange_kept ?_ ?_)
    | (with_reducible exact kept_mk (kept_fold (by assumption)))

theorem execCapWrite_kept {cs : Keep} {s : State} (h : s.Kept cs) : ∀ f w, KeptO cs (execCapWrite f w s) := by
  intros
  unfold execCapWrite
  repeat' first
    | (with_reducible assumption)
    | intro _
    | (extract_lets +onlyGivenNames x; refine kept_cut (cs := cs) x ?_ ?_; subst x; rotate_left; generalize x = y;
        clear x; intro _)
    | (extract_lets +onlyGivenNames x; generalize x = y; clear x)
    | (with_reducible refine ite_keptO ?_ ?_)
    | (with_reducible refine kept_next ?_)
    | (with_reducible apply State.denied_kept)
    | (with_reducible apply State.setFld_kept)
    | (with_reducible apply State.cutBelow_kept)
    | (with_reducible refine foldl_kept ?_ ?_)

theorem State.wakeDom_kept {cs : Keep} {s : State} (h : s.Kept cs) : ∀ d, State.Kept cs (State.wakeDom s d) := by
  intros
  unfold State.wakeDom
  repeat' first
    | (with_reducible assumption)
    | (with_reducible refine ite_kept ?_ ?_)
    | (with_reducible apply State.setDom_kept)

theorem execDomainPrewake_kept {cs : Keep} {s : State} (h : s.Kept cs) : ∀ d, KeptO cs (execDomainPrewake d s) := by
  intros
  unfold execDomainPrewake
  repeat' first
    | (with_reducible assumption)
    | (extract_lets +onlyGivenNames x; generalize x = y; clear x)
    | (with_reducible refine ite_kept ?_ ?_)
    | (with_reducible refine kept_next ?_)
    | (with_reducible apply State.wakeDom_kept)

theorem execDomainA1Entry_kept {cs : Keep} {s : State} (h : s.Kept cs) : ∀ d, KeptO cs (execDomainA1Entry d s) := by
  intros
  unfold execDomainA1Entry
  repeat' first
    | (with_reducible assumption)
    | (extract_lets +onlyGivenNames x; generalize x = y; clear x)
    | (with_reducible refine ite_kept ?_ ?_)
    | (with_reducible refine ite_keptO ?_ ?_)
    | (with_reducible refine kept_next ?_)
    | (with_reducible apply State.setDom_kept)

theorem execDomainA2Entry_kept {cs : Keep} {s : State} (h : s.Kept cs) : ∀ d, KeptO cs (execDomainA2Entry d s) := by
  intros
  unfold execDomainA2Entry
  repeat' first
    | (with_reducible assumption)
    | (extract_lets +onlyGivenNames x; (have _ := fun a => x a); subst x; dsimp -zeta only)
    | (extract_lets +onlyGivenNames x; generalize x = y; clear x)
    | (with_reducible refine ite_kept ?_ ?_)
    | (with_reducible refine ite_keptO ?_ ?_)
    | (with_reducible refine kept_next ?_)
    | (with_reducible apply State.setDom_kept)

theorem execPartitionIdleA2_kept {cs : Keep} {s : State} (h : s.Kept cs) : ∀ p, KeptO cs (execPartitionIdleA2 p s) := by
  intros
  unfold execPartitionIdleA2
  repeat' first
    | (with_reducible assumption)
    | intro _
    | (extract_lets +onlyGivenNames x; generalize x = y; clear x)
    | (with_reducible refine ite_kept ?_ ?_)
    | (with_reducible refine ite_keptO ?_ ?_)
    | (with_reducible refine kept_next ?_)
    | (with_reducible apply State.setDom_kept)
    | (with_reducible refine forRange_kept ?_ ?_)

theorem execDomainWakeTimeout_kept {cs : Keep} {s : State} (h : s.Kept cs) : ∀ d, KeptO cs (execDomainWakeTimeout d s) := by
  intros
  unfold execDomainWakeTimeout
  repeat' first
    | (with_reducible assumption)
    | (extract_lets +onlyGivenNames x; refine kept_cut (cs := cs) x ?_ ?_; subst x; rotate_left; generalize x = y;
        clear x; intro _)
    | (extract_lets +onlyGivenNames x; generalize x = y; clear x)
    | (with_reducible refine ite_keptO ?_ ?_)
    | (with_reducible refine kept_next ?_)
    | (with_reducible apply State.setFld_kept)
    | (with_reducible apply State.takePart_kept)
    | (with_reducible apply State.powerRec_kept)
    | (with_reducible apply State.count_kept)
    | (with_reducible apply State.takeModule_kept)
    | (with_reducible apply State.gcount_kept)

theorem execDomainSleepRequest_kept {cs : Keep} {s : State} (h : s.Kept cs) : ∀ f d, KeptO cs
    (execDomainSleepRequest f d s) := by
  intros
  unfold execDomainSleepRequest
  repeat' first
    | (with_reducible assumption)
    | (extract_lets +onlyGivenNames x; generalize x = y; clear x)
    | (with_reducible refine ite_kept ?_ ?_)
    | (with_reducible refine ite_keptO ?_ ?_)
    | (with_reducible refine kept_next ?_)
    | (with_reducible apply State.denied_kept)
    | (with_reducible apply State.count_kept)
    | (with_reducible apply State.setDom_kept)

theorem execDomainHoldAwake_kept {cs : Keep} {s : State} (h : s.Kept cs) : ∀ f d hold, KeptO cs (execDomainHoldAwake
    f d hold s) := by
  intros
  unfold execDomainHoldAwake
  repeat' first
    | (with_reducible assumption)
    | (with_reducible refine ite_keptO ?_ ?_)
    | (with_reducible refine kept_next ?_)
    | (with_reducible apply State.denied_kept)
    | (with_reducible apply State.wakeDom_kept)
    | (with_reducible apply State.setFld_kept)

theorem State.a3Kept_kept {cs : Keep} {s m t : State} (h : t.Kept cs) (hm : m.Kept cs) : (s.a3Kept m t).Kept cs :=
  ⟨h.1, fun b => let i := h.2 b
    ⟨i.mem, i.poison, State.regsReset_rising (hm.2 b).regs 3 (fun a => !hostField a), i.ftime, i.cnt, i.vx, i.vxPsn⟩⟩

theorem State.enterA3_kept {cs : Keep} {s : State} (h : s.Kept cs) : s.enterA3.Kept cs := by
  unfold State.enterA3
  have hm := forRange_kept (n := 8) (f := fun p t => (t.emptySlots p).endMigrations p)
    (fun p t ht => State.endMigrations_kept (State.emptySlots_kept ht p) p) h
  exact State.setFld_kept (State.setFld_kept (State.setFld_kept (State.domainsOff_kept (State.setClockGuard_kept
    (State.setRails_kept (State.a3Kept_kept (State.afterModuleReset_kept h _) hm))) _) _ _) _ _) _ _

theorem execA3Enter_kept {cs : Keep} {s : State} (h : s.Kept cs) : ∀ f, KeptO cs (execA3Enter f s) := by
  intros
  unfold execA3Enter
  repeat' first
    | (with_reducible assumption)
    | (with_reducible refine ite_keptO ?_ ?_)
    | (with_reducible refine kept_next ?_)
    | (with_reducible apply State.denied_kept)
    | (with_reducible apply State.setFld_kept)
    | (with_reducible apply State.enterA3_kept)

theorem execA3Exit_kept {cs : Keep} {s : State} (h : s.Kept cs) : ∀ f, KeptO cs (execA3Exit f s) := by
  intros
  unfold execA3Exit
  repeat' first
    | (with_reducible assumption)
    | (with_reducible refine ite_keptO ?_ ?_)
    | (with_reducible refine kept_next ?_)
    | (with_reducible apply State.denied_kept)
    | (with_reducible apply State.leaveA3_kept)

end Sys2Proof.Machine
end

