-- ==== Sys2Proof/Laws/KeptH.lean ====
section
/-! SUPPORT. What the operations of Machine/Writes, Machine/Sideband, Machine/Debug, Machine/Receive keep (`State.Kept`): the queue, and the invariant. -/
namespace Sys2Proof.Machine

theorem State.hostWrite_kept {cs : Keep} {s : State} {run : State → State} (hrun : ∀ t, t.Kept cs → (run t).Kept cs)
    (h : s.Kept cs) : ∀ f a, State.Kept cs (State.hostWrite s f a run) := by
  intros
  unfold State.hostWrite
  repeat' first
    | (with_reducible assumption)
    | (with_reducible refine ite_kept ?_ ?_)
    | (with_reducible apply hrun)
    | (with_reducible apply State.denied_kept)
    | (with_reducible apply State.dropWrite_kept)

theorem execTmbValueWrite_kept {cs : Keep} {s : State} (h : s.Kept cs) : ∀ f p n v, KeptO cs (execTmbValueWrite f p
    n v s) := by
  intros
  unfold execTmbValueWrite
  repeat' first
    | (with_reducible assumption)
    | intro _
    | (with_reducible refine ite_kept ?_ ?_)
    | (with_reducible refine kept_next ?_)
    | (with_reducible apply State.hostWrite_kept)
    | (with_reducible apply State.tmbValueWrite_kept)

theorem execRingDoorbell_kept {cs : Keep} {s : State} (h : s.Kept cs) : ∀ f p m v, KeptO cs (execRingDoorbell f p m
    v s) := by
  intros
  unfold execRingDoorbell
  repeat' first
    | (with_reducible assumption)
    | intro _
    | (with_reducible refine ite_kept ?_ ?_)
    | (with_reducible refine kept_next ?_)
    | (with_reducible apply State.hostWrite_kept)
    | (with_reducible apply State.ringDoorbell_kept)

theorem execRingEnable_kept {cs : Keep} {s : State} (h : s.Kept cs) : ∀ f p m, KeptO cs (execRingEnable f p m s) := by
  intros
  unfold execRingEnable
  repeat' first
    | (with_reducible assumption)
    | intro _
    | (with_reducible refine ite_kept ?_ ?_)
    | (with_reducible refine kept_next ?_)
    | (with_reducible apply State.hostWrite_kept)
    | (with_reducible apply State.ringEnable_kept)

theorem execRingDisable_kept {cs : Keep} {s : State} (h : s.Kept cs) : ∀ f p m, KeptO cs (execRingDisable f p m s) := by
  intros
  unfold execRingDisable
  repeat' first
    | (with_reducible assumption)
    | intro _
    | (with_reducible refine ite_kept ?_ ?_)
    | (with_reducible refine kept_next ?_)
    | (with_reducible apply State.hostWrite_kept)
    | (with_reducible apply State.ringDisable_kept)

theorem execUpdEtaWrite_kept {cs : Keep} {s : State} (h : s.Kept cs) : ∀ f p v, KeptO cs (execUpdEtaWrite f p v s) := by
  intros
  unfold execUpdEtaWrite
  repeat' first
    | (with_reducible assumption)
    | intro _
    | (with_reducible refine ite_kept ?_ ?_)
    | (with_reducible refine kept_next ?_)
    | (with_reducible apply State.hostWrite_kept)
    | (with_reducible apply State.updEtaWrite_kept)

theorem execJobScalarWrite_kept {cs : Keep} {s : State} (h : s.Kept cs) : ∀ f p n hi v, KeptO cs (execJobScalarWrite
    f p n hi v s) := by
  intros
  unfold execJobScalarWrite
  repeat' first
    | (with_reducible assumption)
    | intro _
    | (with_reducible refine ite_kept ?_ ?_)
    | (with_reducible refine kept_next ?_)
    | (with_reducible apply State.hostWrite_kept)
    | (with_reducible apply State.jobScalarWrite_kept)

theorem execTableShadowWrite_kept {cs : Keep} {s : State} (h : s.Kept cs) : ∀ f a v, KeptO cs (execTableShadowWrite
    f a v s) := by
  intros
  unfold execTableShadowWrite
  repeat' first
    | (with_reducible assumption)
    | intro _
    | (with_reducible refine kept_next ?_)
    | (with_reducible apply State.hostWrite_kept)
    | (with_reducible apply State.tableShadowWrite_kept)

theorem execTableSwapArm_kept {cs : Keep} {s : State} (h : s.Kept cs) : ∀ f v, KeptO cs (execTableSwapArm f v s) := by
  intros
  unfold execTableSwapArm
  repeat' first
    | (with_reducible assumption)
    | intro _
    | (with_reducible refine kept_next ?_)
    | (with_reducible apply State.hostWrite_kept)
    | (with_reducible apply State.tableSwapArm_kept)

theorem execLaneReadmit_kept {cs : Keep} {s : State} (h : s.Kept cs) : ∀ f k mask, KeptO cs (execLaneReadmit f k
    mask s) := by
  intros
  unfold execLaneReadmit
  repeat' first
    | (with_reducible assumption)
    | intro _
    | (with_reducible refine ite_kept ?_ ?_)
    | (with_reducible refine kept_next ?_)
    | (with_reducible apply State.hostWrite_kept)
    | (with_reducible apply State.laneReadmit_kept)

theorem execMtbfWrite_kept {cs : Keep} {s : State} (h : s.Kept cs) : ∀ f j v, KeptO cs (execMtbfWrite f j v s) := by
  intros
  unfold execMtbfWrite
  repeat' first
    | (with_reducible assumption)
    | intro _
    | (with_reducible refine ite_kept ?_ ?_)
    | (with_reducible refine kept_next ?_)
    | (with_reducible apply State.hostWrite_kept)
    | (with_reducible apply State.mtbfWrite_kept)

theorem execErrRingHeadWrite_kept {cs : Keep} {s : State} (h : s.Kept cs) : ∀ f v, KeptO cs (execErrRingHeadWrite f
    v s) := by
  intros
  unfold execErrRingHeadWrite
  repeat' first
    | (with_reducible assumption)
    | intro _
    | (with_reducible refine kept_next ?_)
    | (with_reducible apply State.hostWrite_kept)
    | (with_reducible apply State.errRingHeadWrite_kept)

theorem execPerstDeassert_kept {cs : Keep} {s : State} (h : s.Kept cs) : ∀ rate width flit, KeptO cs
    (execPerstDeassert rate width flit s) := by
  intros
  unfold execPerstDeassert
  repeat' first
    | (with_reducible assumption)
    | (extract_lets +onlyGivenNames x; refine kept_cut (cs := cs) x ?_ ?_; subst x; rotate_left; generalize x = y;
        clear x; intro _)
    | (extract_lets +onlyGivenNames x; generalize x = y; clear x)
    | (with_reducible refine ite_keptO ?_ ?_)
    | (with_reducible refine kept_next ?_)
    | (with_reducible apply State.setFld_kept)
    | (with_reducible exact kept_mk (kept_fold (by assumption)))

theorem execSbImageRefresh_kept {cs : Keep} {s : State} (h : s.Kept cs) : KeptO cs (execSbImageRefresh s) := by
  unfold execSbImageRefresh
  repeat' first
    | (with_reducible assumption)
    | (extract_lets +onlyGivenNames x; generalize x = y; clear x)
    | (with_reducible refine ite_keptO ?_ ?_)
    | (with_reducible refine kept_next ?_)
    | (with_reducible exact kept_mk (kept_fold (by assumption)))

theorem State.sbReads_kept {cs : Keep} {s : State} (h : s.Kept cs) : ∀ n, State.Kept cs (State.sbReads s n) := by
  intros
  unfold State.sbReads
  repeat' first
    | (with_reducible assumption)
    | (extract_lets +onlyGivenNames x; generalize x = y; clear x)
    | (with_reducible refine ite_kept ?_ ?_)
    | (with_reducible apply State.emit_kept)
    | (with_reducible exact kept_mk (kept_fold (by assumption)))

theorem State.sbErr_kept {cs : Keep} {s : State} (h : s.Kept cs) : ∀ f, State.Kept cs (State.sbErr s f) := by
  intros
  unfold State.sbErr
  repeat' first
    | (with_reducible assumption)
    | (with_reducible apply State.setFld_kept)

theorem State.sbAlertWrite_kept {cs : Keep} {s : State} (h : s.Kept cs) : ∀ v, State.Kept cs (State.sbAlertWrite s v) := by
  intros
  unfold State.sbAlertWrite
  repeat' first
    | (with_reducible assumption)
    | (with_reducible apply State.maskReg_kept)

theorem State.sbGidWrite_kept {cs : Keep} {s : State} (h : s.Kept cs) : ∀ v, State.Kept cs (State.sbGidWrite s v) := by
  intros
  unfold State.sbGidWrite
  repeat' first
    | (with_reducible assumption)
    | (with_reducible refine ite_kept ?_ ?_)
    | (with_reducible apply State.sbErr_kept)
    | (with_reducible apply State.setFld_kept)

theorem State.fwWrite_kept {cs : Keep} {s : State} (h : s.Kept cs) : ∀ l, State.Kept cs (State.fwWrite s l) := by
  intros
  unfold State.fwWrite
  repeat' first
    | (with_reducible assumption)
    | intro _
    | (extract_lets +onlyGivenNames x; refine kept_cut (cs := cs) x ?_ ?_; subst x; rotate_left; generalize x = y;
        clear x; intro _)
    | (extract_lets +onlyGivenNames x; generalize x = y; clear x)
    | (with_reducible refine ite_kept ?_ ?_)
    | (with_reducible apply State.sbErr_kept)
    | (with_reducible apply State.setReg_kept)
    | (with_reducible apply State.setFld_kept)
    | (with_reducible refine forRange_kept ?_ ?_)
    | (with_reducible exact kept_mk (kept_fold (by assumption)))
    | split

theorem State.fwBegin_kept {cs : Keep} {s : State} (h : s.Kept cs) : State.Kept cs (State.fwBegin s).1 := by
  unfold State.fwBegin
  repeat' first
    | (with_reducible assumption)
    | (extract_lets +onlyGivenNames x; (have _ := fun a => x a); subst x; dsimp -zeta only)
    | (extract_lets +onlyGivenNames x; generalize x = y; clear x)
    | (with_reducible refine ite_kept1 ?_ ?_)
    | (with_reducible apply State.setFld_kept)
    | (with_reducible exact kept_mk (kept_fold (by assumption)))

theorem State.fwCommit_kept {cs : Keep} {s : State} (h : s.Kept cs) : ∀ env, State.Kept cs (State.fwCommit s env).1 := by
  intros
  unfold State.fwCommit
  repeat' first
    | (with_reducible assumption)
    | (extract_lets +onlyGivenNames x; generalize x = y; clear x)
    | (with_reducible refine ite_kept ?_ ?_)
    | (with_reducible refine ite_kept1 ?_ ?_)
    | (with_reducible apply State.bootUp_kept)
    | (with_reducible exact kept_mk (kept_fold (by assumption)))
    | split
    | dsimp only

theorem State.zeroKey_kept {cs : Keep} {s : State} (h : s.Kept cs) : State.Kept cs (State.zeroKey s) := by
  unfold State.zeroKey
  repeat' first
    | (with_reducible assumption)
    | intro _
    | (with_reducible apply State.setReg_kept)
    | (with_reducible refine forRange_kept ?_ ?_)

theorem State.keyProvision_kept {cs : Keep} {s : State} (h : s.Kept cs) : ∀ k, State.Kept cs (State.keyProvision s k).1 := by
  intros
  unfold State.keyProvision
  repeat' first
    | (with_reducible assumption)
    | (extract_lets +onlyGivenNames x; refine kept_cut (cs := cs) x ?_ ?_; subst x; rotate_left; generalize x = y;
        clear x; intro _)
    | (extract_lets +onlyGivenNames x; generalize x = y; clear x)
    | (with_reducible refine ite_kept1 ?_ ?_)
    | (with_reducible apply State.zeroKey_kept)
    | (with_reducible apply State.sbErr_kept)
    | (with_reducible apply State.setFld_kept)
    | (with_reducible apply State.event_kept)
    | (with_reducible exact kept_mk (kept_fold (by assumption)))

theorem State.keyRevoke_kept {cs : Keep} {s : State} (h : s.Kept cs) : ∀ k, State.Kept cs (State.keyRevoke s k).1 := by
  intros
  unfold State.keyRevoke
  repeat' first
    | (with_reducible assumption)
    | (with_reducible apply State.zeroKey_kept)
    | (with_reducible apply State.event_kept)
    | (with_reducible apply State.setFld_kept)

theorem State.setDebug_kept {cs : Keep} {s : State} (h : s.Kept cs) : ∀ v, State.Kept cs (State.setDebug s v) := by
  intros
  unfold State.setDebug
  repeat' first
    | (with_reducible assumption)
    | (with_reducible apply State.setFld_kept)

theorem State.sbGo_kept {cs : Keep} {run : State → State × Nat} (hrun : ∀ t, t.Kept cs → (run t).1.Kept cs)
    {s : State} (h : s.Kept cs) (op slot : Nat) : (s.sbGo op slot run).Kept cs := by
  unfold State.sbGo
  split
  · exact h
  · split
    · exact State.sbErr_kept h _
    · split
      · exact h
      · split
        · exact State.sbErr_kept h _
        · extract_lets t
          have ht : t.Kept cs := State.setFld_kept (State.setFld_kept h _ _) _ _
          split
          · exact State.setFld_kept (State.setFld_kept ht _ _) _ _
          · exact hrun _ (State.setFld_kept ht _ _)

theorem execSbCommandEnd_kept {cs : Keep} {s : State} (h : s.Kept cs) : KeptO cs (execSbCommandEnd s) := by
  unfold execSbCommandEnd
  repeat' first
    | (with_reducible assumption)
    | (extract_lets +onlyGivenNames x; refine kept_cut (cs := cs) x ?_ ?_; subst x; rotate_left; generalize x = y;
        clear x; intro _)
    | (extract_lets +onlyGivenNames x; generalize x = y; clear x)
    | (with_reducible refine ite_keptO ?_ ?_)
    | (with_reducible refine kept_next ?_)
    | (with_reducible apply State.setFld_kept)
    | (with_reducible exact kept_mk (kept_fold (by assumption)))
    | split

theorem State.sbModuleReset_kept {cs : Keep} {s : State} (h : s.Kept cs) : State.Kept cs (State.sbModuleReset s).1 := by
  unfold State.sbModuleReset
  repeat' first
    | (with_reducible assumption)
    | (with_reducible refine ite_kept1 ?_ ?_)
    | (with_reducible apply State.takeModule_kept)

theorem State.sbRunOp_kept {cs : Keep} {s : State} (h : s.Kept cs) : ∀ op slot env, State.Kept cs (State.sbRunOp s
    op slot env).1 := by
  intros
  unfold State.sbRunOp
  repeat' first
    | (with_reducible assumption)
    | (extract_lets +onlyGivenNames x; generalize x = y; clear x)
    | (with_reducible apply State.leaveA3_kept)
    | (with_reducible apply State.escClear_kept)
    | (with_reducible apply State.sbModuleReset_kept)
    | (with_reducible apply State.setDebug_kept)
    | (with_reducible apply State.keyProvision_kept)
    | (with_reducible apply State.keyRevoke_kept)
    | (with_reducible apply State.fwBegin_kept)
    | (with_reducible apply State.fwCommit_kept)
    | (with_reducible exact kept_mk (kept_fold (by assumption)))
    | split

theorem execExitA3_kept {cs : Keep} {s : State} (h : s.Kept cs) : KeptO cs (execExitA3 s) := by
  unfold execExitA3
  repeat' first
    | (with_reducible assumption)
    | intro _
    | (with_reducible refine kept_next ?_)
    | (with_reducible apply State.sbGo_kept)
    | (with_reducible apply State.sbRunOp_kept)

theorem execEscClear_kept {cs : Keep} {s : State} (h : s.Kept cs) : ∀ env, KeptO cs (execEscClear env s) := by
  intros
  unfold execEscClear
  repeat' first
    | (with_reducible assumption)
    | intro _
    | (with_reducible refine kept_next ?_)
    | (with_reducible apply State.sbGo_kept)
    | (with_reducible apply State.sbRunOp_kept)

theorem execSbModuleReset_kept {cs : Keep} {s : State} (h : s.Kept cs) : KeptO cs (execSbModuleReset s) := by
  unfold execSbModuleReset
  repeat' first
    | (with_reducible assumption)
    | intro _
    | (with_reducible refine kept_next ?_)
    | (with_reducible apply State.sbGo_kept)
    | (with_reducible apply State.sbRunOp_kept)

theorem execDebugEnable_kept {cs : Keep} {s : State} (h : s.Kept cs) : KeptO cs (execDebugEnable s) := by
  unfold execDebugEnable
  repeat' first
    | (with_reducible assumption)
    | intro _
    | (with_reducible refine kept_next ?_)
    | (with_reducible apply State.sbGo_kept)
    | (with_reducible apply State.sbRunOp_kept)

theorem execDebugDisable_kept {cs : Keep} {s : State} (h : s.Kept cs) : KeptO cs (execDebugDisable s) := by
  unfold execDebugDisable
  repeat' first
    | (with_reducible assumption)
    | intro _
    | (with_reducible refine kept_next ?_)
    | (with_reducible apply State.sbGo_kept)
    | (with_reducible apply State.sbRunOp_kept)

theorem execKeyProvision_kept {cs : Keep} {s : State} (h : s.Kept cs) : ∀ k, KeptO cs (execKeyProvision k s) := by
  intros
  unfold execKeyProvision
  repeat' first
    | (with_reducible assumption)
    | intro _
    | (with_reducible refine kept_next ?_)
    | (with_reducible apply State.sbGo_kept)
    | (with_reducible apply State.sbRunOp_kept)

theorem execKeyRevoke_kept {cs : Keep} {s : State} (h : s.Kept cs) : ∀ k, KeptO cs (execKeyRevoke k s) := by
  intros
  unfold execKeyRevoke
  repeat' first
    | (with_reducible assumption)
    | intro _
    | (with_reducible refine kept_next ?_)
    | (with_reducible apply State.sbGo_kept)
    | (with_reducible apply State.sbRunOp_kept)

theorem execFwBegin_kept {cs : Keep} {s : State} (h : s.Kept cs) : KeptO cs (execFwBegin s) := by
  unfold execFwBegin
  repeat' first
    | (with_reducible assumption)
    | intro _
    | (with_reducible refine kept_next ?_)
    | (with_reducible apply State.sbGo_kept)
    | (with_reducible apply State.sbRunOp_kept)

theorem execFwCommit_kept {cs : Keep} {s : State} (h : s.Kept cs) : ∀ env, KeptO cs (execFwCommit env s) := by
  intros
  unfold execFwCommit
  repeat' first
    | (with_reducible assumption)
    | intro _
    | (with_reducible refine kept_next ?_)
    | (with_reducible apply State.sbGo_kept)
    | (with_reducible apply State.sbRunOp_kept)

theorem execFwAbort_kept {cs : Keep} {s : State} (h : s.Kept cs) : KeptO cs (execFwAbort s) := by
  unfold execFwAbort
  repeat' first
    | (with_reducible assumption)
    | intro _
    | (with_reducible refine kept_next ?_)
    | (with_reducible apply State.sbGo_kept)
    | (with_reducible apply State.sbRunOp_kept)

theorem State.sbWord_kept {cs : Keep} {s : State} (h : s.Kept cs) (i v : Nat) (env : BootEnv) : (s.sbWord i v
    env).Kept cs := by
  unfold State.sbWord
  by_cases h1 : i = 8
  · rw [if_pos h1]; exact State.sbAlertWrite_kept h _
  rw [if_neg h1]
  by_cases h2 : s.keeperDown = true
  · rw [if_pos h2]; exact State.sbErr_kept h _
  rw [if_neg h2]
  by_cases h3 : (s.boot = .recovery && i ≠ 0x30 && i ≠ 0x34 && i ≠ 0x80 && i ≠ 0x28) = true
  · rw [if_pos h3]; exact h
  rw [if_neg h3]
  by_cases h4 : i = 0x20
  · rw [if_pos h4]; exact State.sbGidWrite_kept h _
  rw [if_neg h4]
  by_cases h5 : i = 0x30
  · rw [if_pos h5]
    by_cases h6 : bitAt v 31 = true
    · rw [if_pos h6]; exact State.sbGo_kept (fun t ht => State.sbRunOp_kept ht _ _ _) h _ _
    · rw [if_neg h6]; exact State.setFld_kept (State.setFld_kept h _ _) _ _
  rw [if_neg h5]
  by_cases h6 : i < 0x400
  · rw [if_pos h6]; exact State.maskReg_kept h _ _
  rw [if_neg h6]
  by_cases h7 : ((i - 0x400) % 0x80 = 0x4C && 0x800 ≤ i) = true
  · rw [if_pos h7]; exact State.takeMbx_kept h _ _
  · rw [if_neg h7]; exact h

theorem State.sbData_kept {cs : Keep} {s : State} (h : s.Kept cs) : ∀ i l env, State.Kept cs (State.sbData s i l env) := by
  intros
  unfold State.sbData
  repeat' first
    | (with_reducible assumption)
    | intro _
    | (extract_lets +onlyGivenNames x; generalize x = y; clear x)
    | (with_reducible refine ite_kept ?_ ?_)
    | (with_reducible apply State.sbErr_kept)
    | (with_reducible apply State.fwWrite_kept)
    | (with_reducible apply State.deliver_kept)
    | (with_reducible apply State.sbWord_kept)
    | (with_reducible refine foldl_kept ?_ ?_)

theorem execSbPrivateWrite_kept {cs : Keep} {s : State} (h : s.Kept cs) : ∀ l rd env, KeptO cs (execSbPrivateWrite l
    rd env s) := by
  intros
  unfold execSbPrivateWrite
  repeat' first
    | (with_reducible assumption)
    | (extract_lets +onlyGivenNames x; generalize x = y; clear x)
    | (with_reducible refine ite_keptO ?_ ?_)
    | (with_reducible refine kept_next ?_)
    | (with_reducible apply State.sbReads_kept)
    | (with_reducible apply State.sbErr_kept)
    | (with_reducible apply State.sbData_kept)
    | (with_reducible exact kept_mk (kept_fold (by assumption)))

theorem execSbAlertClear_kept {cs : Keep} {s : State} (h : s.Kept cs) : ∀ v, KeptO cs (execSbAlertClear v s) := by
  intros
  unfold execSbAlertClear
  repeat' first
    | (with_reducible assumption)
    | (with_reducible refine ite_keptO ?_ ?_)
    | (with_reducible refine kept_next ?_)
    | (with_reducible apply State.sbAlertWrite_kept)

theorem execSbGidWrite_kept {cs : Keep} {s : State} (h : s.Kept cs) : ∀ v, KeptO cs (execSbGidWrite v s) := by
  intros
  unfold execSbGidWrite
  repeat' first
    | (with_reducible assumption)
    | (with_reducible refine ite_keptO ?_ ?_)
    | (with_reducible refine kept_next ?_)
    | (with_reducible apply State.sbWord_kept)

theorem execSbFwDataWrite_kept {cs : Keep} {s : State} (h : s.Kept cs) : ∀ l, KeptO cs (execSbFwDataWrite l s) := by
  intros
  unfold execSbFwDataWrite
  repeat' first
    | (with_reducible assumption)
    | (with_reducible refine ite_keptO ?_ ?_)
    | (with_reducible refine kept_next ?_)
    | (with_reducible apply State.sbErr_kept)
    | (with_reducible apply State.sbData_kept)

theorem execCccEntdaa_kept {cs : Keep} {s : State} (h : s.Kept cs) : ∀ addr, KeptO cs (execCccEntdaa addr s) := by
  intros
  unfold execCccEntdaa
  repeat' first
    | (with_reducible assumption)
    | (with_reducible refine ite_keptO ?_ ?_)
    | (with_reducible refine kept_next ?_)
    | (with_reducible apply State.emit_kept)
    | (with_reducible exact kept_mk (kept_fold (by assumption)))

theorem execCccSetdasa_kept {cs : Keep} {s : State} (h : s.Kept cs) : ∀ st addr, KeptO cs (execCccSetdasa st addr s) := by
  intros
  unfold execCccSetdasa
  repeat' first
    | (with_reducible assumption)
    | (with_reducible refine ite_keptO ?_ ?_)
    | (with_reducible refine kept_next ?_)
    | (with_reducible exact kept_mk (kept_fold (by assumption)))

theorem execCccSetnewda_kept {cs : Keep} {s : State} (h : s.Kept cs) : ∀ addr, KeptO cs (execCccSetnewda addr s) := by
  intros
  unfold execCccSetnewda
  repeat' first
    | (with_reducible assumption)
    | (with_reducible refine ite_keptO ?_ ?_)
    | (with_reducible refine kept_next ?_)
    | (with_reducible exact kept_mk (kept_fold (by assumption)))

theorem execCccRstdaa_kept {cs : Keep} {s : State} (h : s.Kept cs) : KeptO cs (execCccRstdaa s) := by
  unfold execCccRstdaa
  repeat' first
    | (with_reducible assumption)
    | (with_reducible refine ite_keptO ?_ ?_)
    | (with_reducible refine kept_next ?_)
    | (with_reducible exact kept_mk (kept_fold (by assumption)))

theorem execCccEnec_kept {cs : Keep} {s : State} (h : s.Kept cs) : KeptO cs (execCccEnec s) := by
  unfold execCccEnec
  repeat' first
    | (with_reducible assumption)
    | (with_reducible refine ite_keptO ?_ ?_)
    | (with_reducible refine kept_next ?_)
    | (with_reducible exact kept_mk (kept_fold (by assumption)))

theorem execCccDisec_kept {cs : Keep} {s : State} (h : s.Kept cs) : KeptO cs (execCccDisec s) := by
  unfold execCccDisec
  repeat' first
    | (with_reducible assumption)
    | (with_reducible refine ite_keptO ?_ ?_)
    | (with_reducible refine kept_next ?_)
    | (with_reducible exact kept_mk (kept_fold (by assumption)))

theorem State.cccGet_kept {cs : Keep} {s : State} (h : s.Kept cs) : ∀ l, State.Kept cs (State.cccGet s l) := by
  intros
  unfold State.cccGet
  repeat' first
    | (with_reducible assumption)
    | (with_reducible refine ite_kept ?_ ?_)
    | (with_reducible apply State.emit_kept)

theorem execCccGetpid_kept {cs : Keep} {s : State} (h : s.Kept cs) : KeptO cs (execCccGetpid s) := by
  unfold execCccGetpid
  repeat' first
    | (with_reducible assumption)
    | (with_reducible refine kept_next ?_)
    | (with_reducible apply State.cccGet_kept)

theorem execCccGetbcr_kept {cs : Keep} {s : State} (h : s.Kept cs) : KeptO cs (execCccGetbcr s) := by
  unfold execCccGetbcr
  repeat' first
    | (with_reducible assumption)
    | (with_reducible refine kept_next ?_)
    | (with_reducible apply State.cccGet_kept)

theorem execCccGetdcr_kept {cs : Keep} {s : State} (h : s.Kept cs) : KeptO cs (execCccGetdcr s) := by
  unfold execCccGetdcr
  repeat' first
    | (with_reducible assumption)
    | (with_reducible refine kept_next ?_)
    | (with_reducible apply State.cccGet_kept)

theorem execCccGetstatus_kept {cs : Keep} {s : State} (h : s.Kept cs) : KeptO cs (execCccGetstatus s) := by
  unfold execCccGetstatus
  repeat' first
    | (with_reducible assumption)
    | (with_reducible refine kept_next ?_)
    | (with_reducible apply State.cccGet_kept)

theorem execCccGetmwl_kept {cs : Keep} {s : State} (h : s.Kept cs) : KeptO cs (execCccGetmwl s) := by
  unfold execCccGetmwl
  repeat' first
    | (with_reducible assumption)
    | (with_reducible refine kept_next ?_)
    | (with_reducible apply State.cccGet_kept)

theorem execCccGetmrl_kept {cs : Keep} {s : State} (h : s.Kept cs) : KeptO cs (execCccGetmrl s) := by
  unfold execCccGetmrl
  repeat' first
    | (with_reducible assumption)
    | (with_reducible refine kept_next ?_)
    | (with_reducible apply State.cccGet_kept)

theorem State.tapSelect_kept {cs : Keep} {s : State} (h : s.Kept cs) : ∀ ir ok, State.Kept cs (State.tapSelect s ir ok) := by
  intros
  unfold State.tapSelect
  repeat' first
    | (extract_lets +onlyGivenNames x; generalize x = y; clear x)
    | (with_reducible exact kept_mk (kept_fold (by assumption)))

theorem execTapExtest_kept {cs : Keep} {s : State} (h : s.Kept cs) : ∀ v, KeptO cs (execTapExtest v s) := by
  intros
  unfold execTapExtest
  repeat' first
    | (with_reducible assumption)
    | (extract_lets +onlyGivenNames x; refine kept_cut (cs := cs) x ?_ ?_; subst x; rotate_left; generalize x = y;
        clear x; intro _)
    | (extract_lets +onlyGivenNames x; generalize x = y; clear x)
    | (with_reducible refine ite_keptO ?_ ?_)
    | (with_reducible refine kept_next ?_)
    | (with_reducible apply State.tapSelect_kept)
    | (with_reducible apply State.emit_kept)
    | (with_reducible exact kept_mk (kept_fold (by assumption)))

theorem execTapSamplePreload_kept {cs : Keep} {s : State} (h : s.Kept cs) : ∀ v, KeptO cs (execTapSamplePreload v s) := by
  intros
  unfold execTapSamplePreload
  repeat' first
    | (with_reducible assumption)
    | (extract_lets +onlyGivenNames x; refine kept_cut (cs := cs) x ?_ ?_; subst x; rotate_left; generalize x = y;
        clear x; intro _)
    | (extract_lets +onlyGivenNames x; generalize x = y; clear x)
    | (with_reducible refine ite_keptO ?_ ?_)
    | (with_reducible refine kept_next ?_)
    | (with_reducible apply State.tapSelect_kept)
    | (with_reducible apply State.emit_kept)
    | (with_reducible exact kept_mk (kept_fold (by assumption)))

theorem execTapIdcode_kept {cs : Keep} {s : State} (h : s.Kept cs) : KeptO cs (execTapIdcode s) := by
  unfold execTapIdcode
  repeat' first
    | (with_reducible assumption)
    | (with_reducible refine ite_keptO ?_ ?_)
    | (with_reducible refine kept_next ?_)
    | (with_reducible apply State.emit_kept)
    | (with_reducible apply State.tapSelect_kept)

theorem execTapHighz_kept {cs : Keep} {s : State} (h : s.Kept cs) : KeptO cs (execTapHighz s) := by
  unfold execTapHighz
  repeat' first
    | (with_reducible assumption)
    | (with_reducible refine ite_keptO ?_ ?_)
    | (with_reducible refine kept_next ?_)
    | (with_reducible apply State.emit_kept)
    | (with_reducible apply State.tapSelect_kept)

theorem execTapClamp_kept {cs : Keep} {s : State} (h : s.Kept cs) : KeptO cs (execTapClamp s) := by
  unfold execTapClamp
  repeat' first
    | (with_reducible assumption)
    | (with_reducible refine ite_keptO ?_ ?_)
    | (with_reducible refine kept_next ?_)
    | (with_reducible apply State.emit_kept)
    | (with_reducible apply State.tapSelect_kept)

theorem execTapBypass_kept {cs : Keep} {s : State} (h : s.Kept cs) : KeptO cs (execTapBypass s) := by
  unfold execTapBypass
  repeat' first
    | (with_reducible assumption)
    | (with_reducible refine ite_keptO ?_ ?_)
    | (with_reducible refine kept_next ?_)
    | (with_reducible apply State.emit_kept)
    | (with_reducible apply State.tapSelect_kept)

theorem execTapTestLogicReset_kept {cs : Keep} {s : State} (h : s.Kept cs) : KeptO cs (execTapTestLogicReset s) := by
  unfold execTapTestLogicReset
  repeat' first
    | (with_reducible assumption)
    | (with_reducible refine ite_keptO ?_ ?_)
    | (with_reducible refine kept_next ?_)
    | (with_reducible apply State.tapSelect_kept)

theorem State.dbgAccess_kept {cs : Keep} {s : State} {run : State → State} (hrun : ∀ t, t.Kept cs → (run t).Kept cs)
    (h : s.Kept cs) : ∀ ir last, State.Kept cs (State.dbgAccess s ir last run) := by
  intros
  unfold State.dbgAccess
  repeat' first
    | (with_reducible assumption)
    | (with_reducible refine ite_kept ?_ ?_)
    | (with_reducible apply hrun)
    | (with_reducible apply State.emit_kept)
    | (with_reducible apply State.tapSelect_kept)
    | (with_reducible apply State.gcount_kept)

theorem State.taint_kept {cs : Keep} {s : State} (h : s.Kept cs) : ∀ j, State.Kept cs (State.taint s j) := by
  intros
  unfold State.taint
  repeat' first
    | (with_reducible assumption)
    | (with_reducible refine ite_kept ?_ ?_)
    | (with_reducible apply State.gcount_kept)
    | (with_reducible apply State.event_kept)
    | (with_reducible apply State.setFld_kept)

theorem execDbgRegRead_kept {cs : Keep} {s : State} (h : s.Kept cs) : ∀ a, KeptO cs (execDbgRegRead a s) := by
  intros
  unfold execDbgRegRead
  repeat' first
    | (with_reducible assumption)
    | intro _
    | (extract_lets +onlyGivenNames x; (have _ := fun a => x a); subst x; dsimp -zeta only)
    | (extract_lets +onlyGivenNames x; generalize x = y; clear x)
    | (with_reducible refine ite_kept ?_ ?_)
    | (with_reducible refine kept_next ?_)
    | (with_reducible apply State.dbgAccess_kept)
    | (with_reducible exact kept_mk (kept_fold (by assumption)))
    | (with_reducible exact kept_mk (kept_fold (State.readReg_kept (by assumption) _ _)))

theorem State.ownWrite_kept {cs : Keep} {s : State} (h : s.Kept cs) : ∀ a v env, State.Kept cs (State.ownWrite s a v
    env) := by
  intros
  unfold State.ownWrite
  repeat' first
    | (with_reducible assumption)
    | (extract_lets +onlyGivenNames x; (have _ := fun a => x a); subst x; dsimp -zeta only)
    | (extract_lets +onlyGivenNames x; refine kept_cut (cs := cs) x ?_ ?_; subst x; rotate_left; generalize x = y;
        clear x; intro _)
    | (extract_lets +onlyGivenNames x; generalize x = y; clear x)
    | (with_reducible refine ite_kept ?_ ?_)
    | (with_reducible refine outState_kept ?_ ?_)
    | (with_reducible apply execTmbValueWrite_kept)
    | (with_reducible apply execRingDoorbell_kept)
    | (with_reducible apply execRingEnable_kept)
    | (with_reducible apply execRingDisable_kept)
    | (with_reducible apply execJobScalarWrite_kept)
    | (with_reducible apply execUpdEtaWrite_kept)
    | (with_reducible apply execCounterClearAll_kept)
    | (with_reducible apply execCounterClear_kept)
    | (with_reducible apply execTraceArm_kept)
    | (with_reducible apply execTraceTrigger_kept)
    | (with_reducible apply execTableShadowWrite_kept)
    | (with_reducible apply execTableSwapArm_kept)
    | (with_reducible apply execLaneReadmit_kept)
    | (with_reducible apply execErrRingHeadWrite_kept)
    | (with_reducible apply execKprEscClearWrite_kept)
    | (with_reducible apply execRstReqContext_kept)
    | (with_reducible apply execRstReqEngine_kept)
    | (with_reducible apply execRstReqPartition_kept)
    | (with_reducible apply execRstReqModule_kept)
    | (with_reducible apply execRstReqPowerCycle_kept)
    | (with_reducible apply execRemoteMailboxSend_kept)
    | (with_reducible apply execCapWrite_kept)
    | (with_reducible apply execA3Enter_kept)
    | (with_reducible apply execA3Exit_kept)
    | (with_reducible apply execDomainHoldAwake_kept)
    | (with_reducible apply execDomainSleepRequest_kept)
    | (with_reducible apply execMtbfWrite_kept)
    | split

theorem State.pfWrite_kept {cs : Keep} {s : State} (h : s.Kept cs) : ∀ a v env, State.Kept cs (State.pfWrite s a v env) := by
  intros
  unfold State.pfWrite
  repeat' first
    | (with_reducible assumption)
    | (with_reducible apply State.ownWrite_kept)
    | (with_reducible apply State.writeReg_kept)

theorem execDbgRegWrite_kept {cs : Keep} {s : State} (h : s.Kept cs) : ∀ a v env, KeptO cs (execDbgRegWrite a v env s) := by
  intros
  unfold execDbgRegWrite
  repeat' first
    | (with_reducible assumption)
    | intro _
    | (extract_lets +onlyGivenNames x; (have _ := fun a => x a); subst x; dsimp -zeta only)
    | (extract_lets +onlyGivenNames x; generalize x = y; clear x)
    | (with_reducible refine ite_kept ?_ ?_)
    | (with_reducible refine kept_next ?_)
    | (with_reducible apply State.dbgAccess_kept)
    | (with_reducible apply State.taint_kept)
    | (with_reducible exact kept_mk (kept_fold (by assumption)))
    | (with_reducible refine kept_mk (kept_fold ?_); first | with_reducible apply State.dbgAccess_kept | with_reducible apply State.pfWrite_kept | with_reducible apply State.taint_kept)

theorem execDbgHbmRead_kept {cs : Keep} {s : State} (h : s.Kept cs) : ∀ a ecc, KeptO cs (execDbgHbmRead a ecc s) := by
  intros
  unfold execDbgHbmRead
  repeat' first
    | (with_reducible assumption)
    | intro _
    | (extract_lets +onlyGivenNames x; (have _ := fun a => x a); subst x; dsimp -zeta only)
    | (extract_lets +onlyGivenNames x; refine kept_cut (cs := cs) x ?_ ?_; subst x; rotate_left; generalize x = y;
        clear x; intro _)
    | (extract_lets +onlyGivenNames x; generalize x = y; clear x)
    | (with_reducible refine ite_kept ?_ ?_)
    | (with_reducible refine kept_next ?_)
    | (with_reducible apply State.dbgAccess_kept)
    | (with_reducible apply State.wakeStacks_kept)
    | (with_reducible apply State.eccRead_kept)
    | (with_reducible refine foldl_kept ?_ ?_)
    | (with_reducible exact kept_mk (kept_fold (by assumption)))
    | split

theorem execDbgHbmWrite_kept {cs : Keep} {s : State} (h : s.Kept cs) : ∀ a v, KeptO cs (execDbgHbmWrite a v s) := by
  intros
  unfold execDbgHbmWrite
  repeat' first
    | (with_reducible assumption)
    | intro _
    | (extract_lets +onlyGivenNames x; (have _ := fun a => x a); subst x; dsimp -zeta only)
    | (extract_lets +onlyGivenNames x; refine kept_cut (cs := cs) x ?_ ?_; subst x; rotate_left; generalize x = y;
        clear x; intro _)
    | (extract_lets +onlyGivenNames x; generalize x = y; clear x)
    | (with_reducible refine ite_kept ?_ ?_)
    | (with_reducible refine kept_next ?_)
    | (with_reducible apply State.dbgAccess_kept)
    | (with_reducible apply State.taint_kept)
    | (with_reducible apply State.wakeStacks_kept)
    | (with_reducible exact kept_mk (kept_fold (by assumption)))
    | split
    | (with_reducible refine kept_mk (kept_fold ?_); first | with_reducible apply State.dbgAccess_kept | with_reducible apply State.taint_kept | with_reducible apply State.hbmPut_kept | with_reducible apply State.wakeStacks_kept)

theorem execDbgHalt_kept {cs : Keep} {s : State} (h : s.Kept cs) : ∀ halt resume, KeptO cs (execDbgHalt halt resume s) := by
  intros
  unfold execDbgHalt
  repeat' first
    | (with_reducible assumption)
    | intro _
    | (extract_lets +onlyGivenNames x; generalize x = y; clear x)
    | (with_reducible refine ite_kept ?_ ?_)
    | (with_reducible refine kept_next ?_)
    | (with_reducible apply State.dbgAccess_kept)
    | (with_reducible apply State.setFld_kept)

theorem State.message_kept {cs : Keep} {s : State} {f : State → State} (hf : ∀ t, t.Kept cs → (f t).Kept cs) (h :
    s.Kept cs) : ∀ src m, State.Kept cs (State.message s src m f) := by
  intros
  unfold State.message
  repeat' first
    | (with_reducible assumption)
    | (with_reducible apply State.control_kept)

theorem execReadyNotice_kept {cs : Keep} {s : State} (h : s.Kept cs) : ∀ src m, KeptO cs (execReadyNotice src m s) := by
  intros
  unfold execReadyNotice
  repeat' first
    | (with_reducible assumption)
    | intro _
    | (with_reducible refine kept_next ?_)
    | (with_reducible apply State.message_kept)
    | (with_reducible apply State.onReadyNotice_kept)

theorem execHoldNotice_kept {cs : Keep} {s : State} (h : s.Kept cs) : ∀ src m, KeptO cs (execHoldNotice src m s) := by
  intros
  unfold execHoldNotice
  repeat' first
    | (with_reducible assumption)
    | intro _
    | (with_reducible refine kept_next ?_)
    | (with_reducible apply State.message_kept)
    | (with_reducible apply State.onHoldNotice_kept)

theorem execHingeRelease_kept {cs : Keep} {s : State} (h : s.Kept cs) : ∀ src m, KeptO cs (execHingeRelease src m s) := by
  intros
  unfold execHingeRelease
  repeat' first
    | (with_reducible assumption)
    | intro _
    | (with_reducible refine kept_next ?_)
    | (with_reducible apply State.message_kept)
    | (with_reducible apply State.onHingeRelease_kept)

theorem execHreq_kept {cs : Keep} {s : State} (h : s.Kept cs) : ∀ src m, KeptO cs (execHreq src m s) := by
  intros
  unfold execHreq
  repeat' first
    | (with_reducible assumption)
    | intro _
    | (with_reducible refine kept_next ?_)
    | (with_reducible apply State.message_kept)
    | (with_reducible apply State.onHreq_kept)

theorem execHsum_kept {cs : Keep} {s : State} (h : s.Kept cs) : ∀ src m, KeptO cs (execHsum src m s) := by
  intros
  unfold execHsum
  repeat' first
    | (with_reducible assumption)
    | intro _
    | (with_reducible refine kept_next ?_)
    | (with_reducible apply State.message_kept)
    | (with_reducible apply State.onHsum_kept)

theorem execHuse_kept {cs : Keep} {s : State} (h : s.Kept cs) : ∀ src m, KeptO cs (execHuse src m s) := by
  intros
  unfold execHuse
  repeat' first
    | (with_reducible assumption)
    | intro _
    | (with_reducible refine kept_next ?_)
    | (with_reducible apply State.message_kept)
    | (with_reducible apply State.onHuse_kept)

theorem execHpick_kept {cs : Keep} {s : State} (h : s.Kept cs) : ∀ src m, KeptO cs (execHpick src m s) := by
  intros
  unfold execHpick
  repeat' first
    | (with_reducible assumption)
    | intro _
    | (with_reducible refine kept_next ?_)
    | (with_reducible apply State.message_kept)
    | (with_reducible apply State.onHpick_kept)

theorem execHget_kept {cs : Keep} {s : State} (h : s.Kept cs) : ∀ src m, KeptO cs (execHget src m s) := by
  intros
  unfold execHget
  repeat' first
    | (with_reducible assumption)
    | intro _
    | (with_reducible refine kept_next ?_)
    | (with_reducible apply State.message_kept)
    | (with_reducible apply State.onHget_kept)

theorem execBchunk_kept {cs : Keep} {s : State} (h : s.Kept cs) : ∀ src m, KeptO cs (execBchunk src m s) := by
  intros
  unfold execBchunk
  repeat' first
    | (with_reducible assumption)
    | intro _
    | (with_reducible refine kept_next ?_)
    | (with_reducible apply State.message_kept)
    | (with_reducible apply State.onBchunk_kept)

theorem execBhb_kept {cs : Keep} {s : State} (h : s.Kept cs) : ∀ src m, KeptO cs (execBhb src m s) := by
  intros
  unfold execBhb
  repeat' first
    | (with_reducible assumption)
    | intro _
    | (with_reducible refine kept_next ?_)
    | (with_reducible apply State.message_kept)
    | (with_reducible apply State.onBhb_kept)

theorem execAttach_kept {cs : Keep} {s : State} (h : s.Kept cs) : ∀ src m, KeptO cs (execAttach src m s) := by
  intros
  unfold execAttach
  repeat' first
    | (with_reducible assumption)
    | intro _
    | (with_reducible refine kept_next ?_)
    | (with_reducible apply State.message_kept)
    | (with_reducible apply State.onAttach_kept)

theorem execAttachAck_kept {cs : Keep} {s : State} (h : s.Kept cs) : ∀ src m, KeptO cs (execAttachAck src m s) := by
  intros
  unfold execAttachAck
  repeat' first
    | (with_reducible assumption)
    | intro _
    | (with_reducible refine kept_next ?_)
    | (with_reducible apply State.message_kept)
    | (with_reducible apply State.onAttachAck_kept)

theorem execBreq_kept {cs : Keep} {s : State} (h : s.Kept cs) : ∀ src m, KeptO cs (execBreq src m s) := by
  intros
  unfold execBreq
  repeat' first
    | (with_reducible assumption)
    | intro _
    | (with_reducible refine kept_next ?_)
    | (with_reducible apply State.message_kept)
    | (with_reducible apply State.onBreq_kept)

theorem execBdone_kept {cs : Keep} {s : State} (h : s.Kept cs) : ∀ src m, KeptO cs (execBdone src m s) := by
  intros
  unfold execBdone
  repeat' first
    | (with_reducible assumption)
    | intro _
    | (with_reducible refine kept_next ?_)
    | (with_reducible apply State.message_kept)
    | (with_reducible apply State.onBdone_kept)

theorem State.onControl_kept {cs : Keep} {s : State} (h : s.Kept cs) : ∀ src m peers, State.Kept cs (State.onControl
    s src m peers) := by
  intros
  unfold State.onControl
  repeat' first
    | (with_reducible assumption)
    | (extract_lets +onlyGivenNames x; (have _ := fun a => x a); subst x; dsimp -zeta only)
    | (with_reducible refine outState_kept ?_ ?_)
    | (with_reducible apply execReadyNotice_kept)
    | (with_reducible apply execHingeRelease_kept)
    | (with_reducible apply execHoldNotice_kept)
    | (with_reducible apply execBchunk_kept)
    | (with_reducible apply execBhb_kept)
    | (with_reducible apply execAttach_kept)
    | (with_reducible apply execAttachAck_kept)
    | (with_reducible apply execBreq_kept)
    | (with_reducible apply execBdone_kept)
    | (with_reducible apply execHreq_kept)
    | (with_reducible apply execHsum_kept)
    | (with_reducible apply execHuse_kept)
    | (with_reducible apply execHpick_kept)
    | (with_reducible apply execHget_kept)
    | (with_reducible apply execHfault_kept)
    | (with_reducible apply execGhb_kept)
    | (with_reducible apply execRcut_kept)
    | (with_reducible apply execLreq_kept)
    | (with_reducible apply execLnak_kept)
    | (with_reducible apply execRcopy_kept)
    | (with_reducible apply execFsync_kept)
    | (with_reducible apply execDeadbolt_kept)
    | (with_reducible apply execRabort_kept)
    | split

theorem State.rxDrop_kept {cs : Keep} {s : State} (h : s.Kept cs) : ∀ q check flag h, State.Kept cs (State.rxDrop s
    q check flag h) := by
  intros
  unfold State.rxDrop
  repeat' first
    | (with_reducible assumption)
    | (extract_lets +onlyGivenNames x; refine kept_cut (cs := cs) x ?_ ?_; subst x; rotate_left; generalize x = y;
        clear x; intro _)
    | (with_reducible refine ite_kept ?_ ?_)
    | (with_reducible apply State.gcount_kept)
    | (with_reducible apply State.setFld_kept)
    | split

theorem State.rxRecord_kept {cs : Keep} {s : State} (h : s.Kept cs) : ∀ q kind check h job, State.Kept cs
    (State.rxRecord s q kind check h job) := by
  intros
  unfold State.rxRecord
  repeat' first
    | (with_reducible assumption)
    | (with_reducible apply State.detect_kept)

theorem State.slideSeq_kept {cs : Keep} {s : State} (h : s.Kept cs) : ∀ n w r, State.Kept cs (State.slideSeq s n w r) := by
  intros
  unfold State.slideSeq
  repeat' first
    | (with_reducible assumption)
    | (extract_lets +onlyGivenNames x; refine kept_cut (cs := cs) x ?_ ?_; subst x; rotate_left; generalize x = y;
        clear x; intro _)
    | (with_reducible refine ite_kept ?_ ?_)
    | (with_reducible apply State.setFld_kept)
    | (with_reducible apply State.setFcWindow_kept)

theorem State.acceptSeq_kept {cs : Keep} {s : State} (h : s.Kept cs) (n d : Nat) : (s.acceptSeq n d).Kept cs :=
  State.slideSeq_kept h n (s.fcWindow n) (slide 513 (s.fcWindow n ||| 2 ^ d) 0)

theorem State.landData_kept {cs : Keep} {s : State} (h : s.Kept cs) : ∀ h pay, State.Kept cs (State.landData s h pay) := by
  intros
  unfold State.landData
  repeat' first
    | (with_reducible assumption)
    | (extract_lets +onlyGivenNames x; refine kept_cut (cs := cs) x ?_ ?_; subst x; rotate_left; generalize x = y;
        clear x; intro _)
    | (extract_lets +onlyGivenNames x; generalize x = y; clear x)
    | (with_reducible refine ite_kept ?_ ?_)
    | (with_reducible apply State.detect_kept)
    | (with_reducible apply State.setFld_kept)
    | (with_reducible apply State.cmdWrite_kept)
    | (with_reducible apply State.bump_kept)
    | split

theorem State.rxParity_kept {cs : Keep} {s : State} (h : s.Kept cs) : ∀ h par, State.Kept cs (State.rxParity s h par).1 := by
  intros
  unfold State.rxParity
  repeat' first
    | (with_reducible assumption)
    | intro _
    | (extract_lets +onlyGivenNames x; generalize x = y; clear x)
    | (with_reducible apply State.detect_kept)
    | (with_reducible refine foldl_kept ?_ ?_)

theorem State.rxFlow_kept {cs : Keep} {s : State} (h : s.Kept cs) : ∀ q h pay par, State.Kept cs (State.rxFlow s q h
    pay par) := by
  intros
  unfold State.rxFlow
  repeat' first
    | (with_reducible assumption)
    | (extract_lets +onlyGivenNames x; refine kept_cut (cs := cs) x ?_ ?_; subst x; rotate_left; generalize x = y;
        clear x; intro _)
    | (extract_lets +onlyGivenNames x; generalize x = y; clear x)
    | (with_reducible refine ite_kept ?_ ?_)
    | (with_reducible apply State.rxDrop_kept)
    | (with_reducible apply State.gcount_kept)
    | (with_reducible apply State.deadbolt_kept)
    | (with_reducible apply State.rxRecord_kept)
    | (with_reducible apply State.acceptSeq_kept)
    | (with_reducible apply State.rxParity_kept)
    | (with_reducible apply State.bcastData_kept)
    | (with_reducible apply State.onCont_kept)
    | (with_reducible apply State.landData_kept)
    | (split; rename_i heq; refine kept_cut2 (cs := cs) heq ?_ ?_; rotate_left; (clear heq; intro _))
    | split

theorem State.rxPacket_kept {cs : Keep} {s : State} (h : s.Kept cs) : ∀ q p crc par peers, State.Kept cs
    (State.rxPacket s q p crc par peers) := by
  intros
  unfold State.rxPacket
  repeat' first
    | (with_reducible assumption)
    | (extract_lets +onlyGivenNames x; generalize x = y; clear x)
    | (with_reducible refine ite_kept ?_ ?_)
    | (with_reducible apply State.rxDrop_kept)
    | (with_reducible apply State.rxRecord_kept)
    | (with_reducible apply State.onControl_kept)
    | (with_reducible apply State.remoteMbx_kept)
    | (with_reducible apply State.rxFlow_kept)

theorem State.rxPort_kept {cs : Keep} {s : State} (h : s.Kept cs) : ∀ q par peers, State.Kept cs (State.rxPort s q
    par peers) := by
  intros
  unfold State.rxPort
  repeat' first
    | (with_reducible assumption)
    | (extract_lets +onlyGivenNames x; refine kept_cut (cs := cs) x ?_ ?_; subst x; rotate_left; generalize x = y;
        clear x; intro _)
    | (extract_lets +onlyGivenNames x; generalize x = y; clear x)
    | (with_reducible refine ite_kept ?_ ?_)
    | (with_reducible apply State.setLink_kept)
    | (with_reducible apply State.rxDrop_kept)
    | (with_reducible apply State.rxPacket_kept)
    | (with_reducible apply State.sendCredit_kept)

theorem execPacketReceive_kept {cs : Keep} {s : State} (h : s.Kept cs) : ∀ q tbl par peers, KeptO cs
    (execPacketReceive q tbl par peers s) := by
  intros
  unfold execPacketReceive
  repeat' first
    | (with_reducible assumption)
    | (extract_lets +onlyGivenNames x; refine kept_cut (cs := cs) x ?_ ?_; subst x; rotate_left; generalize x = y;
        clear x; intro _)
    | (with_reducible refine ite_keptO ?_ ?_)
    | (with_reducible refine kept_next ?_)
    | (with_reducible apply State.tableErrors_kept)
    | (with_reducible apply State.rxPacket_kept)
    | (with_reducible apply State.settleCmd_kept)
    | (with_reducible apply State.rxPort_kept)
    | (with_reducible exact kept_mk (kept_fold (by assumption)))
    | split

end Sys2Proof.Machine
end

