-- ==== Sys2Proof/Laws/KeptI.lean ====
section
/-! SUPPORT. What the operations of Machine/Idle keep (`State.Kept`): the queue, and the invariant. -/
namespace Sys2Proof.Machine

theorem State.selfBeat_kept {cs : Keep} {s : State} (h : s.Kept cs) : ∀ t, State.Kept cs (State.selfBeat s t) := by
  intros
  unfold State.selfBeat
  repeat' first
    | (with_reducible assumption)
    | (with_reducible refine ite_kept ?_ ?_)
    | (with_reducible apply State.setFld_kept)

theorem State.idleTick_kept {cs : Keep} {s : State} (h : s.Kept cs) : State.Kept cs (State.idleTick s) := by
  unfold State.idleTick
  repeat' first
    | (with_reducible assumption)
    | (with_reducible apply State.selfBeat_kept)
    | (with_reducible apply State.timeTick_kept)
    | (with_reducible apply State.waitTick_kept)
    | split

end Sys2Proof.Machine
end

