-- ==== Sys2Proof/Tests/Slice0.lean ====
section
/-! SUPPORT. Tests of the model: ill-formed commands refused, results that the manual states, and for every statement with
hypotheses a state and operands that meet them. Expected values come from the manual, not from the model. -/
namespace Sys2Proof.Tests
open Sys2Proof.Machine

-- one proof at a time: the kernel's evaluations need much memory when they run side by side
set_option Elab.async false

/-! ## Small states -/

/-- `s` with the fields of `l` set. -/
def put (s : State) (l : List (Fld × Nat)) : State := l.foldl (fun t x => t.setFld x.1 x.2) s
/-- A module that runs, everything else as after reset. -/
def up : State := { State.reset with boot := .running }
/-- A running module whose registers of `l` are set. -/
def set (l : List (Fld × Nat)) : State := put up l
/-- A descriptor of a class, with the marker bit and the fields of `fs` (place, value); operand bit `n` is bit `320 + n`. -/
def desc (cls : Nat) (fs : List (Nat × Nat)) : Nat := fs.foldl (fun d f => d + f.2 * 2 ^ f.1) (cls + 0x10)
/-- `s` with the descriptors `ds` and a STEP_END as the program of hosting entry 0 of P0. -/
def hosts (s : State) (ds : List Nat) : State :=
  (ds ++ [desc 7 []]).zipIdx.foldl (fun t x => t.wrDatum x.2 x.1 false)
    (put s [(CAM_HOST_W0_STATE 0 0, 2), (CAM_HOST_W2_PROG_LEN 0 0, ds.length + 1), (CAM_HOST_W5_TWIN_SIZE 0 0, 1)])
/-- A running module that hosts the program `ds`. -/
def prog (ds : List Nat) : State := hosts up ds
/-- The descriptors used: one of each kind that the rows name. -/
def dNop : Nat := desc 0 []
def dMxe : Nat := desc 1 [(320, 1), (328, 1), (336, 1), (352, 1), (360, 1), (368, 1)]
def dMx32 : Nat := desc 1 [(320, 1), (326, 1), (352, 1), (360, 1), (368, 1)]
def dStr : Nat := desc 2 [(52, 0xFFF), (44, 1), (320, 1), (322, 1), (352, 0x30000000)]
def dPre : Nat := desc 1 [(320, 1), (326, 2), (336, 1)]
def dVxe : Nat := desc 2 [(52, 0xFFF), (44, 1), (320, 1), (336, 1), (352, 0x30000000)]
def dUpd : Nat := desc 3 [(52, 0xFFF), (44, 1), (324, 1), (336, 1), (344, 1), (64, 0x3000)]
def dUpf : Nat := desc 3 [(52, 0xFFF), (44, 1), (320, 1), (324, 1), (336, 1), (344, 1), (64, 0x3000)]
def dMove : Nat := desc 4 [(52, 0xFFF), (44, 1), (352, 1), (384, 1)]
def dSend : Nat := desc 5 [(344, 1), (448, 1)]
def dRs : Nat := desc 6 [(52, 0xFFF), (364, 1), (448, 1)]
def dAg : Nat := desc 6 [(52, 0xFFF), (364, 1), (448, 1), (320, 1)]
def dAr : Nat := desc 6 [(52, 0xFFF), (364, 1), (448, 1), (320, 2)]
def dMd : Nat := desc 8 [(52, 0xFFF), (384, 1), (368, 1), (416, 1)]
def dMc : Nat := desc 8 [(52, 0xFFF), (384, 1), (368, 1), (416, 1), (320, 1)]

/-! ## Ill-formed commands -/

theorem test_wf_partition : Instr.wf (.pllLockLoss 8) = false := by decide
theorem test_wf_context : Instr.wf (.cmdNop 0 36) = false := by decide
theorem test_wf_sender : Instr.wf (.a3Enter 10) = false := by decide
theorem test_wf_slot : Instr.wf (.stepStart 8) = false := by decide
theorem test_wf_port : Instr.wf (.timeExchangeStart 24) = false := by decide
theorem test_wf_gid : Instr.wf (.bchunk 0x100000 []) = false := by decide
theorem test_wf_gids : Instr.wf (.opRehost 0 [0x100000] false) = false := by decide
theorem test_wf_bytes : Instr.wf (.bchunk 0 [256]) = false := by decide
theorem test_wf_fetched : Instr.wf (.opProgramLoad 0 (some [256])) = false := by decide
theorem test_wf_vector_engine : Instr.wf (.vxeOpAdd 0 2 0 0) = false := by decide
theorem test_wf_matrix_engine : Instr.wf (.twoKeyOutcome 0 6) = false := by decide
theorem test_wf_word : Instr.wf (.capWrite 0 0x100000000) = false := by decide
theorem test_wf_operation_number : Instr.wf (.vxeOpAdd 0 0 256 0) = false := by decide
theorem test_wf_domain : Instr.wf (.domainPrewake 40) = false := by decide
theorem test_wf_lane : Instr.wf (.laneRejoin 96) = false := by decide
theorem test_wf_port_lane : Instr.wf (.codewordReceive 0 4 false 0 0 0 (List.replicate 10 0)) = false := by decide
theorem test_wf_group : Instr.wf (.laneReadmit 0 6 0) = false := by decide
theorem test_wf_lanes : Instr.wf (.linkLane 0 0x10000) = false := by decide
theorem test_wf_address : Instr.wf (.registerRead 0 2 true) = false := by decide
theorem test_wf_unit : Instr.wf (.engineReset 0x10000) = false := by decide
theorem test_wf_units : Instr.wf (.codewordReceive 0 0 false 0 0 0 [0]) = false := by decide
theorem test_wf_train_unit : Instr.wf (.linkTrain 0 (2 ^ 512)) = false := by simp [Instr.wf, unitBytesWf]
theorem test_wf_partner : Instr.wf (.portTrainStart 0 0 (some 0x10000)) = false := by decide
theorem test_wf_handle : Instr.wf (.attachTimeout 0 0x100000000) = false := by decide
theorem test_wf_percent : Instr.wf (.exposureSample [(0, 101)]) = false := by decide
theorem test_wf_i3c : Instr.wf (.cccEntdaa 128) = false := by decide
theorem test_wf_mask : Instr.wf (.dbgHalt 256 0) = false := by decide
theorem test_wf_temperature : Instr.wf (.stackTempSample 0 0x10000) = false := by decide
theorem test_wf_reading : Instr.wf (.tempSensorSample [(64, 0, true)]) = false := by decide
theorem test_wf_rail : Instr.wf (.railOutOfRegulation 32 0 0) = false := by decide
theorem test_wf_boot : Instr.wf (.powerOn { fwBad := [2] }) = false := by decide
theorem test_wf_read_end : Instr.wf (.scrubRead 0 true 5) = false := by decide
theorem test_wf_ring : Instr.wf (.ringDoorbell 0 0 4 0) = false := by decide
theorem test_wf_tumbler : Instr.wf (.tmbValueWrite 0 0 4096 0) = false := by decide
theorem test_wf_scalar : Instr.wf (.jobScalarWrite 0 0 32 false 0) = false := by decide
theorem test_wf_place : Instr.wf (.collStageReady 8) = false := by decide
theorem test_wf_stripe : Instr.wf (.haspChunkTimeout 0 0 272) = false := by decide
theorem test_wf_credits : Instr.wf (.linkCredit 0 [0x100000000]) = false := by decide
theorem test_wf_reset_kind : Instr.wf (.resetBoundExpiry 5 0 0 0) = false := by decide
theorem test_wf_time : Instr.wf (.timeReq 0 0 0 (2 ^ 64)) = false := by decide
theorem test_wf_key : Instr.wf (.keyProvision 4) = false := by decide
theorem test_wf_mailbox : Instr.wf (.mbxTake 64 0 0) = false := by decide
theorem test_wf_counter : Instr.wf (.counterClear 0 0 1024) = false := by decide
theorem test_wf_bar2 : Instr.wf (.hostHbmWrite 0 (2 ^ 64) [] true) = false := by decide
theorem test_wf_scan : Instr.wf (.tapExtest 64) = false := by decide
theorem test_wf_pcie_cause : Instr.wf (.pcieConventionalReset 3) = false := by decide
theorem test_wf_vector : Instr.wf (.irqRaise 0 3) = false := by decide
theorem test_wf_accepts : Instr.wf (.cmdNop 7 35) = true := by decide

/-! ## Witnesses: states and operands that meet the hypotheses of each statement -/

/-- A module that runs and whose input has failed, tripped, or waits for an answer. -/
def down (b : Boot) : State := { State.reset with boot := b }
/-- A running module with the running reset `r`. -/
def resets (kind unit ctx : Nat) : State := { up with rstRun := [⟨kind, unit, ctx, 8, 0⟩] }

theorem wit_StepRunsTheFrontCommand : ({ up with pending := [.tapIdcode] } : State).pending = .tapIdcode :: [] := rfl

theorem wit_IdleStepIsOneTick : (down .off).pending = [] ∧ (down .off).boot = .off ∧ up.pending = [] ∧ up.boot ≠ .off ∧ up.slew = 0 := by
  decide +kernel

theorem wit_PowerOnBoots :
    (({ fwBad := [0, 1] } : BootEnv).fwBad.contains 0 || storeGet false State.reset.aon.fwBad 0) = true ∧
    (({ fwBad := [0, 1] } : BootEnv).fwBad.contains 1 || storeGet false State.reset.aon.fwBad 1) = true ∧
    (({ fwBad := [1] } : BootEnv).fwBad.contains 0 || storeGet false State.reset.aon.fwBad 0) = false := by decide +kernel

theorem wit_InputFaultsShutDown :
    (up.boot ≠ .off ∧ up.boot ≠ .undervolt ∧ up.boot ≠ .overvolt ∧ 37999 < 38000) ∧
    (up.boot ≠ .off ∧ up.boot ≠ .overvolt ∧ 61000 < 61001 ∧ (61001 ≤ 65000 ∨ Config.damaged 61001 = false)) ∧
    (up.boot ≠ .off ∧ 38000 ≤ 38000 ∧ 38000 < 40000 ∧ 38000 ≤ 39999 ∧ 39999 < 40000) ∧
    (({ down .undervolt with pins := { up.pins with trip := true } } : State).pins.trip = true) ∧
    ((down .undervolt).boot = .undervolt ∧ (down .undervolt).pins.trip = false ∧ (down .undervolt).pins.fault &&& 3 = 0) ∧
    ((down .overvolt).boot = .overvolt ∧ (down .overvolt).pins.trip = false ∧ (down .overvolt).pins.fault &&& 3 = 0) := by
  refine ⟨by decide +kernel, ⟨by decide +kernel, by decide +kernel, by decide +kernel, .inl (by decide)⟩, by decide +kernel, by decide +kernel, by decide +kernel, by decide +kernel⟩

theorem wit_RailAndPllFaultsResetTheirPart :
    (up.boot = .running ∧ (set [(PWR_RAIL_SET_MV 1, 1000)]).boot = .running ∧
      949 * 20 < (set [(PWR_RAIL_SET_MV 1, 1000)]).fld (PWR_RAIL_SET_MV 1) * 19 ∧
      (set [(PWR_RAIL_SET_MV 31, 1000)]).fld (PWR_RAIL_SET_MV 31) * 21 < 1051 * 20) ∧
    (up.present 7 = true ∧ bitAt ((set [(CLK_STATUS_PLL_LOCK, 128)]).fld CLK_STATUS_PLL_LOCK) 7 = true) ∧
    ((set [(PWR_DOM_STATE 31, 1)]).domState 31 = 1 ∧ (set [(PWR_DOM_STATE 39, 2)]).domState 39 = 2) := by decide +kernel

theorem wit_SensorAndPowerSamples :
    (up.boot ≠ .off ∧ 63 < 64 ∧ 2400 % 65536 ≤ 2400) ∧
    (up.boot = .running ∧ up.present 0 = true ∧ up.domState 3 ≠ 3) ∧
    ((down .tripped).boot = .tripped ∧ (down .tripped).aon.tripAt + 4000000000 ≤ ({ down .tripped with ftime := 4000000000 } : State).ftime) := by
  decide +kernel

theorem wit_DutyFollowsCapAndHeat :
    (set [(PWR_VIN_PIN_W, 60000)]).boot = .running ∧
    (set [(PWR_VIN_PIN_W, 60000)]).capW < (set [(PWR_VIN_PIN_W, 60000)]).fld PWR_VIN_PIN_W ∧
    up.fld PWR_VIN_PIN_W ≤ up.capW := by decide +kernel

/-- One command in flight of the class of `d`. -/
def inFlight (d : Nat) (done : Bool) : Issued := ⟨0, 0, 0, d, 0, [], 0, false, done, false⟩
/-- A running module with job slot 0 loaded. -/
def loaded0 : State := { up with owner := [(0, 1)] }

theorem wit_PowerDomainsChangeState :
    (let s := put (prog [dMove]) [(PWR_DOM_STATE 0, 1)];
      s.camRuns 0 = true ∧ s.domState 0 = 1 ∧ s.domNeed 0 0 = some 0 ∧ 0 ≤ s.stepCycles 0 + s.fld (CAM_WAKE_CFG0_A1_LEAD 0)) ∧
    (up.camRuns 7 = true ∧ 28 % 4 ≠ 3 ∧ up.domState 28 = 0 ∧ up.flag (PWR_DOM_HOLD_AWAKE 28) = false ∧ up.domInUse 28 = false ∧
      up.domNeed 7 28 = none ∧ (set [(FAB_GID_GID, 1)]).boot = .running) ∧
    (let s := put (prog [dMove + 0xFFFFFF * 2 ^ 8]) [];
      s.camRuns 0 = true ∧ s.domState 2 < 2 ∧ s.flag (PWR_DOM_HOLD_AWAKE 2) = false ∧ s.domInUse 2 = false ∧ 2 % 4 ≠ 1 ∧
        s.domNeed 0 2 = some 0xFFFFFF ∧ s.stepCycles 0 + s.fld (CAM_WAKE_CFG2_A2_IDLE 0) ≤ 0xFFFFFF) ∧
    (up.boot = .running ∧ up.present 7 = true ∧ storeGet 0 up.owner 7 = 0 ∧ up.partInReset 7 = false ∧ up.vsKept 7 = false ∧
      ∀ i ∈ up.inflight, i.part = 7 → i.done = true) ∧
    (up.domState 31 ≠ 3 ∧ up.flag (PWR_DOM_HOLD_AWAKE 31) = false ∧ up.domInUse 31 = false ∧ storeGet 0 up.owner (31 / 4) = 0) ∧
    (up.flag PWR_STATUS_A3 = false ∧ up.anyLoaded = false ∧ up.ops = [] ∧ up.loads = []) ∧
    (loaded0.boot = .running ∧ loaded0.flag PWR_STATUS_A3 = false ∧ loaded0.anyLoaded = true) ∧
    ((set [(PWR_STATUS_A3, 1)]).boot = .running ∧ (set [(PWR_STATUS_A3, 1)]).flag PWR_STATUS_A3 = true) := by decide +kernel

theorem wit_RequestedResetsAreTaken :
    (up.boot = .running ∧ up.present 7 = true ∧ 35 < 36 ∧ up.fld (RCV_HEALTH_PART 7) ≠ 3 ∧
      (∀ r ∈ up.rstRun, up.rstCovers r 0 (unitId 7 0x11) 35 = false) ∧
      (∀ r ∈ (resets 0 (unitId 7 0x11) 34).rstRun, (resets 0 (unitId 7 0x11) 34).rstCovers r 0 (unitId 7 0x11) 35 = false)) ∧
    (engineIdx 9 = true ∧ (∀ r ∈ (resets 1 (unitId 7 8) 0x3F).rstRun, (resets 1 (unitId 7 8) 0x3F).rstCovers r 1 (unitId 7 9) 0x3F = false) ∧
      up.rstCount 1 (unitId 7 9) < up.fld KPR_ESC_CFG_ENG_RST_MAX) ∧
    ((∀ r ∈ (resets 1 (unitId 7 8) 0x3F).rstRun, (resets 1 (unitId 7 8) 0x3F).rstCovers r 2 (unitId 7 0x10) 0x3F = false) ∧
      up.rstCount 2 (unitId 7 0x10) < up.fld KPR_ESC_CFG_PART_RST_MAX) ∧
    ((∀ r ∈ (resets 2 (unitId 7 0x10) 0x3F).rstRun, r.kind < 3) ∧ up.rstCount 3 0 < up.fld KPR_ESC_CFG_MOD_RST_MAX) ∧
    (∀ r ∈ (resets 3 0 0x3F).rstRun, r.kind < 4) ∧
    (36 ≤ 36 ∧ (set [(HIF_PART_ID_PART_MASK, 0x7F)]).present 7 = false) := by decide +kernel

theorem wit_ResetsRunToTheirEnd :
    ((resets 0 (unitId 7 0x11) 35).rstOf 0 (unitId 7 0x11) 35 = some ⟨0, unitId 7 0x11, 35, 8, 0⟩) ∧
    ((resets 1 (unitId 7 9) 0x3F).rstOf 1 (unitId 7 (8 + 1)) 0x3F = some ⟨1, unitId 7 9, 0x3F, 8, 0⟩) ∧
    ((resets 1 (unitId 7 5) 0x3F).rstOf 1 (unitId 7 5) 0x3F = some ⟨1, unitId 7 5, 0x3F, 8, 0⟩ ∧
      ((resets 1 (unitId 7 5) 0x3F).hist (unitId 7 5)).state ≠ 1 ∧ unitDie (unitId 7 5) ≠ 0 ∧ unitIdx (unitId 7 5) < 6) ∧
    ((resets 2 (unitId 7 0x10) 0x3F).rstOf 2 (unitId 7 0x10) 0x3F = some ⟨2, unitId 7 0x10, 0x3F, 8, 0⟩) ∧
    ((down .resetting).boot = .resetting ∧
      !((({} : BootEnv).fwBad.contains 0 || storeGet false (down .resetting).aon.fwBad 0) &&
        (({} : BootEnv).fwBad.contains 1 || storeGet false (down .resetting).aon.fwBad 1))) ∧
    ((resets 4 0 0x3F).rstRun.find? (fun r => r.kind == 4) = some ⟨4, 0, 0x3F, 8, 0⟩ ∧ (resets 4 0 0x3F).pins.pwrReq = false ∧
      (resets 4 0 0x3F).boot ≠ .held ∧ (resets 4 0 0x3F).rstCount 4 0 < (resets 4 0 0x3F).fld KPR_ESC_CFG_PWR_CYCLE_MAX) ∧
    ((resets 2 (unitId 7 0x10) 0x3F).boot = .running ∧ (∀ r ∈ (resets 2 (unitId 7 0x10) 0x3F).rstRun, r.kind < 3) ∧ 0 < 1) := by decide +kernel

theorem wit_FaultsOfTheControlPathTakeResets :
    (({ up with inflight := [inFlight dMove false] } : State).unitCtxs (unitId 0 0x75) = [(0, 0)]) ∧
    (up.present 7 = true ∧ up.fld (RCV_HEALTH_PART 7) ≠ 3 ∧ up.domState (4 * 7 + 1) < 2 ∧ up.partInReset 7 = false ∧
      up.rstOf 1 (unitId 7 0x10) 0x3F = none ∧ bitAt (up.fld DBG_GSTATUS_HALTED) 7 = false ∧
      storeGet 0 up.aon.ccMiss 7 + 1 < max 1 (up.fld KPR_HB_CFG_CC_MISS) ∧ storeGet 0 up.aon.ccWait 7 = 0) ∧
    (let s : State := { up with aon := { up.aon with ccMiss := [(7, up.fld KPR_HB_CFG_CC_MISS - 1)] } };
      max 1 (s.fld KPR_HB_CFG_CC_MISS) ≤ storeGet 0 s.aon.ccMiss 7 + 1 ∧ storeGet 0 s.aon.ccWait 7 = 0) ∧
    ((resets 0 (unitId 7 0x11) 35).rstOf 0 (unitId 7 0x11) 35 = some ⟨0, unitId 7 0x11, 35, 8, 0⟩) ∧
    ((resets 1 (unitId 7 9) 0x3F).rstOf 1 (unitId 7 9) 0x3F = some ⟨1, unitId 7 9, 0x3F, 8, 0⟩) ∧
    ((resets 2 (unitId 7 0x10) 0x3F).rstOf 2 (unitId 7 0x10) 0x3F = some ⟨2, unitId 7 0x10, 0x3F, 8, 0⟩) ∧
    ((resets 3 0 0x3F).rstOf 3 0 0x3F = some ⟨3, 0, 0x3F, 8, 0⟩) ∧
    (let s : State := { up with pins := { up.pins with pwrReq := true } }; s.pins.pwrReq = true ∧ s.boot ≠ .held ∧ s.boot ≠ .off) := by
  decide +kernel

/-! A command that issues, as one decidable fact. -/

def issues (s : State) (p ctx i : Nat) (cls : Nat → Bool) : Bool :=
  s.ctxReady p ctx && !s.fetchPsn p ctx i && cls (s.descAt p ctx i) && s.reasonAt p ctx i == 0 &&
    s.isDue p ctx (s.descAt p ctx i) && (s.holdCause p ctx (s.descAt p ctx i)).isNone

theorem issues_of {s : State} {p ctx : Nat} {cls : Nat → Bool} (h : issues s p ctx (s.ctxPos p ctx) cls = true) :
    s.Issues p ctx cls := by
  simp only [issues, Bool.and_eq_true, Bool.not_eq_true', beq_iff_eq, Option.isNone_iff_eq_none] at h
  obtain ⟨⟨⟨⟨⟨a, b⟩, c⟩, d⟩, e⟩, f⟩ := h
  exact ⟨a, b, c, d, e, f⟩

theorem issues_pair_of {s : State} {p ctx : Nat} {cls : Nat → Bool} (h : issues s p ctx (s.ctxPos p ctx) cls = true)
    (h' : issues s p ctx (s.ctxPos p ctx + 1) (fun _ => true) = true) : s.IssuesPair p ctx cls := by
  have f := issues_of h
  simp only [issues, Bool.and_eq_true, Bool.not_eq_true', beq_iff_eq, Option.isNone_iff_eq_none] at h'
  obtain ⟨⟨⟨⟨⟨-, b⟩, -⟩, d⟩, e⟩, g⟩ := h'
  exact ⟨f, b, d, e, g⟩

theorem wit_ClassRowsIssue :
    (prog [dNop]).Issues 0 0 (fun d => dClass d == 0) ∧
    (prog [dMxe, dStr]).IssuesPair 0 0 (fun d => dClass d == 1 && mxMode d == 0 && !((prog [dMxe, dStr]).mxEngines 0 d).isEmpty) ∧
    (prog [dMx32, dStr]).IssuesPair 0 0 (fun d => dClass d == 1 && mxMode d == 1 && !((prog [dMx32, dStr]).mxEngines 0 d).isEmpty) ∧
    (prog [dPre]).Issues 0 0 (fun d => dClass d == 1 && dOp d 6 2 == 2) ∧
    (prog [dVxe]).Issues 0 0 (fun d => dClass d == 2 && !isStream d) ∧
    (hosts (set [(TMB_VALUE_VALUE 0 0, 1)]) [dUpd]).Issues 0 0 (fun d => dClass d == 3 && !upFactored d) ∧
    (hosts (set [(TMB_VALUE_VALUE 0 0, 1)]) [dUpf]).Issues 0 0 (fun d => dClass d == 3 && upFactored d) ∧
    (prog [dMove]).Issues 0 0 (fun d => dClass d == 4) ∧
    (prog [dSend]).Issues 0 0 (fun d => dClass d == 5) ∧
    (prog [dRs]).Issues 0 0 (fun d => dClass d == 6 && clOp d == 0) ∧
    (prog [dAg]).Issues 0 0 (fun d => dClass d == 6 && clOp d == 1) ∧
    (prog [dAr]).Issues 0 0 (fun d => dClass d == 6 && clOp d == 2) ∧
    (prog [dMd]).Issues 0 0 (fun d => dClass d == 8 && dOp d 0 1 == 0) ∧
    (prog [dMc]).Issues 0 0 (fun d => dClass d == 8 && dOp d 0 1 == 1) := by
  exact ⟨issues_of (by decide +kernel), issues_pair_of (by decide +kernel) (by decide +kernel),
    issues_pair_of (by decide +kernel) (by decide +kernel), issues_of (by decide +kernel), issues_of (by decide +kernel),
    issues_of (by decide +kernel), issues_of (by decide +kernel), issues_of (by decide +kernel), issues_of (by decide +kernel),
    issues_of (by decide +kernel), issues_of (by decide +kernel), issues_of (by decide +kernel), issues_of (by decide +kernel),
    issues_of (by decide +kernel)⟩

/-- A preload of a BF16 record in the tile store, and the module that issues it. -/
def dPreT : Nat := desc 1 [(320, 1), (326, 2), (336, 1), (416, 0x30000000)]
def preloads : State := (put (prog [dPreT]) [(MXE_CFG_PRELOAD_EN 0, 1)]).wrDatum (tsDatum 0 0) 0x101 false
/-- Its state once it issues. -/
def preloads1 : State := preloads.issuedAt 0 0 1 (preloads.effOffset 0 0 dPreT)

theorem wit_ClassRowsIssue_preload :
    preloads.Issues 0 0 (fun d => dClass d == 1 && dOp d 6 2 == 2) ∧ preloads1.flag (MXE_CFG_PRELOAD_EN 0) = true ∧
    headerUnits (preloads1.cmdNat 0 0 (mxWaddr dPreT) 0 64) = some 530 ∧
    recFmt (preloads1.cmdNat 0 0 (mxWaddr dPreT) 0 64) = mxWfmt dPreT ∧
    recBlk (preloads1.cmdNat 0 0 (mxWaddr dPreT) 0 64) = mxWblk dPreT ∧
    (List.range 530).all (fun i => decide (preloads1.locate 0 0 ((mxWaddr dPreT + i) % 2 ^ 32) = .at (tsDatum 0 i)) &&
      !preloads1.cmdPsn 0 0 (mxWaddr dPreT + i)) = true := by
  exact ⟨issues_of (by decide +kernel), by decide +kernel, by decide +kernel, by decide +kernel, by decide +kernel, by decide +kernel⟩

theorem wit_IssueMovesTheContextOn : 7 < 8 ∧ 35 < 36 ∧ isRing 31 = false ∧ up.fld (CAM_HOST_W0_STATE 7 31) ≠ 3 := by decide +kernel

theorem wit_CommandsThatDoNotIssue :
    up.ctxReady 7 35 = false ∧
    (let s := put up [(CAM_HOST_W0_STATE 0 0, 2), (CAM_HOST_W2_PROG_LEN 0 0, 1)]; s.ctxReady 0 0 = true ∧ s.fetchPsn 0 0 0 = false ∧
      s.reasonAt 0 0 0 ≠ 0) ∧
    (let s := { prog [dMove] with poison := [(0, true)] }; s.ctxReady 0 0 = true ∧ s.fetchPsn 0 0 0 = true) ∧
    ((prog [dMove]).fetchPsn 0 0 0 = false ∧ (dClass dMove == 5) = false) ∧
    (let s := put (prog [dMove + 2 ^ 43]) []; s.ctxReady 0 0 = true ∧ s.fetchPsn 0 0 0 = false ∧ s.isDue 0 0 (dMove + 2 ^ 43) = false) ∧
    (let s := prog [dUpd]; s.ctxReady 0 0 = true ∧ s.fetchPsn 0 0 0 = false ∧ s.reasonAt 0 0 0 = 0 ∧ s.isDue 0 0 dUpd = true ∧
      s.holdCause 0 0 dUpd = some (0, 0, 0, 0)) := by decide +kernel

theorem wit_CompletionBumpsTheTumblers :
    (let s : State := { up with inflight := [{ inFlight dMove true with killed := true }] };
      s.inflight.find? (fun x => x.part == 0 && x.ctx == 0 && x.idx == 0 && x.done) = some { inFlight dMove true with killed := true }) ∧
    (let d := dMove + 2 ^ 192 * (2 ^ 12 + 2 ^ 16); let s : State := { set [(CAM_HOST_W5_TWIN_BASE 0 0, 4095)] with inflight := [inFlight d true] };
      s.inflight.find? (fun x => x.part == 0 && x.ctx == 0 && x.idx == 0 && x.done) = some (inFlight d true) ∧
      isMatrix d = false ∧ sigEn (dSig d 0) = true ∧ sigEn (dSig d 1) = false ∧
      (s.tumWin 0 0).1 + sigTumbler (dSig d 0) < 4096) := by decide +kernel

theorem wit_MalformedAndLateCommands :
    (let s := put up [(CAM_HOST_W0_STATE 7 31, 2), (CAM_HOST_W2_PROG_LEN 7 31, 1)];
      s.ctxReady 7 31 = true ∧ s.reasonAt 7 31 (s.ctxPos 7 31) ≠ 0 ∧ s.psn (s.descDatum 7 31 (s.ctxPos 7 31)) = false ∧
      s.fld (CAM_HOST_W0_STATE 7 31) ≠ 3 ∧ s.fld (CAM_FAULT_CAP0_VALID 7) = 0) ∧
    (let s := put up [(CAM_RING_CTRL_ENABLE 7 3, 1), (CAM_RING_CTRL_STATE 7 3, 1), (CAM_RING_TAIL_TAIL 7 3, 1)];
      s.ctxReady 7 35 = true ∧ s.reasonAt 7 35 (s.ctxPos 7 35) ≠ 0 ∧ s.psn (s.descDatum 7 35 (s.ctxPos 7 35)) = false ∧ isRing 35 = true) ∧
    (let s : State := { put (prog [dUpd]) [(CAM_WAIT_TIMEOUT_WAIT_TIMEOUT 0, 1)] with ftime := 8000 };
      s.ctxReady 0 0 = true ∧ s.reasonAt 0 0 (s.ctxPos 0 0) = 0 ∧ s.isDue 0 0 (s.descAt 0 0 (s.ctxPos 0 0)) = true ∧
      0 < s.fld (CAM_WAIT_TIMEOUT_WAIT_TIMEOUT 0) ∧ s.fld (CAM_WAIT_TIMEOUT_WAIT_TIMEOUT 0) * s.jobMhz 0 <
        s.stepCycles 0 - s.effOffset 0 0 (s.descAt 0 0 (s.ctxPos 0 0)) ∧
      s.holdCause 0 0 (s.descAt 0 0 (s.ctxPos 0 0)) = some (0, 0, 0, 0) ∧ s.holds = []) := by decide +kernel

/-- A module one of whose writes reaches the register at `a`. -/
theorem reaches {s : State} {f a : Nat} (h : (decide (s.boot = .running) && decide (f ≤ 9) && !s.absentReg a &&
    (decide (f = 9) || s.mayReach f a true) && !s.regDown a) = true) : s.Reaches f a := by
  simp only [Bool.and_eq_true, Bool.not_eq_true', decide_eq_true_eq, Bool.or_eq_true] at h
  exact ⟨h.1.1.1.1, h.1.1.1.2, h.1.1.2, h.1.2, h.2⟩

/-- P7 hosts a shard in entry 31 whose tumbler window starts at 4032. -/
def hosting : State := set [(CAM_HOST_W0_STATE 7 31, 2), (CAM_HOST_W5_TWIN_BASE 7 31, 4032), (CAM_HOST_W5_TWIN_SIZE 7 31, 1)]

theorem wit_TumblerAndRingWrites :
    (up.Reaches 0 (TMB_VALUE 7 4095) ∧ up.tumOwner 7 4095 = none) ∧
    (hosting.Reaches 9 (TMB_VALUE 7 4095) ∧ hosting.tumOwner 7 4095 = some 31 ∧ hosting.fld (CAM_HOST_W0_STATE 7 31) = 2) ∧
    (let s := set [(CAM_RING_CTRL_ENABLE 7 3, 1), (CAM_RING_CTRL_STATE 7 3, 1)];
      s.Reaches 0 (CAM_RING_TAIL 7 3) ∧ s.flag (CAM_RING_CTRL_ENABLE 7 3) = true ∧ s.fld (CAM_RING_CTRL_STATE 7 3) = 1) ∧
    (up.Reaches 0 (CAM_RING_TAIL 7 3) ∧ up.flag (CAM_RING_CTRL_ENABLE 7 3) = false) ∧
    (let s := set [(CAM_RING_TWIN_TWIN_SIZE 7 3, 1)];
      s.Reaches 0 (CAM_RING_CTRL 7 3) ∧ s.flag (CAM_RING_CTRL_ENABLE 7 3) = false ∧ s.ringOverlap 7 3 = false) ∧
    (let s := set [(CAM_RING_TWIN_TWIN_SIZE 7 3, 0)];
      s.Reaches 0 (CAM_RING_CTRL 7 3) ∧ s.flag (CAM_RING_CTRL_ENABLE 7 3) = false ∧ s.ringOverlap 7 3 = true) := by
  refine ⟨⟨reaches ?_, ?_⟩, ⟨reaches ?_, ?_⟩, ⟨reaches ?_, ?_⟩, ⟨reaches ?_, ?_⟩, ⟨reaches ?_, ?_⟩, reaches ?_, ?_⟩ <;> decide +kernel

/-- P7 belongs to job slot 7. -/
def owned : State := { up with owner := [(7, 8)] }

theorem wit_ShadowedWritesWaitForTheHinge :
    (owned.Reaches 0 (VXE_SREG_LO 7 31) ∧ owned.jobOf 7 < 8 ∧ up.Reaches 0 (VXE_SREG_LO 7 31) ∧ up.jobOf 7 = 8) ∧
    (up.Reaches 0 (UPD_ETA 7) ∧ isFin32 (0x7F800000 % 2 ^ 32) = false ∧ isFin32 (0x7F7FFFFF % 2 ^ 32) = true ∧
      up.flag (UPD_ETA_STATUS_OPEN 7) = false) ∧
    ((set [(UPD_ETA_STATUS_OPEN 7, 1)]).Reaches 0 (UPD_ETA 7) ∧ (set [(UPD_ETA_STATUS_OPEN 7, 1)]).flag (UPD_ETA_STATUS_OPEN 7) = true) ∧
    (up.Reaches 9 (FLW_DEST 0 0) ∧ shadowBank (FLW_DEST 0 0) = true ∧ FLW_DEST 0 0 % 4 = 0 ∧
      up.flag FAB_TBL_CTRL_COPY_BUSY = false ∧ up.bankHeld (FLW_DEST 0 0) = false) ∧
    ((set [(FAB_TBL_CTRL_COPY_BUSY, 1)]).Reaches 9 (FLW_DEST 0 0) ∧ (set [(FAB_TBL_CTRL_COPY_BUSY, 1)]).flag FAB_TBL_CTRL_COPY_BUSY = true) ∧
    (up.Reaches 0 FAB_TBL_CTRL ∧ up.Reaches 0 (HSP_J_MTBF 7) ∧ up.run 7 = none ∧ up.Reaches 0 (FAB_LANE_READMIT 5) ∧ up.Reaches 0 KPR_ERR_HEAD) ∧
    (let s : State := { set [(UPD_ETA_TIMEOUT_TIMEOUT 7, 1), (UPD_ETA_STATUS_OPEN 7, 1)] with ftime := 4000 };
      0 < s.fld (UPD_ETA_TIMEOUT_TIMEOUT 7) ∧ s.flag (UPD_ETA_STATUS_OPEN 7) = true ∧
      s.issueBase 7 + 4000 * s.fld (UPD_ETA_TIMEOUT_TIMEOUT 7) ≤ s.ftime ∧ storeGet false s.etaMissed 7 = false) := by
  refine ⟨⟨reaches ?_, ?_, reaches ?_, ?_⟩, ⟨reaches ?_, ?_, ?_, ?_⟩, ⟨reaches ?_, ?_⟩, ⟨reaches ?_, ?_, ?_, ?_, ?_⟩, ⟨reaches ?_, ?_⟩,
    ⟨reaches ?_, reaches ?_, ?_, reaches ?_, reaches ?_⟩, ?_⟩ <;> decide +kernel

theorem wit_HistoryRecordReadsBack : 7 < 8 ∧ 0xFFFFFFFF < 2 ^ 32 ∧ up.parityBad = [] ∧ up.deadChan = [] := by decide +kernel

theorem inv_of {s : State} (h : Memory.wf s.mem ∧ storeWf false s.poison ∧ storeRising s.regs ∧ s.ftime < 2 ^ 64 ∧
    (∀ c ∈ s.cnt, c.2 < 2 ^ 48) ∧ storeRising s.vx ∧ storeRising s.vxPsn) : s.Inv :=
  ⟨h.1, h.2.1, h.2.2.1, h.2.2.2.1, h.2.2.2.2.1, h.2.2.2.2.2.1, h.2.2.2.2.2.2⟩

theorem wit_StepKeepsTheInvariant : up.Inv := inv_of (by decide +kernel)

/-- A group of one tile at (0, 1) on vector engine 1 of P7, and the module that runs it. -/
def grp : VxEng := ⟨0, 0, dStr, 0, [(0, false), (0, false), (0, false), (0, false)], 2, [(0, 1)], true⟩
def vxUp : State := { up with vxEng := [(15, some grp)] }

theorem wit_ElementwiseOperations :
    vxUp.Inv ∧ storeGet none vxUp.vxEng (2 * 7 + 1) = some grp ∧ grp.filled 0 = true ∧ grp.filled 1 = false ∧
    (∀ x ∈ [0x00, 0x01, 0x02, 0x03, 0x04, 0x05, 0x06, 0x07, 0x08, 0x09, 0x10, 0x11, 0x12, 0x13, 0x14, 0x15, 0x16, 0x17, 0x18, 0x19],
      vopBad (vopWord x 0) = false ∧ bitAt (vopWord x 0) 7 = false ∧ bitAt (vopWord x 0) 8 = false ∧
      (let w := 0x300 + (if vxUsesB x then 0x30000 else 0) + (if vxUsesC x then 0x300000 else 0);
        vopBad (vopWord x w) = false ∧ bitAt (vopWord x w) 8 = true)) := by
  exact ⟨inv_of (by decide +kernel), by decide +kernel, by decide +kernel, by decide +kernel, by decide +kernel⟩

theorem wit_MaskConvertAndAll :
    vxUp.Inv ∧ storeGet none vxUp.vxEng (2 * 7 + 1) = some grp ∧ grp.filled (bits (vopWord 0x0A 0x30000) 10 2) = true ∧
    vopBad (vopWord 0x0A 0x30000) = false ∧ bitAt (vopWord 0x0A 0x30000) 7 = false ∧
    vopBad (vopWord 0x0B 0x02000000) = false ∧ ocBlk (bits (vopWord 0x0B 0x02000000) 24 8) = false ∧
    vopBad (vopWord 0x0B 0x83000000) = false ∧ ocBlk (bits (vopWord 0x0B 0x83000000) 24 8) = true ∧
    bitAt (vopWord 0x0B 0x83000000) 7 = false ∧ bitAt (vopWord 0x0B 0x83000000) 8 = false ∧
    vopBad (vopWord 0x0B 0x83000300) = false ∧ bitAt (vopWord 0x0B 0x83000300) 8 = true ∧ grp.pos.length ≤ 4 ∧
    (∀ x ∈ [0x00, 0x01, 0x02, 0x03, 0x04, 0x05, 0x06, 0x07, 0x08, 0x09, 0x0A, 0x0B, 0x10, 0x11, 0x12, 0x13, 0x14, 0x15, 0x16, 0x17,
        0x18, 0x19], (let w := 0x80 + (if x = 0x0A then 0x30000 else 0) + (if x = 0x0B then 0x02000000 else 0);
          vopBad (vopWord x w) = false ∧ bitAt (vopWord x w) 7 = true)) := by
  refine ⟨inv_of ?_, ?_⟩ <;> decide +kernel

theorem wit_Reductions :
    vxUp.Inv ∧ storeGet none vxUp.vxEng (2 * 7 + 1) = some grp ∧ 0 < grp.pos.length ∧
    (∀ x ∈ [0x20, 0x21, 0x22, 0x23], vopBad (vopWord x 0x100) = false ∧ vopBad (vopWord x 0x1000180) = false) ∧
    (∀ x ∈ [0x24, 0x25], vopBad (vopWord x 0x300) = false ∧ vopBad (vopWord x 0x1000300) = false) := by
  refine ⟨inv_of ?_, ?_⟩ <;> decide +kernel

/-- The same group with its vector operands in the tile store. -/
def grpTs : VxEng := { grp with desc := desc 2 [(52, 0xFFF), (44, 1), (320, 1), (322, 1), (416, 0x30000000), (448, 0x30000000)] }
def vxTs : State := { up with vxEng := [(15, some grpTs)] }

theorem wit_VectorsMoveToMemoryAndScalars :
    vxTs.Inv ∧ storeGet none vxTs.vxEng (2 * 7 + 1) = some grpTs ∧ vopBad (vopWord 0x30 0xFF000100) = false ∧
    (let a := dOp grpTs.desc 96 32 + 8 * (bits (vopWord 0x30 0xFF000100) 24 7 + 0);
      ∀ u < 8, vxTs.locate 7 0 ((a + u) % 2 ^ 32) = .at (tsDatum 7 (8 * 127 + u)) ∧ vxTs.cmdPsn 7 0 (a + u) = false) ∧
    vopBad (vopWord 0x31 0x7F000200) = false ∧
    (let a := dOp grpTs.desc 128 32 + 8 * (bits (vopWord 0x31 0x7F000200) 24 7 + 1);
      ∀ u < 8, vxTs.locate 7 0 ((a + u) % 2 ^ 32) = .at (tsDatum 7 (8 * 128 + u))) ∧
    vopBad (vopWord 0x32 0x1F000200) = false ∧
    storeGet none up.vxEng (2 * 7 + 1) = none ∧ vopBad (vopWord 0x32 0x20000200) = true := by
  refine ⟨inv_of ?_, ?_⟩ <;> decide +kernel

/-- A tile, a vector command that has it or waits for it, and the module with that command in stage 4. -/
def tile0 : Tile := ⟨0, 0, List.replicate 16384 0, List.replicate 1024 false⟩
def cmd0 (t : Option Tile) : VxCmd := ⟨0, 0, 0, dStr, 0, [], [], [t], 0, false, false, false⟩
def stage4 (t : Option Tile) : State := { up with vxCmds := [cmd0 t] }

theorem wit_VectorGroupsRun :
    ((stage4 (some tile0)).vxCmds.find? (fun v => v.part == 0)).isSome = true ∧ ((cmd0 (some tile0)).group).isSome = true ∧
    (stage4 (some tile0)).vxEngines 0 dStr = [0] ∧
    (stage4 none).vxCmds.find? (fun v => v.part == 0) = some (cmd0 none) ∧ (cmd0 none).group = none ∧
    up.vxCmds.find? (fun v => v.part == 0) = none ∧
    ([tile0].length ≤ 4 ∧ tile0.data.length = 16384 ∧ tile0.psn.length = 1024) ∧
    ((cmd0 none).next = 0 ∧ ({ cmd0 none with next := 1 }).next ≠ 0 ∧ dOp dStr 0 2 ≠ 3) := by decide +kernel

/-- A tile held on an engine of P0 for the two-key check, of miss kind `k`. -/
def held0 (eng k : Nat) (same other : Option KeyRun) (sib : Option Nat) : HeldTile :=
  ⟨0, eng, 0, 0, if eng = 6 then dUpd else dMxe, 0, 0, 0, 0, 0, 0, k, sib, [], [], [], [], [], false, same, other⟩
def holding (h : HeldTile) : State := { up with held := [h] }

theorem wit_TwoKeyCheckSettlesAMiss :
    up.heldOn 7 5 = none ∧
    (∀ e ∈ [5, 6], (holding (held0 e 0 none none none)).heldOn 0 e = some (held0 e 0 none none none) ∧
      (holding (held0 e 0 none none none)).runsRepeat 0 e = false) ∧
    ((holding (held0 5 0 (some ⟨[], true⟩) none (some 4))).heldOn 0 5 = some (held0 5 0 (some ⟨[], true⟩) none (some 4))) ∧
    ((⟨[], false⟩ : KeyRun).miss = false ∧ (⟨[], true⟩ : KeyRun).miss = true) ∧
    (∀ e ∈ [5, 6], (holding (held0 e 0 (some ⟨[], true⟩) none none)).heldOn 0 e = some (held0 e 0 (some ⟨[], true⟩) none none) ∧
      up.fld (UPD_TWOKEY_CAP0_VALID 0) = 0 ∧ up.fld (MXE_TWOKEY_CAP0_VALID 0) = 0) ∧
    ((holding (held0 6 3 none none none)).held.find? (fun h => h.part == 0 && h.eng == 6 && h.missKind == 3) =
      some (held0 6 3 none none none)) ∧
    (∀ h ∈ (holding (held0 6 0 none none none)).held, h.part = 0 → h.eng = 6 → h.missKind ≠ 3) := by decide +kernel

/-- A collective of P0 after its first stage. -/
def coll0 (d stage : Nat) : Coll := ⟨3, 0, 0, 0, d, 0, 0, [0, 1], stage, false⟩
def colls0 (k : Coll) : State := { set [(CAM_HOST_W5_TWIN_SIZE 0 0, 1)] with colls := [k] }

theorem wit_CollectiveStagesFollow :
    (∀ k ∈ up.colls, k.place ≠ 7) ∧
    (let s := colls0 (coll0 dAr 0); s.colls.find? (fun k => k.place == 3) = some (coll0 dAr 0) ∧
      s.stepCount 0 ((s.tumWin 0 0).1 + clRtumb dAr) < colTarget dAr 2 1) ∧
    (let s := put (colls0 (coll0 dAr 0)) [(TMB_VALUE_VALUE 0 1, colTarget dAr 2 1)];
      s.colls.find? (fun k => k.place == 3) = some (coll0 dAr 0) ∧
      colTarget dAr 2 1 ≤ s.stepCount 0 ((s.tumWin 0 0).1 + clRtumb dAr)) ∧
    (0 < colStages dAr 2 ∧ colStages dAr 2 ≤ colStages dAr 2) ∧ (colls0 (coll0 dAr 0)).hasPackets (0, 0, 0) = false := by decide +kernel

/-- What a module keeps of a job slot in step 3 of a job. -/
def run0 : JobRun where
  step := 3
  first := false
  arrived := false
  arriveAt := 0
  earliest := 0
  sent := false
  notices := []
  holds := []
  holdOwn := false
  reported := false
  relT := 0
  ack := true
  setHere := false
  chunks := []
  early := false
  faults := 0
  faultAt := 0
  lastSet := 0
  lastSetT := 0
  prevT := 0
  gaps := []
  failures := []
  failAt := 0
  shape := 0
  dorounte := false
  groups := []
  own := 0
  h := 1
  up := none
  upTry := 0
  kidsLost := []
  kidsAdopted := []
  img := none
  flowImg := 0
  stretch := []
  cut := none
  genUp := false
  earlyCont := []

/-- A running module whose job slot 7 owns P7 and stands as `r`; registers of `l` set. -/
def job (r : JobRun) (l : List (Fld × Nat)) : State := { set l with owner := [(7, 8)], jobs := [(7, some r)] }

theorem wit_StepsEndAndModulesArrive :
    (prog []).Issues 0 0 (fun d => dClass d == 7) ∧ up.ctxReady 0 0 = false ∧
    (hosting.fld (CAM_HOST_W0_STATE 7 31) ≠ 3 ∧ (hosting.tumWin 7 31).1 + (hosting.tumWin 7 31).2 = 4096 ∧
      sigEn (dSig (desc 7 []) 0) = false ∧ sigEn (dSig (desc 7 []) 1) = false) ∧
    ((job run0 []).run 7 = some run0 ∧ (job run0 []).flag RCV_FENCE_FENCED = false ∧ run0.cut = none ∧
      (job run0 []).fld (RCV_J_STATUS_PHASE 7) = 0 ∧ (∀ p ∈ (job run0 []).slotParts 7, (job run0 []).fld (CAM_HINGE_STATUS_PHASE p) = 0) ∧
      (job run0 []).allArrived 7 run0 = true) ∧
    (job run0 [(CAM_HOST_W0_STATE 7 31, 5)]).allArrived 7 run0 = false ∧
    ({ run0 with arrived := true }).arrived = true ∧ up.run 7 = none ∧ (set [(RCV_FENCE_FENCED, 1)]).flag RCV_FENCE_FENCED = true ∧
    ((job { run0 with sent := true } []).run 7 = some { run0 with sent := true }) ∧
    ((job run0 [(HSP_J_STATUS_SET_OPEN 7, 1)]).flag (HSP_J_STATUS_SET_OPEN 7) = true) ∧ ({ run0 with holds := [9] }).holds ≠ [] ∧
    3 ≤ (job run0 [(RCV_J_STATUS_PHASE 7, 3)]).fld (RCV_J_STATUS_PHASE 7) ∧
    ((job { run0 with kidsAdopted := [9] } []).jobKids 7 = [9] ∧ ∀ n ∈ run0.notices, n.src ≠ 9) ∧
    (let r := { run0 with arrived := true, setHere := true };
      (job r [(HSP_J_STATUS_SET_OPEN 7, 1)]).run 7 = some r ∧ r.phase1Open = false ∧ r.sent = false ∧
      (job r [(HSP_J_STATUS_SET_OPEN 7, 1)]).flag (HSP_J_STATUS_SET_OPEN 7) = true) :=
  ⟨issues_of (by decide +kernel), by decide +kernel⟩

/-- A control message of job slot 7 about step 3, or another step. -/
def note (step : Nat) : List Nat := [1, 7, 0, 0] ++ leBytes 4 step ++ List.replicate 24 0

theorem wit_TheHingeBarrier :
    (mByte (note 3) 1 % 8 = 7 ∧ (job run0 []).boot = .running ∧ (job run0 []).isDead 7 9 = false ∧ mField (note 3) 4 4 = run0.step ∧
      mField (note 4) 4 4 ≠ run0.step ∧ run0.arrived = false ∧
      (let r := { run0 with arrived := true, up := some 9 }; (job r []).run 7 = some r ∧ (job r []).jobUp 7 = some 9)) ∧
    ((job run0 [(CAM_HOST_W0_STATE 7 31, 2)]).jobOf 7 = 7 ∧ (job run0 [(CAM_HOST_W0_STATE 7 31, 2)]).fld (CAM_HOST_W0_STATE 7 31) = 2) ∧
    (let r := { run0 with relT := 1 }; let s := job r [(CAM_HINGE_STATUS_PHASE 7, 2)];
      s.run 7 = some r ∧ r.relT ≠ 0 ∧ r.arrived = false ∧ r.relT ≤ s.ftime + 1 ∧ r.cut = none ∧ s.slotParts 7 = [7] ∧
      (∀ p ∈ s.slotParts 7, s.fld (CAM_HINGE_STATUS_PHASE p) = 2) ∧ r.first = false ∧ ∀ p ∈ s.slotParts 7, s.flag (TRC_CFG_EN p) = false) ∧
    (let r := { run0 with arrived := true }; let s : State := { job r [] with ftime := 2 ^ 60 };
      s.run 7 = some r ∧ r.reported = false ∧ r.holds = [] ∧ r.holdOwn = false ∧ s.fld (RCV_J_STATUS_PHASE 7) = 0 ∧ s.slotParts 7 ≠ [] ∧
      r.arriveAt + (s.fld (CAM_HINGE_CFG_MARGIN ((s.slotParts 7).headD 0)) * 1024 +
        max 1 (s.fld (CAM_HINGE_CFG_TIMEOUT ((s.slotParts 7).headD 0))) * 4000000) < s.ftime) ∧
    (400 ≤ 400 ∧ 400 ≤ 1600) := by decide +kernel

/-- A running module whose port 23 is in state `st`, with link `l` and the registers of `r` set. -/
def port23 (st : Nat) (l : Link) (r : List (Fld × Nat)) : State :=
  { set ([(FAB_PORT_STATUS_STATE 23, st), (FAB_GROUP_CFG_MODE 5, 2), (FAB_GROUP_CFG_EN 5, 1)] ++ r) with links := [(23, some l)] }
/-- A TRAIN unit of a partner: least and greatest version, plane, lanes. -/
def trainU (lo hi plane lanes : Nat) : Nat := 5 + lo * 2 ^ 8 + hi * 2 ^ 12 + plane * 2 ^ 40 + lanes * 2 ^ 48 + 2 ^ 64

theorem wit_PortsTrainAndFall :
    up.canTrain 23 = false ∧ (port23 1 linkInit []).canTrain 23 = true ∧
    (∃ s : State, (s.link 23).since + 3800000000 ≤ s.ftime) ∧ up.ftime < (up.link 23).since + 3800000000 ∧
    ((port23 4 linkInit []).fld (FAB_PORT_STATUS_STATE 23) = 4 ∧ ((port23 4 linkInit []).link 23).holdUntil ≤ (port23 4 linkInit []).ftime) ∧
    (up.fld (FAB_PORT_STATUS_STATE 23) ≠ 2 ∧ (port23 2 linkInit []).fld (FAB_PORT_STATUS_STATE 23) = 2) ∧
    linkVersion (bits (trainU 1 2 5 0) 8 4) (bits (trainU 1 2 5 0) 12 4) = 0 ∧
    (linkVersion (bits (trainU 3 4 4 0xF000) 8 4) (bits (trainU 3 4 4 0xF000) 12 4) ≠ 0 ∧ bits (trainU 3 4 4 0xF000) 40 3 ≠ 23 / 4) ∧
    (let u := trainU 3 4 5 0x8000; let s := port23 2 { linkInit with kept := 0xF000 } [];
      linkVersion (bits u 8 4) (bits u 12 4) = 4 ∧ bits u 40 3 = 23 / 4 ∧
      popCount (maskLess ((s.link 23).kept &&& bits u 48 16 &&& s.portLanes 23) (s.fld (FAB_LANE_RETIRED_RETIRED (23 / 4)))) < s.leastWidth 23) ∧
    (let u := trainU 3 4 5 0xF000; let s := port23 2 { linkInit with kept := 0xF000 } [];
      s.leastWidth 23 ≤ popCount (maskLess ((s.link 23).kept &&& bits u 48 16 &&& s.portLanes 23) (s.fld (FAB_LANE_RETIRED_RETIRED (23 / 4)))) ∧
      s.gid = 0) ∧
    (let s : State := { port23 2 linkInit [] with ftime := 240000000 }; (s.link 23).since + 240000000 ≤ s.ftime) ∧
    (port23 3 linkInit []).fld (FAB_PORT_STATUS_STATE 23) = 3 ∧
    (let s : State := { port23 3 linkInit [] with ftime := 2 ^ 60 };
      s.portUp 23 = true ∧ (s.link 23).since + s.fld FAB_DAMP_CFG1_DAMP_QUIET * 4000000000 ≤ s.ftime) ∧
    storeGet 0 up.flowHold 16383 ≤ up.ftime := by
  refine ⟨?_, ?_, ⟨{ up with ftime := 3800000000 }, ?_⟩, ?_⟩ <;> decide +kernel

/-- Port 23 in UP with its four lanes kept, L95 among them. -/
def lanes4 (l : Link) (r : List (Fld × Nat)) : State :=
  port23 3 { l with kept := 0xF000 } ([(FAB_PORT_STATUS_VER 23, 4), (FAB_LANE_ACTIVE_ACTIVE 5, 0xF000)] ++ r)

theorem wit_LanesLeaveAndRejoin :
    (let s := lanes4 { linkInit with ue := List.replicate 16 (15, 0) } [(FAB_LINK_CFG_LANE_UE_LIMIT, 15)]; let l := s.link 23;
      s.lanePort 95 = 23 ∧ s.portUp 23 = true ∧ s.fld (FAB_PORT_STATUS_VER 23) ≠ 3 ∧ bitAt (s.fld (FAB_LANE_ACTIVE_ACTIVE (95 / 16))) (95 % 16) = true ∧
      s.leastWidth 23 ≤ popCount ({ l with out := l.out ||| 2 ^ (95 % 16) }).lanes ∧
      s.fld FAB_LINK_CFG_LANE_UE_LIMIT < (l.ue.filter (fun e => e.1 == 95 % 16 && decide (s.ftime < e.2 + 4000000000))).length) ∧
    up.portUp (up.lanePort 95) = false ∧
    (let s := lanes4 { linkInit with out := 0x8000 } []; let l := s.link 23;
      s.portUp 23 = true ∧ bitAt l.out (95 % 16) = true ∧ bitAt l.wait (95 % 16) = false ∧
      bitAt (s.fld (FAB_LANE_RETIRED_RETIRED (95 / 16))) (95 % 16) = false) ∧
    bitAt ((lanes4 linkInit [(FAB_LANE_RETIRED_RETIRED 5, 0x8000)]).fld (FAB_LANE_RETIRED_RETIRED (95 / 16))) (95 % 16) = true ∧
    (let s := lanes4 linkInit []; let l : Link := { s.link 23 with peerOut := 0x8000 &&& s.portLanes 23 };
      s.portUp 23 = true ∧ s.fld (FAB_PORT_STATUS_VER 23) ≠ 3 ∧ s.leastWidth 23 ≤ popCount l.lanes) := by decide +kernel

/-- Port 23 in UP, its partner having advertised 100 units on each channel. -/
def linkUp : Link := { linkInit with limit := [100, 100, 100, 100], kept := 0xF000 }
/-- A packet of a class from this module (5) to another (9), and it in the queue. -/
def pkt0 (cls dst : Nat) : Pkt :=
  ⟨Hdr.enc ⟨4, cls, 0, dst, 5, 100, 0, 0, 1, if cls < 2 then 1 else 0, 0, 0, 0, if cls < 2 then 64 else 32, 0, 0, 0, 0⟩,
    List.replicate (if cls < 2 then 64 else 32) 1⟩
def queued (cls sends : Nat) (flow port : Option Nat) : TxPkt := ⟨pkt0 cls 9, flow, port, 0, 1023, sends, none⟩
/-- Port 23 in UP with a route to module 9 and the packets `l` waiting. -/
def wire (l : List TxPkt) (r : List (Fld × Nat)) : State :=
  { lanes4 linkUp ([(FAB_GID_GID, 5), (⟨act (FLW_DEST 5 9), 0, 32⟩, 3 + 3 * 4 + 9 * 2 ^ 8), (FAB_PORT_STATUS_WIDTH 23, 4)] ++ r) with txq := l }

theorem wit_CodewordsAreAcknowledgedAndRetried :
    (let l := ((wire [] []).link 23); (wire [] []).fld (FAB_PORT_STATUS_STATE 23) = 3 ∧ 1024 % 1024 = l.rxSeq ∧
      1023 % 1024 ≠ l.rxSeq ∧ l.rxSeq < 1024 ∧ (l.rxSeq + 1024 - 1023 % 1024) % 1024 ≤ 512 ∧ (l.rxSeq + 1024 - 512 % 1024) % 1024 ≤ 512 ∧
      512 < (l.rxSeq + 1024 - 511 % 1024) % 1024 ∧ 512 < (l.rxSeq + 1024 - 1 % 1024) % 1024) ∧
    (up.fld (FAB_PORT_STATUS_STATE 23) ≠ 2 ∧ up.fld (FAB_PORT_STATUS_STATE 23) ≠ 3) ∧
    (let s := wire [queued 5 1 none (some 23)] []; s.portUp 23 = true ∧
      ∀ x ∈ s.txq, x.port = some 23 ∧ (x.codeword + 1024 - 1023) % 1024 < 512 ∧ x.sends < max 1 (s.fld FAB_LINK_CFG_RETRY_LIMIT)) ∧
    (let s := wire [queued 5 16 none (some 23)] [(FAB_LINK_CFG_RETRY_LIMIT, 16)];
      ∃ x ∈ s.txq, x.port = some 23 ∧ (x.codeword + 1024 - 1023) % 1024 < 512 ∧ max 1 (s.fld FAB_LINK_CFG_RETRY_LIMIT) ≤ x.sends) ∧
    up.portUp 23 = false := by decide +kernel

theorem wit_SlotsTransmissionAndTime :
    (let s := wire [queued 5 0 none none] [];
      s.portUp 23 = true ∧ (s.txq.filter (fun x => x.port == some 23)).length < s.replayCap 23 ∧
      s.choose 23 = some (queued 5 0 none none, 0, 0)) ∧
    (up.portUp 23 = false ∧ (wire [] []).choose 23 = none) ∧
    (let t1 := 0; let s : State := { wire [] [] with ftime := 40001 };
      40000 < (stampDiff s.ftime t1 - stampDiff 0 0) ∧ (stampDiff 80001 0 - stampDiff 0 0) / 2 ≤ 40000 ∧
      40000 < (stampDiff 80002 0 - stampDiff 0 0) / 2) ∧
    (let s : State := { wire [] [(FAB_TIME_STATUS_SOURCE, 23), (FAB_TIME_CFG1_STEP_LIMIT, 1)] with ftime := 100 };
      (s.timeAdvert 23 0).fld FAB_TIME_STATUS_SOURCE = 23 ∧ s.anyLoaded = false ∧
      s.fld FAB_TIME_CFG1_STEP_LIMIT * 4 ≤ ((stampDiff 60 0 + stampDiff 60 s.ftime) / 2).natAbs ∧
      ((stampDiff 53 0 + stampDiff 53 s.ftime) / 2).natAbs < s.fld FAB_TIME_CFG1_STEP_LIMIT * 4) ∧
    up.gapOpen 16383 = false ∧
    (let s := set [(fcKind 16383, 2), (⟨FLW_CTX 16383 + 64, 0, 32⟩, 2)]; s.gapOpen 16383 = true ∧ s.gapInReplay 16383 = false) := by
  decide +kernel

theorem wit_HeaderLayout : Hdr.dec (Hdr.enc ⟨15, 7, 1, 0xFFFFF, 0xFFFFF, 0x3FFF, 0xFFFF, 0xFFFFFF, 0xFFF, 15, 0xFFFF, 0xFFFF, 0xFF, 0x3FF,
    15, 0xFFFFFF, 0xFFFFFFFF, 15⟩) = ⟨15, 7, 1, 0xFFFFF, 0xFFFFF, 0x3FFF, 0xFFFF, 0xFFFFFF, 0xFFF, 15, 0xFFFF, 0xFFFF, 0xFF, 0x3FF,
    15, 0xFFFFFF, 0xFFFFFFFF, 15⟩ := by decide +kernel

/-- A bulk data header from module 9 to this one (5) on receive context 100, of a generation. -/
def hdr0 (gen : Nat) : Hdr := ⟨4, 1, 0, 5, 9, 100, gen, 0, 1, 1, 0, 0, 1, 64, 0, 7, 0, 0⟩
/-- Module 5 with receive context 100 of class 1 open. -/
def recv (r : List (Fld × Nat)) : State := set ([(FAB_GID_GID, 5), (fcKind 100, 2), (fcClass 100, 1)] ++ r)

theorem wit_ReceiveChecks :
    ((down .off).boot ≠ .running ∧ up.intq = [] ∧ ({ up with intq := [queued 5 0 none none] } : State).intq = [queued 5 0 none none] ∧
      (wire [] []).portUp 23 = true ∧ up.portUp 23 = false) ∧
    (up.gid = 0 ∧ (Hdr.dec (pkt0 1 9).hdr).cls ≠ 5 ∧ (recv []).gid ≠ 0 ∧ (Hdr.dec (pkt0 1 9).hdr).dst ≠ (recv []).gid) ∧
    (let p : Pkt := ⟨(pkt0 1 5).hdr + 2 ^ 62, []⟩; (Hdr.dec p.hdr).dst = (recv []).gid ∧ (Hdr.dec p.hdr).ok p.hdr = false) ∧
    ((Hdr.dec (pkt0 1 5).hdr).dst = (recv []).gid ∧ (Hdr.dec (pkt0 1 5).hdr).ok (pkt0 1 5).hdr = true ∧ (recv []).fld FAB_RX_CAP0_VALID = 0 ∧
      (Hdr.dec (pkt0 1 5).hdr).cls ≠ 2 ∧ (Hdr.dec (pkt0 1 5).hdr).cls ≠ 5) ∧
    ((up.fld (fcKind 100) ≠ 2) ∧ (recv []).fld (fcClass 100) ≠ (Hdr.dec (pkt0 0 5).hdr).cls) ∧
    (let s := recv [(RCV_FENCE_FENCED, 1)]; storeGet false s.tblBad (FLW_CTX 100) = false ∧ s.fld (fcKind 100) = 2 ∧
      s.fld (fcClass 100) = (hdr0 0).cls ∧ s.flag (fcV3 100) = ((hdr0 0).ver == 3) ∧ s.flag RCV_FENCE_FENCED = true) ∧
    (let s := recv []; s.flag RCV_FENCE_FENCED = false ∧ s.isDead (s.fld (fcJob 100)) 9 = false ∧
      (hdr0 0xFFFF).gen ≠ s.fld (FAB_JOB_GEN_GEN 0) ∧ genNewer (hdr0 0xFFFF).gen 0 = false ∧ genNewer (hdr0 1).gen 0 = true ∧
      genNewer 0x8000 0 = true ∧ genNewer 0x8001 0 = false) ∧
    ((recv []).fcWindow 100 = 0 ∧ 511 < 512 ∧ (recv []).fld (fcSeq 100) < 2 ^ (recv []).fcSeqBits 100) := by decide +kernel

/-- The rekey entry of logical shard 7 of job slot 0: here, partition 0, entry 0, with a receive region of 8 units. -/
def rekeyed : State :=
  hosts (recv [(⟨act (FLW_REKEY 0 7), 0, 32⟩, 7 + 5 * 2 ^ 24), (⟨act (FLW_REKEY 0 7) + 4, 0, 32⟩, 2 ^ 21), (CAM_HOST_W10_RCV_BASE 0 0, 1024), (CAM_HOST_W11_RCV_LEN 0 0, 8),
    (MEM_REGION_BASE_BASE 0 0, 0), (MEM_REGION_LEN_LEN 0 0, 4096), (MEM_REGION_KIND_KIND 0 0, 2)]) []

theorem wit_DeliveredDataLandsBeforeItsBump :
    (rekeyed.rekey (rekeyed.fld (fcJob (hdr0 0).flow)) (hdr0 0).lsid = some (7 + 5 * 2 ^ 24 + 2 ^ 53) ∧ rkPart (7 + 5 * 2 ^ 24 + 2 ^ 53) = 0 ∧ rkEntry (7 + 5 * 2 ^ 24 + 2 ^ 53) = 0) ∧
    ((hdr0 0).len = 64 * 1 ∧ (List.replicate 64 1).length = 64 * 1 ∧ (rekeyed.tumWin 0 0).1 + (hdr0 0).tumbler < 4096) ∧
    (7 + 1 ≤ rekeyed.fld (CAM_HOST_W11_RCV_LEN 0 0) ∧ rekeyed.fld (CAM_HOST_W11_RCV_LEN 0 0) < 8 + 1 ∧ 63 < (rekeyed.tumWin 0 0).2 ∧
      (rekeyed.tumWin 0 0).2 ≤ 64) ∧
    (rekeyed.stepCount 0 ((rekeyed.tumWin 0 0).1 + 63) + (hdr0 0).inc < 2 ^ 31 ∧
      rekeyed.locate 0 0 ((0x50000000 + 7 + 0) % 2 ^ 32) = .at 1031) := by decide +kernel

theorem wit_ControlMessagesReachTheirHandlers :
    ((down .off).boot ≠ .running ∧ mByte (note 3) 1 % 8 = 7 ∧ up.isDead 7 9 = false ∧
      (set [(RCV_J_DEAD_VALID 7 15, 1), (RCV_J_DEAD_GID 7 15, 9)]).isDead 7 9 = true) ∧
    (let s : State := { up with deadSent := [(9, 1)], ftime := 39999999 }; storeGet 0 s.deadSent 9 ≠ 0 ∧
      s.ftime + 1 < storeGet 0 s.deadSent 9 + 40000000) ∧
    (let s : State := { up with deadSent := [(9, 1)], ftime := 40000000 }; storeGet 0 s.deadSent 9 + 40000000 ≤ s.ftime + 1) ∧
    storeGet 0 up.deadSent 9 = 0 ∧ up.flag RCV_FENCE_FENCED = false ∧ 9 ≠ up.gid := by decide +kernel

/-- An open broadcast at a node below module 9, of one chunk of 512 bytes, none held. -/
def bc0 : Bcast where
  place := 7
  fn := 0
  handle := 5
  job := 7
  root := false
  fan := 2
  index := 1
  rel := [(0, 9), (1, 8)]
  len := 1
  dest := 0
  flow := 100
  up := 0
  upTry := 0
  beat := 0
  below := 0
  kids := []
  expects := []
  held := 0
  got := []
  sums := []
  asked := []
  lost := 0
  unacc := 0
def kid0 : BKid := ⟨11, 101, false, 0, none, 0⟩
/-- A module with that broadcast open as `b`. -/
def bcasting (b : Bcast) : State := { up with bcasts := [b] }
/-- A message about it, of chunk 0. -/
def bnote : List Nat := [0x10, 7, 0, 0, 5, 0, 0, 0, 0, 0, 0, 0]

theorem wit_BroadcastsCopyThroughTheTree :
    (mField bnote 4 4 ≠ 0 ∧ up.bcastOf (mByte bnote 1) (mField bnote 4 4) = none) ∧
    ((bcasting bc0).bcastOf (mByte bnote 1) (mField bnote 4 4) = some bc0 ∧ bc0.parent = some 9 ∧ mField bnote 8 4 < bc0.total ∧
      bitAt bc0.held (mField bnote 8 4) = false ∧ bc0.parent ≠ some 11 ∧
      ({ bc0 with kids := [kid0] }).kids.find? (fun k => k.gid == 11) = some kid0) ∧
    (bc0.finished = false ∧ ({ bc0 with held := 1 }).finished = true ∧ ({ bc0 with held := 1 }).parent = some 9 ∧
      ({ bc0 with held := 1, root := true }).finished = true ∧ ({ bc0 with held := 1, root := true }).parent = none) ∧
    (bc0.place < 8 ∧ bc0.kids.length < 256) ∧
    (let b := { bc0 with sums := [(0, some (1, crc32c [0]))], got := [(0, 1)] };
      storeGet none b.sums 0 = some (1, crc32c [0]) ∧ storeGet 0 b.got 0 = 2 ^ b.chunkPkts 0 - 1 ∧ 1 = b.chunkLen 0 ∧
      crc32c ((bcasting b).hbmGet (b.dest + 1048576 * 0) 1) = crc32c [0]) ∧
    (let b := { bc0 with sums := [(0, some (1, 0))], got := [(0, 1)] };
      storeGet 0 b.got 0 = 2 ^ b.chunkPkts 0 - 1 ∧ crc32c ((bcasting b).hbmGet (b.dest + 1048576 * 0) 1) ≠ 0) ∧
    storeGet 0 bc0.got 0 ≠ 2 ^ bc0.chunkPkts 0 - 1 ∧ up.bcastOf 7 5 = none ∧
    (let s : State := { bcasting bc0 with ftime := 2 ^ 60 }; s.bcastOf 7 5 = some bc0 ∧ bc0.beat + 3 * s.hbTicks ≤ s.ftime ∧ bc0.relGid 1 = some 8 ∧
      ({ bc0 with rel := [] }).relGid 1 = none ∧ ({ bc0 with rel := [] }).relGid 2 = none ∧ kid0.done = none ∧
      kid0.beat + 3 * s.hbTicks ≤ s.ftime) ∧
    (bcasting bc0).ftime < bc0.beat + 3 * (bcasting bc0).hbTicks ∧
    (0 < ({ bc0 with below := 1 }).below ∧ 0 < bc0.total ∧ bitAt bc0.held 0 = false ∧ bc0.asked.contains 0 = false) ∧
    ({ bc0 with upTry := 1 }).upTry ≠ 0 ∧
    ({ bc0 with expects := [(5, 11)] }).expects.find? (fun x => x.2 == 11) = some (5, 11) ∧
    (job { run0 with upTry := 3 } []).run 7 = some { run0 with upTry := 3 } ∧
    (∀ e < 16, (job run0 [(actFld (BCT_JREL_VALID 7 1), 1), (actFld (BCT_JREL_GID 7 1), 8)]).jobRel 7 e = if e = 1 then some 8 else none) ∧
    (let s := job run0 [(actFld (BCT_JREL_VALID 7 0), 1), (actFld (BCT_JREL_GID 7 0), 9), (actFld (BCT_JREL_VALID 7 1), 1), (actFld (BCT_JREL_GID 7 1), 8)];
      s.isRoot 7 = false ∧ run0.upTry = 0 ∧ run0.up = none ∧ s.jobRel 7 1 = some 8) ∧
    (job run0 []).isRoot 7 = true := by decide +kernel

/-- A continuity group of modules 5 (this one), 8 and 9 whose shard 7 has P7 as home. -/
def shard7 : ShardInfo := ⟨7, 0, 0, 7, 0, 1, 1, 1, []⟩
def group0 : ContGroup := ⟨[5, 8, 9], 7, 2, [shard7], [(0, 7, 30)], []⟩
def chunk0 (tries : Nat) : ChunkRx := ⟨7, 271, 1, 0, false, tries, false, false⟩
/-- The job of slot 7 in that group, this module 5, its set open. -/
def runG : JobRun := { run0 with groups := [group0], own := 0, setHere := true, chunks := [chunk0 0] }
def hasp (r : JobRun) (l : List (Fld × Nat)) : State := job r ([(FAB_GID_GID, 5), (HSP_J_STATUS_SET_OPEN 7, 1)] ++ l)
/-- An operation of the physical function, and a state whose request submits it. -/
def oop (op : Nat) (args : List Nat) : OpenOp := ⟨0, 5, op, args, 0⟩
def rst0 (e : Option Nat) : Restore := ⟨oop 7 [7], [], none, [], false, e⟩
def reb0 (img : Option (List (Nat × Bool))) : Rebuild := ⟨7, 7, 7, 30, 0, 3, 7, 0, [], img, false⟩

theorem wit_HaspResendsDrainsAndRestores :
    ((hasp runG []).run 7 = some runG ∧ runG.chunks.find? (fun c => c.part == 7 && c.stripe == 271) = some (chunk0 0) ∧
      (hasp runG []).ftime + 1 < (chunk0 0).since + (hasp runG []).fld (HSP_J_FLOW_HASP_CHUNK_TIMEOUT 7) * 4000000 ∧ runG.group = some group0 ∧
      (let s : State := { hasp runG [] with ftime := 2 ^ 60 };
        (chunk0 0).since + s.fld (HSP_J_FLOW_HASP_CHUNK_TIMEOUT 7) * 4000000 ≤ s.ftime + 1 ∧ s.flag (HSP_J_STATUS_SET_OPEN 7) = true) ∧
      3 ≤ (chunk0 3).tries ∧ (chunk0 2).tries < 3) ∧
    ((∀ o ∈ up.ops, ¬(o.op = 6 ∧ o.arg 0 = 7)) ∧
      ({ hasp runG [] with ops := [oop 6 [7]] } : State).ops.find? (fun o => o.op == 6 && o.arg 0 == 7) = some (oop 6 [7])) ∧
    (let s : State := { hasp runG [] with restores := [(7, some (rst0 (some 3)))], rebuilds := [reb0 none] };
      s.restore 7 = some (rst0 (some 3)) ∧ s.run 7 = some runG ∧ ∃ b ∈ s.rebuilds, b.job = 7 ∧ b.use = 0 ∧ b.img = none) ∧
    (let s : State := { hasp runG [] with restores := [(7, some (rst0 (some 3)))], rebuilds := [reb0 (some [])] };
      s.restore 7 = some (rst0 (some 3)) ∧ ∀ b ∈ s.rebuilds, b.job = 7 → b.use = 0 → b.img ≠ none) ∧
    (up.restore 7 = none ∧ (rst0 none).epoch = none) := by
  refine ⟨?_, ?_, ⟨?_, ?_, reb0 none, ?_, ?_⟩, ?_, ?_⟩ <;> decide +kernel

/-- `s` with a request for operation `op` of function 0, handle 5, arguments `a`. -/
def asks (s : State) (op : Nat) (a : List Nat) : State :=
  put s ([(HIF_OP_REQ_WORD 0 0, 0x100 + op), (HIF_OP_REQ_WORD 0 1, 5)] ++ a.zipIdx.map (fun x => (HIF_OP_REQ_WORD 0 (2 + x.2), x.1)))
/-- Its arguments as the module reads them. -/
def args0 (a : List Nat) : List Nat := a ++ List.replicate (14 - a.length) 0

theorem submit_of {s : State} {f op : Nat} {o : OpenOp} (h : (s.submit f op).2 = some o) : s.submit f op = ((s.submit f op).1, some o) := by
  rw [← h]

/-- The job of slot 7 with the set of step 3 committed in slot 0 of P7. -/
def kept : State := hasp runG [(HSP_SLOT_STATE_A_STATE 7, 3), (HSP_SLOT_EPOCH_A_EPOCH 7, 3), (HSP_J_EPOCH_EPOCH 7, 3)]
/-- The same where the shard is placed in entry 30 of P7 here. -/
def placed : State := put kept [(⟨act (FLW_REKEY 7 7), 0, 32⟩, 7 + 5 * 2 ^ 24), (⟨act (FLW_REKEY 7 7) + 4, 0, 32⟩, 7 * 2 ^ 12 + 30 * 2 ^ 16 + 2 ^ 21)]

theorem wit_HaspResendsDrainsAndRestores_submitted :
    (∀ op ∈ [6, 7, 8], ((asks up op [7]).submit 0 op).2 = some (oop op (args0 [7])) ∧ ((asks up op [7]).submit 0 op).1.run 7 = none ∧
      ((asks up op [8]).submit 0 op).2 = some (oop op (args0 [8])) ∧ 8 ≤ (oop op (args0 [8])).arg 0) ∧
    ((asks kept 6 [7, 3, 2]).submit 0 6).2 = some (oop 6 (args0 [7, 3, 2])) ∧ 2 ≤ (oop 6 (args0 [7, 3, 2])).arg 2 ∧
    (let u := ((asks kept 6 [7, 0xFFFFFFFF, 1]).submit 0 6).1; let o := oop 6 (args0 [7, 0xFFFFFFFF, 1]);
      ((asks kept 6 [7, 0xFFFFFFFF, 1]).submit 0 6).2 = some o ∧ o.arg 2 < 2 ∧ u.restore 7 = none ∧ u.haspOp 7 8 = false ∧
      (u.ops.filter (fun x => x.op == 6 && x.arg 0 == 7)).length ≤ 1 ∧ runG.group = some group0 ∧ u.fld (HSP_J_EPOCH_EPOCH 7) = 3 ∧
      (∃ p ∈ u.slotParts 7, ∃ b : Bool, u.slotOf p 3 = some b ∧ 3 ≤ u.slotState p b) ∧ u.placedHere 7 group0 = []) ∧
    (let u := ((asks placed 6 [7, 3, 1]).submit 0 6).1; u.run 7 = some runG ∧ u.placedHere 7 group0 = [(7, 7, 30)]) ∧
    (let s : State := { kept with restores := [(7, some (rst0 none))] }; (((asks s 6 [7, 3, 1]).submit 0 6).1.restore 7).isSome = true ∧
      (((asks s 8 [7, 3, 1]).submit 0 8).1.restore 7).isSome = true) ∧
    (let s : State := { kept with ops := [⟨0, 6, 8, args0 [7], 0⟩] }; ((asks s 7 [7]).submit 0 7).1.haspOp 7 8 = true ∧
      ((asks s 7 [7]).submit 0 7).2 = some (oop 7 (args0 [7]))) ∧
    (let u := ((asks kept 7 [7]).submit 0 7).1; ((asks kept 7 [7]).submit 0 7).2 = some (oop 7 (args0 [7])) ∧ u.haspOp 7 6 = false ∧
      u.restore 7 = none ∧ u.haspOp 7 8 = false ∧ (∀ m ∈ u.restoreMsgs, mByte m.2 1 % 8 ≠ 7)) ∧
    (let r := { runG with groups := [], own := 0 }; (((asks (hasp r []) 7 [7]).submit 0 7).1.run 7 = some r ∧ r.group = none)) ∧
    (let r := { runG with groups := [{ group0 with members := [8, 5, 9] }] };
      let v := (((asks (hasp r []) 7 [7]).submit 0 7).1).setRestore 7 (some ⟨oop 7 (args0 [7]), [], none, [], false, none⟩);
      r.group = some { group0 with members := [8, 5, 9] } ∧ v.isLeader { group0 with members := [8, 5, 9] } = false) ∧
    (let u := ((asks placed 8 [7, 3, 1]).submit 0 8).1; ((asks placed 8 [7, 3, 1]).submit 0 8).2 = some (oop 8 (args0 [7, 3, 1])) ∧
      u.haspOp 7 6 = false ∧ u.restore 7 = none ∧
      sortKey (·.1) (runG.groups.flatMap (fun g => u.placedHere 7 g)) = [(7, 7, 30)] ∧
      durableImage (u.fld (FAB_JOB_ID_JOB_ID 7)) 3 runG.shape 7 [] = none) ∧
    (let u := ((asks kept 8 [7, 3, 1]).submit 0 8).1; sortKey (·.1) (runG.groups.flatMap (fun g => u.placedHere 7 g)) = []) := by
  refine ⟨by decide +kernel, by decide +kernel, by decide +kernel, ⟨by decide +kernel, by decide +kernel, by decide +kernel, by decide +kernel,
    by decide +kernel, by decide +kernel, by decide +kernel, ⟨7, by decide +kernel, false, by decide +kernel, by decide +kernel⟩, by decide +kernel⟩, by decide +kernel⟩

/-- A durable chunk of shard 7 with a set of `d`, epoch 3, the only one of its image. -/
def durable (d : List Nat) : List Nat :=
  let h := leBytes 4 0x48530002 ++ leBytes 4 0 ++ leBytes 4 3 ++ leBytes 4 0 ++ leBytes 4 7 ++ leBytes 4 0 ++ leBytes 4 0 ++ leBytes 4 1 ++
    leBytes 4 d.length ++ leBytes 4 (crc32c d) ++ List.replicate 20 0
  h ++ leBytes 4 (crc32c h) ++ d

theorem wit_HaspResendsDrainsAndRestores_durable :
    (((durableImage 0 3 0 7 [[durable (List.replicate 64 0)]]).map (fun i => ((asks placed 8 [7, 3, 1]).submit 0 8).1.imageFits 7 30 i)) = some true) ∧
    (((durableImage 0 3 0 7 [[durable (List.replicate 10 0 ++ [1] ++ List.replicate 53 0)]]).map
      (fun i => ((asks placed 8 [7, 3, 1]).submit 0 8).1.imageFits 7 30 i)) = some false) ∧
    (((asks placed 8 [7, 3, 1]).submit 0 8).1.slotRegion 7 false).isSome = false ∧
    ((asks (put placed [(MEM_REGION_KIND_KIND 7 0, 5)]) 8 [7, 3, 1]).submit 0 8).1.slotRegion 7 false = some (0, 0) := by
  refine ⟨?_, ?_, ?_, ?_⟩ <;> decide +kernel

/-- A control message of job slot 7: kind, bytes 2 and 3 zero, then the little-endian fields given as width and value. -/
def ctl (kind : Nat) (l : List (Nat × Nat)) : List Nat := [kind, 7, 0, 0] ++ l.flatMap (fun x => leBytes x.1 x.2) ++ List.replicate 16 0
/-- A cut for the loss of module 9 at step 3, or for none. -/
def cut0 (lost quiet : Nat) (hinged late : Bool) : Cut := ⟨lost, 1, 3, false, 0, quiet, hinged, late, false, false⟩
/-- The job of slot 7 with that cut. -/
def runCut (c : Cut) : JobRun := { runG with cut := some c }

theorem wit_LossesAreDeclaredAndCut :
    ((hasp runG []).run 7 = some runG ∧ runG.group = some group0 ∧
      (let s : State := { hasp runG [] with ghbAt := [(7, 9, 0)], ftime := 2 ^ 60 }; 9 ≠ s.gid ∧ 9 ∈ group0.liveGids ∧ s.isSilent 7 9 = true ∧
        (∀ x ∈ s.silent, ¬(x.1 = 7 ∧ x.2.1 = 9))) ∧ ({ hasp runG [] with ghbAt := [(7, 9, 0)] } : State).isSilent 7 9 = false) ∧
    (let s : State := { up with silent := [(7, 9, 1)], ftime := 4000000000 }; s.ftime < 1 + 4000000000 ∧
      s.silent.find? (fun x => x.1 == 7 && x.2.1 == 9) = some (7, 9, 1)) ∧
    (let s : State := { up with silent := [(7, 9, 1)], ftime := 4000000001 }; 1 + 4000000000 ≤ s.ftime) ∧
    (let m := ctl 0x31 [(4, 0), (4, 9), (2, 1)]; mByte m 1 % 8 = 7 ∧ (hasp runG []).boot = .running ∧ (hasp runG []).isDead 7 9 = false ∧
      up.run 7 = none ∧ (hasp runG []).isRoot 7 = true ∧ runG.cut = none ∧ (hasp runG []).gid = 5 ∧
      mField (ctl 0x34 [(4, 9), (4, 1), (4, 3)]) 12 4 = runG.step ∧ mField (ctl 0x34 [(4, 9), (4, 1), (4, 4)]) 12 4 ≠ runG.step) ∧
    ((hasp (runCut (cut0 9 0 false false)) []).run 7 = some (runCut (cut0 9 0 false false)) ∧
      (runCut (cut0 9 0 false false)).cut = some (cut0 9 0 false false) ∧
      mField (ctl 0x31 [(4, 0), (4, 9)]) 8 4 % 2 ^ 20 = 9 ∧ mField (ctl 0x31 [(4, 0), (4, 8)]) 8 4 % 2 ^ 20 ≠ 9) ∧
    (let s := hasp { runG with up := some 8 } [(actFld (BCT_JREL_VALID 7 0), 1), (actFld (BCT_JREL_GID 7 0), 9)];
      s.isRoot 7 = false ∧ s.jobUp 7 = some 8 ∧ s.jobUp 7 ≠ some 9) ∧
    ((set [(RCV_FENCE_FENCED, 1)]).flag RCV_FENCE_FENCED = true ∧
      (let m := ctl 0x36 [(4, 5), (2, 1), (2, 0), (4, 77)]; (hasp runG []).flag RCV_FENCE_FENCED = false ∧ mField m 4 3 % 2 ^ 20 = (hasp runG []).gid ∧
        (hasp runG []).slotLoaded 7 = true ∧ genNewer (mField m 8 2) ((hasp runG []).fld (FAB_JOB_GEN_GEN 7)) = true) ∧
      genNewer 0 ((hasp runG []).fld (FAB_JOB_GEN_GEN 7)) = false) ∧
    (let c := cut0 9 0 false false; let s : State := { hasp (runCut c) [] with ftime := 2 ^ 60 };
      s.run 7 = some (runCut c) ∧ c.hinged = false ∧ c.late = false ∧ c.since + s.fld RCV_CFG1_CUT_TIMEOUT * 4000000 ≤ s.ftime) ∧
    (let c := cut0 9 0 false false; let s := hasp (runCut c) []; s.ftime < c.since + s.fld RCV_CFG1_CUT_TIMEOUT * 4000000) ∧
    (0 < 0xFFFFF ∧ 0xFFFFF < 2 ^ 20 ∧ 15 < 16 ∧ runG.arrived = false) := by decide +kernel

/-- An LREQ, LNAK or RCOPY about shard 7 and step 3, kind of replay request, receive context 100. -/
def lmsg (kind byte11 : Nat) : List Nat := [kind, 7, 0, 0] ++ leBytes 4 3 ++ leBytes 3 7 ++ [byte11] ++ leBytes 4 100 ++ List.replicate 16 0
/-- Module 5 as the sender of flow 100 toward shard 7, logged or not. -/
def sends7 (log : Nat) (l : List (Fld × Nat)) : State :=
  hasp runG ([(fcKind 100, 1), (fcJob 100, 7), (fcDst 100, 7), (fcPeer 100, 100), (fcLog 100, log)] ++ l)
/-- The rekey entry of shard 7 of slot 7 for a module, P7, entry 30. -/
def at7 (g : Nat) : List (Fld × Nat) :=
  [(⟨act (FLW_REKEY 7 7), 0, 32⟩, 7 + g % 256 * 2 ^ 24), (⟨act (FLW_REKEY 7 7) + 4, 0, 32⟩, g / 256 + 7 * 2 ^ 12 + 30 * 2 ^ 16 + 2 ^ 21)]

theorem wit_RecoveryReplaysOrRollsBack :
    (up.run 7 = none ∧ (hasp runG []).run 7 = some runG ∧ runG.cut = none) ∧
    (let c := cut0 9 0 true false; (hasp (runCut c) []).run 7 = some (runCut c) ∧ (runCut c).cut = some c ∧ c.hinged = true) ∧
    (let c := cut0 9 0 false false; let s := hasp (runCut c) []; s.run 7 = some (runCut c) ∧ c.hinged = false ∧ c.genDone = false ∧
      (runCut c).arrived = false ∧ s.flag RCV_FENCE_FENCED = false ∧ s.quietNow 7 = true ∧
      s.ftime + 1 < s.ftime + 1 + s.fld RCV_CFG_QUIESCE_US * 4000) ∧
    (let c := cut0 9 1 false false; let s : State := { hasp (runCut c) [] with ftime := 2 ^ 60 };
      s.quietNow 7 = true ∧ c.quiet ≠ 0 ∧ c.lost ≠ 0 ∧ c.quiet + s.fld RCV_CFG_QUIESCE_US * 4000 ≤ s.ftime + 1) ∧
    (let c := cut0 0 1 false false; let s : State := { hasp (runCut c) [] with ftime := 2 ^ 60, updDone := [(7, true)] };
      s.quietNow 7 = true ∧ c.lost = 0 ∧ storeGet false s.updDone 7 = true) ∧
    (cut0 9 0 false false).lost < 2 ^ 20 ∧
    (let b := { reb0 (some [(0, false)]) with use := 1 }; let s : State := { hasp runG [(RCV_J_STATUS_PHASE 7, 2)] with rebuilds := [b] };
      s.rebuilds.find? (fun b => b.job == 7 && b.lsid == 7 && b.use == 1) = some b ∧ b.img = some [(0, false)] ∧
      s.fld (RCV_J_STATUS_PHASE 7) = 2 ∧ b.part < 8 ∧ b.entry < 32 ∧ (s.tumWin 7 30).1 + (s.tumWin 7 30).2 ≤ 4096 ∧
      b.epoch ≠ s.fld (RCV_J_TARGET_STEP 7) ∧ b.epoch = (put s [(RCV_J_TARGET_STEP 7, 3)]).fld (RCV_J_TARGET_STEP 7)) ∧
    (mByte (lmsg 0x32 0) 1 % 8 = 7 ∧ mField (lmsg 0x32 0) 8 3 = 7 ∧ mByte (lmsg 0x32 0) 11 = 0 ∧ mByte (lmsg 0x32 1) 11 ≠ 0 ∧
      mField (lmsg 0x32 0) 4 4 = 3 ∧ mField (lmsg 0x32 0) 12 2 % 16384 = 100 ∧ (sends7 1 []).boot = .running ∧ (sends7 1 []).isDead 7 9 = false) ∧
    ((sends7 0 []).sendersTo 7 7 100 = [100] ∧ (sends7 0 []).flag (fcLog 100) = false ∧ (sends7 1 []).sendersTo 7 7 100 = [100] ∧
      (sends7 1 []).flag (fcLog 100) = true) ∧
    (let s : State := { sends7 1 [] with logBroken := [(7, 3, 3)] }; ∃ x ∈ s.logBroken, s.jobOf x.1 = 7 ∧ x.2.1 ≤ 3 ∧ 3 ≤ x.2.2) ∧
    ((sends7 1 []).logBroken = [] ∧ (sends7 1 [(HSP_J_EPOCH_EPOCH 7, 3)]).fld (HSP_J_EPOCH_EPOCH 7) = 3 ∧
      (sends7 1 [(HSP_J_EPOCH_EPOCH 7, 2)]).fld (HSP_J_EPOCH_EPOCH 7) = 2 ∧ ∀ p ∈ (sends7 1 []).slotParts 7, (sends7 1 []).logScan p = []) ∧
    ((hasp runG []).rekey 7 7 = none ∧ ((hasp runG (at7 9)).rekey 7 7).map rkGid = some 9 ∧
      ((hasp runG (at7 5)).rekey 7 7).map (fun w => (rkGid w, rkPart w, rkEntry w)) = some (5, 7, 30)) ∧
    ((hasp runG []).hinged 7 = false ∧ (hasp (runCut (cut0 9 0 true false)) (at7 5)).hinged 7 = true ∧ group0.rankOf 9 = some 2) ∧
    (∀ c ∈ up.rcopy, ¬(c.job = 7 ∧ c.lsid = 7)) ∧
    (let s : State := { hasp runG [] with rcopy := [⟨7, 7, 7, 30, 0⟩] }; s.rcopy.find? (fun c => c.job == 7 && c.lsid == 7) = some ⟨7, 7, 7, 30, 0⟩ ∧
      (s.tumWin 7 30).1 + (s.tumWin 7 30).2 ≤ 4096) := by
  refine ⟨?_, ?_, ?_, ?_, ?_, ?_, ?_, ?_, ?_, ⟨(7, 3, 3), ?_, ?_⟩, ?_⟩ <;> decide +kernel

theorem wit_RecoveryReplaysOrRollsBack_submitted :
    (((asks up 9 [7, 9]).submit 0 9).2 = some (oop 9 (args0 [7, 9])) ∧ ((asks up 9 [7, 9]).submit 0 9).1.run 7 = none) ∧
    (let c := cut0 9 0 true false; let s := asks (hasp (runCut c) [(RCV_J_STATUS_PHASE 7, 3)]) 9 [7, 9, 16];
      (s.submit 0 9).2 = some (oop 9 (args0 [7, 9, 16])) ∧ (s.submit 0 9).1.run 7 = some (runCut c) ∧
      (s.submit 0 9).1.fld (RCV_J_STATUS_PHASE 7) = 3 ∧ c.lost = (oop 9 (args0 [7, 9, 16])).arg 1 % 2 ^ 20 ∧ 16 < (oop 9 (args0 [7, 9, 17])).arg 2) ∧
    (let s := asks (hasp runG []) 9 [7, 4]; (s.submit 0 9).1.run 7 = some runG ∧ runG.cut = none ∧ runG.groupOf 4 = none) ∧
    (let s := asks (hasp runG []) 9 [7, 9, 0, 0, 0, 0, 0, 0]; (s.submit 0 9).2 = some (oop 9 (args0 [7, 9])) ∧ runG.groupOf 9 = some group0 ∧
      (oop 9 (args0 [7, 9])).arg 2 ≤ 16 ∧ (oop 9 (args0 [7, 9])).arg64 6 = 0) ∧
    (let c := cut0 8 0 false false; let s := asks (hasp (runCut c) []) 9 [7, 9]; (s.submit 0 9).1.run 7 = some (runCut c) ∧ c.lost ≠ 9) := by
  refine ⟨?_, ?_, ?_, ?_, ?_⟩ <;> decide +kernel

theorem wit_HandlesAreAssigned :
    (let s := asks up 6 [7]; s.reqWord 0 0 = 6 + 256 ∧ s.boot = .running ∧ s.flag RCV_FENCE_FENCED = false ∧ s.ops.length < 64 ∧
      (s.ops.filter (fun o => o.fn == 0)).length < 16 ∧ (∀ o ∈ s.ops, ¬(o.fn = 0 ∧ o.handle = s.reqWord 0 1)) ∧
      s.flag PWR_STATUS_A3 = false ∧ storeGet 0 s.opCount 0 < 2 ^ 24 ∧ s.reqWord 0 1 ≠ 0) ∧
    (let s : State := { set [(HIF_OP_REQ_WORD 8 0, 0x10D)] with opCount := [(8, 0xFFFFFF)] }; s.reqWord 8 0 = 0xD + 256 ∧ vfMay 0xD = true ∧ s.reqWord 8 1 = 0 ∧
      storeGet 0 s.opCount 8 < 2 ^ 24) ∧
    (let s := set [(HIF_OP_REQ_WORD 0 0, 0x105)]; s.reqWord 0 0 = 5 + 256 ∧ s.bcasts.length < 8 ∧ s.reqWord 0 1 = 0) := by decide +kernel

theorem wit_CommandsLeaveTheQueueAlone :
    (∃ t, exec .tapIdcode up = .next t ∧ t.pending = up.pending) := ⟨_, rfl, rfl⟩

/-- A request of a function. -/
def reqs (s : State) (f w0 h : Nat) (a : List Nat) : State :=
  put s ([(HIF_OP_REQ_WORD f 0, w0), (HIF_OP_REQ_WORD f 1, h)] ++ a.zipIdx.map (fun x => (HIF_OP_REQ_WORD f (2 + x.2), x.1)))

theorem wit_OperationsAreSubmitted :
    (let s := reqs up 3 0x109 5 []; s.boot = .running ∧ s.reqWord 3 0 % 256 = 9 ∧ vfMay 9 = false) ∧
    (vfMay 4 = true ∧ (reqs up 3 0x204 5 []).reqWord 3 0 / 256 % 256 ≠ 1) ∧
    (let s := reqs (set [(RCV_FENCE_FENCED, 1)]) 0 0x109 5 []; s.reqWord 0 0 / 256 % 256 = 1 ∧ s.flag RCV_FENCE_FENCED = true) ∧
    (let s := reqs { up with ops := List.replicate 64 (oop 6 [7]) } 0 0x109 5 []; s.flag RCV_FENCE_FENCED = false ∧ 64 ≤ s.ops.length) ∧
    (let s := reqs { up with ops := List.replicate 16 (oop 6 [7]) } 0 0x109 5 []; s.ops.length < 64 ∧ 16 ≤ (s.ops.filter (fun o => o.fn == 0)).length) ∧
    (let s := reqs { up with ops := [oop 6 [7]] } 0 0x109 5 []; ∃ o ∈ s.ops, o.fn = 0 ∧ o.handle = 5) ∧
    (let s := reqs up 0 0x20A 5 []; (s.submit 0 0xA).2 = none ∧ (s.submit 0 0xD).2 = none) ∧
    (let s := reqs up 0 0x10E 5 []; s.boot = .running ∧ 0xD < s.reqWord 0 0 % 256) ∧
    (reqs up 8 0x100 5 []).reqWord 8 0 % 256 = 0 ∧ State.reset.boot ≠ .running := by
  refine ⟨by decide +kernel, by decide +kernel, by decide +kernel, by decide +kernel, by decide +kernel, ⟨oop 6 [7], ?_⟩, ?_⟩ <;> decide +kernel

theorem wit_OperationsAreSubmitted_selfTest :
    (((reqs up 0 0x10A 5 [512]).submit 0 0xA).2 = some (oop 0xA (args0 [512])) ∧ 512 ≤ (oop 0xA (args0 [512])).arg 0) ∧
    (let u := ((reqs up 2 0x10A 5 [1]).submit 2 0xA).1;
      ∃ p, (p < 8 ∧ bitAt 1 p = true) ∧ (u.present p = false ∨ bitAt (u.vfParts 2) p = false)) ∧
    (let u := ((reqs up 0 0x10A 5 [3, 2]).submit 0 0xA).1;
      ((reqs up 0 0x10A 5 [3, 2]).submit 0 0xA).2 = some (oop 0xA (args0 [3, 2])) ∧ 1 < (oop 0xA (args0 [3, 2])).arg 1 ∧
      (∀ p, p < 8 → bitAt 3 p = true → u.present p = true ∧ bitAt (u.vfParts 0) p = true)) ∧
    (let u := ((reqs (set [(RCV_HEALTH_PART 1, 3)]) 0 0x10A 5 [3, 1]).submit 0 0xA).1;
      (∀ p, p < 8 → bitAt 3 p = true → u.present p = true ∧ bitAt (u.vfParts 0) p = true) ∧ u.fld (RCV_HEALTH_PART 1) = 3) ∧
    (let u := ((reqs up 0 0x10A 5 [3, 1]).submit 0 0xA).1;
      ((reqs up 0 0x10A 5 [3, 1]).submit 0 0xA).2 = some (oop 0xA (args0 [3, 1])) ∧
      (∀ p, p < 8 → bitAt 3 p = true → u.present p = true ∧ bitAt (u.vfParts 0) p = true) ∧
      ∀ p, p < 8 ∧ bitAt 3 p = true → u.fld (RCV_HEALTH_PART p) ≠ 3 ∧ storeGet 0 u.owner p = 0) := by
  refine ⟨by decide +kernel, ⟨0, by decide +kernel⟩, by decide +kernel, by decide +kernel, by decide +kernel, by decide +kernel, ?_⟩
  intro p hp
  have h : ∀ p, p < 8 → bitAt 3 p = true → ((reqs up 0 0x10A 5 [3, 1]).submit 0 0xA).1.fld (RCV_HEALTH_PART p) ≠ 3 ∧
      storeGet 0 ((reqs up 0 0x10A 5 [3, 1]).submit 0 0xA).1.owner p = 0 := by decide +kernel
  exact h p hp.1 hp.2

theorem wit_OperationsAreSubmitted_others :
    (let a := [4, 0, 0, 0]; ((reqs up 0 0x10B 5 a).submit 0 0xB).2 = some (oop 0xB (args0 a)) ∧ 3 < (oop 0xB (args0 a)).arg 0) ∧
    (let a := [0, 0, 0, 4096]; let s := { reqs up 0 0x10B 5 a with ops := [⟨0, 6, 0xB, args0 [0], 0⟩] };
      (s.submit 0 0xB).2 = some (oop 0xB (args0 a)) ∧ ∃ x ∈ (s.submit 0 0xB).1.ops, x ≠ oop 0xB (args0 a) ∧ x.op = 0xB) ∧
    (let a := [0, 0, 0, 4096]; let u := ((reqs up 0 0x10B 5 a).submit 0 0xB).1;
      (∀ x ∈ u.ops, x.op = 0xB → x = oop 0xB (args0 a)) ∧ ((u.readout 0).map List.length).sum ≤ (oop 0xB (args0 a)).arg 3) ∧
    (∀ e ∈ [1, 2, 3], ((reqs up 0 0x10C 5 [e, 0]).submit 0 0xC).2 = some (oop 0xC (args0 [e, 0])) ∧ (reqs up 0 0x10C 5 [e, 0]).reqWord 0 2 = e) ∧
    (let u := ((reqs up 0 0x10C 5 [1, 0xFFFE]).submit 0 0xC).1; u.unitOk 0xFFFE = false) ∧
    (let u := ((reqs up 0 0x10C 5 [2, 9]).submit 0 0xC).1; u.present 9 = false) ∧
    (let u := ((reqs up 0 0x10C 5 [3, 0]).submit 0 0xC).1; u.unitOk 0 = true ∧ (u.hist 0).state ≠ 2) ∧
    (let u := ((reqs up 0 0x10C 5 [1, 0]).submit 0 0xC).1; u.unitOk 0 = true ∧ u.present 0 = true) ∧
    (let s := up.setHist 0 { up.hist 0 with state := 2 }; let u := ((reqs s 0 0x10C 5 [3, 0]).submit 0 0xC).1; u.unitOk 0 = true ∧ (u.hist 0).state = 2) := by
  refine ⟨by decide +kernel, ⟨by decide +kernel, ⟨0, 6, 0xB, args0 [0], 0⟩, by decide +kernel⟩, ?_⟩
  decide +kernel

theorem wit_OperationsAreSubmitted_abort :
    ((reqs up 0 0x10D 5 [9]).submit 0 0xD).2 = some (oop 0xD (args0 [9])) ∧
    (∀ x ∈ ((reqs up 0 0x10D 5 [9]).submit 0 0xD).1.ops, x = oop 0xD (args0 [9])) ∧
    (∀ y ∈ [6, 7], let x : OpenOp := ⟨0, 9, y, args0 [7], 0⟩; let s : State := { reqs up 0 0x10D 5 [9] with ops := [x] };
      (s.submit 0 0xD).1.ops.find? (fun z => z != oop 0xD (args0 [9]) && z.handle == 9 && z.fn == 0) = some x ∧
      (s.submit 0 0xD).1.loads = []) ∧
    mayAbort 6 = true ∧ mayAbort 1 = true ∧ mayAbort 2 = false ∧ mayAbort 7 = false := by decide +kernel

/-! ## A job image and a table image -/

/-- A section of scope J or M, or of partition `part`, whose content holds no bytes. -/
def sect (t part : Nat) (b : SecBody) : ImgSection :=
  ⟨leBytes 2 t ++ [0, 0] ++ leBytes 4 0 ++ leBytes 4 (crc32c []) ++ [part, 0, 0, 0], [], List.replicate 48 0, false, b⟩
/-- An image of a kind, its partition mask, image identifier, base identifier, sections and signature; job 7, generation `g`. -/
def image (kind mask id base g : Nat) (sig : List Nat) (secs : List ImgSection) : Image :=
  let h := leBytes 4 0x4B544942 ++ [2, 0, 0, 0x41] ++ leBytes 2 kind ++ [1, mask] ++ leBytes 4 (192 + 64 * secs.length) ++ leBytes 4 id ++
    leBytes 4 7 ++ leBytes 2 g ++ leBytes 2 secs.length ++ leBytes 4 (crc32c []) ++ leBytes 4 base ++ List.replicate 88 0
  ⟨h ++ leBytes 4 (crc32c h), sig, secs⟩
def jobSecs : List ImgSection :=
  [sect 0x10 15 { devices := 1 }, sect 0x12 15 { jobId := 7, gen := 1, dorounte := true }, sect 0x13 0 { h := 1 },
   sect 0x14 0 { regs := [(MEM_REGION_LEN 0 0, 0x8000), (MEM_REGION_KIND 0 0, 9)], buffers := [0, 0, 0, 0, 0] },
   sect 0x17 15 {}, sect 0x18 15 {}, sect 0x19 15 {}, sect 0x1A 15 {}, sect 0x1C 15 {}]
/-- The public key of RFC 8032, vector 1, and signatures with its secret key. -/
def keyRfc : List Nat :=
  [215, 90, 152, 1, 130, 177, 10, 183, 213, 75, 254, 211, 201, 100, 7, 58, 14, 225, 114, 243, 218, 166, 35, 37, 175, 2, 26, 104, 247, 7, 81,
   26]
def sigJob : List Nat :=
  [71, 207, 192, 225, 64, 77, 242, 167, 135, 81, 231, 85, 83, 199, 245, 13, 123, 68, 214, 150, 129, 136, 214, 5, 27, 224, 102, 18, 246, 176,
   38, 234, 156, 61, 212, 29, 105, 242, 126, 176, 22, 190, 155, 37, 2, 159, 2, 1, 59, 245, 177, 174, 184, 102, 150, 125, 175, 34, 77, 76, 217,
   42, 42, 13]
def sigTable : List Nat :=
  [145, 173, 160, 21, 107, 76, 114, 225, 79, 177, 125, 51, 124, 246, 89, 125, 39, 68, 207, 168, 42, 77, 234, 38, 207, 130, 228, 244, 165,
   140, 156, 44, 128, 163, 147, 3, 219, 67, 7, 184, 148, 88, 29, 62, 87, 37, 22, 127, 60, 48, 13, 197, 173, 101, 3, 168, 215, 34, 226, 108,
   176, 100, 159, 14]
def jobImage : Image := image 1 1 0x11 0 1 sigJob jobSecs
def tableImage : Image := image 2 0 0x12 0x11 2 sigTable []
/-- A module with a global identifier and the key of slot 1. -/
def keyed (l : List (Fld × Nat)) : State := { set ([(FAB_GID_GID, 5), (BIT_KEYS_PRESENT, 2)] ++ l) with keys := [(1, keyRfc)] }
def opLoad : OpenOp := oop 1 (args0 [7, 0, 0, 768])
def load0 (img : Option Image) (ready : Bool) : Load := ⟨opLoad, img, ready, 0⟩
/-- The job of slot 7 loaded from the job image, partition P7. -/
def loaded : State := { job { run0 with dorounte := true } [(FAB_GID_GID, 5), (BIT_KEYS_PRESENT, 2), (BIT_SLOT_STATE_STATE 7, 2), (BIT_SLOT_ID_IMAGE_ID 7, 0x11),
  (FAB_JOB_ID_JOB_ID 7, 7), (FAB_JOB_GEN_GEN 7, 1), (CAM_HOST_W1_PROG_BASE 7 3, 64), (MEM_REGION_BASE_BASE 7 0, 0), (MEM_REGION_LEN_LEN 7 0, 0x8000),
  (MEM_REGION_KIND_KIND 7 0, 1)] with keys := [(1, keyRfc)] }

theorem test_jobImage_passes : jobImage.headerFail 1 768 = none ∧ (keyed []).signFail jobImage = none ∧ jobImage.layoutFail 7 = none := by
  decide +kernel
theorem test_jobImage_content : (keyed []).contentFail 7 jobImage = none := by decide +kernel

theorem wit_ImagesLoadAndUnload :
    (let a := [7, 0, 0, 768]; let u := ((reqs (keyed []) 0 0x101 5 a).submit 0 1).1; ((reqs (keyed []) 0 0x101 5 a).submit 0 1).2 = some opLoad ∧
      opLoad.arg 0 < 8 ∧ u.fld (BIT_SLOT_STATE_STATE 7) = 0) ∧
    ((reqs up 0 0x101 5 [8]).submit 0 1).2 = some (oop 1 (args0 [8])) ∧
    (((reqs loaded 0 0x101 5 [7]).submit 0 1).1.fld (BIT_SLOT_STATE_STATE 7) ≠ 0) ∧
    (let s : State := { keyed [] with loads := [load0 none false] }; s.loads = [load0 none false] ∧ opLoad.arg 0 < 8) ∧
    (jobImage.headerFail 1 (opLoad.arg 3) = none ∧ (∃ p ∈ jobImage.parts, storeGet 0 ({ up with owner := [(0, 3)] } : State).owner p ≠ 0)) ∧
    (∃ x, tableImage.headerFail 1 (opLoad.arg 3) = some x) ∧
    (∀ x ∈ jobImage.secs, x.changed = false) ∧ (∀ p ∈ jobImage.parts, storeGet 0 (keyed []).owner p = 0) ∧
    (let s : State := { keyed [(FAB_TIME_STATUS_VALID, 1)] with loads := [load0 (some jobImage) true] };
      s.flag FAB_TIME_STATUS_VALID = true ∧ (load0 (some jobImage) true).ready = true) ∧
    (let s : State := { keyed [] with loads := [load0 (some jobImage) true], ftime := 40000000000 };
      s.flag FAB_TIME_STATUS_VALID = false ∧ (load0 (some jobImage) true).since + 40000000000 ≤ s.ftime) ∧
    up.loads = [] := by
  refine ⟨by decide +kernel, by decide +kernel, by decide +kernel, by decide +kernel, ⟨by decide +kernel, 0, by decide +kernel⟩,
    ⟨hdrFail 4 8 stBadImage, by decide +kernel⟩, by decide +kernel, by decide +kernel, by decide +kernel, by decide +kernel, by decide +kernel⟩

theorem wit_ImagesLoadAndUnload_unload :
    ((reqs up 0 0x102 5 [7]).submit 0 2).2 = some (oop 2 (args0 [7])) ∧ ((reqs up 0 0x102 5 [7]).submit 0 2).1.fld (BIT_SLOT_STATE_STATE 7) ≠ 2 ∧
    ((reqs loaded 0 0x102 5 [7]).submit 0 2).2 = some (oop 2 (args0 [7])) ∧ ((reqs loaded 0 0x102 5 [7]).submit 0 2).1.fld (BIT_SLOT_STATE_STATE 7) = 2 ∧
    (((reqs loaded 0 0x102 5 [7]).submit 0 2).1.unloadSlot 7 stAborted).anyLoaded = false := by decide +kernel

theorem wit_ImagesLoadAndUnload_table :
    (let a := [7, 0, 0, 192]; let s := reqs loaded 0 0x103 5 a; let u := (s.submit 0 3).1; let r := { run0 with dorounte := true };
      (s.submit 0 3).2 = some (oop 3 (args0 a)) ∧ u.run 7 = some r ∧ r.img = none ∧ (∀ x ∈ tableImage.secs, x.changed = false) ∧
      (tableImage.sec secDest 0xF).isSome = false ∧ (tableImage.sec secGroups 0xF).isSome = false ∧
      firstFail [tableImage.headerFail 2 ((oop 3 (args0 a)).arg 3), u.signFail tableImage, tableImage.layoutFail 7, u.tableFail 7 r tableImage] = none) ∧
    (((reqs up 0 0x103 5 [7]).submit 0 3).1.run 7 = none) ∧
    (let r := { run0 with img := some ⟨2, [], false, false, false, 0, 0x12⟩ }; let s := reqs (job r []) 0 0x103 5 [7];
      (s.submit 0 3).1.run 7 = some r ∧ r.img.isSome = true) := by decide +kernel

theorem wit_ImagesLoadAndUnload_program :
    (((reqs up 0 0x104 5 [7]).submit 0 4).2 = some (oop 4 (args0 [7])) ∧ ((reqs up 0 0x104 5 [7]).submit 0 4).1.run 7 = none) ∧
    (let a := [7, 0x307, 0, 0, 64]; let o := oop 4 (args0 a); let s := reqs loaded 0 0x104 5 a; let u := (s.submit 0 4).1;
      (s.submit 0 4).2 = some o ∧ u.vfOwnsJob 0 7 = true ∧ u.run 7 ≠ none ∧ storeGet 0 u.owner 7 = 8 ∧ u.fld (CAM_HOST_W0_STATE 7 3) = 0 ∧
      o.arg 1 % 16 = 7 ∧ o.arg 1 / 256 % 32 = 3 ∧ o.arg 4 = 64 ∧ u.inRegion 7 1 64 1 = true ∧
      (let t := (u.hbmPut (64 * hbmDatum 7 64) (leBytes 64 (desc 7 [])) (fun _ => false)).setFld (CAM_HOST_W2_PROG_LEN 7 3) 1;
        ∀ strict : Bool, t.descOk 7 7 3 0 strict = true)) ∧
    (let s := reqs (put loaded [(MEM_REGION_KIND_KIND 7 0, 2)]) 0 0x104 5 [7, 0x307, 0, 0, 64]; (s.submit 0 4).1.inRegion 7 1 64 1 = false) ∧
    (let s := reqs (put loaded [(CAM_HOST_W0_STATE 7 3, 2)]) 0 0x104 5 [7, 0x307, 0, 0, 64]; (s.submit 0 4).1.fld (CAM_HOST_W0_STATE 7 3) = 2) ∧
    ((oop 4 (args0 [7, 0x307, 0, 0, 65])).arg 4 % 64 ≠ 0 ∧ storeGet 0 ((reqs loaded 0 0x104 5 [7, 0x306]).submit 0 4).1.owner 6 ≠ 8) := by decide +kernel

def compl0 (f : Nat) : Compl := ⟨f, 5, 4, stOk, 31, [7]⟩
/-- A module whose function `f` has a completion queue of 64 entries, enabled. -/
def ring (f : Nat) (l : List (Fld × Nat)) : State := set ([(HIF_CQ_SIZE_ENABLE f, 1), (HIF_CQ_SIZE_LOG2 f, 6)] ++ l)

theorem wit_CompletionsAndInterrupts :
    ({ ring 3 [] with ended := [compl0 3] } : State).cqRoom 3 = true ∧ (compl0 3).fn ≤ 8 ∧ up.cqRoom 3 = false ∧ up.cqHeld = 0 ∧
    (∀ f, f ≤ 8 → up.cqRoom f = false) ∧ (∀ c ∈ List.replicate 300 (compl0 8), c.fn ≤ 8) ∧
    (let u := (ring 3 [(HIF_CQ_TAIL_TAIL 3, 63), (HIF_CQ_HEAD_HEAD 3, 0)]).setFld (HIF_CQ_HEAD_HEAD 3) 5; u.cqRoom 3 = true) ∧
    (let u := (ring 3 [(HIF_CQ_TAIL_TAIL 3, 63)]).setFld (HIF_CQ_HEAD_HEAD 3) 0; u.cqRoom 3 = false) ∧
    up.flag (HIF_CQ_SIZE_ENABLE 3) = false ∧ (ring 3 []).flag (HIF_CQ_SIZE_ENABLE 3) = true ∧ bitAt 0x106 8 = true ∧
    (let s : State := { up with irqPend := [(12, true)] }; storeGet false s.irqPend (4 * 3 + 0) = true ∧ storeGet 0 s.irqLast (4 * 3 + 0) = 0) ∧
    (let s : State := { up with irqPend := [(2, true)], irqLast := [(2, 9)], ftime := 8 };
      storeGet false s.irqPend (4 * 0 + 2) = true ∧ storeGet 0 s.irqLast 2 - 1 + 4000 * s.irqMod 0 2 ≤ s.ftime) ∧
    (let s : State := { set [(HIF_IRQ_MOD_CQ_US 3, 1)] with irqPend := [(12, true)], irqLast := [(12, 9)], ftime := 8 };
      storeGet 0 s.irqLast 12 ≠ 0 ∧ s.ftime < storeGet 0 s.irqLast 12 - 1 + 4000 * s.irqMod 3 0) := by decide +kernel

-- The bytes of a completion (Table 16.6): handle, status, operation, phase.
theorem test_completion_bytes : ((compl0 3).bytes true).take 12 = [5, 0, 0, 0, 0, 0, 4, 63, 7, 0, 0, 0] := by decide +kernel

theorem wit_HostReachesRegistersAndMemory_read :
    (up.mayReach 3 (CAM_CFG 3) false = false ∧ up.absentReg 0x10200000 = false) ∧
    (let s := set [(PWR_DOM_STATE 12, 2), (PWR_DOM_STATE 13, 2)]; s.mayReach 0 (CAM_CFG 3) false = true ∧ s.absentReg (CAM_CFG 3) = false ∧
      s.regDown (CAM_CFG 3) = true) ∧
    (up.mayReach 0 (HIF_OP_SUBMIT 0) false = true ∧ up.absentReg (HIF_OP_SUBMIT 0) = false ∧ up.regDown (HIF_OP_SUBMIT 0) = false ∧
      submitWord (HIF_OP_SUBMIT 0) = true) ∧
    (up.regDown (CAM_CFG 3) = false ∧ submitWord (CAM_CFG 3) = false ∧ up.pairAt (CAM_CFG 3) = none ∧ CAM_CFG 3 % 4 = 0) ∧
    (let s : State := { up with ftime := 2 ^ 32 + 7 }; s.pairAt FAB_TIME_LO = some (2 ^ 32 + 7) ∧ FAB_TIME_LO % 8 = 0 ∧ submitWord FAB_TIME_LO = false) ∧
    (let s : State := { up with ftime := 2 ^ 33, latch := [(FAB_TIME_LO + 4, 2)] }; s.pairAt (FAB_TIME_LO + 4) = some (2 ^ 33) ∧
      (FAB_TIME_LO + 4) % 8 = 4 ∧ storeGet 0 s.latch (FAB_TIME_LO + 4) = 1 + 1) := by decide +kernel

theorem wit_HostReachesRegistersAndMemory_write :
    (let s := set [(HIF_PART_ID_PART_MASK, 0x7F)]; s.absentReg (CAM_CFG 7) = true) ∧
    (up.mayReach 3 (TRC_PRE 3) true = false ∧ up.absentReg (TRC_PRE 3) = false ∧ up.mayReach 0 (TRC_PRE 3) true = true ∧
      up.regDown (TRC_PRE 3) = false ∧ up.flag MBX_RSEND_STATUS_BUSY = false ∧ TRC_PRE 3 < 0x10100000 ∧ TRC_PRE 3 % 4 = 0) ∧
    (regRow (TRC_PRE 3)).map (fun r => (r.1.rw, r.1.w1c, r.1.rwl)) = some (0xFFFFFFF, 0, 0) ∧ ownBits (TRC_PRE 3) = 0 ∧ up.heldBits (TRC_PRE 3) = 0 ∧
    (partWindow (TRC_PRE 3)).isSome = true ∧ TRC_PRE 3 ≠ CAM_STRETCH 3 ∧ TRC_PRE 3 ≠ TRC_CFG 3 ∧
    (let s : State := { up with owner := [(3, 1)] }; (regRow (CAM_CFG 3)).map (fun r => decide (r.1.rwl ≠ 0)) = some true ∧ s.rwlLocked (CAM_CFG 3) = true ∧
      (partWindow (CAM_CFG 3)).isSome = true ∧ CAM_CFG 3 ≠ CAM_STRETCH 3 ∧ CAM_CFG 3 ≠ TRC_CFG 3) ∧
    (let s := set [(PWR_DOM_STATE 12, 2), (PWR_DOM_STATE 13, 2)]; s.regDown (CAM_CFG 3) = true ∧ s.mayReach 0 (CAM_CFG 3) true = true) ∧
    regRow 0xFFFC = none ∧ up.flag (HIF_VF_MAP_VALID (3 - 1)) = false := by decide +kernel

theorem wit_HostReachesRegistersAndMemory_memory :
    up.hbmDenied 0 (up.bar2 0 64) 64 = 0 ∧ up.hbmDenied 3 (up.bar2 3 64) 64 = 1 ∧ up.hbmDenied 0 (up.bar2 0 64) 0 = 1 ∧
    (set [(RCV_HEALTH_PART 0, 3)]).hbmDenied 0 ((set [(RCV_HEALTH_PART 0, 3)]).bar2 0 64) 64 = 2 ∧
    (∀ k, k < 8 → up.domState (4 * k + 3) ≠ 2) ∧ up.flag RCV_FENCE_FENCED = false ∧ (set [(RCV_FENCE_FENCED, 1)]).flag RCV_FENCE_FENCED = true ∧
    (set [(RCV_FENCE_FENCED, 1)]).hbmDenied 0 ((set [(RCV_FENCE_FENCED, 1)]).bar2 0 64) 64 = 0 ∧
    State.reset.boot = .off ∧ ({ up with pins := { up.pins with ready := true } } : State).boot ≠ .off := by decide +kernel

theorem wit_MailboxDelivery :
    4 ≤ (leBytes 4 9).length ∧ up.flag (MBX_STATUS_FULL 5) = false ∧ (set [(MBX_STATUS_FULL 5, 1)]).flag (MBX_STATUS_FULL 5) = true ∧
    mayTake 5 0 = true ∧ up.present (5 / 4) = true ∧ up.domDown (4 * (5 / 4) + 1) = false ∧ bitAt 0x103 8 = true ∧
    0x103 % 256 = (set [(MBX_STATUS_SEQ 5, 3)]).fld (MBX_STATUS_SEQ 5) ∧ 0x103 % 256 ≠ up.fld (MBX_STATUS_SEQ 5) := by decide +kernel

theorem wit_MessagesGoWhereTheyMay :
    (mbxShape 0 true (leBytes 4 9) = true ∧ up.mayWriteMbx 5 0 = true ∧ up.domDown (4 * (5 / 4) + 1) = false ∧ up.present (5 / 4) = true) ∧
    (up.mayWriteMbx 0 0x1000 = false ∧ idFn 0x1000 = some 1) ∧ ((set [(PWR_DOM_STATE 5, 2)]).domDown (4 * (5 / 4) + 1) = true) ∧
    (idFn trayId = none ∧ trayId < 0x5000 ∧ mbxShape 0 false (leBytes 4 9) = false ∧ idFn 0x2000 = none ∧ 0x2000 ≠ trayId) ∧
    ((set [(PWR_DOM_STATE 5, 1)]).domState (4 * (5 / 4) + 1) = 1) ∧ (idFn 0x1003 = some 4 ∧ mayTake 5 0x1003 = false) ∧
    (bitAt (2 ^ 31 + 9) 31 = true ∧ (2 ^ 31 + 9) % 2 ^ 20 ≠ up.gid) ∧
    (let s := set [(MBX_STATUS_FULL 48, 1), (⟨MBX_DATA 48, 0, 32⟩, 1 + 4 * 256)]; s.flag (MBX_STATUS_FULL 48) = true ∧ 3 < (s.reg (MBX_DATA 48)).toNat / 256 % 256) ∧
    (let s := set [(MBX_STATUS_FULL 48, 1), (⟨MBX_DATA 48, 0, 32⟩, 0x03020101)]; let w := (s.reg (MBX_DATA 48)).toNat;
      1 ≤ w / 256 % 256 ∧ w / 256 % 256 ≤ 3 ∧ w % 256 = 1 ∧ idFn (s.fld (MBX_SENDER_SENDER 48)) = some 0) ∧
    (max 1 2 ≤ min 3 3 ∧ min 3 5 < max 1 4) := by decide +kernel

theorem wit_CountersClearAndTracesFreeze :
    up.Reaches 0 (DBG_CNT_CLEAR 3) ∧ (gcntIsTime 0x260 = false ∧ up.boot = .running) ∧ (up.present 3 = true ∧ up.mayReach 1 (DBG_CNT_CLEAR 3) true = false) ∧
    (up.flag (TRC_CFG_EN 3) = false) ∧
    (let s := set [(TRC_CFG_EN 3, 1), (TRC_CFG_MODE 3, 1)]; s.flag (TRC_CFG_EN 3) = true ∧ s.trcMode 3 = 1 ∧ (s.trcGet 3).dropCount = 0 ∧
      s.fld (TRC_WPTR_WPTR 3) < trcSlots ∧ bitAt (s.fld TRC_FANOUT_MASK) 3 = false ∧ s.fld (TRC_STATUS_STATE 3) = 0) ∧
    (let s := set [(TRC_CFG_EN 3, 1), (TRC_CFG_MODE 3, 1), (TRC_STATUS_STATE 3, 2)]; s.trcMode 3 ≠ 0 ∧ s.fld (TRC_STATUS_STATE 3) ≠ 0) :=
  ⟨reaches (by decide +kernel), by decide +kernel⟩

/-- A detection: an uncorrectable HBM error of a pseudo channel of P3. -/
def err0 (cls : Nat) : ErrRec := ⟨unitId 3 5, cls, 0, 77, 0, 0, 0, 0, 0, 0, 0, 0, 0, 0, 0, 0, 0⟩

theorem wit_DetectionsBecomeRecords :
    (let s : State := { up with detections := [err0 2, err0 3] }; s.detections = err0 2 :: [err0 3] ∧ (err0 2).cls ≠ 0 ∧ (err0 2).cls < 2 ^ 8) ∧
    (let s := set [(KPR_ERR_TAIL_TAIL, 1023)]; (s.fld KPR_ERR_TAIL_TAIL + 1) % 1024 = s.fld KPR_ERR_HEAD_HEAD) ∧
    (up.fld KPR_ERR_TAIL_TAIL + 1) % 1024 ≠ up.fld KPR_ERR_HEAD_HEAD ∧
    (let s := set [(KPR_ERR_ALERT_MASK_MASK, 8)]; bitAt (s.fld KPR_ERR_ALERT_MASK_MASK) (err0 3).cls = true) ∧
    (∀ h : Bool, up.present 3 = true ∧ up.flag (MEM_CFG_SCRUB_EN 3) = true ∧ up.domState (4 * 3 + (if h then 3 else 2)) < 2 ∧
      storeGet 0 up.scrubPos (2 * 3 + (if h then 0 else 1)) < (if h then 0x30000000 else 0xC0000) ∧
      up.psn (if h then hbmDatum 3 0 else tsDatum 3 0) = false) ∧
    (set [(MEM_CFG_SCRUB_EN 3, 0)]).flag (MEM_CFG_SCRUB_EN 3) = false ∧
    (∀ h : Bool, let s : State := { up with migr := [chanKey 3 5 h, chanKey 3 6 h] };
      s.migr.find? (fun k => decide (k / 64 = chanKey 3 0 h / 64)) = some (chanKey 3 5 h)) ∧
    (up.domState 5 ≠ 3 ∧ (set [(PWR_DOM_STATE 5, 3)]).domState 5 = 3) := by decide +kernel

theorem wit_TheRecorderKeepsTime :
    (up.boot ≠ .off ∧ storeGet 0 up.opRing 1024 < 1024) ∧
    (up.opmin % 1440 = 0 ∧ up.opmin / 1440 ≤ up.fld EVR_DAY_DAY) ∧
    (let s := set [(EVR_OPMIN_OPMIN, 1440)]; s.opmin % 1440 = 0 ∧ s.fld EVR_DAY_DAY < s.opmin / 1440) ∧
    (let s := set [(EVR_OPMIN_OPMIN, 43200), (EVR_DAY_DAY, 30)]; s.opmin % 43200 = 0 ∧ s.fld EVR_DAY_DAY = s.opmin / 1440 ∧
      s.accGet kMonthIdx < s.opmin / 43200 ∧ s.fld EVR_LIFE_COUNT_COUNT + 126 ≤ 16384) ∧
    (let s := set [(EVR_OPMIN_OPMIN, 43200), (EVR_DAY_DAY, 30), (EVR_LIFE_COUNT_COUNT, 16300)]; 16384 < s.fld EVR_LIFE_COUNT_COUNT + 126) ∧
    (let s : State := { set [(EVR_OPMIN_OPMIN, 60)] with ckpts := [⟨0, [], [], [], []⟩] }; s.opmin % 60 = 0 ∧ s.ckpts = ⟨0, [], [], [], []⟩ :: [] ∧
      (⟨0, [], [], [], []⟩ : Ckpt).opmin ≠ s.opmin) ∧
    (let s : State := { set [(EVR_OPMIN_OPMIN, 60)] with ftime := 240000000000 };
      s.lastFlush.1 + min 60 (max 1 (s.fld EVR_CFG_FLUSH_MIN)) ≤ s.opmin ∧ s.lastFlush.2 + 240000000000 ≤ s.ftime) ∧
    (up.fld EVR_RECENT_TAIL_TAIL < recentLines ∧ up.fld EVR_RECENT_HEAD_HEAD < recentLines ∧
      (up.fld EVR_RECENT_TAIL_TAIL + 1) % recentLines ≠ up.fld EVR_RECENT_HEAD_HEAD) ∧
    (let s := set [(EVR_RECENT_TAIL_TAIL, recentLines - 1)]; (s.fld EVR_RECENT_TAIL_TAIL + 1) % recentLines = s.fld EVR_RECENT_HEAD_HEAD) ∧
    (let s : State := { up with uhsDirty := true }; s.uhsDirty = true ∧ s.copyMin ≠ s.opmin + 1) := by decide +kernel

/-- A running module whose debug access is enabled. -/
def debugged (l : List (Fld × Nat)) : State := set ([(DBG_GSTATUS_DEBUG_EN, 1)] ++ l)

theorem wit_TestAccessPortAndDebug :
    (let s : State := { debugged [] with boot := .held }; s.boot ≠ .off ∧ s.flag DBG_GSTATUS_DEBUG_EN = true ∧ s.pins.ready = false) ∧
    (up.boot ≠ .off ∧ up.flag DBG_GSTATUS_DEBUG_EN = false ∧ State.reset.boot = .off) ∧
    (let u := ({ debugged [] with aon := { (debugged []).aon with tapIr := 0x10 }, out := [.tdo 0] } : State).gcount 0x290 1;
      u.regDown (CAM_CFG 3) = false ∧ submitWord (CAM_CFG 3) = false ∧ u.absentReg (CAM_CFG 3) = false ∧ submitWord (HIF_OP_SUBMIT 0) = true ∧
      u.regDown (HIF_OP_SUBMIT 0) = false ∧ (CAM_CFG 3) % 2 ^ 26 / 4 * 4 = CAM_CFG 3) ∧
    (let u := ({ debugged [(HIF_PART_ID_PART_MASK, 0x7F)] with out := [.tdo 0] } : State).gcount 0x290 1;
      u.absentReg (CAM_CFG 7) = true ∧ u.regDown (CAM_CFG 7) = false ∧ submitWord (CAM_CFG 7) = false) ∧
    (let u := (debugged [(PWR_DOM_STATE 12, 2), (PWR_DOM_STATE 13, 2)]).gcount 0x290 1; u.regDown (CAM_CFG 3) = true) ∧
    (bitAt (up.fld DBG_GSTATUS_TAINT) 3 = false ∧ bitAt ((set [(⟨DBG_GSTATUS, 11, 1⟩, 1)]).fld DBG_GSTATUS_TAINT) 3 = true) ∧
    (let u := (debugged []).gcount 0x290 1; u.hbmDenied 0 64 4 = 0 ∧ (∀ k, k < 8 → u.domState (4 * k + 3) ≠ 2) ∧ ¬(u.regionKind 0 1 ≠ 0 ∧ u.jobOf 0 < 8)) ∧
    (let s : State := { debugged [(MEM_REGION_LEN_LEN 0 0, 0x8000), (MEM_REGION_KIND_KIND 0 0, 4), (RCV_FENCE_FENCED, 1)] with owner := [(0, 4)] };
      let u := s.gcount 0x290 1; s.flag RCV_FENCE_FENCED = true ∧ u.regionKind (64 / 0xC00000000) (64 % 0xC00000000 / 64) ≠ 0 ∧ u.jobOf 0 < 8 ∧
      u.hbmDenied 0 64 4 = 0) ∧
    ((debugged []).gcount 0x290 1).hbmDenied 0 (0xC00000000 * 8) 4 = 1 ∧
    ((debugged [(RCV_HEALTH_PART 0, 3)]).gcount 0x290 1).hbmDenied 0 64 4 = 2 := by decide +kernel

theorem wit_SidebandRegistersAreServed :
    (State.reset.boot = .off ∧ up.boot ≠ .off ∧ up.boot ≠ .resetting) ∧ (up.boot ≠ .off ∧ 0 < 2) ∧
    -- a read command alone, one word of GID, two of a register the Keeper holds, and shapes outside the table
    (∀ l ∈ [[0x20, 0, 1, 2, 3, 0], [0x20, 0], [8, 0, 1, 0, 0, 0], [0x40, 0, 9, 9, 9, 9], [4, 0, 1, 1, 1, 1], [0x24, 0, 1, 1, 1, 1],
        [0x30, 0, 4, 0, 0, 0], [0xC0, 0, 1, 2, 3, 4]],
      (∀ b ∈ l, b < 256) ∧ 2 ≤ l.length ∧ mField l 0 2 % 4 = 0 ∧ (l.drop 2).length % 4 = 0 ∧ (l.drop 2).length ≤ 64 ∧
      sbIndex (mField l 0 2) = true) ∧
    (([0x21, 0] : List Nat) ≠ [] ∧ mField [0x21, 0] 0 2 % 4 ≠ 0 ∧ sbIndex (mField [0x2C, 0, 0, 0, 0, 0] 0 2 + 4 * 0) = false ∧
      bitAt (mField [4, 0, 0, 0] 0 4) 31 = false ∧ mField [0x00, 4] 0 2 = 0x400 + 0x80 * (48 - 48) ∧ mField [0x80, 11] 0 2 = 0x400 + 0x80 * (63 - 48)) ∧
    (0xFFFFF % 2 ^ 20 = 0xFFFFF ∧ 5 % 2 ^ 20 ≠ 0xFFFFF) ∧
    (up.aon.fwStage = none ∧ (let s : State := { up with aon := { up.aon with fwStage := some 1 } };
      s.aon.fwStage = some 1 ∧ s.fld KPR_SB_FW_OFF_OFFSET + 64 ≤ 8 * 2 ^ 20) ∧
      8 * 2 ^ 20 < (set [(KPR_SB_FW_OFF_OFFSET, 8 * 2 ^ 20)]).fld KPR_SB_FW_OFF_OFFSET + 4) := by decide +kernel

theorem wit_SidebandCommandsRun :
    (State.reset.boot = .off ∧ ({ up with boot := .recovery } : State).boot = .recovery ∧ ({ up with boot := .resetting } : State).boot = .resetting) ∧
    ((set [(KPR_SB_CMD_STATUS_BUSY, 1)]).flag KPR_SB_CMD_STATUS_BUSY = true ∧ up.flag KPR_SB_CMD_STATUS_BUSY = false) ∧
    (let s : State := { up with aon := { up.aon with sbRun := some 3 } }; s.aon.sbRun = some 3 ∧ s.boot ≠ .off ∧ s.boot ≠ .resetting) ∧
    (up.flag PWR_STATUS_A3 = false ∧ (set [(PWR_STATUS_A3, 1)]).flag PWR_STATUS_A3 = true) ∧
    (up.pins.pwrReq = false ∧ ({ up with pins := { up.pins with pwrReq := true } } : State).pins.pwrReq = true) ∧
    (loaded.anyLoaded = true ∧ up.anyLoaded = false ∧ up.loads = []) ∧
    (bitAt ((keyed []).fld BIT_KEYS_PRESENT) 1 = true ∧ bitAt ((keyed []).fld BIT_KEYS_REVOKED) 1 = false ∧ bitAt ((keyed []).fld BIT_KEYS_PRESENT) 2 = false) ∧
    (up.aon.fwNewest < 2 ∧ up.aon.fwStage = none ∧ ({ up with aon := { up.aon with fwStage := some 1 } } : State).aon.fwStage = some 1) := by decide +kernel

theorem wit_I3cTargetAnswersItsCodes :
    State.reset.boot = .off ∧ up.boot ≠ .off ∧ up.i3cAddr = 0 ∧ ({ up with i3cAddr := 9 } : State).i3cAddr ≠ 0 ∧
    (let s : State := { set [(⟨KPR_SB_ALERT, 0, 32⟩, 0)] with ibiEn := true }; s.reg KPR_SB_ALERT = 0 ∧ s.ibiEn = true) ∧ (set [(⟨KPR_SB_ALERT, 1, 1⟩, 1)]).reg KPR_SB_ALERT ≠ 0 := by
  decide +kernel

theorem wit_SaturationIsReportedOnce :
    (gcntIsTime 0x260 = false ∧ storeGet 0 ({ up with cnt := [(gcntKey 0x260, 2 ^ 48 - 1)] } : State).cnt (gcntKey 0x260) = 2 ^ 48 - 1 ∧
      storeGet 0 ({ up with cnt := [(gcntKey 0x260, 2 ^ 48 - 2)] } : State).cnt (gcntKey 0x260) < 2 ^ 48 - 1) ∧
    (cntIsTime 0x40 = false ∧ storeGet 0 ({ up with cnt := [(cntKey 3 0x40, 2 ^ 48 - 1)] } : State).cnt (cntKey 3 0x40) = 2 ^ 48 - 1) ∧
    (∃ n < 1024, gcntIsTime n = true) ∧ (∃ n < 1024, cntIsTime n = true) ∧
    (DBG_GCNT_LO 0x260 < 2 ^ 32 ∧ up.recDrops.1 = 0 ∧ up.staged.length < 255 ∧ up.lastRec = none) := by
  refine ⟨by decide +kernel, by decide +kernel, ?_, ?_, by decide +kernel⟩ <;> decide +kernel

/-! ## The manual's worked examples, and published test vectors of the algorithms it names -/

-- CRC-32C and CRC-16 of R259 and R485 over the nine digits of their usual check value
theorem test_crc_check_values : crc32c [0x31, 0x32, 0x33, 0x34, 0x35, 0x36, 0x37, 0x38, 0x39] = 0xE3069283 ∧
    crc16 [0x31, 0x32, 0x33, 0x34, 0x35, 0x36, 0x37, 0x38, 0x39] = 0x29B1 := by decide +kernel
-- FIPS 180-4, SHA-512 of the three bytes abc
theorem test_sha512_abc : (sha512 [97, 98, 99]).take 4 = [0xDD, 0xAF, 0x35, 0xA1] := by decide +kernel
-- RFC 8032, section 7.1, vector 1
theorem test_ed25519_vector1 : ed25519 keyRfc [] (leBytes 64
    0xe5564300c360ac729086e2cc806e828a84877f1eb8e5d974d873e065224901555fb8821590a33bacc61e39701cf9b46bd25bf5f0595bbe24655141438e7a100b).reverse = true := by
  decide +kernel
-- chapter 03, "Worked examples": order independence, truncation, range fault
theorem test_es96_order : let x := es96In 0 (.fin false 16777216 0); let y := es96In 0 (.fin false 1 0); let z := es96In 0 (.fin true 16777216 0);
    es96Add (es96Add x y) z = ⟨1, 3, false⟩ ∧ es96Add x (es96Add y z) = ⟨1, 3, false⟩ ∧
    es96Code (es96Add (es96Add z x) y) = 0x00000003000000000000000000000001 ∧ rne32 (es96Val 0 (es96Add (es96Add x y) z)) = 0x3F800000 ∧
    f32Add (f32Add 0x4B800000 0x3F800000) 0xCB800000 = 0 ∧ f32Add 0x4B800000 (f32Add 0x3F800000 0xCB800000) = 0x3F800000 := by decide +kernel
theorem test_es96_truncates : es96In (-20) (.fin false 3 (-22)) = ⟨0, 1, false⟩ := by decide +kernel
theorem test_es96_range : es96In 0 (.fin false 3 71) = ⟨2 ^ 71 - 1, 1, true⟩ ∧ wNeed 3 71 = 2 := by decide +kernel
-- chapter 07, "Where an address lands"
theorem test_address_lands : (set [(CAM_HOST_W8_STATE_BASE 5 3, 0x02000000), (CAM_HOST_W9_STATE_LEN 5 3, 0x2000),
      (MEM_REGION_LEN_LEN 5 0, 0x8000000), (MEM_REGION_KIND_KIND 5 0, 2)]).locate 5 3 0x40001234 = .at (hbmDatum 5 0x02001234) ∧ unitPc 0x02001234 = 47 ∧ stackUnit 5 47 = 0x952F ∧ hbmDatum 0 0x02001234 * 64 = 0x80048D00 := by decide +kernel
-- chapter 09, Table 9.14
theorem test_packet_header : (List.range 8).map (fun i => bits (Hdr.body ⟨4, 0, 0, 0x1A2C, 0x1A2B, 0x123, 7, 0x40, 5, 8, 12, 3, 0, 0x200, 2, 0x215, 0x100, 2⟩) (32 * i) 32) =
    [0xB01A2C04, 0x012301A2, 0x00400007, 0x0C800500, 0x00000300, 0x02150A00, 0x00010000, 0x0200] := by decide +kernel
-- chapter 11, "Worked figure" of the set interval
theorem test_set_interval : intervalN 40000 42480 4000000 = 15 := by decide +kernel
-- chapter 19, "A slip as traced"
theorem test_slip_traced : leBytes 16 (syncRec ⟨true, 0x120, 3, 0, 5, 0, 0x21A2B, 100⟩ 0x12347C269A) =
    [0x03, 0x9A, 0x26, 0x7C, 0x34, 0x12, 0x03, 0x48, 0x00, 0x40, 0x01, 0xAC, 0x68, 0x08, 0x90, 0x01] := by decide +kernel

end Sys2Proof.Tests
end

/-! SUPPORT. The vector engines: what each operation writes and leaves alone, element by element, and the registers at the start
of a group. -/
namespace Sys2Proof.Machine

/-! ## Lists in range form -/

section Lists
variable {α β : Type}

theorem getD_map_range (d : α) (f : Nat → α) {n i : Nat} (h : i < n) : ((List.range n).map f).getD i d = f i := by
  simp [List.getD, h]

/-- A list is its elements in order. -/
theorem eq_map_range_getD (d : α) {l : List α} {n : Nat} (h : l.length = n) : l = (List.range n).map (fun i => l.getD i d) := by
  subst h
  refine List.ext_getElem (by simp) fun i h1 _ => ?_
  simp [List.getD, h1]

theorem zipWith_map_range {γ : Type} (h : α → β → γ) (f : Nat → α) (g : Nat → β) (n : Nat) :
    List.zipWith h ((List.range n).map f) ((List.range n).map g) = (List.range n).map (fun i => h (f i) (g i)) := by
  rw [List.zipWith_map, List.zipWith_self]

theorem zip_map_range (f : Nat → α) (g : Nat → β) (n : Nat) :
    ((List.range n).map f).zip ((List.range n).map g) = (List.range n).map (fun i => (f i, g i)) := by
  rw [List.zip, zipWith_map_range]

theorem replicate_eq_map_range (n : Nat) (x : α) : List.replicate n x = (List.range n).map (fun _ => x) := by
  rw [List.map_const', List.length_range]

theorem zipIdx_map_range (f : Nat → α) (n : Nat) : ((List.range n).map f).zipIdx = (List.range n).map (fun i => (f i, i)) := by
  refine List.ext_getElem (by simp) fun i _ _ => ?_
  simp

/-- Rows of equal length one after the other. -/
theorem flatMap_range {m n k : Nat} (f : Nat → Nat → α) (hn : 0 < n) (hk : m * n = k) :
    (List.range m).flatMap (fun i => (List.range n).map (f i)) = (List.range k).map (fun i => f (i / n) (i % n)) := by
  subst hk
  induction m with
  | zero => simp
  | succ m ih =>
    rw [List.range_succ, List.flatMap_append, ih, Nat.succ_mul, List.range_add, List.map_append, List.flatMap_singleton,
      List.map_map]
    congr 1
    refine List.map_congr_left fun j hj => ?_
    have hj : j < n := List.mem_range.mp hj
    simp [Nat.mul_comm m n, Nat.mul_add_div hn, Nat.div_eq_of_lt hj, Nat.mod_eq_of_lt hj]

theorem mk_map_range {m n : Nat} {f f' : Nat → α} {g g' : Nat → β} (hf : ∀ i, i < m → f i = f' i)
    (hg : ∀ i, i < n → g i = g' i) :
    ((List.range m).map f, (List.range n).map g) = ((List.range m).map f', (List.range n).map g') :=
  Prod.ext (List.map_congr_left fun i hi => hf i (List.mem_range.mp hi)) (List.map_congr_left fun i hi => hg i (List.mem_range.mp hi))

theorem tileRow_map_range (f : Nat → α) {w n i : Nat} (h : w * i + w ≤ n) :
    tileRow w ((List.range n).map f) i = (List.range w).map (fun j => f (w * i + j)) := by
  refine List.ext_getElem (by simp [tileRow]; omega) fun j _ _ => ?_
  simp [tileRow]

theorem getD_zipWith {γ : Type} (f : α → β → γ) (dx : α) (dy : β) (dz : γ) {x : List α} {y : List β} {i : Nat}
    (hx : i < x.length) (hy : i < y.length) : (List.zipWith f x y).getD i dz = f (x.getD i dx) (y.getD i dy) := by
  have hz : i < (List.zipWith f x y).length := by rw [List.length_zipWith]; omega
  rw [← List.getElem_eq_getD (h := hz) dz, ← List.getElem_eq_getD (h := hx) dx, ← List.getElem_eq_getD (h := hy) dy,
    List.getElem_zipWith]

/-- Beyond or within a list of defaults, the default is read. -/
theorem getD_replicate_default (d : α) (n i : Nat) : (List.replicate n d).getD i d = d := by
  rw [List.getD, List.getElem?_replicate]
  split <;> rfl

end Lists

/-! ## Registers of an engine, element by element -/

section Registers
variable {s : State}

theorem State.vt_eq (h : s.Inv) (p e t : Nat) : s.vt p e t = (List.range 16384).map (fun i => storeGet 0 s.vx (vtKey p e t + i)) := by
  refine (eq_map_range_getD 0 (storeList_length ..)).trans (List.map_congr_left fun i hi => ?_)
  exact storeList_getD 0 _ _ i h.vx (List.mem_range.mp hi)

theorem State.vtp_eq (h : s.Inv) (p e t : Nat) :
    s.vtp p e t = (List.range 1024).map (fun q => storeGet false s.vxPsn (vtpKey p e t + q)) := by
  refine (eq_map_range_getD false (storeList_length ..)).trans (List.map_congr_left fun i hi => ?_)
  exact storeList_getD false _ _ i h.vxPsn (List.mem_range.mp hi)

theorem State.vv_eq (h : s.Inv) (p e v : Nat) : s.vv p e v = (List.range 128).map (fun i => storeGet 0 s.vx (vvKey p e v + i)) := by
  refine (eq_map_range_getD 0 (storeList_length ..)).trans (List.map_congr_left fun i hi => ?_)
  exact storeList_getD 0 _ _ i h.vx (List.mem_range.mp hi)

theorem State.vvp_eq (h : s.Inv) (p e v : Nat) :
    s.vvp p e v = (List.range 128).map (fun i => storeGet false s.vxPsn (vvpKey p e v + i)) := by
  refine (eq_map_range_getD false (storeList_length ..)).trans (List.map_congr_left fun i hi => ?_)
  exact storeList_getD false _ _ i h.vxPsn (List.mem_range.mp hi)

/-- A tile-form operand, element by element (R130, R143). -/
theorem State.vxTileOperand_eq (h : s.Inv) (p e : Nat) (g : VxEng) (kind r : Nat) :
    s.vxTileOperand p e g.slots g.filled kind r =
      ((List.range 16384).map (s.tileArg p e g kind r), (List.range 1024).map (s.tileArgPsn p e g kind r)) := by
  match kind with
  | 0 =>
    by_cases hf : g.filled r
    · simp only [vxTileOperand, hf, if_true, State.vt_eq h, State.vtp_eq h]
      exact mk_map_range (fun i _ => by simp [tileArg, hf]) (fun q _ => by simp [tileArgPsn, hf])
    · simp only [vxTileOperand, hf, Bool.false_eq_true, if_false, replicate_eq_map_range]
      exact mk_map_range (fun i _ => by simp [tileArg, hf]) (fun q _ => by simp [tileArgPsn, hf])
  | 1 =>
    have row : ∀ k, k < 8 → (tileRow 16 (s.vvp p e r) k).any id =
        (List.range 16).any (fun j => storeGet false s.vxPsn (vvpKey p e r + (16 * k + j))) := fun k hk => by
      rw [State.vvp_eq h, tileRow_map_range _ (by omega), List.any_map]
      rfl
    have hrow := List.map_congr_left (l := List.range 8) fun k hk => row k (List.mem_range.mp hk)
    simp only [vxTileOperand, hrow, State.vv_eq h, flatMap_range (m := 128) (n := 128) (k := 16384) _ (by omega) (by omega),
      flatMap_range (m := 128) (n := 8) (k := 1024) _ (by omega) (by omega)]
    exact mk_map_range (fun _ _ => rfl) (fun _ _ => rfl)
  | 2 =>
    simp only [vxTileOperand, State.vv_eq h, State.vvp_eq h, List.flatMap_map, replicate_eq_map_range,
      flatMap_range (m := 128) (n := 128) (k := 16384) _ (by omega) (by omega),
      flatMap_range (m := 128) (n := 8) (k := 1024) _ (by omega) (by omega)]
    exact mk_map_range (fun _ _ => rfl) (fun _ _ => rfl)
  | k + 3 =>
    simp only [vxTileOperand, replicate_eq_map_range]
    exact mk_map_range (fun _ _ => rfl) (fun _ _ => rfl)

/-- A vector-form operand, element by element. -/
theorem State.vxVecOperand_eq (h : s.Inv) (p e : Nat) (g : VxEng) (kind r : Nat) :
    s.vxVecOperand p e g.slots kind r =
      ((List.range 128).map (s.vecArg p e g kind r), (List.range 128).map (s.vecArgPsn p e g kind r)) := by
  unfold vxVecOperand vecArg vecArgPsn
  split
  · exact Prod.ext (replicate_eq_map_range ..) (replicate_eq_map_range ..)
  · exact Prod.ext (State.vv_eq h ..) (State.vvp_eq h ..)

end Registers

/-! ## What an operation on an engine leaves alone -/

section Frames
variable {s t : State} {P : Nat → Prop}

theorem State.OnlyRegs.refl (s : State) (P : Nat → Prop) : s.OnlyRegs s P := ⟨rfl, .refl s P⟩

theorem State.OnlyRegs.setFld (h : s.OnlyRegs t P) {f : Fld} (v : Nat) (hp : P f.addr) : s.OnlyRegs (t.setFld f v) P :=
  ⟨(State.bare_setFld ..).trans h.1, h.2.setFld v hp⟩

theorem State.OnlyRegs.flagN (h : s.OnlyRegs t P) {f : Fld} (p n k : Nat) (hp : P f.addr) : s.OnlyRegs (t.flagN f p n k) P := by
  unfold State.flagN
  split
  · exact h
  · exact ⟨(State.bare_count ..).trans ((State.bare_setFld ..).trans h.1), (h.2.setFld _ hp).count _ _ _⟩

/-- Conversion events write the one flag register (R134). -/
theorem State.only_cvtFlags (s : State) (p : Nat) (f : CvtN) :
    s.OnlyRegs (s.cvtFlags p f) (fun k => k = (VXE_CVT_FLAGS_OVERFLOW p).addr) := by
  have h := State.OnlyRegs.refl s (fun k => k = (VXE_CVT_FLAGS_OVERFLOW p).addr)
  have h1 := h.flagN (f := VXE_CVT_FLAGS_OVERFLOW p) p 0x110 f.ovf rfl
  have h2 := h1.flagN (f := VXE_CVT_FLAGS_BLOCK_INVALID p) p 0x111 f.blk rfl
  exact h2.flagN (f := VXE_CVT_FLAGS_INT_INVALID p) p 0x112 f.int rfl

/-- An overflow sets its flag and may fill the first capture (R144). -/
theorem State.only_vxOvf (s : State) (p e : Nat) (g : VxEng) (n : Nat) (any : Bool) :
    s.OnlyRegs (s.vxOvf p e g n any) (fun k => k ∈ [VXE_STATUS p, VXE_CAP0 p, VXE_CAP1 p]) := by
  have hs : VXE_STATUS p ∈ [VXE_STATUS p, VXE_CAP0 p, VXE_CAP1 p] := by simp
  have h0 : VXE_CAP0 p ∈ [VXE_STATUS p, VXE_CAP0 p, VXE_CAP1 p] := by simp
  have h1 : VXE_CAP1 p ∈ [VXE_STATUS p, VXE_CAP0 p, VXE_CAP1 p] := by simp
  unfold State.vxOvf State.vxCapture
  split
  · have hf := (State.OnlyRegs.refl s (fun k => k ∈ [VXE_STATUS p, VXE_CAP0 p, VXE_CAP1 p])).flagN
      (f := VXE_STATUS_FP_OVERFLOW p) p 0x121 1 hs
    split
    · exact hf
    · exact (((((hf.setFld _ h0).setFld _ h0).setFld _ h0).setFld _ h0).setFld _ h1).setFld _ h1
  · exact .refl s _

theorem State.OnlyRegs.vxEng (h : s.OnlyRegs t P) : t.vxEng = s.vxEng := State.vxEng_of_bare h.1

theorem storeGet_setList_take {α : Type} [DecidableEq α] (d : α) (l : Store α) {b n k : Nat} (vs : List α)
    (h : ¬(b ≤ k ∧ k < b + n)) : storeGet d (storeSetList d l b (vs.take n)) k = storeGet d l k := by
  rw [storeGet_setList, if_neg]
  have := List.length_take_le n vs
  omega

/-- A register of an engine written over a state that differs in registers of the map only. -/
theorem State.OnlyRegs.setStores (h : s.OnlyRegs t P) (b n c m : Nat) (d : List Nat) (q : List Bool) :
    s.OnlyVx { t with vx := storeSetList 0 t.vx b (d.take n), vxPsn := storeSetList false t.vxPsn c (q.take m) } b n c m P := by
  have hv := State.vx_of_bare h.1
  have hq := State.vxPsn_of_bare h.1
  refine ⟨?_, h.2.of_regs rfl, fun k hk => ?_, fun k hk => ?_⟩
  · rw [← h.1]; rfl
  · exact (storeGet_setList_take 0 t.vx d hk).trans (by rw [hv])
  · exact (storeGet_setList_take false t.vxPsn q hk).trans (by rw [hq])

theorem State.OnlyRegs.setVt (h : s.OnlyRegs t P) (p e r : Nat) (d : List Nat) (q : List Bool) :
    s.OnlyVx (t.setVt p e r d q) (vtKey p e r) 16384 (vtpKey p e r) 1024 P := h.setStores ..

theorem State.OnlyRegs.setVv (h : s.OnlyRegs t P) (p e r : Nat) (d : List Nat) (q : List Bool) :
    s.OnlyVx (t.setVv p e r d q) (vvKey p e r) 128 (vvpKey p e r) 128 P := h.setStores ..

/-- A state that differs in registers only is one in which no key of a vector engine changed. -/
theorem State.OnlyRegs.onlyVx (h : s.OnlyRegs t P) (b n c m : Nat) : s.OnlyVx t b n c m P := by
  refine ⟨?_, h.2, fun k _ => by rw [State.vx_of_bare h.1], fun k _ => by rw [State.vxPsn_of_bare h.1]⟩
  rw [h.1, State.vx_of_bare h.1, State.vxPsn_of_bare h.1]
  rfl

/-- A result for a tile register: written where the register holds a tile, else discarded (R127). -/
theorem State.OnlyRegs.putVt (h : s.OnlyRegs t P) (p e : Nat) (g : VxEng) (r : Nat) (d : List Nat) (q : List Bool) :
    s.OnlyVx (t.putVt p e g r d q) (vtKey p e r) (if g.filled r then 16384 else 0) (vtpKey p e r)
      (if g.filled r then 1024 else 0) P := by
  unfold State.putVt
  split
  · exact h.setVt ..
  · exact h.onlyVx ..

end Frames

/-! ## What a written register holds -/

section Written
variable (s : State) (p e r : Nat) (d : List Nat) (q : List Bool)

theorem storeGet_setList_at {α : Type} [DecidableEq α] (d : α) (l : Store α) (b : Nat) {n i : Nat} {vs : List α}
    (hn : vs.length = n) (h : i < n) : storeGet d (storeSetList d l b (vs.take n)) (b + i) = vs.getD i d := by
  subst hn
  rw [List.take_length, storeGet_setList, if_pos (by omega), Nat.add_sub_cancel_left]

theorem State.vx_setVt {d : List Nat} (hd : d.length = 16384) {i : Nat} (h : i < 16384) :
    storeGet 0 (s.setVt p e r d q).vx (vtKey p e r + i) = d.getD i 0 := storeGet_setList_at 0 _ _ hd h

theorem State.vxPsn_setVt {q : List Bool} (hq : q.length = 1024) {i : Nat} (h : i < 1024) :
    storeGet false (s.setVt p e r d q).vxPsn (vtpKey p e r + i) = q.getD i false := storeGet_setList_at false _ _ hq h

theorem State.vx_setVv {d : List Nat} (hd : d.length = 128) {i : Nat} (h : i < 128) :
    storeGet 0 (s.setVv p e r d q).vx (vvKey p e r + i) = d.getD i 0 := storeGet_setList_at 0 _ _ hd h

theorem State.vxPsn_setVv {q : List Bool} (hq : q.length = 128) {i : Nat} (h : i < 128) :
    storeGet false (s.setVv p e r d q).vxPsn (vvpKey p e r + i) = q.getD i false := storeGet_setList_at false _ _ hq h

theorem State.vx_setVt_map (f : Nat → Nat) {i : Nat} (h : i < 16384) :
    storeGet 0 (s.setVt p e r ((List.range 16384).map f) q).vx (vtKey p e r + i) = f i :=
  (s.vx_setVt p e r q (by simp) h).trans (getD_map_range _ _ h)

theorem State.vxPsn_setVt_map (f : Nat → Bool) {i : Nat} (h : i < 1024) :
    storeGet false (s.setVt p e r d ((List.range 1024).map f)).vxPsn (vtpKey p e r + i) = f i :=
  (s.vxPsn_setVt p e r d (by simp) h).trans (getD_map_range _ _ h)

theorem State.vx_setVv_map (f : Nat → Nat) {i : Nat} (h : i < 128) :
    storeGet 0 (s.setVv p e r ((List.range 128).map f) q).vx (vvKey p e r + i) = f i :=
  (s.vx_setVv p e r q (by simp) h).trans (getD_map_range _ _ h)

theorem State.vxPsn_setVv_map (f : Nat → Bool) {i : Nat} (h : i < 128) :
    storeGet false (s.setVv p e r d ((List.range 128).map f)).vxPsn (vvpKey p e r + i) = f i :=
  (s.vxPsn_setVv p e r d (by simp) h).trans (getD_map_range _ _ h)

end Written

/-! ## Loops -/

theorem forRange_succ (n : Nat) (f : Nat → State → State) (s : State) : forRange (n + 1) f s = f n (forRange n f s) := by
  simp [forRange, List.range_succ]

/-- Two loops agree whose steps agree on the states that the first one meets. -/
theorem forRange_congr {I : State → Prop} {n : Nat} {f f' : Nat → State → State} {s : State} (h0 : I s)
    (hs : ∀ i t, i < n → I t → f i t = f' i t ∧ I (f i t)) : forRange n f s = forRange n f' s := by
  refine (forRange_ind (I := fun i t => I t ∧ t = forRange i f' s) ⟨h0, rfl⟩ fun i t hi ⟨ht, e⟩ => ?_).2
  obtain ⟨h1, h2⟩ := hs i t hi ht
  exact ⟨h2, by rw [forRange_succ, ← e, h1]⟩

/-! ## Rows of single operations -/

/-- A row of the opcode table that runs one operation of Table 5.4, of a class of operation codes. -/
structure VxRow (cls : Nat → Bool) (x : Nat × (Nat → Nat → Nat → Nat → Instr)) : Prop where
  exec_eq : ∀ p e n w s, exec (x.2 p e n w) s = .next (s.vxRow p e n x.1 w)
  lt : x.1 < 64
  cls : cls x.1 = true

theorem forall_of_rows {cls : Nat → Bool} {L : List (Nat × (Nat → Nat → Nat → Nat → Instr))}
    {Q : Nat × (Nat → Nat → Nat → Nat → Instr) → Prop} (hL : ∀ x ∈ L, VxRow cls x) (h : ∀ x, VxRow cls x → Q x) :
    ∀ x ∈ L, Q x := fun x hx => h x (hL x hx)

theorem bits_vopWord {opc : Nat} (h : opc < 64) (w : Nat) : bits (vopWord opc w) 0 6 = opc := by
  simp only [bits, vopWord, Nat.shiftRight_zero]
  omega

/-- On an engine without a group, or for a word that no program holds, a row does nothing (R123). -/
theorem State.vxRow_idle {s : State} {p e opc w : Nat}
    (h : storeGet none s.vxEng (2 * p + e) = none ∨ vopBad (vopWord opc w) = true) (n : Nat) : s.vxRow p e n opc w = s := by
  unfold State.vxRow
  split
  · rfl
  · next hg => rcases h with h | h <;> simp_all

theorem State.vxRow_runs {s : State} {p e opc w : Nat} {g : VxEng} (hg : storeGet none s.vxEng (2 * p + e) = some g)
    (hv : vopBad (vopWord opc w) = false) (n : Nat) : s.vxRow p e n opc w = s.vxOp p e g (vopWord opc w) n := by
  simp [State.vxRow, hg, hv]

/-- Operation codes of element-wise and special-function operations. -/
def vopElem (opc : Nat) : Bool := opc ≤ 0x0B || (0x10 ≤ opc && opc ≤ 0x19)
/-- Those that work on each element alone: all but CMASK and CVT. -/
def vopPlain (opc : Nat) : Bool := opc ≤ 9 || (0x10 ≤ opc && opc ≤ 0x19)

section Dispatch
variable {s : State} {p e n w : Nat} {g : VxEng}

theorem State.vxOp_vec (h : vopElem (bits w 0 6) = true) (hd : bitAt w 8 = true) :
    s.vxOp p e g w n = s.vxElemVec p e g w n := by
  simp only [vopElem] at h
  simp only [vxOp, h, hd, if_true]

theorem State.vxOp_tile (h : vopElem (bits w 0 6) = true) (ha : bitAt w 7 = false) (hd : bitAt w 8 = false) :
    s.vxOp p e g w n = s.vxElemTile p e g w n (bits w 10 2) (bits w 12 2) := by
  simp only [vopElem] at h
  simp [vxOp, h, hd, ha, vxSources]

theorem State.vxOp_all (h : vopElem (bits w 0 6) = true) (ha : bitAt w 7 = true) (hd : bitAt w 8 = false) :
    s.vxOp p e g w n = forRange g.pos.length (fun r t => t.vxElemTile p e g w n r r) s := by
  simp only [vopElem] at h
  simp [vxOp, h, hd, ha, vxSources, forRange]

theorem State.vxOp_reduce (h : 0x20 ≤ bits w 0 6 ∧ bits w 0 6 ≤ 0x23) : s.vxOp p e g w n = s.vxReduce p e g w n := by
  have h1 : (decide (bits w 0 6 ≤ 0x0B) || (decide (0x10 ≤ bits w 0 6) && decide (bits w 0 6 ≤ 0x19))) = false := by
    simp; omega
  simp only [vxOp, h1, Bool.false_eq_true, if_false, h.1, h.2, decide_true, Bool.and_true, if_true]

theorem State.vxOp_vecReduce (h : bits w 0 6 = 0x24 ∨ bits w 0 6 = 0x25) : s.vxOp p e g w n = s.vxVecReduce p e g w n := by
  rcases h with h | h <;> simp [vxOp, h]

theorem State.vxOp_ldv (h : bits w 0 6 = 0x30) : s.vxOp p e g w n = s.vxLdv p e g w := by simp [vxOp, h]
theorem State.vxOp_stv (h : bits w 0 6 = 0x31) : s.vxOp p e g w n = s.vxStv p e g w := by simp [vxOp, h]
theorem State.vxOp_sput (h : bits w 0 6 = 0x32) : s.vxOp p e g w n = s.vxSput p e g w := by simp [vxOp, h]

end Dispatch

/-! ## Elements of an operation on operands in range form -/

theorem vopElem_of_plain {opc : Nat} (h : vopPlain opc = true) : vopElem opc = true := by
  simp only [vopPlain, vopElem, Bool.or_eq_true, Bool.and_eq_true, decide_eq_true_eq] at *
  omega

/-- An operation that does not use B has the same result for every B. -/
theorem vxElem_unused_b {opc : Nat} (h : vxUsesB opc = false) (prec : Bool) (a b b' c : Nat) :
    vxElem opc prec a b c = vxElem opc prec a b' c := by
  unfold vxElem
  split
  · rfl
  · split <;> simp_all [vxUsesB]

/-- An operation that does not use C has the same result for every C. -/
theorem vxElem_unused_c {opc : Nat} (h : vxUsesC opc = false) (prec : Bool) (a b c c' : Nat) :
    vxElem opc prec a b c = vxElem opc prec a b c' := by
  unfold vxElem
  split
  · rfl
  · split <;> simp_all [vxUsesC]

theorem vxMap_map_range (opc : Nat) (prec : Bool) (a b c : Nat → Nat) (n : Nat) :
    vxMap opc prec ((List.range n).map a) ((List.range n).map b) ((List.range n).map c) =
      (List.range n).map (fun i => vxElem opc prec (a i) (b i) (c i)) := by
  rw [vxMap, zip_map_range, zipWith_map_range]

theorem orList_map_range (a b : Nat → Bool) (n : Nat) :
    orList ((List.range n).map a) ((List.range n).map b) = (List.range n).map (fun i => a i || b i) := zipWith_map_range ..

/-- The element of a plain operation, where B and C stand for zero when they are not used. -/
theorem vxElem_operands (opc : Nat) (prec : Bool) (a b c : Nat) :
    vxElem opc prec (vxOperand prec a) (vxOperand prec (if vxUsesB opc then b else 0))
      (vxOperand prec (if vxUsesC opc then c else 0)) =
    vxElem opc prec (vxOperand prec a) (vxOperand prec b) (vxOperand prec c) := by
  have hb (x : Nat) : vxElem opc prec (vxOperand prec a) (vxOperand prec (if vxUsesB opc then b else 0)) x =
      vxElem opc prec (vxOperand prec a) (vxOperand prec b) x := by
    by_cases h : vxUsesB opc
    · rw [if_pos h]
    · exact vxElem_unused_b (by simpa using h) ..
  rw [hb]
  by_cases h : vxUsesC opc
  · rw [if_pos h]
  · exact vxElem_unused_c (by simpa using h) ..

/-- An operand in range form that stands for zero, unpoisoned, where it is not used. -/
theorem operand_if (u : Bool) (n m : Nat) (f : Nat → Nat) (q : Nat → Bool) :
    (if u then ((List.range n).map f, (List.range m).map q) else (List.replicate n 0, List.replicate m false)) =
      ((List.range n).map (fun i => if u then f i else 0), (List.range m).map (fun i => u && q i)) := by
  cases u
  · exact Prod.ext (replicate_eq_map_range ..) (replicate_eq_map_range ..)
  · rfl

section Plain
variable {s : State} {p e w n : Nat} {g : VxEng} {opc : Nat}

/-- A plain operation on tiles, element by element and datum by datum. -/
theorem State.vxElemTile_plain (h : s.Inv) (ho : bits w 0 6 = opc) (hp : vopPlain opc = true) (dst src : Nat) :
    ∃ any, s.vxElemTile p e g w n dst src = (s.vxOvf p e g n any).putVt p e g dst
      ((List.range 16384).map (fun i => vxElem opc (bitAt w 6) (vxOperand (bitAt w 6) (s.tileArg p e g 0 src i))
        (vxOperand (bitAt w 6) (s.tileArg p e g (bits w 16 2) (bits w 14 2) i))
        (vxOperand (bitAt w 6) (s.tileArg p e g (bits w 20 2) (bits w 18 2) i))))
      ((List.range 1024).map (fun q => s.tileArgPsn p e g 0 src q ||
        (vxUsesB opc && s.tileArgPsn p e g (bits w 16 2) (bits w 14 2) q) ||
        (vxUsesC opc && s.tileArgPsn p e g (bits w 20 2) (bits w 18 2) q))) := by
  have hb : opc ≠ 0x0B := by rintro rfl; exact absurd hp (by decide)
  have ha : opc ≠ 0x0A := by rintro rfl; exact absurd hp (by decide)
  simp only [vxElemTile, ho, hb, ha, if_false, State.vxTileOperand_eq h, operand_if, List.map_map, vxMap_map_range,
    orList_map_range, Function.comp_def, vxElem_operands, ← Bool.or_assoc]
  exact ⟨_, rfl⟩

/-- A plain operation in vector form, element by element. -/
theorem State.vxElemVec_plain (h : s.Inv) (ho : bits w 0 6 = opc) (hp : vopPlain opc = true) :
    ∃ any, s.vxElemVec p e g w n = (s.vxOvf p e g n any).setVv p e (bits w 10 2)
      ((List.range 128).map (fun i => vxElem opc (bitAt w 6) (vxOperand (bitAt w 6) (s.vecArg p e g 1 (bits w 12 2) i))
        (vxOperand (bitAt w 6) (s.vecArg p e g (bits w 16 2) (bits w 14 2) i))
        (vxOperand (bitAt w 6) (s.vecArg p e g (bits w 20 2) (bits w 18 2) i))))
      ((List.range 128).map (fun q => s.vecArgPsn p e g 1 (bits w 12 2) q ||
        (vxUsesB opc && s.vecArgPsn p e g (bits w 16 2) (bits w 14 2) q) ||
        (vxUsesC opc && s.vecArgPsn p e g (bits w 20 2) (bits w 18 2) q))) := by
  have hb : opc ≠ 0x0B := by rintro rfl; exact absurd hp (by decide)
  simp only [vxElemVec, ho, hb, if_false, State.vxVecOperand_eq h, operand_if, State.vv_eq h, State.vvp_eq h, List.map_map,
    vxMap_map_range, orList_map_range, Function.comp_def, vxElem_operands, ← Bool.or_assoc]
  exact ⟨_, rfl⟩

end Plain

/-- Settles O24: a plain operation is one `putVt` or `setVv` of its element function over operands in range form. -/
theorem elementwiseOperations : Obligations.ElementwiseOperations := by
  unfold Obligations.ElementwiseOperations
  refine forall_of_rows (cls := vopPlain) ?_ ?_
  · repeat' refine List.forall_mem_cons.mpr ⟨⟨fun _ _ _ _ _ => rfl, by decide, by decide⟩, ?_⟩
    exact List.forall_mem_nil _
  intro x hx s p e n w g _ _ hi hg v prec d a b bk c ck noted hv
  refine ⟨?_, ?_⟩
  · intro hall hdv
    have ho : bits v 0 6 = x.1 := bits_vopWord hx.lt w
    have he : vopElem (bits v 0 6) = true := ho ▸ vopElem_of_plain hx.cls
    obtain ⟨any, h⟩ := State.vxElemTile_plain (p := p) (e := e) (n := n) (g := g) hi ho hx.cls d a
    rw [hx.exec_eq, State.vxRow_runs hg hv, State.vxOp_tile he hall hdv, h]
    refine answers_next ⟨(State.only_vxOvf ..).putVt .., fun hf => ?_⟩
    rw [State.putVt, if_pos hf]
    exact ⟨fun i hi => State.vx_setVt_map _ _ _ _ _ _ hi,
      fun q hq => State.vxPsn_setVt_map _ _ _ _ _ _ hq⟩
  · intro hdv
    have ho : bits v 0 6 = x.1 := bits_vopWord hx.lt w
    have he : vopElem (bits v 0 6) = true := ho ▸ vopElem_of_plain hx.cls
    obtain ⟨any, h⟩ := State.vxElemVec_plain (p := p) (e := e) (n := n) (g := g) hi ho hx.cls
    rw [hx.exec_eq, State.vxRow_runs hg hv, State.vxOp_vec he hdv, h]
    exact answers_next ⟨(State.only_vxOvf ..).setVv .., fun i hi =>
      ⟨State.vx_setVv_map _ _ _ _ _ _ hi,
        State.vxPsn_setVv_map _ _ _ _ _ _ hi⟩⟩

/-! ## CMASK -/

/-- What CMASK gives element (`i`, `j`) of the tile at row index `mt` and column index `nt` (R133). -/
def cmaskElem (mt nt : Nat) (off : Int) (i j x : Nat) : Nat :=
  if ((128 * nt + j : Nat) : Int) ≤ ((128 * mt + i : Nat) : Int) + off then x else 0xFF800000

section Cmask
variable {s : State} {p e w n : Nat} {g : VxEng}

theorem State.vxElemTile_cmask (h : s.Inv) (ho : bits w 0 6 = 0x0A) (dst src : Nat) :
    s.vxElemTile p e g w n dst src = s.putVt p e g dst
      ((List.range 16384).map (fun i => cmaskElem (g.pos.getD src (0, 0)).1 (g.pos.getD src (0, 0)).2
        (signedOf (g.slots.getD (bits w 14 2) (0, false)).1 32) (i / 128) (i % 128) (s.tileArg p e g 0 src i)))
      ((List.range 1024).map (fun q => s.tileArgPsn p e g 0 src q || (g.slots.getD (bits w 14 2) (0, false)).2)) := by
  have hb : (0x0A : Nat) ≠ 0x0B := by decide
  simp only [vxElemTile, ho, hb, if_false, if_true, State.vxTileOperand_eq h, zipIdx_map_range, List.map_map, Function.comp_def,
    cmaskElem, decide_eq_true_eq]

end Cmask

/-- CMASK is in no vector form (Table 5.4). -/
theorem cmask_tile_form {w : Nat} (ho : bits w 0 6 = 0x0A) (h : vopBad w = false) : bitAt w 8 = false := by
  cases hd : bitAt w 8
  · rfl
  · simp [vopBad, ho, hd] at h

/-! ## CVT -/

theorem vxCvtBlock_length (aux : Nat) (l : List Nat) : (vxCvtBlock aux l).1.length = l.length := by
  simp only [vxCvtBlock, List.length_map]
  unfold encBlock
  split
  · simp
  · split <;> simp

theorem vxCvtList_elem {aux : Nat} (h : ocBlk aux = false) (n : Nat) {l : List Nat} (hl : l ≠ []) :
    (vxCvtList aux (n + 1) l).1 = l.map (fun a => (vxCvt aux a).1) := by
  obtain ⟨a, t, rfl⟩ := List.exists_cons_of_ne_nil hl
  simp [vxCvtList, h]

theorem vxCvtList_block_step {aux : Nat} (h : ocBlk aux = true) (n : Nat) {l : List Nat} (hl : l ≠ []) :
    (vxCvtList aux (n + 1) l).1 = (vxCvtBlock aux (l.take 32)).1 ++ (vxCvtList aux n (l.drop 32)).1 := by
  rw [vxCvtList.eq_3 _ _ _ hl, if_pos h]

/-- Blocks of 32 one after the other. -/
theorem vxCvtList_block {aux : Nat} (h : ocBlk aux = true) (m : Nat) (f : Nat → Nat) :
    (vxCvtList aux (m + 1) ((List.range (m * 32)).map f)).1 =
      (List.range m).flatMap (fun k => (vxCvtBlock aux ((List.range 32).map (fun j => f (32 * k + j)))).1) := by
  induction m generalizing f with
  | zero => simp [vxCvtList]
  | succ m ih =>
    have hsplit : (List.range ((m + 1) * 32)).map f =
        (List.range 32).map f ++ (List.range (m * 32)).map (fun i => f (32 + i)) := by
      rw [Nat.succ_mul, Nat.add_comm, List.range_add, List.map_append, List.map_map]
      rfl
    have hlen : ((List.range 32).map f).length = 32 := by simp
    rw [vxCvtList_block_step h _ (by simp), hsplit, List.take_left' hlen, List.drop_left' hlen]
    simp only [ih, List.range_succ_eq_map, List.flatMap_cons, List.flatMap_map]
    congr 2
    simp only [Nat.mul_succ, Nat.add_comm, Nat.add_left_comm]

/-- The values of CVT in blocks, block by block and place by place. -/
theorem vxCvtList_block_map {aux : Nat} (h : ocBlk aux = true) {m k : Nat} (hk : m * 32 = k) (f : Nat → Nat) :
    (vxCvtList aux (m + 1) ((List.range k).map f)).1 = (List.range k).map (fun i =>
      (vxCvtBlock aux ((List.range 32).map (fun j => f (32 * (i / 32) + j)))).1.getD (i % 32) 0) := by
  subst hk
  rw [vxCvtList_block h]
  have hb (k : Nat) : (vxCvtBlock aux ((List.range 32).map (fun j => f (32 * k + j)))).1 =
      (List.range 32).map (fun i => (vxCvtBlock aux ((List.range 32).map (fun j => f (32 * k + j)))).1.getD i 0) :=
    eq_map_range_getD 0 (by rw [vxCvtBlock_length]; simp)
  exact (congrArg (fun g => (List.range m).flatMap g) (funext hb)).trans (flatMap_range _ (by omega) rfl)

theorem pairPoison_map_range (m : Nat) (f : Nat → Bool) :
    pairPoison ((List.range (m * 2)).map f) = (List.range (m * 2)).map (fun q => f (q / 2 * 2) || f (q / 2 * 2 + 1)) := by
  induction m generalizing f with
  | zero => rfl
  | succ m ih =>
    have hsplit {α : Type} (f : Nat → α) : (List.range ((m + 1) * 2)).map f =
        f 0 :: f 1 :: (List.range (m * 2)).map (fun i => f (i + 2)) := by
      rw [Nat.succ_mul, Nat.add_comm, List.range_add, List.map_append, List.map_map]
      simp [Nat.add_comm, List.range_succ, Function.comp_def]
    rw [hsplit, hsplit, pairPoison, ih]
    simp [Nat.add_div_right, Nat.succ_mul, Nat.add_right_comm]

section Cvt
variable {s : State} {p e w n : Nat} {g : VxEng}

theorem State.vxElemTile_cvt (h : s.Inv) (ho : bits w 0 6 = 0x0B) (dst src : Nat) :
    ∃ f, s.vxElemTile p e g w n dst src = (s.cvtFlags p f).putVt p e g dst
      (vxCvtList (bits w 24 8) 513 ((List.range 16384).map (s.tileArg p e g 0 src))).1
      (if ocBlk (bits w 24 8) then pairPoison ((List.range 1024).map (s.tileArgPsn p e g 0 src))
       else (List.range 1024).map (s.tileArgPsn p e g 0 src)) := by
  simp only [vxElemTile, ho, if_true, State.vxTileOperand_eq h]
  exact ⟨_, rfl⟩

theorem State.vxElemVec_cvt (h : s.Inv) (ho : bits w 0 6 = 0x0B) :
    ∃ f q, s.vxElemVec p e g w n = (s.cvtFlags p f).setVv p e (bits w 10 2)
      (vxCvtList (bits w 24 8) 5 ((List.range 128).map (s.vecArg p e g 1 (bits w 12 2)))).1 q := by
  simp only [vxElemVec, ho, if_true, State.vv_eq h]
  exact ⟨_, _, rfl⟩

end Cvt

/-! ## What CVT leaves in a register -/

section CvtElements
variable {aux : Nat} {f : Nat → Nat}

theorem vxCvtList_length (m : Nat) (hm : 0 < m) (f : Nat → Nat) :
    (vxCvtList aux (m + 1) ((List.range (m * 32)).map f)).1.length = m * 32 := by
  by_cases hb : ocBlk aux
  · simp [vxCvtList_block_map hb rfl]
  · rw [vxCvtList_elem (by simpa using hb) _ (by simp; omega)]
    simp

theorem vxCvtList_getD_elem (hb : ocBlk aux = false) {m i : Nat} (hi : i < m * 32) :
    (vxCvtList aux (m + 1) ((List.range (m * 32)).map f)).1.getD i 0 = (vxCvt aux (f i)).1 := by
  rw [vxCvtList_elem hb _ (by simp; omega), List.map_map]
  exact getD_map_range 0 _ hi

theorem vxCvtList_getD_block (hb : ocBlk aux = true) {m k i : Nat} (hk : k < m) (hi : i < 32) :
    (vxCvtList aux (m + 1) ((List.range (m * 32)).map f)).1.getD (32 * k + i) 0 =
      (vxCvtBlock aux ((List.range 32).map (fun j => f (32 * k + j)))).1.getD i 0 := by
  have hd : (32 * k + i) / 32 = k := by omega
  have hm : (32 * k + i) % 32 = i := by omega
  rw [vxCvtList_block_map hb rfl, getD_map_range 0 _ (by omega), hd, hm]

end CvtElements

/-- Poison after CVT: in blocks, 32 elements are two datums. -/
theorem cvtPoison_getD (blk : Bool) (f : Nat → Bool) {q : Nat} (hq : q < 1024) :
    (if blk then pairPoison ((List.range 1024).map f) else (List.range 1024).map f).getD q false =
      (if blk then f (q / 2 * 2) || f (q / 2 * 2 + 1) else f q) := by
  cases blk
  · exact getD_map_range _ _ hq
  · simp only [if_true]
    rw [pairPoison_map_range 512]
    exact getD_map_range _ _ hq

theorem cvtPoison_length (blk : Bool) (f : Nat → Bool) :
    (if blk then pairPoison ((List.range 1024).map f) else (List.range 1024).map f).length = 1024 := by
  cases blk
  · simp
  · simp only [if_true]
    rw [pairPoison_map_range 512]
    simp

/-! ## ALL -/

/-- The word of an operation with ALL, as the same operation on register `r` (R129). -/
def vopOn (v r : Nat) : Nat := v - 0x80 + r * 0x1400

section All
variable {v r : Nat}

/-- With ALL the fields D and A are zero (R129), and name tile registers. -/
theorem all_fields_zero (he : vopElem (bits v 0 6) = true) (hv : vopBad v = false) (ha : bitAt v 7 = true) :
    bitAt v 8 = false ∧ bitAt v 9 = false ∧ bits v 10 2 = 0 ∧ bits v 12 2 = 0 := by
  simp only [vopElem] at he
  simp [vopBad, he, ha] at hv
  simp_all

/-- A word with ALL and zero fields D and A, by its places. -/
theorem eq_places (ha : bitAt v 7 = true) (hz : bitAt v 8 = false ∧ bitAt v 9 = false ∧ bits v 10 2 = 0 ∧ bits v 12 2 = 0) :
    v = 2 ^ 14 * (v / 2 ^ 14) + 128 + v % 128 := by
  simp [bitAt, bits, Nat.shiftRight_eq_div_pow] at ha hz
  omega

section Fields
variable (ha : bitAt v 7 = true) (hz : bitAt v 8 = false ∧ bitAt v 9 = false ∧ bits v 10 2 = 0 ∧ bits v 12 2 = 0)
include ha hz

theorem vopOn_eq (r : Nat) : vopOn v r = 2 ^ 14 * (v / 2 ^ 14) + 5120 * r + v % 128 := by
  have h := eq_places ha hz
  unfold vopOn
  omega

theorem bits_vopOn_opc (r : Nat) : bits (vopOn v r) 0 6 = bits v 0 6 := by
  have h := vopOn_eq ha hz r
  simp only [bits, Nat.shiftRight_eq_div_pow]
  omega

theorem bitAt_vopOn_prec (r : Nat) : bitAt (vopOn v r) 6 = bitAt v 6 := by
  have h := vopOn_eq ha hz r
  have e : vopOn v r / 2 ^ 6 % 2 = v / 2 ^ 6 % 2 := by omega
  rw [bitAt, bitAt, Nat.shiftRight_eq_div_pow, Nat.shiftRight_eq_div_pow, e]

variable (hr : r < 4)
include hr

theorem bits_vopOn_high {lo : Nat} (hlo : 14 ≤ lo) (k : Nat) : bits (vopOn v r) lo k = bits v lo k := by
  have h : vopOn v r / 2 ^ 14 = v / 2 ^ 14 := by rw [vopOn_eq ha hz r]; omega
  have hs (x : Nat) : x / 2 ^ lo = x / 2 ^ 14 / 2 ^ (lo - 14) := by rw [Nat.div_div_eq_div_mul, ← Nat.pow_add]; congr 2; omega
  rw [bits, bits, Nat.shiftRight_eq_div_pow, Nat.shiftRight_eq_div_pow, hs, hs v, h]

theorem vopOn_tile : bitAt (vopOn v r) 7 = false ∧ bitAt (vopOn v r) 8 = false ∧ bitAt (vopOn v r) 9 = false ∧
    bits (vopOn v r) 10 2 = r ∧ bits (vopOn v r) 12 2 = r := by
  have h := vopOn_eq ha hz r
  have h12 : vopOn v r / 2 ^ 12 = 4 * (v / 2 ^ 14) + r := by omega
  have h10 : vopOn v r / 2 ^ 10 = 16 * (v / 2 ^ 14) + 5 * r := by omega
  simp only [bitAt, bits, Nat.shiftRight_eq_div_pow, beq_eq_false_iff_ne]
  omega

theorem vopWord_vopOn (h32 : v < 2 ^ 32) : vopWord (bits v 0 6) (vopOn v r) = vopOn v r := by
  have h := vopOn_eq ha hz r
  simp only [vopWord, bits, Nat.shiftRight_eq_div_pow]
  omega

/-- The operation on one register is well formed as the operation with ALL is. -/
theorem vopBad_vopOn (he : vopElem (bits v 0 6) = true) (hv : vopBad v = false) : vopBad (vopOn v r) = false := by
  obtain ⟨h7, h8, h9, h10, h12⟩ := vopOn_tile ha hz hr
  have hi := fun lo => bits_vopOn_high (lo := lo) ha hz hr
  have ho := bits_vopOn_opc ha hz r
  have hp := bitAt_vopOn_prec ha hz r
  obtain ⟨z8, z9, z10, z12⟩ := hz
  simp only [vopElem] at he
  have n30 : bits v 0 6 < 0x20 := by
    simp at he
    omega
  simp only [vopBad, ho, hp, hi, Nat.reduceLeDiff, h7, h8, h9, h10, h12, z8, z9, z10, z12, ha] at hv ⊢
  simp [he] at hv ⊢
  simp_all

/-- The operation with ALL does on register `r` what the same operation without it does there. -/
theorem State.vxElemTile_vopOn (t : State) (p e : Nat) (g : VxEng) (n : Nat) :
    t.vxElemTile p e g (vopOn v r) n r r = t.vxElemTile p e g v n r r := by
  have hi := fun lo => bits_vopOn_high (lo := lo) ha hz hr
  have ho := bits_vopOn_opc ha hz r
  have hp := bitAt_vopOn_prec ha hz r
  simp only [vxElemTile, ho, hp, hi, Nat.reduceLeDiff]

end Fields
end All

@[simp] theorem State.vxEng_putVt (s : State) (p e : Nat) (g : VxEng) (r : Nat) (d : List Nat) (q : List Bool) :
    (s.putVt p e g r d q).vxEng = s.vxEng := by
  unfold State.putVt
  split <;> rfl

@[simp] theorem State.vxEng_vxOvf (s : State) (p e : Nat) (g : VxEng) (n : Nat) (any : Bool) :
    (s.vxOvf p e g n any).vxEng = s.vxEng := (State.only_vxOvf ..).vxEng

@[simp] theorem State.vxEng_cvtFlags (s : State) (p : Nat) (f : CvtN) : (s.cvtFlags p f).vxEng = s.vxEng :=
  (State.only_cvtFlags ..).vxEng

/-- An operation on a tile leaves what the engines run. -/
theorem State.vxEng_vxElemTile (s : State) (p e : Nat) (g : VxEng) (w n dst src : Nat) :
    (s.vxElemTile p e g w n dst src).vxEng = s.vxEng := by
  unfold State.vxElemTile
  simp only []
  split
  · exact (State.vxEng_putVt ..).trans (State.vxEng_cvtFlags ..)
  · split
    · exact State.vxEng_putVt ..
    · exact (State.vxEng_putVt ..).trans (State.vxEng_vxOvf ..)

/-- An operation with ALL is the operation without it on each register that holds a tile, in ascending order (R129). -/
theorem exec_all {x : Nat × (Nat → Nat → Nat → Nat → Instr)} (hx : VxRow vopElem x) {s : State} {p e n w : Nat} {g : VxEng}
    (hg : storeGet none s.vxEng (2 * p + e) = some g) (hl : g.pos.length ≤ 4) (hv : vopBad (vopWord x.1 w) = false)
    (ha : bitAt (vopWord x.1 w) 7 = true) :
    exec (x.2 p e n w) s =
      .next (forRange g.pos.length (fun r t => t.after (x.2 p e n (vopOn (vopWord x.1 w) r))) s) := by
  have ho : bits (vopWord x.1 w) 0 6 = x.1 := bits_vopWord hx.lt w
  have he : vopElem (bits (vopWord x.1 w) 0 6) = true := by rw [ho, hx.cls]
  have h32 : vopWord x.1 w < 2 ^ 32 := by
    have := hx.lt
    unfold vopWord
    omega
  generalize hw : vopWord x.1 w = v at *
  have hz := all_fields_zero he hv ha
  rw [hx.exec_eq, State.vxRow_runs (opc := x.1) (w := w) hg (by rw [hw, hv]), hw, State.vxOp_all he ha hz.1]
  congr 1
  refine forRange_congr (I := fun t => t.vxEng = s.vxEng) rfl fun r t hr ht => ⟨?_, by rw [State.vxEng_vxElemTile, ht]⟩
  have hr : r < 4 := by omega
  obtain ⟨h7, h8, -, h10, h12⟩ := vopOn_tile ha hz hr
  have hwr : vopWord x.1 (vopOn v r) = vopOn v r := ho ▸ vopWord_vopOn ha hz hr h32
  rw [State.after, hx.exec_eq, State.vxRow_runs (opc := x.1) (w := vopOn v r) (by rw [ht, hg])
      (by rw [hwr, vopBad_vopOn ha hz hr he hv]), hwr,
    State.vxOp_tile (by rw [bits_vopOn_opc ha hz r, he]) h7 h8, h10, h12, State.vxElemTile_vopOn ha hz hr]

/-- Settles O25: CMASK and CVT are one `putVt` or `setVv` of their elements in range form, and the loop of an operation with ALL
runs the single operation on each register. -/
theorem maskConvertAndAll : Obligations.MaskConvertAndAll := by
  refine ⟨?_, ?_, ?_⟩
  · intro s p e n w g _ _ hi hg v d a k at' hv ha hf
    have ho : bits v 0 6 = 0x0A := bits_vopWord (by decide) w
    have he : vopElem (bits v 0 6) = true := by rw [ho]; decide
    have h := State.vxElemTile_cmask (p := p) (e := e) (n := n) (g := g) hi ho d a
    have hx : exec (.vxeOpCmask p e n w) s = .next (s.vxRow p e n 0x0A w) := rfl
    rw [hx, State.vxRow_runs hg hv, State.vxOp_tile he ha (cmask_tile_form ho hv), h, State.putVt, if_pos hf]
    refine answers_next ⟨(State.OnlyRegs.refl ..).setVt .., fun i j hi hj => ?_, fun q hq =>
      State.vxPsn_setVt_map _ _ _ _ _ _ hq⟩
    have hdiv : (128 * i + j) / 128 = i := by omega
    have hmod : (128 * i + j) % 128 = j := by omega
    rw [State.vx_setVt_map _ _ _ _ _ _ (by omega), hdiv, hmod]
    rfl
  · intro s p e n w g _ _ hi hg v d a aux noted hv
    have ho : bits v 0 6 = 0x0B := bits_vopWord (by decide) w
    have he : vopElem (bits v 0 6) = true := by rw [ho]; decide
    have hx : exec (.vxeOpCvt p e n w) s = .next (s.vxRow p e n 0x0B w) := rfl
    refine ⟨fun ha hd hf => ?_, fun hd => ?_⟩
    · obtain ⟨f, h⟩ := State.vxElemTile_cvt (p := p) (e := e) (n := n) (g := g) hi ho d a
      have hl := vxCvtList_length (aux := aux) 512 (by omega) (s.tileArg p e g 0 a)
      rw [hx, State.vxRow_runs hg hv, State.vxOp_tile he ha hd, h, State.putVt, if_pos hf]
      exact answers_next ⟨(State.only_cvtFlags ..).setVt ..,
        fun hb i hi => (State.vx_setVt _ _ _ _ _ hl hi).trans (vxCvtList_getD_elem hb (m := 512) hi),
        fun hb k i hk hi => (State.vx_setVt _ _ _ _ _ hl (by omega)).trans (vxCvtList_getD_block hb (m := 512) hk hi),
        fun q hq => (State.vxPsn_setVt _ _ _ _ _ (cvtPoison_length ..) hq).trans (cvtPoison_getD _ _ hq)⟩
    · obtain ⟨f, q, h⟩ := State.vxElemVec_cvt (p := p) (e := e) (n := n) (g := g) hi ho
      have hl := vxCvtList_length (aux := aux) 4 (by omega) (s.vecArg p e g 1 a)
      rw [hx, State.vxRow_runs hg hv, State.vxOp_vec he hd, h]
      exact answers_next ⟨(State.only_cvtFlags ..).setVv ..,
        fun hb i hi => (State.vx_setVv _ _ _ _ _ hl hi).trans (vxCvtList_getD_elem hb (m := 4) hi),
        fun hb k i hk hi => (State.vx_setVv _ _ _ _ _ hl (by omega)).trans (vxCvtList_getD_block hb (m := 4) hk hi)⟩
  · refine forall_of_rows (cls := vopElem) ?_ ?_
    · repeat' refine List.forall_mem_cons.mpr ⟨⟨fun _ _ _ _ _ => rfl, by decide, by decide⟩, ?_⟩
      exact List.forall_mem_nil _
    · intro x hx s p e n w g hg hl v hv ha
      exact exec_all hx hg hl hv ha

/-! ## The tree of R136 -/

/-- One round of the tree: the first `w` elements, each combined with the one `w` further. -/
def treeRound (op : Nat → Nat → Nat) (x : List Nat) (w : Nat) : List Nat :=
  (List.range w).map (fun e => op (x.getD e 0) (x.getD (e + w) 0))

theorem treeRound_eq (op : Nat → Nat → Nat) {w : Nat} {x : List Nat} (h : x.length = w + w) :
    List.zipWith op (x.take w) (x.drop w) = treeRound op x w := by
  refine List.ext_getElem (by simp [treeRound]; omega) fun i h1 h2 => ?_
  have hi : i < w := by simpa [treeRound] using h2
  have e1 : i < x.length := by omega
  have e2 : i + w < x.length := by omega
  simp [treeRound, List.getD, e1, e2, Nat.add_comm w i]

/-- The halving tree runs the loop of R136. -/
theorem vxTree_eq (op : Nat → Nat → Nat) : ∀ (n : Nat) (x : List Nat), x.length = 2 ^ n →
    vxTree op n x = (((List.range n).reverse.map (2 ^ ·)).foldl (treeRound op) x).getD 0 0
  | 0, x, _ => rfl
  | n + 1, x, h => by
    have hr := treeRound_eq op (w := 2 ^ n) (x := x) (by rw [h]; omega)
    rw [vxTree, hr, vxTree_eq op n _ (by simp [treeRound]), List.range_succ, List.reverse_append, List.map_append]
    rfl

theorem vxTree_eq_reduceTree (op : Nat → Nat → Nat) {x : List Nat} (h : x.length = 128) : vxTree op 7 x = reduceTree op x :=
  vxTree_eq op 7 x h

/-! ## Rows and columns of a tile operand -/

theorem tileCols_map_range (f : Nat → Nat) :
    tileCols ((List.range 16384).map f) = (List.range 128).map (fun j => (List.range 128).map (fun i => f (128 * i + j))) := by
  unfold tileCols
  refine List.map_congr_left fun j hj => List.map_congr_left fun i hi => ?_
  have hj := List.mem_range.mp hj
  have hi := List.mem_range.mp hi
  have h : 128 * i + j < 16384 := by omega
  simp [h]

/-- Element (row or column `i`, place `j`) of a tile in row order, for the operation code of a tile reduction. -/
def redCell (opc i j : Nat) : Nat := if opc < 0x22 then 128 * i + j else 128 * j + i

/-- The trees over the rows or columns of a tile. -/
theorem reduceValues (op : Nat → Nat → Nat) (opc : Nat) (f : Nat → Nat) :
    (if opc < 0x22 then (List.range 128).map (fun i => vxTree op 7 (tileRow 128 ((List.range 16384).map f) i))
      else (tileCols ((List.range 16384).map f)).map (vxTree op 7)) =
    (List.range 128).map (fun i => reduceTree op ((List.range 128).map (fun j => f (redCell opc i j)))) := by
  unfold redCell
  split
  · refine List.map_congr_left fun i hi => ?_
    have hi := List.mem_range.mp hi
    rw [tileRow_map_range _ (by omega), vxTree_eq_reduceTree _ (by simp)]
  · rw [tileCols_map_range, List.map_map]
    refine List.map_congr_left fun i _ => ?_
    rw [Function.comp_apply, vxTree_eq_reduceTree _ (by simp)]

/-- The poison of the rows or columns of a tile, datum by datum. -/
theorem reducePoison (opc : Nat) (f : Nat → Bool) :
    (if opc < 0x22 then (List.range 128).map (fun i => (tileRow 8 ((List.range 1024).map f) i).any id)
      else (List.range 128).map (fun j => (List.range 128).any (fun i => ((List.range 1024).map f).getD (8 * i + j / 16) false))) =
    (List.range 128).map (fun i => (List.range 128).any (fun j => f (redCell opc i j / 16))) := by
  unfold redCell
  split
  · refine List.map_congr_left fun i hi => ?_
    have hi := List.mem_range.mp hi
    rw [tileRow_map_range _ (by omega), List.any_map, Bool.eq_iff_iff, List.any_eq_true, List.any_eq_true]
    constructor
    · rintro ⟨k, hk, hp⟩
      have hk := List.mem_range.mp hk
      refine ⟨16 * k, List.mem_range.mpr (by omega), ?_⟩
      have e : (128 * i + 16 * k) / 16 = 8 * i + k := by omega
      rw [e]
      exact hp
    · rintro ⟨j, hj, hp⟩
      have hj := List.mem_range.mp hj
      refine ⟨j / 16, List.mem_range.mpr (by omega), ?_⟩
      have e : (128 * i + j) / 16 = 8 * i + j / 16 := by omega
      rw [e] at hp
      exact hp
  · refine List.map_congr_left fun i hi => ?_
    have hi := List.mem_range.mp hi
    rw [Bool.eq_iff_iff, List.any_eq_true, List.any_eq_true]
    refine exists_congr fun j => and_congr_right fun hj => ?_
    have hj := List.mem_range.mp hj
    have e : (128 * j + i) / 16 = 8 * j + i / 16 := by omega
    rw [getD_map_range _ _ (by omega), e]

/-! ## The combination over the source registers -/

/-- One more value into a combination that may hold none yet (R136). -/
def combine (op : Nat → Nat → Nat) (a : Option Nat) (r : Nat) : Option Nat :=
  some (match a with | none => r | some y => op y r)

/-- What the running result of a reduction holds at index `i`: value `a` and poison `b`. -/
def AccAt (i : Nat) (x : Option (List Nat × List Bool) × Bool) (a : Option Nat) (b : Bool) : Prop :=
  match x.1 with
  | none => a = none ∧ b = false
  | some y => y.1.length = 128 ∧ y.2.length = 128 ∧ a = some (y.1.getD i 0) ∧ b = y.2.getD i false

theorem AccAt.foldl {i : Nat} {op : Nat → Nat → Nat} {one : Nat → Nat} {psn : Nat → Bool}
    {F : Option (List Nat × List Bool) × Bool → Nat → Option (List Nat × List Bool) × Bool}
    (hF : ∀ x a b r, AccAt i x a b → AccAt i (F x r) (combine op a (one r)) (b || psn r)) :
    ∀ (src : List Nat) x a b, AccAt i x a b →
      AccAt i (src.foldl F x) (src.foldl (fun a r => combine op a (one r)) a) (b || src.any psn)
  | [], x, a, b, h => by simpa using h
  | r :: src, x, a, b, h => by
    have := AccAt.foldl hF src _ _ _ (hF x a b r h)
    simpa [Bool.or_assoc] using this

/-- The first register's values and poison. -/
theorem AccAt.first {i : Nat} (hi : i < 128) (f : Nat → Nat) (q : Nat → Bool) (o : Bool) :
    AccAt i (some ((List.range 128).map f, (List.range 128).map q), o) (some (f i)) (q i) :=
  ⟨by simp, by simp, by rw [getD_map_range _ _ hi], by rw [getD_map_range _ _ hi]⟩

/-- One more register's values and poison, after those before it. -/
theorem AccAt.next {i : Nat} (hi : i < 128) {y : List Nat × List Bool} {o : Bool} {a : Option Nat} {b : Bool}
    (h : AccAt i (some y, o) a b) (op : Nat → Nat → Nat) (f : Nat → Nat) (q : Nat → Bool) (o' : Bool) :
    AccAt i (some (List.zipWith op y.1 ((List.range 128).map f), orList y.2 ((List.range 128).map q)), o')
      (combine op a (f i)) (b || q i) := by
  obtain ⟨h1, h2, rfl, rfl⟩ := h
  refine ⟨by simp [h1], by simp [orList, h2], ?_, ?_⟩
  · rw [getD_zipWith _ 0 0 0 (by rw [h1]; exact hi) (by simp [hi]), getD_map_range _ _ hi, combine]
  · rw [orList, getD_zipWith _ false false false (by rw [h2]; exact hi) (by simp [hi]), getD_map_range _ _ hi]

/-- A combination of at least one value holds one. -/
theorem foldl_combine_ne_none (op : Nat → Nat → Nat) (one : Nat → Nat) :
    ∀ (src : List Nat) (a : Option Nat), a ≠ none ∨ src ≠ [] → src.foldl (fun a r => combine op a (one r)) a ≠ none
  | [], a, h => by simpa using h
  | r :: src, a, _ => foldl_combine_ne_none op one src _ (.inl (by simp [combine]))

/-- Value of row or column `i` of tile register `r`. -/
def State.redOne (s : State) (p e : Nat) (g : VxEng) (opc i r : Nat) : Nat :=
  reduceTree (if opc % 2 = 0 then f32Add else f32Max) ((List.range 128).map (fun j => s.tileArg p e g 0 r (redCell opc i j)))
/-- Poison of row or column `i` of tile register `r`. -/
def State.redPsn (s : State) (p e : Nat) (g : VxEng) (opc i r : Nat) : Bool :=
  (List.range 128).any (fun j => s.tileArgPsn p e g 0 r (redCell opc i j / 16))

theorem vxSources_ne_nil {g : VxEng} (h : 0 < g.pos.length) (w : Nat) : vxSources g w ≠ [] := by
  unfold vxSources
  split
  · exact fun e => Nat.ne_of_gt h (List.range_eq_nil.mp e)
  · simp

/-- A reduction of tiles writes one vector register, index by index. -/
theorem State.vxReduce_eq {s : State} (h : s.Inv) (p e : Nat) (g : VxEng) (hg : 0 < g.pos.length) (w n : Nat) :
    ∃ any d q, s.vxReduce p e g w n = (s.vxOvf p e g n any).setVv p e (bits w 10 2) d q ∧ d.length = 128 ∧ q.length = 128 ∧
      ∀ i, i < 128 →
        some (d.getD i 0) = (vxSources g w).foldl
          (fun a r => combine (if bits w 0 6 % 2 = 0 then f32Add else f32Max) a (s.redOne p e g (bits w 0 6) i r))
          (if bitAt w 24 then some (storeGet 0 s.vx (vvKey p e (bits w 10 2) + i)) else none) ∧
        q.getD i false = ((bitAt w 24 && storeGet false s.vxPsn (vvpKey p e (bits w 10 2) + i)) ||
          (vxSources g w).any (s.redPsn p e g (bits w 0 6) i)) := by
  unfold vxReduce
  simp only [State.vxTileOperand_eq h, reduceValues, reducePoison, State.vv_eq h, State.vvp_eq h]
  generalize hr : List.foldl _ _ (vxSources g w) = r
  have hacc : ∀ i, i < 128 → AccAt i r _ _ := fun i hi => by
    rw [← hr]
    refine AccAt.foldl (op := if bits w 0 6 % 2 = 0 then f32Add else f32Max) (one := s.redOne p e g (bits w 0 6) i)
      (psn := s.redPsn p e g (bits w 0 6) i) ?_ _ _
      (if bitAt w 24 then some (storeGet 0 s.vx (vvKey p e (bits w 10 2) + i)) else none)
      (bitAt w 24 && storeGet false s.vxPsn (vvpKey p e (bits w 10 2) + i)) ?_
    · rintro ⟨x, o⟩ a b r hx
      cases x with
      | none =>
        obtain ⟨rfl, rfl⟩ := hx
        exact AccAt.first hi ..
      | some y => exact hx.next hi ..
    · cases bitAt w 24
      · exact ⟨rfl, rfl⟩
      · exact ⟨by simp, by simp, by simp [hi], by simp [hi]⟩
  obtain ⟨x, o⟩ := r
  cases x with
  | none =>
    obtain ⟨hnone, -⟩ := hacc 0 (by omega)
    exact absurd hnone (foldl_combine_ne_none _ _ _ _ (.inr (vxSources_ne_nil hg w)))
  | some y =>
    obtain ⟨hd, hq, -⟩ := hacc 0 (by omega)
    refine ⟨_, y.1, y.2, rfl, hd, hq, fun i hi => ?_⟩
    obtain ⟨-, -, hv, hp⟩ := hacc i hi
    exact ⟨hv.symm, hp.symm⟩

/-- A reduction of a vector writes element 0 of one vector register and clears the others. -/
theorem State.vxVecReduce_eq {s : State} (h : s.Inv) (p e : Nat) (g : VxEng) (w n : Nat) :
    ∃ any, s.vxVecReduce p e g w n = (s.vxOvf p e g n any).setVv p e (bits w 10 2)
      ((let r := reduceTree (if bits w 0 6 % 2 = 0 then f32Add else f32Max)
          ((List.range 128).map (fun j => storeGet 0 s.vx (vvKey p e (bits w 12 2) + j)))
        if bitAt w 24 then (if bits w 0 6 % 2 = 0 then f32Add else f32Max) (storeGet 0 s.vx (vvKey p e (bits w 10 2))) r else r) ::
        List.replicate 127 0)
      (((bitAt w 24 && storeGet false s.vxPsn (vvpKey p e (bits w 10 2))) ||
        (List.range 128).any (fun j => storeGet false s.vxPsn (vvpKey p e (bits w 12 2) + j))) :: List.replicate 127 false) := by
  unfold vxVecReduce
  simp only [State.vv_eq h, State.vvp_eq h, getD_map_range _ _ (show 0 < 128 by omega), Nat.add_zero, List.any_map,
    vxTree_eq_reduceTree _ (show ((List.range 128).map _).length = 128 by simp), Bool.or_comm (List.any _ _)]
  exact ⟨_, rfl⟩

/-- Operation codes of the reductions of tiles, and of vectors. -/
def vopTileRed (opc : Nat) : Bool := 0x20 ≤ opc && opc ≤ 0x23
def vopVecRed (opc : Nat) : Bool := opc == 0x24 || opc == 0x25

/-- Settles O26: the running result of a reduction of tiles is followed index by index (`AccAt`). -/
theorem reductions : Obligations.Reductions := by
  refine ⟨forall_of_rows (cls := vopTileRed) ?_ ?_, forall_of_rows (cls := vopVecRed) ?_ ?_⟩
  · repeat' refine List.forall_mem_cons.mpr ⟨⟨fun _ _ _ _ _ => rfl, by decide, by decide⟩, ?_⟩
    exact List.forall_mem_nil _
  · intro x hx s p e n w g _ _ hi hg hpos v d acc op src cell one hv
    have ho : bits v 0 6 = x.1 := bits_vopWord hx.lt w
    have hc : 0x20 ≤ bits v 0 6 ∧ bits v 0 6 ≤ 0x23 := by simpa [vopTileRed, ho] using hx.cls
    obtain ⟨any, dl, ql, h, hdl, hql, hel⟩ := State.vxReduce_eq hi p e g hpos v n
    rw [hx.exec_eq, State.vxRow_runs hg hv, State.vxOp_reduce hc, h]
    refine answers_next ⟨(State.only_vxOvf ..).setVv .., fun i hi => ?_⟩
    rw [State.vx_setVv _ _ _ _ _ hdl hi, State.vxPsn_setVv _ _ _ _ _ hql hi]
    have := hel i hi
    rw [ho] at this
    exact this
  · repeat' refine List.forall_mem_cons.mpr ⟨⟨fun _ _ _ _ _ => rfl, by decide, by decide⟩, ?_⟩
    exact List.forall_mem_nil _
  · intro x hx s p e n w g _ _ hi hg v d a acc op r hv
    have ho : bits v 0 6 = x.1 := bits_vopWord hx.lt w
    have hc : bits v 0 6 = 0x24 ∨ bits v 0 6 = 0x25 := by simpa [vopVecRed, ho] using hx.cls
    obtain ⟨any, h⟩ := State.vxVecReduce_eq hi p e g v n
    rw [hx.exec_eq, State.vxRow_runs hg hv, State.vxOp_vecReduce hc, h, ho]
    refine answers_next ⟨(State.only_vxOvf ..).setVv .., ?_, ?_, fun i h0 hi => ?_⟩
    · exact State.vx_setVv _ _ _ _ _ (i := 0) (by simp) (by omega)
    · exact State.vxPsn_setVv _ _ _ _ _ (i := 0) (by simp) (by omega)
    · rw [State.vx_setVv _ _ _ _ _ (by simp) hi, State.vxPsn_setVv _ _ _ _ _ (by simp) hi]
      obtain ⟨j, rfl⟩ := Nat.exists_eq_succ_of_ne_zero (Nat.ne_of_gt h0)
      exact ⟨getD_replicate_default 0 127 j, getD_replicate_default false 127 j⟩

/-! ## Bytes of numbers -/

theorem leBytes_eq (n v : Nat) : leBytes n v = (List.range n).map (fun j => v / 256 ^ j % 256) := by
  induction n generalizing v with
  | zero => rfl
  | succ n ih =>
    rw [leBytes, ih, List.range_succ_eq_map, List.map_cons, List.map_map]
    simp [Nat.pow_succ', Nat.div_div_eq_div_mul]

/-- A byte of a little-endian number. -/
theorem leNat_byte (l : List Nat) (i : Nat) : leNat l / 256 ^ i % 256 = l.getD i 0 % 256 := by
  induction l generalizing i with
  | nil => simp [leNat]
  | cons b t ih =>
    cases i with
    | zero => simp [leNat]
    | succ i =>
      have h : (b % 256 + 256 * leNat t) / 256 = leNat t := by omega
      rw [leNat, Nat.pow_succ', ← Nat.div_div_eq_div_mul, h, ih, List.getD_cons_succ]

/-! ## Whole datums written one after the other -/

theorem State.byte_wrDatum (s : State) (d v : Nat) (psn : Bool) (b : Nat) :
    (s.wrDatum d v psn).byte b = if b / 64 = d then BitVec.ofNat 8 (v / 256 ^ (b % 64)) else s.byte b := by
  have h : b / 64 = d ↔ 64 * d ≤ b ∧ b < 64 * d + 64 := by omega
  simp only [byte, wrDatum]
  rw [storeGet_setRange]
  by_cases hb : b / 64 = d
  · have e : b - 64 * d = b % 64 := by omega
    rw [if_pos (h.mp hb), if_pos hb, e]
  · rw [if_neg (mt h.mpr hb), if_neg hb]

theorem State.poison_wrDatum (s : State) (d v : Nat) (psn : Bool) (b : Nat) :
    storeGet false (s.wrDatum d v psn).poison b = if b = d then psn else storeGet false s.poison b := by
  by_cases h : b = d
  · rw [if_pos h, h]; exact storeGet_set_self _ _ _ _
  · rw [if_neg h]; exact storeGet_set_ne _ _ _ _ h

/-- `t` is `s` after the writes of datums `m 0` to `m (k - 1)` with content `v` and poison `q`, the later write of a datum
standing. -/
structure DatumsWritten (m v : Nat → Nat) (q : Nat → Bool) (s : State) (k : Nat) (t : State) : Prop where
  frame : t = { s with mem := t.mem, poison := t.poison }
  byte : ∀ u, u < k → (∀ j, u < j → j < k → m j ≠ m u) → ∀ o, o < 64 →
    t.byte (64 * m u + o) = BitVec.ofNat 8 (v u / 256 ^ o)
  psn : ∀ u, u < k → (∀ j, u < j → j < k → m j ≠ m u) → storeGet false t.poison (m u) = q u
  byte_kept : ∀ b, (∀ u, u < k → b / 64 ≠ m u) → t.byte b = s.byte b
  psn_kept : ∀ b, (∀ u, u < k → b ≠ m u) → storeGet false t.poison b = storeGet false s.poison b

theorem DatumsWritten.zero (m v : Nat → Nat) (q : Nat → Bool) (s : State) : DatumsWritten m v q s 0 s :=
  ⟨rfl, fun _ h => absurd h (by omega), fun _ h => absurd h (by omega), fun _ _ => rfl, fun _ _ => rfl⟩

/-- One more datum. -/
theorem DatumsWritten.succ {m v : Nat → Nat} {q : Nat → Bool} {s t : State} {k : Nat} (h : DatumsWritten m v q s k t) :
    DatumsWritten m v q s (k + 1) (t.wrDatum (m k) (v k) (q k)) where
  frame := congrArg (fun x => x.wrDatum (m k) (v k) (q k)) h.frame
  byte u hu hl o ho := by
    have hd : (64 * m u + o) / 64 = m u := by omega
    have hm : (64 * m u + o) % 64 = o := by omega
    rw [State.byte_wrDatum, hd, hm]
    by_cases hk : u = k
    · rw [if_pos (by rw [hk]), hk]
    · rw [if_neg (hl k (by omega) (by omega)).symm]
      exact h.byte u (by omega) (fun j h1 h2 => hl j h1 (by omega)) o ho
  psn u hu hl := by
    rw [State.poison_wrDatum]
    by_cases hk : u = k
    · rw [if_pos (by rw [hk]), hk]
    · rw [if_neg (hl k (by omega) (by omega)).symm]
      exact h.psn u (by omega) fun j h1 h2 => hl j h1 (by omega)
  byte_kept b hb := by
    rw [State.byte_wrDatum, if_neg (hb k (by omega))]
    exact h.byte_kept b fun u hu => hb u (by omega)
  psn_kept b hb := by
    rw [State.poison_wrDatum, if_neg (hb k (by omega))]
    exact h.psn_kept b fun u hu => hb u (by omega)

theorem State.locate_wrDatum (s : State) (d v : Nat) (psn : Bool) (p ctx a : Nat) :
    (s.wrDatum d v psn).locate p ctx a = s.locate p ctx a := rfl

/-- A stream of whole datums whose addresses all decode. -/
theorem State.cmdWriteL_datums {s : State} {p ctx a k : Nat} {l : List Nat} {m : Nat → Nat} (hl : l.length = 64 * k)
    (hm : ∀ u, u < k → s.locate p ctx ((a + u) % 2 ^ 32) = .at (m u)) (q : Nat → Bool) :
    DatumsWritten m (fun u => leNat ((List.range 64).map (fun i => l.getD (64 * u + i) 0))) q s k (s.cmdWriteL p ctx a l q) := by
  have hn : (l.length + 63) / 64 = k := by omega
  unfold State.cmdWriteL State.cmdWrite
  simp only [hn]
  rw [← forRange_congr (I := fun t => ∀ x, t.locate p ctx x = s.locate p ctx x)
    (f := fun u t => t.wrDatum (m u) (leNat ((List.range 64).map (fun i => l.getD (64 * u + i) 0))) (q u)) (fun _ => rfl) ?_]
  · exact forRange_ind (DatumsWritten.zero ..) fun i t _ h => h.succ
  · intro u t hu ht
    have h64 : min 64 (l.length - 64 * u) = 64 := by omega
    refine ⟨?_, fun x => (State.locate_wrDatum ..).trans (ht x)⟩
    rw [ht, hm u hu]
    simp [h64, List.getD]

/-! ## LDV, STV and SPUT -/

/-- A range whose addresses decode, and which is not consumed or not poisoned, brings nothing about. -/
theorem State.noteRanges_clean {s : State} {c : Cmd} {a n : Nat} {use : Bool}
    (hl : ∀ u, u < n → ∃ m, s.locate c.p c.ctx ((a + u) % 2 ^ 32) = .at m)
    (hp : use = true → ∀ u, u < n → s.cmdPsn c.p c.ctx (a + u) = false) (unit : Nat) :
    s.noteRanges c unit [⟨a, n, use⟩] = s := by
  have hf : s.rngFaults c ⟨a, n, use⟩ = [] := by
    refine List.filterMap_eq_nil_iff.mpr fun u hu => ?_
    obtain ⟨m, hm⟩ := hl u (List.mem_range.mp hu)
    simp only [hm]
  have hq : s.rngPoison c ⟨a, n, use⟩ = none := by
    unfold State.rngPoison
    split
    · next h =>
      have : (List.range n).find? (fun i => s.cmdPsn c.p c.ctx (a + i)) = none :=
        List.find?_eq_none.mpr fun u hu => by simp [hp h u (List.mem_range.mp hu)]
      simp only [this, Option.map_none]
    · rfl
  simp [State.noteRanges, hf, hq]

section Moves
variable {s : State} {p e w : Nat} {g : VxEng}

/-- A vector register takes the 128 words at the computed address (R138). -/
theorem State.vxLdv_eq (s : State) (p e : Nat) (g : VxEng) (w : Nat) :
    s.vxLdv p e g w = (s.noteRanges ⟨p, g.ctx, g.idx, g.desc⟩ (unitId p (8 + e))
        [⟨vxVecAddr (dOp g.desc 96 32) w g, 8, true⟩]).setVv p e (bits w 10 2)
      ((List.range 128).map (fun i => s.cmdNat p g.ctx (vxVecAddr (dOp g.desc 96 32) w g) (4 * i) 4))
      ((List.range 128).map (fun i => s.cmdPsn p g.ctx (vxVecAddr (dOp g.desc 96 32) w g + i / 16))) := rfl

/-- The bytes of a vector register as a stream. -/
theorem State.vv_bytes (h : s.Inv) (p e r : Nat) : (s.vv p e r).flatMap (leBytes 4) =
    (List.range 512).map (fun k => storeGet 0 s.vx (vvKey p e r + k / 4) / 256 ^ (k % 4) % 256) := by
  simp only [State.vv_eq h, List.flatMap_map, leBytes_eq]
  exact flatMap_range (m := 128) (n := 4) (k := 512) _ (by omega) (by omega)

/-- Unit `u` of a vector register as a number. -/
def State.vvUnit (s : State) (p e r u : Nat) : Nat :=
  leNat ((List.range 64).map (fun i => ((s.vv p e r).flatMap (leBytes 4)).getD (64 * u + i) 0))
/-- Poison of unit `u` of a vector register. -/
def State.vvUnitPsn (s : State) (p e r u : Nat) : Bool :=
  (List.range 16).any (fun i => (s.vvp p e r).toArray.getD (16 * u + i) false)

/-- Byte `j` of element `i` of a unit. -/
theorem State.vvUnit_byte (h : s.Inv) (p e r : Nat) {u i j : Nat} (hu : u < 8) (hi : i < 16) (hj : j < 4) :
    s.vvUnit p e r u / 256 ^ (4 * i + j) % 256 = storeGet 0 s.vx (vvKey p e r + (16 * u + i)) / 256 ^ j % 256 := by
  have hd : (64 * u + (4 * i + j)) / 4 = 16 * u + i := by omega
  have hm : (64 * u + (4 * i + j)) % 4 = j := by omega
  rw [vvUnit, leNat_byte, getD_map_range _ _ (by omega), State.vv_bytes h, getD_map_range _ _ (by omega), hd, hm, Nat.mod_mod]

theorem State.vvUnitPsn_eq (h : s.Inv) (p e r : Nat) {u : Nat} (hu : u < 8) :
    s.vvUnitPsn p e r u = (List.range 16).any (fun i => storeGet false s.vxPsn (vvpKey p e r + (16 * u + i))) := by
  rw [vvUnitPsn, State.vvp_eq h, Bool.eq_iff_iff, List.any_eq_true, List.any_eq_true]
  refine exists_congr fun i => and_congr_right fun hi => ?_
  have hi : 16 * u + i < 128 := by have := List.mem_range.mp hi; omega
  simp [hi]

/-- Where the eight units of STV decode, they take the units of the register (R138). -/
theorem State.vxStv_writes (h : s.Inv) {m : Nat → Nat}
    (hm : ∀ u, u < 8 → s.locate p g.ctx ((vxVecAddr (dOp g.desc 128 32) w g + u) % 2 ^ 32) = .at (m u)) :
    DatumsWritten m (s.vvUnit p e (bits w 12 2)) (s.vvUnitPsn p e (bits w 12 2)) s 8 (s.vxStv p e g w) := by
  have hlen : ((s.vv p e (bits w 12 2)).flatMap (leBytes 4)).length = 64 * 8 := by rw [State.vv_bytes h]; simp
  have hn := State.noteRanges_clean (c := ⟨p, g.ctx, g.idx, g.desc⟩) (use := false) (fun u hu => ⟨_, hm u hu⟩)
    (fun h => nomatch h) (unitId p (8 + e))
  unfold vxStv
  simp only [hn]
  exact State.cmdWriteL_datums hlen hm _

end Moves

/-- Settles O27: the eight units of STV are whole datums written one after the other (`DatumsWritten`). -/
theorem vectorsMoveToMemoryAndScalars : Obligations.VectorsMoveToMemoryAndScalars := by
  refine ⟨?_, ?_, ?_, forall_of_rows (cls := fun _ => true) ?_ ?_⟩
  · intro s p e n w g _ _ hg v d at' a hv
    have ho : bits v 0 6 = 0x30 := bits_vopWord (by decide) w
    have hx : exec (.vxeOpLdv p e n w) s = .next (s.vxRow p e n 0x30 w) := rfl
    rw [hx, State.vxRow_runs hg hv, State.vxOp_ldv ho, State.vxLdv_eq]
    refine answers_next ⟨fun i hi => ⟨State.vx_setVv_map _ _ _ _ _ _ hi,
      State.vxPsn_setVv_map _ _ _ _ _ _ hi⟩, fun hc => ?_⟩
    have hn := State.noteRanges_clean (s := s) (c := ⟨p, g.ctx, g.idx, g.desc⟩) (a := a) (n := 8) (use := true)
      (fun u hu => (hc u hu).1) (fun _ u hu => (hc u hu).2) (unitId p (8 + e))
    exact ((congrArg (s.OnlyRegs · _) hn).mpr (.refl s _)).setVv ..
  · intro s p e n w g m _ _ hi hg v r at' a hv hm
    have ho : bits v 0 6 = 0x31 := bits_vopWord (by decide) w
    have hx : exec (.vxeOpStv p e n w) s = .next (s.vxRow p e n 0x31 w) := rfl
    rw [hx, State.vxRow_runs hg hv, State.vxOp_stv ho]
    have h := State.vxStv_writes (e := e) (w := v) hi hm
    refine answers_next ⟨by rw [h.frame]; rfl, (State.RegsKept.refl s _).of_regs (by rw [h.frame]),
      fun u hu hl => ⟨fun i j hi' hj => ?_, (h.psn u hu hl).trans (State.vvUnitPsn_eq hi p e r hu)⟩, h.byte_kept, h.psn_kept⟩
    rw [h.byte u hu hl _ (by omega), BitVec.toNat_ofNat]
    exact State.vvUnit_byte hi p e r hu hi' hj
  · intro s p e n w g _ _ hi hg v r k hv
    have ho : bits v 0 6 = 0x32 := bits_vopWord (by decide) w
    have hx : exec (.vxeOpSput p e n w) s = .next (s.vxRow p e n 0x32 w) := rfl
    have h0 : (s.vv p e r).getD 0 0 = storeGet 0 s.vx (vvKey p e r) := storeList_getD 0 _ 128 0 hi.vx (by omega)
    have hq : (s.vvp p e r).getD 0 false = storeGet false s.vxPsn (vvpKey p e r) := storeList_getD false _ 128 0 hi.vxPsn (by omega)
    rw [hx, State.vxRow_runs hg hv, State.vxOp_sput ho]
    exact answers_next ⟨rfl, (storeGet_set_self ..).trans h0, (storeGet_set_self ..).trans hq,
      fun q hne => ⟨storeGet_set_ne _ _ _ _ hne, storeGet_set_ne _ _ _ _ hne⟩⟩
  · repeat' refine List.forall_mem_cons.mpr ⟨⟨fun _ _ _ _ _ => rfl, by decide, by decide⟩, ?_⟩
    exact List.forall_mem_nil _
  · intro x hx s p e n w h
    rw [hx.exec_eq, State.vxRow_idle h]

/-! ## The registers at the start of a group (R121) -/

theorem vtKey_le (p e : Nat) {k j : Nat} (h : k ≤ j) : vtKey p e k ≤ vtKey p e j := by unfold vtKey; omega
theorem vtpKey_le (p e : Nat) {k j : Nat} (h : k ≤ j) : vtpKey p e k ≤ vtpKey p e j := by unfold vtpKey; omega
theorem vtKey_succ (p e k : Nat) : vtKey p e (k + 1) = vtKey p e k + 16384 := by unfold vtKey; omega
theorem vtpKey_succ (p e k : Nat) : vtpKey p e (k + 1) = vtpKey p e k + 1024 := by unfold vtpKey; omega
/-- Tile registers lie below the vector registers in the store of elements. -/
theorem vtKey_lt_vvKey {p e k i : Nat} (hp : p < 8) (he : e < 2) (hk : k < 4) (hi : i < 16384) (r j : Nat) :
    vtKey p e k + i < vvKey p e r + j := by unfold vtKey vvKey; omega

/-- `t` is `s` but for registers of vector engines. -/
def State.OnlyVxStores (s t : State) : Prop := t = { s with vx := t.vx, vxPsn := t.vxPsn }

theorem State.OnlyVxStores.trans {s t u : State} (h : s.OnlyVxStores t) (h' : t.OnlyVxStores u) : s.OnlyVxStores u := by
  unfold State.OnlyVxStores at h h' ⊢
  exact h'.trans (congrArg (fun x : State => { x with vx := u.vx, vxPsn := u.vxPsn }) h)

/-- Tiles `k` on into their registers: each register holds its tile, every other key keeps its value. -/
theorem foldl_setVt (p e : Nat) : ∀ (g : List Tile) (k : Nat) (s : State),
    (∀ t ∈ g, t.data.length = 16384 ∧ t.psn.length = 1024) →
    let u := (g.zipIdx k).foldl (fun x t => x.setVt p e t.2 t.1.data t.1.psn) s
    s.OnlyVxStores u ∧
    (∀ j t, g[j]? = some t → (∀ i, i < 16384 → storeGet 0 u.vx (vtKey p e (k + j) + i) = t.data.getD i 0) ∧
      (∀ q, q < 1024 → storeGet false u.vxPsn (vtpKey p e (k + j) + q) = t.psn.getD q false)) ∧
    (∀ x, x < vtKey p e k ∨ vtKey p e (k + g.length) ≤ x → storeGet 0 u.vx x = storeGet 0 s.vx x) ∧
    (∀ x, x < vtpKey p e k ∨ vtpKey p e (k + g.length) ≤ x → storeGet false u.vxPsn x = storeGet false s.vxPsn x)
  | [], k, s, _ => ⟨rfl, fun j t h => by simp at h, fun _ _ => rfl, fun _ _ => rfl⟩
  | a :: g, k, s, hl => by
    obtain ⟨hd, hq⟩ := hl a (by simp)
    obtain ⟨hf, ht, hx, hp⟩ := foldl_setVt p e g (k + 1) (s.setVt p e k a.data a.psn) fun t h => hl t (by simp [h])
    have hk := vtKey_succ p e k
    have hkp := vtpKey_succ p e k
    have hg : vtKey p e (k + 1) ≤ vtKey p e (k + (g.length + 1)) := vtKey_le p e (by omega)
    have hgp : vtpKey p e (k + 1) ≤ vtpKey p e (k + (g.length + 1)) := vtpKey_le p e (by omega)
    have hn : k + 1 + g.length = k + (g.length + 1) := by omega
    rw [hn] at hx hp
    refine ⟨.trans (t := s.setVt p e k a.data a.psn) rfl hf, fun j t hj => ?_, fun x h => ?_, fun x h => ?_⟩
    · cases j with
      | zero =>
        obtain rfl : a = t := by simpa using hj
        rw [Nat.add_zero]
        exact ⟨fun i hi => (hx _ (.inl (by omega))).trans (State.vx_setVt _ _ _ _ _ hd hi),
          fun q hq' => (hp _ (.inl (by omega))).trans (State.vxPsn_setVt _ _ _ _ _ hq hq')⟩
      | succ j =>
        have e1 : k + (j + 1) = k + 1 + j := by omega
        rw [e1]
        exact ht j t (by simpa using hj)
    · rw [List.length_cons] at h
      exact (hx x (by omega)).trans (storeGet_setList_take 0 _ _ (by omega))
    · rw [List.length_cons] at h
      exact (hp x (by omega)).trans (storeGet_setList_take false _ _ (by omega))

/-- The first `n` tile registers at zero. -/
theorem forRange_zeroVt (s : State) (p e n : Nat) :
    let u := forRange n (fun t x => x.zeroVt p e t) s
    s.OnlyVxStores u ∧
    ∀ x, storeGet 0 u.vx x = if vtKey p e 0 ≤ x ∧ x < vtKey p e n then 0 else storeGet 0 s.vx x := by
  refine forRange_ind (I := fun n u => s.OnlyVxStores u ∧ ∀ x, storeGet 0 u.vx x =
    if vtKey p e 0 ≤ x ∧ x < vtKey p e n then 0 else storeGet 0 s.vx x) ⟨rfl, fun x => (if_neg (by omega)).symm⟩ ?_
  rintro i t - ⟨hf, hx⟩
  have hk := vtKey_succ p e i
  have h0 : vtKey p e 0 ≤ vtKey p e i := vtKey_le p e (Nat.zero_le _)
  refine ⟨hf.trans (u := t.zeroVt p e i) rfl, fun x => ?_⟩
  rw [State.zeroVt, storeGet_clear, hx]
  by_cases h : vtKey p e i ≤ x ∧ x < vtKey p e i + 16384
  · rw [if_pos h, if_pos (by omega)]
  · have hi : (vtKey p e 0 ≤ x ∧ x < vtKey p e (i + 1)) ↔ (vtKey p e 0 ≤ x ∧ x < vtKey p e i) := by omega
    rw [if_neg h]
    simp only [hi]

/-- An engine's registers before a group's tiles enter: tile registers at zero, and vector registers where `zero` says so. -/
def State.vxCleared (s : State) (p e : Nat) (zero : Bool) : State :=
  forRange 4 (fun t x => x.zeroVt p e t) (if zero then s.zeroVvs p e else s)

theorem State.vxCleared_only (s : State) (p e : Nat) (zero : Bool) : s.OnlyVxStores (s.vxCleared p e zero) := by
  refine .trans (t := if zero then s.zeroVvs p e else s) ?_ (forRange_zeroVt _ p e 4).1
  cases zero <;> rfl

theorem State.vx_vxCleared_tile (s : State) {p e : Nat} (zero : Bool) {k i : Nat} (hk : k < 4) (hi : i < 16384) :
    storeGet 0 (s.vxCleared p e zero).vx (vtKey p e k + i) = 0 := by
  have h0 : vtKey p e 0 ≤ vtKey p e k := vtKey_le p e (Nat.zero_le _)
  have h4 : vtKey p e (k + 1) ≤ vtKey p e 4 := vtKey_le p e (by omega)
  have hs := vtKey_succ p e k
  rw [State.vxCleared, (forRange_zeroVt _ p e 4).2, if_pos (by omega)]

/-- Element `i` of a vector register after the clearing. -/
theorem State.vx_vxCleared_vec (s : State) {p e : Nat} (hp : p < 8) (he : e < 2) (zero : Bool) {r i : Nat} (hr : r < 4) (hi : i < 128) :
    storeGet 0 (s.vxCleared p e zero).vx (vvKey p e r + i) = if zero then 0 else storeGet 0 s.vx (vvKey p e r + i) := by
  have hv := vtKey_lt_vvKey hp he (k := 3) (i := 16383) (by omega) (by omega) r i
  have h4 : vtKey p e 4 = vtKey p e 3 + 16384 := vtKey_succ p e 3
  rw [State.vxCleared, (forRange_zeroVt _ p e 4).2, if_neg (by omega)]
  cases zero
  · rfl
  · have hrange : vvKey p e 0 ≤ vvKey p e r + i ∧ vvKey p e r + i < vvKey p e 0 + 512 := by unfold vvKey; omega
    exact (storeGet_clear 0 s.vx _ _ _).trans (if_pos hrange)

/-- The engine that a group of a command loads. -/
def VxCmd.engine (v : VxCmd) (g : List Tile) : VxEng :=
  ⟨v.ctx, v.idx, v.desc, v.step, v.slots, dOp v.desc 3 2 + 1, g.map (fun t => (t.mt, t.nt)), false⟩

/-- A group's registers: cleared ones, and over them the group's tiles in order. -/
theorem State.vxLoadGroup_eq (s : State) (p e : Nat) (v : VxCmd) (g : List Tile) :
    s.vxLoadGroup p e v g =
      (let u := g.zipIdx.foldl (fun x t => x.setVt p e t.2 t.1.data t.1.psn)
          (s.vxCleared p e (v.next == 0 || dOp v.desc 0 2 == 3))
       { u with vxEng := storeSet none u.vxEng (2 * p + e) (some (v.engine g)) }, v.engine g) := rfl

theorem reportReg_VXE_STATUS {p : Nat} (hp : p < 8) : reportReg (VXE_STATUS p) = false := by
  simp only [reportReg, VXE_STATUS, partBase, EVR_RSEQ, EVR_STATUS, DBG_GSTATUS, Bool.or_eq_false_iff, beq_eq_false_iff_ne,
    Bool.and_eq_false_iff]
  omega

/-- REGROUP is set where the group runs again (R145). -/
theorem State.regroup_set (s : State) {p : Nat} (hp : p < 8) :
    (s.flagN (VXE_STATUS_REGROUP p) p 0x124 1).fld (VXE_STATUS_REGROUP p) = 1 := by
  rw [State.flagN, if_neg (by decide), State.fld_count _ _ _ _ (VXE_STATUS_REGROUP p) (reportReg_VXE_STATUS hp),
    State.fld_setFld_self _ _ _ (by simp [VXE_STATUS_REGROUP])]
  rfl

/-- Settles O28: the group's tiles enter cleared registers in order, and the ranges of two registers share no key. -/
theorem vectorGroupsRun : Obligations.VectorGroupsRun := by
  refine ⟨fun s p rerun v hv => ⟨fun g e es hg he => ⟨?_, fun hp => ?_⟩, fun h => ?_⟩, fun s p rerun hv => ?_, ?_⟩
  · show execVxeGroupStart p false s = _
    simp [execVxeGroupStart, hv, hg, he]
  · refine ⟨s.flagN (VXE_STATUS_REGROUP p) p 0x124 1, ?_, State.regroup_set s hp, (State.OnlyRegs.refl s _).flagN _ _ _ rfl⟩
    show execVxeGroupStart p true s = _
    simp [execVxeGroupStart, hv, hg, he]
  · show execVxeGroupStart p rerun s = _
    rcases h with h | h <;> simp [execVxeGroupStart, hv, h]
  · show execVxeGroupStart p rerun s = _
    simp [execVxeGroupStart, hv]
  · intro s p e v g hp he hg hl l
    have hl' : l = _ := State.vxLoadGroup_eq s p e v g
    obtain ⟨hf, ht, hx, -⟩ := foldl_setVt p e g 0 (s.vxCleared p e (v.next == 0 || dOp v.desc 0 2 == 3)) hl
    have hend := vtKey_le p e (k := g.length) (j := 4) hg
    have hvec : ∀ r i, r < 4 → i < 128 → storeGet 0 l.1.vx (vvKey p e r + i) =
        if (v.next == 0 || dOp v.desc 0 2 == 3) then 0 else storeGet 0 s.vx (vvKey p e r + i) := fun r i hr hi => by
      have hv := vtKey_lt_vvKey hp he (k := 3) (i := 16383) (by omega) (by omega) r i
      have h4 : vtKey p e 4 = vtKey p e 3 + 16384 := vtKey_succ p e 3
      rw [hl']
      exact (hx (vvKey p e r + i) (.inr (by rw [Nat.zero_add]; omega))).trans (State.vx_vxCleared_vec s hp he _ hr hi)
    refine ⟨rfl, rfl, rfl, rfl, by rw [hl']; exact storeGet_set_self (α := Option VxEng) none _ (2 * p + e) (some (v.engine g)),
      fun k t hk => ?_, fun k i h1 h2 hi => ?_, fun h r i hr hi => ?_, fun h1 h2 r i hr hi => ?_, ?_⟩
    · have := ht k t hk
      rw [Nat.zero_add] at this
      exact this
    · have h := vtKey_le p e h1
      rw [hl']
      exact (hx (vtKey p e k + i) (.inr (by rw [Nat.zero_add]; omega))).trans (State.vx_vxCleared_tile s _ h2 hi)
    · rw [hvec r i hr hi, if_pos (by simpa using h)]
    · rw [hvec r i hr hi, if_neg (by simp [h1, h2])]
    · rw [hl']
      have h := (s.vxCleared_only p e (v.next == 0 || dOp v.desc 0 2 == 3)).trans hf
      unfold State.OnlyVxStores at h
      simp only []
      rw [h]
      rfl

end Sys2Proof.Machine

/-! SUPPORT. Every step keeps the invariant: the laws of what each command keeps, put together over the opcode table. -/
namespace Sys2Proof.Machine

/-! ## Commands -/

/-- Whatever command it is, it keeps the queue and the invariant: its own row's operation does. -/
theorem exec_kept {cs : Keep} {s : State} (h : s.Kept cs) : ∀ c : Instr, KeptO cs (exec c s)
  | .powerOn env => execPowerOn_kept h env
  | .undervoltage mv us => execUndervoltage_kept h mv us
  | .overvoltage mv us => execOvervoltage_kept h mv us
  | .undervoltageRecovery env => execUndervoltageRecovery_kept h env
  | .overvoltageRecovery env => execOvervoltageRecovery_kept h env
  | .uvWarning mv => execUvWarning_kept h mv
  | .railOutOfRegulation r mv us => execRailOutOfRegulation_kept h r mv us
  | .pllLockLoss p => execPllLockLoss_kept h p
  | .tempSensorSample rs => execTempSensorSample_kept h rs
  | .thermTripNotRemoved => execThermTripNotRemoved_kept h
  | .stackTempSample p v => execStackTempSample_kept h p v
  | .powerSample w vin static rails => execPowerSample_kept h w vin static rails
  | .throttleStep => execThrottleStep_kept h
  | .domainPrewake d => execDomainPrewake_kept h d
  | .domainA1Entry d => execDomainA1Entry_kept h d
  | .domainA2Entry d => execDomainA2Entry_kept h d
  | .partitionIdleA2 p => execPartitionIdleA2_kept h p
  | .domainWakeTimeout d => execDomainWakeTimeout_kept h d
  | .a3Enter f => execA3Enter_kept h f
  | .a3Exit f => execA3Exit_kept h f
  | .domainSleepRequest f d => execDomainSleepRequest_kept h f d
  | .domainHoldAwake f d hold => execDomainHoldAwake_kept h f d hold
  | .capWrite f w => execCapWrite_kept h f w
  | .pwrCycleReqTimeout => execPwrCycleReqTimeout_kept h
  | .kprEscClearWrite f env => execKprEscClearWrite_kept h f env
  | .cmdNop p ctx => execCmdNop_kept h p ctx
  | .mxeAccumulate p ctx env => execMxeAccumulate_kept h p ctx env
  | .mxeFp32 p ctx env => execMxeFp32_kept h p ctx env
  | .mxePreload p ctx env => execMxePreload_kept h p ctx env
  | .cmdVxe p ctx env => execCmdVxe_kept h p ctx env
  | .vxeGroupStart p rerun => execVxeGroupStart_kept h p rerun
  | .vxeOpMov p e n w => execVxeOpMov_kept h p e n w
  | .vxeOpAdd p e n w => execVxeOpAdd_kept h p e n w
  | .vxeOpSub p e n w => execVxeOpSub_kept h p e n w
  | .vxeOpMul p e n w => execVxeOpMul_kept h p e n w
  | .vxeOpFma p e n w => execVxeOpFma_kept h p e n w
  | .vxeOpMax p e n w => execVxeOpMax_kept h p e n w
  | .vxeOpMin p e n w => execVxeOpMin_kept h p e n w
  | .vxeOpAbs p e n w => execVxeOpAbs_kept h p e n w
  | .vxeOpNeg p e n w => execVxeOpNeg_kept h p e n w
  | .vxeOpSel p e n w => execVxeOpSel_kept h p e n w
  | .vxeOpCmask p e n w => execVxeOpCmask_kept h p e n w
  | .vxeOpCvt p e n w => execVxeOpCvt_kept h p e n w
  | .vxeOpExp p e n w => execVxeOpExp_kept h p e n w
  | .vxeOpExp2 p e n w => execVxeOpExp2_kept h p e n w
  | .vxeOpRcp p e n w => execVxeOpRcp_kept h p e n w
  | .vxeOpRsqrt p e n w => execVxeOpRsqrt_kept h p e n w
  | .vxeOpSqrt p e n w => execVxeOpSqrt_kept h p e n w
  | .vxeOpLog p e n w => execVxeOpLog_kept h p e n w
  | .vxeOpTanh p e n w => execVxeOpTanh_kept h p e n w
  | .vxeOpSigmoid p e n w => execVxeOpSigmoid_kept h p e n w
  | .vxeOpSilu p e n w => execVxeOpSilu_kept h p e n w
  | .vxeOpGelu p e n w => execVxeOpGelu_kept h p e n w
  | .vxeOpRowsum p e n w => execVxeOpRowsum_kept h p e n w
  | .vxeOpRowmax p e n w => execVxeOpRowmax_kept h p e n w
  | .vxeOpColsum p e n w => execVxeOpColsum_kept h p e n w
  | .vxeOpColmax p e n w => execVxeOpColmax_kept h p e n w
  | .vxeOpVsum p e n w => execVxeOpVsum_kept h p e n w
  | .vxeOpVmax p e n w => execVxeOpVmax_kept h p e n w
  | .vxeOpLdv p e n w => execVxeOpLdv_kept h p e n w
  | .vxeOpStv p e n w => execVxeOpStv_kept h p e n w
  | .vxeOpSput p e n w => execVxeOpSput_kept h p e n w
  | .updSgd p ctx env => execUpdSgd_kept h p ctx env
  | .updFactored p ctx env => execUpdFactored_kept h p ctx env
  | .updSampleCrosscheck p flips => execUpdSampleCrosscheck_kept h p flips
  | .cmdMove p ctx env => execCmdMove_kept h p ctx env
  | .cmdSend p ctx env => execCmdSend_kept h p ctx env
  | .collReduceScatter p ctx env => execCollReduceScatter_kept h p ctx env
  | .collAllGather p ctx env => execCollAllGather_kept h p ctx env
  | .collAllReduce p ctx env => execCollAllReduce_kept h p ctx env
  | .collStageReady place => execCollStageReady_kept h place
  | .moeDispatch p ctx env => execMoeDispatch_kept h p ctx env
  | .moeCombine p ctx env => execMoeCombine_kept h p ctx env
  | .cmdStepEnd p ctx => execCmdStepEnd_kept h p ctx
  | .malformedDescriptorHalt p ctx => execMalformedDescriptorHalt_kept h p ctx
  | .commandComplete p ctx idx => execCommandComplete_kept h p ctx idx
  | .waitTimeout p ctx => execWaitTimeout_kept h p ctx
  | .tmbValueWrite f p n v => execTmbValueWrite_kept h f p n v
  | .ringDoorbell f p m v => execRingDoorbell_kept h f p m v
  | .ringEnable f p m => execRingEnable_kept h f p m
  | .ringDisable f p m => execRingDisable_kept h f p m
  | .jobScalarWrite f p n hi v => execJobScalarWrite_kept h f p n hi v
  | .updEtaWrite f p v => execUpdEtaWrite_kept h f p v
  | .etaTimeout p => execEtaTimeout_kept h p
  | .arrivalInstant j dynJ => execArrivalInstant_kept h j dynJ
  | .haspPhase1Complete j => execHaspPhase1Complete_kept h j
  | .readyNotice src m => execReadyNotice_kept h src m
  | .holdNotice src m => execHoldNotice_kept h src m
  | .hingeRelease src m => execHingeRelease_kept h src m
  | .stepStart j => execStepStart_kept h j
  | .hingeTimeout j => execHingeTimeout_kept h j
  | .mtbfWrite f j v => execMtbfWrite_kept h f j v
  | .registerWrite f a v => execRegisterWrite_kept h f a v
  | .tableShadowWrite f a v => execTableShadowWrite_kept h f a v
  | .tableSwapArm f v => execTableSwapArm_kept h f v
  | .tableCopyComplete => execTableCopyComplete_kept h
  | .codewordReceive q lane bad fec seq cmask units => execCodewordReceive_kept h q lane bad fec seq cmask units
  | .linkAck q seq => execLinkAck_kept h q seq
  | .linkNak q seq => execLinkNak_kept h q seq
  | .linkCredit q c => execLinkCredit_kept h q c
  | .linkTrain q u => execLinkTrain_kept h q u
  | .linkLane q mask => execLinkLane_kept h q mask
  | .portTrainStart q kept partner => execPortTrainStart_kept h q kept partner
  | .portTrainTimeout q => execPortTrainTimeout_kept h q
  | .portTrainRetry q kept partner => execPortTrainRetry_kept h q kept partner
  | .portDown q reason => execPortDown_kept h q reason
  | .dampHoldExpiry q kept partner => execDampHoldExpiry_kept h q kept partner
  | .dampQuietExpiry q => execDampQuietExpiry_kept h q
  | .flowSwitchHoldExpiry n => execFlowSwitchHoldExpiry_kept h n
  | .laneLockLoss x => execLaneLockLoss_kept h x
  | .laneUeLimit x => execLaneUeLimit_kept h x
  | .laneRetrainTimeout x => execLaneRetrainTimeout_kept h x
  | .laneRejoin x => execLaneRejoin_kept h x
  | .laneReadmit f k mask => execLaneReadmit_kept h f k mask
  | .slotBoundary => execSlotBoundary_kept h
  | .packetTransmit q par => execPacketTransmit_kept h q par
  | .packetReceive q tbl par peers => execPacketReceive_kept h q tbl par peers
  | .gapTimeout n => execGapTimeout_kept h n
  | .timeExchangeStart q => execTimeExchangeStart_kept h q
  | .timeReq q hops xseq t1 => execTimeReq_kept h q hops xseq t1
  | .timeResp q hops t1 t2 t3 => execTimeResp_kept h q hops t1 t2 t3
  | .timeHoldoverExpiry => execTimeHoldoverExpiry_kept h
  | .satWindowEnd => execSatWindowEnd_kept h
  | .bchunk src m => execBchunk_kept h src m
  | .bhb src m => execBhb_kept h src m
  | .bhbSend => execBhbSend_kept h
  | .attach src m => execAttach_kept h src m
  | .attachAck src m => execAttachAck_kept h src m
  | .breq src m => execBreq_kept h src m
  | .bdone src m => execBdone_kept h src m
  | .bcastParentLost j handle => execBcastParentLost_kept h j handle
  | .bcastChunkTimeout j handle c => execBcastChunkTimeout_kept h j handle c
  | .bcastChildLost j handle gid => execBcastChildLost_kept h j handle gid
  | .attachTimeout j handle => execAttachTimeout_kept h j handle
  | .unaccountedTimeout j handle gid => execUnaccountedTimeout_kept h j handle gid
  | .jobTreeAttachRetry j => execJobTreeAttachRetry_kept h j
  | .haspChunkTimeout j p stripe => execHaspChunkTimeout_kept h j p stripe
  | .hreq src m => execHreq_kept h src m
  | .hsum src m => execHsum_kept h src m
  | .huse src m => execHuse_kept h src m
  | .hpick src m => execHpick_kept h src m
  | .hget src m => execHget_kept h src m
  | .hfault src m => execHfault_kept h src m
  | .haspRebuildComplete j => execHaspRebuildComplete_kept h j
  | .drainTimeout j => execDrainTimeout_kept h j
  | .ghbSend j => execGhbSend_kept h j
  | .ghb src m => execGhb_kept h src m
  | .ghbMiss j gid => execGhbMiss_kept h j gid
  | .rcut src m peers => execRcut_kept h src m peers
  | .recoveryHingeArrival j dynJ peers => execRecoveryHingeArrival_kept h j dynJ peers
  | .cutTimeout j => execCutTimeout_kept h j
  | .replayRebuildComplete j lsid => execReplayRebuildComplete_kept h j lsid
  | .lreq src m => execLreq_kept h src m
  | .lnak src m => execLnak_kept h src m
  | .rcopy src m => execRcopy_kept h src m
  | .fsync src m => execFsync_kept h src m
  | .replicaCopyComplete j lsid => execReplicaCopyComplete_kept h j lsid
  | .rabort src m => execRabort_kept h src m
  | .deadbolt src m => execDeadbolt_kept h src m
  | .hello n => execHello_kept h n
  | .errorRecordWrite => execErrorRecordWrite_kept h
  | .d2dRetry unit addr mask prod => execD2dRetry_kept h unit addr mask prod
  | .migrationComplete p hbm ecc => execMigrationComplete_kept h p hbm ecc
  | .exposureSample activity => execExposureSample_kept h activity
  | .twoKeyCheck p eng flips => execTwoKeyCheck_kept h p eng flips
  | .twoKeySiblingRepeat p eng flips => execTwoKeySiblingRepeat_kept h p eng flips
  | .twoKeyOutcome p eng => execTwoKeyOutcome_kept h p eng
  | .scrubRead p hbm how => execScrubRead_kept h p hbm how
  | .hangDetect u => execHangDetect_kept h u
  | .contextReset p ctx => execContextReset_kept h p ctx
  | .engineReset u => execEngineReset_kept h u
  | .engineSelfTestDone u pass => execEngineSelfTestDone_kept h u pass
  | .partitionReset p => execPartitionReset_kept h p
  | .moduleReset env => execModuleReset_kept h env
  | .powerCycleRequest => execPowerCycleRequest_kept h
  | .pcieConventionalReset how => execPcieConventionalReset_kept h how
  | .functionLevelReset f => execFunctionLevelReset_kept h f
  | .resetBoundExpiry kind p ctx unit => execResetBoundExpiry_kept h kind p ctx unit
  | .ccHeartbeatSample p beats => execCcHeartbeatSample_kept h p beats
  | .keeperWatchdog => execKeeperWatchdog_kept h
  | .watchdogBootTimeout => execWatchdogBootTimeout_kept h
  | .lockstepMismatch => execLockstepMismatch_kept h
  | .clockFault => execClockFault_kept h
  | .i3cTargetFault => execI3cTargetFault_kept h
  | .rstReqContext f p ctx => execRstReqContext_kept h f p ctx
  | .rstReqEngine f p eng hub => execRstReqEngine_kept h f p eng hub
  | .rstReqPartition f p => execRstReqPartition_kept h f p
  | .rstReqModule f => execRstReqModule_kept h f
  | .rstReqPowerCycle f => execRstReqPowerCycle_kept h f
  | .errRingHeadWrite f v => execErrRingHeadWrite_kept h f v
  | .opminTick m => execOpminTick_kept h m
  | .dayClose => execDayClose_kept h
  | .monthClose => execMonthClose_kept h
  | .accumulatorCheckpoint => execAccumulatorCheckpoint_kept h
  | .recorderFlush bad => execRecorderFlush_kept h bad
  | .stateCopyWrite => execStateCopyWrite_kept h
  | .opImageLoad f img => execOpImageLoad_kept h f img
  | .imageLoadCommit => execImageLoadCommit_kept h
  | .imageLoadValidTimeout => execImageLoadValidTimeout_kept h
  | .opImageUnload f => execOpImageUnload_kept h f
  | .opTableLoad f img peers => execOpTableLoad_kept h f img peers
  | .opProgramLoad f prog => execOpProgramLoad_kept h f prog
  | .opBroadcast f => execOpBroadcast_kept h f
  | .opHaspDrain f bufs => execOpHaspDrain_kept h f bufs
  | .opHaspRestore f => execOpHaspRestore_kept h f
  | .opDurableRestore f objs => execOpDurableRestore_kept h f objs
  | .opRehost f added peers => execOpRehost_kept h f added peers
  | .opSelfTest f fails => execOpSelfTest_kept h f fails
  | .opRecorderRead f bad aged => execOpRecorderRead_kept h f bad aged
  | .uhsReadmit f => execUhsReadmit_kept h f
  | .uhsClearHealth f => execUhsClearHealth_kept h f
  | .uhsClearCond f => execUhsClearCond_kept h f
  | .opAbort f => execOpAbort_kept h f
  | .opCompletionPost => execOpCompletionPost_kept h
  | .cqHeadWrite f v => execCqHeadWrite_kept h f v
  | .cqEnable f v => execCqEnable_kept h f v
  | .hostHbmRead f x n env => execHostHbmRead_kept h f x n env
  | .hostHbmWrite f x l psn => execHostHbmWrite_kept h f x l psn
  | .mbxSend n who off enabled l => execMbxSend_kept h n who off enabled l
  | .mbxTake n who v => execMbxTake_kept h n who v
  | .remoteMailboxSend f v => execRemoteMailboxSend_kept h f v
  | .irqRaise f v => execIrqRaise_kept h f v
  | .counterClear f p n => execCounterClear_kept h f p n
  | .counterClearAll f p => execCounterClearAll_kept h f p
  | .traceArm f p => execTraceArm_kept h f p
  | .traceTrigger f p => execTraceTrigger_kept h f p
  | .tapExtest v => execTapExtest_kept h v
  | .tapSamplePreload v => execTapSamplePreload_kept h v
  | .tapIdcode => execTapIdcode_kept h
  | .tapHighz => execTapHighz_kept h
  | .tapClamp => execTapClamp_kept h
  | .tapBypass => execTapBypass_kept h
  | .dbgRegRead a => execDbgRegRead_kept h a
  | .dbgRegWrite a v env => execDbgRegWrite_kept h a v env
  | .dbgHbmRead a ecc => execDbgHbmRead_kept h a ecc
  | .dbgHbmWrite a v => execDbgHbmWrite_kept h a v
  | .dbgHalt halt resume => execDbgHalt_kept h halt resume
  | .sbImageRefresh => execSbImageRefresh_kept h
  | .sbPrivateWrite l rd env => execSbPrivateWrite_kept h l rd env
  | .sbAlertClear v => execSbAlertClear_kept h v
  | .sbGidWrite v => execSbGidWrite_kept h v
  | .sbFwDataWrite l => execSbFwDataWrite_kept h l
  | .exitA3 => execExitA3_kept h
  | .escClear env => execEscClear_kept h env
  | .sbModuleReset => execSbModuleReset_kept h
  | .debugEnable => execDebugEnable_kept h
  | .debugDisable => execDebugDisable_kept h
  | .keyProvision k => execKeyProvision_kept h k
  | .keyRevoke k => execKeyRevoke_kept h k
  | .fwBegin => execFwBegin_kept h
  | .fwCommit env => execFwCommit_kept h env
  | .fwAbort => execFwAbort_kept h
  | .cccEntdaa addr => execCccEntdaa_kept h addr
  | .cccSetdasa st addr => execCccSetdasa_kept h st addr
  | .cccSetnewda addr => execCccSetnewda_kept h addr
  | .cccRstdaa => execCccRstdaa_kept h
  | .cccEnec => execCccEnec_kept h
  | .cccDisec => execCccDisec_kept h
  | .cccGetpid => execCccGetpid_kept h
  | .cccGetbcr => execCccGetbcr_kept h
  | .cccGetdcr => execCccGetdcr_kept h
  | .cccGetstatus => execCccGetstatus_kept h
  | .cccGetmwl => execCccGetmwl_kept h
  | .cccGetmrl => execCccGetmrl_kept h
  | .perstDeassert rate width flit => execPerstDeassert_kept h rate width flit
  | .laneRetrainRetry x => execLaneRetrainRetry_kept h x
  | .sbCommandEnd => execSbCommandEnd_kept h
  | .submitRefused f wide => execSubmitRefused_kept h f wide
  | .registerRead f a wide => execRegisterRead_kept h f a wide
  | .silenceReportRepeat j gid => execSilenceReportRepeat_kept h j gid
  | .tapTestLogicReset => execTapTestLogicReset_kept h

/-! ## The invariant alone -/

/-- A state with the invariant keeps its own queue and the invariant. -/
theorem State.Inv.kept {s : State} (h : s.Inv) : s.Kept ⟨s.pending, True⟩ := ⟨rfl, fun _ => h⟩

theorem State.Kept.inv {q : List Instr} {s : State} (h : s.Kept ⟨q, True⟩) : s.Inv := h.2 trivial

/-- The invariant does not speak of the queue. -/
theorem State.Inv.withPending {s : State} (h : s.Inv) (q : List Instr) : ({ s with pending := q } : State).Inv := h

theorem State.Inv.idleTick {s : State} (h : s.Inv) : s.idleTick.Inv := (State.idleTick_kept h.kept).inv

/-- A command that answers a next state answers one with the invariant. -/
theorem State.Inv.exec {s t : State} (h : s.Inv) {c : Instr} (e : exec c s = .next t) : t.Inv := by
  have hk : KeptO ⟨s.pending, True⟩ (.next t) := e ▸ exec_kept h.kept c
  exact State.Kept.inv hk

/-! ## Steps -/

theorem step_idle {s : State} (h : s.pending = []) : step s = .next s.idleTick := by
  simp only [step, h]

theorem step_command {s : State} {c : Instr} {q : List Instr} (h : s.pending = c :: q) :
    step s = exec c { s with pending := q } := by
  simp only [step, h]

/-- Settles O4: a step is one idle tick or the command at the front of the queue, and each keeps the invariant. -/
theorem stepKeepsTheInvariant : Obligations.StepKeepsTheInvariant := by
  intro s s' hinv hstep
  cases hq : s.pending with
  | nil =>
    have e : s.idleTick = s' := by simpa [step_idle hq] using hstep
    exact e ▸ hinv.idleTick
  | cons c q =>
    rw [step_command hq] at hstep
    exact (hinv.withPending q).exec hstep

end Sys2Proof.Machine

/-! SUPPORT. The history record of a step: two datums that hold eighteen words and a mark, read back as they were written. -/
namespace Sys2Proof.Machine

/-! ## Numbers read from memory -/

/-- Bytes that are those of a number, read as a number. -/
theorem State.rdBytes_of_byte {s : State} {n : Nat} : ∀ {a v : Nat}, (∀ i, i < n → s.byte (a + i) = BitVec.ofNat 8 (v / 256 ^ i)) →
    s.rdBytes a n = v % 256 ^ n := by
  induction n with
  | zero => exact fun _ => (Nat.mod_one _).symm
  | succ n ih =>
    intro a v h
    have h0 : s.byte a = BitVec.ofNat 8 v := (h 0 (Nat.succ_pos n)).trans (congrArg _ (Nat.div_one v))
    have hrest : s.rdBytes (a + 1) n = v / 256 % 256 ^ n := ih fun i hi => by
      rw [Nat.div_div_eq_div_mul, ← Nat.pow_succ', ← h (i + 1) (by omega), Nat.add_right_comm, Nat.add_assoc]
    calc s.rdBytes a (n + 1)
        = v % 256 + 256 * (v / 256 % 256 ^ n) := by rw [State.rdBytes, h0, hrest, BitVec.toNat_ofNat]
      _ = v % 256 ^ (n + 1) := by rw [Nat.pow_succ', Nat.mod_mul]

/-- A number of up to 128 bytes written over two datums in a row reads back. -/
theorem State.rdBytes_wrDatum_pair (s : State) (a v : Nat) (q q' : Bool) :
    ((s.wrDatum a v q).wrDatum (a + 1) (v / 256 ^ 64) q').rdBytes (64 * a) 128 = v % 256 ^ 128 := by
  refine State.rdBytes_of_byte fun i hi => ?_
  rw [State.byte_wrDatum, State.byte_wrDatum]
  by_cases hlow : i < 64
  · have hd : (64 * a + i) / 64 = a := by omega
    have hm : (64 * a + i) % 64 = i := by omega
    rw [hd, hm, if_neg (by omega), if_pos rfl]
  · have hd : (64 * a + i) / 64 = a + 1 := by omega
    have hi : i = 64 + (64 * a + i) % 64 := by omega
    rw [if_pos hd, Nat.div_div_eq_div_mul, ← Nat.pow_add, ← hi]

/-- With every channel in service and no parity error a datum is poisoned as it is stored. -/
theorem State.psn_of_clean {s : State} (hp : s.parityBad = []) (hd : s.deadChan = []) (d : Nat) :
    s.psn d = storeGet false s.poison d := by
  simp only [State.psn, State.onDead, hp, hd, List.contains_nil, Bool.or_false]

/-! ## Numbers in base 2³² -/

/-- The number whose words in base 2³² are those of a list, lowest first. -/
def wordsNat : List Nat → Nat
  | [] => 0
  | w :: t => w + 2 ^ 32 * wordsNat t

theorem wordsNat_append (l m : List Nat) : wordsNat (l ++ m) = wordsNat l + (2 ^ 32) ^ l.length * wordsNat m := by
  induction l with
  | nil => rw [List.nil_append, List.length_nil, Nat.pow_zero, Nat.one_mul, wordsNat, Nat.zero_add]
  | cons w t ih => rw [List.cons_append, wordsNat, wordsNat, ih, List.length_cons, Nat.pow_succ' (n := t.length),
      Nat.mul_add, Nat.mul_assoc, Nat.add_assoc]

/-- Each word stands at its place. -/
theorem wordsNat_word {l : List Nat} (h : ∀ w ∈ l, w < 2 ^ 32) (k : Nat) : wordsNat l / (2 ^ 32) ^ k % 2 ^ 32 = l.getD k 0 := by
  induction l generalizing k with
  | nil => rw [wordsNat, Nat.zero_div, Nat.zero_mod, List.getD_nil]
  | cons w t ih =>
    have hw : w < 2 ^ 32 := h w List.mem_cons_self
    cases k with
    | zero =>
      rw [Nat.pow_zero, Nat.div_one, wordsNat, Nat.add_mul_mod_self_left, Nat.mod_eq_of_lt hw, List.getD_cons_zero]
    | succ k =>
      have hrest : (w + 2 ^ 32 * wordsNat t) / 2 ^ 32 = wordsNat t := by omega
      rw [wordsNat, Nat.pow_succ' (n := k), ← Nat.div_div_eq_div_mul, hrest, ih (fun x hx => h x (List.mem_cons_of_mem w hx)),
        List.getD_cons_succ]

theorem wordsNat_lt {l : List Nat} (h : ∀ w ∈ l, w < 2 ^ 32) : wordsNat l < (2 ^ 32) ^ l.length := by
  induction l with
  | nil => exact Nat.one_pos
  | cons w t ih =>
    have hw : w < 2 ^ 32 := h w List.mem_cons_self
    have ht : wordsNat t < (2 ^ 32) ^ t.length := ih fun x hx => h x (List.mem_cons_of_mem w hx)
    rw [wordsNat, List.length_cons, Nat.pow_succ' (n := t.length)]
    generalize (2 ^ 32) ^ t.length = b at ht ⊢
    omega

/-- Words placed one above the other from bit 64 on. -/
theorem foldl_words (x : Nat → Nat) (n : Nat) : (List.range n).foldl (fun m i => m + x i * 2 ^ (64 + 32 * i)) 0 =
    2 ^ 64 * wordsNat ((List.range n).map x) := by
  induction n with
  | zero => rfl
  | succ n ih =>
    have hword : wordsNat [x n] = x n := rfl
    have hplace : x n * 2 ^ (64 + 32 * n) = 2 ^ 64 * ((2 ^ 32) ^ n * x n) := by
      rw [Nat.pow_add, Nat.pow_mul, Nat.mul_comm, Nat.mul_assoc]
    rw [List.range_succ, List.foldl_append, ih, List.foldl_cons, List.foldl_nil, List.map_append, List.map_singleton,
      wordsNat_append, List.length_map, List.length_range, hword, hplace, Nat.mul_add]

/-! ## The words of a history record (R233) -/

/-- The words of the history record of a step, lowest first: the step, the step size and the coefficients in effect, and
the mark of a record. -/
def State.histWords (s : State) (p step : Nat) : List Nat :=
  step :: s.fld (UPD_ETA_CUR_ETA p) :: (List.range 16).map (fun i => s.fld (UPD_COEF_CUR_VALUE p i)) ++ [1]

/-- The datum at which the history record of a step begins. -/
def State.histDatum (s : State) (p step : Nat) : Nat := localDatum p (s.fld (UPD_HIST_BASE_BASE p) + 2 * (step % 4096))

/-- The history record of a step as a number. -/
def State.histNum (s : State) (p step : Nat) : Nat := wordsNat (s.histWords p step)

theorem State.length_histWords (s : State) (p step : Nat) : (s.histWords p step).length = 19 := by
  rw [histWords, List.length_append, List.length_cons, List.length_cons, List.length_map, List.length_range, List.length_singleton]

theorem State.histNum_eq (s : State) (p step : Nat) : s.histNum p step = step + s.fld (UPD_ETA_CUR_ETA p) * 2 ^ 32 +
    (List.range 16).foldl (fun n i => n + s.fld (UPD_COEF_CUR_VALUE p i) * 2 ^ (64 + 32 * i)) 0 + 2 ^ 576 := by
  have hmark : (2 : Nat) ^ 576 = (2 ^ 32) ^ 18 * wordsNat [1] := (Nat.pow_mul 2 32 18).trans (Nat.mul_one _).symm
  rw [hmark, foldl_words, histNum, histWords, wordsNat_append, wordsNat, wordsNat, List.length_cons, List.length_cons,
    List.length_map, List.length_range]
  generalize (2 ^ 32) ^ 18 * wordsNat [1] = mark
  omega

theorem State.histWords_lt (s : State) (p : Nat) {step : Nat} (h : step < 2 ^ 32) : ∀ w ∈ s.histWords p step, w < 2 ^ 32 := by
  simp only [histWords, List.mem_append, List.mem_cons, List.mem_map, List.not_mem_nil, or_false]
  rintro w ((rfl | rfl | ⟨i, -, rfl⟩) | rfl)
  · exact h
  · exact s.fld_lt (UPD_ETA_CUR_ETA p)
  · exact s.fld_lt (UPD_COEF_CUR_VALUE p i)
  · decide

/-- The words of the record as its bits. -/
theorem State.bits_histNum (s : State) (p : Nat) {step : Nat} (h : step < 2 ^ 32) (k : Nat) :
    bits (s.histNum p step) (32 * k) 32 = (s.histWords p step).getD k 0 := by
  rw [bits, Nat.shiftRight_eq_div_pow, Nat.pow_mul]
  exact wordsNat_word (s.histWords_lt p h) k

theorem bitAt_eq_bits (v i : Nat) : bitAt v i = bitAt (bits v i 32) 0 := by
  rw [bitAt, bitAt, bits, Nat.shiftRight_zero, Nat.mod_mod_of_dvd _ (by decide)]

/-- The mark of a record is set. -/
theorem State.bitAt_histNum_mark (s : State) (p : Nat) {step : Nat} (h : step < 2 ^ 32) : bitAt (s.histNum p step) 576 = true := by
  have hmark : bits (s.histNum p step) 576 32 = 1 := s.bits_histNum p h 18
  rw [bitAt_eq_bits, hmark]
  rfl

/-- A history record fills less than its two datums. -/
theorem State.histNum_lt (s : State) (p : Nat) {step : Nat} (h : step < 2 ^ 32) : s.histNum p step < 256 ^ 128 :=
  calc s.histNum p step
      < (2 ^ 32) ^ 19 := s.length_histWords p step ▸ wordsNat_lt (s.histWords_lt p h)
    _ = (256 ^ 4) ^ 19 := rfl
    _ = 256 ^ (4 * 19) := (Nat.pow_mul 256 4 19).symm
    _ ≤ 256 ^ 128 := Nat.pow_le_pow_right (by decide) (by decide)

/-! ## The record in memory -/

theorem State.histWrite_eq (s : State) (p step : Nat) : s.histWrite p step =
    (s.wrDatum (s.histDatum p step) (s.histNum p step) false).wrDatum (s.histDatum p step + 1) (s.histNum p step / 256 ^ 64) false := by
  have hhalf : (2 : Nat) ^ 512 = 256 ^ 64 := Nat.pow_mul 2 8 64
  rw [State.histNum_eq, ← hhalf]
  rfl

theorem State.rdBytes_histWrite (s : State) (p : Nat) {step : Nat} (h : step < 2 ^ 32) :
    (s.histWrite p step).rdBytes (64 * s.histDatum p step) 128 = s.histNum p step := by
  rw [State.histWrite_eq, State.rdBytes_wrDatum_pair, Nat.mod_eq_of_lt (s.histNum_lt p h)]

/-- Neither datum of a record just written is poisoned. -/
theorem State.psn_histWrite {s : State} (hp : s.parityBad = []) (hd : s.deadChan = []) (p step : Nat) :
    (s.histWrite p step).psn (s.histDatum p step) = false ∧ (s.histWrite p step).psn (s.histDatum p step + 1) = false := by
  have hpsn : ∀ d, (s.histWrite p step).psn d = storeGet false (s.histWrite p step).poison d := State.psn_of_clean hp hd
  constructor
  · rw [hpsn, State.histWrite_eq, State.poison_wrDatum, if_neg (by omega), State.poison_wrDatum, if_pos rfl]
  · rw [hpsn, State.histWrite_eq, State.poison_wrDatum, if_pos rfl]

/-- What a read of a history record finds where neither datum is poisoned and the record is one of its step (R234). -/
theorem State.histRead_of_clean {s : State} {p step : Nat} (h0 : s.psn (s.histDatum p step) = false)
    (h1 : s.psn (s.histDatum p step + 1) = false) {v : Nat} (hv : s.rdBytes (64 * s.histDatum p step) 128 = v)
    (hmark : bitAt v 576 = true) (hstep : bits v 0 32 = step) :
    s.histRead p step = some ((List.range 17).map (fun i => bits v (32 * (i + 1)) 32)) := by
  subst hv
  have hplace : ∀ i, 32 * (i + 1) = 32 + 32 * i := fun i => by omega
  simp only [hplace]
  refine if_neg ?_
  rw [← histDatum, h0, h1, hmark, hstep, bne_self_eq_false]
  decide

/-- Settles O23: the record is the number of its words in base 2³², so each of its words reads back at its place. -/
theorem historyRecordReadsBack : Obligations.HistoryRecordReadsBack := by
  intro s p step _ hstep hp hd
  have hword := s.bits_histNum p hstep
  obtain ⟨h0, h1⟩ := State.psn_histWrite hp hd p step
  rw [State.histRead_of_clean (s := s.histWrite p step) h0 h1 (s.rdBytes_histWrite p hstep)
    (s.bitAt_histNum_mark p hstep) (hword 0)]
  simp only [hword]
  rfl

end Sys2Proof.Machine

/-! SUPPORT. Packet headers: the fields of a header are the digits of its number, and its HCRC is the CRC-16 of R259. -/
namespace Sys2Proof.Machine

/-! ## Little-endian bytes -/

theorem leBytes_getD {n i : Nat} (h : i < n) (v : Nat) : (leBytes n v).getD i 0 = v / 256 ^ i % 256 := by
  rw [leBytes_eq, getD_map_range 0 _ h]

theorem leBytes_length (n v : Nat) : (leBytes n v).length = n := by
  rw [leBytes_eq, List.length_map, List.length_range]

theorem leBytes_mod (n v : Nat) : leBytes n (v % 256 ^ n) = leBytes n v := by
  induction n generalizing v with
  | zero => rfl
  | succ n ih =>
    rw [leBytes, leBytes, Nat.pow_succ', Nat.mod_mul_right_mod, Nat.mod_mul_right_div_self, ih]

theorem leBytes_lt {n v b : Nat} (h : b ∈ leBytes n v) : b < 256 := by
  rw [leBytes_eq] at h
  obtain ⟨j, -, rfl⟩ := List.mem_map.mp h
  exact Nat.mod_lt _ (by decide)

/-! ## Fields packed one above the other -/

/-- The number whose bits are those of fields one above the other, lowest first, each given by its width and value. -/
def packFields : List (Nat × Nat) → Nat
  | [] => 0
  | f :: t => f.2 + 2 ^ f.1 * packFields t

/-- The bits that packed fields fill. -/
def fieldsWidth (l : List (Nat × Nat)) : Nat := (l.map Prod.fst).sum

/-- The fields stand in the bits of a number from bit `lo` on, one above the other. -/
def FieldsAt (n lo : Nat) : List (Nat × Nat) → Prop
  | [] => True
  | f :: t => bits n lo f.1 = f.2 ∧ FieldsAt n (lo + f.1) t

theorem packFields_lt {l : List (Nat × Nat)} (h : ∀ f ∈ l, f.2 < 2 ^ f.1) : packFields l < 2 ^ fieldsWidth l := by
  unfold fieldsWidth
  induction l with
  | nil => exact Nat.one_pos
  | cons f t ih =>
    have hf : f.2 < 2 ^ f.1 := h f List.mem_cons_self
    have ht : packFields t + 1 ≤ 2 ^ (t.map Prod.fst).sum := ih fun x hx => h x (List.mem_cons_of_mem f hx)
    calc f.2 + 2 ^ f.1 * packFields t
        < 2 ^ f.1 * (packFields t + 1) := by rw [Nat.mul_add, Nat.mul_one]; omega
      _ ≤ 2 ^ f.1 * 2 ^ (t.map Prod.fst).sum := Nat.mul_le_mul_left _ ht
      _ = 2 ^ ((f :: t).map Prod.fst).sum := by rw [List.map_cons, List.sum_cons, Nat.pow_add]

/-- Packed fields stand at the bits from which they fill the number. -/
theorem fieldsAt_of_packFields {n lo : Nat} {l : List (Nat × Nat)} (h : ∀ f ∈ l, f.2 < 2 ^ f.1) (e : n / 2 ^ lo = packFields l) :
    FieldsAt n lo l := by
  induction l generalizing lo with
  | nil => trivial
  | cons f t ih =>
    have hf : f.2 < 2 ^ f.1 := h f List.mem_cons_self
    refine ⟨?_, ih (fun x hx => h x (List.mem_cons_of_mem f hx)) ?_⟩
    · rw [bits, Nat.shiftRight_eq_div_pow, e, packFields, Nat.add_mul_mod_self_left, Nat.mod_eq_of_lt hf]
    · rw [Nat.pow_add, ← Nat.div_div_eq_div_mul, e, packFields, Nat.add_mul_div_left _ _ (Nat.two_pow_pos _),
        Nat.div_eq_of_lt hf, Nat.zero_add]

theorem packFields_append (l m : List (Nat × Nat)) :
    packFields (l ++ m) = packFields l + 2 ^ fieldsWidth l * packFields m := by
  induction l with
  | nil => simp [packFields, fieldsWidth]
  | cons f t ih =>
    rw [fieldsWidth] at *
    rw [List.cons_append, packFields, packFields, ih, List.map_cons, List.sum_cons, Nat.pow_add, Nat.mul_add, Nat.add_assoc,
      Nat.mul_assoc]

/-! ## The fields of a header (Table 9.8) -/

/-- Widths and values of the fields below the HCRC, the reserved bits among them. -/
def Hdr.fields (h : Hdr) : List (Nat × Nat) :=
  [(4, h.ver), (3, h.cls), (1, h.rsnd), (20, h.dst), (20, h.src), (14, h.flow), (2, 0), (16, h.gen), (24, h.seq),
   (12, h.tumbler), (4, h.inc), (16, h.layer), (16, h.oper), (8, h.psn), (10, h.len), (4, h.path), (2, 0), (24, h.lsid),
   (32, h.offset), (4, h.part), (4, 0)]

/-- A header whose fields fit their widths. -/
def Hdr.Fits (h : Hdr) : Prop := ∀ f ∈ h.fields, f.2 < 2 ^ f.1

theorem Hdr.body_eq_packFields {h : Hdr} (hf : h.Fits) : h.body = packFields h.fields := by
  simp only [Hdr.Fits, Hdr.fields, List.forall_mem_cons] at hf
  obtain ⟨h1, h2, h3, h4, h5, h6, -, h7, h8, h9, h10, h11, h12, h13, h14, h15, -, h16, h17, h18, -, -⟩ := hf
  have h1 : h.ver % 16 = h.ver := Nat.mod_eq_of_lt h1
  have h2 : h.cls % 8 = h.cls := Nat.mod_eq_of_lt h2
  have h3 : h.rsnd % 2 = h.rsnd := Nat.mod_eq_of_lt h3
  have h10 : h.inc % 16 = h.inc := Nat.mod_eq_of_lt h10
  have h15 : h.path % 16 = h.path := Nat.mod_eq_of_lt h15
  have h18 : h.part % 16 = h.part := Nat.mod_eq_of_lt h18
  simp only [Hdr.body, h1, h2, h3, Nat.mod_eq_of_lt h4, Nat.mod_eq_of_lt h5, Nat.mod_eq_of_lt h6, Nat.mod_eq_of_lt h7,
    Nat.mod_eq_of_lt h8, Nat.mod_eq_of_lt h9, h10, Nat.mod_eq_of_lt h11, Nat.mod_eq_of_lt h12, Nat.mod_eq_of_lt h13,
    Nat.mod_eq_of_lt h14, h15, Nat.mod_eq_of_lt h16, Nat.mod_eq_of_lt h17, h18, Hdr.fields, packFields]
  ring

/-! ## The HCRC (R259) -/

theorem crc16Bit_lt (c : Nat) : crc16Bit c < 2 ^ 16 := by
  unfold crc16Bit
  split <;> exact Nat.mod_lt _ (by decide)

/-- A step of the CRC register as a shift within 16 bits and, where a one leaves, the polynomial. -/
theorem crc16Bit_eq {c : Nat} (h : c < 2 ^ 16) :
    crc16Bit c = if c / 2 ^ 15 = 1 then (c * 2 % 2 ^ 16) ^^^ 0x1021 else c * 2 % 2 ^ 16 := by
  have htop : c / 0x8000 % 2 = c / 2 ^ 15 := Nat.mod_eq_of_lt (by omega)
  have hpoly : (c * 2 ^^^ 0x1021) % 2 ^ 16 = (c * 2 % 2 ^ 16) ^^^ 0x1021 := Nat.xor_mod_two_pow
  rw [crc16Bit, htop]
  exact congrArg (fun x => if c / 2 ^ 15 = 1 then x else c * 2 % 2 ^ 16) hpoly

/-- Any number of steps, one after the other. -/
theorem crc16Bits_eq {n c : Nat} (h : c < 2 ^ 16) : crc16Bits n c = (List.range n).foldl (fun c _ =>
    if c / 2 ^ 15 = 1 then (c * 2 % 2 ^ 16) ^^^ 0x1021 else c * 2 % 2 ^ 16) c := by
  induction n generalizing c with
  | zero => rfl
  | succ n ih => rw [crc16Bits, ih (crc16Bit_lt c), List.range_succ_eq_map, List.foldl_cons, List.foldl_map, crc16Bit_eq h]

theorem crc16Bits_lt {n c : Nat} (h : c < 2 ^ 16) : crc16Bits n c < 2 ^ 16 := by
  induction n generalizing c with
  | zero => exact h
  | succ n ih => exact ih (crc16Bit_lt c)

theorem crc16_step_lt {c b : Nat} (hc : c < 2 ^ 16) : c ^^^ (b % 256 * 256) < 2 ^ 16 :=
  Nat.xor_lt_two_pow hc (by omega)

/-- The CRC-16 of bytes as its register steps through them, from any value of the register. -/
theorem crc16_fold_eq {l : List Nat} (hl : ∀ b ∈ l, b < 256) {c : Nat} (hc : c < 2 ^ 16) :
    l.foldl (fun c b => crc16Bits 8 (c ^^^ (b % 256 * 256))) c = l.foldl (fun c b => (List.range 8).foldl (fun c _ =>
      if c / 2 ^ 15 = 1 then (c * 2 % 2 ^ 16) ^^^ 0x1021 else c * 2 % 2 ^ 16) (c ^^^ b * 2 ^ 8)) c ∧
    l.foldl (fun c b => crc16Bits 8 (c ^^^ (b % 256 * 256))) c < 2 ^ 16 := by
  induction l generalizing c with
  | nil => exact ⟨rfl, hc⟩
  | cons b t ih =>
    have hb : b % 256 = b := Nat.mod_eq_of_lt (hl b List.mem_cons_self)
    have hstep : c ^^^ (b % 256 * 256) < 2 ^ 16 := crc16_step_lt hc
    rw [List.foldl_cons, List.foldl_cons, ← crc16Bits_eq (hb ▸ hstep), hb]
    exact ih (fun x hx => hl x (List.mem_cons_of_mem b hx)) (crc16Bits_lt (hb ▸ hstep))

theorem crc16_lt {l : List Nat} (hl : ∀ b ∈ l, b < 256) : crc16 l < 2 ^ 16 := (crc16_fold_eq hl (by decide)).2

/-- The HCRC of a header. -/
def Hdr.hcrc (h : Hdr) : Nat := crc16 (leBytes 30 h.body)

theorem Hdr.hcrc_lt (h : Hdr) : h.hcrc < 2 ^ 16 := crc16_lt fun _ => leBytes_lt

/-! ## The encoded header -/

/-- All fields of a header, the HCRC on top. -/
def Hdr.allFields (h : Hdr) : List (Nat × Nat) := h.fields ++ [(16, h.hcrc)]

theorem Hdr.fields_width (h : Hdr) : fieldsWidth h.fields = 240 := by simp [fieldsWidth, Hdr.fields]
theorem Hdr.width (h : Hdr) : fieldsWidth h.allFields = 256 := by simp [fieldsWidth, Hdr.allFields, Hdr.fields]

section
variable {h : Hdr} (hf : h.Fits)
include hf

theorem Hdr.body_lt : h.body < 2 ^ 240 := by
  have hlt := packFields_lt hf
  rwa [← Hdr.body_eq_packFields hf, Hdr.fields_width] at hlt

theorem Hdr.enc_eq_packFields : h.enc = packFields h.allFields := by
  rw [Hdr.allFields, packFields_append, Hdr.fields_width, ← Hdr.body_eq_packFields hf, packFields, packFields, Nat.mul_zero,
    Nat.add_zero, Hdr.hcrc, Nat.mul_comm, Hdr.enc]

theorem Hdr.allFields_lt : ∀ f ∈ h.allFields, f.2 < 2 ^ f.1 := by
  intro f hm
  rcases List.mem_append.mp hm with hm | hm
  · exact hf f hm
  · rw [List.mem_singleton.mp hm]
    exact h.hcrc_lt

theorem Hdr.enc_lt : h.enc < 2 ^ 256 := by
  have hlt := packFields_lt (Hdr.allFields_lt hf)
  rwa [← Hdr.enc_eq_packFields hf, Hdr.width] at hlt

theorem Hdr.fieldsAt_enc : FieldsAt h.enc 0 h.allFields :=
  fieldsAt_of_packFields (Hdr.allFields_lt hf) (by rw [Nat.pow_zero, Nat.div_one, Hdr.enc_eq_packFields hf])

/-- Each field stands at its bits of Table 9.8, the reserved bits are zero, and the HCRC is on top. -/
theorem Hdr.enc_layout : bits h.enc 0 4 = h.ver ∧ bits h.enc 4 3 = h.cls ∧ bits h.enc 7 1 = h.rsnd ∧ bits h.enc 8 20 = h.dst ∧
    bits h.enc 28 20 = h.src ∧ bits h.enc 48 14 = h.flow ∧ bits h.enc 62 2 = 0 ∧ bits h.enc 64 16 = h.gen ∧
    bits h.enc 80 24 = h.seq ∧ bits h.enc 104 12 = h.tumbler ∧ bits h.enc 116 4 = h.inc ∧ bits h.enc 120 16 = h.layer ∧
    bits h.enc 136 16 = h.oper ∧ bits h.enc 152 8 = h.psn ∧ bits h.enc 160 10 = h.len ∧ bits h.enc 170 4 = h.path ∧
    bits h.enc 174 2 = 0 ∧ bits h.enc 176 24 = h.lsid ∧ bits h.enc 200 32 = h.offset ∧ bits h.enc 232 4 = h.part ∧
    bits h.enc 236 4 = 0 ∧ bits h.enc 240 16 = h.hcrc := by
  simpa only [Hdr.allFields, Hdr.fields, List.cons_append, List.nil_append, FieldsAt, Nat.reduceAdd, and_true]
    using Hdr.fieldsAt_enc hf

theorem Hdr.enc_mod : h.enc % 2 ^ 240 = h.body := by
  rw [Hdr.enc, Nat.add_mul_mod_self_right, Nat.mod_eq_of_lt (Hdr.body_lt hf)]

/-- Bytes 0 to 29 of an encoded header are those that its HCRC covers. -/
theorem Hdr.leBytes_enc : leBytes 30 h.enc = leBytes 30 h.body := by
  have hpow : (256 : Nat) ^ 30 = 2 ^ 240 := by norm_num
  rw [← leBytes_mod, hpow, Hdr.enc_mod hf]

theorem Hdr.hcrcOk_enc : hcrcOk h.enc = true := by
  have htop : h.enc / 2 ^ 240 % 2 ^ 16 = h.hcrc := by
    rw [Hdr.enc, Nat.add_mul_div_right _ _ (Nat.two_pow_pos _), Nat.div_eq_of_lt (Hdr.body_lt hf), Nat.zero_add]
    exact Nat.mod_eq_of_lt h.hcrc_lt
  rw [hcrcOk, Hdr.enc_mod hf, htop, Hdr.hcrc]
  exact beq_self_eq_true _

/-- Decoding gives every field back. -/
theorem Hdr.dec_enc : Hdr.dec h.enc = h := by
  obtain ⟨h1, h2, h3, h4, h5, h6, -, h7, h8, h9, h10, h11, h12, h13, h14, h15, -, h16, h17, h18, -, -⟩ := Hdr.enc_layout hf
  rw [Hdr.dec, h1, h2, h3, h4, h5, h6, h7, h8, h9, h10, h11, h12, h13, h14, h15, h16, h17, h18]

/-- The HCRC as its register steps through bytes 0 to 29 of the encoded header. -/
theorem Hdr.hcrc_steps : h.hcrc = (leBytes 30 h.enc).foldl (fun c b => (List.range 8).foldl (fun c _ =>
    if c / 2 ^ 15 = 1 then (c * 2 % 2 ^ 16) ^^^ 0x1021 else c * 2 % 2 ^ 16) (c ^^^ b * 2 ^ 8)) 0xFFFF := by
  rw [Hdr.hcrc, ← Hdr.leBytes_enc hf, crc16]
  exact (crc16_fold_eq (fun _ => leBytes_lt) (by decide)).1

end

/-- A packet starts with the 32 bytes of its header, lowest first. -/
theorem Pkt.wire_header (p : Pkt) {i : Nat} (h : i < 32) : p.wire.getD i 0 = p.hdr / 256 ^ i % 256 := by
  rw [Pkt.wire, Pkt.covered, List.append_assoc, List.append_assoc, List.getD_append _ _ _ _ (by rwa [leBytes_length]),
    leBytes_getD h]

/-- Settles O37: a header is the number of its fields one above the other, so each stands at its place and reads back. -/
theorem headerLayout : Obligations.HeaderLayout := by
  refine ⟨fun h h1 h2 h3 h4 h5 h6 h7 h8 h9 h10 h11 h12 h13 h14 h15 h16 h17 h18 => ?_, fun p i => p.wire_header⟩
  have hf : h.Fits := by
    simp only [Hdr.Fits, Hdr.fields, List.forall_mem_cons]
    exact ⟨h1, h2, h3, h4, h5, h6, by decide, h7, h8, h9, h10, h11, h12, h13, h14, h15, by decide, h16, h17, h18, by decide,
      fun _ hx => nomatch hx⟩
  obtain ⟨p1, p2, p3, p4, p5, p6, p7, p8, p9, p10, p11, p12, p13, p14, p15, p16, p17, p18, p19, p20, p21, p22⟩ := Hdr.enc_layout hf
  exact ⟨Hdr.enc_lt hf, Hdr.dec_enc hf, p1, p2, p3, p4, p5, p6, p7, p8, p9, p10, p11, p12, p13, p14, p15, p16, p17, p18, p19, p20,
    p21, p22.trans (Hdr.hcrc_steps hf), Hdr.hcrcOk_enc hf⟩

end Sys2Proof.Machine

/-! SUPPORT. What reports leave alone of the counters and the detections, and what sending a packet leaves alone of the state. -/
namespace Sys2Proof.Machine

/-! ## Counters and detections under reports -/

section
variable (s : State) {n : Nat}

/-- Counters that count no record of the recorder (Table 19.2). -/
def NotRecorder (n : Nat) : Prop := n < 0x250 ∨ 0x252 < n

/-- A count in another counter leaves this one alone. -/
theorem gcnt_set_ne (l : Store Nat) {m v : Nat} (h : n ≠ m) :
    storeGet 0 (storeSet 0 l (gcntKey m) v) (gcntKey n) = storeGet 0 l (gcntKey n) :=
  storeGet_set_ne 0 0 l v (by simp only [gcntKey]; omega)

/-- A count in a counter of the recorder leaves the others alone. -/
theorem gcnt_set_recorder (l : Store Nat) {m v : Nat} (h : NotRecorder n) (hm : 0x250 ≤ m ∧ m ≤ 0x252) :
    storeGet 0 (storeSet 0 l (gcntKey m) v) (gcntKey n) = storeGet 0 l (gcntKey n) :=
  gcnt_set_ne l (by unfold NotRecorder at h; omega)

theorem State.cnt_pushRec (type body : Nat) : ∃ v, (s.pushRec type body).cnt = storeSet 0 s.cnt (gcntKey 0x250) v := by
  unfold State.pushRec
  generalize hq : s.formRec type body = q
  have hr : q.1.cnt = s.cnt := by rw [← hq]; exact State.cnt_setFld ..
  obtain ⟨q, r⟩ := q
  simp only [State.cnt_setFld, State.gcntRaw]
  exact ⟨_, by rw [hr]⟩

theorem State.gcnt_pushRec (h : NotRecorder n) (type body : Nat) :
    storeGet 0 (s.pushRec type body).cnt (gcntKey n) = storeGet 0 s.cnt (gcntKey n) := by
  obtain ⟨v, e⟩ := s.cnt_pushRec type body
  rw [e, gcnt_set_recorder _ h (by decide)]

theorem State.gcnt_pushGap (h : NotRecorder n) :
    storeGet 0 s.pushGap.cnt (gcntKey n) = storeGet 0 s.cnt (gcntKey n) := by
  unfold State.pushGap
  split
  · rfl
  · simp only []
    generalize hq : State.pushRec s 0x12 _ = q
    exact hq ▸ s.gcnt_pushRec h ..

theorem State.gcnt_gcntRaw_recorder (h : NotRecorder n) {m : Nat} (hm : 0x250 ≤ m ∧ m ≤ 0x252) (k : Nat) :
    storeGet 0 (s.gcntRaw m k).cnt (gcntKey n) = storeGet 0 s.cnt (gcntKey n) := gcnt_set_recorder _ h hm

/-- A record counts in the counters of the recorder only (R444). -/
theorem State.gcnt_stageRec (h : NotRecorder n) (type body : Nat) :
    storeGet 0 (s.stageRec type body).cnt (gcntKey n) = storeGet 0 s.cnt (gcntKey n) := by
  have hpush := (s.pushGap.gcnt_pushRec h type body).trans (s.gcnt_pushGap h)
  unfold State.stageRec
  simp only []
  split
  · split
    · split
      all_goals
        generalize hq : State.gcntRaw s 0x252 1 = q
        exact hq ▸ s.gcnt_gcntRaw_recorder h (by decide) 1
    · split
      · generalize hq : State.gcntRaw s 0x251 1 = q
        exact hq ▸ s.gcnt_gcntRaw_recorder h (by decide) 1
      · exact hpush
  · exact hpush

theorem State.gcnt_event (h : NotRecorder n) (f : Fld) (unit job : Nat) :
    storeGet 0 (s.event f unit job).cnt (gcntKey n) = storeGet 0 s.cnt (gcntKey n) := s.gcnt_stageRec h ..

/-- A counter after a count: the report of its saturation does not count in it (R530). -/
theorem State.gcnt_gcount_self (h : NotRecorder n) (k : Nat) : storeGet 0 (s.gcount n k).cnt (gcntKey n) =
    cntAdd (gcntIsTime n) (storeGet 0 s.cnt (gcntKey n)) k := by
  have hraw : storeGet 0 (s.gcntRaw n k).cnt (gcntKey n) = cntAdd (gcntIsTime n) (storeGet 0 s.cnt (gcntKey n)) k := by
    rw [State.gcntRaw, storeGet_set_self]
  unfold State.gcount
  simp only []
  split
  · rw [State.gcnt_event _ h, State.cnt_setFld, hraw]
  · exact hraw

theorem State.detections_pushRec (type body : Nat) : (s.pushRec type body).detections = s.detections := by
  unfold State.pushRec
  generalize hq : s.formRec type body = q
  have hr : q.1.detections = s.detections := by rw [← hq]; exact State.detections_setFld ..
  obtain ⟨q, r⟩ := q
  simp only [State.detections_setFld, State.gcntRaw]
  exact hr

theorem State.detections_pushGap : s.pushGap.detections = s.detections := by
  unfold State.pushGap
  split
  · rfl
  · simp only []
    generalize hq : State.pushRec s 0x12 _ = q
    exact hq ▸ s.detections_pushRec ..

theorem State.detections_stageRec (type body : Nat) : (s.stageRec type body).detections = s.detections := by
  have hpush := (s.pushGap.detections_pushRec type body).trans s.detections_pushGap
  unfold State.stageRec
  simp only []
  split
  · split
    · split <;> rfl
    · split
      · rfl
      · exact hpush
  · exact hpush

theorem State.detections_gcount (n k : Nat) : (s.gcount n k).detections = s.detections := by
  unfold State.gcount
  simp only []
  split
  · exact State.detections_stageRec ..
  · rfl

/-- On a module that runs each detection is noted (R380). -/
theorem State.detections_detect (h : s.boot = .running) (unit cls flags desc ctx layer operator job syn : Nat) :
    (s.detect unit cls flags desc ctx layer operator job syn).detections.length = s.detections.length + 1 := by
  unfold State.detect
  simp only []
  split <;> simp [h]

theorem State.cnt_detect (unit cls flags desc ctx layer operator job syn : Nat) :
    (s.detect unit cls flags desc ctx layer operator job syn).cnt = s.cnt := by
  unfold State.detect
  simp only []
  split <;> split <;> rfl

end

/-! ## Messages -/

theorem State.bare_sendPkt (s : State) (p : Pkt) (flow : Option Nat) (since : Nat) (cmd : Option (Nat × Nat × Nat)) :
    (s.sendPkt p flow since cmd).bare =
      { s.bare with txq := (s.sendPkt p flow since cmd).txq, intq := (s.sendPkt p flow since cmd).intq } := by
  unfold State.sendPkt
  split
  · rfl
  · split <;> rfl

theorem State.regs_sendPkt (s : State) (p : Pkt) (flow : Option Nat) (since : Nat) (cmd : Option (Nat × Nat × Nat)) :
    (s.sendPkt p flow since cmd).regs = s.regs := by
  unfold State.sendPkt
  split
  · rfl
  · split <;> rfl

theorem State.cnt_sendPkt (s : State) (p : Pkt) (flow : Option Nat) (since : Nat) (cmd : Option (Nat × Nat × Nat)) :
    (s.sendPkt p flow since cmd).cnt = s.cnt := by
  unfold State.sendPkt
  split
  · rfl
  · split <;> rfl

/-- A packet to another module, from one that runs and is not fenced, waits behind those sent before (R375, R416). -/
theorem State.txq_sendPkt {s : State} (hrun : s.boot = .running) (hf : s.flag RCV_FENCE_FENCED = false) {p : Pkt}
    (hd : (Hdr.dec p.hdr).dst ≠ s.gid) (flow : Option Nat) (since : Nat) (cmd : Option (Nat × Nat × Nat)) :
    (s.sendPkt p flow since cmd).txq = s.txq ++ [⟨p, flow, none, since, 0, 0, cmd⟩] := by
  simp [State.sendPkt, hrun, hf, hd]

/-- The header of a control message (R308). -/
def State.ctlHdr (s : State) (dst job len : Nat) : Hdr :=
  ⟨4, 2, 0, dst, s.gid, 0, s.fld (FAB_JOB_GEN_GEN job), 0, 0, 0, 0, 0, 0, len, 0, 0, 0, 15⟩

theorem State.sendCtl_eq (s : State) (dst job : Nat) (m : List Nat) :
    s.sendCtl dst job m = s.sendPkt ⟨(s.ctlHdr dst job m.length).enc, m⟩ none s.ftime none := rfl

theorem State.ctlHdr_fits (s : State) {dst len : Nat} (hd : dst < 2 ^ 20) (hl : len < 2 ^ 10) (job : Nat) :
    (s.ctlHdr dst job len).Fits := by
  have hgid : s.gid < 2 ^ 20 := s.fld_lt FAB_GID_GID
  have hgen : s.fld (FAB_JOB_GEN_GEN job) < 2 ^ 16 := s.fld_lt _
  simp only [Hdr.Fits, Hdr.fields, State.ctlHdr, List.forall_mem_cons, List.not_mem_nil, false_imp_iff, implies_true, and_true]
  omega

end Sys2Proof.Machine

/-! SUPPORT. Control messages: each row runs the handler of its message, and a module on the dead list draws DEADBOLT. -/
namespace Sys2Proof.Machine

/-! ## Who takes a message (R374) -/

section
variable {s : State} {src : Nat} {m : List Nat} {f : State → State}

theorem State.message_stopped (h : s.boot ≠ .running) : s.message src m f = s := if_pos h

theorem State.message_live (h : s.boot = .running) (hd : s.isDead (mByte m 1 % 8) src = false) : s.message src m f = f s := by
  simp [State.message, State.control, h, hd]

theorem State.message_dead (h : s.boot = .running) (hd : s.isDead (mByte m 1 % 8) src = true) :
    s.message src m f = s.deadbolt (mByte m 1 % 8) src := by
  simp [State.message, State.control, h, hd]

end

/-- A row that passes a control message on to its handler. -/
def MessageRow (x : (Nat → List Nat → Instr) × (State → Nat → List Nat → State)) : Prop :=
  ∀ s src m, exec (x.1 src m) s = .next (s.message src m (fun t => x.2 t src m))

/-! ## DEADBOLT -/

/-- Bytes of the DEADBOLT message to a module (Table 12.2). -/
def deadboltMsg (j gid gen jobId : Nat) : List Nat :=
  [0x36, j, 0, 0] ++ leBytes 3 gid ++ [0] ++ leBytes 2 gen ++ [0, 0] ++ leBytes 4 jobId

theorem deadboltMsg_fields {j gid gen jobId : Nat} (hj : j < 8) (hg : gid < 2 ^ 20) (hi : jobId < 2 ^ 32) :
    mByte (deadboltMsg j gid gen jobId) 0 = 0x36 ∧ mByte (deadboltMsg j gid gen jobId) 1 = j ∧
    mField (deadboltMsg j gid gen jobId) 4 3 = gid ∧ mField (deadboltMsg j gid gen jobId) 8 2 = gen % 2 ^ 16 ∧
    mField (deadboltMsg j gid gen jobId) 12 4 = jobId := by
  simp only [deadboltMsg, leBytes, List.cons_append, List.nil_append, mField, mByte, List.getD_cons_succ, List.getD_cons_zero,
    Nat.reduceAdd]
  exact ⟨trivial, by omega, by omega, by omega, by omega⟩

/-- The state in which a DEADBOLT is sent: its time is kept, and it is counted. -/
def State.deadCounted (s : State) (gid : Nat) : State :=
  ({ s with deadSent := storeSet 0 s.deadSent gid (s.ftime + 1) } : State).gcount 0x223 1

/-- Within 10 ms of the last one no DEADBOLT is sent. -/
theorem State.deadbolt_recent {s : State} {gid : Nat} (h0 : storeGet 0 s.deadSent gid ≠ 0)
    (h : s.ftime + 1 < storeGet 0 s.deadSent gid + 40000000) (j : Nat) : s.deadbolt j gid = s := by
  simp [State.deadbolt, h0, h]

theorem State.deadbolt_due {s : State} {gid : Nat}
    (h : storeGet 0 s.deadSent gid = 0 ∨ storeGet 0 s.deadSent gid + 40000000 ≤ s.ftime + 1) (j : Nat) :
    s.deadbolt j gid = (s.deadCounted gid).sendCtl gid j
      (deadboltMsg j gid (s.fld (FAB_JOB_GEN_GEN j)) (s.fld (FAB_JOB_ID_JOB_ID j))) := by
  have hn : (decide (storeGet 0 s.deadSent gid ≠ 0) && decide (s.ftime + 1 < storeGet 0 s.deadSent gid + 40000000)) = false := by
    simp only [Bool.and_eq_false_iff, decide_eq_false_iff_not]
    omega
  have hfld (f : Fld) : ({ s with deadSent := storeSet 0 s.deadSent gid (s.ftime + 1) } : State).fld f = s.fld f :=
    State.fld_of_reg (State.reg_congr rfl _)
  simp only [State.deadbolt, hn, Bool.false_eq_true, if_false, hfld]
  rfl

section
variable (s : State) (gid : Nat)

theorem State.bare_deadCounted :
    (s.deadCounted gid).bare = { s.bare with deadSent := storeSet 0 s.deadSent gid (s.ftime + 1) } := State.bare_gcount ..

theorem State.reg_deadCounted {a : Nat} (h : reportReg a = false) : (s.deadCounted gid).reg a = s.reg a :=
  (State.reg_gcount _ _ _ h).trans (State.reg_congr rfl a)

theorem State.gcnt_deadCounted : storeGet 0 (s.deadCounted gid).cnt (gcntKey 0x223) =
    cntAdd false (storeGet 0 s.cnt (gcntKey 0x223)) 1 := State.gcnt_gcount_self _ (.inl (by decide)) 1

end

/-- A DEADBOLT that is due: its time is kept, it is counted, and nothing else changes but what waits to be sent. -/
theorem State.deadbolt_effect {s : State} {gid : Nat}
    (h : storeGet 0 s.deadSent gid = 0 ∨ storeGet 0 s.deadSent gid + 40000000 ≤ s.ftime + 1) (j : Nat) :
    let t := s.deadbolt j gid
    storeGet 0 t.deadSent gid = s.ftime + 1 ∧
    storeGet 0 t.cnt (gcntKey 0x223) = cntAdd false (storeGet 0 s.cnt (gcntKey 0x223)) 1 ∧
    t.bare = { s.bare with deadSent := t.deadSent, txq := t.txq, intq := t.intq } ∧ s.RegsKept t (fun _ => False) := by
  rw [State.deadbolt_due h, State.sendCtl_eq]
  generalize hm : (⟨_, _⟩ : Pkt) = p
  have hb := State.bare_sendPkt (s.deadCounted gid) p none (s.deadCounted gid).ftime none
  rw [State.bare_deadCounted] at hb
  have hc := State.cnt_sendPkt (s.deadCounted gid) p none (s.deadCounted gid).ftime none
  have hr := State.regs_sendPkt (s.deadCounted gid) p none (s.deadCounted gid).ftime none
  generalize (s.deadCounted gid).sendPkt p none (s.deadCounted gid).ftime none = t at hb hc hr ⊢
  have hd : t.deadSent = storeSet 0 s.deadSent gid (s.ftime + 1) := congrArg State.deadSent hb
  refine ⟨by rw [hd, storeGet_set_self], by rw [hc, State.gcnt_deadCounted], by rw [hd]; exact hb, fun a _ ha => ?_⟩
  rw [State.reg_congr hr, State.reg_deadCounted _ _ ha]

/-- The DEADBOLT of a module that runs and is not fenced. -/
theorem State.deadbolt_sends {s : State} {gid j : Nat}
    (h : storeGet 0 s.deadSent gid = 0 ∨ storeGet 0 s.deadSent gid + 40000000 ≤ s.ftime + 1)
    (hrun : s.boot = .running) (hf : s.flag RCV_FENCE_FENCED = false) (hg : gid < 2 ^ 20) (hn : gid ≠ s.gid) (hj : j < 8) :
    ∃ x : TxPkt, (s.deadbolt j gid).txq = s.txq ++ [x] ∧ x.flow = none ∧ x.port = none ∧ (Hdr.dec x.pkt.hdr).cls = 2 ∧
      (Hdr.dec x.pkt.hdr).dst = gid ∧ mByte x.pkt.pay 0 = 0x36 ∧ mByte x.pkt.pay 1 = j ∧ mField x.pkt.pay 4 3 = gid ∧
      mField x.pkt.pay 8 2 = s.fld (FAB_JOB_GEN_GEN j) % 2 ^ 16 ∧ mField x.pkt.pay 12 4 = s.fld (FAB_JOB_ID_JOB_ID j) := by
  have hb := s.bare_deadCounted gid
  have hboot : (s.deadCounted gid).boot = s.boot := (congrArg State.boot hb :)
  have htxq : (s.deadCounted gid).txq = s.txq := (congrArg State.txq hb :)
  have hfence : (s.deadCounted gid).flag RCV_FENCE_FENCED = false := by
    rw [State.flag, State.fld_of_reg (s.reg_deadCounted gid (by decide)), ← hf, State.flag]
  have hgid : (s.deadCounted gid).gid = s.gid := State.fld_of_reg (s.reg_deadCounted gid (by decide))
  have hdec := Hdr.dec_enc ((s.deadCounted gid).ctlHdr_fits hg (len := 16) (by decide) j)
  rw [State.deadbolt_due h, State.sendCtl_eq, State.txq_sendPkt (hboot.trans hrun) hfence, htxq]
  · exact ⟨_, rfl, rfl, rfl, congrArg Hdr.cls hdec, congrArg Hdr.dst hdec, deadboltMsg_fields hj hg (s.fld_lt _)⟩
  · exact fun e => hn ((congrArg Hdr.dst hdec).symm.trans (e.trans hgid))

/-- Settles O40: each row is its handler behind the one test of who sent the message. -/
theorem controlMessagesReachTheirHandlers : Obligations.ControlMessagesReachTheirHandlers := by
  refine ⟨fun x hx s src m => ?_, fun s j gid => ⟨fun h0 h => State.deadbolt_recent h0 h j, fun h => ?_⟩⟩
  · have hrow : MessageRow x := by
      revert x
      repeat' refine List.forall_mem_cons.mpr ⟨fun _ _ _ => rfl, ?_⟩
      exact List.forall_mem_nil _
    rw [hrow]
    exact ⟨fun h => by rw [State.message_stopped h], fun h hd => by rw [State.message_live h hd],
      fun h hd => by rw [State.message_dead h hd]⟩
  · obtain ⟨h1, h2, h3, h4⟩ := State.deadbolt_effect h j
    exact ⟨h1, h2, h3, h4, fun hrun hf hg hn hj => State.deadbolt_sends h hrun hf hg hn hj⟩

end Sys2Proof.Machine

/-! SUPPORT. Ports, links and lanes: what a write of a port's status, a change of its link and a unit sent on it leave alone, and
what a port takes along that leaves UP. -/
namespace Sys2Proof.Machine

/-! ## Registers of the fabric -/

theorem reportReg_fabric {a : Nat} (h1 : 0x400000 ≤ a) (h2 : a < 0x1400000) : reportReg a = false := by
  simp [reportReg, EVR_RSEQ, EVR_STATUS, DBG_GSTATUS]
  omega

theorem State.RegsKept.fld {s t : State} {P : Nat → Prop} (h : s.RegsKept t P) {f : Fld} (hp : ¬ P f.addr)
    (hr : reportReg f.addr = false) : t.fld f = s.fld f := State.fld_of_reg (h _ hp hr)

theorem State.RegsKept.trans {s t u : State} {P : Nat → Prop} (h : s.RegsKept t P) (h' : t.RegsKept u P) : s.RegsKept u P :=
  fun a ha hr => (h' a ha hr).trans (h a ha hr)

theorem State.MemKept.trans {s t u : State} (h : s.MemKept t) (h' : t.MemKept u) : s.MemKept u :=
  ⟨fun a => (h'.1 a).trans (h.1 a), fun d => (h'.2 d).trans (h.2 d)⟩

theorem State.RegsKept.mono {s t : State} {P Q : Nat → Prop} (h : s.RegsKept t P) (hpq : ∀ a, P a → Q a) : s.RegsKept t Q :=
  fun a ha hr => h a (fun hp => ha (hpq a hp)) hr

section
variable (s : State) (q v : Nat)

theorem reportReg_status {q : Nat} (h : q < 24) : reportReg (FAB_PORT_STATUS q) = false :=
  reportReg_fabric (by simp [FAB_PORT_STATUS]; omega) (by simp [FAB_PORT_STATUS]; omega)

end

/-- A field above the one written keeps its value. -/
theorem State.fld_setFld_below (s : State) {f g : Fld} (v : Nat) (h : f.lo + f.w ≤ g.lo) (hf : f.lo + f.w ≤ 32) :
    (s.setFld f v).fld g = s.fld g := s.fld_setFld_apart f g v (.inr (.inr h)) hf

/-- A field below the one written keeps its value. -/
theorem State.fld_setFld_above (s : State) {f g : Fld} (v : Nat) (h : g.lo + g.w ≤ f.lo) (hf : f.lo + f.w ≤ 32) :
    (s.setFld f v).fld g = s.fld g := s.fld_setFld_apart f g v (.inr (.inl h)) hf

/-! ## The status of a port, field by field -/

section
variable (s : State) (q v : Nat)

@[simp] theorem State.state_setState : (s.setFld (FAB_PORT_STATUS_STATE q) v).fld (FAB_PORT_STATUS_STATE q) = v % 2 ^ 3 :=
  s.fld_setFld_self _ v (Nat.le_of_ble_eq_true rfl)
@[simp] theorem State.ver_setVer : (s.setFld (FAB_PORT_STATUS_VER q) v).fld (FAB_PORT_STATUS_VER q) = v % 2 ^ 4 :=
  s.fld_setFld_self _ v (Nat.le_of_ble_eq_true rfl)
@[simp] theorem State.width_setWidth : (s.setFld (FAB_PORT_STATUS_WIDTH q) v).fld (FAB_PORT_STATUS_WIDTH q) = v % 2 ^ 5 :=
  s.fld_setFld_self _ v (Nat.le_of_ble_eq_true rfl)
@[simp] theorem State.reason_setReason : (s.setFld (FAB_PORT_STATUS_REASON q) v).fld (FAB_PORT_STATUS_REASON q) = v % 2 ^ 4 :=
  s.fld_setFld_self _ v (Nat.le_of_ble_eq_true rfl)
@[simp] theorem State.level_setLevel : (s.setFld (FAB_PORT_STATUS_DAMP_LEVEL q) v).fld (FAB_PORT_STATUS_DAMP_LEVEL q) = v % 2 ^ 4 :=
  s.fld_setFld_self _ v (Nat.le_of_ble_eq_true rfl)
@[simp] theorem State.state_setVer : (s.setFld (FAB_PORT_STATUS_VER q) v).fld (FAB_PORT_STATUS_STATE q) =
    s.fld (FAB_PORT_STATUS_STATE q) := s.fld_setFld_above v (Nat.le_of_ble_eq_true rfl) (Nat.le_of_ble_eq_true rfl)
@[simp] theorem State.state_setReason : (s.setFld (FAB_PORT_STATUS_REASON q) v).fld (FAB_PORT_STATUS_STATE q) =
    s.fld (FAB_PORT_STATUS_STATE q) := s.fld_setFld_above v (Nat.le_of_ble_eq_true rfl) (Nat.le_of_ble_eq_true rfl)
@[simp] theorem State.width_setState : (s.setFld (FAB_PORT_STATUS_STATE q) v).fld (FAB_PORT_STATUS_WIDTH q) =
    s.fld (FAB_PORT_STATUS_WIDTH q) := s.fld_setFld_below v (Nat.le_of_ble_eq_true rfl) (Nat.le_of_ble_eq_true rfl)
@[simp] theorem State.width_setVer : (s.setFld (FAB_PORT_STATUS_VER q) v).fld (FAB_PORT_STATUS_WIDTH q) =
    s.fld (FAB_PORT_STATUS_WIDTH q) := s.fld_setFld_below v (Nat.le_of_ble_eq_true rfl) (Nat.le_of_ble_eq_true rfl)
@[simp] theorem State.width_setReason : (s.setFld (FAB_PORT_STATUS_REASON q) v).fld (FAB_PORT_STATUS_WIDTH q) =
    s.fld (FAB_PORT_STATUS_WIDTH q) := s.fld_setFld_above v (Nat.le_of_ble_eq_true rfl) (Nat.le_of_ble_eq_true rfl)
@[simp] theorem State.width_setLevel : (s.setFld (FAB_PORT_STATUS_DAMP_LEVEL q) v).fld (FAB_PORT_STATUS_WIDTH q) =
    s.fld (FAB_PORT_STATUS_WIDTH q) := s.fld_setFld_above v (Nat.le_of_ble_eq_true rfl) (Nat.le_of_ble_eq_true rfl)
@[simp] theorem State.reason_setState : (s.setFld (FAB_PORT_STATUS_STATE q) v).fld (FAB_PORT_STATUS_REASON q) =
    s.fld (FAB_PORT_STATUS_REASON q) := s.fld_setFld_below v (Nat.le_of_ble_eq_true rfl) (Nat.le_of_ble_eq_true rfl)
@[simp] theorem State.reason_setVer : (s.setFld (FAB_PORT_STATUS_VER q) v).fld (FAB_PORT_STATUS_REASON q) =
    s.fld (FAB_PORT_STATUS_REASON q) := s.fld_setFld_below v (Nat.le_of_ble_eq_true rfl) (Nat.le_of_ble_eq_true rfl)
@[simp] theorem State.reason_setLevel : (s.setFld (FAB_PORT_STATUS_DAMP_LEVEL q) v).fld (FAB_PORT_STATUS_REASON q) =
    s.fld (FAB_PORT_STATUS_REASON q) := s.fld_setFld_above v (Nat.le_of_ble_eq_true rfl) (Nat.le_of_ble_eq_true rfl)
@[simp] theorem State.ver_setState : (s.setFld (FAB_PORT_STATUS_STATE q) v).fld (FAB_PORT_STATUS_VER q) =
    s.fld (FAB_PORT_STATUS_VER q) := s.fld_setFld_below v (Nat.le_of_ble_eq_true rfl) (Nat.le_of_ble_eq_true rfl)

end

/-! ## Links and what is sent on them -/

section
variable (s : State) (q : Nat)

@[simp] theorem State.link_setLink (l : Link) : (s.setLink q l).link q = l := by
  rw [State.link, State.setLink, storeGet_set_self, Option.getD_some]

theorem State.link_congr {s t : State} (h : t.links = s.links) (q : Nat) : t.link q = s.link q := by rw [State.link, h, State.link]

@[simp] theorem State.link_setFld (f : Fld) (v : Nat) : (s.setFld f v).link q = s.link q := by
  rw [State.link, State.links_setFld, State.link]

@[simp] theorem State.fld_setLink (l : Link) (f : Fld) : (s.setLink q l).fld f = s.fld f := State.fld_of_reg (State.reg_congr rfl _)
@[simp] theorem State.fld_emit (m : OutMsg) (f : Fld) : (s.emit m).fld f = s.fld f := State.fld_of_reg (State.reg_congr rfl _)

theorem State.cnt_setLink (l : Link) : (s.setLink q l).cnt = s.cnt := rfl

theorem State.RegsKept.setLink {s t : State} {P : Nat → Prop} (h : s.RegsKept t P) (q : Nat) (l : Link) :
    s.RegsKept (t.setLink q l) P := h.of_regs rfl
theorem State.RegsKept.emit {s t : State} {P : Nat → Prop} (h : s.RegsKept t P) (m : OutMsg) : s.RegsKept (t.emit m) P := h.of_regs rfl

theorem State.bare_setLink (l : Link) : (s.setLink q l).bare = { s.bare with links := (s.setLink q l).links } := rfl

/-- A change of a link and a unit sent on it change nothing else. -/
theorem State.bare_setLink_emit (l : Link) (m : OutMsg) : ((s.setLink q l).emit m).bare =
    { s.bare with links := ((s.setLink q l).emit m).links, out := ((s.setLink q l).emit m).out } := rfl

end

/-! ## Lanes of a port -/

section
variable {s t : State} {q : Nat}

theorem State.portLanes_congr (h : t.groupMode (q / 4) = s.groupMode (q / 4)) : t.portLanes q = s.portLanes q := by
  rw [State.portLanes, State.portLanes, State.fullWidth, State.fullWidth, h]

theorem State.leastWidth_congr (h : t.groupMode (q / 4) = s.groupMode (q / 4)) : t.leastWidth q = s.leastWidth q := by
  rw [State.leastWidth, State.leastWidth, h]

theorem State.trainUnit_congr (hg : t.gid = s.gid) (h : t.groupMode (q / 4) = s.groupMode (q / 4)) (kept : Nat) (ack : Bool) :
    t.trainUnit q kept ack = s.trainUnit q kept ack := by
  rw [State.trainUnit, State.trainUnit, hg, h]

/-- The registers that a port's own state is in. -/
def PortReg (q a : Nat) : Prop := a = FAB_PORT_STATUS q ∨ a = FAB_LANE_ACTIVE (q / 4)

theorem not_portReg_group (q : Nat) : ¬ PortReg q (FAB_GROUP_CFG (q / 4)) := by
  simp only [PortReg, FAB_PORT_STATUS, FAB_LANE_ACTIVE, FAB_GROUP_CFG]
  omega

theorem not_portReg_gid (q : Nat) : ¬ PortReg q FAB_GID := by
  simp only [PortReg, FAB_PORT_STATUS, FAB_LANE_ACTIVE, FAB_GID]
  omega

theorem State.groupMode_kept (hq : q < 24) (h : s.RegsKept t (PortReg q)) : t.groupMode (q / 4) = s.groupMode (q / 4) :=
  h.fld (not_portReg_group q) (reportReg_fabric (by simp [FAB_GROUP_CFG_MODE, FAB_GROUP_CFG]; omega)
    (by simp [FAB_GROUP_CFG_MODE, FAB_GROUP_CFG]; omega))

theorem State.gid_kept (h : s.RegsKept t (PortReg q)) : t.gid = s.gid := h.fld (not_portReg_gid q) (by decide)

end

theorem popCount_le (m : Nat) : popCount m ≤ 16 := by
  have h := List.length_filter_le (bitAt m) (List.range 16)
  rwa [List.length_range] at h

section
variable (s : State) (q m : Nat)

/-- The lanes in striping stand in ACTIVE and WIDTH. -/
theorem State.setLanes_eq : ∃ v, s.setLanes q m =
    (s.setFld (FAB_LANE_ACTIVE_ACTIVE (q / 4)) v).setFld (FAB_PORT_STATUS_WIDTH q) (popCount (m &&& s.portLanes q)) := by
  have hmode (v : Nat) : (s.setFld (FAB_LANE_ACTIVE_ACTIVE (q / 4)) v).groupMode (q / 4) = s.groupMode (q / 4) :=
    State.fld_of_reg (State.reg_setFld_ne _ _ _ (by simp [FAB_GROUP_CFG_MODE, FAB_GROUP_CFG, FAB_LANE_ACTIVE_ACTIVE, FAB_LANE_ACTIVE]))
  refine ⟨maskLess (s.fld (FAB_LANE_ACTIVE_ACTIVE (q / 4))) (s.portLanes q) ||| (m &&& s.portLanes q), ?_⟩
  simp only [State.setLanes, State.portLanes_congr (hmode _)]

theorem State.bare_setLanes : (s.setLanes q m).bare = s.bare := by
  obtain ⟨v, h⟩ := s.setLanes_eq q m
  rw [h, State.bare_setFld, State.bare_setFld]

theorem State.width_setLanes : (s.setLanes q m).fld (FAB_PORT_STATUS_WIDTH q) = popCount (m &&& s.portLanes q) := by
  obtain ⟨v, h⟩ := s.setLanes_eq q m
  rw [h, State.width_setWidth, Nat.mod_eq_of_lt (Nat.lt_of_le_of_lt (popCount_le _) (by decide))]

theorem State.RegsKept.setLanes {s t : State} (h : s.RegsKept t (PortReg q)) : s.RegsKept (t.setLanes q m) (PortReg q) := by
  obtain ⟨v, e⟩ := t.setLanes_eq q m
  rw [e]
  exact (h.setFld v (.inr rfl)).setFld _ (.inl rfl)

variable {q}

/-- ACTIVE and WIDTH are no other field of the status of a port. -/
theorem State.fld_setLanes (hq : q < 24) {f : Fld} (ha : f.addr = FAB_PORT_STATUS q)
    (hf : (FAB_PORT_STATUS_WIDTH q).lo + (FAB_PORT_STATUS_WIDTH q).w ≤ f.lo ∨ f.lo + f.w ≤ (FAB_PORT_STATUS_WIDTH q).lo) :
    (s.setLanes q m).fld f = s.fld f := by
  obtain ⟨v, h⟩ := s.setLanes_eq q m
  have hne : f.addr ≠ (FAB_LANE_ACTIVE_ACTIVE (q / 4)).addr := by
    simp only [ha, FAB_PORT_STATUS, FAB_LANE_ACTIVE_ACTIVE, FAB_LANE_ACTIVE]
    omega
  rw [h, State.fld_setFld_apart _ _ _ _ (.inr hf.symm) (Nat.le_of_ble_eq_true rfl), State.fld_of_reg (State.reg_setFld_ne _ _ _ hne)]

theorem State.state_setLanes (hq : q < 24) : (s.setLanes q m).fld (FAB_PORT_STATUS_STATE q) = s.fld (FAB_PORT_STATUS_STATE q) :=
  s.fld_setLanes m hq rfl (.inr (Nat.le_of_ble_eq_true rfl))

theorem State.reason_setLanes (hq : q < 24) : (s.setLanes q m).fld (FAB_PORT_STATUS_REASON q) = s.fld (FAB_PORT_STATUS_REASON q) :=
  s.fld_setLanes m hq rfl (.inl (Nat.le_of_ble_eq_true rfl))

end

/-! ## Training (R248 to R250) -/

/-- The state of a port that starts an attempt with the lanes `m`: its TRAIN unit goes out. -/
def State.training (s : State) (q m : Nat) : State :=
  let t := (s.setFld (FAB_PORT_STATUS_STATE q) 2).setLink q
    { s.link q with kept := m, out := 0, wait := 0, peerOut := 0, since := s.ftime, partner := none }
  t.emit (.ctlUnit q (t.trainUnit q m false))

/-- The lanes that a port trains with: those that locked, without the retired ones. -/
def State.trainLanes (s : State) (q kept : Nat) : Nat :=
  maskLess (kept &&& s.portLanes q) (s.fld (FAB_LANE_RETIRED_RETIRED (q / 4)))

/-- The state of a port that has the partner's TRAIN unit: it is answered. -/
def State.answered (s : State) (q u : Nat) : State :=
  let t := s.setLink q { s.link q with partner := some u }
  t.emit (.ctlUnit q (t.trainUnit q (t.link q).kept true))

section
variable {s : State} {q : Nat}

theorem State.trainStart_unable (h : s.canTrain q = false) (kept : Nat) (partner : Option Nat) :
    s.trainStart q kept partner = s := by
  simp [State.trainStart, h]

theorem State.trainStart_able (h : s.canTrain q = true) (kept : Nat) :
    s.trainStart q kept none = s.training q (s.trainLanes q kept) := by
  simp only [State.trainStart, h, Bool.not_true, Bool.false_eq_true, if_false]
  rfl

theorem State.trainStart_partner (h : s.canTrain q = true) (kept u : Nat) :
    s.trainStart q kept (some u) = (s.training q (s.trainLanes q kept)).linkTrain q u := by
  simp only [State.trainStart, h, Bool.not_true, Bool.false_eq_true, if_false]
  rfl

theorem State.regsKept_training (m : Nat) : s.RegsKept (s.training q m) (fun a => a = FAB_PORT_STATUS q) := by
  have h0 := State.RegsKept.refl s (fun a => a = FAB_PORT_STATUS q)
  exact ((h0.setFld (f := FAB_PORT_STATUS_STATE q) 2 rfl).setLink q _).emit _

theorem State.bare_training (m : Nat) : (s.training q m).bare =
    { s.bare with links := (s.training q m).links, out := (s.training q m).out } :=
  (State.bare_setLink_emit ..).trans (by rw [State.bare_setFld]; rfl)

theorem State.linkTrain_other (h : s.fld (FAB_PORT_STATUS_STATE q) ≠ 2) (u : Nat) : s.linkTrain q u = s := if_pos h

theorem State.linkTrain_training (h : s.fld (FAB_PORT_STATUS_STATE q) = 2) (u : Nat) :
    s.linkTrain q u = if bitAt u 64 then (s.answered q u).trainFinish q u else s.answered q u := if_neg (fun hn => hn h)

/-- A port in training goes down: the attempt ends with its reason (R248). -/
theorem State.portDown_training (h : s.fld (FAB_PORT_STATUS_STATE q) = 2) (reason : Nat) : s.portDown q reason =
    ((s.setFld (FAB_PORT_STATUS_STATE q) 1).setFld (FAB_PORT_STATUS_REASON q) reason).setLink q
      { s.link q with since := s.ftime, partner := none } := by
  have e : s.portDown q reason = ((s.setFld (FAB_PORT_STATUS_STATE q) 1).setFld (FAB_PORT_STATUS_REASON q) reason).setLink q
      { ((s.setFld (FAB_PORT_STATUS_STATE q) 1).setFld (FAB_PORT_STATUS_REASON q) reason).link q with
        since := ((s.setFld (FAB_PORT_STATUS_STATE q) 1).setFld (FAB_PORT_STATUS_REASON q) reason).ftime, partner := none } := by
    unfold State.portDown
    split
    · next h3 => exact absurd (h.symm.trans h3) (by decide)
    · rfl
    · next h2 => exact absurd h h2
  rw [e, State.link_setFld, State.link_setFld, State.ftime_setFld, State.ftime_setFld]

theorem State.portDown_other (h2 : s.fld (FAB_PORT_STATUS_STATE q) ≠ 2) (h3 : s.fld (FAB_PORT_STATUS_STATE q) ≠ 3) (reason : Nat) :
    s.portDown q reason = s := by
  unfold State.portDown
  split
  · exact absurd ‹_› h3
  · exact absurd ‹_› h2
  · rfl

/-- What a port in training keeps as it goes down. -/
theorem State.portDown_training_effect (h : s.fld (FAB_PORT_STATUS_STATE q) = 2) (reason : Nat) :
    let t := s.portDown q reason
    t.fld (FAB_PORT_STATUS_STATE q) = 1 ∧ t.fld (FAB_PORT_STATUS_REASON q) = reason % 16 ∧ (t.link q).since = s.ftime ∧
    t.bare = { s.bare with links := t.links } ∧ s.RegsKept t (fun a => a = FAB_PORT_STATUS q) := by
  rw [State.portDown_training h]
  refine ⟨by simp, by simp, by simp, ?_, ?_⟩
  · rw [State.bare_setLink, State.bare_setFld, State.bare_setFld]
  · have h0 := State.RegsKept.refl s (fun a => a = FAB_PORT_STATUS q)
    exact ((h0.setFld (f := FAB_PORT_STATUS_STATE q) 1 rfl).setFld (f := FAB_PORT_STATUS_REASON q) reason rfl).setLink q _

end

/-! ## The checks at the end of training (Table 9.4) -/

/-- The version that the partner's TRAIN unit leads to. -/
def unitVersion (u : Nat) : Nat := linkVersion (bits u 8 4) (bits u 12 4)

/-- The lanes that both sides kept and that are not retired, as the version allows them. -/
def State.agreedLanes (s : State) (q u : Nat) : Nat :=
  let both := maskLess ((s.link q).kept &&& bits u 48 16 &&& s.portLanes q) (s.fld (FAB_LANE_RETIRED_RETIRED (q / 4)))
  if unitVersion u = 3 then s.v3Lanes q both else both

/-- A module without an identifier notes it in REASON. -/
def State.noteGid (s : State) (q : Nat) : State := if s.gid = 0 then s.setFld (FAB_PORT_STATUS_REASON q) 8 else s

/-- The link with which a port comes UP. -/
def State.freshLink (s : State) (q u since : Nat) : Link :=
  { linkInit with
    kept := s.agreedLanes q u, since := since, drops := (s.link q).drops, holdUntil := (s.link q).holdUntil, partner := some u,
    xseq := (s.link q).xseq }

/-- A port comes UP with its version, link and lanes. -/
def State.comeUp (s : State) (q v : Nat) (l : Link) : State :=
  (((((s.setLink q l).sendCredit q).setLanes q l.kept).setFld (FAB_PORT_STATUS_VER q) v).setFld (FAB_PORT_STATUS_STATE q) 3).event
    (FAB_PORT_STATUS_STATE q) (0x160 + q / 4) 8

theorem linkVersion_le (lo hi : Nat) : linkVersion lo hi ≤ 4 := by
  unfold linkVersion
  split
  · exact Nat.min_le_left 4 hi
  · exact Nat.zero_le 4

section
variable {s : State} {q : Nat}

theorem State.trainFinish_version {u : Nat} (h : unitVersion u = 0) : s.trainFinish q u = s.portDown q 4 := by
  rw [unitVersion] at h
  simp [State.trainFinish, h]

theorem State.trainFinish_plane {u : Nat} (h : unitVersion u ≠ 0) (hp : bits u 40 3 ≠ q / 4) :
    s.trainFinish q u = s.portDown q 5 := by
  rw [unitVersion] at h
  simp [State.trainFinish, h, hp]

/-- With a common version and the right plane the lanes decide. -/
theorem State.trainFinish_lanes {u : Nat} (h : unitVersion u ≠ 0) (hp : bits u 40 3 = q / 4) : s.trainFinish q u =
    if popCount (s.agreedLanes q u) < (s.noteGid q).leastWidth q then (s.noteGid q).portDown q 3
    else (s.noteGid q).comeUp q (unitVersion u) (s.freshLink q u (s.noteGid q).ftime) :=
  (if_neg h).trans (if_neg fun hn => hn hp)

theorem State.regsKept_noteGid : s.RegsKept (s.noteGid q) (fun a => a = FAB_PORT_STATUS q) := by
  unfold State.noteGid
  split
  · exact (State.RegsKept.refl s (fun a => a = FAB_PORT_STATUS q)).setFld (f := FAB_PORT_STATUS_REASON q) 8 rfl
  · exact State.RegsKept.refl s _

theorem State.bare_noteGid : (s.noteGid q).bare = s.bare := by
  unfold State.noteGid
  split
  · exact State.bare_setFld ..
  · rfl

theorem State.state_noteGid : (s.noteGid q).fld (FAB_PORT_STATUS_STATE q) = s.fld (FAB_PORT_STATUS_STATE q) := by
  unfold State.noteGid
  split <;> simp

theorem State.reason_noteGid (h : s.gid = 0) : (s.noteGid q).fld (FAB_PORT_STATUS_REASON q) = 8 := by
  simp [State.noteGid, h]

theorem State.RegsKept.portReg {t : State} (h : s.RegsKept t (fun a => a = FAB_PORT_STATUS q)) : s.RegsKept t (PortReg q) :=
  h.mono fun _ e => .inl e

theorem State.groupMode_noteGid (hq : q < 24) : (s.noteGid q).groupMode (q / 4) = s.groupMode (q / 4) :=
  State.groupMode_kept hq State.regsKept_noteGid.portReg

/-- What a port that comes UP holds and leaves alone. -/
theorem State.comeUp_effect (hq : q < 24) {v : Nat} (hv : v ≤ 4) (l : Link) :
    let t := s.comeUp q v l
    t.fld (FAB_PORT_STATUS_STATE q) = 3 ∧ t.fld (FAB_PORT_STATUS_VER q) = v ∧ t.link q = l ∧
    t.fld (FAB_PORT_STATUS_WIDTH q) = popCount (l.kept &&& s.portLanes q) ∧
    t.fld (FAB_PORT_STATUS_REASON q) = s.fld (FAB_PORT_STATUS_REASON q) ∧ t.txq = s.txq ∧ s.MemKept t := by
  have hev (t : State) {f : Fld} (ha : f.addr = FAB_PORT_STATUS q) :
      (t.event (FAB_PORT_STATUS_STATE q) (0x160 + q / 4) 8).fld f = t.fld f :=
    t.fld_event _ _ _ f (ha ▸ reportReg_status hq)
  have hlanes : ((s.setLink q l).sendCredit q).portLanes q = s.portLanes q :=
    State.portLanes_congr (State.fld_of_reg (State.reg_congr rfl _))
  have hreason : ((s.setLink q l).sendCredit q).fld (FAB_PORT_STATUS_REASON q) = s.fld (FAB_PORT_STATUS_REASON q) :=
    State.fld_of_reg (State.reg_congr rfl _)
  have hbare : (s.comeUp q v l).bare = ((s.setLink q l).sendCredit q).bare := by
    rw [State.comeUp, State.bare_event, State.bare_setFld, State.bare_setFld, State.bare_setLanes]
  have hlink : (s.comeUp q v l).link q = ((s.setLink q l).sendCredit q).link q := State.link_congr (State.links_of_bare hbare) q
  refine ⟨?_, ?_, hlink.trans (s.link_setLink q l), ?_, ?_, (State.txq_of_bare hbare).trans rfl, ?_⟩
  · rw [State.comeUp, hev _ rfl, State.state_setState, Nat.mod_eq_of_lt (by decide)]
  · rw [State.comeUp, hev _ rfl, State.ver_setState, State.ver_setVer, Nat.mod_eq_of_lt (by omega)]
  · rw [State.comeUp, hev _ rfl, State.width_setState, State.width_setVer, State.width_setLanes, hlanes]
  · rw [State.comeUp, hev _ rfl, State.reason_setState, State.reason_setVer, State.reason_setLanes _ _ hq, hreason]
  · exact State.MemKept.of_eq ((State.mem_of_bare hbare).trans rfl) ((State.poison_of_bare hbare).trans rfl)

end

/-! ## Leaving UP (R254, R266) -/

/-- Registers that a move of flows may write: flow contexts, the flags of reception and the time source. -/
def FlowReg (a : Nat) : Prop := 0x800000 ≤ a ∨ a = FAB_RX_STATUS ∨ a = FAB_TIME_STATUS

/-- `t` is `s` after moves of flows: their contexts and holds, and the time source, may differ. -/
structure State.FlowsMoved (s t : State) : Prop where
  bare : t.bare = { s.bare with flowHold := t.flowHold }
  cnt : t.cnt = s.cnt
  regs : s.RegsKept t FlowReg

section
variable {s t : State}

theorem State.FlowsMoved.refl (s : State) : s.FlowsMoved s := ⟨rfl, rfl, .refl s _⟩

theorem State.FlowsMoved.setFld (h : s.FlowsMoved t) {f : Fld} (v : Nat) (hf : FlowReg f.addr) : s.FlowsMoved (t.setFld f v) :=
  ⟨(State.bare_setFld ..).trans h.bare, h.cnt, h.regs.setFld v hf⟩

theorem State.FlowsMoved.hold (h : s.FlowsMoved t) (l : Store Nat) : s.FlowsMoved { t with flowHold := l } :=
  ⟨by have e : ({ t with flowHold := l } : State).bare = { t.bare with flowHold := l } := rfl
      rw [e, h.bare], h.cnt, h.regs.of_regs rfl⟩

theorem State.FlowsMoved.txq (h : s.FlowsMoved t) : t.txq = s.txq := (congrArg State.txq h.bare :)

theorem flowReg_ctx (n k : Nat) : FlowReg (FLW_CTX n + k) := .inl (by simp only [FLW_CTX]; omega)

theorem State.FlowsMoved.fold {α : Type} {f : State → α → State} (hf : ∀ t x, s.FlowsMoved t → s.FlowsMoved (f t x)) :
    ∀ (l : List α) {t : State}, s.FlowsMoved t → s.FlowsMoved (l.foldl f t)
  | [], _, h => h
  | x :: l, t, h => State.FlowsMoved.fold hf l (hf t x h)

theorem State.FlowsMoved.moveFlow (h : s.FlowsMoved t) (n : Nat) : s.FlowsMoved (t.moveFlow n) := by
  unfold State.moveFlow
  split
  · exact h
  · simp only []
    split
    · exact (h.hold _).setFld (f := fcPlane n) _ (flowReg_ctx n 0)
    · split
      · exact (h.hold _).setFld _ (.inr (.inl rfl))
      · exact h.hold _

theorem State.FlowsMoved.pickSource (h : s.FlowsMoved t) : s.FlowsMoved t.pickSource := by
  have ht : FlowReg FAB_TIME_STATUS := .inr (.inr rfl)
  unfold State.pickSource
  simp only []
  split
  · exact (h.setFld (f := FAB_TIME_STATUS_SOURCE) _ ht).setFld (f := FAB_TIME_STATUS_HOPS) _ ht
  · exact (h.setFld (f := FAB_TIME_STATUS_SOURCE) _ ht).setFld (f := FAB_TIME_STATUS_HOPS) _ ht

theorem State.FlowsMoved.fld_status (h : s.FlowsMoved t) {q : Nat} (hq : q < 24) {f : Fld} (hf : f.addr = FAB_PORT_STATUS q) :
    t.fld f = s.fld f :=
  h.regs.fld (by simp only [hf, FlowReg, FAB_PORT_STATUS, FAB_RX_STATUS, FAB_TIME_STATUS]; omega) (hf ▸ reportReg_status hq)

end

/-- What a packet that waits becomes as its port leaves UP (R266). -/
def TxPkt.released (q : Nat) (x : TxPkt) : Option TxPkt :=
  if x.port = some q then
    (if x.flow.isSome then some { x with pkt := x.pkt.resent, port := none, codeword := 0, sends := 0 } else none)
  else some x

theorem TxPkt.released_port {q : Nat} {x y : TxPkt} (h : x.released q = some y) : y.port ≠ some q := by
  unfold TxPkt.released at h
  split at h
  · split at h
    · cases h; exact fun e => nomatch e
    · cases h
  · cases h; assumption

theorem TxPkt.released_other {q : Nat} {x : TxPkt} (h : x.port ≠ some q) : x.released q = some x := if_neg h

/-- The registers of a port that leaves UP: no version and no lane. -/
def State.portLeft (s : State) (q v : Nat) : State :=
  ((s.setFld (FAB_PORT_STATUS_STATE q) v).setFld (FAB_PORT_STATUS_VER q) 0).setLanes q 0

theorem State.portLeft_effect (s : State) {q : Nat} (hq : q < 24) (v : Nat) :
    (s.portLeft q v).fld (FAB_PORT_STATUS_STATE q) = v % 8 ∧ (s.portLeft q v).fld (FAB_PORT_STATUS_WIDTH q) = 0 ∧
    (s.portLeft q v).cnt = s.cnt ∧ (s.portLeft q v).bare = s.bare := by
  unfold State.portLeft
  refine ⟨?_, ?_, ?_, ?_⟩
  · rw [State.state_setLanes _ _ hq, State.state_setVer]
    exact s.state_setState q v
  · rw [State.width_setLanes, Nat.zero_and]
    decide
  · obtain ⟨w, h⟩ := State.setLanes_eq ((s.setFld (FAB_PORT_STATUS_STATE q) v).setFld (FAB_PORT_STATUS_VER q) 0) q 0
    rw [h, State.cnt_setFld, State.cnt_setFld, State.cnt_setFld, State.cnt_setFld]
  · rw [State.bare_setLanes, State.bare_setFld, State.bare_setFld]

/-- The packets of a port released. -/
def State.releasePkts (s : State) (q : Nat) : State := { s with txq := s.txq.filterMap (TxPkt.released q) }

theorem State.cnt_releasePkts (s : State) (q : Nat) : (s.releasePkts q).cnt = s.cnt := rfl

theorem State.fld_releasePkts (s : State) (q : Nat) (f : Fld) : (s.releasePkts q).fld f = s.fld f :=
  State.fld_of_reg (State.reg_congr rfl _)

/-- The outstanding packets of a flow on a port, counted as outstanding no more. -/
def State.unaccount (q : Nat) (s : State) (n : Nat) : State :=
  s.setFld (fcOut n) (s.fld (fcOut n) - (s.txq.filter (fun x => x.port == some q && x.flow == some n)).length)

theorem State.leaveUp_eq (s : State) (q v : Nat) : s.leaveUp q v = ((s.flowsOn q).foldl State.moveFlow
    ((((s.flowsOn q).foldl (State.unaccount q) s).portLeft q v).releasePkts q)).pickSource := rfl

/-- What leaves UP: the state of the port, no lane, its packets released, its flows moved. -/
theorem State.leaveUp_effect (s : State) {q : Nat} (hq : q < 24) (v : Nat) :
    let t := s.leaveUp q v
    t.fld (FAB_PORT_STATUS_STATE q) = v % 8 ∧ t.fld (FAB_PORT_STATUS_WIDTH q) = 0 ∧
    t.txq = s.txq.filterMap (TxPkt.released q) ∧ t.cnt = s.cnt ∧
    t.bare = { s.bare with flowHold := t.flowHold, txq := t.txq } := by
  have hacc : s.FlowsMoved ((s.flowsOn q).foldl (State.unaccount q) s) :=
    State.FlowsMoved.fold (fun t n h => h.setFld (f := fcOut n) _ (flowReg_ctx n 20)) _ (.refl s)
  rw [State.leaveUp_eq]
  generalize (s.flowsOn q).foldl (State.unaccount q) s = a at hacc ⊢
  obtain ⟨hstate, hwidth, hcnt, hbare⟩ := a.portLeft_effect hq v
  generalize a.portLeft q v = b at hstate hwidth hcnt hbare ⊢
  have hmoved : (b.releasePkts q).FlowsMoved (((s.flowsOn q).foldl State.moveFlow (b.releasePkts q)).pickSource) :=
    (State.FlowsMoved.fold (fun _ n h => h.moveFlow n) _ (.refl _)).pickSource
  generalize ((s.flowsOn q).foldl State.moveFlow (b.releasePkts q)).pickSource = t at hmoved ⊢
  have hbs : b.bare = { s.bare with flowHold := a.flowHold } := hbare.trans hacc.bare
  have hc : (b.releasePkts q).bare = { b.bare with txq := b.txq.filterMap (TxPkt.released q) } := rfl
  have ht := hmoved.bare
  rw [hc, hbs] at ht
  have htxq : t.txq = b.txq.filterMap (TxPkt.released q) := (congrArg State.txq ht :)
  have hb : b.txq = s.txq := (State.txq_of_bare hbare).trans hacc.txq
  refine ⟨by rw [hmoved.fld_status hq rfl, State.fld_releasePkts, hstate],
    by rw [hmoved.fld_status hq rfl, State.fld_releasePkts, hwidth], by rw [htxq, hb],
    by rw [hmoved.cnt, State.cnt_releasePkts, hcnt, hacc.cnt], ?_⟩
  rw [htxq]
  exact ht

/-! ## A port goes down (R254) -/

/-- A drop is counted and noted, or holds the port for flapping. -/
theorem State.portDrop_cases (s : State) (q : Nat) :
    (∃ l, s.portDrop q = (s.gcount (0x140 + q) 1).setLink q l) ∨
    ∃ l lv, s.portDrop q = ((((s.gcount (0x140 + q) 1).setLink q l).setFld (FAB_PORT_STATUS_DAMP_LEVEL q) lv).setFld
      (FAB_PORT_STATUS_STATE q) 4).event (FAB_PORT_STATUS_STATE q) (0x160 + q / 4) 8 := by
  unfold State.portDrop
  simp only []
  split
  · exact .inr ⟨_, _, rfl⟩
  · exact .inl ⟨_, rfl⟩

theorem State.portDrop_effect (s : State) {q : Nat} (hq : q < 24) :
    let t := s.portDrop q
    (t.fld (FAB_PORT_STATUS_STATE q) = s.fld (FAB_PORT_STATUS_STATE q) ∨ t.fld (FAB_PORT_STATUS_STATE q) = 4) ∧
    t.fld (FAB_PORT_STATUS_REASON q) = s.fld (FAB_PORT_STATUS_REASON q) ∧
    t.fld (FAB_PORT_STATUS_WIDTH q) = s.fld (FAB_PORT_STATUS_WIDTH q) ∧
    storeGet 0 t.cnt (gcntKey (0x140 + q)) = cntAdd false (storeGet 0 s.cnt (gcntKey (0x140 + q))) 1 ∧
    t.bare = { s.bare with links := t.links } := by
  have hrec : NotRecorder (0x140 + q) := .inl (by omega)
  have htime : gcntIsTime (0x140 + q) = false := by simp [gcntIsTime]; omega
  have hcnt := htime ▸ s.gcnt_gcount_self hrec 1
  have hbare := s.bare_gcount (0x140 + q) 1
  have hfld {f : Fld} (ha : f.addr = FAB_PORT_STATUS q) := s.fld_gcount (0x140 + q) 1 f (ha ▸ reportReg_status hq)
  have hev (t : State) {f : Fld} (ha : f.addr = FAB_PORT_STATUS q) :
      (t.event (FAB_PORT_STATUS_STATE q) (0x160 + q / 4) 8).fld f = t.fld f :=
    t.fld_event _ _ _ f (ha ▸ reportReg_status hq)
  obtain ⟨l, e⟩ | ⟨l, lv, e⟩ := s.portDrop_cases q
  · rw [e]
    exact ⟨.inl (by rw [State.fld_setLink, hfld rfl]), by rw [State.fld_setLink, hfld rfl], by rw [State.fld_setLink, hfld rfl],
      by rw [State.cnt_setLink, hcnt], by rw [State.bare_setLink, hbare]⟩
  · have hb : (s.portDrop q).bare = ((s.gcount (0x140 + q) 1).setLink q l).bare := by
      rw [e, State.bare_event, State.bare_setFld, State.bare_setFld]
    refine ⟨.inr ?_, ?_, ?_, ?_, ?_⟩
    · rw [e, hev _ rfl]
      exact State.state_setState _ q 4
    · rw [e, hev _ rfl, State.reason_setState, State.reason_setLevel, State.fld_setLink, hfld rfl]
    · rw [e, hev _ rfl, State.width_setState, State.width_setLevel, State.fld_setLink, hfld rfl]
    · rw [e, State.gcnt_event _ hrec, State.cnt_setFld, State.cnt_setFld, State.cnt_setLink, hcnt]
    · rw [State.links_of_bare hb, hb, State.bare_setLink, hbare]

/-- A port that was UP goes down: it may be held, its reason is kept, no lane and no packet stays on it. -/
theorem State.portDown_up_effect {s : State} {q : Nat} (hq : q < 24) (h : s.fld (FAB_PORT_STATUS_STATE q) = 3) (reason : Nat) :
    let t := s.portDown q reason
    (t.fld (FAB_PORT_STATUS_STATE q) = 1 ∨ t.fld (FAB_PORT_STATUS_STATE q) = 4) ∧
    t.fld (FAB_PORT_STATUS_REASON q) = reason % 16 ∧ t.fld (FAB_PORT_STATUS_WIDTH q) = 0 ∧
    t.txq = s.txq.filterMap (TxPkt.released q) ∧
    storeGet 0 t.cnt (gcntKey (0x140 + q)) = cntAdd false (storeGet 0 s.cnt (gcntKey (0x140 + q))) 1 ∧ s.MemKept t := by
  obtain ⟨hstate, hwidth, htxq, hcnt, hbare⟩ := s.leaveUp_effect hq 1
  have e : s.portDown q reason = (((s.leaveUp q 1).setFld (FAB_PORT_STATUS_REASON q) reason).setLink q
      { ((s.leaveUp q 1).setFld (FAB_PORT_STATUS_REASON q) reason).link q with since := s.ftime, partner := none }).portDrop q := by
    have hf : ((s.leaveUp q 1).setFld (FAB_PORT_STATUS_REASON q) reason).ftime = s.ftime := (congrArg State.ftime hbare :)
    rw [← hf]
    unfold State.portDown
    split
    · rfl
    · next h2 => exact absurd (h.symm.trans h2) (by decide)
    · next h3 _ => exact absurd h h3
  rw [e]
  generalize s.leaveUp q 1 = a at hstate hwidth htxq hcnt hbare ⊢
  generalize hb : (a.setFld (FAB_PORT_STATUS_REASON q) reason).setLink q _ = b
  have hbfld (f : Fld) : b.fld f = (a.setFld (FAB_PORT_STATUS_REASON q) reason).fld f := by rw [← hb, State.fld_setLink]
  have hbcnt : b.cnt = a.cnt := by rw [← hb, State.cnt_setLink, State.cnt_setFld]
  have hbbare : b.bare = { a.bare with links := b.links } := by rw [← hb, State.bare_setLink, State.bare_setFld]
  obtain ⟨dstate, dreason, dwidth, dcnt, dbare⟩ := b.portDrop_effect hq
  generalize b.portDrop q = t at dstate dreason dwidth dcnt dbare ⊢
  rw [hbbare, hbare] at dbare
  rw [hbfld, State.state_setReason, hstate] at dstate
  rw [hbfld, State.reason_setReason] at dreason
  rw [hbfld, State.width_setReason, hwidth] at dwidth
  rw [hbcnt, hcnt] at dcnt
  exact ⟨dstate, dreason, dwidth, (congrArg State.txq dbare :).trans htxq, dcnt,
    .of_eq (congrArg State.mem dbare :) (congrArg State.poison dbare :)⟩

end Sys2Proof.Machine

/-! SUPPORT. Training of ports, their falls, and the holds that end by time. -/
namespace Sys2Proof.Machine

/-! ## Rows of training -/

section
variable {s : State} {q : Nat}

theorem State.out_training (hq : q < 24) (m : Nat) :
    (s.training q m).out = s.out ++ [.ctlUnit q (s.trainUnit q m false)] := by
  have h0 := State.RegsKept.refl s (fun a => a = FAB_PORT_STATUS q)
  have hkept := ((h0.setFld (f := FAB_PORT_STATUS_STATE q) 2 rfl).setLink q
    { s.link q with kept := m, out := 0, wait := 0, peerOut := 0, since := s.ftime, partner := none }).portReg
  rw [← State.trainUnit_congr (State.gid_kept hkept) (State.groupMode_kept hq hkept)]
  rfl

theorem State.link_training (m : Nat) : (s.training q m).link q =
    { s.link q with kept := m, out := 0, wait := 0, peerOut := 0, since := s.ftime, partner := none } := State.link_setLink ..

theorem State.state_training (m : Nat) : (s.training q m).fld (FAB_PORT_STATUS_STATE q) = 2 := by
  simp [State.training]

/-- The start of an attempt (R248). -/
theorem execPortTrainStart_able (hq : q < 24) (h : s.canTrain q = true) (kept : Nat) :
    ∃ t : State, exec (.portTrainStart q kept none) s = .next t ∧
      (∀ u, exec (.portTrainStart q kept (some u)) s = exec (.linkTrain q u) t) ∧
      t.fld (FAB_PORT_STATUS_STATE q) = 2 ∧
      (t.link q).kept = maskLess (kept &&& s.portLanes q) (s.fld (FAB_LANE_RETIRED_RETIRED (q / 4))) ∧
      (t.link q).since = s.ftime ∧ t.out = s.out ++ [.ctlUnit q (s.trainUnit q (t.link q).kept false)] ∧
      t.bare = { s.bare with links := t.links, out := t.out } ∧ s.RegsKept t (fun a => a = FAB_PORT_STATUS q) := by
  refine ⟨s.training q (s.trainLanes q kept), congrArg _ (State.trainStart_able h kept),
    fun u => congrArg _ (State.trainStart_partner h kept u), State.state_training _, ?_, ?_, ?_, State.bare_training _,
    State.regsKept_training _⟩
  · rw [State.link_training]
    rfl
  · rw [State.link_training]
  · rw [State.out_training hq, State.link_training]

theorem execPortTrainRetry_due (h : (s.link q).since + 3800000000 ≤ s.ftime) (kept : Nat) (partner : Option Nat) :
    exec (.portTrainRetry q kept partner) s = exec (.portTrainStart q kept partner) s := if_pos h

theorem execPortTrainRetry_early (h : s.ftime < (s.link q).since + 3800000000) (kept : Nat) (partner : Option Nat) :
    exec (.portTrainRetry q kept partner) s = .next s := if_neg (by omega)

theorem execDampHoldExpiry_due (h : s.fld (FAB_PORT_STATUS_STATE q) = 4) (ht : (s.link q).holdUntil ≤ s.ftime) (kept : Nat)
    (partner : Option Nat) : exec (.dampHoldExpiry q kept partner) s =
      exec (.portTrainStart q kept partner) (s.setFld (FAB_PORT_STATUS_STATE q) 1) := if_pos ⟨h, ht⟩

theorem execDampHoldExpiry_early (h : s.fld (FAB_PORT_STATUS_STATE q) ≠ 4 ∨ s.ftime < (s.link q).holdUntil) (kept : Nat)
    (partner : Option Nat) : exec (.dampHoldExpiry q kept partner) s = .next s := if_neg (by omega)

theorem execPortTrainTimeout_due (h : s.fld (FAB_PORT_STATUS_STATE q) = 2) (ht : (s.link q).since + 240000000 ≤ s.ftime) :
    exec (.portTrainTimeout q) s = exec (.portDown q 7) s := if_pos ⟨h, ht⟩

theorem execPortTrainTimeout_early (h : s.fld (FAB_PORT_STATUS_STATE q) ≠ 2 ∨ s.ftime < (s.link q).since + 240000000) :
    exec (.portTrainTimeout q) s = .next s := if_neg (by omega)

/-- The partner's TRAIN unit is answered, and its acknowledgement ends the exchange (R248). -/
theorem execLinkTrain_training (h : s.fld (FAB_PORT_STATUS_STATE q) = 2) (u : Nat) : ∃ t : State,
    (t.link q).partner = some u ∧ (t.link q).kept = (s.link q).kept ∧ t.regs = s.regs ∧ t.fld (FAB_PORT_STATUS_STATE q) = 2 ∧
    t.out = s.out ++ [.ctlUnit q (s.trainUnit q (s.link q).kept true)] ∧ t.bare = { s.bare with links := t.links, out := t.out } ∧
    exec (.linkTrain q u) s = .next (if bitAt u 64 then t.trainFinish q u else t) := by
  have hlink : (s.answered q u).link q = { s.link q with partner := some u } := State.link_setLink ..
  have hfld (f : Fld) : (s.setLink q { s.link q with partner := some u }).fld f = s.fld f := s.fld_setLink q _ f
  refine ⟨s.answered q u, by rw [hlink], by rw [hlink], rfl, (hfld _).trans h, ?_, rfl, congrArg _ (State.linkTrain_training h u)⟩
  rw [← State.trainUnit_congr (hfld _) (hfld _), State.answered]
  simp only [State.link_setLink]
  rfl

/-- The checks that end an attempt (Table 9.4). -/
theorem State.trainFinish_effect (hq : q < 24) (h : s.fld (FAB_PORT_STATUS_STATE q) = 2) (u : Nat) :
    let t := s.trainFinish q u
    (unitVersion u = 0 → t.fld (FAB_PORT_STATUS_STATE q) = 1 ∧ t.fld (FAB_PORT_STATUS_REASON q) = 4) ∧
    (unitVersion u ≠ 0 → bits u 40 3 ≠ q / 4 → t.fld (FAB_PORT_STATUS_STATE q) = 1 ∧ t.fld (FAB_PORT_STATUS_REASON q) = 5) ∧
    (unitVersion u ≠ 0 → bits u 40 3 = q / 4 → popCount (s.agreedLanes q u) < s.leastWidth q →
      t.fld (FAB_PORT_STATUS_STATE q) = 1 ∧ t.fld (FAB_PORT_STATUS_REASON q) = 3) ∧
    (unitVersion u ≠ 0 → bits u 40 3 = q / 4 → s.leastWidth q ≤ popCount (s.agreedLanes q u) →
      t.fld (FAB_PORT_STATUS_STATE q) = 3 ∧ t.fld (FAB_PORT_STATUS_VER q) = unitVersion u ∧
      (t.link q).kept = s.agreedLanes q u ∧ t.fld (FAB_PORT_STATUS_WIDTH q) = popCount (s.agreedLanes q u &&& s.portLanes q) ∧
      (s.gid = 0 → t.fld (FAB_PORT_STATUS_REASON q) = 8) ∧ t.txq = s.txq ∧ s.MemKept t) := by
  have hdown {s : State} (h : s.fld (FAB_PORT_STATUS_STATE q) = 2) (r : Nat) :
      (s.portDown q r).fld (FAB_PORT_STATUS_STATE q) = 1 ∧ (s.portDown q r).fld (FAB_PORT_STATUS_REASON q) = r % 16 := by
    obtain ⟨hstate, hreason, -⟩ := State.portDown_training_effect h r
    exact ⟨hstate, hreason⟩
  have hleast := State.leastWidth_congr (State.groupMode_noteGid (s := s) hq)
  refine ⟨fun hv => ?_, fun hv hp => ?_, fun hv hp hw => ?_, fun hv hp hw => ?_⟩
  · rw [State.trainFinish_version hv]
    exact hdown h 4
  · rw [State.trainFinish_plane hv hp]
    exact hdown h 5
  · rw [State.trainFinish_lanes hv hp, hleast, if_pos hw]
    exact hdown (State.state_noteGid.trans h) 3
  · obtain ⟨hstate, hver, hlink, hwidth, hreason, htxq, hmem⟩ :=
      (s.noteGid q).comeUp_effect hq (linkVersion_le (bits u 8 4) (bits u 12 4)) (s.freshLink q u (s.noteGid q).ftime)
    have hlanes := State.portLanes_congr (State.groupMode_noteGid (s := s) hq)
    rw [hlanes] at hwidth
    rw [State.trainFinish_lanes hv hp, hleast, if_neg (Nat.not_lt.mpr hw)]
    refine ⟨hstate, hver, congrArg Link.kept hlink, hwidth, fun hg => hreason.trans (State.reason_noteGid hg),
      htxq.trans (State.txq_of_bare State.bare_noteGid), (State.MemKept.of_bare State.bare_noteGid).trans hmem⟩

/-- A port that goes down from UP (R254). -/
theorem State.portDown_up_packets (hq : q < 24) (h : s.fld (FAB_PORT_STATUS_STATE q) = 3) (reason : Nat) :
    let t := s.portDown q reason
    (∀ x ∈ t.txq, x.port ≠ some q) ∧ (∀ x ∈ s.txq, x.port ≠ some q → x ∈ t.txq) := by
  obtain ⟨-, -, -, htxq, -⟩ := State.portDown_up_effect hq h reason
  simp only [htxq, List.mem_filterMap]
  exact ⟨fun x ⟨y, _, hy⟩ => TxPkt.released_port hy, fun x hx hp => ⟨x, hx, TxPkt.released_other hp⟩⟩

end

/-! ## The obligation -/

/-- Settles O33: an attempt is a write of the port's own status and link, and a port that leaves UP keeps no packet. -/
theorem portsTrainAndFall : Obligations.PortsTrainAndFall := by
  refine ⟨fun s q kept partner hq => ?_, fun s q u hq => ?_, fun s q u hq h => State.trainFinish_effect hq h u, fun s q hq => ?_,
    fun s q hq hup ht => ?_, fun s n ht => ?_⟩
  · exact ⟨fun h => congrArg _ (State.trainStart_unable h kept partner), fun h => execPortTrainStart_able hq h kept,
      fun h => execPortTrainRetry_due h kept partner, fun h => execPortTrainRetry_early h kept partner,
      fun h ht => execDampHoldExpiry_due h ht kept partner, fun h => execDampHoldExpiry_early h kept partner⟩
  · exact ⟨fun h => congrArg _ (State.linkTrain_other h u), fun h => execLinkTrain_training h u⟩
  · refine ⟨execPortTrainTimeout_due, execPortTrainTimeout_early, fun reason => ⟨fun h => ?_, fun h => ?_, fun h2 h3 => ?_⟩⟩
    · exact answers_next (State.portDown_training_effect h reason)
    · obtain ⟨hstate, hreason, hwidth, -, hcnt, hmem⟩ := State.portDown_up_effect hq h reason
      obtain ⟨hgone, hstay⟩ := State.portDown_up_packets hq h reason
      exact answers_next ⟨hstate, hreason, hwidth, hgone, hstay, hcnt, hmem⟩
    · exact congrArg _ (State.portDown_other h2 h3 reason)
  · refine ⟨s.setFld (FAB_PORT_STATUS_DAMP_LEVEL q) 0, if_pos (by simp [hup, ht]),
      State.level_setLevel s q 0, State.bare_setFld .., ?_⟩
    exact (State.RegsKept.refl s (fun a => a = FAB_PORT_STATUS q)).setFld (f := FAB_PORT_STATUS_DAMP_LEVEL q) 0 rfl
  · exact ⟨{ s with flowHold := storeSet 0 s.flowHold n 0 }, if_pos ht, storeGet_set_self 0 s.flowHold n 0,
      fun m hm => storeGet_set_ne 0 0 s.flowHold 0 hm, rfl⟩

end Sys2Proof.Machine

/-! SUPPORT. Work on a link: what a change of it, a unit sent on it, a count and a record leave alone. -/
namespace Sys2Proof.Machine

/-- `t` is `s` after work on links: links, what went out, error accumulators, counters and reports may differ, and no other
register. -/
structure State.LinkWork (s t : State) : Prop where
  bare : t.bare = { s.bare with acc := t.acc, links := t.links, out := t.out }
  regs : s.RegsKept t (fun _ => False)

section
variable {s t u : State}

theorem State.LinkWork.refl (s : State) : s.LinkWork s := ⟨rfl, .refl s _⟩

theorem State.LinkWork.of_bare (h : s.LinkWork t) (hb : u.bare = t.bare) (hr : t.RegsKept u (fun _ => False)) : s.LinkWork u := by
  refine ⟨?_, h.regs.trans hr⟩
  have hacc : u.acc = t.acc := State.acc_of_bare hb
  rw [hacc, State.links_of_bare hb, State.out_of_bare hb, hb, h.bare]

theorem State.LinkWork.setLink (h : s.LinkWork t) (q : Nat) (l : Link) : s.LinkWork (t.setLink q l) := by
  refine ⟨?_, h.regs.setLink q l⟩
  rw [State.bare_setLink, h.bare]
  rfl

theorem State.LinkWork.emit (h : s.LinkWork t) (m : OutMsg) : s.LinkWork (t.emit m) := by
  refine ⟨?_, h.regs.emit m⟩
  rw [State.bare_emit, h.bare]
  rfl

theorem State.LinkWork.accAdd (h : s.LinkWork t) (k n : Nat) : s.LinkWork (t.accAdd k n) := by
  refine ⟨?_, h.regs.of_regs rfl⟩
  have e : (t.accAdd k n).bare = { t.bare with acc := (t.accAdd k n).acc } := rfl
  rw [e, h.bare]
  rfl

theorem State.LinkWork.gcount (h : s.LinkWork t) (n k : Nat) : s.LinkWork (t.gcount n k) :=
  h.of_bare (State.bare_gcount ..) ((State.RegsKept.refl t _).gcount n k)

theorem State.LinkWork.detect (h : s.LinkWork t) (unit cls flags desc ctx layer operator job syn : Nat) :
    s.LinkWork (t.detect unit cls flags desc ctx layer operator job syn) :=
  h.of_bare (State.bare_detect ..) fun _ _ _ => State.reg_detect ..

theorem State.LinkWork.laneFault (h : s.LinkWork t) (x : Nat) : s.LinkWork (t.laneFault x) := (h.gcount _ 1).accAdd _ 1

theorem State.LinkWork.fld (h : s.LinkWork t) {f : Fld} (hf : reportReg f.addr = false) : t.fld f = s.fld f :=
  h.regs.fld (fun hn => hn) hf

theorem State.LinkWork.txq (h : s.LinkWork t) : t.txq = s.txq := (congrArg State.txq h.bare :)
theorem State.LinkWork.inflight (h : s.LinkWork t) : t.inflight = s.inflight := (congrArg State.inflight h.bare :)
theorem State.LinkWork.boot (h : s.LinkWork t) : t.boot = s.boot := (congrArg State.boot h.bare :)
theorem State.LinkWork.memKept (h : s.LinkWork t) : s.MemKept t :=
  .of_eq (congrArg State.mem h.bare :) (congrArg State.poison h.bare :)

/-- Work that leaves the accumulators alone. -/
theorem State.LinkWork.bare_acc (h : s.LinkWork t) (ha : t.acc = s.acc) : t.bare = { s.bare with links := t.links, out := t.out } := by
  have hb := h.bare
  rw [ha] at hb
  exact hb

/-- Work that sends nothing. -/
theorem State.LinkWork.bare_out (h : s.LinkWork t) (ho : t.out = s.out) : t.bare = { s.bare with links := t.links, acc := t.acc } := by
  have hb := h.bare
  rw [ho] at hb
  exact hb

theorem State.LinkWork.groupMode (h : s.LinkWork t) {q : Nat} (hq : q < 64) : t.groupMode (q / 4) = s.groupMode (q / 4) :=
  h.fld (reportReg_fabric (by simp [FAB_GROUP_CFG_MODE, FAB_GROUP_CFG]; omega) (by simp [FAB_GROUP_CFG_MODE, FAB_GROUP_CFG]; omega))

end

/-! ## Links, what goes out, and accumulators after such work -/

section
variable (s : State)

@[simp] theorem State.out_emit (m : OutMsg) : (s.emit m).out = s.out ++ [m] := rfl
@[simp] theorem State.out_setLink (q : Nat) (l : Link) : (s.setLink q l).out = s.out := rfl
@[simp] theorem State.acc_emit (m : OutMsg) : (s.emit m).acc = s.acc := rfl
@[simp] theorem State.acc_setLink (q : Nat) (l : Link) : (s.setLink q l).acc = s.acc := rfl
end

end Sys2Proof.Machine

/-! SUPPORT. Lanes: one that fails leaves striping alone, retrains, and rejoins (R250 to R253). -/
namespace Sys2Proof.Machine

/-! ## Lane faults -/

section
variable (s : State) (k n : Nat)

theorem State.cnt_accAdd : (s.accAdd k n).cnt = s.cnt := rfl
theorem State.detections_accAdd : (s.accAdd k n).detections = s.detections := rfl
theorem State.links_accAdd : (s.accAdd k n).links = s.links := rfl
theorem State.out_accAdd : (s.accAdd k n).out = s.out := rfl

end

section
variable (s : State) {x : Nat}

theorem State.gcnt_laneFault (hx : x < 96) : storeGet 0 (s.laneFault x).cnt (gcntKey (0xC0 + x)) =
    cntAdd false (storeGet 0 s.cnt (gcntKey (0xC0 + x))) 1 := by
  have htime : gcntIsTime (0xC0 + x) = false := by simp [gcntIsTime]; omega
  rw [State.laneFault, State.cnt_accAdd, s.gcnt_gcount_self (.inl (by omega)) 1, htime]

theorem State.detections_laneFault : (s.laneFault x).detections = s.detections := by
  rw [State.laneFault, State.detections_accAdd, State.detections_gcount]

theorem State.links_laneFault : (s.laneFault x).links = s.links := by
  rw [State.laneFault, State.links_accAdd, State.links_gcount]

theorem State.out_laneFault : (s.laneFault x).out = s.out := by
  rw [State.laneFault, State.out_accAdd, State.out_gcount]

end

section
variable (s : State) (q m : Nat) (o : OutMsg)

theorem State.links_emit : (s.emit o).links = s.links := rfl
theorem State.cnt_emit : (s.emit o).cnt = s.cnt := rfl
theorem State.detections_emit : (s.emit o).detections = s.detections := rfl

theorem State.cnt_setLanes : (s.setLanes q m).cnt = s.cnt := by
  obtain ⟨v, h⟩ := s.setLanes_eq q m
  rw [h, State.cnt_setFld, State.cnt_setFld]

theorem State.detections_setLanes : (s.setLanes q m).detections = s.detections := by
  obtain ⟨v, h⟩ := s.setLanes_eq q m
  rw [h, State.detections_setFld, State.detections_setFld]

end

/-! ## Lanes in striping -/

/-- Enough lanes stay: a version 4 port goes on with them (R250). -/
theorem State.restripe_narrower {s : State} {q : Nat} (hv : s.fld (FAB_PORT_STATUS_VER q) ≠ 3)
    (hw : s.leastWidth q ≤ popCount (s.link q).lanes) : s.restripe q = s.setLanes q (s.link q).lanes :=
  (if_neg hv).trans (if_neg (Nat.not_lt.mpr hw))

/-- After work on the link of a port its lanes are set: what holds then. -/
theorem State.LinkWork.setLanes {s t : State} {q : Nat} (h : s.LinkWork t) (hq : q < 64) (m : Nat) :
    (t.setLanes q m).bare = t.bare ∧ (t.setLanes q m).link q = t.link q ∧ (t.setLanes q m).out = t.out ∧
    (t.setLanes q m).fld (FAB_PORT_STATUS_WIDTH q) = popCount (m &&& s.portLanes q) ∧ s.RegsKept (t.setLanes q m) (PortReg q) := by
  have hb := t.bare_setLanes q m
  refine ⟨hb, State.link_congr (State.links_of_bare hb) q, State.out_of_bare hb, ?_, ?_⟩
  · rw [State.width_setLanes, State.portLanes_congr (h.groupMode hq)]
  · exact (h.regs.mono fun _ hn => hn.elim).setLanes q m

/-- The port of a lane lies in the group of four ports that the lane's number names. -/
theorem State.lanePort_lt (s : State) {x : Nat} (hx : x < 96) : s.lanePort x < 64 := by
  have h := Nat.div_le_self (x % 16) (s.fullWidth (4 * (x / 16)))
  unfold State.lanePort
  omega

/-! ## A lane leaves striping -/

/-- The link of a port without lane `x`. -/
def State.linkWithout (s : State) (x : Nat) : Link :=
  { s.link (s.lanePort x) with out := (s.link (s.lanePort x)).out ||| 2 ^ (x % 16) }

/-- The state in which lane `x` has left its port: the fault counts, and one record of it is detected. -/
def State.laneLost (s : State) (x : Nat) : State :=
  ((s.laneFault x).setLink (s.lanePort x) (s.linkWithout x)).detect (0x0100 + x) 0x0A 0 0xFFFFFF 0x3F 0 0 8
    (s.lanePort x + x * 2 ^ 8 + 1 * 2 ^ 16)

section
variable (s : State) (x : Nat)

theorem State.linkWork_laneLost : s.LinkWork (s.laneLost x) := (((State.LinkWork.refl s).laneFault x).setLink _ _).detect ..

theorem State.link_laneLost : (s.laneLost x).link (s.lanePort x) = s.linkWithout x := by
  rw [State.laneLost, State.link_congr (State.links_detect ..), State.link_setLink]

theorem State.cnt_laneLost : (s.laneLost x).cnt = (s.laneFault x).cnt := by
  rw [State.laneLost, State.cnt_detect, State.cnt_setLink]

theorem State.out_laneLost : (s.laneLost x).out = s.out := by
  rw [State.laneLost, State.out_detect, State.out_setLink, State.out_laneFault]

theorem State.detections_laneLost (h : s.boot = .running) : (s.laneLost x).detections.length = s.detections.length + 1 := by
  have hboot : ((s.laneFault x).setLink (s.lanePort x) (s.linkWithout x)).boot = s.boot :=
    (((State.LinkWork.refl s).laneFault x).setLink _ _).boot
  have hdet : ((s.laneFault x).setLink (s.lanePort x) (s.linkWithout x)).detections = s.detections := s.detections_laneFault
  rw [State.laneLost, State.detections_detect _ (hboot.trans h), hdet]

end

/-- A lane in striping of a version 4 port leaves it with a LANE unit; what stays goes on or takes the port down. -/
theorem State.laneOut_eq {s : State} {x : Nat} (hq : s.lanePort x < 24) (hup : s.portUp (s.lanePort x) = true)
    (hv : s.fld (FAB_PORT_STATUS_VER (s.lanePort x)) ≠ 3)
    (ha : bitAt (s.fld (FAB_LANE_ACTIVE_ACTIVE (x / 16))) (x % 16) = true) (event : Nat) :
    s.laneOut x event = ((s.laneLost x).emit (.ctlUnit (s.lanePort x) (laneUnit (s.linkWithout x).out
      (Config.laneReason event)))).restripe (s.lanePort x) := by
  have hnot : ¬ (!s.portUp (s.lanePort x) || !bitAt (s.fld (FAB_LANE_ACTIVE_ACTIVE (x / 16))) (x % 16)) = true := by
    rw [hup, ha]; decide
  have hlink : (s.laneFault x).link (s.lanePort x) = s.link (s.lanePort x) := State.link_congr s.links_laneFault _
  have hver : (s.laneLost x).fld (FAB_PORT_STATUS_VER (s.lanePort x)) ≠ 3 := by
    rwa [(s.linkWork_laneLost x).fld (reportReg_status hq)]
  have e : s.laneOut x event = (if (s.laneLost x).fld (FAB_PORT_STATUS_VER (s.lanePort x)) = 3 then s.laneLost x
      else (s.laneLost x).emit (.ctlUnit (s.lanePort x) (laneUnit ((s.laneLost x).link (s.lanePort x)).out
        (Config.laneReason event)))).restripe (s.lanePort x) := by
    simp only [State.laneLost, State.linkWithout, ← hlink]
    exact if_neg hnot
  rw [e, if_neg hver, State.link_laneLost]

/-- What a failing lane leaves: the port without it, the partner told, one fault counted and one record detected. -/
theorem State.laneOut_effect {s : State} {x : Nat} (hx : x < 96) (hq : s.lanePort x < 24) (hup : s.portUp (s.lanePort x) = true)
    (hv : s.fld (FAB_PORT_STATUS_VER (s.lanePort x)) ≠ 3)
    (ha : bitAt (s.fld (FAB_LANE_ACTIVE_ACTIVE (x / 16))) (x % 16) = true)
    (hw : s.leastWidth (s.lanePort x) ≤ popCount (s.linkWithout x).lanes) (event : Nat) :
    let t := s.laneOut x event
    t.link (s.lanePort x) = s.linkWithout x ∧ t.fld (FAB_PORT_STATUS_STATE (s.lanePort x)) = 3 ∧
    t.fld (FAB_PORT_STATUS_WIDTH (s.lanePort x)) = popCount ((t.link (s.lanePort x)).lanes &&& s.portLanes (s.lanePort x)) ∧
    (∃ r, t.out = s.out ++ [.ctlUnit (s.lanePort x) (laneUnit (s.linkWithout x).out r)]) ∧
    t.txq = s.txq ∧ t.inflight = s.inflight ∧ s.MemKept t ∧
    (s.boot = .running → t.detections.length = s.detections.length + 1) ∧
    storeGet 0 t.cnt (gcntKey (0xC0 + x)) = cntAdd false (storeGet 0 s.cnt (gcntKey (0xC0 + x))) 1 ∧
    s.RegsKept t (PortReg (s.lanePort x)) := by
  have hdet := s.detections_laneLost x
  have hcnt := (congrArg (fun c => storeGet 0 c (gcntKey (0xC0 + x))) (s.cnt_laneLost x)).trans (s.gcnt_laneFault hx)
  have hlink := s.link_laneLost x
  have hout := s.out_laneLost x
  have hwork := s.linkWork_laneLost x
  rw [State.laneOut_eq hq hup hv ha event]
  generalize s.laneLost x = a at hdet hcnt hlink hout hwork ⊢
  generalize hm : OutMsg.ctlUnit _ _ = m
  have hwork := hwork.emit m
  have hver : (a.emit m).fld (FAB_PORT_STATUS_VER (s.lanePort x)) ≠ 3 := by rwa [hwork.fld (reportReg_status hq)]
  have hleast := State.leastWidth_congr (hwork.groupMode (q := s.lanePort x) (by omega))
  have hlinke : (a.emit m).link (s.lanePort x) = s.linkWithout x := (State.link_congr (State.links_emit a m) _).trans hlink
  rw [State.restripe_narrower hver (by rwa [hleast, hlinke]), hlinke]
  obtain ⟨hb, hl, ho, hwidth, hregs⟩ := hwork.setLanes (q := s.lanePort x) (by omega) (s.linkWithout x).lanes
  have hup : s.fld (FAB_PORT_STATUS_STATE (s.lanePort x)) = 3 := by simpa [State.portUp] using hup
  refine ⟨hl.trans hlinke, ?_, ?_, ⟨Config.laneReason event, ?_⟩, ?_, ?_, ?_, fun hrun => ?_, ?_, hregs⟩
  · rw [State.state_setLanes _ _ hq, hwork.fld (reportReg_status hq), hup]
  · rw [hl, hlinke, hwidth]
  · rw [ho, State.out_emit, hout, hm]
  · rw [State.txq_of_bare hb, hwork.txq]
  · rw [State.inflight_of_bare hb, hwork.inflight]
  · exact hwork.memKept.trans (.of_bare hb)
  · rw [State.detections_setLanes, State.detections_emit, hdet hrun]
  · rw [State.cnt_setLanes, State.cnt_emit, hcnt]

/-! ## Retraining and rejoining (R251, R252) -/

theorem bitAt_eq_testBit (v i : Nat) : bitAt v i = v.testBit i := by
  rw [bitAt, Nat.shiftRight_eq_div_pow, Nat.testBit_eq_decide_div_mod_eq]
  rfl

/-- A bit taken from a mask is not in what stays. -/
theorem bitAt_maskLess_pow (m i : Nat) : bitAt (maskLess m (2 ^ i)) i = false := by
  simp [bitAt_eq_testBit, maskLess, Nat.testBit_xor, Nat.testBit_and]

/-- A link changed, its partner told of the lanes that are out, and its lanes set (R252). -/
def State.relinked (s : State) (q : Nat) (l : Link) (event : Nat) : State :=
  let t := s.setLink q l
  let u := t.emit (.ctlUnit q (laneUnit (t.link q).out (Config.laneReason event)))
  u.setLanes q (u.link q).lanes

theorem State.relinked_eq (s : State) (q : Nat) (l : Link) (event : Nat) : s.relinked q l event =
    ((s.setLink q l).emit (.ctlUnit q (laneUnit l.out (Config.laneReason event)))).setLanes q l.lanes := by
  simp only [State.relinked, State.link_congr (State.links_emit _ _), State.link_setLink]

section
variable {s : State} {x : Nat}

/-- A retrain that fails is a further fault of the lane, and waits for its next attempt (R252). -/
theorem execLaneRetrainTimeout_out (hx : x < 96) (hup : s.portUp (s.lanePort x) = true)
    (ho : bitAt (s.link (s.lanePort x)).out (x % 16) = true) (hw : bitAt (s.link (s.lanePort x)).wait (x % 16) = false) :
    Answers (exec (.laneRetrainTimeout x) s) fun t =>
      (t.link (s.lanePort x)).wait = (s.link (s.lanePort x)).wait ||| 2 ^ (x % 16) ∧
      storeGet 0 t.cnt (gcntKey (0xC0 + x)) = cntAdd false (storeGet 0 s.cnt (gcntKey (0xC0 + x))) 1 ∧
      t.bare = { s.bare with links := t.links, acc := t.acc } ∧ s.RegsKept t (fun _ => False) := by
  have hyes : (s.portUp (s.lanePort x) && bitAt (s.link (s.lanePort x)).out (x % 16) &&
      !bitAt (s.link (s.lanePort x)).wait (x % 16)) = true := by rw [hup, ho, hw]; rfl
  refine ⟨_, if_pos hyes, ?_⟩
  generalize hl : ({ s.link (s.lanePort x) with wait := _ } : Link) = l
  have hwork : s.LinkWork (((s.setLink (s.lanePort x) l).laneFault x).detectOnly (0x0100 + x) 0) :=
    (((State.LinkWork.refl s).setLink _ l).laneFault x).detect ..
  refine ⟨?_, ?_, hwork.bare_out ?_, hwork.regs⟩
  · rw [State.detectOnly, State.link_congr (State.links_detect ..), State.link_congr (State.links_laneFault _), State.link_setLink, ← hl]
  · rw [State.detectOnly, State.cnt_detect, State.gcnt_laneFault _ hx, State.cnt_setLink]
  · rw [State.detectOnly, State.out_detect, State.out_laneFault, State.out_setLink]

theorem execLaneRetrainRetry_up (hup : s.portUp (s.lanePort x) = true) :
    Answers (exec (.laneRetrainRetry x) s) fun t =>
      (t.link (s.lanePort x)).wait = maskLess (s.link (s.lanePort x)).wait (2 ^ (x % 16)) ∧
      bitAt (t.link (s.lanePort x)).wait (x % 16) = false ∧ t = { s with links := t.links } := by
  refine ⟨s.setLink (s.lanePort x) { s.link (s.lanePort x) with wait := maskLess (s.link (s.lanePort x)).wait (2 ^ (x % 16)) },
    congrArg _ (if_pos hup), ?_, ?_, rfl⟩
  · rw [State.link_setLink]
  · rw [State.link_setLink]
    exact bitAt_maskLess_pow ..

/-- A retired lane never rejoins (R253). -/
theorem execLaneRejoin_retired (hr : bitAt (s.fld (FAB_LANE_RETIRED_RETIRED (x / 16))) (x % 16) = true) :
    exec (.laneRejoin x) s = .next s := by
  refine if_neg ?_
  rw [hr, Bool.not_true, Bool.and_false]
  decide

theorem execLaneRejoin_out (hx : x < 96) (hup : s.portUp (s.lanePort x) = true)
    (ho : bitAt (s.link (s.lanePort x)).out (x % 16) = true) (hw : bitAt (s.link (s.lanePort x)).wait (x % 16) = false)
    (hr : bitAt (s.fld (FAB_LANE_RETIRED_RETIRED (x / 16))) (x % 16) = false) :
    Answers (exec (.laneRejoin x) s) fun t =>
      (t.link (s.lanePort x)).out = maskLess (s.link (s.lanePort x)).out (2 ^ (x % 16)) ∧
      t.fld (FAB_PORT_STATUS_WIDTH (s.lanePort x)) = popCount ((t.link (s.lanePort x)).lanes &&& s.portLanes (s.lanePort x)) ∧
      (∃ r, t.out = s.out ++ [.ctlUnit (s.lanePort x) (laneUnit (maskLess (s.link (s.lanePort x)).out (2 ^ (x % 16))) r)]) ∧
      t.bare = { s.bare with links := t.links, out := t.out } ∧ s.RegsKept t (PortReg (s.lanePort x)) := by
  have hyes : (s.portUp (s.lanePort x) && bitAt (s.link (s.lanePort x)).out (x % 16) &&
      !bitAt (s.link (s.lanePort x)).wait (x % 16) && !bitAt (s.fld (FAB_LANE_RETIRED_RETIRED (x / 16))) (x % 16)) = true := by
    rw [hup, ho, hw, hr]; rfl
  obtain ⟨l, hl⟩ : ∃ l : Link, l = { s.link (s.lanePort x) with out := maskLess (s.link (s.lanePort x)).out (2 ^ (x % 16)) } :=
    ⟨_, rfl⟩
  have e : exec (.laneRejoin x) s = .next (s.relinked (s.lanePort x) l 3) := hl ▸ if_pos hyes
  rw [e]
  refine answers_next ?_
  rw [State.relinked_eq]
  generalize hm : OutMsg.ctlUnit _ _ = m
  have hwork := ((State.LinkWork.refl s).setLink (s.lanePort x) l).emit m
  have hlink : ((s.setLink (s.lanePort x) l).emit m).link (s.lanePort x) = l := s.link_setLink _ l
  obtain ⟨hb, hlk, ho, hwidth, hregs⟩ := hwork.setLanes (s.lanePort_lt hx) l.lanes
  refine ⟨?_, ?_, ⟨Config.laneReason 3, ?_⟩, ?_, hregs⟩
  · rw [hlk, hlink, hl]
  · rw [hlk, hlink, hwidth]
  · rw [ho, State.out_emit, State.out_setLink, ← hm, hl]
  · rw [State.links_of_bare hb, ho, hb]
    exact hwork.bare_acc rfl

/-- A LANE unit of the partner: what it has out is out here too, while enough lanes stay (R250). -/
theorem execLinkLane_narrower {q mask : Nat} (hq : q < 24) (hup : s.portUp q = true) (hv : s.fld (FAB_PORT_STATUS_VER q) ≠ 3)
    (hw : s.leastWidth q ≤ popCount ({ s.link q with peerOut := mask &&& s.portLanes q } : Link).lanes) :
    Answers (exec (.linkLane q mask) s) fun t =>
      t.link q = { s.link q with peerOut := mask &&& s.portLanes q } ∧
      t.fld (FAB_PORT_STATUS_WIDTH q) =
        popCount (({ s.link q with peerOut := mask &&& s.portLanes q } : Link).lanes &&& s.portLanes q) ∧
      t.bare = { s.bare with links := t.links } ∧ s.RegsKept t (PortReg q) := by
  have e : s.linkLane q mask = (s.setLink q { s.link q with peerOut := mask &&& s.portLanes q }).restripe q :=
    if_neg (by simpa [hup] using hv)
  refine ⟨s.linkLane q mask, rfl, ?_⟩
  rw [e]
  generalize ({ s.link q with peerOut := mask &&& s.portLanes q } : Link) = l at hw ⊢
  have hwork := (State.LinkWork.refl s).setLink q l
  have hleast := State.leastWidth_congr (hwork.groupMode (q := q) (by omega))
  rw [State.restripe_narrower (by rwa [State.fld_setLink]) (by rwa [hleast, State.link_setLink]), State.link_setLink]
  obtain ⟨hb, hlk, ho, hwidth, hregs⟩ := hwork.setLanes (q := q) (by omega) l.lanes
  refine ⟨hlk.trans (s.link_setLink q l), hwidth, ?_, hregs⟩
  rw [State.links_of_bare hb, hb]
  rfl

end

/-- Settles O34: on a port that stays wide enough, work on its link is followed by a write of its lanes. -/
theorem lanesLeaveAndRejoin : Obligations.LanesLeaveAndRejoin := by
  refine ⟨fun s x hx => ?_, fun s x _ h => ?_, fun s x hx => ?_, fun s q mask hq hup hv hw => execLinkLane_narrower hq hup hv hw⟩
  · intro q b l hq hup hv ha hw i hi hlim
    have hlost := State.laneOut_effect hx hq hup hv ha hw
    rcases List.mem_pair.mp hi with rfl | rfl
    · exact answers_next (hlost 2)
    · exact ⟨s.laneOut x 1, if_pos (hlim rfl), hlost 1⟩
  · refine congrArg _ (if_pos ?_)
    rcases h with h | h <;> simp [h]
  · intro q l hup
    exact ⟨fun ho hw => execLaneRetrainTimeout_out hx hup ho hw, execLaneRetrainRetry_up hup,
      fun ho hw => ⟨fun hr => execLaneRejoin_retired hr, fun hr => execLaneRejoin_out hx hup ho hw hr⟩⟩

end Sys2Proof.Machine

/-! SUPPORT. Codewords and their acknowledgement: what is taken, asked for again and released (R243 to R247). -/
namespace Sys2Proof.Machine

/-! ## Codewords received -/

section
variable {s : State} {q : Nat}

theorem State.nak_sent (h : (s.link q).nakSent = true) : s.nak q = s := if_pos h

theorem State.nak_first (h : (s.link q).nakSent = false) :
    s.nak q = (s.setLink q { s.link q with nakSent := true }).emit (.ctlUnit q (nakUnit (s.link q).rxSeq)) :=
  if_neg (by rw [h]; decide)

/-- A NAK for the first missing codeword goes out once (R246). -/
theorem State.nak_effect (s : State) (q : Nat) :
    ((s.nak q).link q).nakSent = true ∧ ((s.nak q).link q).rxSeq = (s.link q).rxSeq ∧
    ((s.nak q).link q).stream = (s.link q).stream ∧ ((s.nak q).link q).ue = (s.link q).ue ∧
    (s.nak q).out = (if (s.link q).nakSent then s.out else s.out ++ [.ctlUnit q (nakUnit (s.link q).rxSeq)]) := by
  cases h : (s.link q).nakSent with
  | true =>
    rw [State.nak_sent h]
    exact ⟨h, rfl, rfl, rfl, rfl⟩
  | false =>
    rw [State.nak_first h, State.link_congr (State.links_emit _ _), State.link_setLink]
    exact ⟨rfl, rfl, rfl, rfl, rfl⟩

/-- The corrected symbols of a codeword are counted (R240). -/
def State.fecCounted (s : State) (x fec : Nat) : State := if fec = 0 then s else s.gcount (0x60 + x) fec

theorem State.linkWork_fecCounted (s : State) (x fec : Nat) : s.LinkWork (s.fecCounted x fec) := by
  unfold State.fecCounted
  split
  · exact .refl s
  · exact (State.LinkWork.refl s).gcount ..

theorem State.bare_fecCounted (s : State) (x fec : Nat) : (s.fecCounted x fec).bare = s.bare := by
  unfold State.fecCounted
  split
  · rfl
  · exact State.bare_gcount ..

/-- The control units of a codeword, and the bytes of its data units (R243). -/
def ctlUnits (cmask : Nat) (units : List Nat) : List Nat := (units.zipIdx.filter (fun u => bitAt cmask u.2)).map (·.1)
def dataBytes (cmask : Nat) (units : List Nat) : List Nat :=
  (units.zipIdx.filter (fun u => !bitAt cmask u.2)).flatMap (fun u => leBytes 64 u.1)

/-- The link after the next codeword in order. -/
def Link.took (l : Link) (data : List Nat) : Link :=
  { l with rxSeq := (l.rxSeq + 1) % 1024, nakSent := false, stream := l.stream ++ data }

section
variable {lane fec seq cmask : Nat} {units : List Nat}

theorem execCodewordReceive_closed {bad : Bool} (h2 : s.fld (FAB_PORT_STATUS_STATE q) ≠ 2) (h3 : s.fld (FAB_PORT_STATUS_STATE q) ≠ 3) :
    exec (.codewordReceive q lane bad fec seq cmask units) s = .next s := if_pos ⟨h2, h3⟩

/-- A codeword without error on a port in UP. -/
theorem execCodewordReceive_good (h : s.fld (FAB_PORT_STATUS_STATE q) = 3) :
    exec (.codewordReceive q lane false fec seq cmask units) s =
      let t := s.fecCounted (16 * (q / 4) + lane % 16) fec
      if seq % 1024 = (t.link q).rxSeq then
        .next ((ctlUnits cmask units).foldl (fun t u => t.linkUnit q u)
          ((t.setLink q ((t.link q).took (dataBytes cmask units))).emit (.ctlUnit q (ackUnit (t.link q).rxSeq))))
      else if ((t.link q).rxSeq + 1024 - seq % 1024) % 1024 ≤ 512 then
        .next (t.emit (.ctlUnit q (ackUnit ((t.link q).rxSeq + 1023))))
      else .next (t.nak q) := by
  have hopen : ¬ (s.fld (FAB_PORT_STATUS_STATE q) ≠ 2 ∧ s.fld (FAB_PORT_STATUS_STATE q) ≠ 3) := by omega
  have h2 : s.fld (FAB_PORT_STATUS_STATE q) ≠ 2 := by omega
  exact (if_neg hopen).trans ((if_neg (by decide)).trans (if_neg h2))

/-- An uncorrectable codeword on a port in UP: noted, and the first missing one asked for (R246, R251). -/
theorem execCodewordReceive_bad (h : s.fld (FAB_PORT_STATUS_STATE q) = 3) :
    ∃ ue, (lane % 16, s.ftime) ∈ ue ∧ exec (.codewordReceive q lane true fec seq cmask units) s =
      .next (((s.gcount (16 * (q / 4) + lane % 16) 1).setLink q { s.link q with ue := ue }).nak q) := by
  have hopen : ¬ (s.fld (FAB_PORT_STATUS_STATE q) ≠ 2 ∧ s.fld (FAB_PORT_STATUS_STATE q) ≠ 3) := by omega
  have hlink : (s.gcount (16 * (q / 4) + lane % 16) 1).link q = s.link q := State.link_congr (State.links_gcount ..) q
  have htime : (s.gcount (16 * (q / 4) + lane % 16) 1).ftime = s.ftime := State.ftime_gcount ..
  refine ⟨(lane % 16, s.ftime) :: (s.link q).ue.filter (fun e => decide (s.ftime < e.2 + 4000000000)), List.mem_cons_self, ?_⟩
  rw [← hlink, ← htime]
  exact (if_neg hopen).trans ((if_pos rfl).trans (if_neg (not_not.mpr h)))

end

section
variable {lane fec seq cmask : Nat} {units : List Nat} (h3 : s.fld (FAB_PORT_STATUS_STATE q) = 3)
include h3

/-- The next codeword in order is taken and acknowledged, before its control units act. -/
theorem execCodewordReceive_next (hs : seq % 1024 = (s.link q).rxSeq) : ∃ u : State,
    u.link q = (s.link q).took (dataBytes cmask units) ∧ u.out = s.out ++ [.ctlUnit q (ackUnit (s.link q).rxSeq)] ∧
    u.bare = { s.bare with links := u.links, out := u.out } ∧ s.RegsKept u (fun _ => False) ∧
    exec (.codewordReceive q lane false fec seq cmask units) s =
      .next ((ctlUnits cmask units).foldl (fun t u => t.linkUnit q u) u) := by
  have hbare := s.bare_fecCounted (16 * (q / 4) + lane % 16) fec
  have hwork := s.linkWork_fecCounted (16 * (q / 4) + lane % 16) fec
  have hlink := State.link_congr (State.links_of_bare hbare) q
  have e := execCodewordReceive_good (lane := lane) (fec := fec) (seq := seq) (cmask := cmask) (units := units) h3
  generalize s.fecCounted (16 * (q / 4) + lane % 16) fec = t at hbare hwork hlink e
  have hwork := (hwork.setLink q ((s.link q).took (dataBytes cmask units))).emit (.ctlUnit q (ackUnit (s.link q).rxSeq))
  refine ⟨_, ?_, ?_, hwork.bare_acc ?_, hwork.regs, ?_⟩
  · rw [State.link_congr (State.links_emit _ _), State.link_setLink]
  · rw [State.out_emit, State.out_setLink, State.out_of_bare hbare]
  · rw [State.acc_emit, State.acc_setLink, State.acc_of_bare hbare]
  · simp only [hlink, hs, if_true] at e
    exact e

/-- An old codeword is acknowledged again. -/
theorem execCodewordReceive_old (hn : seq % 1024 ≠ (s.link q).rxSeq)
    (ho : ((s.link q).rxSeq + 1024 - seq % 1024) % 1024 ≤ 512) :
    Answers (exec (.codewordReceive q lane false fec seq cmask units) s) fun t =>
      t.links = s.links ∧ t.out = s.out ++ [.ctlUnit q (ackUnit ((s.link q).rxSeq + 1023))] ∧ s.RegsKept t (fun _ => False) := by
  have hbare := s.bare_fecCounted (16 * (q / 4) + lane % 16) fec
  have hwork := s.linkWork_fecCounted (16 * (q / 4) + lane % 16) fec
  have hlink := State.link_congr (State.links_of_bare hbare) q
  rw [execCodewordReceive_good h3]
  generalize s.fecCounted (16 * (q / 4) + lane % 16) fec = t at hbare hwork hlink ⊢
  simp only [hlink, hn, ho, if_true, if_false]
  refine answers_next ⟨(State.links_emit _ _).trans (State.links_of_bare hbare), ?_, (hwork.emit _).regs⟩
  rw [State.out_emit, State.out_of_bare hbare]

/-- After a gap the first missing codeword is asked for. -/
theorem execCodewordReceive_gap (hg : 512 < ((s.link q).rxSeq + 1024 - seq % 1024) % 1024) :
    Answers (exec (.codewordReceive q lane false fec seq cmask units) s) fun t =>
      (t.link q).nakSent = true ∧ (t.link q).rxSeq = (s.link q).rxSeq ∧ (t.link q).stream = (s.link q).stream ∧
      t.out = (if (s.link q).nakSent then s.out else s.out ++ [.ctlUnit q (nakUnit (s.link q).rxSeq)]) := by
  have hn : seq % 1024 ≠ (s.link q).rxSeq := by
    intro hs
    rw [← hs, Nat.add_sub_cancel_left, Nat.mod_self] at hg
    exact absurd hg (by decide)
  have hbare := s.bare_fecCounted (16 * (q / 4) + lane % 16) fec
  have hlink := State.link_congr (State.links_of_bare hbare) q
  rw [execCodewordReceive_good h3]
  generalize s.fecCounted (16 * (q / 4) + lane % 16) fec = t at hbare hlink ⊢
  simp only [hlink, hn, Nat.not_le.mpr hg, if_false]
  obtain ⟨hsent, hseq, hstream, -, hout⟩ := t.nak_effect q
  rw [hlink] at hseq hstream hout
  rw [State.out_of_bare hbare] at hout
  exact answers_next ⟨hsent, hseq, hstream, hout⟩

theorem execCodewordReceive_uncorrectable :
    Answers (exec (.codewordReceive q lane true fec seq cmask units) s) fun t =>
      (t.link q).nakSent = true ∧ (t.link q).rxSeq = (s.link q).rxSeq ∧ (t.link q).stream = (s.link q).stream ∧
      t.out = (if (s.link q).nakSent then s.out else s.out ++ [.ctlUnit q (nakUnit (s.link q).rxSeq)]) ∧
      (lane % 16, s.ftime) ∈ (t.link q).ue := by
  obtain ⟨ue, hue, e⟩ := execCodewordReceive_bad (lane := lane) (fec := fec) (seq := seq) (cmask := cmask) (units := units) h3
  rw [e]
  obtain ⟨hsent, hseq, hstream, hkept, hout⟩ :=
    ((s.gcount (16 * (q / 4) + lane % 16) 1).setLink q { s.link q with ue := ue }).nak_effect q
  rw [State.link_setLink] at hseq hstream hkept hout
  rw [State.out_setLink, State.out_gcount] at hout
  exact answers_next ⟨hsent, hseq, hstream, hout, hkept ▸ hue⟩

end
end

/-! ## Acknowledgement (R246, R247) -/

/-- `t` is `s` after acknowledgements of flows: outstanding counts in the registers `P`, and flows that drain, may differ. -/
structure State.FlowsAcked (s t : State) (P : Nat → Prop) : Prop where
  bare : t.bare = { s.bare with flowDrain := t.flowDrain }
  regs : s.RegsKept t P

theorem State.FlowsAcked.ackPkt {s t : State} {P : Nat → Prop} (h : s.FlowsAcked t P) {x : TxPkt}
    (hx : ∀ n, x.flow = some n → P (FLW_CTX n + 20)) : s.FlowsAcked (t.ackPkt x) P := by
  unfold State.ackPkt
  split
  · exact h
  · next n hn =>
    have hset : s.FlowsAcked (t.setFld (fcOut n) (t.fld (fcOut n) - 1)) P :=
      ⟨(State.bare_setFld ..).trans h.bare, h.regs.setFld (f := fcOut n) _ (hx n hn)⟩
    simp only []
    generalize t.setFld (fcOut n) (t.fld (fcOut n) - 1) = u at hset ⊢
    split
    · refine ⟨?_, hset.regs.of_regs rfl⟩
      have e (l : Store Bool) : ({ u with flowDrain := l } : State).bare = { u.bare with flowDrain := l } := rfl
      rw [e, hset.bare]
    · exact hset

/-- Whether an ACK up to `seq` covers a packet of the port. -/
def TxPkt.ackedBy (q seq : Nat) (x : TxPkt) : Bool := x.port == some q && decide ((seq + 1024 - x.codeword) % 1024 < 512)
/-- Whether a NAK from `seq` on covers a packet of the port. -/
def TxPkt.againBy (q seq : Nat) (x : TxPkt) : Bool := x.port == some q && decide ((x.codeword + 1024 - seq) % 1024 < 512)

section
variable {s : State} {q : Nat}

theorem State.linkAck_effect (hup : s.portUp q = true) (seq : Nat) :
    let t := s.linkAck q seq
    t.txq = s.txq.filter (fun x => !x.ackedBy q seq) ∧
    t.bare = { s.bare with txq := t.txq, flowDrain := t.flowDrain } ∧
    s.RegsKept t (fun a => ∃ x ∈ s.txq, ∃ n, x.ackedBy q seq = true ∧ x.flow = some n ∧ a = FLW_CTX n + 20) := by
  have hnot : ¬ (!s.portUp q) = true := by rw [hup]; decide
  have e : s.linkAck q seq = (s.txq.filter (TxPkt.ackedBy q seq)).foldl State.ackPkt
      { s with txq := s.txq.filter (fun x => !x.ackedBy q seq) } := if_neg hnot
  rw [e]
  generalize hs : ({ s with txq := s.txq.filter (fun x => !x.ackedBy q seq) } : State) = u
  have hubare : u.bare = { s.bare with txq := s.txq.filter (fun x => !x.ackedBy q seq) } := by rw [← hs]; rfl
  have huregs : u.regs = s.regs := by rw [← hs]
  have hacked : u.FlowsAcked ((s.txq.filter (TxPkt.ackedBy q seq)).foldl State.ackPkt u)
      (fun a => ∃ x ∈ s.txq, ∃ n, x.ackedBy q seq = true ∧ x.flow = some n ∧ a = FLW_CTX n + 20) := by
    refine List.foldlRecOn (motive := fun t => u.FlowsAcked t _) _ _ ⟨rfl, .refl u _⟩ fun t h x hx => h.ackPkt fun n hn => ?_
    obtain ⟨hmem, hhit⟩ := List.mem_filter.mp hx
    exact ⟨x, hmem, n, hhit, hn, rfl⟩
  generalize List.foldl State.ackPkt u _ = t at hacked ⊢
  have hb := hacked.bare
  rw [hubare] at hb
  have htxq : t.txq = s.txq.filter (fun x => !x.ackedBy q seq) := (congrArg State.txq hb :)
  refine ⟨htxq, ?_, fun a ha hr => (hacked.regs a ha hr).trans (State.reg_congr huregs a)⟩
  rw [htxq]
  exact hb

theorem State.linkNak_up (hup : s.portUp q = true) (seq : Nat) : s.linkNak q seq =
    let t := s.gcount (0x120 + q) 1
    if (t.txq.filter (TxPkt.againBy q seq)).any (fun x => decide (max 1 (t.fld FAB_LINK_CFG_RETRY_LIMIT) ≤ x.sends)) then
      t.portDown q 2
    else
      { t with txq := t.txq.map (fun (x : TxPkt) => if x.againBy q seq then { x with sends := x.sends + 1 } else x) }.emit
        (.resend q seq) :=
  if_neg (by rw [hup]; decide)

/-- A NAK within the limit sends the packets it covers again. -/
theorem State.linkNak_again (hup : s.portUp q = true) {seq : Nat}
    (h : ∀ x ∈ s.txq, x.againBy q seq = true → x.sends < max 1 (s.fld FAB_LINK_CFG_RETRY_LIMIT)) :
    let t := s.linkNak q seq
    t.txq = s.txq.map (fun x => if x.againBy q seq then { x with sends := x.sends + 1 } else x) ∧
    t.out = s.out ++ [.resend q seq] ∧ t.bare = { s.bare with txq := t.txq, out := t.out } ∧ s.RegsKept t (fun _ => False) := by
  have htxq := State.txq_gcount s (0x120 + q) 1
  have hlimit := State.fld_gcount s (0x120 + q) 1 FAB_LINK_CFG_RETRY_LIMIT (by decide)
  have hout := State.out_gcount s (0x120 + q) 1
  have hbare := State.bare_gcount s (0x120 + q) 1
  have hregs := (State.RegsKept.refl s (fun _ => False)).gcount (0x120 + q) 1
  have e := State.linkNak_up hup seq
  generalize s.gcount (0x120 + q) 1 = u at htxq hlimit hout hbare hregs e
  have hwithin : ¬ (u.txq.filter (TxPkt.againBy q seq)).any
      (fun x => decide (max 1 (u.fld FAB_LINK_CFG_RETRY_LIMIT) ≤ x.sends)) = true := by
    rw [htxq, hlimit, List.any_eq_true]
    rintro ⟨x, hx, hover⟩
    obtain ⟨hmem, hhit⟩ := List.mem_filter.mp hx
    exact absurd (of_decide_eq_true hover) (Nat.not_le.mpr (h x hmem hhit))
  rw [e, if_neg hwithin, htxq]
  generalize s.txq.map (fun x => if x.againBy q seq then { x with sends := x.sends + 1 } else x) = l
  refine ⟨rfl, ?_, ?_, hregs.of_regs rfl⟩
  · rw [State.out_emit, hout]
  · rw [← hbare]
    rfl

/-- A NAK beyond the limit takes the port down. -/
theorem State.linkNak_down (hq : q < 24) (hup : s.portUp q = true) {seq : Nat}
    (h : ∃ x ∈ s.txq, x.againBy q seq = true ∧ max 1 (s.fld FAB_LINK_CFG_RETRY_LIMIT) ≤ x.sends) :
    (s.linkNak q seq).fld (FAB_PORT_STATUS_STATE q) ≠ 3 ∧ (s.linkNak q seq).fld (FAB_PORT_STATUS_REASON q) = 2 := by
  have htxq := State.txq_gcount s (0x120 + q) 1
  have hlimit := State.fld_gcount s (0x120 + q) 1 FAB_LINK_CFG_RETRY_LIMIT (by decide)
  have hstate := State.fld_gcount s (0x120 + q) 1 (FAB_PORT_STATUS_STATE q) (reportReg_status hq)
  have e := State.linkNak_up hup seq
  generalize s.gcount (0x120 + q) 1 = u at htxq hlimit hstate e
  have hover : (u.txq.filter (TxPkt.againBy q seq)).any
      (fun x => decide (max 1 (u.fld FAB_LINK_CFG_RETRY_LIMIT) ≤ x.sends)) = true := by
    obtain ⟨x, hmem, hhit, hsends⟩ := h
    rw [htxq, hlimit, List.any_eq_true]
    exact ⟨x, List.mem_filter.mpr ⟨hmem, hhit⟩, decide_eq_true hsends⟩
  rw [e, if_pos hover]
  obtain ⟨hdown, hreason, -⟩ := State.portDown_up_effect hq (hstate.trans (beq_iff_eq.mp hup)) 2
  refine ⟨?_, hreason⟩
  rcases hdown with hdown | hdown <;> rw [hdown] <;> decide

/-- The partner's counts become the limits of the four channels. -/
theorem State.linkCredit_up (hup : s.portUp q = true) (c : List Nat) : s.linkCredit q c =
    s.setLink q { s.link q with limit := (List.range 4).map (fun v => c.getD v 0 % 2 ^ 32) } := if_pos hup

/-- A port that is not UP takes no acknowledgement, credit or LANE unit. -/
theorem State.link_units_not_up (h : s.portUp q = false) (seq mask : Nat) (c : List Nat) :
    s.linkAck q seq = s ∧ s.linkNak q seq = s ∧ s.linkCredit q c = s ∧ s.linkLane q mask = s := by
  have hdown : (!s.portUp q) = true := by rw [h]; rfl
  exact ⟨if_pos hdown, if_pos hdown, if_neg (by rw [h]; decide), if_pos (Bool.or_eq_true_iff.mpr (.inl hdown))⟩

end

/-! ## The obligation -/

/-- Settles O35: a codeword is one of four cases by its SEQ and its error, and ACK and NAK are folds over the packets they cover. -/
theorem codewordsAreAcknowledgedAndRetried : Obligations.CodewordsAreAcknowledgedAndRetried := by
  refine ⟨fun s q lane fec seq cmask units hq h3 => ?_, fun s q lane fec seq cmask units bad => execCodewordReceive_closed,
    fun s q seq hq hup => answers_next (State.linkAck_effect hup seq), fun s q seq hq hup => ?_, fun s q c hup => ?_,
    fun s q seq mask c h => ?_⟩
  · exact ⟨execCodewordReceive_next h3, fun hn _ => execCodewordReceive_old h3 hn, execCodewordReceive_gap h3,
      execCodewordReceive_uncorrectable h3⟩
  · exact ⟨fun h => answers_next (State.linkNak_again hup h), fun h => answers_next (State.linkNak_down hq hup h)⟩
  · refine answers_next (t := s.linkCredit q c) ?_
    rw [State.linkCredit_up hup]
    exact ⟨State.link_setLink .., rfl⟩
  · obtain ⟨hack, hnak, hcredit, hlane⟩ := State.link_units_not_up h seq mask c
    exact ⟨congrArg _ hack, congrArg _ hnak, congrArg _ hcredit, congrArg _ hlane⟩

end Sys2Proof.Machine

/-! SUPPORT. Collectives between their stages: what the end of one leaves, and when its command is done (R300 to R303). -/
namespace Sys2Proof.Machine

/-! ## Commands whose packets have left (R155, R303) -/

/-- The operations in flight, those of one command done. -/
def doneWith (p ctx idx : Nat) (l : List Issued) : List Issued :=
  l.map (fun i => if i.part = p ∧ i.ctx = ctx ∧ i.idx = idx then { i with done := true } else i)

theorem doneWith_done {p ctx idx : Nat} {l : List Issued} {i : Issued} (h : i ∈ doneWith p ctx idx l) (hp : i.part = p)
    (hc : i.ctx = ctx) (hi : i.idx = idx) : i.done = true := by
  obtain ⟨x, -, rfl⟩ := List.mem_map.mp h
  split
  · rfl
  · next hn => exact absurd ⟨by simpa [hn] using hp, by simpa [hn] using hc, by simpa [hn] using hi⟩ hn

section
variable (s : State) (p ctx idx : Nat)

/-- The end of a command's packets marks operations in flight and nothing else. -/
theorem State.settleCmd_eq : s.settleCmd (p, ctx, idx) = { s with inflight := (s.settleCmd (p, ctx, idx)).inflight } := by
  unfold State.settleCmd
  split <;> rfl

variable {s p ctx idx}

theorem State.settleCmd_settled (hq : s.hasPackets (p, ctx, idx) = false)
    (hc : ∀ x ∈ s.colls, ¬(x.part = p ∧ x.ctx = ctx ∧ x.idx = idx)) :
    (s.settleCmd (p, ctx, idx)).inflight = doneWith p ctx idx s.inflight := by
  have hfree : s.colls.any (fun x => x.part == p && x.ctx == ctx && x.idx == idx) = false := by
    simpa [and_assoc] using hc
  have hno : ¬ (s.hasPackets (p, ctx, idx) || s.colls.any (fun x => x.part == p && x.ctx == ctx && x.idx == idx)) = true := by
    rw [hq, hfree]
    decide
  exact congrArg State.inflight (if_neg hno)

theorem State.hasPackets_congr {s t : State} (ht : t.txq = s.txq) (hi : t.intq = s.intq) (c : Nat × Nat × Nat) :
    t.hasPackets c = s.hasPackets c := by
  rw [State.hasPackets, State.hasPackets, ht, hi]

end

/-! ## The end of a stage -/

section
variable {s : State} {place : Nat} {k : Coll}

theorem execCollStageReady_empty (h : ∀ k ∈ s.colls, k.place ≠ place) : exec (.collStageReady place) s = .next s := by
  have hnone : s.colls.find? (fun k => k.place == place) = none := by simpa using h
  show execCollStageReady place s = .next s
  rw [execCollStageReady, hnone]

/-- Below the target of R300 a collective waits. -/
theorem execCollStageReady_below (h : s.colls.find? (fun k => k.place == place) = some k)
    (hn : s.stepCount k.part ((s.tumWin k.part k.ctx).1 + clRtumb k.desc) < colTarget k.desc k.members.length (k.stage + 1)) :
    exec (.collStageReady place) s = .next s := by
  show execCollStageReady place s = .next s
  rw [execCollStageReady, h]
  exact if_pos hn

/-- At the target its next stage runs. -/
theorem execCollStageReady_reached (h : s.colls.find? (fun k => k.place == place) = some k)
    (hn : colTarget k.desc k.members.length (k.stage + 1) ≤ s.stepCount k.part ((s.tumWin k.part k.ctx).1 + clRtumb k.desc)) :
    let r := s.colStage ⟨k.part, k.ctx, k.idx, k.desc⟩ k (k.stage + 1)
    exec (.collStageReady place) s = .next (r.1.colEnd { k with stage := k.stage + 1, rf := r.2 }) := by
  show execCollStageReady place s = _
  rw [execCollStageReady, h]
  exact if_neg (Nat.not_lt.mpr hn)

/-- The state once a collective is out of its place: counted, its command not yet looked at (R303). -/
def State.collLeft (s : State) (k : Coll) : State :=
  ({ s with colls := s.colls.filter (fun x => x.place != k.place) } : State).colBusy.gcount 0x200 1

theorem State.collLeft_effect (s : State) (k : Coll) :
    (s.collLeft k).bare = { s.bare with colls := s.colls.filter (fun x => x.place != k.place) } ∧
    storeGet 0 (s.collLeft k).cnt (gcntKey 0x200) = cntAdd false (storeGet 0 s.cnt (gcntKey 0x200)) 1 ∧
    s.RegsKept (s.collLeft k) (fun a => a = COL_STATUS_BUSY.addr) := by
  have hkept : s.RegsKept { s with colls := s.colls.filter (fun x => x.place != k.place) } (fun a => a = COL_STATUS_BUSY.addr) :=
    (State.RegsKept.refl s _).of_regs rfl
  refine ⟨?_, ?_, (hkept.setFld _ rfl).gcount 0x200 1⟩
  · rw [State.collLeft, State.bare_gcount, State.colBusy, State.bare_setFld]
    rfl
  · rw [State.collLeft, State.gcnt_gcount_self _ (.inl (by decide)), State.colBusy, State.cnt_setFld]
    rfl

theorem State.colEnd_goes_on (h : k.stage < colStages k.desc k.members.length) :
    s.colEnd k = { s with colls := s.colls.map (fun x => if x.place = k.place then k else x) } := if_pos h

theorem State.colEnd_last (h : colStages k.desc k.members.length ≤ k.stage) :
    s.colEnd k = (s.collLeft k).settleCmd (k.part, k.ctx, k.idx) := if_neg (Nat.not_lt.mpr h)

/-- After its last stage a collective is out of its place and counted, and its command is marked at most (R303). -/
theorem State.colEnd_leaves (h : colStages k.desc k.members.length ≤ k.stage) :
    let t := s.colEnd k
    t.colls = s.colls.filter (fun x => x.place != k.place) ∧
    storeGet 0 t.cnt (gcntKey 0x200) = cntAdd false (storeGet 0 s.cnt (gcntKey 0x200)) 1 ∧
    t.bare = { s.bare with colls := t.colls, inflight := t.inflight } ∧
    s.RegsKept t (fun a => a = COL_STATUS_BUSY.addr) := by
  obtain ⟨hbare, hcnt, hregs⟩ := s.collLeft_effect k
  have hcolls : (s.collLeft k).colls = s.colls.filter (fun x => x.place != k.place) := (congrArg State.colls hbare :)
  simp only [State.colEnd_last h]
  rw [State.settleCmd_eq]
  generalize ((s.collLeft k).settleCmd (k.part, k.ctx, k.idx)).inflight = l
  refine ⟨hcolls, hcnt, ?_, hregs.of_regs rfl⟩
  have hset : ({ s.collLeft k with inflight := l } : State).bare = { (s.collLeft k).bare with inflight := l } := rfl
  rw [hset, hbare, hcolls]

/-- A command none of whose packets waits, and that holds no other place, is done as its collective leaves. -/
theorem State.colEnd_settles (h : colStages k.desc k.members.length ≤ k.stage)
    (hq : s.hasPackets (k.part, k.ctx, k.idx) = false)
    (hc : ∀ x ∈ s.colls, x.place ≠ k.place → ¬(x.part = k.part ∧ x.ctx = k.ctx ∧ x.idx = k.idx)) :
    (s.colEnd k).inflight = doneWith k.part k.ctx k.idx (s.collLeft k).inflight := by
  obtain ⟨hbare, -, -⟩ := s.collLeft_effect k
  have htxq : (s.collLeft k).txq = s.txq := (congrArg State.txq hbare :)
  have hintq : (s.collLeft k).intq = s.intq := (congrArg State.intq hbare :)
  have hcolls : (s.collLeft k).colls = s.colls.filter (fun x => x.place != k.place) := (congrArg State.colls hbare :)
  rw [State.colEnd_last h]
  refine State.settleCmd_settled ((State.hasPackets_congr htxq hintq _).trans hq) fun x hx => ?_
  rw [hcolls] at hx
  obtain ⟨hmem, hplace⟩ := List.mem_filter.mp hx
  exact hc x hmem (bne_iff_ne.mp hplace)

end

/-- Settles O30: a stage is one comparison with the target, and the end of the last one a count and a look at the command. -/
theorem collectiveStagesFollow : Obligations.CollectiveStagesFollow := by
  refine ⟨fun s place => execCollStageReady_empty, fun s place k h => ⟨execCollStageReady_below h, execCollStageReady_reached h⟩,
    fun s k => ⟨State.colEnd_goes_on, fun h => ?_⟩⟩
  obtain ⟨hcolls, hcnt, hbare, hregs⟩ := State.colEnd_leaves (s := s) h
  refine ⟨hcolls, hcnt, hbare, hregs, fun hq hc i hi hp hx hn => ?_⟩
  rw [State.colEnd_settles h hq hc] at hi
  exact doneWith_done hi hp hx hn

end Sys2Proof.Machine

/-! SUPPORT. Slots and transmission: buckets refill, and a packet that starts takes its port, codeword and tokens (R284 to R288). -/
namespace Sys2Proof.Machine

/-! ## Slots (R284, R285) -/

/-- A bucket of a job slot on a plane after its refill. -/
def State.refilled (s : State) (j k : Nat) : Nat :=
  min (storeGet 0 s.buckets (8 * j + k) + s.shareRate j k) (s.shareRate j k * s.shareDepth j k)

/-- The refill of bucket `i` of 48, in the order of the slot boundary. -/
def State.refill (i : Nat) (t : State) : State :=
  { t with buckets := storeSet 0 t.buckets (8 * (i / 6) + i % 6) (t.refilled (i / 6) (i % 6)) }

/-- `t` is `s` with its first `n` buckets refilled. -/
structure State.Refilled (s : State) (n : Nat) (t : State) : Prop where
  frame : t = { s with buckets := t.buckets }
  filled : ∀ j k, k < 6 → storeGet 0 t.buckets (8 * j + k) =
    if 6 * j + k < n then s.refilled j k else storeGet 0 s.buckets (8 * j + k)

theorem State.shareRate_congr {s t : State} (h : t.regs = s.regs) (j k : Nat) : t.shareRate j k = s.shareRate j k := by
  simp only [State.shareRate, State.activeLanes, State.portUp, State.fld, State.reg_congr h]

theorem State.shareDepth_congr {s t : State} (h : t.regs = s.regs) (j k : Nat) : t.shareDepth j k = s.shareDepth j k := by
  simp only [State.shareDepth, State.fld, State.reg_congr h]

/-- The next bucket refills by its own level, which none of the earlier refills touched. -/
theorem State.Refilled.refill {s t : State} {i : Nat} (h : s.Refilled i t) : s.Refilled (i + 1) (t.refill i) := by
  have hregs : t.regs = s.regs := by rw [h.frame]
  have hlevel : storeGet 0 t.buckets (8 * (i / 6) + i % 6) = storeGet 0 s.buckets (8 * (i / 6) + i % 6) := by
    rw [h.filled _ _ (Nat.mod_lt _ (by decide)), if_neg (by omega)]
  have hnew : t.refilled (i / 6) (i % 6) = s.refilled (i / 6) (i % 6) := by
    rw [State.refilled, hlevel, State.shareRate_congr hregs, State.shareDepth_congr hregs, State.refilled]
  refine ⟨?_, fun j k hk => ?_⟩
  · rw [State.refill, h.frame]
  · rw [State.refill, hnew]
    by_cases hi : 6 * j + k = i
    · have hj : i / 6 = j := by omega
      have hm : i % 6 = k := by omega
      rw [hj, hm, storeGet_set_self, if_pos (by omega)]
    · rw [storeGet_set_ne 0 0 _ _ (by omega), h.filled j k hk]
      exact if_congr (by omega) rfl rfl

/-- Every bucket refills at a slot boundary, and the use of the slot restarts. -/
theorem State.slotStart_effect (s : State) :
    (∀ j k, j < 8 → k < 6 → storeGet 0 s.slotStart.buckets (8 * j + k) = s.refilled j k) ∧
    (∀ n, n < 256 → storeGet 0 s.slotStart.slotUse n = 0) ∧
    s.slotStart = { s with buckets := s.slotStart.buckets, slotUse := s.slotStart.slotUse } := by
  have hall : s.Refilled 48 (forRange 48 State.refill s) :=
    forRange_ind (I := s.Refilled) ⟨rfl, fun j k _ => (if_neg (Nat.not_lt_zero _)).symm⟩ fun _ _ _ h => h.refill
  have e : s.slotStart = { forRange 48 State.refill s with
      slotUse := (forRange 48 State.refill s).slotUse.filter (fun c => decide (256 ≤ c.1)) } := rfl
  rw [e]
  generalize forRange 48 State.refill s = t at hall
  refine ⟨fun j k hj hk => ?_, fun n hn => ?_, ?_⟩
  · rw [hall.filled j k hk, if_pos (by omega)]
  · rw [storeGet_filter 0 t.slotUse (fun c => decide (256 ≤ c)) n, if_neg (by simpa using hn)]
  · rw [hall.frame]

theorem execSlotBoundary_effect (s : State) : Answers (exec .slotBoundary s) fun t =>
    t.ftime = (s.ftime / 1024 + 1) * 1024 % 2 ^ 64 ∧
    (∀ j k, j < 8 → k < 6 → storeGet 0 t.buckets (8 * j + k) = s.refilled j k) ∧
    (∀ n, n < 256 → storeGet 0 t.slotUse n = 0) ∧
    t = { s with ftime := t.ftime, buckets := t.buckets, slotUse := t.slotUse } := by
  refine ⟨_, rfl, ?_⟩
  obtain ⟨hfill, huse, hframe⟩ := ({ s with ftime := (s.ftime / 1024 + 1) * 1024 % 2 ^ 64 } : State).slotStart_effect
  refine ⟨?_, hfill, huse, ?_⟩
  · rw [hframe]
  · rw [hframe]

/-! ## A packet starts on a port (R286, R287) -/

/-- The packet as it stands in the queue once it has left on a port. -/
def TxPkt.leftOn (x : TxPkt) (q codeword : Nat) : TxPkt := { x with port := some q, codeword := codeword, sends := 1 }

/-- The link of a port after it has started a packet of a virtual channel. -/
def Link.sending (l : Link) (v units : Nat) : Link :=
  { l with txSeq := (l.txSeq + 1) % 1024, sent := setAt l.sent v ((l.sent.getD v 0 + units) % 2 ^ 32) }

/-- A packet takes its codeword on the link and its part of the slot. -/
def State.onLink (s : State) (q : Nat) (x : TxPkt) : State :=
  let v := vcOf (Hdr.dec x.pkt.hdr).cls
  { s.setLink q ((s.link q).sending v x.pkt.units) with
    txq := s.txq.map (fun z => if z = x then x.leftOn q (s.link q).txSeq else z)
    slotUse := storeSet 0 s.slotUse (4 * q + vcRank v) (storeGet 0 s.slotUse (4 * q + vcRank v) + x.pkt.wire.length) }

/-- A packet takes its tokens from the bucket of its job slot (R288). -/
def State.charged (s : State) (q : Nat) (x : TxPkt) : State :=
  match s.pktJob x with
  | some j =>
    { s with
      buckets := storeSet 0 s.buckets (8 * j + q / 4) (storeGet 0 s.buckets (8 * j + q / 4) - x.pkt.wire.length) }
  | none => s

/-- A packet of a flow is outstanding until it is acknowledged (R267). -/
def State.outstanding (s : State) (x : TxPkt) : State :=
  match x.flow with
  | some f => s.setFld (fcOut f) (s.fld (fcOut f) + 1)
  | none => s

/-- The bytes of a packet are counted by plane and by level (R289, R293). -/
def State.bytesCounted (s : State) (q : Nat) (x : TxPkt) : State :=
  let n := x.pkt.wire.length
  (s.gcount (0x180 + q / 4) n).gcount (0x190 + 4 * (q / 4) + s.pktLevel (q / 4) (Hdr.dec x.pkt.hdr).path) n

section
variable (s : State) {q : Nat} {x : TxPkt}

/-- Without a parity mismatch the packet of no command goes out as it stands. -/
theorem State.startPkt_clean (h : x.cmd = none) :
    s.startPkt q x [] = ((((s.onLink q x).charged q x).outstanding x).bytesCounted q x).emit (.packet q x.pkt) := by
  obtain ⟨pkt, flow, port, since, codeword, sends, cmd⟩ := x
  obtain rfl : cmd = none := h
  rfl

theorem State.bare_bytesCounted (q : Nat) (x : TxPkt) : (s.bytesCounted q x).bare = s.bare := by
  rw [State.bytesCounted, State.bare_gcount, State.bare_gcount]

theorem State.regsKept_bytesCounted (q : Nat) (x : TxPkt) : s.RegsKept (s.bytesCounted q x) (fun _ => False) :=
  ((State.RegsKept.refl s _).gcount _ _).gcount _ _

theorem State.charged_eq (q : Nat) (x : TxPkt) : s.charged q x = { s with buckets := (s.charged q x).buckets } := by
  unfold State.charged
  split <;> rfl

theorem State.buckets_charged {j : Nat} (h : s.pktJob x = some j) : storeGet 0 (s.charged q x).buckets (8 * j + q / 4) =
    storeGet 0 s.buckets (8 * j + q / 4) - x.pkt.wire.length := by
  simp only [State.charged, h, storeGet_set_self]

theorem State.only_outstanding (x : TxPkt) :
    s.OnlyRegs (s.outstanding x) (fun a => ∃ f, x.flow = some f ∧ a = FLW_CTX f + 20) := by
  unfold State.outstanding
  split
  · next f hf => exact (State.OnlyRegs.refl s _).setFld (f := fcOut f) _ ⟨f, hf, rfl⟩
  · exact .refl s _

theorem State.fld_outstanding {f : Nat} (h : x.flow = some f) (hn : s.fld (fcOut f) < 512) :
    (s.outstanding x).fld (fcOut f) = s.fld (fcOut f) + 1 := by
  rw [State.outstanding, h]
  refine (s.fld_setFld_self (fcOut f) _ (Nat.le_of_ble_eq_true rfl)).trans (Nat.mod_eq_of_lt ?_)
  show s.fld (fcOut f) + 1 < 2 ^ 10
  omega

/-- What a packet takes before it is counted: its codeword, its place in the queue, its part of the slot and its tokens. -/
theorem State.taken_effect (q : Nat) (x : TxPkt) :
    let u := (s.onLink q x).charged q x
    u.regs = s.regs ∧ u.out = s.out ∧ (u.link q).txSeq = ((s.link q).txSeq + 1) % 1024 ∧
    u.txq = s.txq.map (fun z => if z = x then x.leftOn q (s.link q).txSeq else z) ∧
    (∀ j, s.pktJob x = some j →
      storeGet 0 u.buckets (8 * j + q / 4) = storeGet 0 s.buckets (8 * j + q / 4) - x.pkt.wire.length) ∧
    u.bare = { s.bare with links := u.links, txq := u.txq, buckets := u.buckets, slotUse := u.slotUse } := by
  have hcharged := (s.onLink q x).charged_eq q x
  have hbucket (j : Nat) (hj : s.pktJob x = some j) : storeGet 0 ((s.onLink q x).charged q x).buckets (8 * j + q / 4) =
      storeGet 0 s.buckets (8 * j + q / 4) - x.pkt.wire.length := (s.onLink q x).buckets_charged hj
  generalize (s.onLink q x).charged q x = u at hcharged hbucket
  have hlink : u.link q = (s.link q).sending (vcOf (Hdr.dec x.pkt.hdr).cls) x.pkt.units :=
    (State.link_congr (congrArg State.links hcharged :) q).trans (s.link_setLink q _)
  refine ⟨(congrArg State.regs hcharged :), (congrArg State.out hcharged :), ?_, (congrArg State.txq hcharged :), hbucket, ?_⟩
  · rw [hlink]
    rfl
  · rw [hcharged]
    rfl

theorem State.startPkt_effect (h : x.cmd = none) :
    let t := s.startPkt q x []
    t.out = s.out ++ [.packet q x.pkt] ∧ (t.link q).txSeq = ((s.link q).txSeq + 1) % 1024 ∧
    t.txq = s.txq.map (fun z => if z = x then x.leftOn q (s.link q).txSeq else z) ∧
    (∀ j, s.pktJob x = some j →
      storeGet 0 t.buckets (8 * j + q / 4) = storeGet 0 s.buckets (8 * j + q / 4) - x.pkt.wire.length) ∧
    (∀ f, x.flow = some f → f < 16384 → s.fld (fcOut f) < 512 → t.fld (fcOut f) = s.fld (fcOut f) + 1) ∧
    t.bare = { s.bare with out := t.out, links := t.links, txq := t.txq, buckets := t.buckets, slotUse := t.slotUse } ∧
    s.RegsKept t (fun a => ∃ f, x.flow = some f ∧ a = FLW_CTX f + 20) := by
  have e := s.startPkt_clean (q := q) h
  obtain ⟨huregs, huout, huseq, hutxq, hubucket, hubare⟩ := s.taken_effect q x
  generalize (s.onLink q x).charged q x = u at e huregs huout huseq hutxq hubucket hubare
  obtain ⟨hobare, horegs⟩ := u.only_outstanding x
  have hofld (f : Nat) (hf : x.flow = some f) (hn : u.fld (fcOut f) < 512) := u.fld_outstanding hf hn
  generalize u.outstanding x = v at e hobare horegs hofld
  have hbare := (v.bare_bytesCounted q x).trans hobare
  have hgregs := v.regsKept_bytesCounted q x
  generalize v.bytesCounted q x = w at e hbare hgregs
  rw [e]
  refine ⟨?_, ?_, ?_, fun j hj => ?_, fun f hf hlt hn => ?_, ?_, ?_⟩
  · rw [State.out_emit, State.out_of_bare hbare, huout]
  · rw [State.link_congr (State.links_emit ..), State.link_congr (State.links_of_bare hbare), huseq]
  · exact (State.txq_of_bare hbare).trans hutxq
  · exact (congrArg (fun b => storeGet 0 b (8 * j + q / 4)) (State.buckets_of_bare hbare)).trans (hubucket j hj)
  · have hu : u.fld (fcOut f) = s.fld (fcOut f) := State.fld_of_reg (State.reg_congr huregs _)
    have hr : reportReg (fcOut f).addr = false :=
      reportReg_fabric (by simp [fcOut, FLW_CTX]; omega) (by simp [fcOut, FLW_CTX]; omega)
    rw [State.fld_emit, hgregs.fld (fun hn => hn) hr, hofld f hf (hu ▸ hn), hu]
  · rw [State.bare_emit, hbare, hubare, ← State.links_of_bare hbare, ← State.txq_of_bare hbare,
      ← State.buckets_of_bare hbare, ← State.slotUse_of_bare hbare]
    rfl
  · have hsu : s.RegsKept u (fun a => ∃ f, x.flow = some f ∧ a = FLW_CTX f + 20) := (State.RegsKept.refl s _).of_regs huregs
    exact ((hsu.trans horegs).trans (hgregs.mono fun _ hf => hf.elim)).emit _

theorem execPacketTransmit_chosen {d1 d2 : Nat} (hup : s.portUp q = true)
    (hroom : (s.txq.filter (fun x => x.port == some q)).length < s.replayCap q) (hc : s.choose q = some (x, d1, d2)) :
    exec (.packetTransmit q []) s =
      .next ({ s with slotUse := storeSet 0 (storeSet 0 s.slotUse (256 + 2 * q) d1) (257 + 2 * q) d2 }.startPkt q x []) := by
  have hopen : ¬ (!s.portUp q || decide (s.replayCap q ≤ (s.txq.filter (fun x => x.port == some q)).length)) = true := by
    simpa [hup] using hroom
  show execPacketTransmit q [] s = _
  rw [execPacketTransmit, if_neg hopen, hc]

theorem execPacketTransmit_none (par : List (Nat × Nat × Nat)) (h : s.portUp q = false ∨ s.choose q = none ∨
    s.replayCap q ≤ (s.txq.filter (fun x => x.port == some q)).length) : exec (.packetTransmit q par) s = .next s := by
  show execPacketTransmit q par s = _
  rw [execPacketTransmit]
  rcases h with hdown | hc | hfull
  · exact if_pos (by simp [hdown])
  · rw [hc]
    exact ite_self _
  · exact if_pos (by simp [hfull])

end
end Sys2Proof.Machine

/-! SUPPORT. Fabric time: what a TIME unit sets, the offset that an exchange gives, and the loss of lock (R279 to R281). -/
namespace Sys2Proof.Machine

/-! ## The time source (R280) -/

section
variable (s : State) (q hops : Nat)

/-- The choice of a source writes the two fields that name it. -/
theorem State.pickSource_eq : ∃ src h, s.pickSource = (s.setFld FAB_TIME_STATUS_SOURCE src).setFld FAB_TIME_STATUS_HOPS h := by
  unfold State.pickSource
  simp only []
  split
  · exact ⟨_, _, rfl⟩
  · exact ⟨_, _, rfl⟩

theorem State.timeAdvert_eq : ∃ src h, s.timeAdvert q hops =
    ((s.setLink q { s.link q with hops := hops % 256 }).setFld FAB_TIME_STATUS_SOURCE src).setFld FAB_TIME_STATUS_HOPS h :=
  State.pickSource_eq _

/-- What any TIME unit of the partner changes: its hops, and perhaps the source. -/
theorem State.timeAdvert_effect :
    ((s.timeAdvert q hops).link q).hops = hops % 256 ∧ (s.timeAdvert q hops).cnt = s.cnt ∧
    (s.timeAdvert q hops).bare = { s.bare with links := (s.timeAdvert q hops).links } ∧
    s.RegsKept (s.timeAdvert q hops) (fun a => a = FAB_TIME_STATUS) := by
  obtain ⟨src, h, e⟩ := s.timeAdvert_eq q hops
  rw [e]
  refine ⟨?_, ?_, ?_, ?_⟩
  · rw [State.link_setFld, State.link_setFld, State.link_setLink]
  · rw [State.cnt_setFld, State.cnt_setFld, State.cnt_setLink]
  · rw [State.bare_setFld, State.bare_setFld]
    rfl
  · have hlink := (State.RegsKept.refl s (fun a => a = FAB_TIME_STATUS)).setLink q { s.link q with hops := hops % 256 }
    exact (hlink.setFld (f := FAB_TIME_STATUS_SOURCE) src rfl).setFld (f := FAB_TIME_STATUS_HOPS) h rfl

end

/-! ## Exchanges (R279) -/

section
variable {s : State} {q : Nat}

theorem execTimeExchangeStart_up (hup : s.portUp q = true) : exec (.timeExchangeStart q) s =
    .next ((s.setLink q { s.link q with xseq := ((s.link q).xseq + 1) % 65536 }).emit
      (.ctlUnit q (timeUnit 1 s.timeHops.1 s.timeHops.2 (s.link q).xseq s.ftime 0 0))) := if_pos hup

/-- A request is stamped with the time of its arrival and answered at once. -/
theorem execTimeReq_up (hup : s.portUp q = true) (hops xseq t1 : Nat) : exec (.timeReq q hops xseq t1) s =
    let u := s.timeAdvert q hops
    .next (u.emit (.ctlUnit q (timeUnit 2 u.timeHops.1 u.timeHops.2 xseq t1 u.ftime u.ftime))) := by
  have hnot : ¬ (!s.portUp q) = true := by rw [hup]; decide
  exact congrArg _ (if_neg hnot)

theorem execTimeReq_effect (hup : s.portUp q = true) (hops xseq t1 : Nat) : Answers (exec (.timeReq q hops xseq t1) s) fun t =>
    (t.link q).hops = hops % 256 ∧ t.bare = { s.bare with links := t.links, out := t.out } ∧
    t.out = s.out ++ [.ctlUnit q (timeUnit 2 t.timeHops.1 t.timeHops.2 xseq t1 s.ftime s.ftime)] ∧
    s.RegsKept t (fun a => a = FAB_TIME_STATUS) := by
  obtain ⟨hhops, -, hbare, hregs⟩ := s.timeAdvert_effect q hops
  rw [execTimeReq_up hup]
  generalize s.timeAdvert q hops = u at hhops hbare hregs
  have hout : u.out = s.out := (congrArg State.out hbare :)
  have htime : u.ftime = s.ftime := (congrArg State.ftime hbare :)
  refine answers_next ⟨hhops, ?_, ?_, hregs.emit _⟩
  · rw [State.bare_emit, hbare]
    rfl
  · rw [State.out_emit, hout, htime]
    rfl

/-- The offset and the delay that the four stamps of an exchange give. -/
def exchangeOffset (t1 t2 t3 t4 : Nat) : Int := (stampDiff t2 t1 + stampDiff t3 t4) / 2
def exchangeDelay (t1 t2 t3 t4 : Nat) : Int := (stampDiff t4 t1 - stampDiff t3 t2) / 2

/-- An answer on a port in UP: discarded, an offset from the source, or a sign of valid time (R279, R280). -/
theorem execTimeResp_up (hup : s.portUp q = true) (hops t1 t2 t3 : Nat) : exec (.timeResp q hops t1 t2 t3) s =
    .next (if exchangeDelay t1 t2 t3 s.ftime < 0 || 40000 < exchangeDelay t1 t2 t3 s.ftime then
        (s.timeAdvert q hops).gcount 0x171 1
      else if (s.timeAdvert q hops).fld FAB_TIME_STATUS_SOURCE = q then
        (s.timeAdvert q hops).timeOffset (exchangeOffset t1 t2 t3 s.ftime)
      else (s.timeAdvert q hops).setFld FAB_TIME_STATUS_VALID 1) := by
  obtain ⟨-, -, hbare, -⟩ := s.timeAdvert_effect q hops
  have htime : (s.timeAdvert q hops).ftime = s.ftime := (congrArg State.ftime hbare :)
  have hnot : ¬ (!s.portUp q) = true := by rw [hup]; decide
  rw [← htime]
  exact congrArg _ (if_neg hnot)

/-- An exchange with a delay out of bounds is counted and discarded. -/
theorem execTimeResp_discarded (hup : s.portUp q = true) {hops t1 t2 t3 : Nat}
    (h : exchangeDelay t1 t2 t3 s.ftime < 0 ∨ 40000 < exchangeDelay t1 t2 t3 s.ftime) :
    Answers (exec (.timeResp q hops t1 t2 t3) s) fun t =>
      t.ftime = s.ftime ∧ t.slew = s.slew ∧ s.RegsKept t (fun a => a = FAB_TIME_STATUS) ∧
      storeGet 0 t.cnt (gcntKey 0x171) = cntAdd false (storeGet 0 s.cnt (gcntKey 0x171)) 1 := by
  obtain ⟨-, hcnt, hbare, hregs⟩ := s.timeAdvert_effect q hops
  rw [execTimeResp_up hup, if_pos (by simpa using h)]
  refine answers_next ⟨?_, ?_, hregs.gcount _ _, ?_⟩
  · exact (State.ftime_gcount ..).trans (congrArg State.ftime hbare :)
  · exact (State.slew_gcount ..).trans (congrArg State.slew hbare :)
  · rw [State.gcnt_gcount_self _ (.inl (by decide)), hcnt]
    rfl

theorem execTimeResp_source (hup : s.portUp q = true) {hops t1 t2 t3 : Nat} (h0 : 0 ≤ exchangeDelay t1 t2 t3 s.ftime)
    (h1 : exchangeDelay t1 t2 t3 s.ftime ≤ 40000) (hq : (s.timeAdvert q hops).fld FAB_TIME_STATUS_SOURCE = q) :
    exec (.timeResp q hops t1 t2 t3) s = .next ((s.timeAdvert q hops).timeOffset (exchangeOffset t1 t2 t3 s.ftime)) := by
  rw [execTimeResp_up hup, if_neg (by simpa using ⟨h0, h1⟩), if_pos hq]

end

/-! ## Loss of lock (R281) -/

/-- `t` is `s` after a judgement of its lock: the lock fields, the run of good exchanges and reports may differ. -/
structure State.LockJudged (s t : State) : Prop where
  bare : t.bare = { s.bare with timeGood := t.timeGood }
  regs : s.RegsKept t (fun a => a = FAB_TIME_STATUS)
  valid : t.fld FAB_TIME_STATUS_VALID = s.fld FAB_TIME_STATUS_VALID
  step : t.fld FAB_TIME_STATUS_STEP_SEEN = s.fld FAB_TIME_STATUS_STEP_SEEN

section
variable {s t : State}

theorem State.LockJudged.good (s : State) (n : Nat) : s.LockJudged { s with timeGood := n } :=
  ⟨rfl, (State.RegsKept.refl s _).of_regs rfl, State.fld_of_reg (State.reg_congr rfl _),
    State.fld_of_reg (State.reg_congr rfl _)⟩

theorem State.LockJudged.of_bare {u : State} (h : s.LockJudged t) (hb : u.bare = t.bare) :
    u.bare = { s.bare with timeGood := u.timeGood } := by
  rw [hb, h.bare, State.timeGood_of_bare hb]

theorem State.LockJudged.setLocked (h : s.LockJudged t) (v : Nat) : s.LockJudged (t.setFld FAB_TIME_STATUS_LOCKED v) where
  bare := h.of_bare (State.bare_setFld ..)
  regs := h.regs.setFld (f := FAB_TIME_STATUS_LOCKED) v rfl
  valid := (t.fld_setFld_above v (by decide) (by decide)).trans h.valid
  step := (t.fld_setFld_below v (by decide) (by decide)).trans h.step

theorem State.LockJudged.setUnlockSeen (h : s.LockJudged t) (v : Nat) :
    s.LockJudged (t.setFld FAB_TIME_STATUS_UNLOCK_SEEN v) where
  bare := h.of_bare (State.bare_setFld ..)
  regs := h.regs.setFld (f := FAB_TIME_STATUS_UNLOCK_SEEN) v rfl
  valid := (t.fld_setFld_above v (by decide) (by decide)).trans h.valid
  step := (t.fld_setFld_below v (by decide) (by decide)).trans h.step

theorem State.LockJudged.memKept (h : s.LockJudged t) : s.MemKept t :=
  .of_eq (congrArg State.mem h.bare :) (congrArg State.poison h.bare :)

theorem reportReg_timeStatus : reportReg FAB_TIME_STATUS = false := reportReg_fabric (by decide) (by decide)

theorem State.LockJudged.event (h : s.LockJudged t) (f : Fld) (unit job : Nat) : s.LockJudged (t.event f unit job) where
  bare := h.of_bare (State.bare_event ..)
  regs := h.regs.event _ _ _
  valid := (t.fld_event _ _ _ _ reportReg_timeStatus).trans h.valid
  step := (t.fld_event _ _ _ _ reportReg_timeStatus).trans h.step

end

/-- Lock is lost, once seen, and the run of good exchanges restarts. -/
theorem State.timeUnlock_effect (s : State) :
    s.timeUnlock.fld FAB_TIME_STATUS_LOCKED = 0 ∧
    (s.flag FAB_TIME_STATUS_LOCKED = true → s.timeUnlock.fld FAB_TIME_STATUS_UNLOCK_SEEN = 1) ∧
    s.timeUnlock.timeGood = 0 ∧ s.LockJudged s.timeUnlock := by
  have hgood := State.LockJudged.good s 0
  have hfld : ({ s with timeGood := 0 } : State).fld FAB_TIME_STATUS_LOCKED = s.fld FAB_TIME_STATUS_LOCKED :=
    State.fld_of_reg (State.reg_congr rfl _)
  have e : s.timeUnlock = if s.flag FAB_TIME_STATUS_LOCKED then
      ((({ s with timeGood := 0 } : State).setFld FAB_TIME_STATUS_LOCKED 0).setFld FAB_TIME_STATUS_UNLOCK_SEEN 1).event
        FAB_TIME_STATUS_UNLOCK_SEEN 0 8 else { s with timeGood := 0 } := rfl
  generalize hu : ({ s with timeGood := 0 } : State) = u at hgood hfld e
  have hzero : u.timeGood = 0 := by rw [← hu]
  rw [e]
  split
  · refine ⟨?_, fun _ => ?_, ?_, ((hgood.setLocked 0).setUnlockSeen 1).event ..⟩
    · rw [State.fld_event _ _ _ _ _ reportReg_timeStatus, State.fld_setFld_above _ _ (by decide) (by decide),
        State.fld_setFld_self _ _ _ (by decide), Nat.zero_mod]
    · rw [State.fld_event _ _ _ _ _ reportReg_timeStatus, State.fld_setFld_self _ _ _ (by decide)]
      rfl
    · rw [State.timeGood_event, State.timeGood_setFld, State.timeGood_setFld, hzero]
  · next hf =>
    have hlt : s.fld FAB_TIME_STATUS_LOCKED < 2 := s.fld_lt FAB_TIME_STATUS_LOCKED
    have hne : s.fld FAB_TIME_STATUS_LOCKED ≠ 1 := by simpa [State.flag] using hf
    exact ⟨hfld.trans (by omega), fun h => absurd h hf, hzero, hgood⟩

theorem execTimeHoldoverExpiry_effect (s : State) : Answers (exec .timeHoldoverExpiry s) fun t =>
    t.fld FAB_TIME_STATUS_LOCKED = 0 ∧ (s.flag FAB_TIME_STATUS_LOCKED = true → t.fld FAB_TIME_STATUS_UNLOCK_SEEN = 1) ∧
    t.bare = { s.bare with timeGood := 0 } ∧ s.RegsKept t (fun a => a = FAB_TIME_STATUS) := by
  obtain ⟨hlocked, hseen, hgood, hjudged⟩ := s.timeUnlock_effect
  refine answers_next ⟨hlocked, hseen, ?_, hjudged.regs⟩
  rw [← hgood]
  exact hjudged.bare

/-! ## Accepted offsets (R281) -/

/-- An offset in picoseconds as its register holds it. -/
def offsetCode (off : Int) : Nat := codeOf (max (-(2 ^ 31)) (min (2 ^ 31 - 1) (off * 250))) 32

/-- Time is valid, and the code of the offset is in its register. -/
def State.timeNoted (s : State) (code : Nat) : State :=
  (s.setFld FAB_TIME_STATUS_VALID 1).setFld FAB_TIME_OFFSET_OFFSET_PS code

/-- Whether an offset is taken in one step: beyond the limit, while no job is loaded. -/
def State.timeSteps (s : State) (off : Int) : Bool :=
  !s.anyLoaded && decide (s.fld FAB_TIME_CFG1_STEP_LIMIT * 4 ≤ off.natAbs)

/-- Time steps by an offset. -/
def State.timeStepped (s : State) (off : Int) : State :=
  ({ s with ftime := (((s.ftime : Int) + off) % (2 ^ 64)).toNat, slew := 0 } : State).setFld FAB_TIME_STATUS_STEP_SEEN 1

/-- Time steps by an offset, or slews by it from here on. -/
def State.timeMoved (s : State) (off : Int) : State := if s.timeSteps off then s.timeStepped off else { s with slew := off }

/-- The lock after an offset: eight good ones in a row lock, one that is far off unlocks. -/
def State.timeJudged (s : State) (off : Int) : State :=
  if off.natAbs ≤ 8 then
    let t : State := { s with timeGood := min 8 (s.timeGood + 1) }
    if min 8 (s.timeGood + 1) = 8 then t.setFld FAB_TIME_STATUS_LOCKED 1 else t
  else if off.natAbs ≤ 16 then { s with timeGood := 0 }
  else s.timeUnlock

theorem State.timeOffset_eq (s : State) (off : Int) :
    s.timeOffset off = ((s.timeNoted (offsetCode off)).timeMoved off).timeJudged off := rfl

theorem State.timeJudged_judged (s : State) (off : Int) : s.LockJudged (s.timeJudged off) := by
  unfold State.timeJudged
  split
  · simp only []
    split
    · exact (State.LockJudged.good s _).setLocked 1
    · exact .good s _
  · split
    · exact .good s _
    · obtain ⟨-, -, -, hjudged⟩ := s.timeUnlock_effect
      exact hjudged

theorem State.timeJudged_far (s : State) {off : Int} (h : 16 < off.natAbs) :
    (s.timeJudged off).fld FAB_TIME_STATUS_LOCKED = 0 := by
  obtain ⟨hlocked, -⟩ := s.timeUnlock_effect
  rwa [State.timeJudged, if_neg (by omega), if_neg (by omega)]

theorem State.timeSteps_congr {s t : State} (ho : t.owner = s.owner)
    (hl : t.fld FAB_TIME_CFG1_STEP_LIMIT = s.fld FAB_TIME_CFG1_STEP_LIMIT) (off : Int) : t.timeSteps off = s.timeSteps off := by
  have hload (j : Nat) : t.slotLoaded j = s.slotLoaded j := by rw [State.slotLoaded, ho, State.slotLoaded]
  simp only [State.timeSteps, State.anyLoaded, funext hload, hl]

theorem codeOf_lt (i : Int) (w : Nat) : codeOf i w < 2 ^ w := by
  have hpos : 0 < ((2 ^ w : Nat) : Int) := Int.natCast_pos.mpr (Nat.two_pow_pos w)
  rw [codeOf, Int.toNat_lt (Int.emod_nonneg _ (ne_of_gt hpos))]
  exact Int.emod_lt_of_pos i hpos

theorem offsetCode_lt (off : Int) : offsetCode off < 2 ^ 32 := codeOf_lt ..

theorem State.timeNoted_effect (s : State) {code : Nat} (hc : code < 2 ^ 32) :
    (s.timeNoted code).fld FAB_TIME_STATUS_VALID = 1 ∧ (s.timeNoted code).fld FAB_TIME_OFFSET_OFFSET_PS = code ∧
    (∀ o, (s.timeNoted code).timeSteps o = s.timeSteps o) ∧ (s.timeNoted code).bare = s.bare := by
  have hbare : (s.timeNoted code).bare = s.bare := (State.bare_setFld ..).trans (State.bare_setFld ..)
  refine ⟨?_, ?_, fun o => State.timeSteps_congr (State.owner_of_bare hbare) ?_ o, hbare⟩
  · rw [State.timeNoted, State.fld_of_reg (State.reg_setFld_ne _ _ _ (by decide)), State.fld_setFld_self _ _ _ (by decide)]
    rfl
  · exact (State.fld_setFld_self _ _ _ (by decide)).trans (Nat.mod_eq_of_lt hc)
  · rw [State.timeNoted, State.fld_of_reg (State.reg_setFld_ne _ _ _ (by decide)),
      State.fld_of_reg (State.reg_setFld_ne _ _ _ (by decide))]

/-- Time moves by an offset in one of two ways, and the notes stand. -/
theorem State.timeMoved_effect (s : State) (off : Int) :
    let t := s.timeMoved off
    t.fld FAB_TIME_STATUS_VALID = s.fld FAB_TIME_STATUS_VALID ∧
    t.fld FAB_TIME_OFFSET_OFFSET_PS = s.fld FAB_TIME_OFFSET_OFFSET_PS ∧
    (s.timeSteps off = false → t.slew = off ∧ t.ftime = s.ftime) ∧
    (s.timeSteps off = true → t.slew = 0 ∧ t.ftime = (((s.ftime : Int) + off) % (2 ^ 64)).toNat ∧
      t.fld FAB_TIME_STATUS_STEP_SEEN = 1) ∧ s.MemKept t := by
  have hfld (f : Fld) (l : Nat) (v : Int) : ({ s with ftime := l, slew := v } : State).fld f = s.fld f :=
    State.fld_of_reg (State.reg_congr rfl _)
  by_cases h : s.timeSteps off = true
  · rw [State.timeMoved, if_pos h]
    refine ⟨?_, ?_, fun hn => ?_, fun _ => ⟨rfl, rfl, State.fld_setFld_self _ _ _ (by decide)⟩, .of_eq rfl rfl⟩
    · exact (State.fld_setFld_above _ _ (by decide) (by decide)).trans (hfld ..)
    · exact (State.fld_of_reg (State.reg_setFld_ne _ _ _ (by decide))).trans (hfld ..)
    · exact absurd (h.symm.trans hn) (by decide)
  · rw [State.timeMoved, if_neg h]
    exact ⟨hfld _ s.ftime off, hfld _ s.ftime off, fun _ => ⟨rfl, rfl⟩, fun hn => absurd hn h, .of_eq rfl rfl⟩

/-- An accepted offset: noted, and time moves by it. -/
theorem State.timeOffset_effect (s : State) (off : Int) :
    let t := s.timeOffset off
    t.fld FAB_TIME_STATUS_VALID = 1 ∧ t.fld FAB_TIME_OFFSET_OFFSET_PS = offsetCode off ∧
    (s.timeSteps off = false → t.slew = off ∧ t.ftime = s.ftime) ∧
    (s.timeSteps off = true → t.slew = 0 ∧ t.ftime = (((s.ftime : Int) + off) % (2 ^ 64)).toNat ∧
      t.fld FAB_TIME_STATUS_STEP_SEEN = 1) ∧
    (16 < off.natAbs → t.fld FAB_TIME_STATUS_LOCKED = 0) ∧ s.MemKept t := by
  have e := s.timeOffset_eq off
  obtain ⟨hvalid, hcode, hsteps, hbare⟩ := s.timeNoted_effect (offsetCode_lt off)
  generalize s.timeNoted (offsetCode off) = n at e hvalid hcode hsteps hbare
  obtain ⟨hv, ho, hslew, hstep, hmem⟩ := n.timeMoved_effect off
  rw [hsteps, State.ftime_of_bare hbare] at hslew hstep
  generalize n.timeMoved off = m at e hv ho hslew hstep hmem
  have hj := m.timeJudged_judged off
  have hfar (h : 16 < off.natAbs) := m.timeJudged_far h
  simp only [e]
  generalize m.timeJudged off = t at hj hfar
  have hjslew : t.slew = m.slew := (congrArg State.slew hj.bare :)
  have hjtime : t.ftime = m.ftime := (congrArg State.ftime hj.bare :)
  refine ⟨hj.valid.trans (hv.trans hvalid), ?_, fun h => ?_, fun h => ?_, hfar, ?_⟩
  · exact (hj.regs.fld (by decide) (reportReg_fabric (by decide) (by decide))).trans (ho.trans hcode)
  · obtain ⟨hs, ht⟩ := hslew h
    exact ⟨hjslew.trans hs, hjtime.trans ht⟩
  · obtain ⟨hs, ht, hseen⟩ := hstep h
    exact ⟨hjslew.trans hs, hjtime.trans ht, hj.step.trans hseen⟩
  · exact ((State.MemKept.of_bare hbare).trans hmem).trans hj.memKept

/-- An offset beyond the limit steps time while no job is loaded. -/
theorem State.timeSteps_true {s : State} {off : Int} (hl : s.anyLoaded = false)
    (hlim : s.fld FAB_TIME_CFG1_STEP_LIMIT * 4 ≤ off.natAbs) : s.timeSteps off = true := by
  rw [State.timeSteps, hl, decide_eq_true hlim]
  rfl

/-- While a job is loaded, or within the limit, time only slews. -/
theorem State.timeSteps_false {s : State} {off : Int}
    (h : s.anyLoaded = true ∨ off.natAbs < s.fld FAB_TIME_CFG1_STEP_LIMIT * 4) : s.timeSteps off = false := by
  rcases h with hl | hlim
  · rw [State.timeSteps, hl, Bool.not_true, Bool.false_and]
  · rw [State.timeSteps, decide_eq_false (Nat.not_le.mpr hlim), Bool.and_false]

/-- An exchange with the source within its delay: time slews by its offset, or steps while no job is loaded (R281). -/
theorem execTimeResp_offset {s : State} {q hops t1 t2 t3 : Nat} (hup : s.portUp q = true)
    (h0 : 0 ≤ exchangeDelay t1 t2 t3 s.ftime) (h1 : exchangeDelay t1 t2 t3 s.ftime ≤ 40000)
    (hq : (s.timeAdvert q hops).fld FAB_TIME_STATUS_SOURCE = q) {off : Int} (hoff : exchangeOffset t1 t2 t3 s.ftime = off) :
    Answers (exec (.timeResp q hops t1 t2 t3) s) fun t =>
      t.fld FAB_TIME_STATUS_VALID = 1 ∧ t.fld FAB_TIME_OFFSET_OFFSET_PS = offsetCode off ∧
      (s.anyLoaded = true ∨ off.natAbs < s.fld FAB_TIME_CFG1_STEP_LIMIT * 4 → t.slew = off ∧ t.ftime = s.ftime) ∧
      (s.anyLoaded = false → s.fld FAB_TIME_CFG1_STEP_LIMIT * 4 ≤ off.natAbs →
        t.slew = 0 ∧ t.ftime = (((s.ftime : Int) + off) % (2 ^ 64)).toNat ∧ t.fld FAB_TIME_STATUS_STEP_SEEN = 1) ∧
      (16 < off.natAbs → t.fld FAB_TIME_STATUS_LOCKED = 0) ∧ s.MemKept t := by
  obtain ⟨-, -, hbare, hregs⟩ := s.timeAdvert_effect q hops
  rw [execTimeResp_source hup h0 h1 hq, hoff]
  generalize s.timeAdvert q hops = u at hbare hregs
  have htime : u.ftime = s.ftime := (congrArg State.ftime hbare :)
  have howner : u.owner = s.owner := (congrArg State.owner hbare :)
  have hlimit : u.fld FAB_TIME_CFG1_STEP_LIMIT = s.fld FAB_TIME_CFG1_STEP_LIMIT :=
    hregs.fld (by decide) (reportReg_fabric (by decide) (by decide))
  have hsteps := State.timeSteps_congr howner hlimit off
  have hmem : u.mem = s.mem := (congrArg State.mem hbare :)
  have hpoison : u.poison = s.poison := (congrArg State.poison hbare :)
  obtain ⟨hvalid, hcode, hslew, hstep, hfar, hkept⟩ := u.timeOffset_effect off
  rw [hsteps, htime] at hslew hstep
  exact answers_next ⟨hvalid, hcode, fun h => hslew (State.timeSteps_false h),
    fun hl hlim => hstep (State.timeSteps_true hl hlim), hfar, (State.MemKept.of_eq hmem hpoison).trans hkept⟩

end Sys2Proof.Machine

/-! SUPPORT. Saturated levels, reported once, and gaps, whose packets are asked of the sender (R273, R293, R367). -/
namespace Sys2Proof.Machine

/-! ## Masks and tables over a range -/

/-- The mask of the numbers below `n` that meet a test. -/
def rangeMask (p : Nat → Bool) (n : Nat) : Nat := (List.range n).foldl (fun m i => if p i then m + 2 ^ i else m) 0

theorem rangeMask_succ (p : Nat → Bool) (n : Nat) :
    rangeMask p (n + 1) = if p n then rangeMask p n + 2 ^ n else rangeMask p n := by
  rw [rangeMask, List.range_succ, List.foldl_append]
  rfl

theorem rangeMask_lt (p : Nat → Bool) (n : Nat) : rangeMask p n < 2 ^ n := by
  induction n with
  | zero => exact Nat.one_pos
  | succ n ih =>
    rw [rangeMask_succ, Nat.pow_succ]
    split <;> omega

theorem testBit_rangeMask (p : Nat → Bool) {n i : Nat} (h : i < n) : (rangeMask p n).testBit i = p i := by
  induction n with
  | zero => exact absurd h (Nat.not_lt_zero i)
  | succ n ih =>
    rw [rangeMask_succ]
    by_cases hi : i = n
    · have htop : (rangeMask p n).testBit n = false := Nat.testBit_lt_two_pow (rangeMask_lt p n)
      rw [hi]
      split
      · next hp => rw [Nat.add_comm, Nat.testBit_two_pow_add_eq, htop, hp, Bool.not_false]
      · next hp => rw [htop, Bool.eq_false_iff.mpr hp]
    · have hlow : i < n := by omega
      split
      · rw [Nat.add_comm, Nat.testBit_two_pow_add_gt hlow, ih hlow]
      · exact ih hlow

/-- A write of the keys below `n`, one after the other. -/
theorem storeGet_setEach (f : Nat → Nat) (l : Store Nat) {n i : Nat} (h : i < n) :
    storeGet 0 ((List.range n).foldl (fun m i => storeSet 0 m i (f i)) l) i = f i := by
  induction n with
  | zero => exact absurd h (Nat.not_lt_zero i)
  | succ n ih =>
    simp only [List.range_succ, List.foldl_append, List.foldl_cons, List.foldl_nil]
    by_cases hi : i = n
    · rw [hi, storeGet_set_self]
    · rw [storeGet_set_ne 0 0 _ _ hi, ih (by omega)]

/-! ## Saturated levels (R293) -/

/-- The levels that are saturated in the window that ends. -/
def State.satMask (s : State) : Nat := rangeMask s.saturated 24

theorem State.satMask_lt (s : State) : s.satMask < 2 ^ 24 := rangeMask_lt s.saturated 24

theorem State.bitAt_satMask (s : State) {i : Nat} (h : i < 24) : bitAt s.satMask i = s.saturated i := by
  rw [bitAt_eq_testBit, State.satMask, testBit_rangeMask s.saturated h]

/-- A window begins with the waits as they stand. -/
def State.satWindow (s : State) : State :=
  { s with satBase := (List.range 24).foldl (fun m i => storeSet 0 m i (s.lvlWait i)) s.satBase }

/-- The saturated levels in their register, and the window that begins. -/
def State.satNoted (s : State) : State := (s.setFld FAB_SAT_STATUS_SAT s.satMask).satWindow

section
variable (s : State)

theorem State.satWindow_effect :
    (∀ i, i < 24 → storeGet 0 s.satWindow.satBase i = s.lvlWait i) ∧ s.satWindow.regs = s.regs ∧
    s.satWindow.bare = { s.bare with satBase := s.satWindow.satBase } :=
  ⟨fun _ => storeGet_setEach s.lvlWait s.satBase, rfl, rfl⟩

theorem State.lvlWait_setFld (f : Fld) (v i : Nat) : (s.setFld f v).lvlWait i = s.lvlWait i := by
  rw [State.lvlWait, State.cnt_setFld, State.lvlWait]

theorem State.satNoted_effect :
    s.satNoted.fld FAB_SAT_STATUS_SAT = s.satMask ∧ (∀ i, i < 24 → storeGet 0 s.satNoted.satBase i = s.lvlWait i) ∧
    s.satNoted.bare = { s.bare with satBase := s.satNoted.satBase } ∧ s.RegsKept s.satNoted (fun a => a = FAB_SAT_STATUS) := by
  have hlt := s.satMask_lt
  have e : s.satNoted = (s.setFld FAB_SAT_STATUS_SAT s.satMask).satWindow := rfl
  generalize s.satMask = m at e hlt ⊢
  obtain ⟨hbase, hsame, hbare⟩ := (s.setFld FAB_SAT_STATUS_SAT m).satWindow_effect
  rw [← e] at hbase hsame hbare
  rw [State.bare_setFld] at hbare
  refine ⟨?_, fun i hi => (hbase i hi).trans (s.lvlWait_setFld ..), hbare, ?_⟩
  · rw [State.fld_of_reg (State.reg_congr hsame _), State.fld_setFld_self _ _ _ (by decide)]
    exact Nat.mod_eq_of_lt hlt
  · have hset := (State.RegsKept.refl s (fun a => a = FAB_SAT_STATUS)).setFld (f := FAB_SAT_STATUS_SAT) m rfl
    exact hset.of_regs hsame

/-- The end of a window reports the first level that was not saturated before (R293). -/
theorem execSatWindowEnd_eq : exec .satWindowEnd s =
    if maskLess s.satMask (s.fld FAB_SAT_STATUS_SAT) = 0 then .next s.satNoted
    else .next ((s.satNoted.setFld FAB_SAT_STATUS_SAT_SEEN 1).event FAB_SAT_STATUS_SAT_SEEN 0 8) := rfl

theorem maskLess_ne_zero {a b i : Nat} (ha : bitAt a i = true) (hb : bitAt b i = false) : maskLess a b ≠ 0 := by
  rw [bitAt_eq_testBit] at ha hb
  intro h
  have hbit := congrArg (Nat.testBit · i) h
  simp [maskLess, Nat.testBit_xor, Nat.testBit_and, ha, hb] at hbit

theorem reportReg_satStatus : reportReg FAB_SAT_STATUS = false := reportReg_fabric (by decide) (by decide)

theorem execSatWindowEnd_effect : Answers (exec .satWindowEnd s) fun t =>
    (∀ i, i < 24 → bitAt (t.fld FAB_SAT_STATUS_SAT) i = s.saturated i ∧ storeGet 0 t.satBase i = s.lvlWait i) ∧
    ((∃ i, i < 24 ∧ s.saturated i = true ∧ bitAt (s.fld FAB_SAT_STATUS_SAT) i = false) → t.fld FAB_SAT_STATUS_SAT_SEEN = 1) ∧
    t.bare = { s.bare with satBase := t.satBase } ∧ s.RegsKept t (fun a => a = FAB_SAT_STATUS) := by
  obtain ⟨hsat, hbase, hbare, hregs⟩ := s.satNoted_effect
  rw [execSatWindowEnd_eq]
  generalize s.satNoted = u at hsat hbase hbare hregs
  split
  · next h0 =>
    refine answers_next ⟨fun i hi => ⟨?_, hbase i hi⟩, ?_, hbare, hregs⟩
    · rw [hsat, s.bitAt_satMask hi]
    · rintro ⟨i, hi, hnow, hwas⟩
      exact absurd h0 (maskLess_ne_zero ((s.bitAt_satMask hi).trans hnow) hwas)
  · have hseen : ((u.setFld FAB_SAT_STATUS_SAT_SEEN 1).event FAB_SAT_STATUS_SAT_SEEN 0 8).fld FAB_SAT_STATUS_SAT_SEEN = 1 :=
      (State.fld_event _ _ _ _ _ reportReg_satStatus).trans (State.fld_setFld_self _ _ _ (by decide))
    have hkept : ((u.setFld FAB_SAT_STATUS_SAT_SEEN 1).event FAB_SAT_STATUS_SAT_SEEN 0 8).fld FAB_SAT_STATUS_SAT = s.satMask :=
      (State.fld_event _ _ _ _ _ reportReg_satStatus).trans ((State.fld_setFld_above _ _ (by decide) (by decide)).trans hsat)
    have hsame : ((u.setFld FAB_SAT_STATUS_SAT_SEEN 1).event FAB_SAT_STATUS_SAT_SEEN 0 8).bare = u.bare :=
      (State.bare_event ..).trans (State.bare_setFld ..)
    have hregs := (hregs.setFld (f := FAB_SAT_STATUS_SAT_SEEN) 1 rfl).event FAB_SAT_STATUS_SAT_SEEN 0 8
    generalize (u.setFld FAB_SAT_STATUS_SAT_SEEN 1).event FAB_SAT_STATUS_SAT_SEEN 0 8 = t at hseen hkept hsame hregs
    have hsb := State.satBase_of_bare hsame
    refine answers_next ⟨fun i hi => ⟨?_, ?_⟩, fun _ => hseen, ?_, hregs⟩
    · rw [hkept, s.bitAt_satMask hi]
    · rw [hsb, hbase i hi]
    · rw [hsame, hbare, hsb]

end

/-! ## Gaps (R273, R367) -/

/-- Registers that a report of a gap of receive context `n` may write. -/
def GapReg (n a : Nat) : Prop := a = FAB_RX_STATUS ∨ a = FLW_CTX n + 24

/-- `t` is `s` after a report of a gap of receive context `n`: every other register word is as before, those of reports too. -/
structure State.GapNoted (s : State) (n : Nat) (t : State) : Prop where
  bare : t.bare = s.bare
  reg : ∀ a, ¬ GapReg n a → t.reg a = s.reg a

/-- The record of an open gap: its flag, its time, and one detection. -/
def State.gapNoted (s : State) (n : Nat) : State :=
  let j := s.fld (fcJob n)
  let t := (s.setFld (fcGap n) (s.fld FAB_FLOW_CFG_GAP_TIMEOUT)).setFld FAB_RX_STATUS_GAP 1
  t.detect 0x0200 0x0A 0 0xFFFFFF 0x3F 0 0 j (0x1F + 4 * 2 ^ 16 + n * 2 ^ 32 +
    t.fld (FAB_JOB_GEN_GEN j) * 2 ^ 48 + t.fld (fcSeq n) * 2 ^ 64 + (t.senderGid n).getD 0 * 2 ^ 96)

/-- The module after a gap that is not in replay: the first missing packet is asked of the sender, where it is known (R367). -/
def State.gapAsked (s : State) (n : Nat) : State :=
  match s.senderGid n with
  | some g => (s.gapNoted n).sendCtl g (s.fld (fcJob n))
      (lreqMsg 0x32 (s.fld (fcJob n)) 0 (s.fld (fcDst n)) 1 n (s.fld (fcSeq n)))
  | none => s.gapNoted n

section
variable {s t : State} {n : Nat}

theorem State.GapNoted.fld (h : s.GapNoted n t) {f : Fld} (hf : ¬ GapReg n f.addr) : t.fld f = s.fld f :=
  State.fld_of_reg (h.reg _ hf)

/-- The other words of the context. -/
theorem not_gapReg_ctx {k : Nat} (hk : k ≠ 24) : ¬ GapReg n (FLW_CTX n + k) := by
  simp only [GapReg, FLW_CTX, FAB_RX_STATUS]
  omega

/-- Registers beyond the flow contexts: partitions, and the banks in force. -/
theorem not_gapReg_beyond (hn : n < 16384) {a : Nat} (ha : 0xA00000 ≤ a) : ¬ GapReg n a := by
  simp only [GapReg, FLW_CTX, FAB_RX_STATUS]
  omega

theorem State.GapNoted.rekey (h : s.GapNoted n t) (hn : n < 16384) (j l : Nat) : t.rekey j l = s.rekey j l := by
  have hword (a : Nat) : t.tblWord a = s.tblWord a := by
    rw [State.tblWord, State.tblBad_of_bare h.bare, h.reg _ (not_gapReg_beyond hn (by rw [act]; omega)), State.tblWord]
  rw [State.rekey, hword, hword, State.rekey]

theorem State.GapNoted.senderGid (h : s.GapNoted n t) (hn : n < 16384) : t.senderGid n = s.senderGid n := by
  rw [State.senderGid, State.flag, h.fld (f := fcSrck n) (not_gapReg_ctx (k := 0) (by decide)),
    h.fld (f := fcSrc n) (not_gapReg_ctx (by decide)), h.fld (f := fcJob n) (not_gapReg_ctx (k := 0) (by decide)),
    h.rekey hn, State.senderGid, State.flag]

theorem State.GapNoted.gapInReplay (h : s.GapNoted n t) (hn : n < 16384) : t.gapInReplay n = s.gapInReplay n := by
  have hhost (w : Nat) : t.fld (CAM_HOST_W0_STATE (rkPart w) (rkEntry w)) = s.fld (CAM_HOST_W0_STATE (rkPart w) (rkEntry w)) :=
    h.fld (not_gapReg_beyond hn (by simp only [CAM_HOST_W0_STATE, CAM_HOST_W0, partBase]; omega))
  have hgid : t.gid = s.gid := h.fld (by simp only [GapReg, FAB_GID_GID, FAB_GID, FAB_RX_STATUS, FLW_CTX]; omega)
  simp only [State.gapInReplay, h.fld (f := fcJob n) (not_gapReg_ctx (k := 0) (by decide)),
    h.fld (f := fcDst n) (not_gapReg_ctx (by decide)), h.rekey hn, hgid, hhost]

theorem State.gapNoted_effect (s : State) (n : Nat) :
    s.GapNoted n (s.gapNoted n) ∧ (s.gapNoted n).fld FAB_RX_STATUS_GAP = 1 ∧
    (s.boot = .running → (s.gapNoted n).detections.length = s.detections.length + 1) := by
  unfold State.gapNoted
  simp only []
  generalize hu : (s.setFld (fcGap n) (s.fld FAB_FLOW_CFG_GAP_TIMEOUT)).setFld FAB_RX_STATUS_GAP 1 = u
  have hbare : u.bare = s.bare := by rw [← hu, State.bare_setFld, State.bare_setFld]
  have hdet : u.detections = s.detections := by rw [← hu, State.detections_setFld, State.detections_setFld]
  refine ⟨⟨(State.bare_detect ..).trans hbare, fun a ha => ?_⟩, ?_, fun hrun => ?_⟩
  · have hne : a ≠ FAB_RX_STATUS ∧ a ≠ FLW_CTX n + 24 := not_or.mp ha
    rw [State.reg_detect, ← hu, State.reg_setFld_ne _ _ _ hne.1, State.reg_setFld_ne _ _ _ hne.2]
  · rw [State.fld_detect, ← hu, State.fld_setFld_self _ _ _ (by decide)]
    rfl
  · rw [State.detections_detect _ ((State.boot_of_bare hbare).trans hrun), hdet]

theorem execGapTimeout_closed (h : s.gapOpen n = false) : exec (.gapTimeout n) s = .next s := if_pos (by rw [h]; rfl)

/-- An open gap is recorded, and its packets are asked of the sender, unless the shard is in replay (R367). -/
theorem execGapTimeout_open (hn : n < 16384) (ho : s.gapOpen n = true) (hr : s.gapInReplay n = false) :
    exec (.gapTimeout n) s = .next (s.gapAsked n) := by
  obtain ⟨hnoted, -, -⟩ := s.gapNoted_effect n
  have hopen : ¬ (!s.gapOpen n) = true := by rw [ho]; decide
  have hreplay : ¬ (s.gapNoted n).gapInReplay n = true := by rw [hnoted.gapInReplay hn, hr]; decide
  refine (if_neg hopen).trans ((if_neg hreplay).trans ?_)
  split
  · next g hg =>
    have hsrc : s.senderGid n = some g := (hnoted.senderGid hn).symm.trans hg
    rw [State.gapAsked, hsrc, ← hnoted.fld (f := fcDst n) (not_gapReg_ctx (by decide)),
      ← hnoted.fld (f := fcSeq n) (not_gapReg_ctx (by decide))]
    rfl
  · next hg =>
    have hsrc : s.senderGid n = none := (hnoted.senderGid hn).symm.trans hg
    rw [State.gapAsked, hsrc]
    rfl

end

/-! ## The obligation -/

/-- Settles O36: each row is one write of its own part of the state, and the frames of the rows are those writes. -/
theorem slotsTransmissionAndTime : Obligations.SlotsTransmissionAndTime := by
  refine ⟨fun s => ?_, fun s q d1 d2 x _ hup hroom hc hcmd => ?_, fun s q par => execPacketTransmit_none s par,
    fun s q hup => ?_, fun s q hops x t1 _ hup => execTimeReq_effect hup hops x t1, fun s q hops t1 t2 t3 _ hup => ?_,
    execTimeHoldoverExpiry_effect, execSatWindowEnd_effect, fun s n hn => ⟨execGapTimeout_closed, fun ho hr => ?_⟩⟩
  · exact answers_imp (execSlotBoundary_effect s) fun t ⟨htime, hfill, huse, hframe⟩ =>
      ⟨htime, hfill, fun q r h => huse _ h, hframe⟩
  · rw [execPacketTransmit_chosen s hup hroom hc]
    exact answers_next (State.startPkt_effect { s with
      slotUse := storeSet 0 (storeSet 0 s.slotUse (256 + 2 * q) d1) (257 + 2 * q) d2 } hcmd)
  · rw [execTimeExchangeStart_up hup]
    refine answers_next ⟨?_, rfl, rfl⟩
    rw [State.link_congr (State.links_emit ..), State.link_setLink]
  · exact ⟨execTimeResp_discarded hup, fun h0 h1 hq => execTimeResp_offset hup h0 h1 hq rfl⟩
  · obtain ⟨hnoted, hflag, hdet⟩ := s.gapNoted_effect n
    exact ⟨s.gapNoted n, hflag, hdet, ⟨hnoted.bare, fun a ha _ => hnoted.reg a ha⟩, execGapTimeout_open hn ho hr⟩

end Sys2Proof.Machine

/-! SUPPORT. Chunks of an open Hasp set that are late: the owner is asked again, three times (R332). -/
namespace Sys2Proof.Machine

section
variable {s : State} {j p stripe : Nat} {r : JobRun} {c : ChunkRx}

theorem State.run_updRun (h : s.run j = some r) (f : JobRun → JobRun) : (s.updRun j f).run j = some (f r) := by
  rw [State.run, State.updRun, storeGet_set_self, h, Option.map_some]

@[simp] theorem State.run_setFld (s : State) (f : Fld) (v j : Nat) : (s.setFld f v).run j = s.run j := rfl

@[simp] theorem State.fld_updRun (s : State) (j : Nat) (f : JobRun → JobRun) (g : Fld) : (s.updRun j f).fld g = s.fld g := rfl

theorem State.fld_setFld_one (s : State) {f : Fld} (hw : f.w = 1) (hf : f.lo < 32) : (s.setFld f 1).fld f = 1 := by
  rw [State.fld_setFld_self _ _ _ (by omega), hw, Nat.pow_one]

theorem execHaspChunkTimeout_idle (hr : s.run j = some r)
    (hc : r.chunks.find? (fun c => c.part == p && c.stripe == stripe) = some c)
    (h : c.ok = true ∨ c.gaveUp = true ∨ c.since = 0 ∨ s.flag (HSP_J_STATUS_SET_OPEN j) = false ∨
      s.ftime + 1 < c.since + s.fld (HSP_J_FLOW_HASP_CHUNK_TIMEOUT j) * 4000000) :
    exec (.haspChunkTimeout j p stripe) s = .next s := by
  change execHaspChunkTimeout j p stripe s = _
  rw [execHaspChunkTimeout, hr]
  simp only [hc]
  exact if_pos (by simpa [or_assoc] using h)

/-- A chunk that is not complete when its time is up is asked for. -/
theorem execHaspChunkTimeout_due (hr : s.run j = some r)
    (hc : r.chunks.find? (fun c => c.part == p && c.stripe == stripe) = some c) (hok : c.ok = false) (hup : c.gaveUp = false)
    (hs : c.since ≠ 0) (hopen : s.flag (HSP_J_STATUS_SET_OPEN j) = true)
    (hdue : c.since + s.fld (HSP_J_FLOW_HASP_CHUNK_TIMEOUT j) * 4000000 ≤ s.ftime + 1) :
    exec (.haspChunkTimeout j p stripe) s = .next (s.askChunk j p stripe) := by
  change execHaspChunkTimeout j p stripe s = _
  rw [execHaspChunkTimeout, hr]
  simp only [hc]
  exact if_neg (by simp [hok, hup, hs, hopen, hdue])

/-- The module after the fourth time: the chunk is given up, and the set is not acknowledged. -/
def State.chunkGivenUp (s : State) (j p stripe : Nat) : State :=
  ((s.setChunk j p stripe (fun c => { c with gaveUp := true })).setFld (HSP_J_STATUS_GAVE_UP j) 1).updRun j
    (fun r => { r with ack := false })

/-- The module that waits for a chunk once more. -/
def State.chunkAwaited (s : State) (j p stripe : Nat) : State :=
  (s.setChunk j p stripe (fun c => { c with tries := c.tries + 1, since := s.ftime + 1, landed := 0, hdr := false })).setFld
    (HSP_J_STATUS_CRC_RETRY j) 1

theorem State.askChunk_eq {g : ContGroup} (hr : s.run j = some r)
    (hc : r.chunks.find? (fun c => c.part == p && c.stripe == stripe) = some c) (hg : r.group = some g) :
    s.askChunk j p stripe = if 3 ≤ c.tries then s.chunkGivenUp j p stripe else
      match (s.chunkAwaited j p stripe).stripeOwner j g p stripe with
      | some o => (s.chunkAwaited j p stripe).sendCtl o j (stripeMsg 0x20 j r.step p stripe)
      | none => s.chunkAwaited j p stripe := by
  rw [State.askChunk, hr]
  simp only [hc, hg]
  rfl

theorem State.regsKept_setChunk (s : State) (j p stripe : Nat) (f : ChunkRx → ChunkRx) (P : Nat → Prop) :
    s.RegsKept (s.setChunk j p stripe f) P := (State.RegsKept.refl s P).of_regs rfl

theorem State.chunkGivenUp_effect (hr : s.run j = some r) :
    let t := s.chunkGivenUp j p stripe
    t.fld (HSP_J_STATUS_GAVE_UP j) = 1 ∧ t = { s with jobs := t.jobs, regs := t.regs } ∧
    s.RegsKept t (fun a => a = HSP_J_STATUS j) ∧
    t.run j = some { r with ack := false, chunks := r.chunks.map (fun c =>
      if c.part = p ∧ c.stripe = stripe then { c with gaveUp := true } else c) } := by
  have hrun : (s.setChunk j p stripe (fun c => { c with gaveUp := true })).run j = _ := State.run_updRun hr _
  refine ⟨?_, rfl, ?_, State.run_updRun ((State.run_setFld ..).trans hrun) _⟩
  · exact (State.fld_updRun ..).trans (State.fld_setFld_one _ rfl (by simp [HSP_J_STATUS_GAVE_UP]))
  · exact (State.RegsKept.setFld (s.regsKept_setChunk j p stripe _ (fun a => a = HSP_J_STATUS j)) (f := HSP_J_STATUS_GAVE_UP j) 1
      rfl).of_regs rfl

theorem State.chunkAwaited_effect (hr : s.run j = some r) :
    let t := s.chunkAwaited j p stripe
    t.fld (HSP_J_STATUS_CRC_RETRY j) = 1 ∧ t = { s with jobs := t.jobs, regs := t.regs } ∧
    s.RegsKept t (fun a => a = HSP_J_STATUS j) ∧
    t.run j = some { r with chunks := r.chunks.map (fun c => if c.part = p ∧ c.stripe = stripe then
      { c with tries := c.tries + 1, since := s.ftime + 1, landed := 0, hdr := false } else c) } := by
  refine ⟨State.fld_setFld_one _ rfl (by simp [HSP_J_STATUS_CRC_RETRY]), rfl, ?_, ?_⟩
  · exact State.RegsKept.setFld (s.regsKept_setChunk j p stripe _ (fun a => a = HSP_J_STATUS j)) (f := HSP_J_STATUS_CRC_RETRY j) 1 rfl
  · exact (State.run_setFld ..).trans (State.run_updRun hr _)

end
end Sys2Proof.Machine

/-! SUPPORT. The Hasp slots of a job: pins come and go, and slots move (R337, R340). -/
namespace Sys2Proof.Machine

/-! ## Folds over what a job has -/

/-- What one element of a fold brings about, and the others keep, holds at its end. -/
theorem foldl_brings {α : Type} {I Q : State → Prop} {f : State → α → State} {l : List α} {x : α} (hx : x ∈ l) {s : State}
    (hs : I s) (hI : ∀ t, ∀ y ∈ l, I t → I (f t y)) (hb : ∀ t, I t → Q (f t x))
    (hQ : ∀ t, ∀ y ∈ l, I t → Q t → Q (f t y)) :
    Q (l.foldl f s) := by
  induction l generalizing s with
  | nil => exact absurd hx List.not_mem_nil
  | cons y l ih =>
    have hI' := hI s y List.mem_cons_self hs
    have hIl : ∀ t, ∀ z ∈ l, I t → I (f t z) := fun t z hz => hI t z (List.mem_cons_of_mem y hz)
    have hQl : ∀ t, ∀ z ∈ l, I t → Q t → Q (f t z) := fun t z hz => hQ t z (List.mem_cons_of_mem y hz)
    rcases List.mem_cons.mp hx with rfl | hx
    · exact (List.foldlRecOn (motive := fun t => I t ∧ Q t) l f ⟨hI', hb s hs⟩
        fun t ht z hz => ⟨hIl t z hz ht.1, hQl t z hz ht.1 ht.2⟩).2
    · exact ih hx hI' hIl hQl

/-- The slots of a job's partitions. -/
def State.jobSlots (s : State) (j : Nat) : List (Nat × Bool) := (s.slotParts j).flatMap (fun p => [(p, false), (p, true)])

theorem State.mem_jobSlots {s : State} {j : Nat} {x : Nat × Bool} : x ∈ s.jobSlots j ↔ x.1 ∈ s.slotParts j := by
  obtain ⟨p, b⟩ := x
  cases b <;> simp [State.jobSlots]

/-- A fold over a job's partitions and the two slots of each is one over its slots. -/
theorem State.foldl_slotParts (s : State) (j : Nat) (f : State → Nat → Bool → State) (t : State) :
    (s.slotParts j).foldl (fun t p => [false, true].foldl (fun u b => f u p b) t) t =
      (s.jobSlots j).foldl (fun u x => f u x.1 x.2) t := by
  rw [State.jobSlots, List.foldl_flatMap]
  rfl

theorem State.slotParts_congr {s t : State} (h : t.owner = s.owner) (j : Nat) : t.slotParts j = s.slotParts j := by
  rw [State.slotParts, h, State.slotParts]

theorem State.slotParts_lt {s : State} {j p : Nat} (h : p ∈ s.slotParts j) : p < 8 :=
  List.mem_range.mp (List.mem_filter.mp h).1

/-! ## Fields of the slots -/

/-- Fields of the slots' states, one for each slot, do not overlap. -/
theorem slotFields_apart {f : Nat × Bool → Fld} (ha : ∀ x, (f x).addr = HSP_SLOT_STATE x.1)
    (hd : ∀ p, (f (p, false)).lo + (f (p, false)).w ≤ (f (p, true)).lo) {x y : Nat × Bool} (h : y ≠ x) : (f y).apart (f x) := by
  obtain ⟨p, b⟩ := x
  obtain ⟨q, c⟩ := y
  by_cases hq : q = p
  · subst hq
    cases b <;> cases c
    · exact absurd rfl h
    · exact .inr (.inl (hd q))
    · exact .inr (.inr (hd q))
    · exact absurd rfl h
  · left
    rw [ha, ha, HSP_SLOT_STATE, HSP_SLOT_STATE]
    omega

/-- The pin of a slot. -/
def pinFld (x : Nat × Bool) : Fld := if x.2 then HSP_SLOT_STATE_B_PIN x.1 else HSP_SLOT_STATE_A_PIN x.1

theorem State.slotPin_eq (s : State) (p : Nat) (b : Bool) : s.slotPin p b = s.flag (pinFld (p, b)) := rfl

theorem pinFld_fits (x : Nat × Bool) : (pinFld x).addr = HSP_SLOT_STATE x.1 ∧ (pinFld x).w = 1 ∧ (pinFld x).lo + 1 ≤ 32 := by
  unfold pinFld
  split <;> exact ⟨rfl, rfl, Nat.le_of_ble_eq_true rfl⟩

theorem pinFld_apart {x y : Nat × Bool} (h : y ≠ x) : (pinFld y).apart (pinFld x) :=
  slotFields_apart (fun x => (pinFld_fits x).1) (fun _ => Nat.le_refl 7) h

/-- The state of a slot. -/
def slotFld (x : Nat × Bool) : Fld := if x.2 then HSP_SLOT_STATE_B_STATE x.1 else HSP_SLOT_STATE_A_STATE x.1

/-- The epoch of a slot. -/
def epochFld (x : Nat × Bool) : Fld := if x.2 then HSP_SLOT_EPOCH_B_EPOCH x.1 else HSP_SLOT_EPOCH_A_EPOCH x.1

theorem State.slotState_eq (s : State) (p : Nat) (b : Bool) : s.slotState p b = s.fld (slotFld (p, b)) := rfl

theorem State.slotEpoch_eq (s : State) (p : Nat) (b : Bool) : s.slotEpoch p b = s.fld (epochFld (p, b)) := rfl

theorem slotFld_fits (x : Nat × Bool) : (slotFld x).addr = HSP_SLOT_STATE x.1 ∧ (slotFld x).w = 3 ∧ (slotFld x).lo + 3 ≤ 32 := by
  unfold slotFld
  split <;> exact ⟨rfl, rfl, Nat.le_of_ble_eq_true rfl⟩

theorem epochFld_fits (x : Nat × Bool) :
    (epochFld x).addr = HSP_SLOT_STATE x.1 + (if x.2 then 8 else 4) ∧ (epochFld x).lo + (epochFld x).w ≤ 32 := by
  obtain ⟨p, b⟩ := x
  cases b
  · exact ⟨show 0x1200404 + 512 * p = 0x1200400 + 512 * p + 4 by omega, Nat.le_refl 32⟩
  · exact ⟨show 0x1200408 + 512 * p = 0x1200400 + 512 * p + 8 by omega, Nat.le_refl 32⟩

theorem slotFld_apart {x y : Nat × Bool} (h : y ≠ x) : (slotFld y).apart (slotFld x) :=
  slotFields_apart (fun x => (slotFld_fits x).1) (fun _ => Nat.le_refl 3) h

theorem epochFld_apart_slot (x y : Nat × Bool) : (epochFld y).apart (slotFld x) := by
  left
  rw [(epochFld_fits y).1, (slotFld_fits x).1, HSP_SLOT_STATE, HSP_SLOT_STATE]
  split <;> omega

/-! ## Pins (R340) -/

theorem State.fld_setPin (s : State) (x : Nat × Bool) {v : Nat} (hv : v < 2) : (s.setFld (pinFld x) v).fld (pinFld x) = v := by
  obtain ⟨-, hw, hlo⟩ := pinFld_fits x
  rw [State.fld_setFld_self _ _ _ (by omega), hw, Nat.pow_one, Nat.mod_eq_of_lt hv]

/-- Registers of the slots of a job, their states and pins. -/
def State.PinReg (s : State) (j a : Nat) : Prop := ∃ p ∈ s.slotParts j, a = HSP_SLOT_STATE p

/-- Pinning writes no epoch. -/
theorem State.slotEpoch_pinned {s t : State} {j : Nat} (h : s.OnlyRegs t (s.PinReg j)) {p : Nat} (hp : p < 8) (b : Bool) :
    t.slotEpoch p b = s.slotEpoch p b := by
  obtain ⟨haddr, -⟩ := epochFld_fits (p, b)
  rw [State.slotEpoch_eq, State.slotEpoch_eq, h.2.fld]
  · rintro ⟨q, -, e⟩
    rw [haddr, HSP_SLOT_STATE, HSP_SLOT_STATE] at e
    split at e <;> omega
  · rw [haddr, HSP_SLOT_STATE]
    exact reportReg_fabric (by omega) (by split <;> omega)

/-- One slot of an epoch pinned, or its pin ended. -/
def State.pinSlot (e v : Nat) (t : State) (x : Nat × Bool) : State :=
  if t.slotEpoch x.1 x.2 = e then t.setFld (pinFld x) v else t

theorem State.pinSlots_eq (s : State) (j e v : Nat) : s.pinSlots j e v = (s.jobSlots j).foldl (State.pinSlot e v) s :=
  s.foldl_slotParts j (fun u p b => State.pinSlot e v u (p, b)) s

theorem State.pinSlot_only {s t : State} {j : Nat} (h : s.OnlyRegs t (s.PinReg j)) {x : Nat × Bool} (hx : x ∈ s.jobSlots j) (e v : Nat) :
    s.OnlyRegs (t.pinSlot e v x) (s.PinReg j) := by
  unfold State.pinSlot
  split
  · exact h.setFld v ⟨x.1, State.mem_jobSlots.mp hx, (pinFld_fits x).1⟩
  · exact h

theorem State.pinSlots_only (s : State) (j e v : Nat) : s.OnlyRegs (s.pinSlots j e v) (s.PinReg j) := by
  rw [State.pinSlots_eq]
  exact List.foldlRecOn (motive := fun t => s.OnlyRegs t (s.PinReg j)) _ _ (.refl s _) fun t ht x hx => State.pinSlot_only ht hx e v

/-- The pins of the slots that hold the epoch are as they were asked for. -/
theorem State.fld_pinSlots (s : State) {j e v p : Nat} {b : Bool} (hv : v < 2) (hp : p ∈ s.slotParts j) (he : s.slotEpoch p b = e) :
    (s.pinSlots j e v).fld (pinFld (p, b)) = v := by
  rw [State.pinSlots_eq]
  refine foldl_brings (I := fun t => s.OnlyRegs t (s.PinReg j)) (Q := fun t => t.fld (pinFld (p, b)) = v) (x := (p, b))
    (State.mem_jobSlots.mpr hp) (.refl s _) (fun t y hy ht => State.pinSlot_only ht hy e v) (fun t ht => ?_) (fun t y _ _ hq => ?_)
  · rw [State.pinSlot, if_pos ((State.slotEpoch_pinned ht (State.slotParts_lt hp) b).trans he)]
    exact t.fld_setPin _ hv
  · unfold State.pinSlot
    split
    · by_cases hy : y = (p, b)
      · rw [hy]
        exact t.fld_setPin _ hv
      · obtain ⟨-, hw, hlo⟩ := pinFld_fits y
        rw [State.fld_setFld_apart _ _ _ _ (pinFld_apart hy) (by omega)]
        exact hq
    · exact hq

theorem State.slotPin_pinSlots (s : State) {j e p : Nat} {b : Bool} (on : Bool) (hp : p ∈ s.slotParts j) (he : s.slotEpoch p b = e) :
    (s.pinSlots j e on.toNat).slotPin p b = on := by
  rw [State.slotPin_eq, State.flag, s.fld_pinSlots on.toNat_lt hp he]
  cases on <;> rfl

/-! ## Drains (R340) -/

/-- The module without the rebuilds of a job's drain. -/
def State.withoutDrains (s : State) (j : Nat) : State := { s with rebuilds := s.rebuilds.filter (fun b => !(b.job == j && b.use == 2)) }

theorem State.endDrain_eq (s : State) (o : OpenOp) (status : Nat) (results : List Nat) : s.endDrain o status results =
    ((s.withoutDrains (o.arg 0)).pinSlots (o.arg 0) (o.arg 15) 0).endWith o status results := rfl

theorem State.mem_withoutDrains {s : State} {j : Nat} {b : Rebuild} :
    b ∈ (s.withoutDrains j).rebuilds ↔ b ∈ s.rebuilds ∧ ¬(b.job = j ∧ b.use = 2) := by
  simp [State.withoutDrains, imp_iff_not_or]

/-- A drain ends: its operation answers, its rebuilds and its pins are gone. -/
theorem State.endDrain_effect (s : State) (o : OpenOp) (status : Nat) (results : List Nat) :
    let t := s.endDrain o status results
    t.ops = s.ops.filter (fun x => x != o) ∧ t.ended = s.ended ++ [⟨o.fn, o.handle, o.op, status, 0x1F, results⟩] ∧
    (∀ b, b ∈ t.rebuilds ↔ b ∈ s.rebuilds ∧ ¬(b.job = o.arg 0 ∧ b.use = 2)) ∧
    (∀ p ∈ s.slotParts (o.arg 0), ∀ b, s.slotEpoch p b = o.arg 15 → t.slotPin p b = false) ∧
    t.bare = { s.bare with ops := t.ops, ended := t.ended, rebuilds := t.rebuilds } ∧ s.RegsKept t (s.PinReg (o.arg 0)) := by
  have hpin (p b) (hp : p ∈ s.slotParts (o.arg 0)) (he : s.slotEpoch p b = o.arg 15) :=
    (s.withoutDrains (o.arg 0)).slotPin_pinSlots (e := o.arg 15) false hp he
  obtain ⟨hbare, hregs⟩ := (s.withoutDrains (o.arg 0)).pinSlots_only (o.arg 0) (o.arg 15) 0
  rw [Bool.toNat_false] at hpin
  rw [State.endDrain_eq]
  generalize (s.withoutDrains (o.arg 0)).pinSlots (o.arg 0) (o.arg 15) 0 = v at hpin hbare hregs
  have hops : v.ops = s.ops := (State.ops_of_bare hbare :)
  have hended : v.ended = s.ended := (State.ended_of_bare hbare :)
  have hreb : v.rebuilds = (s.withoutDrains (o.arg 0)).rebuilds := State.rebuilds_of_bare hbare
  let t := v.endWith o status results
  have hframe := congrArg (fun b : State => { b with ops := t.ops, ended := t.ended, rebuilds := t.rebuilds }) hbare
  refine ⟨hops ▸ rfl, hended ▸ rfl, fun b => ?_, fun p hp b he => hpin p b hp he, hframe, hregs.of_regs rfl⟩
  exact (iff_of_eq (congrArg (b ∈ ·) hreb)).trans State.mem_withoutDrains

theorem execDrainTimeout_none {s : State} {j : Nat} (h : ∀ o ∈ s.ops, ¬(o.op = 6 ∧ o.arg 0 = j)) :
    exec (.drainTimeout j) s = .next s := by
  have hnone : s.ops.find? (fun o => o.op == 6 && o.arg 0 == j) = none := List.find?_eq_none.mpr fun o ho => by simpa using h o ho
  change execDrainTimeout j s = _
  rw [execDrainTimeout, hnone]

theorem execDrainTimeout_some {s : State} {j : Nat} {o : OpenOp} (h : s.ops.find? (fun o => o.op == 6 && o.arg 0 == j) = some o) :
    exec (.drainTimeout j) s = .next (s.endDrain o stTimeout []) := by
  change execDrainTimeout j s = _
  rw [execDrainTimeout, h]

end Sys2Proof.Machine

/-! SUPPORT. Images placed in entries: what a restore writes on its way, and what it leaves alone (R338, R341). -/
namespace Sys2Proof.Machine

/-! ## The frame of a restore -/

/-- `t` is reached from `s` by data placed in memory, entries and slots: the jobs, the owners of partitions and the rebuilds stand as
they were, and so does every register but those that `P` names. -/
structure State.Places (s : State) (P : Nat → Prop) (t : State) : Prop where
  jobs : t.jobs = s.jobs
  owner : t.owner = s.owner
  rebuilds : t.rebuilds = s.rebuilds
  regs : s.RegsKept t P

section
variable {s t u : State} {P Q : Nat → Prop}

theorem State.Places.refl (s : State) (P : Nat → Prop) : s.Places P s := ⟨rfl, rfl, rfl, .refl s P⟩

theorem State.Places.trans (h : s.Places P t) (h' : t.Places P u) : s.Places P u :=
  ⟨h'.jobs.trans h.jobs, h'.owner.trans h.owner, h'.rebuilds.trans h.rebuilds, h.regs.trans h'.regs⟩

theorem State.Places.mono (h : s.Places P t) (hpq : ∀ a, P a → Q a) : s.Places Q t :=
  ⟨h.jobs, h.owner, h.rebuilds, h.regs.mono hpq⟩

theorem State.Places.setFld (h : s.Places P t) {f : Fld} (v : Nat) (hp : P f.addr) : s.Places P (t.setFld f v) :=
  ⟨h.jobs, h.owner, h.rebuilds, h.regs.setFld v hp⟩

theorem State.Places.setReg (h : s.Places P t) {a : Nat} (w : Word) (hp : P a) : s.Places P (t.setReg a w) :=
  ⟨h.jobs, h.owner, h.rebuilds, h.regs.setReg w hp⟩

theorem State.Places.wrDatum (h : s.Places P t) (d v : Nat) (psn : Bool) : s.Places P (t.wrDatum d v psn) :=
  ⟨h.jobs, h.owner, h.rebuilds, h.regs.of_regs rfl⟩

theorem State.Places.killIssued (h : s.Places P t) (p ctx : Nat) : s.Places P (t.killIssued p ctx) :=
  ⟨h.jobs, h.owner, h.rebuilds, h.regs.of_regs rfl⟩

theorem State.Places.clearShard (h : s.Places P t) (p e : Nat) : s.Places P (t.clearShard p e) :=
  ⟨h.jobs, h.owner, h.rebuilds, h.regs.of_regs rfl⟩

theorem State.Places.foldl {α : Type} {f : State → α → State} {l : List α} (h : s.Places P t)
    (hf : ∀ u, ∀ x ∈ l, s.Places P u → s.Places P (f u x)) : s.Places P (l.foldl f t) :=
  List.foldlRecOn (motive := s.Places P) l f h fun u hu x hx => hf u x hx hu

theorem State.Places.forRange {n : Nat} {f : Nat → State → State} (h : s.Places P t)
    (hf : ∀ i u, i < n → s.Places P u → s.Places P (f i u)) : s.Places P (forRange n f t) :=
  forRange_ind (I := fun _ u => s.Places P u) h hf

theorem State.Places.run (h : s.Places P t) (j : Nat) : t.run j = s.run j := by rw [State.run, h.jobs, State.run]

theorem State.Places.slotParts (h : s.Places P t) (j : Nat) : t.slotParts j = s.slotParts j := State.slotParts_congr h.owner j

end

/-! ## An image in an entry -/

/-- Registers that an image placed in an entry writes: its state, step and position, its tumblers, and contexts of flows. -/
def EntryReg (p e a : Nat) : Prop :=
  a = CAM_HOST_W0 p e ∨ a = CAM_HOST_W6 p e ∨ a = CAM_HOST_W7 p e ∨ (partBase p + 0x40000 ≤ a ∧ a < partBase p + 0x50000) ∨
  (0x800000 ≤ a ∧ a < 0xA00000)

section
variable {s t : State} {p e : Nat}

theorem State.tumWin_lt (s : State) (p e : Nat) : (s.tumWin p e).1 < 4096 ∧ (s.tumWin p e).2 < 8192 := by
  have h1 := s.fld_lt (CAM_RING_TWIN_TWIN_BASE p (e - 32))
  have h2 := s.fld_lt (CAM_RING_TWIN_TWIN_SIZE p (e - 32))
  have h3 := s.fld_lt (CAM_HOST_W5_TWIN_BASE p e)
  have h4 := s.fld_lt (CAM_HOST_W5_TWIN_SIZE p e)
  simp only [CAM_RING_TWIN_TWIN_BASE, CAM_RING_TWIN_TWIN_SIZE, CAM_HOST_W5_TWIN_BASE, CAM_HOST_W5_TWIN_SIZE] at h1 h2 h3 h4
  unfold State.tumWin
  simp only [CAM_RING_TWIN_TWIN_BASE, CAM_RING_TWIN_TWIN_SIZE, CAM_HOST_W5_TWIN_BASE, CAM_HOST_W5_TWIN_SIZE]
  split <;> constructor <;> simp only [] <;> omega

theorem entryReg_tmbValue {w i : Nat} (hw : w < 4096) (hi : i < 8192) : EntryReg p e (TMB_VALUE p (w + i)) := by
  simp only [EntryReg, TMB_VALUE]
  omega

theorem entryReg_tmbSnap {w i : Nat} (hw : w < 4096) (hi : i < 8192) : EntryReg p e (TMB_SNAP p (w + i)) := by
  simp only [EntryReg, TMB_SNAP]
  omega

theorem entryReg_flow {n a : Nat} (hn : n < 16384) (h1 : FLW_CTX n ≤ a) (h2 : a < FLW_CTX (n + 1)) : EntryReg p e a := by
  simp only [EntryReg, FLW_CTX] at *
  omega

theorem State.Places.installSeq (h : s.Places (EntryReg p e) t) (l : List Nat) : s.Places (EntryReg p e) (t.installSeq l) := by
  have hn : mField l 0 2 % 16384 < 16384 := Nat.mod_lt _ (by omega)
  have hseq := h.setFld (f := fcSeq (mField l 0 2 % 16384)) (mField l 4 4)
    (entryReg_flow hn (by simp only [fcSeq]; omega) (by simp only [fcSeq, FLW_CTX]; omega))
  unfold State.installSeq
  simp only []
  split
  · exact hseq.forRange fun i u hi hu => hu.setReg _ (entryReg_flow hn (by omega) (by simp only [FLW_CTX]; omega))
  · exact hseq

theorem State.Places.installImage (h : s.Places (EntryReg p e) t) (img : List (Nat × Bool)) :
    s.Places (EntryReg p e) (t.installImage p e img) := by
  unfold State.installImage
  simp only []
  refine State.Places.killIssued (State.Places.clearShard (State.Places.foldl (State.Places.foldl (State.Places.forRange
    (State.Places.forRange ((h.setFld _ ?_).setFld _ ?_) fun i u hi hu => ?_) fun i u _ hu => hu.installSeq _)
    fun u x _ hu => hu.wrDatum ..) fun u x _ hu => hu.wrDatum ..) ..) ..
  · exact .inr (.inl rfl)
  · exact .inr (.inr (.inl rfl))
  · have hi8 := (Nat.lt_min.mp hi).2.trans (State.tumWin_lt _ p e).2
    exact (hu.setFld _ (entryReg_tmbValue (State.tumWin_lt ..).1 hi8)).setFld _ (entryReg_tmbSnap (State.tumWin_lt ..).1 hi8)

end

/-! ## What every register but those of regions may be -/

/-- Registers of the memory regions of a partition. -/
def RegionReg (a : Nat) : Prop := 0x2000000 ≤ a ∧ 0x140200 ≤ a % 0x400000 ∧ a % 0x400000 < 0x140300

theorem reportReg_region {a : Nat} (h : RegionReg a) : reportReg a = false := by
  simp only [RegionReg] at h
  simp [reportReg, EVR_RSEQ, EVR_STATUS, DBG_GSTATUS]
  omega

theorem not_regionReg_low {a : Nat} (h : a < 0x2000000) : ¬ RegionReg a := fun hr => absurd hr.1 (by omega)

theorem not_regionReg_entry {p e a : Nat} (he : e < 32) (h : EntryReg p e a) : ¬ RegionReg a := by
  simp only [EntryReg, RegionReg, CAM_HOST_W0, CAM_HOST_W6, CAM_HOST_W7, partBase] at *
  omega

/-- No region moves. -/
theorem State.Places.slotRegion {s t : State} (h : s.Places (fun a => ¬ RegionReg a) t) (p : Nat) (b : Bool) :
    t.slotRegion p b = s.slotRegion p b := by
  have hfld (f : Fld) (hf : RegionReg f.addr) : t.fld f = s.fld f := h.regs.fld (not_not_intro hf) (reportReg_region hf)
  have hkind (k : Nat) (hk : k < 16) : t.fld (MEM_REGION_KIND_KIND p k) = s.fld (MEM_REGION_KIND_KIND p k) :=
    hfld _ (by simp only [RegionReg, MEM_REGION_KIND_KIND, MEM_REGION_KIND, partBase]; omega)
  have hbase (k : Nat) (hk : k < 16) : t.fld (MEM_REGION_BASE_BASE p k) = s.fld (MEM_REGION_BASE_BASE p k) :=
    hfld _ (by simp only [RegionReg, MEM_REGION_BASE_BASE, MEM_REGION_BASE, partBase]; omega)
  have hlen (k : Nat) (hk : k < 16) : t.fld (MEM_REGION_LEN_LEN p k) = s.fld (MEM_REGION_LEN_LEN p k) :=
    hfld _ (by simp only [RegionReg, MEM_REGION_LEN_LEN, MEM_REGION_LEN, partBase]; omega)
  have hfind (kind : Nat) : (List.range 16).find? (fun k => t.fld (MEM_REGION_KIND_KIND p k) == kind) =
      (List.range 16).find? (fun k => s.fld (MEM_REGION_KIND_KIND p k) == kind) :=
    List.find?_congr fun k hk => by rw [hkind k (List.mem_range.mp hk)]
  rw [State.slotRegion, State.regionOf, hfind, State.slotRegion, State.regionOf]
  refine Option.map_congr fun k hk => ?_
  have hk16 := List.mem_range.mp (List.mem_of_find?_eq_some hk)
  rw [hbase k hk16, hlen k hk16]

/-! ## Slots that move -/

/-- Registers of the slots of a partition. -/
def SlotReg (p a : Nat) : Prop := HSP_SLOT_STATE p ≤ a ∧ a ≤ HSP_SLOT_STATE p + 8

theorem slotReg_state (x : Nat × Bool) : SlotReg x.1 (slotFld x).addr := by
  rw [SlotReg, (slotFld_fits x).1]
  omega

theorem slotReg_epoch (x : Nat × Bool) : SlotReg x.1 (epochFld x).addr := by
  rw [SlotReg, (epochFld_fits x).1]
  split <;> omega

theorem not_regionReg_slot {p a : Nat} (hp : p < 8) (h : SlotReg p a) : ¬ RegionReg a :=
  not_regionReg_low (by simp only [SlotReg, HSP_SLOT_STATE] at h; omega)

section
variable {s t : State} {P : Nat → Prop}

theorem State.regs_setSlot (s : State) (j p : Nat) (b : Bool) (st epoch g mask shape : Nat) :
    (s.setSlot j p b st epoch g mask shape).regs = ((s.setFld (slotFld (p, b)) st).setFld (epochFld (p, b)) epoch).regs := by
  unfold State.setSlot
  simp only []
  split <;> rfl

theorem State.Places.setSlot {p : Nat} (h : s.Places P t) (hp : ∀ a, SlotReg p a → P a) (j : Nat) (b : Bool)
    (st epoch g mask shape : Nat) :
    s.Places P (t.setSlot j p b st epoch g mask shape) := by
  have hset := (h.setFld (f := slotFld (p, b)) st (hp _ (slotReg_state (p, b)))).setFld
    (f := epochFld (p, b)) epoch (hp _ (slotReg_epoch (p, b)))
  unfold State.setSlot
  simp only []
  split
  · exact hset.wrDatum ..
  · exact hset

theorem State.Places.moveSlot {p : Nat} (h : s.Places P t) (hp : ∀ a, SlotReg p a → P a) (j : Nat) (b : Bool) (st : Nat) :
    s.Places P (t.moveSlot j p b st) := by
  unfold State.moveSlot
  split
  · exact h.setSlot hp ..
  · exact h

/-- A move of a slot that has a region changes its state and no other slot's. -/
theorem State.slotState_moveSlot (s : State) (j q : Nat) (c : Bool) {st : Nat} (hst : st < 8) (p : Nat) (b : Bool) :
    (s.moveSlot j q c st).slotState p b = if (q, c) = (p, b) ∧ (s.slotRegion q c).isSome then st else s.slotState p b := by
  obtain ⟨-, hw, hlo⟩ := slotFld_fits (q, c)
  unfold State.moveSlot
  split
  · next hr =>
    rw [hr, State.slotState_eq, State.fld_of_reg (State.reg_congr (State.regs_setSlot ..) _),
      State.fld_setFld_apart _ _ _ _ (epochFld_apart_slot ..) (epochFld_fits _).2]
    split
    · next h =>
      rw [h.1] at hw hlo ⊢
      rw [State.fld_setFld_self _ _ _ (by omega), hw]
      exact Nat.mod_eq_of_lt hst
    · next h =>
      rw [State.fld_setFld_apart _ _ _ _ (slotFld_apart fun e => h ⟨e, rfl⟩) (by omega)]
      rfl
  · next hr => rw [hr, if_neg (by simp)]

end

/-! ## What a restore does to logs, entries and slots -/

section
variable {s t : State} {P : Nat → Prop}

/-- Registers of a partition's log. -/
def LogReg (p a : Nat) : Prop := 0x1208800 + 16 * p ≤ a ∧ a < 0x1208810 + 16 * p

theorem not_regionReg_log {p a : Nat} (hp : p < 8) (h : LogReg p a) : ¬ RegionReg a :=
  not_regionReg_low (by simp only [LogReg] at h; omega)

theorem State.Places.logBroken (h : s.Places P t) (l : List (Nat × Nat × Nat)) : s.Places P { t with logBroken := l } :=
  ⟨h.jobs, h.owner, h.rebuilds, h.regs.of_regs rfl⟩

theorem State.Places.logKeep {p : Nat} (h : s.Places P t) (hp : ∀ a, LogReg p a → P a) (f : Nat → Bool) :
    s.Places P (t.logKeep p f) := by
  have htail : P (RCV_LOG_TAIL p) := hp _ ⟨by simp only [RCV_LOG_TAIL]; omega, by simp only [RCV_LOG_TAIL]; omega⟩
  have hold : P (RCV_LOG_OLDEST p) := hp _ ⟨by simp only [RCV_LOG_OLDEST]; omega, by simp only [RCV_LOG_OLDEST]; omega⟩
  have huse : P (RCV_LOG_USE p) := hp _ ⟨by simp only [RCV_LOG_USE]; omega, by simp only [RCV_LOG_USE]; omega⟩
  unfold State.logKeep
  simp only []
  refine State.Places.setFld (State.Places.setFld (State.Places.logBroken (State.Places.setFld (State.Places.setFld
    (h.foldl fun u x _ hu => hu.wrDatum ..) _ htail) 0 huse) _) _ huse) _ hold

theorem State.Places.logsKeep (h : s.Places (fun a => ¬ RegionReg a) t) (j : Nat) (f : Nat → Bool) :
    s.Places (fun a => ¬ RegionReg a) (t.logsKeep j f) :=
  h.foldl fun _ _ hp hu => hu.logKeep (fun _ => not_regionReg_log (State.slotParts_lt hp)) f

theorem State.Places.loadEntries (h : s.Places (fun a => ¬ RegionReg a) t) {l : List (Nat × Nat × Nat)} (hl : ∀ x ∈ l, x.2.2 < 32) :
    s.Places (fun a => ¬ RegionReg a) (t.loadEntries l) :=
  h.foldl fun _ x hx hu => (hu.setFld (f := CAM_HOST_W0_STATE x.2.1 x.2.2) 1 (not_regionReg_entry (hl x hx) (.inl rfl))).killIssued ..

/-- An image in an entry that runs. -/
def State.placeImage (s : State) (p e : Nat) (img : List (Nat × Bool)) : State :=
  (s.installImage p e img).setFld (CAM_HOST_W0_STATE p e) 2

theorem State.Places.placeImage {p e : Nat} (h : s.Places P t) (hp : ∀ a, EntryReg p e a → P a) (img : List (Nat × Bool)) :
    s.Places P (t.placeImage p e img) :=
  h.trans ((((State.Places.refl t (EntryReg p e)).installImage img).setFld (f := CAM_HOST_W0_STATE p e) 2 (.inl rfl)).mono hp)

/-- Every slot of a job moves to one state. -/
def State.moveSlots (s : State) (j st : Nat) : State :=
  (s.slotParts j).foldl (fun t p => [false, true].foldl (fun u b => u.moveSlot j p b st) t) s

theorem State.moveSlots_eq (s : State) (j st : Nat) :
    s.moveSlots j st = (s.jobSlots j).foldl (fun u x => u.moveSlot j x.1 x.2 st) s :=
  s.foldl_slotParts j (fun u p b => u.moveSlot j p b st) s

theorem State.Places.moveJobSlot {j : Nat} (h : s.Places (fun a => ¬ RegionReg a) t) {u : State} {x : Nat × Bool}
    (hx : x ∈ u.jobSlots j) (st : Nat) :
    s.Places (fun a => ¬ RegionReg a) (t.moveSlot j x.1 x.2 st) :=
  h.moveSlot (fun _ => not_regionReg_slot (State.slotParts_lt (State.mem_jobSlots.mp hx))) ..

theorem State.Places.moveSlots {j : Nat} (h : s.Places (fun a => ¬ RegionReg a) t) (st : Nat) :
    s.Places (fun a => ¬ RegionReg a) (t.moveSlots j st) := by
  rw [State.moveSlots_eq]
  exact h.foldl fun _ _ hx hu => hu.moveJobSlot hx st

theorem State.slotState_moveSlots (s : State) {j st p : Nat} {b : Bool} (hst : st < 8) (hp : p ∈ s.slotParts j)
    (hr : (s.slotRegion p b).isSome = true) : (s.moveSlots j st).slotState p b = st := by
  rw [State.moveSlots_eq]
  refine foldl_brings (I := s.Places (fun a => ¬ RegionReg a)) (Q := fun t => t.slotState p b = st) (x := (p, b))
    (State.mem_jobSlots.mpr hp) (.refl ..) (fun t y hy ht => ht.moveJobSlot hy st) (fun t ht => ?_) (fun t y _ _ hq => ?_)
  · rw [State.slotState_moveSlot _ _ _ _ hst, if_pos ⟨rfl, by rw [ht.slotRegion, hr]⟩]
  · rw [State.slotState_moveSlot _ _ _ _ hst]
    split
    · rfl
    · exact hq

theorem State.Places.restoreSlots {j : Nat} (h : s.Places (fun _ => True) t) (e shape : Nat) :
    s.Places (fun _ => True) (t.restoreSlots j e shape) := by
  unfold State.restoreSlots
  rw [State.foldl_slotParts t j]
  refine h.foldl fun u x _ hu => ?_
  split
  · exact hu
  · split
    · exact hu.moveSlot (fun _ _ => trivial) ..
    · split
      · exact hu.moveSlot (fun _ _ => trivial) ..
      · exact hu.moveSlot (fun _ _ => trivial) ..

end

/-! ## The job starts again (R235, R335, R369) -/

/-- Registers that the return of a job to a hinge writes. -/
def RestartReg (j a : Nat) : Prop :=
  a = RCV_J_STATUS j ∨ a = RCV_J_REPLAY j ∨ a = HSP_J_STATUS j ∨ ∃ p, a = CAM_HINGE_STATUS p

/-- A job back at a hinge: its own step comes first, and nothing of the steps before is left. -/
structure JobRun.RestartsAt (q : JobRun) (e : Nat) : Prop where
  step : q.step = e
  first : q.first = true
  arrived : q.arrived = false
  early : q.early = true
  notices : q.notices = []
  cut : q.cut = none

theorem State.setPhase_only (s : State) (j v : Nat) : s.OnlyRegs (s.setPhase j v) (fun a => ∃ p, a = CAM_HINGE_STATUS p) :=
  List.foldlRecOn (motive := fun t => s.OnlyRegs t _) (s.slotParts j) _ (.refl s _) fun _ ht p _ => ht.setFld v ⟨p, rfl⟩

/-- The status of a job that returns to a hinge: no recovery, no replay, no set open. -/
def State.statusCleared (s : State) (j : Nat) : State :=
  (((s.setFld (RCV_J_STATUS_PHASE j) 0).setFld (RCV_J_REPLAY_EPOCH j) 0xFFFFFFFF).setFld (HSP_J_STATUS_SET_OPEN j) 0).setFld
    (HSP_J_STATUS_COMMIT_NEXT j) 0

theorem State.statusCleared_effect (s : State) (j : Nat) :
    (s.statusCleared j).fld (RCV_J_STATUS_PHASE j) = 0 ∧ (s.statusCleared j).fld (HSP_J_STATUS_SET_OPEN j) = 0 ∧
    s.OnlyRegs (s.statusCleared j) (RestartReg j) := by
  have hreplay : (RCV_J_REPLAY_EPOCH j).apart (RCV_J_STATUS_PHASE j) :=
    .inl (by simp only [RCV_J_STATUS_PHASE, RCV_J_STATUS, RCV_J_REPLAY_EPOCH, RCV_J_REPLAY]; omega)
  have hset (f : Fld) (hf : f.addr = HSP_J_STATUS j) : f.apart (RCV_J_STATUS_PHASE j) :=
    .inl (by rw [hf]; simp only [RCV_J_STATUS_PHASE, RCV_J_STATUS, HSP_J_STATUS]; omega)
  refine ⟨?_, ?_, ?_⟩
  · rw [State.statusCleared, State.fld_setFld_apart _ _ _ _ (hset _ rfl) (Nat.le_of_ble_eq_true rfl),
      State.fld_setFld_apart _ _ _ _ (hset _ rfl) (Nat.le_of_ble_eq_true rfl),
      State.fld_setFld_apart _ _ _ _ hreplay (Nat.le_of_ble_eq_true rfl), State.fld_setFld_self _ _ _ (Nat.le_of_ble_eq_true rfl),
      Nat.zero_mod]
  · rw [State.statusCleared, State.fld_setFld_above _ _ (Nat.le_of_ble_eq_true rfl) (Nat.le_of_ble_eq_true rfl),
      State.fld_setFld_self _ _ _ (Nat.le_of_ble_eq_true rfl), Nat.zero_mod]
  · exact ((((State.OnlyRegs.refl s _).setFld _ (.inl rfl)).setFld _ (.inr (.inl rfl))).setFld _ (.inr (.inr (.inl rfl)))).setFld _
      (.inr (.inr (.inl rfl)))

theorem State.regs_restart (s : State) (j e : Nat) : (s.restart j e).regs = ((s.statusCleared j).setPhase j 1).regs := rfl

theorem State.restart_effect (s : State) {j : Nat} (hj : j < 8) (e : Nat) :
    let t := s.restart j e
    t.fld (RCV_J_STATUS_PHASE j) = 0 ∧ t.flag (HSP_J_STATUS_SET_OPEN j) = false ∧ t.rebuilds = s.rebuilds ∧
    s.RegsKept t (RestartReg j) ∧ ∀ r, s.run j = some r → ∃ q, t.run j = some q ∧ q.RestartsAt e := by
  obtain ⟨hphase, hopen, hbare, hregs⟩ := s.statusCleared_effect j
  obtain ⟨hbare', hregs'⟩ := (s.statusCleared j).setPhase_only j 1
  have hb := hbare'.trans hbare
  have hlow (a : Nat) (h1 : 0x400000 ≤ a) (h2 : a < 0x1400000) : (s.restart j e).reg a = (s.statusCleared j).reg a := by
    rw [State.reg_congr (s.regs_restart j e)]
    refine hregs' a ?_ (reportReg_fabric h1 h2)
    rintro ⟨p, rfl⟩
    simp only [CAM_HINGE_STATUS, partBase] at h2
    omega
  refine ⟨?_, ?_, (State.rebuilds_of_bare hb :), ?_, fun r hr => ?_⟩
  · rw [State.fld_of_reg (hlow _ ?_ ?_), hphase] <;> simp only [RCV_J_STATUS_PHASE, RCV_J_STATUS] <;> omega
  · rw [State.flag, State.fld_of_reg (hlow _ ?_ ?_), hopen]
    · rfl
    · simp only [HSP_J_STATUS_SET_OPEN, HSP_J_STATUS]; omega
    · simp only [HSP_J_STATUS_SET_OPEN, HSP_J_STATUS]; omega
  · exact (hregs.trans (hregs'.mono fun _ ha => .inr (.inr (.inr ha)))).of_regs (s.regs_restart j e)
  · have hrun : ((s.statusCleared j).setPhase j 1).run j = some r := by
      rw [State.run, State.jobs_of_bare hb]
      exact hr
    exact ⟨_, State.run_updRun hrun _, rfl, rfl, rfl, rfl, rfl, rfl⟩

/-- Hasp registers other than the job's status stand. -/
theorem State.fld_restart_hasp {s : State} {j e : Nat} (hj : j < 8) {f : Fld} (h : 0x1200000 ≤ f.addr ∧ f.addr < 0x1208000)
    (hne : f.addr ≠ HSP_J_STATUS j) : (s.restart j e).fld f = s.fld f := by
  obtain ⟨-, -, -, hregs, -⟩ := s.restart_effect hj e
  refine hregs.fld ?_ (reportReg_fabric (by omega) (by omega))
  rintro (h' | h' | h' | ⟨p, h'⟩)
  · simp only [RCV_J_STATUS] at h'; omega
  · simp only [RCV_J_REPLAY] at h'; omega
  · exact hne h'
  · simp only [CAM_HINGE_STATUS, partBase] at h'; omega

/-! ## A restore from memory ends (R338 steps 4 and 5) -/

/-- The rebuilds of a job's restore. -/
def State.restoring (s : State) (j : Nat) : List Rebuild := s.rebuilds.filter (fun b => b.job == j && b.use == 0)

/-- The images of a restore stand in their entries. -/
def State.imagesPlaced (s : State) (j : Nat) : State :=
  (s.restoring j).foldl (fun u b => match b.img with
    | some img => u.placeImage b.part b.entry img
    | none => u) s

/-- The module once the rebuilds of a restore are taken: slots, epoch and job stand at its hinge. -/
def State.restored (s : State) (j e shape : Nat) : State :=
  ((({ s with rebuilds := s.rebuilds.filter (fun b => !(b.job == j && b.use == 0)) } : State).restoreSlots j e shape).setFld
    (HSP_J_EPOCH_EPOCH j) e).restart j e

section
variable {s : State} {j e : Nat} {x : Restore} {r : JobRun}

theorem State.mem_restoring {b : Rebuild} : b ∈ s.restoring j ↔ b ∈ s.rebuilds ∧ b.job = j ∧ b.use = 0 := by
  simp [State.restoring]

theorem State.restoring_all : (s.restoring j).all (fun b => b.img.isSome) = true ↔
    ∀ b ∈ s.rebuilds, b.job = j → b.use = 0 → b.img ≠ none := by
  simp only [List.all_eq_true, State.mem_restoring, and_imp, Option.isSome_iff_ne_none]

theorem execHaspRebuildComplete_eq (hx : s.restore j = some x) (hr : s.run j = some r) (he : x.epoch = some e) :
    exec (.haspRebuildComplete j) s = .next (if (s.restoring j).all (fun b => b.img.isSome) then
      (((s.imagesPlaced j).restored j e r.shape).setRestore j none).endWith x.op stOk [e] else s) := by
  change execHaspRebuildComplete j s = _
  rw [execHaspRebuildComplete, hx, hr]
  simp only [he]
  by_cases h : (s.restoring j).all (fun b => b.img.isSome) = true
  · rw [if_pos h]
    exact if_neg (by rw [Bool.not_eq_true]; exact congrArg (!·) h)
  · rw [if_neg h]
    exact if_pos (by rw [Bool.not_eq_true] at h; exact congrArg (!·) h)

theorem execHaspRebuildComplete_none (h : s.restore j = none ∨ s.run j = none ∨ ∃ x, s.restore j = some x ∧ x.epoch = none) :
    exec (.haspRebuildComplete j) s = .next s := by
  change execHaspRebuildComplete j s = _
  unfold execHaspRebuildComplete
  split
  · next x r hx hr =>
    rcases h with h | h | ⟨y, h, hy⟩
    · exact absurd (hx.symm.trans h) (Option.some_ne_none x)
    · exact absurd (hr.symm.trans h) (Option.some_ne_none r)
    · rw [Option.some.inj (hx.symm.trans h), hy]
  · rfl

theorem State.imagesPlaced_places (s : State) (j : Nat) : s.Places (fun _ => True) (s.imagesPlaced j) :=
  (State.Places.refl s _).foldl fun u b _ hu => by
    split
    · exact hu.placeImage (fun _ _ => trivial) _
    · exact hu

theorem State.restored_effect (s : State) (hj : j < 8) (e shape : Nat) (hr : s.run j = some r) :
    let u := s.restored j e shape
    u.fld (HSP_J_EPOCH_EPOCH j) = e % 2 ^ 32 ∧ u.fld (RCV_J_STATUS_PHASE j) = 0 ∧ u.flag (HSP_J_STATUS_SET_OPEN j) = false ∧
    (∀ b ∈ u.rebuilds, ¬(b.job = j ∧ b.use = 0)) ∧ ∃ q, u.run j = some q ∧ q.RestartsAt e := by
  unfold State.restored
  have hslots := (State.Places.refl ({ s with rebuilds := s.rebuilds.filter (fun b => !(b.job == j && b.use == 0)) } : State)
    (fun _ => True)).restoreSlots (j := j) e shape
  generalize State.restoreSlots _ j e shape = v at hslots ⊢
  obtain ⟨hphase, hopen, hreb, -, hrun⟩ := (v.setFld (HSP_J_EPOCH_EPOCH j) e).restart_effect hj e
  refine ⟨?_, hphase, hopen, fun b hb h => ?_, hrun r ((State.run_setFld ..).trans ((hslots.run j).trans hr))⟩
  · rw [State.fld_restart_hasp hj (by simp only [HSP_J_EPOCH_EPOCH, HSP_J_EPOCH]; omega)
      (by simp only [HSP_J_EPOCH_EPOCH, HSP_J_EPOCH, HSP_J_STATUS]; omega)]
    exact State.fld_setFld_self _ _ _ (Nat.le_refl 32)
  · rw [hreb, State.rebuilds_setFld, hslots.rebuilds] at hb
    simpa [h] using (List.mem_filter.mp hb).2

end
end Sys2Proof.Machine

/-! SUPPORT. The submitted operations on Hasp sets: drains, restores and durable restores (R338, R340, R341). -/
namespace Sys2Proof.Machine

/-! ## Lists sorted by a key -/

theorem mem_insertKey {α : Type} {f : α → Nat} {a x : α} {l : List α} : x ∈ insertKey f a l ↔ x = a ∨ x ∈ l := by
  induction l with
  | nil => simp [insertKey]
  | cons b l ih =>
    rw [insertKey]
    split
    · simp
    · simp only [List.mem_cons, ih]
      tauto

theorem mem_sortKey {α : Type} {f : α → Nat} {x : α} {l : List α} : x ∈ sortKey f l ↔ x ∈ l := by
  induction l with
  | nil => simp [sortKey]
  | cons b l ih => rw [sortKey, List.foldr_cons, ← sortKey, mem_insertKey, ih, List.mem_cons]

section
variable {s u : State} {f : Nat} {o : OpenOp} {r : JobRun} {g : ContGroup} {bufs : List Nat} {objs : List (Nat × List (List (List Nat)))}

/-! ## Operations that a job slot does not take -/

/-- The job that an operation names by its first argument. -/
def State.opJob (s : State) (o : OpenOp) : Option JobRun := if o.arg 0 < 8 then s.run (o.arg 0) else none

theorem State.opJob_none (h : 8 ≤ o.arg 0 ∨ u.run (o.arg 0) = none) : u.opJob o = none := by
  rw [State.opJob]
  split
  · exact h.resolve_left (by omega)
  · rfl

theorem State.opJob_some (hj : o.arg 0 < 8) (hr : u.run (o.arg 0) = some r) : u.opJob o = some r := (if_pos hj).trans hr

theorem execOpHaspDrain_noJob (h : s.submit f 6 = (u, some o)) (hj : u.opJob o = none) :
    exec (.opHaspDrain f bufs) s = .next (u.abortArg o 0) := by
  change execOpHaspDrain f bufs s = _
  rw [State.opJob] at hj
  simp only [execOpHaspDrain, h, hj]

theorem execOpHaspRestore_noJob (h : s.submit f 7 = (u, some o)) (hj : u.opJob o = none) :
    exec (.opHaspRestore f) s = .next (u.abortArg o 0) := by
  change execOpHaspRestore f s = _
  rw [State.opJob] at hj
  simp only [execOpHaspRestore, h, hj]

theorem execOpDurableRestore_noJob (h : s.submit f 8 = (u, some o)) (hj : u.opJob o = none) :
    exec (.opDurableRestore f objs) s = .next (u.abortArg o 0) := by
  change execOpDurableRestore f objs s = _
  rw [State.opJob] at hj
  simp only [execOpDurableRestore, h, hj]

/-! ## Drains -/

/-- The epoch that a drain is asked for: the committed one where the argument names none. -/
def State.drainEpoch (s : State) (o : OpenOp) : Nat :=
  if o.arg 1 = 0xFFFFFFFF then s.fld (HSP_J_EPOCH_EPOCH (o.arg 0)) else o.arg 1

/-- Whether another operation on the job's sets stands in the way of a drain. -/
def State.drainBusy (s : State) (j : Nat) : Bool :=
  (s.restore j).isSome || s.haspOp j 8 || decide (1 < (s.ops.filter (fun x => x.op == 6 && x.arg 0 == j)).length)

/-- Whether no slot of the job holds a committed set of an epoch. -/
def State.notKept (s : State) (j e : Nat) : Bool :=
  (s.slotParts j).all (fun p => match s.slotOf p e with | some b => decide (s.slotState p b < 3) | none => true)

/-- A drain under way: its shards, epoch and buffers stand with its arguments. -/
def OpenOp.draining (o : OpenOp) (n e : Nat) (bufs : List Nat) : OpenOp := { o with args := o.args ++ [n, e] ++ bufs }

/-- The module as a drain starts: the operation is noted, and the slots of its epoch are pinned. -/
def State.drainStarted (s : State) (o o' : OpenOp) (e : Nat) : State :=
  ({ s with ops := s.ops.map (fun x => if x = o then o' else x) } : State).pinSlots (o.arg 0) e 1

theorem execOpHaspDrain_badTarget (h : s.submit f 6 = (u, some o)) (hj : u.opJob o = some r) (h2 : 2 ≤ o.arg 2) :
    exec (.opHaspDrain f bufs) s = .next (u.abortArg o 2) := by
  change execOpHaspDrain f bufs s = _
  rw [State.opJob] at hj
  simp only [execOpHaspDrain, h, hj]
  exact if_pos h2

theorem execOpHaspDrain_busy (h : s.submit f 6 = (u, some o)) (hj : u.opJob o = some r) (h2 : o.arg 2 < 2)
    (hb : u.drainBusy (o.arg 0) = true) : exec (.opHaspDrain f bufs) s = .next (u.endWith o stBusy []) := by
  change execOpHaspDrain f bufs s = _
  rw [State.opJob] at hj
  simp only [execOpHaspDrain, h, hj]
  exact (if_neg (Nat.not_le.mpr h2)).trans (if_pos hb)

theorem execOpHaspDrain_starts (h : s.submit f 6 = (u, some o)) (hj : u.opJob o = some r) (h2 : o.arg 2 < 2)
    (hb : u.drainBusy (o.arg 0) = false) (hk : u.notKept (o.arg 0) (u.drainEpoch o) = false) (hg : r.group = some g) :
    let j := o.arg 0
    let l := u.placedHere j g
    let o' := o.draining l.length (u.drainEpoch o) bufs
    let v := u.drainStarted o o' (u.drainEpoch o)
    exec (.opHaspDrain f bufs) s = .next (if l.isEmpty then v.endDrain o' stOk [u.drainEpoch o, 0, 0, 0]
      else l.foldl (fun t x => t.startRebuild j r g x.1 x.2.1 x.2.2 2 (u.drainEpoch o)) v) := by
  change execOpHaspDrain f bufs s = _
  rw [State.opJob] at hj
  simp only [execOpHaspDrain, h, hj, hg]
  refine (if_neg (Nat.not_le.mpr h2)).trans ((if_neg (Bool.not_eq_true _ ▸ hb)).trans ((if_neg (Bool.not_eq_true _ ▸ hk)).trans ?_))
  split <;> rfl

theorem State.notKept_false {j e : Nat} (h : ∃ p ∈ u.slotParts j, ∃ b, u.slotOf p e = some b ∧ 3 ≤ u.slotState p b) :
    u.notKept j e = false := by
  obtain ⟨p, hp, b, hb, h3⟩ := h
  refine List.all_eq_false.mpr ⟨p, hp, ?_⟩
  simp only [hb, decide_eq_true_eq]
  omega

theorem State.drainStarted_effect (u : State) (o o' : OpenOp) (e : Nat) :
    let v := u.drainStarted o o' e
    v.ops = u.ops.map (fun x => if x = o then o' else x) ∧
    (∀ p ∈ u.slotParts (o.arg 0), ∀ b, u.slotEpoch p b = e → v.slotPin p b = true) ∧
    v.bare = { u.bare with ops := v.ops } ∧ u.RegsKept v (u.PinReg (o.arg 0)) := by
  unfold State.drainStarted
  generalize hw : ({ u with ops := u.ops.map (fun x => if x = o then o' else x) } : State) = w
  obtain ⟨hbare, hregs⟩ := w.pinSlots_only (o.arg 0) e 1
  have hops := State.ops_of_bare hbare
  have hpin (p b) (hp : p ∈ w.slotParts (o.arg 0)) (he : w.slotEpoch p b = e) := w.slotPin_pinSlots true hp he
  rw [Bool.toNat_true] at hpin
  generalize w.pinSlots (o.arg 0) e 1 = v at *
  subst hw
  exact ⟨hops, fun p hp b he => hpin p b hp he, hbare.trans (by rw [hops]; rfl), hregs⟩

/-! ## Restores -/

/-- The restore of an operation as it starts. -/
def State.restoreStarted (s : State) (o : OpenOp) : State := s.setRestore (o.arg 0) (some ⟨o, [], none, [], false, none⟩)

/-- Messages that came before a restore are taken by it. -/
def State.takeHeld (s : State) (j : Nat) : State :=
  (s.restoreMsgs.filter (fun m => mByte m.2 1 % 8 == j)).foldl (fun t m => t.takeRestoreMsg m.1 m.2)
    { s with restoreMsgs := s.restoreMsgs.filter (fun m => mByte m.2 1 % 8 != j) }

theorem State.takeHeld_none {j : Nat} (h : ∀ m ∈ s.restoreMsgs, mByte m.2 1 % 8 ≠ j) : s.takeHeld j = s := by
  have hheld : s.restoreMsgs.filter (fun m => mByte m.2 1 % 8 == j) = [] :=
    List.filter_eq_nil_iff.mpr fun m hm => by simpa using h m hm
  have hrest : s.restoreMsgs.filter (fun m => mByte m.2 1 % 8 != j) = s.restoreMsgs :=
    List.filter_eq_self.mpr fun m hm => by simpa using h m hm
  rw [State.takeHeld, hheld, hrest]
  rfl

/-- The summaries of the slots of a group's homes. -/
def State.summaries (s : State) (j : Nat) (r : JobRun) (g : ContGroup) : List (List Nat) :=
  g.homes.flatMap (fun p => [s.slotSummary j r g p false, s.slotSummary j r g p true])

/-- The module with messages sent. -/
def State.sendAll (s : State) (dst j : Nat) (ms : List (List Nat)) : State := ms.foldl (fun t m => t.sendCtl dst j m) s

theorem State.restoreMsgs_sendAll (s : State) (dst j : Nat) (ms : List (List Nat)) :
    (s.sendAll dst j ms).restoreMsgs = s.restoreMsgs :=
  List.foldlRecOn (motive := fun t : State => t.restoreMsgs = s.restoreMsgs) ms _ rfl fun t ht _ _ =>
    (congrArg State.restoreMsgs (t.bare_sendPkt ..)).trans ht

/-- Whether another operation on the job's sets stands in the way of a restore. -/
def State.restoreBusy (s : State) (j : Nat) : Bool := s.haspOp j 6 || (s.restore j).isSome || s.haspOp j 8

theorem execOpHaspRestore_busy (h : s.submit f 7 = (u, some o)) (hj : u.opJob o = some r)
    (hb : u.restoreBusy (o.arg 0) = true) : exec (.opHaspRestore f) s = .next (u.endWith o stBusy []) := by
  change execOpHaspRestore f s = _
  rw [State.opJob] at hj
  simp only [execOpHaspRestore, h, hj]
  exact if_pos hb

theorem execOpHaspRestore_alone (h : s.submit f 7 = (u, some o)) (hj : u.opJob o = some r)
    (hb : u.restoreBusy (o.arg 0) = false) (hg : r.group = none) :
    exec (.opHaspRestore f) s = .next (((u.restoreStarted o).takeHeld (o.arg 0)).trySendUse (o.arg 0)) := by
  change execOpHaspRestore f s = _
  rw [State.opJob] at hj
  simp only [execOpHaspRestore, h, hj, hg]
  exact if_neg (Bool.not_eq_true _ ▸ hb)

theorem execOpHaspRestore_member (h : s.submit f 7 = (u, some o)) (hj : u.opJob o = some r)
    (hb : u.restoreBusy (o.arg 0) = false) (hg : r.group = some g) (hl : (u.restoreStarted o).isLeader g = false) :
    exec (.opHaspRestore f) s = .next ((((u.restoreStarted o).sendAll g.leader (o.arg 0)
      ((u.restoreStarted o).summaries (o.arg 0) r g)).takeHeld (o.arg 0)).trySendUse (o.arg 0)) := by
  change execOpHaspRestore f s = _
  rw [State.opJob] at hj
  rw [State.restoreStarted] at hl
  simp only [execOpHaspRestore, h, hj, hg, hl]
  exact if_neg (Bool.not_eq_true _ ▸ hb)

/-! ## Durable restores -/

/-- The shards of a job on this module, ascending, each with partition and entry. -/
def State.jobShards (s : State) (j : Nat) (r : JobRun) : List (Nat × Nat × Nat) :=
  sortKey (·.1) (r.groups.flatMap (fun g => s.placedHere j g))

/-- The image of a shard that the objects of storage give. -/
def State.storedImage (s : State) (j e : Nat) (r : JobRun) (objs : List (Nat × List (List (List Nat)))) (lsid : Nat) :
    Option (List (Nat × Bool)) :=
  durableImage (s.fld (FAB_JOB_ID_JOB_ID j)) e r.shape lsid (((objs.find? (fun y => y.1 == lsid)).map (·.2)).getD [])

/-- Images placed in emptied entries; no log is kept. -/
def State.imagesLoaded (s : State) (j : Nat) (l : List (Nat × Nat × Nat)) (image : Nat → Option (List (Nat × Bool))) : State :=
  l.foldl (fun t x => match image x.1 with
    | some i => t.placeImage x.2.1 x.2.2 i
    | none => t) ((s.logsKeep j (fun _ => false)).loadEntries l)

/-- The module after a durable restore: both slots are empty, no epoch is committed, and the job starts after its own. -/
def State.durablyRestored (s : State) (j e : Nat) (l : List (Nat × Nat × Nat)) (image : Nat → Option (List (Nat × Bool))) : State :=
  (((s.imagesLoaded j l image).moveSlots j slEmpty).setFld (HSP_J_EPOCH_EPOCH j) 0xFFFFFFFF).restart j e

/-- Whether an image is at hand that does not fit its entry. -/
def State.misfit (s : State) (image : Nat → Option (List (Nat × Bool))) (x : Nat × Nat × Nat) : Bool :=
  match image x.1 with
  | some i => !s.imageFits x.2.1 x.2.2 i
  | none => false

theorem State.rkEntry_placedHere {j : Nat} {x : Nat × Nat × Nat} (h : x ∈ s.placedHere j g) : x.2.2 < 32 := by
  obtain ⟨lsid, -, hl⟩ := List.mem_filterMap.mp h
  split at hl
  · split at hl
    · rw [← Option.some.inj hl]
      exact Nat.mod_lt _ (by decide)
    · exact absurd hl (Option.some_ne_none x).symm
  · exact absurd hl (Option.some_ne_none x).symm

theorem State.rkEntry_jobShards {j : Nat} {x : Nat × Nat × Nat} (h : x ∈ s.jobShards j r) : x.2.2 < 32 := by
  obtain ⟨g, -, hx⟩ := List.mem_flatMap.mp (mem_sortKey.mp h)
  exact State.rkEntry_placedHere hx

theorem State.imagesLoaded_places (s : State) (j : Nat) {l : List (Nat × Nat × Nat)} (hl : ∀ x ∈ l, x.2.2 < 32)
    (image : Nat → Option (List (Nat × Bool))) : s.Places (fun a => ¬ RegionReg a) (s.imagesLoaded j l image) :=
  (((State.Places.refl s _).logsKeep j _).loadEntries hl).foldl fun t x hx ht => by
    split
    · exact ht.placeImage (fun _ => not_regionReg_entry (hl x hx)) _
    · exact ht

theorem State.durablyRestored_effect (s : State) {j : Nat} (hj : j < 8) (e : Nat) {l : List (Nat × Nat × Nat)}
    (hl : ∀ x ∈ l, x.2.2 < 32) (image : Nat → Option (List (Nat × Bool))) (hr : s.run j = some r) :
    let v := s.durablyRestored j e l image
    v.fld (HSP_J_EPOCH_EPOCH j) = 0xFFFFFFFF ∧ v.fld (RCV_J_STATUS_PHASE j) = 0 ∧
    (∀ p ∈ s.slotParts j, ∀ b, (s.slotRegion p b).isSome = true → v.slotState p b = slEmpty) ∧
    ∃ q, v.run j = some q ∧ q.RestartsAt e := by
  have hplaces := s.imagesLoaded_places j hl image
  unfold State.durablyRestored
  generalize s.imagesLoaded j l image = u at hplaces
  have hmoved := hplaces.moveSlots (j := j) slEmpty
  have hempty (p) (b : Bool) (hp : p ∈ s.slotParts j) (hreg : (s.slotRegion p b).isSome = true) :
      (u.moveSlots j slEmpty).slotState p b = slEmpty :=
    u.slotState_moveSlots (by decide) (by rwa [hplaces.slotParts]) (by rwa [hplaces.slotRegion])
  generalize u.moveSlots j slEmpty = w at hmoved hempty
  obtain ⟨hphase, -, -, -, hrun⟩ := (w.setFld (HSP_J_EPOCH_EPOCH j) 0xFFFFFFFF).restart_effect hj e
  refine ⟨?_, hphase, fun p hp b hreg => ?_, hrun r ((State.run_setFld ..).trans ((hmoved.run j).trans hr))⟩
  · rw [State.fld_restart_hasp hj (by simp only [HSP_J_EPOCH_EPOCH, HSP_J_EPOCH]; omega)
      (by simp only [HSP_J_EPOCH_EPOCH, HSP_J_EPOCH, HSP_J_STATUS]; omega)]
    exact State.fld_setFld_self _ _ _ (Nat.le_refl 32)
  · have hp8 := State.slotParts_lt hp
    obtain ⟨haddr, -, -⟩ := slotFld_fits (p, b)
    rw [State.slotState_eq, State.fld_restart_hasp hj (by rw [haddr, HSP_SLOT_STATE]; omega)
      (by rw [haddr, HSP_SLOT_STATE, HSP_J_STATUS]; omega), State.fld_of_reg (State.reg_setFld_ne _ _ _
      (by rw [haddr]; simp only [HSP_SLOT_STATE, HSP_J_EPOCH_EPOCH, HSP_J_EPOCH]; omega))]
    exact hempty p b hp hreg

/-- Whether another operation on the job's sets stands in the way of a durable restore. -/
def State.durableBusy (s : State) (j : Nat) : Bool := s.haspOp j 6 || (s.restore j).isSome

theorem execOpDurableRestore_busy (h : s.submit f 8 = (u, some o)) (hj : u.opJob o = some r) (h2 : o.arg 2 < 2)
    (hb : u.durableBusy (o.arg 0) = true) : exec (.opDurableRestore f objs) s = .next (u.endWith o stBusy []) := by
  change execOpDurableRestore f objs s = _
  rw [State.opJob] at hj
  simp only [execOpDurableRestore, h, hj]
  exact (if_neg (Nat.not_le.mpr h2)).trans (if_pos hb)

/-- A durable restore ends with a shard whose image cannot be had, with one that does not fit, or with all in place (R341). -/
theorem execOpDurableRestore_eq (h : s.submit f 8 = (u, some o)) (hj : u.opJob o = some r) (h2 : o.arg 2 < 2)
    (hb : u.durableBusy (o.arg 0) = false) :
    let j := o.arg 0
    let e := o.arg 1
    let l := u.jobShards j r
    let image := u.storedImage j e r objs
    exec (.opDurableRestore f objs) s = .next (match l.find? (fun x => (image x.1).isNone) with
      | some x => u.endWith o stPoisoned [e, x.1]
      | none => if l.any (u.misfit image) then u.endWith o stBadImage [e] else (u.durablyRestored j e l image).endWith o stOk [e]) := by
  change execOpDurableRestore f objs s = _
  rw [State.opJob] at hj
  simp only [execOpDurableRestore, h, hj]
  refine (if_neg (Nat.not_le.mpr h2)).trans ((if_neg (Bool.not_eq_true _ ▸ hb)).trans ?_)
  rw [List.find?_map, List.any_map, List.foldl_map]
  simp only [State.jobShards, State.storedImage, Function.comp_def]
  generalize List.find? _ (sortKey _ _) = missing
  cases missing with
  | some x => rfl
  | none => exact (apply_ite Host.Outcome.next _ _ _).symm

/-- A chunk that storage refuses ends the restore with its shard. -/
theorem execOpDurableRestore_missing (h : s.submit f 8 = (u, some o)) (hj : u.opJob o = some r) (h2 : o.arg 2 < 2)
    (hb : u.durableBusy (o.arg 0) = false) {x : Nat × Nat × Nat}
    (hx : (u.jobShards (o.arg 0) r).find? (fun x => (u.storedImage (o.arg 0) (o.arg 1) r objs x.1).isNone) = some x) :
    exec (.opDurableRestore f objs) s = .next (u.endWith o stPoisoned [o.arg 1, x.1]) := by
  rw [execOpDurableRestore_eq h hj h2 hb]
  simp only [hx]

/-- With every chunk accepted, the images are judged by whether they fit. -/
theorem execOpDurableRestore_stored (h : s.submit f 8 = (u, some o)) (hj : u.opJob o = some r) (h2 : o.arg 2 < 2)
    (hb : u.durableBusy (o.arg 0) = false)
    (hall : ∀ x ∈ u.jobShards (o.arg 0) r, (u.storedImage (o.arg 0) (o.arg 1) r objs x.1).isSome = true) :
    exec (.opDurableRestore f objs) s =
      .next (if (u.jobShards (o.arg 0) r).any (u.misfit (u.storedImage (o.arg 0) (o.arg 1) r objs)) then u.endWith o stBadImage [o.arg 1]
        else (u.durablyRestored (o.arg 0) (o.arg 1) (u.jobShards (o.arg 0) r) (u.storedImage (o.arg 0) (o.arg 1) r objs)).endWith o stOk
          [o.arg 1]) := by
  have hnone : (u.jobShards (o.arg 0) r).find? (fun x => (u.storedImage (o.arg 0) (o.arg 1) r objs x.1).isNone) = none :=
    List.find?_eq_none.mpr fun x hx => by
      obtain ⟨i, hi⟩ := Option.isSome_iff_exists.mp (hall x hx)
      rw [hi]
      exact Bool.false_ne_true
  rw [execOpDurableRestore_eq h hj h2 hb]
  simp only [hnone]

/-- An image that does not fit its entry ends the restore. -/
theorem execOpDurableRestore_misfit (h : s.submit f 8 = (u, some o)) (hj : u.opJob o = some r) (h2 : o.arg 2 < 2)
    (hb : u.durableBusy (o.arg 0) = false)
    (hall : ∀ x ∈ u.jobShards (o.arg 0) r, (u.storedImage (o.arg 0) (o.arg 1) r objs x.1).isSome = true)
    (hbad : ∃ x ∈ u.jobShards (o.arg 0) r, ∀ i,
      u.storedImage (o.arg 0) (o.arg 1) r objs x.1 = some i → u.imageFits x.2.1 x.2.2 i = false) :
    exec (.opDurableRestore f objs) s = .next (u.endWith o stBadImage [o.arg 1]) := by
  obtain ⟨x, hx, hfit⟩ := hbad
  obtain ⟨i, hi⟩ := Option.isSome_iff_exists.mp (hall x hx)
  have hmis : u.misfit (u.storedImage (o.arg 0) (o.arg 1) r objs) x = true := by simp only [State.misfit, hi, hfit i hi, Bool.not_false]
  rw [execOpDurableRestore_stored h hj h2 hb hall, if_pos (List.any_eq_true.mpr ⟨x, hx, hmis⟩)]

/-- Images that all fit are all placed. -/
theorem execOpDurableRestore_placed (h : s.submit f 8 = (u, some o)) (hj : u.opJob o = some r) (h2 : o.arg 2 < 2)
    (hb : u.durableBusy (o.arg 0) = false)
    (hall : ∀ x ∈ u.jobShards (o.arg 0) r, ∃ i,
      u.storedImage (o.arg 0) (o.arg 1) r objs x.1 = some i ∧ u.imageFits x.2.1 x.2.2 i = true) :
    exec (.opDurableRestore f objs) s = .next ((u.durablyRestored (o.arg 0) (o.arg 1) (u.jobShards (o.arg 0) r)
      (u.storedImage (o.arg 0) (o.arg 1) r objs)).endWith o stOk [o.arg 1]) := by
  have hsome (x) (hx : x ∈ u.jobShards (o.arg 0) r) : (u.storedImage (o.arg 0) (o.arg 1) r objs x.1).isSome = true := by
    obtain ⟨i, hi, -⟩ := hall x hx
    rw [hi, Option.isSome_some]
  have hfit (x) (hx : x ∈ u.jobShards (o.arg 0) r) : ¬ u.misfit (u.storedImage (o.arg 0) (o.arg 1) r objs) x = true := by
    obtain ⟨i, hi, hf⟩ := hall x hx
    simp only [State.misfit, hi, hf, Bool.not_true]
    exact Bool.false_ne_true
  rw [execOpDurableRestore_stored h hj h2 hb hsome, if_neg (by simpa using hfit)]

end

/-! ## The obligation -/

/-- Settles O42: each row is taken branch by branch; what a restore writes on its way is framed by `State.Places`. -/
theorem haspResendsDrainsAndRestores : Obligations.HaspResendsDrainsAndRestores := by
  refine ⟨fun s j p stripe r c hj hr hc => ⟨execHaspChunkTimeout_idle hr hc, fun g hg hok hup hs hopen hdue => ?_⟩,
    fun s j => execDrainTimeout_none, fun s j o ho => ?_, fun s j e x r hj hx hr he => ?_, fun s j => execHaspRebuildComplete_none,
    fun s u f o bufs objs => ⟨fun hnone => ?_, fun r hj hr => ⟨fun h => ?_, fun h => ?_, fun h h2 => ?_⟩⟩⟩
  · -- a chunk whose time is up
    rw [execHaspChunkTimeout_due hr hc hok hup hs hopen hdue, State.askChunk_eq hr hc hg]
    refine ⟨fun h3 => ?_, fun h3 => ⟨s.chunkAwaited j p stripe, ?_⟩⟩
    · rw [if_pos h3]
      exact answers_next (State.chunkGivenUp_effect hr)
    · obtain ⟨hretry, hframe, hregs, hrun⟩ := State.chunkAwaited_effect (p := p) (stripe := stripe) hr
      rw [if_neg (Nat.not_le.mpr h3)]
      exact ⟨hretry, hframe, hregs, hrun, rfl⟩
  · -- the time of a drain is up
    have hop := List.find?_some ho
    rw [Bool.and_eq_true, beq_iff_eq, beq_iff_eq] at hop
    rw [execDrainTimeout_some ho]
    obtain ⟨hops, hended, hrest⟩ := s.endDrain_effect o stTimeout []
    rw [hop.1] at hended
    rw [hop.2] at hrest
    exact answers_next ⟨hops, hended, hrest⟩
  · -- the rebuilds of a restore
    rw [execHaspRebuildComplete_eq hx hr he]
    refine ⟨fun ⟨b, hb, hbj, hbu, himg⟩ => ?_, fun hall => ?_⟩
    · rw [if_neg fun h => State.restoring_all.mp h b hb hbj hbu himg]
    · obtain ⟨hepoch, hphase, hopen, hreb, q, hq, hat⟩ :=
        (s.imagesPlaced j).restored_effect hj e r.shape (((s.imagesPlaced_places j).run j).trans hr)
      rw [if_pos (State.restoring_all.mpr hall)]
      exact ⟨_, rfl, hepoch, hphase, hopen, hreb, q, hq, hat.step, hat.first, hat.arrived, hat.early, hat.notices, hat.cut⟩
  · -- a slot that runs no job
    have hjob := State.opJob_none hnone
    exact ⟨fun h => execOpHaspDrain_noJob h hjob, fun h => execOpHaspRestore_noJob h hjob, fun h => execOpDurableRestore_noJob h hjob⟩
  · -- a drain
    have hjob := State.opJob_some hj hr
    refine ⟨execOpHaspDrain_badTarget h hjob, fun h2 hb => execOpHaspDrain_busy h hjob h2 ?_,
      fun g e h2 hres hdur hone hg he hkept => ?_⟩
    · rw [State.drainBusy, Bool.or_eq_true, Bool.or_eq_true]
      exact .inl hb
    · subst he
      have hfree : u.drainBusy (o.arg 0) = false := by rw [State.drainBusy, hres, hdur, decide_eq_false (Nat.not_lt.mpr hone)]; rfl
      rw [execOpHaspDrain_starts h hjob h2 hfree (State.notKept_false hkept) hg]
      obtain ⟨hops, hpins, hbare, hregs⟩ := u.drainStarted_effect o (o.draining (u.placedHere (o.arg 0) g).length (u.drainEpoch o) bufs)
        (u.drainEpoch o)
      refine ⟨_, _, rfl, hops, hpins, hbare, hregs, fun hl => ?_, fun hl => ?_⟩
      · rw [if_pos (List.isEmpty_iff.mpr hl)]; rfl
      · rw [if_neg (mt List.isEmpty_iff.mp hl)]; rfl
  · -- a restore
    have hjob := State.opJob_some hj hr
    refine ⟨fun hb => execOpHaspRestore_busy h hjob ?_, fun hd hres hdur hmsgs => ?_⟩
    · rw [State.restoreBusy, Bool.or_eq_true, Bool.or_eq_true, or_assoc]
      exact hb
    · have hfree : u.restoreBusy (o.arg 0) = false := by rw [State.restoreBusy, hd, hres, hdur]; rfl
      refine ⟨fun hg => ?_, fun g hg hl => ?_⟩
      · rw [execOpHaspRestore_alone h hjob hfree hg, State.takeHeld_none (s := u.restoreStarted o) hmsgs]
        rfl
      · rw [execOpHaspRestore_member h hjob hfree hg hl, State.takeHeld_none (by rw [State.restoreMsgs_sendAll]; exact hmsgs)]
        rfl
  · -- a durable restore
    have hjob := State.opJob_some hj hr
    refine ⟨fun hb => execOpDurableRestore_busy h hjob h2 ?_, fun hd hres => ?_⟩
    · rw [State.durableBusy, Bool.or_eq_true]
      exact hb
    · have hfree : u.durableBusy (o.arg 0) = false := by rw [State.durableBusy, hd, hres]; rfl
      refine ⟨fun x hx => execOpDurableRestore_missing h hjob h2 hfree hx,
        fun hall hbad => execOpDurableRestore_misfit h hjob h2 hfree hall hbad, fun hall => ?_⟩
      obtain ⟨hepoch, hphase, hempty, q, hq, hat⟩ := u.durablyRestored_effect hj (o.arg 1)
        (l := u.jobShards (o.arg 0) r) (fun x => State.rkEntry_jobShards) (u.storedImage (o.arg 0) (o.arg 1) r objs) hr
      exact ⟨_, execOpDurableRestore_placed h hjob h2 hfree hall, hepoch, hphase, hempty, q, hq, hat.step, hat.first, hat.early⟩

end Sys2Proof.Machine

/-! SUPPORT. Registers back to their default: where the register table's Default column is zero. -/
namespace Sys2Proof.Machine

/-! ## Defaults of the register table -/

/-- Whether a row ends before an address. -/
def RegRow.below (lo : Nat) (r : RegRow) : Bool :=
  match r.dims with
  | [] => decide (r.base + 4 * r.words ≤ lo)
  | (st, ct) :: _ => decide (0 < st) && decide (r.base + ct * st ≤ lo)

/-- Whether a row reads as zero wherever it holds an address from `lo` on and below `hi`: its Default is zero, or it lies outside. -/
def RegRow.zeroAt (lo hi : Nat) (r : RegRow) : Bool :=
  (r.dflt == 0 && r.byIdx.isEmpty) || decide (hi ≤ r.base) || r.below lo

section
variable {lo hi a b : Nat}

/-- A row that ends before an address does not hold it. -/
theorem rowIndex_beyond {r : RegRow} (h : r.below lo = true) (ha : lo ≤ a) : rowIndex r a = none := by
  unfold RegRow.below at h
  unfold rowIndex
  split
  · rfl
  · cases hd : r.dims with
    | nil =>
      simp only [hd, decide_eq_true_eq] at h
      rw [rowIndexGo, if_neg (by simp; omega)]
    | cons d ds =>
      simp only [hd, Bool.and_eq_true, decide_eq_true_eq] at h
      rw [rowIndexGo, if_neg]
      rw [Nat.div_lt_iff_lt_mul h.1]
      omega

theorem findRow_zero {l : List RegRow} (hl : l.all (RegRow.zeroAt lo hi) = true) (h1 : lo ≤ a) (h2 : a < hi) {r : RegRow} {i : Nat}
    (h : findRow l a = some (r, i)) (k : Nat) : r.byIdx.getD k r.dflt = 0 := by
  induction l with
  | nil => exact absurd h (by simp [findRow])
  | cons x t ih =>
    rw [List.all_cons, Bool.and_eq_true] at hl
    rw [findRow] at h
    split at h
    · next i' hx =>
      obtain ⟨rfl, -⟩ := Prod.mk.inj (Option.some.inj h)
      have hz := hl.1
      rw [RegRow.zeroAt, Bool.or_eq_true, Bool.or_eq_true] at hz
      rcases hz with (hz | hz) | hz
      · simp only [Bool.and_eq_true, beq_iff_eq, List.isEmpty_iff] at hz
        simp [hz.1, hz.2]
      · simp only [decide_eq_true_eq] at hz
        rw [rowIndex, if_pos (by omega)] at hx
        exact absurd hx (Option.some_ne_none _).symm
      · rw [rowIndex_beyond hz h1] at hx
        exact absurd hx (Option.some_ne_none _).symm
    · exact ih hl.2 h

theorem regDefault_hub (hw : partWindow a = none) (hl : (hubRows a).all (RegRow.zeroAt lo hi) = true) (h1 : lo ≤ a) (h2 : a < hi) :
    regDefault a = 0 := by
  have hrow : regRow a = findRow (hubRows a) a := by rw [regRow, hw]
  rw [regDefault, hrow]
  split
  · next r i h => rw [findRow_zero hl h1 h2 h]; rfl
  · rfl

theorem regDefault_part {p : Nat} (hw : partWindow a = some (p, b)) (hl : (partRows b).all (RegRow.zeroAt lo hi) = true)
    (h1 : lo ≤ b) (h2 : b < hi) : regDefault a = 0 := by
  have hrow : regRow a = (findRow (partRows b) b).map (fun x => (x.1, if x.1.dims.isEmpty then p else x.2)) := by
    rw [regRow, hw]
    simp only []
    split <;> simp [*]
  rw [regDefault, hrow]
  split
  · next r i h =>
    obtain ⟨⟨r', i'⟩, hf, he⟩ := Option.map_eq_some_iff.mp h
    obtain ⟨rfl, -⟩ := Prod.mk.inj he
    rw [findRow_zero hl h1 h2 hf]; rfl
  · rfl

end

theorem wordDefault_divert {j w : Nat} (hj : j < 8) (hw : w < 2048) : wordDefault (RCV_J_DIVERT j w) = 0 := by
  have h1 : 0x1210000 ≤ RCV_J_DIVERT j w := by rw [RCV_J_DIVERT]; omega
  have h2 : RCV_J_DIVERT j w < 0x1220000 := by rw [RCV_J_DIVERT]; omega
  rw [wordDefault, Nat.mod_eq_of_lt (by omega)]
  refine regDefault_hub (by rw [partWindow, if_neg (by simp; omega)]) ?_ h1 h2
  have hrows : hubRows (RCV_J_DIVERT j w) = rowsHSP := by
    rw [hubRows]
    repeat rw [if_neg (by omega)]
    exact if_pos (by omega)
  rw [hrows]
  decide

theorem wordDefault_entry {p e : Nat} (hp : p < 8) (he : e < 32) : wordDefault (CAM_HOST_W0 p e) = 0 := by
  have h1 : 0x2000000 ≤ CAM_HOST_W0 p e := by rw [CAM_HOST_W0, partBase]; omega
  have h2 : CAM_HOST_W0 p e < 0x4000000 := by rw [CAM_HOST_W0, partBase]; omega
  have hoff : (CAM_HOST_W0 p e - 0x2000000) % 0x400000 = 0x1000 + 64 * e := by rw [CAM_HOST_W0, partBase]; omega
  rw [wordDefault, Nat.mod_eq_of_lt (by omega)]
  refine regDefault_part (b := 0x1000 + 64 * e) (by rw [partWindow, if_pos (by simp; omega), hoff]) ?_ (lo := 0x1000) (hi := 0x1800)
    (by omega) (by omega)
  rw [partRows, if_pos (by omega)]
  decide

/-! ## Registers cleared -/

/-- What a cleared register reads as, and every other as before. -/
theorem State.reg_clearRegs (s : State) (b n a : Nat) :
    (s.clearRegs b n).reg a = if b ≤ a ∧ a < b + 4 * n then wordDefault a else s.reg a := storeGet_clear ..

theorem State.fld_clearRegs_away (s : State) {b n : Nat} {f : Fld} (h : f.addr < b ∨ b + 4 * n ≤ f.addr) :
    (s.clearRegs b n).fld f = s.fld f := by
  refine State.fld_of_reg ?_
  rw [State.reg_clearRegs, if_neg (by omega)]

theorem State.fld_clearRegs_zero (s : State) {b n : Nat} {f : Fld} (h1 : b ≤ f.addr) (h2 : f.addr < b + 4 * n)
    (hz : wordDefault f.addr = 0) : (s.clearRegs b n).fld f = 0 := by
  rw [State.fld_eq, State.reg_clearRegs, if_pos ⟨h1, h2⟩, hz]
  simp

end Sys2Proof.Machine

/-! SUPPORT. What ends the operations of a job, what sends its messages, and what meets a cause of failed recovery (R363, R369). -/
namespace Sys2Proof.Machine

/-! ## Frames -/

section
variable {s t u : State} {P : Nat → Prop}

theorem State.OnlyRegs.gcount (h : s.OnlyRegs t P) (n k : Nat) : s.OnlyRegs (t.gcount n k) P :=
  ⟨(State.bare_gcount ..).trans h.1, h.2.gcount n k⟩

theorem State.OnlyRegs.foldl {α : Type} {f : State → α → State} {l : List α} (h : s.OnlyRegs t P)
    (hf : ∀ u, ∀ x ∈ l, s.OnlyRegs u P → s.OnlyRegs (f u x) P) : s.OnlyRegs (l.foldl f t) P :=
  List.foldlRecOn (motive := fun u => s.OnlyRegs u P) l f h fun u hu x hx => hf u x hx hu

/-- `t` is `s` but for what it keeps of its jobs, the registers that `P` names, the counters and the reports. -/
structure State.OnlyJobs (s : State) (P : Nat → Prop) (t : State) : Prop where
  bare : t.bare = { s.bare with jobs := t.jobs }
  regs : s.RegsKept t P

theorem State.OnlyRegs.onlyJobs (h : s.OnlyRegs t P) : s.OnlyJobs P t := by
  refine ⟨?_, h.2⟩
  rw [State.jobs_of_bare h.1, h.1]
  rfl

theorem State.OnlyJobs.refl (s : State) (P : Nat → Prop) : s.OnlyJobs P s := ⟨rfl, .refl s P⟩

theorem State.OnlyJobs.trans (h : s.OnlyJobs P t) (h' : t.OnlyJobs P u) : s.OnlyJobs P u := by
  refine ⟨?_, h.regs.trans h'.regs⟩
  rw [h'.bare, h.bare]

theorem State.OnlyJobs.setFld (h : s.OnlyJobs P t) {f : Fld} (v : Nat) (hp : P f.addr) : s.OnlyJobs P (t.setFld f v) :=
  h.trans ((State.OnlyRegs.refl t P).setFld v hp).onlyJobs

theorem State.OnlyJobs.updRun (h : s.OnlyJobs P t) (j : Nat) (f : JobRun → JobRun) : s.OnlyJobs P (t.updRun j f) :=
  h.trans ⟨rfl, (State.RegsKept.refl t P).of_regs rfl⟩

theorem State.OnlyRegs.places (h : s.OnlyRegs t P) : s.Places P t :=
  ⟨State.jobs_of_bare h.1, State.owner_of_bare h.1, State.rebuilds_of_bare h.1, h.2⟩

end

/-! ## Operations that end -/

section
variable (s : State) (f : OpenOp → Bool) (status : Nat) (results : List Nat)

/-- The completion of an operation that ends with a status. -/
def OpenOp.ends (status : Nat) (results : List Nat) (o : OpenOp) : Compl := ⟨o.fn, o.handle, o.op, status, 0x1F, results⟩

theorem State.foldl_endOp (l : List OpenOp) : l.foldl (fun t o => t.endOp o status 0x1F results) s =
    { s with ops := s.ops.filter (fun o => decide (o ∉ l)), ended := s.ended ++ l.map (OpenOp.ends status results) } := by
  induction l generalizing s with
  | nil => simp
  | cons x t ih =>
    rw [List.foldl_cons, ih]
    simp only [State.endOp, List.filter_filter, List.append_assoc, List.map_cons, List.singleton_append]
    congr 2
    funext o
    rw [Bool.eq_iff_iff]
    simp [and_comm]

/-- The operations that a test names end, each with its completion, and no other does. -/
theorem State.endOps_eq : s.endOps f status results =
    { s with ops := s.ops.filter (fun o => !f o), ended := s.ended ++ (s.ops.filter f).map (OpenOp.ends status results) } := by
  have hops : s.ops.filter (fun o => decide (o ∉ s.ops.filter f)) = s.ops.filter (fun o => !f o) :=
    List.filter_congr fun o ho => by simp [ho]
  rw [State.endOps, State.foldl_endOp, hops]

end

/-! ## Messages of the tree -/

theorem State.bare_sendUp (s : State) (j : Nat) (m : List Nat) :
    (s.sendUp j m).bare = { s.bare with txq := (s.sendUp j m).txq, intq := (s.sendUp j m).intq } := by
  unfold State.sendUp
  split <;> exact State.bare_sendPkt ..

theorem State.regs_sendUp (s : State) (j : Nat) (m : List Nat) : (s.sendUp j m).regs = s.regs := by
  unfold State.sendUp
  split <;> exact State.regs_sendPkt ..

/-! ## A cause of failed recovery (R363, R369) -/

theorem reportReg_rcvStatus (j : Nat) : reportReg (RCV_J_STATUS j) = false := by
  simp [reportReg, EVR_RSEQ, EVR_STATUS, DBG_GSTATUS, RCV_J_STATUS]
  omega

/-- Whether an operation is a re-host of a job. -/
def OpenOp.rehosts (j : Nat) (o : OpenOp) : Bool := o.op == 9 && o.arg 0 == j

/-- The module whose open re-hosts of a job have ended with ABORTED. -/
def State.rehostsAborted (s : State) (j cause : Nat) : State :=
  if s.ops.any (OpenOp.rehosts j) then
    (s.endOps (OpenOp.rehosts j) stAborted [1, cause]).setFld (RCV_J_STATUS_LAST_CODE j) stAborted else s

/-- PHASE rollback with its CAUSE. -/
def State.rolledBack (s : State) (j cause : Nat) : State := (s.setFld (RCV_J_STATUS_PHASE j) 4).setFld (RCV_J_STATUS_CAUSE j) cause

theorem State.noteRollback_eq (s : State) (j cause : Nat) : s.noteRollback j cause =
    if !s.ops.any (OpenOp.rehosts j) && (s.rehostsAborted j cause).fld (RCV_J_STATUS_PHASE j) != 4 then
      ((s.rehostsAborted j cause).rolledBack j cause).event (RCV_J_STATUS_PHASE j) 0 j
    else (s.rehostsAborted j cause).rolledBack j cause := rfl

theorem State.rehostsAborted_effect (s : State) (j cause : Nat) :
    let t := s.rehostsAborted j cause
    t.ops = s.ops.filter (fun o => !OpenOp.rehosts j o) ∧
    t.ended = s.ended ++ (s.ops.filter (OpenOp.rehosts j)).map (OpenOp.ends stAborted [1, cause]) ∧
    t.bare = { s.bare with ops := t.ops, ended := t.ended } ∧ s.RegsKept t (fun a => a = RCV_J_STATUS j) := by
  unfold State.rehostsAborted
  split
  · rw [State.endOps_eq]
    exact ⟨rfl, rfl, rfl, State.RegsKept.setFld ((State.RegsKept.refl s _).of_regs rfl) (f := RCV_J_STATUS_LAST_CODE j) _ rfl⟩
  · next h =>
    have hnone : ∀ o ∈ s.ops, OpenOp.rehosts j o = false := by simpa using h
    refine ⟨(List.filter_eq_self.mpr fun o ho => by rw [hnone o ho]; rfl).symm, ?_, rfl, .refl s _⟩
    rw [List.filter_eq_nil_iff.mpr fun o ho => by rw [hnone o ho]; exact Bool.false_ne_true]
    simp

theorem State.only_rolledBack (s : State) (j cause : Nat) : s.OnlyRegs (s.rolledBack j cause) (fun a => a = RCV_J_STATUS j) :=
  ((State.OnlyRegs.refl s (fun a => a = RCV_J_STATUS j)).setFld (f := RCV_J_STATUS_PHASE j) 4 rfl).setFld (f := RCV_J_STATUS_CAUSE j) cause rfl

theorem State.rolledBack_effect (s : State) {j cause : Nat} (hc : cause < 16) :
    (s.rolledBack j cause).fld (RCV_J_STATUS_PHASE j) = 4 ∧ (s.rolledBack j cause).fld (RCV_J_STATUS_CAUSE j) = cause := by
  constructor
  · rw [State.rolledBack, State.fld_setFld_above _ _ (Nat.le_of_ble_eq_true rfl) (Nat.le_of_ble_eq_true rfl),
      State.fld_setFld_self _ _ _ (Nat.le_of_ble_eq_true rfl)]
    rfl
  · rw [State.rolledBack, State.fld_setFld_self _ _ _ (Nat.le_of_ble_eq_true rfl)]
    exact Nat.mod_eq_of_lt hc

/-- What a cause of failed recovery leaves on a module: rollback with its cause, and the job's re-hosts ended. -/
theorem State.noteRollback_effect (s : State) {j cause : Nat} (hc : cause < 16) :
    let t := s.noteRollback j cause
    t.fld (RCV_J_STATUS_PHASE j) = 4 ∧ t.fld (RCV_J_STATUS_CAUSE j) = cause ∧
    (∀ o, o ∈ t.ops ↔ o ∈ s.ops ∧ ¬(o.op = 9 ∧ o.arg 0 = j)) ∧
    (∀ o ∈ s.ops, o.op = 9 → o.arg 0 = j → (⟨o.fn, o.handle, 9, stAborted, 0x1F, [1, cause]⟩ : Compl) ∈ t.ended) ∧
    t.bare = { s.bare with ops := t.ops, ended := t.ended } ∧ s.RegsKept t (fun a => a = RCV_J_STATUS j) := by
  obtain ⟨hops, hended, hbare, hregs⟩ := s.rehostsAborted_effect j cause
  obtain ⟨hphase, hcause⟩ := (s.rehostsAborted j cause).rolledBack_effect (j := j) hc
  obtain ⟨hbare', hregs'⟩ := (s.rehostsAborted j cause).only_rolledBack j cause
  -- the event of the rollback is a report
  have hnote : (s.noteRollback j cause).bare = ((s.rehostsAborted j cause).rolledBack j cause).bare ∧
      ∀ a, reportReg a = false → (s.noteRollback j cause).reg a = ((s.rehostsAborted j cause).rolledBack j cause).reg a := by
    rw [State.noteRollback_eq]
    split
    · exact ⟨State.bare_event .., fun a ha => State.reg_event _ _ _ _ ha⟩
    · exact ⟨rfl, fun _ _ => rfl⟩
  obtain ⟨hb, hr⟩ := hnote
  have hfld (f : Fld) (hf : f.addr = RCV_J_STATUS j) := State.fld_of_reg (f := f) (hr f.addr (hf ▸ reportReg_rcvStatus j))
  have hb' := hb.trans hbare'
  have hops' := (State.ops_of_bare hb').trans hops
  have hended' := (State.ended_of_bare hb').trans hended
  refine ⟨(hfld _ rfl).trans hphase, (hfld _ rfl).trans hcause, fun o => ?_, fun o ho h9 hj => ?_, ?_, ?_⟩
  · rw [hops', List.mem_filter]
    simp [OpenOp.rehosts, imp_iff_not_or]
  · rw [hended', List.mem_append]
    exact .inr (List.mem_map.mpr ⟨o, List.mem_filter.mpr ⟨ho, by simp [OpenOp.rehosts, h9, hj]⟩, by rw [OpenOp.ends, h9]⟩)
  · rw [hb', hbare, State.ops_of_bare hb', State.ended_of_bare hb']
  · exact hregs.trans (hregs'.trans fun a _ ha => hr a ha)

/-- A module that meets a cause sends RABORT toward the root, and rolls back. -/
theorem State.meetRollback_eq (s : State) (j cause : Nat) : ∃ m, s.meetRollback j cause = (s.sendUp j m).noteRollback j cause := ⟨_, rfl⟩

/-- What that leaves on the module: rollback with its cause, the job's re-hosts ended, and the message on its way. -/
theorem State.meetRollback_effect (s : State) {j cause : Nat} (hc : cause < 16) :
    let t := s.meetRollback j cause
    t.fld (RCV_J_STATUS_PHASE j) = 4 ∧ t.fld (RCV_J_STATUS_CAUSE j) = cause ∧
    (∀ o, o ∈ t.ops ↔ o ∈ s.ops ∧ ¬(o.op = 9 ∧ o.arg 0 = j)) ∧
    (∀ o ∈ s.ops, o.op = 9 → o.arg 0 = j → (⟨o.fn, o.handle, 9, stAborted, 0x1F, [1, cause]⟩ : Compl) ∈ t.ended) ∧
    t.bare = { s.bare with txq := t.txq, intq := t.intq, ops := t.ops, ended := t.ended } ∧
    s.RegsKept t (fun a => a = RCV_J_STATUS j) := by
  obtain ⟨m, e⟩ := s.meetRollback_eq j cause
  have hb := s.bare_sendUp j m
  have hr := s.regs_sendUp j m
  rw [e]
  generalize s.sendUp j m = v at hb hr
  obtain ⟨h1, h2, h3, h4, h5, h6⟩ := v.noteRollback_effect (j := j) hc
  generalize v.noteRollback j cause = t at h1 h2 h3 h4 h5 h6
  have hops : v.ops = s.ops := (congrArg State.ops hb :)
  have htxq : t.txq = v.txq := (congrArg State.txq h5 :)
  have hintq : t.intq = v.intq := (congrArg State.intq h5 :)
  have hframe := congrArg (fun b : State => { b with ops := t.ops, ended := t.ended }) hb
  rw [← htxq, ← hintq] at hframe
  rw [hops] at h3 h4
  exact ⟨h1, h2, h3, h4, h5.trans hframe, ((State.RegsKept.refl s _).of_regs hr).trans h6⟩

end Sys2Proof.Machine

/-! SUPPORT. Declarations of a loss: heartbeats and silence, HFAULT on its way to the root, RCUT and RABORT down the tree. -/
namespace Sys2Proof.Machine

/-! ## Who takes a recovery message (R374) -/

section
variable {s : State} {src j : Nat} {f : State → State}

theorem State.control_stopped (h : s.boot ≠ .running) : s.control src j f = s := if_pos h

theorem State.control_dead (h : s.boot = .running) (hd : s.isDead j src = true) : s.control src j f = s.deadbolt j src := by
  simp [State.control, h, hd]

theorem State.control_live (h : s.boot = .running) (hd : s.isDead j src = false) : s.control src j f = f s := by
  simp [State.control, h, hd]

end

/-- A row that takes a recovery message behind the one test of who sent it. -/
def ControlRow (x : Nat → List Nat → Instr) : Prop :=
  ∃ f : Nat → List Nat → State → State, ∀ s src m, exec (x src m) s = .next (s.control src (mByte m 1 % 8) (f src m))

theorem ControlRow.stopped {x : Nat → List Nat → Instr} (h : ControlRow x) {s : State} (hs : s.boot ≠ .running) (src : Nat) (m : List Nat) :
    exec (x src m) s = .next s := by
  obtain ⟨f, hf⟩ := h
  rw [hf, State.control_stopped hs]

theorem ControlRow.dead {x : Nat → List Nat → Instr} (h : ControlRow x) {s : State} (hs : s.boot = .running) {src : Nat} {m : List Nat}
    (hd : s.isDead (mByte m 1 % 8) src = true) : exec (x src m) s = .next (s.deadbolt (mByte m 1 % 8) src) := by
  obtain ⟨f, hf⟩ := h
  rw [hf, State.control_dead hs hd]

/-! ## Heartbeats of a group (R347) -/

section
variable {s : State} {j gid : Nat} {r : JobRun} {g : ContGroup}

theorem execGhbSend_group (hr : s.run j = some r) (hg : r.group = some g) :
    exec (.ghbSend j) s = .next ((g.liveGids.filter (· != s.gid)).foldl (fun t x =>
      t.sendCtl x j ([0x30, j, 0, 0] ++ leBytes 4 r.step ++ leBytes 3 g.live)) s) := by
  change execGhbSend j s = _
  simp only [execGhbSend, hr, hg]

theorem State.isSilent_iff : s.isSilent j gid = true ↔ ∀ x, s.ghbAt.find? (fun x => x.1 == j && x.2.1 == gid) = some x →
    x.2.2 + max 1 (s.fld RCV_CFG_GHB_MISS) * max 1 (s.fld RCV_CFG_GHB_PERIOD) * 4000000 ≤ s.ftime := by
  unfold State.isSilent
  cases s.ghbAt.find? (fun x => x.1 == j && x.2.1 == gid) with
  | none => simp
  | some x => simp

/-- A member of a group is named by its job and its module. -/
theorem any_silent {l : List (Nat × Nat × Nat)} : l.any (fun x => x.1 == j && x.2.1 == gid) = true ↔ ∃ x ∈ l, x.1 = j ∧ x.2.1 = gid := by
  simp

theorem execGhbMiss_reports (hr : s.run j = some r) (hg : r.group = some g) (hne : gid ≠ s.gid) (hl : gid ∈ g.liveGids)
    (hs : s.isSilent j gid = true) (hnew : ∀ x ∈ s.silent, ¬(x.1 = j ∧ x.2.1 = gid)) :
    exec (.ghbMiss j gid) s = .next { s with silent := s.silent ++ [(j, gid, s.ftime)], out := s.out ++ [.report 2 j [gid]] } := by
  have hany : s.silent.any (fun x => x.1 == j && x.2.1 == gid) = false :=
    Bool.eq_false_iff.mpr fun h => by
      obtain ⟨x, hx, hxj⟩ := any_silent.mp h
      exact hnew x hx hxj
  change execGhbMiss j gid s = _
  simp only [execGhbMiss, hr, Option.bind_some, hg, hany, hs, hne, hl, List.contains_iff_mem.mpr, decide_false, Bool.not_true, Bool.or_self,
    Bool.false_eq_true, if_false]
  rfl

theorem execGhbMiss_quiet (hr : s.run j = some r) (hg : r.group = some g)
    (h : gid = s.gid ∨ gid ∉ g.liveGids ∨ s.isSilent j gid = false ∨ ∃ x ∈ s.silent, x.1 = j ∧ x.2.1 = gid) :
    exec (.ghbMiss j gid) s = .next s := by
  change execGhbMiss j gid s = _
  simp only [execGhbMiss, hr, Option.bind_some, hg]
  refine if_pos ?_
  simp only [Bool.or_eq_true, decide_eq_true_eq, Bool.not_eq_true', any_silent, or_assoc]
  rcases h with h | h | h | h
  · exact .inl h
  · exact .inr (.inl (by simpa using h))
  · exact .inr (.inr (.inl h))
  · exact .inr (.inr (.inr h))

theorem execSilenceReportRepeat_none (h : ∀ x ∈ s.silent, ¬(x.1 = j ∧ x.2.1 = gid)) : exec (.silenceReportRepeat j gid) s = .next s := by
  have hnone : s.silent.find? (fun x => x.1 == j && x.2.1 == gid) = none := List.find?_eq_none.mpr fun x hx => by simpa using h x hx
  change execSilenceReportRepeat j gid s = _
  simp only [execSilenceReportRepeat, hnone]

theorem execSilenceReportRepeat_early {x : Nat × Nat × Nat} (hx : s.silent.find? (fun x => x.1 == j && x.2.1 == gid) = some x)
    (h : s.ftime < x.2.2 + 4000000000) : exec (.silenceReportRepeat j gid) s = .next s := by
  change execSilenceReportRepeat j gid s = _
  simp only [execSilenceReportRepeat, hx]
  exact if_pos h

theorem execSilenceReportRepeat_due {x : Nat × Nat × Nat} (hx : s.silent.find? (fun x => x.1 == j && x.2.1 == gid) = some x)
    (h : x.2.2 + 4000000000 ≤ s.ftime) : Answers (exec (.silenceReportRepeat j gid) s) fun t =>
      (j, gid, s.ftime) ∈ t.silent ∧ t = { s with silent := t.silent, out := s.out ++ [.report 2 j [gid]] } := by
  change Answers (execSilenceReportRepeat j gid s) _
  simp only [execSilenceReportRepeat, hx]
  rw [if_neg (Nat.not_lt.mpr h)]
  exact answers_next ⟨List.mem_append_right _ (List.mem_singleton.mpr rfl), rfl⟩

end

/-- A heartbeat: its time is kept, and the sender is silent no longer. -/
theorem execGhb_live {s : State} {src : Nat} {m : List Nat} (hrun : s.boot = .running) (hlive : s.isDead (mByte m 1 % 8) src = false) :
    Answers (exec (.ghb src m) s) fun t => t = { s with ghbAt := t.ghbAt, silent := t.silent } ∧
      (mByte m 1 % 8, src, s.ftime) ∈ t.ghbAt ∧ (∀ x ∈ t.silent, ¬(x.1 = mByte m 1 % 8 ∧ x.2.1 = src)) ∧
      (∀ x, ¬(x.1 = mByte m 1 % 8 ∧ x.2.1 = src) → (x ∈ t.ghbAt ↔ x ∈ s.ghbAt) ∧ (x ∈ t.silent ↔ x ∈ s.silent)) := by
  change Answers (execGhb src m s) _
  simp only [execGhb, State.control_live hrun hlive]
  refine answers_next ⟨rfl, List.mem_append_right _ (List.mem_singleton.mpr rfl), fun x hx => ?_, fun x hx => ⟨?_, ?_⟩⟩
  · simpa [imp_iff_not_or] using (List.mem_filter.mp hx).2
  · have hne : x ≠ (mByte m 1 % 8, src, s.ftime) := fun e => hx ⟨congrArg (·.1) e, congrArg (·.2.1) e⟩
    have hkeep : (!(x.1 == mByte m 1 % 8 && x.2.1 == src)) = true := by simpa [imp_iff_not_or] using hx
    simp only [List.mem_append, List.mem_filter, hkeep, and_true, List.mem_singleton, hne, or_false]
  · have hkeep : (!(x.1 == mByte m 1 % 8 && x.2.1 == src)) = true := by simpa [imp_iff_not_or] using hx
    simp only [List.mem_filter, hkeep, and_true]

/-! ## HFAULT (R336, R345, R348) -/

/-- A failure counted on its way. -/
def State.faultCounted (s : State) (j at_ : Nat) : State :=
  s.updRun j (fun r => { r with faults := r.faults + 1, faultAt := max r.faultAt at_ })

/-- A failure noted at the root: one that is new is counted against the interval (R336). -/
def State.failureNoted (s : State) (j : Nat) (r : JobRun) (x : Nat × Nat) (at_ : Nat) : State :=
  if r.failures.contains x then s.faultCounted j at_
  else ((s.faultCounted j at_).updRun j (fun r => { r with failures := r.failures ++ [x] })).countFailure j at_

/-- Registers of the interval controller that a failure moves. -/
def FailureReg (j a : Nat) : Prop := a = HSP_J_MTBF_CUR j ∨ a = HSP_J_INTERVAL j

theorem State.onlyJobs_countFailure (s : State) (j at_ : Nat) : s.OnlyJobs (FailureReg j) (s.countFailure j at_) := by
  unfold State.countFailure
  split
  · exact .refl ..
  · exact (((State.OnlyJobs.refl s _).setFld (f := HSP_J_MTBF_CUR_M j) _ (.inl rfl)).updRun j _).setFld (f := HSP_J_INTERVAL_N j) _ (.inr rfl)

theorem State.run_computeN (s : State) (j i : Nat) : (s.computeN j).run i = s.run i := State.run_setFld ..

theorem State.run_countFailure {s : State} {j : Nat} {q : JobRun} (hq : s.run j = some q) (at_ : Nat) :
    (s.countFailure j at_).run j = some { q with failAt := max q.failAt at_ } := by
  rw [State.countFailure, hq]
  simp only [State.run_computeN]
  exact State.run_updRun ((State.run_setFld ..).trans hq) _

/-- The root after a failure: it is counted and named, and nothing of the job's step or cut changes. -/
theorem State.failureNoted_effect {s : State} {j : Nat} {r : JobRun} (hr : s.run j = some r) (x : Nat × Nat) (at_ : Nat) :
    (∃ q, (s.failureNoted j r x at_).run j = some q ∧ q.faults = r.faults + 1 ∧ q.cut = r.cut ∧ q.step = r.step ∧ x ∈ q.failures) ∧
    s.OnlyJobs (FailureReg j) (s.failureNoted j r x at_) := by
  have hcount := State.run_updRun hr (fun r => { r with faults := r.faults + 1, faultAt := max r.faultAt at_ })
  have hframe := (State.OnlyJobs.refl s (FailureReg j)).updRun j (fun r => { r with faults := r.faults + 1, faultAt := max r.faultAt at_ })
  unfold State.failureNoted
  split
  · next h => exact ⟨⟨_, hcount, rfl, rfl, rfl, List.contains_iff_mem.mp h⟩, hframe⟩
  · exact ⟨⟨_, State.run_countFailure (State.run_updRun hcount _) at_, rfl, rfl, rfl, List.mem_append_right _ (List.mem_singleton.mpr rfl)⟩,
      (hframe.updRun j _).trans (State.onlyJobs_countFailure ..)⟩

section
variable {s : State} {src : Nat} {m : List Nat} {r : JobRun}

theorem execHfault_noJob (hrun : s.boot = .running) (hlive : s.isDead (mByte m 1 % 8) src = false) (h : s.run (mByte m 1 % 8) = none) :
    exec (.hfault src m) s = .next s := by
  change execHfault src m s = _
  simp only [execHfault, State.control_live hrun hlive, h]

theorem execHfault_below (hrun : s.boot = .running) (hlive : s.isDead (mByte m 1 % 8) src = false) (hr : s.run (mByte m 1 % 8) = some r)
    (hroot : s.isRoot (mByte m 1 % 8) = false) :
    exec (.hfault src m) s = .next ((s.faultCounted (mByte m 1 % 8) (mField m 16 8)).sendUp (mByte m 1 % 8) m) := by
  change execHfault src m s = _
  simp only [execHfault, State.control_live hrun hlive, hr]
  exact congrArg _ (if_pos (by change (!s.isRoot (mByte m 1 % 8)) = true; rw [hroot]; rfl))

/-- At the root a failure becomes RCUT and the cut; while a cut is open, another module's failure is a second declaration. -/
theorem execHfault_root (hrun : s.boot = .running) (hlive : s.isDead (mByte m 1 % 8) src = false) (hr : s.run (mByte m 1 % 8) = some r)
    (hroot : s.isRoot (mByte m 1 % 8) = true) :
    let j := mByte m 1 % 8
    let lost := mField m 8 4 % 2 ^ 20
    let new := (s.fld (FAB_JOB_GEN_GEN j) + 1) % 65536
    let u := s.failureNoted j r (lost, mField m 12 2) (mField m 16 8)
    exec (.hfault src m) s = .next (match r.cut with
      | some c => if c.lost = lost then u else u.meetRollback j 6
      | none => (u.sendDown j (rcutMsg j lost new r.step (bitAt (mByte m 14) 0))).takeCut j lost new (bitAt (mByte m 14) 0) false false) := by
  intro j lost new u
  have hgen : u.fld (FAB_JOB_GEN_GEN j) = s.fld (FAB_JOB_GEN_GEN j) := by
    refine (State.failureNoted_effect hr _ _).2.regs.fld ?_ (reportReg_fabric ?_ ?_)
    · simp only [FailureReg, FAB_JOB_GEN_GEN, FAB_JOB_GEN, HSP_J_MTBF_CUR, HSP_J_INTERVAL]
      omega
    · simp only [FAB_JOB_GEN_GEN, FAB_JOB_GEN]; omega
    · have hj : j < 8 := Nat.mod_lt _ (by decide)
      simp only [FAB_JOB_GEN_GEN, FAB_JOB_GEN]; omega
  change execHfault src m s = _
  simp only [execHfault, State.control_live hrun hlive, hr]
  refine congrArg _ ((if_neg ?_).trans ?_)
  · change ¬ (!s.isRoot (mByte m 1 % 8)) = true
    rw [hroot]
    exact Bool.false_ne_true
  · have hnew : (u.fld (FAB_JOB_GEN_GEN j) + 1) % 65536 = new := by rw [hgen]
    rw [← hnew]
    cases r.cut <;> rfl

/-! ## RCUT and RABORT (R348, R350, R363) -/

theorem execRcut_noJob (hrun : s.boot = .running) (hlive : s.isDead (mByte m 1 % 8) src = false) (h : s.run (mByte m 1 % 8) = none)
    (peers : Bool) : exec (.rcut src m peers) s = .next s := by
  change execRcut src m peers s = _
  simp only [execRcut, State.control_live hrun hlive, h]

/-- RCUT is taken from the parent, and at the root from itself; one of another step is passed on alone. -/
theorem execRcut_eq (hrun : s.boot = .running) (hlive : s.isDead (mByte m 1 % 8) src = false) (hr : s.run (mByte m 1 % 8) = some r)
    (peers : Bool) :
    let j := mByte m 1 % 8
    exec (.rcut src m peers) s = .next (if (s.isRoot j = true ∧ src = s.gid) ∨ s.jobUp j = some src then
      if mField m 12 4 ≠ r.step then s.sendDown j m
      else (s.sendDown j m).takeCut j (mField m 4 3 % 2 ^ 20) (mField m 8 2) (bitAt (mByte m 16) 0) false peers
      else s) := by
  intro j
  change execRcut src m peers s = _
  simp only [execRcut, State.control_live hrun hlive, hr]
  by_cases h : (s.isRoot j = true ∧ src = s.gid) ∨ s.jobUp j = some src
  · rw [if_pos h, if_neg]
    rcases h with h | h <;> simp [j] at h ⊢ <;> simp [h]
  · rw [if_neg h, if_pos]
    rw [not_or] at h
    simpa [j, imp_iff_not_or] using h

theorem execRabort_noJob (hrun : s.boot = .running) (hlive : s.isDead (mByte m 1 % 8) src = false) (h : s.run (mByte m 1 % 8) = none) :
    exec (.rabort src m) s = .next s := by
  change execRabort src m s = _
  simp only [execRabort, State.control_live hrun hlive, h]
  rfl

/-- RABORT goes up to the root, and from there rolls the whole tree back. -/
theorem execRabort_eq (hrun : s.boot = .running) (hlive : s.isDead (mByte m 1 % 8) src = false) (hr : s.run (mByte m 1 % 8) = some r) :
    let j := mByte m 1 % 8
    exec (.rabort src m) s = .next (if s.isRoot j = true ∨ s.jobUp j = some src then (s.sendDown j m).globalRollback j (mByte m 8 % 16)
      else s.sendUp j m) := by
  intro j
  change execRabort src m s = _
  simp only [execRabort, State.control_live hrun hlive, hr]
  simp [j]

end

end Sys2Proof.Machine

/-! SUPPORT. Work that is discarded, entries that are freed or loaded again, and the rollback of a job (R363, R369, R413). -/
namespace Sys2Proof.Machine

/-! ## Trace records -/

/-- Registers of a partition's units, its trace among them, and the collective engine's status: all that discarded work writes. -/
def DiscardReg (p a : Nat) : Prop := a = COL_STATUS ∨ (partBase p + 0x80000 ≤ a ∧ a < partBase p + 0x400000)

/-- Registers of a partition's trace unit. -/
def TraceReg (p a : Nat) : Prop := partBase p + 0x1C2100 ≤ a ∧ a < partBase p + 0x1C2200

theorem discardReg_of_trace {p a : Nat} (h : TraceReg p a) : DiscardReg p a := by
  simp only [DiscardReg, TraceReg] at *
  omega

section
variable {s t : State} {P : Nat → Prop} {p : Nat}

theorem State.Places.count (h : s.Places P t) (q n k : Nat) : s.Places P (t.count q n k) :=
  h.trans (State.OnlyRegs.places ⟨State.bare_count .., (State.RegsKept.refl t P).count q n k⟩)

theorem State.Places.gcount (h : s.Places P t) (n k : Nat) : s.Places P (t.gcount n k) :=
  h.trans ((State.OnlyRegs.refl t P).gcount n k).places

theorem State.Places.wrBytes (h : s.Places P t) (a n v : Nat) : s.Places P (t.wrBytes a n v) :=
  ⟨h.jobs, h.owner, h.rebuilds, h.regs.of_regs rfl⟩

theorem State.Places.setTrc (h : s.Places P t) (q : Nat) (x : TrcState) : s.Places P (t.setTrc q x) :=
  ⟨h.jobs, h.owner, h.rebuilds, h.regs.of_regs rfl⟩

theorem State.Places.ite {c : Prop} [Decidable c] (h : s.Places P t) {u : State} (h' : s.Places P u) : s.Places P (if c then t else u) := by
  split
  · exact h
  · exact h'

theorem State.Places.trcPut (h : s.Places (TraceReg p) t) (r : Nat) : s.Places (TraceReg p) (t.trcPut p r).1 := by
  have hwptr : TraceReg p (TRC_WPTR p) := by simp only [TraceReg, TRC_WPTR]; omega
  have hspill : TraceReg p (TRC_SPILL_WPTR p) := by simp only [TraceReg, TRC_SPILL_WPTR]; omega
  have hstatus : TraceReg p (TRC_STATUS p) := by simp only [TraceReg, TRC_STATUS]; omega
  unfold State.trcPut
  simp only []
  split
  · split
    · exact (h.wrBytes ..).setFld _ hspill
    · split
      · exact (h.wrBytes ..).setFld _ hstatus
      · exact ((h.wrBytes ..).setFld _ hspill).setFld _ hspill
  · have hput : s.Places (TraceReg p) ({ t with trcBuf := storeSet 0 t.trcBuf (p * trcSlots + t.fld (TRC_WPTR_WPTR p)) r } : State) :=
      ⟨h.jobs, h.owner, h.rebuilds, h.regs.of_regs rfl⟩
    split
    · exact (hput.setFld _ hwptr).setFld _ hstatus
    · exact hput.setFld _ hwptr

theorem State.Places.trcTime (h : s.Places (TraceReg p) t) : s.Places (TraceReg p) (t.trcTime p) := (h.trcPut _).setTrc ..

theorem State.Places.trcGap (h : s.Places (TraceReg p) t) : s.Places (TraceReg p) (t.trcGap p) := by
  unfold State.trcGap
  simp only []
  split
  · exact h
  · exact (((h.trcPut _).setFld _ (show TraceReg p (TRC_STATUS p) by simp only [TraceReg, TRC_STATUS]; omega)).setTrc ..).trcTime

theorem State.Places.trcPost (h : s.Places (TraceReg p) t) : s.Places (TraceReg p) (t.trcPost p) := by
  unfold State.trcPost
  simp only []
  split
  · exact h
  · split
    · exact (h.setTrc ..).setFld _ (show TraceReg p (TRC_STATUS p) by simp only [TraceReg, TRC_STATUS]; omega)
    · exact h.setTrc ..

theorem State.Places.trace (h : s.Places (TraceReg p) t) (sync : Bool) (r : Nat) : s.Places (TraceReg p) (t.trace p sync r) := by
  have hstored := (((h.trcGap.ite h.trcGap.trcTime (c := ((t.trcGap p).trcGet p).timed = true ∧
    ((t.trcGap p).trcGet p).hi = (t.trcGap p).ftime / 2 ^ 40 % 2 ^ 24)).trcPut r).count p 0x228 1).trcPost
  unfold State.trace
  refine h.ite (State.Places.ite ((h.setTrc ..).count ..) ?_)
  simpa using hstored

/-- The END records of a command. -/
theorem State.Places.traceEnds {i : Issued} (h : s.Places (TraceReg i.part) t) (killed : Bool) :
    s.Places (TraceReg i.part) (t.traceEnds i killed) :=
  h.foldl fun _ _ _ hu => hu.trace ..

/-! ## Work discarded (R413) -/

theorem State.places_discard (s : State) (p ctx : Nat) : s.Places (DiscardReg p) (s.discard p ctx) := by
  have hmxe : DiscardReg p (MXE_STATUS p) := .inr (by simp only [MXE_STATUS]; omega)
  have hupd : DiscardReg p (UPD_STATUS p) := .inr (by simp only [UPD_STATUS]; omega)
  have hends : s.Places (DiscardReg p)
      ((s.inflight.filter (fun i => i.part == p && i.ctx == ctx)).foldl (fun t i => t.traceEnds i true) s) := by
    refine (State.Places.refl s _).foldl fun u i hi hu => hu.trans ?_
    have hpart : i.part = p := (by simpa using (List.mem_filter.mp hi).2 : i.part = p ∧ _).1
    exact ((State.Places.refl u (TraceReg i.part)).traceEnds true).mono fun a ha => discardReg_of_trace (hpart ▸ ha)
  unfold State.discard
  simp only []
  generalize List.foldl _ s _ = u at hends
  have hdrop (l1 l2 l3 l4 l5 l6 l7) : s.Places (DiscardReg p)
      ({ u with inflight := l1, vxCmds := l2, held := l3, holds := l4, colls := l5, preload := l6, txq := l7 } : State) :=
    ⟨hends.jobs, hends.owner, hends.rebuilds, hends.regs.of_regs rfl⟩
  split
  · exact (((hdrop ..).setFld _ hmxe).setFld _ hmxe).setFld _ hupd
  · exact ((((hdrop ..).setFld _ hmxe).setFld _ hmxe).setFld _ hupd).setFld (f := COL_STATUS_BUSY) _ (.inl rfl)

/-! ## Hosting entries -/

theorem not_discardReg_entry {q p e : Nat} (he : e < 32) : ¬ DiscardReg q (CAM_HOST_W0 p e) := by
  simp only [DiscardReg, CAM_HOST_W0, COL_STATUS, partBase]
  omega

theorem reportReg_entry (p e : Nat) : reportReg (CAM_HOST_W0 p e) = false := by
  simp [reportReg, EVR_RSEQ, EVR_STATUS, DBG_GSTATUS, CAM_HOST_W0, partBase]
  omega

theorem entry_ne {p e q n : Nat} (he : e < 32) (hn : n < 32) (h : (q, n) ≠ (p, e)) : CAM_HOST_W0 p e ≠ CAM_HOST_W0 q n := by
  intro heq
  simp only [CAM_HOST_W0, partBase] at heq
  exact h (Prod.ext (by show q = p; omega) (by show n = e; omega))

theorem entry_ne_killed (p e q : Nat) (he : e < 32) : CAM_HOST_W0 p e ≠ CAM_KILLED q := by
  simp only [CAM_HOST_W0, CAM_KILLED, partBase]
  omega

/-- Work that leaves the entries' first words alone leaves their states alone. -/
theorem State.Places.entryState (h : s.Places P t) {p e : Nat} (hp : ¬ P (CAM_HOST_W0 p e)) :
    t.fld (CAM_HOST_W0_STATE p e) = s.fld (CAM_HOST_W0_STATE p e) := h.regs.fld hp (reportReg_entry p e)

theorem State.fld_discard_entry (s : State) (q n : Nat) {p e : Nat} (he : e < 32) :
    (s.discard q n).fld (CAM_HOST_W0_STATE p e) = s.fld (CAM_HOST_W0_STATE p e) :=
  (s.places_discard q n).entryState (not_discardReg_entry he)

/-- A freed entry is FREE, and every other entry as it was. -/
theorem State.fld_freeEntry (s : State) {p e q n : Nat} (hp : p < 8) (he : e < 32) (hn : n < 32) :
    (s.freeEntry q n).fld (CAM_HOST_W0_STATE p e) = if (q, n) = (p, e) then 0 else s.fld (CAM_HOST_W0_STATE p e) := by
  rw [State.freeEntry, State.fld_of_reg (State.reg_setFld_ne _ _ _ (entry_ne_killed p e q he))]
  split
  · next h =>
    obtain ⟨rfl, rfl⟩ := Prod.mk.inj h
    exact State.fld_clearRegs_zero _ (Nat.le_refl _) (Nat.lt_add_of_pos_right (by decide)) (wordDefault_entry hp he)
  · next h =>
    have hne := entry_ne he hn h
    rw [State.fld_clearRegs_away, State.fld_discard_entry _ _ _ he]
    simp only [CAM_HOST_W0_STATE, CAM_HOST_W0, partBase] at hne ⊢
    omega

/-- An entry that goes back to LOADING: its work is discarded. -/
def State.reloadEntry (s : State) (x : Nat × Nat) : State :=
  ((s.discard x.1 x.2).setFld (CAM_HOST_W0_STATE x.1 x.2) 1).setFld ⟨CAM_KILLED x.1, x.2, 1⟩ 0

theorem State.fld_reloadEntry (s : State) {x y : Nat × Nat} (hx : x.2 < 32) (hy : y.2 < 32) :
    (s.reloadEntry y).fld (CAM_HOST_W0_STATE x.1 x.2) = if y = x then 1 else s.fld (CAM_HOST_W0_STATE x.1 x.2) := by
  rw [State.reloadEntry, State.fld_of_reg (State.reg_setFld_ne _ _ _ (entry_ne_killed _ _ _ hx))]
  split
  · next h =>
    rw [h, State.fld_setFld_self _ _ _ (Nat.le_of_ble_eq_true rfl)]
    rfl
  · next h => rw [State.fld_of_reg (State.reg_setFld_ne _ _ _ (entry_ne hx hy h)), State.fld_discard_entry _ _ _ hx]

/-- Registers that entries which are freed or loaded again may write. -/
def EntryWork (a : Nat) : Prop := a = COL_STATUS ∨ 0x2000000 ≤ a

theorem entryWork_discard {p a : Nat} (h : DiscardReg p a) : EntryWork a := by
  simp only [EntryWork, DiscardReg, partBase] at *
  omega

theorem entryWork_part (p n : Nat) : EntryWork (partBase p + n) := .inr (by rw [partBase]; omega)

theorem State.Places.reloadEntry (h : s.Places EntryWork t) (x : Nat × Nat) : s.Places EntryWork (t.reloadEntry x) :=
  ((h.trans ((t.places_discard x.1 x.2).mono fun _ => entryWork_discard)).setFld _
    (.inr (by simp only [CAM_HOST_W0_STATE, CAM_HOST_W0, partBase]; omega))).setFld _ (entryWork_part ..)

theorem State.Places.clearRegs (h : s.Places P t) {b n : Nat} (hp : ∀ a, b ≤ a → a < b + 4 * n → P a) :
    s.Places P (t.clearRegs b n) := by
  refine ⟨h.jobs, h.owner, h.rebuilds, fun a ha hr => ?_⟩
  rw [State.reg_clearRegs, if_neg fun hin => ha (hp a hin.1 hin.2)]
  exact h.regs a ha hr

theorem State.Places.freeEntry (h : s.Places EntryWork t) (p e : Nat) : s.Places EntryWork (t.freeEntry p e) :=
  State.Places.setFld (State.Places.clearRegs (h.trans ((t.places_discard p e).mono fun _ => entryWork_discard))
    fun a ha _ => .inr (by simp only [CAM_HOST_W0, partBase] at ha; omega)) _ (entryWork_part ..)

/-- A ring that is reset: its work is discarded, and it halts. -/
theorem State.places_resetRing (s : State) (p k : Nat) :
    s.Places (fun a => DiscardReg p a ∨ a = CAM_RING_CTRL p k) (s.ctxReset p (32 + k)) := by
  have hd := (s.places_discard p (32 + k)).mono (Q := fun a => DiscardReg p a ∨ a = CAM_RING_CTRL p k) fun _ => .inl
  have hring : isRing (32 + k) = true := by simp [isRing]
  unfold State.ctxReset
  simp only [hring, if_true, Nat.add_sub_cancel_left]
  split
  · exact hd.setFld _ (.inr rfl)
  · exact hd

end

/-! ## Entries of a job -/

theorem State.mem_jobEntries {s : State} {j : Nat} {f : Nat → Bool} {x : Nat × Nat} : x ∈ s.jobEntries j f ↔
    x.1 < 8 ∧ s.jobOf x.1 = j ∧ x.2 < 32 ∧ f (s.fld (CAM_HOST_W0_STATE x.1 x.2)) = true := by
  obtain ⟨p, e⟩ := x
  simp [State.jobEntries, and_assoc]

theorem State.jobOf_congr {s t : State} (h : t.owner = s.owner) (p : Nat) : t.jobOf p = s.jobOf p := by
  rw [State.jobOf, h, State.jobOf]

/-- The entries of a job in a state, where neither the owners of partitions nor the entries' states have changed. -/
theorem State.mem_jobEntries_congr {s t : State} (ho : t.owner = s.owner)
    (hw : ∀ p e, e < 32 → t.fld (CAM_HOST_W0_STATE p e) = s.fld (CAM_HOST_W0_STATE p e)) {j : Nat} {f : Nat → Bool} {x : Nat × Nat} :
    x ∈ t.jobEntries j f ↔ x ∈ s.jobEntries j f := by
  rw [State.mem_jobEntries, State.mem_jobEntries, State.jobOf_congr ho]
  refine and_congr_right fun _ => and_congr_right fun _ => and_congr_right fun he => ?_
  rw [hw _ _ he]

/-! ## The rollback of a job (R363, R369) -/

/-- The entries of a list back at LOADING. -/
def State.reloadEntries (s : State) (l : List (Nat × Nat)) : State := l.foldl State.reloadEntry s

theorem State.reloadEntries_places (s : State) (l : List (Nat × Nat)) : s.Places EntryWork (s.reloadEntries l) :=
  (State.Places.refl s _).foldl fun _ x _ hu => hu.reloadEntry x

theorem State.fld_reloadEntries (s : State) {l : List (Nat × Nat)} (hl : ∀ x ∈ l, x.2 < 32) {x : Nat × Nat} (hx : x ∈ l) :
    (s.reloadEntries l).fld (CAM_HOST_W0_STATE x.1 x.2) = 1 := by
  refine foldl_brings (I := fun _ => True) (Q := fun t => t.fld (CAM_HOST_W0_STATE x.1 x.2) = 1) hx trivial (fun _ _ _ _ => trivial)
    (fun t _ => ?_) (fun t y hy _ hq => ?_)
  · rw [State.fld_reloadEntry _ (hl x hx) (hl x hx), if_pos rfl]
  · rw [State.fld_reloadEntry _ (hl x hx) (hl y hy)]
    split
    · rfl
    · exact hq

/-- A module that notes a rollback, counted unless it is at one already. -/
def State.rollbackNoted (s : State) (j cause : Nat) (r : JobRun) : State := (if r.genUp then s else s.gcount 0x222 1).noteRollback j cause

/-- Its entries loading, and no shard diverted. -/
def State.rollbackCleared (s : State) (j cause : Nat) (r : JobRun) : State :=
  ((s.rollbackNoted j cause r).reloadEntries ((s.rollbackNoted j cause r).jobEntries j (fun st => st != 0))).clearRegs (RCV_J_DIVERT j 0) 2048

theorem State.globalRollback_eq {s : State} {j : Nat} {r : JobRun} (hr : s.run j = some r) (cause : Nat) : s.globalRollback j cause =
    ({ s.rollbackCleared j cause r with
        feeds := (s.rollbackCleared j cause r).feeds.filter (fun f => f.job != j)
        rcopy := (s.rollbackCleared j cause r).rcopy.filter (fun c => c.job != j)
        rebuilds := (s.rollbackCleared j cause r).rebuilds.filter (fun b => !(b.job == j && b.use == 1)) } : State).updRun j
      (fun r => { r with genUp := true }) := by
  rw [State.globalRollback, hr]
  rfl

theorem State.rollbackNoted_effect (s : State) (j : Nat) {cause : Nat} (hc : cause < 16) (r : JobRun) :
    let t := s.rollbackNoted j cause r
    t.fld (RCV_J_STATUS_PHASE j) = 4 ∧ t.fld (RCV_J_STATUS_CAUSE j) = cause ∧ s.Places (fun a => a = RCV_J_STATUS j) t := by
  have hcount : s.Places (fun a => a = RCV_J_STATUS j) (if r.genUp then s else s.gcount 0x222 1) := by
    split
    · exact .refl ..
    · exact (State.Places.refl ..).gcount ..
  unfold State.rollbackNoted
  generalize (if r.genUp then s else s.gcount 0x222 1) = u at hcount
  obtain ⟨hphase, hcause, -, -, hbare, hregs⟩ := u.noteRollback_effect (j := j) hc
  refine ⟨hphase, hcause, hcount.trans ⟨?_, ?_, ?_, hregs⟩⟩
  · exact (congrArg State.jobs hbare :)
  · exact (congrArg State.owner hbare :)
  · exact (congrArg State.rebuilds hbare :)

theorem rcvStatus_ne_entry {j p e : Nat} (hj : j < 8) : CAM_HOST_W0 p e ≠ RCV_J_STATUS j := by
  simp only [CAM_HOST_W0, RCV_J_STATUS, partBase]
  omega

theorem State.rollbackCleared_effect {s : State} {j cause : Nat} (hj : j < 8) (hc : cause < 16) (r : JobRun) :
    let t := s.rollbackCleared j cause r
    t.fld (RCV_J_STATUS_PHASE j) = 4 ∧ t.fld (RCV_J_STATUS_CAUSE j) = cause ∧
    (∀ x ∈ s.jobEntries j (fun st => st != 0), t.fld (CAM_HOST_W0_STATE x.1 x.2) = 1) ∧
    (∀ w, w < 2048 → t.fld (RCV_J_DIVERT_DIVERT j w) = 0) ∧ t.jobs = s.jobs := by
  obtain ⟨hphase, hcause, hnoted⟩ := s.rollbackNoted_effect j hc r
  unfold State.rollbackCleared
  generalize s.rollbackNoted j cause r = u at hphase hcause hnoted
  have hplaces := u.reloadEntries_places (u.jobEntries j (fun st => st != 0))
  have hloading (x) (hx : x ∈ u.jobEntries j (fun st => st != 0)) :=
    u.fld_reloadEntries (fun x hx => (State.mem_jobEntries.mp hx).2.2.1) hx
  generalize u.reloadEntries (u.jobEntries j (fun st => st != 0)) = v at hplaces hloading
  have hstatus (f : Fld) (hf : f.addr = RCV_J_STATUS j) : (v.clearRegs (RCV_J_DIVERT j 0) 2048).fld f = u.fld f := by
    rw [State.fld_clearRegs_away]
    · refine hplaces.regs.fld ?_ (hf ▸ reportReg_rcvStatus j)
      rw [hf]
      simp only [EntryWork, RCV_J_STATUS, COL_STATUS]
      omega
    · rw [hf]
      simp only [RCV_J_STATUS, RCV_J_DIVERT]
      omega
  refine ⟨(hstatus _ rfl).trans hphase, (hstatus _ rfl).trans hcause, fun x hx => ?_, fun w hw => ?_, hplaces.jobs.trans hnoted.jobs⟩
  · rw [State.fld_clearRegs_away]
    · exact hloading x ((State.mem_jobEntries_congr hnoted.owner fun p e he => hnoted.entryState (rcvStatus_ne_entry hj)).mpr hx)
    · simp only [CAM_HOST_W0_STATE, CAM_HOST_W0, partBase, RCV_J_DIVERT]
      omega
  · refine State.fld_clearRegs_zero _ ?_ ?_ (wordDefault_divert hj hw)
    · simp only [RCV_J_DIVERT_DIVERT, RCV_J_DIVERT]; omega
    · simp only [RCV_J_DIVERT_DIVERT, RCV_J_DIVERT]; omega

/-- A module at its job's rollback: PHASE and CAUSE, every entry loading, no shard diverted, no replay fed. -/
theorem State.globalRollback_effect {s : State} {j cause : Nat} {r : JobRun} (hj : j < 8) (hc : cause < 16) (hr : s.run j = some r) :
    let t := s.globalRollback j cause
    t.fld (RCV_J_STATUS_PHASE j) = 4 ∧ t.fld (RCV_J_STATUS_CAUSE j) = cause ∧
    (∀ x ∈ s.jobEntries j (fun st => st != 0), t.fld (CAM_HOST_W0_STATE x.1 x.2) = 1) ∧
    (∀ w, w < 2048 → t.fld (RCV_J_DIVERT_DIVERT j w) = 0) ∧ (∀ f ∈ t.feeds, f.job ≠ j) ∧ t.run j = some { r with genUp := true } := by
  obtain ⟨hphase, hcause, hentries, hdivert, hjobs⟩ := s.rollbackCleared_effect hj hc r
  rw [State.globalRollback_eq hr]
  generalize s.rollbackCleared j cause r = v at hphase hcause hentries hdivert hjobs
  refine ⟨hphase, hcause, hentries, hdivert, fun f hf => ?_, State.run_updRun ?_ _⟩
  · simpa using (List.mem_filter.mp hf).2
  · exact (congrArg (fun l => storeGet none l j) hjobs).trans hr

end Sys2Proof.Machine

/-! SUPPORT. The fence of a module: it hosts nothing, and says so (R375). -/
namespace Sys2Proof.Machine

/-! ## A partition is emptied -/

/-- Command rings reset. -/
def State.ringsReset (s : State) (p : Nat) : State := forRange 4 (fun m u => u.ctxReset p (32 + m)) s

/-- Every hosting entry of a partition freed, and its rings reset. -/
def State.partEmptied (s : State) (p : Nat) : State := forRange 32 (fun e u => u.freeEntry p e) (s.ringsReset p)

theorem State.ringsReset_places (s : State) (p : Nat) :
    s.Places (fun a => DiscardReg p a ∨ ∃ k, a = CAM_RING_CTRL p k) (s.ringsReset p) :=
  (State.Places.refl s _).forRange fun _ u _ hu => hu.trans ((u.places_resetRing p _).mono fun _ ha => ha.imp_right fun h => ⟨_, h⟩)

theorem not_ring_entry (p q e : Nat) : ¬ ∃ k, CAM_HOST_W0 p e = CAM_RING_CTRL q k := by
  rintro ⟨k, h⟩
  simp only [CAM_HOST_W0, CAM_RING_CTRL, partBase] at h
  omega

theorem State.partEmptied_places (s : State) (p : Nat) : s.Places EntryWork (s.partEmptied p) := by
  refine State.Places.forRange ((s.ringsReset_places p).mono ?_) fun e u _ hu => hu.freeEntry p e
  rintro a (h | ⟨k, rfl⟩)
  · exact entryWork_discard h
  · exact .inr (by simp only [CAM_RING_CTRL, partBase]; omega)

theorem State.fld_ringsReset (s : State) (q : Nat) {p e : Nat} (he : e < 32) :
    (s.ringsReset q).fld (CAM_HOST_W0_STATE p e) = s.fld (CAM_HOST_W0_STATE p e) :=
  (s.ringsReset_places q).entryState fun h => h.elim (not_discardReg_entry he) (not_ring_entry p q e)

/-- An entry that is FREE stays so while a partition is emptied. -/
theorem State.partEmptied_stays {s : State} {p e : Nat} (hp : p < 8) (he : e < 32) (q : Nat) (h : s.fld (CAM_HOST_W0_STATE p e) = 0) :
    (s.partEmptied q).fld (CAM_HOST_W0_STATE p e) = 0 := by
  have hrings := (s.fld_ringsReset q he).trans h
  unfold State.partEmptied
  generalize s.ringsReset q = u at hrings
  refine forRange_ind (f := fun n u => u.freeEntry q n) (I := fun _ t => t.fld (CAM_HOST_W0_STATE p e) = 0) hrings fun n t hn ht => ?_
  rw [State.fld_freeEntry _ hp he hn]
  split
  · rfl
  · exact ht

/-- Every entry of an emptied partition is FREE. -/
theorem State.partEmptied_free (s : State) {p e : Nat} (hp : p < 8) (he : e < 32) : (s.partEmptied p).fld (CAM_HOST_W0_STATE p e) = 0 := by
  unfold State.partEmptied
  generalize s.ringsReset p = u
  unfold forRange
  refine foldl_brings (f := fun t n => t.freeEntry p n) (I := fun _ => True) (Q := fun t => t.fld (CAM_HOST_W0_STATE p e) = 0) (x := e)
    (List.mem_range.mpr he) trivial (fun _ _ _ _ => trivial) (fun t _ => ?_) (fun t n hn _ hq => ?_)
  · rw [State.fld_freeEntry _ hp he he, if_pos rfl]
  · rw [State.fld_freeEntry _ hp he (List.mem_range.mp hn)]
    split
    · rfl
    · exact hq

/-! ## Health follows -/

/-- Registers of a module's health. -/
def HealthReg (a : Nat) : Prop := a = RCV_HEALTH ∨ a = KPR_SB_STATE

theorem State.regsKept_syncHealth (s : State) : s.RegsKept s.syncHealth HealthReg := by
  have hset (h : Nat) : s.RegsKept ((s.setFld RCV_HEALTH_MODULE h).setFld KPR_SB_STATE_HEALTH h) HealthReg :=
    ((State.RegsKept.refl s _).setFld _ (.inl rfl)).setFld _ (.inr rfl)
  unfold State.syncHealth
  generalize s.moduleHealth s.hubFatal = h
  have hh := hset h
  simp only []
  generalize (s.setFld RCV_HEALTH_MODULE h).setFld KPR_SB_STATE_HEALTH h = u at hh
  split
  · exact State.RegsKept.setFld (t := { u with pins := { u.pins with fault := u.pins.fault ||| ftRetired } }) (f := KPR_SB_STATE_FAULT)
      (hh.of_regs rfl) 1 (.inr rfl)
  · exact State.RegsKept.setFld (t := { u with pins := { u.pins with fault := u.pins.fault &&& (63 - ftRetired) } })
      (f := KPR_SB_STATE_FAULT) (hh.of_regs rfl) _ (.inr rfl)

/-- One alert leaves another as it stands. -/
theorem State.fld_sbAlert_other (s : State) {b c : Nat} (h : c ≠ b) (hb : b < 32) :
    (s.sbAlert b).fld ⟨KPR_SB_ALERT, c, 1⟩ = s.fld ⟨KPR_SB_ALERT, c, 1⟩ := by
  have hset : (s.setFld ⟨KPR_SB_ALERT, b, 1⟩ 1).fld ⟨KPR_SB_ALERT, c, 1⟩ = s.fld ⟨KPR_SB_ALERT, c, 1⟩ :=
    State.fld_setFld_apart _ _ _ _ (.inr (by simp only []; omega)) (by simp only []; omega)
  unfold State.sbAlert
  simp only []
  split
  · exact (State.fld_of_reg (State.reg_emit ..)).trans hset
  · exact hset

/-! ## FENCED (R375) -/

/-- The fence's own registers. -/
def State.fenceSet (s : State) (j gen jobId : Nat) : State :=
  (((s.setFld RCV_FENCE_FENCED 1).setFld RCV_FENCE_JOB_FLD j).setFld RCV_FENCE_GEN gen).setFld RCV_FENCE_JOB_JOB_ID jobId

/-- The partitions of every job emptied. -/
def State.allEmptied (s : State) : State := ((List.range 8).filter (fun p => s.jobOf p < 8)).foldl State.partEmptied s

/-- A module whose health follows, with the alerts of its health and its fence. -/
def State.fenceTold (s : State) (oldM j : Nat) : State :=
  let t := ({ s with uhsDirty := true } : State).syncHealth
  let t := if oldM = t.fld RCV_HEALTH_MODULE then t else t.healthRec 0 0 oldM (t.fld RCV_HEALTH_MODULE) 4 0
  ((t.sbAlert alHealth).sbAlert alFenced).event RCV_FENCE_FENCED 0 j

theorem State.enterFenced_eq (s : State) (j gen jobId : Nat) :
    s.enterFenced j gen jobId = (s.fenceSet j gen jobId).allEmptied.fenceTold (s.fld RCV_HEALTH_MODULE) j := rfl

theorem State.fenceSet_effect (s : State) {j gen jobId : Nat} (hj : j < 8) (hg : gen < 2 ^ 16) (hi : jobId < 2 ^ 32) :
    let t := s.fenceSet j gen jobId
    t.fld RCV_FENCE_FENCED = 1 ∧ t.fld RCV_FENCE_JOB_FLD = j ∧ t.fld RCV_FENCE_GEN = gen ∧ t.fld RCV_FENCE_JOB_JOB_ID = jobId ∧
    t.owner = s.owner := by
  have hword : RCV_FENCE_JOB_JOB_ID.addr ≠ RCV_FENCE := by decide
  have howner : (s.fenceSet j gen jobId).owner = s.owner := by
    rw [State.fenceSet, State.owner_setFld, State.owner_setFld, State.owner_setFld, State.owner_setFld]
  unfold State.fenceSet at howner ⊢
  generalize hu : s.setFld RCV_FENCE_FENCED 1 = u at howner ⊢
  have hfenced : u.fld RCV_FENCE_FENCED = 1 := by rw [← hu]; exact State.fld_setFld_one _ rfl (by decide)
  refine ⟨?_, ?_, ?_, ?_, howner⟩
  · rw [State.fld_of_reg (State.reg_setFld_ne _ _ _ hword.symm), State.fld_setFld_above _ _ (by decide) (by decide),
      State.fld_setFld_above _ _ (by decide) (by decide), hfenced]
  · rw [State.fld_of_reg (State.reg_setFld_ne _ _ _ hword.symm), State.fld_setFld_above _ _ (by decide) (by decide),
      State.fld_setFld_self _ _ _ (by decide)]
    exact Nat.mod_eq_of_lt hj
  · rw [State.fld_of_reg (State.reg_setFld_ne _ _ _ hword.symm), State.fld_setFld_self _ _ _ (by decide)]
    exact Nat.mod_eq_of_lt hg
  · rw [State.fld_setFld_self _ _ _ (by decide)]
    exact Nat.mod_eq_of_lt hi

theorem State.allEmptied_places (s : State) : s.Places EntryWork s.allEmptied :=
  (State.Places.refl s _).foldl fun _ p _ hu => hu.trans (State.partEmptied_places _ p)

theorem State.allEmptied_free (s : State) {p e : Nat} (hp : p < 8) (he : e < 32) (hj : s.jobOf p < 8) :
    s.allEmptied.fld (CAM_HOST_W0_STATE p e) = 0 :=
  foldl_brings (I := fun _ => True) (Q := fun t => t.fld (CAM_HOST_W0_STATE p e) = 0) (x := p)
    (List.mem_filter.mpr ⟨List.mem_range.mpr hp, decide_eq_true hj⟩) trivial (fun _ _ _ _ => trivial)
    (fun t _ => t.partEmptied_free hp he) (fun _ q _ _ hq => State.partEmptied_stays hp he q hq)

/-- Registers that tell of a fence. -/
def ToldReg (a : Nat) : Prop := HealthReg a ∨ a = KPR_SB_ALERT

theorem State.fenceTold_effect (s : State) (oldM j : Nat) :
    (s.fenceTold oldM j).fld ⟨KPR_SB_ALERT, alHealth, 1⟩ = 1 ∧ (s.fenceTold oldM j).fld ⟨KPR_SB_ALERT, alFenced, 1⟩ = 1 ∧
    s.RegsKept (s.fenceTold oldM j) ToldReg := by
  have hreport : reportReg KPR_SB_ALERT = false := by decide
  have hsync : s.RegsKept ({ s with uhsDirty := true } : State).syncHealth ToldReg :=
    ((State.RegsKept.refl s _).of_regs rfl).trans ((State.regsKept_syncHealth _).mono fun _ => .inl)
  unfold State.fenceTold
  generalize ({ s with uhsDirty := true } : State).syncHealth = t at hsync
  simp only []
  have hrec : s.RegsKept (if oldM = t.fld RCV_HEALTH_MODULE then t else t.healthRec 0 0 oldM (t.fld RCV_HEALTH_MODULE) 4 0) ToldReg := by
    split
    · exact hsync
    · exact hsync.trans fun a _ _ => State.reg_keeperRec ..
  generalize (if oldM = t.fld RCV_HEALTH_MODULE then t else t.healthRec 0 0 oldM (t.fld RCV_HEALTH_MODULE) 4 0) = u at hrec
  refine ⟨?_, ?_, fun a ha hr => ?_⟩
  · rw [State.fld_event _ _ _ _ _ hreport, State.fld_sbAlert_other _ (by decide) (by decide)]
    exact State.fld_sbAlert_self _ _ (by decide)
  · rw [State.fld_event _ _ _ _ _ hreport]
    exact State.fld_sbAlert_self _ _ (by decide)
  · have hne : a ≠ KPR_SB_ALERT := fun e => ha (.inr e)
    rw [State.reg_event _ _ _ _ hr, State.reg_sbAlert _ _ hne, State.reg_sbAlert _ _ hne]
    exact hrec a ha hr

/-- A module that is fenced: the fence names the job's generation, no entry of a job is hosted, and the alerts stand. -/
theorem State.enterFenced_effect (s : State) {j gen jobId : Nat} (hj : j < 8) (hg : gen < 2 ^ 16) (hi : jobId < 2 ^ 32) :
    let t := s.enterFenced j gen jobId
    t.flag RCV_FENCE_FENCED = true ∧ t.fld RCV_FENCE_JOB_FLD = j ∧ t.fld RCV_FENCE_GEN = gen ∧ t.fld RCV_FENCE_JOB_JOB_ID = jobId ∧
    (∀ p e, p < 8 → e < 32 → s.jobOf p < 8 → t.fld (CAM_HOST_W0_STATE p e) = 0) ∧
    t.fld ⟨KPR_SB_ALERT, alHealth, 1⟩ = 1 ∧ t.fld ⟨KPR_SB_ALERT, alFenced, 1⟩ = 1 := by
  obtain ⟨hfenced, hjob, hgen, hid, howner⟩ := s.fenceSet_effect hj hg hi
  rw [State.enterFenced_eq]
  generalize s.fenceSet j gen jobId = u at hfenced hjob hgen hid howner
  have hplaces := u.allEmptied_places
  have hfree (p e) (hp : p < 8) (he : e < 32) := u.allEmptied_free hp he
  generalize u.allEmptied = v at hplaces hfree
  obtain ⟨hhealth, halert, hkept⟩ := v.fenceTold_effect (s.fld RCV_HEALTH_MODULE) j
  have hstands (f : Fld) (hf : f.addr = RCV_FENCE ∨ f.addr = RCV_FENCE_JOB) :
      (v.fenceTold (s.fld RCV_HEALTH_MODULE) j).fld f = u.fld f := by
    have h1 : ¬ ToldReg f.addr := by
      rintro ((h | h) | h) <;> rcases hf with e | e <;> exact absurd (e.symm.trans h) (by decide)
    have h2 : ¬ EntryWork f.addr := by
      rcases hf with e | e <;> rw [e] <;> exact fun h => by revert h; simp only [EntryWork]; decide
    have h3 : reportReg f.addr = false := by rcases hf with e | e <;> rw [e] <;> decide
    exact (hkept.fld h1 h3).trans (hplaces.regs.fld h2 h3)
  refine ⟨?_, (hstands _ (.inl rfl)).trans hjob, (hstands _ (.inl rfl)).trans hgen, (hstands _ (.inr rfl)).trans hid,
    fun p e hp he h8 => ?_, hhealth, halert⟩
  · rw [State.flag, hstands _ (.inl rfl), hfenced]
    rfl
  · refine (hkept.fld ?_ (reportReg_entry p e)).trans (hfree p e hp he (by rwa [State.jobOf_congr howner]))
    rintro ((h | h) | h) <;>
      simp only [CAM_HOST_W0_STATE, CAM_HOST_W0, partBase, RCV_HEALTH, KPR_SB_STATE, KPR_SB_ALERT] at h <;> omega

/-! ## DEADBOLT -/

/-- A DEADBOLT that does not fence this module: it names another, no job it has, or no newer generation, or the module is fenced. -/
theorem execDeadbolt_counted {s : State} {src : Nat} {m : List Nat} (hrun : s.boot = .running) (hlive : s.isDead (mByte m 1 % 8) src = false) :
    let j := mByte m 1 % 8
    let fences := s.flag RCV_FENCE_FENCED = false ∧ mField m 4 3 % 2 ^ 20 = s.gid ∧ s.slotLoaded j = true ∧
      genNewer (mField m 8 2) (s.fld (FAB_JOB_GEN_GEN j)) = true
    (¬ fences → exec (.deadbolt src m) s = .next (s.gcount 0x224 1)) ∧
    (fences → exec (.deadbolt src m) s = .next ((s.gcount 0x224 1).enterFenced j (mField m 8 2) (mField m 12 4))) := by
  intro j fences
  have hj : j < 8 := Nat.mod_lt _ (by decide)
  have hfence : (s.gcount 0x224 1).flag RCV_FENCE_FENCED = s.flag RCV_FENCE_FENCED := by
    rw [State.flag, State.fld_gcount _ _ _ _ (by decide), State.flag]
  have hgid : (s.gcount 0x224 1).gid = s.gid := State.fld_gcount _ _ _ _ (by decide)
  have hgen : (s.gcount 0x224 1).fld (FAB_JOB_GEN_GEN j) = s.fld (FAB_JOB_GEN_GEN j) := by
    refine State.fld_gcount _ _ _ _ (reportReg_fabric ?_ ?_) <;> simp only [FAB_JOB_GEN_GEN, FAB_JOB_GEN] <;> omega
  have hloaded : (s.gcount 0x224 1).slotLoaded j = s.slotLoaded j := by rw [State.slotLoaded, State.owner_gcount, State.slotLoaded]
  have hexec : exec (.deadbolt src m) s = .next (if s.flag RCV_FENCE_FENCED || mField m 4 3 % 2 ^ 20 ≠ s.gid || !s.slotLoaded j ||
      !genNewer (mField m 8 2) (s.fld (FAB_JOB_GEN_GEN j)) then s.gcount 0x224 1
      else (s.gcount 0x224 1).enterFenced j (mField m 8 2) (mField m 12 4)) := by
    change execDeadbolt src m s = _
    simp only [execDeadbolt, State.control_live hrun hlive]
    rw [hfence, hgid, hgen, hloaded]
  rw [hexec]
  refine ⟨fun h => congrArg _ (if_pos ?_), fun ⟨h1, h2, h3, h4⟩ => congrArg _ (if_neg ?_)⟩
  · simpa [fences, imp_iff_not_or, or_assoc] using h
  · rw [h1, h3, h4, h2]
    simp

end Sys2Proof.Machine

/-! SUPPORT. The cut (R350): what a declared loss notes, the shards it diverts, the entries it parks; and its timeout. -/
namespace Sys2Proof.Machine

/-! ## What stays of the registers above the module's own -/

/-- `t` is `s` but for what it keeps of its jobs, the counters, the reports, and the registers of the module below its partitions: those
of the partitions, and the active tables above them, stay. -/
structure State.LowWork (s t : State) : Prop where
  bare : t.bare = { s.bare with jobs := t.jobs }
  high : ∀ a, 0x2000000 ≤ a → t.reg a = s.reg a

section
variable {s t u : State}

theorem State.LowWork.refl (s : State) : s.LowWork s := ⟨rfl, fun _ _ => rfl⟩

theorem State.LowWork.trans (h : s.LowWork t) (h' : t.LowWork u) : s.LowWork u := by
  refine ⟨?_, fun a ha => (h'.high a ha).trans (h.high a ha)⟩
  rw [h'.bare, h.bare]

theorem State.LowWork.setFld (h : s.LowWork t) {f : Fld} (v : Nat) (hf : f.addr < 0x2000000) : s.LowWork (t.setFld f v) :=
  h.trans ⟨rfl, fun _ ha => State.reg_setFld_ne _ _ _ (by omega)⟩

theorem State.LowWork.updRun (h : s.LowWork t) (j : Nat) (f : JobRun → JobRun) : s.LowWork (t.updRun j f) := h.trans ⟨rfl, fun _ _ => rfl⟩

theorem State.LowWork.owner (h : s.LowWork t) : t.owner = s.owner := (congrArg State.owner h.bare :)

theorem State.LowWork.inflight (h : s.LowWork t) : t.inflight = s.inflight := (congrArg State.inflight h.bare :)

theorem State.LowWork.fld (h : s.LowWork t) {f : Fld} (hf : 0x2000000 ≤ f.addr) : t.fld f = s.fld f := State.fld_of_reg (h.high _ hf)

end

section
variable (s : State) {a : Nat} (h : 0x2000000 ≤ a)
include h

theorem State.reg_pushRec_high (type body : Nat) : (s.pushRec type body).reg a = s.reg a := by
  have hseq : a ≠ EVR_RSEQ_RSEQ.addr := by simp only [EVR_RSEQ_RSEQ, EVR_RSEQ]; omega
  have hstatus : a ≠ EVR_STATUS_STAGED.addr := by simp only [EVR_STATUS_STAGED, EVR_STATUS]; omega
  unfold State.pushRec
  generalize hq : s.formRec type body = q
  have hr : q.1.reg a = s.reg a := by rw [← hq]; exact State.reg_setFld_ne _ _ _ hseq
  obtain ⟨q, r⟩ := q
  simp only []
  rw [State.reg_setFld_ne _ _ _ hstatus, State.reg_gcntRaw]
  exact (State.reg_congr (s := q) rfl a).trans hr

theorem State.reg_pushGap_high : s.pushGap.reg a = s.reg a := by
  unfold State.pushGap
  split
  · rfl
  · simp only []
    generalize hq : s.pushRec 0x12 _ = q
    exact (State.reg_congr (s := q) rfl a).trans (hq ▸ s.reg_pushRec_high h _ _)

/-- A staged record writes the recorder's own registers alone. -/
theorem State.reg_stageRec_high (type body : Nat) : (s.stageRec type body).reg a = s.reg a := by
  have hstatus : a ≠ EVR_STATUS_DROP_SEEN.addr := by simp only [EVR_STATUS_DROP_SEEN, EVR_STATUS]; omega
  have hpush : (s.pushGap.pushRec type body).reg a = s.reg a := by rw [State.reg_pushRec_high _ h, State.reg_pushGap_high _ h]
  have hdrop : ((s.gcntRaw 0x251 1).setFld EVR_STATUS_DROP_SEEN 1).reg a = s.reg a := by
    rw [State.reg_setFld_ne _ _ _ hstatus, State.reg_gcntRaw]
  have hrepeat : (s.gcntRaw 0x252 1).reg a = s.reg a := State.reg_gcntRaw ..
  unfold State.stageRec
  split
  · simp only []
    generalize s.gcntRaw 0x252 1 = q at hrepeat ⊢
    generalize (s.gcntRaw 0x251 1).setFld EVR_STATUS_DROP_SEEN 1 = q' at hdrop ⊢
    split
    · split <;> exact (State.reg_congr (s := q) rfl a).trans hrepeat
    · split
      · exact (State.reg_congr (s := q') rfl a).trans hdrop
      · exact hpush
  · exact hpush

theorem State.reg_gcount_high (n k : Nat) : (s.gcount n k).reg a = s.reg a := by
  have hsat : a ≠ DBG_GSTATUS_SAT_SEEN.addr := by simp only [DBG_GSTATUS_SAT_SEEN, DBG_GSTATUS]; omega
  unfold State.gcount
  simp only []
  split
  · rw [State.event, State.reg_stageRec_high _ h, State.reg_setFld_ne _ _ _ hsat, State.reg_gcntRaw]
  · exact State.reg_gcntRaw ..

end

theorem State.LowWork.gcount {s t : State} (h : s.LowWork t) (n k : Nat) : s.LowWork (t.gcount n k) := by
  have hb := State.bare_gcount t n k
  refine h.trans ⟨?_, fun a ha => t.reg_gcount_high ha n k⟩
  rw [State.jobs_of_bare hb, hb]
  rfl

/-! ## The loss is noted -/

/-- A counted cut: the step that runs, the lost module, the generation and the number of losses. -/
def State.lossNoted (s : State) (j lost gen step : Nat) : State :=
  let u := (s.gcount 0x221 1).setFld (RCV_J_TARGET_STEP j) step
  ((u.setFld (RCV_J_LOST_GID j) lost).setFld (RCV_J_LOSSES_GEN j) gen).setFld (RCV_J_LOSSES_COUNT j)
    (min 65535 (u.fld (RCV_J_LOSSES_COUNT j) + 1))

/-- The set in progress abandoned, and the job at PHASE cut. -/
def State.cutOpened (s : State) (j : Nat) : State := (s.abandonSet j).setFld (RCV_J_STATUS_PHASE j) 1

/-- An entry that has not ended its step is parked. -/
def State.parkEntry (step : Nat) (s : State) (x : Nat × Nat) : State :=
  if s.entryDone x.1 x.2 step then s else s.setFld (CAM_HOST_W0_STATE x.1 x.2) 4

/-- The running entries of a job parked. -/
def State.entriesParked (s : State) (j step : Nat) : State := (s.jobEntries j (fun st => st == 2)).foldl (State.parkEntry step) s

/-- The record of a cut that waits for its hinge. -/
def Cut.opened (lost gen step : Nat) (rb tree : Bool) (since : Nat) : Cut := ⟨lost, gen, step, rb, since, 0, false, false, tree, false⟩

theorem State.takeCut_eq {s : State} {j lost : Nat} {r : JobRun} (hl : 0 < lost) (hr : s.run j = some r) (hc : r.cut = none)
    (ha : r.arrived = false) (gen : Nat) (rb tree peers : Bool) : s.takeCut j lost gen rb tree peers =
      ((((s.lossNoted j lost gen r.step).cutOpened j).divertLost j lost r).entriesParked j r.step).updRun j
        (fun q => { q with cut := some (.opened lost gen r.step rb tree s.ftime), sent := false }) := by
  have hl : lost ≠ 0 := by omega
  rw [State.takeCut, hr]
  simp only [hc, ha, Bool.false_and, if_neg hl]
  rfl

section
variable (s : State) (j lost gen step : Nat)

theorem State.lowWork_lossNoted (hj : j < 8) : s.LowWork (s.lossNoted j lost gen step) :=
  ((((((State.LowWork.refl s).gcount 0x221 1).setFld (f := RCV_J_TARGET_STEP j) step
    (by simp only [RCV_J_TARGET_STEP, RCV_J_TARGET]; omega)).setFld (f := RCV_J_LOST_GID j) lost
    (by simp only [RCV_J_LOST_GID, RCV_J_LOST]; omega)).setFld (f := RCV_J_LOSSES_GEN j) gen
    (by simp only [RCV_J_LOSSES_GEN, RCV_J_LOSSES]; omega)).setFld (f := RCV_J_LOSSES_COUNT j) _
    (by simp only [RCV_J_LOSSES_COUNT, RCV_J_LOSSES]; omega))

theorem State.jobs_lossNoted : (s.lossNoted j lost gen step).jobs = s.jobs := by
  rw [State.lossNoted, State.jobs_setFld, State.jobs_setFld, State.jobs_setFld, State.jobs_setFld, State.jobs_gcount]

theorem State.lossNoted_effect (hj : j < 8) (hl : lost < 2 ^ 20) :
    let t := s.lossNoted j lost gen step
    t.fld (RCV_J_TARGET_STEP j) = step % 2 ^ 32 ∧ t.fld (RCV_J_LOST_GID j) = lost ∧ t.fld (RCV_J_LOSSES_GEN j) = gen % 2 ^ 16 ∧
    t.fld (RCV_J_LOSSES_COUNT j) = min 65535 (s.fld (RCV_J_LOSSES_COUNT j) + 1) := by
  have hlost : RCV_J_LOST j ≠ RCV_J_LOSSES j := by simp only [RCV_J_LOST, RCV_J_LOSSES]; omega
  have htarget : RCV_J_TARGET j ≠ RCV_J_LOSSES j := by simp only [RCV_J_TARGET, RCV_J_LOSSES]; omega
  have htl : RCV_J_TARGET j ≠ RCV_J_LOST j := by simp only [RCV_J_TARGET, RCV_J_LOST]; omega
  have hcount : ((s.gcount 0x221 1).setFld (RCV_J_TARGET_STEP j) step).fld (RCV_J_LOSSES_COUNT j) = s.fld (RCV_J_LOSSES_COUNT j) := by
    rw [State.fld_of_reg (State.reg_setFld_ne _ (RCV_J_TARGET_STEP j) _ htarget.symm), State.fld_gcount]
    exact reportReg_fabric (by simp only [RCV_J_LOSSES_COUNT, RCV_J_LOSSES]; omega) (by simp only [RCV_J_LOSSES_COUNT, RCV_J_LOSSES]; omega)
  unfold State.lossNoted
  simp only []
  rw [hcount]
  generalize s.gcount 0x221 1 = v
  refine ⟨?_, ?_, ?_, ?_⟩
  · rw [State.fld_of_reg (State.reg_setFld_ne _ (RCV_J_LOSSES_COUNT j) _ htarget),
      State.fld_of_reg (State.reg_setFld_ne _ (RCV_J_LOSSES_GEN j) _ htarget),
      State.fld_of_reg (State.reg_setFld_ne _ (RCV_J_LOST_GID j) _ htl), State.fld_setFld_self _ _ _ (Nat.le_of_ble_eq_true rfl)]
    rfl
  · rw [State.fld_of_reg (State.reg_setFld_ne _ (RCV_J_LOSSES_COUNT j) _ hlost),
      State.fld_of_reg (State.reg_setFld_ne _ (RCV_J_LOSSES_GEN j) _ hlost), State.fld_setFld_self _ _ _ (Nat.le_of_ble_eq_true rfl)]
    exact Nat.mod_eq_of_lt hl
  · rw [State.fld_setFld_above _ _ (Nat.le_of_ble_eq_true rfl) (Nat.le_of_ble_eq_true rfl),
      State.fld_setFld_self _ _ _ (Nat.le_of_ble_eq_true rfl)]
    rfl
  · rw [State.fld_setFld_self _ _ _ (Nat.le_of_ble_eq_true rfl)]
    exact Nat.mod_eq_of_lt (by simp only [RCV_J_LOSSES_COUNT]; omega)

end

/-! ## The cut opens -/

/-- The status of a job's sets and of its recovery. -/
def CutStatusReg (j a : Nat) : Prop := a = HSP_J_STATUS j ∨ a = RCV_J_STATUS j

section
variable (s : State) {j : Nat}

/-- An abandoned set changes the status of the job's sets, and forgets its chunks. -/
theorem State.abandonSet_cases {s : State} {r : JobRun} (hr : s.run j = some r) :
    s.abandonSet j = s ∨ s.abandonSet j = ((s.setFld (HSP_J_STATUS_ABANDONED j) 1).setFld (HSP_J_STATUS_SET_OPEN j) 0).updRun j
      (fun r => { r with ack := false, chunks := [] }) := by
  rw [State.abandonSet, hr]
  simp only []
  split
  · exact .inr rfl
  · exact .inl rfl

theorem State.cutOpened_effect {s : State} {r : JobRun} (hj : j < 8) (hr : s.run j = some r) :
    let t := s.cutOpened j
    t.fld (RCV_J_STATUS_PHASE j) = 1 ∧ s.LowWork t ∧ s.RegsKept t (CutStatusReg j) ∧ ∃ q, t.run j = some q := by
  have hlow : HSP_J_STATUS j < 0x2000000 := by simp only [HSP_J_STATUS]; omega
  have hlow' : RCV_J_STATUS j < 0x2000000 := by simp only [RCV_J_STATUS]; omega
  have hset : s.LowWork (s.abandonSet j) ∧ s.RegsKept (s.abandonSet j) (CutStatusReg j) ∧ ∃ q, (s.abandonSet j).run j = some q := by
    rcases State.abandonSet_cases hr with e | e <;> rw [e]
    · exact ⟨.refl s, State.RegsKept.refl s _, r, hr⟩
    · exact ⟨((((State.LowWork.refl s).setFld (f := HSP_J_STATUS_ABANDONED j) 1 hlow).setFld (f := HSP_J_STATUS_SET_OPEN j) 0 hlow)).updRun j _,
        State.RegsKept.of_regs (((State.RegsKept.refl s _).setFld (f := HSP_J_STATUS_ABANDONED j) 1 (.inl rfl)).setFld
          (f := HSP_J_STATUS_SET_OPEN j) 0 (.inl rfl)) rfl, _, State.run_updRun hr _⟩
  unfold State.cutOpened
  generalize s.abandonSet j = u at hset
  obtain ⟨hwork, hkept, q, hq⟩ := hset
  refine ⟨?_, hwork.setFld (f := RCV_J_STATUS_PHASE j) 1 hlow', hkept.setFld (f := RCV_J_STATUS_PHASE j) 1 (.inr rfl), q, hq⟩
  rw [State.fld_setFld_self _ _ _ (Nat.le_of_ble_eq_true rfl)]
  rfl

end

/-! ## Shards of the lost module -/

theorem State.rekey_congr {s t : State} (h : s.LowWork t) (j lsid : Nat) : t.rekey j lsid = s.rekey j lsid := by
  have hbad : t.tblBad = s.tblBad := (congrArg State.tblBad h.bare :)
  have hword (a : Nat) : t.tblWord a = s.tblWord a := by
    rw [State.tblWord, hbad, h.high _ (by rw [act]; omega), State.tblWord]
  rw [State.rekey, hword, hword, State.rekey]

theorem State.shardsOn_congr {s t : State} (h : s.LowWork t) (j : Nat) (g : ContGroup) (gid : Nat) :
    t.shardsOn j g gid = s.shardsOn j g gid := by
  simp only [State.shardsOn, State.rekey_congr h]

/-- The divert bit of a shard. -/
def divertBit (j : Nat) (x : ShardInfo) : Fld := ⟨RCV_J_DIVERT j (x.lsid % 65536 / 32), x.lsid % 32, 1⟩

/-- Registers of divert bits. -/
def DivertReg (a : Nat) : Prop := 0x1210000 ≤ a ∧ a < 0x1220000

theorem divertReg_bit {j : Nat} (hj : j < 8) (x : ShardInfo) : DivertReg (divertBit j x).addr := by
  simp only [DivertReg, divertBit, RCV_J_DIVERT]
  omega

/-- The divert bit of one shard stays set when another's is. -/
theorem State.divertBit_stays {s : State} {j : Nat} {x : ShardInfo} (y : ShardInfo) (h : s.fld (divertBit j x) = 1) :
    (s.setFld (divertBit j y) 1).fld (divertBit j x) = 1 := by
  have hlo (z : ShardInfo) : (divertBit j z).lo < 32 := Nat.mod_lt _ (by decide)
  have hone (z : ShardInfo) : (divertBit j z).w = 1 := rfl
  by_cases e : divertBit j y = divertBit j x
  · rw [e]
    exact State.fld_setFld_one _ rfl (hlo x)
  · have hap : (divertBit j y).apart (divertBit j x) := by
      by_contra hn
      simp only [Fld.apart, not_or, not_le, hone, ne_eq, not_not] at hn
      obtain ⟨ha, h1, h2⟩ := hn
      have hb : (divertBit j y).lo = (divertBit j x).lo := by omega
      exact e (by rw [divertBit, divertBit] at *; simp_all)
    rw [State.fld_setFld_apart _ _ _ _ hap (hlo y), h]

section
variable (s : State) {j : Nat} (lost : Nat) (r : JobRun)

theorem State.divertLost_effect (hj : j < 8) :
    let t := s.divertLost j lost r
    (∀ g ∈ r.groups, ∀ x ∈ s.shardsOn j g lost, t.fld (divertBit j x) = 1) ∧ s.LowWork t ∧ s.OnlyRegs t DivertReg := by
  refine ⟨fun g hg x hx => ?_, ?_, ?_⟩
  · exact foldl_brings (I := fun _ => True) (Q := fun t => t.fld (divertBit j x) = 1) (List.mem_flatMap.mpr ⟨g, hg, hx⟩) trivial
      (fun _ _ _ _ => trivial) (fun t _ => State.fld_setFld_one _ rfl (Nat.mod_lt _ (by decide)))
      (fun t y _ _ ht => State.divertBit_stays y ht)
  · exact List.foldlRecOn (motive := s.LowWork) _ _ (.refl s) fun u hu x _ =>
      hu.setFld (f := divertBit j x) 1 (Nat.lt_trans (divertReg_bit hj x).2 (by decide))
  · exact (State.OnlyRegs.refl s _).foldl fun u x _ hu => hu.setFld 1 (divertReg_bit hj x)

end

/-! ## Entries parked -/

/-- First words of the partitions' hosting entries. -/
def EntryFirst (a : Nat) : Prop := 0x2000000 ≤ a ∧ a % 64 = 0

theorem entryFirst_state (p e : Nat) : EntryFirst (CAM_HOST_W0 p e) := by
  simp only [EntryFirst, CAM_HOST_W0, partBase]
  omega

/-- Whether an entry has ended its step turns on its step, its position, its length and the commands in flight. -/
theorem State.entryDone_congr {s t : State} {p e : Nat} (hi : t.inflight = s.inflight)
    (hw : ∀ f ∈ [CAM_HOST_W6_STEP p e, CAM_HOST_W7_POS p e, CAM_HOST_W2_PROG_LEN p e], t.fld f = s.fld f) (step : Nat) :
    t.entryDone p e step = s.entryDone p e step := by
  rw [State.entryDone, hw _ (by simp), hw _ (by simp), hw _ (by simp), hi, State.entryDone]

theorem State.LowWork.entryDone {s t : State} (h : s.LowWork t) (p e step : Nat) : t.entryDone p e step = s.entryDone p e step := by
  refine State.entryDone_congr h.inflight (fun f hf => h.fld ?_) step
  simp only [List.mem_cons, List.not_mem_nil, or_false] at hf
  rcases hf with rfl | rfl | rfl
  · simp only [CAM_HOST_W6_STEP, CAM_HOST_W6, partBase]; omega
  · simp only [CAM_HOST_W7_POS, CAM_HOST_W7, partBase]; omega
  · simp only [CAM_HOST_W2_PROG_LEN, CAM_HOST_W2, partBase]; omega

theorem State.OnlyRegs.entryDone {s t : State} (h : s.OnlyRegs t EntryFirst) (p e step : Nat) :
    t.entryDone p e step = s.entryDone p e step := by
  have hi : t.inflight = s.inflight := (congrArg State.inflight h.1 :)
  refine State.entryDone_congr hi (fun f hf => h.2.fld ?_ ?_) step
  all_goals
    simp only [List.mem_cons, List.not_mem_nil, or_false] at hf
    rcases hf with rfl | rfl | rfl
    all_goals
      simp [EntryFirst, reportReg, EVR_RSEQ, EVR_STATUS, DBG_GSTATUS, CAM_HOST_W6_STEP, CAM_HOST_W6, CAM_HOST_W7_POS, CAM_HOST_W7,
        CAM_HOST_W2_PROG_LEN, CAM_HOST_W2, partBase]
      omega

section
variable {s t : State} {step : Nat}

theorem State.OnlyRegs.parkEntry (h : s.OnlyRegs t EntryFirst) (x : Nat × Nat) : s.OnlyRegs (t.parkEntry step x) EntryFirst := by
  unfold State.parkEntry
  split
  · exact h
  · exact h.setFld (f := CAM_HOST_W0_STATE x.1 x.2) 4 (entryFirst_state ..)

theorem State.fld_parkEntry (s : State) {x y : Nat × Nat} (hx : x.2 < 32) (hy : y.2 < 32) :
    (s.parkEntry step y).fld (CAM_HOST_W0_STATE x.1 x.2) =
      if y = x ∧ s.entryDone x.1 x.2 step = false then 4 else s.fld (CAM_HOST_W0_STATE x.1 x.2) := by
  unfold State.parkEntry
  by_cases e : y = x
  · subst e
    cases hd : s.entryDone y.1 y.2 step with
    | true => simp
    | false =>
      simp only [Bool.false_eq_true, if_false, and_self, if_true]
      rw [State.fld_setFld_self _ _ _ (Nat.le_of_ble_eq_true rfl)]
      rfl
  · rw [if_neg (c := _ ∧ _) fun h => e h.1]
    split
    · rfl
    · exact State.fld_of_reg (State.reg_setFld_ne _ _ _ (entry_ne hx hy e))

/-- A running entry that has ended its step stays RUNNING, any other is parked. -/
theorem State.entriesParked_effect (s : State) (j step : Nat) :
    let t := s.entriesParked j step
    (∀ x ∈ s.jobEntries j (fun st => st == 2), t.fld (CAM_HOST_W0_STATE x.1 x.2) = if s.entryDone x.1 x.2 step then 2 else 4) ∧
    s.OnlyRegs t EntryFirst := by
  have hentry {y} (hy : y ∈ s.jobEntries j (fun st => st == 2)) := (State.mem_jobEntries.mp hy).2.2.1
  refine ⟨fun x hx => ?_, (State.OnlyRegs.refl s _).foldl fun u y _ hu => hu.parkEntry y⟩
  have hrunning : s.fld (CAM_HOST_W0_STATE x.1 x.2) = 2 := by simpa using (State.mem_jobEntries.mp hx).2.2.2
  cases hd : s.entryDone x.1 x.2 step with
  | true =>
    refine (List.foldlRecOn (motive := fun t => s.OnlyRegs t EntryFirst ∧ t.fld (CAM_HOST_W0_STATE x.1 x.2) = 2) _ _
      ⟨.refl s _, hrunning⟩ fun t ⟨ho, ht⟩ y hy => ⟨ho.parkEntry y, ?_⟩).2
    rw [State.fld_parkEntry _ (hentry hx) (hentry hy), ho.entryDone, hd, if_neg (by simp), ht]
  | false =>
    refine foldl_brings (I := fun t => s.OnlyRegs t EntryFirst) (Q := fun t => t.fld (CAM_HOST_W0_STATE x.1 x.2) = 4) hx (.refl s _)
      (fun t y _ ho => ho.parkEntry y) (fun t ho => ?_) (fun t y hy _ ht => ?_)
    · rw [State.fld_parkEntry _ (hentry hx) (hentry hx), ho.entryDone, if_pos ⟨rfl, hd⟩]
    · rw [State.fld_parkEntry _ (hentry hx) (hentry hy)]
      split
      · rfl
      · exact ht

end

end Sys2Proof.Machine

/-! SUPPORT. The cut as a whole, its timeout, and the statement of the losses. -/
namespace Sys2Proof.Machine

/-! ## The cut (R350) -/

section
variable {s : State} {j : Nat} {r : JobRun}

/-- Registers of a job's recovery that the cut sets before it looks at shards and entries. -/
theorem not_cutReg {a : Nat} (hj : j < 8) (ha : a = RCV_J_TARGET j ∨ a = RCV_J_LOST j ∨ a = RCV_J_LOSSES j) :
    ¬ CutStatusReg j a ∧ ¬ DivertReg a ∧ ¬ EntryFirst a ∧ reportReg a = false := by
  have hlo : 0x1208104 ≤ a ∧ a < 0x1208310 ∧ a % 64 ≠ 36 ∧ a % 64 ≠ 0 := by
    rcases ha with rfl | rfl | rfl
    · simp only [RCV_J_TARGET]; omega
    · simp only [RCV_J_LOST]; omega
    · simp only [RCV_J_LOSSES]; omega
  simp only [CutStatusReg, DivertReg, EntryFirst, HSP_J_STATUS, RCV_J_STATUS]
  exact ⟨by omega, by omega, by omega, reportReg_fabric (by omega) (by omega)⟩

theorem rcvStatus_apart (hj : j < 8) : ¬ DivertReg (RCV_J_STATUS j) ∧ ¬ EntryFirst (RCV_J_STATUS j) := by
  simp only [DivertReg, EntryFirst, RCV_J_STATUS]
  omega

theorem divertBit_apart (hj : j < 8) (x : ShardInfo) : ¬ EntryFirst (divertBit j x).addr ∧ reportReg (divertBit j x).addr = false := by
  have h := divertReg_bit hj x
  simp only [DivertReg] at h
  exact ⟨fun he => absurd he.1 (by omega), reportReg_fabric (by omega) (by omega)⟩

/-- A cut at a module that has not ended its step: the step that runs is the target, the lost module's shards are diverted, what has not
ended the step is parked, and the cut waits for its hinge. -/
theorem State.takeCut_effect {lost gen : Nat} (rb tree peers : Bool) (hj : j < 8) (h0 : 0 < lost) (hl : lost < 2 ^ 20) (hr : s.run j = some r)
    (hc : r.cut = none) (ha : r.arrived = false) :
    let t := s.takeCut j lost gen rb tree peers
    t.fld (RCV_J_STATUS_PHASE j) = 1 ∧ t.fld (RCV_J_TARGET_STEP j) = r.step % 2 ^ 32 ∧ t.fld (RCV_J_LOST_GID j) = lost ∧
    t.fld (RCV_J_LOSSES_GEN j) = gen % 2 ^ 16 ∧ t.fld (RCV_J_LOSSES_COUNT j) = min 65535 (s.fld (RCV_J_LOSSES_COUNT j) + 1) ∧
    (∀ g ∈ r.groups, ∀ x ∈ s.shardsOn j g lost, t.fld (divertBit j x) = 1) ∧
    (∀ x ∈ s.jobEntries j (fun st => st == 2), t.fld (CAM_HOST_W0_STATE x.1 x.2) = if s.entryDone x.1 x.2 r.step then 2 else 4) ∧
    (∃ q, t.run j = some q ∧ q.cut = some (.opened lost gen r.step rb tree s.ftime) ∧ q.sent = false) ∧
    t.inflight = s.inflight ∧ s.MemKept t := by
  rw [State.takeCut_eq h0 hr hc ha]
  -- what the loss notes
  obtain ⟨htarget, hlost, hgen, hcount⟩ := s.lossNoted_effect j lost gen r.step hj hl
  have hlow := s.lowWork_lossNoted j lost gen r.step hj
  have hrun : (s.lossNoted j lost gen r.step).run j = some r := by rw [State.run, State.jobs_lossNoted]; exact hr
  generalize s.lossNoted j lost gen r.step = u at htarget hlost hgen hcount hlow hrun ⊢
  -- the cut opens
  obtain ⟨hphase, hlow', hkept, q, hq⟩ := State.cutOpened_effect hj hrun
  generalize u.cutOpened j = v at hphase hlow' hkept hq ⊢
  -- its shards are diverted
  obtain ⟨hdivert, hlow'', hbare, hkept'⟩ := v.divertLost_effect lost r hj
  generalize v.divertLost j lost r = w at hdivert hlow'' hbare hkept' ⊢
  have hv := hlow.trans hlow'
  have hw := hv.trans hlow''
  -- its entries are parked
  obtain ⟨hparked, hbare', hkept''⟩ := w.entriesParked_effect j r.step
  generalize w.entriesParked j r.step = t at hparked hbare' hkept'' ⊢
  have hframe : t.bare = { s.bare with jobs := t.jobs } := by rw [hbare', hw.bare, State.jobs_of_bare hbare']
  have hrun' : t.run j = some q := by rw [State.run, State.jobs_of_bare (hbare'.trans hbare)]; exact hq
  have hstands (f : Fld) (hf : f.addr = RCV_J_TARGET j ∨ f.addr = RCV_J_LOST j ∨ f.addr = RCV_J_LOSSES j) : t.fld f = u.fld f := by
    obtain ⟨h1, h2, h3, h4⟩ := not_cutReg hj hf
    exact (hkept''.fld h3 h4).trans ((hkept'.fld h2 h4).trans (hkept.fld h1 h4))
  have hstatus : t.fld (RCV_J_STATUS_PHASE j) = v.fld (RCV_J_STATUS_PHASE j) :=
    (hkept''.fld (rcvStatus_apart hj).2 (reportReg_rcvStatus j)).trans (hkept'.fld (rcvStatus_apart hj).1 (reportReg_rcvStatus j))
  refine ⟨hstatus.trans hphase, (hstands _ (.inl rfl)).trans htarget, (hstands _ (.inr (.inl rfl))).trans hlost,
    (hstands _ (.inr (.inr rfl))).trans hgen, (hstands _ (.inr (.inr rfl))).trans hcount, fun g hg x hx => ?_, fun x hx => ?_,
    ⟨_, State.run_updRun hrun' _, rfl, rfl⟩, (congrArg State.inflight hframe :),
    .of_eq (congrArg State.mem hframe :) (congrArg State.poison hframe :)⟩
  · obtain ⟨h1, h2⟩ := divertBit_apart hj x
    exact (hkept''.fld h1 h2).trans (hdivert g hg x (by rwa [State.shardsOn_congr hv]))
  · rw [← hw.entryDone]
    refine hparked x ((State.mem_jobEntries_congr hw.owner fun p e _ => hw.fld ?_).mpr hx)
    simp only [CAM_HOST_W0_STATE, CAM_HOST_W0, partBase]
    omega

end

/-! ## The timeout of a cut (R350) -/

section
variable {s : State} {j : Nat} {r : JobRun} {c : Cut}

/-- A cut that has waited too long for its hinge. -/
def State.cutLate (s : State) (j : Nat) : State :=
  (s.setFld (RCV_J_STATUS_CUT_TIMEOUT_SEEN j) 1).updRun j (fun r => { r with cut := r.cut.map (fun c => { c with late := true }) })

theorem execCutTimeout_eq (hr : s.run j = some r) (hc : r.cut = some c) : exec (.cutTimeout j) s =
    .next (if c.hinged = true ∨ c.late = true ∨ s.ftime < c.since + s.fld RCV_CFG1_CUT_TIMEOUT * 4000000 then s
      else (s.cutLate j).meetRollback j 2) := by
  change execCutTimeout j s = _
  simp only [execCutTimeout, hr, Option.bind_some, hc, Bool.or_eq_true, decide_eq_true_eq, or_assoc]
  split
  · rfl
  · rfl

theorem State.cutLate_effect (hr : s.run j = some r) (hc : r.cut = some c) :
    (s.cutLate j).flag (RCV_J_STATUS_CUT_TIMEOUT_SEEN j) = true ∧ (s.cutLate j).run j = some { r with cut := some { c with late := true } } ∧
    s.OnlyJobs (fun a => a = RCV_J_STATUS j) (s.cutLate j) := by
  refine ⟨?_, ?_, ((State.OnlyJobs.refl s (fun a => a = RCV_J_STATUS j)).setFld (f := RCV_J_STATUS_CUT_TIMEOUT_SEEN j) 1 rfl).updRun j _⟩
  · rw [State.flag, State.cutLate, State.fld_updRun, State.fld_setFld_one _ rfl (Nat.le_of_ble_eq_true rfl)]
    rfl
  · refine (State.run_updRun ((State.run_setFld ..).trans hr) _).trans ?_
    rw [hc]
    rfl

end

/-! ## The statement -/

theorem mField_lt (m : List Nat) (i n : Nat) : mField m i n < 256 ^ n := by
  induction n generalizing i with
  | zero => simp [mField]
  | succ n ih =>
    have h := ih (i + 1)
    have hb : mByte m i < 256 := Nat.mod_lt _ (by decide)
    rw [mField, Nat.pow_succ]
    omega

/-- Every row of recovery tests its sender in the one way. -/
theorem controlRow_of_mem (peers : Bool) : ∀ x ∈ ([fun g m => .ghb g m, fun g m => .hfault g m, fun g m => .rcut g m peers,
      fun g m => .rabort g m, fun g m => .deadbolt g m, fun g m => .lreq g m, fun g m => .lnak g m, fun g m => .rcopy g m,
      fun g m => .fsync g m] : List (Nat → List Nat → Instr)), ControlRow x := by
  simp only [List.forall_mem_cons]
  exact ⟨⟨_, fun _ _ _ => rfl⟩, ⟨_, fun _ _ _ => rfl⟩, ⟨_, fun _ _ _ => rfl⟩, ⟨_, fun _ _ _ => rfl⟩, ⟨_, fun _ _ _ => rfl⟩,
    ⟨_, fun _ _ _ => rfl⟩, ⟨_, fun _ _ _ => rfl⟩, ⟨_, fun _ _ _ => rfl⟩, ⟨_, fun _ _ _ => rfl⟩, by simp⟩

/-- Messages of a loss at a module that runs the job: HFAULT, RCUT and RABORT, as the root and as a module below it take them. -/
theorem lossMessages {s : State} {src : Nat} {m : List Nat} {r : JobRun} (peers : Bool) (hrun : s.boot = .running)
    (hlive : s.isDead (mByte m 1 % 8) src = false) (hr : s.run (mByte m 1 % 8) = some r) :
    let j := mByte m 1 % 8
    let lost := mField m 8 4 % 2 ^ 20
    let new := (s.fld (FAB_JOB_GEN_GEN j) + 1) % 65536
    (s.isRoot j = false → ∃ u : State, exec (.hfault src m) s = .next (u.sendUp j m) ∧ u = { s with jobs := u.jobs } ∧
      u.run j = some { r with faults := r.faults + 1, faultAt := max r.faultAt (mField m 16 8) }) ∧
    (s.isRoot j = true → ∃ u : State, (∃ q, u.run j = some q ∧ q.faults = r.faults + 1 ∧ q.cut = r.cut ∧ q.step = r.step ∧
        (lost, mField m 12 2) ∈ q.failures) ∧
      u.bare = { s.bare with jobs := u.jobs } ∧ s.RegsKept u (FailureReg j) ∧
      (r.cut = none → exec (.hfault src m) s = .next ((u.sendDown j (rcutMsg j lost new r.step (bitAt (mByte m 14) 0))).takeCut j lost new
        (bitAt (mByte m 14) 0) false false)) ∧
      (∀ c, r.cut = some c → exec (.hfault src m) s = .next (if c.lost = lost then u else u.meetRollback j 6))) ∧
    ((s.isRoot j = true ∧ src = s.gid) ∨ s.jobUp j = some src →
      (mField m 12 4 ≠ r.step → exec (.rcut src m peers) s = .next (s.sendDown j m)) ∧
      (mField m 12 4 = r.step → exec (.rcut src m peers) s = .next ((s.sendDown j m).takeCut j (mField m 4 3 % 2 ^ 20) (mField m 8 2)
        (bitAt (mByte m 16) 0) false peers))) ∧
    (¬(s.isRoot j = true ∧ src = s.gid) → s.jobUp j ≠ some src → exec (.rcut src m peers) s = .next s) ∧
    (s.isRoot j = true ∨ s.jobUp j = some src → exec (.rabort src m) s = .next ((s.sendDown j m).globalRollback j (mByte m 8 % 16))) ∧
    (s.isRoot j = false → s.jobUp j ≠ some src → exec (.rabort src m) s = .next (s.sendUp j m)) := by
  intro j lost new
  have hcut := execRcut_eq hrun hlive hr peers
  have habort := execRabort_eq hrun hlive hr
  refine ⟨fun hroot => ⟨_, execHfault_below hrun hlive hr hroot, rfl, State.run_updRun hr _⟩, fun hroot => ?_, fun h => ⟨fun hs => ?_, fun hs => ?_⟩,
    fun h1 h2 => ?_, fun h => ?_, fun h1 h2 => ?_⟩
  · have hfault := execHfault_root hrun hlive hr hroot
    obtain ⟨hnoted, hframe⟩ := State.failureNoted_effect hr (lost, mField m 12 2) (mField m 16 8)
    exact ⟨_, hnoted, hframe.bare, hframe.regs, fun hc => hfault.trans (by rw [hc]), fun c hc => hfault.trans (by rw [hc])⟩
  · exact hcut.trans (by rw [if_pos h, if_pos hs])
  · exact hcut.trans (by rw [if_pos h, if_neg (not_not.mpr hs)])
  · exact hcut.trans (by rw [if_neg (not_or.mpr ⟨h1, h2⟩)])
  · exact habort.trans (by rw [if_pos h])
  · exact habort.trans (by rw [if_neg (not_or.mpr ⟨by rw [h1]; exact Bool.false_ne_true, h2⟩)])

/-- Settles O43, a clause at a time: who is heard, the heartbeats of a group, the silence that is reported again, the messages of a loss, the
timeout of a cut, the cause of a failed recovery, the rollback of the job, and the cut itself. -/
theorem lossesAreDeclaredAndCut : Obligations.LossesAreDeclaredAndCut := by
  unfold Obligations.LossesAreDeclaredAndCut
  refine ⟨fun peers x hx s src m => ⟨fun h => (controlRow_of_mem peers x hx).stopped h src m, fun h hd => (controlRow_of_mem peers x hx).dead h hd⟩,
    fun s j r g hr hg => ⟨execGhbSend_group hr hg, fun gid => ⟨State.isSilent_iff, execGhbMiss_reports hr hg, execGhbMiss_quiet hr hg⟩⟩,
    fun s j gid => ⟨execSilenceReportRepeat_none, fun x hx => ⟨execSilenceReportRepeat_early hx, execSilenceReportRepeat_due hx⟩⟩,
    fun s src m peers hrun hlive => ?_, fun s j r c hj hr hc => ⟨fun h => ?_, fun h1 h2 h3 => ?_⟩,
    fun s j c _ hc => s.meetRollback_effect hc, fun s j c r hj hc hr => State.globalRollback_effect hj hc hr,
    fun s j lost gen rb tree peers r hj h0 hl hr hc ha => State.takeCut_effect rb tree peers hj h0 hl hr hc ha⟩
  · obtain ⟨hcounted, hfenced⟩ := execDeadbolt_counted (m := m) hrun hlive
    refine ⟨execGhb_live hrun hlive,
      fun h => ⟨execHfault_noJob hrun hlive h, execRcut_noJob hrun hlive h peers, execRabort_noJob hrun hlive h⟩,
      fun r hr => lossMessages peers hrun hlive hr, fun h => hcounted ?_, fun h1 h2 h3 h4 => ?_⟩
    · rintro ⟨h1, h2, h3, h4⟩
      simp [h1, h3, h4] at h
      exact h h2
    · rw [hfenced ⟨h1, h2, h3, h4⟩]
      refine answers_next ?_
      obtain ⟨e1, e2, e3, e4, hfree, e5, e6⟩ := (s.gcount 0x224 1).enterFenced_effect (j := mByte m 1 % 8) (Nat.mod_lt _ (by decide))
        (mField_lt m 8 2) (mField_lt m 12 4)
      exact ⟨e1, e2, e3, e4, fun p e hp he h8 => hfree p e hp he (by rwa [State.jobOf_congr (State.owner_gcount ..)]), e5, e6⟩
  · rw [execCutTimeout_eq hr hc, if_pos h]
  · obtain ⟨hflag, hrun, hframe⟩ := State.cutLate_effect hr hc
    refine ⟨_, ?_, hflag, hrun, hframe.bare, hframe.regs⟩
    rw [execCutTimeout_eq hr hc, if_neg (by simp [h1, h2]; omega)]

end Sys2Proof.Machine

/-! SUPPORT. What the start of a replay leaves of the entry it starts in (R360): whatever fails on the way, it is not FREE. -/
namespace Sys2Proof.Machine

/-! ## An entry that stays in use -/

/-- The owners of partitions stand from `s` to `t`; and an entry in use stays so, where its partition belongs to no job. -/
structure State.KeepsEntry (p e : Nat) (s t : State) : Prop where
  owner : t.owner = s.owner
  used : s.jobOf p = 8 → s.fld (CAM_HOST_W0_STATE p e) ≠ 0 → t.fld (CAM_HOST_W0_STATE p e) ≠ 0

section
variable {s t u : State} {p e : Nat}

theorem State.KeepsEntry.refl (s : State) : s.KeepsEntry p e s := ⟨rfl, fun _ h => h⟩

theorem State.KeepsEntry.trans (h : s.KeepsEntry p e t) (h' : t.KeepsEntry p e u) : s.KeepsEntry p e u :=
  ⟨h'.owner.trans h.owner, fun hj hs => h'.used ((State.jobOf_congr h.owner p).trans hj) (h.used hj hs)⟩

/-- Work on other registers. -/
theorem State.KeepsEntry.places {P : Nat → Prop} (h : s.KeepsEntry p e t) (h' : t.Places P u) (hp : ¬ P (CAM_HOST_W0 p e)) :
    s.KeepsEntry p e u := h.trans ⟨h'.owner, fun _ ht => by rwa [h'.entryState hp]⟩

theorem State.KeepsEntry.setFld (h : s.KeepsEntry p e t) {f : Fld} (v : Nat) (hf : f.addr ≠ CAM_HOST_W0 p e) :
    s.KeepsEntry p e (t.setFld f v) :=
  h.places ((State.Places.refl t (fun a => a ≠ CAM_HOST_W0 p e)).setFld v hf) (not_not.mpr rfl)

theorem State.KeepsEntry.count (h : s.KeepsEntry p e t) (q n k : Nat) : s.KeepsEntry p e (t.count q n k) :=
  h.places ((State.Places.refl t (fun _ => False)).count q n k) not_false

theorem State.KeepsEntry.of_regs (h : s.KeepsEntry p e t) (ho : u.owner = t.owner) (hr : u.regs = t.regs) : s.KeepsEntry p e u :=
  h.trans ⟨ho, fun _ ht => by rwa [State.fld_of_reg (State.reg_congr hr _)]⟩

theorem State.KeepsEntry.detect (h : s.KeepsEntry p e t) (unit cls flags desc ctx layer operator job syn : Nat) :
    s.KeepsEntry p e (t.detect unit cls flags desc ctx layer operator job syn) :=
  h.trans ⟨State.owner_detect .., fun _ ht => by rwa [State.fld_detect]⟩

/-- A cause of failed recovery, met for the job of the partition. -/
theorem State.keepsEntry_meetRollback (s : State) {cause : Nat} (hc : cause < 16) : s.KeepsEntry p e (s.meetRollback (s.jobOf p) cause) := by
  obtain ⟨-, -, -, -, hbare, hregs⟩ := s.meetRollback_effect (j := s.jobOf p) hc
  refine ⟨(congrArg State.owner hbare :), fun hj hs => ?_⟩
  rwa [hregs.fld _ (reportReg_entry p e)]
  rw [hj]
  simp only [CAM_HOST_W0_STATE, CAM_HOST_W0, RCV_J_STATUS, partBase]
  omega

/-! ## A kill on the way -/

/-- A context that is killed is not FREE. -/
theorem State.keepsEntry_killed (s : State) (he : e < 32) (c : Nat) :
    s.KeepsEntry p e ((s.setFld (CAM_HOST_W0_STATE p c) 6).setFld ⟨CAM_KILLED p, c, 1⟩ 1) := by
  have hstate : s.KeepsEntry p e (s.setFld (CAM_HOST_W0_STATE p c) 6) := by
    refine ⟨State.owner_setFld .., fun _ hs => ?_⟩
    by_cases hc : CAM_HOST_W0_STATE p c = CAM_HOST_W0_STATE p e
    · rw [hc, State.fld_setFld_self _ _ _ (Nat.le_of_ble_eq_true rfl)]
      exact Nat.succ_ne_zero 5
    · rwa [State.fld_of_reg (State.reg_setFld_ne _ _ _ fun heq => hc (congrArg (Fld.mk · 0 3) heq.symm))]
  exact hstate.setFld _ (entry_ne_killed p e p he).symm

theorem State.KeepsEntry.enterKilled (h : s.KeepsEntry p e t) (he : e < 32) (c : Nat) : s.KeepsEntry p e (t.enterKilled p c) := by
  have hkilled := h.trans (t.keepsEntry_killed he c)
  unfold State.enterKilled
  simp only []
  generalize (t.setFld (CAM_HOST_W0_STATE p c) 6).setFld ⟨CAM_KILLED p, c, 1⟩ 1 = u at hkilled ⊢
  split
  · refine h.setFld _ ?_
    simp only [CAM_RING_CTRL_STATE, CAM_RING_CTRL, CAM_HOST_W0, partBase]
    omega
  · split
    · exact hkilled.trans (State.keepsEntry_meetRollback _ (by decide))
    · exact hkilled

theorem State.KeepsEntry.killCtx (h : s.KeepsEntry p e t) (he : e < 32) (c idx reason input : Nat) :
    s.KeepsEntry p e (t.killCtx p c idx reason input) := by
  have hcap0 : CAM_KILL_CAP0 p ≠ CAM_HOST_W0 p e := by simp only [CAM_KILL_CAP0, CAM_HOST_W0]; omega
  have hcap1 : CAM_KILL_CAP1 p ≠ CAM_HOST_W0 p e := by simp only [CAM_KILL_CAP1, CAM_HOST_W0]; omega
  have hkilled : s.KeepsEntry p e ((t.enterKilled p c).killIssued p c) := (h.enterKilled he c).of_regs rfl rfl
  unfold State.killCtx
  split
  · exact h
  · simp only []
    refine State.KeepsEntry.count ?_ ..
    split
    · exact hkilled
    · exact ((((hkilled.setFld (f := CAM_KILL_CAP0_DESC_INDEX p) _ hcap0).setFld (f := CAM_KILL_CAP0_CONTEXT p) _ hcap0).setFld
        (f := CAM_KILL_CAP0_VALID p) _ hcap0).setFld (f := CAM_KILL_CAP1_REASON p) _ hcap1).setFld (f := CAM_KILL_CAP1_INPUT p) _ hcap1

/-! ## The step size of a replayed step -/

/-- A tumbler after a bump, and the source of it. -/
def State.bumped (s : State) (p n inc gid part : Nat) (loc : Bool) : State :=
  (((s.setFld (TMB_VALUE_VALUE p n) (s.fld (TMB_VALUE_VALUE p n) + inc)).setFld (TMB_SRC_MODULE p n) gid).setFld (TMB_SRC_PART p n)
    part).setFld (TMB_SRC_LOCAL p n) (if loc then 1 else 0)

/-- The first overflow of a tumbler is caught. -/
def State.overflowCaught (s : State) (p n : Nat) : State :=
  if s.flag (TMB_OVF_CAP_VALID p) then s else (s.setFld (TMB_OVF_CAP_TUMBLER p) n).setFld (TMB_OVF_CAP_VALID p) 1

/-- An overflow of a tumbler is detected, and kills the context that the tumbler belongs to (R173). -/
def State.overflowed (s : State) (p n total : Nat) : State :=
  let t := (s.overflowCaught p n).detect (unitId p 0x12) 9 flKilled 0xFFFFFF (((s.overflowCaught p n).tumOwner p n).getD 0x3F) 0 0
    ((s.overflowCaught p n).jobOf p) (n + total * 2 ^ 32)
  match (s.overflowCaught p n).tumOwner p n with
  | some c => t.killCtx p c 0xFFFFFF 3 0
  | none => t

theorem State.bump_eq (s : State) (p n inc gid part : Nat) (loc : Bool) : s.bump p n inc gid part loc =
    if s.stepCount p n + inc < 2 ^ 31 then s.bumped p n inc gid part loc
    else (((s.bumped p n inc gid part loc).setFld (TMB_STATUS_TMB_OVF p) 1).count p 0x105 1).overflowed p n (s.stepCount p n + inc) := rfl

theorem State.KeepsEntry.overflowed (h : s.KeepsEntry p e t) (he : e < 32) (n total : Nat) : s.KeepsEntry p e (t.overflowed p n total) := by
  have hcap : TMB_OVF_CAP p ≠ CAM_HOST_W0 p e := by simp only [TMB_OVF_CAP, CAM_HOST_W0]; omega
  have hcaught : s.KeepsEntry p e (t.overflowCaught p n) := by
    unfold State.overflowCaught
    split
    · exact h
    · exact (h.setFld (f := TMB_OVF_CAP_TUMBLER p) n hcap).setFld (f := TMB_OVF_CAP_VALID p) 1 hcap
  unfold State.overflowed
  generalize t.overflowCaught p n = u at hcaught
  simp only []
  split
  · exact (hcaught.detect ..).killCtx he ..
  · exact hcaught.detect ..

theorem State.KeepsEntry.bump (h : s.KeepsEntry p e t) (he : e < 32) (n inc gid part : Nat) (loc : Bool) :
    s.KeepsEntry p e (t.bump p n inc gid part loc) := by
  have hvalue : TMB_VALUE p n ≠ CAM_HOST_W0 p e := by simp only [TMB_VALUE, CAM_HOST_W0]; omega
  have hsrc : TMB_SRC p n ≠ CAM_HOST_W0 p e := by simp only [TMB_SRC, CAM_HOST_W0]; omega
  have hstatus : TMB_STATUS p ≠ CAM_HOST_W0 p e := by simp only [TMB_STATUS, CAM_HOST_W0]; omega
  have hbumped : s.KeepsEntry p e (t.bumped p n inc gid part loc) :=
    (((h.setFld (f := TMB_VALUE_VALUE p n) _ hvalue).setFld (f := TMB_SRC_MODULE p n) gid hsrc).setFld (f := TMB_SRC_PART p n) part
      hsrc).setFld (f := TMB_SRC_LOCAL p n) _ hsrc
  rw [State.bump_eq]
  split
  · exact hbumped
  · exact ((hbumped.setFld (f := TMB_STATUS_TMB_OVF p) 1 hstatus).count p 0x105 1).overflowed he ..

theorem State.KeepsEntry.snapWin (h : s.KeepsEntry p e t) (he : e < 32) (base size skip : Nat) :
    s.KeepsEntry p e (t.snapWin p base size skip) := by
  unfold State.snapWin
  refine forRange_ind (I := fun _ u => s.KeepsEntry p e u) h fun i u _ hu => hu.setFld _ ?_
  simp only [TMB_SNAP_SNAP, TMB_SNAP, CAM_HOST_W0]
  omega

theorem State.KeepsEntry.flagN (h : s.KeepsEntry p e t) {f : Fld} (q n k : Nat) (hf : f.addr ≠ CAM_HOST_W0 p e) :
    s.KeepsEntry p e (t.flagN f q n k) := by
  unfold State.flagN
  split
  · exact h
  · exact (h.setFld 1 hf).count ..

theorem State.KeepsEntry.sendCtl (h : s.KeepsEntry p e t) (dst job : Nat) (m : List Nat) : s.KeepsEntry p e (t.sendCtl dst job m) :=
  h.of_regs (congrArg State.owner (State.bare_sendPkt ..) :) (State.regs_sendPkt ..)

/-- The step size of a step that is replayed, from its history record; a step without one, not in the open latch, is a miss (R234). -/
def State.etaReplayed (s : State) (p e j step : Nat) : State :=
  match s.histRead p step with
  | some l => ({ s with replayEta := storeSet [] s.replayEta (32 * p + e) l }).bumpEta p e
  | none =>
    if s.fld (UPD_ETA_STEP_STEP p) = step && s.flag (UPD_ETA_STATUS_OPEN p) then s
    else ((s.flagN (UPD_STATUS_HIST_MISS p) p 0x12E 1).detect (unitId p 0xC) 7 0 0xFFFFFF e 0 0 j (4 + step * 2 ^ 32)).meetRollback j 3

/-- A request for the logged packets of a step, toward the sender of a flow (R362). -/
def State.logAsked (s : State) (j step lsid f : Nat) : State :=
  match s.rekey j (s.fld (fcSrc f)) with
  | some x => s.sendCtl (rkGid x) j (lreqMsg 0x32 j step lsid 0 f 0)
  | none => s

theorem State.replayStart_eq (s : State) (p e : Nat) : s.replayStart p e =
    let t := (s.snapWin p (s.tumWin p e).1 1 0).etaReplayed p e (s.jobOf p) (s.fld (CAM_HOST_W6_STEP p e))
    (t.recvFlows (s.jobOf p) (t.lsidOf p e)).foldl (fun u f => u.logAsked (s.jobOf p) (s.fld (CAM_HOST_W6_STEP p e)) (t.lsidOf p e) f) t := rfl

theorem State.keepsEntry_etaReplayed (s : State) (he : e < 32) (step : Nat) : s.KeepsEntry p e (s.etaReplayed p e (s.jobOf p) step) := by
  have hupd : (UPD_STATUS_HIST_MISS p).addr ≠ CAM_HOST_W0 p e := by simp only [UPD_STATUS_HIST_MISS, UPD_STATUS, CAM_HOST_W0]; omega
  have hmiss := ((State.KeepsEntry.refl s).flagN (f := UPD_STATUS_HIST_MISS p) p 0x12E 1 hupd).detect (unitId p 0xC) 7 0 0xFFFFFF e 0 0
    (s.jobOf p) (4 + step * 2 ^ 32)
  unfold State.etaReplayed
  generalize (s.flagN (UPD_STATUS_HIST_MISS p) p 0x12E 1).detect (unitId p 0xC) 7 0 0xFFFFFF e 0 0 (s.jobOf p) (4 + step * 2 ^ 32) = u at hmiss ⊢
  split
  · next l _ =>
    have heta : s.KeepsEntry p e { s with replayEta := storeSet [] s.replayEta (32 * p + e) l } := ⟨rfl, fun _ h => h⟩
    exact heta.bump he ..
  · split
    · exact .refl s
    · rw [← State.jobOf_congr hmiss.owner p]
      exact hmiss.trans (State.keepsEntry_meetRollback _ (by decide))

theorem State.KeepsEntry.logAsked (h : s.KeepsEntry p e t) (j step lsid f : Nat) : s.KeepsEntry p e (t.logAsked j step lsid f) := by
  unfold State.logAsked
  split
  · exact h.sendCtl ..
  · exact h

/-- An entry that starts to replay is not FREE after. -/
theorem State.keepsEntry_replayStart (s : State) (he : e < 32) : s.KeepsEntry p e (s.replayStart p e) := by
  have hsnap := (State.KeepsEntry.refl (p := p) (e := e) s).snapWin he (s.tumWin p e).1 1 0
  rw [State.replayStart_eq]
  generalize s.snapWin p (s.tumWin p e).1 1 0 = t at hsnap
  have heta := hsnap.trans (t.keepsEntry_etaReplayed he (s.fld (CAM_HOST_W6_STEP p e)))
  rw [State.jobOf_congr hsnap.owner p] at heta
  generalize t.etaReplayed p e (s.jobOf p) (s.fld (CAM_HOST_W6_STEP p e)) = u at heta
  exact List.foldlRecOn (motive := fun v => s.KeepsEntry p e v) _ _ heta fun v hv f _ => hv.logAsked ..

end

end Sys2Proof.Machine

/-! SUPPORT. A rebuilt image that overwrites the target step: why the statement on replays and rollbacks fails. -/
namespace Sys2Proof.Machine

/-- A number that no job slot has: the target step of a slot 0x38DFC would stand at tumbler 4 of partition 0, its status at tumbler 0. -/
def strayJob : Nat := 0x38DFC

/-- A rebuild for that number, toward entry 0 of partition 0: its epoch is 0, and its image holds a tumbler. -/
def strayRebuild : Rebuild := ⟨strayJob, 7, 0, 0, 1, 0, 0, 0, [], some [(2 ^ 80, false)], false⟩

/-- A module with that rebuild: the entry's window begins at tumbler 4; the phase reads replay, the target step 1. -/
def strayState : State :=
  (((({ State.reset with rebuilds := [strayRebuild] } : State).setFld (CAM_HOST_W5_TWIN_BASE 0 0) 4).setFld (CAM_HOST_W5_TWIN_SIZE 0 0)
    1).setFld (TMB_VALUE_VALUE 0 0) 2).setFld (TMB_VALUE_VALUE 0 4) 1

theorem strayState_found :
    strayState.rebuilds.find? (fun b => b.job == strayJob && b.lsid == 7 && b.use == 1) = some strayRebuild := by decide +kernel

theorem strayState_phase : strayState.fld (RCV_J_STATUS_PHASE strayJob) = 2 := by decide +kernel

theorem strayState_target : strayState.fld (RCV_J_TARGET_STEP strayJob) = 1 := by decide +kernel

theorem strayState_window : strayState.tumWin 0 0 = (4, 64) := by decide +kernel

/-- The image writes 0 at the target step, so the model takes the rebuild for one whose epoch is the target, and the entry stays FREE. -/
theorem strayState_free : (strayState.after (.replayRebuildComplete strayJob 7)).fld (CAM_HOST_W0_STATE 0 0) = 0 := by decide +kernel

theorem strayState_owner : (strayState.after (.replayRebuildComplete strayJob 7)).owner = [] := by decide +kernel

/-- An entry that enters REPLAY and starts to replay, in a partition that belongs to no job, is not FREE. -/
theorem State.replayStart_used (u : State) {p e : Nat} (he : e < 32) (ho : ((u.setFld (CAM_HOST_W0_STATE p e) 3).replayStart p e).owner = []) :
    ((u.setFld (CAM_HOST_W0_STATE p e) 3).replayStart p e).fld (CAM_HOST_W0_STATE p e) ≠ 0 := by
  have hkept := (u.setFld (CAM_HOST_W0_STATE p e) 3).keepsEntry_replayStart (p := p) he
  refine hkept.used ?_ ?_
  · rw [State.jobOf, ← hkept.owner, ho]
    rfl
  · rw [State.fld_setFld_self _ _ _ (Nat.le_of_ble_eq_true rfl)]
    exact Nat.succ_ne_zero 2

/-- Refutes O44: its clause on a rebuilt image does not bound the slot number of the rebuild, and at the number 0x38DFC the target step of that
"slot" stands at a tumbler which the image itself overwrites. The clause compares the epoch 0 with the target step 1 as it was before and
claims REPLAY; the model compares it with the 0 that the image has written, and the entry stays as it was. -/
theorem not_recoveryReplaysOrRollsBack : ¬ Obligations.RecoveryReplaysOrRollsBack := by
  unfold Obligations.RecoveryReplaysOrRollsBack
  rintro ⟨-, -, -, -, hrebuilt, -⟩
  obtain ⟨-, himage⟩ := hrebuilt strayState strayJob 7 strayRebuild strayState_found
  obtain ⟨u, -, -, -, -, hreplays⟩ := himage _ rfl strayState_phase (by decide) (by decide) (by
    change (strayState.tumWin 0 0).1 + (strayState.tumWin 0 0).2 ≤ 4096
    rw [strayState_window]
    decide)
  have hexec := hreplays (by rw [strayState_target]; decide)
  have hafter : strayState.after (.replayRebuildComplete strayJob 7) = (u.setFld (CAM_HOST_W0_STATE 0 0) 3).replayStart 0 0 := by
    rw [State.after, hexec]
    rfl
  exact u.replayStart_used (by decide) (hafter ▸ strayState_owner) (hafter ▸ strayState_free)

end Sys2Proof.Machine

/-! SUPPORT. A held tile whose context no module has: why the statement on the two-key check fails. -/
namespace Sys2Proof.Machine

/-- A context number that no context has: the control word of its command ring would stand at MXE_TWOKEY_LAST of its partition. -/
def strayCtx : Nat := 0x3F22

/-- A tile of that context, held on matrix engine 0 of partition 0. Its repeat missed nothing, and no sibling repeats it. -/
def strayTile : HeldTile := ⟨0, 0, strayCtx, 0, 0, 0, 0, 0, 0, 0, 0, 0, none, [], [], [], [], [], false, some ⟨[], false⟩, none⟩

/-- The command of that tile, in flight, none of its outputs poisoned. -/
def strayCommand : Issued := ⟨0, strayCtx, 0, 0, 0, [], 0, false, false, false⟩

/-- A running module with that tile, whose last check took two cycles: read as the control word of a ring, one that runs. -/
def strayHeld : State :=
  ({ State.reset with boot := .running, held := [strayTile], inflight := [strayCommand] } : State).setFld (MXE_TWOKEY_LAST_CYCLES 0) 2

theorem strayHeld_found : strayHeld.heldOn 0 0 = some strayTile := by decide +kernel

theorem strayHeld_live : strayHeld.ctxDead 0 strayCtx = false := by decide +kernel

/-- The outcome writes the cycles of this check, 0: read as a control word, a ring that stands. The clean result is discarded and the
command poisoned. -/
theorem strayHeld_poisons : (strayHeld.after (.twoKeyOutcome 0 0)).inflight.map Issued.psn = [true] := by decide +kernel

theorem State.inflight_mxReleased (s : State) (p : Nat) (t : Tile) : (s.mxReleased p t).inflight = s.inflight := by
  unfold State.mxReleased
  split
  · exact State.inflight_of_bare ((State.OnlyRegs.refl s (fun _ => True)).flagN (f := MXE_STATUS_NONFINITE_OUT p) p 0x119 1 trivial).1
  · rfl

/-- A tile released with a result poisons no command. -/
theorem State.psn_mxRelease1 (s : State) (h : HeldTile) (l : List Nat) :
    (s.mxRelease1 h (some l)).inflight.map Issued.psn = s.inflight.map Issued.psn := by
  unfold State.mxRelease1
  simp only [Option.isNone_some, Bool.false_eq_true, if_false, Bool.or_false, State.inflight_mxReleased, List.map_map]
  refine List.map_congr_left fun i _ => ?_
  simp only [Function.comp_apply]
  split <;> rfl

/-- Refutes O29: its clause on the outcome does not bound the context of the held tile. At context 0x3F22 the control word that the model
reads for "the context is dead" is MXE_TWOKEY_LAST, which the outcome itself writes before it looks. The clause takes the context as it
was before, alive, and claims the release of the clean result; the model finds it dead after, and releases poison. -/
theorem not_twoKeyCheckSettlesAMiss : ¬ Obligations.TwoKeyCheckSettlesAMiss := by
  unfold Obligations.TwoKeyCheckSettlesAMiss
  rintro ⟨-, -, -, -, houtcome, -⟩
  obtain ⟨u, hbare, -, -, -, -, hexec⟩ :=
    houtcome strayHeld 0 0 strayTile ⟨[], false⟩ (by decide) (by decide) strayHeld_found rfl (.inl rfl)
  have hclean : exec (.twoKeyOutcome 0 0) strayHeld = .next (u.mxRelease1 strayTile (some [])) := by
    rw [hexec, show strayTile.ctx = strayCtx from rfl, strayHeld_live]
    rfl
  have hinflight : u.inflight = [strayCommand] := congrArg State.inflight hbare
  have hpsn := strayHeld_poisons
  rw [State.after, hclean] at hpsn
  simp only [State.psn_mxRelease1, hinflight] at hpsn
  exact absurd hpsn (by decide)

end Sys2Proof.Machine

/-! SUPPORT. The ring of error records: the sixteen words of a record at TAIL, and the fields that its number holds (Table 13.1). -/
namespace Sys2Proof.Machine

/-! ## Words written one after the other -/

/-- The registers from `b` on hold the words that a loop wrote there; no other register changed. -/
theorem forRange_setReg (s : State) (b n : Nat) (w : Nat → Word) :
    let t := forRange n (fun i x => x.setReg (b + 4 * i) (w i)) s
    (∀ i, i < n → t.reg (b + 4 * i) = w i) ∧ s.OnlyRegs t (fun a => b ≤ a ∧ a < b + 4 * n) := by
  refine forRange_ind (I := fun m t => (∀ i, i < m → t.reg (b + 4 * i) = w i) ∧ s.OnlyRegs t (fun a => b ≤ a ∧ a < b + 4 * n))
    ⟨fun i hi => absurd hi (Nat.not_lt_zero i), .refl s _⟩ fun m t hm ⟨hwords, honly⟩ => ⟨fun i hi => ?_, ?_⟩
  · rcases Nat.lt_succ_iff_lt_or_eq.mp hi with hi | rfl
    · rw [State.reg_setReg_ne _ _ (by omega), hwords i hi]
    · exact State.reg_setReg_self ..
  · exact ⟨(State.bare_setReg ..).trans honly.1, honly.2.setReg _ (by omega)⟩

/-! ## A record takes the slot at TAIL (R381) -/

/-- Registers of a slot of the ring. -/
def RingReg (slot a : Nat) : Prop := KPR_ERR_RING slot ≤ a ∧ a < KPR_ERR_RING slot + 64

theorem reportReg_ring {slot a : Nat} (hs : slot < 1024) (h : RingReg slot a) : reportReg a = false := by
  simp only [RingReg, KPR_ERR_RING] at h
  simp [reportReg, EVR_RSEQ, EVR_STATUS, DBG_GSTATUS]
  omega

/-- A register of the ring is none of the Keeper's registers below it. -/
theorem not_ringReg {slot a : Nat} (h : a < 0x110000) : ¬ RingReg slot a := by
  simp only [RingReg, KPR_ERR_RING]
  omega

section
variable (s : State) (w : Nat)

/-- The words of a record at TAIL. -/
def State.ringWords : State :=
  forRange 16 (fun i x => x.setReg (KPR_ERR_RING (s.fld KPR_ERR_TAIL_TAIL) + 4 * i) (BitVec.ofNat 32 (w / 2 ^ (32 * i)))) s

/-- TAIL on the next slot. -/
def State.ringTail : State :=
  ((s.ringWords w).setFld KPR_ERR_TAIL_TAIL ((s.fld KPR_ERR_TAIL_TAIL + 1) % 1024)).gcount 0x230 1

/-- The oldest record gone. -/
def State.ringOverrun (head : Nat) : State := ((s.setFld KPR_ERR_HEAD_HEAD head).setFld KPR_ERR_STATUS_OVERRUN 1).gcount 0x231 1

theorem State.ringPut_eq : s.ringPut w =
    if (s.fld KPR_ERR_TAIL_TAIL + 1) % 1024 = (s.ringTail w).fld KPR_ERR_HEAD_HEAD then
      (s.ringTail w).ringOverrun (((s.fld KPR_ERR_TAIL_TAIL + 1) % 1024 + 1) % 1024) else s.ringTail w := rfl

/-- The slot at TAIL holds the words of the record. -/
theorem State.ringWords_effect :
    (∀ i, i < 16 → ((s.ringWords w).reg (KPR_ERR_RING (s.fld KPR_ERR_TAIL_TAIL) + 4 * i)).toNat = bits w (32 * i) 32) ∧
    s.OnlyRegs (s.ringWords w) (RingReg (s.fld KPR_ERR_TAIL_TAIL)) := by
  obtain ⟨hwords, honly⟩ := forRange_setReg s (KPR_ERR_RING (s.fld KPR_ERR_TAIL_TAIL)) 16 (fun i => BitVec.ofNat 32 (w / 2 ^ (32 * i)))
  refine ⟨fun i hi => ?_, honly⟩
  rw [State.ringWords, hwords i hi, BitVec.toNat_ofNat, bits, Nat.shiftRight_eq_div_pow]

theorem State.ringTail_effect :
    (s.ringTail w).fld KPR_ERR_TAIL_TAIL = (s.fld KPR_ERR_TAIL_TAIL + 1) % 1024 ∧
    (s.ringWords w).OnlyRegs (s.ringTail w) (fun a => a = KPR_ERR_TAIL) := by
  constructor
  · rw [State.ringTail, State.fld_gcount _ _ _ _ (by decide), State.fld_setFld_self _ _ _ (by decide)]
    exact Nat.mod_mod _ 1024
  · exact ((State.OnlyRegs.refl (s.ringWords w) (fun a => a = KPR_ERR_TAIL)).setFld (f := KPR_ERR_TAIL_TAIL) _ rfl).gcount ..

theorem State.ringOverrun_effect {head : Nat} (h : head < 1024) :
    (s.ringOverrun head).fld KPR_ERR_HEAD_HEAD = head ∧ (s.ringOverrun head).fld KPR_ERR_STATUS_OVERRUN = 1 ∧
    s.OnlyRegs (s.ringOverrun head) (fun a => a = KPR_ERR_HEAD ∨ a = KPR_ERR_STATUS) := by
  refine ⟨?_, ?_, ?_⟩
  · rw [State.ringOverrun, State.fld_gcount _ _ _ _ (by decide), State.fld_setFld_apart _ _ _ _ (.inl (by decide)) (by decide),
      State.fld_setFld_self _ _ _ (by decide)]
    exact Nat.mod_eq_of_lt h
  · rw [State.ringOverrun, State.fld_gcount _ _ _ _ (by decide), State.fld_setFld_one _ rfl (by decide)]
  · exact (((State.OnlyRegs.refl s _).setFld (f := KPR_ERR_HEAD_HEAD) _ (.inl rfl)).setFld
      (f := KPR_ERR_STATUS_OVERRUN) _ (.inr rfl)).gcount ..

/-- Registers that a record in the slot `slot` writes. -/
def RecordReg (slot a : Nat) : Prop := a = KPR_ERR_TAIL ∨ a = KPR_ERR_HEAD ∨ a = KPR_ERR_STATUS ∨ RingReg slot a

/-- HEAD, OVERRUN and the words in the ring once TAIL has moved are those from before. -/
theorem State.ringTail_keeps :
    (∀ i, i < 16 → ((s.ringTail w).reg (KPR_ERR_RING (s.fld KPR_ERR_TAIL_TAIL) + 4 * i)).toNat = bits w (32 * i) 32) ∧
    (s.ringTail w).fld KPR_ERR_HEAD_HEAD = s.fld KPR_ERR_HEAD_HEAD ∧
    (s.ringTail w).fld KPR_ERR_STATUS_OVERRUN = s.fld KPR_ERR_STATUS_OVERRUN ∧
    s.OnlyRegs (s.ringTail w) (RecordReg (s.fld KPR_ERR_TAIL_TAIL)) := by
  obtain ⟨hwords, hring⟩ := s.ringWords_effect w
  obtain ⟨-, htail⟩ := s.ringTail_effect w
  have hslot : s.fld KPR_ERR_TAIL_TAIL < 1024 := s.fld_lt KPR_ERR_TAIL_TAIL
  generalize s.fld KPR_ERR_TAIL_TAIL = slot at *
  have hkept {f : Fld} (h : f.addr ≠ KPR_ERR_TAIL) (hlow : f.addr < 0x110000) (hr : reportReg f.addr = false) :
      (s.ringTail w).fld f = s.fld f := (htail.2.fld h hr).trans (hring.2.fld (not_ringReg hlow) hr)
  refine ⟨fun i hi => ?_, hkept (by decide) (by decide) (by decide), hkept (by decide) (by decide) (by decide), ?_⟩
  · have hin : RingReg slot (KPR_ERR_RING slot + 4 * i) := ⟨by omega, by omega⟩
    rw [htail.2 _ (fun e => not_ringReg (by rw [e]; decide) hin) (reportReg_ring hslot hin), hwords i hi]
  · exact ⟨htail.1.trans hring.1, (hring.2.mono fun _ ha => .inr (.inr (.inr ha))).trans (htail.2.mono fun _ ha => .inl ha)⟩

/-- A record takes the slot at TAIL; where the ring is full the oldest goes. -/
theorem State.ringPut_effect :
    let tail := s.fld KPR_ERR_TAIL_TAIL
    let head := s.fld KPR_ERR_HEAD_HEAD
    let t := s.ringPut w
    (∀ i, i < 16 → (t.reg (KPR_ERR_RING tail + 4 * i)).toNat = bits w (32 * i) 32) ∧ t.fld KPR_ERR_TAIL_TAIL = (tail + 1) % 1024 ∧
    ((tail + 1) % 1024 = head → t.fld KPR_ERR_HEAD_HEAD = (head + 1) % 1024 ∧ t.fld KPR_ERR_STATUS_OVERRUN = 1) ∧
    ((tail + 1) % 1024 ≠ head → t.fld KPR_ERR_HEAD_HEAD = head ∧ t.fld KPR_ERR_STATUS_OVERRUN = s.fld KPR_ERR_STATUS_OVERRUN) ∧
    s.OnlyRegs t (RecordReg tail) := by
  obtain ⟨hwords, hhead, hover, honly⟩ := s.ringTail_keeps w
  obtain ⟨htail, -⟩ := s.ringTail_effect w
  have hslot : s.fld KPR_ERR_TAIL_TAIL < 1024 := s.fld_lt KPR_ERR_TAIL_TAIL
  simp only [State.ringPut_eq, hhead]
  by_cases hfull : (s.fld KPR_ERR_TAIL_TAIL + 1) % 1024 = s.fld KPR_ERR_HEAD_HEAD
  · rw [if_pos hfull, hfull]
    obtain ⟨h1, h2, h3⟩ := (s.ringTail w).ringOverrun_effect (Nat.mod_lt (s.fld KPR_ERR_HEAD_HEAD + 1) (by decide : 0 < 1024))
    refine ⟨fun i hi => ?_, ?_, fun _ => ⟨h1, h2⟩, fun hn => absurd rfl hn, ?_⟩
    · have hin : RingReg (s.fld KPR_ERR_TAIL_TAIL) (KPR_ERR_RING (s.fld KPR_ERR_TAIL_TAIL) + 4 * i) := ⟨by omega, by omega⟩
      have hout : ¬ (KPR_ERR_RING (s.fld KPR_ERR_TAIL_TAIL) + 4 * i = KPR_ERR_HEAD ∨
          KPR_ERR_RING (s.fld KPR_ERR_TAIL_TAIL) + 4 * i = KPR_ERR_STATUS) := by
        rintro (e | e) <;> exact not_ringReg (by rw [e]; decide) hin
      rw [h3.2 _ hout (reportReg_ring hslot hin), hwords i hi]
    · rw [h3.2.fld (by decide) (by decide), htail, hfull]
    · exact ⟨h3.1.trans honly.1, honly.2.trans (h3.2.mono fun _ ha => ha.elim (fun h => .inr (.inl h)) (fun h => .inr (.inr (.inl h))))⟩
  · rw [if_neg hfull]
    exact ⟨hwords, htail, fun h => absurd h hfull, fun _ => ⟨hhead, hover⟩, honly⟩

end

/-! ## The CRC-32C of a record -/

theorem crc32cBit_lt {c : Nat} (h : c < 2 ^ 32) : crc32cBit c < 2 ^ 32 := by
  have hhalf : c / 2 < 2 ^ 32 := by omega
  unfold crc32cBit
  split
  · exact Nat.xor_lt_two_pow hhalf (by decide)
  · exact hhalf

theorem crc32cBits_lt {n c : Nat} (h : c < 2 ^ 32) : crc32cBits n c < 2 ^ 32 := by
  induction n generalizing c with
  | zero => exact h
  | succ n ih => exact ih (crc32cBit_lt h)

theorem crc32c_lt (l : List Nat) : crc32c l < 2 ^ 32 := by
  refine Nat.xor_lt_two_pow (List.foldlRecOn (motive := fun c => c < 2 ^ 32) l _ (by decide) fun c hc b _ => ?_) (by decide)
  exact crc32cBits_lt (Nat.xor_lt_two_pow hc (by omega))

/-! ## The record as a number (Table 13.1) -/

/-- Fields at their places in a number, from bit `lo` on. -/
def placeFields (lo : Nat) : List (Nat × Nat) → Nat
  | [] => 0
  | f :: t => f.2 * 2 ^ lo + placeFields (lo + f.1) t

theorem placeFields_eq (lo : Nat) (l : List (Nat × Nat)) : placeFields lo l = 2 ^ lo * packFields l := by
  induction l generalizing lo with
  | nil => rfl
  | cons f t ih => rw [placeFields, packFields, ih, Nat.mul_add, Nat.pow_add, Nat.mul_assoc, Nat.mul_comm f.2]

section
variable (r : ErrRec) (seq opmin : Nat)

/-- Widths and contents of the fields of a record below its CRC, the reserved bits among them. -/
def ErrRec.contents : List (Nat × Nat) :=
  [(16, r.unit), (8, r.cls), (8, r.flags), (32, seq), (64, r.ftime), (32, opmin), (24, r.desc), (6, r.ctx), (2, 0), (16, r.layer),
   (16, r.operator), (8, r.job % 8), (8, r.sensor), (16, r.temp), (16, r.railMv), (8, r.rail), (8, 0), (32, r.jobId),
   (128, r.syndrome), (16, r.gen), (16, 0)]

/-- The fields, each cut to its width. -/
def ErrRec.fields : List (Nat × Nat) := (r.contents seq opmin).map fun f => (f.1, f.2 % 2 ^ f.1)

theorem ErrRec.fields_fit : ∀ f ∈ r.fields seq opmin, f.2 < 2 ^ f.1 := by
  simp only [ErrRec.fields, List.forall_mem_map]
  exact fun f _ => Nat.mod_lt _ (Nat.two_pow_pos _)

theorem ErrRec.width_fields : fieldsWidth (r.fields seq opmin) = 480 := by
  simp [fieldsWidth, ErrRec.fields, ErrRec.contents]

/-- The record below its CRC. -/
def ErrRec.low : Nat := packFields (r.fields seq opmin)

theorem ErrRec.low_lt : r.low seq opmin < 2 ^ 480 := by
  have h := packFields_lt (r.fields_fit seq opmin)
  rwa [ErrRec.width_fields] at h

theorem ErrRec.word_eq : r.word seq opmin = r.low seq opmin + crc32c (leBytes 60 (r.low seq opmin)) * 2 ^ 480 := by
  have hlow : r.low seq opmin = placeFields 0 (r.fields seq opmin) := by rw [placeFields_eq, Nat.pow_zero, Nat.one_mul, ErrRec.low]
  have hbyte : (2 : Nat) ^ 8 = 256 := rfl
  have hctx : (2 : Nat) ^ 6 = 64 := rfl
  have hjob : r.job % 8 % 256 = r.job % 8 := by omega
  rw [hlow]
  simp only [placeFields, ErrRec.fields, ErrRec.contents, List.map_cons, List.map_nil, ErrRec.word, Nat.reduceAdd,
    Nat.pow_zero, Nat.mul_one, Nat.zero_mod, Nat.zero_mul, Nat.zero_add, Nat.add_zero, Nat.add_assoc, hbyte, hctx, hjob]

/-- The CRC of a record. -/
def ErrRec.crc : Nat := crc32c (leBytes 60 (r.low seq opmin))

theorem ErrRec.word_mod : r.word seq opmin % 2 ^ 480 = r.low seq opmin := by
  rw [ErrRec.word_eq, Nat.add_mul_mod_self_right, Nat.mod_eq_of_lt (r.low_lt seq opmin)]

/-- The fields of a record stand one above the other, its CRC on top. -/
theorem ErrRec.fieldsAt_word : FieldsAt (r.word seq opmin) 0 (r.fields seq opmin ++ [(32, r.crc seq opmin)]) := by
  have hcrc : packFields [(32, r.crc seq opmin)] = r.crc seq opmin := by rw [packFields, packFields, Nat.mul_zero, Nat.add_zero]
  refine fieldsAt_of_packFields (fun f hf => ?_) ?_
  · rcases List.mem_append.mp hf with hf | hf
    · exact r.fields_fit seq opmin f hf
    · obtain rfl := List.mem_singleton.mp hf
      exact crc32c_lt _
  · rw [Nat.pow_zero, Nat.div_one, packFields_append, ErrRec.width_fields, hcrc, Nat.mul_comm, ErrRec.word_eq]
    rfl

/-- Where a record holds its fields. -/
theorem ErrRec.bits_word : let w := r.word seq opmin
    bits w 0 16 = r.unit % 2 ^ 16 ∧ bits w 16 8 = r.cls % 2 ^ 8 ∧ bits w 24 8 = r.flags % 2 ^ 8 ∧ bits w 32 32 = seq % 2 ^ 32 ∧
    bits w 64 64 = r.ftime % 2 ^ 64 ∧ bits w 128 32 = opmin % 2 ^ 32 ∧ bits w 160 24 = r.desc % 2 ^ 24 ∧ bits w 184 6 = r.ctx % 64 ∧
    bits w 192 16 = r.layer % 2 ^ 16 ∧ bits w 208 16 = r.operator % 2 ^ 16 ∧ bits w 320 128 = r.syndrome % 2 ^ 128 ∧
    bits w 480 32 = crc32c (leBytes 60 (w % 2 ^ 480)) := by
  have h := r.fieldsAt_word seq opmin
  simp only [FieldsAt, ErrRec.fields, ErrRec.contents, List.map_cons, List.map_nil, List.cons_append, List.nil_append, Nat.reduceAdd] at h
  obtain ⟨hunit, hcls, hflags, hseq, htime, hopmin, hdesc, hctx, -, hlayer, hoper, -, -, -, -, -, -, -, hsyn, -, -, hcrc, -⟩ := h
  simp only [ErrRec.word_mod]
  exact ⟨hunit, hcls, hflags, hseq, htime, hopmin, hdesc, hctx, hlayer, hoper, hsyn, hcrc⟩

end

end Sys2Proof.Machine

/-! SUPPORT. A detection becomes a record (R380, R381): the alert, the trigger of the trace unit, and what the recorder counts leave the record
in the ring as it was written. -/
namespace Sys2Proof.Machine

/-! ## What follows a record in the ring -/

/-- `t` is reached from `s` without a change of pending interrupts, and of no register but those that `P` names. -/
structure State.KeepsRecord (s : State) (P : Nat → Prop) (t : State) : Prop where
  irqPend : t.irqPend = s.irqPend
  regs : s.RegsKept t P

section
variable {s t u : State} {P Q : Nat → Prop} {p : Nat}

theorem State.KeepsRecord.refl (s : State) (P : Nat → Prop) : s.KeepsRecord P s := ⟨rfl, .refl s P⟩

theorem State.KeepsRecord.trans (h : s.KeepsRecord P t) (h' : t.KeepsRecord P u) : s.KeepsRecord P u :=
  ⟨h'.irqPend.trans h.irqPend, h.regs.trans h'.regs⟩

theorem State.KeepsRecord.mono (h : s.KeepsRecord P t) (hpq : ∀ a, P a → Q a) : s.KeepsRecord Q t := ⟨h.irqPend, h.regs.mono hpq⟩

theorem State.KeepsRecord.setFld (h : s.KeepsRecord P t) {f : Fld} (v : Nat) (hp : P f.addr) : s.KeepsRecord P (t.setFld f v) :=
  ⟨h.irqPend, h.regs.setFld v hp⟩

theorem State.KeepsRecord.sbAlert (h : s.KeepsRecord P t) (b : Nat) (hp : P KPR_SB_ALERT) : s.KeepsRecord P (t.sbAlert b) := by
  refine ⟨(congrArg State.irqPend (State.bare_sbAlert t b)).trans h.irqPend, h.regs.trans fun a ha _ => State.reg_sbAlert _ _ ?_⟩
  exact fun e => ha (e ▸ hp)

theorem State.KeepsRecord.count (h : s.KeepsRecord P t) (q n k : Nat) : s.KeepsRecord P (t.count q n k) :=
  ⟨(State.irqPend_count ..).trans h.irqPend, h.regs.count q n k⟩

theorem State.KeepsRecord.stageRec (h : s.KeepsRecord P t) (type body : Nat) : s.KeepsRecord P (t.stageRec type body) :=
  ⟨(State.irqPend_stageRec ..).trans h.irqPend, h.regs.stageRec type body⟩

theorem State.KeepsRecord.setTrc (h : s.KeepsRecord P t) (q : Nat) (x : TrcState) : s.KeepsRecord P (t.setTrc q x) :=
  ⟨h.irqPend, h.regs.of_regs rfl⟩

theorem State.KeepsRecord.forRange {n : Nat} {f : Nat → State → State} (h : s.KeepsRecord P t)
    (hf : ∀ i u, i < n → s.KeepsRecord P u → s.KeepsRecord P (f i u)) : s.KeepsRecord P (forRange n f t) :=
  forRange_ind (I := fun _ u => s.KeepsRecord P u) h hf

theorem State.irqPend_wrBytes (s : State) (a n v : Nat) : (s.wrBytes a n v).irqPend = s.irqPend := rfl

theorem State.irqPend_trcPut (s : State) (p r : Nat) : (s.trcPut p r).1.irqPend = s.irqPend := by
  have hset {u : State} (h : u.irqPend = s.irqPend) (f : Fld) (v : Nat) : (u.setFld f v).irqPend = s.irqPend :=
    (State.irqPend_setFld ..).trans h
  unfold State.trcPut
  simp only []
  split
  · have hspill (a : Nat) := s.irqPend_wrBytes a 16 r
    split
    · exact hset (hspill _) _ _
    · split
      · exact hset (hspill _) _ _
      · exact hset (hset (hspill _) _ _) _ _
  · have hstored (l : Store Nat) : ({ s with trcBuf := l } : State).irqPend = s.irqPend := rfl
    split
    · exact hset (hset (hstored _) _ _) _ _
    · exact hset (hstored _) _ _

theorem State.KeepsRecord.trcPut (h : s.KeepsRecord (TraceReg p) t) (r : Nat) : s.KeepsRecord (TraceReg p) (t.trcPut p r).1 :=
  h.trans ⟨t.irqPend_trcPut p r, ((State.Places.refl t _).trcPut r).regs⟩

theorem traceReg_status (p : Nat) : TraceReg p (TRC_STATUS p) := by simp only [TraceReg, TRC_STATUS]; omega

theorem traceReg_trigPos (p : Nat) : TraceReg p (TRC_TRIG_POS p) := by simp only [TraceReg, TRC_TRIG_POS]; omega

theorem State.KeepsRecord.trcGap (h : s.KeepsRecord (TraceReg p) t) : s.KeepsRecord (TraceReg p) (t.trcGap p) := by
  unfold State.trcGap
  simp only []
  split
  · exact h
  · exact ((((h.trcPut _).setFld _ (traceReg_status p)).setTrc ..).trcPut _).setTrc ..

/-- A trigger writes the registers of its trace unit alone (R538). -/
theorem State.KeepsRecord.trigger1 (h : s.KeepsRecord (TraceReg p) t) (src detail oper : Nat) :
    s.KeepsRecord (TraceReg p) (t.trigger1 p src detail oper) := by
  unfold State.trigger1
  simp only []
  split
  · exact h
  · split
    · exact (h.setFld _ (traceReg_status p)).count ..
    · exact ((((h.trcGap.trcPut _).setFld _ (traceReg_trigPos p)).setFld _ (traceReg_trigPos p)).setTrc ..).setFld _ (traceReg_status p)

/-- Registers of the trace units of the module. -/
def TraceRegs (a : Nat) : Prop := ∃ p, p < 8 ∧ TraceReg p a

theorem State.keepsRecord_trigger (s : State) {p : Nat} (hp : p < 8) (src detail oper : Nat) :
    s.KeepsRecord TraceRegs (s.trigger p src detail oper) := by
  have hone (t : State) (q src : Nat) (hq : q < 8) : t.KeepsRecord TraceRegs (t.trigger1 q src detail oper) :=
    ((State.KeepsRecord.refl t _).trigger1 src detail oper).mono fun _ ha => ⟨q, hq, ha⟩
  unfold State.trigger
  simp only []
  split
  · refine (hone s p src hp).forRange fun q t hq ht => ?_
    split
    · exact ht.trans (hone t q 5 hq)
    · exact ht
  · exact hone s p src hp

theorem tracePart_lt {unit p : Nat} (h : tracePart unit = some p) : p < 8 := by
  unfold tracePart at h
  split at h
  · next hc =>
    obtain rfl := Option.some.inj h
    simpa using (Bool.and_eq_true_iff.mp hc).2
  · exact nomatch h

end

/-! ## Steps of a record -/

section
variable (s : State) (r : ErrRec)

/-- The record in the ring, and its sequence number taken. -/
def State.recordSeq : State :=
  (s.ringPut (r.word (s.fld KPR_ERR_SEQ_SEQ) s.opmin)).setFld KPR_ERR_SEQ_SEQ (s.fld KPR_ERR_SEQ_SEQ + 1)

/-- The interrupt of the ring pending. -/
def State.recordPut : State := { s.recordSeq r with irqPend := storeSet false (s.recordSeq r).irqPend 2 true }

/-- Whether a record raises the ERROR alert. -/
def State.alerts : Bool := bitAt (s.fld KPR_ERR_ALERT_MASK_MASK) r.cls || bitAt r.flags 0

/-- The sideband's copy of the record that raises an alert. -/
def State.lastErr (seq : Nat) : State :=
  (((s.setFld KPR_SB_LAST_ERR_UNIT r.unit).setFld KPR_SB_LAST_ERR_CLASS r.cls).setFld KPR_SB_LAST_ERR_FLAGS r.flags).setFld
    KPR_SB_LAST_SEQ_SEQ seq

/-- The alert of a record, where it raises one. -/
def State.recordAlert (seq : Nat) : State := if s.alerts r then (s.lastErr r seq).sbAlert alError else s

/-- The trigger of a record at the trace unit of its partition. -/
def State.recordTrigger : State :=
  match tracePart r.unit with
  | some p => if bitAt (s.fld (TRC_TRIG_CFG_CLASS_MASK p)) (r.cls - 1) && decide (0 < r.cls) then s.trigger p 2 r.cls 0 else s
  | none => s

/-- A record of the recorder and its counts. -/
def State.recordStaged (seq : Nat) : State := (s.stageRec 0x11 (r.body seq s.ftime)).recAccumulate r

/-- All of a record but what it counts against units. -/
def State.recorded : State :=
  (((s.recordPut r).recordAlert r (s.fld KPR_ERR_SEQ_SEQ)).recordTrigger r).recordStaged r (s.fld KPR_ERR_SEQ_SEQ)

theorem State.writeRecord_eq : s.writeRecord r = (s.recorded r).countRec r := rfl

/-- Registers of an alert, at the sideband. -/
def AlertReg (a : Nat) : Prop := a = KPR_SB_LAST_ERR ∨ a = KPR_SB_LAST_SEQ ∨ a = KPR_SB_ALERT

theorem State.keepsRecord_recordAlert (seq : Nat) : s.KeepsRecord AlertReg (s.recordAlert r seq) := by
  have hlast : s.KeepsRecord AlertReg (s.lastErr r seq) :=
    ((((State.KeepsRecord.refl s AlertReg).setFld (f := KPR_SB_LAST_ERR_UNIT) _ (.inl rfl)).setFld
      (f := KPR_SB_LAST_ERR_CLASS) _ (.inl rfl)).setFld (f := KPR_SB_LAST_ERR_FLAGS) _ (.inl rfl)).setFld
      (f := KPR_SB_LAST_SEQ_SEQ) _ (.inr (.inl rfl))
  unfold State.recordAlert
  split
  · exact hlast.sbAlert alError (.inr (.inr rfl))
  · exact .refl s _

theorem State.recordAlert_raises (seq : Nat) (h : s.alerts r = true) : (s.recordAlert r seq).fld ⟨KPR_SB_ALERT, alError, 1⟩ = 1 := by
  rw [State.recordAlert, if_pos h]
  exact State.fld_sbAlert_self _ _ (by decide)

theorem State.keepsRecord_recordTrigger : s.KeepsRecord TraceRegs (s.recordTrigger r) := by
  unfold State.recordTrigger
  split
  · next p hp =>
    split
    · exact s.keepsRecord_trigger (tracePart_lt hp) ..
    · exact .refl s _
  · exact .refl s _

theorem State.tallyAdd_eq : ∃ tally acc, s.tallyAdd r = { s with tally := tally, acc := acc } := by
  unfold State.tallyAdd
  simp only []
  split <;> split <;> exact ⟨_, _, rfl⟩

theorem State.KeepsRecord.accAdd {s t : State} {P : Nat → Prop} (h : s.KeepsRecord P t) (k n : Nat) : s.KeepsRecord P (t.accAdd k n) :=
  ⟨h.irqPend, h.regs.of_regs rfl⟩

theorem State.keepsRecord_recAccumulate : s.KeepsRecord TraceRegs (s.recAccumulate r) := by
  obtain ⟨tally, acc, htally⟩ := s.tallyAdd_eq r
  have hcounted : s.KeepsRecord TraceRegs ((s.tallyAdd r).accAdd (kErrMonth (unitDie r.unit) r.cls) 1) := by
    have htallied : s.KeepsRecord TraceRegs (s.tallyAdd r) := htally ▸ ⟨rfl, fun _ _ _ => rfl⟩
    exact htallied.accAdd ..
  unfold State.recAccumulate
  simp only []
  split
  · exact ((((((hcounted.accAdd ..).accAdd ..).accAdd ..).accAdd ..).accAdd ..).accAdd ..)
  · exact hcounted

theorem State.keepsRecord_recordStaged (seq : Nat) : s.KeepsRecord TraceRegs (s.recordStaged r seq) :=
  ((State.KeepsRecord.refl s _).stageRec ..).trans (State.keepsRecord_recAccumulate ..)

/-! ## The whole record -/

theorem State.reg_irqPend (s : State) (l : Store Bool) (a : Nat) : ({ s with irqPend := l } : State).reg a = s.reg a := rfl

/-- What a record in the ring leaves: its words, TAIL and SEQ moved on, and the interrupt pending. -/
theorem State.recordPut_effect :
    (s.recordPut r).fld KPR_ERR_SEQ_SEQ = (s.fld KPR_ERR_SEQ_SEQ + 1) % 2 ^ 32 ∧
    (s.recordPut r).fld KPR_ERR_TAIL_TAIL = (s.fld KPR_ERR_TAIL_TAIL + 1) % 1024 ∧ storeGet false (s.recordPut r).irqPend 2 = true ∧
    (∀ i, i < 16 → ((s.recordPut r).reg (KPR_ERR_RING (s.fld KPR_ERR_TAIL_TAIL) + 4 * i)).toNat =
      bits (r.word (s.fld KPR_ERR_SEQ_SEQ) s.opmin) (32 * i) 32) ∧
    (s.recordPut r).fld KPR_ERR_ALERT_MASK_MASK = s.fld KPR_ERR_ALERT_MASK_MASK := by
  obtain ⟨hwords, htail, -, -, honly⟩ := s.ringPut_effect (r.word (s.fld KPR_ERR_SEQ_SEQ) s.opmin)
  have hreg (a : Nat) : (s.recordPut r).reg a = (s.recordSeq r).reg a := State.reg_irqPend ..
  have hfld (f : Fld) : (s.recordPut r).fld f = (s.recordSeq r).fld f := State.fld_of_reg (hreg _)
  have hmask : ¬ RecordReg (s.fld KPR_ERR_TAIL_TAIL) KPR_ERR_ALERT_MASK := by
    rintro (h | h | h | h)
    · exact absurd h (by decide)
    · exact absurd h (by decide)
    · exact absurd h (by decide)
    · exact not_ringReg (by decide) h
  refine ⟨?_, ?_, storeGet_set_self false (s.recordSeq r).irqPend 2 true, fun i hi => ?_, ?_⟩
  · rw [hfld, State.recordSeq, State.fld_setFld_self _ _ _ (by decide)]
    rfl
  · rw [hfld, State.recordSeq, State.fld_setFld_apart _ _ _ _ (.inl (by decide)) (by decide), htail]
  · have hseq : KPR_ERR_RING (s.fld KPR_ERR_TAIL_TAIL) + 4 * i ≠ KPR_ERR_SEQ_SEQ.addr := by
      simp only [KPR_ERR_RING, KPR_ERR_SEQ_SEQ, KPR_ERR_SEQ]
      omega
    rw [hreg, State.recordSeq, State.reg_setFld_ne _ _ _ hseq, hwords i hi]
  · rw [hfld, State.recordSeq, State.fld_setFld_apart _ _ _ _ (.inl (by decide)) (by decide), honly.2.fld hmask (by decide)]

/-- Registers that what follows a record in the ring may write. -/
def AfterReg (a : Nat) : Prop := AlertReg a ∨ TraceRegs a

/-- Every register of the Keeper but those of the sideband is none of these. -/
theorem not_afterReg {a : Nat} (h : a < 0x2000000) : ¬ AfterReg a := by
  simp only [AfterReg, AlertReg, TraceRegs, TraceReg, partBase, KPR_SB_LAST_ERR, KPR_SB_LAST_SEQ, KPR_SB_ALERT]
  rintro (h | ⟨p, -, h⟩) <;> omega

theorem State.keepsRecord_recorded : (s.recordPut r).KeepsRecord AfterReg (s.recorded r) :=
  ((((s.recordPut r).keepsRecord_recordAlert r _).mono fun _ => .inl).trans
    ((State.keepsRecord_recordTrigger _ r).mono fun _ => .inr)).trans ((State.keepsRecord_recordStaged _ r _).mono fun _ => .inr)

theorem not_traceRegs_alert : ¬ TraceRegs KPR_SB_ALERT := by
  simp only [TraceRegs, TraceReg, partBase, KPR_SB_ALERT]
  omega

theorem State.recorded_raises (h : (s.recordPut r).alerts r = true) : (s.recorded r).fld ⟨KPR_SB_ALERT, alError, 1⟩ = 1 := by
  have hafter (u : State) : u.KeepsRecord TraceRegs ((u.recordTrigger r).recordStaged r (s.fld KPR_ERR_SEQ_SEQ)) :=
    (u.keepsRecord_recordTrigger r).trans (State.keepsRecord_recordStaged _ r _)
  rw [State.recorded, (hafter _).regs.fld (f := ⟨KPR_SB_ALERT, alError, 1⟩) not_traceRegs_alert (by decide)]
  exact State.recordAlert_raises _ r _ h

/-- A detection that writes a record: the record in the ring, its alert, and then what it counts against units. -/
theorem State.writeRecord_effect :
    ∃ u : State, s.writeRecord r = u.countRec r ∧ u.fld KPR_ERR_SEQ_SEQ = (s.fld KPR_ERR_SEQ_SEQ + 1) % 2 ^ 32 ∧
      u.fld KPR_ERR_TAIL_TAIL = (s.fld KPR_ERR_TAIL_TAIL + 1) % 1024 ∧ storeGet false u.irqPend 2 = true ∧
      (∀ i, i < 16 → (u.reg (KPR_ERR_RING (s.fld KPR_ERR_TAIL_TAIL) + 4 * i)).toNat =
        bits (r.word (s.fld KPR_ERR_SEQ_SEQ) s.opmin) (32 * i) 32) ∧
      (bitAt r.flags 0 = true ∨ bitAt (s.fld KPR_ERR_ALERT_MASK_MASK) r.cls = true → u.fld ⟨KPR_SB_ALERT, alError, 1⟩ = 1) := by
  obtain ⟨hseq, htail, hirq, hwords, hmask⟩ := s.recordPut_effect r
  have hkept := s.keepsRecord_recorded r
  have hslot : s.fld KPR_ERR_TAIL_TAIL < 1024 := s.fld_lt KPR_ERR_TAIL_TAIL
  refine ⟨s.recorded r, s.writeRecord_eq r, ?_, ?_, ?_, fun i hi => ?_, fun h => s.recorded_raises r ?_⟩
  · rw [hkept.regs.fld (not_afterReg (by decide)) (by decide), hseq]
  · rw [hkept.regs.fld (not_afterReg (by decide)) (by decide), htail]
  · rw [hkept.irqPend, hirq]
  · have hin : RingReg (s.fld KPR_ERR_TAIL_TAIL) (KPR_ERR_RING (s.fld KPR_ERR_TAIL_TAIL) + 4 * i) := ⟨by omega, by omega⟩
    have hlow : KPR_ERR_RING (s.fld KPR_ERR_TAIL_TAIL) + 4 * i < 0x2000000 := by simp only [KPR_ERR_RING]; omega
    rw [hkept.regs _ (not_afterReg hlow) (reportReg_ring hslot hin), hwords i hi]
  · rw [State.alerts, hmask]
    exact Bool.or_eq_true_iff.mpr h.symm

end

end Sys2Proof.Machine

/-! SUPPORT. Scrubs, migrations and exposure samples, and the statement on detections (R205, R207, R380, R405). -/
namespace Sys2Proof.Machine

/-! ## Reads through the error-correcting code (R205) -/

theorem State.detections_count (s : State) (p n k : Nat) : (s.count p n k).detections = s.detections := by
  unfold State.count
  simp only []
  split
  · rw [State.event, State.detections_stageRec, State.detections_setFld]
  · rfl

/-- `t` is `s` but for registers, counters and reports, and it has noted no detection. -/
def State.Undetected (s t : State) : Prop := t.bare = s.bare ∧ t.detections = s.detections

section
variable {s t : State}

theorem State.Undetected.setFld (h : s.Undetected t) (f : Fld) (v : Nat) : s.Undetected (t.setFld f v) :=
  ⟨(State.bare_setFld ..).trans h.1, (State.detections_setFld ..).trans h.2⟩

theorem State.Undetected.count (h : s.Undetected t) (p n k : Nat) : s.Undetected (t.count p n k) :=
  ⟨(State.bare_count ..).trans h.1, (State.detections_count ..).trans h.2⟩

theorem State.Undetected.memCap (h : s.Undetected t) (p a pc kind req ctx idx : Nat) :
    s.Undetected (t.memCap p a pc kind req ctx idx) := by
  unfold State.memCap
  split
  · exact h
  · exact ((((((h.setFld ..).setFld ..).setFld ..).setFld ..).setFld ..).setFld ..).setFld ..

end

section
variable (s : State) (d req ctx idx kind : Nat)

/-- The datum poisoned. -/
def State.poisoned : State := { s with poison := storeSet false s.poison d true }

/-- An uncorrectable read poisons its datum and is detected. -/
theorem State.eccRead_uncorrectable (hp : s.psn d = false) : ∃ u unit job syn, (s.poisoned d).Undetected u ∧
    s.eccRead d 4 req ctx idx kind = u.detect unit 2 flPoison idx ctx 0 0 job syn := by
  have hstart : (s.poisoned d).Undetected (s.poisoned d) := ⟨rfl, rfl⟩
  unfold State.eccRead
  simp only [hp, Bool.false_eq_true, if_false]
  split
  · exact ⟨_, _, _, _, ((hstart.setFld ..).count ..).memCap .., rfl⟩
  · refine ⟨_, _, _, _, ?_, rfl⟩
    split
    · exact (hstart.setFld ..).count ..
    · exact ((((hstart.setFld ..).count ..).setFld ..).setFld ..).setFld ..

/-- A read that finds nothing uncorrectable, or a datum already poisoned, changes registers, counters and reports alone. -/
theorem State.bare_eccRead_corrected {how : Nat} (h : how ≠ 4 ∨ s.psn d = true) : (s.eccRead d how req ctx idx kind).bare = s.bare := by
  unfold State.eccRead
  simp only []
  split
  · split
    · exact (State.bare_detectOnly ..).trans ((State.bare_count ..).trans (State.bare_setFld ..))
    · exact (State.bare_detectOnly ..).trans (State.bare_count ..)
    · rw [if_pos (h.resolve_left fun hn => hn rfl)]
    · rfl
  · split
    · exact (State.bare_detectOnly ..).trans ((State.bare_count ..).trans (State.bare_setFld ..))
    · exact State.bare_detectOnly ..
    · rw [if_pos (h.resolve_left fun hn => hn rfl)]
    · rfl

/-- A read changes no byte of memory, and no place of a scrub. -/
theorem State.eccRead_keeps (how : Nat) : (s.eccRead d how req ctx idx kind).mem = s.mem ∧
    (s.eccRead d how req ctx idx kind).scrubPos = s.scrubPos := by
  by_cases h : how ≠ 4 ∨ s.psn d = true
  · have hb := s.bare_eccRead_corrected d req ctx idx kind h
    exact ⟨State.mem_of_bare hb, State.scrubPos_of_bare hb⟩
  · simp only [not_or, not_not, Bool.not_eq_true] at h
    obtain ⟨u, unit, job, syn, hu, heq⟩ := s.eccRead_uncorrectable d req ctx idx kind h.2
    have hb : (s.eccRead d how req ctx idx kind).bare = (s.poisoned d).bare := by rw [h.1, heq, State.bare_detect, hu.1]
    exact ⟨(State.mem_of_bare hb :), (State.scrubPos_of_bare hb :)⟩

/-- A read that needs no correction changes nothing. -/
theorem State.eccRead_clean : s.eccRead d 1 req ctx idx kind = s := by
  unfold State.eccRead
  simp only []
  split <;> rfl

end

/-! ## Scrubs (R205) -/

section
variable {s : State} {p : Nat} {hbm : Bool}

/-- Place of a scrub among the stacks and tile stores. -/
def scrubKey (p : Nat) (hbm : Bool) : Nat := 2 * p + (if hbm then 0 else 1)

/-- Datums that a scrub passes over. -/
def scrubLen (hbm : Bool) : Nat := if hbm then 0x30000000 else 0xC0000

/-- The datum that a scrub reads next. -/
def State.scrubDatum (s : State) (p : Nat) (hbm : Bool) : Nat :=
  if hbm then hbmDatum p (storeGet 0 s.scrubPos (scrubKey p hbm)) else tsDatum p (storeGet 0 s.scrubPos (scrubKey p hbm))

/-- A scrub that has read its datum stands at place `v`. -/
def State.scrubbed (s : State) (p : Nat) (hbm : Bool) (v : Nat) : State :=
  { s with scrubPos := storeSet 0 s.scrubPos (scrubKey p hbm) v }

/-- The read of a scrub. -/
def State.scrubEcc (s : State) (p : Nat) (hbm : Bool) (how : Nat) : State := s.eccRead (s.scrubDatum p hbm) how 0xF 0x3F 0xFFFFFF 3

/-- The state after a scrub's read, without the count of a whole pass. -/
def State.scrubOnce (s : State) (p : Nat) (hbm : Bool) (how : Nat) : State :=
  (s.scrubEcc p hbm how).scrubbed p hbm ((storeGet 0 s.scrubPos (scrubKey p hbm) + 1) % scrubLen hbm)

theorem scrubRead_idle (h : s.present p = false ∨ s.flag (MEM_CFG_SCRUB_EN p) = false ∨ 2 ≤ s.domState (4 * p + (if hbm then 3 else 2)))
    (how : Nat) : exec (.scrubRead p hbm how) s = .next s :=
  if_pos (by simpa [or_assoc] using h)

theorem scrubRead_runs (h1 : s.present p = true) (h2 : s.flag (MEM_CFG_SCRUB_EN p) = true)
    (h3 : s.domState (4 * p + (if hbm then 3 else 2)) < 2) (how : Nat) : exec (.scrubRead p hbm how) s =
      .next (if hbm && decide (storeGet 0 s.scrubPos (scrubKey p hbm) + 1 = scrubLen hbm) then (s.scrubOnce p hbm how).count p 0x222 1
        else s.scrubOnce p hbm how) :=
  if_neg (by simp [h1, h2]; omega)

/-- A scrub that runs has moved on; what else it changes is its read and the count of a whole pass. -/
theorem scrubRead_moves (h1 : s.present p = true) (h2 : s.flag (MEM_CFG_SCRUB_EN p) = true)
    (h3 : s.domState (4 * p + (if hbm then 3 else 2)) < 2) (how : Nat) : ∃ t, exec (.scrubRead p hbm how) s = .next t ∧
      t.bare = (s.scrubOnce p hbm how).bare ∧ t.detections = (s.scrubOnce p hbm how).detections ∧
      (storeGet 0 s.scrubPos (scrubKey p hbm) + 1 ≠ scrubLen hbm → t = s.scrubOnce p hbm how) := by
  refine ⟨_, scrubRead_runs h1 h2 h3 how, ?_, ?_, fun h => if_neg (by simp [h])⟩
  · split
    · exact State.bare_count ..
    · rfl
  · split
    · exact State.detections_count ..
    · rfl

/-- Where a scrub stands after its read; memory is as it was. -/
theorem State.scrubOnce_keeps (s : State) (p : Nat) (hbm : Bool) (how : Nat) :
    storeGet 0 (s.scrubOnce p hbm how).scrubPos (scrubKey p hbm) = (storeGet 0 s.scrubPos (scrubKey p hbm) + 1) % scrubLen hbm ∧
    (s.scrubOnce p hbm how).mem = s.mem :=
  ⟨storeGet_set_self 0 (s.scrubEcc p hbm how).scrubPos _ _, (s.eccRead_keeps (s.scrubDatum p hbm) 0xF 0x3F 0xFFFFFF 3 how).1⟩

/-- A scrub that meets an uncorrectable datum poisons it, no other, and it is detected. -/
theorem State.scrubOnce_uncorrectable (hp : s.psn (s.scrubDatum p hbm) = false) :
    (s.scrubOnce p hbm 4).poison = storeSet false s.poison (s.scrubDatum p hbm) true ∧
    (s.boot = .running → (s.scrubOnce p hbm 4).detections.length = s.detections.length + 1) := by
  obtain ⟨u, unit, job, syn, ⟨hbare, hdet⟩, heq⟩ := s.eccRead_uncorrectable (s.scrubDatum p hbm) 0xF 0x3F 0xFFFFFF 3 hp
  have hread : s.scrubEcc p hbm 4 = u.detect unit 2 flPoison 0xFFFFFF 0x3F 0 0 job syn := heq
  have hpoison : (s.scrubEcc p hbm 4).poison = (s.poisoned (s.scrubDatum p hbm)).poison := by
    rw [hread]
    exact State.poison_of_bare ((State.bare_detect ..).trans hbare)
  refine ⟨hpoison, fun hrun => ?_⟩
  have hboot : u.boot = .running := (State.boot_of_bare hbare).trans hrun
  have hdets : (s.scrubEcc p hbm 4).detections.length = u.detections.length + 1 := by rw [hread, u.detections_detect hboot]
  exact hdets.trans (by rw [hdet]; rfl)

theorem State.scrubOnce_clean (s : State) (p : Nat) (hbm : Bool) : s.scrubOnce p hbm 1 =
    s.scrubbed p hbm ((storeGet 0 s.scrubPos (scrubKey p hbm) + 1) % scrubLen hbm) := by
  rw [State.scrubOnce, State.scrubEcc, State.eccRead_clean]

/-- What a scrub that runs does to its place, to memory and to the poison of its datum. -/
theorem scrubRead_effect (h1 : s.present p = true) (h2 : s.flag (MEM_CFG_SCRUB_EN p) = true)
    (h3 : s.domState (4 * p + (if hbm then 3 else 2)) < 2) (how : Nat) :
    (Answers (exec (.scrubRead p hbm how) s) fun t =>
      storeGet 0 t.scrubPos (scrubKey p hbm) = (storeGet 0 s.scrubPos (scrubKey p hbm) + 1) % scrubLen hbm ∧ t.mem = s.mem) ∧
    (how = 1 → storeGet 0 s.scrubPos (scrubKey p hbm) + 1 ≠ scrubLen hbm →
      Answers (exec (.scrubRead p hbm how) s) fun t => t = { s with scrubPos := t.scrubPos }) ∧
    (how = 4 → s.psn (s.scrubDatum p hbm) = false → p < 8 → Answers (exec (.scrubRead p hbm how) s) fun t =>
      storeGet false t.poison (s.scrubDatum p hbm) = true ∧
      (∀ x, x ≠ s.scrubDatum p hbm → storeGet false t.poison x = storeGet false s.poison x) ∧
      (s.boot = .running → t.detections.length = s.detections.length + 1)) := by
  obtain ⟨t, hexec, hbare, hdets, hone⟩ := scrubRead_moves h1 h2 h3 how
  obtain ⟨hplace, hmem⟩ := s.scrubOnce_keeps p hbm how
  refine ⟨⟨t, hexec, ?_, (State.mem_of_bare hbare).trans hmem⟩, ?_, ?_⟩
  · rw [State.scrubPos_of_bare hbare, hplace]
  · rintro rfl hne
    refine ⟨t, hexec, ?_⟩
    rw [hone hne, State.scrubOnce_clean]
    rfl
  · rintro rfl hp _
    obtain ⟨hpoison, hdetected⟩ := State.scrubOnce_uncorrectable (p := p) (hbm := hbm) hp
    have hpoison := (State.poison_of_bare hbare).trans hpoison
    exact ⟨t, hexec, by rw [hpoison, storeGet_set_self], fun x hx => by rw [hpoison, storeGet_set_ne _ _ _ _ hx], by rwa [hdets]⟩

end

/-! ## Migrations (R207, R210) -/

section
variable {s : State} {p k : Nat} {hbm : Bool}

/-- The channel or bank marked retired in the register of its partition. -/
def retiredFld (p x : Nat) (hbm : Bool) : Fld := ⟨(if hbm then MEM_PC_RETIRED_LO p else TSR_BANK_RETIRED_LO p) + 4 * (x / 32), x % 32, 1⟩

/-- Whether a migration runs, as the status of the stack or the tile store shows. -/
def migratingFld (p : Nat) (hbm : Bool) : Fld := if hbm then MEM_STATUS_MIGRATING p else TSR_STATUS_MIGRATING p

/-- The unit of a channel or a bank. -/
def channelUnit (p x : Nat) (hbm : Bool) : Nat := if hbm then stackUnit p x else unitId p (0x20 + x)

/-- Whether a migration waits that is one of a stack, or a tile store, of a partition. -/
def migratesAt (p : Nat) (hbm : Bool) (l : List Nat) : Bool := l.any (fun m => decide (m / 64 = chanKey p 0 hbm / 64))

/-- The migrations that still run. -/
def migrLeft (l : List Nat) (k : Nat) : List Nat := l.filter (fun m => m != k)

/-- The registers of a migration that ends. -/
def State.migrShown (s : State) (p k : Nat) (hbm : Bool) : State :=
  ((({ s with migr := migrLeft s.migr k } : State).setFld (retiredFld p (k % 64) hbm) 1).setFld (migratingFld p hbm)
    (if migratesAt p hbm (migrLeft s.migr k) then 1 else 0)).event (migratingFld p hbm) (channelUnit p (k % 64) hbm) 8

/-- The unit of a migration that ends is retired in its history. -/
def State.migrated (s : State) (p k : Nat) (hbm : Bool) : State :=
  (s.migrShown p k hbm).setHist (channelUnit p (k % 64) hbm)
    { (s.migrShown p k hbm).hist (channelUnit p (k % 64) hbm) with state := 1 }

theorem migrationComplete_idle (h : (∀ k ∈ s.migr, k / 64 ≠ chanKey p 0 hbm / 64) ∨ 2 ≤ s.domState (4 * p + (if hbm then 3 else 2))) :
    exec (.migrationComplete p hbm []) s = .next s := by
  change execMigrationComplete p hbm [] s = .next s
  unfold execMigrationComplete
  simp only []
  split
  · rfl
  · next k hk =>
    have hin : k ∈ s.migr ∧ k / 64 = chanKey p 0 hbm / 64 := ⟨List.mem_of_find?_eq_some hk, by simpa using List.find?_some hk⟩
    exact if_pos (h.resolve_left fun hn => hn k hin.1 hin.2)

theorem migrationComplete_runs (hk : s.migr.find? (fun k => decide (k / 64 = chanKey p 0 hbm / 64)) = some k)
    (hd : s.domState (4 * p + (if hbm then 3 else 2)) < 2) : exec (.migrationComplete p hbm []) s = .next (s.migrated p k hbm) := by
  change execMigrationComplete p hbm [] s = .next (s.migrated p k hbm)
  unfold execMigrationComplete
  simp only [hk, if_neg (Nat.not_le.mpr hd)]
  rfl

/-- A unit's history changed: the register that counts the units listed changes with it. -/
theorem State.setHist_effect (s : State) (u : Nat) (h : UnitHist) :
    (s.setHist u h).hist u = { h with opmin := s.opmin } ∧ (s.setHist u h).migr = s.migr ∧ s.MemKept (s.setHist u h) ∧
    s.RegsKept (s.setHist u h) (fun a => a = UHS_ENTRIES) := by
  refine ⟨?_, rfl, ⟨fun _ => rfl, fun _ => rfl⟩, ?_⟩
  · simp only [State.hist, State.setHist, State.uhs_setFld, storeGet_set_self]
    rfl
  · exact ((State.RegsKept.refl s (fun a => a = UHS_ENTRIES)).of_regs rfl).setFld (f := UHS_ENTRIES_ENTRIES) _ rfl

theorem retiredFld_high (p : Nat) {x : Nat} (hx : x < 64) (hbm : Bool) :
    partBase p + 0x140400 ≤ (retiredFld p x hbm).addr ∧ (retiredFld p x hbm).addr < partBase p + 0x180020 := by
  cases hbm <;> simp only [retiredFld, MEM_PC_RETIRED_LO, TSR_BANK_RETIRED_LO, if_true, Bool.false_eq_true, if_false] <;> omega

theorem migratingFld_addr_ne (p x : Nat) (hbm : Bool) : (migratingFld p hbm).addr ≠ (retiredFld p x hbm).addr := by
  cases hbm
  · simp only [migratingFld, retiredFld, TSR_STATUS_MIGRATING, TSR_STATUS, TSR_BANK_RETIRED_LO, Bool.false_eq_true, if_false]
    omega
  · simp only [migratingFld, retiredFld, MEM_STATUS_MIGRATING, MEM_STATUS, MEM_PC_RETIRED_LO, if_true]
    omega

/-- Registers of a partition between its units' statuses and its trace unit are none of those that reports, or unit histories, write. -/
theorem partition_reg_kept {p a : Nat} (h1 : partBase p + 0x140000 ≤ a) (h2 : a < partBase p + 0x1C0000) :
    reportReg a = false ∧ a ≠ UHS_ENTRIES := by
  simp only [partBase] at h1 h2
  simp [reportReg, EVR_RSEQ, EVR_STATUS, DBG_GSTATUS, UHS_ENTRIES]
  omega

theorem migratingFld_kept (p : Nat) (hbm : Bool) :
    reportReg (migratingFld p hbm).addr = false ∧ (migratingFld p hbm).addr ≠ UHS_ENTRIES := by
  cases hbm <;> apply partition_reg_kept (p := p) <;>
    simp only [migratingFld, TSR_STATUS_MIGRATING, TSR_STATUS, MEM_STATUS_MIGRATING, MEM_STATUS, if_true, Bool.false_eq_true, if_false] <;>
    omega

theorem retiredFld_kept (p : Nat) {x : Nat} (hx : x < 64) (hbm : Bool) :
    reportReg (retiredFld p x hbm).addr = false ∧ (retiredFld p x hbm).addr ≠ UHS_ENTRIES := by
  obtain ⟨h1, h2⟩ := retiredFld_high p hx hbm
  exact partition_reg_kept (p := p) (by omega) (by omega)

/-- The registers of a migration that ends: the channel is retired, and the status tells of those that still run. -/
theorem State.migrShown_effect (s : State) (p k : Nat) (hbm : Bool) :
    (s.migrShown p k hbm).fld (retiredFld p (k % 64) hbm) = 1 ∧
    (s.migrShown p k hbm).fld (migratingFld p hbm) = (if migratesAt p hbm (migrLeft s.migr k) then 1 else 0) ∧
    (s.migrShown p k hbm).bare = { s.bare with migr := migrLeft s.migr k } := by
  have hx : k % 64 < 64 := Nat.mod_lt _ (by decide)
  have hone : ∀ u : State, ∀ v, v < 2 → (u.setFld (migratingFld p hbm) v).fld (migratingFld p hbm) = v := fun u v hv => by
    cases hbm <;> exact (State.fld_setFld_self _ _ _ (Nat.le_of_ble_eq_true rfl)).trans (Nat.mod_eq_of_lt hv)
  refine ⟨?_, ?_, ?_⟩
  · rw [State.migrShown, State.fld_event _ _ _ _ _ (retiredFld_kept p hx hbm).1,
      State.fld_of_reg (State.reg_setFld_ne _ _ _ (migratingFld_addr_ne p (k % 64) hbm).symm),
      State.fld_setFld_one _ rfl (Nat.mod_lt _ (by decide) : k % 64 % 32 < 32)]
  · rw [State.migrShown, State.fld_event _ _ _ _ _ (migratingFld_kept p hbm).1, hone _ _ (by split <;> decide)]
  · rw [State.migrShown, State.bare_event, State.bare_setFld, State.bare_setFld]
    rfl

/-- A migration that ends: it is off the list, its channel is retired in the register and in the history, and memory is as it was. -/
theorem State.migrated_effect (s : State) (p k : Nat) (hbm : Bool) :
    (s.migrated p k hbm).migr = migrLeft s.migr k ∧ (s.migrated p k hbm).fld (retiredFld p (k % 64) hbm) = 1 ∧
    ((s.migrated p k hbm).hist (channelUnit p (k % 64) hbm)).state = 1 ∧ s.MemKept (s.migrated p k hbm) ∧
    (s.migrated p k hbm).fld (migratingFld p hbm) = (if migratesAt p hbm (migrLeft s.migr k) then 1 else 0) := by
  have hx : k % 64 < 64 := Nat.mod_lt _ (by decide)
  obtain ⟨hretired, hmigrating, hbare⟩ := s.migrShown_effect p k hbm
  have hmem : s.MemKept (s.migrShown p k hbm) := .of_eq (congrArg State.mem hbare :) (congrArg State.poison hbare :)
  obtain ⟨hhist, hmigr, hkept, hregs⟩ := (s.migrShown p k hbm).setHist_effect (channelUnit p (k % 64) hbm)
    { (s.migrShown p k hbm).hist (channelUnit p (k % 64) hbm) with state := 1 }
  refine ⟨hmigr.trans (congrArg State.migr hbare), ?_, congrArg UnitHist.state hhist, hmem.trans hkept, ?_⟩
  · rw [State.migrated, hregs.fld (retiredFld_kept p hx hbm).2 (retiredFld_kept p hx hbm).1, hretired]
  · rw [State.migrated, hregs.fld (migratingFld_kept p hbm).2 (migratingFld_kept p hbm).1, hmigrating]

theorem mem_migrLeft {l : List Nat} {m : Nat} : m ∈ migrLeft l k ↔ m ∈ l ∧ m ≠ k := by simp [migrLeft]

theorem migratesAt_left {l : List Nat} : migratesAt p hbm (migrLeft l k) = true ↔ ∃ m ∈ l, m ≠ k ∧ m / 64 = chanKey p 0 hbm / 64 := by
  simp only [migratesAt, List.any_eq_true, mem_migrLeft, decide_eq_true_eq, and_assoc]

end

/-! ## Exposure (R405, Table 13.9) -/

section
variable (s : State) (sc hour : Nat)

/-- One second more of a scope in a slot. -/
def State.exposed (slot : Nat) : State :=
  { s with
    expo := storeSet 0 s.expo (expoKey sc slot hour) (storeGet 0 s.expo (expoKey sc slot hour) + 1),
    expoDay := storeSet 0 s.expoDay (sc * 16 + slot) (storeGet 0 s.expoDay (sc * 16 + slot) + 1) }

theorem State.expo_exposed (slot k : Nat) : storeGet 0 (s.exposed sc hour slot).expo (expoKey sc k hour) =
    storeGet 0 s.expo (expoKey sc k hour) + (if k = slot then 1 else 0) := by
  by_cases h : k = slot
  · rw [h, if_pos rfl]
    exact storeGet_set_self 0 s.expo (expoKey sc slot hour) (storeGet 0 s.expo (expoKey sc slot hour) + 1)
  · rw [if_neg h]
    have hkey : expoKey sc k hour ≠ expoKey sc slot hour := fun e => h (Nat.add_left_cancel e)
    exact storeGet_set_ne 0 0 s.expo (storeGet 0 s.expo (expoKey sc slot hour) + 1) hkey

theorem State.exposeScope_off {d : Nat} (hd : scopeDomain sc = d) (h : d < 40 ∧ s.domState d = 3) : s.exposeScope sc = s := by
  subst hd
  exact if_pos (by simpa using h)

/-- A scope whose domain is on gets its second in one band of each axis. -/
theorem State.exposeScope_on {d : Nat} (hd : scopeDomain sc = d) (h : ¬(d < 40 ∧ s.domState d = 3)) : s.exposeScope sc =
    ((s.exposed sc (s.opmin / 60) (expoSlot 0 (tempBand (s.fld (PWR_TEMP_TEMP (domainSensor d)))))).exposed sc (s.opmin / 60)
      (expoSlot 1 (voltBand (s.fld (PWR_RAIL_MEAS_MV (domainRail d))) (s.railSet (domainRail d))))).exposed sc (s.opmin / 60)
      (expoSlot 2 (min 3 (storeGet 0 s.activity d / 25))) := by
  subst hd
  exact if_neg (by simpa using h)

theorem tempBand_lt (t : Nat) : tempBand t < 8 := by
  unfold tempBand
  simp only []
  split
  · decide
  · split
    · decide
    · omega

theorem voltBand_lt (mv set : Nat) : voltBand mv set < 4 := by
  unfold voltBand
  repeat' split
  all_goals decide

/-- Bands of different axes have different slots, so a scope in one band of each counts one second in each of the three. -/
theorem expo_three {temp volt : Nat} (ht : temp < 8) (hv : volt < 4) (act k : Nat) :
    (if k = expoSlot 0 temp then 1 else 0) + (if k = expoSlot 1 volt then 1 else 0) + (if k = expoSlot 2 act then 1 else 0) =
      if k = expoSlot 0 temp ∨ k = expoSlot 1 volt ∨ k = expoSlot 2 act then 1 else 0 := by
  simp only [expoSlot, if_true, OfNat.ofNat_ne_zero, OfNat.ofNat_ne_one, one_ne_zero, if_false]
  split_ifs <;> omega

/-- What a second of exposure leaves in the slots of the hour. -/
theorem State.expo_exposeScope {d : Nat} (hd : scopeDomain sc = d) (h : ¬(d < 40 ∧ s.domState d = 3)) (k : Nat) :
    storeGet 0 (s.exposeScope sc).expo (expoKey sc k (s.opmin / 60)) = storeGet 0 s.expo (expoKey sc k (s.opmin / 60)) +
      (if k = expoSlot 0 (tempBand (s.fld (PWR_TEMP_TEMP (domainSensor d)))) ∨
        k = expoSlot 1 (voltBand (s.fld (PWR_RAIL_MEAS_MV (domainRail d))) (s.railSet (domainRail d))) ∨
        k = expoSlot 2 (min 3 (storeGet 0 s.activity d / 25)) then 1 else 0) := by
  rw [s.exposeScope_on sc hd h, State.expo_exposed, State.expo_exposed, State.expo_exposed,
    ← expo_three (tempBand_lt _) (voltBand_lt _ _) (min 3 (storeGet 0 s.activity d / 25)) k, Nat.add_assoc, Nat.add_assoc, Nat.add_assoc]

theorem State.exposeScope_frame :
    s.exposeScope sc = { s with expo := (s.exposeScope sc).expo, expoDay := (s.exposeScope sc).expoDay } := by
  by_cases h : scopeDomain sc < 40 ∧ s.domState (scopeDomain sc) = 3
  · rw [s.exposeScope_off sc rfl h]
  · rw [s.exposeScope_on sc rfl h]
    rfl

end

/-! ## The statement -/

theorem errorRecordWrite_takes {s : State} {r : ErrRec} {rest : List ErrRec} (hrun : s.boot = .running) (hd : s.detections = r :: rest)
    (hr : r.cls ≠ 0) : exec .errorRecordWrite s = .next (({ s with detections := rest }.writeRecord r).dropRetired) := by
  change execErrorRecordWrite s = _
  rw [execErrorRecordWrite, if_pos hrun, hd, State.takeDetections]
  simp only [if_neg hr, hd, List.drop_one, List.tail_cons]

/-- On a module that runs, a detection of no job only joins those before it. -/
theorem State.detect_noted {s : State} (hrun : s.boot = .running) (unit cls flags desc ctx layer operator syn : Nat) :
    ∃ r : ErrRec, s.detect unit cls flags desc ctx layer operator 8 syn = { s with detections := s.detections ++ [r] } ∧ r.unit = unit ∧
      r.cls = cls ∧ r.flags = flags ∧ r.ftime = s.ftime ∧ r.syndrome = syn := by
  have hstored : ¬((decide (s.boot ≠ .running) && decide (64 ≤ s.detections.length)) = true) := by simp [hrun]
  have hrange : ¬((decide (cls = 5) && decide (8 < 8)) = true) := by simp
  unfold State.detect
  simp only [if_neg hrange, if_neg hstored]
  exact ⟨_, rfl, rfl, rfl, rfl, rfl, rfl⟩
/-- Settles O53: the ring and the record's fields by their words, the record's own steps kept apart from what follows them, and each of
retries, scrubs, migrations and exposure samples by what its row does. -/
theorem detectionsBecomeRecords : Obligations.DetectionsBecomeRecords := by
  unfold Obligations.DetectionsBecomeRecords
  refine ⟨fun s => ⟨fun h => if_neg h, fun r rest hrun hd hr => errorRecordWrite_takes hrun hd hr⟩, State.ringPut_effect,
    fun s r _ => s.writeRecord_effect r, ErrRec.bits_word, fun s unit addr mask prod hrun => ⟨_, rfl, State.detect_noted hrun ..⟩,
    fun s p how hbm => ⟨fun h => scrubRead_idle h how, fun h1 h2 h3 _ => scrubRead_effect h1 h2 h3 how⟩,
    fun s p hbm h => migrationComplete_idle h, fun s p k hbm _ hk hd => ⟨_, migrationComplete_runs hk hd, ?_⟩, fun _ _ => rfl,
    fun s sc _ => ⟨fun hd hoff => s.exposeScope_off sc rfl ⟨hd, hoff⟩, fun hon => s.expo_exposeScope sc rfl hon, s.exposeScope_frame sc⟩⟩
  obtain ⟨hmigr, hretired, hhist, hmem, hmigrating⟩ := s.migrated_effect p k hbm
  exact ⟨fun m => by rw [hmigr, mem_migrLeft], hretired, hhist, hmem, hmigrating.trans (if_congr migratesAt_left rfl rfl)⟩

end Sys2Proof.Machine

/-! SUPPORT. A reset that is taken (R412, R425, R429): the resets that run, the log of the ladder, the registers that show it, and what it
leaves alone. -/
namespace Sys2Proof.Machine

/-! ## Records of resets that are merged -/

section
variable (s : State)

theorem State.bare_rstRecord (r : RstRun) (result : Nat) : (s.rstRecord r result).bare = s.bare := State.bare_keeperRec ..

theorem State.reg_rstRecord (r : RstRun) (result a : Nat) : (s.rstRecord r result).reg a = s.reg a := State.reg_keeperRec ..

/-- The records of resets that are merged write no register, and change reports alone. -/
theorem State.mergedRecords_effect (gone : List RstRun) : (gone.foldl (fun t r => t.rstRecord r 2) s).bare = s.bare ∧
    ∀ a, (gone.foldl (fun t r => t.rstRecord r 2) s).reg a = s.reg a :=
  List.foldlRecOn (motive := fun t : State => t.bare = s.bare ∧ ∀ a, t.reg a = s.reg a) gone _ ⟨rfl, fun _ => rfl⟩
    fun t ⟨hbare, hreg⟩ r _ => ⟨(t.bare_rstRecord r 2).trans hbare, fun a => (t.reg_rstRecord r 2 a).trans (hreg a)⟩

end

/-! ## The steps of `rstStart` -/

section
variable (s : State) (new : RstRun)

/-- The shallower running resets that a new one covers (R429). -/
def State.rstMerged : List RstRun :=
  s.rstRun.filter (fun r => decide (r.kind < new.kind) && s.rstCovers new r.kind r.unit r.ctx)

/-- The running resets once a new one has been taken. -/
def State.rstRunWith : List RstRun := s.rstRun.filter (fun r => !(s.rstMerged new).contains r) ++ [new]

/-- The new reset joins those that run, and the records of the merged ones are formed. -/
def State.rstJoined : State := (s.rstMerged new).foldl (fun t r => t.rstRecord r 2) { s with rstRun := s.rstRunWith new }

/-- The log of the ladder with the new reset; a power cycle is counted once it is requested. -/
def State.rstLogWith : List RstDone :=
  if new.kind = 4 then s.rstLog else s.rstLog ++ [⟨new.kind, rstTarget new.kind new.unit new.ctx, s.opmin⟩]

/-- What stands before a new reset is shown. -/
def State.rstCounted : State :=
  if new.kind = 4 then s.rstJoined new else
    { s.rstJoined new with
      rstLog := (s.rstJoined new).rstLog ++ [⟨new.kind, rstTarget new.kind new.unit new.ctx, (s.rstJoined new).opmin⟩] }

theorem State.rstStart_eq (kind unit ctx trig : Nat) : s.rstStart kind unit ctx trig =
    let u := s.rstCounted ⟨kind, unit, ctx, trig, s.ftime⟩
    ((u.rstLast kind trig (u.rstRetain kind unit) unit ctx).gcount (0x240 + kind) 1).rstShow := rfl

theorem State.bare_rstJoined : (s.rstJoined new).bare = { s.bare with rstRun := s.rstRunWith new } :=
  (State.mergedRecords_effect _ _).1

theorem State.reg_rstCounted (a : Nat) : (s.rstCounted new).reg a = s.reg a := by
  have h : (s.rstJoined new).reg a = s.reg a := (State.mergedRecords_effect _ _).2 a
  unfold State.rstCounted
  split <;> exact h

theorem State.bare_rstCounted :
    (s.rstCounted new).bare = { s.bare with rstRun := s.rstRunWith new, rstLog := s.rstLogWith new } := by
  have hbare := s.bare_rstJoined new
  have hlog : (s.rstJoined new).rstLog = s.rstLog := (congrArg State.rstLog hbare :)
  have hmin : (s.rstJoined new).opmin = s.opmin := State.fld_of_reg ((State.mergedRecords_effect _ _).2 _)
  unfold State.rstCounted State.rstLogWith
  split
  · exact hbare
  · rw [hlog, hmin]
    generalize s.rstLog ++ [(⟨new.kind, rstTarget new.kind new.unit new.ctx, s.opmin⟩ : RstDone)] = l
    exact (congrArg (fun t : State => { t with rstLog := l }) hbare :)

theorem State.rstRetain_lt (kind unit : Nat) : s.rstRetain kind unit < 2 := by
  unfold State.rstRetain
  split
  · exact s.fld_lt (MEM_CFG_RETAIN (unitPart unit))
  · split
    · split <;> decide
    · decide

/-- The registers of a reset: its request, the last reset taken, and the resets that run (Table 14.7). -/
def RstReg (a : Nat) : Prop :=
  a ∈ [KPR_RST_REQ, KPR_RST_LAST0, KPR_RST_LAST1, KPR_RST_LAST2, KPR_RST_LAST3, KPR_RST_STATUS]

theorem State.bare_rstLast (scope trig retain unit ctx : Nat) : (s.rstLast scope trig retain unit ctx).bare = s.bare := by
  simp only [State.rstLast, State.bare_setReg]

theorem State.regsKept_rstLast (scope trig retain unit ctx : Nat) : s.RegsKept (s.rstLast scope trig retain unit ctx) RstReg := by
  refine ((((State.RegsKept.refl s _).setReg _ ?_).setReg _ ?_).setReg _ ?_).setReg _ ?_
  all_goals simp [RstReg]

theorem State.last0_rstLast (scope trig retain unit ctx : Nat) : (s.rstLast scope trig retain unit ctx).reg KPR_RST_LAST0 =
    BitVec.ofNat 32 (scope + trig * 2 ^ 8 + retain * 2 ^ 24) := by
  rw [State.rstLast, State.reg_setReg_ne _ _ (by decide), State.reg_setReg_ne _ _ (by decide), State.reg_setReg_ne _ _ (by decide),
    State.reg_setReg_self]

theorem State.last1_rstLast (scope trig retain unit ctx : Nat) : (s.rstLast scope trig retain unit ctx).reg KPR_RST_LAST1 =
    BitVec.ofNat 32 (unit + ctx * 2 ^ 16) := by
  rw [State.rstLast, State.reg_setReg_ne _ _ (by decide), State.reg_setReg_ne _ _ (by decide), State.reg_setReg_self]

theorem State.only_rstShow : s.OnlyRegs s.rstShow (fun a => a = KPR_RST_STATUS) := by
  have hbusy := (State.OnlyRegs.refl s (fun a => a = KPR_RST_STATUS)).setFld (f := KPR_RST_STATUS_BUSY)
    (if s.rstRun.isEmpty then 0 else 1) rfl
  exact hbusy.setFld (f := KPR_RST_STATUS_ACTIVE_SCOPE) _ rfl

theorem State.busy_rstShow : s.rstShow.fld KPR_RST_STATUS_BUSY = if s.rstRun.isEmpty then 0 else 1 := by
  rw [State.rstShow, State.fld_setFld_above _ (f := KPR_RST_STATUS_ACTIVE_SCOPE) _ (by decide) (by decide),
    State.fld_setFld_self _ _ _ (by decide)]
  split <;> rfl

theorem State.active_rstShow : s.rstShow.fld KPR_RST_STATUS_ACTIVE_SCOPE = s.rstRun.foldl (fun m r => max m r.kind) 0 % 8 := by
  rw [State.rstShow, State.fld_setFld_self _ _ _ (by decide)]
  rfl

end

/-! ## A reset that is taken -/

/-- The reset `new` has been taken from `s`: it joins the resets that it does not cover, it stands in the log and in the registers of
resets, and beyond these, counters and reports nothing else changes. -/
structure State.ResetTaken (s : State) (new : RstRun) (t : State) : Prop where
  run : t.rstRun = s.rstRunWith new
  log : t.rstLog = s.rstLogWith new
  bare : t.bare = { s.bare with rstRun := t.rstRun, rstLog := t.rstLog }
  regs : s.RegsKept t RstReg
  busy : t.fld KPR_RST_STATUS_BUSY = 1
  active : t.fld KPR_RST_STATUS_ACTIVE_SCOPE = t.rstRun.foldl (fun m r => max m r.kind) 0 % 8
  last0 : ∃ retain, retain < 2 ∧ t.reg KPR_RST_LAST0 = BitVec.ofNat 32 (new.kind + new.trigger * 2 ^ 8 + retain * 2 ^ 24)
  last1 : t.reg KPR_RST_LAST1 = BitVec.ofNat 32 (new.unit + new.ctx * 2 ^ 16)

theorem State.resetTaken_rstStart (s : State) (kind unit ctx trig : Nat) :
    s.ResetTaken ⟨kind, unit, ctx, trig, s.ftime⟩ (s.rstStart kind unit ctx trig) := by
  rw [State.rstStart_eq]
  have hbare := s.bare_rstCounted ⟨kind, unit, ctx, trig, s.ftime⟩
  have hreg := s.reg_rstCounted ⟨kind, unit, ctx, trig, s.ftime⟩
  generalize s.rstCounted ⟨kind, unit, ctx, trig, s.ftime⟩ = u at hbare hreg
  simp only []
  have hlast := u.regsKept_rstLast kind trig (u.rstRetain kind unit) unit ctx
  have hlbare := u.bare_rstLast kind trig (u.rstRetain kind unit) unit ctx
  have hlast0 := u.last0_rstLast kind trig (u.rstRetain kind unit) unit ctx
  have hlast1 := u.last1_rstLast kind trig (u.rstRetain kind unit) unit ctx
  generalize u.rstLast kind trig (u.rstRetain kind unit) unit ctx = v at hlast hlbare hlast0 hlast1
  have hcount := (State.OnlyRegs.refl v (fun _ => False)).gcount (0x240 + kind) 1
  generalize v.gcount (0x240 + kind) 1 = w at hcount
  have hshow := w.only_rstShow
  have hall : w.rstShow.bare = { s.bare with rstRun := s.rstRunWith ⟨kind, unit, ctx, trig, s.ftime⟩,
                                             rstLog := s.rstLogWith ⟨kind, unit, ctx, trig, s.ftime⟩ } :=
    hshow.1.trans (hcount.1.trans (hlbare.trans hbare))
  have hrun : w.rstShow.rstRun = s.rstRunWith ⟨kind, unit, ctx, trig, s.ftime⟩ := congrArg State.rstRun hall
  have hlog : w.rstShow.rstLog = s.rstLogWith ⟨kind, unit, ctx, trig, s.ftime⟩ := congrArg State.rstLog hall
  have hwrun : w.rstRun = w.rstShow.rstRun := (State.rstRun_of_bare hshow.1).symm
  refine ⟨hrun, hlog, by rw [hrun, hlog, hall], fun a ha hr => ?_, ?_, ?_, ⟨u.rstRetain kind unit, u.rstRetain_lt _ _, ?_⟩, ?_⟩
  · rw [hshow.2 a (fun e => ha (by simp [e, RstReg])) hr, hcount.2 a not_false hr, hlast a ha hr, hreg]
  · rw [State.busy_rstShow, hwrun, hrun]
    simp [State.rstRunWith]
  · rw [State.active_rstShow, hwrun]
  · rw [hshow.2 _ (by decide) (by decide), hcount.2 _ not_false (by decide), hlast0]
  · rw [hshow.2 _ (by decide) (by decide), hcount.2 _ not_false (by decide), hlast1]

section
variable {s t : State} {new : RstRun}

theorem State.ResetTaken.member (h : s.ResetTaken new t) : new ∈ t.rstRun := by
  rw [h.run, State.rstRunWith]
  simp

/-- A context reset covers no other reset. -/
theorem State.ResetTaken.run_context (h : s.ResetTaken new t) (hk : new.kind = 0) : t.rstRun = s.rstRun ++ [new] := by
  rw [h.run, State.rstRunWith, State.rstMerged, hk]
  simp

/-- A module reset or a power cycle covers every shallower one, so where no other runs it stands alone. -/
theorem State.ResetTaken.run_alone (h : s.ResetTaken new t) (hk : 3 ≤ new.kind) (hs : ∀ r ∈ s.rstRun, r.kind < new.kind) :
    t.rstRun = [new] := by
  have hmerged : s.rstMerged new = s.rstRun := by
    rw [State.rstMerged, List.filter_eq_self]
    intro r hr
    simp [State.rstCovers, hk, hs r hr, (hs r hr).le]
  have hnone : s.rstRun.filter (fun r => !s.rstRun.contains r) = [] := by simp
  rw [h.run, State.rstRunWith, hmerged, hnone, List.nil_append]

theorem State.ResetTaken.memKept (h : s.ResetTaken new t) : s.MemKept t :=
  .of_eq (congrArg State.mem h.bare :) (congrArg State.poison h.bare :)

theorem State.ResetTaken.inflight (h : s.ResetTaken new t) : t.inflight = s.inflight := (congrArg State.inflight h.bare :)

theorem State.ResetTaken.pins (h : s.ResetTaken new t) : t.pins = s.pins := (congrArg State.pins h.bare :)

theorem State.ResetTaken.scope (h : s.ResetTaken new t) : t.fld KPR_RST_LAST0_SCOPE = new.kind % 8 := by
  obtain ⟨retain, hret, hlast⟩ := h.last0
  rw [State.fld_eq, show KPR_RST_LAST0_SCOPE.addr = KPR_RST_LAST0 from rfl, hlast, BitVec.toNat_ofNat]
  simp only [KPR_RST_LAST0_SCOPE]
  omega

theorem State.ResetTaken.trigger (h : s.ResetTaken new t) (hk : new.kind < 8) (ht : new.trigger < 256) :
    t.fld KPR_RST_LAST0_TRIGGER = new.trigger := by
  obtain ⟨retain, hret, hlast⟩ := h.last0
  rw [State.fld_eq, show KPR_RST_LAST0_TRIGGER.addr = KPR_RST_LAST0 from rfl, hlast, BitVec.toNat_ofNat]
  simp only [KPR_RST_LAST0_TRIGGER]
  omega

theorem State.ResetTaken.unit (h : s.ResetTaken new t) (hu : new.unit < 2 ^ 16) : t.fld KPR_RST_LAST1_UNIT = new.unit := by
  rw [State.fld_eq, show KPR_RST_LAST1_UNIT.addr = KPR_RST_LAST1 from rfl, h.last1, BitVec.toNat_ofNat]
  simp only [KPR_RST_LAST1_UNIT]
  omega

theorem State.ResetTaken.context (h : s.ResetTaken new t) (hu : new.unit < 2 ^ 16) (hc : new.ctx < 64) :
    t.fld KPR_RST_LAST1_CONTEXT = new.ctx := by
  rw [State.fld_eq, show KPR_RST_LAST1_CONTEXT.addr = KPR_RST_LAST1 from rfl, h.last1, BitVec.toNat_ofNat]
  simp only [KPR_RST_LAST1_CONTEXT]
  omega

end

end Sys2Proof.Machine

/-! SUPPORT. The first steps of the ladder (R412, R425): when a reset of each scope is taken, and what a request for one does. -/
namespace Sys2Proof.Machine

/-! ## Units of a partition (R40) -/

section
variable {p i : Nat} (hp : p < 8) (hi : i < 256)
include hp hi

theorem unitDie_unitId : unitDie (unitId p i) ≠ 0 := by
  unfold unitDie unitId
  split <;> omega

theorem unitPart_unitId : unitPart (unitId p i) = p := by
  unfold unitPart unitId
  split <;> omega

theorem unitId_lt : unitId p i < 2 ^ 16 := by
  unfold unitId
  split <;> omega

end

theorem unitIdx_unitId (p : Nat) {i : Nat} (hi : i < 256) : unitIdx (unitId p i) = i := by
  unfold unitIdx unitId
  split <;> omega

theorem engineIdx_lt {i : Nat} (h : engineIdx i = true) : i < 256 := by
  simp [engineIdx] at h
  omega

/-! ## The first step of the ladder for each scope -/

/-- A partition that takes resets: the module runs, the partition is there and is not UNAVAILABLE. -/
structure State.PartServes (s : State) (p : Nat) : Prop where
  runs : s.boot = .running
  there : s.present p = true
  serves : s.fld (RCV_HEALTH_PART p) ≠ 3

/-- No running reset covers a target. -/
def State.Uncovered (s : State) (kind unit ctx : Nat) : Prop := ∀ r ∈ s.rstRun, s.rstCovers r kind unit ctx = false

section
variable {s : State} {p ctx : Nat} (trig : Nat)

theorem State.PartServes.lt (h : s.PartServes p) : p < 8 := by
  have hthere := h.there
  simp only [State.present, Bool.and_eq_true, decide_eq_true_eq] at hthere
  exact hthere.1

theorem State.Uncovered.any {kind unit : Nat} (h : s.Uncovered kind unit ctx) :
    s.rstRun.any (fun r => s.rstCovers r kind unit ctx) = false :=
  List.any_eq_false.mpr fun r hr => by simp [h r hr]

theorem State.takeCtx_taken (h : s.PartServes p) (hfree : s.Uncovered 0 (unitId p 0x11) ctx) :
    s.takeCtx p ctx trig = s.rstStart 0 (unitId p 0x11) ctx trig := by
  simp [State.takeCtx, h.runs, h.there, h.serves, hfree.any]

theorem State.takeEngine_taken {i : Nat} (h : s.PartServes p) (hi : i < 256) (hfree : s.Uncovered 1 (unitId p i) 0x3F)
    (hmax : s.rstCount 1 (unitId p i) < s.fld KPR_ESC_CFG_ENG_RST_MAX) : s.takeEngine (unitId p i) trig =
      { s.rstStart 1 (unitId p i) 0x3F trig with
        resetting := storeSet false (s.rstStart 1 (unitId p i) 0x3F trig).resetting (unitId p i) true }.setOnline (unitId p i) 0 := by
  simp [State.takeEngine, h.runs, h.there, h.serves, hfree.any, unitPart_unitId h.lt hi, Nat.not_le.mpr hmax]

theorem State.takePart_taken (h : s.PartServes p) (hfree : s.Uncovered 2 (unitId p 0x10) 0x3F)
    (hmax : s.rstCount 2 (unitId p 0x10) < s.fld KPR_ESC_CFG_PART_RST_MAX) :
    s.takePart p trig = ((s.rstStart 2 (unitId p 0x10) 0x3F trig).ctxResetAll p).setFld ⟨DBG_GSTATUS, 24 + p, 1⟩ 0 := by
  simp [State.takePart, h.runs, h.there, h.serves, hfree.any, Nat.not_le.mpr hmax]

theorem State.takeModule_taken (hrun : s.boot = .running) (hfree : ∀ r ∈ s.rstRun, r.kind < 3)
    (hmax : s.rstCount 3 0 < s.fld KPR_ESC_CFG_MOD_RST_MAX) :
    s.takeModule trig = { (s.rstStart 3 0 0x3F trig).moduleDown with boot := .resetting } := by
  have hany : s.rstRun.any (fun r => decide (3 ≤ r.kind)) = false := List.any_eq_false.mpr fun r hr => by simp [hfree r hr]
  simp [State.takeModule, hrun, hany, Nat.not_le.mpr hmax]

theorem State.takePower_taken (hfree : ∀ r ∈ s.rstRun, r.kind < 4) : s.takePower trig = s.rstStart 4 0 0x3F trig := by
  have hany : s.rstRun.any (fun r => r.kind == 4) = false := List.any_eq_false.mpr fun r hr => by simp [(hfree r hr).ne]
  simp [State.takePower, hany]

end

/-! ## Engines offline (R414) -/

/-- The registers of the engines of a partition that are in service (R106). -/
def OnlineReg (p a : Nat) : Prop := a ∈ [MXE_ENG_ONLINE p, MXE_ENG_MAP p, VXE_ENG_ONLINE p]

theorem OnlineReg.ge {p a : Nat} (h : OnlineReg p a) : 0x2000000 ≤ a := by
  simp only [OnlineReg, List.mem_cons, List.not_mem_nil, or_false, MXE_ENG_ONLINE, MXE_ENG_MAP, VXE_ENG_ONLINE, partBase] at h
  omega

section
variable (s : State)

theorem State.only_mxMap (p : Nat) : s.OnlyRegs (s.mxMap p) (fun a => a = MXE_ENG_MAP p) :=
  forRange_ind (I := fun _ t => s.OnlyRegs t (fun a => a = MXE_ENG_MAP p)) (.refl s _) fun _ _ _ h => h.setFld _ rfl

theorem State.only_setOnline (u v : Nat) : s.OnlyRegs (s.setOnline u v) (OnlineReg (unitPart u)) := by
  have hmxe := (State.OnlyRegs.refl s (OnlineReg (unitPart u))).setFld (f := ⟨MXE_ENG_ONLINE (unitPart u), unitIdx u, 1⟩) v
    (by simp [OnlineReg])
  have hvxe := (State.OnlyRegs.refl s (OnlineReg (unitPart u))).setFld (f := ⟨VXE_ENG_ONLINE (unitPart u), unitIdx u - 8, 1⟩) v
    (by simp [OnlineReg])
  unfold State.setOnline
  simp only []
  split
  · exact .refl s _
  · split
    · have hmap := State.only_mxMap (s.setFld ⟨MXE_ENG_ONLINE (unitPart u), unitIdx u, 1⟩ v) (unitPart u)
      exact ⟨hmap.1.trans hmxe.1, hmxe.2.trans (hmap.2.mono fun a ha => by simp [ha, OnlineReg])⟩
    · split
      · exact hvxe
      · exact .refl s _

theorem reportReg_mxeOnline (p : Nat) : reportReg (MXE_ENG_ONLINE p) = false := by
  simp [reportReg, MXE_ENG_ONLINE, partBase, EVR_RSEQ, EVR_STATUS, DBG_GSTATUS]
  omega

theorem State.mxeOnline_setOnline {p i : Nat} (hp : p < 8) (hi : i < 6) (v : Nat) :
    (s.setOnline (unitId p i) v).fld ⟨MXE_ENG_ONLINE p, i, 1⟩ = v % 2 := by
  have hlt : i < 256 := by omega
  have hset : s.setOnline (unitId p i) v = (s.setFld ⟨MXE_ENG_ONLINE p, i, 1⟩ v).mxMap p := by
    unfold State.setOnline
    simp only []
    rw [unitPart_unitId hp hlt, unitIdx_unitId p hlt, if_neg (unitDie_unitId hp hlt), if_pos hi]
  have hmap : (s.setOnline (unitId p i) v).reg (MXE_ENG_ONLINE p) = (s.setFld ⟨MXE_ENG_ONLINE p, i, 1⟩ v).reg (MXE_ENG_ONLINE p) := by
    rw [hset]
    exact (State.only_mxMap _ p).2 _ (by simp [MXE_ENG_ONLINE, MXE_ENG_MAP]) (reportReg_mxeOnline p)
  rw [State.fld_of_reg (f := ⟨MXE_ENG_ONLINE p, i, 1⟩) hmap, State.fld_setFld_self _ _ _ (show i + 1 ≤ 32 by omega), Nat.pow_one]

theorem State.vxeOnline_setOnline {p i : Nat} (hp : p < 8) (hi : i = 8 ∨ i = 9) (v : Nat) :
    (s.setOnline (unitId p i) v).fld ⟨VXE_ENG_ONLINE p, i - 8, 1⟩ = v % 2 := by
  have hlt : i < 256 := by omega
  have hset : s.setOnline (unitId p i) v = s.setFld ⟨VXE_ENG_ONLINE p, i - 8, 1⟩ v := by
    unfold State.setOnline
    simp only []
    rw [unitPart_unitId hp hlt, unitIdx_unitId p hlt, if_neg (unitDie_unitId hp hlt), if_neg (show ¬ i < 6 by omega),
      if_pos (by simpa using hi)]
  rw [hset, State.fld_setFld_self _ _ _ (show i - 8 + 1 ≤ 32 by omega), Nat.pow_one]

end

end Sys2Proof.Machine

/-! SUPPORT. Requests for resets (R412, Table 14.7): KPR_RST_REQ takes the first step of the ladder for its scope. -/
namespace Sys2Proof.Machine

/-! ## The request register -/

section
variable {s t : State} {w : Word}

/-- The word of a request. -/
def rstReqWord (scope part unit hub ctx : Nat) : Word :=
  BitVec.ofNat 32 (scope + part % 16 * 8 + unit % 256 * 2 ^ 7 + hub * 2 ^ 15 + ctx % 64 * 2 ^ 16)

/-- A request of the physical function for a target that exists takes the reset. -/
theorem State.rstReq_exists (hrun : s.boot = .running) (scope part unit hub ctx : Nat) {ok : Bool} (hok : ok = true)
    (take : State → State) : s.rstReq 0 scope part unit hub ctx ok take =
      take (s.setReg KPR_RST_REQ (rstReqWord scope part unit hub ctx)) := by
  simp [State.rstReq, hrun, hok, rstReqWord]

theorem State.rstReq_rejected (hrun : s.boot = .running) (scope part unit hub ctx : Nat) {ok : Bool} (hok : ok = false)
    (take : State → State) : s.rstReq 0 scope part unit hub ctx ok take =
      (s.setReg KPR_RST_REQ (rstReqWord scope part unit hub ctx)).setFld KPR_RST_STATUS_REQ_REJECT 1 := by
  simp [State.rstReq, hrun, hok, rstReqWord]

theorem State.fld_rstReq (w : Word) {f : Fld} (h : f.addr ≠ KPR_RST_REQ) : (s.setReg KPR_RST_REQ w).fld f = s.fld f :=
  s.fld_setReg_ne f w h

theorem State.PartServes.rstReq {p : Nat} (h : s.PartServes p) (w : Word) : (s.setReg KPR_RST_REQ w).PartServes p where
  runs := h.runs
  there := by
    rw [State.present, State.fld_rstReq w (by decide)]
    exact h.there
  serves := by
    rw [State.fld_rstReq w (show RCV_HEALTH ≠ KPR_RST_REQ by decide)]
    exact h.serves

theorem State.Uncovered.rstReq {kind unit ctx : Nat} (h : s.Uncovered kind unit ctx) (w : Word) :
    (s.setReg KPR_RST_REQ w).Uncovered kind unit ctx := h

theorem State.opmin_rstReq (w : Word) : (s.setReg KPR_RST_REQ w).opmin = s.opmin := State.fld_rstReq w (by decide)

theorem State.rstCount_rstReq (w : Word) (kind target : Nat) :
    (s.setReg KPR_RST_REQ w).rstCount kind target = s.rstCount kind target := by
  rw [State.rstCount, State.opmin_rstReq, State.fld_rstReq w (by decide)]
  rfl

/-- A reset taken once the request stands is one taken from the state before it. -/
theorem State.ResetTaken.of_rstReq {new : RstRun} (h : (s.setReg KPR_RST_REQ w).ResetTaken new t) : s.ResetTaken new t where
  run := h.run
  log := by
    have hlog := h.log
    rw [State.rstLogWith, State.opmin_rstReq] at hlog
    exact hlog
  bare := h.bare
  regs := ((State.RegsKept.refl s _).setReg w (by simp [RstReg])).trans h.regs
  busy := h.busy
  active := h.active
  last0 := h.last0
  last1 := h.last1

/-- What a request takes as a reset, from the state before it. -/
theorem State.resetTaken_rstReq (s : State) (w : Word) (kind unit ctx : Nat) :
    s.ResetTaken ⟨kind, unit, ctx, 8, s.ftime⟩ ((s.setReg KPR_RST_REQ w).rstStart kind unit ctx 8) :=
  (State.resetTaken_rstStart (s.setReg KPR_RST_REQ w) kind unit ctx 8).of_rstReq

end

/-! ## The rows -/

section
variable {s : State} {p : Nat}

theorem rstReqContext_takes {ctx : Nat} (h : s.PartServes p) (hctx : ctx < 36) (hfree : s.Uncovered 0 (unitId p 0x11) ctx) :
    Answers (exec (.rstReqContext 0 p ctx) s) (s.ResetTaken ⟨0, unitId p 0x11, ctx, 8, s.ftime⟩) := by
  refine ⟨_, ?_, s.resetTaken_rstReq (rstReqWord 0 p 0 0 ctx) 0 (unitId p 0x11) ctx⟩
  have hok : (s.present p && decide (ctx < 36)) = true := by simp [h.there, hctx]
  change Host.Outcome.next (s.rstReq 0 0 p 0 0 ctx (s.present p && decide (ctx < 36)) fun t => t.takeCtx p ctx 8) = _
  rw [State.rstReq_exists h.runs _ _ _ _ _ hok, State.takeCtx_taken 8 (h.rstReq _) (hfree.rstReq _)]

/-- An engine goes offline while its reset runs (R414). -/
def State.offline (s : State) (u : Nat) : State := { s with resetting := storeSet false s.resetting u true }.setOnline u 0

theorem rstReqEngine_takes {i : Nat} (h : s.PartServes p) (hi : engineIdx i = true) (hfree : s.Uncovered 1 (unitId p i) 0x3F)
    (hmax : s.rstCount 1 (unitId p i) < s.fld KPR_ESC_CFG_ENG_RST_MAX) :
    ∃ v, s.ResetTaken ⟨1, unitId p i, 0x3F, 8, s.ftime⟩ v ∧ exec (.rstReqEngine 0 p i false) s = .next (v.offline (unitId p i)) := by
  refine ⟨_, s.resetTaken_rstReq (rstReqWord 1 p i 0 0) 1 (unitId p i) 0x3F, ?_⟩
  have hok : (s.present p && engineIdx i) = true := by simp [h.there, hi]
  have hcount : (s.setReg KPR_RST_REQ (rstReqWord 1 p i 0 0)).rstCount 1 (unitId p i) <
      (s.setReg KPR_RST_REQ (rstReqWord 1 p i 0 0)).fld KPR_ESC_CFG_ENG_RST_MAX := by
    rwa [State.rstCount_rstReq, State.fld_rstReq _ (by decide)]
  change Host.Outcome.next (s.rstReq 0 1 p i 0 0 (s.present p && engineIdx i) fun t => t.takeEngine (unitId p i) 8) = _
  rw [State.rstReq_exists h.runs _ _ _ _ _ hok, State.takeEngine_taken 8 (h.rstReq _) (engineIdx_lt hi) (hfree.rstReq _) hcount]
  rfl

theorem rstReqPartition_takes (h : s.PartServes p) (hfree : s.Uncovered 2 (unitId p 0x10) 0x3F)
    (hmax : s.rstCount 2 (unitId p 0x10) < s.fld KPR_ESC_CFG_PART_RST_MAX) :
    ∃ v, s.ResetTaken ⟨2, unitId p 0x10, 0x3F, 8, s.ftime⟩ v ∧
      exec (.rstReqPartition 0 p) s = .next ((v.ctxResetAll p).setFld ⟨DBG_GSTATUS, 24 + p, 1⟩ 0) := by
  refine ⟨_, s.resetTaken_rstReq (rstReqWord 2 p 0 0 0) 2 (unitId p 0x10) 0x3F, ?_⟩
  have hcount : (s.setReg KPR_RST_REQ (rstReqWord 2 p 0 0 0)).rstCount 2 (unitId p 0x10) <
      (s.setReg KPR_RST_REQ (rstReqWord 2 p 0 0 0)).fld KPR_ESC_CFG_PART_RST_MAX := by
    rwa [State.rstCount_rstReq, State.fld_rstReq _ (by decide)]
  change Host.Outcome.next (s.rstReq 0 2 p 0 0 0 (s.present p) fun t => t.takePart p 8) = _
  rw [State.rstReq_exists h.runs _ _ _ _ _ h.there, State.takePart_taken 8 (h.rstReq _) (hfree.rstReq _) hcount]

theorem rstReqModule_takes (hrun : s.boot = .running) (hfree : ∀ r ∈ s.rstRun, r.kind < 3)
    (hmax : s.rstCount 3 0 < s.fld KPR_ESC_CFG_MOD_RST_MAX) :
    ∃ v, s.ResetTaken ⟨3, 0, 0x3F, 8, s.ftime⟩ v ∧ exec (.rstReqModule 0) s = .next { v.moduleDown with boot := .resetting } := by
  refine ⟨_, s.resetTaken_rstReq (rstReqWord 3 0 0 0 0) 3 0 0x3F, ?_⟩
  have hcount : (s.setReg KPR_RST_REQ (rstReqWord 3 0 0 0 0)).rstCount 3 0 <
      (s.setReg KPR_RST_REQ (rstReqWord 3 0 0 0 0)).fld KPR_ESC_CFG_MOD_RST_MAX := by
    rwa [State.rstCount_rstReq, State.fld_rstReq _ (by decide)]
  change Host.Outcome.next (s.rstReq 0 3 0 0 0 0 true fun t => t.takeModule 8) = _
  rw [State.rstReq_exists hrun _ _ _ _ _ rfl, State.takeModule_taken (s := s.setReg KPR_RST_REQ _) 8 hrun hfree hcount]

theorem rstReqPowerCycle_takes (hrun : s.boot = .running) (hfree : ∀ r ∈ s.rstRun, r.kind < 4) :
    Answers (exec (.rstReqPowerCycle 0) s) (s.ResetTaken ⟨4, 0, 0x3F, 8, s.ftime⟩) := by
  refine ⟨_, ?_, s.resetTaken_rstReq (rstReqWord 4 0 0 0 0) 4 0 0x3F⟩
  change Host.Outcome.next (s.rstReq 0 4 0 0 0 0 true fun t => t.takePower 8) = _
  rw [State.rstReq_exists hrun _ _ _ _ _ rfl, State.takePower_taken (s := s.setReg KPR_RST_REQ _) 8 hfree]

/-- A request for a context that does not exist is rejected. -/
theorem rstReqContext_rejects {ctx : Nat} (hrun : s.boot = .running) (hno : s.present p = false ∨ 36 ≤ ctx) :
    Answers (exec (.rstReqContext 0 p ctx) s) fun t =>
      t.fld KPR_RST_STATUS_REQ_REJECT = 1 ∧ s.OnlyRegs t (fun a => a = KPR_RST_REQ ∨ a = KPR_RST_STATUS) := by
  have hok : (s.present p && decide (ctx < 36)) = false := by
    rw [Bool.and_eq_false_iff, decide_eq_false_iff_not, Nat.not_lt]
    exact hno
  refine ⟨(s.setReg KPR_RST_REQ (rstReqWord 0 p 0 0 ctx)).setFld KPR_RST_STATUS_REQ_REJECT 1,
    congrArg _ (State.rstReq_rejected hrun 0 p 0 0 ctx hok _), State.fld_setFld_one _ rfl (by decide),
    State.OnlyRegs.setFld ?_ _ (.inr rfl)⟩
  exact ⟨rfl, (State.RegsKept.refl s _).setReg _ (.inl rfl)⟩

end

/-! ## An engine that is reset goes offline -/

section
variable {s v : State} {new : RstRun}

theorem State.bare_offline (v : State) (u : Nat) :
    (v.offline u).bare = { v.bare with resetting := storeSet false v.resetting u true } := (State.only_setOnline _ _ _).1

/-- Fields of the module's own registers stay as an engine goes offline. -/
theorem State.fld_offline (v : State) (u : Nat) {f : Fld} (hf : f.addr < 0x2000000) (hr : reportReg f.addr = false) :
    (v.offline u).fld f = v.fld f :=
  (State.only_setOnline { v with resetting := storeSet false v.resetting u true } u 0).2.fld (fun ha => absurd ha.ge (by omega)) hr

/-- What is seen of an engine reset once its engine is offline. -/
theorem State.ResetTaken.offline (h : s.ResetTaken new v) (u : Nat) :
    new ∈ (v.offline u).rstRun ∧ storeGet false (v.offline u).resetting u = true ∧ (v.offline u).fld KPR_RST_STATUS_BUSY = 1 ∧
      (v.offline u).fld KPR_RST_LAST0_SCOPE = new.kind % 8 ∧ s.MemKept (v.offline u) ∧ (v.offline u).inflight = s.inflight := by
  have hbare := v.bare_offline u
  have hrun : (v.offline u).rstRun = v.rstRun := (congrArg State.rstRun hbare :)
  have hresetting : (v.offline u).resetting = storeSet false v.resetting u true := (congrArg State.resetting hbare :)
  refine ⟨hrun ▸ h.member, ?_, (v.fld_offline u (by decide) (by decide)).trans h.busy,
    (v.fld_offline u (by decide) (by decide)).trans h.scope, h.memKept.trans (.of_eq (congrArg State.mem hbare :) (congrArg State.poison hbare :)),
    (congrArg State.inflight hbare :).trans h.inflight⟩
  rw [hresetting, storeGet_set_self]

end

/-! ## The statement -/

/-- Settles O13: each request takes the first step of the ladder for its scope from the state in which the request stands, and what a reset
taken shows is read off `State.ResetTaken`. -/
theorem requestedResetsAreTaken : Obligations.RequestedResetsAreTaken := by
  unfold Obligations.RequestedResetsAreTaken
  refine ⟨fun s p ctx hrun hp hctx hh hfree => ?_, fun s p i hrun hp hi hh hfree hmax => ?_, fun s p hrun hp hh hfree hmax => ?_,
    fun s hrun hfree hmax => ?_, fun s hrun hfree => ?_, fun s p ctx hrun hno => rstReqContext_rejects hrun hno⟩
  · have hserves : s.PartServes p := ⟨hrun, hp, hh⟩
    have hunit := unitId_lt hserves.lt (i := 0x11) (by decide)
    refine answers_imp (rstReqContext_takes hserves hctx hfree) fun t h => ⟨h.run_context rfl, h.log, h.busy, h.scope,
      h.trigger (show 0 < 8 by decide) (show 8 < 256 by decide), h.unit hunit, h.context hunit (show ctx < 64 by omega), h.bare, h.regs⟩
  · have hserves : s.PartServes p := ⟨hrun, hp, hh⟩
    obtain ⟨v, h, hexec⟩ := rstReqEngine_takes hserves hi hfree hmax
    obtain ⟨hmem, hres, hbusy, hscope, hkept, hfl⟩ := h.offline (unitId p i)
    exact ⟨_, hexec, hmem, hres, fun hm => State.mxeOnline_setOnline _ hserves.lt hm 0,
      fun hv => State.vxeOnline_setOnline _ hserves.lt hv 0, hbusy, hscope, hkept, hfl⟩
  · obtain ⟨v, h, hexec⟩ := rstReqPartition_takes ⟨hrun, hp, hh⟩ hfree hmax
    exact ⟨v, h.member, h.busy, h.scope, h.memKept, h.inflight, hexec⟩
  · obtain ⟨v, h, hexec⟩ := rstReqModule_takes hrun hfree hmax
    exact ⟨v, h.run_alone (Nat.le_refl 3) hfree, h.busy, h.scope, h.memKept, hexec⟩
  · refine answers_imp (rstReqPowerCycle_takes hrun hfree) fun t h => ?_
    have hrst := h.run_alone (show 3 ≤ 4 by decide) hfree
    exact ⟨hrst, h.log, h.busy, by rw [h.active, hrst]; rfl, h.memKept, h.inflight, h.pins⟩

end Sys2Proof.Machine

/-! SUPPORT. Faults of the control path (R420 to R426, R22): what is noted before each takes its reset, and the module that is held. -/
namespace Sys2Proof.Machine

/-! ## Notes of the Keeper -/

section
variable {s t : State} {P : Nat → Prop}

theorem State.OnlyRegs.keeperNote (h : s.OnlyRegs t P) (unit flags kind trig result retain ctx us count : Nat) :
    s.OnlyRegs (t.keeperNote unit flags kind trig result retain ctx us count) P :=
  ⟨(State.bare_keeperRec ..).trans h.1, fun a ha hr => (State.reg_keeperRec ..).trans (h.2 a ha hr)⟩

theorem State.fld_keeperNote (s : State) (unit flags kind trig result retain ctx us count : Nat) (f : Fld) :
    (s.keeperNote unit flags kind trig result retain ctx us count).fld f = s.fld f := State.fld_of_reg (State.reg_keeperRec ..)

theorem State.detections_keeperNote (hrun : s.boot = .running) (unit flags kind trig result retain ctx us count : Nat) :
    (s.keeperNote unit flags kind trig result retain ctx us count).detections.length = s.detections.length + 1 :=
  State.detections_detect s hrun ..

end

/-! ## The always-on domain -/

/-- A state with other contents of the always-on domain. -/
def State.withAon (s : State) (x : AlwaysOn) : State := { s with aon := x }

theorem State.reg_withAon (s : State) (x : AlwaysOn) (a : Nat) : (s.withAon x).reg a = s.reg a := rfl

theorem State.bare_withAon (s : State) (x : AlwaysOn) : (s.withAon x).bare = { s.bare with aon := x } := rfl

theorem State.RegsKept.withAon {s t : State} {P : Nat → Prop} (h : s.RegsKept t P) (x : AlwaysOn) : s.RegsKept (t.withAon x) P :=
  h.of_regs rfl

/-- A state with one `bare` with `s`, but for the always-on domain. -/
theorem State.bare_withAon_of {s t : State} (h : t.bare = s.bare) (x : AlwaysOn) : (t.withAon x).bare = { s.bare with aon := x } := by
  rw [State.bare_withAon, h]

/-- The always-on domain with `n` misses of the core of a partition. -/
def AlwaysOn.missed (x : AlwaysOn) (p n : Nat) : AlwaysOn := { x with ccMiss := storeSet 0 x.ccMiss p n }

theorem AlwaysOn.ccMiss_missed (x : AlwaysOn) (p n : Nat) : storeGet 0 (x.missed p n).ccMiss p = n := storeGet_set_self 0 x.ccMiss p n

/-! ## Heartbeats of a control core (R420) -/

/-- The beats of a control core are sampled: its partition serves and is awake, no reset of the partition or the core runs, and the
core is not halted. -/
structure State.CoreSampled (s : State) (p : Nat) : Prop where
  serves : s.PartServes p
  awake : s.domState (4 * p + 1) < 2
  part : s.partInReset p = false
  core : s.rstOf 1 (unitId p 0x10) 0x3F = none
  going : bitAt (s.fld DBG_GSTATUS_HALTED) p = false

/-- The registers that a sample of a core writes. -/
def BeatReg (p a : Nat) : Prop := a = (KPR_CC_HB_BEAT p).addr ∨ a = KPR_HB_STATUS

/-- The beats of a sample are counted. -/
def State.beatCounted (s : State) (p beats : Nat) : State := s.setFld (KPR_CC_HB_BEAT p) (s.fld (KPR_CC_HB_BEAT p) + beats)

theorem State.aon_beatCounted (s : State) (p beats : Nat) : (s.beatCounted p beats).aon = s.aon := State.aon_setFld ..

/-- A sample without a beat is shown and counted. -/
def State.beatMissed (s : State) (p : Nat) : State := ((s.beatCounted p 0).setFld ⟨KPR_HB_STATUS, p, 1⟩ 1).gcount 0x246 1

section
variable {s : State} {p : Nat}

theorem State.CoreSampled.guard (h : s.CoreSampled p) : ¬((s.boot ≠ .running || !s.present p || s.fld (RCV_HEALTH_PART p) = 3 ||
    decide (2 ≤ s.domState (4 * p + 1)) || s.partInReset p || (s.rstOf 1 (unitId p 0x10) 0x3F).isSome ||
      bitAt (s.fld DBG_GSTATUS_HALTED) p) = true) := by
  simp [h.serves.runs, h.serves.there, h.serves.serves, h.awake, h.part, h.core, h.going]

/-- Beats clear what a core has missed. -/
def State.beatSeen (s : State) (p beats : Nat) : State :=
  ((s.beatCounted p beats).setFld ⟨KPR_HB_STATUS, p, 1⟩ 0).withAon
    { s.aon with ccMiss := storeSet 0 s.aon.ccMiss p 0, ccWait := storeSet 0 s.aon.ccWait p 0 }

theorem ccHeartbeatSample_beats (h : s.CoreSampled p) {beats : Nat} (hb : beats ≠ 0) :
    exec (.ccHeartbeatSample p beats) s = .next (s.beatSeen p beats) := by
  rw [State.beatSeen, ← s.aon_beatCounted p beats]
  change execCcHeartbeatSample p beats s = _
  exact (if_neg h.guard).trans (if_pos hb)

theorem State.bare_beatSeen (s : State) (p beats : Nat) : (s.beatSeen p beats).bare = { s.bare with aon := (s.beatSeen p beats).aon } :=
  State.bare_withAon_of ((State.bare_setFld ..).trans (State.bare_setFld ..)) _

theorem State.ccMiss_beatSeen (s : State) (p beats : Nat) : storeGet 0 (s.beatSeen p beats).aon.ccMiss p = 0 :=
  storeGet_set_self 0 s.aon.ccMiss p 0

theorem State.regsKept_beatSeen (s : State) (p beats : Nat) : s.RegsKept (s.beatSeen p beats) (BeatReg p) := by
  have hcount := (State.RegsKept.refl s (BeatReg p)).setFld (f := KPR_CC_HB_BEAT p) (s.fld (KPR_CC_HB_BEAT p) + beats) (.inl rfl)
  have hstatus := hcount.setFld (f := ⟨KPR_HB_STATUS, p, 1⟩) 0 (.inr rfl)
  exact hstatus.withAon _

theorem State.missing_beatSeen (s : State) {p : Nat} (hp : p < 8) (beats : Nat) :
    (s.beatSeen p beats).fld ⟨KPR_HB_STATUS, p, 1⟩ = 0 := by
  refine (State.fld_of_reg (State.reg_withAon ..)).trans ?_
  rw [State.fld_setFld_self _ _ _ (show p + 1 ≤ 32 by omega)]
  rfl

theorem State.beat_beatSeen (s : State) {p : Nat} (hp : p < 8) (beats : Nat) : (s.beatSeen p beats).fld (KPR_CC_HB_BEAT p) =
    (s.fld (KPR_CC_HB_BEAT p) + beats) % 2 ^ (KPR_CC_HB_BEAT p).w := by
  have happart : (KPR_CC_HB_BEAT p).addr ≠ KPR_HB_STATUS := by
    simp only [KPR_CC_HB_BEAT, KPR_CC_HB, KPR_HB_STATUS]
    omega
  refine (State.fld_of_reg (State.reg_withAon ..)).trans ?_
  rw [State.fld_of_reg (State.reg_setFld_ne _ _ _ happart), State.beatCounted, State.fld_setFld_self _ _ _ (by simp [KPR_CC_HB_BEAT])]

theorem State.only_beatMissed (s : State) (p : Nat) : s.OnlyRegs (s.beatMissed p) (BeatReg p) := by
  have hcount := (State.OnlyRegs.refl s (BeatReg p)).setFld (f := KPR_CC_HB_BEAT p) (s.fld (KPR_CC_HB_BEAT p) + 0) (.inl rfl)
  have hstatus := hcount.setFld (f := ⟨KPR_HB_STATUS, p, 1⟩) 1 (.inr rfl)
  exact hstatus.gcount 0x246 1

theorem State.missing_beatMissed (s : State) {p : Nat} (hp : p < 8) : (s.beatMissed p).fld ⟨KPR_HB_STATUS, p, 1⟩ = 1 := by
  rw [State.beatMissed, State.fld_gcount _ _ _ _ (show reportReg KPR_HB_STATUS = false by decide),
    State.fld_setFld_one _ rfl (show p < 32 by omega)]

theorem State.cnt_beatMissed (s : State) (p : Nat) : storeGet 0 (s.beatMissed p).cnt (gcntKey 0x246) =
    cntAdd false (storeGet 0 s.cnt (gcntKey 0x246)) 1 := by
  rw [State.beatMissed, State.gcnt_gcount_self _ (.inl (by decide)), State.cnt_setFld, State.beatCounted, State.cnt_setFld]
  rfl

theorem State.ccMiss_beatMissed (s : State) (p : Nat) : (s.beatMissed p).fld KPR_HB_CFG_CC_MISS = s.fld KPR_HB_CFG_CC_MISS := by
  refine (s.only_beatMissed p).2.fld ?_ (by decide)
  simp only [BeatReg, KPR_HB_CFG_CC_MISS, KPR_HB_CFG, KPR_CC_HB_BEAT, KPR_CC_HB, KPR_HB_STATUS]
  omega

/-- A sample without a beat adds a miss: below CC_MISS, or while the core comes back, it is only counted. -/
theorem ccHeartbeatSample_none (h : s.CoreSampled p) : exec (.ccHeartbeatSample p 0) s =
    let n := storeGet 0 (s.beatCounted p 0).aon.ccMiss p + 1
    let t := s.beatMissed p
    if n < max 1 (t.fld KPR_HB_CFG_CC_MISS) || storeGet 0 t.aon.ccWait p ≠ 0 then
      .next (t.withAon (t.aon.missed p n))
    else .next ((((t.withAon (t.aon.missed p 0)).setFld KPR_HB_STATUS_CC_MISS_SEEN 1).keeperNote
      (unitId p 0x10) 0 7 4 0 0 0x3F 0 0).takeEngine (unitId p 0x10) 4) := by
  change execCcHeartbeatSample p 0 s = _
  exact (if_neg h.guard).trans (if_neg (not_not.mpr rfl))

theorem State.aon_beatMissed (s : State) (p : Nat) : (s.beatMissed p).aon = s.aon := State.aon_of_bare (s.only_beatMissed p).1

/-- A sample without a beat that is not the last one missed. -/
def State.missCounted (s : State) (p : Nat) : State :=
  (s.beatMissed p).withAon (s.aon.missed p (storeGet 0 s.aon.ccMiss p + 1))

theorem ccHeartbeatSample_missed (h : s.CoreSampled p)
    (hn : storeGet 0 s.aon.ccMiss p + 1 < max 1 (s.fld KPR_HB_CFG_CC_MISS)) :
    exec (.ccHeartbeatSample p 0) s = .next (s.missCounted p) := by
  rw [ccHeartbeatSample_none h]
  simp only [s.ccMiss_beatMissed, s.aon_beatMissed, s.aon_beatCounted]
  exact if_pos (by simp [hn])

theorem State.ccMiss_missCounted (s : State) (p : Nat) :
    storeGet 0 (s.missCounted p).aon.ccMiss p = storeGet 0 s.aon.ccMiss p + 1 :=
  s.aon.ccMiss_missed p _

theorem State.bare_missCounted (s : State) (p : Nat) : (s.missCounted p).bare = { s.bare with aon := (s.missCounted p).aon } :=
  State.bare_withAon_of (s.only_beatMissed p).1 _

/-- The state of a core that has missed its last beat, before its reset is taken. -/
def State.beatsLost (s : State) (p : Nat) : State :=
  (((s.beatMissed p).withAon (s.aon.missed p 0)).setFld KPR_HB_STATUS_CC_MISS_SEEN 1).keeperNote (unitId p 0x10) 0 7 4 0 0 0x3F 0 0

theorem ccHeartbeatSample_lost (h : s.CoreSampled p) (hn : max 1 (s.fld KPR_HB_CFG_CC_MISS) ≤ storeGet 0 s.aon.ccMiss p + 1)
    (hw : storeGet 0 s.aon.ccWait p = 0) :
    exec (.ccHeartbeatSample p 0) s = .next ((s.beatsLost p).takeEngine (unitId p 0x10) 4) := by
  rw [ccHeartbeatSample_none h]
  simp only [s.ccMiss_beatMissed, s.aon_beatMissed, s.aon_beatCounted]
  exact if_neg (by simp [Nat.not_lt.mpr hn, hw])

theorem State.bare_beatsLost (s : State) (p : Nat) : (s.beatsLost p).bare = { s.bare with aon := s.aon.missed p 0 } := by
  rw [State.beatsLost, State.keeperNote, State.bare_keeperRec, State.bare_setFld, State.bare_withAon_of (s.only_beatMissed p).1]

theorem State.beatsLost_effect (s : State) (p : Nat) : (s.beatsLost p).fld KPR_HB_STATUS_CC_MISS_SEEN = 1 ∧
    storeGet 0 (s.beatsLost p).aon.ccMiss p = 0 ∧ s.MemKept (s.beatsLost p) ∧ (s.beatsLost p).inflight = s.inflight := by
  have hbare := s.bare_beatsLost p
  have haon : (s.beatsLost p).aon = s.aon.missed p 0 := (congrArg State.aon hbare :)
  refine ⟨?_, ?_, .of_eq (congrArg State.mem hbare :) (congrArg State.poison hbare :), (congrArg State.inflight hbare :)⟩
  · rw [State.beatsLost, State.fld_keeperNote, State.fld_setFld_one _ rfl (by decide)]
  · rw [haon, AlwaysOn.ccMiss_missed]

end

/-! ## A module that is held (R22, R426) -/

section
variable (s : State)

theorem State.inflight_setFlds {α : Type} (f : α → Fld) (v : Nat) (l : List α) :
    (l.foldl (fun t k => t.setFld (f k) v) s).inflight = s.inflight :=
  List.foldlRecOn (motive := fun t : State => t.inflight = s.inflight) l _ rfl fun t h k _ => (t.inflight_setFld (f k) v).trans h

theorem State.inflight_endMigrations (p : Nat) : (s.endMigrations p).inflight = s.inflight := by
  unfold State.endMigrations
  simp only [State.inflight_setFld, State.inflight_setFlds]

theorem State.inflight_emptySlots (p : Nat) : (s.emptySlots p).inflight = s.inflight := by
  simp only [State.emptySlots, State.inflight_setReg, State.inflight_setFld]

/-- No work is in flight after a module reset. -/
theorem State.inflight_moduleClear : s.moduleClear.inflight = [] := by
  unfold State.moduleClear State.afterModuleReset
  refine forRange_ind (I := fun _ t => t.inflight = []) rfl fun p t _ h => ?_
  split
  · exact h
  · rw [State.inflight_endMigrations, State.inflight_emptySlots, h]

theorem State.heldFault_effect (cause : Nat) : let t := ({ s with boot := .held } : State).addFault cause
    t.boot = .held ∧ t.fld KPR_SB_STATE_FAULT = 1 ∧ t.inflight = s.inflight :=
  ⟨rfl, State.fld_setFld_one _ rfl (by decide), rfl⟩

theorem State.holdModule_effect (cause : Nat) :
    (s.holdModule cause).boot = .held ∧ (s.holdModule cause).fld KPR_SB_STATE_FAULT = 1 ∧ (s.holdModule cause).inflight = [] := by
  have hclear := s.moduleDown.inflight_moduleClear
  rw [State.holdModule]
  generalize s.moduleDown.moduleClear = t at hclear
  rw [← hclear]
  exact t.heldFault_effect cause

/-- An alert on a module that is held. -/
theorem State.heldAlert_effect {u : State} (hboot : u.boot = .held) (hfault : u.fld KPR_SB_STATE_FAULT = 1) (hfl : u.inflight = []) :
    let t := u.sbAlert alPwrCycle
    t.boot = .held ∧ t.fld KPR_SB_STATE_FAULT = 1 ∧ t.fld ⟨KPR_SB_ALERT, 8, 1⟩ = 1 ∧ t.inflight = [] := by
  have hbare := u.bare_sbAlert alPwrCycle
  exact ⟨(congrArg State.boot hbare :).trans hboot, (u.fld_sbAlert _ _ (by decide)).trans hfault, u.fld_sbAlert_self 8 (by decide),
    (congrArg State.inflight hbare :).trans hfl⟩

theorem pwrCycleReqTimeout_holds {s : State} (hreq : s.pins.pwrReq = true) (hheld : s.boot ≠ .held) :
    exec .pwrCycleReqTimeout s = .next (((s.eventUnit 0 8).holdModule ftUnanswered).sbAlert alPwrCycle) := by
  change execPwrCycleReqTimeout s = _
  rw [execPwrCycleReqTimeout, if_neg (by simp [hreq, hheld])]

end

/-! ## CLEAR of the escalation (R22, R426) -/

section
variable (s : State)

/-- The counts and the request go, and what shows them. -/
def State.escCleared : State :=
  (((s.escForget.clearFault (ftUnanswered + ftHeld)).setFld KPR_ESC_COUNT_HELD 0).setFld KPR_SB_STATE_ESC_HELD 0).rstShow

theorem State.bare_escCleared : s.escCleared.bare = (s.escForget.clearFault (ftUnanswered + ftHeld)).bare := by
  rw [State.escCleared, (State.only_rstShow _).1, State.bare_setFld, State.bare_setFld]

theorem State.escCleared_shows : s.escCleared.fld KPR_ESC_COUNT_HELD = 0 ∧ s.escCleared.fld KPR_SB_STATE_ESC_HELD = 0 := by
  unfold State.escCleared
  generalize s.escForget.clearFault (ftUnanswered + ftHeld) = u
  have hshow := ((u.setFld KPR_ESC_COUNT_HELD 0).setFld KPR_SB_STATE_ESC_HELD 0).only_rstShow.2
  constructor
  · rw [hshow.fld (by decide) (by decide), State.fld_setFld_apart _ _ _ _ (.inl (by decide)) (by decide),
      State.fld_setFld_self _ _ _ (by decide)]
    rfl
  · rw [hshow.fld (by decide) (by decide), State.fld_setFld_self _ _ _ (by decide)]
    rfl

theorem State.escCleared_effect : s.escCleared.pins.pwrReq = false ∧ s.escCleared.rstLog = [] ∧ s.escCleared.boot = s.boot ∧
    s.MemKept s.escCleared ∧ s.escCleared.inflight = s.inflight := by
  have hbare := s.bare_escCleared
  exact ⟨congrArg Pins.pwrReq (State.pins_of_bare hbare), State.rstLog_of_bare hbare, (State.boot_of_bare hbare :),
    .of_eq (State.mem_of_bare hbare :) (State.poison_of_bare hbare :), (State.inflight_of_bare hbare :)⟩

/-- CLEAR by the physical function on a module that is powered and not held. -/
theorem kprEscClearWrite_clears {s : State} (hoff : s.boot ≠ .off) (hheld : s.boot ≠ .held) (env : BootEnv) :
    exec (.kprEscClearWrite 0 env) s = .next s.escCleared := by
  obtain ⟨-, -, hboot, -⟩ := s.escCleared_effect
  have hclear : s.escClear env = s.escCleared := by
    rw [← hboot] at hheld
    unfold State.escClear
    simp only []
    exact if_neg hheld
  rw [← hclear]
  exact (if_neg (by simp [hoff])).trans (if_neg (not_not.mpr rfl))

end

/-! ## Faults of the Keeper and of the I3C target (R421, R422) -/

/-- The watchdog of the Keeper notes the miss, and the module reset follows (R421). -/
theorem keeperWatchdog_takes {s : State} (hrun : s.boot = .running) :
    ∃ u : State, u.fld KPR_HB_STATUS_KPR_MISS_SEEN = 1 ∧ s.OnlyRegs u (fun a => a = KPR_HB_STATUS) ∧
      exec .keeperWatchdog s = .next (u.takeModule 5) := by
  refine ⟨_, ?_, ?_, if_neg (not_not.mpr hrun)⟩
  · rw [State.fld_keeperNote, State.fld_setFld_one _ rfl (by decide)]
  · have hcount := (State.OnlyRegs.refl s (fun a => a = KPR_HB_STATUS)).gcount 0x247 (max 1 (s.fld KPR_HB_CFG_KPR_MISS))
    exact (hcount.setFld (f := KPR_HB_STATUS_KPR_MISS_SEEN) 1 rfl).keeperNote ..

/-- A mismatch of the Keeper's cores leaves one detection, and the module reset follows (R422). -/
theorem lockstepMismatch_takes {s : State} (hrun : s.boot = .running) :
    ∃ u : State, s.OnlyRegs u (fun _ => False) ∧ u.detections.length = s.detections.length + 1 ∧
      exec .lockstepMismatch s = .next (u.takeModule 6) :=
  ⟨_, (State.OnlyRegs.refl s _).keeperNote .., State.detections_keeperNote hrun .., if_neg (not_not.mpr hrun)⟩

/-- A fault of the clock leaves one detection, and the module reset follows (R422). -/
theorem clockFault_takes {s : State} (hrun : s.boot = .running) :
    ∃ u : State, s.OnlyRegs u (fun _ => False) ∧ u.detections.length = s.detections.length + 1 ∧
      exec .clockFault s = .next (u.takeModule 7) :=
  ⟨_, (State.OnlyRegs.refl s _).keeperNote .., State.detections_keeperNote hrun .., if_neg (not_not.mpr hrun)⟩

/-- The I3C target alone is reset. -/
theorem i3cTargetFault_resets {s : State} (hoff : s.boot ≠ .off) : Answers (exec .i3cTargetFault s) fun t =>
    t.ibiEn = false ∧ t.i3cAddr = 0 ∧ t.i3cPtr = 0 ∧ s.RegsKept t (fun _ => False) ∧
      t.bare = { s.bare with ibiEn := false, i3cAddr := 0, i3cPtr := 0 } := by
  refine ⟨({ s with ibiEn := false, i3cAddr := 0, i3cPtr := 0 } : State).detectOnly 3 11, if_neg hoff, ?_⟩
  have hbare := State.bare_detectOnly { s with ibiEn := false, i3cAddr := 0, i3cPtr := 0 } 3 11
  exact ⟨State.ibiEn_of_bare hbare, State.i3cAddr_of_bare hbare, State.i3cPtr_of_bare hbare, fun _ _ _ => State.reg_detect .., hbare⟩

/-! ## The statement -/

/-- Settles O15: each fault notes what it is and hands the state to the step of the ladder that its row names. -/
theorem faultsOfTheControlPathTakeResets : Obligations.FaultsOfTheControlPathTakeResets := by
  unfold Obligations.FaultsOfTheControlPathTakeResets
  refine ⟨fun s u c l hl => ?_, fun s p beats hrun hp hh hd hpart hidle hhalt => ?_,
    fun s hrun => ⟨keeperWatchdog_takes hrun, lockstepMismatch_takes hrun, clockFault_takes hrun⟩,
    fun s hoff => i3cTargetFault_resets hoff, fun s hboot => if_neg (not_not.mpr hboot),
    fun s p ctx unit r hr => ?_, fun s p ctx unit r hr => ?_, fun s p ctx unit r hr => ?_, fun s p ctx unit r hr => ?_,
    fun s hreq hheld => ?_, fun s env hoff hheld => ?_⟩
  · change execHangDetect u s = _
    rw [execHangDetect, hl]
  · have hcore : s.CoreSampled p := ⟨⟨hrun, hp, hh⟩, hd, hpart, hidle, hhalt⟩
    have hlt := hcore.serves.lt
    refine ⟨fun hb => ⟨_, ccHeartbeatSample_beats hcore hb, s.beat_beatSeen hlt beats, s.missing_beatSeen hlt beats,
      s.ccMiss_beatSeen p beats, s.bare_beatSeen p beats, s.regsKept_beatSeen p beats⟩, fun hb hn => ?_, fun hb hn hw => ?_⟩
    · subst hb
      exact ⟨_, ccHeartbeatSample_missed hcore hn, s.ccMiss_missCounted p, s.missing_beatMissed hlt, s.cnt_beatMissed p,
        (congrArg State.rstRun (s.bare_missCounted p) :), s.bare_missCounted p⟩
    · subst hb
      obtain ⟨hseen, hmiss, hmem, hfl⟩ := s.beatsLost_effect p
      exact ⟨_, hseen, hmiss, hmem, hfl, ccHeartbeatSample_lost hcore hn hw⟩
  · change execResetBoundExpiry 0 p ctx unit s = _
    rw [execResetBoundExpiry, hr]
  · change execResetBoundExpiry 1 p ctx unit s = _
    rw [execResetBoundExpiry, hr]
  · change execResetBoundExpiry 2 p ctx unit s = _
    rw [execResetBoundExpiry, hr]
  · change execResetBoundExpiry 3 p ctx unit s = _
    rw [execResetBoundExpiry, hr]
  · obtain ⟨hboot, hfault, hfl⟩ := (s.eventUnit 0 8).holdModule_effect ftUnanswered
    exact ⟨_, pwrCycleReqTimeout_holds hreq hheld, State.heldAlert_effect hboot hfault hfl⟩
  · obtain ⟨hpins, hlog, hboot, hmem, hfl⟩ := s.escCleared_effect
    obtain ⟨hcount, hstate⟩ := s.escCleared_shows
    exact ⟨_, kprEscClearWrite_clears hoff hheld env, hpins, hlog, hcount, hstate, hboot, hmem, hfl⟩

end Sys2Proof.Machine

/-! SUPPORT. The event recorder (R433 to R447): what its stores and its staging leave alone, its flush, the minute, the closes, the
checkpoint and the state copy. -/
namespace Sys2Proof.Machine

/-! ## What the recorder's own work leaves alone -/

/-- `s` without its registers, its counters, the reports, and what the recorder stores: its tiers, the detections and their log, the
times of its last flush, and its note of dropped records. -/
def State.unrecorded (s : State) : State :=
  { s.bare with recent := [], life := [], dets := [], detLog := [], lastFlush := (0, 0), recLost := false }

/-- Registers of the recent tier and of the detection log. -/
def RecorderReg (a : Nat) : Prop := a = EVR_RECENT_TAIL ∨ a = EVR_RECENT_HEAD ∨ a = UHS_STATUS

/-- `t` is `s` but for what the recorder stores, its registers, the counters and the reports; and LIFE_FULL, which shares its
register with what reports write, is as before. -/
structure State.RecorderWork (s t : State) : Prop where
  rest : t.unrecorded = s.unrecorded
  regs : s.RegsKept t RecorderReg
  full : t.fld EVR_STATUS_LIFE_FULL = s.fld EVR_STATUS_LIFE_FULL

section
variable {s t : State} (h : t.unrecorded = s.unrecorded)
include h

theorem State.acc_of_unrecorded : t.acc = s.acc := (congrArg State.acc h :)
theorem State.ckpts_of_unrecorded : t.ckpts = s.ckpts := (congrArg State.ckpts h :)
theorem State.tally_of_unrecorded : t.tally = s.tally := (congrArg State.tally h :)
theorem State.expoDay_of_unrecorded : t.expoDay = s.expoDay := (congrArg State.expoDay h :)
theorem State.inflight_of_unrecorded : t.inflight = s.inflight := (congrArg State.inflight h :)
theorem State.memKept_of_unrecorded : s.MemKept t := .of_eq (congrArg State.mem h :) (congrArg State.poison h :)

end

theorem State.unrecorded_of_bare {s t : State} (h : t.bare = s.bare) : t.unrecorded = s.unrecorded := by
  rw [State.unrecorded, State.unrecorded, h]

/-! ### LIFE_FULL through a report -/

section
variable (s : State)

theorem State.fld_congr {s t : State} (h : t.regs = s.regs) (f : Fld) : t.fld f = s.fld f := State.fld_of_reg (State.reg_congr h _)

theorem State.lifeFull_setFld {f : Fld} (v : Nat) (h : f.apart EVR_STATUS_LIFE_FULL) (hf : f.lo + f.w ≤ 32) :
    (s.setFld f v).fld EVR_STATUS_LIFE_FULL = s.fld EVR_STATUS_LIFE_FULL := State.fld_setFld_apart _ _ _ _ h hf

theorem State.lifeFull_gcntRaw (n k : Nat) : (s.gcntRaw n k).fld EVR_STATUS_LIFE_FULL = s.fld EVR_STATUS_LIFE_FULL :=
  State.fld_of_reg (State.reg_gcntRaw ..)

theorem State.lifeFull_pushRec (type body : Nat) : (s.pushRec type body).fld EVR_STATUS_LIFE_FULL = s.fld EVR_STATUS_LIFE_FULL := by
  unfold State.pushRec
  generalize hq : s.formRec type body = q
  have hformed : q.1.fld EVR_STATUS_LIFE_FULL = s.fld EVR_STATUS_LIFE_FULL := by
    rw [← hq]
    exact s.lifeFull_setFld _ (.inl (by decide)) (by decide)
  obtain ⟨q, r⟩ := q
  simp only []
  rw [State.lifeFull_setFld _ _ (.inr (.inr (by decide))) (by decide), State.lifeFull_gcntRaw]
  exact hformed

theorem State.lifeFull_pushGap : s.pushGap.fld EVR_STATUS_LIFE_FULL = s.fld EVR_STATUS_LIFE_FULL := by
  unfold State.pushGap
  split
  · rfl
  · simp only []
    generalize hq : s.pushRec 0x12 _ = q
    have hpushed : q.fld EVR_STATUS_LIFE_FULL = s.fld EVR_STATUS_LIFE_FULL := hq ▸ s.lifeFull_pushRec ..
    exact (State.fld_congr (s := q) rfl _).trans hpushed

theorem State.lifeFull_stageRec (type body : Nat) :
    (s.stageRec type body).fld EVR_STATUS_LIFE_FULL = s.fld EVR_STATUS_LIFE_FULL := by
  have hpush : (s.pushGap.pushRec type body).fld EVR_STATUS_LIFE_FULL = s.fld EVR_STATUS_LIFE_FULL :=
    (State.lifeFull_pushRec ..).trans s.lifeFull_pushGap
  have hdrop : ((s.gcntRaw 0x251 1).setFld EVR_STATUS_DROP_SEEN 1).fld EVR_STATUS_LIFE_FULL = s.fld EVR_STATUS_LIFE_FULL :=
    (State.lifeFull_setFld _ _ (.inr (.inl (by decide))) (by decide)).trans (s.lifeFull_gcntRaw ..)
  have hrepeat : (s.gcntRaw 0x252 1).fld EVR_STATUS_LIFE_FULL = s.fld EVR_STATUS_LIFE_FULL := s.lifeFull_gcntRaw ..
  unfold State.stageRec
  split
  · simp only []
    generalize s.gcntRaw 0x252 1 = q at hrepeat ⊢
    generalize (s.gcntRaw 0x251 1).setFld EVR_STATUS_DROP_SEEN 1 = q' at hdrop ⊢
    split
    · split <;> exact (State.fld_congr (s := q) rfl _).trans hrepeat
    · split
      · exact (State.fld_congr (s := q') rfl _).trans hdrop
      · exact hpush
  · exact hpush

theorem State.lifeFull_gcount (n k : Nat) : (s.gcount n k).fld EVR_STATUS_LIFE_FULL = s.fld EVR_STATUS_LIFE_FULL := by
  unfold State.gcount
  simp only []
  split
  · rw [State.event, State.lifeFull_stageRec, State.lifeFull_setFld _ _ (.inl (by decide)) (by decide), State.lifeFull_gcntRaw]
  · exact s.lifeFull_gcntRaw ..

end

/-! ### The frame along the recorder's operations -/

section
variable {s t u : State}

theorem State.RecorderWork.refl (s : State) : s.RecorderWork s := ⟨rfl, .refl s _, rfl⟩

theorem State.RecorderWork.trans (h : s.RecorderWork t) (h' : t.RecorderWork u) : s.RecorderWork u :=
  ⟨h'.rest.trans h.rest, h.regs.trans h'.regs, h'.full.trans h.full⟩

/-- A change of what the recorder stores, or of what it has staged, is its own work. -/
theorem State.RecorderWork.stored (h : s.RecorderWork t) (recent life : Store (Option RecRec)) (dets : List Det) (detLog : List Nat)
    (lastFlush : Nat × Nat) (recLost : Bool) (staged : List RecRec) (rewrite : Option RecRec) (recDrops : Nat × Nat × Nat) :
    s.RecorderWork { t with recent := recent, life := life, dets := dets, detLog := detLog, lastFlush := lastFlush,
                            recLost := recLost, staged := staged, rewrite := rewrite, recDrops := recDrops } :=
  ⟨h.rest, h.regs.of_regs rfl, h.full⟩

theorem State.RecorderWork.of_bare (h : s.RecorderWork t) (hb : u.bare = t.bare) (hr : t.RegsKept u RecorderReg)
    (hf : u.fld EVR_STATUS_LIFE_FULL = t.fld EVR_STATUS_LIFE_FULL) : s.RecorderWork u :=
  h.trans ⟨State.unrecorded_of_bare hb, hr, hf⟩

theorem State.RecorderWork.setFld (h : s.RecorderWork t) {f : Fld} (v : Nat) (hf : RecorderReg f.addr) :
    s.RecorderWork (t.setFld f v) := by
  refine h.of_bare (State.bare_setFld ..) ((State.RegsKept.refl t _).setFld v hf) (State.fld_of_reg (State.reg_setFld_ne _ _ _ ?_))
  intro e
  rw [← e] at hf
  rcases hf with hf | hf | hf <;> exact absurd hf (by decide)

theorem State.RecorderWork.setStaged (h : s.RecorderWork t) (v : Nat) : s.RecorderWork (t.setFld EVR_STATUS_STAGED v) := by
  refine h.of_bare (State.bare_setFld ..) (fun a _ hr => State.reg_setFld_ne _ _ _ ?_)
    (State.lifeFull_setFld _ _ (.inr (.inr (by decide))) (by decide))
  rintro rfl
  exact absurd hr (by decide)

theorem State.RecorderWork.gcount (h : s.RecorderWork t) (n k : Nat) : s.RecorderWork (t.gcount n k) :=
  h.of_bare (State.bare_gcount ..) ((State.RegsKept.refl t _).gcount n k) (State.lifeFull_gcount ..)

theorem State.RecorderWork.nvm (h : s.RecorderWork t) (unit kind addr count : Nat) : s.RecorderWork (t.nvm unit kind addr count) :=
  h.of_bare (State.bare_detect ..) (fun _ _ _ => State.reg_detect ..) (State.fld_detect ..)

theorem State.RecorderWork.push (h : s.RecorderWork t) (type body : Nat) : s.RecorderWork (t.pushGap.pushRec type body) :=
  h.of_bare ((State.bare_pushRec ..).trans (State.bare_pushGap ..))
    (fun _ _ hr => (State.reg_pushRec _ _ _ hr).trans (State.reg_pushGap _ hr))
    ((State.lifeFull_pushRec ..).trans (State.lifeFull_pushGap ..))

theorem State.RecorderWork.foldl {α : Type} {f : State → α → State} (h : s.RecorderWork t) (l : List α)
    (hf : ∀ u x, s.RecorderWork u → s.RecorderWork (f u x)) : s.RecorderWork (l.foldl f t) :=
  List.foldlRecOn (motive := fun u => s.RecorderWork u) l f h fun u hu x _ => hf u x hu

theorem State.RecorderWork.recPut (h : s.RecorderWork t) (r : RecRec) : s.RecorderWork (t.recPut r) := by
  have htail (v : Nat) (l : Store (Option RecRec)) : s.RecorderWork ({ t with recent := l }.setFld EVR_RECENT_TAIL_TAIL v) :=
    (h.stored ..).setFld v (.inl rfl)
  unfold State.recPut
  simp only []
  split
  · exact ((htail ..).stored ..).setFld _ (.inr (.inl rfl))
  · exact htail ..

theorem State.RecorderWork.logCompact (h : s.RecorderWork t) : s.RecorderWork t.logCompact :=
  ((h.stored ..).setFld _ (.inr (.inr rfl))).gcount ..

theorem State.RecorderWork.logPut (h : s.RecorderWork t) (es : List Nat) : s.RecorderWork (t.logPut es) := by
  unfold State.logPut
  simp only []
  split
  · exact (h.logCompact.stored ..).setFld _ (.inr (.inr rfl))
  · exact (h.stored ..).setFld _ (.inr (.inr rfl))

theorem State.RecorderWork.logFlush (h : s.RecorderWork t) : s.RecorderWork t.logFlush := (h.stored ..).logPut _

/-! ### What stays -/

section
variable (h : s.RecorderWork t)
include h

theorem State.RecorderWork.ftime : t.ftime = s.ftime := (congrArg State.ftime h.rest :)

theorem State.RecorderWork.fld {f : Fld} (hf : ¬ RecorderReg f.addr) (hr : reportReg f.addr = false) : t.fld f = s.fld f :=
  h.regs.fld hf hr

theorem State.RecorderWork.day : t.fld EVR_DAY_DAY = s.fld EVR_DAY_DAY := h.fld (by unfold RecorderReg; decide) (by decide)
theorem State.RecorderWork.opmin : t.opmin = s.opmin := h.fld (f := EVR_OPMIN_OPMIN) (by unfold RecorderReg; decide) (by decide)
theorem State.RecorderWork.lifeCount : t.fld EVR_LIFE_COUNT_COUNT = s.fld EVR_LIFE_COUNT_COUNT :=
  h.fld (by unfold RecorderReg; decide) (by decide)

end

end

/-! ## The ring of the recent tier (R442) -/

section
variable (s : State) (r : RecRec)

/-- A record in the line at TAIL, and TAIL moved on. -/
def State.recTail : State :=
  { s with recent := storeSet none s.recent (s.fld EVR_RECENT_TAIL_TAIL) (some r) }.setFld EVR_RECENT_TAIL_TAIL
    ((s.fld EVR_RECENT_TAIL_TAIL + 1) % recentLines)

/-- The oldest record dropped, and HEAD moved on. -/
def State.recAged : State :=
  { s with recent := storeErase (s.fld EVR_RECENT_HEAD_HEAD) s.recent }.setFld EVR_RECENT_HEAD_HEAD
    ((s.fld EVR_RECENT_HEAD_HEAD + 1) % recentLines)

theorem State.recPut_eq : s.recPut r =
    if (s.fld EVR_RECENT_TAIL_TAIL + 1) % recentLines = (s.recTail r).fld EVR_RECENT_HEAD_HEAD then (s.recTail r).recAged
    else s.recTail r := rfl

theorem State.recent_recTail : (s.recTail r).recent = storeSet none s.recent (s.fld EVR_RECENT_TAIL_TAIL) (some r) := rfl

theorem State.recent_recAged : s.recAged.recent = storeErase (s.fld EVR_RECENT_HEAD_HEAD) s.recent := rfl

theorem State.lastFlush_recTail : (s.recTail r).lastFlush = s.lastFlush := by rw [State.recTail, State.lastFlush_setFld]

theorem State.lastFlush_recAged : s.recAged.lastFlush = s.lastFlush := by rw [State.recAged, State.lastFlush_setFld]

theorem State.head_recTail : (s.recTail r).fld EVR_RECENT_HEAD_HEAD = s.fld EVR_RECENT_HEAD_HEAD :=
  State.fld_setFld_apart _ _ _ _ (.inl (by decide)) (by decide)

theorem State.tail_recAged : s.recAged.fld EVR_RECENT_TAIL_TAIL = s.fld EVR_RECENT_TAIL_TAIL :=
  State.fld_setFld_apart _ _ _ _ (.inl (by decide)) (by decide)

/-- A place of the ring fits HEAD and TAIL. -/
theorem line_fits (n : Nat) : n % recentLines % 2 ^ 17 = n % recentLines :=
  Nat.mod_eq_of_lt (Nat.lt_trans (Nat.mod_lt n (by decide)) (by decide))

theorem State.tail_recTail : (s.recTail r).fld EVR_RECENT_TAIL_TAIL = (s.fld EVR_RECENT_TAIL_TAIL + 1) % recentLines :=
  (State.fld_setFld_self _ _ _ (by decide)).trans (line_fits _)

theorem State.head_recAged : s.recAged.fld EVR_RECENT_HEAD_HEAD = (s.fld EVR_RECENT_HEAD_HEAD + 1) % recentLines :=
  (State.fld_setFld_self _ _ _ (by decide)).trans (line_fits _)

theorem next_line_ne {n : Nat} (h : n < recentLines) : (n + 1) % recentLines ≠ n := by
  have hlt : n < 114688 := h
  change (n + 1) % 114688 ≠ n
  omega

theorem State.recPut_effect (hlt : s.fld EVR_RECENT_TAIL_TAIL < recentLines) :
    let tail := s.fld EVR_RECENT_TAIL_TAIL
    let head := s.fld EVR_RECENT_HEAD_HEAD
    let t := s.recPut r
    storeGet none t.recent tail = some r ∧ t.fld EVR_RECENT_TAIL_TAIL = (tail + 1) % recentLines ∧
    ((tail + 1) % recentLines = head → storeGet none t.recent head = none ∧ t.fld EVR_RECENT_HEAD_HEAD = (head + 1) % recentLines) ∧
    ((tail + 1) % recentLines ≠ head → t.fld EVR_RECENT_HEAD_HEAD = head) ∧
    (∀ i, i ≠ tail → i ≠ head → storeGet none t.recent i = storeGet none s.recent i) := by
  have hput (i : Nat) (hi : i ≠ s.fld EVR_RECENT_TAIL_TAIL) :
      storeGet none (s.recTail r).recent i = storeGet none s.recent i := by
    rw [State.recent_recTail, storeGet_set_ne _ _ _ _ hi]
  have hself : storeGet none (s.recTail r).recent (s.fld EVR_RECENT_TAIL_TAIL) = some r := by
    rw [State.recent_recTail, storeGet_set_self]
  have hne := next_line_ne hlt
  intro tail head t
  by_cases hfull : (tail + 1) % recentLines = head
  · have ht : t = (s.recTail r).recAged := (s.recPut_eq r).trans (if_pos (hfull.trans (s.head_recTail r).symm))
    have hrecent : t.recent = storeErase head (s.recTail r).recent := by
      rw [ht, State.recent_recAged, State.head_recTail]
    have htail : tail ≠ head := fun e => hne (hfull.trans e.symm)
    rw [hrecent, ht, State.tail_recAged, State.tail_recTail, State.head_recAged, State.head_recTail]
    exact ⟨(storeGet_erase_ne _ _ htail).trans hself, rfl, fun _ => ⟨storeGet_erase_self .., rfl⟩, absurd hfull,
      fun i hi hi' => (storeGet_erase_ne _ _ hi').trans (hput i hi)⟩
  · have ht : t = s.recTail r := (s.recPut_eq r).trans (if_neg fun e => hfull (e.trans (s.head_recTail r)))
    rw [ht]
    exact ⟨hself, s.tail_recTail r, fun e => absurd e hfull, fun _ => s.head_recTail r, fun i hi _ => hput i hi⟩

end

/-! ## The flush (R444) -/

section
variable (s : State)

/-- The flush is noted: its time, and its count. -/
def State.flushMarked : State := { s with lastFlush := (s.opmin, s.ftime) }.gcount 0x253 1

/-- The last line of the recent tier, written again with its repeats. -/
def State.lineRewritten : State :=
  match s.rewrite with
  | some r => { s with recent := storeSet none s.recent ((s.fld EVR_RECENT_TAIL_TAIL + recentLines - 1) % recentLines) (some r) }
  | none => s

/-- The staged records in the recent tier, `last` being the last of them. -/
def State.recordsWritten (last : RecRec) : State :=
  ({ s.lineRewritten.staged.foldl State.recPut s.lineRewritten with staged := [], rewrite := some last }).setFld EVR_STATUS_STAGED 0

/-- All that is staged in the recent tier. -/
def State.stagedWritten : State :=
  match s.staged.getLast? with
  | none => s
  | some last => s.recordsWritten last

theorem State.flushNow_eq : s.flushNow = s.logFlush.flushMarked.stagedWritten := by
  unfold State.flushNow State.stagedWritten State.recordsWritten State.lineRewritten State.flushMarked
  rfl

theorem State.stagedWritten_cases :
    (s.staged = [] ∧ s.stagedWritten = s) ∨ ∃ last, s.stagedWritten = s.recordsWritten last := by
  unfold State.stagedWritten
  split
  · next h => exact .inl ⟨List.getLast?_eq_none_iff.mp h, rfl⟩
  · exact .inr ⟨_, rfl⟩

theorem State.staged_stagedWritten : s.stagedWritten.staged = [] := by
  obtain ⟨hnone, e⟩ | ⟨last, e⟩ := s.stagedWritten_cases
  · rw [e, hnone]
  · rw [e]
    rfl

theorem State.lastFlush_recPut (r : RecRec) : (s.recPut r).lastFlush = s.lastFlush := by
  rw [State.recPut_eq]
  split
  · exact (s.recTail r).lastFlush_recAged.trans (s.lastFlush_recTail r)
  · exact s.lastFlush_recTail r

theorem State.lastFlush_lineRewritten : s.lineRewritten.lastFlush = s.lastFlush := by
  unfold State.lineRewritten
  split <;> rfl

theorem State.lastFlush_recordsWritten (last : RecRec) : (s.recordsWritten last).lastFlush = s.lastFlush :=
  List.foldlRecOn (motive := fun u => u.lastFlush = s.lastFlush) _ State.recPut s.lastFlush_lineRewritten
    fun u hu r _ => (u.lastFlush_recPut r).trans hu

theorem State.lastFlush_stagedWritten : s.stagedWritten.lastFlush = s.lastFlush := by
  obtain ⟨-, e⟩ | ⟨last, e⟩ := s.stagedWritten_cases
  · rw [e]
  · rw [e, State.lastFlush_recordsWritten]

theorem State.staged_flushNow : s.flushNow.staged = [] := by rw [State.flushNow_eq, State.staged_stagedWritten]

theorem State.RecorderWork.stagedWritten {s t : State} (h : s.RecorderWork t) : s.RecorderWork t.stagedWritten := by
  obtain ⟨-, e⟩ | ⟨last, e⟩ := t.stagedWritten_cases
  · rwa [e]
  · have hline : s.RecorderWork t.lineRewritten := by
      unfold State.lineRewritten
      split
      · exact h.stored ..
      · exact h
    rw [e]
    exact ((hline.foldl _ fun _ r hu => hu.recPut r).stored ..).setStaged 0

theorem State.RecorderWork.flushNow {s t : State} (h : s.RecorderWork t) : s.RecorderWork t.flushNow := by
  rw [State.flushNow_eq]
  exact ((h.logFlush.stored ..).gcount 0x253 1).stagedWritten

theorem State.lastFlush_flushNow : s.flushNow.lastFlush = (s.opmin, s.ftime) := by
  have hlog := (State.RecorderWork.refl s).logFlush
  rw [State.flushNow_eq, State.lastFlush_stagedWritten, State.flushMarked, State.lastFlush_gcount, hlog.opmin, hlog.ftime]

theorem State.RecorderWork.noteDrops {s t : State} (h : s.RecorderWork t) : s.RecorderWork t.noteDrops := by
  unfold State.noteDrops
  split
  · exact h.stored ..
  · split
    · exact h
    · exact (h.stored ..).nvm ..

/-- A record of a close, which flushes before it where staging is full. -/
theorem State.RecorderWork.closeRec {s t : State} (h : s.RecorderWork t) (type body : Nat) :
    s.RecorderWork (t.closeRec type body) := by
  unfold State.closeRec
  simp only []
  split
  · exact h.flushNow.push type body
  · exact h.push type body

/-- When a flush is due: by what is staged or by FLUSH_MIN, and a minute of fabric time since the last (R444). -/
def State.FlushDue : Prop :=
  (192 ≤ s.staged.length ∨ s.lastFlush.1 + min 60 (max 1 (s.fld EVR_CFG_FLUSH_MIN)) ≤ s.opmin) ∧
    s.lastFlush.2 + 240000000000 ≤ s.ftime

theorem State.remapLines_nil (s : State) : s.remapLines [] = s := rfl

theorem recorderFlush_idle {s : State} (h : ¬ s.FlushDue) : exec (.recorderFlush []) s = .next s := by
  change execRecorderFlush [] s = _
  unfold State.FlushDue at h
  exact if_neg (by simpa only [Bool.and_eq_true, Bool.or_eq_true, decide_eq_true_eq] using h)

theorem recorderFlush_flushes {s : State} (h : s.FlushDue) : exec (.recorderFlush []) s = .next s.noteDrops.flushNow := by
  change execRecorderFlush [] s = _
  unfold State.FlushDue at h
  exact (if_pos (by simpa only [Bool.and_eq_true, Bool.or_eq_true, decide_eq_true_eq] using h)).trans
    (congrArg _ (State.remapLines_nil _))

theorem recorderFlush_effect {s : State} (h : s.FlushDue) : Answers (exec (.recorderFlush []) s) fun t =>
    t.staged = [] ∧ t.lastFlush = (s.opmin, s.ftime) ∧ t.acc = s.acc ∧ s.MemKept t ∧ t.inflight = s.inflight := by
  have hnoted := (State.RecorderWork.refl s).noteDrops
  have hdone := hnoted.flushNow
  refine ⟨_, recorderFlush_flushes h, State.staged_flushNow _, ?_, State.acc_of_unrecorded hdone.rest,
    State.memKept_of_unrecorded hdone.rest, State.inflight_of_unrecorded hdone.rest⟩
  rw [State.lastFlush_flushNow, hnoted.opmin, hnoted.ftime]

end

/-! ## The minute (R433, R437) -/

/-- `s` without its accumulators. -/
def State.unbinned (s : State) : State := { s with acc := [], accExt := [] }

/-- `t` is `s` but for accumulators, and those of whole minutes, of boots and of the month's place are as before. -/
structure State.Binned (s t : State) : Prop where
  rest : t.unbinned = s.unbinned
  counts : ∀ k, kMinutes ≤ k → k < kLaneUe 0 → t.accGet k = s.accGet k

section
variable {s t : State}

theorem State.accGet_accAdd_self (s : State) (k n : Nat) : (s.accAdd k n).accGet k = s.accGet k + n := storeGet_set_self ..

theorem State.accGet_accAdd_ne (s : State) {k k' : Nat} (n : Nat) (h : k' ≠ k) : (s.accAdd k n).accGet k' = s.accGet k' :=
  storeGet_set_ne _ _ _ _ h

theorem State.Binned.refl (s : State) : s.Binned s := ⟨rfl, fun _ _ _ => rfl⟩

theorem State.Binned.accAdd (h : s.Binned t) {k : Nat} (n : Nat) (hk : k < kMinutes ∨ kLaneUe 0 ≤ k) : s.Binned (t.accAdd k n) :=
  ⟨h.rest, fun k' h1 h2 => (t.accGet_accAdd_ne n (by omega)).trans (h.counts k' h1 h2)⟩

theorem State.Binned.binAdd (h : s.Binned t) {k : Nat} (hk : k < kMonth) : s.Binned (t.binAdd k) := by
  have hlt : kMonth + k < kMinutes := by
    unfold kMonth kMinutes at *
    omega
  exact (h.accAdd 1 (.inl (by omega))).accAdd 1 (.inl hlt)

theorem State.Binned.extAdd (h : s.Binned t) (lt : Nat → Nat → Bool) (k hi hiT lo loT : Nat) :
    s.Binned (t.extAdd lt k hi hiT lo loT) := ⟨h.rest, h.counts⟩

theorem State.Binned.foldl {α : Type} {f : State → α → State} (h : s.Binned t) (l : List α)
    (hf : ∀ u, ∀ x ∈ l, s.Binned u → s.Binned (f u x)) : s.Binned (l.foldl f t) :=
  List.foldlRecOn (motive := fun u => s.Binned u) l f h fun u hu x hx => hf u x hx hu

theorem binTemp_lt {x v : Nat} (h : x < 64) : binTemp x (tempBin v) < kMonth := by
  have hbin : tempBin v ≤ 31 := by
    unfold tempBin
    simp only []
    split
    · omega
    · exact Nat.min_le_right ..
  unfold binTemp kMonth
  omega

theorem binRail_lt {r mv set : Nat} (h : r < 32) : binRail r (railBin mv set) < kMonth := by
  have hbin : railBin mv set ≤ 15 := by
    unfold railBin
    simp only []
    split
    · omega
    · exact Nat.min_le_left ..
  unfold binRail kMonth
  omega

theorem binLane_lt {x c n ue : Nat} (h : x < 96) : binLane x (laneBin c n ue) < kMonth := by
  have hbin : laneBin c n ue ≤ 7 := by
    unfold laneBin
    repeat' split
    all_goals decide
  unfold binLane kMonth
  omega

end

/-- What a minute bins of what was measured leaves its own counts alone. -/
theorem State.minuteBins_eq (s : State) {m : Minute} (htemps : ∀ x ∈ m.temps, x.1 < 64) (hrails : ∀ x ∈ m.rails, x.1 < 32)
    (hlanes : ∀ x ∈ m.lanes, x.1 < 96) :
    ∃ u, s.Binned u ∧ s.minuteBins m = (u.accAdd kMinutes 1).accAdd (kMinutes + kMonthOff) 1 := by
  refine ⟨_, ?_, rfl⟩
  refine ((State.Binned.foldl (State.Binned.foldl (State.Binned.foldl (.refl s) _ ?temps) _ ?rails) _ ?lanes).extAdd ..).extAdd ..
  case temps =>
    rintro u ⟨x, hi, hiT, lo, loT⟩ hx hu
    simp only []
    split
    · exact (hu.binAdd (binTemp_lt (htemps _ hx))).extAdd ..
    · exact hu
  case rails =>
    rintro u ⟨r, mean, hi, hiT, lo, loT⟩ hx hu
    exact (hu.binAdd (binRail_lt (hrails _ hx))).extAdd ..
  case lanes =>
    rintro u ⟨x, c, n, ue⟩ hx hu
    have hue : s.Binned (u.accAdd (kLaneUe x) ue) := hu.accAdd ue (.inr (by unfold kLaneUe; omega))
    simp only []
    split
    · exact hue.binAdd (binLane_lt (hlanes _ hx))
    · exact hue

theorem State.unbinned_accAdd (s : State) (k n : Nat) : (s.accAdd k n).unbinned = s.unbinned := rfl

/-- A minute counts itself in the day and in the month, and is else in the bins and extremes alone. -/
theorem State.minuteBins_counts (s : State) {m : Minute} (htemps : ∀ x ∈ m.temps, x.1 < 64) (hrails : ∀ x ∈ m.rails, x.1 < 32)
    (hlanes : ∀ x ∈ m.lanes, x.1 < 96) : (s.minuteBins m).unbinned = s.unbinned ∧
      (s.minuteBins m).accGet kMinutes = s.accGet kMinutes + 1 ∧
      (s.minuteBins m).accGet (kMinutes + kMonthOff) = s.accGet (kMinutes + kMonthOff) + 1 := by
  obtain ⟨u, hu, hbins⟩ := s.minuteBins_eq htemps hrails hlanes
  rw [hbins]
  refine ⟨by rw [State.unbinned_accAdd, State.unbinned_accAdd, hu.rest], ?_, ?_⟩
  · rw [State.accGet_accAdd_ne _ _ (by decide), State.accGet_accAdd_self, hu.counts _ (by decide) (by decide)]
  · rw [State.accGet_accAdd_self, State.accGet_accAdd_ne _ _ (by decide), hu.counts _ (by decide) (by decide)]

theorem State.bare_of_unbinned {s t : State} (h : t.unbinned = s.unbinned) :
    t.bare = { s.bare with acc := t.acc, accExt := t.accExt } :=
  (congrArg (fun x : State => { x.bare with acc := t.acc, accExt := t.accExt }) h :)

theorem State.regs_of_unbinned {s t : State} (h : t.unbinned = s.unbinned) : t.regs = s.regs := (congrArg State.regs h :)

theorem State.opRing_of_unbinned {s t : State} (h : t.unbinned = s.unbinned) : t.opRing = s.opRing := (congrArg State.opRing h :)

section
variable (s : State)

/-- OPMIN one further, and in the next line of the operating-time ring. -/
def State.minuteTaken : State := (s.setFld EVR_OPMIN_OPMIN (s.opmin + 1)).opRingWrite

theorem State.regs_opRingWrite : s.opRingWrite.regs = s.regs := rfl

theorem State.acc_opRingWrite : s.opRingWrite.acc = s.acc := rfl

theorem State.bare_opRingWrite : s.opRingWrite.bare = { s.bare with opRing := s.opRingWrite.opRing } := rfl

theorem State.opRing_opRingWrite (h : storeGet 0 s.opRing 1024 < 1024) :
    storeGet 0 s.opRingWrite.opRing (storeGet 0 s.opRing 1024) = s.opmin + 1 := by
  unfold State.opRingWrite
  simp only []
  rw [storeGet_set_ne _ _ _ _ (by omega), storeGet_set_self]

theorem State.opmin_opRingWrite : s.opRingWrite.opmin = s.opmin := State.fld_congr s.regs_opRingWrite _

theorem State.opmin_minuteTaken : s.minuteTaken.opmin = (s.opmin + 1) % 2 ^ 32 :=
  (State.opmin_opRingWrite _).trans (State.fld_setFld_self s EVR_OPMIN_OPMIN _ (by decide))

theorem State.opRing_minuteTaken (h : storeGet 0 s.opRing 1024 < 1024) :
    storeGet 0 s.minuteTaken.opRing (storeGet 0 s.opRing 1024) = s.minuteTaken.opmin + 1 := by
  unfold State.minuteTaken
  have hring := State.opRing_setFld s EVR_OPMIN_OPMIN (s.opmin + 1)
  generalize s.setFld EVR_OPMIN_OPMIN (s.opmin + 1) = u at hring ⊢
  rw [← hring] at h ⊢
  rw [State.opRing_opRingWrite _ h, State.opmin_opRingWrite]

theorem State.bare_minuteTaken : s.minuteTaken.bare = { s.bare with opRing := s.minuteTaken.opRing } := by
  unfold State.minuteTaken
  have hbare := State.bare_setFld s EVR_OPMIN_OPMIN (s.opmin + 1)
  generalize s.setFld EVR_OPMIN_OPMIN (s.opmin + 1) = u at hbare ⊢
  rw [← hbare]
  exact State.bare_opRingWrite u

theorem State.accGet_minuteTaken (k : Nat) : s.minuteTaken.accGet k = s.accGet k := by
  rw [State.minuteTaken, State.accGet, State.acc_opRingWrite, State.acc_setFld, State.accGet]

theorem State.regsKept_minuteTaken : s.RegsKept s.minuteTaken (fun a => a = EVR_OPMIN) :=
  (State.RegsKept.setFld (.refl s (fun a => a = EVR_OPMIN)) (f := EVR_OPMIN_OPMIN) _ rfl).of_regs (State.regs_opRingWrite _)

theorem opminTick_effect {s : State} {m : Minute} (hon : s.boot ≠ .off) (htemps : ∀ x ∈ m.temps, x.1 < 64)
    (hrails : ∀ x ∈ m.rails, x.1 < 32) (hlanes : ∀ x ∈ m.lanes, x.1 < 96) : Answers (exec (.opminTick m) s) fun t =>
      t.opmin = (s.opmin + 1) % 2 ^ 32 ∧ t.accGet kMinutes = s.accGet kMinutes + 1 ∧
        t.accGet (kMinutes + kMonthOff) = s.accGet (kMinutes + kMonthOff) + 1 ∧
        (storeGet 0 s.opRing 1024 < 1024 → storeGet 0 t.opRing (storeGet 0 s.opRing 1024) = t.opmin + 1) ∧
        t.bare = { s.bare with opRing := t.opRing, acc := t.acc, accExt := t.accExt } ∧ s.RegsKept t (fun a => a = EVR_OPMIN) := by
  obtain ⟨hrest, hday, hmonth⟩ := s.minuteTaken.minuteBins_counts htemps hrails hlanes
  have hexec : exec (.opminTick m) s = .next (s.minuteTaken.minuteBins m) := if_neg hon
  generalize s.minuteTaken.minuteBins m = t at hrest hday hmonth hexec
  have hregs := State.regs_of_unbinned hrest
  have hring := State.opRing_of_unbinned hrest
  have hopmin : t.opmin = s.minuteTaken.opmin := State.fld_congr hregs _
  rw [s.accGet_minuteTaken] at hday hmonth
  refine ⟨t, hexec, hopmin.trans s.opmin_minuteTaken, hday, hmonth, fun h => ?_, ?_, s.regsKept_minuteTaken.of_regs hregs⟩
  · rw [hring, hopmin, s.opRing_minuteTaken h]
  · rw [State.bare_of_unbinned hrest, s.bare_minuteTaken, hring]

end

/-! ## Records of the closes (R438, Table 15.4) -/

theorem State.dayRecords_types (s : State) : s.dayRecords.map (·.1) = 0x01 :: (List.replicate 128 0x02 ++ List.replicate 32 0x03 ++
    List.replicate 96 0x04 ++ List.replicate 96 0x05 ++ List.replicate s.tally.length 0x06 ++
    List.replicate s.sdeUnits.length 0x07) := by
  have hext : List.replicate 96 0x05 = List.replicate 64 0x05 ++ List.replicate 32 0x05 :=
    (List.replicate_append_replicate (n := 64) (m := 32)).symm
  unfold State.dayRecords
  rw [hext]
  simp only [List.map_append, List.map_map, List.map_cons, Function.comp_def, List.map_const', List.length_range,
    List.append_assoc, List.cons_append, List.nil_append]

theorem State.monthRecords_length (s : State) : s.monthRecords.length = 126 := by
  unfold State.monthRecords
  simp only [List.length_append, List.length_map, List.length_range, List.length_cons, List.length_nil]

/-! ## The day (R438) and the checkpoint (R440) -/

section
variable (s : State)

/-- The first record of the open month's days is known. -/
def State.monthBegun : State :=
  if s.accGet kFirstDay = 0 then { s with acc := storeSet 0 s.acc kFirstDay (s.fld EVR_RSEQ_RSEQ + 1) } else s

/-- The records of the day staged, in their order. -/
def State.dayStaged : State := s.monthBegun.dayRecords.foldl (fun t r => t.closeRec r.1 r.2) s.monthBegun

/-- The exposure of the day in the detection log. -/
def State.dayLogged : State := s.dayStaged.logPut s.dayStaged.expoEntries

/-- The day moved on. -/
def State.dayMoved : State := s.setFld EVR_DAY_DAY (s.fld EVR_DAY_DAY + 1)

theorem State.dayClose_eq : s.dayClose = s.dayLogged.dayClear.dayMoved.flushNow.checkpoint := rfl

theorem State.monthBegun_frame : s.monthBegun.regs = s.regs ∧ s.monthBegun.ckpts = s.ckpts ∧ s.MemKept s.monthBegun ∧
    s.monthBegun.inflight = s.inflight := by
  unfold State.monthBegun
  split <;> exact ⟨rfl, rfl, .of_eq rfl rfl, rfl⟩

theorem State.accGet_monthBegun {k : Nat} (hk : k ≠ kFirstDay) : s.monthBegun.accGet k = s.accGet k := by
  unfold State.monthBegun
  split
  · change storeGet 0 (storeSet 0 s.acc kFirstDay (s.fld EVR_RSEQ_RSEQ + 1)) k = storeGet 0 s.acc k
    exact storeGet_set_ne _ _ _ _ hk
  · rfl

theorem State.monthBegun_dayLogged : s.monthBegun.RecorderWork s.dayLogged :=
  ((State.RecorderWork.refl _).foldl _ fun _ r hu => hu.closeRec r.1 r.2).logPut _

/-- An accumulator of a cleared day: the month's stay, the day's are zero, and the count of drops begins at its counter. -/
theorem State.accGet_dayClear {k : Nat} (hk : k ≠ kDrops) : s.dayClear.accGet k = if monthKey k then s.accGet k else 0 :=
  (storeGet_set_ne _ _ _ _ hk).trans (storeGet_filter 0 s.acc monthKey k)

theorem State.regs_dayClear : s.dayClear.regs = s.regs := rfl

theorem State.dayClear_frame : s.dayClear.tally = [] ∧ s.dayClear.expoDay = [] ∧ s.dayClear.ckpts = s.ckpts ∧
    s.MemKept s.dayClear ∧ s.dayClear.inflight = s.inflight := ⟨rfl, rfl, rfl, .of_eq rfl rfl, rfl⟩

/-- A day whose records are staged and whose accumulators begin again. -/
theorem State.dayCleared_effect :
    let t := s.dayLogged.dayClear
    t.fld EVR_DAY_DAY = s.fld EVR_DAY_DAY ∧ t.opmin = s.opmin ∧ t.accGet kMinutes = 0 ∧
      t.accGet (kMinutes + kMonthOff) = s.accGet (kMinutes + kMonthOff) ∧ t.tally = [] ∧ t.expoDay = [] ∧ t.ckpts = s.ckpts ∧
      s.MemKept t ∧ t.inflight = s.inflight := by
  obtain ⟨hregs, hckpts, hmem, hfly⟩ := s.monthBegun_frame
  have hmonth := s.accGet_monthBegun (k := kMinutes + kMonthOff) (by decide)
  have hlogged := s.monthBegun_dayLogged
  generalize s.dayLogged = u at hlogged
  generalize s.monthBegun = v at *
  obtain ⟨htally, hexpo, hckpts', hmem', hfly'⟩ := u.dayClear_frame
  have hday : v.fld EVR_DAY_DAY = s.fld EVR_DAY_DAY := State.fld_congr hregs _
  have hopmin : v.opmin = s.opmin := State.fld_congr hregs _
  refine ⟨?_, ?_, u.accGet_dayClear (by decide), ?_, htally, hexpo, ?_,
    (hmem.trans (State.memKept_of_unrecorded hlogged.rest)).trans hmem', ?_⟩
  · rw [State.fld_congr u.regs_dayClear, hlogged.day, hday]
  · rw [State.opmin, State.fld_congr u.regs_dayClear]
    exact hlogged.opmin.trans hopmin
  · rw [u.accGet_dayClear (by decide), if_pos (by decide), State.accGet, State.acc_of_unrecorded hlogged.rest]
    exact hmonth
  · rw [hckpts', State.ckpts_of_unrecorded hlogged.rest, hckpts]
  · rw [hfly', State.inflight_of_unrecorded hlogged.rest, hfly]

theorem State.dayMoved_effect (h : s.fld EVR_DAY_DAY + 1 < 2 ^ 32) :
    s.dayMoved.fld EVR_DAY_DAY = s.fld EVR_DAY_DAY + 1 ∧ s.dayMoved.opmin = s.opmin :=
  ⟨(State.fld_setFld_self _ _ _ (by decide)).trans (Nat.mod_eq_of_lt h), State.fld_setFld_apart _ _ _ _ (.inl (by decide)) (by decide)⟩

theorem State.unrecorded_dayMoved : s.dayMoved.unrecorded = s.unrecorded := State.unrecorded_of_bare (State.bare_setFld ..)

theorem State.regs_checkpoint : s.checkpoint.regs = s.regs := rfl

theorem State.checkpoint_frame : s.checkpoint.acc = s.acc ∧ s.checkpoint.tally = s.tally ∧ s.checkpoint.expoDay = s.expoDay ∧
    s.checkpoint.staged = s.staged ∧ s.MemKept s.checkpoint ∧ s.checkpoint.inflight = s.inflight :=
  ⟨rfl, rfl, rfl, rfl, .of_eq rfl rfl, rfl⟩

theorem State.ckpts_checkpoint :
    let t := s.checkpoint
    t.ckpts = (⟨t.opmin, t.acc, t.accExt, t.tally, t.expoDay⟩ :: s.ckpts).take 4 := rfl

theorem dayClose_idle {s : State} (h : s.opmin % 1440 ≠ 0 ∨ s.opmin / 1440 ≤ s.fld EVR_DAY_DAY) : exec .dayClose s = .next s := by
  change execDayClose s = _
  refine if_neg ?_
  simp only [Bool.and_eq_true, decide_eq_true_eq]
  omega

theorem dayClose_closes {s : State} (hend : s.opmin % 1440 = 0) (hday : s.fld EVR_DAY_DAY < s.opmin / 1440) :
    exec .dayClose s = .next s.dayClose := by
  change execDayClose s = _
  exact if_pos (by simp only [Bool.and_eq_true, decide_eq_true_eq]; exact ⟨hend, hday⟩)

theorem dayClose_effect {s : State} (hend : s.opmin % 1440 = 0) (hday : s.fld EVR_DAY_DAY < s.opmin / 1440) :
    Answers (exec .dayClose s) fun t =>
      t.fld EVR_DAY_DAY = s.fld EVR_DAY_DAY + 1 ∧ t.opmin = s.opmin ∧ t.accGet kMinutes = 0 ∧ t.tally = [] ∧ t.expoDay = [] ∧
      t.staged = [] ∧ t.ckpts = (⟨t.opmin, t.acc, t.accExt, t.tally, t.expoDay⟩ :: s.ckpts).take 4 ∧
      t.accGet (kMinutes + kMonthOff) = s.accGet (kMinutes + kMonthOff) ∧ s.MemKept t ∧ t.inflight = s.inflight := by
  have hexec := dayClose_closes hend hday
  rw [State.dayClose_eq] at hexec
  obtain ⟨hopen, hopmin, hminutes, hmonth, htally, hexpo, hckpts, hmem, hfly⟩ := s.dayCleared_effect
  generalize s.dayLogged.dayClear = c at *
  have hlt : c.fld EVR_DAY_DAY + 1 < 2 ^ 32 := by
    have : s.opmin < 2 ^ 32 := s.fld_lt EVR_OPMIN_OPMIN
    omega
  obtain ⟨hnext, hsame⟩ := c.dayMoved_effect hlt
  have hflushed := (State.RecorderWork.refl c.dayMoved).flushNow
  have hstaged := c.dayMoved.staged_flushNow
  have hrest := hflushed.rest.trans c.unrecorded_dayMoved
  generalize c.dayMoved.flushNow = v at *
  obtain ⟨hacc, htally', hexpo', hstaged', hmem', hfly'⟩ := v.checkpoint_frame
  have hget (k : Nat) : v.checkpoint.accGet k = c.accGet k := by
    rw [State.accGet, State.accGet, hacc, State.acc_of_unrecorded hrest]
  refine ⟨v.checkpoint, hexec, ?_, ?_, (hget _).trans hminutes, ?_, ?_, hstaged'.trans hstaged, ?_, (hget _).trans hmonth,
    hmem.trans ((State.memKept_of_unrecorded hrest).trans hmem'), ?_⟩
  · rw [State.fld_congr v.regs_checkpoint, hflushed.day, hnext, hopen]
  · rw [State.opmin, State.fld_congr v.regs_checkpoint]
    exact hflushed.opmin.trans (hsame.trans hopmin)
  · rw [htally', State.tally_of_unrecorded hrest, htally]
  · rw [hexpo', State.expoDay_of_unrecorded hrest, hexpo]
  · rw [v.ckpts_checkpoint, State.ckpts_of_unrecorded hrest, hckpts]
  · rw [hfly', State.inflight_of_unrecorded hrest, hfly]

end

/-- When a checkpoint is due: each 60 minutes, and not twice at one of them (R440). -/
def State.CheckpointDue (s : State) : Prop := s.opmin % 60 = 0 ∧ ∀ c rest, s.ckpts = c :: rest → c.opmin ≠ s.opmin

theorem State.checkpointDue_iff (s : State) : s.CheckpointDue ↔
    (s.opmin % 60 = 0 && (match s.ckpts with | c :: _ => c.opmin != s.opmin | [] => true)) = true := by
  unfold State.CheckpointDue
  cases s.ckpts <;> simp

theorem accumulatorCheckpoint_idle {s : State} (h : ¬ s.CheckpointDue) : exec .accumulatorCheckpoint s = .next s :=
  if_neg (h ∘ s.checkpointDue_iff.mpr)

theorem accumulatorCheckpoint_writes {s : State} (h : s.CheckpointDue) : exec .accumulatorCheckpoint s = .next s.checkpoint :=
  if_pos (s.checkpointDue_iff.mp h)

/-! ## The month (R439) -/

section
variable (s : State)

/-- When a month is due: OPMIN at its end, its last day closed, and the month still open. -/
def State.MonthDue : Prop :=
  s.opmin % 43200 = 0 ∧ s.fld EVR_DAY_DAY = s.opmin / 1440 ∧ s.accGet kMonthIdx < s.opmin / 43200

/-- LIFE_FULL is set, with a record where it was not. -/
def State.lifeFullNoted : State :=
  if s.flag EVR_STATUS_LIFE_FULL then s else (s.setFld EVR_STATUS_LIFE_FULL 1).nvm 0x3F01 5 0xFFFFFFFF 1

/-- The records of the month: in the lifetime tier while they fit, and staged for the recent tier then on. -/
def State.monthStored : State :=
  if s.fld EVR_LIFE_COUNT_COUNT + 126 ≤ 16384 then s.monthRecords.foldl State.lifePut s
  else s.monthRecords.foldl (fun t r => t.closeRec r.1 r.2) s.lifeFullNoted

/-- The accumulators of the month begun again, those of the months before OPMIN being closed. -/
def State.monthClear : State :=
  { s with acc := storeSet 0 (s.acc.filter (fun c => !monthKey c.1)) kMonthIdx (s.opmin / 43200),
           accExt := s.accExt.filter (fun c => decide (c.1 < 0x100)) }

theorem monthClose_idle {s : State} (h : ¬ s.MonthDue) : exec .monthClose s = .next s := by
  change execMonthClose s = _
  unfold State.MonthDue at h
  exact if_neg (by simpa only [Bool.and_eq_true, decide_eq_true_eq, and_assoc] using h)

theorem monthClose_closes {s : State} (h : s.MonthDue) :
    exec .monthClose s = .next s.monthStored.flushNow.monthClear := by
  change execMonthClose s = _
  unfold State.MonthDue at h
  exact if_pos (by simpa only [Bool.and_eq_true, decide_eq_true_eq, and_assoc] using h)

/-! ### The lifetime tier -/

theorem State.formRec_fst (type body : Nat) : (s.formRec type body).1 = s.setFld EVR_RSEQ_RSEQ (s.fld EVR_RSEQ_RSEQ + 1) := rfl

theorem State.bare_formRec (type body : Nat) : (s.formRec type body).1.bare = s.bare := by rw [State.formRec_fst, State.bare_setFld]

theorem State.unrecorded_lifePut (r : Nat × Nat) : (s.lifePut r).unrecorded = s.unrecorded := by
  have hformed := State.unrecorded_of_bare (s.bare_formRec r.1 r.2)
  unfold State.lifePut
  generalize s.formRec r.1 r.2 = q at hformed
  obtain ⟨u, x⟩ := q
  exact (State.unrecorded_of_bare (State.bare_setFld ..)).trans hformed

theorem State.lifeCount_lifePut (r : Nat × Nat) :
    (s.lifePut r).fld EVR_LIFE_COUNT_COUNT = (s.fld EVR_LIFE_COUNT_COUNT + 1) % 2 ^ 15 :=
  State.fld_setFld_self _ _ _ (by decide)

theorem State.opmin_lifePut (r : Nat × Nat) : (s.lifePut r).opmin = s.opmin := by
  have hformed : (s.formRec r.1 r.2).1.opmin = s.opmin :=
    State.fld_setFld_apart s EVR_RSEQ_RSEQ EVR_OPMIN_OPMIN _ (.inl (by decide)) (by decide)
  unfold State.lifePut
  generalize s.formRec r.1 r.2 = q at hformed
  obtain ⟨u, x⟩ := q
  exact (State.fld_setFld_apart _ _ _ _ (.inl (by decide)) (by decide)).trans hformed

/-- Records that fit the lifetime tier are counted in it, one by one. -/
theorem State.lifePut_foldl {l : List (Nat × Nat)} {s : State} (h : s.fld EVR_LIFE_COUNT_COUNT + l.length ≤ 16384) :
    (l.foldl State.lifePut s).unrecorded = s.unrecorded ∧ (l.foldl State.lifePut s).opmin = s.opmin ∧
      (l.foldl State.lifePut s).fld EVR_LIFE_COUNT_COUNT = s.fld EVR_LIFE_COUNT_COUNT + l.length := by
  induction l generalizing s with
  | nil => exact ⟨rfl, rfl, rfl⟩
  | cons r l ih =>
    rw [List.length_cons] at h
    have hcount : (s.lifePut r).fld EVR_LIFE_COUNT_COUNT = s.fld EVR_LIFE_COUNT_COUNT + 1 :=
      (s.lifeCount_lifePut r).trans (Nat.mod_eq_of_lt (by omega))
    obtain ⟨hrest, hopmin, hlen⟩ := ih (s := s.lifePut r) (by omega)
    refine ⟨hrest.trans (s.unrecorded_lifePut r), hopmin.trans (s.opmin_lifePut r), ?_⟩
    rw [List.foldl_cons, hlen, hcount, List.length_cons]
    omega

theorem State.lifeFullNoted_effect : s.lifeFullNoted.unrecorded = s.unrecorded ∧ s.lifeFullNoted.opmin = s.opmin ∧
    s.lifeFullNoted.fld EVR_STATUS_LIFE_FULL = 1 := by
  unfold State.lifeFullNoted
  split
  · next h => exact ⟨rfl, rfl, beq_iff_eq.mp h⟩
  · exact ⟨State.unrecorded_of_bare ((State.bare_detect ..).trans (State.bare_setFld ..)),
      (State.fld_detect ..).trans (State.fld_setFld_apart _ _ _ _ (.inl (by decide)) (by decide)),
      (State.fld_detect ..).trans (State.fld_setFld_self _ _ _ (by decide))⟩

/-- The records of a month change nothing but the recorder; they are counted while they fit, and LIFE_FULL tells when they do not. -/
theorem State.monthStored_effect : s.monthStored.unrecorded = s.unrecorded ∧ s.monthStored.opmin = s.opmin ∧
    (s.fld EVR_LIFE_COUNT_COUNT + 126 ≤ 16384 → s.monthStored.fld EVR_LIFE_COUNT_COUNT = s.fld EVR_LIFE_COUNT_COUNT + 126) ∧
    (16384 < s.fld EVR_LIFE_COUNT_COUNT + 126 → s.monthStored.fld EVR_STATUS_LIFE_FULL = 1) := by
  unfold State.monthStored
  split
  · next hfit =>
    obtain ⟨hrest, hopmin, hcount⟩ := State.lifePut_foldl (l := s.monthRecords) (by rwa [s.monthRecords_length])
    rw [s.monthRecords_length] at hcount
    exact ⟨hrest, hopmin, fun _ => hcount, fun h => absurd hfit (Nat.not_le.mpr h)⟩
  · next hfull =>
    obtain ⟨hrest, hopmin, hset⟩ := s.lifeFullNoted_effect
    have hstaged := (State.RecorderWork.refl s.lifeFullNoted).foldl s.monthRecords fun _ r hu => hu.closeRec r.1 r.2
    exact ⟨hstaged.rest.trans hrest, hstaged.opmin.trans hopmin, fun h => absurd h hfull, fun _ => hstaged.full.trans hset⟩

/-! ### The close -/

theorem State.regs_monthClear : s.monthClear.regs = s.regs := rfl

theorem State.monthClear_frame : s.MemKept s.monthClear ∧ s.monthClear.inflight = s.inflight :=
  ⟨.of_eq rfl rfl, rfl⟩

theorem State.monthIdx_monthClear : s.monthClear.accGet kMonthIdx = s.opmin / 43200 := storeGet_set_self ..

/-- An accumulator of a cleared month: the day's stay, the month's are zero, and its place is the next one's. -/
theorem State.accGet_monthClear {k : Nat} (hk : k ≠ kMonthIdx) :
    s.monthClear.accGet k = if !monthKey k then s.accGet k else 0 :=
  (storeGet_set_ne _ _ _ _ hk).trans (storeGet_filter 0 s.acc (fun k => !monthKey k) k)

theorem monthClose_effect {s : State} (h : s.MonthDue) : Answers (exec .monthClose s) fun t =>
    t.accGet kMonthIdx = s.opmin / 43200 ∧ t.accGet (kMinutes + kMonthOff) = 0 ∧ t.accGet kMinutes = s.accGet kMinutes ∧
      (s.fld EVR_LIFE_COUNT_COUNT + 126 ≤ 16384 → t.fld EVR_LIFE_COUNT_COUNT = s.fld EVR_LIFE_COUNT_COUNT + 126) ∧
      (16384 < s.fld EVR_LIFE_COUNT_COUNT + 126 → t.flag EVR_STATUS_LIFE_FULL = true) ∧ s.MemKept t ∧ t.inflight = s.inflight := by
  have hexec := monthClose_closes h
  obtain ⟨hstored, hopmin, hcount, hfull⟩ := s.monthStored_effect
  have hflushed := (State.RecorderWork.refl s.monthStored).flushNow
  have hrest := hflushed.rest.trans hstored
  generalize s.monthStored.flushNow = v at *
  obtain ⟨hmem, hfly⟩ := v.monthClear_frame
  have hfld (f : Fld) : v.monthClear.fld f = v.fld f := State.fld_congr v.regs_monthClear f
  refine ⟨_, hexec, ?_, v.accGet_monthClear (by decide), ?_, fun hfit => ?_, fun hno => ?_,
    (State.memKept_of_unrecorded hrest).trans hmem, hfly.trans (State.inflight_of_unrecorded hrest)⟩
  · rw [v.monthIdx_monthClear, hflushed.opmin, hopmin]
  · rw [v.accGet_monthClear (by decide), if_pos (by decide), State.accGet, State.acc_of_unrecorded hrest, State.accGet]
  · rw [hfld, hflushed.lifeCount, hcount hfit]
  · rw [State.flag, hfld, hflushed.full, hfull hno]
    rfl

end

/-! ## The state copies (R447) -/

section
variable (s : State)

/-- When a state copy is due: something has changed, and none was written in this minute. -/
def State.CopyDue : Prop := s.uhsDirty = true ∧ s.copyMin ≠ s.opmin + 1

/-- The copy `c` in the place of sequence number `q`. -/
def State.copyPlaced (q : Nat) (c : HistCopy) : State :=
  { s with copies := storeSet none s.copies (q % 2) (some c), uhsDirty := false, copyMin := s.opmin + 1 }

theorem State.copyNow_eq :
    let q := s.fld UHS_STATE_SEQ_SEQ + 1
    ∃ c : HistCopy, s.copyNow = (s.copyPlaced q c).setFld UHS_STATE_SEQ_SEQ q ∧ c.seq = q ∧ c.units = s.uhs ∧
      c.guards = s.guards ∧ c.retires = s.retires := ⟨_, rfl, rfl, rfl, rfl, rfl⟩

theorem State.copies_copyPlaced (q : Nat) (c : HistCopy) :
    (s.copyPlaced q c).copies = storeSet none s.copies (q % 2) (some c) := rfl

theorem State.uhsDirty_copyPlaced (q : Nat) (c : HistCopy) : (s.copyPlaced q c).uhsDirty = false := rfl

theorem State.bare_copyPlaced (q : Nat) (c : HistCopy) : (s.copyPlaced q c).bare =
    { s.bare with copies := (s.copyPlaced q c).copies, uhsDirty := false, copyMin := s.opmin + 1 } := rfl

theorem State.regs_copyPlaced (q : Nat) (c : HistCopy) : (s.copyPlaced q c).regs = s.regs := rfl

theorem stateCopyWrite_idle {s : State} (h : ¬ s.CopyDue) : exec .stateCopyWrite s = .next s := by
  change execStateCopyWrite s = _
  unfold State.CopyDue at h
  exact if_neg (by rwa [Bool.and_eq_true, bne_iff_ne])

theorem stateCopyWrite_writes {s : State} (h : s.CopyDue) : exec .stateCopyWrite s = .next s.copyNow := by
  change execStateCopyWrite s = _
  unfold State.CopyDue at h
  exact if_pos (by rwa [Bool.and_eq_true, bne_iff_ne])

theorem stateCopyWrite_effect {s : State} (h : s.CopyDue) : Answers (exec .stateCopyWrite s) fun t =>
    let q := s.fld UHS_STATE_SEQ_SEQ + 1
    (∃ c, storeGet none t.copies (q % 2) = some c ∧ c.seq = q ∧ c.units = s.uhs ∧ c.guards = s.guards ∧ c.retires = s.retires) ∧
    (∀ i, i ≠ q % 2 → storeGet none t.copies i = storeGet none s.copies i) ∧ t.fld UHS_STATE_SEQ_SEQ = q % 2 ^ 32 ∧
    t.uhsDirty = false ∧ t.bare = { s.bare with copies := t.copies, uhsDirty := false, copyMin := s.opmin + 1 } ∧
    s.RegsKept t (fun a => a = UHS_STATE_SEQ) := by
  have hexec := stateCopyWrite_writes h
  obtain ⟨c, hcopy, hc⟩ := s.copyNow_eq
  rw [hcopy] at hexec
  generalize s.fld UHS_STATE_SEQ_SEQ + 1 = q at *
  have hcopies := s.copies_copyPlaced q c
  have hdirty := s.uhsDirty_copyPlaced q c
  have hbare := s.bare_copyPlaced q c
  have hregs := s.regs_copyPlaced q c
  generalize s.copyPlaced q c = u at *
  refine ⟨_, hexec, ⟨c, ?_, hc⟩, fun i hi => ?_, State.fld_setFld_self _ _ _ (by decide), ?_, ?_,
    ((State.RegsKept.refl s _).of_regs hregs).setFld q rfl⟩
  · rw [State.copies_setFld, hcopies, storeGet_set_self]
  · rw [State.copies_setFld, hcopies, storeGet_set_ne _ _ _ _ hi]
  · rw [State.uhsDirty_setFld, hdirty]
  · rw [State.bare_setFld, State.copies_setFld, hbare]

end

/-! ## The statement -/

/-- Settles O54: the minute, the closes, the checkpoint, the flush, the ring and the state copies each by what its own step does. -/
theorem theRecorderKeepsTime : Obligations.TheRecorderKeepsTime := by
  unfold Obligations.TheRecorderKeepsTime
  exact ⟨fun s m => ⟨fun hoff => if_pos hoff, opminTick_effect⟩, fun s => ⟨s.dayRecords_types, s.monthRecords_length⟩,
    fun s => ⟨dayClose_idle, dayClose_effect⟩, fun s => ⟨monthClose_idle, monthClose_effect⟩,
    fun s => ⟨accumulatorCheckpoint_idle, accumulatorCheckpoint_writes⟩, fun s => ⟨recorderFlush_idle, recorderFlush_effect⟩,
    fun s r htail _ => s.recPut_effect r htail, fun s => ⟨stateCopyWrite_idle, stateCopyWrite_effect⟩⟩

end Sys2Proof.Machine
